-- ==== Sys2Proof/Word.lean ====
section
/-! DEFINITION. The word types of the part and the shape of its sparse stores: a register is 32 bits (R7), a
descriptor word and a device address are 64 bits (R11, R25), memory is addressed by the byte (R26). -/

namespace Sys2Proof

/-- One byte of memory. -/
abbrev Byte := BitVec 8
/-- One register (R7). -/
abbrev Word := BitVec 32
/-- One descriptor word, device address or step number (R11, R25, R35). -/
abbrev DWord := BitVec 64
/-- One descriptor (R11). -/
abbrev Desc := BitVec 256
/-- One Locket record or slot (R435). -/
abbrev Slot64 := BitVec 512

/-- Data by a numeric key, in one canonical form: keys strictly rising, and no entry equal to what an unlisted key
reads as (Machine/Sparse.lean holds the form and the operations). -/
abbrev Sparse (α : Type) := List (Nat × α)

end Sys2Proof
end

