-- ==== Sys2Proof/Syntax.lean ====
section
/-! DEFINITION. The commands of the part: one constructor of `Instr` for each row of spec/opcode_table.json, with the
operands that name the unit it happens in and the values that come from outside (a data word, a packet, a
measurement). The row's rule stands beside each. -/

namespace Sys2Proof

/-- The three members of the family (R1). -/
inductive Part where
  | kx820 | kx420 | kx220
  deriving DecidableEq, Repr

/-- The block types with a register page (R29). Page MEM instance 4 is the transfer engine, `xfr`; the two kinds of
PWR page are `pwr` (per stack) and `pwrm` (module). -/
inductive Blk where
  | mx | vc | rng | smp | bead | fil | seq | arb | clp | tns | mbx | net | kxt | jk | mem | xfr | srm | bzl
  | lkt | pwr | pwrm | cal
  deriving DecidableEq, Repr

/-- A register page: the stack (15 for a module page), the block type and the logical instance (R29). -/
structure Page where
  stk : Nat
  blk : Blk
  inst : Nat
  deriving DecidableEq, Repr

/-- Who first made an access that reaches a page over Jukan (R385). -/
inductive Origin where
  | host
  | bezel (st : Fin 8)
  | mgmt (st : Fin 8)
  | seq (st : Fin 8) (n : Fin 4)
  deriving DecidableEq, Repr

/-- The requesters of a register access (R34), with the originator of one that crossed Jukan (R385). -/
inductive Requester where
  | bezel
  | mgmt
  | seq (n : Fin 4)
  | host
  | jukan (o : Origin)
  deriving DecidableEq, Repr

/-- One operation of a DATA payload: its 16-byte header's fields and its data (R359). -/
structure HostOp where
  opc : Byte
  flags : Byte
  req : BitVec 16
  status : BitVec 16
  addr : DWord
  data : List Byte
  deriving DecidableEq, Repr

/-- A KXT packet as it arrives: the header's fields and the bytes that follow it (R346). -/
structure Packet where
  magic : BitVec 16
  ver : Byte
  type : Byte
  dsid : Word
  pn : DWord
  seq : Word
  len : BitVec 16
  flags : Byte
  frag : Byte
  body : List Byte
  deriving DecidableEq, Repr

/-- A collective segment (R368). -/
structure Segment where
  chan : Nat
  phase : Nat
  flags : Byte
  rank : Nat
  round : Nat
  step : DWord
  index : Nat
  w : Int
  data : List Byte
  deriving DecidableEq, Repr

/-- A beat frame (R365). -/
structure BeatFrame where
  beat : BitVec 48
  edge : DWord
  period : DWord
  leader : Word
  deriving DecidableEq, Repr

/-- What start-up finds at the end of a stage: the LPDDR5X channels that failed training twice, as stack and channel
(R464), the stacks whose pairing answer was missing or wrong (R400), and whether fuse burning read back (R399). -/
structure StageReport where
  untrained : List (Nat × Nat)
  unpaired : List Nat
  fuseOk : Bool
  deriving DecidableEq, Repr

/-- The commands (spec/opcode_table.json). -/
inductive Instr where
  -- registers (R7, R9, R30 to R34)
  | registerWrite (r : Requester) (a : DWord) (v : Word)
  | rcRegisterRead (r : Requester) (a : DWord)
  | pairLoRead (r : Requester) (a : DWord)
  | pairLoWrite (r : Requester) (a : DWord) (v : Word)
  | blockEnable (r : Requester) (p : Page) (on : Bool)
  | quiesce (r : Requester) (p : Page) (on : Bool)
  | softRst (r : Requester) (p : Page)
  | softResetDone (p : Page)
  | evtClr (r : Requester) (p : Page) (v : Word)
  | descriptorAccept (st : Fin 8) (q : Nat)
  -- steps and the Clasp (R35 to R52)
  | openStep (r : Requester) (st : Fin 8)
  | reduceBegin (r : Requester) (st : Fin 8)
  | arm (r : Requester) (st : Fin 8)
  | abandon (r : Requester) (st : Fin 8)
  | openEval (r : Requester) (st : Fin 8)
  | closeEval (r : Requester) (st : Fin 8)
  | claspGateOpen
  | gateTimeout (st : Fin 8)
  | commitSequenceEnd (st : Fin 8)
  | voidSequenceEnd (st : Fin 8)
  | evalEventTaken (st : Fin 8)
  -- the Tense unit (R53 to R67); `t` is a time in picoseconds
  | tnsRun (r : Requester) (st : Fin 8)
  | tnsStop (r : Requester) (st : Fin 8)
  | beatEdge (st : Fin 8) (t : Nat)
  | edgeWindowExpiry (st : Fin 8)
  | tick (st : Fin 8)
  | tnsSlotCfg (r : Requester) (st : Fin 8) (v : Word)
  -- the matrix array (R92 to R136)
  | mxStream (st : Fin 8) (c : Fin 56)
  | mxPassRetire (st : Fin 8) (c : Fin 56)
  | mxLdb (st : Fin 8) (c : Fin 56)
  | mxDrain (st : Fin 8) (c : Fin 56)
  | mxFree (st : Fin 8) (c : Fin 56)
  | mxCfgWrite (r : Requester) (st : Fin 8) (c : Fin 56) (v : Word)
  -- the vector chain (R137 to R171)
  | vcRun (st : Fin 8) (c : Fin 56)
  | vcSetchain (st : Fin 8) (c : Fin 56)
  | vcSetvl (st : Fin 8) (c : Fin 56)
  | vcSave (st : Fin 8) (c : Fin 56)
  | vcRestore (st : Fin 8) (c : Fin 56)
  -- the Neighbourhood Sampler (R193 to R223)
  | smpOpen (st : Fin 8) (g : Fin 4)
  | smpSeeds (st : Fin 8) (g : Fin 4)
  | smpHop (st : Fin 8) (g : Fin 4)
  | smpClose (st : Fin 8) (g : Fin 4)
  | smpPrefix (st : Fin 8) (g : Fin 4)
  -- Bead, Filigree and the hot set (R224 to R265)
  | beadGather (st : Fin 8)
  | remoteRowRequest (home src : Fin 8) (table row : Nat)
  | beadSplit (st : Fin 8)
  | filScatter (st : Fin 8)
  | filContribution (home src : Fin 8)
  | filRead (st : Fin 8)
  | filExport (st : Fin 8)
  | filMerge (st : Fin 8)
  | filCfgWrite (r : Requester) (st : Fin 8) (off : Nat) (v : Word)
  | hotSetRefreshAdmit (st : Fin 8)
  | hotSetCopyDone (st : Fin 8) (i : Nat)
  | hotSetDirtyRecopy (st : Fin 8) (i : Nat)
  | hotSetSwitch (st : Fin 8)
  | hsEnable (r : Requester) (st : Fin 8)
  | hsDisable (r : Requester) (st : Fin 8)
  -- random generation (R266 to R285); `err` is what a failing generator adds to its result
  | keyCommitStep (r : Requester) (st : Fin 8)
  | keyCommitEval (r : Requester) (st : Fin 8)
  | keyDerivationDone (st : Fin 8)
  | reseed (r : Requester) (st : Fin 8) (c : Fin 56)
  | rngSelfCheck (st : Fin 8) (c : Fin 56) (err : BitVec 128)
  -- memories (R286 to R311); `ce` counts words found with a single-bit error
  | sramRepair (r : Requester) (st : Fin 8) (bank : BitVec 6)
  | sramRepairDone (st : Fin 8)
  | sramPatrol (st : Fin 8) (line : Nat) (ce : Nat)
  | lpddr5xPatrol (st : Fin 8) (dev : Fin 4) (line : Nat) (linkCe : Nat) (linkUe : Bool)
  | lpddr5xRetraining (st : Fin 8) (ch : Fin 16)
  | softRepair (r : Requester) (st : Fin 8) (dev : Fin 4)
  | softRepairDone (st : Fin 8) (dev : Fin 4)
  | regionWrite (r : Requester) (st : Fin 8) (v : Word)
  | xfrCopy (st : Fin 8) (ch : Fin 8)
  | xfrFill (st : Fin 8) (ch : Fin 8)
  | xfrCompress (st : Fin 8) (ch : Fin 8)
  | xfrExpand (st : Fin 8) (ch : Fin 8)
  | xfrToRegion (st : Fin 8) (ch : Fin 8)
  | xfrFromRegion (st : Fin 8) (ch : Fin 8)
  | xfrTilecopy (st : Fin 8) (ch : Fin 8)
  -- the plan sequencers (R312 to R328): the instruction is the one at the sequencer's pc
  | add (st : Fin 8) (q : Fin 4)
  | sub (st : Fin 8) (q : Fin 4)
  | and (st : Fin 8) (q : Fin 4)
  | or (st : Fin 8) (q : Fin 4)
  | xor (st : Fin 8) (q : Fin 4)
  | shl (st : Fin 8) (q : Fin 4)
  | shr (st : Fin 8) (q : Fin 4)
  | sar (st : Fin 8) (q : Fin 4)
  | mul (st : Fin 8) (q : Fin 4)
  | movhi (st : Fin 8) (q : Fin 4)
  | cmp (st : Fin 8) (q : Fin 4)
  | pset (st : Fin 8) (q : Fin 4)
  | br (st : Fin 8) (q : Fin 4)
  | call (st : Fin 8) (q : Fin 4)
  | jmp (st : Fin 8) (q : Fin 4)
  | halt (st : Fin 8) (q : Fin 4)
  | trap (st : Fin 8) (q : Fin 4)
  | ldd (st : Fin 8) (q : Fin 4)
  | std (st : Fin 8) (q : Fin 4)
  | ldg (st : Fin 8) (q : Fin 4)
  | ldgReturn (st : Fin 8) (q : Fin 4)
  | stg (st : Fin 8) (q : Fin 4)
  | rdr (st : Fin 8) (q : Fin 4)
  | rdrReturn (st : Fin 8) (q : Fin 4)
  | wrr (st : Fin 8) (q : Fin 4)
  | dwr (st : Fin 8) (q : Fin 4)
  | dins (st : Fin 8) (q : Fin 4)
  | dld (st : Fin 8) (q : Fin 4)
  | dst (st : Fin 8) (q : Fin 4)
  | push (st : Fin 8) (q : Fin 4)
  | pushQueueRoom (st : Fin 8) (q : Fin 4)
  | waitq (st : Fin 8) (q : Fin 4)
  | waitqDone (st : Fin 8) (q : Fin 4)
  | fence (st : Fin 8) (q : Fin 4)
  | fenceDone (st : Fin 8) (q : Fin 4)
  | waitdb (st : Fin 8) (q : Fin 4)
  | waitdbDone (st : Fin 8) (q : Fin 4)
  | time (st : Fin 8) (q : Fin 4)
  | waitpos (st : Fin 8) (q : Fin 4)
  | waitposDone (st : Fin 8) (q : Fin 4)
  | nop (st : Fin 8) (q : Fin 4)
  | seqWatchdog (st : Fin 8) (q : Fin 4)
  | seqLoad (r : Requester) (st : Fin 8) (q : Fin 4)
  | seqLoadDone (st : Fin 8) (q : Fin 4)
  | seqStart (r : Requester) (st : Fin 8) (q : Fin 4)
  | seqStop (r : Requester) (st : Fin 8) (q : Fin 4)
  | seqResume (r : Requester) (st : Fin 8) (q : Fin 4)
  | seqSave (r : Requester) (st : Fin 8) (q : Fin 4) (withData : Bool)
  | seqRestore (r : Requester) (st : Fin 8) (q : Fin 4)
  | seqCtxDone (st : Fin 8) (q : Fin 4)
  | seqClear (r : Requester) (st : Fin 8) (q : Fin 4)
  -- binding and the maintenance arbiter (R329 to R341, R422 to R428)
  | rebind (r : Requester) (st : Fin 8) (v : Word)
  | rebindScrub (st : Fin 8) (res : Nat)
  | rebindHandover (st : Fin 8) (res : Nat)
  | rebindDone (st : Fin 8) (res : Nat)
  | rebindForced (st : Fin 8) (res : Nat)
  | arbSubmit (r : Requester) (st : Fin 8) (v : Word)
  | activitySubmit (st : Fin 8) (sub act scope : Nat)
  | activityAdmit (st : Fin 8) (i : Nat)
  | activityEnd (st : Fin 8) (act scope : Nat)
  | queueTimeout (st : Fin 8) (i : Nat)
  | swapCutover (st : Fin 8) (act scope : Nat)
  | swapCopy (st : Fin 8) (act scope : Nat) (spareOk : Bool)
  | swapComplete (st : Fin 8) (act scope : Nat)
  | idleCoreTest (st : Fin 8) (phys : Fin 60) (sumOk : Bool)
  | heartbeatCheck (st : Fin 8)
  | pairingCheck (st : Fin 8) (answerOk : Bool)
  -- Ethernet and Kearax Transport (R342 to R372)
  | linkUp (st : Fin 8) (port : Fin 2) (link : Fin 4)
  | linkDown (st : Fin 8) (port : Fin 2) (link : Fin 4)
  | netCfgWrite (r : Requester) (st : Fin 8) (port : Fin 2) (v : Word)
  | pauseFrame (st : Fin 8) (port : Fin 2) (link : Fin 4) (pfc : Option Byte)
  | hsInit (st : Fin 8) (port : Fin 2) (link : Fin 4) (body : List Byte) (rnd : List Byte)
  | hsResp (st : Fin 8) (ctx : Nat) (body : List Byte)
  | hsReject (st : Fin 8) (ctx : Nat) (status : BitVec 16)
  | data (st : Fin 8) (port : Fin 2) (link : Fin 4) (p : Packet) (ce : Bool)
  | ack (st : Fin 8) (p : Packet) (sampleNs : Nat)
  | close (st : Fin 8) (p : Packet)
  | closeAck (st : Fin 8) (p : Packet)
  | reset (st : Fin 8) (ctx : Nat)
  | hsTimeout (st : Fin 8) (ctx : Nat)
  | rtoExpiry (st : Fin 8) (ctx : Nat) (seq : Word)
  | failedTimeout (st : Fin 8) (ctx : Nat)
  | ackDelay (st : Fin 8) (ctx : Nat)
  | ccPeriod (st : Fin 8) (ctx : Nat)
  | kxtOpenGo (r : Requester) (st : Fin 8)
  | regRd (st : Fin 8) (ctx : Nat) (op : HostOp)
  | regWr (st : Fin 8) (ctx : Nat) (op : HostOp)
  | memWr (st : Fin 8) (ctx : Nat) (op : HostOp)
  | memRd (st : Fin 8) (ctx : Nat) (op : HostOp)
  | planLoad (st : Fin 8) (ctx : Nat) (op : HostOp)
  | planStart (st : Fin 8) (ctx : Nat) (op : HostOp)
  | mbxWr (st : Fin 8) (ctx : Nat) (op : HostOp)
  | mbxWrReply (st : Fin 8) (i : Nat)
  | doorbell (st : Fin 8) (ctx : Nat) (op : HostOp)
  | kxtNop (st : Fin 8) (ctx : Nat) (op : HostOp)
  | mbxEventSend (st : Fin 8) (page : Fin 4)
  | checkpointStreamStart (st : Fin 8)
  | ckptAck (st : Fin 8) (ctx : Nat) (step : DWord) (status : BitVec 16)
  | beat (ctx : Nat) (f : BeatFrame) (now : DWord)
  | chanReady (r : Requester) (st : Fin 8) (v : Word)
  | collStartSegment (st : Fin 8) (ctx : Nat) (g : Segment)
  | collReduceSegment (st : Fin 8) (ctx : Nat) (g : Segment)
  | collGatherSegment (st : Fin 8) (ctx : Nat) (g : Segment)
  | collVoteSegment (st : Fin 8) (ctx : Nat) (g : Segment)
  | collTimeout (st : Fin 8) (c : Fin 16)
  -- Jukan (R19 to R22, R373, R374)
  | jkSend (st : Fin 8) (port : Fin 3)
  | jkReduceLp (st : Fin 8) (port : Fin 3)
  | jkSignal (st : Fin 8) (port : Fin 3)
  | linkError (st : Fin 8) (port : Fin 3)
  -- mailboxes and doorbells (R380 to R394)
  | mbxSend (r : Requester) (st : Fin 8) (mb : Fin 64) (v : Word)
  | mbxReceive (r : Requester) (st : Fin 8) (mb : Fin 64)
  | mbxTimeout (st : Fin 8) (mb : Fin 64)
  | mbxDbSet (r : Requester) (st : Fin 8) (mb : Fin 64) (v : Word)
  -- the Bezel (R395 to R417)
  | identity (r : Requester) (st : Fin 8)
  | attest (r : Requester) (st : Fin 8)
  | custody (r : Requester) (st : Fin 8)
  | wipeComplete
  | config (r : Requester) (st : Fin 8)
  | sealEk (r : Requester) (st : Fin 8)
  | sealKey (r : Requester) (st : Fin 8)
  | sealDrop (r : Requester) (st : Fin 8)
  | debug (r : Requester) (st : Fin 8)
  | fwUpdate (r : Requester) (st : Fin 8)
  -- the Locket (R435 to R449); `win` false is window A, true window B; `aged`: the oldest request has waited 1 ms
  | locketWrite (aged verifyOk : Bool)
  | locketScanDone
  | locketCursorWrite (r : Requester) (win : Bool) (lo : Word)
  | locketWindowLoadDone (win : Bool) (eccOk : Bool)
  | locketWin15Read (r : Requester) (win : Bool)
  | locketSnap (r : Requester) (win : Bool)
  | lktFwGo (r : Requester)
  | restoreBlock (word : Word)
  -- power, resets, clocks and start-up (R450 to R473, R478)
  | powerOnReset
  | resetN
  | powerFail (undervoltage : Bool)
  | powerFailCleared
  | pwrCtlReset (r : Requester) (st : Fin 8)
  | refclkLoss (eth : Bool)
  | refclkReturn
  | pllLock (st : Fin 8) (computeDie : Bool)
  | pwrDomReq (r : Requester) (st : Fin 8) (v : Word)
  | domainPowerUp (dom : Nat)
  | domainFailed (dom : Nat)
  | powerCapWindow (tenthWatts : List Nat) (avsFail : List (Nat × Nat))
  | levelRaiseSwitch (st : Fin 8) (avsFail : Option Nat)
  | thermalLevelUpdate (st : Fin 8) (quarterC : Int) (avsFail : Option Nat)
  | thermAlert (st : Fin 8) (quarterC : Int)
  | thermtrip (st : Fin 8) (quarterC : Int)
  | pwrSleep (r : Requester) (v : Word)
  | sleepEntered
  | wake (src : Fin 7)
  | ppsIn
  | rtcSet (r : Requester) (lo : Word)
  | rtcDisciplineTimeout
  | startupStageDone (rep : StageReport)
  | calCopy (r : Requester)
  | calCommit (r : Requester)
  | calCommitDone (verifyOk : Bool)
  | calDiscard (r : Requester)
  -- board management (R482, R483)
  | i3cPrivateWrite (bytes : List Byte)
  | i3cPrivateRead
  | resetNRelease
  | ethRefclkReturn
  | domainPowerDown (dom : Nat)
  | thermAlertClear
  | sleepBeatCount (st : Fin 8)
  | jukanLaneFailed (st : Fin 8) (port : Fin 3) (group : Fin 4)
  | commonCommandCode (ccc : Byte) (arg : Byte)
  -- frames of other protocols (R343)
  | icmpEcho (st : Fin 8) (port : Fin 2) (link : Fin 4) (v6 : Bool) (dst : BitVec 128) (body : List Byte)
  | neighbourDiscovery (st : Fin 8) (port : Fin 2) (link : Fin 4) (v6 : Bool) (target : BitVec 128)
  | ptpEventMessage (st : Fin 8) (port : Fin 2) (link : Fin 4) (offset : DWord)
  | droppedFrame (st : Fin 8) (port : Fin 2) (link : Fin 4)
  deriving DecidableEq, Repr

end Sys2Proof
end

