-- ==== Sys2Proof/Config.lean ====
section
/-! DEFINITION. What an implementation fixes and what the spec leaves open: every constant here is opaque, so no
proof can see a value of it, and a claim about it holds whatever it is. -/

namespace Sys2Proof.Config

/-- A value the spec leaves open (assumption 2): the `n`-th one drawn by the run. Never evaluated. -/
opaque freeWord : Nat → DWord

/-- What LPDDR5X byte `addr` reads as after its key was discarded for the `epoch`-th time (R296: "unpredictable
plaintext"; assumption 4). -/
opaque freeByte : Nat → Nat → Byte

/-- The nanoseconds, cycles or picoseconds that have passed when the run takes its `n`-th measure of time
(assumption 3). -/
opaque freeElapsed : Nat → DWord

/-- SHAKE256 of FIPS 202 (R6): the message and the output length in bytes (assumption 6). -/
opaque shakeRaw : List Byte → Nat → List Byte

/-- The ML-DSA-65 public key formed from a 32-byte seed, FIPS 204 (R395; assumption 6). -/
opaque dsaPublicKey : List Byte → List Byte

/-- The ML-DSA-65 signature under a seed's key, over a message, with a context string (R396; assumption 6). -/
opaque dsaSign : (seed msg ctx : List Byte) → List Byte

/-- Whether an ML-DSA-65 signature verifies under a public key and a context string (R396; assumption 6). -/
opaque dsaVerify : (pk msg ctx sig : List Byte) → Bool

/-- The ML-KEM-768 encapsulation key of the pair formed from `d` and `z`, FIPS 203 (R395; assumption 6). -/
opaque kemEncapsKey : (d z : List Byte) → List Byte

/-- ML-KEM-768 encapsulation to a key with 32 random bytes: the ciphertext and the shared secret (R352). -/
opaque kemEncaps : (ek rnd : List Byte) → List Byte × List Byte

/-- ML-KEM-768 decapsulation under the pair of `d` and `z` (R410, R354; assumption 6). -/
opaque kemDecaps : (d z ct : List Byte) → List Byte

/-- AES-256-GCM sealing: key, nonce, additional data and plaintext give ciphertext followed by the 16-byte tag
(R346, R411; assumption 6). -/
opaque gcmSeal : (key nonce aad pt : List Byte) → List Byte

/-- AES-256-GCM opening of ciphertext and tag: none where the tag fails (R346, R411; assumption 6). -/
opaque gcmOpen : (key nonce aad ct : List Byte) → Option (List Byte)

/-- The value a function of the stage palette takes where the search of assumption 7 has not separated it from a
rounding boundary: the variant and the operand's code. -/
opaque funcBoundary : Nat → Word → Word

/-- NET_CFG.MODE of a module port in the NET section of a CAL image, whose layout the spec does not give (R467;
assumption 5). -/
opaque calMode : (sect : List Byte) → (port : Nat) → Nat

/-- The MAC address of a module link in the NET section (R467; assumption 5). -/
opaque calMac : (sect : List Byte) → (link : Nat) → BitVec 48

/-- The voltage of a stack's level in millivolts, in the VOLTAGE section (R467; assumption 5). -/
opaque calVolt : (sect : List Byte) → (stack level : Nat) → Nat

/-- A register of the spare maps and dead marks of a stack, by page type and offset, in the SPARES section (R467;
assumption 5). -/
opaque calSpare : (sect : List Byte) → (stack type off : Nat) → Word

end Sys2Proof.Config
end

