-- ==== Sys2Proof/Machine/RegTable.lean ====
section
/-! DEFINITION. The register tables of the manual: for each block, each register's offset, and each field's bits, access
type, After reset value and legal range (R7, R10, R11, R30 and the rule named beside each block). A value the manual
gives as CAL, Fuse or Kept stands here at the value of assumption 5. -/

namespace Sys2Proof.Machine

/-- The access types of R7. -/
inductive Access where
  | ro | rw | w1c | w1s | wo | rc
  deriving DecidableEq, Repr

/-- A field: its bits, access type, After reset value, and the least and greatest legal value (R10). -/
structure FieldSpec where
  hi : Nat
  lo : Nat
  acc : Access
  reset : Nat
  min : Nat := 0
  max : Nat := 0xFFFFFFFF
  deriving DecidableEq, Repr

/-- A register, or `count` registers `stride` bytes apart. -/
structure RegSpec where
  off : Nat
  count : Nat
  stride : Nat
  fields : List FieldSpec
  deriving DecidableEq, Repr

/-- Short forms for the tables. -/
def ro (hi lo r : Nat) : FieldSpec := { hi, lo, acc := .ro, reset := r }
def rw_ (hi lo r : Nat) : FieldSpec := { hi, lo, acc := .rw, reset := r }
def rwIn (hi lo r min max : Nat) : FieldSpec := { hi, lo, acc := .rw, reset := r, min, max }
def w1c (hi lo : Nat) : FieldSpec := { hi, lo, acc := .w1c, reset := 0 }
def w1s (hi lo : Nat) : FieldSpec := { hi, lo, acc := .w1s, reset := 0 }
def wo (hi lo : Nat) : FieldSpec := { hi, lo, acc := .wo, reset := 0 }
def rc (hi lo : Nat) : FieldSpec := { hi, lo, acc := .rc, reset := 0 }
def one (off : Nat) (fs : List FieldSpec) : RegSpec := { off, count := 1, stride := 4, fields := fs }
def many (off count stride : Nat) (fs : List FieldSpec) : RegSpec := { off, count, stride, fields := fs }

/-- The common header (R30). -/
def regsHeader : List RegSpec :=
  [ one 0x000 [ro 31 16 0, ro 15 8 0, ro 7 0 1]  -- BLK_ID
  , one 0x004 [ro 15 0 0]  -- BLK_REV
  , one 0x008 [rw_ 0 0 0, w1s 1 1, rw_ 2 2 0]  -- BLK_CTRL
  , one 0x00C [ro 0 0 0, ro 1 1 0, ro 2 2 0, ro 3 3 0]  -- BLK_STAT
  , one 0x010 [ro 31 0 0]  -- EVT_RAW
  , one 0x014 [rw_ 31 0 0]  -- EVT_EN
  , one 0x018 [ro 31 0 0]  -- EVT_PEND
  , one 0x01C [w1c 31 0]  -- EVT_CLR
  , one 0x020 [ro 7 0 0, ro 15 8 0, ro 31 16 0]  -- FAULT_CODE
  , one 0x024 [ro 31 0 0]  -- FAULT_INFO
  , one 0x028 [ro 31 0 0]  -- FAULT_ADDR_LO
  , one 0x02C [ro 19 0 0]  -- FAULT_ADDR_HI
  , one 0x030 [rw_ 15 0 0, rw_ 31 31 0]  -- BIND
  , one 0x034 [ro 2 0 0, ro 31 16 0]  -- BIND_STAT
  ]

/-- The registers of a CLP page (R66). -/
def regsClp : List RegSpec :=
  [ one 0x040 [wo 3 0]  -- CLP_CMD
  , one 0x044 [rw_ 15 0 1, rw_ 21 16 0, rw_ 26 22 0]  -- CLP_CFG
  , one 0x048 [rw_ 7 0 0]  -- CLP_LIMIT
  , one 0x04C [ro 2 0 0, ro 3 3 0, ro 4 4 0, ro 5 5 0, ro 6 6 0, ro 7 7 0, ro 8 8 0, ro 9 9 0, ro 31 16 0]  -- CLP_STAT
  , one 0x050 [ro 31 0 0]  -- CLP_STEP_LO
  , one 0x054 [ro 31 0 0]  -- CLP_STEP_HI
  , one 0x058 [ro 31 0 0]  -- CLP_COMMITTED_LO
  , one 0x05C [ro 31 0 0]  -- CLP_COMMITTED_HI
  , one 0x060 [ro 31 0 0]  -- CLP_EVAL_LO
  , one 0x064 [ro 31 0 0]  -- CLP_EVAL_HI
  , one 0x068 [ro 31 0 0]  -- CLP_LOSS
  , one 0x06C [ro 15 0 0xffff]  -- CLP_LOSS_MB
  , one 0x070 [ro 31 0 0]  -- CLP_LAST_POS_LO
  , one 0x074 [ro 31 0 0]  -- CLP_LAST_POS_HI
  ] ++ [ one 0x078 [ro 31 0 0]  -- CLP_LATE
  , one 0x07C [ro 31 0 0]  -- CLP_DURATION
  , one 0x080 [ro 31 0 0]  -- CLP_VOID_CNT
  ]

/-- The registers of a TNS page (R67). -/
def regsTns : List RegSpec :=
  [ one 0x040 [rwIn 1 0 0 0 2, rw_ 2 2 0, rwIn 6 4 2 0 4, rwIn 31 16 0x200 1 65535]  -- TNS_CTRL
  , one 0x044 [ro 2 0 0, ro 6 4 0]  -- TNS_STAT
  , one 0x048 [ro 31 0 0]  -- TNS_POS_LO
  , one 0x04C [ro 31 0 0]  -- TNS_POS_HI
  , one 0x050 [rw_ 31 0 0]  -- TNS_BEAT_SET_LO
  , one 0x054 [rw_ 15 0 0]  -- TNS_BEAT_SET_HI
  , one 0x058 [ro 31 0 0]  -- TNS_PERIOD_LO
  , one 0x05C [ro 31 0 0]  -- TNS_PERIOD_HI
  , one 0x060 [ro 23 0 0]  -- TNS_PHASE_ERR
  , one 0x064 [rc 31 0]  -- TNS_STRAY_CNT
  , one 0x080 [rw_ 7 0 0]  -- TNS_SLOT_SEL
  , one 0x084 [rw_ 31 0 0]  -- TNS_SLOT_POS_LO
  , one 0x088 [rw_ 31 0 0]  -- TNS_SLOT_POS_HI
  , one 0x08C [rw_ 31 0 0]  -- TNS_SLOT_PERIOD_LO
  ] ++ [ one 0x090 [rw_ 31 0 0]  -- TNS_SLOT_PERIOD_HI
  , one 0x094 [rw_ 0 0 0, rw_ 1 1 0, rw_ 7 4 0, rw_ 15 8 0, rw_ 20 16 0]  -- TNS_SLOT_CFG
  , one 0x098 [w1c 0 0, w1c 1 1, w1c 2 2, ro 15 8 0, ro 31 16 0]  -- TNS_SLOT_STAT
  , one 0x09C [ro 7 0 0, ro 8 8 1]  -- TNS_NEXT
  ]

/-- The registers of a MX page (R115). -/
def regsMx : List RegSpec :=
  [ one 0x040 [rw_ 0 0 0, rw_ 1 1 0, rw_ 3 2 3]  -- MX_CFG
  , one 0x044 [ro 0 0 0, ro 1 1 0, ro 2 2 0, ro 3 3 0, w1c 4 4, ro 13 8 0]  -- MX_STAT
  , one 0x048 [ro 7 0 0, ro 15 8 0, ro 23 16 0]  -- MX_TILE_STAT
  , one 0x04C [w1c 7 0, w1c 15 8, w1c 23 16]  -- MX_TILE_FLAGS
  , one 0x050 [ro 9 0 0, ro 25 16 0]  -- MX_TILE_W01
  , one 0x054 [ro 9 0 0, ro 25 16 0]  -- MX_TILE_W23
  , one 0x058 [ro 0 0 0, ro 1 1 0, ro 5 2 0, ro 9 6 0, ro 11 10 0, ro 13 12 0]  -- MX_BANK_STAT
  , one 0x05C [ro 12 0 0, ro 28 16 0]  -- MX_BANK_ROWS
  , one 0x060 [rw_ 31 0 0xffffffff]  -- MX_ROWMASK_0
  , one 0x064 [rw_ 31 0 0xffffffff]  -- MX_ROWMASK_1
  , one 0x068 [rw_ 31 0 0xffffffff]  -- MX_ROWMASK_2
  , one 0x06C [rw_ 31 0 0xffffffff]  -- MX_ROWMASK_3
  , one 0x070 [ro 31 0 0]  -- MX_ACCEPT_CNT
  , one 0x074 [ro 31 0 0]  -- MX_RETIRE_CNT
  ] ++ [ one 0x078 [rc 31 0]  -- MX_REPEAT_CNT
  , one 0x07C [rc 31 0]  -- MX_ECC_CNT
  , one 0x080 [ro 31 0 0]  -- MX_FEED_CYC_LO
  , one 0x084 [ro 31 0 0]  -- MX_FEED_CYC_HI
  , one 0x088 [ro 31 0 0]  -- MX_SLICE_CNT_LO
  , one 0x08C [ro 31 0 0]  -- MX_SLICE_CNT_HI
  , one 0x090 [ro 15 0 0]  -- MX_TILE_SHAPE
  ]

/-- The registers of a VC page (R168). -/
def regsVc : List RegSpec :=
  [ one 0x040 [ro 0 0 0, ro 1 1 0, ro 2 2 0, ro 13 8 0, ro 19 16 0]  -- VC_STAT
  , one 0x044 [w1c 0 0, w1c 1 1, w1c 2 2, w1c 3 3, w1c 4 4, w1c 5 5, w1c 6 6, w1c 7 7]  -- VC_STICKY
  , one 0x048 [ro 15 0 0]  -- VC_VL
  , one 0x04C [ro 31 0 0]  -- VC_ACCEPT_CNT
  , one 0x050 [ro 31 0 0]  -- VC_RETIRE_CNT
  , one 0x054 [ro 31 0 0]  -- VC_ELEM_CNT_LO
  , one 0x058 [ro 31 0 0]  -- VC_ELEM_CNT_HI
  , one 0x05C [ro 31 0 0]  -- VC_LOSS_CNT
  , one 0x060 [rc 31 0]  -- VC_ECC_CNT
  ]

/-- The registers of a RNG page (R282, R283). -/
def regsRng : List RegSpec :=
  [ one 0x040 [rw_ 0 0 0, wo 1 1]  -- RNG_CTRL
  , one 0x044 [ro 31 0 0]  -- RNG_DRAW_CNT_LO
  , one 0x048 [ro 31 0 0]  -- RNG_DRAW_CNT_HI
  , one 0x04C [rw_ 5 0 0]  -- RNG_LANE_SEL
  , one 0x050 [ro 31 0 0]  -- RNG_LANE_CTR_0
  , one 0x054 [ro 31 0 0]  -- RNG_LANE_CTR_1
  , one 0x058 [ro 31 0 0]  -- RNG_LANE_CTR_2
  , one 0x05C [ro 31 0 0]  -- RNG_LANE_CTR_3
  , one 0x060 [rc 31 0]  -- RNG_ECC_CNT
  , one 0x080 [wo 31 0]  -- RNG_SKEY_0
  , one 0x084 [wo 31 0]  -- RNG_SKEY_1
  , one 0x088 [wo 31 0]  -- RNG_SKEY_2
  , one 0x08C [wo 31 0]  -- RNG_SKEY_3
  , one 0x090 [wo 31 0]  -- RNG_EKEY_0
  ] ++ [ one 0x094 [wo 31 0]  -- RNG_EKEY_1
  , one 0x098 [wo 31 0]  -- RNG_EKEY_2
  , one 0x09C [wo 31 0]  -- RNG_EKEY_3
  , one 0x0A0 [wo 0 0, wo 1 1]  -- RNG_KEY_COMMIT
  , one 0x0A4 [ro 31 0 0]  -- RNG_SKEY_FP
  , one 0x0A8 [ro 31 0 0]  -- RNG_EKEY_FP
  , one 0x0AC [ro 0 0 0, ro 1 1 0, ro 2 2 0, w1c 3 3]  -- RNG_KSTAT
  ]

/-- The registers of a SMP page (R222). -/
def regsSmp : List RegSpec :=
  [ many 0x040 4 4 [ro 2 0 0, ro 3 3 0, ro 4 4 0, ro 6 5 0, ro 20 8 0, ro 25 21 0]  -- SMP_GSTAT
  , many 0x050 4 4 [rw_ 15 0 0, rw_ 31 31 0]  -- SMP_GBIND
  , one 0x060 [ro 31 0 0]  -- SMP_STEP_LO
  , one 0x064 [ro 31 0 0]  -- SMP_STEP_HI
  , one 0x068 [ro 31 0 0]  -- SMP_BATCH_CNT
  , one 0x06C [ro 31 0 0]  -- SMP_DRAW_CNT_LO
  , one 0x070 [ro 31 0 0]  -- SMP_DRAW_CNT_HI
  , one 0x074 [ro 31 0 0]  -- SMP_REC_CNT_LO
  , one 0x078 [ro 31 0 0]  -- SMP_REC_CNT_HI
  , one 0x07C [rc 31 0]  -- SMP_NEW_CNT
  , one 0x080 [rc 31 0]  -- SMP_INVALID_CNT
  , one 0x084 [rc 31 0]  -- SMP_ISOLATED_CNT
  , one 0x088 [rc 31 0]  -- SMP_DUP_CNT
  , one 0x08C [rc 31 0]  -- SMP_TRUNC_CNT
  ] ++ [ one 0x090 [rc 31 0]  -- SMP_ECC_CNT
  ]

/-- The registers of a BEAD page (R261). -/
def regsBead : List RegSpec :=
  [ one 0x040 [rw_ 31 0 0]  -- BEAD_TDIR_LO
  , one 0x044 [rw_ 31 0 0]  -- BEAD_TDIR_HI
  , one 0x048 [ro 7 0 0, ro 13 8 0, ro 14 14 0]  -- BEAD_STAT
  , one 0x04C [w1c 0 0, w1c 1 1, w1c 2 2, w1c 3 3]  -- BEAD_STICKY
  , one 0x050 [ro 31 0 0]  -- BEAD_REQ_CNT_LO
  , one 0x054 [ro 31 0 0]  -- BEAD_REQ_CNT_HI
  , one 0x058 [ro 31 0 0]  -- BEAD_FETCH_CNT_LO
  , one 0x05C [ro 31 0 0]  -- BEAD_FETCH_CNT_HI
  , one 0x060 [rc 31 0]  -- BEAD_REMOTE_CNT
  , one 0x064 [rc 31 0]  -- BEAD_DEFAULT_CNT
  , one 0x068 [rc 31 0]  -- BEAD_EMPTY_CNT
  , one 0x06C [rc 31 0]  -- BEAD_HIT_CNT
  , one 0x070 [ro 31 0 0]  -- BEAD_ACCEPT_CNT
  , one 0x074 [ro 31 0 0]  -- BEAD_RETIRE_CNT
  ] ++ [ one 0x078 [rc 31 0]  -- BEAD_ECC_CNT
  , one 0x080 [rw_ 0 0 0, rwIn 5 1 10 10 23]  -- HS_CTRL
  , one 0x084 [rw_ 31 0 0]  -- HS_DIR_LO
  , one 0x088 [rw_ 31 0 0]  -- HS_DIR_HI
  , one 0x08C [rw_ 31 0 0]  -- HS_POOL_LO
  , one 0x090 [rw_ 31 0 0]  -- HS_POOL_HI
  , one 0x094 [rwIn 10 0 1 1 1024]  -- HS_SLOT
  , one 0x098 [rwIn 22 0 0 0 4194304]  -- HS_SLOTS
  , one 0x09C [rw_ 31 0 0]  -- HS_RTAB_LO
  , one 0x0A0 [rw_ 31 0 0]  -- HS_RTAB_HI
  , one 0x0A4 [ro 1 0 0, ro 2 2 0, ro 15 8 0]  -- HS_STAT
  , one 0x0A8 [ro 22 0 0]  -- HS_ACTIVE_ROWS
  , one 0x0AC [ro 22 0 0]  -- HS_PENDING_ROWS
  , one 0x0B0 [rc 31 0]  -- HS_DIRTY_CNT
  ] ++ [ one 0x0B4 [rc 31 0]  -- HS_SKIP_CNT
  , one 0x0B8 [ro 31 0 0]  -- HS_REFRESH_CNT
  ]

/-- The registers of a FIL page (R262). -/
def regsFil : List RegSpec :=
  [ one 0x040 [rw_ 0 0 0]  -- FIL_CFG
  , one 0x044 [rw_ 31 0 0]  -- FIL_TSET_LO
  , one 0x048 [rw_ 31 0 0]  -- FIL_TSET_HI
  , one 0x04C [rwIn 4 0 10 10 24]  -- FIL_TS_LOG2
  , one 0x050 [rw_ 31 0 0]  -- FIL_POOL_LO
  , one 0x054 [rw_ 31 0 0]  -- FIL_POOL_HI
  , one 0x058 [rw_ 31 0 0]  -- FIL_POOL_SIZE_LO
  , one 0x05C [rw_ 31 0 0]  -- FIL_POOL_SIZE_HI
  , one 0x060 [rw_ 31 0 0]  -- FIL_DLIST_LO
  , one 0x064 [rw_ 31 0 0]  -- FIL_DLIST_HI
  , one 0x068 [rw_ 15 0 0]  -- FIL_DLIST_CNT
  , one 0x06C [rw_ 31 0 0]  -- FIL_COMMIT_CORES_LO
  , one 0x070 [rw_ 23 0 0]  -- FIL_COMMIT_CORES_HI
  , one 0x074 [ro 0 0 0, ro 1 1 0, w1c 2 2, ro 13 8 0]  -- FIL_STAT
  ] ++ [ one 0x078 [ro 23 0 0]  -- FIL_TOUCHED
  , one 0x07C [ro 31 0 0]  -- FIL_POOL_USED_LO
  , one 0x080 [ro 31 0 0]  -- FIL_POOL_USED_HI
  , one 0x084 [w1c 0 0, w1c 1 1, w1c 2 2, w1c 3 3, w1c 4 4]  -- FIL_STICKY
  , one 0x088 [ro 31 0 0]  -- FIL_CONTRIB_CNT_LO
  , one 0x08C [ro 31 0 0]  -- FIL_CONTRIB_CNT_HI
  , one 0x090 [rc 31 0]  -- FIL_DROP_CNT
  , one 0x094 [rc 31 0]  -- FIL_RAISE_CNT
  , one 0x098 [ro 31 0 0]  -- FIL_UPD_ROWS_LO
  , one 0x09C [ro 31 0 0]  -- FIL_UPD_ROWS_HI
  , one 0x0A0 [rc 31 0]  -- FIL_ECC_CNT
  , one 0x0A4 [ro 31 0 0]  -- FIL_ACCEPT_CNT
  , one 0x0A8 [ro 31 0 0]  -- FIL_RETIRE_CNT
  ]

/-- The registers of a MEM page (R308). -/
def regsMem : List RegSpec :=
  [ one 0x040 [rw_ 0 0 1, rwIn 15 8 24 1 255]  -- MEM_PATROL
  , one 0x044 [rw_ 1 0 0, rw_ 2 2 0, rw_ 6 3 0, rw_ 24 8 0]  -- MEM_PPR_ADDR
  , one 0x048 [wo 0 0]  -- MEM_PPR_CMD
  , one 0x04C [ro 0 0 0, w1c 1 1, ro 15 8 0, ro 23 16 0]  -- MEM_PPR_STAT
  , one 0x050 [rc 31 0]  -- MEM_LINK_CE_CNT
  , one 0x054 [rc 31 0]  -- MEM_LINK_UE_CNT
  , one 0x058 [rc 31 0]  -- MEM_RETRY_CNT
  , one 0x05C [rc 31 0]  -- MEM_PATROL_UE
  , one 0x060 [ro 31 0 0]  -- MEM_PATROL_POS_LO
  , one 0x064 [ro 31 0 0]  -- MEM_PATROL_POS_HI
  , one 0x068 [ro 7 0 0]  -- MEM_TEMP
  , one 0x06C [ro 0 0 0, ro 1 1 0, ro 2 2 0]  -- MEM_STAT
  ]

/-- The registers of a XFR page (R309). -/
def regsXfr : List RegSpec :=
  [ one 0x040 [ro 7 0 0, w1c 8 8]  -- MEM_XSTAT
  , one 0x044 [ro 31 0 0]  -- MEM_XACCEPT_CNT
  , one 0x048 [ro 31 0 0]  -- MEM_XRETIRE_CNT
  , one 0x04C [rw_ 5 0 0]  -- MEM_RGN_SEL
  , one 0x050 [rw_ 31 16 0]  -- MEM_RGN_BASE_LO
  , one 0x054 [rw_ 31 0 0]  -- MEM_RGN_BASE_HI
  , one 0x058 [rw_ 0 0 0, rw_ 1 1 0, rw_ 2 2 0, rw_ 3 3 0]  -- MEM_RGN_ATTR
  , one 0x05C [rw_ 31 16 0]  -- MEM_RGN_SIZE_LO
  , one 0x060 [rw_ 31 0 0]  -- MEM_RGN_SIZE_HI
  , one 0x064 [rw_ 15 0 0, rw_ 31 31 0]  -- MEM_RGN_BIND
  , one 0x068 [ro 2 0 0, ro 31 16 0]  -- MEM_RGN_BSTAT
  ]

/-- The registers of a SRM page (R310). -/
def regsSrm : List RegSpec :=
  [ one 0x040 [rw_ 5 0 0, wo 8 8, ro 9 9 0, w1c 10 10]  -- SRM_REPAIR
  , one 0x044 [ro 31 0 0]  -- SRM_SPARE_MAP
  , one 0x048 [rc 31 0]  -- SRM_CE_CNT
  , one 0x04C [rc 31 0]  -- SRM_UE_CNT
  , one 0x050 [rw_ 0 0 1, rw_ 15 8 60]  -- SRM_PATROL
  ]

/-- The registers of a SEQ page (R338). -/
def regsSeq : List RegSpec :=
  [ one 0x040 [wo 3 0, wo 4 4]  -- SEQ_CMD
  , one 0x044 [ro 2 0 0, ro 3 3 0, ro 6 4 0, w1c 7 7]  -- SEQ_STAT
  , one 0x048 [rw_ 31 0 0]  -- SEQ_IMG_LO
  , one 0x04C [rw_ 31 0 0]  -- SEQ_IMG_HI
  , one 0x050 [rw_ 31 0 0]  -- SEQ_CTX_LO
  , one 0x054 [rw_ 31 0 0]  -- SEQ_CTX_HI
  , one 0x058 [ro 14 0 0]  -- SEQ_PC
  , one 0x05C [rw_ 15 0 0x3e8]  -- SEQ_WDOG
  , one 0x060 [ro 31 0 0]  -- SEQ_EXIT
  , one 0x064 [ro 31 0 0]  -- SEQ_ICNT_LO
  , one 0x068 [ro 31 0 0]  -- SEQ_ICNT_HI
  , one 0x06C [ro 31 0 0]  -- SEQ_PUSH_CNT
  , one 0x070 [ro 31 0 0]  -- SEQ_WAIT_CYC_LO
  , one 0x074 [ro 31 0 0]  -- SEQ_WAIT_CYC_HI
  ] ++ [ one 0x078 [rw_ 4 0 0]  -- SEQ_GSEL
  , one 0x07C [ro 31 0 0]  -- SEQ_GVAL_LO
  , one 0x080 [ro 31 0 0]  -- SEQ_GVAL_HI
  , one 0x084 [rc 31 0]  -- SEQ_ECC_CNT
  , one 0x088 [ro 15 0 0]  -- SEQ_PLAN
  ]

/-- The registers of a ARB page (R339, R429). -/
def regsArb : List RegSpec :=
  [ one 0x040 [wo 3 0, wo 23 8, wo 31 31]  -- ARB_SUBMIT
  , one 0x044 [ro 2 0 0, ro 11 8 0, ro 31 16 0]  -- ARB_RESULT
  , one 0x048 [ro 14 0 0]  -- ARB_RUN
  , one 0x04C [ro 14 0 0, ro 21 16 0]  -- ARB_WAIT
  , one 0x050 [ro 3 0 0, ro 4 4 0]  -- ARB_PAUSED
  , one 0x054 [rw_ 15 0 100]  -- ARB_QLIMIT
  , one 0x058 [ro 31 0 0]  -- ARB_ADMIT_CNT
  , one 0x05C [rc 31 0]  -- ARB_REFUSE_CNT
  , one 0x080 [rw_ 15 0 0, rw_ 21 16 0]  -- ARB_BIND_RES
  , one 0x084 [rw_ 15 0 0]  -- ARB_BIND_PLAN
  , one 0x088 [wo 0 0, wo 1 1, wo 2 2, wo 3 3]  -- ARB_BIND_CMD
  , one 0x08C [ro 2 0 0, ro 15 8 0, ro 22 16 0]  -- ARB_BIND_STAT
  , one 0x090 [rwIn 15 0 0x3e8 1 65535]  -- ARB_BIND_QLIMIT
  , many 0x0A0 4 4 [ro 5 0 0, ro 13 8 0, ro 14 14 0, ro 15 15 0]  -- ARB_CORE_SPARE
  ] ++ [ one 0x0B0 [ro 3 0 0, ro 4 4 0, ro 5 5 0, ro 11 8 0, ro 12 12 0, ro 13 13 0, ro 18 16 0, ro 19 19 0, ro 20 20 0, ro 25 24 0, ro 26 26 0, ro 27 27 0]  -- ARB_LANE_SPARE
  , one 0x0B4 [ro 15 0 0, ro 23 16 0, ro 27 24 0]  -- ARB_DEAD
  , one 0x0B8 [ro 31 0 0]  -- ARB_DEAD_CORE_LO
  , one 0x0BC [ro 23 0 0]  -- ARB_DEAD_CORE_HI
  , one 0x0C0 [ro 10 0 0, ro 26 16 0]  -- ARB_CTX_SPARE
  , one 0x0C4 [rw_ 31 0 0]  -- ARB_SWAP_POS_LO
  , one 0x0C8 [rw_ 31 0 0]  -- ARB_SWAP_POS_HI
  ]

/-- The registers of a NET page (R375). -/
def regsNet : List RegSpec :=
  [ one 0x040 [rwIn 2 0 1 0 6, rw_ 3 3 0, rw_ 4 4 0, rw_ 15 8 0]  -- NET_CFG
  , one 0x044 [ro 3 0 0, ro 11 4 0, ro 12 12 0]  -- NET_STAT
  , one 0x048 [rw_ 1 0 0]  -- NET_LINK_SEL
  , one 0x04C [rw_ 31 0 0]  -- NET_MAC_LO
  , one 0x050 [rw_ 15 0 0]  -- NET_MAC_HI
  , one 0x054 [rw_ 31 0 0]  -- NET_IP4
  , one 0x058 [rw_ 31 0 0]  -- NET_IP6_0
  , one 0x05C [rw_ 31 0 0]  -- NET_IP6_1
  , one 0x060 [rw_ 31 0 0]  -- NET_IP6_2
  , one 0x064 [rw_ 31 0 0]  -- NET_IP6_3
  , one 0x068 [rwIn 13 0 0x2328 1280 9216]  -- NET_MTU
  , one 0x06C [rw_ 11 0 0, rw_ 12 12 0]  -- NET_VLAN
  , one 0x070 [rw_ 11 0 0xee0]  -- NET_PRIO
  , one 0x074 [rw_ 23 0 0]  -- NET_DSCP
  ] ++ [ one 0x078 [rw_ 19 0 0x10000]  -- NET_XOFF
  , one 0x07C [rc 31 0]  -- NET_FEC_CE_CNT
  , one 0x080 [rc 31 0]  -- NET_FEC_UE_CNT
  , one 0x084 [rc 31 0]  -- NET_DROP_CNT
  , one 0x088 [rc 31 0]  -- NET_PAUSE_CNT
  ]

/-- The registers of a KXT page (R376). -/
def regsKxt : List RegSpec :=
  [ one 0x040 [rw_ 15 0 0xb9f0, rw_ 16 16 1]  -- KXT_CFG
  , one 0x044 [rw_ 15 0 10, rw_ 23 16 16]  -- KXT_ACK
  , one 0x048 [rw_ 15 0 50, rw_ 31 16 100]  -- KXT_RTO
  , one 0x04C [rw_ 7 0 12, rw_ 23 8 100]  -- KXT_RETRY
  , one 0x050 [rw_ 7 0 32, rw_ 15 8 50, rw_ 23 16 10, rw_ 27 24 4]  -- KXT_CC
  , one 0x054 [rw_ 15 0 0]  -- KXT_PEER_PLAN
  , one 0x058 [ro 15 0 0]  -- KXT_SESS_OPEN
  , one 0x05C [rc 31 0]  -- KXT_REFUSE_CNT
  , one 0x060 [rc 31 0]  -- KXT_AUTH_CNT
  , one 0x064 [rc 31 0]  -- KXT_BAD_CNT
  , one 0x068 [ro 31 0 0]  -- KXT_RETX_CNT_LO
  , one 0x06C [ro 31 0 0]  -- KXT_RETX_CNT_HI
  , one 0x070 [rw_ 14 0 0]  -- KXT_SESS_SEL
  , one 0x074 [ro 2 0 0, ro 4 3 0, ro 5 5 0, ro 8 6 0]  -- KXT_SESS_STAT
  ] ++ [ one 0x078 [ro 31 0 0]  -- KXT_SESS_PEER
  , one 0x07C [ro 31 0 0]  -- KXT_SESS_RATE
  , one 0x080 [ro 31 0 0]  -- KXT_SESS_RTT
  , one 0x084 [rw_ 31 0 0]  -- KXT_OPEN_LO
  , one 0x088 [rw_ 31 0 0]  -- KXT_OPEN_HI
  , one 0x08C [wo 0 0]  -- KXT_OPEN_GO
  , one 0x090 [rw_ 31 0 0]  -- KXT_CHAN_BASE_LO
  , one 0x094 [rw_ 31 0 0]  -- KXT_CHAN_BASE_HI
  , one 0x098 [w1s 15 0]  -- KXT_CHAN_READY
  , one 0x09C [rwIn 15 0 0x3e8 1 65535]  -- KXT_CHAN_LIMIT
  , many 0x0A0 16 4 [ro 2 0 0, ro 15 8 0, rw_ 21 16 0, rw_ 26 22 0]  -- KXT_CHAN_STAT
  , one 0x0E0 [ro 0 0 0, ro 15 8 0]  -- KXT_OPEN_STAT
  , one 0x0E4 [ro 17 0 0]  -- KXT_OPEN_SID
  , one 0x0F0 [rw_ 17 0 0]  -- KXT_CKPT_SESS
  ] ++ [ one 0x0F4 [ro 0 0 0, ro 1 1 0, ro 2 2 0]  -- KXT_CKPT_STAT
  , one 0x0F8 [ro 31 0 0]  -- KXT_CKPT_BYTES_LO
  , one 0x0FC [ro 31 0 0]  -- KXT_CKPT_BYTES_HI
  , one 0x100 [rw_ 17 0 0]  -- KXT_BEAT_SESS
  , one 0x104 [rw_ 15 0 100]  -- KXT_BEAT
  , one 0x108 [rc 31 0]  -- KXT_BEAT_LATE_CNT
  ]

/-- The registers of a JK page (R377). -/
def regsJk : List RegSpec :=
  [ one 0x040 [ro 0 0 0, ro 4 1 0, ro 10 5 0]  -- JK_STAT
  , one 0x044 [ro 31 0 0]  -- JK_TX_BYTES_LO
  , one 0x048 [ro 31 0 0]  -- JK_TX_BYTES_HI
  , one 0x04C [ro 31 0 0]  -- JK_RX_BYTES_LO
  , one 0x050 [ro 31 0 0]  -- JK_RX_BYTES_HI
  , one 0x054 [rc 31 0]  -- JK_RETRY_CNT
  , one 0x058 [ro 31 0 0]  -- JK_ACCEPT_CNT
  , one 0x05C [ro 31 0 0]  -- JK_RETIRE_CNT
  ]

/-- The registers of a MBX page (R393). -/
def regsMbx : List RegSpec :=
  [ one 0x040 [rwIn 15 0 0x3e8 1 65535]  -- MBX_CFG
  , one 0x044 [ro 15 0 0]  -- MBX_FULL
  , one 0x048 [ro 15 0 0]  -- MBX_PENDING
  , one 0x04C [rw_ 17 0 0]  -- MBX_HOST_SESS
  , one 0x050 [ro 31 0 0]  -- MBX_MSG_CNT
  , one 0x054 [rc 31 0]  -- MBX_COLL_CNT
  , one 0x058 [rc 31 0]  -- MBX_TMO_CNT
  , many 0x0C0 19 4 [rw_ 5 0 4, rwIn 12 8 0 0 28, rw_ 15 15 1]  -- MBX_ROUTE
  , many 0x200 16 32 [rw_ 31 0 0]  -- MBX_DATA
  , many 0x204 16 32 [ro 0 0 0, w1c 1 1, w1c 2 2, ro 3 3 0, ro 4 4 0, ro 10 8 0]  -- MBX_STAT
  , many 0x208 16 32 [ro 31 0 0]  -- MBX_PEEK
  , many 0x20C 16 32 [w1c 31 0]  -- MBX_DB
  , many 0x210 16 32 [w1s 31 0]  -- MBX_DB_SET
  , many 0x214 16 32 [rw_ 31 0 0xffffffff]  -- MBX_DB_EN
  ]

/-- The registers of a BZL page (R414). -/
def regsBzl : List RegSpec :=
  [ one 0x040 [wo 3 0, wo 8 8]  -- BZL_CMD
  , one 0x044 [ro 0 0 0, w1c 1 1, ro 7 4 0, ro 15 8 0]  -- BZL_RESULT
  , one 0x048 [ro 0 0 0, ro 1 1 0, ro 2 2 0, ro 3 3 0, ro 4 4 0, ro 5 5 0, ro 6 6 0]  -- BZL_MODE
  , one 0x04C [rw_ 4 0 0]  -- BZL_BUF_SEL
  , one 0x050 [rw_ 16 0 0]  -- BZL_IN_LEN
  , one 0x054 [ro 16 0 0]  -- BZL_OUT_LEN
  , one 0x058 [ro 31 0 0]  -- BZL_BOOT_CNT_LO
  , one 0x05C [ro 31 0 0]  -- BZL_BOOT_CNT_HI
  , one 0x060 [ro 31 0 0]  -- BZL_FW_VER
  , one 0x064 [ro 6 0 0, ro 14 8 0, ro 17 16 0, ro 23 20 0]  -- BZL_SVN
  , one 0x068 [ro 31 0 0]  -- BZL_EPOCH_LO
  , one 0x06C [ro 31 0 0]  -- BZL_EPOCH_HI
  , one 0x070 [ro 15 0 0]  -- BZL_SEAL_SLOTS
  , one 0x074 [rw_ 3 0 0]  -- BZL_SEAL_CKPT
  ] ++ [ many 0x800 512 4 [rw_ 31 0 0]  -- BZL_BUF
  ]

/-- The registers of a LKT page (R447). -/
def regsLkt : List RegSpec :=
  [ one 0x040 [ro 0 0 0, ro 1 1 0, ro 2 2 0, ro 8 4 0, ro 23 16 0]  -- LKT_STAT
  , one 0x044 [rw_ 11 1 0x4c2]  -- LKT_CLASS_EN
  , one 0x048 [ro 31 0 0xffffffff]  -- LKT_LAST_LO
  , one 0x04C [ro 31 0 0xffffffff]  -- LKT_LAST_HI
  , one 0x050 [ro 31 0 0]  -- LKT_OLDEST_LO
  , one 0x054 [ro 31 0 0]  -- LKT_OLDEST_HI
  , one 0x058 [ro 31 0 0]  -- LKT_BASE_LO
  , one 0x05C [ro 31 0 0]  -- LKT_BASE_HI
  , one 0x060 [ro 31 0 0]  -- LKT_REC_CNT
  , one 0x064 [rc 31 0]  -- LKT_DROP_CNT
  , one 0x068 [rc 31 0]  -- LKT_CE_CNT
  , many 0x080 2 128 [wo 0 0, rw_ 1 1 0]  -- LKT_WCTRL
  , many 0x084 2 128 [ro 0 0 0, ro 2 1 0, ro 3 3 0]  -- LKT_WSTAT
  , many 0x088 2 128 [rw_ 31 0 0]  -- LKT_CUR_LO
  ] ++ [ many 0x08C 2 128 [rw_ 31 0 0]  -- LKT_CUR_HI
  , many 0x090 2 128 [ro 31 0 0]  -- LKT_SNAP_LAST_LO
  , many 0x094 2 128 [ro 31 0 0]  -- LKT_SNAP_LAST_HI
  , many 0x098 2 128 [ro 31 0 0]  -- LKT_SNAP_OLDEST_LO
  , many 0x09C 2 128 [ro 31 0 0]  -- LKT_SNAP_OLDEST_HI
  , many 0x0C0 16 4 [ro 31 0 0]  -- LKT_WIN_A
  , many 0x140 16 4 [ro 31 0 0]  -- LKT_WIN_B
  , one 0x180 [rw_ 15 0 0x800e]  -- LKT_FW_CODE
  , many 0x184 6 4 [rw_ 31 0 0]  -- LKT_FW_PAY
  , one 0x19C [wo 0 0, ro 1 1 0, w1c 2 2]  -- LKT_FW_GO
  ]

/-- The registers of a PWR page (R470). -/
def regsPwr : List RegSpec :=
  [ one 0x040 [rw_ 7 0 128]  -- PWR_DOM_REQ
  , one 0x044 [ro 7 0 128, ro 15 8 0, ro 23 16 0, w1c 24 24]  -- PWR_DOM_STAT
  , one 0x048 [ro 4 0 16, ro 12 8 16, ro 20 16 16]  -- PWR_LEVEL
  , one 0x04C [ro 9 0 0x2ee, ro 25 16 0x2ee]  -- PWR_VCORE
  , one 0x050 [ro 9 0 0]  -- PWR_TEMP
  , one 0x054 [ro 15 0 0]  -- PWR_POWER
  , one 0x058 [wo 0 0]  -- PWR_CTL_RESET
  , one 0x05C [rc 31 0]  -- PWR_THROTTLE_CNT
  ]

/-- The registers of a PWRM page (R471). -/
def regsPwrm : List RegSpec :=
  [ one 0x040 [ro 3 0 1, ro 11 4 0, ro 12 12 0]  -- PWR_STAGE
  , one 0x044 [ro 1 0 0, ro 8 8 0, ro 9 9 0, ro 10 10 0]  -- PWR_CAUSE
  , one 0x048 [wo 1 0, wo 4 4]  -- PWR_SLEEP
  , one 0x04C [ro 1 0 0, ro 2 2 0, ro 10 8 0]  -- PWR_SLEEP_STAT
  , one 0x050 [rw_ 6 0 63]  -- PWR_WAKE_EN
  , one 0x054 [w1c 6 0]  -- PWR_WAKE_SRC
  , one 0x058 [ro 6 0 0]  -- PWR_CMP
  , one 0x05C [rw_ 15 0 0]  -- PWR_CAP
  , one 0x060 [ro 15 0 0]  -- PWR_MOD_POWER
  , one 0x064 [rw_ 7 0 95, rw_ 15 8 100, rw_ 23 16 5]  -- PWR_THERM
  , one 0x068 [ro 31 0 0]  -- PWR_RTC_LO
  , one 0x06C [ro 31 0 0]  -- PWR_RTC_HI
  , one 0x070 [rw_ 31 0 0]  -- PWR_RTC_SET_LO
  , one 0x074 [rw_ 31 0 0]  -- PWR_RTC_SET_HI
  ] ++ [ one 0x078 [rw_ 1 0 0, ro 2 2 0]  -- PWR_RTC_CTRL
  , one 0x07C [rw_ 31 0 0]  -- PWR_RTC_ALARM_LO
  , one 0x080 [rw_ 31 0 0]  -- PWR_RTC_ALARM_HI
  , one 0x084 [ro 7 0 0]  -- PWR_AVS_STAT
  , one 0x088 [rw_ 0 0 0, ro 8 8 0, ro 9 9 1]  -- PWR_MODDOM
  ]

/-- The registers of a CAL page (R472). -/
def regsCal : List RegSpec :=
  [ one 0x040 [ro 0 0 0, ro 1 1 0, ro 2 2 0, w1c 3 3]  -- CAL_STAT
  , one 0x044 [ro 31 0 0]  -- CAL_SEQ_LO
  , one 0x048 [ro 31 0 0]  -- CAL_SEQ_HI
  , one 0x04C [rw_ 6 0 0]  -- CAL_STAGE_SEL
  , one 0x050 [wo 0 0, wo 1 1, wo 2 2]  -- CAL_CMD
  , one 0x054 [ro 3 0 0, ro 15 8 0]  -- CAL_RESULT
  , many 0x800 512 4 [rw_ 31 0 0]  -- CAL_WIN
  ]

/-- The block-specific registers of a page. -/
def regsOf : Blk → List RegSpec
  | .clp => regsClp
  | .tns => regsTns
  | .mx => regsMx
  | .vc => regsVc
  | .rng => regsRng
  | .smp => regsSmp
  | .bead => regsBead
  | .fil => regsFil
  | .mem => regsMem
  | .xfr => regsXfr
  | .srm => regsSrm
  | .seq => regsSeq
  | .arb => regsArb
  | .net => regsNet
  | .kxt => regsKxt
  | .jk => regsJk
  | .mbx => regsMbx
  | .bzl => regsBzl
  | .lkt => regsLkt
  | .pwr => regsPwr
  | .pwrm => regsPwrm
  | .cal => regsCal

/-- The specification of the register at an offset, the header included. -/
def regSpec (b : Blk) (off : Nat) : Option RegSpec :=
  (regsHeader ++ regsOf b).find? fun r =>
    r.off ≤ off && off < r.off + r.count * r.stride && (off - r.off) % r.stride == 0

end Sys2Proof.Machine
end

