-- ==== Sys2Proof/Machine/Sparse.lean ====
section
/-! DEFINITION. The operations of the sparse stores. Each takes the function `d` that says what an unlisted key reads
as; a write of that value removes the entry, so that equal contents are equal data. -/

namespace Sys2Proof.Machine

variable {α : Type}

/-- The entry of a key, if it is listed. -/
def Sparse.find : Sparse α → Nat → Option α
  | [], _ => none
  | (k', v) :: t, k => if k' = k then some v else Sparse.find t k

/-- What a key reads as. -/
def Sparse.get (d : Nat → α) (m : Sparse α) (k : Nat) : α := (Sparse.find m k).getD (d k)

/-- The list with key `k` listed as `v`, keys kept rising: for stores that list what they hold, whatever its value. -/
def Sparse.put : Sparse α → Nat → α → Sparse α
  | [], k, v => [(k, v)]
  | (k', v') :: t, k, v =>
    if k < k' then (k, v) :: (k', v') :: t
    else if k' = k then (k, v) :: t
    else (k', v') :: Sparse.put t k v

/-- The list without key `k`. -/
def Sparse.del (m : Sparse α) (k : Nat) : Sparse α := m.filter (fun e => e.1 != k)

/-- Key `k` written with `v`: listed at its place, or not listed where `v` is what it reads as unlisted. -/
def Sparse.set [DecidableEq α] (d : Nat → α) : Sparse α → Nat → α → Sparse α
  | [], k, v => if v = d k then [] else [(k, v)]
  | (k', v') :: t, k, v =>
    if k' < k then (k', v') :: Sparse.set d t k v
    else if v = d k then Sparse.del ((k', v') :: t) k
    else (k, v) :: (if k' = k then t else (k', v') :: t)

/-- Every entry whose key fails the test is dropped: those keys read as unlisted again. -/
def Sparse.keep (p : Nat → Bool) (m : Sparse α) : Sparse α := m.filter (fun e => p e.1)

/-- The canonical form: keys strictly rising, no entry equal to what an unlisted key reads as. -/
def Sparse.wf [DecidableEq α] (d : Nat → α) : Sparse α → Bool
  | [] => true
  | [(k, v)] => decide (v ≠ d k)
  | (k, v) :: (k', v') :: t => decide (v ≠ d k) && decide (k < k') && Sparse.wf d ((k', v') :: t)

/-- A list of values written at consecutive keys from `k`. -/
def Sparse.setList [DecidableEq α] (d : Nat → α) (m : Sparse α) (k : Nat) : List α → Sparse α
  | [] => m
  | v :: vs => Sparse.setList d (Sparse.set d m k v) (k + 1) vs

/-- `n` values read at consecutive keys from `k`. -/
def Sparse.getList (d : Nat → α) (m : Sparse α) (k : Nat) : Nat → List α
  | 0 => []
  | n + 1 => Sparse.get d m k :: Sparse.getList d m (k + 1) n

end Sys2Proof.Machine
end

