-- ==== Sys2Proof/Machine/State.lean ====
section
/-! DEFINITION. The state of the module as plain data: the stored registers, the memories, the typed state of each
block, the queues, and the commands that wait. A field's default is its value right after a power-on reset. -/

namespace Sys2Proof.Machine

/-! ### Steps and the Clasp (R35 to R52) -/

/-- CLP_STAT.STATE (R39). -/
inductive StepState where
  | idle | opened | reduce | armed | commit | eval | torn
  deriving DecidableEq, Repr

/-- What a Clasp engine in COMMIT is doing: the committed sequence of R43 or the VOID sequence of R46. -/
inductive Sequence where
  | none | commit | void
  deriving DecidableEq, Repr

/-- The Clasp engine of a stack (R38 to R52, R66). -/
structure Clasp where
  state : StepState := .idle
  sequence : Sequence := .none
  /-- the position of the Clasp event that fired for this step (condition 2 of R41) -/
  due : Option DWord := Option.none
  /-- a Clasp event that fired while no step was open (R62: "the current or next step") -/
  dueNext : Option DWord := Option.none
  /-- GATE_TIMEOUT has been raised for this step -/
  timedOut : Bool := false
  ckptHold : Bool := false
  /-- a checkpoint event that waits for the end of COMMIT (R49) -/
  ckptWaits : Bool := false
  evalHeld : Bool := false
  voidLoss : Bool := false
  voidPlan : Bool := false
  voidRemote : Bool := false
  /-- the stack has sent a vote for this step, and the VOID bits of the module when it sent the first (R371) -/
  voted : Bool := false
  voteBits : Nat := 0
  evalNonfinite : Bool := false
  mbReported : Nat := 0
  step : DWord := 0
  committed : DWord := 0
  evals : DWord := 0
  loss : Word := 0
  lossMb : BitVec 16 := 0xFFFF
  lastPos : DWord := 0
  late : Word := 0
  duration : Word := 0
  voidCnt : Word := 0
  deriving DecidableEq, Repr

/-! ### The Tense unit (R53 to R67) -/

/-- TNS_STAT.LOCK_STATE (R67). -/
inductive LockState where
  | idle | acquiring | locked | freewheel | lost
  deriving DecidableEq, Repr

/-- One event slot (R61 to R64). -/
structure Slot where
  pos : DWord := 0
  period : DWord := 0
  stagedPos : DWord := 0
  stagedPeriod : DWord := 0
  armed : Bool := false
  skip : Bool := false
  kind : Nat := 0
  target : BitVec 8 := 0
  bit : Nat := 0
  fired : Bool := false
  missed : Bool := false
  deferred : Bool := false
  deferCount : Nat := 0
  fireCount : BitVec 16 := 0
  /-- due and not yet fired -/
  waiting : Bool := false
  /-- due because its position passed (R64) -/
  late : Bool := false
  deriving DecidableEq, Repr

/-- The Tense unit of a stack. Times are in sixteenths of a picosecond, in which the correction of R56, spread over
2^SLEW beats with SLEW at most 4, is exact for an error of whole picoseconds. -/
structure Tense where
  lock : LockState := .idle
  /-- ticks are generated -/
  ticking : Bool := false
  pos : DWord := 0
  freewheel : Nat := 0
  periodPs : DWord := 0
  phaseErr : BitVec 24 := 0
  /-- edge times seen by an acquisition, in picoseconds, latest first -/
  acq : List Nat := []
  /-- the beat period of the tick generator -/
  base : Nat := 0
  /-- when the current beat began -/
  beatStart : Int := 0
  /-- the share of a phase error added to each of the next `corrLeft` beats -/
  corr : Int := 0
  corrLeft : Nat := 0
  /-- a phase error taken at the next beat boundary -/
  corrNext : Option Int := none
  /-- the edge that starts the current beat, or the next one, has been accepted -/
  acceptedCur : Bool := false
  acceptedNext : Bool := false
  lastEdge : Nat := 0
  lastBeat : Nat := 0
  /-- the latest beat frame: its beat number and edge time (SRC 2) -/
  frame : Option (Nat × Nat) := none
  /-- the beat number the next boundary takes (R58) -/
  numberNext : Option Nat := none
  /-- the beat count kept in sleep and not yet compared with a frame (R60) -/
  kept : Option Nat := none
  slots : Sparse Slot := []
  deriving DecidableEq, Repr

/-! ### Mailboxes (R380 to R394) -/

/-- One mailbox. -/
structure Mailbox where
  word : Word := 0
  full : Bool := false
  collision : Bool := false
  timeout : Bool := false
  waking : Bool := false
  sender : Nat := 0
  /-- who sent the held word (R385) -/
  origin : Requester := .bezel
  db : Word := 0
  dbEn : Word := 0xFFFFFFFF
  deriving DecidableEq, Repr

/-- One mailbox that a waiting MBX_WR was carried out in (R391): its stack, the status fixed at the write, and whether
one of the events of R391 has settled it, with the status it then carries. -/
structure WaitPart where
  stk : Nat
  status : Nat
  ready : Option Nat := none
  deriving DecidableEq, Repr

/-- A reply to MBX_WR that waits for its mailbox, or for one in every stack (R391): the stack and context of the session,
the operation's REQ, the mailbox, and its parts in ascending stack order. -/
structure WaitReply where
  ctx : Nat
  req : BitVec 16
  addr : DWord
  mb : Nat
  parts : List WaitPart
  deriving DecidableEq, Repr

/-! ### Queues (R316 to R321) -/

/-- Where a descriptor stands. `done clean` has left its engine and waits for the earlier ones of its queue. -/
inductive EntryState where
  | queued | accepted | running
  | done (clean : Bool)
  deriving DecidableEq, Repr

/-- A descriptor in a queue: the plan that pushed it, who pushed it (0 to 3 a sequencer, 4 the firmware), and what its
engine latched when it accepted it. -/
structure Entry where
  desc : Desc
  plan : BitVec 16
  by_ : Nat
  st : EntryState := .queued
  latch : List DWord := []
  deriving DecidableEq, Repr

/-- An engine queue with its accept and retire sequences (R320); `unclean` lists the tokens that did not retire
cleanly. -/
structure Queue where
  entries : List Entry := []
  accept : Word := 0
  retire : Word := 0
  unclean : List Word := []
  deriving DecidableEq, Repr

/-! ### Sequencers (R312 to R328) -/

/-- SEQ_STAT.STATE (R338). -/
inductive SeqState where
  | empty | loading | ready | running | stopped | halted | faulted | ctx
  deriving DecidableEq, Repr

/-- What a sequencer's instruction waits for (SEQ_STAT.WAITKIND); an LDG or RDR with the address it reads. -/
inductive SeqWait where
  | none | queueFull | waitq | fence | waitdb | waitpos
  | ldg (a : DWord)
  | rdr (a : DWord)
  deriving DecidableEq, Repr

/-- A context command under way (R328): SAVE, with or without the data store, or RESTORE, and the state it came
from. -/
inductive CtxCmd where
  | none
  | save (withData : Bool) (back : SeqState)
  | restore (back : SeqState)
  deriving DecidableEq, Repr

/-- A plan sequencer. -/
structure Seq where
  st : SeqState := .empty
  wait : SeqWait := .none
  ctx : CtxCmd := .none
  istore : Sparse DWord := []
  dstore : Sparse Byte := []
  g : Vector DWord 32 := Vector.replicate 32 0
  p : BitVec 8 := 1
  b : Vector Desc 8 := Vector.replicate 8 0
  pc : BitVec 15 := 0
  entry : BitVec 15 := 0
  plan : BitVec 16 := 0
  exit : Word := 0
  /-- a wait was abandoned at pc (R328) -/
  abandoned : Bool := false
  /-- SEQ_STAT.CMD_REFUSED -/
  refused : Bool := false
  /-- for each queue, the token its last WAITQ or FENCE covered, and the last token pushed -/
  waited : Sparse Word := []
  pushed : Sparse Word := []
  /-- the reply to a PLAN_LOAD that waits for LOAD: session id, REQ and ADDR -/
  loadReply : Option (Nat × BitVec 16 × DWord) := Option.none
  deriving DecidableEq, Repr

/-! ### Binding and the maintenance arbiter (R329 to R341, R423 to R429) -/

/-- A maintenance activity that runs or waits (R334): its number, scope (0xFFFF for every instance, R337), submitter index
and ticket. -/
structure Activity where
  act : Nat
  scope : Nat
  sub : Nat
  ticket : Nat
  /-- a swap under way (R425): 0 admitted, 1 the unit starts nothing further, 2 its state is copied -/
  phase : Nat := 0
  /-- the spare taken: its physical number, or its place in the map -/
  spare : Nat := 0
  deriving DecidableEq, Repr

/-- A resource being re-bound (R331): its code and the state of BIND_STAT: 2 quiescing, 3 scrubbing, 4 handing over. -/
structure Rebind where
  res : Nat
  phase : Nat := 2
  deriving DecidableEq, Repr

/-- The re-binding command under way or last carried out (R330 to R332). -/
structure RebindCmd where
  first : Nat := 0
  count : Nat := 0
  plan : BitVec 16 := 0
  scrub : Bool := false
  lock : Bool := false
  ticket : Nat := 0
  forced : Bool := false
  left : List Rebind := []
  deriving DecidableEq, Repr

/-- The maintenance arbiter of a stack. -/
structure Arbiter where
  run : List Activity := []
  wait : List Activity := []
  ticket : Nat := 0
  bind : List RebindCmd := []
  /-- re-binding commands taken so far: TICKET of their BIND records (R438) -/
  bindTicket : Nat := 0
  /-- heartbeat intervals missed in a row, and restarts (R422, R340) -/
  missed : Nat := 0
  restarts : Nat := 0
  deriving DecidableEq, Repr

/-- One region entry (R299, R309). -/
structure Region where
  base : DWord := 0
  size : DWord := 0
  valid : Bool := false
  cp : Bool := false
  scrub : Bool := false
  ckpt : Bool := false
  plan : BitVec 16 := 0
  locked : Bool := false
  /-- BIND_STAT.STATE of the entry -/
  bst : Nat := 0
  pendingPlan : BitVec 16 := 0
  stagedBase : DWord := 0
  stagedSize : DWord := 0
  deriving DecidableEq, Repr

/-! ### The Locket (R435 to R449) -/

/-- The source of a record request: block type, instance and stack (0xF for a module page). -/
structure Source where
  type : Nat
  inst : Nat
  stk : Nat
  deriving DecidableEq, Repr

/-- A record request (R439): its source, its place in the grant order of R440, and what it latched. -/
structure RecReq where
  src : Source
  order : Nat
  code : BitVec 16
  payload : List Byte
  time : DWord
  timeValid : Bool
  pos : DWord
  posValid : Bool
  dropped : Nat := 0
  deriving DecidableEq, Repr

/-- A reading window (R444, R445). -/
structure LkWindow where
  cur : DWord := 0
  autoAdv : Bool := false
  loading : Bool := false
  result : Nat := 0
  ecc : Bool := false
  win : Slot64 := 0
  snapLast : DWord := 0
  snapOldest : DWord := 0
  deriving DecidableEq, Repr

/-- The Locket: the ring and its page map in MRAM, and the recorder. -/
structure Locket where
  ring : Sparse Slot64 := []
  /-- the spare page each ring page is mapped to, plus one; 0 for its own -/
  remap : Sparse Nat := []
  spareUsed : Nat := 0
  /-- ring pages for which NO_SPARE was recorded -/
  noSpare : List Nat := []
  base : DWord := 0
  /-- the sequence number the next record takes, once the scan has fixed it -/
  next : DWord := 0
  last : DWord := 0xFFFFFFFFFFFFFFFF
  reqs : List RecReq := []
  stopped : Bool := false
  scanned : Bool := false
  winA : LkWindow := {}
  winB : LkWindow := {}
  /-- LKT_FW_GO.REJECT -/
  fwReject : Bool := false
  /-- the step record of this Clasp has been requested and not yet written -/
  stepWaits : Bool := false
  deriving DecidableEq, Repr

/-! ### Power and the module (R450 to R473) -/

/-- A stack's power state beside its PWR registers. -/
structure Power where
  /-- the level a raise under way switches to (R461) -/
  raising : Option Nat := none
  /-- a failed AVSBus write holds the stack's level (R461) -/
  avsHold : Bool := false
  /-- the hottest junction as last measured, in quarters of a degree (R454, R465) -/
  junction : Int := 0
  /-- the firmware runs on the stack's management core -/
  firmware : Bool := false
  /-- the voltage of each level from 8, in millivolts (R458, R467) -/
  volts : List Nat := [850, 850, 850, 850, 850, 850, 850, 850, 850]
  /-- how often the stack's LPDDR5X key was discarded (R296) -/
  keyEpoch : Nat := 0
  /-- the stack has paired since its last CTL reset (R400) -/
  paired : Bool := false
  /-- the stack is held in reset after a failed pairing (R400, R422) -/
  held : Bool := false
  deriving DecidableEq, Repr

/-- What the part as a whole holds of power, clocks and time. -/
structure PowerModule where
  /-- the real-time clock: its value at the last setting, to which the time since is added (assumption 3) -/
  rtc : DWord := 0
  /-- a staged clock value waits for the next PPS_IN edge (R456) -/
  rtcWaits : Bool := false
  /-- ACLK and FCLK are stopped after a power failure or THERMTRIP (R455, R465) -/
  clocksStopped : Bool := false
  /-- RESET_N is low -/
  resetHeld : Bool := false
  refclkLost : Bool := false
  ethRefclkLost : Bool := false
  /-- REFCLK_LOSS to be recorded at the next start-up (R457) -/
  refclkReport : Bool := false
  thermtripN : Bool := false
  /-- windows in a row below 98 % of PWR_CAP (R459) -/
  below : Nat := 0
  /-- the domains each stack had on when the present sleep entry began, and the level being entered -/
  sleepSaved : List (BitVec 8) := []
  sleepTarget : Nat := 0
  /-- the module sleeps at a level, and its Tense units keep the beat count (R60, R462) -/
  sleeping : Bool := false
  deriving DecidableEq, Repr

/-- The board management bus (R482, R483): the straps as read at power-on reset, the dynamic address, and the data a private
read returns. -/
structure BoardBus where
  straps : BitVec 2 := 0
  dynamic : Option (BitVec 7) := none
  ready : Option Word := none
  deriving DecidableEq, Repr

/-! ### Keys and generators (R267 to R285) -/

/-- The key store of a stack (R267, R283). -/
structure Keys where
  ksb : BitVec 128 := 0
  keb : BitVec 128 := 0
  stagedS : BitVec 128 := 0
  stagedE : BitVec 128 := 0
  ks : BitVec 128 := 0
  ke : BitVec 128 := 0
  kl : BitVec 128 := 0
  skeyFp : Word := 0
  ekeyFp : Word := 0
  skeySet : Bool := false
  ekeySet : Bool := false
  /-- the derivations under way: of KS and KE with their counter values, and of KL -/
  deriveS : Option DWord := none
  deriveE : Option DWord := none
  deriveL : Bool := false
  commitIgnored : Bool := false
  deriving DecidableEq, Repr

/-! ### Ethernet, sessions and collectives (R342 to R372) -/

/-- KXT_SESS_STAT.STATE (R349, R376). -/
inductive SessState where
  | closed | hsSent | hsRecv | opened | closing | failed
  deriving DecidableEq, Repr

/-- A DATA packet sent and not yet acknowledged (R355, R357): its SEQ, payload, latest PN, whether SACK covers it, and its
timeouts in a row. -/
structure Sent where
  seq : Word
  payload : List Byte
  pn : DWord
  sacked : Bool := false
  timeouts : Nat := 0
  deriving DecidableEq, Repr

/-- One session context (R348 to R358). -/
structure Session where
  st : SessState := .closed
  role : Nat := 0
  initiator : Bool := false
  port : Nat := 0
  link : Nat := 0
  /-- the peer's session id, and the hash of its identity key -/
  peer : Word := 0
  peerHash : BitVec 256 := 0
  /-- the key and IV of each direction (R354) -/
  keyTx : BitVec 256 := 0
  keyRx : BitVec 256 := 0
  ivTx : BitVec 96 := 0
  ivRx : BitVec 96 := 0
  /-- the receiver's previous key, and the packets it has accepted under the present one -/
  keyOld : Option (BitVec 256) := none
  sinceKey : Nat := 0
  epochTx : Bool := false
  epochRx : Bool := false
  /-- the next PN and SEQ to send -/
  pnTx : DWord := 1
  seqTx : Word := 0
  sent : List Sent := []
  /-- payloads that wait for the window of 1,024 -/
  queued : List (List Byte) := []
  /-- the next SEQ to execute, and payloads received ahead of it -/
  seqRx : Word := 0
  ahead : List (Word × List Byte) := []
  topPn : DWord := 0
  unacked : Nat := 0
  ceSince : Nat := 0
  ackPn : DWord := 0
  /-- smoothed round trip and its variation, in nanoseconds, once sampled (R357) -/
  rtt : Option (Nat × Nat) := none
  backoff : Nat := 0
  /-- pacing (R358), rates in Mb/s -/
  rate : Rat := 0
  target : Rat := 0
  alpha : Rat := 1
  clean : Nat := 0
  ceSeen : Bool := false
  rtoSeen : Bool := false
  /-- CLOSE is to be sent once every DATA sent is acknowledged -/
  closeWanted : Bool := false
  /-- a CLOSE has been received after this SEQ: the session closes once it has executed -/
  closeGot : Bool := false
  /-- RESET packets received (R351) -/
  resets : Nat := 0
  /-- the initiator's handshake: the HS_INIT body, the ML-KEM seeds and the TARGET -/
  hsBody : List Byte := []
  kemD : BitVec 256 := 0
  kemZ : BitVec 256 := 0
  hsTarget : BitVec 256 := 0
  deriving DecidableEq, Repr

/-- KXT_CHAN_STAT.STATE (R376). -/
inductive ChanState where
  | idle | starting | data | voting | done | failed
  deriving DecidableEq, Repr

/-- One collective channel (R366 to R372): what its table entry said when it started, and how far it has come. -/
structure Channel where
  st : ChanState := .idle
  /-- its kind-3 event has fired and it has not started -/
  fired : Bool := false
  step : DWord := 0
  op : Nat := 0
  lock : Bool := false
  vote : Bool := false
  nrank : Nat := 0
  rank : Nat := 0
  buf : Nat := 0
  count : Nat := 0
  recv : Nat := 0
  sess : List Nat := []
  /-- the successor's START for the step has been received -/
  succReady : Bool := false
  /-- STARTs held, as rank and step -/
  held : List (Nat × DWord) := []
  /-- rounds sent and rounds received whole of the two phases, and units received of the round under way -/
  redSent : Nat := 0
  gatSent : Nat := 0
  redGot : Nat := 0
  gatGot : Nat := 0
  part : Nat := 0
  votes : List Nat := []
  voteSent : Bool := false
  /-- exponent and flags of each sub-tile that differs from its tile's header -/
  subs : Sparse (Int × Nat) := []
  deriving DecidableEq, Repr

/-- A stack's checkpoint stream (R49, R50, R364). -/
structure Ckpt where
  /-- a checkpoint event of the stack waits for the module's activity 11, or is served by it -/
  wanted : Bool := false
  streaming : Bool := false
  /-- the session the stream runs on, and the bytes it carried -/
  sess : Nat := 0
  bytes : DWord := 0
  /-- the step the stream carries -/
  step : DWord := 0
  deriving DecidableEq, Repr

/-- A local Ethernet port (R342, R344): the mode its links run in, and for each link the priorities that are paused. -/
structure NetPort where
  cfg : Word := 1
  up : BitVec 4 := 0
  paused : Vector (BitVec 8) 4 := Vector.replicate 4 0
  deriving DecidableEq, Repr

/-! ### The Bezel (R395 to R417) -/

/-- A seal slot (R410, R411). -/
structure SealSlot where
  dk : BitVec 256 := 0
  filled : Bool := false
  inSeq : DWord := 0
  outSeq : DWord := 0
  deriving DecidableEq, Repr

/-- The active CAL image of a part that nothing has calibrated (R466; assumption 5): for a KX-820 with serial number 0, and one
section, THERMAL, with no bytes. Only bytes that are not zero are listed. -/
def calImage : Sparse Byte :=
  [(0, 0x01), (2, 0x01), (4, 0x50), (16, 0x20), (17, 0x08), (60, 0x97), (61, 0x18), (62, 0x9A), (63, 0x6A), (64, 0x04),
   (72, 0x50)]

/-- The CAL block (R466, R469): the active copy and the other, as bytes of their images; the staging area; whether a COMMIT is
under way; and what the check of R468 found at start-up. The active copy is that of assumption 5. -/
structure Cal where
  active : Sparse Byte := calImage
  other : Sparse Byte := []
  staging : Sparse Byte := []
  commit : Bool := false
  valid : Bool := false
  fallback : Bool := false
  deriving DecidableEq, Repr

/-- What the primary Bezel holds: fuses, owner record, measurements, seal slots and the firmware image. Fuses and Kept
values are those of assumption 5. -/
structure Bezel where
  drs : BitVec 256 := 0
  keyHash : Vector (BitVec 256) 4 := Vector.replicate 4 0
  serviceHash : BitVec 256 := 0
  serial : DWord := 0
  /-- SIG of the endorsement -/
  endorsement : List Byte := []
  rollback : Nat := 0
  revoked : BitVec 4 := 0
  romRev : Nat := 0
  lockFuse : Bool := true
  /-- the owner's public key, empty where unowned -/
  owner : List Byte := []
  epoch : DWord := 0
  configSeq : DWord := 0
  configHash : BitVec 512 := 0
  /-- the peer list, as key hash and ROLES -/
  peers : List (BitVec 256 × Byte) := []
  plans : List (BitVec 512) := []
  sealed : Bool := false
  wipePending : Bool := false
  /-- KIND of the CUSTODY whose wipe is pending (R438) -/
  wipeKind : Nat := 0
  meas : Vector (BitVec 512) 6 := Vector.replicate 6 0
  slots : Vector SealSlot 16 := Vector.replicate 16 {}
  /-- the next LOAD_SEQ, and for sequencer 4s + n its LOAD_SEQ and image hash -/
  loadSeq : DWord := 0
  loads : Sparse (DWord × BitVec 512) := []
  nor : Sparse Byte := []
  /-- VERSION, SVN and KEY_SLOT of the running image -/
  fwVersion : Word := 0
  fwSvn : Nat := 0
  fwSlot : Nat := 0
  /-- faults held until the firmware runs (R416): detail and FAULT_INFO -/
  heldFaults : List (Nat × Nat) := []
  recovery : Bool := false
  /-- the recovery was entered through PAIRING (R402) -/
  pairingFailed : Bool := false
  debugOwner : Bool := false
  debugVendor : Bool := false
  deriving DecidableEq, Repr

/-! ### Cores (R92 to R171, R274 to R285) -/

/-- The flags of a window tile or a long partial (R131). -/
structure WinFlags where
  inexact : Bool := false
  nonfinite : Bool := false
  repeated : Bool := false
  deriving DecidableEq, Repr

/-- An open accumulator tile (R93 to R95): its cells by row and column, the 64-bit code of a window cell or the 32 bits of
an FP32 one. -/
structure MxTile where
  window : Bool := false
  shape : Nat := 0
  w : Int := 0
  flags : WinFlags := {}
  drained : Bool := false
  cells : Sparse DWord := []
  deriving DecidableEq, Repr

/-- An operand-hold bank (R98): the bytes of its rows in the layout of R97. -/
structure MxBank where
  valid : Bool := false
  fmt : Nat := 0
  shape : Nat := 0
  rows : Nat := 0
  data : List Byte := []
  deriving DecidableEq, Repr

/-- A pass that has issued its slices and not retired (R107, R125): its tile, exponent, repeats, pass register, and the
flags held with it. -/
structure MxPass where
  tile : Nat := 0
  window : Bool := false
  w : Int := 0
  reps : Nat := 0
  acc : Sparse DWord := []
  inexact : Bool := false
  nonfinite : Bool := false
  deriving DecidableEq, Repr

/-- A chain slot (R137). -/
structure VcSlot where
  valid : Bool := false
  nstage : Nat := 0
  words : Vector (BitVec 16) 8 := Vector.replicate 8 0
  imm2 : Word := 0
  tid : Word := 0
  deriving DecidableEq, Repr

/-- One core: its generator lanes, matrix array and vector chain. Its panel store lies in `mem`. -/
structure Core where
  /-- lane counters that differ from their seed (R275) -/
  lanes : Sparse (BitVec 128) := []
  /-- a RESEED waits for the accepted runs (R282) -/
  reseedWaits : Bool := false
  /-- the key and tensor id the generator last latched (R281) -/
  lastKey : BitVec 128 := 0
  lastTid : Word := 0
  /-- open tiles by their first slot -/
  tiles : Sparse MxTile := []
  banks : Vector MxBank 2 := Vector.replicate 2 {}
  pass : Option MxPass := none
  chain : Vector VcSlot 4 := Vector.replicate 4 {}
  vl : Nat := 0
  /-- the elements of V0 to V3, by 1,024 × register + element -/
  vregs : Sparse Word := []
  deriving DecidableEq, Repr

/-! ### The Neighbourhood Sampler (R193 to R223) -/

/-- A lane group: SMP_GSTAT's PHASE and FAULTED, and the leader whose batch it serves. -/
structure SmpGroup where
  phase : Nat := 0
  leader : Option Nat := none
  faulted : Bool := false
  deriving DecidableEq, Repr

/-- The batch of a leader (R194 to R213): what OPEN and the graph header gave it, and how far it has come. -/
structure Batch where
  groups : BitVec 4 := 0
  tag : Nat := 0
  tidBase : Word := 0
  graph : Nat := 0
  flags : Nat := 0
  nnode : Nat := 0
  nedge : Nat := 0
  rowptr : Nat := 0
  col : Nat := 0
  weight : Nat := 0
  pfx : Nat := 0
  dedup : Nat := 0
  log2 : Nat := 0
  nmax : Nat := 0
  /-- the step number or evaluation counter, the key, and whether it is the evaluation key (R196) -/
  step : DWord := 0
  key : BitVec 128 := 0
  evalKey : Bool := false
  /-- nodes numbered so far, and the global ids of the last block's new nodes -/
  numbered : Nat := 0
  nodes : List Nat := []
  deriving DecidableEq, Repr

/-! ### Bead, Filigree and the hot set (R224 to R265) -/

/-- A row of the touched-row set (R245): its table and local row, and its accumulator. -/
structure TouchedRow where
  table : Nat
  row : Nat
  w : Int
  flags : WinFlags := {}
  cells : List DWord
  deriving DecidableEq, Repr

/-- A contribution on its way to its home stack (R244). -/
structure Contribution where
  src : Nat
  table : Nat
  row : Nat
  w : Int
  gw : Int
  flags : WinFlags
  lock : Bool
  cells : List DWord
  /-- TAG and token of the descriptor that formed it, and its plan -/
  tag : Nat
  token : Word
  plan : BitVec 16
  deriving DecidableEq, Repr

/-- A hot-set directory entry (R255, R257): table, local row, pool slot; a pending entry's state is 1 COPYING, 2 READY or
3 DIRTY. -/
structure HsEntry where
  table : Nat
  row : Nat
  slot : Nat
  st : Nat := 2
  deriving DecidableEq, Repr

/-- The hot set of a stack. -/
structure HotSet where
  active : List HsEntry := []
  waiting : List HsEntry := []
  /-- HS_STAT.STATE, ACTIVE and GROUP -/
  state : Nat := 0
  activeB : Bool := false
  group : Nat := 0
  deriving DecidableEq, Repr

/-- Filigree of a stack. -/
structure Filigree where
  touched : List TouchedRow := []
  inbox : List Contribution := []
  deriving DecidableEq, Repr

/-! ### The whole -/

/-- What the part sends out of itself, in the order sent (the model's own record; no rule reads it). -/
inductive Output where
  /-- the value a register access returned to its requester -/
  | value (r : Requester) (v : Word)
  /-- a KXT packet on a link -/
  | packet (st : Fin 8) (port link : Nat) (p : Packet)
  /-- another frame on a link (R343), or bytes on the board-management bus -/
  | frame (st : Fin 8) (port link : Nat) (body : List Byte)
  | i3c (body : List Byte)
  /-- a row returned over Jukan to the Bead of another stack, or none where the home Bead does not serve it (R238) -/
  | row (home src : Nat) (body : Option (List Byte))
  deriving DecidableEq, Repr

/-- One compute stack. -/
structure Stack where
  clp : Clasp := {}
  tns : Tense := {}
  mbx : Sparse Mailbox := []
  replies : List WaitReply := []
  /-- the MBX pages whose EVENT has been sent and not yet cleared by the host (R392) -/
  evtSent : BitVec 4 := 0
  seqs : Vector Seq 4 := Vector.replicate 4 {}
  arb : Arbiter := {}
  regions : Sparse Region := []
  pwr : Power := {}
  keys : Keys := {}
  /-- the LPDDR5X banks whose spare row is used: device, and CHANNEL, RANK and BANK as MEM_PPR_ADDR [6:0] (R297) -/
  repaired : List Nat := []
  cores : Sparse Core := []
  groups : Vector SmpGroup 4 := Vector.replicate 4 {}
  batches : Vector (Option Batch) 4 := Vector.replicate 4 none
  hot : HotSet := {}
  fil : Filigree := {}
  ports : Vector NetPort 2 := Vector.replicate 2 {}
  sess : Sparse Session := []
  chans : Sparse Channel := []
  ckpt : Ckpt := {}
  /-- the context of the open request under way (R363) -/
  opening : Option Nat := none
  /-- peers that rejected an open, by TARGET, with the time (R351) -/
  blocked : List (BitVec 256 × DWord) := []
  /-- the transfer channels stopped by a fault (R307) -/
  xfrStop : BitVec 8 := 0
  /-- the Bezel page's buffer (R414) -/
  bzlBuf : Sparse Byte := []
  deriving DecidableEq, Repr

/-- What the module holds once. -/
structure Module where
  lkt : Locket := {}
  pwr : PowerModule := {}
  bus : BoardBus := {}
  bzl : Bezel := {}
  cal : Cal := {}
  deriving DecidableEq, Repr

/-- The module: everything the spec gives the machine, and the commands that wait. -/
structure State where
  part : Part
  /-- the model's own: how many open values and measures of time the run has drawn (assumptions 2 and 3) -/
  free : Nat
  regs : Sparse Word
  /-- the HI halves staged by a write, and latched by a read of LO (R9) -/
  staged : Sparse Word
  latched : Sparse Word
  mem : Sparse Byte
  /-- the eight-byte words that hold an uncorrectable error (R289) -/
  bad : List Nat
  queues : Sparse Queue
  stk : Vector Stack 8
  mod : Module
  /-- the model's own: what the part has sent -/
  out : List Output
  pending : List Instr
  deriving DecidableEq, Repr

/-- Why a command cannot be carried out. -/
inductive Fault where
  /-- A command names a stack the part does not populate, so nothing happens in it (R1, R3). Raised by `exec` for a
  command of such a stack. Safe: no such stack exists in which anything could happen. -/
  | absentStack
  deriving DecidableEq, Repr

/-- Why a command has no meaning here. -/
inductive Refusal where
  /-- The arm of `exec` for this mnemonic is not written. Raised by `exec` only. Safe. -/
  | notModelled (mnemonic : String)
  deriving DecidableEq, Repr

/-- The module right after a power-on reset: a KX-820 (R4), stage 1 of start-up, CTL domains on (R463, R470). -/
def State.reset : State :=
  { part := .kx820, free := 0, regs := [], staged := [], latched := [], mem := [], bad := [], queues := [],
    stk := Vector.replicate 8 {}, mod := {}, out := [], pending := [] }

end Sys2Proof.Machine
end

