-- ==== Sys2Proof/Machine/Ops.lean ====
section
/-! DEFINITION. The operations every block shares: bit fields, register storage, free values, events and doorbells,
Locket requests, fault records, and the accept and retire sequences of the queues. -/

namespace Sys2Proof.Machine

/-! ### Numbers and bit fields -/

/-- Bits [hi:lo] of a number. -/
def bitsOf (n hi lo : Nat) : Nat := (n >>> lo) % 2 ^ (hi + 1 - lo)

/-- Bit `i` of a number. -/
def bitAt (n i : Nat) : Bool := n.testBit i

/-- A number with bits [hi:lo] replaced. -/
def withBits (n hi lo v : Nat) : Nat :=
  n - (bitsOf n hi lo) * 2 ^ lo + (v % 2 ^ (hi + 1 - lo)) * 2 ^ lo

/-- 1 for true. -/
def bit (b : Bool) : Nat := if b then 1 else 0

/-- The first `k` bytes of a number, least significant first (little-endian, chapter 0). -/
def leBytes (n : Nat) : Nat → List Byte
  | 0 => []
  | k + 1 => BitVec.ofNat 8 n :: leBytes (n / 256) k

/-- The number that bytes spell, least significant first. -/
def leNat : List Byte → Nat
  | [] => 0
  | b :: bs => b.toNat + 256 * leNat bs

/-- `k` bytes of a list from `i`, zeros past its end. -/
def slice (l : List Byte) (i k : Nat) : List Byte :=
  let t := (l.drop i).take k
  t ++ List.replicate (k - t.length) 0

/-- A number held within 32 bits by saturation. -/
def sat32 (n : Nat) : Word := BitVec.ofNat 32 (min n 0xFFFFFFFF)

/-- A number read as two's complement of `w` bits. -/
def toSigned (w n : Nat) : Int := if n % 2 ^ w < 2 ^ (w - 1) then (n % 2 ^ w : Nat) else (n % 2 ^ w : Nat) - (2 ^ w : Nat)

/-! ### Stacks and pages (R1, R3, R29) -/

/-- The stacks a part populates (R1). -/
def stackCount : Part → Nat
  | .kx820 => 8
  | .kx420 => 4
  | .kx220 => 2

/-- Whether a stack number is populated. -/
def State.has (s : State) (n : Nat) : Bool := n < stackCount s.part

/-- The populated stacks in ascending order. -/
def State.stacksIn (s : State) : List (Fin 8) := (List.finRange 8).filter fun i => s.has i.val

/-- The power envelope in watts (R1). -/
def envelope : Part → Nat
  | .kx820 => 850
  | .kx420 => 450
  | .kx220 => 240

/-- The first page number of a block type (R29). -/
def basePage : Blk → Nat
  | .mx => 0x100 | .vc => 0x140 | .rng => 0x180 | .smp => 0x200 | .bead => 0x210 | .fil => 0x220 | .seq => 0x230
  | .arb => 0x240 | .clp => 0x250 | .tns => 0x260 | .mbx => 0x270 | .net => 0x300 | .kxt => 0x310 | .jk => 0x320
  | .mem => 0x330 | .xfr => 0x334 | .srm => 0x340 | .bzl => 0x380 | .lkt => 0x390 | .pwr => 0x3A0 | .pwrm => 0x3A1
  | .cal => 0x3B0

/-- How many instances a block has. -/
def instances : Blk → Nat
  | .mx | .vc | .rng => 56
  | .seq | .mbx | .mem => 4
  | .net => 2
  | .jk => 3
  | _ => 1

/-- BLK_ID.TYPE (R29). -/
def blkType : Blk → Nat
  | .mx => 0x10 | .vc => 0x11 | .rng => 0x12 | .smp => 0x20 | .bead => 0x21 | .fil => 0x22 | .seq => 0x30
  | .arb => 0x31 | .clp => 0x32 | .tns => 0x33 | .mbx => 0x34 | .net => 0x40 | .kxt => 0x41 | .jk => 0x42
  | .mem => 0x50 | .xfr => 0x50 | .srm => 0x51 | .bzl => 0x60 | .lkt => 0x61 | .pwr => 0x70 | .pwrm => 0x70
  | .cal => 0x71

/-- The pages that exist once, in the module space (R29). -/
def isModule : Blk → Bool
  | .lkt | .pwrm | .cal => true
  | _ => false

/-- Every block type, in page order. -/
def allBlks : List Blk :=
  [.mx, .vc, .rng, .smp, .bead, .fil, .seq, .arb, .clp, .tns, .mbx, .net, .kxt, .jk, .mem, .xfr, .srm, .bzl, .lkt, .pwr,
   .pwrm, .cal]

end Sys2Proof.Machine

namespace Sys2Proof

open Machine

/-- The number of a page. -/
def Page.no (p : Page) : Nat := basePage p.blk + p.inst

/-- BLK_ID.INSTANCE: the transfer engine is MEM instance 4, the module's PWR page instance 1 (R29). -/
def Page.instNo (p : Page) : Nat :=
  match p.blk with
  | .xfr => 4
  | .pwrm => 1
  | _ => p.inst

end Sys2Proof

namespace Sys2Proof.Machine

/-- A stack's page of a block. -/
def stackPage (st : Fin 8) (b : Blk) (i : Nat := 0) : Page := ⟨st.val, b, i⟩

/-- A module page. -/
def modulePage (b : Blk) : Page := ⟨15, b, 0⟩

/-- The page with a number, in a stack or (stack 15) in the module space (R29). -/
def pageAt (stk no : Nat) : Option Page :=
  match allBlks.find? fun b => basePage b ≤ no && no < basePage b + instances b && isModule b == (stk == 15) with
  | some b => some ⟨stk, b, no - basePage b⟩
  | none => none

end Sys2Proof.Machine

namespace Sys2Proof

open Machine

/-- Where a register is stored. -/
def Page.key (p : Page) (off : Nat) : Nat := p.stk * 2 ^ 24 + p.no * 4096 + off

/-- The stack in which a page's event line rings (R388: module pages in stack 0). -/
def Page.home (p : Page) : Fin 8 := if h : p.stk < 8 then ⟨p.stk, h⟩ else 0

end Sys2Proof

namespace Sys2Proof.Machine

/-! ### Stored registers -/

/-- The pages that stay bound to the firmware, 0xFFFF (R329, R336, R390, R414, R447, R470, R472). -/
def boundPage : Blk → Bool
  | .mbx | .arb | .bzl | .lkt | .pwr | .pwrm | .cal => true
  | _ => false

/-- The After reset value of a register (R11), with the values that depend on the part (PWR_CAP), on the block (BIND and
BIND_STAT of a page that stays bound) or on the register's place (MBX_ROUTE, the spare cores of assumption 5, and the per-link registers of a NET page, which are kept for link k
at 0x800 + 0x80 k). -/
def regDefault (part : Part) (key : Nat) : Word :=
  match pageAt (key / 2 ^ 24) (key / 4096 % 4096) with
  | none => 0
  | some p =>
    let off := key % 4096
    if off = 0x030 ∧ boundPage p.blk = true then 0xFFFF
    else if off = 0x034 ∧ boundPage p.blk = true then 1
    else if p.blk = .pwrm ∧ off = 0x05C then BitVec.ofNat 32 (envelope part)
    else if p.blk = .arb ∧ 0x0A0 ≤ off ∧ off < 0x0B0 then BitVec.ofNat 32 (56 + (off - 0x0A0) / 4)
    else if p.blk = .mbx ∧ 0x0C0 ≤ off ∧ off < 0x10C then
      if p.inst = 0 then BitVec.ofNat 32 (4 + (1 + (off - 0x0C0) / 4) * 2 ^ 8 + 2 ^ 15) else 0
    else match regSpec p.blk (if p.blk = .net ∧ 0x800 ≤ off then (off - 0x800) % 0x80 else off) with
      | none => 0
      | some r => BitVec.ofNat 32 (r.fields.foldl (fun n f => n + f.reset * 2 ^ f.lo) 0)

/-- The stored value of a register. -/
def State.reg (s : State) (p : Page) (off : Nat) : Word := Sparse.get (regDefault s.part) s.regs (p.key off)

/-- A register stored. -/
def State.setReg (s : State) (p : Page) (off : Nat) (v : Word) : State :=
  { s with regs := Sparse.set (regDefault s.part) s.regs (p.key off) v }

/-- A field of a stored register. -/
def State.fld (s : State) (p : Page) (off hi lo : Nat) : Nat := bitsOf (s.reg p off).toNat hi lo

/-- A field of a register stored. -/
def State.setFld (s : State) (p : Page) (off hi lo v : Nat) : State :=
  s.setReg p off (BitVec.ofNat 32 (withBits (s.reg p off).toNat hi lo v))

/-- One bit of a register. -/
def State.flag (s : State) (p : Page) (off i : Nat) : Bool := bitAt (s.reg p off).toNat i

/-- One bit of a register set or cleared. -/
def State.setFlag (s : State) (p : Page) (off i : Nat) (b : Bool) : State := s.setFld p off i i (bit b)

/-- A counter that saturates. -/
def State.countSat (s : State) (p : Page) (off : Nat) (n : Nat := 1) : State :=
  s.setReg p off (sat32 ((s.reg p off).toNat + n))

/-- A counter that wraps. -/
def State.countWrap (s : State) (p : Page) (off : Nat) (n : Nat := 1) : State :=
  s.setReg p off (s.reg p off + BitVec.ofNat 32 n)

/-- The 64-bit value of a pair at `off` (LO) and `off + 4` (HI). -/
def State.pair (s : State) (p : Page) (off : Nat) : Nat := (s.reg p off).toNat + 2 ^ 32 * (s.reg p (off + 4)).toNat

/-- A pair stored. -/
def State.setPair (s : State) (p : Page) (off n : Nat) : State :=
  (s.setReg p off (BitVec.ofNat 32 n)).setReg p (off + 4) (BitVec.ofNat 32 (n / 2 ^ 32))

/-- A 64-bit counter. -/
def State.countPair (s : State) (p : Page) (off : Nat) (n : Nat := 1) : State := s.setPair p off (s.pair p off + n)

/-! ### Stacks -/

/-- A stack's typed state. -/
def State.st (s : State) (i : Fin 8) : Stack := s.stk[i]

/-- A stack's typed state changed. -/
def State.modSt (s : State) (i : Fin 8) (f : Stack → Stack) : State := { s with stk := s.stk.set i (f s.stk[i]) }

/-- The Clasp engine, the Tense unit, the arbiter and the power state of a stack changed. -/
def State.modClp (s : State) (i : Fin 8) (f : Clasp → Clasp) : State := s.modSt i fun x => { x with clp := f x.clp }
def State.modTns (s : State) (i : Fin 8) (f : Tense → Tense) : State := s.modSt i fun x => { x with tns := f x.tns }
def State.modArb (s : State) (i : Fin 8) (f : Arbiter → Arbiter) : State := s.modSt i fun x => { x with arb := f x.arb }
def State.modPwr (s : State) (i : Fin 8) (f : Power → Power) : State := s.modSt i fun x => { x with pwr := f x.pwr }
def State.modPm (s : State) (f : PowerModule → PowerModule) : State :=
  { s with mod := { s.mod with pwr := f s.mod.pwr } }
def State.modLkt (s : State) (f : Locket → Locket) : State := { s with mod := { s.mod with lkt := f s.mod.lkt } }

/-- A sequencer, and one changed. -/
def State.seq (s : State) (i : Fin 8) (n : Fin 4) : Seq := (s.st i).seqs[n]
def State.modSeq (s : State) (i : Fin 8) (n : Fin 4) (f : Seq → Seq) : State :=
  s.modSt i fun x => { x with seqs := x.seqs.set n (f x.seqs[n]) }

/-- A mailbox, and one changed. -/
def State.box (s : State) (i : Fin 8) (m : Nat) : Mailbox := Sparse.get (fun _ => {}) (s.st i).mbx m
def State.modBox (s : State) (i : Fin 8) (m : Nat) (f : Mailbox → Mailbox) : State :=
  s.modSt i fun x => { x with mbx := Sparse.set (fun _ => {}) x.mbx m (f (Sparse.get (fun _ => {}) x.mbx m)) }

/-- A core, and one changed. -/
def State.core (s : State) (i : Fin 8) (c : Nat) : Core := Sparse.get (fun _ => {}) (s.st i).cores c
def State.modCore (s : State) (i : Fin 8) (c : Nat) (f : Core → Core) : State :=
  s.modSt i fun x => { x with cores := Sparse.set (fun _ => {}) x.cores c (f (Sparse.get (fun _ => {}) x.cores c)) }

/-- The key store of a stack changed. -/
def State.modKeys (s : State) (i : Fin 8) (f : Keys → Keys) : State := s.modSt i fun x => { x with keys := f x.keys }

/-- A region entry, and one changed. -/
def State.region (s : State) (i : Fin 8) (n : Nat) : Region := Sparse.get (fun _ => {}) (s.st i).regions n
def State.modRegion (s : State) (i : Fin 8) (n : Nat) (f : Region → Region) : State :=
  s.modSt i fun x =>
    { x with regions := Sparse.set (fun _ => {}) x.regions n (f (Sparse.get (fun _ => {}) x.regions n)) }

/-- Something sent; after a power failure no Ethernet transmitter sends (R455). -/
def State.send (s : State) (o : Output) : State :=
  match o with
  | .packet .. | .frame .. => if s.mod.pwr.clocksStopped then s else { s with out := s.out ++ [o] }
  | _ => { s with out := s.out ++ [o] }

/-! ### Open values -/

/-- The next value the spec leaves open (assumption 2). -/
def State.drawFree (s : State) : DWord × State := (Config.freeWord s.free, { s with free := s.free + 1 })

/-- A measure of time taken now (assumption 3). -/
def State.drawElapsed (s : State) : DWord × State := (Config.freeElapsed s.free, { s with free := s.free + 1 })

/-- The real-time clock read now (R456). -/
def State.now (s : State) : DWord × State := let (e, s') := s.drawElapsed; (s.mod.pwr.rtc + e, s')

/-! ### Power facts -/

/-- Domain `k` of a stack is ON (R470). -/
def State.domOn (s : State) (i : Fin 8) (k : Nat) : Bool := s.flag (stackPage i .pwr) 0x044 k

/-- ACLK and FCLK run: after a power failure or THERMTRIP no engine completes any further work (R455, R465). -/
def State.clocked (s : State) : Bool := !s.mod.pwr.clocksStopped

/-- A unit whose swap has cut over starts no further command (R425): activity 4 a core, 5 a lane, 6 a sequencer. -/
def State.swapping (s : State) (i : Fin 8) (act scope : Nat) : Bool :=
  (s.st i).arb.run.any fun a => a.act == act && a.scope == scope && 1 ≤ a.phase

/-! ### Events and doorbells (R30, R33, R386 to R389) -/

/-- A page's enabled events. -/
def State.pend (s : State) (p : Page) : Word := s.reg p 0x010 &&& s.reg p 0x014

/-- A mailbox's CTL domain is woken by a send or an enabled doorbell (R389). -/
def wakeBox (s : State) (i : Fin 8) (m : Nat) : State :=
  if m < 20 ∧ s.domOn i 7 = false then
    (s.modBox i m fun b => { b with waking := true }).setFlag (stackPage i .pwr) 0x044 15 true
  else s

/-- Event bit `n` of a page set, with no ring: the MBX pages' own lines send EVENT operations instead (R392). -/
def setEvt (s : State) (p : Page) (n : Nat) : State := s.setFlag p 0x010 n true

/-- Doorbell bits of a mailbox set (R386): a host mailbox that becomes pending raises HOST_MAIL (R393), an enabled bit
wakes the receiver (R387, R389). -/
def ringBits (s : State) (i : Fin 8) (m : Nat) (bs : Word) : State :=
  let b := s.box i m
  let s1 := s.modBox i m fun b => { b with db := b.db ||| bs }
  let s2 := if 20 ≤ m ∧ b.db &&& b.dbEn = 0 ∧ (b.db ||| bs) &&& b.dbEn ≠ 0
    then setEvt s1 (stackPage i .mbx (m / 16)) 3 else s1
  if bs &&& b.dbEn ≠ 0 then wakeBox s2 i m else s2

/-- The place of a block type in the routes of R388. -/
def routeOf : Blk → Option Nat
  | .mx => some 0 | .vc => some 1 | .rng => some 2 | .smp => some 3 | .bead => some 4 | .fil => some 5
  | .seq => some 6 | .arb => some 7 | .clp => some 8 | .tns => some 9 | .net => some 10 | .kxt => some 11
  | .jk => some 12 | .mem | .xfr => some 13 | .srm => some 14 | .bzl => some 15 | .lkt => some 16
  | .pwr | .pwrm => some 17 | .cal => some 18 | .mbx => none

/-- The event line of a page has risen: the doorbell its route names is rung (R33, R388). -/
def ringLine (s : State) (p : Page) : State :=
  match routeOf p.blk with
  | none => s
  | some r =>
    let rp := stackPage p.home .mbx
    let w := (s.reg rp (0x0C0 + 4 * r)).toNat
    if bitAt w 15 then ringBits s p.home (bitsOf w 5 0) (BitVec.ofNat 32 (2 ^ bitsOf w 12 8)) else s

/-- Rings if the page's line has gone from 0, in `s0`, to 1. -/
def lineRise (s0 s : State) (p : Page) : State := if s0.pend p = 0 ∧ s.pend p ≠ 0 then ringLine s p else s

/-- An event raised on a page. -/
def raiseEvt (s : State) (p : Page) (n : Nat) : State := lineRise s (setEvt s p n) p

/-! ### Locket requests (R418, R436, R439) -/

end Sys2Proof.Machine

namespace Sys2Proof

open Machine

/-- The source of a page's records (R436). -/
def Page.source (p : Page) : Source := ⟨blkType p.blk, p.instNo, p.stk⟩

/-- A page's place in the grant order of R440. -/
def Page.order (p : Page) : Nat := 16 + p.home.val * 4096 + p.no

end Sys2Proof

namespace Sys2Proof.Machine

/-- The Locket's page. -/
def lktPage : Page := modulePage .lkt

/-- What a source latches at an event (R436, R439). -/
def makeRequest (s : State) (src : Source) (order : Nat) (home : Fin 8) (code : Nat) (payload : List Byte) :
    RecReq × State :=
  let (t, s1) := s.now
  let u := (s.st home).tns
  ({ src := src, order := order, code := BitVec.ofNat 16 code, payload := slice payload 0 24, time := t,
     timeValid := s.flag (modulePage .pwrm) 0x078 2, pos := u.pos,
     posValid := u.lock == .locked || u.lock == .freewheel }, s1)

/-- A request added to those that wait. -/
def addRequest (s : State) (src : Source) (order : Nat) (home : Fin 8) (code : Nat) (payload : List Byte) : State :=
  let (r, s1) := makeRequest s src order home code payload
  s1.modLkt fun l => { l with reqs := l.reqs ++ [r] }

/-- A source asks for a record: it latches TIME and POS, or counts a dropped event if its request still waits (R439). -/
def locketRequest (s : State) (src : Source) (order : Nat) (home : Fin 8) (code : Nat) (payload : List Byte) : State :=
  if s.mod.lkt.reqs.any (fun r => r.src == src && r.order == order) then
    let s1 := s.modLkt fun l => { l with reqs := l.reqs.map fun r =>
      if r.src == src && r.order == order then { r with dropped := min 255 (r.dropped + 1) } else r }
    raiseEvt (s1.countSat lktPage 0x064) lktPage 4
  else addRequest s src order home code payload

/-- The faults that reach the Locket by their own chapters (R418), whatever LKT_CLASS_EN holds. -/
def alwaysRecorded (b : Blk) (cls det : Nat) : Bool :=
  match cls with
  | 0x01 => b == .rng && det == 0x30
  | 0x02 => 0x10 ≤ det
  | 0x06 => 0x10 ≤ det && det ≤ 0x18 && det != 0x15
  | 0x07 | 0x08 | 0x0B => true
  | 0x09 => (b == .tns && det == 0x01) || (b == .clp && (det == 0x22 || det == 0x23))
  | 0x0A => det == 0x26 || det == 0x30 || det == 0x31 || det == 0x40 || det == 0x41
  | _ => false

/-! ### Fault records (R30, R32) -/

/-- A fault stands on its page: the record, COUNT and the event (R30, R32). -/
def pageFault (s : State) (p : Page) (cls det info addr : Nat) : State :=
  let n := min 0xFFFF (s.fld p 0x020 31 16 + 1)
  let s1 := ((s.setReg p 0x020 (BitVec.ofNat 32 (det + cls * 2 ^ 8 + n * 2 ^ 16))).setReg p 0x024
    (BitVec.ofNat 32 info)).setPair p 0x028 (addr % 2 ^ 52)
  raiseEvt s1 p 0

/-- The payload of a fault's record (R438). -/
def faultPayload (s : State) (p : Page) (info addr : Nat) : List Byte :=
  leBytes info 4 ++ leBytes (addr % 2 ^ 52) 8 ++ leBytes (s.fld p 0x020 31 16) 2 ++ [0, 0] ++
    leBytes (s.st p.home).clp.step.toNat 8

/-- A block records a fault, with a Locket request where R418 says so. -/
def recordPlain (s : State) (p : Page) (cls det info addr : Nat) (tears : Bool := false) : State :=
  let s1 := pageFault s p cls det info addr
  if tears || alwaysRecorded p.blk cls det || s.flag lktPage 0x044 cls then
    locketRequest s1 p.source p.order p.home (det + cls * 2 ^ 8) (faultPayload s1 p info addr)
  else s1

/-- The blocks whose faults tear a step in COMMIT (R45): the engines of R15. -/
def isEngine : Blk → Bool
  | .mx | .vc | .rng | .smp | .bead | .fil | .jk | .xfr => true
  | _ => false

/-- A stack goes to TORN and raises it (R39). -/
def tornNow (info : Nat) (s : State) (i : Fin 8) : State :=
  raiseEvt (recordPlain (s.modClp i fun c => { c with state := .torn, sequence := .none }) (stackPage i .clp) 0x09 0x23
    info 0) (stackPage i .clp) 9

/-- A stack in COMMIT goes to TORN (R45). -/
def tornStack (info : Nat) (s : State) (i : Fin 8) : State :=
  if (s.st i).clp.state = .commit then tornNow info s i else s

/-- The module's Clasp is torn: every stack in COMMIT (R45; assumption 12). -/
def tear (s : State) (info : Nat) : State := s.stacksIn.foldl (tornStack info) s

/-- A block records a fault (R32); an engine's fault while its stack is in COMMIT tears the step (R45). -/
def recordFault (s : State) (p : Page) (cls det info addr : Nat) : State :=
  if isEngine p.blk ∧ (s.st p.home).clp.state = .commit then
    tear (recordPlain s p cls det info addr true) (blkType p.blk)
  else recordPlain s p cls det info addr

/-- The page holds an unclear fault (BLK_STAT.FAULT): until the clearing write the block stays stopped (R32). -/
def State.faulted (s : State) (p : Page) : Bool := s.fld p 0x020 31 16 != 0

/-! ### Queues (R316, R317, R320) -/

/-- Where a queue is kept. -/
def queueKey (st : Fin 8) (q : Nat) : Nat := st.val * 4096 + q

/-- A queue. -/
def State.queue (s : State) (st : Fin 8) (q : Nat) : Queue := Sparse.get (fun _ => {}) s.queues (queueKey st q)

/-- A queue changed. -/
def State.modQueue (s : State) (st : Fin 8) (q : Nat) (f : Queue → Queue) : State :=
  { s with queues := Sparse.set (fun _ => {}) s.queues (queueKey st q) (f (s.queue st q)) }

/-- The page of the engine a queue belongs to, or none for a number R316 does not list. -/
def queuePage (st : Fin 8) (q : Nat) : Option Page :=
  if q < 0x38 then some (stackPage st .mx q)
  else if 0x40 ≤ q ∧ q < 0x78 then some (stackPage st .vc (q - 0x40))
  else if 0x80 ≤ q ∧ q < 0x84 then some (stackPage st .smp)
  else if q = 0x90 then some (stackPage st .bead)
  else if q = 0xA0 then some (stackPage st .fil)
  else if 0xB0 ≤ q ∧ q < 0xB8 then some (stackPage st .xfr)
  else if 0xC0 ≤ q ∧ q < 0xC3 then some (stackPage st .jk (q - 0xC0))
  else none

/-- The queues of a page. -/
def queuesOf (p : Page) : List Nat :=
  match p.blk with
  | .mx => [p.inst]
  | .vc => [0x40 + p.inst]
  | .smp => [0x80, 0x81, 0x82, 0x83]
  | .bead => [0x90]
  | .fil => [0xA0]
  | .xfr => [0xB0, 0xB1, 0xB2, 0xB3, 0xB4, 0xB5, 0xB6, 0xB7]
  | .jk => [0xC0 + p.inst]
  | _ => []

/-- Every queue number of R316. -/
def allQueues : List Nat :=
  List.range 0x38 ++ (List.range 0x38).map (· + 0x40) ++ (List.range 4).map (· + 0x80) ++ [0x90, 0xA0] ++
  (List.range 8).map (· + 0xB0) ++ (List.range 3).map (· + 0xC0)

/-- Whether an entry has left its engine. -/
def Entry.isDone (e : Entry) : Bool :=
  match e.st with
  | .done _ => true
  | _ => false

/-- The entries at the head of a queue that are done leave it, each advancing the retire sequence (R320). -/
def retireHead : List Entry → Word → List Word → List Entry × Word × List Word
  | [], r, u => ([], r, u)
  | e :: es, r, u =>
    match e.st with
    | .done clean => retireHead es (r + 1) (if clean then u else u ++ [r + 1])
    | _ => (e :: es, r, u)

/-- A queue with its done head entries retired. -/
def Queue.advance (q : Queue) : Queue :=
  let (es, r, u) := retireHead q.entries q.retire q.unclean
  { q with entries := es, retire := r, unclean := u }

/-- The descriptor that enters a queue; its token is the accept sequence afterwards (R320). -/
def Queue.push (q : Queue) (e : Entry) : Queue := { q with entries := q.entries ++ [e], accept := q.accept + 1 }

/-- The first entry of a queue that has not left its engine, changed. -/
def modFirst (f : Entry → Entry) : List Entry → List Entry
  | [] => []
  | e :: es => if e.isDone then e :: modFirst f es else f e :: es

/-- The first entry that has not left its engine. -/
def Queue.first (q : Queue) : Option Entry := q.entries.find? fun e => !e.isDone

/-- Whether an entry stands accepted or running in its engine. -/
def Entry.inFlight (e : Entry) : Bool := e.st == .accepted || e.st == .running

/-- Work is in flight on a page: a descriptor that its engine has taken and that has not left it, a sequencer running or waiting
on its stores, a Clasp sequence. -/
def working (s : State) (p : Page) : Bool :=
  match p.blk with
  | .seq =>
    if h : p.inst < 4 then
      let q := s.seq p.home ⟨p.inst, h⟩
      q.st == .running || q.st == .loading || q.st == .ctx
    else false
  | .clp => (s.st p.home).clp.state == .commit
  | _ => (queuesOf p).any fun q => (s.queue p.home q).entries.any Entry.inFlight

/-- BLK_STAT.BUSY (R30): work is in flight, or a descriptor that entered a queue of the page, which its accept sequence counts,
has not retired. -/
def busy (s : State) (p : Page) : Bool :=
  working s p || (queuesOf p).any fun q => !(s.queue p.home q).entries.isEmpty

/-- A page runs its work out (R30): QUIESCE is 1, or ENABLE was written 0 while the page was BUSY, which acts as QUIESCE until
ENABLE is 1. The page's word at BLK_STAT, which a read never shows as it is stored, holds the second. -/
def quiescing (s : State) (p : Page) : Bool := s.flag p 0x008 2 || s.flag p 0x00C 1

/-- BLK_STAT.QUIESCED (R30): the page runs its work out, and none is in flight. -/
def quiesced (s : State) (p : Page) : Bool := quiescing s p && !working s p

/-- EVT_RAW.QUIESCED is raised when BLK_STAT.QUIESCED goes from 0, in `s0`, to 1 (R30). -/
def quiesceRise (s0 s : State) (p : Page) : State := if quiesced s p && !quiesced s0 p then raiseEvt s p 1 else s

/-- The first descriptor of a queue leaves its engine, cleanly or not. -/
def finish (s : State) (st : Fin 8) (q : Nat) (clean : Bool) : State :=
  let s1 := s.modQueue st q fun x =>
    ({ x with entries := modFirst (fun e => { e with st := .done clean }) x.entries } : Queue).advance
  match queuePage st q with
  | some p => quiesceRise s s1 p
  | none => s1

/-- Every descriptor of a queue is discarded (R31, R320). -/
def discardQueue (s : State) (st : Fin 8) (q : Nat) : State :=
  s.modQueue st q fun x =>
    ({ x with entries := x.entries.map fun e => if e.isDone then e else { e with st := .done false } } : Queue).advance

/-- Every descriptor of a queue that no engine has started is discarded. -/
def discardWaiting (s : State) (st : Fin 8) (q : Nat) : State :=
  s.modQueue st q fun x =>
    ({ x with entries := x.entries.map fun e =>
        if e.isDone || e.inFlight then e else { e with st := .done false } } : Queue).advance

/-- The binding that a queue's descriptors are checked against (R316). -/
def queueBind (s : State) (st : Fin 8) (q : Nat) : Nat :=
  if 0x80 ≤ q ∧ q < 0x84 then s.fld (stackPage st .smp) (0x050 + 4 * (q - 0x80)) 15 0
  else match queuePage st q with
    | some p => s.fld p 0x030 15 0
    | none => 0

/-- An engine's fault: it is recorded, and the descriptor leaves its queue uncleanly. -/
def engineFault (s : State) (st : Fin 8) (q : Nat) (cls det info addr : Nat) : State :=
  match queuePage st q with
  | none => s
  | some p => finish (recordFault s p cls det info addr) st q false

end Sys2Proof.Machine
end

