-- ==== Sys2Proof/Machine/Memory.lean ====
section
/-! DEFINITION. The memories of a stack (R25 to R28, R286 to R311): the address map, bytes, uncorrectable words, the region
table and commit protection, and the commands of patrols, repairs and regions. -/

namespace Sys2Proof.Machine

/-! ### The address map (R25, R26) -/

/-- What a stack offset reaches. -/
inductive Place where
  | lpddr
  | sram
  | panel (core : Nat)
  | regs
  deriving DecidableEq, Repr

/-- The stack field and the stack offset of a device address. -/
def stackField (a : Nat) : Nat := bitsOf a 51 48
def offsetOf (a : Nat) : Nat := a % 2 ^ 48

/-- The first address of a stack's LPDDR5X, SRAM, panel store and register space. -/
def lpddrBase (st : Nat) : Nat := st * 2 ^ 48
def sramBase (st : Nat) : Nat := st * 2 ^ 48 + 0x400000000000
def panelBase (st c : Nat) : Nat := st * 2 ^ 48 + 0x500000000000 + c * 0x100000
def lpddrSize : Nat := 384 * 2 ^ 30
def sramSize : Nat := 3 * 2 ^ 30
def panelSize : Nat := 2 ^ 20

/-- What a stack offset reaches, none where it is unmapped (R26, R27; pages are looked up by `pageAt`). -/
def placeOf (off : Nat) : Option Place :=
  if off < lpddrSize then some .lpddr
  else if 0x400000000000 ≤ off ∧ off < 0x400000000000 + sramSize then some .sram
  else if 0x500000000000 ≤ off ∧ off < 0x500000000000 + 56 * panelSize then
    some (.panel ((off - 0x500000000000) / panelSize))
  else if 0x7F0000000000 ≤ off ∧ off < 0x7F0001000000 then some .regs
  else none

/-- The memory a byte range lies wholly in, in the populated stack it names: none where an address bit above 51 is set, the
stack is absent, or the range leaves the memory. -/
def rangePlace (s : State) (a n : Nat) : Option Place :=
  if a < 2 ^ 52 ∧ s.has (stackField a) = true ∧ n ≠ 0 then
    match placeOf (offsetOf a) with
    | some p => if placeOf (offsetOf a + n - 1) = some p then some p else none
    | none => none
  else none

/-- A range in the SRAM or LPDDR5X of stack `st`. -/
def inMemory (s : State) (st : Fin 8) (a n : Nat) : Bool :=
  stackField a == st.val && (rangePlace s a n == some .sram || rangePlace s a n == some .lpddr)

/-! ### Bytes -/

/-- What a byte that nothing has written reads as: zero (R119, R311), and for LPDDR5X whose key was discarded a free value
(R296; assumption 4). -/
def memDefault (stk : Vector Stack 8) (a : Nat) : Byte :=
  if h : a / 2 ^ 48 < 8 then
    let e := stk[a / 2 ^ 48].pwr.keyEpoch
    if e ≠ 0 ∧ a % 2 ^ 48 < lpddrSize then Config.freeByte e a else 0
  else 0

/-- A byte of memory. -/
def State.byte (s : State) (a : Nat) : Byte := Sparse.get (memDefault s.stk) s.mem a

/-- A byte stored. -/
def State.setByte (s : State) (a : Nat) (b : Byte) : State :=
  { s with mem := Sparse.set (memDefault s.stk) s.mem a b }

/-- `n` bytes from an address. -/
def State.bytes (s : State) (a n : Nat) : List Byte := Sparse.getList (memDefault s.stk) s.mem a n

/-- Bytes stored from an address. -/
def State.setBytes (s : State) (a : Nat) (bs : List Byte) : State :=
  { s with mem := Sparse.setList (memDefault s.stk) s.mem a bs }

/-- The form that memory keeps (assumption 4): addresses strictly rising, no byte listed that reads so unlisted. -/
abbrev Memory.wf (s : State) : Prop := Sparse.wf (memDefault s.stk) s.mem = true

/-- Every byte whose address fails the test reads as unlisted again: a memory that is written with zeros, or whose key is
discarded. -/
def State.keepBytes (s : State) (p : Nat → Bool) : State := { s with mem := Sparse.keep p s.mem }

/-! ### Uncorrectable words (R289, R294, R295) -/

/-- How many bytes an uncorrectable error spans: the 64-bit word of SRAM and panel store, the 256-byte line of LPDDR5X. -/
def eccUnit (a : Nat) : Nat := if a % 2 ^ 48 < lpddrSize then 256 else 8

/-- The start of the unit an address lies in. -/
def unitStart (a : Nat) : Nat := a / eccUnit a * eccUnit a

/-- The first unit with an uncorrectable error that a range touches. -/
def badUnit (s : State) (a n : Nat) : Option Nat :=
  s.bad.find? fun w => unitStart w < a + n && a < unitStart w + eccUnit w

/-- A write of bytes: a unit with an error is cleared when it is covered whole, and otherwise keeps its bytes and its
error; answers the first unit that could not be merged (R289, R295). -/
def rawWrite (s : State) (a : Nat) (bs : List Byte) : State × Option Nat :=
  if s.bad = [] then (s.setBytes a bs, none)
  else
    let covered := fun w => a ≤ unitStart w && unitStart w + eccUnit w ≤ a + bs.length
    let touched := fun w => unitStart w < a + bs.length && a < unitStart w + eccUnit w
    let keep := s.bad.filter fun w => !covered w
    let s1 : State := { s with bad := keep }
    let wr := (bs.zipIdx).foldl (fun (s : State) (e : Byte × Nat) =>
      if keep.any fun w => unitStart w ≤ a + e.2 && a + e.2 < unitStart w + eccUnit w then s
      else s.setByte (a + e.2) e.1) s1
    (wr, (keep.find? touched).map unitStart)

/-- Every LPDDR5X device of a stack is trained (R464): else its LPDDR5X cannot be read. -/
def lpddrTrained (s : State) (st : Fin 8) : Bool := (List.range 4).all fun d => s.flag (stackPage st .mem d) 0x06C 0

/-- The device an LPDDR5X offset lies on (R292). -/
def lpddrChannel (o : Nat) : Nat := Nat.xor (Nat.xor (bitsOf o 11 8) (bitsOf o 19 16)) (bitsOf o 27 24)

/-- The count of an uncorrectable read or merge: SRM_UE_CNT, or MEM_LINK_UE_CNT of the device (R289, R294). -/
def countUe (s : State) (a : Nat) : State :=
  let st : Fin 8 := if h : a / 2 ^ 48 < 8 then ⟨a / 2 ^ 48, h⟩ else 0
  match placeOf (offsetOf a) with
  | some .sram => raiseEvt (s.countSat (stackPage st .srm) 0x04C) (stackPage st .srm) 4
  | some .lpddr =>
    let p := stackPage st .mem (lpddrChannel (offsetOf a) / 4)
    raiseEvt (s.countSat p 0x054) p 3
  | _ => s

/-! ### Regions (R299 to R302) -/

/-- Why an engine's access to memory is refused or fails. -/
inductive MemErr where
  /-- a region fault of R300: its detail, the region number, the first refused address -/
  | region (det rgn addr : Nat)
  /-- an uncorrectable word or line (R289, R294) -/
  | ecc (addr : Nat)
  deriving DecidableEq, Repr

/-- The valid entry that holds an address of a stack, with its number. -/
def regionAt (s : State) (st : Fin 8) (a : Nat) : Option (Nat × Region) :=
  (s.st st).regions.find? fun e =>
    e.2.valid && e.2.base.toNat ≤ offsetOf a && offsetOf a < e.2.base.toNat + e.2.size.toNat

/-- The check of one 64 KiB piece (R300): the firmware plan is exempt from the binding check only; a write to a CP region
needs COMMIT and an engine the Clasp drives. -/
def regionPiece (s : State) (st : Fin 8) (plan : Nat) (write driven : Bool) (a : Nat) : Option MemErr :=
  match regionAt s st a with
  | none => if plan = 0xFFFF then none else some (.region 0x12 0xFFFF a)
  | some (n, r) =>
    if plan ≠ 0xFFFF ∧ (plan = 0 ∨ r.plan.toNat ≠ plan ∨ 2 ≤ r.bst) then some (.region 0x11 n a)
    else if write ∧ r.cp ∧ ((s.st st).clp.state ≠ .commit ∨ driven = false) then some (.region 0x10 n a)
    else none

/-- The check of an access at each 64 KiB boundary it crosses (R300). -/
def regionCheck (s : State) (st : Fin 8) (plan : Nat) (write driven : Bool) (a n : Nat) : Option MemErr :=
  let first := a / 65536
  let last := (a + n - 1) / 65536
  if n = 0 then none
  else (List.range (last + 1 - first)).findSome? fun i =>
    regionPiece s st plan write driven (max a ((first + i) * 65536))

/-- The stack an address names. -/
def stackOf (a : Nat) : Fin 8 := if h : stackField a < 8 then ⟨stackField a, h⟩ else 0

/-- The first failure to read a range: an uncorrectable unit, or an untrained LPDDR5X (R289, R294, R464). -/
def readFailure (s : State) (a n : Nat) : Option Nat :=
  if a % 2 ^ 48 < lpddrSize ∧ lpddrTrained s (stackOf a) = false then some a
  else (badUnit s a n).map fun w => max a (unitStart w)

/-- An engine's read of a stack's SRAM or LPDDR5X under a plan: the bytes, or why not. Panel stores carry no region. -/
def engRead (s : State) (st : Fin 8) (plan a n : Nat) : Except MemErr (List Byte) :=
  if n = 0 then .ok []
  else
    let checked := match placeOf (offsetOf a) with
      | some (.panel _) => none
      | _ => regionCheck s st plan false false a n
    match checked with
    | some e => .error e
    | none =>
      match readFailure s a n with
      | some f => .error (.ecc f)
      | none => .ok (s.bytes a n)

/-- An engine's write: the state after it, and why it failed, if it did. A refused write writes nothing (R300); one that
meets an uncorrectable unit it does not cover writes the rest (R289). -/
def engWrite (s : State) (st : Fin 8) (plan : Nat) (driven : Bool) (a : Nat) (bs : List Byte) : State × Option MemErr :=
  if bs = [] then (s, none)
  else
    let checked := match placeOf (offsetOf a) with
      | some (.panel _) => none
      | _ => regionCheck s st plan true driven a bs.length
    match checked with
    | some e => (s, some e)
    | none =>
      if a % 2 ^ 48 < lpddrSize ∧ lpddrTrained s (stackOf a) = false then (s, some (.ecc a))
      else match rawWrite s a bs with
        | (s1, none) => (s1, none)
        | (s1, some f) => (s1, some (.ecc f))

/-- A memory error recorded on an engine's page: a region fault under class 0x0A, an uncorrectable word under the engine's
own class 0x02 code. `low` is FAULT_INFO[15:0], `eccHigh` FAULT_INFO[31:16] of the engine's code. -/
def memFault (s : State) (p : Page) (e : MemErr) (eccDet low eccHigh : Nat) : State :=
  match e with
  | .region det rgn a => recordFault s p 0x0A det (rgn * 2 ^ 16 + low) a
  | .ecc a => recordFault (countUe s a) p 0x02 eccDet (eccHigh * 2 ^ 16 + low) a

/-! ### The region table's registers (R299, R309) -/

/-- The transfer engine's page. -/
def xfrPage (st : Fin 8) : Page := stackPage st .xfr

/-- RGN_REJECT (R299). -/
def rgnReject (s : State) (st : Fin 8) : State := raiseEvt (s.setFlag (xfrPage st) 0x040 8 true) (xfrPage st) 4

/-- The memory a region lies in: whole in SRAM or in LPDDR5X, base and size multiples of 64 KiB (R299). -/
def regionFits (base size : Nat) : Bool :=
  base % 65536 == 0 && size % 65536 == 0 && size != 0 &&
    (base + size ≤ lpddrSize || (0x400000000000 ≤ base && base + size ≤ 0x400000000000 + sramSize))

/-- Two regions share a byte. -/
def regionsMeet (b1 n1 b2 n2 : Nat) : Bool := b1 < b2 + n2 && b2 < b1 + n1

/-- A write of MEM_RGN_ATTR (R299): it applies the staged base and size and the attributes of the selected entry, or is
ignored with RGN_REJECT. -/
def regionWrite (s : State) (st : Fin 8) (v : Word) : State :=
  let n := s.fld (xfrPage st) 0x04C 5 0
  let r := s.region st n
  let valid := bitAt v.toNat 0
  let base := r.stagedBase.toNat
  let size := r.stagedSize.toNat
  let meets := (s.st st).regions.any fun e =>
    e.1 != n && e.2.valid && regionsMeet base size e.2.base.toNat e.2.size.toNat
  let cpOk := bitAt v.toNat 1 == r.cp || (s.st st).clp.state == .idle || (s.st st).clp.state == .torn
  if r.plan = 0 ∧ r.bst < 2 ∧ cpOk = true ∧ (valid = false ∨ (regionFits base size = true ∧ meets = false)) then
    s.modRegion st n fun r =>
      { r with base := r.stagedBase, size := r.stagedSize, valid := valid, cp := bitAt v.toNat 1,
               scrub := bitAt v.toNat 2, ckpt := bitAt v.toNat 3 }
  else rgnReject s st

/-- A write of a staged half of MEM_RGN_BASE or MEM_RGN_SIZE (R299, R9): ignored with RGN_REJECT for an entry bound to a
plan. `size` selects the pair, `hi` and `lo` are its halves. -/
def regionStage (s : State) (st : Fin 8) (size : Bool) (hi lo : Word) : State :=
  let n := s.fld (xfrPage st) 0x04C 5 0
  let v : DWord := hi ++ (lo &&& 0xFFFF0000)
  if (s.region st n).plan = 0 then
    s.modRegion st n fun r => if size then { r with stagedSize := v } else { r with stagedBase := v }
  else rgnReject s st

/-! ### Patrols (R291, R298, R310) -/

/-- SRAM_PATROL (R291, R310): the patrol reads line `line` of the SRAM, corrects `ce` words, and counts and records an
uncorrectable one, which it leaves. -/
def execSramPatrol (st : Fin 8) (line ce : Nat) (s : State) : Host.Outcome State Fault Refusal :=
  if s.has st then
    let p := stackPage st .srm
    .next (if s.flag p 0x050 0 = false ∨ s.domOn st 6 = false ∨ sramSize / 256 ≤ line then s
      else
        let s1 := if ce = 0 then s else raiseEvt (s.countSat p 0x048 ce) p 3
        match badUnit s1 (sramBase st + line * 256) 256 with
        | some w => recordFault (raiseEvt (s1.countSat p 0x04C) p 4) p 0x02 0x12 0 (unitStart w)
        | none => s1)
  else .fault .absentStack

/-- LPDDR5X_PATROL (R298, R294): the patrol reads and rewrites line `line` of its device, counting corrected link errors;
a line with an uncorrectable error is not rewritten and is counted. -/
def execLpddr5xPatrol (st : Fin 8) (dev : Fin 4) (line linkCe : Nat) (linkUe : Bool) (s : State) :
    Host.Outcome State Fault Refusal :=
  if s.has st then
    let p := stackPage st .mem dev.val
    .next (if s.flag p 0x040 0 = false ∨ s.domOn st 6 = false ∨ s.flag p 0x06C 0 = false then s
      else
        let s1 := if linkCe = 0 then s else s.countSat p 0x050 linkCe
        let s2 := if linkUe then (s1.countSat p 0x058 2).countSat p 0x05C else s1
        let lines := 96 * 2 ^ 30 / 256
        let s3 := s2.setPair p 0x060 ((line + 1) % lines * 256)
        if line + 1 = lines then raiseEvt s3 p 5 else s3)
  else .fault .absentStack

/-- The device state of a retraining channel (R298, R308). -/
def setRetraining (s : State) (st : Fin 8) (ch : Nat) (on : Bool) : State := s.setFlag (stackPage st .mem (ch / 4)) 0x06C 2 on

/-! ### Clearing -/

/-- The SRAM of a stack written with zeros (R311). -/
def zeroSram (s : State) (st : Fin 8) : State :=
  let lo := sramBase st
  { s.keepBytes (fun a => !(lo ≤ a && a < lo + sramSize)) with
    bad := s.bad.filter fun a => !(lo ≤ a && a < lo + sramSize) }

/-- A panel store written with zeros (R119, R329). -/
def zeroPanel (s : State) (st : Fin 8) (c : Nat) : State :=
  let lo := panelBase st c
  { s.keepBytes (fun a => !(lo ≤ a && a < lo + panelSize)) with
    bad := s.bad.filter fun a => !(lo ≤ a && a < lo + panelSize) }

/-- A range written with zeros: the scrub of a region (R302). An SRAM byte reads as zero unlisted; LPDDR5X bytes are
written, so that they read as zero whatever the key. -/
def zeroRange (s : State) (a n : Nat) : State :=
  let s1 : State := { s with bad := s.bad.filter fun w => !(a ≤ unitStart w && unitStart w + eccUnit w ≤ a + n) }
  if a % 2 ^ 48 < lpddrSize ∧ (s.st (stackOf a)).pwr.keyEpoch ≠ 0 then s1.setBytes a (List.replicate n 0)
  else s1.keepBytes fun k => !(a ≤ k && k < a + n)

/-- The LPDDR5X key of a stack is discarded (R296, R311): what it held becomes unreadable. -/
def loseKey (s : State) (st : Fin 8) : State :=
  let lo := lpddrBase st
  let s1 := s.keepBytes fun a => !(lo ≤ a && a < lo + lpddrSize)
  { s1 with bad := s1.bad.filter fun a => !(lo ≤ a && a < lo + lpddrSize) }.modPwr st fun p =>
    { p with keyEpoch := p.keyEpoch + 1 }

end Sys2Proof.Machine
end

