-- ==== Sys2Proof/Machine/Arbiter.lean ====
section
/-! DEFINITION. The maintenance arbiter (R334 to R337, R339), spare swaps (R423 to R429), repairs and retraining that pass
through it (R290, R297, R298), and the Bezel's checks (R422). -/

namespace Sys2Proof.Machine

/-- The ARB page of a stack. -/
def arbPage (st : Fin 8) : Page := stackPage st .arb

/-! ### Judging (R334 to R336) -/

/-- Both scopes stand for the same LPDDR5X device; activity 0 names channels, 1 and 7 devices; 0xFFFF is every one. -/
def sameDevice (a b : Activity) : Bool :=
  let dev := fun (x : Activity) => if x.act = 0 then x.scope / 4 else x.scope
  a.scope == 0xFFFF || b.scope == 0xFFFF || dev a == dev b

/-- A region entry of the stack lies in SRAM. -/
def sramRegion (s : State) (st : Fin 8) (n : Nat) : Bool := 0x400000000000 ≤ (s.region st n).base.toNat

/-- The swap class S (R334). -/
def swapClass (n : Nat) : Bool := 4 ≤ n && n ≤ 8

/-- One direction of the conflict relation of R334. -/
def conflictHalf (s : State) (st : Fin 8) (a b : Activity) : Bool :=
  match a.act, b.act with
  | 0, 1 | 0, 7 | 1, 7 => sameDevice a b
  | 0, 13 | 2, 3 | 3, 3 | 9, 9 | 9, 11 | 10, 10 | 11, 11 | 12, 12 => true
  | 1, 14 => !sramRegion s st b.scope
  | 2, 14 => sramRegion s st b.scope
  | x, y => swapClass x && swapClass y

/-- The conflict relation (R334), symmetric. -/
def conflicts (s : State) (st : Fin 8) (a b : Activity) : Bool := conflictHalf s st a b || conflictHalf s st b a

/-- The activities that yield (R334). -/
def yields (n : Nat) : Bool := n == 1 || n == 2 || n == 14

/-- A patrol is paused while a conflicting activity runs (R334, R336): 1 with device, 2 for the SRAM. -/
def patrolPaused (s : State) (st : Fin 8) (act dev : Nat) : Bool :=
  (s.st st).arb.run.any fun a => conflicts s st a { act := act, scope := dev, sub := 3, ticket := 0 }

/-- The running activities that hold a request up: those it conflicts with that do not yield. -/
def blockers (s : State) (st : Fin 8) (a : Activity) : List Activity :=
  (s.st st).arb.run.filter fun r => conflicts s st a r && !yields r.act

/-- The greatest scope of an activity, or for lanes the two ranges (R334). -/
def scopeOk (act scope : Nat) : Bool :=
  match act with
  | 0 => scope < 16
  | 1 | 6 | 7 => scope < 4
  | 2 | 11 | 12 | 13 => scope == 0
  | 3 | 14 => scope < 64
  | 4 => scope < 56
  | 5 => scope < 16 || (0x100 ≤ scope && scope < 0x108)
  | 8 => scope < 3
  | 9 => scope < 2
  | 10 => scope < 256
  | _ => false

/-- Whether a submitter of R336 may submit an activity: the one R334 names; the Tense unit for the kinds of R337; and the
Bezel and the host, through ARB_SUBMIT, those of the management core (assumption 13). -/
def submitterOk (sub act scope : Nat) : Bool :=
  match sub with
  | 0 => scope == 0xFFFF && (act == 0 || act == 9 || act == 12 || act == 13)
  | 1 => act == 11
  | 2 => act == 10
  | 3 => act == 0 || act == 1 || act == 2 || act == 3 || act == 7
  | 4 | 5 | 6 => act == 4 || act == 5 || act == 6 || act == 8 || act == 9 || act == 12 || act == 13
  | _ => act == 14

/-- REFUSED_SCOPE (R335, R337): activities 11 and 12 use the arbiter of stack 0. -/
def scopeRefused (st : Fin 8) (a : Activity) : Bool :=
  !submitterOk a.sub a.act a.scope || (!scopeOk a.act a.scope && a.sub != 0) ||
    ((a.act == 11 || a.act == 12) && st != 0)

/-- The result of a submission (R335): 0 admitted, 1 queued, 2 conflict, 3 duplicate, 4 full, 6 scope. -/
def judge (s : State) (st : Fin 8) (a : Activity) : Nat :=
  let b := blockers s st a
  if scopeRefused st a then 6
  else if (s.st st).arb.wait.any fun w => w.act == a.act && w.scope == a.scope then 3
  else if b = [] then 0
  else if a.act = 10 ∨ a.act = 12 ∨ (a.act = 11 ∧ b.any fun r => r.act == 11) then 2
  else if 32 ≤ (s.st st).arb.wait.length then 4
  else 1

/-- An activity begins: retraining closes its channel (R298). -/
def activityStart (s : State) (st : Fin 8) (a : Activity) : State :=
  let s1 := (s.modArb st fun b => { b with run := b.run ++ [a] }).countWrap (arbPage st) 0x058
  let s2 := raiseEvt s1 (arbPage st) 3
  if a.act = 0 ∧ a.scope < 16 then setRetraining s2 st a.scope true else s2

/-- The ARB record of a refusal or timeout (R335, R438). -/
def arbRecord (s : State) (st : Fin 8) (a : Activity) (status : Nat) : State :=
  locketRequest s (arbPage st).source (arbPage st).order st 0x8005
    (leBytes a.act 1 ++ leBytes status 1 ++ leBytes a.scope 2 ++ leBytes a.ticket 2)

/-- A refusal: counted, raised and recorded (R335). -/
def refuseActivity (s : State) (st : Fin 8) (a : Activity) (status : Nat) : State :=
  raiseEvt (arbRecord (s.countSat (arbPage st) 0x05C) st a status) (arbPage st) 4

/-- A submission (R335): judged, given a ticket, and admitted, queued or refused. Answers its STATUS. -/
def submit (s : State) (st : Fin 8) (sub act scope : Nat) : State × Nat :=
  let a : Activity := { act := act, scope := scope, sub := sub, ticket := (s.st st).arb.ticket }
  let s1 := s.modArb st fun b => { b with ticket := (b.ticket + 1) % 65536 }
  match judge s st a with
  | 0 => (activityStart s1 st a, 0)
  | 1 => (s1.modArb st fun b => { b with wait := b.wait ++ [a] }, 1)
  | k => (refuseActivity s1 st a k, k)

/-! ### Spares (R423, R426 to R428) -/

/-- The spare map registers (R429). -/
def spareReg (s : State) (st : Fin 8) (i : Nat) : Nat := (s.reg (arbPage st) (0x0A0 + 4 * i)).toNat
def laneReg (s : State) (st : Fin 8) : Nat := (s.reg (arbPage st) 0x0B0).toNat

/-- The physical core behind a logical one: its spare where one serves it, else the core of the same number
(assumption 5). -/
def physCore (s : State) (st : Fin 8) (c : Nat) : Nat :=
  match (List.range 4).find? fun i => bitAt (spareReg s st i) 14 && bitsOf (spareReg s st i) 13 8 == c with
  | some i => bitsOf (spareReg s st i) 5 0
  | none => c

/-- A quadrant is powered, and the core in it is. -/
def coreOn (s : State) (st : Fin 8) (c : Nat) : Bool := s.domOn st (physCore s st c / 15)

/-- The free spare cores, in ascending number. -/
def freeCores (s : State) (st : Fin 8) : List Nat :=
  (List.range 4).filter fun i => !bitAt (spareReg s st i) 14 && !bitAt (spareReg s st i) 15

/-- The spare a core swap takes (R426): one of the same quadrant, else one in a powered quadrant, else the lowest. -/
def pickCore (s : State) (st : Fin 8) (c : Nat) : Option Nat :=
  let free := freeCores s st
  let quad := fun i => bitsOf (spareReg s st i) 5 0 / 15
  match free.find? fun i => quad i == physCore s st c / 15 with
  | some i => some i
  | none => match free.find? fun i => s.domOn st (quad i) with
    | some i => some i
    | none => free.head?

/-- The USED and RETIRED bits of the lane and sequencer spares (R429): 0 and 1 the sampler's, 2 the gather spare, 3 the
sequencer's. -/
def laneBits : Nat → Nat × Nat
  | 0 => (4, 5)
  | 1 => (12, 13)
  | 2 => (19, 20)
  | _ => (26, 27)

/-- The bits that name the unit a lane spare serves. -/
def laneField : Nat → Nat × Nat
  | 0 => (3, 0)
  | 1 => (11, 8)
  | 2 => (18, 16)
  | _ => (25, 24)

/-- A lane spare is free. -/
def laneFree (s : State) (st : Fin 8) (i : Nat) : Bool :=
  !bitAt (laneReg s st) (laneBits i).1 && !bitAt (laneReg s st) (laneBits i).2

/-- The spare a swap takes, by activity and scope (R423). -/
def pickSpare (s : State) (st : Fin 8) (act scope : Nat) : Option Nat :=
  match act with
  | 4 => pickCore s st scope
  | 5 => if scope < 0x100 then [0, 1].find? (laneFree s st) else [2].find? (laneFree s st)
  | 6 => [3].find? (laneFree s st)
  | _ => some 0

/-- The page on which a unit's death is recorded (R428). -/
def unitPage (st : Fin 8) (act scope : Nat) : Page :=
  match act with
  | 4 => stackPage st .mx scope
  | 5 => if scope < 0x100 then stackPage st .smp else stackPage st .bead
  | _ => stackPage st .seq scope

/-- The kind of a SWAP record (R438). -/
def swapKind (act scope : Nat) : Nat := match act with | 4 => 0 | 5 => (if scope < 0x100 then 1 else 2) | 6 => 3 | 3 => 4 | _ => 5

/-- A SWAP record (R438): outcome 0 done, 1 aborted, 2 dead. -/
def swapRecord (s : State) (st : Fin 8) (act scope outcome old new : Nat) : State :=
  locketRequest s (arbPage st).source (arbPage st).order st 0x8006
    (leBytes (swapKind act scope) 1 ++ leBytes outcome 1 ++ leBytes (scope % 0x100) 2 ++ leBytes old 2 ++ leBytes new 2 ++
      leBytes (s.pair (arbPage st) 0x0C4) 8 ++ leBytes (s.st st).clp.step.toNat 8)

/-- ARB_DEAD and ARB_DEAD_CORE marks (R429). -/
def markDead (s : State) (st : Fin 8) (act scope : Nat) : State :=
  match act with
  | 4 => if scope < 32 then s.setFlag (arbPage st) 0x0B8 scope true else s.setFlag (arbPage st) 0x0BC (scope - 32) true
  | 5 => if scope < 0x100 then s.setFlag (arbPage st) 0x0B4 scope true
    else s.setFlag (arbPage st) 0x0B4 (16 + (scope - 0x100)) true
  | _ => s.setFlag (arbPage st) 0x0B4 (24 + scope) true

/-- A core is dead: its MX, VC and RNG commands are rejected (R428). -/
def coreDead (s : State) (st : Fin 8) (c : Nat) : Bool :=
  if c < 32 then s.flag (arbPage st) 0x0B8 c else s.flag (arbPage st) 0x0BC (c - 32)

/-- The unit becomes dead (R428). FAULT_INFO, which the spec does not state, is a free value (assumption 2). -/
def unitDead (s : State) (st : Fin 8) (act scope : Nat) : State :=
  let (v, s1) := s.drawFree
  let s2 := recordFault (markDead s1 st act scope) (unitPage st act scope) 0x0A 0x40 (v.toNat % 2 ^ 32) 0
  let s3 := swapRecord (raiseEvt s2 (arbPage st) 8) st act scope 2 scope 0
  if act = 6 then
    if h : scope < 4 then s3.modSeq st ⟨scope, h⟩ fun q => { q with st := .faulted, wait := .none } else s3
  else s3

/-- A submission by the firmware or the host: a swap for which no spare is left kills the unit instead (R428). -/
def submitOrDie (s : State) (st : Fin 8) (sub act scope : Nat) : State × Nat :=
  if (act = 4 ∨ act = 5 ∨ act = 6) ∧ scopeOk act scope ∧ submitterOk sub act scope ∧ pickSpare s st act scope = none
  then (unitDead s st act scope, 2)
  else submit s st sub act scope

/-- ACTIVITY_SUBMIT (R335). -/
def execActivitySubmit (st : Fin 8) (sub act scope : Nat) (s : State) : Host.Outcome State Fault Refusal :=
  if s.has st then .next (submitOrDie s st sub act scope).1 else .fault .absentStack

/-- The submitter index of a requester's ARB_SUBMIT (R336, R339). -/
def submitterOf : Requester → Nat
  | .bezel => 5
  | .mgmt => 4
  | .jukan (.bezel _) => 5
  | .jukan (.mgmt _) => 4
  | _ => 6

/-- A write of ARB_SUBMIT (R339): with GO, a submission whose result stands in ARB_RESULT. -/
def arbSubmitWrite (s : State) (r : Requester) (st : Fin 8) (v : Word) : State :=
  let n := v.toNat
  if bitAt n 31 then
    let ticket := (s.st st).arb.ticket
    let (s1, k) := submitOrDie s st (submitterOf r) (bitsOf n 3 0) (bitsOf n 23 8)
    s1.setReg (arbPage st) 0x044 (BitVec.ofNat 32 (k + bitsOf n 3 0 * 2 ^ 8 + ticket * 2 ^ 16))
  else s

/-- A waiting request may start: nothing running that does not yield conflicts with it. -/
def admissible (s : State) (st : Fin 8) (a : Activity) : Bool := (blockers s st a).isEmpty

/-- ACTIVITY_ADMIT (R336): the `i`-th waiting request, the first in order of arrival that may start. A swap whose last
spare another has taken kills its unit (R427, R428). -/
def execActivityAdmit (st : Fin 8) (i : Nat) (s : State) : Host.Outcome State Fault Refusal :=
  if s.has st then
    .next (
      let w := (s.st st).arb.wait
      match w[i]? with
      | none => s
      | some a =>
        if admissible s st a ∧ (w.take i).all fun b => !admissible s st b then
          let s1 := s.modArb st fun b => { b with wait := b.wait.eraseIdx i }
          if (a.act = 4 ∨ a.act = 5 ∨ a.act = 6) ∧ pickSpare s st a.act a.scope = none then
            unitDead s1 st a.act a.scope
          else activityStart s1 st a
        else s)
  else .fault .absentStack

/-- A ring page moved to a spare by compaction (R441): which page its corrected errors chose the spec leaves to the CAL
threshold, so it is a free value (assumption 2). -/
def compact (s : State) : State :=
  let (v, s1) := s.drawFree
  let l := s1.mod.lkt
  let page := v.toNat % 1024
  if l.spareUsed < 16 then
    let s2 := s1.modLkt fun l =>
      { l with remap := Sparse.set (fun _ => 0) l.remap page (l.spareUsed + 1), spareUsed := l.spareUsed + 1 }
    locketRequest (raiseEvt s2 lktPage 5) lktPage.source lktPage.order 0 0x800F
      (leBytes page 2 ++ leBytes l.spareUsed 1 ++ leBytes 1 1)
  else s1

/-- An activity leaves the running set. -/
def dropActivity (s : State) (st : Fin 8) (act scope : Nat) : State :=
  s.modArb st fun b => { b with run := b.run.filter fun a => !(a.act == act && a.scope == scope) }

/-- Whether the work of an activity may end: the module's checkpoint streams while a stack still streams (R364). -/
def mayEnd (s : State) (act : Nat) : Bool :=
  act != 11 || s.stacksIn.all fun i => !(s.st i).ckpt.wanted && !(s.st i).ckpt.streaming

/-- ACTIVITY_END (R336): what it held up may start; retraining reopens its channel, compaction moves a page. -/
def execActivityEnd (st : Fin 8) (act scope : Nat) (s : State) : Host.Outcome State Fault Refusal :=
  if s.has st then
    .next (if mayEnd s act ∧ (s.st st).arb.run.any (fun a => a.act == act && a.scope == scope) then
      let s1 := dropActivity s st act scope
      if act = 0 ∧ scope < 16 then setRetraining s1 st scope false
      else if act = 12 then compact s1
      else s1
    else s)
  else .fault .absentStack

/-- A waiting request ends with REFUSED_TIMEOUT (R335, R341): a checkpoint that waited for it starts no stream. -/
def endWaiting (s : State) (st : Fin 8) (a : Activity) : State :=
  let s1 := refuseActivity (s.modArb st fun b => { b with wait := b.wait.erase a }) st a 5
  let s2 := if s.fld (arbPage st) 0x044 31 16 = a.ticket ∧ s.fld (arbPage st) 0x044 11 8 = a.act
    then s1.setFld (arbPage st) 0x044 2 0 5 else s1
  if a.act = 11 then
    s2.stacksIn.foldl (fun s i => s.modSt i fun x => { x with ckpt := { x.ckpt with wanted := false } }) s2
  else s2

/-- QUEUE_TIMEOUT (R335, R340): the `i`-th waiting request has waited ARB_QLIMIT milliseconds; 0 sets no limit. -/
def execQueueTimeout (st : Fin 8) (i : Nat) (s : State) : Host.Outcome State Fault Refusal :=
  if s.has st then
    .next (match (s.st st).arb.wait[i]? with
      | none => s
      | some a =>
        if s.fld (arbPage st) 0x054 15 0 = 0 then s
        else
          recordFault (endWaiting s st a) (arbPage st) 0x0A 0x31 (a.act * 2 ^ 16) 0)
  else .fault .absentStack

/-! ### Cut-over (R425, R426) -/

/-- The running swap of a unit. -/
def runningSwap (s : State) (st : Fin 8) (act scope : Nat) : Option Activity :=
  (s.st st).arb.run.find? fun a => a.act == act && a.scope == scope && (act == 4 || act == 5 || act == 6)

/-- A running activity changed. -/
def modActivity (s : State) (st : Fin 8) (act scope : Nat) (f : Activity → Activity) : State :=
  s.modArb st fun b => { b with run := b.run.map fun a => if a.act = act ∧ a.scope = scope then f a else a }

/-- The cut-over position has come (R425): at once where ARB_SWAP_POS is 0 or the Tense unit keeps no time; not while the
state is COMMIT. -/
def cutoverDue (s : State) (st : Fin 8) : Bool :=
  let u := (s.st st).tns
  let p := s.pair (arbPage st) 0x0C4
  (s.st st).clp.state != .commit &&
    (p == 0 || !(u.lock == .locked || u.lock == .freewheel) || p ≤ u.pos.toNat)

/-- SWAP_CUTOVER (R425, R426): the unit starts no further command, the spare is chosen, and its quadrant is powered up if
need be. A unit being re-bound waits for its handover (R333). -/
def execSwapCutover (st : Fin 8) (act scope : Nat) (s : State) : Host.Outcome State Fault Refusal :=
  if s.has st then
    .next (match runningSwap s st act scope, pickSpare s st act scope with
      | some a, some i =>
        let code := if act = 4 then scope else if act = 6 then 0x130 + scope else if scope < 0x100 then 0x100 + scope / 4 else 0x110
        let rebinding := (s.st st).arb.bind.any fun c => c.left.any fun r => r.res == code
        if a.phase = 0 ∧ cutoverDue s st = true ∧ rebinding = false then
          let s1 := modActivity s st act scope fun a => { a with phase := 1, spare := i }
          let q := bitsOf (spareReg s st i) 5 0 / 15
          if act = 4 ∧ s.domOn st q = false then
            (s1.setFlag (stackPage st .pwr) 0x040 q true).setFlag (stackPage st .pwr) 0x044 (8 + q) true
          else s1
        else s
      | _, _ => s)
  else .fault .absentStack

/-- Work of the unit is still running (R425 step 2). -/
def unitBusy (s : State) (st : Fin 8) (act scope : Nat) : Bool :=
  match act with
  | 4 => working s (stackPage st .mx scope) || working s (stackPage st .vc scope)
  | 5 => if scope < 0x100 then working s (stackPage st .smp) else working s (stackPage st .bead)
  | _ => false

/-- A spare marked RETIRED (R427, R422). -/
def retireSpare (s : State) (st : Fin 8) (act i : Nat) : State :=
  if act = 4 then s.setFlag (arbPage st) (0x0A0 + 4 * i) 15 true else s.setFlag (arbPage st) 0x0B0 (laneBits i).2 true

/-- The physical number of a spare: a core's PHYS, or the lane number above the active ones. -/
def sparePhys (s : State) (st : Fin 8) (act i : Nat) : Nat :=
  match act with
  | 4 => bitsOf (spareReg s st i) 5 0
  | 5 => if i = 2 then 8 else 16 + i
  | _ => 4

/-- The physical number of the unit a swap leaves. -/
def oldPhys (s : State) (st : Fin 8) (act scope : Nat) : Nat := if act = 4 then physCore s st scope else scope % 0x100

/-- SWAP_COPY (R425 to R427): once the running commands have drained, the unit's state is copied bit for bit; a spare that
fails aborts the swap. -/
def swapCopied (s : State) (st : Fin 8) (act scope : Nat) (spareOk : Bool) : State :=
  match runningSwap s st act scope with
  | none => s
  | some a =>
    if a.phase ≠ 1 ∨ unitBusy s st act scope = true then s
    else if act = 4 ∧ s.domOn st (sparePhys s st 4 a.spare / 15) = false then s
    else if spareOk then modActivity s st act scope fun a => { a with phase := 2 }
    else
      let s1 := retireSpare (dropActivity s st act scope) st act a.spare
      swapRecord s1 st act scope 1 (oldPhys s st act scope) (sparePhys s st act a.spare)

/-- The spare map names the spare (R425 step 4, R429); a spare that served the unit before is retired with its unit. -/
def mapSpare (s : State) (st : Fin 8) (act scope i : Nat) : State :=
  if act = 4 then
    let old := (List.range 4).filter fun j => bitAt (spareReg s st j) 14 && bitsOf (spareReg s st j) 13 8 == scope
    let s1 := old.foldl (fun s j => (s.setFlag (arbPage st) (0x0A0 + 4 * j) 14 false).setFlag (arbPage st) (0x0A0 + 4 * j) 15
      true) s
    (s1.setFld (arbPage st) (0x0A0 + 4 * i) 13 8 scope).setFlag (arbPage st) (0x0A0 + 4 * i) 14 true
  else
    let f := laneField i
    (s.setFld (arbPage st) 0x0B0 f.1 f.2 (scope % 0x100)).setFlag (arbPage st) 0x0B0 (laneBits i).1 true

/-- SWAP_COMPLETE (R425 step 4): the map is switched, the queues resume on the spare, SWAP_DONE and a SWAP record. The
unit's state is kept under its logical number, so it is unchanged. -/
def swapCompleted (s : State) (st : Fin 8) (act scope : Nat) : State :=
  match runningSwap s st act scope with
  | none => s
  | some a =>
    if a.phase = 2 then
      let s1 := mapSpare (dropActivity s st act scope) st act scope a.spare
      swapRecord (raiseEvt s1 (arbPage st) 7) st act scope 0 (oldPhys s st act scope) (sparePhys s st act a.spare)
    else s

/-! ### Repairs and retraining (R290, R297, R298) -/

/-- The SRM page of a stack. -/
def srmPage (st : Fin 8) : Page := stackPage st .srm

/-- SRM_REPAIR.START (R290, R310): a group whose spare is in use refuses; else activity 3 is submitted. -/
def sramRepair (s : State) (st : Fin 8) (bank : Nat) : State :=
  let g := bank / 16
  let s0 := s.setFld (srmPage st) 0x040 5 0 bank
  if s.flag (srmPage st) 0x044 (8 * g + 7) then s0.setFlag (srmPage st) 0x040 10 true
  else if s.flag (srmPage st) 0x040 9 then s0
  else
    let (s1, k) := submit s0 st 3 3 bank
    if k ≤ 1 then s1.setFlag (srmPage st) 0x040 9 true else s1

/-- SRAM_REPAIR_DONE (R290): the group's spare map names the spare; no byte changes. -/
def execSramRepairDone (st : Fin 8) (s : State) : Host.Outcome State Fault Refusal :=
  if s.has st then
    .next (match (s.st st).arb.run.find? fun a => a.act == 3 with
      | none => s
      | some a =>
        let g := a.scope / 16
        let s1 := (((dropActivity s st 3 a.scope).setFld (srmPage st) 0x044 (8 * g + 3) (8 * g) (a.scope % 16)).setFlag
          (srmPage st) 0x044 (8 * g + 7) true).setFlag (srmPage st) 0x040 9 false
        swapRecord (raiseEvt s1 (srmPage st) 5) st 3 a.scope 0 (a.scope % 16) 16)
  else .fault .absentStack

/-- LPDDR5X_RETRAINING (R298, R334): the controller submits activity 0 for its channel. -/
def execLpddr5xRetraining (st : Fin 8) (ch : Fin 16) (s : State) : Host.Outcome State Fault Refusal :=
  if s.has st then .next (submit s st 3 0 ch.val).1 else .fault .absentStack

/-- A PPR record (R438): outcome 0 applied, 1 refused. -/
def pprRecord (s : State) (st : Fin 8) (dev outcome : Nat) : State :=
  let p := stackPage st .mem dev
  let a := (s.reg p 0x044).toNat
  locketRequest s p.source p.order st 0x8007
    (leBytes dev 1 ++ leBytes (bitsOf a 1 0) 1 ++ leBytes (bitsOf a 2 2) 1 ++ leBytes (bitsOf a 6 3) 1 ++
      leBytes (bitsOf a 24 8) 4 ++ leBytes outcome 1)

/-- MEM_PPR_CMD.SOFT (R297, R308): activity 7 is submitted for the device. Whether the bank's spare row is used is known
from MEM's record of repaired banks. -/
def softRepair (s : State) (st : Fin 8) (dev : Nat) : State :=
  let p := stackPage st .mem dev
  let bankKey := dev * 2 ^ 7 + bitsOf (s.reg p 0x044).toNat 6 0
  if (s.st st).repaired.contains bankKey then pprRecord (s.setFlag p 0x04C 1 true) st dev 1
  else if s.flag p 0x04C 0 then s
  else
    let (s1, k) := submit s st 3 7 dev
    if k ≤ 1 then s1.setFlag p 0x04C 0 true else s1

/-- SOFT_REPAIR_DONE (R297): the bank reopens; the repair is counted and recorded. -/
def execSoftRepairDone (st : Fin 8) (dev : Fin 4) (s : State) : Host.Outcome State Fault Refusal :=
  if s.has st then
    let p := stackPage st .mem dev.val
    .next (if (s.st st).arb.run.any fun a => a.act == 7 && a.scope == dev.val then
      let bankKey := dev.val * 2 ^ 7 + bitsOf (s.reg p 0x044).toNat 6 0
      let s1 := (dropActivity s st 7 dev.val).modSt st fun x => { x with repaired := bankKey :: x.repaired }
      let s2 := (s1.setFlag p 0x04C 0 false).setFld p 0x04C 15 8 (s.fld p 0x04C 15 8 + 1)
      pprRecord (raiseEvt s2 p 4) st dev.val 0
    else s)
  else .fault .absentStack

end Sys2Proof.Machine
end

