-- ==== Sys2Proof/Machine/Operands.lean ====
section
/-! DEFINITION. The fields and operands of a KSQ instruction (R313 to R315), its command-word check (R314), and the bit
fields and check value of a descriptor (R11, R318). -/

namespace Sys2Proof.Machine

/-! ### KSQ instructions -/

/-- The fields of an instruction word (R313). -/
def ksqOpc (w : DWord) : Nat := bitsOf w.toNat 5 0
def ksqPg (w : DWord) : Nat := bitsOf w.toNat 8 6
def ksqPn (w : DWord) : Bool := bitAt w.toNat 9
def ksqRd (w : DWord) : Nat := bitsOf w.toNat 14 10
def ksqRa (w : DWord) : Nat := bitsOf w.toNat 19 15
def ksqRb (w : DWord) : Nat := bitsOf w.toNat 24 20
def ksqImmf (w : DWord) : Bool := bitAt w.toNat 25
def ksqFn (w : DWord) : Nat := bitsOf w.toNat 31 26
def ksqImm (w : DWord) : Nat := bitsOf w.toNat 63 32

/-- sext(IMM) as 64 bits. -/
def ksqSext (w : DWord) : DWord := (BitVec.ofNat 32 (ksqImm w)).signExtend 64

/-- What a register field of an opcode names: nothing, a general register, or one of eight predicates or buffers. -/
inductive FieldUse where
  | none | gpr | eight
  deriving DecidableEq, Repr

/-- How an opcode uses RB, IMMF and IMM: not at all, as operand B, as two predicates, as an immediate with IMMF 1, as an
immediate that is no operand B, or as a register beside an immediate with IMMF 1. -/
inductive BUse where
  | none | operandB | predicate | immediate | plainImm | both
  deriving DecidableEq, Repr

/-- An opcode's use of its fields, and the greatest FN. -/
structure KsqSpec where
  rd : FieldUse
  ra : FieldUse
  b : BUse
  fn : Nat
  deriving DecidableEq, Repr

/-- The opcodes of R315. -/
def ksqSpec : Nat → Option KsqSpec
  | 0x01 | 0x02 | 0x03 | 0x04 | 0x05 | 0x06 | 0x07 | 0x08 | 0x09 => some ⟨.gpr, .gpr, .operandB, 0⟩
  | 0x0A => some ⟨.gpr, .gpr, .immediate, 0⟩
  | 0x10 => some ⟨.eight, .gpr, .operandB, 5⟩
  | 0x11 => some ⟨.eight, .eight, .predicate, 3⟩
  | 0x18 | 0x19 => some ⟨.none, .none, .immediate, 0⟩
  | 0x1A => some ⟨.none, .gpr, .none, 0⟩
  | 0x1C | 0x1D => some ⟨.none, .none, .plainImm, 0⟩
  | 0x20 | 0x21 | 0x22 | 0x23 | 0x24 | 0x25 => some ⟨.gpr, .gpr, .operandB, 0⟩
  | 0x28 => some ⟨.eight, .gpr, .none, 3⟩
  | 0x29 => some ⟨.eight, .gpr, .immediate, 3⟩
  | 0x2A | 0x2B => some ⟨.eight, .gpr, .operandB, 0⟩
  | 0x2C => some ⟨.gpr, .gpr, .operandB, 7⟩
  | 0x2E => some ⟨.eight, .gpr, .both, 0⟩
  | 0x2F => some ⟨.eight, .none, .none, 0⟩
  | 0x30 => some ⟨.gpr, .none, .operandB, 0⟩
  | 0x32 => some ⟨.gpr, .none, .none, 1⟩
  | 0x33 => some ⟨.none, .gpr, .operandB, 0⟩
  | 0x3F => some ⟨.none, .none, .none, 0⟩
  | _ => none

/-- A register field holds nothing the opcode does not use. -/
def useOk (u : FieldUse) (v : Nat) : Bool :=
  match u with
  | .none => v == 0
  | .gpr => true
  | .eight => v ≤ 7

/-- RB, IMMF and IMM hold nothing the opcode does not use. -/
def bUseOk (u : BUse) (w : DWord) : Bool :=
  match u with
  | .none => ksqRb w == 0 && !ksqImmf w && ksqImm w == 0
  | .operandB => if ksqImmf w then ksqRb w == 0 else ksqImm w == 0
  | .predicate => ksqRb w ≤ 7 && !ksqImmf w && ksqImm w == 0
  | .immediate => ksqImmf w && ksqRb w == 0
  | .plainImm => ksqRb w == 0
  | .both => ksqImmf w

/-- DINS: bits of IMM above 12 are unused, the width is 1 to 64, and lo + w is at most 64 (R315). -/
def dinsOk (w : DWord) : Bool :=
  ksqImm w < 2 ^ 13 && 1 ≤ bitsOf (ksqImm w) 12 6 && bitsOf (ksqImm w) 12 6 ≤ 64 &&
    bitsOf (ksqImm w) 5 0 + bitsOf (ksqImm w) 12 6 ≤ 64

/-- The command-word check of an instruction (R314). -/
def ksqOk (w : DWord) : Bool :=
  match ksqSpec (ksqOpc w) with
  | none => false
  | some f =>
    useOk f.rd (ksqRd w) && useOk f.ra (ksqRa w) && bUseOk f.b w && ksqFn w ≤ f.fn && (ksqOpc w != 0x29 || dinsOk w)

/-- A general register: g0 reads as zero (R312). -/
def Seq.gpr (q : Seq) (n : Nat) : DWord := if h : n < 32 then (if n = 0 then 0 else q.g[n]) else 0

/-- A general register written: g0 ignores it (R312). -/
def Seq.setGpr (q : Seq) (n : Nat) (v : DWord) : Seq :=
  if h : n < 32 then (if n = 0 then q else { q with g := q.g.set n v }) else q

/-- A predicate: p0 reads as true (R312). -/
def Seq.pred (q : Seq) (n : Nat) : Bool := n % 8 == 0 || bitAt q.p.toNat (n % 8)

/-- A predicate written: p0 ignores it (R312). -/
def Seq.setPred (q : Seq) (n : Nat) (v : Bool) : Seq :=
  if n % 8 = 0 then q else { q with p := BitVec.ofNat 8 (withBits q.p.toNat (n % 8) (n % 8) (bit v)) }

/-- A descriptor buffer, and one written. -/
def Seq.buf (q : Seq) (n : Nat) : Desc := if h : n < 8 then q.b[n] else 0
def Seq.setBuf (q : Seq) (n : Nat) (v : Desc) : Seq := if h : n < 8 then { q with b := q.b.set n v } else q

/-- The instruction at the pc. -/
def Seq.instr (q : Seq) : DWord := Sparse.get (fun _ => 0) q.istore q.pc.toNat

/-- The guard p[PG] XOR PN (R314). -/
def Seq.guard (q : Seq) (w : DWord) : Bool := q.pred (ksqPg w) != ksqPn w

/-- Operand B (R314). -/
def Seq.opB (q : Seq) (w : DWord) : DWord := if ksqImmf w then ksqSext w else q.gpr (ksqRb w)

/-- The value that names an address, queue or position: g[RA] + B modulo 2^64 (R314). -/
def Seq.sum (q : Seq) (w : DWord) : DWord := q.gpr (ksqRa w) + q.opB w

/-! ### Descriptors -/

/-- Word `i` of a descriptor, and one replaced (R11). -/
def descWord (d : Desc) (i : Nat) : DWord := d.extractLsb' (64 * i) 64
def setDescWord (d : Desc) (i : Nat) (v : DWord) : Desc :=
  BitVec.ofNat 256 (withBits d.toNat (64 * i + 63) (64 * i) v.toNat)

/-- Bits [hi:lo] of word `i` of a descriptor. -/
def descBits (d : Desc) (i hi lo : Nat) : Nat := bitsOf d.toNat (64 * i + hi) (64 * i + lo)

/-- OP and TAG of a descriptor. -/
def descOp (d : Desc) : Nat := descBits d 0 11 8
def descTag (d : Desc) : Nat := descBits d 0 31 16

/-- The bytes of a descriptor, lowest address first. -/
def descBytes (d : Desc) : List Byte := leBytes d.toNat 32

/-- One bit of CRC-16 (R318). -/
def crc16Bit (c : BitVec 16) : BitVec 16 := if c.getLsbD 15 then (c <<< 1) ^^^ 0x1021 else c <<< 1

/-- One byte of CRC-16 (R318). -/
def crc16Byte (c : BitVec 16) (b : Byte) : BitVec 16 :=
  (List.range 8).foldl (fun c _ => crc16Bit c) (c ^^^ ((b.setWidth 16 : BitVec 16) <<< 8))

/-- The check value of a descriptor: CRC-16 over bytes 0 to 29 (R318). -/
def descCheck (d : Desc) : BitVec 16 := ((descBytes d).take 30).foldl crc16Byte 0xFFFF

/-- A descriptor with its check value in word 3 [63:48] (R317). -/
def sealDesc (d : Desc) : Desc := BitVec.ofNat 256 (withBits d.toNat 255 240 (descCheck d).toNat)

/-- The first failure of a descriptor's command-word check after its check value and KIND (R10, R16). A layout lists the
fields a kind uses, each as word, high bit, low bit and whether its value is legal; every other bit below the check
value is reserved. -/
structure DescField where
  word : Nat
  hi : Nat
  lo : Nat
  ok : Bool
  deriving DecidableEq, Repr

/-- Whether a bit of a word lies in one of the fields. -/
def inFields (fs : List DescField) (word b : Nat) : Bool := fs.any fun f => f.word == word && f.lo ≤ b && b ≤ f.hi

/-- The offending bits of a word: reserved bits that are set, and the lowest bits of fields with illegal values. -/
def offending (d : Desc) (fs : List DescField) (word : Nat) : List Nat :=
  (List.range (if word = 3 then 48 else 64)).filter fun b =>
    (bitAt (descWord d word).toNat b && !inFields fs word b) || fs.any fun f => f.word == word && f.lo == b && !f.ok

/-- The word and bit of the first offending bit, in ascending word and bit order (R10). -/
def firstOffending (d : Desc) (fs : List DescField) : Option (Nat × Nat) :=
  (List.range 4).findSome? fun w => ((offending d fs w).head?).map fun b => (w, b)

/-- FAULT_INFO for a word and bit: [17:16] word, [23:18] bit, above a low part. -/
def wordBitInfo (w b : Nat) (low : Nat := 0) : Nat := w * 2 ^ 16 + b * 2 ^ 18 + low

end Sys2Proof.Machine
end

