-- ==== Sys2Proof/Machine/Fmt.lean ====
section
/-! DEFINITION. Number formats, rounding and FP32 arithmetic (R69 to R91). A finite value is held exactly, as a sign, a whole
number and a power of two; a quotient or a root is held to more bits than any format keeps, with a last bit that says
whether anything was cut off, so that it rounds as the exact value does. -/

namespace Sys2Proof.Machine

/-- A decoded value (R70): NaN, an infinity, or (−1)^neg × m × 2^e. -/
inductive Val where
  | nan
  | inf (neg : Bool)
  | fin (neg : Bool) (m : Nat) (e : Int)
  deriving DecidableEq, Repr

/-- The parameters of a format (R70): exponent and fraction bits, bias, least normal exponent, and the largest finite value
as `maxM` × 2^`maxE`. -/
structure Fmt where
  width : Nat
  frac : Nat
  bias : Int
  emin : Int
  emax : Int
  maxM : Nat
  hasInf : Bool
  nanCode : Nat
  deriving DecidableEq, Repr

/-- The formats of R70. E2M1 has no NaN: its code is never used. -/
def e2m1 : Fmt := ⟨4, 1, 1, 0, 2, 3, false, 0⟩
def e4m3 : Fmt := ⟨8, 3, 7, -6, 8, 14, false, 0x7F⟩
def e5m2 : Fmt := ⟨8, 2, 15, -14, 15, 7, true, 0x7E⟩
def fp16 : Fmt := ⟨16, 10, 15, -14, 15, 2047, true, 0x7E00⟩
def bf16 : Fmt := ⟨16, 7, 127, -126, 127, 255, true, 0x7FC0⟩
def fp32 : Fmt := ⟨32, 23, 127, -126, 127, 16777215, true, 0x7FC00000⟩

/-- The place value of the last bit of the format's top binade. -/
def Fmt.maxE (f : Fmt) : Int := f.emax - f.frac

/-- The zero of a sign. -/
def Val.zero (neg : Bool := false) : Val := .fin neg 0 0

/-- decode(x) of R69. -/
def decode (f : Fmt) (c : Nat) : Val :=
  let neg := c.testBit (f.width - 1)
  let e := bitsOf c (f.width - 2) f.frac
  let m := c % 2 ^ f.frac
  let top := 2 ^ (f.width - 1 - f.frac) - 1
  if f.hasInf ∧ e = top then (if m = 0 then .inf neg else .nan)
  else if f = e4m3 ∧ c % 128 = 127 then .nan
  else if e = 0 then .fin neg m (1 - f.bias - f.frac)
  else .fin neg (m + 2 ^ f.frac) (e - f.bias - f.frac)

/-- 2^(S − 127) as an exponent: none for the NaN code (R70). -/
def scaleExp (s : Nat) : Option Int := if s % 256 = 255 then none else some ((s % 256 : Nat) - 127)

/-- A value times 2^k. -/
def Val.scale (v : Val) (k : Int) : Val :=
  match v with
  | .fin n m e => .fin n m (e + k)
  | x => x

/-- An MX element under its block's scale code (R73). -/
def mxDecode (f : Fmt) (s c : Nat) : Val :=
  match scaleExp s with
  | none => .nan
  | some k => (decode f c).scale k

def Val.isNan : Val → Bool
  | .nan => true
  | _ => false

def Val.isInf : Val → Bool
  | .inf _ => true
  | _ => false

def Val.finite : Val → Bool
  | .fin _ _ _ => true
  | _ => false

/-- floor_log2 of m × 2^e, for m > 0 (R69). -/
def floorLog2 (m : Nat) (e : Int) : Int := m.log2 + e

/-! ### Exact arithmetic -/

/-- The signed whole number of a finite value in units of 2^u, for u no greater than its exponent. -/
def Val.units (neg : Bool) (m : Nat) (e u : Int) : Int :=
  let k : Int := (m * 2 ^ (e - u).toNat : Nat)
  if neg then -k else k

/-- The sign of a value. -/
def Val.neg : Val → Bool
  | .nan => false
  | .inf n => n
  | .fin n _ _ => n

/-- −v. -/
def Val.negate : Val → Val
  | .nan => .nan
  | .inf n => .inf !n
  | .fin n m e => .fin (!n) m e

/-- |v|. -/
def Val.mag : Val → Val
  | .nan => .nan
  | .inf _ => .inf false
  | .fin _ m e => .fin false m e

/-- The exact sum; a zero sum of unlike signs is +0 (R72). -/
def Val.add (a b : Val) : Val :=
  match a, b with
  | .nan, _ | _, .nan => .nan
  | .inf x, .inf y => if x = y then .inf x else .nan
  | .inf x, _ => .inf x
  | _, .inf y => .inf y
  | .fin n m e, .fin n' m' e' =>
    if m = 0 ∧ m' = 0 then .fin (n && n') 0 0
    else
      let u := min e e'
      let t := Val.units n m e u + Val.units n' m' e' u
      .fin (decide (t < 0)) t.natAbs u

/-- The exact product. -/
def Val.mul (a b : Val) : Val :=
  match a, b with
  | .nan, _ | _, .nan => .nan
  | .inf x, .inf y => .inf (x != y)
  | .inf x, .fin y m _ | .fin y m _, .inf x => if m = 0 then .nan else .inf (x != y)
  | .fin n m e, .fin n' m' e' => .fin (n != n') (m * m') (e + e')

/-- The quotient, to 64 bits and a last bit for what was cut off. -/
def Val.div (a b : Val) : Val :=
  match a, b with
  | .nan, _ | _, .nan => .nan
  | .inf _, .inf _ => .nan
  | .inf x, .fin y _ _ => .inf (x != y)
  | .fin x _ _, .inf y => .zero (x != y)
  | .fin n m e, .fin n' m' e' =>
    if m' = 0 then (if m = 0 then .nan else .inf (n != n'))
    else if m = 0 then .zero (n != n')
    else
      let k := 64 + m'.log2
      let q := m * 2 ^ k / m'
      .fin (n != n') (2 * q + (if m * 2 ^ k % m' = 0 then 0 else 1)) (e - e' - k - 1)

/-- The square root, to 64 bits and a last bit for what was cut off. -/
def Val.sqrt (a : Val) : Val :=
  match a with
  | .nan => .nan
  | .inf n => if n then .nan else .inf false
  | .fin n m e =>
    if m = 0 then .zero n
    else if n then .nan
    else
      let x := if e % 2 = 0 then m * 2 ^ 128 else m * 2 ^ 129
      let e2 := if e % 2 = 0 then e - 128 else e - 129
      let r := Nat.sqrt x
      .fin false (2 * r + (if r * r = x then 0 else 1)) (e2 / 2 - 1)

/-- Whether a < b, for values that are not NaN. -/
def Val.lt (a b : Val) : Bool :=
  match a, b with
  | .nan, _ | _, .nan => false
  | .inf x, .inf y => x && !y
  | .inf x, .fin _ _ _ => x
  | .fin _ _ _, .inf y => !y
  | .fin n m e, .fin n' m' e' =>
    let u := min e e'
    Val.units n m e u < Val.units n' m' e' u

/-- Whether a = b as numbers. -/
def Val.same (a b : Val) : Bool :=
  match a, b with
  | .nan, _ | _, .nan => false
  | x, y => !x.lt y && !y.lt x

/-! ### Rounding (R76 to R80) -/

/-- The modes of R76; SR with its width and its random bits. -/
inductive RMode where
  | rne | rz | rd | ru
  | sr (n r : Nat)
  deriving DecidableEq, Repr

/-- The conditions of R80. -/
structure Cond where
  nx : Bool := false
  of_ : Bool := false
  uf : Bool := false
  nf : Bool := false
  deriving DecidableEq, Repr

/-- Conditions together. -/
def Cond.or (a b : Cond) : Cond := ⟨a.nx || b.nx, a.of_ || b.of_, a.uf || b.uf, a.nf || b.nf⟩

/-- The grid point chosen for m × 2^e, in units of 2^u, and whether anything was cut off. -/
def roundUnits (mode : RMode) (neg : Bool) (m : Nat) (e u : Int) : Nat × Bool :=
  if u ≤ e then (m * 2 ^ (e - u).toNat, false)
  else
    let k := (u - e).toNat
    let q := m / 2 ^ k
    let r := m % 2 ^ k
    let up := match mode with
      | .rne => decide (2 ^ k < 2 * r) || (decide (2 ^ k = 2 * r) && q % 2 == 1)
      | .rz => false
      | .rd => neg && r != 0
      | .ru => !neg && r != 0
      | .sr n rr => decide (2 ^ n ≤ (if n ≤ k then r / 2 ^ (k - n) else r * 2 ^ (n - k)) + rr)
    (if up then q + 1 else q, r != 0)

/-- The code of sign and grid point M × 2^u, M no greater than the format's largest. -/
def encodeUnits (f : Fmt) (neg : Bool) (mm : Nat) (u : Int) : Nat :=
  let s := if neg then 2 ^ (f.width - 1) else 0
  if mm < 2 ^ f.frac then s + mm
  else if mm = 2 ^ (f.frac + 1) then s + (u + 1 + f.frac + f.bias).toNat * 2 ^ f.frac
  else s + (u + f.frac + f.bias).toNat * 2 ^ f.frac + (mm - 2 ^ f.frac)

/-- The code of the largest finite value, and of an infinity. -/
def maxCode (f : Fmt) (neg : Bool) : Nat := encodeUnits f neg f.maxM f.maxE
def infCode (f : Fmt) (neg : Bool) : Nat :=
  (if neg then 2 ^ (f.width - 1) else 0) + (2 ^ (f.width - 1 - f.frac) - 1) * 2 ^ f.frac

/-- Whether an overflow gives the largest finite value (R77). -/
def overflowsToMax (mode : RMode) (neg sat : Bool) : Bool :=
  sat || match mode with
    | .rne | .sr _ _ => false
    | .rz => true
    | .rd => !neg
    | .ru => neg

/-- A finite value rounded into a format (R77, R78), with its conditions (R80). -/
def roundFin (f : Fmt) (mode : RMode) (sat neg : Bool) (m : Nat) (e : Int) : Nat × Cond :=
  if m = 0 then (encodeUnits f neg 0 0, {})
  else
    let u := max (floorLog2 m e) f.emin - f.frac
    let (mm, cut) := roundUnits mode neg m e u
    if f.maxE < u ∨ (u = f.maxE ∧ f.maxM < mm) then
      (if overflowsToMax mode neg sat then maxCode f neg else infCode f neg, { nx := true, of_ := true })
    else (encodeUnits f neg mm u, { nx := cut, uf := cut && decide (mm < 2 ^ f.frac) })

/-- A value converted into a format without a block scale (R77, R82). -/
def toFmt (f : Fmt) (mode : RMode) (sat : Bool) (v : Val) : Nat × Cond :=
  match v with
  | .nan => (f.nanCode, { nf := true })
  | .inf n => (if f.hasInf then infCode f n else f.nanCode, { nf := true })
  | .fin n m e => roundFin f mode sat n m e

/-- A value rounded to FP32 under a mode, SAT = 0 (R84). -/
def toF32 (v : Val) (mode : RMode := .rne) : Word := BitVec.ofNat 32 (toFmt fp32 mode false v).1

/-- An FP32 register or memory word decoded. -/
def f32 (w : Word) : Val := decode fp32 w.toNat

/-- Whether an FP32 word is not finite. -/
def nonfinite (w : Word) : Bool := !(f32 w).finite

/-- FP32 arithmetic under RNE (R84). -/
def fadd (a b : Word) : Word := toF32 ((f32 a).add (f32 b))
def fsub (a b : Word) : Word := toF32 ((f32 a).add (f32 b).negate)
def fmul (a b : Word) : Word := toF32 ((f32 a).mul (f32 b))
def fdiv (a b : Word) : Word := toF32 ((f32 a).div (f32 b))
def fsqrt (a : Word) : Word := toF32 (f32 a).sqrt
/-- a × b + c, rounded once. -/
def ffma (a b c : Word) : Word := toF32 (((f32 a).mul (f32 b)).add (f32 c))

/-! ### Format codes and stochastic widths (R75, R79) -/

/-- The element format of an FMT code. -/
def elemFmt (code : Nat) : Option Fmt :=
  match code with
  | 0 => some fp32 | 1 => some bf16 | 2 => some fp16 | 3 => some e4m3 | 4 => some e5m2
  | 5 => some e4m3 | 6 => some e5m2 | 7 => some e2m1
  | _ => none

/-- An MX format (R75). -/
def isMx (code : Nat) : Bool := code == 5 || code == 6 || code == 7

/-- The random bits of a source and destination pair (R79), none where SR is not permitted. -/
def srWidth (src dst : Nat) : Option Nat :=
  match src, dst with
  | 0, 1 => some 16 | 0, 2 => some 13 | 0, 3 => some 20 | 0, 5 => some 20 | 0, 4 => some 21 | 0, 6 => some 21
  | 0, 7 => some 22
  | 2, 1 => some 3
  | 1, 3 => some 4 | 1, 5 => some 4 | 1, 4 => some 5 | 1, 6 => some 5 | 1, 7 => some 6
  | 2, 3 => some 7 | 2, 5 => some 7 | 2, 4 => some 8 | 2, 6 => some 8
  | _, _ => none

/-- The mode of an RND code below 4, or SR with its width and bits. -/
def modeOf (rnd n r : Nat) : RMode :=
  match rnd with
  | 0 => .rne | 1 => .rz | 2 => .rd | 3 => .ru
  | _ => .sr n r

/-- Whether RND and SAT are legal for a conversion from `src` to a destination without a block scale (R76). -/
def rndOk (src dst rnd : Nat) (sat : Bool) : Bool :=
  rnd ≤ 4 && !(dst == 3 && !sat) && !(rnd == 4 && (srWidth src dst).isNone) && !(dst == 8 && (rnd == 4 || !sat))

/-! ### INT32 (R83) -/

/-- FP32 to INT32: the word and the conditions. -/
def toInt32 (mode : RMode) (v : Val) : Word × Cond :=
  match v with
  | .nan => (0, { nf := true })
  | .inf n => (if n then 0x80000000 else 0x7FFFFFFF, { nf := true })
  | .fin n m e =>
    let (k, cut) := roundUnits mode n m e 0
    let x : Int := if n then -(k : Int) else k
    if 2147483647 < x then (0x7FFFFFFF, { of_ := true, nx := true })
    else if x < -2147483648 then (0x80000000, { of_ := true, nx := true })
    else (BitVec.ofInt 32 x, { nx := cut })

/-- INT32 as a value. -/
def ofInt32 (w : Word) : Val := .fin (decide (w.toInt < 0)) w.toInt.natAbs 0

/-! ### Microscaling blocks (R86, R87) -/

/-- The greater magnitude of two finite ones. -/
def maxMag (a b : Nat × Int) : Nat × Int :=
  if a.1 = 0 then b
  else if b.1 = 0 then a
  else if Val.lt (.fin false a.1 a.2) (.fin false b.1 b.2) then b else a

/-- An MX block of an element format from its values (R86): the scale code, the element codes and the conditions. `mode i`
is element i's rounding; `cap` holds the exponent at 127 (R90). -/
def mxForm (f : Fmt) (h : Nat) (mode : Nat → RMode) (xs : List Val) (cap : Bool := false) : Nat × List Nat × Cond :=
  if xs.any fun v => !v.finite then (255, xs.map fun _ => 0, { nf := true })
  else
    let amax := xs.foldl (fun a v => match v with | .fin _ m e => maxMag a (m, e) | _ => a) (0, 0)
    if amax.1 = 0 then (127, xs.map fun v => if v.neg then 2 ^ (f.width - 1) else 0, {})
    else
      let e0 := max (floorLog2 amax.1 amax.2 - f.emax + h) (-127)
      let capped := cap && decide (127 < e0)
      let e := if capped then 127 else e0
      let rs := xs.zipIdx.map fun v => toFmt f (mode v.2) true (v.1.scale (-e))
      ((e + 127).toNat, rs.map (·.1), rs.foldl (fun c r => c.or r.2) {})

/-- A recipe (R87): headroom, whether the elements round stochastically, and the formats it allows. -/
def recipe (code : Nat) : Option (Nat × Bool × List Nat) :=
  match code with
  | 0 | 1 => some (0, false, [7, 5])
  | 2 => some (1, false, [6, 5])
  | 3 | 4 => some (1, true, [5])
  | 5 => some (1, true, [6])
  | _ => none

end Sys2Proof.Machine
end

