-- ==== Sys2Proof/Machine/Panel.lean ====
section
/-! DEFINITION. Dense panels and sparse tiles, segments and their headers (R97, R172 to R178, R190, R191). -/

namespace Sys2Proof.Machine

/-! ### Element codes and bytes -/

/-- Bits of an element of an FMT code (R75). -/
def elemBits (fmt : Nat) : Nat :=
  match fmt with
  | 0 | 8 => 32
  | 1 | 2 => 16
  | 7 => 4
  | _ => 8

/-- The `i`-th element code of packed bytes; an FP4 pair shares a byte, the even one in bits [3:0] (R97). -/
def codeAt (bs : Array Byte) (bits base i : Nat) : Nat :=
  let b := fun k => (bs.getD (base + k) 0).toNat
  match bits with
  | 4 => (b (i / 2) >>> (4 * (i % 2))) % 16
  | 8 => b i
  | 16 => b (2 * i) + 256 * b (2 * i + 1)
  | _ => b (4 * i) + 256 * b (4 * i + 1) + 65536 * b (4 * i + 2) + 16777216 * b (4 * i + 3)

/-- Element codes packed into bytes. -/
def packCodes (bits : Nat) : List Nat → List Byte
  | [] => []
  | c :: cs =>
    if bits = 4 then
      match cs with
      | [] => [BitVec.ofNat 8 (c % 16)]
      | d :: ds => BitVec.ofNat 8 (c % 16 + 16 * (d % 16)) :: packCodes bits ds
    else leBytes c (bits / 8) ++ packCodes bits cs

/-- The value of an element code under an FMT code, with its scale code where the format is MX (R73). -/
def elemVal (fmt code scale : Nat) : Val :=
  match elemFmt fmt with
  | some f => if isMx fmt then mxDecode f scale code else decode f code
  | none => .zero

/-! ### Dense panels (R97) -/

/-- The bytes of one K-slice of `n` elements, and of a group of 32 K-slices with its scales. -/
def sliceBytes (fmt n : Nat) : Nat := n * elemBits fmt / 8
def groupBytes (fmt n : Nat) : Nat := 32 * sliceBytes fmt n + (if isMx fmt then n else 0)

/-- The bytes of a panel of `k` K-slices of `n` elements. -/
def panelBytes (fmt k n : Nat) : Nat := k / 32 * groupBytes fmt n + k % 32 * sliceBytes fmt n

/-- The code and the scale code of element `i` of K-slice `k`. -/
def panelCode (bs : Array Byte) (fmt n k i : Nat) : Nat :=
  codeAt bs (elemBits fmt) (k / 32 * groupBytes fmt n + k % 32 * sliceBytes fmt n) i
def panelScale (bs : Array Byte) (fmt n k i : Nat) : Nat :=
  (bs.getD (k / 32 * groupBytes fmt n + 32 * sliceBytes fmt n + i) 0).toNat

/-- Element `i` of K-slice `k`. -/
def panelVal (bs : Array Byte) (fmt n k i : Nat) : Val :=
  elemVal fmt (panelCode bs fmt n k i) (if isMx fmt then panelScale bs fmt n k i else 0)

/-- The bytes of a dense panel of 64-element K-slices from its codes and scales; `t` tiles of 64 K-slices. -/
def panelOf (fmt n k : Nat) (code scale : Nat → Nat → Nat) : List Byte :=
  (List.range ((k + 31) / 32)).flatMap fun g =>
    let m := min 32 (k - 32 * g)
    ((List.range m).flatMap fun kk => packCodes (elemBits fmt) ((List.range n).map (code (32 * g + kk)))) ++
    (if isMx fmt ∧ m = 32 then (List.range n).map fun i => BitVec.ofNat 8 (scale g i) else [])

/-! ### Headers (R175, R178) -/

/-- What a tile or segment header says. -/
structure SpHeader where
  bitmap : Nat
  nblk : Nat
  dense : Bool
  fmt : Nat
  len : Nat
  deriving DecidableEq, Repr

/-- How many bits of a number below 2^n are set. -/
def popCount (n x : Nat) : Nat := ((List.range n).filter fun i => x.testBit i).length

/-- HCHK of a header's low 56 bits. -/
def hchk (h : Nat) : Nat := (List.range 7).foldl (fun a i => Nat.xor a (bitsOf h (8 * i + 7) (8 * i))) 0x5A

/-- The bytes of a tile block, and of a stored segment block without its scale (R176). -/
def blockBytes (fmt : Nat) : Nat := 256 * elemBits fmt / 8 + (if isMx fmt then 16 else 0)
def segBlockBytes (fmt : Nat) : Nat := 32 * elemBits fmt / 8

/-- LEN of a tile or segment of `n` stored blocks. -/
def tileLen (fmt n : Nat) : Nat := 1 + blockBytes fmt * n / 8
def segLen (fmt n : Nat) : Nat := 1 + (segBlockBytes fmt * n + (if isMx fmt then n else 0) + 7) / 8

/-- The blocks stored. -/
def SpHeader.stored (h : SpHeader) (seg : Bool) : Nat := if h.dense then (if seg then 32 else 16) else h.nblk

/-- The header's fields, whatever its checks say. -/
def readHeader (w : Nat) (seg : Bool) : SpHeader :=
  if seg then ⟨bitsOf w 31 0, bitsOf w 37 32, bitAt w 38, bitsOf w 42 39, bitsOf w 54 43⟩
  else ⟨bitsOf w 15 0, bitsOf w 20 16, bitAt w 21, bitsOf w 25 22, bitsOf w 37 26⟩

/-- The checks of R190, 1 to 7, in their order: the detail code of R191 of the first that fails. -/
def headerFault (w : Nat) (seg : Bool) (fmt : Nat) (listed : Bool) : Option Nat :=
  let h := readHeader w seg
  let blocks := if seg then 32 else 16
  if bitsOf w 63 56 ≠ hchk w then some 0x01
  else if bitAt w 55 = false ∧ bitsOf w 54 38 ≠ 0 then some 0x02
  else if bitAt w 55 ≠ seg then some 0x03
  else if h.fmt ≠ fmt ∨ (if seg then 8 < h.fmt else h.fmt = 0 ∨ 7 < h.fmt) then some 0x04
  else if h.nblk ≠ popCount blocks h.bitmap then some 0x05
  else if h.dense ≠ decide ((if seg then 29 else 15) ≤ h.nblk) ∨ (listed = true ∧ h.nblk = 0) then some 0x06
  else if h.len ≠ (if seg then segLen h.fmt (h.stored true) else tileLen h.fmt (h.stored false)) then some 0x07
  else none

/-- A header's word. -/
def makeHeader (seg : Bool) (bitmap fmt : Nat) : Nat :=
  let n := popCount (if seg then 32 else 16) bitmap
  let dense := if seg then 29 ≤ n else 15 ≤ n
  let low :=
    if seg then
      bitmap + n * 2 ^ 32 + bit dense * 2 ^ 38 + fmt * 2 ^ 39 + segLen fmt (if dense then 32 else n) * 2 ^ 43 + 2 ^ 55
    else bitmap + n * 2 ^ 16 + bit dense * 2 ^ 21 + fmt * 2 ^ 22 + tileLen fmt (if dense then 16 else n) * 2 ^ 26
  low + hchk low * 2 ^ 56

/-! ### Tiles (R172, R173, R176, R177) -/

/-- A tile as read: its header, and the bytes that follow it. -/
structure SpTile where
  hdr : SpHeader
  payload : Array Byte

/-- Where block `b` lies in the payload, if it is stored. -/
def SpTile.blockBase (t : SpTile) (b : Nat) : Option Nat :=
  if t.hdr.dense then some (b * blockBytes t.hdr.fmt)
  else if t.hdr.bitmap.testBit b then some (popCount b t.hdr.bitmap * blockBytes t.hdr.fmt)
  else none

/-- The number of the block of element `i` of K-slice `k`. -/
def blockNo (k i : Nat) : Nat := 4 * (k / 16) + i / 16

/-- The code of element `i` of K-slice `k`: zero in a block that is not stored. -/
def SpTile.code (t : SpTile) (k i : Nat) : Nat :=
  match t.blockBase (blockNo k i) with
  | some p => codeAt t.payload (elemBits t.hdr.fmt) p (k % 16 * 16 + i % 16)
  | none => 0

/-- The scale byte of element `i` in block `b`, if the block is stored. -/
def SpTile.blockScale (t : SpTile) (b i : Nat) : Option Nat :=
  (t.blockBase b).map fun p => (t.payload.getD (p + 256 * elemBits t.hdr.fmt / 8 + i % 16) 0).toNat

/-- The scale of element `i` of K-slice `k`: its block's, its stored partner's, or 0x7F (R177). -/
def SpTile.scale (t : SpTile) (k i : Nat) : Nat :=
  let b := blockNo k i
  match t.blockScale b i with
  | some v => v
  | none => (t.blockScale (Nat.xor b 4) i).getD 0x7F

/-- Whether some stored pair of blocks carries different scales (check 9 of R190). -/
def SpTile.scaleClash (t : SpTile) : Bool :=
  isMx t.hdr.fmt && (List.range 16).any fun b =>
    !bitAt b 2 && (List.range 16).any fun i =>
      match t.blockScale b i, t.blockScale (b + 4) i with
      | some x, some y => x != y
      | _, _ => false

/-- An element that a sparse pass feeds: none where its block is not in the bitmap (R182). -/
def SpTile.fed (t : SpTile) (k i : Nat) : Option Val :=
  if t.hdr.bitmap.testBit (blockNo k i) then
    some (elemVal t.hdr.fmt (t.code k i) (if isMx t.hdr.fmt then t.scale k i else 0))
  else none

/-- A code is +0 or −0. -/
def zeroCode (fmt c : Nat) : Bool := c % 2 ^ (elemBits fmt - 1) == 0

/-- A tile in canonical form from its codes and scales (R173, R176, R178): `scale` takes the K-run of R97 and an element. -/
def tileBytes (fmt : Nat) (code scale : Nat → Nat → Nat) : List Byte :=
  let used := fun b => (List.range 16).any fun kk => (List.range 16).any fun ii =>
    !zeroCode fmt (code (b / 4 * 16 + kk) (b % 4 * 16 + ii)) || (isMx fmt && scale (b / 8) (b % 4 * 16 + ii) == 255)
  let bitmap := ((List.range 16).filter used).foldl (fun n b => n + 2 ^ b) 0
  let dense := 15 ≤ popCount 16 bitmap
  leBytes (makeHeader false bitmap fmt) 8 ++
  ((List.range 16).filter fun b => dense || bitmap.testBit b).flatMap fun b =>
    ((List.range 16).flatMap fun kk =>
      packCodes (elemBits fmt) ((List.range 16).map fun ii => code (b / 4 * 16 + kk) (b % 4 * 16 + ii))) ++
    (if isMx fmt then (List.range 16).map fun ii => BitVec.ofNat 8 (scale (b / 8) (b % 4 * 16 + ii)) else [])

/-! ### Segments (R174, R176) -/

/-- The codes of a segment's 1,024 elements, and the scale of each block, from its header and payload. -/
def segCode (h : SpHeader) (payload : Array Byte) (i : Nat) : Nat :=
  let b := i / 32
  if h.dense then codeAt payload (elemBits h.fmt) 0 i
  else if h.bitmap.testBit b then codeAt payload (elemBits h.fmt) 0 (popCount b h.bitmap * 32 + i % 32)
  else 0
def segScale (h : SpHeader) (payload : Array Byte) (i : Nat) : Nat :=
  let b := i / 32
  let base := segBlockBytes h.fmt * h.stored true
  if h.dense then (payload.getD (base + b) 0).toNat
  else if h.bitmap.testBit b then (payload.getD (base + popCount b h.bitmap) 0).toNat
  else 0x7F

/-- A segment in canonical form from 1,024 codes and 32 scales. -/
def segBytes (fmt : Nat) (code : Nat → Nat) (scale : Nat → Nat) : List Byte :=
  let used := fun b => (List.range 32).any (fun i => !zeroCode fmt (code (32 * b + i))) || (isMx fmt && scale b == 255)
  let bitmap := ((List.range 32).filter used).foldl (fun n b => n + 2 ^ b) 0
  let dense := 29 ≤ popCount 32 bitmap
  let kept := (List.range 32).filter fun b => dense || bitmap.testBit b
  let pay := (kept.flatMap fun b => packCodes (elemBits fmt) ((List.range 32).map fun i => code (32 * b + i))) ++
    (if isMx fmt then kept.map fun b => BitVec.ofNat 8 (scale b) else [])
  leBytes (makeHeader true bitmap fmt) 8 ++ pay ++ List.replicate ((8 - pay.length % 8) % 8) 0

end Sys2Proof.Machine
end

