-- ==== Sys2Proof/Machine/Window.lean ====
section
/-! DEFINITION. Exact window accumulation (R121 to R134): aligned products, sums with special markers, and the combination
of long partials. -/

namespace Sys2Proof.Machine

/-- What a cell holds: a whole number of least significant bits, or a special marker (R122). -/
inductive Acc where
  | num (x : Int)
  | nan | pinf | ninf
  deriving DecidableEq, Repr

/-- The limit L on a finite sum (R121). -/
def windowLimit : Nat := 2 ^ 63 - 4

/-- The 64-bit code of a cell, and the cell of a code; the reserved code reads as NaN (R122). -/
def Acc.code : Acc → DWord
  | .num x => BitVec.ofInt 64 x
  | .nan => 0x8000000000000000
  | .pinf => 0x8000000000000001
  | .ninf => 0x8000000000000002
def Acc.ofCode (c : DWord) : Acc :=
  if c = 0x8000000000000000 ∨ c = 0x8000000000000003 then .nan
  else if c = 0x8000000000000001 then .pinf
  else if c = 0x8000000000000002 then .ninf
  else .num c.toInt

/-- x ⊕ y without the check against L (R124). -/
def Acc.add (x y : Acc) : Acc :=
  match x, y with
  | .num a, .num b => .num (a + b)
  | .nan, _ | _, .nan => .nan
  | .num _, m => m
  | m, .num _ => m
  | .pinf, .pinf => .pinf
  | .ninf, .ninf => .ninf
  | _, _ => .nan

/-- A marker. -/
def Acc.special : Acc → Bool
  | .num _ => false
  | _ => true

/-- A finite sum beyond L (R124). -/
def Acc.beyond : Acc → Bool
  | .num x => windowLimit < x.natAbs
  | _ => false

/-- A cell divided by 2^d toward minus infinity, and whether bits were lost. -/
def Acc.shift (x : Acc) (d : Nat) : Acc × Bool :=
  match x with
  | .num a => (.num (a / 2 ^ d), decide (a / 2 ^ d * 2 ^ d ≠ a))
  | m => (m, false)

/-- Flags together. -/
def WinFlags.or (a b : WinFlags) : WinFlags :=
  ⟨a.inexact || b.inexact, a.nonfinite || b.nonfinite, a.repeated || b.repeated⟩

/-- Flags as the byte of a long-partial header (R103), and from it. -/
def WinFlags.byte (f : WinFlags) : Nat := bit f.inexact + 2 * bit f.nonfinite + 4 * bit f.repeated
def WinFlags.ofByte (n : Nat) : WinFlags := ⟨bitAt n 0, bitAt n 1, bitAt n 2⟩

/-- A product aligned to exponent `w` (R123), with whether bits were cut off: none where it overflows. -/
def align (p : Val) (w : Int) : Option (Acc × Bool) :=
  match p with
  | .nan => some (.nan, false)
  | .inf n => some (if n then .ninf else .pinf, false)
  | .fin n m e =>
    let k := e + 34 - w
    let s : Int := if n then -(m : Int) else m
    let (q, cut) : Int × Bool := if 0 ≤ k then (s * 2 ^ k.toNat, false)
      else (s / 2 ^ (-k).toNat, decide (m % 2 ^ (-k).toNat ≠ 0))
    if 2 ^ 35 ≤ q.natAbs then none else some (.num q, cut)

/-- The real value of a cell at exponent `w` (R121, R130). -/
def Acc.value (x : Acc) (w : Int) : Val :=
  match x with
  | .num a => .fin (decide (a < 0)) a.natAbs (w - 34)
  | .nan => .nan
  | .pinf => .inf false
  | .ninf => .inf true

/-- The value of a cell as an FP32 or BF16 code, zero as +0, and whether it overflowed (R130). -/
def Acc.toCode (f : Fmt) (x : Acc) (w : Int) : Nat × Bool :=
  match x with
  | .num 0 => (0, false)
  | _ => let (c, k) := toFmt f .rne false (x.value w); (c, k.of_)

/-! ### Combination (R132) -/

/-- An input of a combination: its exponent and its cells. -/
structure Partial where
  w : Int
  cells : List Acc
  deriving DecidableEq, Repr

/-- Why a combination fails: LOCK_OVERFLOW or WINDOW_OVERFLOW, with the exponent. -/
inductive WinFault where
  | lock (w : Int)
  | window (w : Int)
  deriving DecidableEq, Repr

/-- The raise loop of a whole unit, at most `fuel` times. -/
def raiseUnit (lock : Bool) : Nat → Int → List Acc → WinFlags → Except WinFault (Int × List Acc × WinFlags)
  | 0, wc, acc, fl => .ok (wc, acc, fl)
  | n + 1, wc, acc, fl =>
    if acc.any Acc.beyond then
      if lock then .error (.lock wc)
      else if 511 < wc + 8 then .error (.window wc)
      else
        let sh := acc.map fun x => x.shift 8
        raiseUnit lock n (wc + 8) (sh.map (·.1))
          { fl with repeated := true, inexact := fl.inexact || sh.any (·.2) }
    else .ok (wc, acc, fl)

/-- One unit combined (R132): its exponent, its cells and the flags the combination sets. -/
def combine (lock : Bool) (inputs : List Partial) : Except WinFault (Int × List Acc × WinFlags) :=
  match inputs with
  | [] => .ok (0, [], {})
  | p :: ps =>
    let wc := ps.foldl (fun m q => max m q.w) p.w
    let aligned := inputs.any fun q => decide (q.w < wc) && q.cells.any fun c => !c.special
    if lock ∧ aligned = true then .error (.lock wc)
    else
      let sh := inputs.map fun q => q.cells.map fun x => x.shift (wc - q.w).toNat
      let acc := (sh.drop 1).foldl (fun a q => List.zipWith Acc.add a (q.map (·.1)))
        ((sh.headD []).map (·.1))
      let cut := sh.any fun q => q.any (·.2)
      match raiseUnit lock 8 wc acc { repeated := aligned, inexact := cut } with
      | .error e => .error e
      | .ok (w, cs, fl) => .ok (w, cs, { fl with nonfinite := fl.nonfinite || cs.any Acc.special })

/-- The exponent of a long-partial header as 10 or 16 bits. -/
def expBits (n : Nat) (w : Int) : Nat := (BitVec.ofInt n w).toNat

end Sys2Proof.Machine
end

