-- ==== Sys2Proof/Machine/Matrix.lean ====
section
/-! DEFINITION. The matrix array of a core (R92 to R136, R181 to R185): tiles, banks, passes, drains, hazards and faults.
Slices are issued and computed by MX_STREAM; MX_PASS_RETIRE makes a window pass's result the tile's. -/

namespace Sys2Proof.Machine

/-! ### Commands -/

/-- The MX page and queue of a core. -/
def mxPage (st : Fin 8) (c : Nat) : Page := stackPage st .mx c
def mxQueue (c : Nat) : Nat := c

/-- Rows and columns of a SHAPE (R94). -/
def shapeOf (n : Nat) : Nat × Nat := match n with | 0 => (64, 64) | 1 => (128, 32) | _ => (32, 128)

/-- The window class of formats, and a pair of the FP32 class (R92). -/
def windowFmt (f : Nat) : Bool := 3 ≤ f && f ≤ 7
def fp32Pair (a b : Nat) : Bool := a == b && (a == 1 || a == 2)

/-- MX_CFG.ABMODE. -/
def abMode (s : State) (st : Fin 8) (c : Nat) : Bool := s.flag (mxPage st c) 0x040 0

/-- The slot a TILE field names: in AB-slot mode 0 and 1 stand for 0 and 4 (R96). -/
def slotOfTile (ab : Bool) (t : Nat) : Nat := if ab then 4 * t else t

/-- The slots of a tile that begins at `t`. -/
def slotsFrom (t : Nat) (window : Bool) : List Nat := if window then [t, t + 1] else [t]

/-- Two sets of slots meet. -/
def slotsMeet (a b : List Nat) : Bool := a.any fun x => b.contains x

/-- The open tile that occupies a slot, with its first slot. -/
def tileAt (x : Core) (slot : Nat) : Option (Nat × MxTile) :=
  x.tiles.find? fun e => (slotsFrom e.1 e.2.window).contains slot

/-- MX_TILE_STAT.OPEN: the slots of open tiles. -/
def openSlots (x : Core) : Nat :=
  (x.tiles.flatMap fun e => slotsFrom e.1 e.2.window).foldl (fun n i => n + 2 ^ i) 0

/-- What FAULT_INFO[31:16] says of an open tile under TILE_KIND (R117). -/
def tileInfo (tile : Nat) (t : MxTile) : Nat := tile + 8 * t.shape + 32 * bit t.window

/-- The slots a STREAM fills. -/
def passSlots (ab : Bool) (d : Desc) : List Nat :=
  slotsFrom (slotOfTile ab (descBits d 0 42 40)) (windowFmt (descBits d 0 35 32))

/-! ### Queue order and hazards (R105, R109, R113) -/

/-- The entries of an MX queue that stand accepted or running, with their places. -/
def mxFlight (s : State) (st : Fin 8) (c : Nat) : List (Entry × Nat) :=
  ((s.queue st (mxQueue c)).entries.zipIdx).filter fun e => e.1.inFlight

/-- The first command in flight of an operation, with its place in the queue. -/
def mxFirst (s : State) (st : Fin 8) (c : Nat) (ops : List Nat) : Option (Entry × Nat) :=
  (mxFlight s st c).find? fun e => s.clocked && ops.contains (descOp e.1.desc)

/-- The slots a DRAIN or FREE concerns: those of the tile it names, or the slot itself. -/
def drainSlots (x : Core) (ab : Bool) (d : Desc) : List Nat :=
  let t := slotOfTile ab (descBits d 0 42 40)
  match tileAt x t with
  | some (b, m) => t :: slotsFrom b m.window
  | none => [t]

/-- The command at place `i` must wait for an earlier one in flight (R113, R109). -/
def mxBlocked (s : State) (st : Fin 8) (c : Nat) (d : Desc) (i : Nat) : Bool :=
  let ab := abMode s st c
  let x := s.core st c
  (mxFlight s st c).any fun e =>
    e.2 < i &&
    match descOp d, descOp e.1.desc with
    | 1, 2 => bitAt (descWord d 0).toNat 46 && descBits d 0 47 47 == descBits e.1.desc 0 32 32
    | 1, 3 | 1, 4 => slotsMeet (passSlots ab d) (drainSlots x ab e.1.desc)
    | 2, 1 => bitAt (descWord e.1.desc 0).toNat 46 && descBits e.1.desc 0 47 47 == descBits d 0 32 32
    | 3, 1 | 4, 1 => slotsMeet (passSlots ab e.1.desc) (drainSlots x ab d)
    | _, _ => false

/-- MX_STAT.HAZARD_WAIT: some command in flight waits. -/
def mxHazard (s : State) (st : Fin 8) (c : Nat) : Bool :=
  (mxFlight s st c).any fun e => e.1.st == .accepted && mxBlocked s st c e.1.desc e.2

/-- The bytes of a panel a STREAM or LDB reads, and of what a DRAIN writes, as offset and length in the panel store
(R113, R185): a sparse sequence counts to the store's end. -/
def mxReads (d : Desc) : List (Nat × Nat) :=
  let (r, c) := shapeOf (descBits d 0 44 43)
  let k := descBits d 1 51 32
  let at_ := fun (off n : Nat) => (off * 16, n)
  match descOp d with
  | 1 =>
    let sp := bitAt (descWord d 0).toNat 51
    let ext := fun (off fmt n : Nat) => at_ off (if sp then panelSize - off * 16 else panelBytes fmt k n)
    [ext (descBits d 1 15 0) (descBits d 0 35 32) r] ++
    (if bitAt (descWord d 0).toNat 46 then [] else [ext (descBits d 1 31 16) (descBits d 0 39 36) c]) ++
    (if descBits d 0 49 48 = 2 then [at_ (descBits d 2 31 16) 16] else [])
  | 2 =>
    [at_ (descBits d 1 15 0) (panelBytes (descBits d 0 36 33) (descBits d 1 28 16) (shapeOf (descBits d 0 38 37)).2)]
  | _ => []

/-- The bytes a DRAIN writes for DFMT: 4,096 cells, and a header before long partials (R103). -/
def drainBytes (dfmt : Nat) : Nat := match dfmt with | 0 => 16384 | 1 => 8192 | _ => 32784

/-- Two byte ranges meet. -/
def rangesMeet (a n b m : Nat) : Bool := n != 0 && m != 0 && a < b + m && b < a + n

/-- A write to a panel range must wait: an unretired STREAM or LDB reads it (R113). -/
def panelWriteHeld (s : State) (st : Fin 8) (c off n : Nat) : Bool :=
  (mxFlight s st c).any fun e => (mxReads e.1.desc).any fun r => rangesMeet off n r.1 r.2

/-- A transfer engine's read of a panel range must wait: an unretired DRAIN writes it (R113). -/
def panelReadHeld (s : State) (st : Fin 8) (c off n : Nat) : Bool :=
  (mxFlight s st c).any fun e =>
    descOp e.1.desc == 3 && rangesMeet off n (descBits e.1.desc 1 15 0 * 16) (drainBytes (descBits e.1.desc 0 44 43))

/-! ### Retirement and faults (R105, R118) -/

/-- The entry at place `i` of a queue leaves its engine. -/
def finishAt (s : State) (st : Fin 8) (q i : Nat) (clean : Bool) : State :=
  let s1 := s.modQueue st q fun x =>
    ({ x with entries := x.entries.modify i fun e => { e with st := .done clean } } : Queue).advance
  match queuePage st q with
  | some p => quiesceRise s s1 p
  | none => s1

/-- The entry at place `i` of a queue is running. -/
def runAt (s : State) (st : Fin 8) (q i : Nat) : State :=
  s.modQueue st q fun x => { x with entries := x.entries.modify i fun e => { e with st := .running } }

/-- A command retires: RETIRED is raised once retirement is reported in queue order (R105). -/
def mxRetire (s : State) (st : Fin 8) (c i : Nat) : State :=
  let s1 := finishAt s st (mxQueue c) i true
  if (s1.queue st (mxQueue c)).retire = (s.queue st (mxQueue c)).retire then s1 else raiseEvt s1 (mxPage st c) 3

/-- STREAMs that the feed accepted in advance and that have issued no slice return to their queue (R118): every one in
flight but the feed's own, the first. -/
def returnAdvance (s : State) (st : Fin 8) (c : Nat) (own : Option Nat) : State :=
  s.modQueue st (mxQueue c) fun x =>
    { x with entries := (x.entries.zipIdx).map fun e =>
        if e.1.st == .accepted && descOp e.1.desc == 1 && some e.2 != own then { e.1 with st := .queued } else e.1 }

/-- A command's fault (R117, R118): the record, the STREAM accepted in advance returned, the command finished. -/
def mxFault (s : State) (st : Fin 8) (c i : Nat) (d : Desc) (cls det high addr : Nat) : State :=
  let own := (mxFirst s st c [1]).map (·.2)
  let s1 := recordFault s (mxPage st c) cls det (high % 2 ^ 16 * 2 ^ 16 + descTag d) addr
  finishAt (returnAdvance s1 st c own) st (mxQueue c) i false

/-! ### Tile flags (R95, R115) -/

/-- A tile changed. -/
def modTile (s : State) (st : Fin 8) (c slot : Nat) (f : MxTile → MxTile) : State :=
  s.modCore st c fun x => { x with tiles := x.tiles.map fun e => if e.1 = slot then (e.1, f e.2) else e }

/-- Flags join a tile's; INEXACT_SET and NONFINITE_SET are raised by those newly set. -/
def joinFlags (s : State) (st : Fin 8) (c slot : Nat) (fl : WinFlags) : State :=
  match Sparse.find (s.core st c).tiles slot with
  | none => s
  | some t =>
    let s1 := modTile s st c slot fun t => { t with flags := t.flags.or fl }
    let s2 := if fl.inexact && !t.flags.inexact then raiseEvt s1 (mxPage st c) 5 else s1
    if fl.nonfinite && !t.flags.nonfinite then raiseEvt s2 (mxPage st c) 6 else s2

/-! ### Slices (R97, R106, R182) -/

/-- A slice as it is issued: the cycle after the pass's first, and the elements fed for each row and column, none for a
gated one. -/
structure Slice where
  cyc : Nat
  a : List (Option Val)
  b : List (Option Val)

/-- Why a pass stops: class, detail, FAULT_INFO[31:16] and FAULT_ADDR. -/
structure PassFault where
  cls : Nat
  det : Nat
  high : Nat
  addr : Nat
  deriving DecidableEq, Repr

/-- The slices of a pass, the fault that ends them, and whether the slice that met it had been issued. -/
structure PassPlan where
  slices : List Slice
  fault : Option PassFault
  issued : Bool

/-- PANEL_ECC of an operation at an address. -/
def panelEcc (op addr : Nat) : PassFault := ⟨0x02, 0x10, op, addr⟩

/-- The cycle a slice of index `n` is issued in (R92): two slices in a cycle for MXFP4 pairs. -/
def sliceCycle (fa fb n : Nat) : Nat := if fa = 7 ∧ fb = 7 then n / 2 else n

/-- The byte range of slice `k` of a dense panel, and of the scales it is read with. -/
def sliceRanges (base fmt n k : Nat) : List (Nat × Nat) :=
  let g := base + k / 32 * groupBytes fmt n
  (g + k % 32 * sliceBytes fmt n, sliceBytes fmt n) :: (if isMx fmt then [(g + 32 * sliceBytes fmt n, n)] else [])

/-- The slices of a dense pass over panels `pa` and `pb`; `ra` and `rb` are their device addresses (none for a bank). -/
def densePlan (s : State) (fa fb r c klen : Nat) (pa pb : Array Byte) (ra : Nat) (rb : Option Nat) : PassPlan :=
  let bad := fun k => ((sliceRanges ra fa r k) ++ (rb.map fun b => sliceRanges b fb c k).getD []).findSome? fun x =>
    badUnit s x.1 x.2
  let first := if s.bad = [] then none else (List.range klen).findSome? fun k => (bad k).map fun a => (k, a)
  let n := match first with | some (k, _) => k | none => klen
  { slices := (List.range n).map fun k =>
      ⟨sliceCycle fa fb k, (List.range r).map fun i => some (panelVal pa fa r k i),
        (List.range c).map fun j => some (panelVal pb fb c k j)⟩
    fault := first.map fun x => panelEcc 1 x.2
    issued := true }

/-- A tile of a sequence read at an offset of the panel store, with its checks (R181, R190). -/
def readTile (s : State) (base off fmt operand t : Nat) : Except PassFault SpTile :=
  let info := operand + 2 * (t % 2 ^ 14)
  if panelSize < off + 8 then .error ⟨0x01, 0x03, 1, 0⟩
  else match badUnit s (base + off) 8 with
  | some a => .error (panelEcc 1 a)
  | none =>
    let w := leNat (s.bytes (base + off) 8)
    match headerFault w false fmt false with
    | some det => .error ⟨0x03, det, info, base + off⟩
    | none =>
      let h := readHeader w false
      if panelSize < off + 8 * h.len then .error ⟨0x01, 0x03, 1, 0⟩
      else match badUnit s (base + off) (8 * h.len) with
      | some a => .error (panelEcc 1 a)
      | none => .ok ⟨h, (s.bytes (base + off + 8) (8 * h.len - 8)).toArray⟩

/-- The K-blocks that a tile pair matches (R182). -/
def matchBlocks (ba bb : Nat) : List Nat :=
  (List.range 4).filter fun kb => bitsOf ba (4 * kb + 3) (4 * kb) != 0 && bitsOf bb (4 * kb + 3) (4 * kb) != 0

/-- The slices of a sparse pass from pair `t` on (R181, R182, R184): `oa` and `ob` are the offsets of the pair, `cyc` the
next cycle, `fed` whether a pair has issued. -/
def sparsePlan (s : State) (base fa fb : Nat) : Nat → Nat → Nat → Nat → Nat → Bool → List Slice → PassPlan
  | 0, _, _, _, _, _, acc => ⟨acc, none, false⟩
  | n + 1, t, oa, ob, cyc, fed, acc =>
    match readTile s base oa fa 0 t with
    | .error e => ⟨acc, some e, false⟩
    | .ok ta =>
      match readTile s base ob fb 1 t with
      | .error e => ⟨acc, some e, false⟩
      | .ok tb =>
        if ta.scaleClash then ⟨acc, some ⟨0x03, 0x08, 2 * (t % 2 ^ 14), base + oa⟩, false⟩
        else if tb.scaleClash then ⟨acc, some ⟨0x03, 0x08, 1 + 2 * (t % 2 ^ 14), base + ob⟩, false⟩
        else
          let ks := (matchBlocks ta.hdr.bitmap tb.hdr.bitmap).flatMap fun kb => (List.range 16).map fun k => 16 * kb + k
          let new := (ks.zipIdx).map fun e =>
            (⟨cyc + sliceCycle fa fb e.2, (List.range 64).map fun i => ta.fed e.1 i,
              (List.range 64).map fun j => tb.fed e.1 j⟩ : Slice)
          let cyc' := if ks = [] then (if fed then cyc + 2 else cyc) else cyc + sliceCycle fa fb (ks.length - 1) + 1
          sparsePlan s base fa fb n (t + 1) (oa + 8 * ta.hdr.len) (ob + 8 * tb.hdr.len) cyc' (fed || ks != [])
            (acc ++ new)

/-! ### Window passes (R123 to R128) -/

/-- The products of one A element with a slice's B elements added to a row of the pass register: none where one overflows.
`cut` gathers INEXACT. -/
def windowRow (w : Int) (a : Val) (bs : List (Option Val)) (row : List Acc) (cut : Bool) : Option (List Acc × Bool) :=
  (bs.zip row).foldlM (fun (o : List Acc × Bool) (f : Option Val × Acc) =>
    match f.1 with
    | none => some (o.1 ++ [f.2], o.2)
    | some b => (align (a.mul b) w).map fun (p : Acc × Bool) => (o.1 ++ [f.2.add p.1], o.2 || p.2)) ([], cut)

/-- The products of one slice added to the fed rows of the pass register: none where one overflows. -/
def windowSlice (w : Int) (fed : List Bool) (x : Slice) (acc : List (List Acc) × Bool) : Option (List (List Acc) × Bool) :=
  let rows := (x.a.zip fed).filterMap fun e => if e.2 then some e.1 else none
  (rows.zip acc.1).foldlM (fun (out : List (List Acc) × Bool) (e : Option Val × List Acc) =>
    match e.1 with
    | none => some (out.1 ++ [e.2], out.2)
    | some a => (windowRow w a x.b e.2 out.2).map fun (o : List Acc × Bool) => (out.1 ++ [o.1], o.2)) ([], acc.2)

/-- One attempt of a window pass at exponent `w`: the pass register and INEXACT, or the cycle in which the slice that
overflows was issued. -/
def windowAttempt (w : Int) (fed : List Bool) : List Slice → List (List Acc) × Bool → Except Nat (List (List Acc) × Bool)
  | [], acc => .ok acc
  | x :: xs, acc =>
    match windowSlice w fed x acc with
    | none => .error x.cyc
    | some a => windowAttempt w fed xs a

/-- A tile's cells rescaled by 2^(8r), with whether bits were lost; then the pass register added, with whether a sum passes
L (R125). -/
def passCells (cells : Sparse DWord) (r : Nat) (acc : Sparse DWord) : Sparse DWord × Bool × Bool :=
  let sh := cells.map fun e => (e.1, (Acc.ofCode e.2).shift (8 * r))
  let c0 : Sparse DWord := (sh.map fun e => (e.1, e.2.1.code)).filter fun e => e.2 != 0
  acc.foldl (fun (x : Sparse DWord × Bool × Bool) e =>
    let v := (Acc.ofCode (Sparse.get (fun _ => 0) x.1 e.1)).add (Acc.ofCode e.2)
    (Sparse.set (fun _ => 0) x.1 e.1 v.code, x.2.1, x.2.2 || v.beyond)) (c0, sh.any (·.2.2), false)

/-- The pass register as cells by row and column. -/
def registerCells (c : Nat) (fed : List Bool) (acc : List (List Acc)) : Sparse DWord :=
  let rows := (List.range fed.length).filter fun i => fed.getD i false
  (rows.zip acc).flatMap fun e =>
    (e.2.zipIdx).filterMap fun x => if x.1.code = 0 then none else some (e.1 * c + x.2, x.1.code)

/-- How a window pass goes: its pass register at the end, or the fault that stops it; with the repeats made and the cycles
and slices issued. -/
structure WindowRun where
  reps : Nat
  w : Int
  cyc : Nat
  sl : Nat
  out : Except PassFault (Sparse DWord × Bool × Bool)

/-- The distinct cycles and the slices issued up to a cycle (R111, R184). -/
def issuedBy (slices : List Slice) (last : Nat) : Nat × Nat :=
  let x := slices.filter fun e => e.cyc ≤ last
  ((x.map (·.cyc)).dedup.length, x.length)

/-- The attempts of a window pass (R125, R127, R128), at most `fuel` repeats more. `cells` is the tile as opened. -/
def windowRun (lock : Bool) (c : Nat) (fed : List Bool) (cells : Sparse DWord) (p : PassPlan) :
    Nat → Nat → Int → Nat → Nat → WindowRun
  | fuel, r, w, cyc, sl =>
    let zero := (fed.filter id).map fun _ => List.replicate c (Acc.num 0)
    let last := (p.slices.getLast?.map (·.cyc)).getD 0
    let att := windowAttempt w fed p.slices (zero, false)
    -- the attempt's end: its result, or the cycle of the slice in which it overflows
    let res : Except Nat (Except PassFault (Sparse DWord × Bool × Bool)) :=
      match att with
      | .error k => .error k
      | .ok (acc, cut) =>
        match p.fault with
        | some f => .ok (.error f)
        | none =>
          let reg := registerCells c fed acc
          let x := passCells cells r reg
          let sums := x.1.filter fun e => fed.getD (e.1 / c) false
          if x.2.2 then .error last
          else .ok (.ok (reg, cut || x.2.1, acc.any (·.any Acc.special) || sums.any fun e => (Acc.ofCode e.2).special))
    match res with
    | .ok o =>
      let n := issuedBy p.slices last
      ⟨r, w, cyc + n.1, sl + n.2, o⟩
    | .error k =>
      let n := issuedBy p.slices (k + 5)
      match fuel with
      | f + 1 =>
        if lock = false ∧ w + 8 ≤ 511 then windowRun lock c fed cells p f (r + 1) (w + 8) (cyc + n.1) (sl + n.2)
        else ⟨r, w, cyc + n.1, sl + n.2, .error ⟨0x01, if lock then 0x0A else 0x09, expBits 10 w, 0⟩⟩
      | 0 => ⟨r, w, cyc + n.1, sl + n.2, .error ⟨0x01, if lock then 0x0A else 0x09, expBits 10 w, 0⟩⟩

/-! ### FP32 passes (R135) -/

/-- One slice's products added to the cells of the fed rows, each rounded under RNE; with NONFINITE. -/
def fp32Slice (c : Nat) (fed : List Bool) (x : Slice) (cells : Sparse DWord × Bool) : Sparse DWord × Bool :=
  let rows := (List.range fed.length).filter fun i => fed.getD i false
  rows.foldl (fun st i =>
    match (x.a.getD i none) with
    | none => st
    | some a =>
      (x.b.zipIdx).foldl (fun (o : Sparse DWord × Bool) e =>
        match e.1 with
        | none => o
        | some b =>
          let old := f32 ((Sparse.get (fun _ => (0 : DWord)) o.1 (i * c + e.2)).setWidth 32)
          let new := toF32 (old.add (a.mul b))
          (Sparse.set (fun _ => 0) o.1 (i * c + e.2) (new.setWidth 64),
            o.2 || !a.finite || !b.finite || nonfinite new)) st) cells

/-! ### Opening (R95, R96) -/

/-- Whether a pass opens its tile: ACC = 0, and in AB-slot mode only where no tile is open or it has been drained. -/
def passOpens (x : Core) (ab : Bool) (d : Desc) (slot : Nat) : Bool :=
  if ab then
    match tileAt x slot with
    | none => true
    | some (_, t) => t.drained
  else !bitAt (descWord d 0).toNat 45

/-- The tile that a pass finds or opens, with the core after it, or the fault of R95. -/
def openTile (x : Core) (ab : Bool) (d : Desc) : Except PassFault (Core × MxTile) :=
  let tile := descBits d 0 42 40
  let slot := slotOfTile ab tile
  let win := windowFmt (descBits d 0 35 32)
  let shape := descBits d 0 44 43
  let slots := slotsFrom slot win
  if passOpens x ab d slot then
    let met := x.tiles.filter fun e => slotsMeet (slotsFrom e.1 e.2.window) slots
    if met.any fun e => slotsFrom e.1 e.2.window != slots then .error ⟨0x01, 0x04, openSlots x, 0⟩
    else
      let t : MxTile := { window := win, shape := shape, w := if win then toSigned 10 (descBits d 2 9 0) else 0 }
      .ok ({ x with tiles := Sparse.put x.tiles slot t }, t)
  else
    match tileAt x slot with
    | none => .error ⟨0x01, 0x05, tile, 0⟩
    | some (b, t) =>
      if b ≠ slot ∨ t.window ≠ win ∨ t.shape ≠ shape then .error ⟨0x01, 0x06, tileInfo tile t, 0⟩ else .ok (x, t)

/-! ### MX_STREAM and MX_PASS_RETIRE -/

/-- The row mask of a pass (R112): every row, MX_ROWMASK_0 to 3, or 16 bytes of the panel store. -/
def rowMask (s : State) (st : Fin 8) (c : Nat) (d : Desc) : Nat :=
  match descBits d 0 49 48 with
  | 1 => (List.range 4).foldl (fun n i => n + (s.reg (mxPage st c) (0x060 + 4 * i)).toNat * 2 ^ (32 * i)) 0
  | 2 => leNat (s.bytes (panelBase st c + descBits d 2 31 16 * 16) 16)
  | _ => 2 ^ 128 - 1

/-- What stops a pass as it starts (R101, R98): PANEL_RANGE, BANK_STATE, or an uncorrectable mask word. -/
def passStartFault (s : State) (st : Fin 8) (c : Nat) (d : Desc) : Option PassFault :=
  let b := descBits d 0 47 47
  let klen := descBits d 1 51 32
  let bank := if b = 0 then (s.core st c).banks[0] else (s.core st c).banks[1]
  if (mxReads d).any fun r => panelSize < r.1 + r.2 then some ⟨0x01, 0x03, 1, 0⟩
  else if bitAt (descWord d 0).toNat 46 ∧
      (bank.valid = false ∨ bank.rows < klen ∨ bank.fmt ≠ descBits d 0 39 36 ∨ bank.shape ≠ descBits d 0 44 43) then
    let big := bank.valid && bank.rows < klen
    let diff := bank.valid && (bank.fmt != descBits d 0 39 36 || bank.shape != descBits d 0 44 43)
    some ⟨0x01, 0x07, b + 2 * bit (!bank.valid) + 4 * bit big + 8 * bit diff, 0⟩
  else if descBits d 0 49 48 = 2 then
    (badUnit s (panelBase st c + descBits d 2 31 16 * 16) 16).map (panelEcc 1)
  else none

/-- The slices of a pass. -/
def passPlan (s : State) (st : Fin 8) (c : Nat) (d : Desc) : PassPlan :=
  let fa := descBits d 0 35 32
  let fb := descBits d 0 39 36
  let (r, cc) := shapeOf (descBits d 0 44 43)
  let klen := descBits d 1 51 32
  let base := panelBase st c
  let oa := descBits d 1 15 0 * 16
  let ob := descBits d 1 31 16 * 16
  if bitAt (descWord d 0).toNat 51 then sparsePlan s base fa fb (klen / 64) 0 oa ob 0 false []
  else
    let pa := (s.bytes (base + oa) (panelBytes fa klen r)).toArray
    if bitAt (descWord d 0).toNat 46 then
      let bank := if descBits d 0 47 47 = 0 then (s.core st c).banks[0] else (s.core st c).banks[1]
      densePlan s fa fb r cc klen pa bank.data.toArray (base + oa) none
    else
      densePlan s fa fb r cc klen pa (s.bytes (base + ob) (panelBytes fb klen cc)).toArray (base + oa) (some (base + ob))

/-- MX_FEED_CYC and MX_SLICE_CNT grow (R115). -/
def countIssue (s : State) (st : Fin 8) (c cyc sl : Nat) : State :=
  (s.countPair (mxPage st c) 0x080 cyc).countPair (mxPage st c) 0x088 sl

/-- A pass's repeats (R127): REPEATED, MX_REPEAT_CNT and REPEAT for each. -/
def countRepeats (s : State) (st : Fin 8) (c slot n : Nat) : State :=
  if n = 0 then s
  else raiseEvt ((joinFlags s st c slot { repeated := true }).countSat (mxPage st c) 0x078 n) (mxPage st c) 4

/-- The pass at place `i` of the queue issues its slices. -/
def streamPass (s : State) (st : Fin 8) (c i : Nat) (d : Desc) : State :=
  let p := passPlan s st c d
  let ab := abMode s st c
  let slot := slotOfTile ab (descBits d 0 42 40)
  let (r, cc) := shapeOf (descBits d 0 44 43)
  let mask := rowMask s st c d
  let fed := (List.range r).map fun k => mask.testBit k
  match passStartFault s st c d, p.fault, p.slices.isEmpty && !p.issued with
  | some f, _, _ => mxFault s st c i d f.cls f.det f.high f.addr
  | none, some f, true => mxFault s st c i d f.cls f.det f.high f.addr
  | none, _, _ =>
    match openTile (s.core st c) ab d with
    | .error f => mxFault s st c i d f.cls f.det f.high f.addr
    | .ok (x, t) =>
      let s1 := s.modCore st c fun _ => x
      if windowFmt (descBits d 0 35 32) then
        let lock := bitAt (descWord d 0).toNat 50 || s.flag (mxPage st c) 0x040 1
        let run := windowRun lock cc fed t.cells p (s.fld (mxPage st c) 0x040 3 2) 0 t.w 0 0
        let s2 := countRepeats (countIssue s1 st c run.cyc run.sl) st c slot run.reps
        match run.out with
        | .error f => mxFault s2 st c i d f.cls f.det f.high f.addr
        | .ok (reg, cut, nf) =>
          (runAt s2 st (mxQueue c) i).modCore st c fun x =>
            { x with pass := some { tile := slot, window := true, w := run.w, reps := run.reps, acc := reg, inexact := cut,
                                    nonfinite := nf } }
      else
        let (cells, nf) := p.slices.foldl (fun a x => fp32Slice cc fed x a) (t.cells, false)
        let s2 := countIssue s1 st c (2 * p.slices.length) p.slices.length
        let s3 := joinFlags (modTile s2 st c slot fun t => { t with cells := cells }) st c slot { nonfinite := nf }
        match p.fault with
        | some f => mxFault s3 st c i d f.cls f.det f.high f.addr
        | none => (runAt s3 st (mxQueue c) i).modCore st c fun x => { x with pass := some { tile := slot } }

/-- MX_STREAM (R100, R107, R108): the pass the feed holds issues, once no hazard holds it and the pass before it has
retired. -/
def execMxStream (st : Fin 8) (c : Fin 56) (s : State) : Host.Outcome State Fault Refusal :=
  if s.has st then
    .next (match mxFirst s st c.val [1] with
      | some (e, i) =>
        if e.st = .accepted ∧ (s.core st c.val).pass = none ∧ mxBlocked s st c.val e.desc i = false then
          streamPass s st c.val i e.desc
        else s
      | none => s)
  else .fault .absentStack

/-- A window pass's result becomes the tile's (R125). -/
def retireWindow (t : MxTile) (p : MxPass) : MxTile :=
  { t with cells := (passCells t.cells p.reps p.acc).1, w := p.w }

/-- MX_PASS_RETIRE (R107, R125): the last slice has completed S5. -/
def execMxPassRetire (st : Fin 8) (c : Fin 56) (s : State) : Host.Outcome State Fault Refusal :=
  if s.has st then
    .next (match (s.core st c.val).pass, mxFirst s st c.val [1] with
      | some p, some (_, i) =>
        let s1 := s.modCore st c.val fun x => { x with pass := none }
        let s2 := modTile s1 st c.val p.tile fun t => if p.window then retireWindow t p else t
        let s3 := modTile s2 st c.val p.tile fun t => { t with drained := false }
        mxRetire (joinFlags s3 st c.val p.tile { inexact := p.inexact, nonfinite := p.nonfinite }) st c.val i
      | _, _ => s)
  else .fault .absentStack

/-! ### MX_LDB (R98, R102, R110) -/

/-- A bank changed. -/
def modBank (s : State) (st : Fin 8) (c b : Nat) (f : MxBank → MxBank) : State :=
  s.modCore st c fun x =>
    { x with banks := if b = 0 then x.banks.set 0 (f x.banks[0]) else x.banks.set 1 (f x.banks[1]) }

/-- The feed's own STREAM waits for bank `b` behind the load at place `i`: it faults in turn with BANK_STATE (R118). -/
def starveStream (s : State) (st : Fin 8) (c b i : Nat) : State :=
  match mxFirst s st c [1] with
  | some (e, k) =>
    if e.st = .accepted ∧ i < k ∧ bitAt (descWord e.desc 0).toNat 46 = true ∧ descBits e.desc 0 47 47 = b then
      mxFault s st c k e.desc 0x01 0x07 (b + 2) 0
    else s
  | none => s

/-- The load at place `i` of the queue. -/
def loadBank (s : State) (st : Fin 8) (c i : Nat) (d : Desc) : State :=
  let b := descBits d 0 32 32
  let fmt := descBits d 0 36 33
  let shape := descBits d 0 38 37
  let rows := descBits d 1 28 16
  let off := descBits d 1 15 0 * 16
  let n := panelBytes fmt rows (shapeOf shape).2
  let s1 := modBank s st c b fun x => { x with valid := false }
  if panelSize < off + n then starveStream (mxFault s1 st c i d 0x01 0x03 2 0) st c b i
  else match badUnit s (panelBase st c + off) n with
    | some a => starveStream (mxFault s1 st c i d 0x02 0x10 2 a) st c b i
    | none =>
      mxRetire (modBank s1 st c b fun _ =>
        { valid := true, fmt := fmt, shape := shape, rows := rows, data := s.bytes (panelBase st c + off) n }) st c i

/-- MX_LDB. -/
def execMxLdb (st : Fin 8) (c : Fin 56) (s : State) : Host.Outcome State Fault Refusal :=
  if s.has st then
    .next (match mxFirst s st c.val [2] with
      | some (e, i) => if mxBlocked s st c.val e.desc i then s else loadBank s st c.val i e.desc
      | none => s)
  else .fault .absentStack

/-! ### MX_DRAIN and MX_FREE (R103, R104, R109, R130) -/

/-- The cells of a tile in drain order. -/
def tileCells (t : MxTile) : List DWord := Sparse.getList (fun _ => 0) t.cells 0 4096

/-- A cell as an FP32 or BF16 code, with whether the conversion of a window sum overflowed (R103, R130). -/
def cellCode (f : Fmt) (t : MxTile) (v : DWord) : Nat × Bool :=
  if t.window then (Acc.ofCode v).toCode f t.w else ((toFmt f .rne false (f32 (v.setWidth 32))).1, false)

/-- What a drain writes, and whether it sets NONFINITE. -/
def drainData (t : MxTile) (dfmt : Nat) : List Byte × Bool :=
  if dfmt = 2 then
    (leBytes (expBits 16 t.w) 2 ++ leBytes t.flags.byte 1 ++ leBytes t.shape 1 ++ List.replicate 12 0 ++
      (tileCells t).flatMap (fun v => leBytes v.toNat 8), false)
  else
    let codes := (tileCells t).map fun v =>
      if dfmt = 0 ∧ t.window = false then ((v.setWidth 32 : Word).toNat, false)
      else cellCode (if dfmt = 0 then fp32 else bf16) t v
    (codes.flatMap (fun x => leBytes x.1 (if dfmt = 0 then 4 else 2)), codes.any (·.2))

/-- The drain at place `i` of the queue. -/
def drainTile (s : State) (st : Fin 8) (c i : Nat) (d : Desc) : State :=
  let tile := descBits d 0 42 40
  let slot := slotOfTile (abMode s st c) tile
  let dfmt := descBits d 0 44 43
  let off := descBits d 1 15 0 * 16
  match tileAt (s.core st c) slot with
  | none => mxFault s st c i d 0x01 0x05 tile 0
  | some (b, t) =>
    if b ≠ slot ∨ (dfmt = 2 ∧ t.window = false) then mxFault s st c i d 0x01 0x06 (tileInfo tile t) 0
    else if panelSize < off + drainBytes dfmt then mxFault s st c i d 0x01 0x03 3 0
    else
      let (bs, nf) := drainData t dfmt
      let s1 := (rawWrite s (panelBase st c + off) bs).1
      let s2 := joinFlags (modTile s1 st c slot fun t => { t with drained := true }) st c slot { nonfinite := nf }
      let s3 := if bitAt (descWord d 0).toNat 45 then s2.modCore st c fun x => { x with tiles := Sparse.del x.tiles slot }
        else s2
      mxRetire s3 st c i

/-- The free at place `i` of the queue (R104). -/
def freeTile (s : State) (st : Fin 8) (c i : Nat) (d : Desc) : State :=
  let tile := descBits d 0 42 40
  let slot := slotOfTile (abMode s st c) tile
  match tileAt (s.core st c) slot with
  | none => mxRetire s st c i
  | some (b, t) =>
    if b ≠ slot then mxFault s st c i d 0x01 0x06 (tileInfo tile t) 0
    else mxRetire (s.modCore st c fun x => { x with tiles := Sparse.del x.tiles slot }) st c i

/-- A DRAIN or FREE of the drainer begins, once no pass into its tile is ahead of it. -/
def drainer (op : Nat) (body : State → Fin 8 → Nat → Nat → Desc → State) (st : Fin 8) (c : Nat) (s : State) :
    Host.Outcome State Fault Refusal :=
  if s.has st then
    .next (match mxFirst s st c [3, 4] with
      | some (e, i) => if descOp e.desc ≠ op ∨ mxBlocked s st c e.desc i = true then s else body s st c i e.desc
      | none => s)
  else .fault .absentStack

/-- MX_DRAIN. -/
def execMxDrain (st : Fin 8) (c : Fin 56) (s : State) : Host.Outcome State Fault Refusal := drainer 3 drainTile st c.val s

/-- MX_FREE. -/
def execMxFree (st : Fin 8) (c : Fin 56) (s : State) : Host.Outcome State Fault Refusal := drainer 4 freeTile st c.val s

/-! ### Registers and resets (R113, R115, R119, R120) -/

/-- A write of MX_CFG: ignored with CFG_IGNORED while the page is busy or a tile is open (R113). -/
def mxCfgWrite (s : State) (st : Fin 8) (c : Nat) (v : Word) : State :=
  let p := mxPage st c
  let n := bitsOf v.toNat 3 0
  if busy s p ∨ (s.core st c).tiles ≠ [] then
    if n = s.fld p 0x040 3 0 then s else s.setFlag p 0x044 4 true
  else s.setFld p 0x040 3 0 n

/-- A write of 1 to a bit of MX_TILE_FLAGS clears that flag of the tile in the slot (R115). -/
def mxFlagsWrite (s : State) (st : Fin 8) (c : Nat) (v : Word) : State :=
  s.modCore st c fun x =>
    { x with tiles := x.tiles.map fun e =>
        let hit := fun base => (slotsFrom e.1 e.2.window).any fun i => bitAt v.toNat (base + i)
        (e.1, { e.2 with flags := ⟨e.2.flags.inexact && !hit 0, e.2.flags.nonfinite && !hit 8,
                                    e.2.flags.repeated && !hit 16⟩ }) }

/-- Every tile closed, both banks invalid, accumulators and banks zero (R119, R120). -/
def mxCleared (x : Core) : Core := { x with tiles := [], banks := Vector.replicate 2 {}, pass := none }

end Sys2Proof.Machine
end

