-- ==== Sys2Proof/Machine/Region.lean ====
section
/-! DEFINITION. Sparse regions (R179, R180, R186, R190, R191): their header and directory, as an engine reads and checks
them. -/

namespace Sys2Proof.Machine

/-- A region header, its offsets made addresses. -/
structure RgnHdr where
  base : Nat
  fmt : Nat
  vector : Bool
  tr : Nat
  tc : Nat
  e : Nat
  n : Nat
  rowptr : Nat
  entry : Nat
  cum : Nat
  pay : Nat
  deriving DecidableEq, Repr

/-- Why a read of a region stops: a class 0x03 code with its address, or the reader's own error. -/
inductive MetaErr (ε : Type) where
  | bad (det addr : Nat)
  | other (e : ε)

/-- A reader of bytes, by address and length. -/
abbrev Reader (ε : Type) := Nat → Nat → Except ε (List Byte)

variable {ε : Type}

/-- A read under the errors of a region. -/
def metaRead (rd : Reader ε) (a n : Nat) : Except (MetaErr ε) (List Byte) :=
  match rd a n with
  | .ok bs => .ok bs
  | .error e => .error (.other e)

/-- The header's bytes as a header. -/
def rgnHdrOf (base : Nat) (h : List Byte) : RgnHdr :=
  let q := fun off => leNat (slice h off 8)
  { base := base, fmt := (h.getD 2 0).toNat % 16, vector := bitAt (h.getD 3 0).toNat 0, tr := leNat (slice h 4 4),
    tc := leNat (slice h 8 4), e := q 16, n := q 24, rowptr := base + q 32, entry := base + q 40, cum := base + q 48,
    pay := base + q 56 }

/-- The areas of a region as (start, length): header, arrays, and the payload's first byte. -/
def RgnHdr.areas (r : RgnHdr) : List (Nat × Nat) :=
  [(r.base, 64), (r.rowptr, 8 * (r.tr + 1)), (r.entry, 16 * r.e), (r.cum, 8 * (r.e + 1)),
    (r.pay, if r.e = 0 then 0 else 1)]

/-- Two of a list of ranges share a byte. -/
def anyMeet : List (Nat × Nat) → Bool
  | [] => false
  | a :: t => (t.any fun b => a.2 != 0 && b.2 != 0 && decide (a.1 < b.1 + b.2) && decide (b.1 < a.1 + a.2)) || anyMeet t

/-- A region header read and checked (R179): FORMAT, reserved bytes, alignment and overlap (REGION_HDR), then the format and
kind against what is expected. -/
def readRgn (rd : Reader ε) (base : Nat) (seg : Option Bool) : Except (MetaErr ε) RgnHdr :=
  match metaRead rd base 64 with
  | .error e => .error e
  | .ok h =>
    let r := rgnHdrOf base h
    if leNat (slice h 0 2) ≠ 1 ∨ 16 ≤ (h.getD 2 0).toNat ∨ 2 ≤ (h.getD 3 0).toNat ∨ leNat (slice h 12 4) ≠ 0 ∨
        (r.rowptr - base) % 8 ≠ 0 ∨ (r.entry - base) % 8 ≠ 0 ∨ (r.cum - base) % 8 ≠ 0 ∨ (r.pay - base) % 8 ≠ 0 ∨
        anyMeet r.areas = true then .error (.bad 0x0D base)
    else if (seg.map fun x => x != r.vector).getD false then .error (.bad 0x03 base)
    else if (if r.vector then 8 < r.fmt else r.fmt = 0 ∨ 7 < r.fmt) then .error (.bad 0x04 base)
    else .ok r

/-- Entry `i` of a u64 array. -/
def readU64 (rd : Reader ε) (a i : Nat) : Except (MetaErr ε) Nat := (metaRead rd (a + 8 * i) 8).map leNat

/-- ROWPTR whole, checked (R180). -/
def readRowptr (rd : Reader ε) (r : RgnHdr) : Except (MetaErr ε) (List Nat) :=
  match metaRead rd r.rowptr (8 * (r.tr + 1)) with
  | .error e => .error e
  | .ok bs =>
    let ps := (List.range (r.tr + 1)).map fun i => leNat (slice bs (8 * i) 8)
    match (List.range (r.tr + 1)).find? fun i =>
        if i = 0 then ps.getD 0 0 ≠ 0 else ps.getD i 0 < ps.getD (i - 1) 0 || (i == r.tr && ps.getD i 0 != r.e) with
    | some i => .error (.bad 0x0A (r.rowptr + 8 * i))
    | none => if r.tr = 0 ∧ r.e ≠ 0 then .error (.bad 0x0A r.rowptr) else .ok ps

/-- A listed tile or segment as read: its entry number, offset, column, and header. -/
structure Listed where
  e : Nat
  off : Nat
  tcol : Nat
  hdr : SpHeader
  cum : Nat
  deriving DecidableEq, Repr

/-- Entry `i` with its tile's header and CUM values, checked against its neighbours (R180, R190). `row` is its tile row and
`first` the row's first entry; `limit` bounds the payload. -/
def readListed (rd : Reader ε) (r : RgnHdr) (first i limit : Nat) : Except (MetaErr ε) Listed := do
  let ea := r.entry + 16 * i
  let en ← metaRead rd ea 16
  let off := leNat (slice en 0 8)
  let tcol := leNat (slice en 8 4)
  if leNat (slice en 12 4) ≠ 0 ∨ r.tc ≤ tcol ∨ (i = 0 ∧ off ≠ 0) then .error (.bad 0x0B ea)
  else
    let prev ← if first < i then (metaRead rd (ea - 16) 16).map (fun b => some (leNat (slice b 8 4))) else .ok none
    if (prev.map fun p => decide (tcol ≤ p)).getD false then .error (.bad 0x0B ea)
    else
      let ta := r.pay + off
      if limit < ta + 8 then .error (.bad 0x09 ta)
      else
        let w := leNat (← metaRead rd ta 8)
        match headerFault w r.vector r.fmt true with
        | some det => .error (.bad det ta)
        | none =>
          let h := readHeader w r.vector
          if limit < ta + 8 * h.len then .error (.bad 0x09 ta)
          else
            let next ← if i + 1 < r.e then (metaRead rd (ea + 16) 8).map (fun b => some (leNat b)) else .ok none
            if (next.map fun n => n != off + 8 * h.len).getD false then .error (.bad 0x0B (ea + 16))
            else
              let c0 ← readU64 rd r.cum i
              let c1 ← readU64 rd r.cum (i + 1)
              if i = 0 ∧ c0 ≠ 0 then .error (.bad 0x0C r.cum)
              else if c1 ≠ c0 + h.nblk ∨ (i + 1 = r.e ∧ c1 ≠ r.n) then .error (.bad 0x0C (r.cum + 8 * (i + 1)))
              else .ok ⟨i, off, tcol, h, c0⟩

/-- The tile row of an entry. -/
def rowOf (ps : List Nat) (i : Nat) : Nat := ((ps.drop 1).findIdx fun p => decide (i < p))

/-- The part an entry falls to in the block-balanced split (R186). -/
def splitPart (cum p n : Nat) : Nat := cum * p / n

end Sys2Proof.Machine
end

