-- ==== Sys2Proof/Machine/Route.lean ====
section
/-! DEFINITION. The Jukan ports between stacks, and the fixed route of each pair (R20 to R22). -/

namespace Sys2Proof.Machine

/-- The stack that port `p` of stack `n` is joined to (R20). -/
def jkPeer (part : Part) (n p : Nat) : Nat :=
  match part with
  | .kx820 =>
    match p with
    | 0 => n / 4 * 4 + (n % 4 + 1) % 4
    | 1 => n / 4 * 4 + (n % 4 + 3) % 4
    | _ => Nat.xor n 4
  | .kx420 => Nat.xor n (p + 1)
  | .kx220 => 1 - n

/-- The port of the peer that joins it to port `p` (R20). -/
def jkBack (part : Part) (p : Nat) : Nat :=
  match part with
  | .kx820 => match p with | 0 => 1 | 1 => 0 | _ => 2
  | _ => p

/-- The hops along the ring of a row, from `a` to `b` (R21): the shorter way, a tie through port 0. -/
def ringHops (a b : Nat) : List (Nat × Nat) :=
  let row := a / 4 * 4
  let fwd := (b % 4 + 4 - a % 4) % 4
  match fwd with
  | 0 => []
  | 1 => [(a, 0)]
  | 2 => [(a, 0), (row + (a % 4 + 1) % 4, 0)]
  | _ => [(a, 1)]

/-- The route from stack `a` to stack `b` (R21) as (stack, port) hops; on the KX-220 one hop through any port. -/
def jkRoute (part : Part) (a b : Nat) : List (Nat × Nat) :=
  if a = b then []
  else match part with
  | .kx820 => if a / 4 = b / 4 then ringHops a b else (a, 2) :: ringHops (Nat.xor a 4) b
  | .kx420 => [(a, Nat.xor a b - 1)]
  | .kx220 => [(a, 0)]

/-- A Jukan port is up: JK_STAT.LINK_UP. -/
def portUp (s : State) (n p : Nat) : Bool := s.flag ⟨n, .jk, p⟩ 0x040 0

/-- The stack whose failed port the route from `a` to `b` needs, if one (R22); the KX-220 fails only where no link is up. -/
def routeFail (s : State) (a b : Nat) : Option Nat :=
  if a = b then none
  else match s.part with
  | .kx220 =>
    if [0, 1, 2].any fun p => portUp s a p && portUp s b p then none
    else some (if [0, 1, 2].any (portUp s a) then b else a)
  | part =>
    (jkRoute part a b).findSome? fun h =>
      let peer := jkPeer part h.1 h.2
      if portUp s h.1 h.2 = false then some h.1
      else if portUp s peer (jkBack part h.2) = false then some peer
      else none

end Sys2Proof.Machine
end

