-- ==== Sys2Proof/Machine/Tables.lean ====
section
/-! DEFINITION. The embedding tables (R224 to R233, R250): directory entries and their checks, rows, routing, argument
blocks, and the index and weight sources that Bead and Filigree share. -/

namespace Sys2Proof.Machine

/-! ### Errors (R263) -/

/-- Why a BEAD or FIL descriptor stops: a code with FAULT_INFO[31:16] and FAULT_ADDR, or a memory error in an area. -/
inductive TabErr where
  | fault (cls det high addr : Nat)
  | mem (e : MemErr) (area : Nat)
  deriving DecidableEq, Repr

/-- A code of class 0x05. -/
abbrev tabErr (det high addr : Nat) : TabErr := .fault 0x05 det high addr

/-- A descriptor of queue `q` faults on its page (R263, R264). -/
def tabFault (s : State) (st : Fin 8) (q : Nat) (d : Desc) (e : TabErr) : State :=
  match queuePage st q with
  | none => s
  | some p =>
    let s1 := match e with
      | .fault cls det high addr => recordFault s p cls det (high % 2 ^ 16 * 2 ^ 16 + descTag d) addr
      | .mem e area => memFault s p e 0x10 (descTag d) area
    finish s1 st q false

/-- The plan an engine page is bound to. -/
def bindOf (s : State) (p : Page) : Nat := s.fld p 0x030 15 0

/-- A range in the memory of stack `st`: LPDDR5X, SRAM or a panel store. -/
def mapped (s : State) (st : Fin 8) (a n : Nat) : Bool :=
  stackField a == st.val &&
  match rangePlace s a n with
  | none | some .regs => false
  | _ => true

/-- A read of an area in the engine's own stack (R231, R300). -/
def tabRead (s : State) (st : Fin 8) (plan area a n : Nat) : Except TabErr (List Byte) :=
  if n = 0 then .ok []
  else if mapped s st a n = false then .error (tabErr 0x07 area a)
  else match engRead s st plan a n with
  | .ok bs => .ok bs
  | .error e => .error (.mem e area)

/-- A write of an area in the engine's own stack; `driven` by the Clasp. -/
def tabWrite (s : State) (st : Fin 8) (plan area : Nat) (driven : Bool) (a : Nat) (bs : List Byte) :
    State × Option TabErr :=
  if bs = [] then (s, none)
  else if mapped s st a bs.length = false then (s, some (tabErr 0x07 area a))
  else
    let (s1, e) := engWrite s st plan driven a bs
    (s1, e.map fun x => .mem x area)

/-! ### Optimizer blocks (R250) -/

/-- An OPT block. -/
structure Opt where
  kind : Nat
  mfmt : Nat
  u : Int
  lr : Word
  b1 : Word
  b2 : Word
  eps : Word
  c1 : Word
  c2 : Word
  deriving DecidableEq, Repr

/-- An OPT block read from its 48 bytes. -/
def Opt.of (bs : List Byte) : Opt :=
  let w := fun i => BitVec.ofNat 32 (leNat (slice bs i 4))
  { kind := (bs.getD 0 0).toNat, mfmt := (bs.getD 1 0).toNat, u := toSigned 8 (bs.getD 2 0).toNat, lr := w 4, b1 := w 8,
    b2 := w 12, eps := w 16, c1 := w 20, c2 := w 24 }

/-- Whether an OPT block keeps a first and a second moment, the latter of an Adagrad row included. -/
def Opt.hasM (o : Opt) : Bool := o.kind == 2 || o.kind == 4
def Opt.hasV (o : Opt) : Bool := o.kind == 3 || o.kind == 4

/-- An OPT block passes its checks (R250), given where its moments lie. -/
def optOk (bs : List Byte) (m v : Nat) : Bool :=
  let o := Opt.of bs
  o.kind ≤ 4 && bs.getD 3 0 == 0 && ((bs.drop 28).take 20).all (· == 0) && decide (-64 ≤ o.u) && decide (o.u ≤ 63) &&
  (if o.hasM then o.mfmt == 1 || o.mfmt == 5 else o.mfmt == 0) && !(o.hasM && m == 0) && !(o.hasV && v == 0)

/-! ### Directory entries (R225 to R227) -/

/-- A directory entry; RSTRIDE in bytes. -/
structure Table where
  flags : Nat
  rfmt : Nat
  elems : Nat
  rstride : Nat
  mode : Nat
  shards : Nat
  nrows : Nat
  shardRows : Nat
  base : Nat
  dflt : Nat
  tid : Word
  hsgroup : Nat
  gw : Int
  mBase : Nat
  vBase : Nat
  opt : Opt
  deriving DecidableEq, Repr

/-- A directory entry read from its 128 bytes (R225). -/
def Table.of (bs : List Byte) : Table :=
  let n := fun i k => leNat (slice bs i k)
  { flags := n 2 1, rfmt := n 3 1, elems := n 4 2, rstride := 16 * n 6 2, mode := n 8 1 % 4, shards := n 9 1, nrows := n 16 8,
    shardRows := n 24 8, base := n 32 8, dflt := n 40 8, tid := BitVec.ofNat 32 (n 48 4), hsgroup := n 52 1,
    gw := toSigned 16 (n 54 2), mBase := n 56 8, vBase := n 64 8, opt := Opt.of (bs.drop 80) }

/-- FLAGS: ID64, HOT and LOCK. -/
def Table.id64 (t : Table) : Bool := bitAt t.flags 1
def Table.hot (t : Table) : Bool := bitAt t.flags 2
def Table.lock (t : Table) : Bool := bitAt t.flags 3

/-- The bytes of a row of `n` elements (R226). -/
def rowBytes (fmt n : Nat) : Nat :=
  if isMx fmt then (n + 31) / 32 * 32 + (n + 31) / 32 else n * elemBits fmt / 8

/-- The stride of a moment row (R226). -/
def momentStride (fmt n : Nat) : Nat := (rowBytes fmt n + 15) / 16 * 16

/-- An entry passes the checks of R227 in stack `st`. -/
def tableOk (s : State) (st : Fin 8) (bs : List Byte) : Bool :=
  let t := Table.of bs
  let n := fun i k => leNat (slice bs i k)
  let pop := popCount 8 t.shards
  n 0 2 == 1 && bitAt t.flags 0 && t.flags < 16 && n 8 1 < 4 && n 10 6 == 0 && n 53 1 == 0 && n 72 8 == 0 &&
  (t.rfmt == 1 || t.rfmt == 5 || (t.rfmt == 0 && t.mode == 3)) && 1 ≤ t.elems && t.elems ≤ 15872 && 1 ≤ n 6 2 &&
  n 6 2 ≤ 1024 && rowBytes t.rfmt t.elems ≤ t.rstride && decide (-512 ≤ t.gw) && decide (t.gw ≤ 511) && 1 ≤ t.nrows &&
  (t.id64 || t.nrows ≤ 0xFFFFFFFE) && (if t.mode = 1 then t.nrows ≤ t.shardRows * pop else t.shardRows == 0) &&
  t.shards < 2 ^ stackCount s.part && (t.shards != 0) == (t.mode != 3) && !(t.mode == 0 && 1 < pop) &&
  !(bitAt t.shards st.val && t.base == 0) && ([t.base, t.dflt, t.mBase, t.vBase].all fun a => a == 0 || a / 2 ^ 48 == st.val) &&
  optOk (bs.drop 80) t.mBase t.vBase

/-- Where entry `t` of the table directory lies: in the stack's own memory, at the offset in BEAD_TDIR (R224). -/
def tableAddr (s : State) (st : Fin 8) (t : Nat) : Nat := st.val * 2 ^ 48 + (s.pair (stackPage st .bead) 0x040 + 128 * t) % 2 ^ 48

/-- An entry latched by an engine with binding `plan`: its bytes, once they pass the checks (R224, R227). -/
def readTable (s : State) (st : Fin 8) (plan t : Nat) : Except TabErr (List Byte) :=
  match tabRead s st plan 6 (tableAddr s st t) 128 with
  | .error e => .error e
  | .ok bs => if tableOk s st bs then .ok bs else .error (tabErr 0x04 t (tableAddr s st t))

/-! ### Routing (R228) -/

/-- The stacks that hold shards, in ascending order. -/
def Table.homes (t : Table) : List Nat := (List.range 8).filter fun i => t.shards.testBit i

/-- The hash of a run of ids in mode 2. -/
def shardHash (q : Nat) : Nat := q * 0x9E3779B97F4A7C15 % 2 ^ 64 / 2 ^ 32

/-- route(t, x): home stack and local row, none for INVALID (R228). -/
def route (t : Table) (x : Nat) : Option (Nat × Nat) :=
  let hs := t.homes
  let ns := hs.length
  if t.nrows ≤ x ∨ x = (if t.id64 then 2 ^ 64 - 1 else 2 ^ 32 - 1) then none
  else
    let (k, row) := match t.mode with
      | 0 => (0, x)
      | 1 => (x / t.shardRows, x % t.shardRows)
      | _ => ((x % ns + shardHash (x / ns)) % ns, x / ns)
    some (hs.getD k 0, row)

/-- The global id of a local row (R228 inverted, R248). -/
def unroute (t : Table) (home row : Nat) : Nat :=
  let hs := t.homes
  let ns := hs.length
  let k := hs.findIdx (· == home)
  match t.mode with
  | 0 => row
  | 1 => k * t.shardRows + row
  | _ => row * ns + (k + ns - shardHash row % ns) % ns

/-! ### Rows (R226) -/

/-- The elements of a row. -/
def decodeRow (fmt n : Nat) (bs : List Byte) : List Val :=
  let a := bs.toArray
  (List.range n).map fun i =>
    elemVal fmt (codeAt a (elemBits fmt) 0 i) (if isMx fmt then (a.getD ((n + 31) / 32 * 32 + i / 32) 0).toNat else 0)

/-- An MX row from its blocks of element codes and scales. -/
def mxRow (blocks : List (Nat × List Nat)) : List Byte :=
  (blocks.flatMap fun b => packCodes 8 (b.2 ++ List.replicate (32 - b.2.length) 0)) ++
    blocks.map fun b => BitVec.ofNat 8 b.1

/-! ### Argument blocks (R231) -/

/-- What a field of an argument block must satisfy where it is used: its alignment and area number, none for a field that is no
address. -/
structure ArgUse where
  used : Bool
  align : Nat := 1
  area : Option Nat := none

/-- An argument block read and checked (R231): its eight fields. -/
def readArgs (s : State) (st : Fin 8) (plan a : Nat) (uses : List ArgUse) : Except TabErr (List Nat) :=
  match tabRead s st plan 0 a 64 with
  | .error e => .error e
  | .ok bs =>
    let fs := (List.range 8).map fun i => leNat (slice bs (8 * i) 8)
    let ps := uses.zip fs
    match ps.findIdx? fun p => !p.1.used && p.2 != 0 with
    | some i => .error (tabErr 0x03 i (a + 8 * i))
    | none =>
      match ps.find? fun p => p.1.used && p.1.area.isSome && (p.2 % p.1.align != 0 || !mapped s st p.2 1) with
      | some p => .error (tabErr 0x07 (p.1.area.getD 0) p.2)
      | none => .ok fs

/-- Argument fields and entry words as an entry latches them, and read back. -/
def latchOf (args : List Nat) (bs : List Byte) : List DWord :=
  args.map (BitVec.ofNat 64) ++ (List.range (bs.length / 8)).map fun i => BitVec.ofNat 64 (leNat (slice bs (8 * i) 8))
def latchedArg (e : Entry) (i : Nat) : Nat := (e.latch.getD i 0).toNat
def latchedTable (e : Entry) : Table := Table.of ((e.latch.drop 8).flatMap fun w => leBytes w.toNat 8)

/-! ### Index sources (R211, R213, R232) -/

/-- The natural alignment of an index source. -/
def isrcAlign (isrc : Nat) : Nat := match isrc with | 0 => 4 | 1 => 8 | _ => 64

/-- A frontier block's header, after the tests of R232. -/
def readFrontier (s : State) (st : Fin 8) (plan a isrc : Nat) : Except TabErr (List Byte) :=
  match tabRead s st plan 0 a 128 with
  | .error e => .error e
  | .ok h =>
    if leNat (slice h 0 8) = 0 then .error (tabErr 0x09 1 a)
    else if leNat (slice h 0 2) ≠ 1 then .error (tabErr 0x09 0 a)
    else if isrc = 3 ∧ h.getD 2 0 = 0 then .error (tabErr 0x09 2 a)
    else .ok h

/-- An index source read: its ids, its groups as bounds in the ids, each index's gradient row for a scatter (R243), and where
each index lies; with the frontier header if there is one. -/
structure Indices where
  ids : List Nat
  groups : List (Nat × Nat)
  rows : List Nat
  at_ : Nat → Nat
  hdr : Option (List Byte)

/-- The numbers of `k` bytes in a list of bytes. -/
def numsOf (k n : Nat) (bs : List Byte) : List Nat := (List.range n).map fun i => leNat (slice bs (k * i) k)

/-- Ids in groups of a fixed length. -/
def evenGroups (n g : Nat) : List (Nat × Nat) := (List.range ((n + g - 1) / g)).map fun i => (i * g, min n (i * g + g))

/-- The index source of a descriptor (R232): `glen` 0 takes GPTR. -/
def readIndices (s : State) (st : Fin 8) (plan isrc a count glen gptr : Nat) : Except TabErr Indices := do
  match isrc with
  | 2 =>
    let h ← readFrontier s st plan a 2
    let b := if bitAt (h.getD 3 0).toNat 0 then 8 else 4
    let n := leNat (slice h 12 4)
    let na := a + leNat (slice h 64 8)
    let bs ← tabRead s st plan 0 na (b * n)
    .ok ⟨numsOf b n bs, evenGroups n 1, List.range n, fun i => na + b * i, some h⟩
  | 3 =>
    let h ← readFrontier s st plan a 3
    let nd := leNat (slice h 4 4)
    let nrec := leNat (slice h 24 8)
    let ra := a + leNat (slice h 32 8)
    let ca := a + leNat (slice h 40 8)
    let rp ← (tabRead s st plan 0 ra (8 * (nd + 1))).map (numsOf 8 (nd + 1))
    match (List.range (nd + 1)).find? fun i =>
        if i = 0 then rp.getD 0 0 ≠ 0 else rp.getD i 0 < rp.getD (i - 1) 0 || nrec < rp.getD i 0 with
    | some i => .error (tabErr 0x09 3 (ra + 8 * i))
    | none =>
      let n := rp.getD nd 0
      let rs ← (tabRead s st plan 0 ca (8 * n)).map (numsOf 8 n)
      .ok ⟨rs.map fun w => bitsOf w 47 24, rp.zip (rp.drop 1), rs.map fun w => bitsOf w 23 0, fun i => ca + 8 * i, some h⟩
  | _ =>
    let b := if isrc = 0 then 4 else 8
    if glen ≠ 0 then
      let bs ← tabRead s st plan 0 a (b * count)
      .ok ⟨numsOf b count bs, evenGroups count glen, List.range count, fun i => a + b * i, none⟩
    else
      let gp ← (tabRead s st plan 2 gptr (8 * (count + 1))).map (numsOf 8 (count + 1))
      match (List.range count).find? fun g => decide (gp.getD (g + 1) 0 < gp.getD g 0) with
      | some g => .error (tabErr 0x08 (min g 0xFFFF) (gptr + 8 * (g + 1)))
      | none =>
        let n := gp.getD count 0
        let bs ← tabRead s st plan 0 a (b * n)
        .ok ⟨numsOf b n bs, gp.zip (gp.drop 1), List.range n, fun i => a + b * i, none⟩

/-- SOURCE_KIND (R263). -/
def sourceKind (isrc wsrc : Nat) : TabErr := tabErr 0x05 (isrc + 4 * wsrc) 0

/-- A source that the table's mode does not allow (R232, R243). -/
def sourceClash (t : Table) (isrc : Nat) : Bool := (t.mode == 3) != (isrc == 3) || (isrc == 1 && !t.id64)

/-- The weights of the indices (R233, R243), each a value over a whole divisor: WSRC 3 gives 1 over the group's length. -/
def readWeights (s : State) (st : Fin 8) (plan wsrc isrc wa a : Nat) (x : Indices) : Except TabErr (List (Val × Nat)) := do
  let n := x.ids.length
  let one : Val := .fin false 1 0
  match wsrc with
  | 0 => .ok (List.replicate n (one, 1))
  | 1 =>
    let h := x.hdr.getD []
    if isrc = 2 ∨ (isrc = 3 ∧ bitAt (h.getD 3 0).toNat 1 = false) then .error (sourceKind isrc 1)
    else
      let bs ← tabRead s st plan 1 (if isrc = 3 then a + leNat (slice h 48 8) else wa) (2 * n)
      .ok ((numsOf 2 n bs).map fun c => (decode fp16 c, 1))
  | 2 =>
    let bs ← tabRead s st plan 1 wa (4 * n)
    .ok ((numsOf 4 n bs).map fun c => (decode fp32 c, 1))
  | _ =>
    if isrc ≠ 3 then .error (sourceKind isrc 3)
    else .ok (x.groups.flatMap fun g => List.replicate (g.2 - g.1) (one, g.2 - g.1))

end Sys2Proof.Machine
end

