-- ==== Sys2Proof/Machine/Rng.lean ====
section
/-! DEFINITION. Random generation (R266 to R285): the permutation, the derived keys, keyed draws, lane streams, and the
commands of the key store and of a core's generator. -/

namespace Sys2Proof.Machine

/-- Word `i` of a 128-bit value (R266). -/
def word128 (v : BitVec 128) (i : Nat) : Word := v.extractLsb' (32 * i) 32

/-- x3 : x2 : x1 : x0 (R266). -/
def quad (x3 x2 x1 x0 : Word) : BitVec 128 := x3 ++ x2 ++ x1 ++ x0

/-- The rotation amounts of round `r` (R266). -/
def rotA (r : Nat) : Nat := [13, 7, 19, 26, 9, 24, 3, 16, 31, 12].getD r 0
def rotB (r : Nat) : Nat := [22, 27, 11, 5, 17, 14, 29, 21, 8, 18].getD r 0

/-- The four words under permutation. -/
structure KxpWords where
  x0 : Word
  x1 : Word
  x2 : Word
  x3 : Word
  deriving DecidableEq, Repr

/-- Key word `j` mod 5, the fifth being the parity word (R266). -/
def keyWord (key : BitVec 128) (j : Nat) : Word :=
  match j % 5 with
  | 4 => word128 key 0 ^^^ word128 key 1 ^^^ word128 key 2 ^^^ word128 key 3 ^^^ 0x8F1BC4E3
  | k => word128 key k

/-- The injection numbered `t` (R266): key words from `t`, and `t` itself added to word 3. -/
def inject (key : BitVec 128) (t : Nat) (x : KxpWords) : KxpWords :=
  { x0 := x.x0 + keyWord key t, x1 := x.x1 + keyWord key (t + 1), x2 := x.x2 + keyWord key (t + 2),
    x3 := x.x3 + keyWord key (t + 3) + BitVec.ofNat 32 t }

/-- Round `r` (R266): the two mixes, the exchange, and after an odd round an injection. -/
def kxpRound (key : BitVec 128) (x : KxpWords) (r : Nat) : KxpWords :=
  let a := x.x0 + x.x1
  let c := x.x2 + x.x3
  let b := x.x1.rotateLeft (rotA r) ^^^ a
  let d := x.x3.rotateLeft (rotB r) ^^^ c
  let y : KxpWords := { x0 := a, x1 := d, x2 := c, x3 := b }
  if r % 2 = 1 then inject key ((r + 1) / 2) y else y

/-- kxp(key, ctr) (R266). -/
def kxp (key ctr : BitVec 128) : BitVec 128 :=
  let x0 := inject key 0 { x0 := word128 ctr 0, x1 := word128 ctr 1, x2 := word128 ctr 2, x3 := word128 ctr 3 }
  let x := (List.range 10).foldl (kxpRound key) x0
  quad x.x3 x.x2 x.x1 x.x0

/-- derive(kb, t, domain) (R267). -/
def deriveKey (kb : BitVec 128) (t : DWord) (domain : Word) : BitVec 128 :=
  kxp kb (quad 0x4B580000 domain (t.extractLsb' 32 32) (t.extractLsb' 0 32))

/-- The fingerprint of a base key (R267). -/
def fingerprint (kb : BitVec 128) : Word := word128 (kxp kb (quad 0x4B580000 0 0 0)) 0

/-- A derivation is in progress (RNG_KSTAT.DERIVING). -/
def Keys.busy (k : Keys) : Bool := k.deriveS.isSome || k.deriveE.isSome || k.deriveL

/-- The key a vector chain run latches (R268). -/
def drawKey (x : Stack) : BitVec 128 := if x.clp.state = .eval then x.keys.ke else x.keys.ks

/-- The log2 of the elements per draw for a slot width (R271). -/
def slotsLog (w : Nat) : Nat := match w with | 8 => 4 | 16 => 3 | 32 => 2 | _ => 0

/-- WCODE of a slot width (R271). -/
def wcode (w : Nat) : Nat := match w with | 8 => 0 | 16 => 1 | 32 => 2 | _ => 3

/-- The slot of a keyed draw (R271). -/
def keyedSlot (key : BitVec 128) (tid : Word) (sel : Nat) (i : Nat) (w : Nat) : Nat :=
  let b := i / 2 ^ slotsLog w
  let j := i % 2 ^ slotsLog w
  let ctr := quad (BitVec.ofNat 32 (sel + wcode w * 2 ^ 16)) tid (BitVec.ofNat 32 (b / 2 ^ 32)) (BitVec.ofNat 32 b)
  ((kxp key ctr).toNat >>> (w * j)) % 2 ^ w

/-- The whole draw, slot width 128 (R271). -/
def wholeDraw (key : BitVec 128) (tid : Word) (sel i : Nat) : Nat := keyedSlot key tid sel i 128

/-- The width of the slot that `n` random bits come from (R271). -/
def slotWidth (n : Nat) : Nat := if n ≤ 8 then 8 else if n ≤ 16 then 16 else 32

/-- A lane counter after reseeding (R275). -/
def laneSeed (st : Fin 8) (c l : Nat) : BitVec 128 := quad 0 (BitVec.ofNat 32 (st.val * 2 ^ 16 + c)) (BitVec.ofNat 32 l) 0

/-- A lane counter. -/
def laneCtr (s : State) (st : Fin 8) (c l : Nat) : BitVec 128 := Sparse.get (laneSeed st c) (s.core st c).lanes l

/-- The counter after one step: bits [63:0] advance and wrap (R275). -/
def laneNext (v : BitVec 128) : BitVec 128 := (v.extractLsb' 64 64 : BitVec 64) ++ (v.extractLsb' 0 64 + 1 : BitVec 64)

/-- Every lane of a core reseeded; RESEEDED is raised (R275, R282). -/
def reseed (s : State) (st : Fin 8) (c : Nat) : State :=
  raiseEvt (s.modCore st c fun x => { x with lanes := [], reseedWaits := false }) (stackPage st .rng c) 5

/-- An event of the key store, shown on every RNG page of the stack (R282). -/
def keyEvent (s : State) (st : Fin 8) (n : Nat) : State :=
  (List.range 56).foldl (fun s c => raiseEvt s (stackPage st .rng c) n) s

/-- The derivation of KS for the present step number begins (R267). -/
def startKs (s : State) (st : Fin 8) : State :=
  let t := (s.st st).clp.step
  s.modKeys st fun k => { k with deriveS := some t }

/-- The derivation of KE for the present evaluation counter begins (R267). -/
def startKe (s : State) (st : Fin 8) : State :=
  let t := (s.st st).clp.evals
  s.modKeys st fun k => { k with deriveE := some t }

/-- A commit is taken only in IDLE or TORN (R269). -/
def mayCommit (s : State) (st : Fin 8) : Bool :=
  (s.st st).clp.state == .idle || (s.st st).clp.state == .torn

/-- An ignored commit: COMMIT_IGNORED (R269, R282). -/
def commitIgnored (s : State) (st : Fin 8) : State :=
  keyEvent (s.modKeys st fun k => { k with commitIgnored := true }) st 4

/-- RNG_KEY_COMMIT.STEP (R269): KSB takes the staged value, KS and KL are derived, every lane is reseeded. -/
def commitStepKey (s : State) (st : Fin 8) : State :=
  if mayCommit s st then
    let s1 := s.modKeys st fun k => { k with ksb := k.stagedS, skeySet := true, deriveL := true }
    let s2 := startKs s1 st
    keyEvent ((List.range 56).foldl (fun s c => reseed s st c) s2) st 3
  else commitIgnored s st

/-- RNG_KEY_COMMIT.EVAL (R269). -/
def commitEvalKey (s : State) (st : Fin 8) : State :=
  if mayCommit s st then
    keyEvent (startKe (s.modKeys st fun k => { k with keb := k.stagedE, ekeySet := true }) st) st 3
  else commitIgnored s st

/-- The keys whose derivations end, with the fingerprints formed beside them (R267). -/
def Keys.derived (k : Keys) : Keys :=
  { k with
    ks := match k.deriveS with | some t => deriveKey k.ksb t 1 | none => k.ks
    ke := match k.deriveE with | some t => deriveKey k.keb t 2 | none => k.ke
    kl := if k.deriveL then deriveKey k.ksb 0 3 else k.kl
    skeyFp := if k.deriveS.isSome || k.deriveL then fingerprint k.ksb else k.skeyFp
    ekeyFp := if k.deriveE.isSome then fingerprint k.keb else k.ekeyFp
    deriveS := none
    deriveE := none
    deriveL := false }

/-- KEY_DERIVATION_DONE (R267). -/
def execKeyDerivationDone (st : Fin 8) (s : State) : Host.Outcome State Fault Refusal :=
  if s.has st then .next (s.modKeys st Keys.derived) else .fault .absentStack

/-- The runs a core has accepted and not retired. -/
def runsAccepted (s : State) (st : Fin 8) (c : Nat) : Bool := (s.queue st (0x40 + c)).entries.any Entry.inFlight

/-- RNG_CTRL.RESEED: after every accepted run has retired (R282). -/
def requestReseed (s : State) (st : Fin 8) (c : Nat) : State :=
  if runsAccepted s st c then s.modCore st c fun x => { x with reseedWaits := true } else reseed s st c

/-- The generator's self-check value (R281). -/
def selfCheckValue (x : Core) : BitVec 128 :=
  kxp x.lastKey (quad 0xFFFFFFFF x.lastTid 0xFFFFFFFF 0xFFFFFFFF)

/-- RNG_SELF_CHECK (R281): `err` is what a failing generator adds to its result. A mismatch records SELFTEST, makes the
open step VOID or the evaluation non-finite, and in COMMIT tears the step (by `recordFault`). -/
def execRngSelfCheck (st : Fin 8) (c : Fin 56) (err : BitVec 128) (s : State) : Host.Outcome State Fault Refusal :=
  if s.has st then
    let got := selfCheckValue (s.core st c.val) ^^^ err
    .next (if err = 0 then s else
      let s1 := recordFault s (stackPage st .rng c.val) 0x01 0x30 (word128 got 0).toNat 0
      s1.modClp st fun k =>
        match (s.st st).clp.state with
        | .opened | .reduce | .armed => { k with voidPlan := true }
        | .eval => { k with evalNonfinite := true }
        | _ => k)
  else .fault .absentStack

end Sys2Proof.Machine
end

