-- ==== Sys2Proof/Machine/Clasp.lean ====
section
/-! DEFINITION. The Clasp engine up to its gate (R35 to R42, R51, R52, R66): its commands, loss reports and events. -/

namespace Sys2Proof.Machine

/-- The CLP page of a stack. -/
def clpPage (st : Fin 8) : Page := stackPage st .clp

/-- The value of CLP_STAT.STATE (R66). -/
def stepCode : StepState → Nat
  | .idle => 0 | .opened => 1 | .reduce => 2 | .armed => 3 | .commit => 4 | .eval => 5 | .torn => 6

/-- CLP_CFG.MB_COUNT. -/
def mbCount (s : State) (st : Fin 8) : Nat := s.fld (clpPage st) 0x044 15 0

/-- A refused command (R39): CMD_ORDER and nothing else. -/
def clpRefuse (s : State) (st : Fin 8) (op : Nat) : State :=
  recordFault s (clpPage st) 0x09 0x20 (op % 16 + 16 * stepCode (s.st st).clp.state) 0

/-- What clears when the state becomes IDLE (R66). -/
def Clasp.idled (c : Clasp) : Clasp :=
  { c with state := .idle, sequence := .none, due := none, voidLoss := false, voidPlan := false, voidRemote := false,
           voted := false, voteBits := 0, timedOut := false }

/-- EVAL is entered (R51): the counter grows and KE is derived. -/
def enterEval (s : State) (st : Fin 8) : State :=
  startKe (s.modClp st fun c =>
    { c with state := .eval, evals := c.evals + 1, evalNonfinite := false, mbReported := 0 }) st

/-- An evaluation event is taken (R52): EVAL is entered and the doorbell of CLP_CFG is rung. -/
def takeEval (s : State) (st : Fin 8) : State :=
  let s1 := enterEval (s.modClp st fun c => { c with evalHeld := false }) st
  let s2 := ringBits s1 st (s.fld (clpPage st) 0x044 21 16) (BitVec.ofNat 32 (2 ^ s.fld (clpPage st) 0x044 26 22))
  raiseEvt s2 (clpPage st) 8

/-- The VOID bits of every stack of the module (R371). -/
def voidBits (s : State) : Nat :=
  s.stacksIn.foldl (fun n i =>
    let c := (s.st i).clp
    n + (bit c.voidLoss + 2 * bit c.voidPlan + 4 * bit c.voidRemote) * 8 ^ i.val) 0

/-- A VOID bit has been set since the module first voted for this step (R371). -/
def voteLate (s : State) : Bool :=
  s.stacksIn.any fun i => (s.st i).clp.voted && Nat.lor (s.st i).clp.voteBits (voidBits s) != (s.st i).clp.voteBits

/-- Every channel of the open step that votes is DONE (R39, R371). -/
def votesDone (s : State) (st : Fin 8) : Bool :=
  (s.st st).chans.all fun e => !(e.2.vote && e.2.step == (s.st st).clp.step) || e.2.st == .done

/-- OPEN_STEP in IDLE (R35, R38, R62): the step number is consumed and KS derived; a Clasp event that fired before is for
this step. -/
def openStep (s : State) (st : Fin 8) : State :=
  startKs (s.modClp st fun c =>
    { c with state := .opened, step := c.step + 1, mbReported := 0, lossMb := 0xFFFF, due := c.dueNext, dueNext := none })
    st

/-- A command of CLP_CMD.OP (R39). A held evaluation event goes before it (R52). OP 0 is no command. -/
def clpCmd (s0 : State) (st : Fin 8) (op : Nat) : State :=
  if op = 0 then s0 else
  let s := if (s0.st st).clp.state = .idle ∧ (s0.st st).clp.evalHeld = true then takeEval s0 st else s0
  let c := (s.st st).clp
  match op, c.state with
  | 1, .idle => if 1 ≤ mbCount s st then openStep s st else clpRefuse s st op
  | 2, .opened =>
    if c.mbReported = mbCount s st ∨ c.voidPlan then s.modClp st fun c => { c with state := .reduce }
    else clpRefuse s st op
  | 3, .reduce =>
    if votesDone s st ∨ c.voidPlan then s.modClp st fun c => { c with state := .armed } else clpRefuse s st op
  | 4, .opened | 4, .reduce | 4, .armed => s.modClp st fun c => { c with voidPlan := true }
  | 5, .idle => enterEval s st
  | 6, .eval => s.modClp st Clasp.idled
  | _, _ => clpRefuse s st op

/-- EVAL_EVENT_TAKEN (R52): the state is IDLE and an evaluation event is held. -/
def execEvalEventTaken (st : Fin 8) (s : State) : Host.Outcome State Fault Refusal :=
  if s.has st then
    .next (if (s.st st).clp.state = .idle ∧ (s.st st).clp.evalHeld = true then takeEval s st else s)
  else .fault .absentStack

/-! ### Loss reports and events (R38, R40, R52, R62) -/

/-- A loss report (R38, R40): discarded with MB_COUNT outside OPEN and EVAL, or beyond MB_COUNT reports. -/
def lossReport (s : State) (st : Fin 8) (v : Word) : State :=
  let c := (s.st st).clp
  let s1 := s.modClp st fun c => { c with loss := v, mbReported := c.mbReported + 1 }
  if (c.state ≠ .opened ∧ c.state ≠ .eval) ∨ mbCount s st ≤ c.mbReported then
    recordFault s (clpPage st) 0x09 0x21 (min c.mbReported 0xFFFF) 0
  else if nonfinite v = false then s1
  else if c.state = .eval then s1.modClp st fun c => { c with evalNonfinite := true }
  else
    let s2 := s1.modClp st fun c => { c with voidLoss := true }
    raiseEvt (if c.voidLoss then s2 else s2.modClp st fun c => { c with lossMb := BitVec.ofNat 16 (c.mbReported - 1) })
      (clpPage st) 5

/-- A Clasp event fires (R62): it serves the open step, or the next one. -/
def claspEvent (s : State) (st : Fin 8) (pos : DWord) : State :=
  match (s.st st).clp.state with
  | .opened | .reduce | .armed => s.modClp st fun c => { c with due := some (c.due.getD pos) }
  | _ => s.modClp st fun c => { c with dueNext := some (c.dueNext.getD pos) }

/-- An evaluation start fires (R52): taken in IDLE, held in any other state, discarded with EVAL_OVERRUN while one is
held. -/
def evalEvent (s : State) (st : Fin 8) (slot : Nat) : State :=
  let c := (s.st st).clp
  if c.evalHeld then recordFault s (clpPage st) 0x09 0x25 slot 0
  else if c.state = .idle then takeEval s st
  else s.modClp st fun c => { c with evalHeld := true }

/-! ### The conditions of the gate (R41) -/

/-- Condition 4: no queue holds a descriptor of the plan the Clasp engine is bound to. -/
def drained (s : State) (st : Fin 8) : Bool :=
  let plan := s.fld (clpPage st) 0x030 15 0
  allQueues.all fun q => (s.queue st q).entries.all fun e => e.plan.toNat != plan

/-- The conditions of R41 that a stack does not meet, condition n in bit n − 1. -/
def gateMissing (s : State) (st : Fin 8) : Nat :=
  let c := (s.st st).clp
  bit (c.state != .armed) + 2 * bit c.due.isNone + 4 * bit c.ckptHold + 8 * bit (!drained s st)

/-- GATE_TIMEOUT (R41): GATE_LIMIT beats have passed since the Clasp event's position and the gate has not opened. It is
raised once for a step. -/
def execGateTimeout (st : Fin 8) (s : State) : Host.Outcome State Fault Refusal :=
  if s.has st then
    .next (
      let c := (s.st st).clp
      let limit := s.fld (clpPage st) 0x048 7 0
      match c.due.or c.dueNext with
      | none => s
      | some p =>
        if limit = 0 ∨ c.timedOut = true ∨ c.state = .commit ∨ (s.st st).tns.pos.toNat < p.toNat + limit * 65536 then s
        else recordFault (s.modClp st fun c => { c with timedOut := true }) (clpPage st) 0x09 0x22 (gateMissing s st) 0)
  else .fault .absentStack

end Sys2Proof.Machine
end

