-- ==== Sys2Proof/Machine/Real.lean ====
section
/-! DEFINITION. The functions of the stage palette, correctly rounded (R143), the exact reciprocal square root (R142), and the
knots of the normal distribution (R277). A function is bounded from both sides in fixed point; where both bounds round to
one FP32 value, that is the rounded exact value. Working precision grows until they do (assumption 7). -/

namespace Sys2Proof.Machine

/-! ### Fixed point: a value times 2^p, to within `slack` units -/

/-- The error that every fixed-point result below stays within, in units of 2^−p. -/
def slack : Int := 2 ^ 100

/-- Σ ± 2^p ÷ ((2i + 1) n^(2i + 1)), over `fuel` terms: atan(1/n) with alternating signs, atanh(1/n) without. -/
def invSeries (alt : Bool) (n : Nat) : Nat → Nat → Int → Int → Int
  | 0, _, _, acc => acc
  | f + 1, i, t, acc =>
    let d : Int := t / (2 * i + 1)
    invSeries alt n f (i + 1) (t / (n * n)) (if alt && i % 2 == 1 then acc - d else acc + d)

/-- ln 2 = 2 atanh(1/3). -/
def fixLn2 (p : Nat) : Int := 2 * invSeries false 3 p 0 (2 ^ p / 3) 0

/-- π = 16 atan(1/5) − 4 atan(1/239). -/
def fixPi (p : Nat) : Int := 16 * invSeries true 5 p 0 (2 ^ p / 5) 0 - 4 * invSeries true 239 p 0 (2 ^ p / 239) 0

/-- Σ x^n ÷ n! from a term. -/
def expSeries (p : Nat) (x : Int) : Nat → Nat → Int → Int → Int
  | 0, _, _, acc => acc
  | f + 1, n, t, acc => expSeries p x f (n + 1) (t * x / 2 ^ p / (n + 1)) (acc + t)

/-- e^r of a fixed-point r of magnitude at most 1. -/
def fixExp (p : Nat) (r : Int) : Int := expSeries p r p 0 (2 ^ p) 0

/-- Σ z^(2i + 1) ÷ (2i + 1): atanh z for |z| ≤ 1/3. -/
def atanhSeries (p : Nat) (z2 : Int) : Nat → Nat → Int → Int → Int
  | 0, _, _, acc => acc
  | f + 1, i, t, acc => atanhSeries p z2 f (i + 1) (t * z2 / 2 ^ p) (acc + t / (2 * i + 1))

/-- ln y for m × 2^−m.log2 = y in [1, 2). -/
def fixLnUnit (p m : Nat) : Int :=
  let one : Int := 2 ^ m.log2
  let z := (2 ^ p * ((m : Int) - one)) / (m + one)
  2 * atanhSeries p (z * z / 2 ^ p) p 0 z 0

/-- Σ (−1)^n x^(2n + 1) ÷ (h^n n! (2n + 1)), for |x| at most 6. -/
def erfSeries (p h : Nat) (x2 : Int) : Nat → Nat → Int → Int → Int
  | 0, _, _, acc => acc
  | f + 1, n, t, acc =>
    let d := t / (2 * n + 1)
    erfSeries p h x2 f (n + 1) (t * x2 / 2 ^ p / (h * (n + 1))) (if n % 2 = 1 then acc - d else acc + d)

/-- A finite value as fixed point, exact where its exponent is at least −p. -/
def toFix (p : Nat) (neg : Bool) (m : Nat) (e : Int) : Int :=
  let k : Int := if 0 ≤ e + p then (m * 2 ^ (e + p).toNat : Nat) else (m / 2 ^ (-(e + p)).toNat : Nat)
  if neg then -k else k

/-- √(c ÷ π) as fixed point: 2/√π for c = 4, √(2/π) for c = 2. -/
def fixRootPi (p c : Nat) : Int := Nat.sqrt ((c * 2 ^ (3 * p)) / (fixPi p).toNat)

/-- erf x, or with h = 2 erf(x/√2). -/
def fixErf (p h : Nat) (x : Int) : Int :=
  erfSeries p h (x * x / 2 ^ p) p 0 x 0 * fixRootPi p (4 / h) / 2 ^ p

/-! ### Bounds and rounding -/

/-- The values `slack` below and above a fixed-point result times 2^k. -/
def fixBounds (p : Nat) (x k : Int) : Val × Val :=
  let v := fun (y : Int) => Val.fin (decide (y < 0)) y.natAbs (k - p)
  (v (x - slack), v (x + slack))

/-- e^x for a finite x: bounds, with results far outside the FP32 range held at values as far outside. -/
def expBounds (p : Nat) (neg : Bool) (m : Nat) (e : Int) : Val × Val :=
  if 8 ≤ floorLog2 m e then
    let v := Val.fin false 1 (if neg then -400 else 400)
    (v, v)
  else
    let x := toFix p neg m e
    let l := fixLn2 p
    let k := x / l
    fixBounds p (fixExp p (x - k * l)) k

/-- 2^x for a finite x that is no whole number. -/
def exp2Bounds (p : Nat) (neg : Bool) (m : Nat) (e : Int) : Val × Val :=
  if 9 ≤ floorLog2 m e then
    let v := Val.fin false 1 (if neg then -400 else 400)
    (v, v)
  else
    let x := toFix p neg m e
    let k := x / 2 ^ p
    fixBounds p (fixExp p ((x - k * 2 ^ p) * fixLn2 p / 2 ^ p)) k

/-- The bounds of f for the bounds of its falling or rising argument. -/
def mapBounds (f : Val → Val) (falling : Bool) (b : Val × Val) : Val × Val :=
  if falling then (f b.2, f b.1) else (f b.1, f b.2)

/-- 1. -/
def Val.one : Val := .fin false 1 0

/-- The bounds of a FUNC variant for a finite non-zero operand that no special case of R143 takes. -/
def funcBounds (var p : Nat) (neg : Bool) (m : Nat) (e : Int) : Val × Val :=
  let signed := fun (b : Val × Val) => if neg then (b.2.negate, b.1.negate) else b
  match var with
  | 0 => expBounds p neg m e
  | 1 => exp2Bounds p neg m e
  | 2 => fixBounds p (fixLnUnit p m + floorLog2 m e * fixLn2 p) 0
  | 3 => fixBounds p (fixLnUnit p m * 2 ^ p / fixLn2 p + floorLog2 m e * 2 ^ p) 0
  | 4 =>
    if 5 ≤ floorLog2 m e then signed (.fin false (2 ^ 60 - 1) (-60), .one)
    else signed (mapBounds (fun u => (Val.one.add u.negate).div (Val.one.add u)) true (expBounds p true (2 * m) e))
  | 5 => mapBounds (fun u => Val.one.div (Val.one.add u)) true (expBounds p (!neg) m e)
  | _ =>
    if 2 ≤ floorLog2 m e then signed (.fin false (2 ^ 60 - 1) (-60), .one)
    else signed (fixBounds p (fixErf p 1 (toFix p false m e)) 0)

/-- The FP32 code both bounds round to, if one. -/
def agreed (b : Val × Val) : Option Nat :=
  let lo := (toFmt fp32 .rne false b.1).1
  if lo = (toFmt fp32 .rne false b.2).1 then some lo else none

/-- The rounded value of a FUNC variant (R143). -/
def funcRounded (var : Nat) (x : Word) (neg : Bool) (m : Nat) (e : Int) : Nat :=
  (([320, 640, 1280].findSome? fun p => agreed (funcBounds var p neg m e)).getD (Config.funcBoundary var x).toNat)

/-- A whole power of two: its exponent. -/
def powerOfTwo (m : Nat) (e : Int) : Option Int := if m = 2 ^ m.log2 then some (floorLog2 m e) else none

/-- The whole number a finite value is, if it is one of magnitude below 512. -/
def smallInt (neg : Bool) (m : Nat) (e : Int) : Option Int :=
  if 9 ≤ floorLog2 m e then none
  else
    let k : Option Nat := if 0 ≤ e then some (m * 2 ^ e.toNat)
      else if m % 2 ^ (-e).toNat = 0 then some (m / 2 ^ (-e).toNat) else none
    k.map fun n => if neg then -(n : Int) else n

/-- A FUNC result: the FP32 word, the conditions, INVALID and DIVZERO (R143). -/
def funcStage (var : Nat) (x : Word) : Word × Cond × Bool × Bool :=
  let out := fun (v : Val) => let (c, k) := toFmt fp32 .rne false v; ((BitVec.ofNat 32 c : Word), k, false, false)
  let nan := fun (inv : Bool) => ((0x7FC00000 : Word), ({ nf := true } : Cond), inv, false)
  match f32 x with
  | .nan => nan false
  | .inf n =>
    match var with
    | 0 | 1 | 5 => out (if n then .zero else if var = 5 then .one else .inf false)
    | 2 | 3 => if n then nan true else out (.inf false)
    | _ => out (.fin n 1 0)
  | .fin n m e =>
    if m = 0 then
      match var with
      | 0 | 1 => out .one
      | 2 | 3 => (0xFF800000, { nf := true }, false, true)
      | 5 => out (.fin false 1 (-1))
      | _ => out (.zero n)
    else if (var = 2 ∨ var = 3) ∧ n = true then nan true
    else
      match var, powerOfTwo m e, smallInt n m e with
      | 1, _, some k => out (.fin false 1 k)
      | 2, some 0, _ => out .zero
      | 3, some k, _ => out (.fin (decide (k < 0)) k.natAbs 0)
      | _, _, _ =>
        let c := funcRounded var x n m e
        let big := bitsOf c 30 23 == 255
        (BitVec.ofNat 32 c, { nx := true, of_ := big, uf := bitsOf c 30 23 == 0, nf := big }, false, false)

/-! ### Reciprocal square root (R142) -/

/-- 1/√(m × 2^e), to 128 bits and a last bit for what was cut off. -/
def rsqrtVal (m : Nat) (e : Int) : Val :=
  let m' := if e % 2 = 0 then m else 2 * m
  let h := (if e % 2 = 0 then e else e - 1) / 2
  let k := 128 + m'.log2
  let r := Nat.sqrt (2 ^ (2 * k) / m')
  .fin false (2 * r + (if r * r * m' = 2 ^ (2 * k) then 0 else 1)) (-h - k - 1)

/-- The reciprocal square root with its special values. -/
def Val.rsqrt (a : Val) : Val :=
  match a with
  | .nan => .nan
  | .inf n => if n then .nan else .zero
  | .fin n m e => if m = 0 then .inf n else if n then .nan else rsqrtVal m e

/-! ### Knots (R277) -/

/-- Whether Φ(z) lies below 0.5 + q ÷ 2^17 for z = m × 2^e ≥ 0: erf(z/√2) against q ÷ 2^16. -/
def phiBelow (m : Nat) (e : Int) (q : Nat) : Bool := fixErf 320 2 (toFix 320 false m e) < (q : Int) * 2 ^ 304

/-- The largest FP32 code, by halving the code range, at which Φ lies below the argument. -/
def knotSearch (q : Nat) : Nat → Nat → Nat → Nat
  | 0, lo, _ => lo
  | f + 1, lo, hi =>
    let mid := (lo + hi) / 2
    if hi ≤ lo + 1 then lo
    else
      match decode fp32 mid with
      | .fin _ m e => if phiBelow m e q then knotSearch q f mid hi else knotSearch q f lo mid
      | _ => lo

/-- T[k] (R277): the FP32 value nearest to Φ⁻¹(0.5 + k ÷ 512), and for k = 256 to Φ⁻¹(1 − 2^−16). -/
def knot (k : Nat) : Word :=
  if k = 0 then 0
  else
    let q := if k = 256 then 2 ^ 16 - 2 else 256 * k
    let lo := knotSearch q 32 0 0x40A00000
    match decode fp32 lo, decode fp32 (lo + 1) with
    | .fin _ m e, .fin _ m' e' =>
      let u := min e e' - 1
      let mid := (Val.units false m e u + Val.units false m' e' u).toNat / 2
      BitVec.ofNat 32 (if phiBelow mid u q then lo + 1 else lo)
    | _, _ => 0

/-- The standard normal value of a 32-bit slot (R277). -/
def normalOf (bits : Nat) : Word :=
  let k := bitsOf bits 30 23
  let d := fsub (knot (k + 1)) (knot k)
  let z := toF32 (((f32 d).mul (.fin false (bitsOf bits 22 0) (-23))).add (f32 (knot k)))
  if bitAt bits 31 then z ^^^ 0x80000000 else z

end Sys2Proof.Machine
end

