-- ==== Sys2Proof/Machine/Vector.lean ====
section
/-! DEFINITION. The vector chain of a core (R137 to R171): stage words and their types, the stage palette, reductions, soft
maximum and normalisation, draws, runs, and the context of R166. A run's work is done whole by VC_RUN. -/

namespace Sys2Proof.Machine

/-- The VC page and queue of a core. -/
def vcPage (st : Fin 8) (c : Nat) : Page := stackPage st .vc c
def vcQueue (c : Nat) : Nat := 0x40 + c

/-! ### Stage words (R138 to R141) -/

/-- A stage word's fields (R138). -/
structure Stage where
  kind : Nat
  var : Nat
  opb : Nat
  opc : Nat
  rnd : Nat
  deriving DecidableEq, Repr

/-- A stage word read (R138). -/
def stageOf (w : Nat) : Stage := ⟨bitsOf w 3 0, bitsOf w 6 4, bitsOf w 9 7, bitsOf w 12 10, bitsOf w 15 13⟩

/-- The variants of a kind (R141): none for 0xC to 0xF. -/
def stageVars (kind : Nat) : Nat := [3, 1, 3, 2, 6, 7, 4, 6, 3, 7, 1, 2].getD kind 0

/-- A stage word is no reserved encoding (R138, R139, R141, R145). -/
def stageOk (w : Nat) : Bool :=
  let g := stageOf w
  g.var < stageVars g.kind && g.opb != 7 && (g.kind == 7 || g.opc != 7) &&
  if g.kind = 7 then
    g.opb == 0 && g.opc ≤ 1 &&
    match g.var with
    | 0 => g.opc == 1 && g.rnd ≤ 3
    | 1 => g.opc == 0 && g.rnd ≤ 3
    | 4 => g.opc == 1 && g.rnd ≤ 4
    | _ => g.rnd ≤ 4
  else
    let needB := g.kind ≤ 4 || g.kind == 8 || g.kind == 11 || (g.kind == 6 && g.var == 0)
    let needC := g.kind == 2 || g.kind == 4 || (g.kind == 8 && g.var < 2)
    g.rnd ≤ (if g.kind ≤ 2 ∨ g.kind = 6 then 3 else 0) && (needB || g.opb == 0) && (needC || g.opc == 0)

/-- The type of a stage's result, true for INT32, from the type it is fed: none for a clash (R140, R141). -/
def resultType (g : Stage) (int : Bool) : Option Bool :=
  match g.kind with
  | 0 | 1 | 2 | 3 | 4 => some int
  | 7 => if int = (g.var == 1) then some (g.var == 0) else none
  | 9 => some (int || 5 ≤ g.var)
  | _ => if int then none else some false

/-- A draw's selector and slot width of a stage, if it draws (R272). -/
def stageUse (g : Stage) (n : Nat) : Option (Nat × Nat) :=
  match g.kind, g.var with
  | 8, 0 => some (n, 8)
  | 8, 1 => some (n, 16)
  | 8, _ => some (n, 32)
  | 7, v => if 2 ≤ v ∧ g.rnd = 4 then (srWidth 0 (v - 1)).map fun k => (n, slotWidth k) else none
  | _, _ => none

/-! ### Conditions (R80, R168) -/

/-- The VC_STICKY bits of conditions. -/
def condBits (c : Cond) : Nat := bit c.nx + 2 * bit c.of_ + 4 * bit c.uf + 8 * bit c.nf

/-- NF where a word is not finite. -/
def nfBit (w : Word) : Nat := 8 * bit (nonfinite w)

/-- An exact FP32 result rounded: its word, and NX, OF, UF, NF, INVALID (a NaN from operands that are none) and DIVZERO. -/
def arith (mode : RMode) (v : Val) (ops : List Val) (div : Bool := false) : Word × Nat :=
  let (c, k) := toFmt fp32 mode false v
  (BitVec.ofNat 32 c, condBits { k with nf := nonfinite (BitVec.ofNat 32 c) } + 32 * bit (v.isNan && ops.all fun x => !x.isNan) +
    64 * bit (div && v.isInf && ops.all Val.finite))

/-! ### Element stages (R142 to R145) -/

/-- Whether x ranks below y, −0 below +0 (R144). -/
def rankBelow (x y : Val) : Bool := x.lt y || (x.same y && x.neg && !y.neg)

/-- The minimum or maximum of two FP32 words (R144). -/
def fpMin (a b : Word) : Word :=
  if (f32 a).isNan || (f32 b).isNan then 0x7FC00000 else if rankBelow (f32 b) (f32 a) then b else a
def fpMax (a b : Word) : Word :=
  if (f32 a).isNan || (f32 b).isNan then 0x7FC00000 else if rankBelow (f32 a) (f32 b) then b else a

/-- The comparison of a CMPSEL variant from less and equal, and whether the operands are ordered (R141, R144). -/
def cmpVar (var : Nat) (lt eq ordered : Bool) : Bool :=
  match var with
  | 0 => ordered && !lt && !eq
  | 1 => ordered && !lt
  | 2 => lt
  | 3 => lt || eq
  | 4 => eq
  | _ => ordered && !eq

/-- An INT32 stage of kinds 0 to 4 (R142, R144). -/
def intStage (g : Stage) (x b c : Word) : Word :=
  match g.kind, g.var with
  | 0, 0 => x + b
  | 0, 1 => x - b
  | 0, _ => b - x
  | 1, _ => x * b
  | 2, 0 => x * b + c
  | 2, 1 => x * b - c
  | 2, _ => c - x * b
  | 3, 0 => if b.slt x then b else x
  | 3, _ => if x.slt b then b else x
  | _, v => if cmpVar v (x.slt b) (x == b) true then x else c

/-- An FP32 stage of kinds 0 to 6 (R142 to R144), before NF. -/
def fpStage (g : Stage) (x b c : Word) : Word × Nat :=
  let m := modeOf g.rnd 0 0
  let (vx, vb, vc) := (f32 x, f32 b, f32 c)
  match g.kind, g.var with
  | 0, 0 => arith m (vx.add vb) [vx, vb]
  | 0, 1 => arith m (vx.add vb.negate) [vx, vb]
  | 0, _ => arith m (vb.add vx.negate) [vx, vb]
  | 1, _ => arith m (vx.mul vb) [vx, vb]
  | 2, 0 => arith m ((vx.mul vb).add vc) [vx, vb, vc]
  | 2, 1 => arith m ((vx.mul vb).add vc.negate) [vx, vb, vc]
  | 2, _ => arith m ((vx.mul vb).negate.add vc) [vx, vb, vc]
  | 3, 0 => (fpMin x b, 0)
  | 3, _ => (fpMax x b, 0)
  | 4, v =>
    if vx.isNan then (0x7FC00000, 0)
    else (if cmpVar v (vx.lt vb) (vx.same vb) (!vb.isNan) then x else c, 0)
  | 5, v =>
    let (w, k, inv, dz) := funcStage v x
    (w, condBits k + 32 * bit inv + 64 * bit dz)
  | _, 0 => arith m (vx.div vb) [vx, vb] true
  | _, 1 => arith m vx.sqrt [vx]
  | _, 2 => arith m vx.rsqrt [vx] true
  | _, _ => arith m (Val.one.div vx) [vx] true

/-- A CVT stage (R145); `r` holds the random bits of SR. -/
def cvtStage (g : Stage) (x : Word) (r : Nat) : Word × Nat :=
  let n := (srWidth 0 (g.var - 1)).getD 0
  let m := modeOf g.rnd n (r % 2 ^ n)
  match g.var with
  | 0 => let (w, k) := toInt32 m (f32 x); (w, condBits k)
  | 1 => let (c, k) := toFmt fp32 m false (ofInt32 x); (BitVec.ofNat 32 c, condBits k)
  | v =>
    let f := (elemFmt (v - 1)).getD fp32
    let (c, k) := toFmt f m (g.opc == 1) (f32 x)
    let w := toF32 (decode f c)
    (w, condBits k ||| nfBit w)

/-- An element stage but RAND. -/
def elemStage (g : Stage) (int : Bool) (x b c : Word) (r : Nat) : Word × Nat :=
  if g.kind = 7 then cvtStage g x r
  else if int then (intStage g x b c, 0)
  else let (w, f) := fpStage g x b c; (w, f ||| nfBit w)

/-- A RAND stage (R146): `u` holds the slot. -/
def randStage (g : Stage) (x b c : Word) (u : Nat) : Word × Nat :=
  match g.var with
  | 2 =>
    let (vb, vz, vx) := (f32 b, f32 (normalOf u), f32 x)
    let (w, f) := arith .rne ((vb.mul vz).add vx) [vb, vz, vx]
    (w, f ||| nfBit w)
  | v =>
    if u < b.toNat % 2 ^ (8 * (v + 1)) then
      let (w, f) := arith .rne ((f32 x).mul (f32 c)) [f32 x, f32 c]
      (w, f ||| nfBit w)
    else (0, 0)

/-! ### Reductions (R151 to R154) -/

/-- One level of the tree of R152. -/
def treeLevel (f : Word → Word → Word × Nat) : List Word → List Word × Nat
  | a :: b :: t =>
    let (w, k) := f a b
    let (ws, ks) := treeLevel f t
    (w :: ws, k ||| ks)
  | l => (l, 0)

/-- Levels until one element is left. -/
def treeUp (f : Word → Word → Word × Nat) : Nat → List Word → Nat → Word × Nat
  | 0, l, k => (l.headD 0, k)
  | n + 1, l, k => let (l', k') := treeLevel f l; treeUp f n l' (k ||| k')

/-- The tree over the fed elements, padded with the identity to a power of two (R152). -/
def tree (f : Word → Word → Word × Nat) (ident : Word) (xs : List Word) : Word × Nat :=
  let n := Nat.clog 2 xs.length
  treeUp f n (xs ++ List.replicate (2 ^ n - xs.length) ident) 0

/-- Rounded addition and multiplication in a tree. -/
def treeAdd (a b : Word) : Word × Nat := arith .rne ((f32 a).add (f32 b)) [f32 a, f32 b]
def treeMul (a b : Word) : Word × Nat := arith .rne ((f32 a).mul (f32 b)) [f32 a, f32 b]

/-- The identity of a REDUCE variant (R151). -/
def identityOf (var : Nat) (int : Bool) : Word :=
  match var with
  | 0 | 1 => 0
  | 2 => if int then 1 else 0x3F800000
  | 3 => if int then 0x80000000 else 0xFF800000
  | 4 => if int then 0x7FFFFFFF else 0x7F800000
  | _ => 0xFFFFFFFF

/-- The position of the best element: a later one displaces it only by ranking strictly beyond it (R154). -/
def argBest (beyond : Word → Word → Bool) (l : List (Word × Nat)) : Nat :=
  match l with
  | [] => 0xFFFFFFFF
  | h :: t => (t.foldl (fun (best : Word × Nat) (e : Word × Nat) => if beyond e.1 best.1 then e else best) h).2

/-- A REDUCE stage over one group, whose masked elements are none (R151 to R154). -/
def reduceGroup (var : Nat) (int : Bool) (xs : List (Option Word)) : Word × Nat :=
  let fed := xs.filterMap id
  if fed = [] then (identityOf var int, 16)
  else
    let at_ := (xs.zipIdx).filterMap fun e => e.1.map fun w => (w, e.2)
    let done := fun (r : Word × Nat) => (r.1, r.2 ||| nfBit r.1)
    match var, int with
    | 0, true | 1, true => (fed.foldl (· + ·) 0, 0)
    | 2, true => (fed.foldl (· * ·) 1, 0)
    | 0, false => done (tree treeAdd 0 fed)
    | 2, false => done (tree treeMul 0x3F800000 fed)
    | 1, false =>
      let vs := fed.map f32
      done (arith .rne ((vs.drop 1).foldl Val.add (vs.headD .nan)) vs)
    | 3, true => (fed.foldl (fun a b => if a.slt b then b else a) (identityOf 3 true), 0)
    | 4, true => (fed.foldl (fun a b => if b.slt a then b else a) (identityOf 4 true), 0)
    | 3, false => done ((fed.drop 1).foldl fpMax (fpMax (fed.headD 0) (fed.headD 0)), 0)
    | 4, false => done ((fed.drop 1).foldl fpMin (fpMin (fed.headD 0) (fed.headD 0)), 0)
    | v, true => (BitVec.ofNat 32 (argBest (fun a b => if v = 5 then b.slt a else a.slt b) at_), 0)
    | v, false =>
      match at_.find? fun e => (f32 e.1).isNan with
      | some e => (BitVec.ofNat 32 e.2, 0)
      | none =>
        (BitVec.ofNat 32
          (argBest (fun a b => if v = 5 then rankBelow (f32 b) (f32 a) else rankBelow (f32 a) (f32 b)) at_), 0)

/-! ### Soft maximum and normalisation (R155, R156) -/

/-- The flags of a list of results. -/
def flagsOf (l : List (Word × Nat)) : Nat := l.foldl (fun k e => k ||| e.2) 0

/-- The soft maximum of a group: a masked element stays none (R155). -/
def softMax (xs : List (Option Word)) : List (Option Word) × Nat :=
  let fed := xs.filterMap id
  let out := fun (f : Word → Word) => xs.map fun x => x.map f
  let ups := fed.filter fun w => w == 0x7F800000
  let recip := fun (k : Nat) => toF32 (Val.one.div (.fin false k 0))
  if fed = [] then (xs, 16)
  else if fed.any fun w => (f32 w).isNan then (out fun _ => 0x7FC00000, 8)
  else if ups ≠ [] then (out fun w => if w = 0x7F800000 then recip ups.length else 0, 0)
  else if fed.all fun w => w == 0xFF800000 then (out fun _ => recip fed.length, 0)
  else
    let m := (fed.drop 1).foldl fpMax (fed.headD 0)
    let d := fed.map fun w => arith .rne ((f32 w).add (f32 m).negate) []
    let e := d.map fun x => fpStage ⟨5, 0, 0, 0, 0⟩ x.1 0 0
    let s := tree treeAdd 0 (e.map (·.1))
    let y := fun (w : Word) =>
      let dd := (arith .rne ((f32 w).add (f32 m).negate) []).1
      let ee := (fpStage ⟨5, 0, 0, 0, 0⟩ dd 0 0).1
      arith .rne ((f32 ee).div (f32 s.1)) [f32 ee, f32 s.1]
    let k := flagsOf (d.map fun x => (x.1, x.2 &&& 15)) ||| (flagsOf e &&& 7) ||| s.2 ||| flagsOf (fed.map y)
    (out fun w => (y w).1, k)

/-- Normalisation of a group; `eps` is each element's ε (R156). -/
def normGroup (var : Nat) (xs : List (Option Word)) (eps : List Word) : List (Option Word) × Nat :=
  let fed := xs.filterMap id
  if fed = [] then (xs, 16)
  else if fed.any nonfinite then
    (xs.map fun x => x.map fun _ => 0x7FC00000, if fed.any fun w => (f32 w).isNan then 8 else 8 + 32)
  else
    let over_ := fun (w : Word) => arith .rne ((f32 w).div (.fin false fed.length 0)) [f32 w]
    let square := fun (w : Word) => treeMul w w
    let sum := tree treeAdd 0 fed
    let mean := over_ sum.1
    let centre := fun (w : Word) => if var = 0 then treeAdd w (mean.1 ^^^ 0x80000000) else (w, 0)
    let d := fed.map centre
    let sq := d.map fun x => square x.1
    let sq1 := tree treeAdd 0 (sq.map (·.1))
    let v := over_ sq1.1
    let k0 := (if var = 0 then sum.2 ||| mean.2 ||| flagsOf d else 0) ||| flagsOf sq ||| sq1.2 ||| v.2
    let y := fun (w e : Word) =>
      let a := treeAdd v.1 e
      let r := arith .rne (f32 a.1).rsqrt [f32 a.1] true
      let x := centre w
      let z := treeMul x.1 r.1
      (z.1, a.2 ||| r.2 ||| z.2)
    let rs := (xs.zip eps).map fun x => x.1.map fun w => y w x.2
    (rs.map fun r => r.map (·.1), rs.foldl (fun k r => k ||| (r.map (·.2)).getD 0) k0)

/-! ### The check of a run against its slot (R140, R150, R161, R163) -/

/-- A stage with its number and the type it is fed. -/
structure TypedStage where
  n : Nat
  g : Stage
  int : Bool
  deriving DecidableEq, Repr

/-- The first clash of an operand: its selector and the type it must have. -/
def operandClash (tA tB : Bool) (bsrc sel : Nat) (need : Bool) (n : Nat) : Option (Nat × Nat) :=
  match sel with
  | 1 => if tA = need then none else some (0x05, n)
  | 2 => if bsrc = 0 then some (0x06, n) else if tB = need then none else some (0x05, n)
  | 6 => if need then none else some (0x05, n)
  | _ => none

/-- The stages checked in order: a detail code and a stage, or the stages with their types and the result's type. -/
def checkStages (tA tB : Bool) (bsrc : Nat) : List Stage → Nat → Bool → Bool → List TypedStage →
    Except (Nat × Nat) (List TypedStage × Bool)
  | [], _, int, _, acc => .ok (acc, int)
  | g :: gs, n, int, group, acc =>
    if (g.kind = 9 ∧ gs ≠ []) ∨ ((g.kind = 10 ∨ g.kind = 11) ∧ group = true) then .error (0x06, n)
    else
      match operandClash tA tB bsrc g.opb (if g.kind = 8 ∧ g.var < 2 then true else int) n,
        (if g.kind = 7 then none else operandClash tA tB bsrc g.opc int n), resultType g int with
      | some e, _, _ => .error e
      | none, some e, _ => .error e
      | none, none, none => .error (0x05, n)
      | none, none, some t =>
        checkStages tA tB bsrc gs (n + 1) t (group || g.kind = 10 || g.kind = 11) (acc ++ [⟨n, g, int⟩])

/-- Fields of a RUN (R162). -/
def runSfmtA (d : Desc) : Nat := descBits d 0 37 34
def runSfmtB (d : Desc) : Nat := descBits d 0 41 38
def runDfmt (d : Desc) : Nat := descBits d 0 45 42
def runDrnd (d : Desc) : Nat := descBits d 0 48 46
def runDsat (d : Desc) : Bool := bitAt (descWord d 0).toNat 49
def runRecipe (d : Desc) : Nat := descBits d 0 52 50
def runMask (d : Desc) : Bool := bitAt (descWord d 0).toNat 53
def runAsrc (d : Desc) : Nat := descBits d 0 55 54
def runBsrc (d : Desc) : Nat := descBits d 0 57 56
def runDst (d : Desc) : Nat := descBits d 0 59 58
def runRowlen (d : Desc) : Nat := descBits d 3 47 32

/-- The stages of a slot. -/
def VcSlot.stages (x : VcSlot) : List Stage := (x.words.toList.take x.nstage).map fun w => stageOf w.toNat

/-- A RUN checked against its slot as it starts (R163): a detail code and FAULT_INFO[31:16], or the typed stages. -/
def checkRun (x : Core) (d : Desc) : Except (Nat × Nat) (List TypedStage) :=
  let cs := descBits d 0 33 32
  let slot := x.chain.toList.getD cs {}
  let tA := runSfmtA d == 8
  let tB := runSfmtB d == 8
  if slot.valid = false then .error (0x04, cs)
  else match checkStages tA tB (runBsrc d) slot.stages 0 tA false [] with
  | .error e => .error e
  | .ok (ts, int) =>
    let red := ts.any fun t => t.g.kind == 9
    match ts.find? fun t => (t.g.kind == 10 || t.g.kind == 11) && decide (16384 < runRowlen d) with
    | some t => .error (0x06, t.n)
    | none =>
      if runDst d = 2 ∧ (red = false ∨ (runRowlen d ≠ 0 ∧ runRowlen d ≠ x.vl) ∨ runDfmt d ≠ 0) then .error (0x06, 7)
      else if (runAsrc d = 1 ∧ runSfmtA d ≠ 0 ∧ tA = false) ∨ (runAsrc d = 2 ∧ runSfmtA d ≠ 0) then .error (0x05, 0)
      else if (runBsrc d = 2 ∧ runSfmtB d ≠ 0 ∧ tB = false) ∨ (runDst d = 1 ∧ runDfmt d ≠ 0 ∧ runDfmt d ≠ 8) ∨
          (runDfmt d == 8) ≠ int then .error (0x05, 7)
      else .ok ts

/-! ### Command words (R10, R162, R163) -/

/-- The fields of a VC command of an operation, each with whether its value is legal. -/
def vcFields (d : Desc) : List DescField :=
  let f := fun w hi lo (ok : Bool) => (⟨w, hi, lo, ok⟩ : DescField)
  let base := [f 0 7 0 true, f 0 11 8 (1 ≤ descOp d && descOp d ≤ 5), f 0 31 16 true]
  base ++
  match descOp d with
  | 1 =>
    let mx := runDst d = 0 && isMx (runDfmt d)
    let clash := mx && (runDrnd d != 0 || runDsat d || (runRecipe d ≤ 5 &&
        !((recipe (runRecipe d)).map fun r => r.2.2.contains (runDfmt d)).getD false))
    let plain := runDst d = 0 && !mx && runDfmt d ≤ 8
    let dok := runDfmt d ≤ 8 && !clash && !(plain && (runDfmt d == 3 || runDfmt d == 8) && !runDsat d) &&
      !(plain && runDrnd d == 4 && (srWidth 0 (runDfmt d)).isNone)
    [f 0 33 32 true, f 0 37 34 (runSfmtA d ≤ 8), f 0 41 38 (runSfmtB d ≤ 8 && (runBsrc d != 0 || runSfmtB d == 0)),
      f 0 45 42 dok, f 0 48 46 (runDrnd d ≤ 4), f 0 49 49 true, f 0 52 50 (runRecipe d ≤ 5), f 0 53 53 true,
      f 0 55 54 (runAsrc d != 3), f 0 57 56 (runBsrc d != 3), f 0 59 58 (runDst d != 3), f 1 63 0 true, f 2 63 0 true,
      f 3 47 0 true]
  | 2 =>
    let ns := descBits d 3 37 34
    [f 0 63 32 true, f 3 31 0 true, f 3 33 32 true, f 3 37 34 (ns ≤ 8)] ++
    (List.range 8).map fun k =>
      let w := descBits d (1 + k / 4) (16 * (k % 4) + 15) (16 * (k % 4))
      f (1 + k / 4) (16 * (k % 4) + 15) (16 * (k % 4)) (if k < ns then stageOk w else w == 0)
  | 3 | 4 | 5 => [f 1 15 0 true]
  | _ => []

/-! ### Streams and areas (R149, R158) -/

/-- The bytes of a stream's element area, and where its scales begin and how many there are. -/
def streamElems (fmt n : Nat) : Nat := if isMx fmt then (n + 31) / 32 * 32 * elemBits fmt / 8 else n * elemBits fmt / 8
def streamScales (fmt n : Nat) : Nat := if isMx fmt then (streamElems fmt n + 15) / 16 * 16 else streamElems fmt n
def streamBytes (fmt n : Nat) : Nat := streamScales fmt n + (if isMx fmt then (n + 31) / 32 else 0)

/-- The first element of a panel stream that an uncorrectable word holds, with the word's address. -/
def streamBad (s : State) (a fmt n : Nat) : Option (Nat × Nat) :=
  if s.bad = [] then none
  else (List.range n).findSome? fun e =>
    let b := elemBits fmt
    let sc := if isMx fmt then badUnit s (a + streamScales fmt n + e / 32) 1 else none
    ((badUnit s (a + e * b / 8) ((b + 7) / 8)).or sc).map fun w => (e, unitStart w)

/-- A panel stream's elements as FP32 or INT32 words, with the conditions each raises if it is fed (R81, R140). -/
def readStream (s : State) (a fmt n : Nat) : List (Word × Nat) :=
  let bs := (s.bytes a (streamBytes fmt n)).toArray
  (List.range n).map fun e =>
    let c := codeAt bs (elemBits fmt) 0 e
    if fmt = 0 ∨ fmt = 8 then (BitVec.ofNat 32 c, 0)
    else
      let v := elemVal fmt c (if isMx fmt then (bs.getD (streamScales fmt n + e / 32) 0).toNat else 0)
      let (w, k) := toFmt fp32 .rne false v
      (BitVec.ofNat 32 w, condBits k ||| nfBit (BitVec.ofNat 32 w))

/-- A vector register's elements. -/
def readVreg (x : Core) (r n : Nat) : List (Word × Nat) :=
  (List.range n).map fun e => (Sparse.get (fun _ => 0) x.vregs (1024 * (r % 4) + e), 0)

/-- A tile's elements (R160), and whether a window sum overflowed. -/
def readTileStream (t : MxTile) (n : Nat) : List (Word × Nat) × Bool :=
  let cs := (Sparse.getList (fun _ => (0 : DWord)) t.cells 0 n).map fun v =>
    if t.window then (Acc.ofCode v).toCode fp32 t.w else ((v.setWidth 32 : Word).toNat, false)
  (cs.map fun c => (BitVec.ofNat 32 c.1, 0), cs.any (·.2))

/-! ### Draws (R271 to R276) -/

/-- For each element position of a lane, each drawing use's value (counted from the lane's counter) and bit place; and how
many values are evaluated (R275). -/
def laneTable (ws : List Nat) (positions : Nat) : List (List (Nat × Nat)) × Nat :=
  let one := fun (st : List (Nat × Nat) × Nat × Nat) (w : Nat) =>
    let (k, u) := if 128 < st.2.2 + w then (st.2.1 + 1, 0) else (st.2.1, st.2.2)
    (st.1 ++ [(k, u)], k, u + w)
  let r := (List.range positions).foldl (fun (st : List (List (Nat × Nat)) × Nat × Nat) _ =>
    let x := ws.foldl one ([], st.2.1, st.2.2)
    (st.1 ++ [x.1], x.2.1, x.2.2)) ([], 0, 0)
  (r.1, r.2.1 + 1)

/-- What a run draws with: in keyed mode the latched key and tensor id, in lane-stream mode the lanes' counters. -/
structure Draws where
  lane : Bool
  key : BitVec 128
  tid : Word
  ebase : Nat
  uses : List (Nat × Nat)
  table : Array (List (Nat × Nat))
  ctr : Nat → BitVec 128

/-- The slot of an element's drawing use. -/
def Draws.slot (g : Draws) (sel w e : Nat) : Nat :=
  if g.lane then
    let p := ((g.table.getD (e / 64) [])[g.uses.findIdx fun u => u.1 == sel]?).getD (0, 0)
    let c := g.ctr (e % 64)
    let v := kxp g.key ((c.extractLsb' 64 64 : BitVec 64) ++ (c.extractLsb' 0 64 + BitVec.ofNat 64 p.1 : BitVec 64))
    (v.toNat >>> p.2) % 2 ^ w
  else keyedSlot g.key g.tid sel (g.ebase + e) w

/-- The permutations a run evaluates: distinct counters in keyed mode, values per lane in lane-stream mode. `fed` lists the
elements of each use. -/
def Draws.count (g : Draws) (n : Nat) (fed : Nat → List Nat) : Nat :=
  if g.lane then
    if g.uses = [] then 0
    else (List.range 64).foldl (fun k l =>
      let p := (n + 63 - l) / 64
      if p = 0 then k else k + (laneTable (g.uses.map (·.2)) p).2) 0
  else g.uses.foldl (fun k u => k + ((fed u.1).map fun e => (g.ebase + e) / 2 ^ slotsLog u.2).dedup.length) 0

/-! ### A run's arithmetic (R139, R148) -/

/-- What a run computes from. -/
structure RunData where
  d : Desc
  imm2 : Word
  a : Array Word
  b : Array Word
  draws : Draws

/-- The operand a selector gives element `e` (R139). -/
def RunData.operand (r : RunData) (sel e : Nat) : Word :=
  match sel with
  | 1 => r.a.getD e 0
  | 2 => r.b.getD e 0
  | 3 => BitVec.ofNat 32 (descBits r.d 2 31 0)
  | 4 => BitVec.ofNat 32 (descBits r.d 2 63 32)
  | 5 => r.imm2
  | 6 => BitVec.ofNat 32 (descBits r.d 3 31 0 + e)
  | _ => 0

/-- Element stages applied to an element's value. -/
def RunData.element (r : RunData) (e : Nat) (ts : List TypedStage) (x : Word) : Word × Nat :=
  ts.foldl (fun (y : Word × Nat) t =>
    let u := (stageUse t.g t.n).map fun p => r.draws.slot p.1 p.2 e
    let (w, k) :=
      if t.g.kind = 8 then randStage t.g y.1 (r.operand t.g.opb e) (r.operand t.g.opc e) (u.getD 0)
      else elemStage t.g t.int y.1 (r.operand t.g.opb e) (r.operand t.g.opc e) (u.getD 0)
    (w, y.2 ||| k)) (x, 0)

/-- Element stages applied to every fed element. -/
def RunData.elements (r : RunData) (ts : List TypedStage) (xs : List (Option Word)) : List (Option Word) × Nat :=
  let ys := (xs.zipIdx).map fun e => e.1.map (r.element e.2 ts)
  (ys.map fun y => y.map (·.1), ys.foldl (fun k y => k ||| (y.map (·.2)).getD 0) 0)

/-- A list cut into groups of `g`. -/
def groupsOf (g : Nat) (xs : List (Option Word)) : List (List (Option Word)) :=
  if g = 0 ∨ xs = [] then [xs] else (List.range ((xs.length + g - 1) / g)).map fun i => (xs.drop (i * g)).take g

/-- A SMAX or NORM stage over the groups. -/
def RunData.grouped (r : RunData) (t : TypedStage) (g : Nat) (xs : List (Option Word)) : List (Option Word) × Nat :=
  let rs := ((groupsOf g xs).zipIdx).map fun x =>
    if t.g.kind = 10 then softMax x.1
    else normGroup t.g.var x.1 ((List.range x.1.length).map fun i => r.operand t.g.opb (x.2 * g + i))
  (rs.flatMap (·.1), rs.foldl (fun k x => k ||| x.2) 0)

/-- The whole chain: the destination's elements (none: masked) and the flags. -/
def RunData.run (r : RunData) (ts : List TypedStage) (xs : List (Option Word)) : List (Option Word) × Nat :=
  let isGroup := fun (t : TypedStage) => t.g.kind == 10 || t.g.kind == 11
  let isRed := fun (t : TypedStage) => t.g.kind == 9
  let pre := ts.takeWhile fun t => !isGroup t && !isRed t
  let p1 := r.elements pre xs
  let p2 := match ts.find? isGroup with
    | some t =>
      let y := r.grouped t (runRowlen r.d) p1.1
      let z := r.elements ((ts.drop (t.n + 1)).takeWhile fun t => !isRed t) y.1
      (z.1, p1.2 ||| y.2 ||| z.2)
    | none => p1
  let p3 := match ts.find? isRed with
    | some t =>
      let gs := (groupsOf (runRowlen r.d) p2.1).map (reduceGroup t.g.var t.int)
      (gs.map fun (x : Word × Nat) => some x.1, gs.foldl (fun (k : Nat) (x : Word × Nat) => k ||| x.2) p2.2)
    | none => p2
  let fp := runDfmt r.d != 8
  (p3.1, if fp && p3.1.any (fun x => (x.map nonfinite).getD false) then p3.2 ||| 8 else p3.2)

/-! ### The destination (R149, R158) -/

/-- Bytes to write, each piece at its offset in the destination area, and the flags of the conversion. `zero`: masked
elements are written as +0 (R149). -/
def destPieces (d : Desc) (g : Draws) (zero : Bool) (out : List (Option Word)) : List (Nat × List Byte) × Nat :=
  let fmt := runDfmt d
  let n := out.length
  let b := elemBits fmt
  let rs := fun (k e : Nat) => g.slot 8 (slotWidth k) e % 2 ^ k
  if isMx fmt then
    let f := (elemFmt fmt).getD e4m3
    let (h, sr, _) := (recipe (runRecipe d)).getD (0, false, [])
    let k := (srWidth 0 fmt).getD 0
    let blocks := (List.range ((n + 31) / 32)).map fun i =>
      let xs := (out.drop (32 * i)).take 32
      if xs.all Option.isNone ∧ zero = false then ([], 0)
      else
        let padded := xs ++ List.replicate (32 - xs.length) none
        let mode := fun j => if sr then
          RMode.sr k (if (padded.getD j none).isSome then rs k (32 * i + j) else 0) else .rne
        let (sc, cs, c) := mxForm f h mode (padded.map fun x => f32 (x.getD 0))
        ([(32 * i * b / 8, packCodes b cs), (streamScales fmt n + i, [BitVec.ofNat 8 sc])], condBits c)
    (blocks.flatMap (·.1), blocks.foldl (fun k x => k ||| x.2) 0)
  else
    let k := (srWidth 0 fmt).getD 0
    let conv := fun (e : Nat) (w : Word) =>
      if fmt = 8 then (w.toNat, 0)
      else
        let f := (elemFmt fmt).getD fp32
        let (c, q) := toFmt f (modeOf (runDrnd d) k (if runDrnd d = 4 then rs k e else 0)) (runDsat d) (f32 w)
        (c, condBits q ||| 8 * bit (!(decode f c).finite))
    let cs := (out.zipIdx).filterMap fun x =>
      match x.1 with
      | some w => some (x.2, conv x.2 w)
      | none => if zero then some (x.2, (0, 0)) else none
    (cs.map fun x => (x.1 * b / 8, leBytes x.2.1 (b / 8)), cs.foldl (fun k x => k ||| x.2.2) 0)

/-- VC_STICKY takes conditions; EMPTY_SET, NF_SET, INVALID_SET and RNG_PORTABILITY are raised by those newly set. -/
def stickyJoin (s : State) (st : Fin 8) (c k : Nat) : State :=
  let p := vcPage st c
  let old := (s.reg p 0x044).toNat
  let s1 := s.setReg p 0x044 (BitVec.ofNat 32 (old ||| k))
  [(4, 4), (3, 5), (5, 6), (7, 8)].foldl (fun s (e : Nat × Nat) =>
    if bitAt k e.1 && !bitAt old e.1 then raiseEvt s p e.2 else s) s1

/-- Pieces written to the panel store from an address. -/
def writePieces (s : State) (a : Nat) (ps : List (Nat × List Byte)) : State :=
  ps.foldl (fun s p => (rawWrite s (a + p.1) p.2).1) s

/-- A vector register's elements written. -/
def writeVreg (s : State) (st : Fin 8) (c r : Nat) (zero : Bool) (out : List (Option Word)) : State :=
  s.modCore st c fun x =>
    { x with vregs := (out.zipIdx).foldl (fun v e =>
        match e.1 with
        | some w => Sparse.set (fun _ => 0) v (1024 * (r % 4) + e.2) w
        | none => if zero then Sparse.set (fun _ => 0) v (1024 * (r % 4) + e.2) 0 else v) x.vregs }

/-! ### VC_RUN -/

/-- The faults of a run as it starts (R150, R158 to R160): detail and FAULT_INFO[31:16]. -/
def runStartFault (s : State) (st : Fin 8) (c : Nat) (d : Desc) (ts : List TypedStage) : Option (Nat × Nat) :=
  let n := (s.core st c).vl
  let group := ts.any fun t => 9 ≤ t.g.kind
  let g := if runRowlen d = 0 then n else runRowlen d
  let red := ts.any fun t => t.g.kind == 9
  let dn := if red then (if g = 0 then 1 else max 1 ((n + g - 1) / g)) else n
  let ts_ := descBits d 1 2 0
  let tile := Sparse.find (s.core st c).tiles ts_
  let areas := [(runAsrc d == 0, descBits d 1 15 0 * 16, streamBytes (runSfmtA d) n),
    (runBsrc d == 1, descBits d 1 31 16 * 16, streamBytes (runSfmtB d) n),
    (runDst d == 0, descBits d 1 47 32 * 16, streamBytes (runDfmt d) dn),
    (runMask d, descBits d 1 63 48 * 16, (n + 7) / 8)]
  let dest := areas.getD 2 (false, 0, 0)
  let overlaps := fun (a : Bool × Nat × Nat) =>
    dest.1 && a.1 && rangesMeet a.2.1 a.2.2 dest.2.1 dest.2.2 && a.2 != dest.2
  if group ∧ 16384 < min g n then some (0x08, min (min g n) 0xFFFF)
  else if (runAsrc d = 1 ∨ runBsrc d = 2 ∨ runDst d = 1) ∧ 1024 < n then some (0x07, n)
  else if runAsrc d = 2 ∧ (tile = none ∨ 4096 < n) then some (0x09, ts_)
  else match areas.findIdx? fun a => a.1 && decide (panelSize < a.2.1 + a.2.2) with
  | some i => some (0x03, i)
  | none =>
    if overlaps (areas.getD 0 (false, 0, 0)) then some (0x0A, 0)
    else if overlaps (areas.getD 1 (false, 0, 0)) then some (0x0A, 1)
    else none

/-- A fault of a VC command (R170): the record with TAG and FAULT_INFO[31:16], and the command finished. -/
def vcFault (s : State) (st : Fin 8) (c : Nat) (d : Desc) (cls det high addr : Nat) : State :=
  engineFault s st (vcQueue c) cls det (high % 2 ^ 16 * 2 ^ 16 + descTag d) addr

/-- A VC command retires (R164): RETIRED. -/
def vcRetire (s : State) (st : Fin 8) (c : Nat) : State := raiseEvt (finish s st (vcQueue c) true) (vcPage st c) 3

/-- ACLK cycles between a run's beats, and its latency (R164, R279): they fix which beats have been written when one meets an
uncorrectable word (R170). -/
def runTiming (ts : List TypedStage) (d : Desc) (n : Nat) (uses : List (Nat × Nat)) (lane : Bool) : Nat × Nat :=
  let total := uses.foldl (fun k u => k + 64 / 2 ^ slotsLog u.2) 0
  let rate := if lane then (if uses.foldl (fun k u => k + u.2) 0 ≤ 128 then 1 else 2) else (total + 15) / 16
  let xsum := ts.any fun t => t.g.kind == 9 && t.g.var == 1
  let rl := if runRowlen d = 0 then n else runRowlen d
  let lat := ts.foldl (fun k t => k + match t.g.kind with
    | 3 | 4 => 2 | 5 => 12 | 6 => 10 | 7 => 3 | 8 => 6 | 9 => 16 | 10 | 11 => (rl + 63) / 64 + 24 | _ => 4) 5
  (max (max rate 1) (if xsum then 4 else 1), lat)

/-- What a RUN reads: its A and B elements with the conditions of the decode, its mask, the first element that meets an
uncorrectable word, and whether a window sum of its tile overflowed. -/
structure RunSource where
  a : List (Word × Nat)
  b : List (Word × Nat)
  fed : List Bool
  bad : Option (Nat × Nat)
  over_ : Bool

/-- The sources of a RUN read. -/
def runSource (s : State) (st : Fin 8) (c : Nat) (d : Desc) (n : Nat) : RunSource :=
  let x := s.core st c
  let base := panelBase st c
  let offA := base + descBits d 1 15 0 * 16
  let offB := base + descBits d 1 31 16 * 16
  let offM := base + descBits d 1 63 48 * 16
  let t := readTileStream ((Sparse.find x.tiles (descBits d 1 2 0)).getD {}) n
  let mask := (s.bytes offM ((n + 7) / 8)).toArray
  let badM := if s.bad = [] then none
    else (List.range n).findSome? fun e => (badUnit s (offM + e / 8) 1).map fun w => (e, unitStart w)
  let bads := [if runAsrc d = 0 then streamBad s offA (runSfmtA d) n else none,
    if runBsrc d = 1 then streamBad s offB (runSfmtB d) n else none, if runMask d then badM else none].filterMap id
  { a := match runAsrc d with
      | 0 => readStream s offA (runSfmtA d) n
      | 1 => readVreg x (descBits d 1 1 0) n
      | _ => t.1
    b := match runBsrc d with
      | 1 => readStream s offB (runSfmtB d) n
      | 2 => readVreg x (descBits d 1 17 16) n
      | _ => []
    fed := (List.range n).map fun e => !runMask d || ((mask.getD (e / 8) 0).toNat.testBit (e % 8))
    bad := bads.foldl (fun o e => match o with
      | none => some e
      | some f => if e.1 < f.1 then some e else some f) none
    over_ := runAsrc d == 2 && t.2 }

/-- The elements a run has written when beat `bf` stops it, of `n` (R170). -/
def writtenBefore (ts : List TypedStage) (d : Desc) (n bf iv lat : Nat) : Nat :=
  let done := min n ((bf + 1 - (lat + iv - 1) / iv) * 64)
  if ts.any fun t => decide (9 ≤ t.g.kind) then (if runRowlen d = 0 then 0 else done / runRowlen d * runRowlen d) else done

/-- The lane counters after a run in lane-stream mode (R275): every lane discards its unused bits and goes on. -/
def lanesAfter (s : State) (st : Fin 8) (c n : Nat) (uses : List (Nat × Nat)) : State :=
  (List.range 64).foldl (fun s l =>
    let k := (laneTable (uses.map (·.2)) ((n + 63 - l) / 64)).2
    let v := laneCtr s st c l
    let w : BitVec 128 := (v.extractLsb' 64 64 : BitVec 64) ++ (v.extractLsb' 0 64 + BitVec.ofNat 64 k : BitVec 64)
    s.modCore st c fun x => { x with lanes := Sparse.set (laneSeed st c) x.lanes l w }) s

/-- The run's body: its result written or reported, its conditions and counts kept. `upTo` elements are processed. -/
def runBody (s : State) (st : Fin 8) (c : Nat) (e : Entry) (ts : List TypedStage) (src : RunSource) (upTo : Nat)
    (whole : Bool) : State :=
  let d := e.desc
  let slot := (s.core st c).chain.toList.getD (descBits d 0 33 32) {}
  let n := (s.core st c).vl
  let red := ts.any fun t => t.g.kind == 9
  let lane := e.latch.getD 2 0 == 1
  let key : BitVec 128 := if lane then (s.st st).keys.kl else (e.latch.getD 1 0) ++ (e.latch.getD 0 0)
  let sr := runDst d == 0 &&
    (if isMx (runDfmt d) then ((recipe (runRecipe d)).map fun r => r.2.1).getD false else runDrnd d == 4)
  let uses := (ts.filterMap fun t => stageUse t.g t.n) ++
    (if sr then [(8, slotWidth ((srWidth 0 (runDfmt d)).getD 0))] else [])
  let g : Draws := { lane := lane, key := key, tid := slot.tid, ebase := descBits d 3 31 0, uses := uses,
                     table := (laneTable (uses.map (·.2)) ((max n 1 + 63) / 64)).1.toArray,
                     ctr := laneCtr s st c }
  let r : RunData := { d := d, imm2 := slot.imm2, a := (src.a.map (·.1)).toArray, b := (src.b.map (·.1)).toArray, draws := g }
  let xs := ((src.a.zip src.fed).take upTo).map fun x => if x.2 then some x.1.1 else none
  let k0 := ((src.a.zip src.fed).take upTo).foldl (fun k x => if x.2 then k ||| x.1.2 else k) 0
  let k1 := ((src.b.zip src.fed).take upTo).foldl (fun k x => if x.2 then k ||| x.1.2 else k) k0
  let (out, k2) := r.run ts xs
  let zero := !red && ts.any fun t => t.g.kind == 10 || t.g.kind == 11
  let (pieces, k3) := if runDst d = 0 then destPieces d g zero out else ([], 0)
  let fedE := (src.fed.zipIdx).filterMap fun x => if x.1 && decide (x.2 < upTo) then some x.2 else none
  let outE := (out.zipIdx).filterMap fun x => x.1.map fun _ => x.2
  let draws := g.count n fun sel => if sel = 8 then outE else fedE
  let s1 := s.countPair (stackPage st .rng c) 0x044 draws
  let s2 := if uses = [] then s1 else s1.modCore st c fun x => { x with lastKey := key, lastTid := slot.tid }
  let s3 := match runDst d with
    | 0 => writePieces s2 (panelBase st c + descBits d 1 47 32 * 16) pieces
    | 1 => writeVreg s2 st c (descBits d 1 33 32) zero out
    | _ =>
      if whole then
        raiseEvt ((lossReport s2 st ((out.headD none).getD 0)).countWrap (vcPage st c) 0x05C) (vcPage st c) 7
      else s2
  let s4 := if src.over_ then joinFlags s3 st c (descBits d 1 2 0) { nonfinite := true } else s3
  let s5 := stickyJoin s4 st c (k1 ||| k2 ||| k3)
  if lane && whole then lanesAfter s5 st c n uses else s5

/-- A RESEED that waited for the runs is carried out (R282). -/
def lateReseed (s : State) (st : Fin 8) (c : Nat) : State :=
  if (s.core st c).reseedWaits ∧ runsAccepted s st c = false then reseed s st c else s

/-- A run that a hazard holds (R109, R113, R160): a pass in the tile it reads, or a STREAM or LDB that reads what it
writes. -/
def runHeld (s : State) (st : Fin 8) (c : Nat) (d : Desc) (ts : List TypedStage) : Bool :=
  let x := s.core st c
  let tile := runAsrc d == 2 && match x.pass with
    | some p => slotsMeet (slotsFrom p.tile p.window) [descBits d 1 2 0]
    | none => false
  let red := ts.any fun t => t.g.kind == 9
  let g := if runRowlen d = 0 then x.vl else runRowlen d
  let dn := if red then (if g = 0 then 1 else max 1 ((x.vl + g - 1) / g)) else x.vl
  tile || (runDst d == 0 && panelWriteHeld s st c (descBits d 1 47 32 * 16) (streamBytes (runDfmt d) dn))

/-- The RUN at the head of the queue (R147 to R165). -/
def vcRun (s : State) (st : Fin 8) (c : Nat) (e : Entry) : State :=
  let d := e.desc
  match checkRun (s.core st c) d with
  | .error f => vcFault s st c d 0x01 f.1 f.2 0
  | .ok ts =>
    match runStartFault s st c d ts with
    | some f => vcFault s st c d 0x01 f.1 f.2 0
    | none =>
      if runHeld s st c d ts then s
      else
        let n := (s.core st c).vl
        let src := runSource s st c d n
        let base := panelBase st c + descBits d 1 47 32 * 16
        let stale := if runMask d ∧ runDst d = 0 then
          (badUnit s base (streamBytes (runDfmt d) n)).map fun w => (0, unitStart w) else none
        match src.bad, stale with
        | none, none => lateReseed (vcRetire (runBody (s.countPair (vcPage st c) 0x054 n) st c e ts src n true) st c) st c
        | some b, none =>
          let (iv, lat) := runTiming ts d n (ts.filterMap fun t => stageUse t.g t.n) (e.latch.getD 2 0 == 1)
          let k := writtenBefore ts d n (b.1 / 64) iv lat
          let s1 := s.countPair (vcPage st c) 0x054 (b.1 / 64 * 64)
          let s2 := if k = 0 then s1 else runBody s1 st c e ts src k false
          vcFault s2 st c d 0x02 0x10 1 b.2
        | _, some b => vcFault s st c d 0x02 0x10 1 b.2

/-- The head of a core's VC queue, if it is in flight, its operation is `op` and the page is not stopped by a fault
(R170). -/
def vcHead (s : State) (st : Fin 8) (c op : Nat) : Option Entry :=
  match (s.queue st (vcQueue c)).first with
  | some e => if e.inFlight && descOp e.desc == op && !s.faulted (vcPage st c) && s.clocked then some e else none
  | none => none

/-- A VC row: its body on the head of the queue. -/
def vcRow (op : Nat) (body : State → Fin 8 → Nat → Entry → State) (st : Fin 8) (c : Nat) (s : State) :
    Host.Outcome State Fault Refusal :=
  if s.has st then .next (match vcHead s st c op with | some e => body s st c e | none => s) else .fault .absentStack

/-- VC_RUN. -/
def execVcRun (st : Fin 8) (c : Fin 56) (s : State) : Host.Outcome State Fault Refusal := vcRow 1 vcRun st c.val s

/-! ### VC_SETCHAIN and VC_SETVL (R137, R147, R162) -/

/-- The slot a SETCHAIN fills, and its contents. -/
def chainOf (d : Desc) : VcSlot :=
  { valid := true, nstage := descBits d 3 37 34,
    words := Vector.ofFn fun k : Fin 8 => BitVec.ofNat 16 (descBits d (1 + k.val / 4) (16 * (k.val % 4) + 15) (16 * (k.val % 4))),
    imm2 := BitVec.ofNat 32 (descBits d 0 63 32), tid := BitVec.ofNat 32 (descBits d 3 31 0) }

/-- A chain slot written. -/
def setSlot (x : Core) (i : Nat) (v : VcSlot) : Core :=
  if h : i < 4 then { x with chain := x.chain.set i v } else x

/-- SETCHAIN. -/
def setChain (s : State) (st : Fin 8) (c : Nat) (e : Entry) : State :=
  vcRetire (s.modCore st c fun x => setSlot x (descBits e.desc 3 33 32) (chainOf e.desc)) st c

/-- VC_SETCHAIN. -/
def execVcSetchain (st : Fin 8) (c : Fin 56) (s : State) : Host.Outcome State Fault Refusal := vcRow 2 setChain st c.val s

/-- SETVL. -/
def setVl (s : State) (st : Fin 8) (c : Nat) (e : Entry) : State :=
  vcRetire (s.modCore st c fun x => { x with vl := descBits e.desc 1 15 0 }) st c

/-- VC_SETVL. -/
def execVcSetvl (st : Fin 8) (c : Fin 56) (s : State) : Host.Outcome State Fault Refusal := vcRow 3 setVl st c.val s

/-! ### Context (R166, R167) -/

/-- A slot image of 32 bytes. -/
def slotImage (x : VcSlot) : List Byte :=
  (x.words.toList.flatMap fun w => leBytes w.toNat 2) ++ leBytes x.tid.toNat 4 ++ leBytes x.imm2.toNat 4 ++
    [BitVec.ofNat 8 x.nstage, BitVec.ofNat 8 (bit x.valid)] ++ List.replicate 6 0

/-- A slot image read. -/
def slotFrom (bs : List Byte) : VcSlot :=
  { valid := (bs.getD 25 0).toNat % 2 == 1, nstage := (bs.getD 24 0).toNat,
    words := Vector.ofFn fun k : Fin 8 => BitVec.ofNat 16 (leNat (slice bs (2 * k.val) 2)),
    imm2 := BitVec.ofNat 32 (leNat (slice bs 20 4)), tid := BitVec.ofNat 32 (leNat (slice bs 16 4)) }

/-- The context of a chain (R166): FORMAT 2, 64 lanes, registers of 1,024 elements. -/
def vcContext (s : State) (st : Fin 8) (c : Nat) : List Byte :=
  let x := s.core st c
  leBytes 2 2 ++ leBytes 64 2 ++ leBytes x.vl 2 ++ leBytes 4 2 ++ leBytes 1024 2 ++ [1, 0] ++
    leBytes (s.reg (vcPage st c) 0x044).toNat 4 ++ List.replicate 48 0 ++ x.chain.toList.flatMap slotImage ++
    ((List.range 64).flatMap fun l => leBytes (laneCtr s st c l).toNat 16) ++
    (Sparse.getList (fun _ => (0 : Word)) x.vregs 0 4096).flatMap fun w => leBytes w.toNat 4

/-- SAVE: an area past the panel store's end stops it as a destination would. -/
def vcSave (s : State) (st : Fin 8) (c : Nat) (e : Entry) : State :=
  let off := descBits e.desc 1 15 0 * 16
  if panelSize < off + 17600 then vcFault s st c e.desc 0x01 0x03 2 0
  else if panelWriteHeld s st c off 17600 then s
  else vcRetire (rawWrite s (panelBase st c + off) (vcContext s st c)).1 st c

/-- VC_SAVE. -/
def execVcSave (st : Fin 8) (c : Fin 56) (s : State) : Host.Outcome State Fault Refusal := vcRow 4 vcSave st c.val s

/-- RESTORE of an accepted header: 64 lanes and 1,024 elements with lane state, or a layout of `l` lanes and `v`
elements. -/
def restoreFrom (s : State) (st : Fin 8) (c l v : Nat) (bs : List Byte) : State :=
  let slots := Vector.ofFn fun k : Fin 4 => slotFrom (slice bs (64 + 32 * k.val) 32)
  let vb := (bs.drop (192 + 16 * l)).toArray
  let regs := (List.range 4).foldl (fun (m : Sparse Word) r =>
    Sparse.setList (fun _ => 0) m (1024 * r) ((List.range v).map fun i => BitVec.ofNat 32 (codeAt vb 32 (r * v * 4) i))) []
  let s1 := s.modCore st c fun x => { x with vl := leNat (slice bs 4 2), chain := slots, vregs := regs }
  let s2 := s1.setReg (vcPage st c) 0x044 (BitVec.ofNat 32 (leNat (slice bs 12 4) % 256))
  if l = 64 ∧ bs.getD 10 0 = 1 then
    s2.modCore st c fun x => { x with lanes := (List.range 64).foldl (fun m i =>
      Sparse.set (laneSeed st c) m i (BitVec.ofNat 128 (leNat (slice bs (192 + 16 * i) 16)))) [] }
  else stickyJoin (reseed s2 st c) st c 128

/-- RESTORE (R167). -/
def vcRestore (s : State) (st : Fin 8) (c : Nat) (e : Entry) : State :=
  let d := e.desc
  let off := descBits d 1 15 0 * 16
  let a := panelBase st c + off
  if panelSize < off + 64 then vcFault s st c d 0x01 0x03 0 0
  else match badUnit s a 64 with
  | some w => vcFault s st c d 0x02 0x10 5 (unitStart w)
  | none =>
    let h := s.bytes a 64
    let fmt := leNat (slice h 0 2)
    let l := leNat (slice h 2 2)
    let v := leNat (slice h 8 2)
    let size := 192 + 16 * l + 16 * v
    if ¬((fmt = 2 ∧ l = 64 ∧ v = 1024) ∨ (fmt = 1 ∧ l = 32 ∧ v = 512)) ∨ leNat (slice h 6 2) ≠ 4 then
      vcFault s st c d 0x01 0x0B fmt 0
    else if panelSize < off + size then vcFault s st c d 0x01 0x03 0 0
    else match badUnit s a size with
    | some w => vcFault s st c d 0x02 0x10 5 (unitStart w)
    | none =>
      let bs := s.bytes a size
      let bad := (List.range 4).any fun k =>
        let x := slotFrom (slice bs (64 + 32 * k) 32)
        8 < x.nstage || x.words.toList.any fun w => 11 < w.toNat % 16
      if bad then vcFault s st c d 0x01 0x0B fmt 0
      else vcRetire (restoreFrom s st c l v bs) st c

/-- VC_RESTORE. -/
def execVcRestore (st : Fin 8) (c : Fin 56) (s : State) : Host.Outcome State Fault Refusal := vcRow 5 vcRestore st c.val s

/-- The chain as R171 leaves it: registers zero, slots invalid, VL 0. -/
def vcCleared (x : Core) : Core := { x with vregs := [], chain := Vector.replicate 4 {}, vl := 0 }

end Sys2Proof.Machine
end

