-- ==== Sys2Proof/Machine/Bead.lean ====
section
/-! DEFINITION. Bead (R229 to R242, R263, R264): gathers, pooling, rows served to other stacks, and the split of a sparse
region among cores. -/

namespace Sys2Proof.Machine

/-- The BEAD page of a stack. -/
def beadPage (st : Fin 8) : Page := stackPage st .bead

/-- The head of the BEAD or FIL queue, if it is accepted, its operation is `op` and the page is not stopped by a fault
(R264). -/
def tabHead (s : State) (st : Fin 8) (q op : Nat) : Option Entry :=
  match queuePage st q, (s.queue st q).first with
  | some p, some e => if e.st == .accepted && descOp e.desc == op && !s.faulted p then some e else none
  | _, _ => none

/-- A BEAD or FIL row: its body on the head of the queue. -/
def tabRow (q op : Nat) (body : State → Fin 8 → Entry → State) (st : Fin 8) (s : State) : Host.Outcome State Fault Refusal :=
  if s.has st then
    .next (match tabHead s st q op with | some e => if s.clocked then body s st e else s | none => s)
  else .fault .absentStack

/-- A descriptor retires: RETIRED. -/
def tabRetire (s : State) (st : Fin 8) (q : Nat) : State :=
  match queuePage st q with
  | some p => raiseEvt (finish s st q true) p 3
  | none => s

/-! ### Rows from home (R238, R255, R260) -/

/-- HS_CTRL. -/
def hsEnabled (s : State) (st : Fin 8) : Bool := s.flag (beadPage st) 0x080 0
def hsLog2 (s : State) (st : Fin 8) : Nat := s.fld (beadPage st) 0x080 5 1

/-- An address register pair of the BEAD page, in the stack's own memory. -/
def beadAddr (s : State) (st : Fin 8) (off : Nat) : Nat := st.val * 2 ^ 48 + s.pair (beadPage st) off % 2 ^ 48

/-- The active directory, and a slot of the copy pool (R255). -/
def hsActiveDir (s : State) (st : Fin 8) : Nat :=
  beadAddr s st 0x084 + (if (s.st st).hot.activeB then 16 * 2 ^ hsLog2 s st else 0)
def hsSlotAddr (s : State) (st : Fin 8) (slot : Nat) : Nat :=
  beadAddr s st 0x08C + slot * (s.fld (beadPage st) 0x094 10 0 * 16)

/-- A row of a table in its home stack: from the hot set where it has a copy, else the home row; with the state after a hit is
counted (R238). -/
def homeRow (s : State) (st : Fin 8) (t : Table) (no row : Nat) : Except TabErr (State × List Byte) :=
  let plan := bindOf s (beadPage st)
  let n := rowBytes t.rfmt t.elems
  let own := t.base + row * t.rstride
  if t.hot ∧ hsEnabled s st then
    match regionCheck s st plan false false (hsActiveDir s st) 16 with
    | some e => .error (.mem e 7)
    | none =>
      match (s.st st).hot.active.find? fun e => e.table == no && e.row == row with
      | some e => (tabRead s st plan 7 (hsSlotAddr s st e.slot) n).map fun bs => (s.countSat (beadPage st) 0x06C, bs)
      | none => (tabRead s st plan 6 own n).map fun bs => (s, bs)
  else (tabRead s st plan 6 own n).map fun bs => (s, bs)

/-- A row request to another stack (R22, R238): the home Bead serves its own plan only, by its own directory entry. -/
def remoteRow (s : State) (st home : Fin 8) (no row : Nat) : Except TabErr (State × List Byte) :=
  match routeFail s st home with
  | some f => .error (.fault 0x07 0x06 f 0)
  | none =>
    let plan := bindOf s (beadPage st)
    if bindOf s (beadPage home) ≠ plan then .error (tabErr 0x0E home.val 0)
    else match readTable s home plan no with
    | .error e => .error e
    | .ok bs => homeRow s home (Table.of bs) no row

/-- REMOTE_ROW_REQUEST: the row, or none where the home Bead does not serve it, goes back over Jukan. -/
def execRemoteRowRequest (home src : Fin 8) (table row : Nat) (s : State) : Host.Outcome State Fault Refusal :=
  if s.has home ∧ s.has src then
    .next (if s.clocked = false then s else match remoteRow s src home table row with
      | .ok (s1, bs) => s1.send (.row home src (some bs))
      | .error _ => s.send (.row home src none))
  else .fault .absentStack

/-! ### Pooling (R234, R235) -/

/-- The larger of two products, −0 below +0; NaN prevails. -/
def maxVal (a b : Val) : Val :=
  if a.isNan || b.isNan then .nan else if rankBelow a b then b else a

/-- One element of a group from its products: POOL 0 SUM, 1 MEAN, 2 MAX. -/
def poolOne (pool : Nat) (ps : List Val) : Val :=
  match ps with
  | [] => .zero
  | p :: t =>
    if pool = 2 then t.foldl maxVal (maxVal p p)
    else
      let sum := t.foldl Val.add p
      if pool = 1 then sum.div (.fin false ps.length 0) else sum

/-- A group's output row from its pooled values, with BEAD_STICKY's NF (1) and OF (2) (R235, R236). -/
def outRow (ofmt : Nat) (vs : List Val) : List Byte × Nat :=
  let f := if ofmt = 1 then bf16 else fp32
  let cs := vs.map fun v => toFmt f .rne false v
  let k := cs.foldl (fun k c => k ||| (2 * bit c.2.of_) ||| bit (!(decode f c.1).finite)) 0
  if ofmt = 5 then
    let xs := cs.map fun c => decode fp32 c.1
    (mxRow ((List.range ((xs.length + 31) / 32)).map fun i =>
      let b := (xs.drop (32 * i)).take 32
      let r := mxForm e4m3 0 (fun _ => .rne) (b ++ List.replicate (32 - b.length) .zero)
      (r.1, r.2.1)), k)
  else (cs.flatMap fun c => leBytes c.1 (f.width / 8), k)

/-! ### BEAD_GATHER -/

/-- Fields of a GATHER (R230). -/
def gatIsrc (d : Desc) : Nat := descBits d 0 45 44
def gatWsrc (d : Desc) : Nat := descBits d 0 47 46
def gatPool (d : Desc) : Nat := descBits d 0 49 48
def gatOfmt (d : Desc) : Nat := descBits d 0 53 50
def gatCompact (d : Desc) : Bool := bitAt (descWord d 0).toNat 54
def gatMasked (d : Desc) : Bool := bitAt (descWord d 0).toNat 55
def gatDeal (d : Desc) : Bool := bitAt (descWord d 0).toNat 56
def gatTable (d : Desc) : Nat := descBits d 0 43 32
def gatStride (d : Desc) : Nat := descBits d 2 54 43 * 16
def gatPkt (d : Desc) : Nat := descBits d 3 12 0
def gatPoff (d : Desc) : Nat := descBits d 3 28 13 * 16

/-- The cores a bitmap names. -/
def coresOf (m : Nat) : List Nat := (List.range 56).filter fun c => m.testBit c

/-- A gather under way: the state, the rows of the present combining window, and the index positions and rows done. -/
structure Gather where
  s : State
  cache : List (Nat × List Val) := []
  pos : Nat := 0
  out : Nat := 0

/-- The row of an index (R228, R229, R237, R238): a default row, one already fetched in this window, or a fetch. -/
def gatherRow (st : Fin 8) (t : Table) (no : Nat) (x : Nat) (a : Nat) (g : Gather) : Except TabErr (Gather × List Val) :=
  let p := beadPage st
  let plan := bindOf g.s p
  let fetched := fun (s : State) (remote : Bool) (bs : List Byte) =>
    let row := decodeRow t.rfmt t.elems bs
    let s1 := s.countPair p 0x058
    ({ g with s := if remote then s1.countSat p 0x060 else s1, cache := (x, row) :: g.cache }, row)
  match g.cache.find? fun e => e.1 == x with
  | some e => .ok (g, e.2)
  | none =>
    if t.mode = 3 then
      if t.nrows ≤ x then .error (tabErr 0x06 no a)
      else (tabRead g.s st plan 6 (t.base + x * t.rstride) (rowBytes t.rfmt t.elems)).map (fetched g.s false)
    else match route t x with
    | none =>
      let s1 := raiseEvt ((g.s.countSat p 0x064).setFlag p 0x04C 3 true) p 4
      if t.dflt = 0 then .ok ({ g with s := s1 }, List.replicate t.elems .zero)
      else (tabRead s1 st plan 6 t.dflt (rowBytes t.rfmt t.elems)).map fun bs =>
        ({ g with s := s1 }, decodeRow t.rfmt t.elems bs)
    | some (home, row) =>
      if home = st.val then (homeRow g.s st t no row).map fun x => fetched x.1 false x.2
      else (remoteRow g.s st (Fin.ofNat 8 home) no row).map fun x => fetched x.1 true x.2

/-- The rows of a group's fed indices with their weights, the window begun again every 4,096 positions (R237). -/
def gatherGroup (st : Fin 8) (t : Table) (no : Nat) (at_ : Nat → Nat) :
    List (Nat × Nat × Val) → Gather → List (Val × List Val) → Gather × Except TabErr (List (Val × List Val))
  | [], g, acc => (g, .ok acc)
  | (i, x, w) :: l, g, acc =>
    let g1 := { g with cache := if g.pos % 4096 = 0 then [] else g.cache, pos := g.pos + 1,
                       s := g.s.countPair (beadPage st) 0x050 }
    match gatherRow st t no x (at_ i) g1 with
    | .error e => (g1, .error e)
    | .ok (g2, row) => gatherGroup st t no at_ l g2 (acc ++ [(w, row)])

/-- Where output row `r` goes (R236): an address, and whether it lies past the end of its panel store. -/
def outAddr (st : Fin 8) (d : Desc) (out cores r n : Nat) : Nat × Bool :=
  if gatDeal d then
    let cs := coresOf cores
    let p := r / gatPkt d
    let off := gatPoff d + p / cs.length * gatPkt d * gatStride d + r % gatPkt d * gatStride d
    (panelBase st (cs.getD (p % cs.length) 0) + off, decide (panelSize < off + n))
  else (out + r * gatStride d, false)

/-- BEAD_STICKY takes NF, OF or EMPTY; NF_SET is raised by NF newly set. -/
def beadSticky (s : State) (st : Fin 8) (k : Nat) : State :=
  let p := beadPage st
  let old := (s.reg p 0x04C).toNat
  let s1 := s.setReg p 0x04C (BitVec.ofNat 32 (old ||| k))
  if bitAt k 0 && !bitAt old 0 then raiseEvt s1 p 5 else s1

/-- The groups of a gather in order, from group `i`, with their rows written (R234 to R236). -/
def gatherGroups (st : Fin 8) (d : Desc) (t : Table) (e : Entry) (x : Indices) (ws : Array (Val × Nat)) (mask : Array Byte) :
    List (Nat × Nat) → Nat → Gather → Gather × Option TabErr
  | [], _, g => (g, none)
  | (lo, hi) :: l, i, g =>
    let plan := bindOf g.s (beadPage st)
    let fed := !gatMasked d || (mask.getD (i / 8) 0).toNat.testBit (i % 8)
    let ids := x.ids.toArray
    let items := if fed then (List.range (hi - lo)).map fun k => (lo + k, ids.getD (lo + k) 0, (ws.getD (lo + k) (.zero, 1)).1)
      else []
    match gatherGroup st t (gatTable d) x.at_ items g [] with
    | (g1, .error f) => (g1, some f)
    | (g1, .ok rows) =>
      let s1 := if rows = [] then beadSticky (g1.s.countSat (beadPage st) 0x068) st 4 else g1.s
      if rows = [] ∧ gatCompact d = true then gatherGroups st d t e x ws mask l (i + 1) { g1 with s := s1 }
      else
        let vals := if rows = [] then List.replicate t.elems .zero
          else (List.range t.elems).map fun j => poolOne (gatPool d) (rows.map fun r => r.1.mul (r.2.getD j .zero))
        let (bs, k) := outRow (gatOfmt d) vals
        let (a, past) := outAddr st d (latchedArg e 3) (latchedArg e 6) g1.out bs.length
        if past then ({ g1 with s := s1 }, some (tabErr 0x07 3 a))
        else match tabWrite (beadSticky s1 st k) st plan 3 false a bs with
        | (s2, some f) => ({ g1 with s := s2 }, some f)
        | (s2, none) =>
          let (s3, f) := if gatCompact d then tabWrite s2 st plan 4 false (latchedArg e 4 + 4 + 4 * g1.out) (leBytes i 4)
            else (s2, none)
          match f with
          | some f => ({ g1 with s := s3 }, some f)
          | none => gatherGroups st d t e x ws mask l (i + 1) { g1 with s := s3, out := g1.out + 1 }

/-- A panel range that an accepted, unretired RUN reads, with the vector length that the commands before it set (R113). -/
def vcReadHeld (s : State) (st : Fin 8) (c off n : Nat) : Bool :=
  let es := (s.queue st (vcQueue c)).entries.filter Entry.inFlight
  (es.foldl (fun (x : Nat × Bool) e =>
    match descOp e.desc with
    | 3 => (descBits e.desc 1 15 0, x.2)
    | 1 =>
      let d := e.desc
      let hit := (runAsrc d == 0 && rangesMeet off n (descBits d 1 15 0 * 16) (streamBytes (runSfmtA d) x.1)) ||
        (runBsrc d == 1 && rangesMeet off n (descBits d 1 31 16 * 16) (streamBytes (runSfmtB d) x.1)) ||
        (runMask d && rangesMeet off n (descBits d 1 63 48 * 16) ((x.1 + 7) / 8))
      (x.1, x.2 || hit)
    | _ => x) ((s.core st c).vl, false)).2

/-- Some core's panel range from an offset is read by an unretired command (R113, R236). -/
def dealHeld (s : State) (st : Fin 8) (cores off n : Nat) : Bool :=
  (coresOf cores).any fun c => panelWriteHeld s st c off n || vcReadHeld s st c off n

/-- The GATHER at the head of the queue. -/
def gather (s : State) (st : Fin 8) (e : Entry) : State :=
  let d := e.desc
  let p := beadPage st
  let plan := bindOf s p
  let t := latchedTable e
  let prep : Except TabErr (Indices × List (Val × Nat) × List Byte) := do
    if sourceClash t (gatIsrc d) then .error (sourceKind (gatIsrc d) (gatWsrc d))
    let x ← readIndices s st plan (gatIsrc d) (latchedArg e 0) (descBits d 2 31 0) (descBits d 2 42 32) (latchedArg e 2)
    let ws ← readWeights s st plan (gatWsrc d) (gatIsrc d) (latchedArg e 1) (latchedArg e 0) x
    let m ← if gatMasked d then tabRead s st plan 5 (latchedArg e 5) ((x.groups.length + 7) / 8) else .ok []
    .ok (x, ws, m)
  match prep with
  | .error f => tabFault s st 0x90 d f
  | .ok (x, ws, m) =>
    let n := (coresOf (latchedArg e 6)).length
    let packets := (x.groups.length + gatPkt d - 1) / max 1 (gatPkt d)
    if gatDeal d ∧ dealHeld s st (latchedArg e 6) (gatPoff d) ((packets + n - 1) / max 1 n * gatPkt d * gatStride d) = true
    then s
    else
      match gatherGroups st d t e x ws.toArray m.toArray x.groups 0 { s := s } with
      | (g, some f) => tabFault g.s st 0x90 d f
      | (g, none) =>
        let (s1, f) := if gatCompact d then tabWrite g.s st plan 4 false (latchedArg e 4) (leBytes g.out 4) else (g.s, none)
        match f with
        | some f => tabFault s1 st 0x90 d f
        | none => tabRetire s1 st 0x90

/-- BEAD_GATHER. -/
def execBeadGather (st : Fin 8) (s : State) : Host.Outcome State Fault Refusal := tabRow 0x90 1 gather st s

/-! ### BEAD_SPLIT (R186, R240) -/

/-- A metadata error as a BEAD error: class 0x03, no further information. -/
def metaTab : MetaErr TabErr → TabErr
  | .bad det a => .fault 0x03 det 0 a
  | .other e => e

/-- The listed tiles of a region, every entry checked. -/
def readAllListed (rd : Reader TabErr) (r : RgnHdr) (ps : List Nat) (limit : Nat) : Except (MetaErr TabErr) (List Listed) :=
  (List.range r.e).foldlM (fun acc i =>
    (readListed rd r (ps.getD (rowOf ps i) 0) i limit).map fun x => acc ++ [x]) []

/-- The bytes of a part: its header, its entries and its tiles. An empty part's header holds entry count 0; its other fields,
which the spec does not give, are free values (assumption 2). -/
def partBytes (rd : Reader TabErr) (s : State) (r : RgnHdr) (ps : List Nat) (es : List Listed) :
    Except (MetaErr TabErr) (State × List Byte) :=
  match es with
  | [] =>
    let (a, s1) := s.drawFree
    let (b, s2) := s1.drawFree
    let (c, s3) := s2.drawFree
    .ok (s3, leBytes a.toNat 8 ++ leBytes 0 8 ++ leBytes b.toNat 8 ++ leBytes c.toNat 8)
  | e :: _ => do
    let last := (es.getLast?).getD e
    let ents ← metaRead rd (r.entry + 16 * e.e) (16 * es.length)
    let tiles ← metaRead rd (r.pay + e.off) (last.off + 8 * last.hdr.len - e.off)
    .ok (s, leBytes e.e 8 ++ leBytes es.length 8 ++ leBytes (rowOf ps e.e) 8 ++ leBytes (rowOf ps last.e + 1) 8 ++ ents ++
      tiles)

/-- The parts written to their cores, in order. -/
def writeParts (st : Fin 8) (plan poff : Nat) (rd : Reader TabErr) (r : RgnHdr) (ps : List Nat) (listed : List Listed)
    (np : Nat) : List (Nat × Nat) → State → State × Option TabErr
  | [], s => (s, none)
  | (c, k) :: l, s =>
    match partBytes rd s r ps (listed.filter fun e => splitPart e.cum np r.n == k) with
    | .error e => (s, some (metaTab e))
    | .ok (s1, bs) =>
      let a := panelBase st c + poff
      if panelSize < poff + bs.length then (s1, some (tabErr 0x07 3 a))
      else match tabWrite s1 st plan 3 false a bs with
      | (s2, some f) => (s2, some f)
      | (s2, none) => writeParts st plan poff rd r ps listed np l s2

/-- The SPLIT at the head of the queue. -/
def split (s : State) (st : Fin 8) (e : Entry) : State :=
  let d := e.desc
  let plan := bindOf s (beadPage st)
  let rd : Reader TabErr := tabRead s st plan 0
  let cores := coresOf (latchedArg e 6)
  let limit := (latchedArg e 0 / 2 ^ 48 + 1) * 2 ^ 48
  let prep : Except (MetaErr TabErr) (RgnHdr × List Nat × List Listed) := do
    let r ← readRgn rd (latchedArg e 0) (some false)
    let ps ← readRowptr rd r
    let es ← readAllListed rd r ps limit
    if r.e = 0 ∧ r.n ≠ 0 then .error (.bad 0x0C r.cum)
    .ok (r, ps, es)
  if dealHeld s st (latchedArg e 6) (gatPoff d) (panelSize - gatPoff d) then s
  else match prep with
  | .error f => tabFault s st 0x90 d (metaTab f)
  | .ok (r, ps, es) =>
    match writeParts st plan (gatPoff d) rd r ps es cores.length cores.zipIdx s with
    | (s1, some f) => tabFault s1 st 0x90 d f
    | (s1, none) => tabRetire s1 st 0x90

/-- BEAD_SPLIT. -/
def execBeadSplit (st : Fin 8) (s : State) : Host.Outcome State Fault Refusal := tabRow 0x90 2 split st s

/-! ### Acceptance (R16, R224, R230, R231) -/

/-- The fields of a BEAD command of an operation, each with whether its value is legal. -/
def beadFields (d : Desc) : List DescField :=
  let f := fun w hi lo (ok : Bool) => (⟨w, hi, lo, ok⟩ : DescField)
  let args := f 1 51 0 (descBits d 1 5 0 == 0)
  [f 0 7 0 true, f 0 11 8 (1 ≤ descOp d && descOp d ≤ 2), f 0 31 16 true] ++
  match descOp d with
  | 1 =>
    let isrc := gatIsrc d
    [f 0 43 32 true, f 0 45 44 true, f 0 47 46 (gatWsrc d != 3), f 0 49 48 (gatPool d != 3),
      f 0 53 50 (gatOfmt d == 0 || gatOfmt d == 1 || gatOfmt d == 5), f 0 54 54 true, f 0 55 55 true, f 0 56 56 true, args,
      f 2 31 0 (isrc < 2 || descBits d 2 31 0 == 0),
      f 2 42 32 (descBits d 2 42 32 ≤ 1024 && (isrc < 2 || descBits d 2 42 32 == 0)), f 2 54 43 (gatStride d != 0),
      f 3 12 0 (if gatDeal d then 1 ≤ gatPkt d && gatPkt d ≤ 4096 else gatPkt d == 0),
      f 3 28 13 (gatDeal d || gatPoff d == 0)]
  | 2 => [f 0 56 56 (gatDeal d), args, f 3 28 13 true]
  | _ => []

/-- How a BEAD command uses its argument block (R231). -/
def beadArgs (d : Desc) : List ArgUse :=
  let isrc := gatIsrc d
  let unused : ArgUse := { used := false }
  if descOp d = 2 then
    [{ used := true, align := 8, area := some 0 }, unused, unused, unused, unused, unused, { used := true }, unused]
  else
    [{ used := true, align := isrcAlign isrc, area := some 0 },
      { used := gatWsrc d == 2 || (gatWsrc d == 1 && isrc < 2), align := if gatWsrc d = 1 then 2 else 4, area := some 1 },
      { used := isrc < 2 && descBits d 2 42 32 == 0, align := 8, area := some 2 },
      { used := !gatDeal d, align := match gatOfmt d with | 0 => 4 | 1 => 2 | _ => 1, area := some 3 },
      { used := gatCompact d, align := 4, area := some 4 }, { used := gatMasked d, area := some 5 },
      { used := gatDeal d }, unused]

/-- What Bead reads and latches as it accepts a descriptor whose word has passed its check: the argument block and the
table's entry. -/
def beadAccept (s : State) (st : Fin 8) (d : Desc) : Except TabErr (List DWord) :=
  let plan := bindOf s (beadPage st)
  match readArgs s st plan (descBits d 1 51 0) (beadArgs d) with
  | .error e => .error e
  | .ok fs =>
    if gatDeal d ∧ (fs.getD 6 0 = 0 ∨ 2 ^ 56 ≤ fs.getD 6 0) then .error (tabErr 0x03 6 (descBits d 1 51 0 + 48))
    else if descOp d = 2 then .ok (latchOf fs [])
    else (readTable s st plan (gatTable d)).map (latchOf fs)

end Sys2Proof.Machine
end

