-- ==== Sys2Proof/Machine/Filigree.lean ====
section
/-! DEFINITION. Filigree (R243 to R249, R262 to R264): contributions, the touched-row set, and the lists that modules
exchange. -/

namespace Sys2Proof.Machine

/-- The FIL page of a stack, and an address register pair of it, in the stack's own memory. -/
def filPage (st : Fin 8) : Page := stackPage st .fil
def filAddr (s : State) (st : Fin 8) (off : Nat) : Nat := st.val * 2 ^ 48 + s.pair (filPage st) off % 2 ^ 48

/-- Filigree's typed state changed. -/
def State.modFil (s : State) (i : Fin 8) (f : Filigree → Filigree) : State := s.modSt i fun x => { x with fil := f x.fil }

/-- FIL_CFG.LOCK_ALL. -/
def filLockAll (s : State) (st : Fin 8) : Bool := s.flag (filPage st) 0x040 0

/-- Fields of a FIL descriptor (R243). -/
def filIsrc (d : Desc) : Nat := descBits d 0 45 44
def filWsrc (d : Desc) : Nat := descBits d 0 47 46
def filGfmt (d : Desc) : Nat := descBits d 0 51 48
def filTable (d : Desc) : Nat := descBits d 0 43 32
def filStride (d : Desc) : Nat := descBits d 2 43 32 * 16

/-! ### Contributions (R244) -/

/-- A product over a whole divisor aligned to an exponent, by the function of R123: none where it overflows. -/
def alignQ (p : Val) (n : Nat) (w : Int) : Option (Acc × Bool) :=
  match p with
  | .fin neg m e =>
    let k := e + 34 - w
    let x : Int := (m * 2 ^ k.toNat : Nat)
    let den : Int := (n * 2 ^ (-k).toNat : Nat)
    let y : Int := if neg then -x else x
    if 2 ^ 35 ≤ (y / den).natAbs then none else some (.num (y / den), decide (y % den ≠ 0))
  | v => align v w

/-- A row of products as one contribution: at GW, or realigned as a whole at the least GW + 8j at which every element fits. -/
def formRow (lock : Bool) (gw : Int) (ps : List Val) (n : Nat) : Nat → Int → Except WinFault (Partial × WinFlags)
  | 0, w => .error (.window (w - 8))
  | k + 1, w =>
    if 511 < w then .error (.window (w - 8))
    else match ps.mapM fun p => alignQ p n w with
    | some cs => .ok (⟨w, cs.map (·.1)⟩, ⟨cs.any (·.2), cs.any fun c => c.1.special, decide (w ≠ gw)⟩)
    | none => if lock then .error (.lock w) else formRow lock gw ps n k (w + 8)

/-- A window fault under its class 0x01 code. -/
def winTab (e : WinFault) (addr : Nat) : TabErr :=
  match e with
  | .lock w => .fault 0x01 0x21 (expBits 10 w) addr
  | .window w => .fault 0x01 0x20 (expBits 10 w) addr

/-- Raises counted in FIL_RAISE_CNT, with RAISE (R246). -/
def countRaises (s : State) (st : Fin 8) (n : Int) : State :=
  if n ≤ 0 then s else raiseEvt (s.countSat (filPage st) 0x094 n.toNat) (filPage st) 4

/-- The raises a combination made above the greatest exponent of its inputs. -/
def raisesOf (w : Int) (ps : List Partial) : Int :=
  match ps with
  | [] => 0
  | p :: t => (w - t.foldl (fun m q => max m q.w) p.w) / 8

/-- The rows of a combining window in the order first named: home and local row, with what has come for them. -/
abbrev WindowRows := List ((Nat × Nat) × List (Partial × WinFlags))

/-- A contribution added to its row of the window. -/
def addRow (k : Nat × Nat) (c : Partial × WinFlags) : WindowRows → WindowRows
  | [] => [(k, [c])]
  | e :: es => if e.1 = k then (e.1, e.2 ++ [c]) :: es else e :: addRow k c es

/-- The token of the descriptor at the head of a queue (R320). -/
def headToken (s : State) (st : Fin 8) (q : Nat) : Word := (s.queue st q).retire + 1

/-- A contribution sent to its home stack, with the checks of the way there (R22, R238). -/
def sendRow (s : State) (st : Fin 8) (d : Desc) (t : Table) (home row : Nat) (p : Partial) (fl : WinFlags) :
    Except TabErr State :=
  let h : Fin 8 := Fin.ofNat 8 home
  let plan := bindOf s (filPage st)
  match routeFail s st home with
  | some f => .error (.fault 0x07 0x06 f 0)
  | none =>
    if bindOf s (filPage h) ≠ plan then .error (tabErr 0x0E home 0)
    else
      let c : Contribution :=
        { src := st.val, table := filTable d, row := row, w := p.w, gw := t.gw, flags := fl, lock := t.lock,
          cells := p.cells.map Acc.code, tag := descTag d, token := headToken s st 0xA0, plan := BitVec.ofNat 16 plan }
      .ok (s.modFil h fun f => { f with inbox := f.inbox ++ [c] })

/-- The rows of a window summed and sent, one contribution for each distinct row (R244). -/
def flushRows (st : Fin 8) (d : Desc) (t : Table) (lock : Bool) : WindowRows → State → State × Option TabErr
  | [], s => (s, none)
  | ((home, row), cs) :: l, s =>
    let ps := cs.map (·.1)
    match combine lock ps with
    | .error e => (s, some (winTab e (tableAddr s st (filTable d))))
    | .ok (w, acc, fl) =>
      let s1 := countRaises s st (raisesOf w ps)
      match sendRow s1 st d t home row ⟨w, acc⟩ (cs.foldl (fun f c => f.or c.2) fl) with
      | .error e => (s1, some e)
      | .ok s2 => flushRows st d t lock l s2

/-- What a SCATTER has for one index: its id, the address that names it, its gradient row's address, and its weight over a
divisor. -/
structure ScatItem where
  id : Nat
  at_ : Nat
  g : Nat
  weight : Val
  div : Nat

/-- An index that names no row (R229): counted, sticky, seen. -/
def dropIndex (s : State) (st : Fin 8) : State :=
  let p := filPage st
  raiseEvt ((s.countSat p 0x090).setFlag p 0x084 3 true) p 6

/-- The indices of a SCATTER from position `pos`, a window flushed before every 4,096th (R243, R244). -/
def scatterRows (st : Fin 8) (d : Desc) (t : Table) (lock : Bool) :
    List ScatItem → Nat → WindowRows → State → State × Option TabErr
  | [], _, win, s => flushRows st d t lock win s
  | it :: l, pos, win, s0 =>
    let (s, f) := if pos % 4096 = 0 then flushRows st d t lock win s0 else (s0, none)
    let win := if pos % 4096 = 0 then [] else win
    match f with
    | some e => (s, some e)
    | none =>
      let place : Except TabErr (Option (Nat × Nat)) :=
        if t.mode = 3 then (if t.nrows ≤ it.id then .error (tabErr 0x06 (filTable d) it.at_) else .ok (some (st.val, it.id)))
        else .ok (route t it.id)
      match place with
      | .error e => (s, some e)
      | .ok none => scatterRows st d t lock l (pos + 1) win (dropIndex s st)
      | .ok (some k) =>
        match tabRead s st (bindOf s (filPage st)) 8 it.g (rowBytes (filGfmt d) t.elems) with
        | .error e => (s, some e)
        | .ok bs =>
          let ps := (decodeRow (filGfmt d) t.elems bs).map fun x => x.mul it.weight
          match formRow lock t.gw ps it.div 130 t.gw with
          | .error e => (s, some (winTab e it.g))
          | .ok c => scatterRows st d t lock l (pos + 1) (addRow k c win) (countRaises s st ((c.1.w - t.gw) / 8))

/-- The head entry begins to run, its contributions on their way. -/
def startHead (s : State) (st : Fin 8) (q : Nat) : State :=
  s.modQueue st q fun x => { x with entries := modFirst (fun e => { e with st := .running }) x.entries }

/-- A contribution of the descriptor with a token of stack `st` waits at some home. -/
def tokenWaits (s : State) (st : Fin 8) (token : Word) : Bool :=
  s.stacksIn.any fun h => (s.st h).fil.inbox.any fun c => c.src == st.val && c.token == token

/-- An update descriptor retires once every contribution it sent is combined. -/
def updateRetire (s : State) (st : Fin 8) : State :=
  match (s.queue st 0xA0).first with
  | some e => if e.st = .running ∧ tokenWaits s st (headToken s st 0xA0) = false then tabRetire s st 0xA0 else s
  | none => s

/-- An update descriptor that has sent all its contributions. -/
def updateSent (s : State) (st : Fin 8) : State := updateRetire (startHead s st 0xA0) st

/-- The SCATTER at the head of the queue (R243, R244). -/
def scatter (s : State) (st : Fin 8) (e : Entry) : State :=
  let d := e.desc
  let plan := bindOf s (filPage st)
  let t := latchedTable e
  let isrc := filIsrc d
  let prep : Except TabErr (List ScatItem) := do
    if sourceClash t isrc then .error (sourceKind isrc (filWsrc d))
    let x ← readIndices s st plan isrc (latchedArg e 0) (descBits d 2 31 0) 1 0
    let ws ← readWeights s st plan (filWsrc d) isrc (latchedArg e 1) (latchedArg e 0) x
    .ok ((x.ids.zip (x.rows.zip ws)).zipIdx.map fun p =>
      ⟨p.1.1, x.at_ p.2, latchedArg e 2 + p.1.2.1 * filStride d, p.1.2.2.1, p.1.2.2.2⟩)
  match prep with
  | .error f => tabFault s st 0xA0 d f
  | .ok items =>
    match scatterRows st d t (t.lock || filLockAll s st) items 0 [] s with
    | (s1, some f) => tabFault s1 st 0xA0 d f
    | (s1, none) => updateSent s1 st

/-- FIL_SCATTER. -/
def execFilScatter (st : Fin 8) (s : State) : Host.Outcome State Fault Refusal := tabRow 0xA0 1 scatter st s

/-! ### The touched-row set (R245, R246) -/

/-- The pool bytes of a row of `n` elements. -/
def poolNeed (n : Nat) : Nat := (16 + 8 * n + 63) / 64 * 64

/-- Pool bytes in use: FIL_POOL_USED. -/
def poolUsed (s : State) (st : Fin 8) : Nat := (s.st st).fil.touched.foldl (fun n r => n + poolNeed r.cells.length) 0

/-- The most rows the set holds. -/
def touchedCap (s : State) (st : Fin 8) : Nat := min (2 ^ (s.fld (filPage st) 0x04C 4 0 - 1)) 8388608

/-- The set's index and the place of one more row in the pool may be written (area 7). -/
def poolAccess (s : State) (st : Fin 8) (plan need : Nat) : Option TabErr :=
  [(filAddr s st 0x044, 16), (filAddr s st 0x050 + poolUsed s st, need)].findSome? fun r =>
    if mapped s st r.1 r.2 = false then some (tabErr 0x07 7 r.1)
    else (regionCheck s st plan true true r.1 r.2).map fun e => .mem e 7

/-- FIL_STICKY takes INEXACT, NONFINITE and REPEATED; NONFINITE_SET is raised by NONFINITE newly set. -/
def filSticky (s : State) (st : Fin 8) (f : WinFlags) : State :=
  let p := filPage st
  let old := (s.reg p 0x084).toNat
  let s1 := s.setReg p 0x084 (BitVec.ofNat 32 (old ||| f.byte))
  if f.nonfinite && !bitAt old 1 then raiseEvt s1 p 5 else s1

/-- The accumulator of a row after a contribution, as n = 2 under R132; a new row begins at zero and exponent GW. -/
def combineRow (s : State) (home : Fin 8) (c : Contribution) : Except TabErr State :=
  let fil := (s.st home).fil
  let at_ := tableAddr s home c.table
  let need := poolNeed c.cells.length
  let old := fil.touched.find? fun r => r.table == c.table && r.row == c.row
  let bar : Option TabErr :=
    if old.isSome then none
    else if touchedCap s home ≤ fil.touched.length then some (tabErr 0x0A c.table at_)
    else if s.pair (filPage home) 0x058 < poolUsed s home + need then some (tabErr 0x0B c.table at_)
    else poolAccess s home c.plan.toNat need
  match bar with
  | some e => .error e
  | none =>
    let base : TouchedRow := old.getD ⟨c.table, c.row, c.gw, {}, c.cells.map fun _ => 0⟩
    let ps := [⟨base.w, base.cells.map Acc.ofCode⟩, ⟨c.w, c.cells.map Acc.ofCode⟩]
    match combine (c.lock || filLockAll s home) ps with
    | .error e => .error (winTab e at_)
    | .ok (w, acc, fl) =>
      let row : TouchedRow := ⟨c.table, c.row, w, (base.flags.or c.flags).or fl, acc.map Acc.code⟩
      let s1 := s.modFil home fun f => { f with
        touched := if old.isSome then f.touched.map fun r => if r.table = c.table ∧ r.row = c.row then row else r
          else f.touched ++ [row] }
      let s2 := filSticky (s1.countPair (filPage home) 0x088) home
        { (fl.or c.flags) with nonfinite := c.flags.nonfinite }
      .ok (countRaises s2 home (raisesOf w ps))

/-- A descriptor that has stopped combines nothing further: what it sent and no home has combined is discarded (R264). -/
def dropToken (s : State) (src : Fin 8) (token : Word) : State :=
  s.stacksIn.foldl (fun s i => s.modFil i fun f => { f with
    inbox := f.inbox.filter fun x => !(x.src == src.val && x.token == token) }) s

/-- A fault that a contribution met at its home: recorded on the page of the stack that sent it, whose descriptor stops at once
if it still runs (R263, R264). -/
def contributionFault (s : State) (src : Fin 8) (c : Contribution) (e : TabErr) : State :=
  let p := filPage src
  let s0 := dropToken s src c.token
  let s1 := match e with
    | .fault cls det high addr => recordFault s0 p cls det (high % 2 ^ 16 * 2 ^ 16 + c.tag) addr
    | .mem m area => memFault s0 p m 0x10 c.tag area
  match (s1.queue src 0xA0).first with
  | some x => if x.st = .running ∧ headToken s1 src 0xA0 = c.token then finish s1 src 0xA0 false else s1
  | none => s1

/-- The first contribution from a source reaches its home (R244, R246). -/
def takeContribution (s : State) (home src : Fin 8) : State :=
  match (s.st home).fil.inbox.find? fun c => c.src == src.val with
  | none => s
  | some c =>
    let s1 := s.modFil home fun f => { f with inbox := f.inbox.eraseP fun x => x.src == src.val }
    match combineRow s1 home c with
    | .error e => contributionFault s1 src c e
    | .ok s2 => updateRetire s2 src

/-- FIL_CONTRIBUTION. -/
def execFilContribution (home src : Fin 8) (s : State) : Host.Outcome State Fault Refusal :=
  if s.has home ∧ s.has src then .next (if s.clocked then takeContribution s home src else s) else .fault .absentStack

/-! ### READ (R247) -/

/-- The bytes of a row of a local table: FP32, or a long partial under its header (R103, R130). -/
def readBytes (dlp : Bool) (t : Table) (r : Option TouchedRow) : List Byte :=
  let (w, fl, cells) : Int × WinFlags × List DWord := match r with
    | some r => (r.w, r.flags, r.cells)
    | none => (t.gw, {}, List.replicate t.elems 0)
  if dlp then
    leBytes (expBits 16 w) 2 ++ leBytes fl.byte 1 ++ List.replicate 13 0 ++ cells.flatMap fun c => leBytes c.toNat 8
  else cells.flatMap fun c => leBytes ((Acc.ofCode c).toCode fp32 w).1 4

/-- Rows of a local table written out from row `i`, each leaving the set if CLEAR asks. -/
def readRows (st : Fin 8) (d : Desc) (t : Table) (out size : Nat) : Nat → Nat → State → State × Option TabErr
  | 0, _, s => (s, none)
  | k + 1, i, s =>
    let here : TouchedRow → Bool := fun r => r.table == filTable d && r.row == i
    let bs := readBytes (bitAt (descWord d 0).toNat 53) t ((s.st st).fil.touched.find? here)
    if size < i * filStride d + bs.length then (s, some (tabErr 0x07 3 (out + i * filStride d)))
    else match tabWrite s st (bindOf s (filPage st)) 3 false (out + i * filStride d) bs with
    | (s1, some e) => (s1, some e)
    | (s1, none) =>
      let s2 := if bitAt (descWord d 0).toNat 52
        then s1.modFil st fun f => { f with touched := f.touched.filter fun r => !here r } else s1
      readRows st d t out size k (i + 1) s2

/-- The READ at the head of the queue. -/
def filRead (s : State) (st : Fin 8) (e : Entry) : State :=
  let t := latchedTable e
  if t.mode ≠ 3 then tabFault s st 0xA0 e.desc (sourceKind 0 0)
  else match readRows st e.desc t (latchedArg e 3) (latchedArg e 4) t.nrows 0 s with
  | (s1, some f) => tabFault s1 st 0xA0 e.desc f
  | (s1, none) => tabRetire s1 st 0xA0

/-- FIL_READ. -/
def execFilRead (st : Fin 8) (s : State) : Host.Outcome State Fault Refusal := tabRow 0xA0 2 filRead st s

/-! ### EXPORT and MERGE (R248, R249) -/

/-- A row of the list, padded to 16 bytes. -/
def listRow (id : Nat) (r : TouchedRow) : List Byte :=
  let b := leBytes r.table 2 ++ leBytes r.flags.byte 1 ++ [0] ++ leBytes (expBits 16 r.w) 2 ++ [0, 0] ++ leBytes id 8 ++
    r.cells.flatMap fun c => leBytes c.toNat 8
  b ++ List.replicate (r.cells.length % 2 * 8) 0

/-- A place in the order of the list: table, then global id. -/
def listBefore (a b : (Nat × Nat) × TouchedRow) : Bool := a.1.1 < b.1.1 || (a.1.1 == b.1.1 && a.1.2 ≤ b.1.2)

/-- The touched rows of the tables in modes 0 to 2, by table and global id. -/
def exportRows (s : State) (st : Fin 8) : Except TabErr (List ((Nat × Nat) × TouchedRow)) := do
  let rows := (s.st st).fil.touched
  let ids := (rows.map (·.table)).dedup.mergeSort (· ≤ ·)
  let ts ← ids.mapM fun i => (readTable s st (bindOf s (filPage st)) i).map fun bs => (i, Table.of bs)
  .ok ((rows.filterMap fun r =>
    match ts.find? fun e => e.1 == r.table with
    | some (_, t) => if t.mode = 3 then none else some ((r.table, unroute t st.val r.row), r)
    | none => none).mergeSort listBefore)

/-- The EXPORT at the head of the queue. -/
def filExport (s : State) (st : Fin 8) (e : Entry) : State :=
  match exportRows s st with
  | .error f => tabFault s st 0xA0 e.desc f
  | .ok rows =>
    let body := rows.flatMap fun r => listRow r.1.2 r.2
    let bs := leBytes 1 8 ++ leBytes rows.length 8 ++ leBytes (64 + body.length) 8 ++
      leBytes (s.st st).clp.step.toNat 8 ++ List.replicate 32 0 ++ body
    if latchedArg e 4 < bs.length then tabFault s st 0xA0 e.desc (tabErr 0x07 3 (latchedArg e 3))
    else match tabWrite s st (bindOf s (filPage st)) 3 false (latchedArg e 3) bs with
    | (s1, some f) => tabFault s1 st 0xA0 e.desc f
    | (s1, none) => tabRetire s1 st 0xA0

/-- FIL_EXPORT. -/
def execFilExport (st : Fin 8) (s : State) : Host.Outcome State Fault Refusal := tabRow 0xA0 3 filExport st s

/-- A row of a list: its table's entry, its global id, and its long partial. -/
structure MergeRow where
  no : Nat
  table : Table
  id : Nat
  w : Int
  flags : WinFlags
  cells : List DWord

/-- The rows of a list from an address, whose bytes must end at `stop`; EXPORT_FMT where they are not as R248 lays them out. -/
def mergeRows (s : State) (st : Fin 8) (plan list stop : Nat) : Nat → Nat → Except TabErr (List MergeRow)
  | 0, a => if a = stop then .ok [] else .error (tabErr 0x0D 0 list)
  | k + 1, a => do
    if stop < a + 16 then .error (tabErr 0x0D 0 list)
    let h ← tabRead s st plan 0 a 16
    let no := leNat (slice h 0 2)
    let t := Table.of (← readTable s st plan no)
    let n := 16 + (t.elems + 1) / 2 * 16
    let w := toSigned 16 (leNat (slice h 4 2))
    if t.mode = 3 ∨ stop < a + n ∨ h.getD 3 0 ≠ 0 ∨ 8 ≤ (h.getD 2 0).toNat ∨ leNat (slice h 6 2) ≠ 0 ∨ w < -512 ∨ 511 < w then
      .error (tabErr 0x0D 0 list)
    let b ← tabRead s st plan 0 (a + 16) (n - 16)
    if leNat (b.drop (8 * t.elems)) ≠ 0 then .error (tabErr 0x0D 0 list)
    let l ← mergeRows s st plan list stop k (a + n)
    .ok (⟨no, t, leNat (slice h 8 8), w, WinFlags.ofByte (h.getD 2 0).toNat,
      (List.range t.elems).map fun i => BitVec.ofNat 64 (leNat (slice b (8 * i) 8))⟩ :: l)

/-- A list read and checked before any row is combined. -/
def readList (s : State) (st : Fin 8) (plan a : Nat) : Except TabErr (List MergeRow) := do
  let h ← tabRead s st plan 0 a 64
  let n := leNat (slice h 16 8)
  if leNat (slice h 0 8) ≠ 1 ∨ leNat (h.drop 32) ≠ 0 ∨ n < 64 ∨ n < 64 + 32 * leNat (slice h 8 8) then
    .error (tabErr 0x0D 0 a)
  if leNat (slice h 24 8) ≠ (s.st st).clp.step.toNat then .error (tabErr 0x0D 1 a)
  mergeRows s st plan a (a + n) (leNat (slice h 8 8)) (a + 64)

/-- The MERGE at the head of the queue: each row whose home is this stack is one contribution. -/
def filMerge (s : State) (st : Fin 8) (e : Entry) : State :=
  match readList s st (bindOf s (filPage st)) (latchedArg e 0) with
  | .error f => tabFault s st 0xA0 e.desc f
  | .ok rows =>
    let cs := rows.filterMap fun r =>
      match route r.table r.id with
      | some (home, row) =>
        if home = st.val then
          some ({ src := st.val, table := r.no, row := row, w := r.w, gw := r.table.gw, flags := r.flags, lock := r.table.lock,
                  cells := r.cells, tag := descTag e.desc, token := headToken s st 0xA0,
                  plan := BitVec.ofNat 16 (bindOf s (filPage st)) } : Contribution)
        else none
      | none => none
    updateSent (s.modFil st fun f => { f with inbox := f.inbox ++ cs }) st

/-- FIL_MERGE. -/
def execFilMerge (st : Fin 8) (s : State) : Host.Outcome State Fault Refusal := tabRow 0xA0 4 filMerge st s

/-! ### Acceptance (R243) -/

/-- The fields of a FIL command, each with whether its value is legal: one that the operation does not use is zero. -/
def filFields (d : Desc) : List DescField :=
  let f := fun w hi lo (ok : Bool) => (⟨w, hi, lo, ok⟩ : DescField)
  let op := descOp d
  let z := fun w hi lo (used : Bool) => f w hi lo (used || descBits d w hi lo == 0)
  [f 0 7 0 true, f 0 11 8 (1 ≤ op && op ≤ 4), f 0 31 16 true, z 0 43 32 (op ≤ 2), z 0 45 44 (op == 1), z 0 47 46 (op == 1),
    f 0 51 48 (filGfmt d == 0 || (filGfmt d == 1 && op == 1)), z 0 52 52 (op == 2), z 0 53 53 (op == 2),
    f 1 51 0 (descBits d 1 5 0 == 0), z 2 31 0 (op == 1 && filIsrc d < 2), z 2 43 32 (op ≤ 2)]

/-- How a FIL command uses its argument block: IN, WADDR, G, OUT, OUT_SIZE (R231, R243). -/
def filArgs (d : Desc) : List ArgUse :=
  let op := descOp d
  let sc := op == 1
  let isrc := filIsrc d
  let none_ : ArgUse := { used := false }
  [{ used := sc || op == 4, align := if sc then isrcAlign isrc else 8, area := some 0 },
    { used := sc && (filWsrc d == 2 || (filWsrc d == 1 && isrc < 2)), align := if filWsrc d = 1 then 2 else 4, area := some 1 },
    { used := sc, align := if filGfmt d = 1 then 2 else 4, area := some 8 },
    { used := op == 2 || op == 3, align := if op = 2 ∧ bitAt (descWord d 0).toNat 53 = false then 4 else 8, area := some 3 },
    { used := op == 2 || op == 3 }, none_, none_, none_]

/-- What Filigree checks, reads and latches as it accepts a descriptor whose word has passed its check: no update descriptor in
EVAL, the argument block, and the table's entry. -/
def filAccept (s : State) (st : Fin 8) (d : Desc) : Except TabErr (List DWord) :=
  let op := descOp d
  let plan := bindOf s (filPage st)
  if (op = 1 ∨ op = 4) ∧ (s.st st).clp.state = .eval then .error (tabErr 0x0C op 0)
  else match readArgs s st plan (descBits d 1 51 0) (filArgs d) with
  | .error e => .error e
  | .ok fs => if op ≤ 2 then (readTable s st plan (filTable d)).map (latchOf fs) else .ok (latchOf fs [])

end Sys2Proof.Machine
end

