-- ==== Sys2Proof/Machine/Transfer.lean ====
section
/-! DEFINITION. The transfer engine (R188, R304 to R307): copies, fills, and the conversions between dense panels, tile sequences
and sparse regions. -/

namespace Sys2Proof.Machine

/-- Fields of an XFR descriptor (R305). -/
def xfrFmt (d : Desc) : Nat := descBits d 0 38 35
def xfrRegion (d : Desc) : Bool := bitAt (descWord d 0).toNat 39
def xfrRow (d : Desc) : Nat := descBits d 0 63 40
def xfrSrc (d : Desc) : Nat := descBits d 1 51 0
def xfrDst (d : Desc) : Nat := descBits d 2 51 0
def xfrLen (d : Desc) : Nat := descBits d 3 39 0

/-- The queue of a channel. -/
def xfrQueue (ch : Nat) : Nat := 0xB0 + ch

/-- A descriptor faults (R307): its channel stops. -/
def xfrFault (s : State) (st : Fin 8) (ch : Nat) (d : Desc) (e : TabErr) : State :=
  let p := xfrPage st
  let s1 := match e with
    | .fault cls det high addr => recordFault s p cls det (high % 2 ^ 16 * 2 ^ 16 + descTag d) addr
    | .mem e _ => memFault s p e 0x10 (descTag d)
        (match e with | .ecc a => bit (decide (a % 2 ^ 48 < lpddrSize)) | _ => 0)
  (finish s1 st (xfrQueue ch) false).modSt st fun x => { x with xfrStop := x.xfrStop ||| BitVec.ofNat 8 (2 ^ ch) }

/-- XFR_AREA for a side: 0 SRC, 1 DST. -/
def xfrArea (side addr : Nat) : TabErr := .fault 0x02 0x03 side addr

/-- A read and a write by the engine. -/
def xfrRead (s : State) (st : Fin 8) (side : Nat) (a n : Nat) : Except TabErr (List Byte) :=
  if n = 0 then .ok []
  else if mapped s st a n = false then .error (xfrArea side a)
  else match engRead s st (bindOf s (xfrPage st)) a n with
  | .ok bs => .ok bs
  | .error e => .error (.mem e 0)
def xfrWrite (s : State) (st : Fin 8) (a : Nat) (bs : List Byte) : State × Option TabErr :=
  if bs = [] then (s, none)
  else if mapped s st a bs.length = false then (s, some (xfrArea 1 a))
  else
    let (s1, e) := engWrite s st (bindOf s (xfrPage st)) false a bs
    (s1, e.map fun x => .mem x 0)

/-- A metadata error in tile `t` under class 0x03 (R191, R307). -/
def metaXfr (t : Nat) : MetaErr TabErr → TabErr
  | .bad det a => .fault 0x03 det (2 * (t % 2 ^ 14)) a
  | .other e => e

/-- A panel range that the engine must wait for (R113). -/
def xfrHeld (s : State) (st : Fin 8) (a n : Nat) (write : Bool) : Bool :=
  match placeOf (offsetOf a) with
  | some (.panel c) =>
    let off := a - panelBase st.val c
    if write then panelWriteHeld s st c off n || vcReadHeld s st c off n else panelReadHeld s st c off n
  | _ => false

/-! ### COPY and FILL -/

/-- Where the next piece of a transfer to `a` of `n` bytes ends: at most at the next 256-byte line. -/
def pieceLen (a n : Nat) : Nat := min n (256 - a % 256)

/-- The first address an error names. -/
def errAddr : TabErr → Nat
  | .fault _ _ _ a => a
  | .mem (.region _ _ a) _ => a
  | .mem (.ecc a) _ => a

/-- Bytes copied piece by piece; at an unreadable or refused byte the bytes before it have been written (R300, R307). -/
def copyPieces (rd : State → Reader TabErr) (wr : State → Nat → List Byte → State × Option TabErr) :
    Nat → Nat → Nat → Nat → State → State × Option TabErr
  | 0, _, _, _, s => (s, none)
  | k + 1, src, dst, n, s =>
    if n = 0 then (s, none)
    else
      let m := pieceLen dst n
      match rd s src m with
      | .error e =>
        let good := min m (errAddr e - src)
        match rd s src good with
        | .error e => (s, some e)
        | .ok bs => let (s1, e1) := wr s dst bs; (s1, some (e1.getD e))
      | .ok bs =>
        match wr s dst bs with
        | (s1, some e) => (s1, some e)
        | (s1, none) => copyPieces rd wr k (src + m) (dst + m) (n - m) s1

/-- XFR_LEN for COPY and FILL. -/
def lenBad (n : Nat) : Bool := n == 0 || n % 16 != 0

/-- COPY (R306). -/
def xfrCopy (s : State) (st : Fin 8) (d : Desc) : State × Option TabErr :=
  let n := xfrLen d
  let (src, dst) := (xfrSrc d, xfrDst d)
  if lenBad n then (s, some (.fault 0x02 0x05 0 0))
  else if src % 16 ≠ 0 ∨ mapped s st src n = false then (s, some (xfrArea 0 src))
  else if dst % 16 ≠ 0 ∨ mapped s st dst n = false then (s, some (xfrArea 1 dst))
  else if rangesMeet src n dst n then (s, some (.fault 0x02 0x04 0 dst))
  else copyPieces (fun s => xfrRead s st 0) (fun s => xfrWrite s st) (n / 16 + 1) src dst n s

/-- A pattern written piece by piece. -/
def fillPieces (st : Fin 8) (pat : List Byte) : Nat → Nat → Nat → State → State × Option TabErr
  | 0, _, _, s => (s, none)
  | k + 1, dst, n, s =>
    if n = 0 then (s, none)
    else
      let m := pieceLen dst n
      match xfrWrite s st dst (List.replicate (m / 4) pat).flatten with
      | (s1, some e) => (s1, some e)
      | (s1, none) => fillPieces st pat k (dst + m) (n - m) s1

/-- FILL (R306). -/
def xfrFill (s : State) (st : Fin 8) (d : Desc) : State × Option TabErr :=
  let n := xfrLen d
  let dst := xfrDst d
  if lenBad n then (s, some (.fault 0x02 0x05 0 0))
  else if dst % 4 ≠ 0 ∨ mapped s st dst n = false then (s, some (xfrArea 1 dst))
  else fillPieces st (leBytes (descBits d 1 31 0) 4) (n / 16 + 2) dst n s

/-! ### Tiles (R176 to R178, R188, R190) -/

/-- A tile or segment read whole at an address: its header checked, then its payload and scales; 8-byte units in LEN. -/
def readWhole (rd : Reader TabErr) (a : Nat) (seg : Bool) (fmt : Nat) (listed : Bool) :
    Except (MetaErr TabErr) (SpHeader × List Byte) := do
  let w := leNat (← metaRead rd a 8)
  match headerFault w seg fmt listed with
  | some det => .error (.bad det a)
  | none =>
    let h := readHeader w seg
    let pay ← metaRead rd (a + 8) (8 * h.len - 8)
    if seg = false ∧ (⟨h, pay.toArray⟩ : SpTile).scaleClash = true then .error (.bad 0x08 a)
    else .ok (h, leBytes w 8 ++ pay)

/-- T tiles one after another: `body` forms what is written for tile `t` from its source address, with the bytes it took; `at_`
is where the next tile is written. -/
def eachTile (st : Fin 8) (body : State → Nat → Nat → Except (MetaErr TabErr) (List Byte × Nat)) :
    Nat → Nat → Nat → Nat → State → State × Option TabErr
  | 0, _, _, _, s => (s, none)
  | k + 1, t, src, dst, s =>
    match body s t src with
    | .error e => (s, some (metaXfr t e))
    | .ok (bs, n) =>
      match xfrWrite s st dst bs with
      | (s1, some e) => (s1, some e)
      | (s1, none) => eachTile st body k (t + 1) (src + n) (dst + bs.length) s1

/-- One tile of a dense panel compressed (R173, R178). -/
def compressTile (st : Fin 8) (fmt : Nat) (s : State) (_t src : Nat) : Except (MetaErr TabErr) (List Byte × Nat) :=
  let n := panelBytes fmt 64 64
  (metaRead (xfrRead s st 0) src n).map fun bs =>
    let a := bs.toArray
    (tileBytes fmt (panelCode a fmt 64) (fun g i => panelScale a fmt 64 (32 * g) i), n)

/-- One tile expanded (R177). -/
def expandTile (st : Fin 8) (fmt : Nat) (s : State) (_t src : Nat) : Except (MetaErr TabErr) (List Byte × Nat) :=
  (readWhole (xfrRead s st 0) src false fmt false).map fun x =>
    let tile : SpTile := ⟨x.1, (x.2.drop 8).toArray⟩
    (panelOf fmt 64 64 tile.code (fun g i => tile.scale (32 * g) i), x.2.length)

/-- One tile or segment copied unchanged; its own header says which it is. -/
def copyTile (st : Fin 8) (fmt : Nat) (s : State) (_t src : Nat) : Except (MetaErr TabErr) (List Byte × Nat) := do
  let w := leNat (← metaRead (xfrRead s st 0) src 8)
  (readWhole (xfrRead s st 0) src (bitAt w 55) fmt false).map fun x => (x.2, x.2.length)

/-- A conversion of T tiles: its length and the alignment of its two sides checked first. -/
def tileRun (s : State) (st : Fin 8) (d : Desc) (alignS alignD : Nat)
    (body : State → Nat → Nat → Except (MetaErr TabErr) (List Byte × Nat)) : State × Option TabErr :=
  if xfrLen d = 0 then (s, some (.fault 0x02 0x05 0 0))
  else if xfrSrc d % alignS ≠ 0 ∨ mapped s st (xfrSrc d) 1 = false then (s, some (xfrArea 0 (xfrSrc d)))
  else if xfrDst d % alignD ≠ 0 ∨ mapped s st (xfrDst d) 1 = false then (s, some (xfrArea 1 (xfrDst d)))
  else eachTile st body (xfrLen d) 0 (xfrSrc d) (xfrDst d) s

/-- COMPRESS and EXPAND. -/
def xfrCompress (s : State) (st : Fin 8) (d : Desc) : State × Option TabErr := tileRun s st d 16 8 (compressTile st (xfrFmt d))
def xfrExpand (s : State) (st : Fin 8) (d : Desc) : State × Option TabErr := tileRun s st d 8 16 (expandTile st (xfrFmt d))

/-! ### Regions (R179, R180, R188) -/

/-- The end of a stack's addresses: the bound that an address past memory meets before. -/
def stackEnd (a : Nat) : Nat := (a / 2 ^ 48 + 1) * 2 ^ 48

/-- A region header of the descriptor's format. -/
def readRgnFmt (rd : Reader TabErr) (a fmt : Nat) : Except (MetaErr TabErr) RgnHdr := do
  let r ← readRgn rd a none
  if r.fmt ≠ fmt then .error (.bad 0x04 a)
  .ok r

/-- The place of the next tile in a region: OFFSET of entry E (R180). -/
def nextOffset (rd : Reader TabErr) (r : RgnHdr) (e : Nat) : Except (MetaErr TabErr) Nat :=
  if e = 0 then .ok 0
  else do
    let off := leNat (← metaRead rd (r.entry + 16 * (e - 1)) 8)
    let w := leNat (← metaRead rd (r.pay + off) 8)
    match headerFault w r.vector r.fmt true with
    | some det => .error (.bad det (r.pay + off))
    | none => .ok (off + 8 * (readHeader w r.vector).len)

/-- The areas of a region with `e` entries and `n` payload bytes do not meet. -/
def rgnFits (r : RgnHdr) (e n : Nat) : Bool :=
  !anyMeet [(r.base, 64), (r.rowptr, 8 * (r.tr + 1)), (r.entry, 16 * e), (r.cum, 8 * (e + 1)), (r.pay, n)]

/-- Several writes in order, stopping at the first that fails. -/
def xfrWrites (st : Fin 8) : List (Nat × List Byte) → State → State × Option TabErr
  | [], s => (s, none)
  | (a, bs) :: l, s =>
    match xfrWrite s st a bs with
    | (s1, some e) => (s1, some e)
    | (s1, none) => xfrWrites st l s1

/-- Tiles appended to a row (R188, R306): tile `t` of those left, from `src`; `e`, `n` and `off` are the entries, blocks and payload
bytes so far. Answers the final `e` and `n`. -/
def appendTiles (st : Fin 8) (r : RgnHdr) :
    Nat → Nat → Nat → (e n off : Nat) → State → State × Except TabErr (Nat × Nat)
  | 0, _, _, e, n, _, s => (s, .ok (e, n))
  | k + 1, t, src, e, n, off, s =>
    match readWhole (xfrRead s st 0) src r.vector r.fmt false with
    | .error x => (s, .error (metaXfr t x))
    | .ok (h, bs) =>
      if h.nblk = 0 then appendTiles st r k (t + 1) (src + bs.length) e n off s
      else if r.tc ≤ t then (s, .error (metaXfr t (.bad 0x0B (r.entry + 16 * e))))
      else if rgnFits r (e + 1) (off + bs.length) = false then (s, .error (metaXfr t (.bad 0x09 (r.entry + 16 * e))))
      else
        match xfrWrites st [(r.pay + off, bs), (r.entry + 16 * e, leBytes off 8 ++ leBytes t 4 ++ leBytes 0 4),
            (r.cum + 8 * (e + 1), leBytes (n + h.nblk) 8)] s with
        | (s1, some x) => (s1, .error x)
        | (s1, none) => appendTiles st r k (t + 1) (src + bs.length) (e + 1) (n + h.nblk) (off + bs.length) s1

/-- TO_REGION (R306). -/
def xfrToRegion (s : State) (st : Fin 8) (d : Desc) : State × Option TabErr :=
  let rd : Reader TabErr := xfrRead s st 1
  let prep : Except (MetaErr TabErr) (RgnHdr × Nat) := do
    let r ← readRgnFmt rd (xfrDst d) (xfrFmt d)
    if r.tr ≤ xfrRow d then .error (.bad 0x09 (r.rowptr + 8 * (xfrRow d + 1)))
    let p ← readU64 rd r.rowptr (xfrRow d)
    if p ≠ r.e ∨ (xfrRow d = 0 ∧ p ≠ 0) then .error (.bad 0x0A (r.rowptr + 8 * xfrRow d))
    if r.e ≠ 0 then
      let c ← readU64 rd r.cum r.e
      if c ≠ r.n then .error (.bad 0x0C (r.cum + 8 * r.e))
    if r.e = 0 ∧ r.n ≠ 0 then .error (.bad 0x0C r.cum)
    let off ← nextOffset rd r r.e
    .ok (r, off)
  if xfrLen d = 0 then (s, some (.fault 0x02 0x05 0 0))
  else if xfrSrc d % 8 ≠ 0 ∨ mapped s st (xfrSrc d) 1 = false then (s, some (xfrArea 0 (xfrSrc d)))
  else if xfrDst d % 8 ≠ 0 ∨ mapped s st (xfrDst d) 64 = false then (s, some (xfrArea 1 (xfrDst d)))
  else match prep with
  | .error e => (s, some (metaXfr 0 e))
  | .ok (r, off) =>
    match (if r.e = 0 then xfrWrite s st r.cum (leBytes 0 8) else (s, none)) with
    | (s1, some e) => (s1, some e)
    | (s1, none) =>
      match appendTiles st r (xfrLen d) 0 (xfrSrc d) r.e r.n off s1 with
      | (s2, .error e) => (s2, some e)
      | (s2, .ok (e, n)) =>
        xfrWrites st [(r.rowptr + 8 * (xfrRow d + 1), leBytes e 8), (r.base + 16, leBytes e 8 ++ leBytes n 8)] s2

/-- The two ROWPTR values of a tile row, checked (R180). -/
def readRowEnds (rd : Reader TabErr) (r : RgnHdr) (row : Nat) : Except (MetaErr TabErr) (Nat × Nat) := do
  if r.tr ≤ row then .error (.bad 0x09 (r.rowptr + 8 * (row + 1)))
  let lo ← readU64 rd r.rowptr row
  let hi ← readU64 rd r.rowptr (row + 1)
  if row = 0 ∧ lo ≠ 0 then .error (.bad 0x0A r.rowptr)
  else if hi < lo ∨ r.e < hi ∨ (row + 1 = r.tr ∧ hi ≠ r.e) then .error (.bad 0x0A (r.rowptr + 8 * (row + 1)))
  else .ok (lo, hi)

/-- Listed tiles read whole, every one checked. -/
def readListedTiles (rd : Reader TabErr) (r : RgnHdr) (first : Nat → Nat) (lo hi : Nat) :
    Except (MetaErr TabErr) (List (Listed × List Byte)) :=
  (List.range (hi - lo)).mapM fun i =>
    let one : Except (MetaErr TabErr) (Listed × List Byte) := do
      let l ← readListed rd r (first (lo + i)) (lo + i) (stackEnd r.base)
      let x ← readWhole rd (r.pay + l.off) r.vector r.fmt true
      .ok (l, x.2)
    match one with
    | .ok x => .ok x
    | .error e => .error (.other (metaXfr (lo + i) e))

/-- FROM_REGION (R240, R306): the part header, the row's entries, and its tiles; an empty row's header holds entry count 0, its
other fields free (assumption 2). -/
def xfrFromRegion (s : State) (st : Fin 8) (d : Desc) : State × Option TabErr :=
  let rd : Reader TabErr := xfrRead s st 0
  let prep : Except (MetaErr TabErr) (State × List Byte) := do
    let r ← readRgnFmt rd (xfrSrc d) (xfrFmt d)
    let (lo, hi) ← readRowEnds rd r (xfrRow d)
    let ts ← readListedTiles rd r (fun _ => lo) lo hi
    if ts = [] then partBytes rd s r [] []
    else
      let ents ← metaRead rd (r.entry + 16 * lo) (16 * ts.length)
      .ok (s, leBytes lo 8 ++ leBytes ts.length 8 ++ leBytes (xfrRow d) 8 ++ leBytes (xfrRow d + 1) 8 ++ ents ++
        ts.flatMap (·.2))
  if xfrLen d ≠ 0 then (s, some (.fault 0x02 0x05 0 0))
  else if xfrSrc d % 8 ≠ 0 ∨ mapped s st (xfrSrc d) 64 = false then (s, some (xfrArea 0 (xfrSrc d)))
  else if xfrDst d % 16 ≠ 0 ∨ mapped s st (xfrDst d) 1 = false then (s, some (xfrArea 1 (xfrDst d)))
  else match prep with
  | .error e => (s, some (metaXfr 0 e))
  | .ok (s1, bs) => xfrWrite s1 st (xfrDst d) bs

/-- A whole region checked, as the pieces that its copy writes: header, arrays and payload at the same offsets. -/
def regionPieces (rd : Reader TabErr) (src dst fmt : Nat) : Except (MetaErr TabErr) (List (Nat × List Byte)) := do
  let r ← readRgnFmt rd src fmt
  let ps ← readRowptr rd r
  let ts ← readListedTiles rd r (fun e => ps.getD (rowOf ps e) 0) 0 r.e
  if r.e = 0 ∧ r.n ≠ 0 then .error (.bad 0x0C r.cum)
  let move := fun a n => (metaRead rd a n).map fun bs => (dst + (a - src), bs)
  let h ← move r.base 64
  let rp ← move r.rowptr (8 * (r.tr + 1))
  let en ← move r.entry (16 * r.e)
  let cu ← move r.cum (8 * (r.e + 1))
  .ok ([h, rp, en, cu] ++ ts.map fun x => (dst + (r.pay + x.1.off - src), x.2))

/-- TILECOPY (R306). -/
def xfrTilecopy (s : State) (st : Fin 8) (d : Desc) : State × Option TabErr :=
  if xfrRegion d then
    if xfrSrc d % 8 ≠ 0 ∨ mapped s st (xfrSrc d) 64 = false then (s, some (xfrArea 0 (xfrSrc d)))
    else if xfrDst d % 8 ≠ 0 ∨ mapped s st (xfrDst d) 64 = false then (s, some (xfrArea 1 (xfrDst d)))
    else match regionPieces (xfrRead s st 0) (xfrSrc d) (xfrDst d) (xfrFmt d) with
    | .error e => (s, some (metaXfr 0 e))
    | .ok ps => xfrWrites st ps s
  else tileRun s st d 8 8 (copyTile st (xfrFmt d))

/-! ### Running -/

/-- The bytes an operation may read and write, for the panel ranges it waits for: its length where that is known, else to the end of
the panel store. -/
def xfrExtent (d : Desc) : Nat × Nat :=
  let k := xfrLen d
  match descOp d with
  | 1 => (k, k)
  | 2 => (0, k)
  | 3 => (k * panelBytes (xfrFmt d) 64 64, panelSize)
  | 4 => (panelSize, k * panelBytes (xfrFmt d) 64 64)
  | _ => (panelSize, panelSize)

/-- A channel may run its head: accepted, of this operation, and the channel not stopped; no range it needs is held. -/
def xfrRow_ (op : Nat) (body : State → Fin 8 → Desc → State × Option TabErr) (st : Fin 8) (ch : Fin 8) (s : State) :
    Host.Outcome State Fault Refusal :=
  if s.has st then
    .next (match (s.queue st (xfrQueue ch.val)).first with
      | some e =>
        let d := e.desc
        let x := xfrExtent d
        if e.st = .accepted ∧ descOp d = op ∧ s.clocked = true ∧ (s.st st).xfrStop.getLsbD ch.val = false ∧
            xfrHeld s st (xfrSrc d) x.1 false = false ∧ xfrHeld s st (xfrDst d) x.2 true = false then
          match body s st d with
          | (s1, some f) => xfrFault s1 st ch.val d f
          | (s1, none) => raiseEvt (finish s1 st (xfrQueue ch.val) true) (xfrPage st) 3
        else s
      | none => s)
  else .fault .absentStack

/-- XFR_COPY to XFR_TILECOPY. -/
def execXfrCopy (st ch : Fin 8) (s : State) : Host.Outcome State Fault Refusal := xfrRow_ 1 xfrCopy st ch s
def execXfrFill (st ch : Fin 8) (s : State) : Host.Outcome State Fault Refusal := xfrRow_ 2 xfrFill st ch s
def execXfrCompress (st ch : Fin 8) (s : State) : Host.Outcome State Fault Refusal := xfrRow_ 3 xfrCompress st ch s
def execXfrExpand (st ch : Fin 8) (s : State) : Host.Outcome State Fault Refusal := xfrRow_ 4 xfrExpand st ch s
def execXfrToRegion (st ch : Fin 8) (s : State) : Host.Outcome State Fault Refusal := xfrRow_ 5 xfrToRegion st ch s
def execXfrFromRegion (st ch : Fin 8) (s : State) : Host.Outcome State Fault Refusal := xfrRow_ 6 xfrFromRegion st ch s
def execXfrTilecopy (st ch : Fin 8) (s : State) : Host.Outcome State Fault Refusal := xfrRow_ 7 xfrTilecopy st ch s

/-- The fields of an XFR command, each with whether its value is legal. -/
def xfrFields (ch : Nat) (d : Desc) : List DescField :=
  let f := fun w hi lo (ok : Bool) => (⟨w, hi, lo, ok⟩ : DescField)
  let op := descOp d
  let fmt := xfrFmt d
  let fmtOk := match op with
    | 3 | 4 => 1 ≤ fmt && fmt ≤ 7
    | 5 | 6 | 7 => fmt ≤ 8
    | _ => fmt == 0
  [f 0 7 0 true, f 0 11 8 (1 ≤ op && op ≤ 7), f 0 31 16 true, f 0 34 32 (descBits d 0 34 32 == ch), f 0 38 35 fmtOk] ++
  (if op = 7 then [f 0 39 39 true] else []) ++ (if op = 5 ∨ op = 6 then [f 0 63 40 true] else []) ++
  [if op = 2 then f 1 31 0 true else f 1 51 0 true, f 2 51 0 true] ++
  (if op = 7 ∧ xfrRegion d = true then [] else [f 3 39 0 true])

end Sys2Proof.Machine
end

