-- ==== Sys2Proof/Machine/Jukan.lean ====
section
/-! DEFINITION. The Jukan ports' descriptors (R373, R374, R377, R378) and the failures of lanes and links (R19, R22). -/

namespace Sys2Proof.Machine

/-- The JK page and queue of a port. -/
def jkPage (st : Fin 8) (p : Nat) : Page := stackPage st .jk p
def jkQueue (p : Nat) : Nat := 0xC0 + p

/-- Fields of a JK descriptor (R373). -/
def jkLock (d : Desc) : Bool := bitAt (descWord d 0).toNat 32
def jkSrc (d : Desc) : Nat := descBits d 1 51 0
def jkDst (d : Desc) : Nat := descBits d 2 51 0
def jkLen (d : Desc) : Nat := descBits d 3 39 0

/-- A descriptor faults on its page (R378). An uncorrectable word has class 0x02, detail 0x10 (assumption 14). -/
def jkFault (s : State) (st : Fin 8) (p : Nat) (d : Desc) (e : TabErr) : State :=
  let page := jkPage st p
  let s1 := match e with
    | .fault cls det high addr => recordFault s page cls det (high % 2 ^ 16 * 2 ^ 16 + descTag d) addr
    | .mem m side => memFault s page m 0x10 (descTag d) side
  finish s1 st (jkQueue p) false

/-- AREA for a side: 0 SRC, 1 DST. -/
def jkArea (side addr : Nat) : TabErr := .fault 0x07 0x04 side addr

/-- A read at the source, and a read and a write at the destination, under the JK page's plan. -/
def jkRead (s : State) (st : Fin 8) (plan side a n : Nat) : Except TabErr (List Byte) :=
  if n = 0 then .ok []
  else if mapped s st a n = false then .error (jkArea side a)
  else match engRead s st plan a n with
  | .ok bs => .ok bs
  | .error e => .error (.mem e side)
def jkWrite (s : State) (st : Fin 8) (plan a : Nat) (bs : List Byte) : State × Option TabErr :=
  if bs = [] then (s, none)
  else if mapped s st a bs.length = false then (s, some (jkArea 1 a))
  else
    let (s1, e) := engWrite s st plan false a bs
    (s1, e.map fun x => .mem x 1)

/-- Bytes counted at the two ports of a hop (R377). -/
def countHop (s : State) (n p m : Nat) : State :=
  (s.countPair ⟨n, .jk, p⟩ 0x044 m).countPair ⟨jkPeer s.part n p, .jk, jkBack s.part p⟩ 0x04C m

/-- Bytes that went from stack `a` to stack `b` counted at every port on the way (R21, R377): on the KX-220 striped evenly over the
links that are up, the lowest taking what is over (assumption 14). -/
def countRoute (s : State) (a b m : Nat) : State :=
  match s.part with
  | .kx220 =>
    let ps := [0, 1, 2].filter fun p => portUp s a p && portUp s b p
    ps.zipIdx.foldl (fun s x => countHop s a x.1 (m / ps.length + (if x.2 < m % ps.length then 1 else 0))) s
  | part => (jkRoute part a b).foldl (fun s h => countHop s h.1 h.2 m) s

/-- A port is the first hop to a stack (R374): any port on the KX-220. -/
def firstHop (s : State) (st : Fin 8) (p b : Nat) : Bool :=
  match s.part with
  | .kx220 => true
  | part => (jkRoute part st.val b).head? == some (st.val, p)

/-- The destination is another populated stack, the port leads there, and the route is up (R22, R374). -/
def jkWay (s : State) (st : Fin 8) (p : Nat) (d : Desc) : Option TabErr :=
  let b := jkDst d / 2 ^ 48
  if b = st.val ∨ s.has b = false then some (jkArea 1 (jkDst d))
  else if firstHop s st p b = false then some (.fault 0x07 0x03 b 0)
  else (routeFail s st.val b).map fun f => .fault 0x07 0x06 f 0

/-- Both sides aligned and in memory. -/
def jkSides (s : State) (st dst : Fin 8) (d : Desc) (n : Nat) : Option TabErr :=
  let out := fun (t : Fin 8) (a : Nat) => a % 16 ≠ 0 ∨ (n ≠ 0 ∧ mapped s t a n = false)
  if out st (jkSrc d) then some (jkArea 0 (jkSrc d))
  else if out dst (jkDst d) then some (jkArea 1 (jkDst d))
  else none

/-- The stack that DST names. -/
def jkTarget (d : Desc) : Fin 8 := Fin.ofNat 8 (jkDst d / 2 ^ 48)

/-- SEND (R374). -/
def jkSend (s : State) (st : Fin 8) (p : Nat) (d : Desc) : State × Option TabErr :=
  let plan := bindOf s (jkPage st p)
  let dst := jkTarget d
  let n := jkLen d
  match jkSides s st dst d n with
  | some e => (s, some e)
  | none =>
    let (s1, e) := copyPieces (fun s => jkRead s st plan 0) (fun s => jkWrite s dst plan) (n / 16 + 1) (jkSrc d) (jkDst d) n s
    (if e.isNone then countRoute s1 st.val dst.val n else s1, e)

/-- The bytes of a long-partial tile (R103). -/
def lpTileBytes : Nat := 16 + 8 * 4096

/-- A long-partial tile read from its bytes: exponent, flags, SHAPE and cells. -/
def lpRead (bs : List Byte) : Int × WinFlags × Nat × List Acc :=
  (toSigned 16 (leNat (slice bs 0 2)), WinFlags.ofByte (bs.getD 2 0).toNat, (bs.getD 3 0).toNat,
    (List.range 4096).map fun i => Acc.ofCode (BitVec.ofNat 64 (leNat (slice bs (16 + 8 * i) 8))))

/-- A long-partial tile's bytes. -/
def lpBytes (w : Int) (fl : WinFlags) (shape : Nat) (cells : List Acc) : List Byte :=
  leBytes (expBits 16 w) 2 ++ leBytes fl.byte 1 ++ leBytes shape 1 ++ List.replicate 12 0 ++
    cells.flatMap fun c => leBytes c.code.toNat 8

/-- One tile combined into its destination under R132, a unit of its own. -/
def reduceTile (s : State) (st dst : Fin 8) (plan : Nat) (lock : Bool) (t src at_ : Nat) : State × Option TabErr :=
  let both : Except TabErr (List Byte × List Byte) := do
    let a ← jkRead s st plan 0 src lpTileBytes
    let b ← jkRead s dst plan 1 at_ lpTileBytes
    .ok (a, b)
  match both with
  | .error e => (s, some e)
  | .ok (a, b) =>
    let (wa, fa, sa, ca) := lpRead a
    let (wb, fb, sb, cb) := lpRead b
    if sa ≠ sb then (s, some (.fault 0x07 0x05 (min t 0xFFFF) at_))
    else match combine lock [⟨wb, cb⟩, ⟨wa, ca⟩] with
    | .error (.lock w) => (s, some (.fault 0x07 0x21 (expBits 10 w) at_))
    | .error (.window w) => (s, some (.fault 0x07 0x20 (expBits 10 w) at_))
    | .ok (w, cs, fl) => jkWrite s dst plan at_ (lpBytes w ((fa.or fb).or fl) sb cs)

/-- Tiles combined in order. -/
def reduceTiles (st dst : Fin 8) (plan : Nat) (lock : Bool) : Nat → Nat → Nat → Nat → State → State × Option TabErr
  | 0, _, _, _, s => (s, none)
  | k + 1, t, src, at_, s =>
    match reduceTile s st dst plan lock t src at_ with
    | (s1, some e) => (s1, some e)
    | (s1, none) => reduceTiles st dst plan lock k (t + 1) (src + lpTileBytes) (at_ + lpTileBytes) s1

/-- REDUCE_LP (R374). -/
def jkReduce (s : State) (st : Fin 8) (p : Nat) (d : Desc) : State × Option TabErr :=
  let dst := jkTarget d
  match jkSides s st dst d (jkLen d * lpTileBytes) with
  | some e => (s, some e)
  | none =>
    let (s1, e) := reduceTiles st dst (bindOf s (jkPage st p)) (jkLock d) (jkLen d) 0 (jkSrc d) (jkDst d) s
    (if e.isNone then countRoute s1 st.val dst.val (jkLen d * lpTileBytes) else s1, e)

/-- SIGNAL (R374, R386). -/
def jkSignal (s : State) (_st : Fin 8) (_p : Nat) (d : Desc) : State × Option TabErr :=
  (ringBits s (jkTarget d) (bitsOf (jkLen d) 5 0) (BitVec.ofNat 32 (2 ^ bitsOf (jkLen d) 10 6)), none)

/-- The bytes a descriptor moves. -/
def jkExtent (d : Desc) : Nat := match descOp d with | 1 => jkLen d | 2 => jkLen d * lpTileBytes | _ => 0

/-- A port runs its head: accepted, of this operation, the page not stopped by a fault, no panel range it needs held. -/
def jkRow (op : Nat) (body : State → Fin 8 → Nat → Desc → State × Option TabErr) (st : Fin 8) (p : Fin 3) (s : State) :
    Host.Outcome State Fault Refusal :=
  if s.has st then
    .next (match (s.queue st (jkQueue p.val)).first with
      | some e =>
        let d := e.desc
        if e.st = .accepted ∧ descOp d = op ∧ s.clocked = true ∧ s.faulted (jkPage st p.val) = false ∧
            xfrHeld s st (jkSrc d) (jkExtent d) false = false ∧ xfrHeld s (jkTarget d) (jkDst d) (jkExtent d) true = false then
          match jkWay s st p.val d with
          | some f => jkFault s st p.val d f
          | none =>
            match body s st p.val d with
            | (s1, some f) => jkFault s1 st p.val d f
            | (s1, none) => raiseEvt (finish s1 st (jkQueue p.val) true) (jkPage st p.val) 3
        else s
      | none => s)
  else .fault .absentStack

/-- JK_SEND, JK_REDUCE_LP and JK_SIGNAL. -/
def execJkSend (st : Fin 8) (p : Fin 3) (s : State) : Host.Outcome State Fault Refusal := jkRow 1 jkSend st p s
def execJkReduceLp (st : Fin 8) (p : Fin 3) (s : State) : Host.Outcome State Fault Refusal := jkRow 2 jkReduce st p s
def execJkSignal (st : Fin 8) (p : Fin 3) (s : State) : Host.Outcome State Fault Refusal := jkRow 3 jkSignal st p s

/-- LINK_ERROR (R378): a port's flit retries are exhausted; the descriptor it was carrying, if any, stops. -/
def execLinkError (st : Fin 8) (p : Fin 3) (s : State) : Host.Outcome State Fault Refusal :=
  if s.has st then
    .next (match (s.queue st (jkQueue p.val)).first with
      | some e =>
        if e.st = .accepted then jkFault s st p.val e.desc (.fault 0x07 0x07 p.val 0)
        else recordFault s (jkPage st p.val) 0x07 0x07 (p.val * 2 ^ 16) 0
      | none => recordFault s (jkPage st p.val) 0x07 0x07 (p.val * 2 ^ 16) 0)
  else .fault .absentStack

/-- JUKAN_LANE_FAILED (R19, R423, R428): the group's spare takes over, or the port goes down where it is in use already. Which lane
failed and FAULT_INFO are free values (assumption 2). -/
def execJukanLaneFailed (st : Fin 8) (p : Fin 3) (g : Fin 4) (s : State) : Host.Outcome State Fault Refusal :=
  if s.has st then
    .next (
      let page := jkPage st p.val
      let (v, s0) := s.drawFree
      let lane := 33 * g.val + v.toNat % 33
      if s.flag page 0x040 (1 + g.val) = false then
        swapRecord (raiseEvt (s0.setFlag page 0x040 (1 + g.val) true) page 4) st 8 p.val 0 lane (33 * g.val + 32)
      else
        let s1 := raiseEvt (s0.setFlag page 0x040 0 false) page 5
        let s2 := recordFault s1 page 0x0A 0x40 (v.toNat / 2 ^ 32) 0
        swapRecord (raiseEvt s2 (arbPage st) 8) st 8 p.val 2 lane 0)
  else .fault .absentStack

/-- The fields of a JK command, each with whether its value is legal. -/
def jkFields (d : Desc) : List DescField :=
  let f := fun w hi lo (ok : Bool) => (⟨w, hi, lo, ok⟩ : DescField)
  let op := descOp d
  [f 0 7 0 true, f 0 11 8 (1 ≤ op && op ≤ 3), f 0 31 16 true] ++
  match op with
  | 1 => [f 1 51 0 true, f 2 51 0 true, f 3 39 0 (jkLen d % 16 == 0)]
  | 2 => [f 0 32 32 true, f 1 51 0 true, f 2 51 0 true, f 3 39 0 true]
  | 3 => [f 2 51 48 true, f 3 10 0 true]
  | _ => []

end Sys2Proof.Machine
end

