-- ==== Sys2Proof/Machine/Sampler.lean ====
section
/-! DEFINITION. The Neighbourhood Sampler of a stack (R193 to R223): batches, graph checks, the dedup table, draws,
numbering, frontier blocks and prefix sums. -/

namespace Sys2Proof.Machine

/-- The SMP page of a stack, and the queue of a lane group. -/
def smpPage (st : Fin 8) : Page := stackPage st .smp
def smpQueue (g : Nat) : Nat := 0x80 + g

/-- A lane group, and one changed. -/
def State.group (s : State) (st : Fin 8) (g : Nat) : SmpGroup := (s.st st).groups.toList.getD g {}
def State.modGroups (s : State) (st : Fin 8) (p : Nat → Bool) (f : Nat → SmpGroup → SmpGroup) : State :=
  s.modSt st fun x => { x with groups := Vector.ofFn fun i : Fin 4 => if p i.val then f i.val x.groups[i] else x.groups[i] }

/-- The open batch a group leads, and one changed. -/
def State.batch (s : State) (st : Fin 8) (g : Nat) : Option Batch := ((s.st st).batches.toList.getD g none)
def State.setBatch (s : State) (st : Fin 8) (g : Nat) (b : Option Batch) : State :=
  if h : g < 4 then s.modSt st fun x => { x with batches := x.batches.set g b } else s

/-- The bytes of a node id. -/
def Batch.idBytes (b : Batch) : Nat := if bitAt b.flags 0 then 8 else 4

/-- The next multiple of 64. -/
def align64 (n : Nat) : Nat := (n + 63) / 64 * 64

/-! ### Faults (R219, R220) -/

/-- Why a descriptor stops: a code of class 0x04, GROUP_BIND, or a memory error in an area. -/
inductive SmpErr where
  | fault (det high addr : Nat)
  | bind (mask : Nat)
  | mem (e : MemErr) (area : Nat)
  deriving DecidableEq, Repr

/-- AREA of an address: its area number, and which of other stack, misaligned and unmapped hold. -/
def areaFault (s : State) (st : Fin 8) (area a n align : Nat) : Option SmpErr :=
  let other := a / 2 ^ 48 % 16 != st.val
  let mis := a % align != 0
  let un := !other && !inMemory s st a n
  if other || mis || un then some (.fault 0x04 (area + 8 * bit other + 16 * bit mis + 32 * bit un) a) else none

/-- The groups of the batch that `g` leads go to IDLE with FAULTED set; the leader's queue stops (R220). -/
def endFaulted (s : State) (st : Fin 8) (g : Nat) : State :=
  let own := fun i => i == g || (s.group st i).leader == some g
  let s1 := s.modGroups st own fun i x => { x with phase := 0, faulted := true, leader := if i = g then some g else none }
  let s2 := if (s.batch st g).isSome then s1.countWrap (smpPage st) 0x068 else s1
  s2.setBatch st g none

/-- A descriptor at the head of group `g`'s queue faults (R219, R220). -/
def smpFault (s : State) (st : Fin 8) (g : Nat) (d : Desc) (e : SmpErr) : State :=
  let p := smpPage st
  let s1 := match e with
    | .fault det high addr => recordFault s p 0x04 det (high % 2 ^ 16 * 2 ^ 16 + descTag d) addr
    | .bind mask => recordFault s p 0x0A 0x01 (mask * 2 ^ 16 + descTag d) 0
    | .mem e area => memFault s p e 0x10 (descTag d) area
  finish (endFaulted s1 st g) st (smpQueue g) false

/-- BATCH_ORDER: PHASE of the group and OP. -/
def orderErr (s : State) (st : Fin 8) (g op : Nat) : SmpErr := .fault 0x0B ((s.group st g).phase + 8 * op) 0

/-- A read of an area by a descriptor's plan. -/
def smpRead (s : State) (st : Fin 8) (plan area a n : Nat) : Except SmpErr (List Byte) :=
  match engRead s st plan a n with
  | .ok bs => .ok bs
  | .error e => .error (.mem e area)

/-- A write of an area. -/
def smpWrite (s : State) (st : Fin 8) (plan area a : Nat) (bs : List Byte) : State × Option SmpErr :=
  let (s1, e) := engWrite s st plan false a bs
  (s1, e.map fun x => .mem x area)

/-- Writes in turn, to the first that fails. -/
def smpWrites (st : Fin 8) (plan area : Nat) : State → List (Nat × List Byte) → State × Option SmpErr
  | s, [] => (s, none)
  | s, w :: ws =>
    match smpWrite s st plan area w.1 w.2 with
    | (s1, none) => smpWrites st plan area s1 ws
    | (s1, some e) => (s1, some e)

/-! ### The graph header (R197, R199) -/

/-- A field of the graph header. -/
def hdrField (h : List Byte) (off : Nat) : Nat := leNat (slice h off 8)

/-- The arrays of a graph: the header offset of the field that places each, its offset and its bytes. -/
def graphArrays (h : List Byte) : List (Nat × Nat × Nat) :=
  let flags := (h.getD 2 0).toNat
  let n := hdrField h 16
  [(24, hdrField h 24, 8 * (hdrField h 8 + 1)), (32, hdrField h 32, n * (if bitAt flags 0 then 8 else 4))] ++
  (if bitAt flags 1 then [(40, hdrField h 40, 2 * n)] else []) ++
  (if bitAt flags 2 then [(48, hdrField h 48, 8 * n)] else [])

/-- Two byte ranges share a byte. -/
def bytesMeet (a n b m : Nat) : Bool := n != 0 && m != 0 && a < b + m && b < a + n

/-- The header's first failing field (GRAPH_HDR): its byte offset. -/
def hdrBad (h : List Byte) : Option Nat :=
  let flags := (h.getD 2 0).toNat
  let arr := graphArrays h
  let placed := fun (off : Nat) (present : Bool) =>
    if present then
      match arr.find? fun x => x.1 == off with
      | some x => hdrField h off % 8 != 0 || bytesMeet x.2.1 x.2.2 0 64 ||
          arr.any fun y => decide (y.1 < off) && bytesMeet x.2.1 x.2.2 y.2.1 y.2.2
      | none => false
    else hdrField h off != 0
  if leNat (slice h 0 2) ≠ 1 then some 0
  else if 8 ≤ flags then some 2
  else if leNat (slice h 3 5) ≠ 0 then some 3
  else if bitAt flags 0 = false ∧ 0xFFFFFFFF < hdrField h 8 then some 8
  else if placed 24 true then some 24
  else if placed 32 true then some 32
  else if placed 40 (bitAt flags 1) then some 40
  else if placed 48 (bitAt flags 2) then some 48
  else if hdrField h 56 ≠ 0 then some 56
  else none

/-- A graph header read and checked (R199): its bytes. -/
def readGraph (s : State) (st : Fin 8) (plan a : Nat) : Except SmpErr (List Byte) :=
  match smpRead s st plan 0 a 64 with
  | .error e => .error e
  | .ok h =>
    match hdrBad h with
    | some off => .error (.fault 0x03 off (a + off))
    | none =>
      match (graphArrays h).find? fun x => x.2.2 != 0 && !inMemory s st (a + x.2.1) x.2.2 with
      | some x => .error (.fault 0x04 32 (a + x.2.1))
      | none => .ok h

/-! ### Starting (R194, R195, R201) -/

/-- The head of a group's queue, where it is in flight and the group may work on it: not stopped by a fault, and not serving
another group's batch. -/
def smpHead (s : State) (st : Fin 8) (g op : Nat) : Option Entry :=
  match (s.queue st (smpQueue g)).first with
  | some e =>
    let x := s.group st g
    if e.inFlight && descOp e.desc == op && !x.faulted && (x.leader == none || x.leader == some g) then some e else none
  | none => none

/-- A sampler row: its body on the head of the queue. -/
def smpRow (op : Nat) (body : State → Fin 8 → Nat → Entry → State) (st : Fin 8) (g : Fin 4) (s : State) :
    Host.Outcome State Fault Refusal :=
  if s.has st then .next (match smpHead s st g.val op with | some e => if s.clocked then body s st g.val e else s | none => s)
  else .fault .absentStack

/-- The result of a descriptor's body: finished cleanly, or faulted. -/
def smpEnd (st : Fin 8) (g : Nat) (d : Desc) (r : State × Option SmpErr) : State :=
  match r.2 with
  | some e => smpFault r.1 st g d e
  | none => finish r.1 st (smpQueue g) true

/-! ### SMP_OPEN -/

/-- The lowest group a mask names. -/
def lowestGroup (m : Nat) : Nat := ((List.range 4).find? fun i => m.testBit i).getD 4

/-- The clear of a dedup table (R202). -/
def clearTable (s : State) (st : Fin 8) (plan a n : Nat) : State × Option SmpErr :=
  match regionCheck s st plan true false a n with
  | some e => (s, some (.mem e 1))
  | none => (zeroRange s a n, none)

/-- The batch an OPEN begins, from the descriptor, the graph header and what was latched at acceptance (R196). -/
def newBatch (d : Desc) (h : List Byte) (latch : List DWord) : Batch :=
  let a := descBits d 1 51 0
  { groups := BitVec.ofNat 4 (descBits d 3 28 25), tag := descBits d 3 47 32,
    tidBase := BitVec.ofNat 32 (descBits d 0 63 32), graph := a, flags := (h.getD 2 0).toNat, nnode := hdrField h 8,
    nedge := hdrField h 16, rowptr := a + hdrField h 24, col := a + hdrField h 32, weight := a + hdrField h 40,
    pfx := a + hdrField h 48, dedup := descBits d 2 51 0, log2 := descBits d 2 56 52, nmax := descBits d 3 24 0,
    step := latch.getD 2 0, key := (latch.getD 1 0 : BitVec 64) ++ (latch.getD 0 0 : BitVec 64),
    evalKey := latch.getD 3 0 == 1 }

/-- An OPEN that starts (R194 to R202). -/
def openBatch (s : State) (st : Fin 8) (g : Nat) (e : Entry) : State × Option SmpErr :=
  let d := e.desc
  let plan := e.plan.toNat
  let m := descBits d 3 28 25
  let log2 := descBits d 2 56 52
  let nmax := descBits d 3 24 0
  let table := 16 * 2 ^ log2
  let unbound := (List.range 4).foldl (fun n i =>
    if m.testBit i && s.fld (smpPage st) (0x050 + 4 * i) 15 0 != plan then n + 2 ^ i else n) 0
  if lowestGroup m ≠ g ∨ (s.batch st g).isSome then (s, some (orderErr s st g 1))
  else if unbound ≠ 0 then (s, some (.bind unbound))
  else match areaFault s st 0 (descBits d 1 51 0) 64 64, areaFault s st 1 (descBits d 2 51 0) table 64 with
  | some f, _ => (s, some f)
  | none, some f => (s, some f)
  | none, none =>
    if log2 < Nat.clog 2 (2 * nmax) then (s, some (.fault 0x0C log2 0))
    else match readGraph s st plan (descBits d 1 51 0) with
    | .error f => (s, some f)
    | .ok h =>
      let b := newBatch d h e.latch
      let (s1, f) := if bitAt (descWord d 3).toNat 29 then clearTable s st plan b.dedup table else (s, none)
      match f with
      | some f => (s1, some f)
      | none => ((s1.modGroups st (fun i => m.testBit i) fun _ x =>
          { x with phase := 1, leader := some g, faulted := false }).setBatch st g (some b), none)

/-- Every group an OPEN names is IDLE. -/
def groupsIdle (s : State) (st : Fin 8) (m : Nat) : Bool :=
  (List.range 4).all fun i => !m.testBit i || (s.group st i).phase == 0

/-- SMP_OPEN: it waits for its groups, unless it breaks the batch order. -/
def execSmpOpen (st : Fin 8) (g : Fin 4) (s : State) : Host.Outcome State Fault Refusal :=
  smpRow 1 (fun s st g e =>
    let m := descBits e.desc 3 28 25
    if lowestGroup m = g ∧ (s.batch st g).isSome = false ∧ groupsIdle s st m = false then s
    else smpEnd st g e.desc (openBatch s st g e)) st g s

/-! ### The dedup table (R202) -/

/-- An id's home slot. -/
def Batch.home (b : Batch) (id : Nat) : Nat := (id * 0x9E3779B97F4A7C15 % 2 ^ 64) >>> (64 - b.log2)

/-- The search for an id from a slot: its local index, or the free slot it ends at; none where every slot is taken. -/
def probe (s : State) (st : Fin 8) (plan : Nat) (b : Batch) (id : Nat) : Nat → Nat → Except SmpErr (Option (Nat ⊕ Nat))
  | 0, _ => .ok none
  | n + 1, slot =>
    match smpRead s st plan 1 (b.dedup + 16 * slot) 16 with
    | .error e => .error e
    | .ok bs =>
      if leNat (slice bs 12 2) ≠ b.tag then .ok (some (.inr slot))
      else if leNat (slice bs 0 8) = id then .ok (some (.inl (leNat (slice bs 8 3))))
      else probe s st plan b id n ((slot + 1) % 2 ^ b.log2)

/-- An id's local index, with whether it is new; a new one is written to the table (R202, R203, R210). A table full of stale
slots, against which R202 warns, gives a free value. `h` is the hop for NODE_CAP. -/
def numberNode (st : Fin 8) (plan h : Nat) (s : State) (b : Batch) (id : Nat) :
    State × Except SmpErr (Batch × Nat × Bool) :=
  match probe s st plan b id (2 ^ b.log2) (b.home id) with
  | .error e => (s, .error e)
  | .ok (some (.inl k)) => (s, .ok (b, k, false))
  | .ok none => let (v, s1) := s.drawFree; (s1, .ok (b, v.toNat % 2 ^ 24, false))
  | .ok (some (.inr slot)) =>
    if b.nmax ≤ b.numbered then (s, .error (.fault 0x09 h 0))
    else
      let (s1, e) := smpWrite s st plan 1 (b.dedup + 16 * slot)
        (leBytes id 8 ++ leBytes b.numbered 4 ++ leBytes b.tag 2 ++ [0, 0])
      match e with
      | some f => (s1, .error f)
      | none => (s1, .ok ({ b with numbered := b.numbered + 1, nodes := b.nodes ++ [id] }, b.numbered, true))

/-- Ids numbered in order: each one's local index and whether it is new. -/
def numberAll (st : Fin 8) (plan h : Nat) : State → Batch → List Nat → List (Nat × Bool) →
    State × Except SmpErr (Batch × List (Nat × Bool))
  | s, b, [], acc => (s, .ok (b, acc))
  | s, b, id :: ids, acc =>
    match numberNode st plan h s b id with
    | (s1, .error e) => (s1, .error e)
    | (s1, .ok (b1, k, new)) => numberAll st plan h s1 b1 ids (acc ++ [(k, new)])

/-- An invalid node id (R199). -/
def Batch.invalid (b : Batch) (id : Nat) : Bool := b.nnode ≤ id || id == 2 ^ (8 * b.idBytes) - 1

/-! ### Frontier blocks (R211, R212) -/

/-- What a frontier header says beyond its batch. -/
structure BlockHdr where
  hop : Nat
  flags : Nat
  ndst : Nat
  dstFirst : Nat
  nnew : Nat
  newFirst : Nat
  fanout : Nat
  nrec : Nat
  rptr : Nat
  rec_ : Nat
  ew : Nat
  ep : Nat
  node : Nat
  trunc : Nat
  isolated : Nat
  invalid : Nat
  dups : Nat

/-- The header's 128 bytes (R211). -/
def BlockHdr.bytes (x : BlockHdr) (b : Batch) : List Byte :=
  leBytes 1 2 ++ leBytes x.hop 1 ++ leBytes x.flags 1 ++ leBytes x.ndst 4 ++ leBytes x.dstFirst 4 ++ leBytes x.nnew 4 ++
  leBytes x.newFirst 4 ++ leBytes x.fanout 2 ++ leBytes b.tag 2 ++ leBytes x.nrec 8 ++ leBytes x.rptr 8 ++
  leBytes x.rec_ 8 ++ leBytes x.ew 8 ++ leBytes x.ep 8 ++ leBytes x.node 8 ++ leBytes x.trunc 8 ++ leBytes x.isolated 4 ++
  leBytes x.invalid 4 ++ leBytes x.dups 4 ++ leBytes 0 4 ++ leBytes b.step.toNat 8 ++ leBytes b.tidBase.toNat 4 ++
  leBytes (bit b.evalKey) 1 ++ List.replicate 19 0

/-- A block written after its first 8 bytes were zeroed: its arrays, then its header. -/
def writeBlock (st : Fin 8) (plan out : Nat) (s : State) (b : Batch) (arrays : List (Nat × List Byte)) (h : BlockHdr) :
    State × Option SmpErr :=
  smpWrites st plan 3 s (((arrays.filter fun x => x.2 != []).map fun x => (out + x.1, x.2)) ++ [(out, h.bytes b)])

/-- The counts of a descriptor, and INVALID_SEEN. -/
def smpCounts (s : State) (st : Fin 8) (new invalid isolated dups trunc : Nat) : State :=
  let p := smpPage st
  let s1 := ((((s.countSat p 0x07C new).countSat p 0x080 invalid).countSat p 0x084 isolated).countSat p 0x088 dups).countSat
    p 0x08C trunc
  if invalid = 0 then s1 else raiseEvt s1 p 6

/-- The start of a block (R212): its area and size are checked and its first 8 bytes zeroed. -/
def startBlock (s : State) (st : Fin 8) (plan h out size avail : Nat) : State × Option SmpErr :=
  match areaFault s st 3 out (max size 1) 64 with
  | some f => (s, some f)
  | none => if avail < size then (s, some (.fault 0x0A h out)) else smpWrite s st plan 3 out (List.replicate 8 0)

/-! ### SMP_SEEDS (R203) -/

/-- A SEEDS that starts. -/
def seedBatch (s : State) (st : Fin 8) (g : Nat) (e : Entry) : State × Option SmpErr :=
  let d := e.desc
  let plan := e.plan.toNat
  let n := descBits d 0 52 32
  let out := descBits d 2 51 0
  match s.batch st g with
  | none => (s, some (orderErr s st g 2))
  | some b =>
    let nb := b.idBytes
    let nodeOff := align64 (128 + 4 * n)
    let size := align64 (nodeOff + nb * min n b.nmax)
    if (s.group st g).phase ≠ 1 then (s, some (orderErr s st g 2))
    else match areaFault s st 2 (descBits d 1 51 0) (n * nb) 8 with
    | some f => (s, some f)
    | none =>
      match startBlock s st plan 0 out size (descBits d 3 39 0) with
      | (s1, some f) => (s1, some f)
      | (s1, none) =>
        match smpRead s1 st plan 2 (descBits d 1 51 0) (n * nb) with
        | .error f => (s1, some f)
        | .ok bs =>
          let ids := (List.range n).map fun i => leNat (slice bs (i * nb) nb)
          match numberAll st plan 0 s1 b ids [] with
          | (s2, .error f) => (s2, some f)
          | (s2, .ok (b1, ks)) =>
            let dups := (ks.filter fun k => !k.2).length
            let bad := (ids.filter b.invalid).length
            let hdr : BlockHdr := ⟨0, bitsOf b.flags 0 0, n, 0, b1.numbered, 0, 0, 0, 128, 0, 0, 0, nodeOff, 0, 0, bad, dups⟩
            match writeBlock st plan out s2 b1 [(128, ks.flatMap fun k => leBytes k.1 4),
                (nodeOff, b1.nodes.flatMap fun i => leBytes i nb)] hdr with
            | (s3, some f) => (s3, some f)
            | (s3, none) =>
              (((smpCounts s3 st b1.numbered bad 0 dups 0).modGroups st (fun i => b.groups.getLsbD i) fun _ x =>
                { x with phase := 2 }).setBatch st g (some b1), none)

/-- SMP_SEEDS. -/
def execSmpSeeds (st : Fin 8) (g : Fin 4) (s : State) : Host.Outcome State Fault Refusal :=
  smpRow 2 (fun s st g e => smpEnd st g e.desc (seedBatch s st g e)) st g s

/-! ### Drawing (R205 to R209) -/

/-- u of R205 for tensor id `tid`, node `id` and draw `j`. -/
def smpDraw (key : BitVec 128) (tid : Word) (id j : Nat) : Nat :=
  bitsOf (wholeDraw key tid (0x1000 + j / 2) id) (64 * (j % 2) + 63) (64 * (j % 2))

/-- Floyd's method (R206): `f` distinct places of `d`, for d > f. -/
def floydPlaces (draw : Nat → Nat) (d f : Nat) : List Nat :=
  ((List.range f).foldl (fun (acc : List Nat) k =>
    let i := d - f + k
    let r := draw k * (i + 1) / 2 ^ 64
    (if acc.contains r then i else r) :: acc) []).mergeSort (fun a b => decide (a ≤ b))

/-- An entry of PREFIX, checked against its neighbours read (R199). -/
def readPfx (s : State) (st : Fin 8) (plan : Nat) (b : Batch) (q : Nat) : Except SmpErr Nat :=
  match smpRead s st plan 0 (b.pfx + 8 * q) 8 with
  | .ok bs => .ok (leNat bs)
  | .error e => .error e

/-- The least q in lo to hi − 1 whose PREFIX exceeds `t` (R207): `low` is the entry before lo that was read, `top` that at
hi − 1. -/
def searchPfx (s : State) (st : Fin 8) (plan : Nat) (b : Batch) (t : Nat) : Nat → Nat → Nat → Nat → Nat → Except SmpErr Nat
  | 0, lo, _, _, _ => .ok lo
  | n + 1, lo, hi, low, top =>
    if hi ≤ lo + 1 then .ok lo
    else
      let m := (lo + hi) / 2 - 1
      match readPfx s st plan b m with
      | .error e => .error e
      | .ok v =>
        if v < low ∨ top < v then .error (.fault 0x07 1 (b.pfx + 8 * m))
        else if t < v then searchPfx s st plan b t n lo (m + 1) low v
        else searchPfx s st plan b t n (m + 1) hi v top

/-- The records a destination draws: edge positions with their slots, and the draws consumed; none drawn counts as isolated
(R206, R207). -/
def drawRow (s : State) (st : Fin 8) (plan : Nat) (b : Batch) (weighted : Bool) (f h id lo hi : Nat) :
    Except SmpErr (List Nat × Nat) :=
  let draw := smpDraw b.key (b.tidBase + BitVec.ofNat 32 h) id
  if weighted = false then
    if hi - lo ≤ f then .ok ((List.range (hi - lo)).map (lo + ·), 0)
    else .ok ((floydPlaces draw (hi - lo) f).map (lo + ·), f)
  else if hi = lo then .ok ([], 0)
  else match readPfx s st plan b (hi - 1) with
  | .error e => .error e
  | .ok top =>
    if 2 ^ 63 ≤ top then .error (.fault 0x07 2 (b.pfx + 8 * (hi - 1)))
    else if top = 0 then .ok ([], 0)
    else
      let ps := (List.range f).foldlM (fun (acc : List Nat) j =>
        (searchPfx s st plan b (draw j * top / 2 ^ 64) 64 lo hi 0 top).map fun p => acc ++ [p]) []
      ps.map fun l => (l, f)

/-- A record drawn: its destination's local index and id, its slot, its edge position, its source and whether it repeats an
edge. -/
structure Record where
  dst : Nat
  did : Nat
  slot : Nat
  pos : Nat
  src : Nat
  repeat_ : Bool
  deriving DecidableEq, Repr

/-- The draws of a hop: records, INVALID, ISOLATED and draws consumed. -/
structure HopDraw where
  recs : List Record := []
  invalid : Nat := 0
  isolated : Nat := 0
  draws : Nat := 0

/-- The records of one destination (R204 to R208). -/
def drawNode (s : State) (st : Fin 8) (plan : Nat) (b : Batch) (weighted : Bool) (f h dst id : Nat) (acc : HopDraw) :
    Except SmpErr HopDraw :=
  if b.invalid id then .ok { acc with invalid := acc.invalid + 1 }
  else match smpRead s st plan 0 (b.rowptr + 8 * id) 16 with
  | .error e => .error e
  | .ok bs =>
    let lo := leNat (slice bs 0 8)
    let hi := leNat (slice bs 8 8)
    if b.nedge < hi then .error (.fault 0x05 1 (b.rowptr + 8 * (id + 1)))
    else if hi < lo then .error (.fault 0x05 0 (b.rowptr + 8 * (id + 1)))
    else match drawRow s st plan b weighted f h id lo hi with
    | .error e => .error e
    | .ok (ps, n) =>
      let recs := (ps.zipIdx).foldlM (fun (rs : List Record) x =>
        match smpRead s st plan 0 (b.col + b.idBytes * x.1) b.idBytes with
        | .error e => Except.error e
        | .ok cs =>
          let src := leNat cs
          if b.invalid src then .error (SmpErr.fault 0x06 h (b.col + b.idBytes * x.1))
          else .ok (rs ++ [(⟨dst, id, x.2, x.1, src, rs.any fun r => r.pos == x.1⟩ : Record)])) []
      recs.map fun rs => { acc with recs := acc.recs ++ rs, isolated := acc.isolated + (if ps = [] then 1 else 0),
                                    draws := acc.draws + n }

/-- A record's budget hash (R205). -/
def budgetHash (b : Batch) (h : Nat) (r : Record) : Nat :=
  smpDraw b.key (b.tidBase + BitVec.ofNat 32 (4 + h)) r.did r.slot

/-- The records a budget keeps, in their order (R209). -/
def keepBudget (b : Batch) (h budget : Nat) (rs : List Record) : List Record :=
  if budget = 0 ∨ rs.length ≤ budget then rs
  else
    let ks := rs.map fun r => (budgetHash b h r, r)
    let before := fun (x y : Nat × Record) => decide (x.1 < y.1) ||
      (x.1 == y.1 && (decide (x.2.dst < y.2.dst) || (x.2.dst == y.2.dst && decide (x.2.slot ≤ y.2.slot))))
    let kept := ((ks.mergeSort before).take budget).map (·.2)
    kept.mergeSort fun x y => decide (x.dst < y.dst) || (x.dst == y.dst && decide (x.slot ≤ y.slot))

/-- A replay record (R213). -/
def recordWord (h : Nat) (r : Record) (src : Nat) (new : Bool) : Nat :=
  r.dst + src * 2 ^ 24 + r.slot * 2 ^ 48 + (h - 1) * 2 ^ 58 + bit new * 2 ^ 60 + bit (r.src == r.did) * 2 ^ 61 +
    bit r.repeat_ * 2 ^ 62

/-! ### SMP_HOP -/

/-- A HOP that starts (R204 to R212). -/
def hopBatch (s : State) (st : Fin 8) (g : Nat) (e : Entry) : State × Option SmpErr :=
  let d := e.desc
  let plan := e.plan.toNat
  let h := descBits d 0 34 32
  let w := bitAt (descWord d 0).toNat 35
  let ew := bitAt (descWord d 0).toNat 36
  let ep := bitAt (descWord d 0).toNat 37
  let f := descBits d 0 47 38 + 1
  let out := descBits d 1 51 0
  match s.batch st g with
  | none => (s, some (orderErr s st g 3))
  | some b0 =>
    let b := { b0 with nodes := [] }
    let nd := b0.nodes.length
    let first := b0.numbered - nd
    let rb := nd * f
    let recOff := align64 (128 + 8 * (nd + 1))
    let ewOff := align64 (recOff + 8 * rb)
    let epOff := if ew then align64 (ewOff + 2 * rb) else ewOff
    let nodeOff := if ep then align64 (epOff + 8 * rb) else epOff
    let size := align64 (nodeOff + b.idBytes * min rb (b.nmax - b.numbered))
    if (s.group st g).phase ≠ h + 1 then (s, some (orderErr s st g 3))
    else if (w ∧ bitAt b.flags 2 = false) ∨ (ew ∧ bitAt b.flags 1 = false) then (s, some (.fault 0x03 2 (b.graph + 2)))
    else match startBlock s st plan h out size (descBits d 2 39 0) with
    | (s1, some x) => (s1, some x)
    | (s1, none) =>
      match (b0.nodes.zipIdx).foldlM (fun acc x => drawNode s1 st plan b w f h (first + x.2) x.1 acc) ({} : HopDraw) with
      | .error x => (s1, some x)
      | .ok dr =>
        let kept := keepBudget b h (descBits d 3 31 0) dr.recs
        let trunc := dr.recs.length - kept.length
        match numberAll st plan h s1 b (kept.map (·.src)) [] with
        | (s2, .error x) => (s2, some x)
        | (s2, .ok (b1, ks)) =>
          let words := (kept.zip ks).flatMap fun x => leBytes (recordWord h x.1 x.2.1 x.2.2) 8
          let rptr := (List.range (nd + 1)).flatMap fun i =>
            leBytes ((kept.filter fun r => decide (r.dst < first + i)).length) 8
          let weights : Except SmpErr (List Byte) := if ew then kept.foldlM (fun (acc : List Byte) r =>
              (smpRead s2 st plan 0 (b.weight + 2 * r.pos) 2).map (acc ++ ·)) [] else .ok []
          match weights with
          | .error x => (s2, some x)
          | .ok wb =>
            let dups := (kept.filter (·.repeat_)).length
            let new := b1.numbered - b.numbered
            let hdr : BlockHdr :=
              ⟨h, bitsOf b.flags 0 0 + 2 * bit ew + 4 * bit ep + 8 * bit w + 16 * bit (trunc != 0), nd, first, new,
                b.numbered, f, kept.length, 128, recOff, if ew then ewOff else 0, if ep then epOff else 0, nodeOff, trunc,
                dr.isolated, dr.invalid, dups⟩
            match writeBlock st plan out s2 b1 [(128, rptr), (recOff, words), (ewOff, wb),
                (epOff, if ep then kept.flatMap fun r => leBytes r.pos 8 else []),
                (nodeOff, b1.nodes.flatMap fun i => leBytes i b.idBytes)] hdr with
            | (s3, some x) => (s3, some x)
            | (s3, none) =>
              let p := smpPage st
              let s4 := ((smpCounts s3 st new dr.invalid dr.isolated dups trunc).countPair p 0x06C dr.draws).countPair p
                0x074 kept.length
              let s5 := if trunc = 0 then s4 else raiseEvt s4 p 5
              (((raiseEvt s5 p 4).modGroups st (fun i => b.groups.getLsbD i) fun _ x =>
                { x with phase := h + 2 }).setBatch st g (some b1), none)

/-- SMP_HOP. -/
def execSmpHop (st : Fin 8) (g : Fin 4) (s : State) : Host.Outcome State Fault Refusal :=
  smpRow 3 (fun s st g e => smpEnd st g e.desc (hopBatch s st g e)) st g s

/-! ### SMP_CLOSE (R194, R201) -/

/-- A CLOSE: the batch's groups go to IDLE, and BATCH_CLOSED is raised. -/
def closeBatch (s : State) (st : Fin 8) (g : Nat) (_e : Entry) : State × Option SmpErr :=
  match s.batch st g with
  | none => (s, some (orderErr s st g 4))
  | some b =>
    if (s.group st g).phase < 3 then (s, some (orderErr s st g 4))
    else
      let s1 := (s.modGroups st (fun i => b.groups.getLsbD i) fun _ x => { x with phase := 0, leader := none }).setBatch st g
        none
      (raiseEvt (s1.countWrap (smpPage st) 0x068) (smpPage st) 3, none)

/-- SMP_CLOSE. -/
def execSmpClose (st : Fin 8) (g : Fin 4) (s : State) : Host.Outcome State Fault Refusal :=
  smpRow 4 (fun s st g e => smpEnd st g e.desc (closeBatch s st g e)) st g s

/-! ### SMP_PREFIX (R200) -/

/-- An FP16 weight times 2^24, where it is +0, −0 or positive and finite. -/
def weightUnits (w : Nat) : Option Nat :=
  let e := bitsOf w 14 10
  if w = 0x8000 then some 0
  else if bitAt w 15 ∨ e = 31 then none
  else some (if e = 0 then w % 1024 else (1024 + w % 1024) * 2 ^ (e - 1))

/-- The prefix sums of one row's positions, from `p`, `n` of them, on a running sum. -/
def prefixRow (st : Fin 8) (plan weight pfx : Nat) : Nat → State → Nat → Nat → State × Option SmpErr
  | 0, s, _, _ => (s, none)
  | n + 1, s, p, sum =>
    match smpRead s st plan 0 (weight + 2 * p) 2 with
    | .error e => (s, some e)
    | .ok bs =>
      match weightUnits (leNat bs) with
      | none => (s, some (.fault 0x08 (leNat bs) (weight + 2 * p)))
      | some u =>
        if 2 ^ 63 ≤ sum + u then (s, some (.fault 0x07 2 (pfx + 8 * p)))
        else match smpWrite s st plan 0 (pfx + 8 * p) (leBytes (sum + u) 8) with
        | (s1, some e) => (s1, some e)
        | (s1, none) => prefixRow st plan weight pfx n s1 (p + 1) (sum + u)

/-- The rows from `row`, `n` of them. -/
def prefixRows (st : Fin 8) (plan rowptr weight pfx nedge : Nat) : Nat → State → Nat → State × Option SmpErr
  | 0, s, _ => (s, none)
  | n + 1, s, row =>
    match smpRead s st plan 0 (rowptr + 8 * row) 16 with
    | .error e => (s, some e)
    | .ok bs =>
      let lo := leNat (slice bs 0 8)
      let hi := leNat (slice bs 8 8)
      if nedge < hi then (s, some (.fault 0x05 1 (rowptr + 8 * (row + 1))))
      else if hi < lo then (s, some (.fault 0x05 0 (rowptr + 8 * (row + 1))))
      else match prefixRow st plan weight pfx (hi - lo) s lo 0 with
      | (s1, some e) => (s1, some e)
      | (s1, none) => prefixRows st plan rowptr weight pfx nedge n s1 (row + 1)

/-- A PREFIX that starts: its group is IDLE. -/
def prefixRun (s : State) (st : Fin 8) (g : Nat) (e : Entry) : State × Option SmpErr :=
  let d := e.desc
  let plan := e.plan.toNat
  let a := descBits d 1 51 0
  let first := descBits d 2 63 0
  let count := descBits d 0 63 32
  if (s.batch st g).isSome then (s, some (orderErr s st g 5))
  else match areaFault s st 0 a 64 64 with
  | some f => (s, some f)
  | none =>
    match readGraph s st plan a with
    | .error f => (s, some f)
    | .ok h =>
      if (h.getD 2 0).toNat / 2 % 4 ≠ 3 then (s, some (.fault 0x03 2 (a + 2)))
      else if hdrField h 8 < first + count then (s, some (.fault 0x04 4 first))
      else
        let (s1, f) := prefixRows st plan (a + hdrField h 24) (a + hdrField h 40) (a + hdrField h 48) (hdrField h 16) count s
          first
        match f with
        | some f => (s1, some f)
        | none => (raiseEvt s1 (smpPage st) 7, none)

/-- SMP_PREFIX. -/
def execSmpPrefix (st : Fin 8) (g : Fin 4) (s : State) : Host.Outcome State Fault Refusal :=
  smpRow 5 (fun s st g e => smpEnd st g e.desc (prefixRun s st g e)) st g s

/-! ### Command words and clears (R201, R220) -/

/-- The fields of an SMP command of an operation, each with whether its value is legal. -/
def smpFields (d : Desc) : List DescField :=
  let f := fun w hi lo (ok : Bool) => (⟨w, hi, lo, ok⟩ : DescField)
  [f 0 7 0 true, f 0 11 8 (1 ≤ descOp d && descOp d ≤ 5), f 0 31 16 true] ++
  match descOp d with
  | 1 => [f 0 63 32 true, f 1 51 0 true, f 2 51 0 true, f 2 56 52 (10 ≤ descBits d 2 56 52 && descBits d 2 56 52 ≤ 26),
      f 3 24 0 (1 ≤ descBits d 3 24 0 && descBits d 3 24 0 ≤ 16777216), f 3 28 25 (descBits d 3 28 25 != 0), f 3 29 29 true,
      f 3 47 32 (descBits d 3 47 32 != 0)]
  | 2 => [f 0 52 32 (1 ≤ descBits d 0 52 32 && descBits d 0 52 32 ≤ 1048576), f 1 51 0 true, f 2 51 0 true, f 3 39 0 true]
  | 3 => [f 0 34 32 (1 ≤ descBits d 0 34 32 && descBits d 0 34 32 ≤ 4), f 0 35 35 true, f 0 36 36 true, f 0 37 37 true,
      f 0 47 38 true, f 1 51 0 true, f 2 39 0 true, f 3 31 0 true]
  | 5 => [f 0 63 32 (descBits d 0 63 32 != 0), f 1 51 0 true, f 2 63 0 true]
  | _ => []

/-- EVT_CLR bit 0 (R220): the queue of each leader that faulted is discarded, and FAULTED clears. -/
def smpClear (s : State) (st : Fin 8) : State :=
  let s1 := (List.range 4).foldl (fun s g =>
    if (s.group st g).faulted && (s.group st g).leader == some g then discardQueue s st (smpQueue g) else s) s
  s1.modGroups st (fun i => (s1.group st i).faulted) fun i x =>
    { x with faulted := false, leader := if x.leader = some i then none else x.leader }

/-- Every batch ended, every group idle (R223). -/
def smpCleared (s : State) (st : Fin 8) : State :=
  s.modSt st fun x => { x with groups := Vector.replicate 4 {}, batches := Vector.replicate 4 none }

end Sys2Proof.Machine
end

