-- ==== Sys2Proof/Machine/Accept.lean ====
section
/-! DEFINITION. How an engine accepts a descriptor from its queue (R10, R15, R16): when it does, the command-word check, and what
it latches. -/

namespace Sys2Proof.Machine

/-! ### MX command words (R10, R92 to R104, R181) -/

/-- The rows a hold bank takes of a format and a shape's C (R98). -/
def bankLimit (fmt cols : Nat) : Nat := 65536 * 8 / (cols * max 4 (elemBits fmt))

/-- FMT_A and FMT_B form a pair of R92. -/
def fmtPair (a b : Nat) : Bool := (windowFmt a && windowFmt b) || fp32Pair a b

/-- The fields of an MX command of an operation, each with whether its value is legal. A clash is named by the first field
involved: FMT_A or FMT_B, SHAPE, ACC, BSRC or SPARSE of a STREAM, FMT of an LDB. -/
def mxFields (ab : Bool) (d : Desc) : List DescField :=
  let f := fun w hi lo (ok : Bool) => (⟨w, hi, lo, ok⟩ : DescField)
  let b := fun w hi lo => descBits d w hi lo
  let tile := f 0 42 40 (!ab || b 0 42 40 < 2)
  [f 0 7 0 true, f 0 11 8 (1 ≤ descOp d && descOp d ≤ 4), f 0 31 16 true] ++
  match descOp d with
  | 1 =>
    let fa := b 0 35 32
    let fb := b 0 39 36
    let k := b 1 51 32
    let win := windowFmt fa && windowFmt fb
    let sparse := b 0 51 51 == 1
    let acc := b 0 45 45 == 1
    let bank := b 0 46 46 == 1
    let split := k % 32 != 0
    [f 0 35 32 (fa ≤ 8 && !(isMx fa && split) && !(win && !ab && b 0 42 40 % 2 == 1) &&
        !(fp32Pair fa fb && b 0 50 50 == 1) && !(!win && b 2 9 0 != 0)),
      f 0 39 36 (fb ≤ 8 && !(isMx fb && !isMx fa && split)), tile,
      f 0 44 43 (b 0 44 43 != 3 && (!sparse || b 0 44 43 == 0)), f 0 45 45 (!acc || (!ab && b 2 9 0 == 0)),
      f 0 46 46 (if bank then b 1 31 16 == 0 && !sparse else b 0 47 47 == 0), f 0 47 47 true, f 0 49 48 (b 0 49 48 != 3),
      f 0 50 50 true, f 0 51 51 (!sparse || k % 64 == 0), f 1 15 0 true, f 1 31 16 true, f 1 51 32 (k != 0), f 2 9 0 true,
      f 2 31 16 true]
  | 2 =>
    let fmt := b 0 36 33
    let shape := b 0 38 37
    [f 0 32 32 true,
      f 0 36 33 (1 ≤ fmt && fmt ≤ 7 && (shape == 3 || b 1 28 16 ≤ bankLimit fmt (shapeOf shape).2)),
      f 0 38 37 (shape != 3), f 1 15 0 true, f 1 28 16 (b 1 28 16 != 0)]
  | 3 => [tile, f 0 44 43 (b 0 44 43 != 3), f 0 45 45 (!(ab && b 0 45 45 == 1)), f 1 15 0 true]
  | 4 => [tile]
  | _ => []

/-! ### Engines -/

/-- KIND of a queue's descriptors (R15), and the class of its engine's faults. -/
def kindOf : Blk → Nat
  | .mx => 0x10 | .vc => 0x11 | .smp => 0x20 | .bead => 0x21 | .fil => 0x22 | .xfr => 0x30 | .jk => 0x40 | _ => 0
def classOf : Blk → Nat
  | .mx | .vc => 0x01 | .smp => 0x04 | .bead | .fil => 0x05 | .xfr => 0x02 | _ => 0x07

/-- The fields of a descriptor on a queue. -/
def fieldsOn (s : State) (st : Fin 8) (p : Page) (q : Nat) (d : Desc) : List DescField :=
  match p.blk with
  | .mx => mxFields (abMode s st p.inst) d
  | .vc => vcFields d
  | .smp => smpFields d
  | .bead => beadFields d
  | .fil => filFields d
  | .xfr => xfrFields (q - 0xB0) d
  | _ => jkFields d

/-- The domain of an engine is ON (R452). -/
def engineOn (s : State) (st : Fin 8) (p : Page) : Bool :=
  match p.blk with
  | .mx | .vc => coreOn s st p.inst
  | .smp | .bead | .fil => s.domOn st 4
  | .xfr => s.domOn st 6
  | _ => s.domOn st 5

/-- A fault stops the queue until its clearing write (R32): the page's, a transfer channel's (R307), a sampler leader's
(R220). -/
def queueStopped (s : State) (st : Fin 8) (p : Page) (q : Nat) : Bool :=
  match p.blk with
  | .xfr => bitAt (s.st st).xfrStop.toNat (q - 0xB0)
  | .smp => (s.group st (q - 0x80)).faulted && (s.group st (q - 0x80)).leader == some (q - 0x80)
  | _ => s.faulted p

/-- Whether an engine accepts descriptors of a queue now: enabled, not quiesced or in a soft reset, powered, clocked, not stopped by
a fault, and its core not being swapped. -/
def queueAccepts (s : State) (st : Fin 8) (p : Page) (q : Nat) : Bool :=
  s.fld p 0x008 2 0 == 1 && engineOn s st p && s.clocked && !queueStopped s st p q &&
    !((p.blk == .mx || p.blk == .vc) && s.swapping st 4 p.inst)

/-- The unit that a queued descriptor needs is free. The feed takes one STREAM ahead of the pass it is issuing; loader and drainer take
one command each (R105); a vector chain fetches runs while others complete (R164); any other queue has one in flight. -/
def unitFree (s : State) (st : Fin 8) (p : Page) (q : Nat) (e : Entry) : Bool :=
  let fl := (s.queue st q).entries.filter Entry.inFlight
  let ops := fun (os : List Nat) => fl.filter fun x => os.contains (descOp x.desc)
  match p.blk with
  | .mx =>
    match descOp e.desc with
    | 1 => match ops [1] with
      | [] => true
      | [x] => x.st == .running
      | _ => false
    | 2 => (ops [2]).isEmpty
    | 3 | 4 => (ops [3, 4]).isEmpty
    | _ => true
  | .vc => true
  | _ => fl.isEmpty

/-- A descriptor waits to be accepted: a vector chain run for the key that it must latch (R267), an OPEN for its groups and its
key (R194, R196). -/
def acceptHeld (s : State) (st : Fin 8) (p : Page) (q : Nat) (d : Desc) : Bool :=
  let k := (s.st st).keys
  let deriving_ := if (s.st st).clp.state = .eval then k.deriveE.isSome else k.deriveS.isSome
  match p.blk, descOp d with
  | .vc, 1 => if s.flag (stackPage st .rng p.inst) 0x040 0 then k.deriveL else deriving_
  | .smp, 1 =>
    let m := descBits d 3 28 25
    deriving_ || (lowestGroup m == q - 0x80 && (s.batch st (q - 0x80)).isNone && !groupsIdle s st m)
  | _, _ => false

/-! ### Rejection -/

/-- The descriptor at place `i` of a queue is rejected with a fault of its engine (R16): nothing starts. A sampler's batch ends
(R220), and a transfer channel stops (R307). -/
def rejectAt (s : State) (st : Fin 8) (p : Page) (q i : Nat) (d : Desc) (cls det high : Nat) : State :=
  let s1 := recordFault s p cls det (high % 2 ^ 16 * 2 ^ 16 + descTag d) 0
  let s2 := match p.blk with
    | .mx => returnAdvance s1 st p.inst ((mxFirst s1 st p.inst [1]).map (·.2))
    | .smp => endFaulted s1 st (q - 0x80)
    | .xfr => s1.modSt st fun x => { x with xfrStop := x.xfrStop ||| BitVec.ofNat 8 (2 ^ (q - 0xB0)) }
    | _ => s1
  finishAt s2 st q i false

/-- A dead core's command: UNIT_DEAD (R428). FAULT_INFO, which the spec does not state, is a free value (assumption 2). -/
def rejectDead (s : State) (st : Fin 8) (p : Page) (q i : Nat) : State :=
  let (v, s1) := s.drawFree
  finishAt (recordFault s1 p 0x0A 0x40 (v.toNat % 2 ^ 32) 0) st q i false

/-! ### Acceptance -/

/-- The entry at place `i` of a queue is accepted, with what its engine latches. -/
def acceptAt (s : State) (st : Fin 8) (q i : Nat) (latch : List DWord) : State :=
  s.modQueue st q fun x =>
    { x with entries := x.entries.modify i fun e => { e with st := .accepted, latch := latch } }

/-- The halves of a key. -/
def keyHalves (k : BitVec 128) : List DWord := [k.extractLsb' 0 64, k.extractLsb' 64 64]

/-- HAZARD_WAIT is raised when some command in flight begins to wait (R113, R115). -/
def hazardRise (s0 s : State) (st : Fin 8) (c : Nat) : State :=
  if mxHazard s st c && !mxHazard s0 st c then raiseEvt s (mxPage st c) 7 else s

/-- An OPEN latches its key material, which SMP_STEP shows (R196). -/
def acceptOpen (s : State) (st : Fin 8) (q i : Nat) : State :=
  let c := (s.st st).clp
  let eval := c.state == .eval
  let t := if eval then c.evals else c.step
  acceptAt (s.setPair (smpPage st) 0x060 t.toNat) st q i (keyHalves (drawKey (s.st st)) ++ [t, BitVec.ofNat 64 (bit eval)])

/-- A descriptor whose command word is good. -/
def acceptGood (s : State) (st : Fin 8) (p : Page) (q i : Nat) (d : Desc) : State :=
  match p.blk with
  | .mx =>
    let fa := descBits d 0 35 32
    let fb := descBits d 0 39 36
    if descOp d = 1 ∧ fmtPair fa fb = false then rejectAt s st p q i d 0x01 0x08 (fa + 16 * fb)
    else hazardRise s (acceptAt s st q i []) st p.inst
  | .vc =>
    if descOp d = 1 then
      let lane := bit (s.flag (stackPage st .rng p.inst) 0x040 0)
      acceptAt s st q i (keyHalves (drawKey (s.st st)) ++ [BitVec.ofNat 64 lane])
    else acceptAt s st q i []
  | .smp => if descOp d = 1 then acceptOpen s st q i else acceptAt s st q i []
  | .bead => match beadAccept s st d with
    | .ok l => acceptAt s st q i l
    | .error e => tabFault s st q d e
  | .fil => match filAccept s st d with
    | .ok l => acceptAt s st q i l
    | .error e => tabFault s st q d e
  | _ => acceptAt s st q i []

/-- The command-word check of R16, in its order, and acceptance. -/
def acceptEntry (s : State) (st : Fin 8) (p : Page) (q i : Nat) (d : Desc) : State :=
  let cls := classOf p.blk
  if (p.blk = .mx ∨ p.blk = .vc) ∧ coreDead s st p.inst = true then rejectDead s st p q i
  else if descBits d 3 63 48 ≠ (descCheck d).toNat then rejectAt s st p q i d cls 0x02 (descCheck d).toNat
  else if descBits d 0 7 0 ≠ kindOf p.blk then rejectAt s st p q i d cls 0x01 0
  else match firstOffending d (fieldsOn s st p q d) with
    | some (w, b) => rejectAt s st p q i d cls 0x01 (w + 4 * b)
    | none => acceptGood s st p q i d

/-- DESCRIPTOR_ACCEPT: the engine of a queue takes the first descriptor that waits in it, once it can. -/
def descriptorAccept (s : State) (st : Fin 8) (q : Nat) : State :=
  match queuePage st q with
  | none => s
  | some p =>
    match (s.queue st q).entries.zipIdx.find? fun e => e.1.st == .queued with
    | none => s
    | some (e, i) =>
      if queueAccepts s st p q && unitFree s st p q e && !acceptHeld s st p q e.desc then acceptEntry s st p q i e.desc
      else s

/-- DESCRIPTOR_ACCEPT. -/
def execDescriptorAccept (st : Fin 8) (q : Nat) (s : State) : Host.Outcome State Fault Refusal :=
  if s.has st then .next (descriptorAccept s st q) else .fault .absentStack

end Sys2Proof.Machine
end

