-- ==== Sys2Proof/Machine/Mailbox.lean ====
section
/-! DEFINITION. Mailboxes and doorbells (R380 to R394): sends, reads, withdrawals and notices. A row's access is the write
or read of the register it names, which every requester may make (R390). -/

namespace Sys2Proof.Machine

/-- The requester index of R34. -/
def requesterIndex : Requester → Nat
  | .bezel => 0
  | .mgmt => 1
  | .seq n => 2 + n.val
  | .host => 6
  | .jukan _ => 7

/-- The MBX page that serves a mailbox. -/
def mbxPage (st : Fin 8) (mb : Nat) : Page := stackPage st .mbx (mb / 16)

/-- A session context, and one changed (R348). -/
def State.sess (s : State) (st : Fin 8) (ctx : Nat) : Session := Sparse.get (fun _ => {}) (s.st st).sess ctx
def State.modSess (s : State) (st : Fin 8) (ctx : Nat) (f : Session → Session) : State :=
  s.modSt st fun x => { x with sess := Sparse.set (fun _ => {}) x.sess ctx (f (Sparse.get (fun _ => {}) x.sess ctx)) }

/-- The stack and context that a session id of the part names (R347), in a populated stack. -/
def sidTarget (s : State) (sid : Nat) : Option (Fin 8 × Nat) :=
  if h : sid / 2 ^ 15 < 8 then
    if s.has (sid / 2 ^ 15) then some (⟨sid / 2 ^ 15, h⟩, sid % 2 ^ 15) else none
  else none

/-- The OPEN session of a role that a session id names. -/
def openSess (s : State) (sid role : Nat) : Option (Fin 8 × Nat) :=
  match sidTarget s sid with
  | some (i, c) => if (s.sess i c).st = .opened ∧ (s.sess i c).role = role then some (i, c) else none
  | none => none

/-- The OPEN HOST session of an MBX page (R380, R392). -/
def hostSess (s : State) (p : Page) : Option (Fin 8 × Nat) := openSess s (s.fld p 0x04C 17 0) 1

/-- A mailbox is ready (R380). -/
def boxReady (s : State) (st : Fin 8) (mb : Nat) : Bool :=
  if h : mb < 4 then (s.seq st ⟨mb, h⟩).st == .running
  else if mb < 16 then (s.st st).pwr.firmware && !(s.st st).pwr.held
  else if mb < 20 then !(s.st st).pwr.held && s.domOn st 7
  else (hostSess s (mbxPage st mb)).isSome

/-- Whether a requester is the mailbox's receiver (R380): a read over Jukan is the host's where its originator is. -/
def isReceiver (r : Requester) (mb : Nat) : Bool :=
  if mb < 4 then (match r with | .seq n => n.val == mb | _ => false)
  else if mb < 16 then r == .mgmt
  else if mb < 20 then r == .bezel
  else r == .host || r == .jukan .host

/-- The home mailbox of a sender and the stack it lies in, none for the host (R380, R385). -/
def homeBox (st : Fin 8) : Requester → Option (Fin 8 × Nat)
  | .bezel => some (st, 16)
  | .mgmt => some (st, 4)
  | .seq n => some (st, n.val)
  | .host => none
  | .jukan (.bezel i) => some (i, 16)
  | .jukan (.mgmt i) => some (i, 4)
  | .jukan (.seq i n) => some (i, n.val)
  | .jukan .host => none

/-- A notice to the sender of the word of mailbox `mb` (R385): bit 31 EMPTIED, 30 TIMEOUT or 29 LOST of its home mailbox,
or for the host event 4, 5 or 6 of the page of the mailbox written. -/
def notice (s : State) (st : Fin 8) (mb : Nat) (sender : Requester) (bit : Nat) : State :=
  match homeBox st sender with
  | some (i, h) => ringBits s i h (BitVec.ofNat 32 (2 ^ bit))
  | none => setEvt s (mbxPage st mb) (35 - bit)

/-- The waiting MBX_WR replies of a mailbox are settled (R391): with the status fixed at the write, or with another. -/
def settleReplies (s : State) (st : Fin 8) (mb : Nat) (status : Option Nat) : State :=
  s.stacksIn.foldl (fun s i => s.modSt i fun x => { x with replies := x.replies.map fun w =>
    if w.mb = mb then
      { w with parts := w.parts.map fun p =>
          if p.stk = st.val ∧ p.ready = none then { p with ready := some (status.getD p.status) } else p }
    else w }) s

/-- A send (R381): it stores the word or replaces the one held, rings MAIL, and wakes the receiver (R389). -/
def mboxSend (s : State) (r : Requester) (st : Fin 8) (mb : Nat) (v : Word) : State :=
  let b := s.box st mb
  let p := mbxPage st mb
  let s1 := s.modBox st mb fun b =>
    { b with word := v, full := true, collision := b.collision || b.full, sender := requesterIndex r, origin := r }
  let s2 := s1.countWrap p 0x050
  let s3 := if b.full then notice (s2.countSat p 0x054) st mb b.origin 29
    else if 20 ≤ mb then setEvt s2 p 3 else s2
  wakeBox (ringBits s3 st mb 1) st mb

/-- A read of MBX_DATA (R382): by the receiver it empties the mailbox. -/
def mboxRead (s : State) (r : Requester) (st : Fin 8) (mb : Nat) : Word × State :=
  let b := s.box st mb
  if b.full ∧ isReceiver r mb then
    let s1 := settleReplies (s.modBox st mb fun b => { b with full := false }) st mb none
    (b.word, notice s1 st mb b.origin 31)
  else (b.word, s)

/-- MBX_SEND (R381). -/
def execMbxSend (r : Requester) (st : Fin 8) (mb : Fin 64) (v : Word) (s : State) : Host.Outcome State Fault Refusal :=
  if s.has st then .next (mboxSend s r st mb v) else .fault .absentStack

/-- MBX_RECEIVE (R382): a read waits while the CTL domain is down (R389). -/
def execMbxReceive (r : Requester) (st : Fin 8) (mb : Fin 64) (s : State) : Host.Outcome State Fault Refusal :=
  if s.has st then
    .next (if s.domOn st 7 then let (v, s1) := mboxRead s r st mb; s1.send (.value r v) else s)
  else .fault .absentStack

/-- MBX_TIMEOUT (R384): the timer of a mailbox that is FULL and not ready reaches MBX_CFG.TIMEOUT, and the word is
withdrawn. -/
def execMbxTimeout (st : Fin 8) (mb : Fin 64) (s : State) : Host.Outcome State Fault Refusal :=
  if s.has st then
    let b := s.box st mb
    .next (if b.full ∧ boxReady s st mb = false then
      let s1 := s.modBox st mb fun b => { b with full := false, word := 0, timeout := true }
      notice (settleReplies (s1.countSat (mbxPage st mb) 0x058) st mb (some 0x0B)) st mb b.origin 30
    else s)
  else .fault .absentStack

/-- The mailboxes of a page at their After reset values (R394): the words go without a notice, and no reply to an MBX_WR
that waits for one of them is sent. -/
def mbxReset (s : State) (st : Fin 8) (page : Nat) : State :=
  let s1 := s.modSt st fun x => { x with mbx := Sparse.keep (fun k => k / 16 != page) x.mbx }
  s1.stacksIn.foldl (fun s i => s.modSt i fun x => { x with replies := x.replies.filter fun w =>
    !(w.mb / 16 == page && w.parts.any fun p => p.stk == st.val && p.ready.isNone) }) s1

/-- The RO views of an MBX page (R393): MBX_FULL and MBX_PENDING. -/
def boxMask (s : State) (st : Fin 8) (page : Nat) (f : Mailbox → Bool) : Nat :=
  (List.range 16).foldl (fun n k => if f (s.box st (page * 16 + k)) then n + 2 ^ k else n) 0

/-- MBX_STAT of a mailbox (R393). -/
def mbxStat (s : State) (st : Fin 8) (mb : Nat) : Nat :=
  let b := s.box st mb
  bit b.full + 2 * bit b.collision + 4 * bit b.timeout + 8 * bit b.waking + 16 * bit (boxReady s st mb) +
    2 ^ 8 * b.sender

end Sys2Proof.Machine
end

