-- ==== Sys2Proof/Machine/Kxt.lean ====
section
/-! DEFINITION. Kearax Transport below its operations: the part's identity (R395, R396), links and packet sizes (R342, R347),
the peers it accepts (R353, R402, R406), keys and packets (R346, R354), and what a session sends (R355, R356). -/

namespace Sys2Proof.Machine

/-! ### Bytes and hashes (R6) -/

/-- An ASCII string. -/
def ascii (t : String) : List Byte := t.toList.map fun c => BitVec.ofNat 8 c.toNat

/-- SHAKE256 with `n` bytes of output. -/
def shake (m : List Byte) (n : Nat) : List Byte := slice (Config.shakeRaw m n) 0 n

/-- 32 bytes as a value, and back. -/
def bytes256 (v : BitVec 256) : List Byte := leBytes v.toNat 32
def val256 (bs : List Byte) : BitVec 256 := BitVec.ofNat 256 (leNat bs)

/-- `n` random bytes: open values (R395; assumption 2). -/
def freeBytes : Nat → State → List Byte × State
  | 0, s => ([], s)
  | n + 1, s =>
    let (v, s1) := s.drawFree
    let (bs, s2) := freeBytes n s1
    (BitVec.ofNat 8 v.toNat :: bs, s2)

/-! ### Identity (R395, R396, R406) -/

/-- The seed of the identity key IK, its public key and IDHASH (R395, R396). -/
def ikSeed (s : State) : List Byte := shake (bytes256 s.mod.bzl.drs ++ ascii "KX id") 32
def ikPublic (s : State) : List Byte := slice (Config.dsaPublicKey (ikSeed s)) 0 1952
def idHash (s : State) : List Byte := shake (ikPublic s) 32

/-- A signature by IK under a context string. -/
def ikSign (s : State) (m : List Byte) (ctx : List Byte) : List Byte := slice (Config.dsaSign (ikSeed s) m ctx) 0 3309

/-- Whether a key may open sessions of a role with the part (R353, R402, R406): in recovery any host; an unowned part, any
host; else the owner with every role and the peer list. -/
def peerAllowed (s : State) (ipk : List Byte) (role : Nat) : Bool :=
  let b := s.mod.bzl
  if b.recovery || b.owner.isEmpty then role == 1
  else ipk == b.owner ||
    b.peers.any fun e => e.1 == val256 (shake ipk 32) && 1 ≤ role && bitAt e.2.toNat (role - 1)

/-! ### Pages and links (R342, R347, R348) -/

def kxtPage (st : Fin 8) : Page := stackPage st .kxt
def netPage (st : Fin 8) (port : Nat) : Page := stackPage st .net port

/-- Where a per-link register is kept. -/
def linkOff (link off : Nat) : Nat := 0x800 + 0x80 * link + off
def linkReg (s : State) (st : Fin 8) (port link off : Nat) : Nat := (s.reg (netPage st port) (linkOff link off)).toNat

/-- A local port, and one changed. -/
def State.port (s : State) (st : Fin 8) (p : Nat) : NetPort := if h : p < 2 then (s.st st).ports[p] else {}
def State.modPort (s : State) (st : Fin 8) (p : Nat) (f : NetPort → NetPort) : State :=
  if h : p < 2 then s.modSt st fun x => { x with ports := x.ports.set p (f x.ports[p]) } else s

/-- Links and lanes per link of a mode, and the link rate in Mb/s (R342). -/
def modeLinks : Nat → Nat
  | 0 => 0 | 2 => 2 | 3 => 4 | _ => 1
def modeLanes : Nat → Nat
  | 0 => 0 | 1 => 8 | 2 | 4 => 4 | 3 | 5 => 2 | _ => 1
def modeRate (m : Nat) : Nat := 100000 * modeLanes m

/-- The mode a port's links run in, and the rate of a session's link. -/
def portMode (s : State) (st : Fin 8) (p : Nat) : Nat := bitsOf (s.port st p).cfg.toNat 2 0
def linkRate (s : State) (st : Fin 8) (c : Session) : Nat := modeRate (portMode s st c.port)

/-- P of R347: the most plaintext bytes a packet on a link carries. -/
def maxPayload (s : State) (st : Fin 8) (port link : Nat) : Nat := min 8192 (linkReg s st port link 0x068 - 88) / 64 * 64

/-- The session id of a context (R347). -/
def sidOf (st : Fin 8) (ctx : Nat) : Nat := st.val * 2 ^ 15 + ctx

/-- Session ranges keep their BIND and BIND_STAT at 0x900 + 4 r and 0xA00 + 4 r of the KXT page. -/
def rangeBind (s : State) (st : Fin 8) (r : Nat) : Nat := s.fld (kxtPage st) (0x900 + 4 * r) 15 0
def rangeMoving (s : State) (st : Fin 8) (r : Nat) : Bool := 2 ≤ s.fld (kxtPage st) (0xA00 + 4 * r) 2 0

/-- The lowest free context of a range. -/
def freeInRange (s : State) (st : Fin 8) (r : Nat) : Option Nat :=
  ((List.range 512).find? fun i => (s.sess st (512 * r + i)).st == .closed).map fun i => 512 * r + i

/-- The lowest free context of the ranges bound to a plan that take new work (R350). In recovery no firmware has bound any, and
the one session takes the lowest context (R402). -/
def freeContext (s : State) (st : Fin 8) (plan : Nat) : Option Nat :=
  if s.mod.bzl.recovery then
    if (s.st st).sess.all fun e => e.2.st == .closed then some 0 else none
  else (List.range 64).findSome? fun r =>
    if rangeBind s st r = plan ∧ rangeMoving s st r = false then freeInRange s st r else none

/-! ### Packets (R346, R354) -/

/-- The 24 header bytes. -/
def headerBytes (p : Packet) : List Byte :=
  leBytes p.magic.toNat 2 ++ [p.ver, p.type] ++ leBytes p.dsid.toNat 4 ++ leBytes p.pn.toNat 8 ++
    leBytes p.seq.toNat 4 ++ leBytes p.len.toNat 2 ++ [p.flags, p.frag]

/-- nonce(p) of R354. -/
def nonceOf (iv : BitVec 96) (pn : DWord) : List Byte :=
  leBytes (iv ^^^ BitVec.ofNat 96 (leNat ([0, 0, 0, 0] ++ leBytes pn.toNat 8))).toNat 12

/-- The key that follows a key (R354). -/
def nextKey (k : BitVec 256) : BitVec 256 := val256 (shake (ascii "KXT1 upd" ++ bytes256 k) 32)

/-- A plaintext packet. -/
def plainPacket (type : Byte) (dsid : Word) (frag : Nat) (body : List Byte) : Packet :=
  { magic := 0x584B, ver := 1, type := type, dsid := dsid, pn := 0, seq := 0, len := BitVec.ofNat 16 body.length,
    flags := 0, frag := BitVec.ofNat 8 frag, body := body }

/-- The key of a sender before PN `pn` (R354): at each non-zero multiple of 2^32 it is replaced. -/
def txKey (c : Session) : Session :=
  if c.pnTx.toNat % 2 ^ 32 = 0 ∧ c.pnTx ≠ 0 then { c with keyTx := nextKey c.keyTx, epochTx := !c.epochTx } else c

/-- An encrypted packet of a session is sent: it takes the next PN (R354). -/
def sendPacket (s : State) (st : Fin 8) (ctx : Nat) (type : Byte) (seq : Word) (retx : Bool) (payload : List Byte) :
    State :=
  let c := txKey (s.sess st ctx)
  let h : Packet :=
    { magic := 0x584B, ver := 1, type := type, dsid := c.peer, pn := c.pnTx, seq := seq,
      len := BitVec.ofNat 16 payload.length, flags := BitVec.ofNat 8 (bit c.epochTx + 2 * bit retx), frag := 0, body := [] }
  let body := slice (Config.gcmSeal (bytes256 c.keyTx) (nonceOf c.ivTx c.pnTx) (headerBytes h) payload) 0
    (payload.length + 16)
  (s.modSess st ctx fun _ => { c with pnTx := c.pnTx + 1 }).send (.packet st c.port c.link { h with body := body })

/-- A DATA packet is sent, or sent again with RETX (R355, R357). -/
def sendData (s : State) (st : Fin 8) (ctx : Nat) (seq : Word) (retx : Bool) (payload : List Byte) : State :=
  let pn := (s.sess st ctx).pnTx
  let s1 := sendPacket s st ctx 0x10 seq retx payload
  let s2 := s1.modSess st ctx fun c =>
    { c with sent := c.sent.map fun e => if e.seq = seq then { e with pn := pn } else e }
  if retx then s2.countPair (kxtPage st) 0x068 else s2

/-- An operation is sent on a session (R355): its packet takes the next SEQ, and waits while 1,024 are unacknowledged. -/
def sendOp (s : State) (st : Fin 8) (ctx : Nat) (payload : List Byte) : State :=
  let c := s.sess st ctx
  if 1024 ≤ c.sent.length then s.modSess st ctx fun c => { c with queued := c.queued ++ [payload] }
  else
    let s1 := s.modSess st ctx fun c =>
      { c with sent := c.sent ++ [{ seq := c.seqTx, payload := payload, pn := c.pnTx }], seqTx := c.seqTx + 1 }
    sendData s1 st ctx c.seqTx false payload

/-- Queued operations are sent while the window has room. -/
def sendQueued (st : Fin 8) (ctx : Nat) : List (List Byte) → State → State
  | [], s => s
  | p :: ps, s =>
    if 1024 ≤ (s.sess st ctx).sent.length then s
    else sendQueued st ctx ps (sendOp (s.modSess st ctx fun c => { c with queued := c.queued.tail }) st ctx p)

/-- The bytes of an operation (R359): header and data. -/
def opBytes (opc flags req status : Nat) (addr : DWord) (data : List Byte) : List Byte :=
  leBytes opc 1 ++ leBytes flags 1 ++ leBytes req 2 ++ leBytes status 2 ++ leBytes data.length 2 ++
    leBytes addr.toNat 8 ++ data

/-- The ACK of a session is sent (R356). -/
def sendAck (s : State) (st : Fin 8) (ctx : Nat) : State :=
  let c := s.sess st ctx
  let sack := (List.range 64).foldl (fun n i =>
    if c.ahead.any (fun e => e.1 == c.seqRx + 1 + BitVec.ofNat 32 i) then n + 2 ^ i else n) 0
  sendPacket (s.modSess st ctx fun c => { c with unacked := 0, ceSince := 0 }) st ctx 0x11 0 false
    (leBytes c.seqRx.toNat 4 ++ leBytes sack 8 ++ leBytes c.ceSince 4 ++ leBytes c.topPn.toNat 8)

/-! ### Receiving (R346, R351, R354) -/

/-- A packet that is not well formed: counted (R346). -/
def badPacket (s : State) (st : Fin 8) : State := s.countSat (kxtPage st) 0x064

/-- A header of an encrypted packet of a type as R346 gives it. -/
def headerOk (p : Packet) (type : Byte) : Bool :=
  p.magic == 0x584B && p.ver == 1 && p.type == type && p.flags.toNat < 4 && p.frag == 0 &&
    (type == 0x10 || p.seq == 0) && p.body.length == p.len.toNat + 16 && p.len.toNat ≤ 8192

/-- The session with its keys as the packet's EPOCH asks, and the plaintext (R354): the present key, the previous one while
it is kept, or the key that follows. -/
def openBody (c : Session) (p : Packet) : Option (Session × List Byte) :=
  let gcm := fun (k : BitVec 256) =>
    (Config.gcmOpen (bytes256 k) (nonceOf c.ivRx p.pn) (headerBytes { p with body := [] }) p.body).map
      fun bs => slice bs 0 p.len.toNat
  if bitAt p.flags.toNat 0 = c.epochRx then
    (gcm c.keyRx).map fun bs =>
      let n := c.sinceKey + 1
      ({ c with sinceKey := n, keyOld := if n < 1024 then c.keyOld else none }, bs)
  else match c.keyOld with
    | some k => (gcm k).map fun bs => (c, bs)
    | none => (gcm (nextKey c.keyRx)).map fun bs =>
        ({ c with keyOld := some c.keyRx, keyRx := nextKey c.keyRx, epochRx := !c.epochRx, sinceKey := 1 }, bs)

/-- The context a packet names that may receive it: OPEN, HS_RECV or CLOSING (R351). -/
def rxContext (s : State) (st : Fin 8) (dsid : Word) : Option Nat :=
  if dsid.toNat / 2 ^ 15 = st.val then
    let ctx := dsid.toNat % 2 ^ 15
    match (s.sess st ctx).st with
    | .opened | .hsRecv | .closing => some ctx
    | _ => none
  else none

/-- An encrypted packet is received: discarded and counted if it is not well formed or its tag fails, answered with RESET
if its context takes none (whose DSID the spec leaves open; assumption 2), and else its session and plaintext. -/
def receive (s : State) (st : Fin 8) (port link : Nat) (p : Packet) (type : Byte) : State × Option (Nat × List Byte) :=
  if headerOk p type = false then (badPacket s st, none)
  else match rxContext s st p.dsid with
    | none =>
      let (v, s1) := s.drawFree
      (s1.send (.packet st port link (plainPacket 0x14 (BitVec.ofNat 32 v.toNat) 0 [])), none)
    | some ctx =>
      match openBody (s.sess st ctx) p with
      | none => (badPacket s st, none)
      | some (c, bs) => (s.modSess st ctx fun _ => { c with topPn := if c.topPn.toNat < p.pn.toNat then p.pn else c.topPn },
          some (ctx, bs))

end Sys2Proof.Machine
end

