-- ==== Sys2Proof/Machine/Locket.lean ====
section
/-! DEFINITION. The Locket (R435 to R449): records and their CRC, grants and writes, the scan after power-up, and the
reading windows. -/

namespace Sys2Proof.Machine

/-! ### Records -/

/-- One bit of CRC-32C, reflected (R437). -/
def crc32cBit (c : Word) : Word := if c.getLsbD 0 then (c >>> 1) ^^^ 0x82F63B78 else c >>> 1

/-- One byte of CRC-32C. -/
def crc32cByte (c : Word) (b : Byte) : Word :=
  (List.range 8).foldl (fun c _ => crc32cBit c) (c ^^^ b.setWidth 32)

/-- CRC-32C of bytes: initial value and final XOR all ones (R437). -/
def crc32c (bs : List Byte) : Word := bs.foldl crc32cByte 0xFFFFFFFF ^^^ 0xFFFFFFFF

/-- Bytes of a slot, lowest address first, and a slot from its bytes. -/
def slotBytes (v : Slot64) : List Byte := leBytes v.toNat 64
def slotOf (bs : List Byte) : Slot64 := BitVec.ofNat 512 (leNat bs)

/-- A slot holds a valid record: its CRC matches and its zero fields are zero (R436, R437). -/
def validRecord (v : Slot64) : Bool :=
  let bs := slotBytes v
  crc32c (bs.take 60) == BitVec.ofNat 32 (leNat (slice bs 60 4)) && bitsOf v.toNat (27 * 8 + 7) (27 * 8 + 4) == 0 &&
    bitsOf v.toNat (31 * 8 + 7) (31 * 8 + 2) == 0

/-- SEQ of a record. -/
def recordSeq (v : Slot64) : Nat := bitsOf v.toNat 63 0

/-- A record (R436). -/
def makeRecord (seq : DWord) (r : RecReq) (boot : Nat) : Slot64 :=
  let bs := leBytes seq.toNat 8 ++ leBytes r.time.toNat 8 ++ leBytes r.pos.toNat 8 ++ leBytes r.src.type 2 ++
    leBytes r.src.inst 1 ++ leBytes (r.src.stk % 16) 1 ++ leBytes r.code.toNat 2 ++ leBytes r.dropped 1 ++
    leBytes (bit r.posValid + 2 * bit r.timeValid) 1 ++ slice r.payload 0 24 ++ leBytes (boot % 2 ^ 32) 4
  slotOf (bs ++ leBytes (crc32c bs).toNat 4)

/-- The slots and pages of the ring (R435). -/
def ringSlots : Nat := 1048576
def pageSlots : Nat := 1024

/-- A slot of the ring. -/
def Locket.slot (l : Locket) (n : Nat) : Slot64 := Sparse.get (fun _ => 0) l.ring (n % ringSlots)

/-- BOOT_COUNT of the primary Bezel. -/
def bootCount (s : State) : Nat := s.pair (stackPage 0 .bzl) 0x058

/-- LKT_OLDEST: max(BASE, LAST − 1,048,575) (R447). -/
def Locket.oldest (l : Locket) : DWord :=
  if l.last = 0xFFFFFFFFFFFFFFFF then l.base
  else BitVec.ofNat 64 (max l.base.toNat (l.last.toNat - 1048575))

/-! ### Grants and writes (R440, R441) -/

/-- The request granted next: the oldest where it has waited 1 ms, else the first in the order of R440. -/
def grantNext (aged : Bool) : List RecReq → Option RecReq
  | [] => none
  | r :: rs =>
    if aged then some r else some (rs.foldl (fun a b => if b.order < a.order then b else a) r)

/-- The list without the granted request. -/
def dropReq (r : RecReq) (rs : List RecReq) : List RecReq := rs.erase r

/-- A LOCKET record's request (R438, R441): the page remapped, the spare page, and the reason. -/
def locketNotice (s : State) (page spare reason : Nat) : State :=
  locketRequest s lktPage.source (lktPage.order) 0 0x800F (leBytes page 2 ++ leBytes spare 1 ++ leBytes reason 1)

/-- The record is stored and becomes LKT_LAST; RECORDED is raised. -/
def storeRecord (s : State) (r : RecReq) : State :=
  let seq := s.mod.lkt.next
  let rec_ := makeRecord seq r (bootCount s)
  let s1 := s.modLkt fun l =>
    { l with ring := Sparse.set (fun _ => 0) l.ring (seq.toNat % ringSlots) rec_, last := seq, next := seq + 1,
             reqs := dropReq r l.reqs, stepWaits := l.stepWaits && r.code != 0x8001,
             stopped := l.stopped || r.code == 0x8003 }
  let s2 := raiseEvt (s1.countWrap lktPage 0x060) lktPage 3
  if r.code = 0x8003 then raiseEvt s2 lktPage 6 else s2

/-- A failed verification (R441): the page moves to the next free spare and a LOCKET record is asked for, or, with none
left, NO_SPARE is recorded once for the page. -/
def remapPage (s : State) (page : Nat) : State :=
  let l := s.mod.lkt
  if l.spareUsed < 16 then
    let s1 := s.modLkt fun l =>
      { l with remap := Sparse.set (fun _ => 0) l.remap page (l.spareUsed + 1), spareUsed := l.spareUsed + 1 }
    locketNotice (raiseEvt s1 lktPage 5) page l.spareUsed 0
  else if l.noSpare.contains page then s
  else recordFault (s.modLkt fun l => { l with noSpare := page :: l.noSpare }) lktPage 0x02 0x21 page 0

/-- The Locket may write: stack 0's CTL domain is on, the scan is complete, nothing has stopped it (R443, R449). -/
def locketReady (s : State) : Bool := s.mod.lkt.scanned && !s.mod.lkt.stopped && s.domOn 0 7

/-- LOCKET_WRITE (R440, R441): the next request is granted and its record written and verified. -/
def execLocketWrite (aged verifyOk : Bool) (s : State) : Host.Outcome State Fault Refusal :=
  .next (match grantNext aged s.mod.lkt.reqs with
    | none => s
    | some r =>
      if locketReady s then
        let page := s.mod.lkt.next.toNat % ringSlots / pageSlots
        let s1 := storeRecord s r
        if verifyOk then s1 else remapPage s1 page
      else s)

/-! ### The scan (R442) -/

/-- The highest sequence number of a valid record, if any. -/
def highestSeq (ring : Sparse Slot64) : Option Nat :=
  ring.foldl (fun m e => if validRecord e.2 then some (max (m.getD 0) (recordSeq e.2)) else m) none

/-- The START record's payload (R438): the sequence skipped, the cause, whether the skipped slot was invalid, and
BOOT_COUNT. -/
def startPayload (s : State) : List Byte :=
  let cause := s.fld (modulePage .pwrm) 0x044 1 0
  match highestSeq s.mod.lkt.ring with
  | some l =>
    leBytes (l + 1) 8 ++ leBytes cause 1 ++ leBytes (bit (!validRecord (s.mod.lkt.slot (l + 1)))) 1 ++
      List.replicate 6 0 ++ leBytes (bootCount s) 8
  | none => List.replicate 8 0 ++ leBytes cause 1 ++ List.replicate 7 0 ++ leBytes (bootCount s) 8

/-- The scan ends (R442): the next sequence number is fixed, SCANNED is set, and the START record is asked for ahead of
every other. -/
def scanDone (s : State) : State :=
  if s.mod.lkt.scanned ∨ s.domOn 0 7 = false then s
  else
    let l := s.mod.lkt
    let next := match highestSeq l.ring with
      | some n => BitVec.ofNat 64 (max (n + 2) l.base.toNat)
      | none => l.base
    let last : DWord := match highestSeq l.ring with
      | some n => BitVec.ofNat 64 n
      | none => 0xFFFFFFFFFFFFFFFF
    let (t, s1) := s.now
    let r : RecReq :=
      { src := lktPage.source, order := 0, code := 0x8002, payload := startPayload s, time := t,
        timeValid := s.flag (modulePage .pwrm) 0x078 2, pos := (s.st 0).tns.pos,
        posValid := (s.st 0).tns.lock == .locked || (s.st 0).tns.lock == .freewheel }
    storeRecord (s1.modLkt fun l => { l with scanned := true, next := next, last := last }) r

/-- LOCKET_SCAN_DONE (R442). -/
def execLocketScanDone (s : State) : Host.Outcome State Fault Refusal := .next (scanDone s)

/-! ### Reading windows (R444, R445) -/

/-- A window, and one changed: false is A, true is B. -/
def Locket.window (l : Locket) (w : Bool) : LkWindow := if w then l.winB else l.winA
def modWindow (s : State) (w : Bool) (f : LkWindow → LkWindow) : State :=
  s.modLkt fun l => if w then { l with winB := f l.winB } else { l with winA := f l.winA }

/-- The cursor is set and the slot's load begins. -/
def setCursor (s : State) (w : Bool) (cur : DWord) : State :=
  modWindow s w fun x => { x with cur := cur, loading := true }

/-- LOCKET_CURSOR_WRITE (R444, R9): CUR_LO with the staged or current high half. -/
def cursorWrite (s : State) (w : Bool) (lo : Word) : State :=
  let k := lktPage.key (if w then 0x10C else 0x08C)
  let cur := (s.mod.lkt.window w).cur
  let hi := (Sparse.find s.staged k).getD (cur.extractLsb' 32 32)
  setCursor { s with staged := Sparse.del s.staged k } w (hi ++ lo)

/-- RESULT of a load (R444). -/
def loadResult (l : Locket) (cur : DWord) : Nat :=
  let v := l.slot cur.toNat
  if validRecord v then
    if recordSeq v = cur.toNat then 0 else if cur.toNat < recordSeq v then 1 else 2
  else if l.last ≠ 0xFFFFFFFFFFFFFFFF ∧ l.last.toNat < cur.toNat then 2 else 3

/-- A load under way ends (R444, R448): the slot stands in the window; an uncorrectable word records MRAM_UE. -/
def windowLoaded (s : State) (w : Bool) (eccOk : Bool) : State :=
  let x := s.mod.lkt.window w
  if x.loading then
    let s1 := modWindow s w fun x =>
      { x with loading := false, result := loadResult s.mod.lkt x.cur, ecc := !eccOk, win := s.mod.lkt.slot x.cur.toNat }
    if eccOk then s1 else recordFault s1 lktPage 0x02 0x10 (x.cur.toNat % ringSlots) 0
  else s

/-- LOCKET_WINDOW_LOAD_DONE (R444, R448). -/
def execLocketWindowLoadDone (win eccOk : Bool) (s : State) : Host.Outcome State Fault Refusal :=
  .next (windowLoaded s win eccOk)

/-- A read of WIN15 with AUTO_ADV advances the cursor and loads the next slot (R444). -/
def win15Read (s : State) (w : Bool) : State :=
  let x := s.mod.lkt.window w
  if x.autoAdv then setCursor s w (x.cur + 1) else s

/-- A read of WIN0 to WIN15 waits for a load under way, which ends here without an error (R444; assumption 21). -/
def winRead (s : State) (w : Bool) (i : Nat) : Word × State :=
  let s1 := windowLoaded s w true
  let v := (s1.mod.lkt.window w).win.extractLsb' (32 * i) 32
  (v, if i = 15 then win15Read s1 w else s1)

/-- LOCKET_WIN15_READ (R444): answers the word and advances. -/
def execLocketWin15Read (r : Requester) (win : Bool) (s : State) : Host.Outcome State Fault Refusal :=
  let (v, s1) := winRead s win 15
  .next (s1.send (.value r v))

/-- WCTRL.SNAP (R445). -/
def snap (s : State) (w : Bool) : State :=
  let l := s.mod.lkt
  modWindow s w fun x => { x with snapLast := l.last, snapOldest := l.oldest }

/-- The firmware interface as a source (R439). -/
def fwSource : Source := ⟨0, 0, 0⟩

/-- LKT_FW_GO.BUSY: the firmware's request waits. -/
def fwBusy (s : State) : Bool := s.mod.lkt.reqs.any fun r => r.order == 3

/-- LKT_FW_GO.GO (R447): a record request from LKT_FW_CODE and LKT_FW_PAY, or REJECT for a code outside
0x8004 to 0x80FF. -/
def fwGo (s : State) : State :=
  let code := s.fld lktPage 0x180 15 0
  if 0x8004 ≤ code ∧ code ≤ 0x80FF then
    locketRequest s fwSource 3 0 code ((List.range 6).flatMap fun i => leBytes (s.reg lktPage (0x184 + 4 * i)).toNat 4)
  else s.modLkt fun l => { l with fwReject := true }

/-- The effect of a soft reset on the Locket beside its registers (R449): the windows return to their reset values. -/
def locketSoftReset (s : State) : State :=
  s.modLkt fun l => { l with winA := {}, winB := {}, fwReject := false }

end Sys2Proof.Machine
end

