-- ==== Sys2Proof/Machine/Cal.lean ====
section
/-! DEFINITION. The CAL block (R466 to R469, R472): its check, its sections and their defaults, and the commands of the CAL page;
with the measurement registers a committed CAL write extends (R404). -/

namespace Sys2Proof.Machine

/-! ### Measurement (R404) -/

/-- One measurement register extended with data. -/
def measExtend (s : State) (i : Fin 6) (data : List Byte) : State :=
  let m := leBytes s.mod.bzl.meas[i].toNat 64
  let v := shake (m ++ leBytes i.val 1 ++ shake data 64) 64
  { s with mod := { s.mod with bzl := { s.mod.bzl with meas := s.mod.bzl.meas.set i (BitVec.ofNat 512 (leNat v)) } } }

/-! ### The image (R466, R468) -/

/-- The CAL page. -/
def calPage : Page := modulePage .cal

/-- PART as the images of a member carry it. -/
def partCode : Part → Nat
  | .kx820 => 0x0820 | .kx420 => 0x0420 | .kx220 => 0x0220

/-- `n` bytes of an image. -/
def imgBytes (m : Sparse Byte) (a n : Nat) : List Byte := Sparse.getList (fun _ => 0) m a n
def imgNat (m : Sparse Byte) (a n : Nat) : Nat := leNat (imgBytes m a n)

/-- The change of a staging area or image. -/
def imgSet (m : Sparse Byte) (a : Nat) (bs : List Byte) : Sparse Byte := Sparse.setList (fun _ => 0) m a bs

/-- LENGTH, NSECT and SEQ. -/
def imgLength (m : Sparse Byte) : Nat := imgNat m 4 4
def imgSects (m : Sparse Byte) : Nat := imgNat m 2 2
def imgSeq (m : Sparse Byte) : Nat := imgNat m 8 8

/-- The directory: each section's ID, OFFSET and BYTES. -/
def imgDir (m : Sparse Byte) : List (Nat × Nat × Nat) :=
  (List.range (imgSects m)).map fun i =>
    (imgNat m (64 + 16 * i) 2, imgNat m (72 + 16 * i) 4, imgNat m (76 + 16 * i) 4)

/-- The bytes of a section, none where it is absent. -/
def imgSection (m : Sparse Byte) (id : Nat) : Option (List Byte) :=
  ((imgDir m).find? fun e => e.1 == id).map fun e => imgBytes m e.2.1 e.2.2

/-- The header and the directory against R466. -/
def imgFormat (m : Sparse Byte) : Bool :=
  let n := imgLength m
  imgNat m 0 2 == 1 && 1 ≤ imgSects m && imgSects m ≤ 16 && 64 ≤ n && n ≤ 262144 && n % 8 == 0 && imgNat m 18 6 == 0 &&
    imgNat m 32 28 == 0 &&
    (List.range (imgSects m)).all (fun i => imgNat m (68 + 16 * i) 4 == 0) &&
    (imgDir m).all (fun e => 64 + 16 * imgSects m ≤ e.2.1 && e.2.1 + e.2.2 ≤ n) &&
    (List.range (imgSects m)).all fun i => (List.range i).all fun j =>
      let a := (imgDir m).getD i (0, 0, 0)
      let b := (imgDir m).getD j (0, 0, 0)
      a.2.1 + a.2.2 ≤ b.2.1 || b.2.1 + b.2.2 ≤ a.2.1

/-- The image's CRC-32C, with its own four bytes zero. -/
def imgCrc (m : Sparse Byte) : Bool :=
  imgNat m 60 4 == (crc32c (imgBytes m 0 60 ++ [0, 0, 0, 0] ++ imgBytes m 64 (imgLength m - 64))).toNat

/-- The section whose values lie outside their ranges: MODE 1 to 6, V(n) 0.60 to 0.90 V (R468). -/
def imgRange (part : Part) (m : Sparse Byte) : Option Nat :=
  let k := stackCount part
  let modes := match imgSection m 2 with
    | some b => (List.range (2 * k)).all fun p => 1 ≤ Config.calMode b p && Config.calMode b p ≤ 6
    | none => true
  let volts := match imgSection m 5 with
    | some b => (List.range k).all fun i => (List.range 9).all fun n =>
        600 ≤ Config.calVolt b i (8 + n) && Config.calVolt b i (8 + n) ≤ 900
    | none => true
  if modes = false then some 2 else if volts = false then some 5 else none

/-- The check of R468: STATUS of CAL_RESULT and the section of a RANGE failure. -/
def imgCheck (s : State) (m : Sparse Byte) : Nat × Nat :=
  if imgFormat m = false then (1, 0)
  else if imgCrc m = false then (2, 0)
  else if imgNat m 16 2 ≠ partCode s.part ∨ imgNat m 24 8 ≠ s.mod.bzl.serial.toNat then (4, 0)
  else match imgRange s.part m with
    | some sect => (5, sect)
    | none => (0, 0)

/-! ### Values at start-up (R467) -/

/-- A section of the active image, none where it is absent or every section takes its default. -/
def calSection (s : State) (id : Nat) : Option (List Byte) :=
  if s.mod.cal.fallback then none else imgSection s.mod.cal.active id

/-- The MAC address of a module link: from the NET section, or formed from IDHASH. -/
def macOf (s : State) (link : Nat) : Nat :=
  match calSection s 2 with
  | some b => (Config.calMac b link).toNat
  | none => leNat ([0x02] ++ slice (idHash s) 0 4 ++ leBytes link 1)

/-- MODE of a module port. -/
def modeOfCal (s : State) (port : Nat) : Nat :=
  match calSection s 2 with
  | some b => Config.calMode b port % 8
  | none => 1

/-- The values of the NET section are loaded into a stack's NET pages, and its links run in those modes. -/
def loadNet (s : State) (st : Fin 8) : State :=
  (List.range 2).foldl (fun s i =>
    let p := netPage st i
    let n := 2 * st.val + i
    let s1 := s.setFld p 0x040 2 0 (modeOfCal s n)
    let s2 := (List.range 4).foldl (fun s k =>
      (s.setReg p (linkOff k 0x04C) (BitVec.ofNat 32 (macOf s (4 * n + k)))).setReg p (linkOff k 0x050)
        (BitVec.ofNat 32 (macOf s (4 * n + k) / 2 ^ 32 % 2 ^ 16))) s1
    s2.modPort st i fun x => { x with cfg := s2.reg p 0x040 }) s

/-- The voltage of each level from 8. -/
def loadVolts (s : State) (st : Fin 8) : State :=
  let v := (List.range 9).map fun n =>
    match calSection s 5 with
    | some b => Config.calVolt b st.val (8 + n)
    | none => 850
  s.modPwr st fun p => { p with volts := v }

/-- The spare maps and dead marks of a stack (R311, R423, R428): those of the SPARES section, or none used and none dead. -/
def loadSpares (s : State) (st : Fin 8) (regs : List (Page × Nat)) : State :=
  regs.foldl (fun s e =>
    match calSection s 6 with
    | some b => s.setReg e.1 e.2 (Config.calSpare b st.val (blkType e.1.blk) e.2)
    | none => s.setReg e.1 e.2 (regDefault s.part (e.1.key e.2))) s

/-- The registers that hold spare maps on the ARB and SRM pages (R310, R429). -/
def arbSpares (st : Fin 8) : List (Page × Nat) :=
  [0x0A0, 0x0A4, 0x0A8, 0x0AC, 0x0B0, 0x0B4, 0x0B8, 0x0BC, 0x0C0].map fun o => (stackPage st .arb, o)
def srmSpares (st : Fin 8) : List (Page × Nat) := [(stackPage st .srm, 0x044)]

/-! ### Commands (R469, R472) -/

/-- The CAL block changed. -/
def State.modCal (s : State) (f : Cal → Cal) : State := { s with mod := { s.mod with cal := f s.mod.cal } }

/-- CAL_RESULT. -/
def calResult (s : State) (r : Nat × Nat) : State := s.setReg calPage 0x054 (BitVec.ofNat 32 (r.1 + 2 ^ 8 * r.2))

/-- COPY: the active image into the staging area. -/
def calCopy (s : State) : State :=
  if s.mod.cal.commit then s.setFlag calPage 0x040 3 true else s.modCal fun c => { c with staging := c.active }

/-- COMMIT: the staged image is checked, and its writing to the inactive copy begins. -/
def calCommit (s : State) : State :=
  if s.mod.cal.commit then s.setFlag calPage 0x040 3 true
  else
    let m := s.mod.cal.staging
    let r := imgCheck s m
    if r.1 ≠ 0 then calResult s r
    else if imgSeq m ≠ imgSeq s.mod.cal.active + 1 then calResult s (3, 0)
    else s.modCal fun c => { c with other := c.staging, commit := true }

/-- DISCARD. -/
def calDiscard (s : State) : State := s.modCal fun c => { c with staging := [] }

/-- CAL_CMD. -/
def calCmd (s : State) (v : Word) : State :=
  let s1 := if bitAt v.toNat 0 then calCopy s else s
  let s2 := if bitAt v.toNat 1 then calCommit s1 else s1
  if bitAt v.toNat 2 then calDiscard s2 else s2

/-- CAL_COMMIT_DONE: the image read back, the selector written, the former copy zeroed and MEAS2 extended; the voltages serve
the next level change. -/
def execCalCommitDone (verifyOk : Bool) (s : State) : Host.Outcome State Fault Refusal :=
  .next (
    if s.mod.cal.commit = false then s
    else if verifyOk = false then calResult (s.modCal fun c => { c with commit := false }) (6, 0)
    else
      let m := s.mod.cal.other
      let s1 := s.modCal fun c => { c with active := m, other := [], commit := false, valid := true }
      let s2 := measExtend s1 2 (imgBytes m 0 (imgLength m))
      let s3 := s2.stacksIn.foldl loadVolts s2
      raiseEvt (calResult s3 (0, 0)) calPage 3)

/-- CAL_STAT (R472). -/
def calStat (s : State) : Nat :=
  let c := s.mod.cal
  bit c.valid + 2 * bit c.commit + 4 * bit c.fallback + 8 * bit (s.flag calPage 0x040 3)

/-- A word of the staging area shown at 0x800, and one written: ignored while BUSY (R469). -/
def calWin (s : State) (off : Nat) : Nat := imgNat s.mod.cal.staging (2048 * s.fld calPage 0x04C 6 0 + (off - 0x800)) 4
def calWinWrite (s : State) (off : Nat) (v : Word) : State :=
  if s.mod.cal.commit then s
  else
    let a := 2048 * s.fld calPage 0x04C 6 0 + (off - 0x800)
    s.modCal fun c => { c with staging := imgSet c.staging a (leBytes v.toNat 4) }

/-- The check at stage 2 of start-up (R468): CAL_CHECK and FALLBACK where it fails. -/
def calStartup (s : State) : State :=
  let r := imgCheck s s.mod.cal.active
  if r.1 = 0 then s.modCal fun c => { c with valid := true, fallback := false }
  else
    let s1 := s.modCal fun c => { c with valid := false, fallback := true }
    raiseEvt (recordFault s1 calPage 0x0B 0x07 (r.1 + 2 ^ 8 * r.2) 0) calPage 4

end Sys2Proof.Machine
end

