-- ==== Sys2Proof/Machine/HotSet.lean ====
section
/-! DEFINITION. The hot set (R255 to R261): refreshes, copies, dirty copies, the directory switch, and the enable bit. -/

namespace Sys2Proof.Machine

/-- The hot set of a stack changed. -/
def State.modHot (s : State) (i : Fin 8) (f : HotSet → HotSet) : State := s.modSt i fun x => { x with hot := f x.hot }

/-- A refresh leaves the arbiter. -/
def dropRefresh (s : State) (st : Fin 8) : State :=
  s.modArb st fun b => { b with run := b.run.filter fun a => a.act != 10 }

/-- A refresh ends: the pending directory is empty and HS_STAT is IDLE. -/
def endRefresh (s : State) (st : Fin 8) : State := dropRefresh (s.modHot st fun h => { h with waiting := [], state := 0 }) st

/-- Both directories are emptied and any refresh ends (R260, R261). -/
def hotEmpty (s : State) (st : Fin 8) : State := endRefresh (s.modHot st fun h => { h with active := [] }) st

/-- A refresh whose entries are all READY (R257). -/
def refreshReady (s : State) (st : Fin 8) : State :=
  if (s.st st).hot.state = 1 ∧ ((s.st st).hot.waiting.all fun e => e.st == 2) = true then
    raiseEvt (dropRefresh (s.modHot st fun h => { h with state := 2 }) st) (beadPage st) 6
  else s

/-- A hot-set refresh event for a table group (R62, R256): submitted to the arbiter, or refused, counted and recorded while
another is under way. -/
def refreshEvent (s : State) (st : Fin 8) (grp : Nat) : State :=
  if hsEnabled s st = false then s
  else if (s.st st).hot.state ≠ 0 then
    let p := beadPage st
    raiseEvt (locketRequest (s.countSat (arbPage st) 0x05C) p.source p.order st 0x800B (leBytes grp 1)) p 8
  else (submit s st 2 10 grp).1

/-- An error of the refresher: recorded on the BEAD page with no tag. -/
def refreshFault (s : State) (st : Fin 8) (e : TabErr) : State :=
  let s1 := match e with
    | .fault cls det high addr => recordFault s (beadPage st) cls det (high % 2 ^ 16 * 2 ^ 16) addr
    | .mem m area => memFault s (beadPage st) m 0x10 0 area
  endRefresh s1 st

/-- The HSGROUP of a table. -/
def groupOfTable (s : State) (st : Fin 8) (t : Nat) : Except TabErr Nat :=
  (readTable s st (bindOf s (beadPage st)) t).map fun bs => (Table.of bs).hsgroup

/-- The greatest number of rows a directory holds (R255). -/
def hotCap (s : State) (st : Fin 8) : Nat := min (2 ^ (hsLog2 s st - 1)) 4194304

/-- One row of a refresh list, as table and global id, added to the pending directory with the lowest free slot, or none where it
is skipped (R257). -/
def listEntry (s : State) (st : Fin 8) (free : List Nat) (es : List HsEntry) (no id : Nat) : Except TabErr (Option HsEntry) := do
  let t := Table.of (← readTable s st (bindOf s (beadPage st)) no)
  let slotBytes := s.fld (beadPage st) 0x094 10 0 * 16
  match (if t.mode = 3 then none else route t id), free with
  | some (home, row), slot :: _ =>
    if t.hot = false ∨ home ≠ st.val ∨ (es.any fun e => e.table == no && e.row == row) = true ∨ slotBytes < t.rstride ∨
        hotCap s st ≤ es.length then .ok none
    else .ok (some ⟨no, row, slot, 1⟩)
  | _, _ => .ok none

/-- The rows of a list taken in order, with the count of those skipped. -/
def takeList (s : State) (st : Fin 8) : List (Nat × Nat) → List Nat → List HsEntry → Nat → Except TabErr (List HsEntry × Nat)
  | [], _, es, k => .ok (es, k)
  | (no, id) :: l, free, es, k =>
    match listEntry s st free es no id with
    | .error e => .error e
    | .ok none => takeList s st l free es (k + 1)
    | .ok (some e) => takeList s st l (free.drop 1) (es ++ [e]) k

/-- The pending directory of an admitted refresh, and the rows skipped (R256, R257). -/
def buildRefresh (s : State) (st : Fin 8) (grp : Nat) : Except TabErr (List HsEntry × Nat) := do
  let p := beadPage st
  let plan := bindOf s p
  let act := (s.st st).hot.active
  let groups ← act.mapM fun e => groupOfTable s st e.table
  let kept := ((act.zip groups).filter fun x => x.2 != grp).map fun x => { x.1 with st := 2 }
  let h ← tabRead s st plan 0 (beadAddr s st 0x09C + 16 * grp) 16
  let n := leNat (slice h 8 8)
  let bs ← tabRead s st plan 0 (leNat (slice h 0 8)) (16 * n)
  let rows := (List.range n).map fun i => (leNat (slice bs (16 * i) 2), leNat (slice bs (16 * i + 8) 8))
  let free := (List.range (s.fld p 0x098 22 0)).filter fun i => !act.any fun e => e.slot == i
  takeList s st rows free kept 0

/-- An admitted refresh begins (R257). -/
def refreshStart (s : State) (st : Fin 8) (grp : Nat) : State :=
  match buildRefresh s st grp with
  | .error e => refreshFault s st e
  | .ok (es, skipped) =>
    let s1 := if skipped = 0 then s else s.countSat (beadPage st) 0x0B4 skipped
    refreshReady (s1.modHot st fun h => { h with waiting := es, state := 1, group := grp }) st

/-- HOT_SET_REFRESH_ADMIT. -/
def execHotSetRefreshAdmit (st : Fin 8) (s : State) : Host.Outcome State Fault Refusal :=
  if s.has st then
    .next (match (s.st st).arb.run.find? fun a => a.act == 10 with
      | some a => if (s.st st).hot.state = 0 ∧ hsEnabled s st ∧ s.faulted (beadPage st) = false ∧ s.clocked then refreshStart s st a.scope else s
      | none => s)
  else .fault .absentStack

/-- Entry `i` of the pending directory in another state. -/
def setEntry (s : State) (st : Fin 8) (i n : Nat) : State :=
  s.modHot st fun h => { h with waiting := h.waiting.modify i fun e => { e with st := n } }

/-- The home row of an entry copied to its slot (R257). -/
def copyRow (s : State) (st : Fin 8) (e : HsEntry) : State × Option TabErr :=
  let plan := bindOf s (beadPage st)
  match readTable s st plan e.table with
  | .error f => (s, some f)
  | .ok bs =>
    let t := Table.of bs
    match tabRead s st plan 6 (t.base + e.row * t.rstride) (rowBytes t.rfmt t.elems) with
    | .error f => (s, some f)
    | .ok row => tabWrite s st plan 7 false (hsSlotAddr s st e.slot) row

/-- HOT_SET_COPY_DONE (R257, R258): a COPYING entry's copy completes as READY; a DIRTY entry stays DIRTY. -/
def execHotSetCopyDone (st : Fin 8) (i : Nat) (s : State) : Host.Outcome State Fault Refusal :=
  if s.has st then
    .next (match (s.st st).hot.waiting[i]? with
      | none => s
      | some e =>
        if e.st = 1 ∧ s.faulted (beadPage st) = false ∧ s.clocked then
          match copyRow s st e with
          | (s1, some f) => refreshFault s1 st f
          | (s1, none) => refreshReady (setEntry s1 st i 2) st
        else s)
  else .fault .absentStack

/-- HOT_SET_DIRTY_RECOPY (R258): a DIRTY entry's copy is issued again. -/
def execHotSetDirtyRecopy (st : Fin 8) (i : Nat) (s : State) : Host.Outcome State Fault Refusal :=
  if s.has st then
    .next (match (s.st st).hot.waiting[i]? with
      | none => s
      | some e => if e.st = 3 then setEntry s st i 1 else s)
  else .fault .absentStack

/-- HOT_SET_SWITCH (R259): at the switch point of a committed Clasp, a READY pending directory becomes active. -/
def execHotSetSwitch (st : Fin 8) (s : State) : Host.Outcome State Fault Refusal :=
  if s.has st then
    .next (if (s.st st).clp.state = .commit ∧ (s.st st).clp.sequence = .commit ∧ (s.st st).hot.state = 2 then
      let s1 := s.modHot st fun h => { h with active := h.waiting, waiting := [], state := 0, activeB := !h.activeB }
      raiseEvt (s1.countWrap (beadPage st) 0x0B8) (beadPage st) 7
    else s)
  else .fault .absentStack

/-- A row that the Clasp has updated is written through to its copies (R258): the active one, a READY pending one; a COPYING entry
becomes DIRTY, which is counted. -/
def writeThrough (s : State) (st : Fin 8) (plan no row : Nat) (bs : List Byte) : State × Option TabErr :=
  let hot := (s.st st).hot
  if hsEnabled s st = false then (s, none)
  else
    let at_ := fun (e : HsEntry) => e.table == no && e.row == row
    let (s1, e1) := match hot.active.find? at_ with
      | some e => tabWrite s st plan 7 true (hsSlotAddr s st e.slot) bs
      | none => (s, none)
    match e1, hot.waiting.findIdx? at_ with
    | some e, _ => (s1, some e)
    | none, none => (s1, none)
    | none, some i =>
      match hot.waiting[i]? with
      | none => (s1, none)
      | some e =>
        if e.st = 2 then tabWrite s1 st plan 7 true (hsSlotAddr s st e.slot) bs
        else if e.st = 1 then ((setEntry s1 st i 3).countSat (beadPage st) 0x0B0, none)
        else (s1, none)

/-- HS_CTRL.EN written (R261): a change from either value empties both directories. -/
def hsEnWrite (s : State) (st : Fin 8) (on : Bool) : State :=
  if hsEnabled s st = on then s else (hotEmpty s st).setFlag (beadPage st) 0x080 0 on

end Sys2Proof.Machine
end

