-- ==== Sys2Proof/Machine/Net.lean ====
section
/-! DEFINITION. The Ethernet ports (R342 to R344, R375): links, pause, and the frames of other protocols. -/

namespace Sys2Proof.Machine

/-! ### Links (R342, R375, R378) -/

/-- A link is up. -/
def linkIsUp (s : State) (st : Fin 8) (port link : Nat) : Bool := bitAt (s.port st port).up.toNat link

/-- A link leaves LINK_UP (R378). -/
def linkDrop (s : State) (st : Fin 8) (port link : Nat) : State :=
  if linkIsUp s st port link then
    let s1 := s.modPort st port fun p =>
      { p with up := BitVec.ofNat 4 (withBits p.up.toNat link link 0),
               paused := if h : link < 4 then p.paused.set link 0 else p.paused }
    raiseEvt (recordFault s1 (netPage st port) 0x06 0x01 (link * 2 ^ 16) 0) (netPage st port) 4
  else s

/-- Every link of a port leaves LINK_UP. -/
def portDrop (s : State) (st : Fin 8) (port : Nat) : State :=
  (List.range 4).foldl (fun s l => linkDrop s st port l) s

/-- A link comes up (R375): what was written to NET_CFG takes effect at the restart. The NET domain is ON and ETH_REFCLK
present (R457). -/
def linkRise (s : State) (st : Fin 8) (port link : Nat) : State :=
  let s1 := s.modPort st port fun p => { p with cfg := s.reg (netPage st port) 0x040 }
  if s.domOn st 5 ∧ s.mod.pwr.ethRefclkLost = false ∧ s.mod.pwr.clocksStopped = false ∧
      linkIsUp s st port link = false ∧ link < modeLinks (portMode s1 st port) then
    raiseEvt (s1.modPort st port fun p => { p with up := BitVec.ofNat 4 (withBits p.up.toNat link link 1) })
      (netPage st port) 3
  else s

/-- LINK_UP. -/
def execLinkUp (st : Fin 8) (port : Fin 2) (link : Fin 4) (s : State) : Host.Outcome State Fault Refusal :=
  if s.has st then .next (linkRise s st port.val link.val) else .fault .absentStack

/-- LINK_DOWN. -/
def execLinkDown (st : Fin 8) (port : Fin 2) (link : Fin 4) (s : State) : Host.Outcome State Fault Refusal :=
  if s.has st then .next (linkDrop s st port.val link.val) else .fault .absentStack

/-- A write of NET_CFG (R10, R375): MODE 7, and PAUSE_TX with PFC on, are reserved and keep their fields. A MODE other than the
one the links run in restarts them. -/
def netCfgWrite (s : State) (st : Fin 8) (port : Nat) (v : Word) : State :=
  let p := netPage st port
  let old := (s.reg p 0x040).toNat
  let mode := if bitsOf v.toNat 2 0 = 7 then bitsOf old 2 0 else bitsOf v.toNat 2 0
  let pfc := bitsOf v.toNat 15 8
  let tx := if bitAt v.toNat 4 ∧ pfc ≠ 0 then bitsOf old 4 4 else bitsOf v.toNat 4 4
  let s1 := s.setReg p 0x040 (BitVec.ofNat 32 (mode + 8 * bitsOf v.toNat 3 3 + 16 * tx + 2 ^ 8 * pfc))
  if mode = bitsOf old 2 0 then s1
  else (portDrop s1 st port).modPort st port fun x => { x with cfg := s1.reg p 0x040 }

/-- PAUSE_FRAME (R343, R344): an 802.3x pause frame pauses every priority where PAUSE_RX is 1; a PFC frame leaves the
priorities it names paused, of those in PFC_EN. -/
def execPauseFrame (st : Fin 8) (port : Fin 2) (link : Fin 4) (pfc : Option Byte) (s : State) :
    Host.Outcome State Fault Refusal :=
  if s.has st then
    let cfg := (s.port st port.val).cfg.toNat
    let s1 := s.countSat (netPage st port.val) 0x088
    let set := fun (b : Byte) =>
      raiseEvt (s1.modPort st port.val fun p => { p with paused := p.paused.set link b }) (netPage st port.val) 5
    .next (if linkIsUp s st port.val link.val = false then s
      else match pfc with
        | some b => if bitsOf cfg 15 8 = 0 then s1 else set (b &&& BitVec.ofNat 8 (bitsOf cfg 15 8))
        | none => if bitAt cfg 3 then set 0xFF else s1)
  else .fault .absentStack

/-! ### Frames of other protocols (R343) -/

/-- The address a link answers to, none for 0: in recovery an IPv6 link-local address formed from the MAC (R402; the form is
assumption 16). -/
def linkAddress (s : State) (st : Fin 8) (port link : Nat) (v6 : Bool) : Option (BitVec 128) :=
  let r := linkReg s st port link
  let n := if v6 then r 0x058 + 2 ^ 32 * r 0x05C + 2 ^ 64 * r 0x060 + 2 ^ 96 * r 0x064 else r 0x054
  let mac := r 0x04C + 2 ^ 32 * (r 0x050 % 2 ^ 16)
  let b := fun i => bitsOf mac (8 * i + 7) (8 * i)
  let eui := leNat ([b 5, b 4, b 3, 0xFE, 0xFF, b 2, b 1, Nat.xor (b 0) 2].map fun x => BitVec.ofNat 8 x)
  let local_ := 0xFE80 * 2 ^ 112 + eui
  if s.mod.bzl.recovery ∧ v6 = true then some (BitVec.ofNat 128 local_)
  else if n = 0 then none else some (BitVec.ofNat 128 n)

/-- ICMP_ECHO: an echo request to a link's address is answered with its data. -/
def execIcmpEcho (st : Fin 8) (port : Fin 2) (link : Fin 4) (v6 : Bool) (dst : BitVec 128) (body : List Byte) (s : State) :
    Host.Outcome State Fault Refusal :=
  if s.has st then
    .next (if linkIsUp s st port.val link.val ∧ linkAddress s st port.val link.val v6 = some dst then
      s.send (.frame st port.val link.val body) else s)
  else .fault .absentStack

/-- NEIGHBOUR_DISCOVERY: an ARP or neighbour solicitation for a link's address is answered with its MAC address. -/
def execNeighbourDiscovery (st : Fin 8) (port : Fin 2) (link : Fin 4) (v6 : Bool) (target : BitVec 128) (s : State) :
    Host.Outcome State Fault Refusal :=
  if s.has st then
    let r := linkReg s st port.val link.val
    .next (if linkIsUp s st port.val link.val ∧ linkAddress s st port.val link.val v6 = some target then
      s.send (.frame st port.val link.val (leBytes (r 0x04C) 4 ++ leBytes (r 0x050) 2 ++ leBytes target.toNat (if v6 then 16 else 4)))
    else s)
  else .fault .absentStack

/-- The module's PWR page. -/
def pwrmPage : Page := modulePage .pwrm

/-- A correction reaches the real-time clock (R456): the first sets DISCIPLINED. -/
def rtcCorrect (s : State) (by_ : DWord) : State :=
  (s.modPm fun p => { p with rtc := p.rtc + by_ }).setFlag pwrmPage 0x078 2 true

/-- PTP_EVENT_MESSAGE (R343, R456): on a link of module port 0 or 1, with SRC 1 and the firmware running, the measured offset
steers the clock. -/
def execPtpEventMessage (st : Fin 8) (port : Fin 2) (link : Fin 4) (offset : DWord) (s : State) :
    Host.Outcome State Fault Refusal :=
  if s.has st then
    .next (if st = 0 ∧ linkIsUp s st port.val link.val ∧ s.fld pwrmPage 0x078 1 0 = 1 ∧ (s.st 0).pwr.firmware then
      rtcCorrect s offset else s)
  else .fault .absentStack

/-- DROPPED_FRAME (R343). -/
def execDroppedFrame (st : Fin 8) (port : Fin 2) (link : Fin 4) (s : State) : Host.Outcome State Fault Refusal :=
  if s.has st then
    .next (if linkIsUp s st port.val link.val then s.countSat (netPage st port.val) 0x084 else s)
  else .fault .absentStack

end Sys2Proof.Machine
end

