-- ==== Sys2Proof/Machine/Flags.lean ====
section
/-! DEFINITION. The predicate computations of the sequencers: comparisons, predicate functions, and the clean outcome of
a wait (R315, R321). -/

namespace Sys2Proof.Machine

/-- CMP's condition c (R315): 0 equal, 1 not equal, 2 less signed, 3 not less signed, 4 less unsigned, 5 not less
unsigned. -/
def cmpCond (c : Nat) (a b : DWord) : Bool :=
  match c with
  | 0 => a == b
  | 1 => a != b
  | 2 => a.slt b
  | 3 => !a.slt b
  | 4 => a.ult b
  | _ => !a.ult b

/-- PSET's function f (R315): 0 AND, 1 OR, 2 AND NOT, 3 XOR. -/
def psetFn (f : Nat) (a b : Bool) : Bool :=
  match f with
  | 0 => a && b
  | 1 => a || b
  | 2 => a && !b
  | _ => a != b

/-- A queue's retire sequence has reached a token: (retire − token) mod 2^32 < 2^31 (R321). -/
def reached (q : Queue) (token : Word) : Bool := decide ((q.retire - token).toNat < 2 ^ 31)

/-- Every descriptor of the queue after `from_` and up to `token` retired cleanly (R321). -/
def cleanUpTo (q : Queue) (from_ token : Word) : Bool :=
  q.unclean.all fun t => !(decide ((token - t).toNat < 2 ^ 31) && decide ((t - from_ - 1).toNat < 2 ^ 31))

end Sys2Proof.Machine
end

