-- ==== Sys2Proof/Machine/Sequencer.lean ====
section
/-! DEFINITION. The plan sequencers (R312 to R328): KSQ instructions that stay within a sequencer and its queues, waits and
their ends, faults, and the SEQ commands. LDG, STG, RDR and WRR stand in Machine/SeqBus.lean. -/

namespace Sys2Proof.Machine

/-- The page of a sequencer. -/
def seqPage (st : Fin 8) (n : Fin 4) : Page := stackPage st .seq n.val

/-- The plan a sequencer runs: its page's BIND.PLAN_ID (R312). -/
def seqPlan (s : State) (st : Fin 8) (n : Fin 4) : Nat := s.fld (seqPage st n) 0x030 15 0

/-- A sequencer's fault makes the open step VOID when the Clasp engine is bound to the same plan (R327). -/
def seqVoid (s : State) (st : Fin 8) (n : Fin 4) : State :=
  let c := (s.st st).clp
  if s.fld (stackPage st .clp) 0x030 15 0 = seqPlan s st n ∧ (c.state = .opened ∨ c.state = .reduce ∨ c.state = .armed)
  then s.modClp st fun c => { c with voidPlan := true }
  else s

/-- A sequencer faults (R327, R340): it stops before the instruction takes effect, and FAULT_INFO[15:0] is its pc. -/
def seqFault (s : State) (st : Fin 8) (n : Fin 4) (cls det high addr : Nat) : State :=
  let s1 := s.modSeq st n fun q => { q with st := .faulted, wait := .none }
  seqVoid (recordFault s1 (seqPage st n) cls det ((s.seq st n).pc.toNat + high % 2 ^ 16 * 2 ^ 16) addr) st n

/-- An instruction has been executed: the pc moves to `pc` and SEQ_ICNT counts it. -/
def seqNext (s : State) (st : Fin 8) (n : Fin 4) (pc : BitVec 15) : State :=
  (s.modSeq st n fun q => { q with pc := pc, wait := .none, abandoned := false }).countPair (seqPage st n) 0x064

/-- An instruction has been executed with a change to the sequencer, and the next one follows. -/
def seqDo (s : State) (st : Fin 8) (n : Fin 4) (f : Seq → Seq) : State :=
  seqNext (s.modSeq st n f) st n ((s.seq st n).pc + 1)

/-- The instruction at the pc waits (SEQ_STAT.WAITING). -/
def seqHold (s : State) (st : Fin 8) (n : Fin 4) (w : SeqWait) : State := s.modSeq st n fun q => { q with wait := w }

/-- A wait ends: SEQ_WAIT_CYC grows by the time it lasted, a measure of time (R338; assumption 3). -/
def waitEnded (s : State) (st : Fin 8) (n : Fin 4) : State :=
  let (t, s1) := s.drawElapsed
  s1.countPair (seqPage st n) 0x070 t.toNat

/-- A sequencer that executes: RUNNING, not waiting, and not cut over to a spare (R425). -/
def seqRuns (s : State) (st : Fin 8) (n : Fin 4) : Bool :=
  (s.seq st n).st == .running && (s.seq st n).wait == .none && !s.swapping st 6 n.val

/-- One instruction of opcode `opc` (R314): the command-word check of the word at the pc, then its guard, then its effect.
A word that holds another listed opcode is another command's, and this one changes nothing. -/
def issue (opc : Nat) (body : State → DWord → State) (st : Fin 8) (n : Fin 4) (s : State) :
    Host.Outcome State Fault Refusal :=
  if s.has st then
    .next (
      let w := (s.seq st n).instr
      if seqRuns s st n = false then s
      else if ksqOk w = false then seqFault s st n 0x0A 0x20 (ksqOpc w) 0
      else if ksqOpc w ≠ opc then s
      else if (s.seq st n).guard w then body s w
      else s.modSeq st n fun q => { q with pc := q.pc + 1 })
  else .fault .absentStack

/-! ### Arithmetic and control (R315) -/

/-- g[RD] := f g[RA] B. -/
def aluBody (f : DWord → DWord → DWord) (st : Fin 8) (n : Fin 4) (s : State) (w : DWord) : State :=
  seqDo s st n fun q => q.setGpr (ksqRd w) (f (q.gpr (ksqRa w)) (q.opB w))

/-- The shift amount B[5:0]. -/
def shiftAmount (b : DWord) : Nat := bitsOf b.toNat 5 0

/-- ADD. -/
def execAdd (st : Fin 8) (q : Fin 4) (s : State) : Host.Outcome State Fault Refusal :=
  issue 0x01 (aluBody (fun a b => a + b) st q) st q s
/-- SUB. -/
def execSub (st : Fin 8) (q : Fin 4) (s : State) : Host.Outcome State Fault Refusal :=
  issue 0x02 (aluBody (fun a b => a - b) st q) st q s
/-- AND. -/
def execAnd (st : Fin 8) (q : Fin 4) (s : State) : Host.Outcome State Fault Refusal :=
  issue 0x03 (aluBody (fun a b => a &&& b) st q) st q s
/-- OR. -/
def execOr (st : Fin 8) (q : Fin 4) (s : State) : Host.Outcome State Fault Refusal :=
  issue 0x04 (aluBody (fun a b => a ||| b) st q) st q s
/-- XOR. -/
def execXor (st : Fin 8) (q : Fin 4) (s : State) : Host.Outcome State Fault Refusal :=
  issue 0x05 (aluBody (fun a b => a ^^^ b) st q) st q s
/-- SHL. -/
def execShl (st : Fin 8) (q : Fin 4) (s : State) : Host.Outcome State Fault Refusal :=
  issue 0x06 (aluBody (fun a b => a <<< shiftAmount b) st q) st q s
/-- SHR. -/
def execShr (st : Fin 8) (q : Fin 4) (s : State) : Host.Outcome State Fault Refusal :=
  issue 0x07 (aluBody (fun a b => a >>> shiftAmount b) st q) st q s
/-- SAR. -/
def execSar (st : Fin 8) (q : Fin 4) (s : State) : Host.Outcome State Fault Refusal :=
  issue 0x08 (aluBody (fun a b => a.sshiftRight (shiftAmount b)) st q) st q s
/-- MUL: the low 64 bits. -/
def execMul (st : Fin 8) (q : Fin 4) (s : State) : Host.Outcome State Fault Refusal :=
  issue 0x09 (aluBody (fun a b => a * b) st q) st q s

/-- MOVHI: IMM in the high half, g[RA] mod 2^32 in the low one. -/
def movhiBody (st : Fin 8) (n : Fin 4) (s : State) (w : DWord) : State :=
  seqDo s st n fun q =>
    q.setGpr (ksqRd w) (BitVec.ofNat 64 (ksqImm w * 2 ^ 32 + (q.gpr (ksqRa w)).toNat % 2 ^ 32))
/-- MOVHI. -/
def execMovhi (st : Fin 8) (q : Fin 4) (s : State) : Host.Outcome State Fault Refusal :=
  issue 0x0A (movhiBody st q) st q s

/-- CMP: p[RD] := g[RA] c B. -/
def cmpBody (st : Fin 8) (n : Fin 4) (s : State) (w : DWord) : State :=
  seqDo s st n fun q => q.setPred (ksqRd w) (cmpCond (ksqFn w) (q.gpr (ksqRa w)) (q.opB w))
/-- CMP. -/
def execCmp (st : Fin 8) (q : Fin 4) (s : State) : Host.Outcome State Fault Refusal :=
  issue 0x10 (cmpBody st q) st q s

/-- PSET: p[RD] := p[RA] f p[RB]. -/
def psetBody (st : Fin 8) (n : Fin 4) (s : State) (w : DWord) : State :=
  seqDo s st n fun q => q.setPred (ksqRd w) (psetFn (ksqFn w) (q.pred (ksqRa w)) (q.pred (ksqRb w)))
/-- PSET. -/
def execPset (st : Fin 8) (q : Fin 4) (s : State) : Host.Outcome State Fault Refusal :=
  issue 0x11 (psetBody st q) st q s

/-- pc + sext(IMM), in the 15 bits of the pc. -/
def branchTarget (q : Seq) (w : DWord) : BitVec 15 := q.pc + BitVec.ofNat 15 (ksqSext w).toNat

/-- BR. -/
def execBr (st : Fin 8) (q : Fin 4) (s : State) : Host.Outcome State Fault Refusal :=
  issue 0x18 (fun s w => seqNext s st q (branchTarget (s.seq st q) w)) st q s

/-- CALL: g31 := pc + 1, then as BR. -/
def callBody (st : Fin 8) (n : Fin 4) (s : State) (w : DWord) : State :=
  seqNext (s.modSeq st n fun q => q.setGpr 31 (BitVec.ofNat 64 (q.pc.toNat + 1))) st n (branchTarget (s.seq st n) w)
/-- CALL. -/
def execCall (st : Fin 8) (q : Fin 4) (s : State) : Host.Outcome State Fault Refusal :=
  issue 0x19 (callBody st q) st q s

/-- JMP: pc := g[RA] mod 2^15. -/
def execJmp (st : Fin 8) (q : Fin 4) (s : State) : Host.Outcome State Fault Refusal :=
  issue 0x1A (fun s w => seqNext s st q (BitVec.ofNat 15 ((s.seq st q).gpr (ksqRa w)).toNat)) st q s

/-- A sequencer leaves RUNNING for a state at rest, and its event is raised; a mailbox whose receiver this was starts its
timer (the environment's MBX_TIMEOUT). -/
def seqRest (s : State) (st : Fin 8) (n : Fin 4) (dst : SeqState) (evt : Nat) : State :=
  raiseEvt (s.modSeq st n fun q => { q with st := dst, wait := .none }) (seqPage st n) evt

/-- HALT: SEQ_EXIT := IMM; HALTED. The pc stays at the HALT. -/
def haltBody (st : Fin 8) (n : Fin 4) (s : State) (w : DWord) : State :=
  seqRest ((s.modSeq st n fun q => { q with exit := BitVec.ofNat 32 (ksqImm w) }).countPair (seqPage st n) 0x064) st n
    .halted 3
/-- HALT. -/
def execHalt (st : Fin 8) (q : Fin 4) (s : State) : Host.Outcome State Fault Refusal :=
  issue 0x1C (haltBody st q) st q s

/-- TRAP: FAULT_INFO[31:16] := IMM[15:0]. -/
def execTrap (st : Fin 8) (q : Fin 4) (s : State) : Host.Outcome State Fault Refusal :=
  issue 0x1D (fun s w => seqFault s st q 0x0A 0x27 (ksqImm w) 0) st q s

/-- NOP. -/
def execNop (st : Fin 8) (q : Fin 4) (s : State) : Host.Outcome State Fault Refusal :=
  issue 0x3F (fun s _ => seqDo s st q id) st q s

/-! ### The data store and the buffers (R315, R323) -/

/-- A data store range: aligned to its size and within 65,536 bytes. -/
def dataOk (a : DWord) (n : Nat) : Bool := a.toNat % n == 0 && a.toNat + n ≤ 65536

/-- Bytes of the data store, and bytes stored in it. -/
def Seq.data (q : Seq) (a n : Nat) : List Byte := Sparse.getList (fun _ => 0) q.dstore a n
def Seq.setData (q : Seq) (a : Nat) (bs : List Byte) : Seq :=
  { q with dstore := Sparse.setList (fun _ => 0) q.dstore a bs }

/-- An instruction on the data store at g[RA] + B, or DATA_RANGE (R323). -/
def dataBody (size : Nat) (f : Seq → Nat → Seq) (st : Fin 8) (n : Fin 4) (s : State) (w : DWord) : State :=
  let a := (s.seq st n).sum w
  if dataOk a size then seqDo s st n fun q => f q a.toNat
  else seqFault s st n 0x0A 0x23 (min a.toNat 0xFFFF) a.toNat

/-- LDD. -/
def execLdd (st : Fin 8) (q : Fin 4) (s : State) : Host.Outcome State Fault Refusal :=
  issue 0x20 (fun s w => dataBody 8 (fun x a => x.setGpr (ksqRd w) (BitVec.ofNat 64 (leNat (x.data a 8)))) st q s w) st q s
/-- STD. -/
def execStd (st : Fin 8) (q : Fin 4) (s : State) : Host.Outcome State Fault Refusal :=
  issue 0x21 (fun s w => dataBody 8 (fun x a => x.setData a (leBytes (x.gpr (ksqRd w)).toNat 8)) st q s w) st q s
/-- DLD. -/
def execDld (st : Fin 8) (q : Fin 4) (s : State) : Host.Outcome State Fault Refusal :=
  issue 0x2A (fun s w => dataBody 32 (fun x a => x.setBuf (ksqRd w) (BitVec.ofNat 256 (leNat (x.data a 32)))) st q s w) st q s
/-- DST. -/
def execDst (st : Fin 8) (q : Fin 4) (s : State) : Host.Outcome State Fault Refusal :=
  issue 0x2B (fun s w => dataBody 32 (fun x a => x.setData a (descBytes (x.buf (ksqRd w)))) st q s w) st q s

/-- DWR: word FN[1:0] of buffer RD := g[RA]. -/
def dwrBody (st : Fin 8) (n : Fin 4) (s : State) (w : DWord) : State :=
  seqDo s st n fun q => q.setBuf (ksqRd w) (setDescWord (q.buf (ksqRd w)) (ksqFn w) (q.gpr (ksqRa w)))
/-- DWR. -/
def execDwr (st : Fin 8) (q : Fin 4) (s : State) : Host.Outcome State Fault Refusal :=
  issue 0x28 (dwrBody st q) st q s

/-- DINS: bits [lo + w − 1 : lo] of word FN of buffer RD := g[RA][w − 1 : 0]. -/
def dinsBody (st : Fin 8) (n : Fin 4) (s : State) (w : DWord) : State :=
  let lo := bitsOf (ksqImm w) 5 0
  let wd := bitsOf (ksqImm w) 12 6
  seqDo s st n fun q =>
    let old := descWord (q.buf (ksqRd w)) (ksqFn w)
    q.setBuf (ksqRd w) (setDescWord (q.buf (ksqRd w)) (ksqFn w)
      (BitVec.ofNat 64 (withBits old.toNat (lo + wd - 1) lo (q.gpr (ksqRa w)).toNat)))
/-- DINS. -/
def execDins (st : Fin 8) (q : Fin 4) (s : State) : Host.Outcome State Fault Refusal :=
  issue 0x29 (dinsBody st q) st q s

/-! ### Queues (R316 to R321) -/

/-- The depth of a queue (R316, R373). -/
def queueDepth (q : Nat) : Nat := if (0x80 ≤ q ∧ q < 0x84) ∨ (0xB0 ≤ q ∧ q < 0xB8) ∨ (0xC0 ≤ q) then 16 else 32

/-- The entries an engine has not accepted, which fill the queue. -/
def Queue.waiting (q : Queue) : Nat := (q.entries.filter fun e => e.st == .queued).length

/-- The resource of a queue is being re-bound: from quiescing on, no new work is accepted (R331, R333). -/
def queueRebinding (s : State) (st : Fin 8) (q : Nat) : Bool :=
  match queuePage st q with
  | some p =>
    if p.blk = .smp then
      (s.st st).arb.bind.any fun c => c.left.any fun r => r.res == 0x100 + (q - 0x80)
    else 2 ≤ s.fld p 0x034 2 0
  | none => false

/-- The buffer's copy enters the queue and g[RD] receives its token (R317). -/
def pushNow (s : State) (st : Fin 8) (n : Fin 4) (w : DWord) (q : Nat) : State :=
  let x := s.seq st n
  let e : Entry := { desc := sealDesc (x.buf (ksqFn w)), plan := BitVec.ofNat 16 (seqPlan s st n), by_ := n.val }
  let token := (s.queue st q).accept + 1
  seqDo ((s.modQueue st q (fun y => y.push e)).countWrap (seqPage st n) 0x06C) st n fun y =>
    ({ y with pushed := Sparse.set (fun _ => 0) y.pushed q token } : Seq).setGpr (ksqRd w) (BitVec.ofNat 64 token.toNat)

/-- PUSH (R317): QUEUE_NUM, PUSH_BIND, a wait for room, or the push. -/
def pushBody (st : Fin 8) (n : Fin 4) (s : State) (w : DWord) : State :=
  let v := ((s.seq st n).sum w).toNat
  if queuePage st v = none then seqFault s st n 0x0A 0x22 (min v 0xFFFF) 0
  else if queueBind s st v ≠ seqPlan s st n ∨ queueRebinding s st v = true then seqFault s st n 0x0A 0x21 v 0
  else if queueDepth v ≤ (s.queue st v).waiting then seqHold s st n .queueFull
  else pushNow s st n w v
/-- PUSH. -/
def execPush (st : Fin 8) (q : Fin 4) (s : State) : Host.Outcome State Fault Refusal :=
  issue 0x2C (pushBody st q) st q s

/-- The end of a wait of kind `k` at the instruction it waits in. -/
def resume (k : SeqWait) (body : State → DWord → State) (st : Fin 8) (n : Fin 4) (s : State) :
    Host.Outcome State Fault Refusal :=
  if s.has st then
    .next (if (s.seq st n).st = .running ∧ (s.seq st n).wait = k then body s (s.seq st n).instr else s)
  else .fault .absentStack

/-- PUSH_QUEUE_ROOM (R317): an entry has freed. -/
def execPushQueueRoom (st : Fin 8) (q : Fin 4) (s : State) : Host.Outcome State Fault Refusal :=
  resume .queueFull (fun s w =>
    let v := ((s.seq st q).sum w).toNat
    if queueDepth v ≤ (s.queue st v).waiting then s else pushNow (waitEnded s st q) st q w v) st q s

/-- The queue a WAITQ names: g[RA] + sext(IMM). -/
def waitqQueue (q : Seq) (w : DWord) : Nat := (q.gpr (ksqRa w) + ksqSext w).toNat

/-- WAITQ starts waiting; a queue number that R316 does not list is QUEUE_NUM (R321). -/
def execWaitq (st : Fin 8) (q : Fin 4) (s : State) : Host.Outcome State Fault Refusal :=
  issue 0x2E (fun s w =>
    let v := waitqQueue (s.seq st q) w
    if queuePage st v = none then seqFault s st q 0x0A 0x22 (min v 0xFFFF) 0 else seqHold s st q .waitq) st q s

/-- The outcome of a wait: whether every descriptor since the last wait on the queue retired cleanly, and a free value for a token
more than 2^31 behind the accept sequence, whose outcome the spec leaves undefined (R321; assumption 2). -/
def waitOutcome (s : State) (q : Queue) (from_ token : Word) : Bool × State :=
  if 2 ^ 31 < (q.accept - token).toNat then
    let (v, s1) := s.drawFree
    (bitAt v.toNat 0, s1)
  else (cleanUpTo q from_ token, s)

/-- WAITQ_DONE (R321): the retire sequence has reached the token; p[RD] holds the outcome. -/
def execWaitqDone (st : Fin 8) (q : Fin 4) (s : State) : Host.Outcome State Fault Refusal :=
  resume .waitq (fun s w =>
    let x := s.seq st q
    let v := waitqQueue x w
    let token := (x.gpr (ksqRb w)).setWidth 32
    if reached (s.queue st v) token then
      let (ok, s1) := waitOutcome (waitEnded s st q) (s.queue st v) (Sparse.get (fun _ => 0) x.waited v) token
      seqDo s1 st q fun y =>
        ({ y with waited := Sparse.set (fun _ => 0) y.waited v token } : Seq).setPred (ksqRd w) ok
    else s) st q s

/-- FENCE starts waiting (R321). -/
def execFence (st : Fin 8) (q : Fin 4) (s : State) : Host.Outcome State Fault Refusal :=
  issue 0x2F (fun s _ => seqHold s st q .fence) st q s

/-- FENCE_DONE (R321): every descriptor this sequencer has pushed has passed its queue's retire sequence. -/
def execFenceDone (st : Fin 8) (q : Fin 4) (s : State) : Host.Outcome State Fault Refusal :=
  resume .fence (fun s w =>
    let x := s.seq st q
    if x.pushed.all fun e => reached (s.queue st e.1) e.2 then
      let ok := x.pushed.all fun e => cleanUpTo (s.queue st e.1) (Sparse.get (fun _ => 0) x.waited e.1) e.2
      seqDo (waitEnded s st q) st q fun y =>
        (x.pushed.foldl (fun (y : Seq) e => { y with waited := Sparse.set (fun _ => 0) y.waited e.1 e.2 }) y).setPred
          (ksqRd w) ok
    else s) st q s

/-! ### Doorbells, time and positions -/

/-- WAITDB starts waiting (R315). -/
def execWaitdb (st : Fin 8) (q : Fin 4) (s : State) : Host.Outcome State Fault Refusal :=
  issue 0x30 (fun s _ => seqHold s st q .waitdb) st q s

/-- WAITDB_DONE (R315, R387): doorbell bits of the home mailbox that are set in B stand in g[RD] and are cleared. -/
def execWaitdbDone (st : Fin 8) (q : Fin 4) (s : State) : Host.Outcome State Fault Refusal :=
  resume .waitdb (fun s w =>
    let x := s.seq st q
    let hit := (s.box st q.val).db &&& (x.opB w).setWidth 32
    if hit = 0 then s
    else seqDo ((waitEnded s st q).modBox st q.val fun b => { b with db := b.db &&& ~~~hit }) st q fun y =>
      y.setGpr (ksqRd w) (hit.setWidth 64)) st q s

/-- TIME (R315): the cadence position, or the SCLK cycles since the domain powered up, a measure of time
(assumption 3). -/
def timeBody (st : Fin 8) (n : Fin 4) (s : State) (w : DWord) : State :=
  if ksqFn w = 0 then seqDo s st n fun q => q.setGpr (ksqRd w) (s.st st).tns.pos
  else
    let (t, s1) := s.drawElapsed
    seqDo s1 st n fun q => q.setGpr (ksqRd w) t
/-- TIME. -/
def execTime (st : Fin 8) (q : Fin 4) (s : State) : Host.Outcome State Fault Refusal :=
  issue 0x32 (timeBody st q) st q s

/-- WAITPOS starts waiting (R315). -/
def execWaitpos (st : Fin 8) (q : Fin 4) (s : State) : Host.Outcome State Fault Refusal :=
  issue 0x33 (fun s _ => seqHold s st q .waitpos) st q s

/-- WAITPOS_DONE (R315): the Tense unit is LOCKED and its position is at or past g[RA] + B. -/
def execWaitposDone (st : Fin 8) (q : Fin 4) (s : State) : Host.Outcome State Fault Refusal :=
  resume .waitpos (fun s w =>
    let u := (s.st st).tns
    if u.lock = .locked ∧ ((s.seq st q).sum w).toNat ≤ u.pos.toNat then seqDo (waitEnded s st q) st q id else s) st q s

/-! ### The watchdog (R322) -/

/-- SEQ_STAT.STATE (R338). -/
def seqCode : SeqState → Nat
  | .empty => 0 | .loading => 1 | .ready => 2 | .running => 3 | .stopped => 4 | .halted => 5 | .faulted => 6 | .ctx => 7

/-- WAITKIND (R338). -/
def waitKind : SeqWait → Nat
  | .none => 0
  | .queueFull => 1
  | .waitq => 2
  | .fence => 3
  | .waitdb => 4
  | .waitpos => 5
  | .ldg _ | .rdr _ => 6

/-- SEQ_WATCHDOG (R322): the wait has lasted SEQ_WDOG.LIMIT milliseconds. LIMIT 0 disables it. -/
def execSeqWatchdog (st : Fin 8) (q : Fin 4) (s : State) : Host.Outcome State Fault Refusal :=
  if s.has st then
    .next (
      let x := s.seq st q
      if x.st = .running ∧ x.wait ≠ .none ∧ s.fld (seqPage st q) 0x05C 15 0 ≠ 0 then
        raiseEvt (seqFault s st q 0x0A 0x26 (waitKind x.wait) 0) (seqPage st q) 7
      else s)
  else .fault .absentStack

/-! ### SEQ commands (R325, R326, R328) -/

/-- CMD_REFUSED (R326). -/
def seqRefuse (s : State) (st : Fin 8) (n : Fin 4) : State := s.modSeq st n fun q => { q with refused := true }

/-- A sequencer is dead: it takes every command but CLEAR as refused (R428). -/
def seqDead (s : State) (st : Fin 8) (n : Fin 4) : Bool := s.flag (stackPage st .arb) 0x0B4 (24 + n.val)

/-- Everything a plan left in a sequencer is zeroed: stores, registers, predicates and buffers (R326, R341). What the
sequencer's WAITQ and FENCE have covered, and what it pushed, belongs to the sequencer and its queues (R321), so it stays. -/
def Seq.cleared (q : Seq) : Seq :=
  { st := .empty, refused := q.refused, exit := q.exit, waited := q.waited, pushed := q.pushed, loadReply := none }

/-- The sequencer's page accepts work: ENABLE is 1 and QUIESCE is 0 (R30). -/
def seqAccepts (s : State) (st : Fin 8) (n : Fin 4) : Bool :=
  s.flag (seqPage st n) 0x008 0 && !s.flag (seqPage st n) 0x008 2

/-- LOAD (R326): LOADING begins; a LOAD from a state that does not list it is refused. -/
def seqLoad (s : State) (st : Fin 8) (n : Fin 4) : State :=
  match (s.seq st n).st with
  | .empty | .ready | .stopped | .halted | .faulted =>
    if seqDead s st n then seqRefuse s st n else s.modSeq st n fun q => { q with st := .loading, wait := .none }
  | _ => seqRefuse s st n

/-- START (R326): not after a fault until its clearing write (R340). -/
def seqStart (s : State) (st : Fin 8) (n : Fin 4) : State :=
  if (s.seq st n).st = .ready ∧ s.faulted (seqPage st n) = false ∧ seqAccepts s st n = true ∧ seqDead s st n = false then
    s.modSeq st n fun q => { q with st := .running, pc := q.entry, wait := .none, abandoned := false }
  else seqRefuse s st n

/-- STOP (R326): before the next instruction; a waiting instruction is abandoned and pc names it. -/
def seqStop (s : State) (st : Fin 8) (n : Fin 4) : State :=
  if (s.seq st n).st = .running ∧ s.faulted (seqPage st n) = false ∧ seqDead s st n = false then
    seqRest (s.modSeq st n fun q => { q with abandoned := q.wait != .none }) st n .stopped 4
  else seqRefuse s st n

/-- RESUME (R326): continues at pc; an abandoned wait begins again. -/
def seqResume (s : State) (st : Fin 8) (n : Fin 4) : State :=
  if (s.seq st n).st = .stopped ∧ s.faulted (seqPage st n) = false ∧ seqAccepts s st n = true ∧ seqDead s st n = false then
    s.modSeq st n fun q => { q with st := .running, wait := .none, abandoned := false }
  else seqRefuse s st n

/-- SAVE (R326). -/
def seqSave (s : State) (st : Fin 8) (n : Fin 4) (withData : Bool) : State :=
  match (s.seq st n).st with
  | .stopped | .halted | .faulted =>
    if seqDead s st n then seqRefuse s st n
    else s.modSeq st n fun q => { q with st := .ctx, ctx := .save withData q.st }
  | _ => seqRefuse s st n

/-- RESTORE (R326). -/
def seqRestore (s : State) (st : Fin 8) (n : Fin 4) : State :=
  match (s.seq st n).st with
  | .ready | .stopped | .halted | .faulted =>
    if seqDead s st n then seqRefuse s st n
    else s.modSeq st n fun q => { q with st := .ctx, ctx := .restore q.st }
  | _ => seqRefuse s st n

/-- CLEAR (R326): from any state except LOADING and CTX. -/
def seqClear (s : State) (st : Fin 8) (n : Fin 4) : State :=
  match (s.seq st n).st with
  | .loading | .ctx => seqRefuse s st n
  | _ => s.modSeq st n Seq.cleared

/-- SEQ_CMD (R326, R338): OP 0 is no command, a reserved OP is refused. -/
def seqCmd (s : State) (st : Fin 8) (n : Fin 4) (v : Word) : State :=
  match bitsOf v.toNat 3 0 with
  | 0 => s
  | 1 => seqLoad s st n
  | 2 => seqStart s st n
  | 3 => seqStop s st n
  | 4 => seqResume s st n
  | 5 => seqSave s st n (bitAt v.toNat 4)
  | 6 => seqRestore s st n
  | 7 => seqClear s st n
  | _ => seqRefuse s st n

/-! ### Contexts (R328) -/

/-- The context layout (R328). -/
def Seq.context (q : Seq) (plan : Nat) (withData : Bool) : List Byte :=
  leBytes 1 2 ++ leBytes plan 2 ++ leBytes q.pc.toNat 2 ++ leBytes (q.p.toNat ||| 1) 1 ++
  leBytes (bit withData + 2 * bit q.abandoned) 1 ++ leBytes q.exit.toNat 4 ++ List.replicate 52 0 ++
  (List.range 32).flatMap (fun i => leBytes (q.gpr i).toNat 8) ++ (List.range 8).flatMap (fun i => descBytes (q.buf i)) ++
  (if withData then q.data 0 65536 else [])

/-- The sequencer that a context's bytes give, but for its stores and state. -/
def Seq.fromContext (q : Seq) (bs : List Byte) : Seq :=
  let num := fun i k => leNat (slice bs i k)
  { q with
    pc := BitVec.ofNat 15 (num 4 2), p := BitVec.ofNat 8 (num 6 1), exit := BitVec.ofNat 32 (num 8 4),
    abandoned := bitAt (num 7 1) 1,
    g := Vector.ofFn fun i => if i.val = 0 then 0 else BitVec.ofNat 64 (num (64 + 8 * i.val) 8),
    b := Vector.ofFn fun i => BitVec.ofNat 256 (num (320 + 32 * i.val) 32) }

/-- The fixed part of a context keeps R328's form: FORMAT 1, its zero fields, bit 0 of PREDS, and g0 zero. -/
def contextOk (bs : List Byte) : Bool :=
  leNat (slice bs 0 2) == 1 && bitAt (leNat (slice bs 6 1)) 0 && leNat (slice bs 12 52) == 0 &&
    bitsOf (leNat (slice bs 7 1)) 7 2 == 0 && bitAt (leNat (slice bs 4 2)) 15 == false && leNat (slice bs 64 8) == 0

/-- The context address lies in a region bound to the sequencer's plan (R328). -/
def contextArea (s : State) (st : Fin 8) (n : Fin 4) (a k : Nat) : Bool :=
  inMemory s st a k && (regionCheck s st (seqPlan s st n) false false a k).isNone

/-- The end of SAVE: the context is written, or the fault. -/
def saveDone (s : State) (st : Fin 8) (n : Fin 4) (withData : Bool) (back : SeqState) : State :=
  let a := s.pair (seqPage st n) 0x050
  let bs := (s.seq st n).context (seqPlan s st n) withData
  let s0 := s.modSeq st n fun q => { q with st := back, ctx := .none }
  if contextArea s st n a bs.length = false then seqFault s0 st n 0x0A 0x24 1 a
  else match engWrite s0 st (seqPlan s st n) false a bs with
    | (s1, none) => raiseEvt s1 (seqPage st n) 6
    | (s1, some (.region det rgn f)) => seqFault s1 st n 0x0A det rgn f
    | (s1, some (.ecc f)) => seqFault (countUe s1 f) st n 0x02 0x11 0 f

/-- The end of RESTORE: the registers take the context, or the fault changes nothing else. -/
def restoreDone (s : State) (st : Fin 8) (n : Fin 4) (back : SeqState) : State :=
  let a := s.pair (seqPage st n) 0x050
  let s0 := s.modSeq st n fun q => { q with st := back, ctx := .none }
  if contextArea s st n a 576 = false then seqFault s0 st n 0x0A 0x24 1 a
  else
    let bs := s.bytes a 576
    let withData := bitAt (leNat (slice bs 7 1)) 0
    if readFailure s a 576 ≠ none then seqFault (countUe s0 a) st n 0x02 0x11 0 a
    else if contextOk bs = false then seqFault s0 st n 0x0A 0x2A (leNat (slice bs 0 2)) a
    else if leNat (slice bs 2 2) ≠ seqPlan s st n then seqFault s0 st n 0x0A 0x29 (leNat (slice bs 2 2)) a
    else if withData ∧ contextArea s st n a 66112 = false then seqFault s0 st n 0x0A 0x24 1 a
    else
      let s1 := s0.modSeq st n fun q =>
        let q1 := (q.fromContext bs)
        let q2 := if withData then q1.setData 0 (s.bytes (a + 576) 65536) else q1
        { q2 with st := .stopped }
      raiseEvt s1 (seqPage st n) 6

/-- SEQ_CTX_DONE (R328). -/
def execSeqCtxDone (st : Fin 8) (q : Fin 4) (s : State) : Host.Outcome State Fault Refusal :=
  if s.has st then
    .next (match (s.seq st q).st, (s.seq st q).ctx with
      | .ctx, .save d back => saveDone s st q d back
      | .ctx, .restore back => restoreDone s st q back
      | _, _ => s)
  else .fault .absentStack

end Sys2Proof.Machine
end

