-- ==== Sys2Proof/Machine/Gate.lean ====
section
/-! DEFINITION. The Clasp (R41 to R50, R65, R89, R90, R250 to R254): the gate and its decision, the optimizer kernels, and the ends of
the committed and VOID sequences. -/

namespace Sys2Proof.Machine

/-! ### Kernels (R252) -/

/-- What a kernel computes for an array: the exact updated values, and the new moments. -/
structure Kernel where
  w : List Val
  m : List Val := []
  v : List Val := []
  g1 : Word := 0

/-- One element's update: the moments m1 and v1 and the update d (KIND 1, 2 and 4). -/
def kernelStep (o : Opt) (lr : Val) (g m v : Val) : Word × Word × Word :=
  let nlr := lr.negate
  let one : Val := .fin false 1 0
  match o.kind with
  | 1 => (0, 0, toF32 (nlr.mul g))
  | 2 =>
    let m1 := toF32 (((f32 o.b1).mul m).add g)
    (m1, 0, toF32 (nlr.mul (f32 m1)))
  | _ =>
    let c1 := toF32 (one.add (f32 o.b1).negate)
    let c2 := toF32 (one.add (f32 o.b2).negate)
    let m1 := toF32 (((f32 o.b1).mul m).add (f32 (toF32 ((f32 c1).mul g))))
    let v1 := toF32 (((f32 o.b2).mul v).add (f32 (toF32 ((f32 c2).mul (f32 (toF32 (g.mul g)))))))
    let den := fadd (fsqrt (fmul v1 o.c2)) o.eps
    (m1, v1, fdiv (toF32 (nlr.mul (f32 (fmul m1 o.c1)))) den)

/-- A kernel over an array of gradients, weights and moments; `g0` is the row's stored G (KIND 3). -/
def kernel (o : Opt) (gs ws ms vs : List Val) (g0 : Word) : Kernel :=
  let lr := f32 (toF32 ((f32 o.lr).scale o.u))
  let put := fun (w : Val) (d : Word) => w.add ((f32 d).scale (-o.u))
  if o.kind = 3 then
    let sum := gs.foldl (fun (a g : Val) => a.add (g.mul g)) .zero
    let g1 := fadd g0 (toF32 (sum.div (.fin false gs.length 0)))
    let den := fadd (fsqrt g1) o.eps
    { w := List.zipWith put ws (gs.map fun g => fdiv (toF32 (lr.negate.mul g)) den), g1 := g1 }
  else
    let rs := (gs.zip (ms.zip vs)).map fun x => kernelStep o lr x.1 x.2.1 x.2.2
    { w := List.zipWith put ws (rs.map (·.2.2)), m := rs.map fun r => f32 r.1, v := rs.map fun r => f32 r.2.1 }

/-- Values stored under their final rounding (R90): FP32 by RNE; BF16 by SR with n = 16; MXFP8 with its blocks formed again under the
recipe, the exponent held at 127. `draw i n` gives element i's n random bits (R253). -/
def storeVals (fmt rcp : Nat) (draw : Nat → Nat → Nat) (vs : List Val) : List Byte :=
  match fmt with
  | 0 => vs.flatMap fun v => leBytes (toFmt fp32 .rne true v).1 4
  | 1 => vs.zipIdx.flatMap fun v => leBytes (toFmt bf16 (.sr 16 (draw v.2 16)) true v.1).1 2
  | _ =>
    let f := if rcp = 5 then e5m2 else e4m3
    let n := if rcp = 5 then 21 else 20
    mxRow ((List.range ((vs.length + 31) / 32)).map fun b =>
      let xs := (vs.drop (32 * b)).take 32
      let r := mxForm f 1 (fun i => .sr n (draw (32 * b + i) n)) (xs ++ List.replicate (32 - xs.length) .zero) true
      (r.1, r.2.1))

/-- The random bits of element `i` for a tensor (R253, R272). -/
def optDraw (key : BitVec 128) (tid : Word) (base i n : Nat) : Nat := keyedSlot key tid 0x2000 (base + i) (slotWidth n) % 2 ^ n

/-- Where an array lies, and its formats. -/
structure OptArray where
  n : Nat
  wfmt : Nat
  wa : Nat
  ma : Nat
  va : Nat
  tid : Word
  base : Nat

/-- Bytes written one piece after another by the Clasp's engines (area 6). -/
def optWrites (st : Fin 8) (plan : Nat) : List (Nat × List Byte) → State → State × Option TabErr
  | [], s => (s, none)
  | (a, bs) :: l, s =>
    match tabWrite s st plan 6 true a bs with
    | (s1, some e) => (s1, some e)
    | (s1, none) => optWrites st plan l s1

/-- A kernel run on an array in memory: its new weights' bytes, and whether a result was not finite. -/
def runKernel (s : State) (st : Fin 8) (plan : Nat) (o : Opt) (x : OptArray) (gs : List Val) :
    State × Except TabErr (List Byte × Bool) :=
  let key := (s.st st).keys.ks
  let vfmt := if o.mfmt = 5 then 6 else 1
  let prep : Except TabErr (List Val × List Val × List Val × Word) := do
    let w ← tabRead s st plan 6 x.wa (rowBytes x.wfmt x.n)
    let zeros := List.replicate x.n Val.zero
    let m ← if o.hasM then (tabRead s st plan 6 x.ma (rowBytes o.mfmt x.n)).map (decodeRow o.mfmt x.n) else .ok zeros
    let v ← if o.kind = 4 then (tabRead s st plan 6 x.va (rowBytes vfmt x.n)).map (decodeRow vfmt x.n) else .ok zeros
    let g ← if o.kind = 3 then (tabRead s st plan 6 x.va 4).map leNat else .ok 0
    .ok (decodeRow x.wfmt x.n w, m, v, BitVec.ofNat 32 g)
  match prep with
  | .error e => (s, .error e)
  | .ok (w, m, v, g) =>
    let k := kernel o gs w m v g
    let wb := storeVals x.wfmt 3 (optDraw key x.tid x.base) k.w
    let ws := [(x.wa, wb)] ++
      (if o.hasM then [(x.ma, storeVals o.mfmt 4 (optDraw key (x.tid + 1) x.base) k.m)] else []) ++
      (if o.kind = 4 then [(x.va, storeVals o.mfmt 5 (optDraw key (x.tid + 2) x.base) k.v)] else []) ++
      (if o.kind = 3 then [(x.va, leBytes k.g1.toNat 4)] else [])
    let bad := k.w.any (fun v => !v.finite) || (o.hasM && k.m.any fun v => !v.finite) ||
      (o.kind == 4 && k.v.any fun v => !v.finite) || (o.kind == 3 && nonfinite k.g1)
    match optWrites st plan ws s with
    | (s1, some e) => (s1, .error e)
    | (s1, none) => (s1, .ok (wb, bad))

/-! ### The dense commit list (R251) -/

/-- Where entry `i` of the dense commit list lies. -/
def denseAddr (s : State) (st : Fin 8) (i : Nat) : Nat := filAddr s st 0x060 + 128 * i

/-- A dense entry passes its checks (R250, R251). -/
def denseOk (bs : List Byte) : Bool :=
  let n := fun i => leNat (slice bs i 8)
  optOk (bs.drop 80) (n 16) (n 24) && (Opt.of (bs.drop 80)).kind != 3 && (bs.getD 44 0).toNat ≤ 1 &&
    ((bs.drop 45).take 35).all (· == 0)

/-- The check of the list before any update is issued. -/
def denseCheck (s : State) (st : Fin 8) : Option TabErr :=
  let cnt := s.fld (filPage st) 0x068 15 0
  let plan := bindOf s (filPage st)
  let bad := (List.range cnt).findSome? fun i =>
    match tabRead s st plan 6 (denseAddr s st i) 128 with
    | .error e => some e
    | .ok bs => if denseOk bs then none else some (tabErr 0x04 0xFFF (denseAddr s st i))
  if bad.isSome then bad
  else if cnt ≠ 0 ∧ s.pair (filPage st) 0x06C % 2 ^ 56 = 0 then some (tabErr 0x04 0xFFE 0)
  else none

/-- A failure of Filigree while it serves the Clasp: recorded with no tag, which tears the step (R45, R264). -/
def claspFault (s : State) (st : Fin 8) (e : TabErr) : State :=
  match e with
  | .fault cls det high addr => recordFault s (filPage st) cls det (high % 2 ^ 16 * 2 ^ 16) addr
  | .mem m area => memFault s (filPage st) m 0x10 0 area

/-- The kernel on one dense entry. -/
def denseUpdate (s : State) (st : Fin 8) (i : Nat) : State × Except TabErr Bool :=
  let plan := bindOf s (filPage st)
  match tabRead s st plan 6 (denseAddr s st i) 128 with
  | .error e => (s, .error e)
  | .ok bs =>
    let n := fun i => leNat (slice bs i 8)
    let o := Opt.of (bs.drop 80)
    if o.kind = 0 ∨ n 32 = 0 then (s, .ok false)
    else match tabRead s st plan 8 (n 8) (4 * n 32) with
    | .error e => (s, .error e)
    | .ok g =>
      match runKernel s st plan o ⟨n 32, (bs.getD 44 0).toNat, n 0, n 16, n 24, BitVec.ofNat 32 (leNat (slice bs 40 4)), 0⟩
          (decodeRow 0 (n 32) g) with
      | (s1, .error e) => (s1, .error e)
      | (s1, .ok (_, bad)) => (s1, .ok bad)

/-! ### Touched rows (R251 to R253, R258) -/

/-- The kernel on one touched row; a row of a local table is discarded with the set (R247), one of a frozen table left as it
is. Answers whether it was updated and whether a result was not finite. -/
def rowUpdate (s : State) (st : Fin 8) (r : TouchedRow) : State × Except TabErr (Bool × Bool) :=
  let plan := bindOf s (filPage st)
  match readTable s st (bindOf s (clpPage st)) r.table with
  | .error e => (s, .error e)
  | .ok bs =>
    let t := Table.of bs
    if t.mode = 3 ∨ t.opt.kind = 0 then (s, .ok (false, false))
    else
      let gs := r.cells.map fun c => decode fp32 ((Acc.ofCode c).toCode fp32 r.w).1
      let str := momentStride t.opt.mfmt t.elems
      let x : OptArray :=
        { n := t.elems, wfmt := t.rfmt, wa := t.base + r.row * t.rstride, ma := t.mBase + r.row * str,
          va := t.vBase + r.row * (if t.opt.kind = 3 then 4 else str), tid := t.tid,
          base := unroute t st.val r.row * t.elems }
      match runKernel s st plan t.opt x gs with
      | (s1, .error e) => (s1, .error e)
      | (s1, .ok (wb, bad)) =>
        match (if t.hot then writeThrough s1 st plan r.table r.row wb else (s1, none)) with
        | (s2, some e) => (s2, .error e)
        | (s2, none) => (s2, .ok (true, bad))

/-- UPD_NF. -/
def updNf (s : State) (st : Fin 8) (bad : Bool) : State := if bad then s.setFlag (filPage st) 0x084 4 true else s

/-- Updates issued in order until one fails or the step is torn. -/
def issueDense (st : Fin 8) : List Nat → State → State
  | [], s => s
  | i :: l, s =>
    if (s.st st).clp.state ≠ .commit then s
    else match denseUpdate s st i with
    | (s1, .error e) => claspFault s1 st e
    | (s1, .ok bad) => issueDense st l (updNf s1 st bad)
def issueRows (st : Fin 8) : List TouchedRow → State → State
  | [], s => s
  | r :: l, s =>
    if (s.st st).clp.state ≠ .commit then s
    else match rowUpdate s st r with
    | (s1, .error e) => claspFault s1 st e
    | (s1, .ok (done, bad)) => issueRows st l (updNf (if done then s1.countPair (filPage st) 0x098 else s1) st bad)

/-- A stack's updates of a committed step: its dense entries, its touched rows, then UPDATE_DONE. -/
def commitUpdates (s : State) (st : Fin 8) : State :=
  let s1 := issueRows st (s.st st).fil.touched (issueDense st (List.range (s.fld (filPage st) 0x068 15 0)) s)
  if (s1.st st).clp.state = .commit then raiseEvt s1 (filPage st) 7 else s1

/-! ### The gate (R41, R42, R65, R371) -/

/-- The stack's Clasp begins: CLP_LAST_POS, and CLP_LATE with LATE where it begins after its event's position. -/
def claspBegin (s : State) (st : Fin 8) : State :=
  let pos := (s.st st).tns.pos
  let due := (s.st st).clp.due.getD pos
  let s1 := s.modClp st fun c => { c with lastPos := pos, late := sat32 (pos.toNat - due.toNat) }
  if due.toNat < pos.toNat then raiseEvt s1 (clpPage st) 7 else s1

/-- The stacks' step numbers differ (R42): every stack raises STACK_DISAGREE, with the lowest that differs, and goes to TORN. -/
def disagree (s : State) (lowest : Nat) : State :=
  s.stacksIn.foldl (fun s i => tornNow 0x0032 (recordFault s (clpPage i) 0x09 0x24 lowest 0) i) s

/-- A vote was late (R371): the stacks that voted record VOTE_LATE for their lowest voting channel, and every stack goes to
TORN. -/
def voteLateTorn (s : State) : State :=
  s.stacksIn.foldl (fun s i =>
    let vs := (s.st i).chans.filter fun e => e.2.vote && e.2.step == (s.st i).clp.step && e.2.voteSent
    let s1 := match vs.head? with
      | some e => recordFault s (stackPage i .kxt) 0x06 0x17 (e.1 * 2 ^ 16 + e.1) 0
      | none => s
    tornNow 0x0032 s1 i) s

/-- OUTCOME of the step record (R65): the lowest cause of a VOID. -/
def stepOutcome (s : State) : Nat :=
  let on := fun (f : Clasp → Bool) => s.stacksIn.any fun i => f (s.st i).clp
  if on (·.voidLoss) then 1 else if on (·.voidPlan) then 2 else if on (·.voidRemote) then 3 else 0

/-- Stack 0's request for the step record (R65, R440). -/
def stepRecord (s : State) (outcome : Nat) : State :=
  let c := (s.st 0).clp
  locketRequest (s.modLkt fun l => { l with stepWaits := true }) (clpPage 0).source 1 0 0x8001
    (leBytes c.step.toNat 8 ++ leBytes c.loss.toNat 4 ++ leBytes (mbCount s 0) 2 ++ leBytes c.lossMb.toNat 2 ++
      leBytes outcome 1 ++ [0, 0, 0] ++ leBytes c.late.toNat 4)

/-- No stack has torn the step. -/
def allCommit (s : State) : Bool := s.stacksIn.all fun i => (s.st i).clp.state == .commit

/-- The committed step's work at the gate: every stack's dense check before any update, the updates, and the step record. -/
def commitStep (s : State) : State :=
  let s1 := s.stacksIn.foldl (fun s i =>
    if (s.st i).clp.state ≠ .commit then s
    else match denseCheck s i with | some e => claspFault s i e | none => s) s
  if allCommit s1 = false then s1
  else
    let s2 := s1.stacksIn.foldl (fun s i => if (s.st i).clp.state = .commit then commitUpdates s i else s) s1
    if allCommit s2 then stepRecord s2 0 else s2

/-- CLASP_GATE_OPEN (R41, R42). -/
def claspGate (s : State) : State :=
  if (s.stacksIn.any fun i => gateMissing s i != 0) = true ∨ s.clocked = false then s
  else
    let s1 := s.stacksIn.foldl claspBegin s
    match s.stacksIn.find? fun i => (s.st i).clp.step != (s.st 0).clp.step with
    | some i => disagree s1 i.val
    | none =>
      if voteLate s then voteLateTorn s1
      else
        let outcome := stepOutcome s
        let seq : Sequence := if outcome = 0 then .commit else .void
        let s2 := s.stacksIn.foldl (fun s i => s.modClp i fun c => { c with state := .commit, sequence := seq }) s1
        if outcome = 0 then commitStep s2 else stepRecord s2 outcome

def execClaspGateOpen (s : State) : Host.Outcome State Fault Refusal := .next (claspGate s)

/-! ### Checkpoint events (R49) -/

/-- The CKPT record of a stream's end, or of an event discarded (R438). Where it and a fault of the page are requested
together, the record of R49 is the one the page holds (R439). -/
def ckptRecord (s : State) (st : Fin 8) (step bytes : DWord) (status : Nat) : State :=
  let kxt := stackPage st .kxt
  locketRequest s kxt.source kxt.order st 0x800A (leBytes step.toNat 8 ++ leBytes bytes.toNat 8 ++ leBytes status 2)

/-- CKPT_FAILED (R49, R364): KXT_CKPT_STAT shows how the last stream ended. -/
def ckptFailed (s : State) (st : Fin 8) (ctx status : Nat) : State :=
  let kxt := stackPage st .kxt
  recordFault (s.setFld kxt 0x0F4 2 1 2) kxt 0x06 0x18 (status * 2 ^ 16 + ctx % 2 ^ 16) 0

/-- Activity 11 runs or waits in the arbiter of stack 0. -/
def ckptActivity (s : State) : Bool := ((s.st 0).arb.run ++ (s.st 0).arb.wait).any fun a => a.act == 11

/-- A checkpoint event (R49, R62): discarded in TORN, waiting in COMMIT, else activity 11 is submitted to the arbiter of stack
0 (R334). That activity is the module's: the event of a stack that neither streams nor waits joins one already admitted or
waiting. -/
def ckptEvent (s : State) (st : Fin 8) : State :=
  let want := fun (s : State) => s.modSt st fun x => { x with ckpt := { x.ckpt with wanted := true } }
  match (s.st st).clp.state with
  | .torn => ckptFailed (ckptRecord s st (s.st st).clp.step 0 0xFFFE) st 0 0xFFFE
  | .commit => s.modClp st fun c => { c with ckptWaits := true }
  | _ =>
    if ckptActivity s ∧ (s.st st).ckpt.wanted = false ∧ (s.st st).ckpt.streaming = false then want s
    else
      let (s1, k) := submit s 0 1 11 0
      if k ≤ 1 then want s1 else s1

/-- A checkpoint event that waited for the end of a sequence. -/
def ckptAfter (s : State) (st : Fin 8) : State :=
  if (s.st st).clp.ckptWaits then ckptEvent (s.modClp st fun c => { c with ckptWaits := false }) st else s

/-! ### The ends of the sequences (R43, R46, R47) -/

/-- The touched-row set is cleared (R245). -/
def clearTouched (s : State) (st : Fin 8) : State := s.modFil st fun f => { f with touched := [] }

/-- COMMIT_SEQUENCE_END (R43): once the step record is written, the accumulators are cleared, the step is committed and the state
is IDLE. -/
def execCommitSequenceEnd (st : Fin 8) (s : State) : Host.Outcome State Fault Refusal :=
  if s.has st then
    .next (
      let c := (s.st st).clp
      if c.state = .commit ∧ c.sequence = .commit ∧ s.mod.lkt.stepWaits = false ∧ s.clocked then
        let (u, s1) := s.drawElapsed
        let s2 := (clearTouched s1 st).modClp st fun c =>
          { c.idled with committed := c.step, duration := sat32 (45000 + u.toNat) }
        quiesceRise s (ckptAfter (raiseEvt s2 (clpPage st) 3) st) (clpPage st)
      else s)
  else .fault .absentStack

/-- VOID_SEQUENCE_END (R46): the accumulators are discarded, CLP_VOID_CNT counts, and the state is IDLE. -/
def execVoidSequenceEnd (st : Fin 8) (s : State) : Host.Outcome State Fault Refusal :=
  if s.has st then
    .next (
      let c := (s.st st).clp
      if c.state = .commit ∧ c.sequence = .void ∧ s.mod.lkt.stepWaits = false ∧ s.clocked then
        let s1 := (clearTouched s st).modClp st fun c =>
          { c.idled with duration := 24750, voidCnt := sat32 (c.voidCnt.toNat + 1) }
        quiesceRise s (ckptAfter (raiseEvt s1 (clpPage st) 4) st) (clpPage st)
      else s)
  else .fault .absentStack

end Sys2Proof.Machine
end

