-- ==== Sys2Proof/Machine/Ckpt.lean ====
section
/-! DEFINITION. Checkpoint streams (R49, R50, R303, R364) and the sealing of what leaves the part (R411, R412). -/

namespace Sys2Proof.Machine

/-! ### Sealing (R411) -/

/-- A seal slot, and one changed. -/
def State.slot (s : State) (n : Nat) : SealSlot := if h : n < 16 then s.mod.bzl.slots[n] else {}
def State.modBzl (s : State) (f : Bezel → Bezel) : State := { s with mod := { s.mod with bzl := f s.mod.bzl } }
def State.modSlot (s : State) (n : Nat) (f : SealSlot → SealSlot) : State :=
  if h : n < 16 then s.modBzl fun b => { b with slots := b.slots.set n (f b.slots[n]) } else s

/-- The nonce of a sealed operation. -/
def sealNonce (dir : Nat) (seq : Nat) : List Byte := leBytes dir 1 ++ [0, 0, 0] ++ leBytes seq 8

/-- The additional data: bytes 0 to 1 and 6 to 15 of the operation header. -/
def sealAad (opc flags dlen : Nat) (addr : DWord) : List Byte :=
  leBytes opc 1 ++ leBytes flags 1 ++ leBytes dlen 2 ++ leBytes addr.toNat 8

/-- Data sealed with DIR 1 and the slot's next outbound SEQ. -/
def sealOut (s : State) (n opc flags : Nat) (addr : DWord) (data : List Byte) : List Byte × State :=
  let k := s.slot n
  let seq := (k.outSeq + 1).toNat
  let head := leBytes n 1 ++ [1, 0, 0] ++ leBytes seq 8 ++ [0, 0, 0, 0]
  let body := slice (Config.gcmSeal (bytes256 k.dk) (sealNonce 1 seq) (sealAad opc flags (data.length + 32) addr) data) 0
    (data.length + 16)
  (head ++ body, s.modSlot n fun k => { k with outSeq := k.outSeq + 1 })

/-- BZL_SEAL_CKPT of the primary (R414). -/
def ckptSlot (s : State) : Nat := s.fld (stackPage 0 .bzl) 0x074 3 0

/-! ### Streams (R303, R364) -/

/-- A stack's stream changed. -/
def State.modCkpt (s : State) (st : Fin 8) (f : Ckpt → Ckpt) : State := s.modSt st fun x => { x with ckpt := f x.ckpt }

/-- A stream ends: CKPT_HOLD clears and its CKPT record is requested. -/
def endStream (s : State) (st : Fin 8) (status : Nat) : State :=
  let k := (s.st st).ckpt
  ckptRecord ((s.modCkpt st fun k => { k with streaming := false, wanted := false }).modClp st fun c =>
    { c with ckptHold := false }) st k.step k.bytes status

/-- A stream is abandoned (R50, R364). -/
def abandonStream (s : State) (st : Fin 8) (status : Nat) : State :=
  ckptFailed (endStream s st status) st (s.st st).ckpt.sess status

/-- The regions a stream carries: valid, with CKPT = 1, in ascending number. -/
def ckptRegions (s : State) (st : Fin 8) : List (Nat × Region) := (s.st st).regions.filter fun e => e.2.valid && e.2.ckpt

/-- The attributes of a region as MEM_RGN_ATTR shows them. -/
def regionAttr (r : Region) : Nat := bit r.valid + 2 * bit r.cp + 4 * bit r.scrub + 8 * bit r.ckpt

/-- One CKPT_DATA is sent, sealed in sealed mode; the payloads sent so far are carried along for CKPT_CLOSE. -/
def sendCkptData (st : Fin 8) (ctx : Nat) (acc : State × List Byte) (piece : Nat × Nat) : State × List Byte :=
  let (s, sofar) := acc
  let data := s.bytes piece.1 piece.2
  let addr : DWord := BitVec.ofNat 64 piece.1
  if s.mod.bzl.sealed then
    let (sealed, s1) := sealOut s (ckptSlot s) 0x11 2 addr data
    (sendOp s1 st ctx (opBytes 0x11 2 0 0 addr sealed), sofar ++ sealed)
  else (sendOp s st ctx (opBytes 0x11 0 0 0 addr data), sofar ++ data)

/-- The pieces of a region, `n` bytes each. -/
def regionPieces_ (st : Fin 8) (n : Nat) (r : Region) : List (Nat × Nat) :=
  (List.range ((r.size.toNat + n - 1) / n)).map fun i =>
    (st.val * 2 ^ 48 + r.base.toNat + n * i, min n (r.size.toNat - n * i))

/-- The pieces that hold an uncorrectable error (R289). -/
def pieceBad (s : State) (p : Nat × Nat) : Bool := (readFailure s p.1 p.2).isSome

/-- The data of CKPT_OPEN: CLP_STEP, the stack and each region's base, size and attributes (the order and widths are
assumption 15). -/
def ckptOpenData (s : State) (st : Fin 8) : List Byte :=
  leBytes (s.st st).clp.step.toNat 8 ++ leBytes st.val 8 ++
    (ckptRegions s st).flatMap fun e => leBytes e.2.base.toNat 8 ++ leBytes e.2.size.toNat 8 ++ leBytes (regionAttr e.2) 8

/-- A stream starts and sends all it carries (R364). Where an uncorrectable error stops it, or sealed mode has no key for it,
the STATUS of CKPT_FAILED is open (assumption 2). -/
def startStream (s : State) (st : Fin 8) : State :=
  let c := (s.st st).clp
  match openSess s (s.fld (kxtPage st) 0x0F0 17 0) 2 with
  | some (i, ctx) =>
    if i ≠ st then abandonStream s st 0xFFFF
    else
      let x := s.sess st ctx
      let n := (maxPayload s st x.port x.link - 16 - (if s.mod.bzl.sealed then 32 else 0)) / 16 * 16
      let pieces := (ckptRegions s st).flatMap fun e => regionPieces_ st n e.2
      let s1 := (s.modCkpt st fun k =>
        { k with streaming := true, step := c.committed, sess := ctx,
                 bytes := BitVec.ofNat 64 (pieces.foldl (fun k p => k + p.2) 0) })
      let s2 := raiseEvt (s1.modClp st fun c => { c with ckptHold := true }) (clpPage st) 6
      if (s.mod.bzl.sealed ∧ (s.slot (ckptSlot s)).filled = false) ∨ pieces.any (pieceBad s) = true then
        let (v, s3) := s2.drawFree
        abandonStream s3 st (v.toNat % 2 ^ 16)
      else
        let s3 := sendOp s2 st ctx (opBytes 0x10 0 0 0 c.committed (ckptOpenData s st))
        let (s4, sent) := pieces.foldl (sendCkptData st ctx) (s3, [])
        sendOp s4 st ctx (opBytes 0x12 0 0 0 c.committed (leBytes sent.length 8 ++ shake sent 32))
  | none => abandonStream s st 0xFFFF

/-- CHECKPOINT_STREAM_START (R49, R364): activity 11 is admitted and the stack's event waits for it. In COMMIT it waits for the
end of the sequence; in TORN the event is discarded. -/
def execCheckpointStreamStart (st : Fin 8) (s : State) : Host.Outcome State Fault Refusal :=
  if s.has st then
    let k := (s.st st).ckpt
    .next (if k.wanted ∧ k.streaming = false ∧ ((s.st 0).arb.run.any fun a => a.act == 11) then
      match (s.st st).clp.state with
      | .torn =>
        ckptFailed (ckptRecord (s.modCkpt st fun k => { k with wanted := false }) st (s.st st).clp.step 0 0xFFFE) st 0 0xFFFE
      | .commit => s
      | _ => startStream s st
    else s)
  else .fault .absentStack

/-- A CKPT_ACK on a session of the stack (R364). -/
def ckptAck (s : State) (st : Fin 8) (ctx : Nat) (step : DWord) (status : Nat) : State :=
  let k := (s.st st).ckpt
  if k.streaming ∧ k.sess = ctx ∧ k.step = step then
    if status = 0 then
      raiseEvt ((endStream s st 0).setFld (kxtPage st) 0x0F4 2 1 1) (kxtPage st) 7
    else abandonStream s st status
  else s

/-- CKPT_ACK: on an OPEN STORE session. -/
def execCkptAck (st : Fin 8) (ctx : Nat) (step : DWord) (status : BitVec 16) (s : State) : Host.Outcome State Fault Refusal :=
  if s.has st then
    .next (if (s.sess st ctx).st = .opened ∧ (s.sess st ctx).role = 2 then ckptAck s st ctx step status.toNat else s)
  else .fault .absentStack

/-- A session that becomes FAILED or CLOSED under an open stream abandons it (R364). -/
def ckptSessionLost (s : State) (st : Fin 8) (ctx : Nat) : State :=
  if (s.st st).ckpt.streaming ∧ (s.st st).ckpt.sess = ctx then abandonStream s st 0xFFFF else s

end Sys2Proof.Machine
end

