-- ==== Sys2Proof/Machine/Collective.lean ====
section
/-! DEFINITION. Scheduled collectives (R366 to R372): channels, the segments they send and receive, and their failures. -/

namespace Sys2Proof.Machine

/-! ### Channels -/

/-- A channel, and one changed. -/
def State.chan (s : State) (st : Fin 8) (c : Nat) : Channel := Sparse.get (fun _ => {}) (s.st st).chans c
def State.modChan (s : State) (st : Fin 8) (c : Nat) (f : Channel → Channel) : State :=
  s.modSt st fun x => { x with chans := Sparse.set (fun _ => {}) x.chans c (f (Sparse.get (fun _ => {}) x.chans c)) }

/-- KXT_CHAN_STAT.STATE (R376). -/
def chanCode : ChanState → Nat
  | .idle => 0 | .starting => 1 | .data => 2 | .voting => 3 | .done => 4 | .failed => 5

/-- A channel that has started and not ended. -/
def Channel.active (x : Channel) : Bool := x.st == .starting || x.st == .data || x.st == .voting

/-- The plan the KXT page is bound to. -/
def kxtPlan (s : State) (st : Fin 8) : Nat := bindOf s (kxtPage st)

/-- The doorbell of a channel, rung at DONE or FAILED (R376). -/
def chanRing (s : State) (st : Fin 8) (c : Nat) : State :=
  let v := s.reg (kxtPage st) (0x0A0 + 4 * c)
  ringBits s st (bitsOf v.toNat 21 16) (BitVec.ofNat 32 (2 ^ bitsOf v.toNat 26 22))

/-- A channel stops (R372): it shows FAILED and rings its doorbell. -/
def chanStop (s : State) (st : Fin 8) (c : Nat) : State :=
  chanRing (s.modChan st c fun x => { x with st := .failed }) st c

/-- A channel fails with a code of R378. -/
def chanFail (s : State) (st : Fin 8) (c det high : Nat) : State :=
  chanStop (recordFault s (kxtPage st) 0x06 det (high * 2 ^ 16 + c) 0) st c

/-- A channel fails on a memory access (R300, R289; the code of an uncorrectable word is assumption 14). -/
def chanMemFail (s : State) (st : Fin 8) (c : Nat) (e : MemErr) : State :=
  chanStop (memFault s (kxtPage st) e 0x10 c 0) st c

/-! ### Segments (R368) -/

/-- The VOID flag of a segment: the VOID bits of every stack (R371). -/
def voidFlag (s : State) : Bool := voidBits s != 0

/-- A segment's bytes. -/
def collSegBytes (c phase flags rank round : Nat) (step : DWord) (index : Nat) (w : Int) (data : List Byte) : List Byte :=
  leBytes c 2 ++ leBytes phase 1 ++ leBytes flags 1 ++ leBytes rank 2 ++ leBytes round 2 ++ leBytes step.toNat 8 ++
    leBytes index 4 ++ leBytes (expBits 16 w) 2 ++ leBytes data.length 2 ++ List.replicate 8 0 ++ data

/-- A segment of a channel is sent to a rank. -/
def sendSeg (s : State) (st : Fin 8) (c dest phase round index : Nat) (w : Int) (fl : WinFlags) (data : List Byte) : State :=
  let x := s.chan st c
  sendOp s st (x.sess.getD dest 0 % 2 ^ 15)
    (opBytes 0x20 0 0 0 0 (collSegBytes c phase (bit (voidFlag s) + 2 * fl.byte) x.rank round x.step index w data))

/-! ### Units and chunks (R368, R369) -/

/-- Units of OP 0 and OP 2. -/
def Channel.units (x : Channel) : Nat := if x.op = 0 then 8 * x.count else (x.count + 1023) / 1024

/-- The units of chunk `j`: the first, and how many. -/
def Channel.chunk (x : Channel) (j : Nat) : Nat × Nat :=
  let a := j * x.units / x.nrank
  (a, (j + 1) * x.units / x.nrank - a)

/-- The chunk, or with OP 1 the list, that rank `k` sends in a round of REDUCE or GATHER. -/
def Channel.sends (x : Channel) (gather : Bool) (k round : Nat) : Nat :=
  (k + (if gather && x.op != 1 then 1 else 0) + x.nrank - round) % x.nrank

/-- The neighbours in the ring. -/
def Channel.pred (x : Channel) : Nat := (x.rank + x.nrank - 1) % x.nrank
def Channel.succ (x : Channel) : Nat := (x.rank + 1) % x.nrank

/-- Where the data of a unit lies, and its length. -/
def Channel.unitAt (x : Channel) (u : Nat) : Nat × Nat :=
  if x.op = 0 then (x.buf + u / 8 * lpTileBytes + 16 + u % 8 * 4096, 4096)
  else (x.buf + 4096 * u, 4 * min 1024 (x.count - 1024 * u))

/-- The slot of a list (OP 1). -/
def Channel.slotAt (x : Channel) (k : Nat) : Nat := x.recv + k * x.count

/-- BYTES of the list in a slot. -/
def listBytes (s : State) (a : Nat) : Nat := leNat (s.bytes (a + 16) 8)

/-- Exponent and flags of a sub-tile: its own, or those of its tile's header. -/
def subOf (s : State) (x : Channel) (u : Nat) : Int × Nat :=
  match Sparse.find x.subs u with
  | some v => v
  | none =>
    let h := s.bytes (x.buf + u / 8 * lpTileBytes) 3
    (toSigned 16 (leNat (h.take 2)), (h.getD 2 0).toNat)

def setSub (s : State) (st : Fin 8) (c u : Nat) (w : Int) (fl : WinFlags) : State :=
  s.modChan st c fun x => { x with subs := Sparse.put x.subs u (w, fl.byte) }

/-- How many units a round from the predecessor has: with OP 1 the blocks of its list, at least one, known from its first. -/
def chanUnits (s : State) (x : Channel) (gather : Bool) (round : Nat) : Nat :=
  let j := x.sends gather x.pred round
  if x.op = 1 then (if x.part = 0 then 1 else max 1 ((listBytes s (x.slotAt j) + 4095) / 4096)) else (x.chunk j).2

/-! ### Sending (R369) -/

/-- One unit of OP 0 or OP 2 is sent to the successor. -/
def sendUnit (st : Fin 8) (c phase round : Nat) (s : State) (u : Nat) : State :=
  let x := s.chan st c
  if x.active = false then s
  else
    let (a, n) := x.unitAt u
    match engRead s st (kxtPlan s st) a n with
    | .error e => chanMemFail s st c e
    | .ok bs =>
      let (w, fl) := if x.op = 0 then subOf s x u else (0, 0)
      sendSeg s st c x.succ phase round u w (WinFlags.ofByte fl) bs

/-- One block of a list is sent to the successor. -/
def sendBlock (st : Fin 8) (c round a n : Nat) (s : State) (i : Nat) : State :=
  let x := s.chan st c
  if x.active = false then s
  else match engRead s st (kxtPlan s st) (a + 4096 * i) (min 4096 (n - 4096 * i)) with
    | .error e => chanMemFail s st c e
    | .ok bs => sendSeg s st c x.succ 2 round i 0 {} bs

/-- The units of one round are sent. -/
def sendRound (s : State) (st : Fin 8) (c : Nat) (gather : Bool) (round : Nat) : State :=
  let x := s.chan st c
  let j := x.sends gather x.rank round
  if x.op = 1 then
    let n := listBytes s (x.slotAt j)
    (List.range ((n + 4095) / 4096)).foldl (sendBlock st c round (x.slotAt j) n) s
  else
    let (a, n) := x.chunk j
    ((List.range n).map (· + a)).foldl (sendUnit st c (if gather then 2 else 1) round) s

/-! ### The end (R370, R371) -/

/-- The header of tile `t` is rewritten from its sub-tiles: W their highest, the lower ones aligned to it. -/
def endTile (st : Fin 8) (c : Nat) (s : State) (t : Nat) : State :=
  let x := s.chan st c
  if x.active = false then s
  else
    let subs := (List.range 8).map fun k => subOf s x (8 * t + k)
    let w := subs.foldl (fun m e => max m e.1) (subs.headD (0, 0)).1
    let base := x.buf + t * lpTileBytes
    match engRead s st (kxtPlan s st) base lpTileBytes with
    | .error e => chanMemFail s st c e
    | .ok bs =>
      let (_, _, shape, cells) := lpRead bs
      let parts := (List.range 8).map fun k =>
        ((w - (subs.getD k (0, 0)).1).toNat, (cells.drop (512 * k)).take 512)
      let moved := parts.any fun p => decide (p.1 ≠ 0) && p.2.any fun y => !y.special
      if x.lock ∧ moved = true then chanFail s st c 0x21 (expBits 10 w)
      else
        let sh := parts.flatMap fun p => p.2.map fun y => y.shift p.1
        let fl := subs.foldl (fun (f : WinFlags) e => f.or (WinFlags.ofByte e.2))
          { inexact := sh.any (·.2), repeated := moved }
        match engWrite s st (kxtPlan s st) false base (lpBytes w fl shape (sh.map (·.1))) with
        | (s1, some e) => chanMemFail s1 st c e
        | (s1, none) => s1

/-- The channel is DONE (R371, R376). -/
def chanDone (s : State) (st : Fin 8) (c : Nat) : State :=
  raiseEvt (chanRing (s.modChan st c fun x => { x with st := .done }) st c) (kxtPage st) 6

/-- A voting channel that holds a vote from every rank is DONE. -/
def votesIn (s : State) (st : Fin 8) (c : Nat) : State :=
  let x := s.chan st c
  if x.st = .voting ∧ (List.range x.nrank).all (fun k => k == x.rank || x.votes.contains k) = true then chanDone s st c else s

/-- After the GATHER phase: the tile headers, and then the votes or DONE. -/
def chanFinish (s : State) (st : Fin 8) (c : Nat) : State :=
  let x := s.chan st c
  let s1 := if x.op = 0 then (List.range x.count).foldl (endTile st c) s else s
  if (s1.chan st c).active = false then s1
  else if x.vote then
    let s2 := ((List.range x.nrank).filter (· != x.rank)).foldl (fun s k => sendSeg s st c k 3 0 0 0 {} []) s1
    let s3 := s2.modChan st c fun x => { x with st := .voting, voteSent := true }
    votesIn (s3.modClp st fun k => if k.voted then k else { k with voted := true, voteBits := voidBits s3 }) st c
  else chanDone s1 st c

/-- What a channel may do now: send its next round, or finish. Rounds whose chunk is empty are received at once. -/
def pump (st : Fin 8) (c : Nat) : Nat → State → State
  | 0, s => s
  | fuel + 1, s =>
    let x := s.chan st c
    let n := x.nrank - 1
    if x.st ≠ .data then s
    else if x.op ≠ 1 ∧ x.redGot < n ∧ chanUnits s x false x.redGot = x.part then
      pump st c fuel (s.modChan st c fun x => { x with redGot := x.redGot + 1, part := 0 })
    else if x.op ≠ 1 ∧ x.redSent < n ∧ x.redSent ≤ x.redGot then
      pump st c fuel (sendRound (s.modChan st c fun x => { x with redSent := x.redSent + 1 }) st c false x.redSent)
    else if x.op ≠ 1 ∧ (x.redGot < n ∨ x.redSent < n) then s
    else if x.gatGot < n ∧ chanUnits s x true x.gatGot = x.part then
      pump st c fuel (s.modChan st c fun x => { x with gatGot := x.gatGot + 1, part := 0 })
    else if x.gatSent < n ∧ x.gatSent ≤ x.gatGot then
      pump st c fuel (sendRound (s.modChan st c fun x => { x with gatSent := x.gatSent + 1 }) st c true x.gatSent)
    else if x.gatGot < n ∨ x.gatSent < n then s
    else chanFinish s st c

/-- A channel goes on as far as it can. -/
def chanPump (s : State) (st : Fin 8) (c : Nat) : State := pump st c (4 * (s.chan st c).nrank + 8) s

/-! ### Starting (R366, R367, R372) -/

/-- The first byte offset at which a table entry is reserved or its areas lie outside the plan's regions (R366, R378). -/
def entryBad (s : State) (st : Fin 8) (bs : List Byte) : Option Nat :=
  let n := fun i k => leNat (slice bs i k)
  let op := n 0 1
  let nrank := n 2 2
  let count := n 16 8
  let own := fun a => a / 2 ^ 48 == st.val
  let inPlan := fun (a k : Nat) (w : Bool) =>
    own a && inMemory s st a (max 1 k) && (regionCheck s st (kxtPlan s st) w false a (max 1 k)).isNone
  let extent := if op = 0 then count * lpTileBytes else if op = 2 then 4 * count else count
  if 2 < op then some 0
  else if n 1 1 % 2 = 0 ∨ 8 ≤ n 1 1 then some 1
  else if nrank < 2 ∨ 4096 < nrank then some 2
  else if nrank ≤ n 4 2 then some 4
  else if n 6 2 ≠ 0 then some (if n 6 1 ≠ 0 then 6 else 7)
  else if n 8 8 % 16 ≠ 0 ∨ inPlan (n 8 8) (if op = 1 then 64 else 1) false = false then some 8
  else if op = 1 ∧ count % 4096 ≠ 0 then some 16
  else if inPlan (n 8 8) extent (op != 1) = false then some 16
  else if n 24 8 % 4 ≠ 0 ∨ inPlan (n 24 8) (4 * nrank) false = false then some 24
  else if op = 1 ∧ (n 32 8 % 4096 ≠ 0 ∨ inPlan (n 32 8) (nrank * count) true = false) then some 32
  else if op ≠ 1 ∧ n 32 8 ≠ 0 then some 32
  else ((List.range 24).find? fun i => n (40 + i) 1 != 0).map (· + 40)

/-- A rank whose session is not an OPEN PEER session of the stack (R366, R372). -/
def badSession (s : State) (st : Fin 8) (x : Channel) : Option Nat :=
  (List.range x.nrank).find? fun k =>
    k != x.rank && !((openSess s (x.sess.getD k 0) 3).any fun e => e.1 == st)

/-- A rank whose packets are too short for a unit (R368). -/
def shortSession (s : State) (st : Fin 8) (x : Channel) : Option Nat :=
  (List.range x.nrank).find? fun k =>
    let c := s.sess st (x.sess.getD k 0 % 2 ^ 15)
    k != x.rank && decide (maxPayload s st c.port c.link < 4160)

/-- With OP 1 a rank's own list goes into its own slot (R370). -/
def copyOwn (s : State) (st : Fin 8) (c : Nat) : State :=
  let x := s.chan st c
  let n := listBytes s x.buf
  if x.count < n then chanFail s st c 0x15 x.rank
  else match engRead s st (kxtPlan s st) x.buf n with
    | .error e => chanMemFail s st c e
    | .ok bs =>
      match engWrite s st (kxtPlan s st) false (x.slotAt x.rank) bs with
      | (s1, some e) => chanMemFail s1 st c e
      | (s1, none) => s1

/-- The successor's START has arrived: data may flow. -/
def succStart (s : State) (st : Fin 8) (c : Nat) : State :=
  chanPump (s.modChan st c fun x => { x with succReady := true, st := if x.st = .starting then .data else x.st }) st c

/-- A channel starts (R367): its step is CLP_STEP, its entry and sessions are read and checked, and START goes to its
predecessor. -/
def chanStart (s : State) (st : Fin 8) (c : Nat) : State :=
  let step := (s.st st).clp.step
  let s0 := (s.setFlag (kxtPage st) 0x098 c false).modChan st c fun x =>
    { st := .starting, step := step, held := x.held }
  let base := s.pair (kxtPage st) 0x090 + 64 * c
  let plan := kxtPlan s st
  if (base / 2 ^ 48 == st.val && rangePlace s base 64 == some .sram && (regionCheck s st plan false false base 64).isNone) = false
  then chanFail s0 st c 0x16 0
  else match engRead s st plan base 64 with
  | .error e => chanMemFail s0 st c e
  | .ok bs =>
    match entryBad s st bs with
    | some o => chanFail s0 st c 0x16 o
    | none =>
      let n := fun i k => leNat (slice bs i k)
      match engRead s st plan (n 24 8) (4 * n 2 2) with
      | .error e => chanMemFail s0 st c e
      | .ok ids =>
        let s1 := s0.modChan st c fun x =>
          { x with op := n 0 1, lock := bitAt (n 1 1) 1, vote := bitAt (n 1 1) 2, nrank := n 2 2, rank := n 4 2,
                   buf := n 8 8, count := n 16 8, recv := n 32 8,
                   sess := (List.range (n 2 2)).map fun i => leNat (slice ids (4 * i) 4) }
        let x := s1.chan st c
        match badSession s1 st x with
        | some k => chanFail s1 st c 0x12 k
        | none =>
          match (if x.op = 1 then none else shortSession s1 st x) with
          | some k => chanFail s1 st c 0x10 k
          | none =>
            let s2 := if x.op = 1 then copyOwn s1 st c else s1
            if (s2.chan st c).active = false then s2
            else
              let s3 := sendSeg s2 st c x.pred 0 0 0 0 {} []
              let ready := x.held.contains (x.succ, step)
              let s4 := s3.modChan st c fun x => { x with held := x.held.filter fun h => h.2 != step }
              if ready then succStart s4 st c else s4

/-- A channel whose event has fired and whose ready bit is set starts (R367). -/
def chanTry (s : State) (st : Fin 8) (c : Nat) : State :=
  let x := s.chan st c
  if x.fired ∧ s.flag (kxtPage st) 0x098 c ∧ (x.st = .idle ∨ x.st = .done) then chanStart s st c else s

/-- A collective start event (R367): discarded with COLL_OVERRUN while the channel is neither IDLE nor DONE. -/
def collEvent (s : State) (st : Fin 8) (c : Nat) : State :=
  let x := s.chan st c
  if x.st = .idle ∨ x.st = .done then chanTry (s.modChan st c fun x => { x with fired := true }) st c
  else recordFault s (kxtPage st) 0x06 0x14 (c * 2 ^ 16 + c) 0

/-- A write of KXT_CHAN_READY (R367). -/
def chanReadyWrite (s : State) (st : Fin 8) (v : Word) : State :=
  let s1 := s.setReg (kxtPage st) 0x098 (s.reg (kxtPage st) 0x098 ||| (v &&& 0xFFFF))
  (List.range 16).foldl (fun s c => chanTry s st c) s1

/-! ### Receiving (R370 to R372) -/

/-- A received segment's VOID flag (R371). -/
def segVoid (s : State) (st : Fin 8) (g : Segment) : State :=
  let c := (s.st st).clp
  if bitAt g.flags.toNat 0 ∧ g.step = c.step ∧ (c.state = .opened ∨ c.state = .reduce ∨ c.state = .armed) then
    s.modClp st fun c => { c with voidRemote := true }
  else s

/-- Bytes of a unit written to memory, or the channel's failure. -/
def chanWrite (s : State) (st : Fin 8) (c a : Nat) (bs : List Byte) : State :=
  match engWrite s st (kxtPlan s st) false a bs with
  | (s1, some e) => chanMemFail s1 st c e
  | (s1, none) => s1

/-- A sub-tile combined with the local one under R132, one unit with one exponent (R370). -/
def reduceSub (s : State) (st : Fin 8) (c : Nat) (g : Segment) : State :=
  let x := s.chan st c
  let (a, _) := x.unitAt g.index
  match engRead s st (kxtPlan s st) a 4096 with
  | .error e => chanMemFail s st c e
  | .ok bs =>
    let cells := fun (b : List Byte) => (List.range 512).map fun i => Acc.ofCode (BitVec.ofNat 64 (leNat (slice b (8 * i) 8)))
    let (w, fl) := subOf s x g.index
    match combine x.lock [⟨w, cells bs⟩, ⟨g.w, cells g.data⟩] with
    | .error (.lock w) => chanFail s st c 0x21 (expBits 10 w)
    | .error (.window w) => chanFail s st c 0x20 (expBits 10 w)
    | .ok (w', cs, f) =>
      let fl' := ((WinFlags.ofByte fl).or (WinFlags.ofByte (g.flags.toNat / 2))).or f
      chanWrite (setSub s st c g.index w' fl') st c a (cs.flatMap fun y => leBytes y.code.toNat 8)

/-- FP32 values added in the ring order, RNE (R370). -/
def reduceF32 (s : State) (st : Fin 8) (c : Nat) (g : Segment) : State :=
  let x := s.chan st c
  let (a, n) := x.unitAt g.index
  match engRead s st (kxtPlan s st) a n with
  | .error e => chanMemFail s st c e
  | .ok bs =>
    chanWrite s st c a ((List.range (n / 4)).flatMap fun i =>
      leBytes (fadd (BitVec.ofNat 32 (leNat (slice bs (4 * i) 4))) (BitVec.ofNat 32 (leNat (slice g.data (4 * i) 4)))).toNat 4)

/-- A unit of the GATHER phase: it overwrites the local one; a list's block goes into its slot (R369, R370). -/
def gatherUnit (s : State) (st : Fin 8) (c : Nat) (g : Segment) : State :=
  let x := s.chan st c
  if x.op = 1 then
    let j := x.sends true x.pred x.gatGot
    if g.index = 0 ∧ x.count < leNat (slice g.data 16 8) then chanFail s st c 0x15 j
    else if x.count < 4096 * g.index + g.data.length then chanFail s st c 0x15 j
    else chanWrite s st c (x.slotAt j + 4096 * g.index) g.data
  else
    let s1 := if x.op = 0 then setSub s st c g.index g.w (WinFlags.ofByte (g.flags.toNat / 2)) else s
    chanWrite s1 st c (x.unitAt g.index).1 g.data

/-- The unit the channel expects next from its predecessor: sessions deliver in order, so any other is not taken. -/
def expected (x : Channel) (gather : Bool) (g : Segment) : Bool :=
  let round := if gather then x.gatGot else x.redGot
  let first := if x.op = 1 then 0 else (x.chunk (x.sends gather x.pred round)).1
  x.active && g.rank == x.pred && g.round == round && round < x.nrank - 1 && g.index == first + x.part &&
    (x.op == 1 || g.data.length == (x.unitAt g.index).2) && (gather == (x.op == 1 || x.redGot == x.nrank - 1)) &&
    (x.op != 1 || gather)

/-- A segment on an OPEN PEER session of the stack, for one of its channels and of a phase. -/
def segOk (s : State) (st : Fin 8) (ctx phase : Nat) (g : Segment) : Bool :=
  (s.sess st ctx).st == .opened && (s.sess st ctx).role == 3 && g.chan < 16 && g.phase == phase

/-- A REDUCE, GATHER or VOTE segment whose STEP is not the channel's fails it (R372); a channel that has failed takes
nothing. -/
def segStep (s : State) (st : Fin 8) (g : Segment) (body : State → State) : State :=
  let s1 := segVoid s st g
  let x := s1.chan st g.chan
  if x.st = .failed then s1
  else if g.step ≠ x.step then chanFail s1 st g.chan 0x11 g.rank
  else body s1

/-- A received START (R372). -/
def startSegment (s : State) (st : Fin 8) (g : Segment) : State :=
  let s1 := segVoid s st g
  let x := s1.chan st g.chan
  if x.st = .failed then s1
  else if g.step = x.step ∧ x.active = true then
    if g.rank = x.succ then succStart s1 st g.chan else s1
  else if g.step = x.step ∨ (g.step = x.step + 1 ∧ x.active = false) then
    s1.modChan st g.chan fun x =>
      { x with held := if x.held.contains (g.rank, g.step) then x.held else x.held ++ [(g.rank, g.step)] }
  else chanFail s1 st g.chan 0x11 g.rank

/-- COLL_START_SEGMENT. -/
def execCollStartSegment (st : Fin 8) (ctx : Nat) (g : Segment) (s : State) : Host.Outcome State Fault Refusal :=
  if s.has st then .next (if segOk s st ctx 0 g then startSegment s st g else s) else .fault .absentStack

/-- A received REDUCE segment (R370). -/
def reduceSegment (s : State) (st : Fin 8) (g : Segment) : State :=
  segStep s st g fun s =>
    let x := s.chan st g.chan
    if expected x false g = false then s
    else
      let s1 := if x.op = 0 then reduceSub s st g.chan g else reduceF32 s st g.chan g
      if (s1.chan st g.chan).active then chanPump (s1.modChan st g.chan fun x => { x with part := x.part + 1 }) st g.chan
      else s1

/-- COLL_REDUCE_SEGMENT. -/
def execCollReduceSegment (st : Fin 8) (ctx : Nat) (g : Segment) (s : State) : Host.Outcome State Fault Refusal :=
  if s.has st then .next (if segOk s st ctx 1 g then reduceSegment s st g else s) else .fault .absentStack

/-- A received GATHER segment (R369, R370). -/
def gatherSegment (s : State) (st : Fin 8) (g : Segment) : State :=
  segStep s st g fun s =>
    let x := s.chan st g.chan
    if expected x true g = false then s
    else
      let s1 := gatherUnit s st g.chan g
      if (s1.chan st g.chan).active then chanPump (s1.modChan st g.chan fun x => { x with part := x.part + 1 }) st g.chan
      else s1

/-- COLL_GATHER_SEGMENT. -/
def execCollGatherSegment (st : Fin 8) (ctx : Nat) (g : Segment) (s : State) : Host.Outcome State Fault Refusal :=
  if s.has st then .next (if segOk s st ctx 2 g then gatherSegment s st g else s) else .fault .absentStack

/-- A received VOTE (R371). -/
def voteSegment (s : State) (st : Fin 8) (g : Segment) : State :=
  segStep s st g fun s =>
    if (s.chan st g.chan).active then
      votesIn (s.modChan st g.chan fun x =>
        { x with votes := if x.votes.contains g.rank then x.votes else x.votes ++ [g.rank] }) st g.chan
    else s

/-- COLL_VOTE_SEGMENT. -/
def execCollVoteSegment (st : Fin 8) (ctx : Nat) (g : Segment) (s : State) : Host.Outcome State Fault Refusal :=
  if s.has st then .next (if segOk s st ctx 3 g then voteSegment s st g else s) else .fault .absentStack

/-- COLL_TIMEOUT (R372). -/
def execCollTimeout (st : Fin 8) (c : Fin 16) (s : State) : Host.Outcome State Fault Refusal :=
  if s.has st then
    .next (if (s.chan st c.val).active then chanFail s st c.val 0x13 (chanCode (s.chan st c.val).st) else s)
  else .fault .absentStack

/-- The channels that a session's end fails (R372). -/
def collSessionLost (s : State) (st : Fin 8) (ctx : Nat) : State :=
  (List.range 16).foldl (fun s c =>
    let x := s.chan st c
    match (List.range x.nrank).find? fun k => k != x.rank && x.sess.getD k 0 == sidOf st ctx with
    | some k => if x.active then chanFail s st c 0x12 k else s
    | none => s) s

end Sys2Proof.Machine
end

