-- ==== Sys2Proof/Machine/Session.lean ====
section
/-! DEFINITION. The life of a session (R348 to R358, R363): handshakes, acknowledgement and retransmission, closing, failure,
and congestion control. -/

namespace Sys2Proof.Machine

/-! ### Ends of sessions (R349, R364, R372) -/

/-- A session has become CLOSED: its context is zeroed and its waiting replies go, the channels and the stream that used it end. -/
def sessClosed (s : State) (st : Fin 8) (ctx : Nat) : State :=
  let s1 := (s.modSess st ctx fun _ => {}).modSt st fun x => { x with replies := x.replies.filter fun w => w.ctx != ctx }
  let s2 := s1.stacksIn.foldl (fun s i => (List.finRange 4).foldl (fun s n => s.modSeq i n fun q =>
    { q with loadReply := q.loadReply.filter fun r => r.1 != sidOf st ctx }) s) s1
  ckptSessionLost (collSessionLost s2 st ctx) st ctx

/-- A session has become FAILED (R349). -/
def sessFailed (s : State) (st : Fin 8) (ctx : Nat) : State :=
  let s1 := raiseEvt (s.modSess st ctx fun c => { c with st := .failed }) (kxtPage st) 4
  ckptSessionLost (collSessionLost s1 st ctx) st ctx

/-- A session has become OPEN: pacing starts (R358) and SESS_OPEN is raised. -/
def sessOpened (s : State) (st : Fin 8) (ctx : Nat) : State :=
  let c := s.sess st ctx
  let r : Rat := (s.fld (kxtPage st) 0x050 7 0 : Nat) * (linkRate s st c : Nat) / 256
  raiseEvt (s.modSess st ctx fun c => { c with st := .opened, rate := r, target := r, alpha := 1, clean := 0 }) (kxtPage st) 3

/-- A CLOSE that was wanted is sent once every DATA sent is acknowledged (R349). -/
def closeIfIdle (s : State) (st : Fin 8) (ctx : Nat) : State :=
  let c := s.sess st ctx
  if c.closeWanted ∧ c.sent = [] ∧ c.queued = [] then
    sendPacket (s.modSess st ctx fun c => { c with closeWanted := false }) st ctx 0x12 0 false []
  else s

/-- A close is requested, or the session's range quiesces (R349). -/
def requestClose (s : State) (st : Fin 8) (ctx : Nat) : State :=
  if (s.sess st ctx).st = .opened then
    closeIfIdle (s.modSess st ctx fun c => { c with st := .closing, closeWanted := true }) st ctx
  else s

/-- A CLOSE has been received and every earlier SEQ has executed: CLOSE_ACK is sent and the session is CLOSED. -/
def answerClose (s : State) (st : Fin 8) (ctx : Nat) : State := sessClosed (sendPacket s st ctx 0x13 0 false []) st ctx

/-! ### Handshakes (R350 to R354) -/

/-- A handshake body in fragments of at most P bytes, in index order (R352). -/
def sendFragments (s : State) (st : Fin 8) (port link : Nat) (type : Byte) (dsid : Word) (body : List Byte) : State :=
  let p := max 1 (maxPayload s st port link)
  let n := (body.length + p - 1) / p
  (List.range n).foldl (fun s i =>
    s.send (.packet st port link (plainPacket type dsid (i + 16 * (n - 1)) ((body.drop (p * i)).take p)))) s

/-- HS_REJECT with a status (R353). -/
def sendReject (s : State) (st : Fin 8) (port link : Nat) (isid : Nat) (status : Nat) : State :=
  s.send (.packet st port link (plainPacket 0x03 (BitVec.ofNat 32 isid) 0 (leBytes status 2)))

/-- CAPACITY (R350). -/
def refuseCapacity (s : State) (st : Fin 8) (port link isid : Nat) : State :=
  sendReject (raiseEvt (s.countSat (kxtPage st) 0x05C) (kxtPage st) 5) st port link isid 0x0D

/-- The 88 bytes of R354: k_ir, k_ri, iv_ir, iv_ri. -/
def okm (init resp ss : List Byte) : List Byte := shake (ascii "KXT1" ++ ss ++ shake (init ++ resp) 64) 88

/-- The session's keys, as initiator or responder. -/
def Session.keyed (c : Session) (initiator : Bool) (k : List Byte) : Session :=
  let a := val256 (slice k 0 32)
  let b := val256 (slice k 32 32)
  let x : BitVec 96 := BitVec.ofNat 96 (leNat (slice k 64 12))
  let y : BitVec 96 := BitVec.ofNat 96 (leNat (slice k 76 12))
  if initiator then { c with keyTx := a, keyRx := b, ivTx := x, ivRx := y }
  else { c with keyTx := b, keyRx := a, ivTx := y, ivRx := x }

/-- Why a responder refuses HS_INIT (R353): TARGET, ISIG or IPK. -/
def initAuth (s : State) (body : List Byte) : Bool :=
  let ipk := slice body 1256 1952
  slice body 8 32 == idHash s && Config.dsaVerify ipk (body.take 3208) [] (slice body 3208 3309) &&
    peerAllowed s ipk (body.getD 0 0).toNat

/-- The free context an incoming session takes (R350): STORE sessions are opened only by the part. -/
def incomingContext (s : State) (st : Fin 8) (role : Nat) : Option Nat :=
  match role with
  | 1 => freeContext s st 0xFFFF
  | 3 => freeContext s st (s.fld (kxtPage st) 0x054 15 0)
  | _ => none

/-- A valid HS_INIT takes a context: HS_RECV, and HS_RESP is sent (R349, R352, R354). -/
def acceptInit (s : State) (st : Fin 8) (port link ctx : Nat) (body rnd : List Byte) : State :=
  let (ct, ss) := Config.kemEncaps (slice body 72 1184) rnd
  let head := leBytes (sidOf st ctx) 4 ++ slice body 4 4 ++ slice ct 0 1088 ++ ikPublic s
  let resp := head ++ ikSign s (shake body 64 ++ head) []
  let c : Session :=
    { st := .hsRecv, role := (body.getD 0 0).toNat, port := port, link := link, peer := BitVec.ofNat 32 (leNat (slice body 4 4)),
      peerHash := val256 (shake (slice body 1256 1952) 32) }
  sendFragments (s.modSess st ctx fun _ => c.keyed false (okm body resp (slice ss 0 32))) st port link 0x02 c.peer resp

/-- HS_INIT, its fragments reassembled (R349 to R353). -/
def hsInit (s : State) (st : Fin 8) (port link : Nat) (body rnd : List Byte) : State :=
  let role := (body.getD 0 0).toNat
  let isid := leNat (slice body 4 4)
  if body.length ≠ 6517 ∨ role = 0 ∨ 3 < role ∨ slice body 1 3 ≠ [0, 0, 0] then badPacket s st
  else if s.flag (kxtPage st) 0x040 16 = false then refuseCapacity s st port link isid
  else if initAuth s body = false then sendReject (s.countSat (kxtPage st) 0x060) st port link isid 0x0E
  else match incomingContext s st role with
    | none => refuseCapacity s st port link isid
    | some ctx => acceptInit s st port link ctx body rnd

/-- HS_INIT. -/
def execHsInit (st : Fin 8) (port : Fin 2) (link : Fin 4) (body rnd : List Byte) (s : State) :
    Host.Outcome State Fault Refusal :=
  if s.has st then .next (hsInit s st port.val link.val body rnd) else .fault .absentStack

/-- The open request ends: KXT_OPEN_STAT shows its status, and KXT_OPEN_SID the session (R363). -/
def openEnds (s : State) (st : Fin 8) (status : Nat) (sid : Nat) : State :=
  ((s.modSt st fun x => { x with opening := none }).setReg (kxtPage st) 0x0E0 (BitVec.ofNat 32 (status % 256 * 2 ^ 8))).setReg
    (kxtPage st) 0x0E4 (BitVec.ofNat 32 sid)

/-- HS_RESP (R349, R353, R354): taken in HS_SENT where RPK is the key targeted and RSIG verifies. -/
def execHsResp (st : Fin 8) (ctx : Nat) (body : List Byte) (s : State) : Host.Outcome State Fault Refusal :=
  if s.has st then
    let c := s.sess st ctx
    let rpk := slice body 1096 1952
    .next (
      if c.st = .hsSent ∧ body.length = 6357 ∧ leNat (slice body 4 4) = sidOf st ctx ∧ val256 (shake rpk 32) = c.hsTarget ∧
          Config.dsaVerify rpk (shake c.hsBody 64 ++ body.take 3048) [] (slice body 3048 3309) = true then
        let ss := slice (Config.kemDecaps (bytes256 c.kemD) (bytes256 c.kemZ) (slice body 8 1088)) 0 32
        let s1 := s.modSess st ctx fun c =>
          { c.keyed true (okm c.hsBody body ss) with
            peer := BitVec.ofNat 32 (leNat (slice body 0 4)), peerHash := c.hsTarget, hsBody := [], kemD := 0, kemZ := 0 }
        openEnds (sessOpened s1 st ctx) st 0 (sidOf st ctx)
      else s)
  else .fault .absentStack

/-- HS_REJECT (R349, R351): the open request ends with its status, and the peer is left alone for 100 ms. -/
def execHsReject (st : Fin 8) (ctx : Nat) (status : BitVec 16) (s : State) : Host.Outcome State Fault Refusal :=
  if s.has st then
    .next (if (s.sess st ctx).st = .hsSent then
      let (t, s1) := s.now
      let s2 := s1.modSt st fun x => { x with blocked := x.blocked ++ [((s.sess st ctx).hsTarget, t)] }
      openEnds (sessClosed s2 st ctx) st status.toNat 0
    else s)
  else .fault .absentStack

/-- HS_TIMEOUT (R349): HS_LIMIT without an answer. The status of KXT_OPEN_STAT is open (assumption 2). -/
def execHsTimeout (st : Fin 8) (ctx : Nat) (s : State) : Host.Outcome State Fault Refusal :=
  if s.has st then
    .next (match (s.sess st ctx).st with
      | .hsSent =>
        let (v, s1) := s.drawFree
        openEnds (sessClosed s1 st ctx) st v.toNat 0
      | .hsRecv => sessClosed s st ctx
      | _ => s)
  else .fault .absentStack

/-- RESET (R351): counted, and the session stays as it is. -/
def execReset (st : Fin 8) (ctx : Nat) (s : State) : Host.Outcome State Fault Refusal :=
  if s.has st then
    .next (if (s.sess st ctx).st = .closed then s else s.modSess st ctx fun c => { c with resets := c.resets + 1 })
  else .fault .absentStack

/-! ### Opening from the part (R363) -/

/-- The plan of a requester: a sequencer's, or the firmware's. -/
def requesterPlan (s : State) (st : Fin 8) : Requester → Nat
  | .seq n => bindOf s (stackPage st .seq n.val)
  | .jukan (.seq i n) => bindOf s (stackPage i .seq n.val)
  | _ => 0xFFFF

/-- An open request's bytes that must be zero: 3, 12 to 15 with IPv4, and 56 to 63; and ROLE, port, version and range. -/
def requestOk (bs : List Byte) : Bool :=
  let n := fun i k => leNat (slice bs i k)
  1 ≤ n 0 1 && n 0 1 ≤ 3 && n 1 1 < 8 && (n 2 1 == 4 || n 2 1 == 6) && n 3 1 == 0 && n 6 2 < 64 && n 56 8 == 0 &&
    (n 2 1 == 6 || n 12 12 == 0)

/-- HS_INIT is sent from a context (R352). -/
def sendInit (s : State) (st : Fin 8) (ctx : Nat) (bs : List Byte) : State :=
  let (d, s1) := freeBytes 32 s
  let (z, s2) := freeBytes 32 s1
  let (nonce, s3) := freeBytes 32 s2
  let port := (bs.getD 1 0).toNat / 4 % 2
  let link := (bs.getD 1 0).toNat % 4
  let head := bs.take 1 ++ [0, 0, 0] ++ leBytes (sidOf st ctx) 4 ++ slice bs 24 32 ++ nonce ++
    slice (Config.kemEncapsKey d z) 0 1184 ++ ikPublic s
  let body := head ++ ikSign s head []
  let c : Session :=
    { st := .hsSent, role := (bs.getD 0 0).toNat, initiator := true, port := port, link := link, hsBody := body,
      kemD := val256 d, kemZ := val256 z, hsTarget := val256 (slice bs 24 32) }
  sendFragments (s3.modSess st ctx fun _ => c) st port link 0x01 0 body

/-- A peer that rejected an open less than 100 ms ago (R351). -/
def blockedNow (t : DWord) (target : BitVec 256) (bl : List (BitVec 256 × DWord)) : Bool :=
  bl.any fun e => e.1 == target && t.toNat - e.2.toNat < 100000000

/-- KXT_OPEN_GO (R363): ignored while BUSY. STACK and UNMAPPED stand for a request that cannot be read; the status of a request
that is not well formed, or whose peer is left alone, is open (assumption 2). -/
def kxtOpenGo (s : State) (r : Requester) (st : Fin 8) : State :=
  if (s.st st).opening.isSome then s
  else
    let a := s.pair (kxtPage st) 0x084
    if a / 2 ^ 52 ≠ 0 ∨ s.has (stackField a) = false then openEnds s st 0x01 0
    else match rangePlace s a 64 with
      | none | some .regs => openEnds s st 0x02 0
      | some _ =>
        let bs := s.bytes a 64
        let range := leNat (slice bs 6 2)
        let (t, s1) := s.now
        let blocked := blockedNow t (val256 (slice bs 24 32)) (s.st st).blocked
        if (readFailure s a 64).isSome ∨ requestOk bs = false ∨ blocked = true then
          let (v, s2) := s1.drawFree
          openEnds s2 st v.toNat 0
        else if rangeBind s st range ≠ requesterPlan s st r ∨ rangeMoving s st range = true then openEnds s1 st 0x0D 0
        else match freeInRange s st range with
          | none => openEnds s1 st 0x0D 0
          | some ctx =>
            (sendInit (s1.modSt st fun x => { x with opening := some ctx }) st ctx bs).setReg (kxtPage st) 0x0E0 1

/-! ### Acknowledgement (R356, R357) -/

/-- How far a sequence number lies ahead of another, modulo 2^32. -/
def seqAhead (a b : Word) : Nat := (a - b).toNat

/-- How many of the packets sent after one are acknowledged by SACK. -/
def sackedAfter (seq : Word) (es : List Sent) : Nat := (es.filter fun e => e.sacked && decide (0 < seqAhead e.seq seq)).length

/-- srtt and rttvar after a sample, with gains 1/8 and 1/4 (R357). -/
def rttAfter (sample : Nat) : Option (Nat × Nat) → Nat × Nat
  | none => (sample, sample / 2)
  | some (r, v) => ((7 * r + sample) / 8, (3 * v + ((r : Int) - sample).natAbs) / 4)

/-- An ACK payload taken (R356, R357): what it covers leaves, a packet that now has three higher SEQs acknowledged is sent
again, and what waited for the window follows. -/
def takeAck (s : State) (st : Fin 8) (ctx : Nat) (pn : DWord) (bs : List Byte) (sampleNs : Nat) : State :=
  let c := s.sess st ctx
  let next : Word := BitVec.ofNat 32 (leNat (slice bs 0 4))
  let sack := leNat (slice bs 4 8)
  let ce := leNat (slice bs 12 4)
  if pn.toNat ≤ c.ackPn.toNat then s
  else
    let covered := fun (e : Sent) => seqAhead e.seq next ≥ 2 ^ 31
    let marked := fun (e : Sent) =>
      let i := seqAhead e.seq (next + 1)
      if i < 64 ∧ bitAt sack i then { e with sacked := true } else e
    let kept := (c.sent.filter fun e => !covered e).map marked
    let again := kept.filter fun e => !e.sacked && decide (3 ≤ sackedAfter e.seq kept) && decide (sackedAfter e.seq c.sent < 3)
    let s1 := s.modSess st ctx fun c =>
      { c with sent := kept, ackPn := pn, rtt := some (rttAfter sampleNs c.rtt), ceSeen := c.ceSeen || decide (0 < ce) }
    let s2 := again.foldl (fun s e => sendData s st ctx e.seq true e.payload) s1
    closeIfIdle (sendQueued st ctx c.queued s2) st ctx

/-- ACK. `sampleNs` is the round trip measured from ECHO_PN. -/
def execAck (st : Fin 8) (p : Packet) (sampleNs : Nat) (s : State) : Host.Outcome State Fault Refusal :=
  if s.has st then
    .next (match receive s st 0 0 p 0x11 with
      | (s1, none) => s1
      | (s1, some (ctx, bs)) =>
        match (s1.sess st ctx).st with
        | .opened | .closing => if bs.length = 24 then takeAck s1 st ctx p.pn bs sampleNs else badPacket s1 st
        | _ => s1)
  else .fault .absentStack

/-- ACK_DELAY (R356): the first unacknowledged packet has waited KXT_ACK.DELAY. -/
def execAckDelay (st : Fin 8) (ctx : Nat) (s : State) : Host.Outcome State Fault Refusal :=
  if s.has st then .next (if 0 < (s.sess st ctx).unacked then sendAck s st ctx else s) else .fault .absentStack

/-- RETRY_MAX (R376). -/
def retryMax (s : State) (st : Fin 8) : Nat := s.fld (kxtPage st) 0x04C 7 0

/-- RTO_EXPIRY (R357): the packet, or the CLOSE of a session that is CLOSING, is sent again; RETRY_MAX in a row make the session
FAILED. -/
def execRtoExpiry (st : Fin 8) (ctx : Nat) (seq : Word) (s : State) : Host.Outcome State Fault Refusal :=
  if s.has st then
    let c := s.sess st ctx
    .next (
      if c.st ≠ .opened ∧ c.st ≠ .closing then s
      else match c.sent.find? fun e => e.seq == seq && !e.sacked with
        | some e =>
          let s1 := s.modSess st ctx fun c =>
            { c with rtoSeen := true, sent := c.sent.map fun e => if e.seq = seq then { e with timeouts := e.timeouts + 1 } else e }
          if retryMax s st ≤ e.timeouts + 1 then sessFailed s1 st ctx else sendData s1 st ctx seq true e.payload
        | none =>
          if c.st = .closing ∧ c.sent = [] ∧ c.closeWanted = false then
            let s1 := s.modSess st ctx fun c => { c with rtoSeen := true, backoff := c.backoff + 1 }
            if retryMax s st ≤ c.backoff + 1 then sessFailed s1 st ctx
            else (sendPacket s1 st ctx 0x12 0 true []).countPair (kxtPage st) 0x068
          else s)
  else .fault .absentStack

/-- FAILED_TIMEOUT (R349): 10 ms after FAILED the context is zeroed. -/
def execFailedTimeout (st : Fin 8) (ctx : Nat) (s : State) : Host.Outcome State Fault Refusal :=
  if s.has st then .next (if (s.sess st ctx).st = .failed then sessClosed s st ctx else s) else .fault .absentStack

/-! ### Closing (R349) -/

/-- CLOSE. -/
def execClose (st : Fin 8) (p : Packet) (s : State) : Host.Outcome State Fault Refusal :=
  if s.has st then
    .next (match receive s st 0 0 p 0x12 with
      | (s1, none) => s1
      | (s1, some (ctx, _)) =>
        if (s1.sess st ctx).st = .opened then
          if (s1.sess st ctx).ahead = [] then answerClose s1 st ctx
          else s1.modSess st ctx fun c => { c with closeGot := true }
        else s1)
  else .fault .absentStack

/-- CLOSE_ACK. -/
def execCloseAck (st : Fin 8) (p : Packet) (s : State) : Host.Outcome State Fault Refusal :=
  if s.has st then
    .next (match receive s st 0 0 p 0x13 with
      | (s1, none) => s1
      | (s1, some (ctx, _)) => if (s1.sess st ctx).st = .closing then sessClosed s1 st ctx else s1)
  else .fault .absentStack

/-! ### Congestion control (R358) -/

/-- One evaluation: the session after the period, with `ai` in Mb/s, `g` = 2^−G_LOG2 and its link rate. -/
def ccAfter (ai : Nat) (g : Rat) (link : Nat) (c : Session) : Session :=
  let c1 :=
    if c.ceSeen then
      let a := c.alpha * (1 - g) + g
      { c with alpha := a, target := c.rate, rate := c.rate * (1 - a / 2) }
    else
      let k := c.clean + 1
      let rt := if 5 < k then c.target + (ai : Nat) else c.target
      { c with alpha := c.alpha * (1 - g), clean := k, target := rt, rate := (c.rate + rt) / 2 }
  let c2 := if c.rtoSeen then { c1 with rate := c1.rate / 2, clean := 0 } else c1
  let c3 := if c.ceSeen then { c2 with clean := 0 } else c2
  { c3 with rate := max 100 (min c3.rate (link : Nat)), target := min c3.target (link : Nat), ceSeen := false, rtoSeen := false }

/-- CC_PERIOD (R358). -/
def execCcPeriod (st : Fin 8) (ctx : Nat) (s : State) : Host.Outcome State Fault Refusal :=
  if s.has st then
    let c := s.sess st ctx
    let k := kxtPage st
    .next (match c.st with
      | .opened | .closing =>
        s.modSess st ctx (ccAfter (100 * s.fld k 0x050 23 16) (1 / 2 ^ s.fld k 0x050 27 24) (linkRate s st c))
      | _ => s)
  else .fault .absentStack

end Sys2Proof.Machine
end

