-- ==== Sys2Proof/Machine/Reset.lean ====
section
/-! DEFINITION. Soft resets (R31), and what a switched domain loses when it powers down (R452, R453). -/

namespace Sys2Proof.Machine

/-! ### Registers of a page -/

/-- A page's registers return to their After reset values, but for the offsets named (R11). -/
def clearPage (s : State) (p : Page) (kept : Nat → Bool) : State :=
  let other := fun (k : Nat) => k / 4096 != p.key 0 / 4096
  { s with regs := Sparse.keep (fun k => other k || kept (k % 4096)) s.regs,
           staged := Sparse.keep other s.staged, latched := Sparse.keep other s.latched }

/-- What the always-on island, the MRAM and the LPDDR5X devices keep of a page (R11, R285, R311, R400, R471): BOOT_COUNT, the
Kept fields of the module's PWR page, and the training state and repairs of a memory controller. -/
def heldOffset (b : Blk) (off : Nat) : Bool :=
  match b with
  | .bzl => off == 0x058 || off == 0x05C
  | .pwrm => off == 0x044 || off == 0x058 || off == 0x050 || off == 0x078 || off == 0x07C || off == 0x080
  | .mem => off == 0x04C || off == 0x06C
  | _ => false

/-- What a soft reset of a page leaves (R31): the header but for EVT_RAW and the fault record; bindings; and registers that show
what lies outside the page's own logic: links, training, domains, levels and the ring (R449; assumption 17). -/
def softKept (b : Blk) (off : Nat) : Bool :=
  (off < 0x040 && off != 0x010 && !(0x020 ≤ off && off < 0x030)) || heldOffset b off ||
  match b with
  | .smp => 0x050 ≤ off && off < 0x060
  | .kxt => 0x900 ≤ off && off < 0xC00
  | .jk => off == 0x040
  | .arb => 0x08C ≤ off && off < 0x090
  | .srm => off == 0x044
  | .lkt => off == 0x060
  | .pwr => (0x044 ≤ off && off < 0x058)
  | .pwrm => off == 0x040 || off == 0x04C || off == 0x058 || off == 0x060 || off == 0x084 || off == 0x088
  | .cal => off == 0x040
  | _ => false

/-! ### Blocks -/

/-- Every lane is reseeded (R275, R285). -/
def rngCleared (s : State) (st : Fin 8) (c : Nat) : State :=
  s.modCore st c fun x => { x with lanes := [], reseedWaits := false }

/-- The counters of the Bead page and of the Filigree page (R261, R262, R265). -/
def tableCounter (b : Blk) (off : Nat) : Bool :=
  match b with
  | .bead => (0x050 ≤ off && off < 0x070) || off == 0x078 || (0x0B0 ≤ off && off < 0x0BC)
  | .fil => 0x088 ≤ off && off < 0x0A4
  | _ => false

/-- A reset of either page discards both queues, zeroes both pages' counters, empties the touched-row set and both directories,
and ends any refresh (R265). -/
def tablesCleared (s : State) (st : Fin 8) : State :=
  let s1 := discardQueue (discardQueue s st 0x90) st 0xA0
  let s2 := [Blk.bead, Blk.fil].foldl (fun s b => clearPage s (stackPage st b) fun off => !tableCounter b off) s1
  hotEmpty (s2.modFil st fun f => { f with touched := [], inbox := [] }) st

/-- Every queue of a page is discarded (R31, R320). -/
def discardPage (s : State) (p : Page) : State := (queuesOf p).foldl (fun s q => discardQueue s p.home q) s

/-- The sessions of a stack end, and its channels return to IDLE (R379). -/
def sessionsCleared (s : State) (st : Fin 8) : State :=
  let s1 := if (s.st st).ckpt.streaming then abandonStream s st 0xFFFF else s
  let s2 := s1.stacksIn.foldl (fun s i => (List.finRange 4).foldl (fun s n => s.modSeq i n fun q =>
    { q with loadReply := q.loadReply.filter fun r => r.1 / 2 ^ 15 != st.val }) s) s1
  s2.modSt st fun x => { x with sess := [], chans := [], opening := none, blocked := [], replies := [] }

/-- The waiting requests of an arbiter end with REFUSED_TIMEOUT (R341). -/
def endAllWaiting (s : State) (st : Fin 8) : State := (s.st st).arb.wait.foldl (fun s a => endWaiting s st a) s

/-- The staged base and size of every region entry (R31); the region table itself stays (R311). -/
def stagedCleared (s : State) (st : Fin 8) : State :=
  (List.range 64).foldl (fun s n => s.modRegion st n fun r => { r with stagedBase := 0, stagedSize := 0 }) s

/-- A soft reset of the CLP page (R31): what the last step and the last Clasp left in its registers. The state and its flags,
which R39's table and the restore alone move, and the step numbers, which are never issued twice (R35, R45), stay. -/
def clpCleared (c : Clasp) : Clasp :=
  { c with loss := 0, lossMb := 0xFFFF, lastPos := 0, late := 0, duration := 0, voidCnt := 0 }

/-- What a soft reset does to a block beside its registers (R31 and the rule of its chapter). -/
def softBlock (s : State) (p : Page) : State :=
  let st := p.home
  match p.blk with
  | .mx => (discardPage s p).modCore st p.inst mxCleared
  | .vc => (discardPage s p).modCore st p.inst vcCleared
  | .rng => rngCleared s st p.inst
  | .smp => smpCleared (discardPage s p) st
  | .bead | .fil => tablesCleared s st
  | .seq => if h : p.inst < 4 then s.modSeq st ⟨p.inst, h⟩ fun q => { q.cleared with refused := false, exit := 0 } else s
  | .arb => endAllWaiting s st
  | .clp => s.modClp st clpCleared
  | .tns => s.modTns st fun _ => {}
  | .mbx => mbxReset s st p.inst
  | .net => s.modPort st p.inst fun _ => {}
  | .kxt => sessionsCleared s st
  | .jk => discardPage s p
  | .mem => s
  | .xfr => stagedCleared ((discardPage s p).modSt st fun x => { x with xfrStop := 0 }) st
  | .srm => s
  | .bzl => s.modSt st fun x => { x with bzlBuf := [] }
  | .lkt => locketSoftReset s
  | .pwr | .pwrm => s
  | .cal => { s with mod := { s.mod with cal := { s.mod.cal with staging := [] } } }

/-- SOFT_RST (R31, R66, R265): refused with CMD_ORDER for the CLP page, and with CMD_EVAL for the FIL page, while the state is
COMMIT; a write while one runs changes nothing. The bits 3 and 4 of an RNG page's EVT_RAW stay (R282). -/
def softReset (s : State) (p : Page) : State :=
  let st := p.home
  let commit := (s.st st).clp.state == .commit
  if s.flag p 0x008 1 then s
  else if p.blk = .clp ∧ commit = true then clpRefuse s st 0
  else if p.blk = .fil ∧ commit = true then recordPlain s p 0x05 0x0C 0 0
  else
    let raw := s.reg p 0x010 &&& (if p.blk = .rng then 0x18 else 0)
    let s1 := clearPage (softBlock s p) p (softKept p.blk)
    (s1.setReg p 0x010 raw).setFlag p 0x008 1 true

/-- Whether a page stands in a populated stack or in the module space (R3, R29). -/
def State.pageOk (s : State) (p : Page) : Bool :=
  if isModule p.blk then p.stk == 15 && p.inst == 0 else s.has p.stk && p.stk < 8 && p.inst < instances p.blk

/-- SOFT_RESET_DONE (R31). -/
def execSoftResetDone (p : Page) (s : State) : Host.Outcome State Fault Refusal :=
  if s.pageOk p then .next (s.setFlag p 0x008 1 false) else .fault .absentStack

/-! ### Domains (R452, R453) -/

/-- The cores behind whose logical numbers a quadrant's physical cores stand. -/
def coresIn (s : State) (st : Fin 8) (k : Nat) : List Nat := (List.range 56).filter fun c => physCore s st c / 15 == k

/-- The pages of domain `k` of a stack (R452). The PWR page goes with the CTL domain, and with that of stack 0 the module's
pages. -/
def domainPages (s : State) (st : Fin 8) (k : Nat) : List Page :=
  if k < 4 then (coresIn s st k).flatMap fun c => [stackPage st .mx c, stackPage st .vc c, stackPage st .rng c]
  else if k = 4 then [stackPage st .smp, stackPage st .bead, stackPage st .fil]
  else if k = 5 then
    [netPage st 0, netPage st 1, kxtPage st, stackPage st .jk 0, stackPage st .jk 1, stackPage st .jk 2]
  else if k = 6 then (List.range 4).map (fun i => stackPage st .mem i) ++ [xfrPage st, stackPage st .srm]
  else
    (List.range 4).map (fun i => stackPage st .seq i) ++ [arbPage st, clpPage st] ++ (List.range 4).map (fun i => stackPage st .mbx i) ++
      [stackPage st .bzl, stackPage st .pwr] ++ (if st = 0 then [lktPage, pwrmPage, modulePage .cal] else [])

/-- The queues of a page go with their sequences (R320). -/
def dropQueues (s : State) (p : Page) : State :=
  { s with queues := (queuesOf p).foldl (fun m q => Sparse.del m (queueKey p.home q)) s.queues }

/-- What the CTL domain of stack 0 holds for the module (R413, R417, R449): the Locket's logic, the primary Bezel's keys,
measurements and unlock, and the CAL staging area. -/
def primaryLost (s : State) : State :=
  let s1 := s.modLkt fun l =>
    { l with reqs := [], stopped := false, scanned := false, winA := {}, winB := {}, fwReject := false, stepWaits := false }
  let s2 := s1.modBzl fun b =>
    { b with meas := Vector.replicate 6 0, slots := Vector.replicate 16 {}, loadSeq := 0, loads := [], fwVersion := 0,
             fwSvn := 0, fwSlot := 0, recovery := false, pairingFailed := false, debugOwner := false, debugVendor := false }
  { s2 with mod := { s2.mod with cal := { s2.mod.cal with staging := [], commit := false } } }

/-- The typed state a domain loses. With CTL the firmware, the key store and the LPDDR5X key go (R285, R311). -/
def domainState (s : State) (st : Fin 8) (k : Nat) : State :=
  if k < 4 then (coresIn s st k).foldl (fun s c => zeroPanel (s.modCore st c fun _ => {}) st c) s
  else if k = 4 then
    endRefresh (s.modSt st fun x =>
      { x with groups := Vector.replicate 4 {}, batches := Vector.replicate 4 none, hot := {}, fil := {} }) st
  else if k = 5 then (sessionsCleared s st).modSt st fun x => { x with ports := Vector.replicate 2 {} }
  else if k = 6 then (zeroSram s st).modSt st fun x => { x with regions := [], xfrStop := 0 }
  else
    let s1 := (loseKey s st).modSt st fun x =>
      { x with seqs := Vector.replicate 4 {}, arb := {}, clp := {}, keys := {}, bzlBuf := [], ckpt := {},
               pwr := { x.pwr with raising := none, avsHold := false, firmware := false, paired := false, held := false } }
    if st = 0 then primaryLost s1 else s1

/-- A domain has powered down: what it held is lost (R453). -/
def domainLost (s : State) (st : Fin 8) (k : Nat) : State :=
  let ps := domainPages s st k
  ps.foldl (fun s p => dropQueues (clearPage s p (heldOffset p.blk)) p) (domainState s st k)

/-- Every switched domain of a stack is lost, CTL last (R463). LPDDR5X training goes with it. -/
def stackLost (s : State) (st : Fin 8) : State :=
  let s1 := (List.range 8).foldl (fun s k => domainLost s st k) s
  (List.range 4).foldl (fun s d => (s.setReg (stackPage st .mem d) 0x06C 0)) s1

end Sys2Proof.Machine
end

