-- ==== Sys2Proof/Machine/Bezel.lean ====
section
/-! DEFINITION. The Bezel (R395 to R417): the firmware image and its check, measurement, attestation, custody and its wipe, sealing
keys, debug tokens, firmware update, and the checks a Bezel runs (R422). -/

namespace Sys2Proof.Machine

/-! ### Pages, faults and records (R414 to R416) -/

/-- The BZL page of a stack; stack 0's is the primary's. -/
def bzlPage (st : Fin 8) : Page := stackPage st .bzl

/-- A record of the Bezel of stack 0, a source of its own (R439, R440). -/
def bezelRecord (s : State) (code : Nat) (payload : List Byte) : State :=
  locketRequest s (bzlPage 0).source 2 0 code payload

/-- A security fault (R416): a fault raised before the firmware runs is held for the Locket, and shown on the page. -/
def bzlFault (s : State) (det info : Nat) : State :=
  if (s.st 0).pwr.firmware then recordFault s (bzlPage 0) 0x08 det info 0
  else pageFault (s.modBzl fun b => { b with heldFaults := b.heldFaults ++ [(det, info)] }) (bzlPage 0) 0x08 det info 0

/-- The faults held are written to the Locket: each is a record of its own (R416, R449). -/
def heldWritten (s : State) : State :=
  let p := bzlPage 0
  (s.mod.bzl.heldFaults.foldl (fun s e =>
    addRequest s p.source p.order 0 (0x0800 + e.1) (faultPayload s p e.2 0)) s).modBzl fun b => { b with heldFaults := [] }

/-- BZL_MODE [7:0] of a stack (R414). The primary, which is challenged by nobody, is paired with itself. -/
def bzlMode (s : State) (st : Fin 8) : Nat :=
  let b := s.mod.bzl
  bit (!b.owner.isEmpty) + 2 * bit b.sealed + 4 * bit b.debugOwner + 8 * bit b.debugVendor + 16 * bit b.recovery +
    32 * bit (st == 0) + 64 * bit (s.st st).pwr.paired

/-- BZL_SVN and BZL_SEAL_SLOTS (R414). -/
def bzlSvn (s : State) : Nat :=
  let b := s.mod.bzl
  b.rollback % 128 + 2 ^ 8 * (b.fwSvn % 128) + 2 ^ 16 * (b.fwSlot % 4) + 2 ^ 20 * b.revoked.toNat
def sealSlots (s : State) : Nat := (List.range 16).foldl (fun n i => n + bit (s.slot i).filled * 2 ^ i) 0

/-! ### The firmware image (R397 to R399) -/

/-- A reader of an image: offset and length. -/
abbrev ImageReader := Nat → Nat → List Byte

/-- CODE_BYTES, KEY_SLOT, SVN and VERSION of an image. -/
def fwCodeBytes (rd : ImageReader) : Nat := leNat (rd 12 4)
def fwKeySlot (rd : ImageReader) : Nat := leNat (rd 6 1)
def fwSvnOf (rd : ImageReader) : Nat := leNat (rd 7 1)
def fwVersionOf (rd : ImageReader) : Nat := leNat (rd 8 4)

/-- Check 1 of R398: MAGIC, FORMAT, the zero fields and CODE_BYTES; KEY_SLOT and SVN within their ranges. -/
def fwLayoutOk (rd : ImageReader) : Bool :=
  leNat (rd 0 4) == 0x4D57464B && leNat (rd 4 2) == 1 && fwKeySlot rd < 4 && fwSvnOf rd ≤ 64 &&
    8 ≤ fwCodeBytes rd && fwCodeBytes rd ≤ 33546240 && fwCodeBytes rd % 8 == 0 && leNat (rd 80 48) == 0 &&
    leNat (rd 5389 2803) == 0

/-- The number of the first check of R398 that fails, none for a valid image. -/
def verifyImage (s : State) (rd : ImageReader) : Option Nat :=
  let b := s.mod.bzl
  let k := fwKeySlot rd
  if fwLayoutOk rd = false then some 1
  else if b.revoked.getLsbD k then some 2
  else if some (val256 (shake (rd 128 1952) 32)) ≠ b.keyHash[k]? then some 3
  else if Config.dsaVerify (rd 128 1952) (rd 0 128) (ascii "KX-FW") (rd 2080 3309) = false then some 4
  else if fwSvnOf rd < b.rollback then some 5
  else if shake (rd 8192 (fwCodeBytes rd)) 64 ≠ rd 16 64 then some 6
  else none

/-- The image in the NOR flash. -/
def norReader (s : State) : ImageReader := fun a n => Sparse.getList (fun _ => 0) s.mod.bzl.nor a n

/-- The fuses burn when an image reaches the ready state (R399): the rollback count rises to its SVN, and every key slot below
its own is revoked. -/
def burnFuses (s : State) : State :=
  s.modBzl fun b =>
    { b with rollback := max b.rollback b.fwSvn,
             revoked := b.revoked ||| BitVec.ofNat 4 (2 ^ (b.fwSlot % 4) - 1) }

/-! ### Measurement (R400, R404) -/

/-- OWNER of R405: SHAKE256 of the owner's key, zero when unowned. -/
def ownerHash (s : State) : List Byte :=
  if s.mod.bzl.owner = [] then List.replicate 32 0 else shake s.mod.bzl.owner 32

/-- The data of MEAS0 and of MEAS4. How wide each value of MEAS0 is, is the model's choice (assumption 18). -/
def fuseData (s : State) : List Byte :=
  let b := s.mod.bzl
  leBytes b.romRev 4 ++ leBytes b.rollback 1 ++ leBytes b.revoked.toNat 1 ++ leBytes (bit b.lockFuse) 1
def ownerData (s : State) : List Byte :=
  ownerHash s ++ leBytes s.mod.bzl.epoch.toNat 8 ++ leBytes s.mod.bzl.configHash.toNat 64

/-- MEAS2's data: the CAL block. -/
def calData (s : State) : List Byte := imgBytes s.mod.cal.active 0 (min 262144 (imgLength s.mod.cal.active))

/-- Step 6 of R400: the image, the CAL block and the owner record are measured, the code runs on every paired stack, and the faults
held go to the Locket. -/
def firmwareStarts (s : State) : State :=
  let rd := norReader s
  let s1 := measExtend (measExtend (measExtend s 1 (rd 0 128)) 2 (calData s)) 4 (ownerData s)
  let s2 := s1.modBzl fun b =>
    { b with fwVersion := BitVec.ofNat 32 (fwVersionOf rd), fwSvn := fwSvnOf rd, fwSlot := fwKeySlot rd }
  heldWritten (s2.stacksIn.foldl (fun s i =>
    s.modPwr i fun p => { p with firmware := p.paired }) s2)

/-! ### Stages and recovery (R402, R464, R471) -/

/-- A stage is complete: PWR_STAGE shows the lowest one that is not. -/
def stageComplete (s : State) (j : Nat) : State :=
  let v := (s.reg pwrmPage 0x040).toNat
  let done := bitsOf v 11 4 ||| 2 ^ (j - 1)
  let low := ((List.range 7).find? fun i => !bitAt done i).map (· + 1)
  s.setReg pwrmPage 0x040 (BitVec.ofNat 32 (low.getD 7 + 2 ^ 4 * done + 2 ^ 12 * bitsOf v 12 12))

/-- Domains of a stack shown ON. -/
def domainsOn (s : State) (st : Fin 8) (mask : Nat) : State :=
  let p := stackPage st .pwr
  s.setReg p 0x044 (s.reg p 0x044 ||| BitVec.ofNat 32 mask)

/-- The part enters recovery (R402): no firmware runs, and stack 0 powers what KXT and the image need. -/
def enterRecovery (s : State) : State :=
  let s1 := s.modBzl fun b => { b with recovery := true }
  loadNet (domainsOn (s1.setFld pwrmPage 0x040 3 0 8) 0 0x60) 0

/-! ### Commands (R414, R415) -/

/-- The input of a command, and its output written from offset 0. -/
def bzlInput (s : State) : List Byte := Sparse.getList (fun _ => 0) (s.st 0).bzlBuf 0 (s.reg (bzlPage 0) 0x050).toNat
def bzlOutput (s : State) (bs : List Byte) : State :=
  (s.modSt 0 fun x => { x with bzlBuf := Sparse.setList (fun _ => 0) x.bzlBuf 0 bs }).setReg (bzlPage 0) 0x054
    (BitVec.ofNat 32 bs.length)

/-- A command ends on a stack's page with its STATUS; a refused one writes a Locket record (R415). -/
def bzlEnd (s : State) (st : Fin 8) (op status : Nat) : State :=
  let s1 := raiseEvt (s.setFld (bzlPage st) 0x044 15 4 (op + 2 ^ 4 * status)) (bzlPage st) 3
  if status = 0 then s1
  else bezelRecord s1 0x8009 (leBytes op 1 ++ leBytes status 1 ++ leBytes (bzlMode s 0) 1)

/-- What the checks of a command find, first failure first: pairs of whether a check fails and its STATUS. -/
def firstStatus : List (Bool × Nat) → Nat
  | [] => 0
  | (c, n) :: l => if c then n else firstStatus l

/-- Bytes of a blob that must be zero. -/
def zeroAt (bs : List Byte) (i n : Nat) : Bool := (slice bs i n).all (· == 0)

/-- The little-endian value at a place of a blob. -/
def blobNat (bs : List Byte) (i n : Nat) : Nat := leNat (slice bs i n)

/-- The owner's signature over the first `n` bytes, found after them. -/
def ownerSigned (s : State) (bs : List Byte) (n : Nat) (ctx : String) : Bool :=
  Config.dsaVerify s.mod.bzl.owner (bs.take n) (ascii ctx) (slice bs n 3309)

/-- The endorsement (R396). -/
def endorsement (s : State) : List Byte :=
  [0x01, 0x00] ++ leBytes (partCode s.part) 2 ++ [0, 0, 0, 0] ++ leBytes s.mod.bzl.serial.toNat 8 ++ idHash s ++
    slice s.mod.bzl.endorsement 0 3309

/-- IDENTITY (R415). -/
def bzlIdentity (s : State) : State := bzlEnd (bzlOutput s (ikPublic s ++ endorsement s)) 0 1 0

/-- The plan entry of sequencer 4s + n in the report (R405). -/
def planEntry (s : State) (i : Nat) : List Byte :=
  let st : Fin 8 := Fin.ofNat 8 (i / 4)
  let q := s.seq st (Fin.ofNat 4 i)
  let l := Sparse.get (fun _ => (0, 0)) s.mod.bzl.loads i
  if s.has st = false ∨ q.st = .empty then List.replicate 80 0
  else leBytes st.val 1 ++ leBytes (i % 4) 1 ++ leBytes q.plan.toNat 2 ++ leBytes (seqCode q.st) 1 ++ [0, 0, 0] ++
    leBytes l.1.toNat 8 ++ leBytes l.2.toNat 64

/-- The sealing key pair's seeds d and z (R395), and its encapsulation key. -/
def sealSeeds (s : State) : List Byte × List Byte :=
  let v := shake (bytes256 s.mod.bzl.drs ++ ascii "KX seal" ++ leBytes s.mod.bzl.epoch.toNat 8) 64
  (slice v 0 32, slice v 32 32)
def sealEk (s : State) : List Byte := slice (Config.kemEncapsKey (sealSeeds s).1 (sealSeeds s).2) 0 1184

/-- Bytes 0 to 3,135 of the report (R405). -/
def attestBody (s : State) (nonce : List Byte) (time : DWord) : List Byte :=
  let b := s.mod.bzl
  [0x01, 0x00] ++ leBytes (partCode s.part) 2 ++ leBytes 6445 4 ++ leBytes (bootCount s) 8 ++ slice nonce 0 32 ++ idHash s ++
    ownerHash s ++ leBytes b.epoch.toNat 8 ++ leBytes b.configSeq.toNat 8 ++ leBytes time.toNat 8 ++
    leBytes (s.st 0).tns.pos.toNat 8 ++ leBytes b.fwVersion.toNat 4 ++ leBytes b.fwSvn 1 ++ leBytes b.rollback 1 ++
    leBytes (bzlMode s 0) 1 ++
    leBytes (s.stacksIn.foldl (fun n i => n + bit (s.st i).pwr.paired * 2 ^ i.val) 0) 1 ++ leBytes b.fwSlot 1 ++
    leBytes b.revoked.toNat 1 ++ List.replicate 6 0 ++
    (if b.owner = [] then List.replicate 32 0 else shake (sealEk s) 32) ++
    b.meas.toList.flatMap (fun m => leBytes m.toNat 64) ++ (List.range 32).flatMap (planEntry s)

/-- ATTEST (R405). -/
def bzlAttest (s : State) : State :=
  let bs := bzlInput s
  if bs.length ≠ 32 then bzlEnd s 0 2 1
  else
    let (t, s1) := s.now
    let body := attestBody s bs t
    bzlEnd (bzlOutput s1 (body ++ ikSign s body (ascii "KX-ATT"))) 0 2 0

/-! ### Custody (R406 to R408) -/

/-- The layout of a custody blob (R407). -/
def custodyFormat (s : State) (bs : List Byte) : Bool :=
  let kind := blobNat bs 2 1
  bs.length == 8618 && blobNat bs 0 2 == 1 && 1 ≤ kind && kind ≤ 3 && zeroAt bs 3 5 &&
    (kind != 2 || zeroAt bs 48 1952) && (kind == 1 || zeroAt bs 2000 3309) &&
    (kind != 1 || !s.mod.bzl.owner.isEmpty || zeroAt bs 5309 3309)

/-- Every signature that the KIND requires verifies, and the service key of KIND 3 is Adeiholt's (R407). -/
def custodySigned (s : State) (bs : List Byte) : Bool :=
  let kind := blobNat bs 2 1
  let pk := slice bs 48 1952
  let msg := bs.take 2000
  let old := slice bs 5309 3309
  let b := s.mod.bzl
  match kind with
  | 1 => Config.dsaVerify pk msg (ascii "KX-CLAIM") (slice bs 2000 3309) &&
      (b.owner.isEmpty || Config.dsaVerify b.owner msg (ascii "KX-REL") old)
  | 2 => Config.dsaVerify b.owner msg (ascii "KX-REL") old
  | _ => val256 (shake pk 32) == b.serviceHash && Config.dsaVerify pk msg (ascii "KX-RESET") old

/-- STATUS of a custody blob; KIND 2 needs an owner. The order of the checks is assumption 19. -/
def custodyStatus (s : State) (bs : List Byte) : Nat :=
  firstStatus [(!custodyFormat s bs, 1), (blobNat bs 2 1 == 2 && s.mod.bzl.owner.isEmpty, 5),
    (blobNat bs 8 8 != s.mod.bzl.epoch.toNat, 4), (slice bs 16 32 != idHash s, 3), (!custodySigned s bs, 2)]

/-- The sequence number the Locket would give next (R442). -/
def locketNext (s : State) : DWord :=
  let l := s.mod.lkt
  if l.scanned then l.next
  else match highestSeq l.ring with
    | some n => BitVec.ofNat 64 (max (n + 2) l.base.toNat)
    | none => l.base

/-- An accepted CUSTODY (R408): the new owner record with WIPE_PENDING and the base word, MEAS4, the event; then the wipe begins, and
every domain of every stack loses what it held. -/
def custodyAccept (s : State) (bs : List Byte) : State :=
  let kind := blobNat bs 2 1
  let s1 := s.modBzl fun b =>
    { b with owner := if kind = 1 then slice bs 48 1952 else [], epoch := b.epoch + 1, configSeq := 0, configHash := 0,
             peers := [], plans := [], sealed := false, wipePending := true, wipeKind := kind }
  let s2 := raiseEvt ((measExtend s1 4 (ownerData s1)).modLkt fun l => { l with base := locketNext s + 1 }) (bzlPage 0) 5
  (s2.stacksIn.foldl stackLost s2).setReg pwrmPage 0x044 3

/-- CUSTODY. -/
def bzlCustody (s : State) : State :=
  let bs := bzlInput s
  let e := custodyStatus s bs
  if e = 0 then custodyAccept s bs else bzlEnd s 0 3 e

/-- The soft repairs of R297 that the ring recorded as applied, in sequence order: the records copied behind the custody
record (R408). -/
def softRepairs (ring : Sparse Slot64) : List Slot64 :=
  let soft := fun (v : Slot64) =>
    let bs := slotBytes v
    validRecord v && leNat (slice bs 28 2) == 0x8007 && leNat (slice bs 40 1) == 0 && !bitAt (leNat (slice bs 41 1)) 0
  (((ring.map (·.2)).filter soft).mergeSort fun a b => recordSeq a ≤ recordSeq b)

/-- The request that a record copied again makes. -/
def copyRequest (v : Slot64) : RecReq :=
  let bs := slotBytes v
  let n := fun i k => leNat (slice bs i k)
  { src := ⟨n 24 2, n 26 1, n 27 1 % 16⟩, order := 2, code := BitVec.ofNat 16 (n 28 2), payload := slice bs 32 24,
    time := BitVec.ofNat 64 (n 8 8), timeValid := bitAt (n 31 1) 1, pos := BitVec.ofNat 64 (n 16 8),
    posValid := bitAt (n 31 1) 0, dropped := n 30 1 }

/-- The wipe is complete (R408): the ring is erased, the custody record and the soft repairs become its first records, WIPE_PENDING
clears, and the part goes on from step 3 of R400. -/
def wipeDone (s : State) : State :=
  let b := s.mod.bzl
  let repairs := softRepairs s.mod.lkt.ring
  let s1 := (s.modLkt fun l => { l with ring := [], next := l.base, last := 0xFFFFFFFFFFFFFFFF }).modBzl fun b =>
    { b with wipePending := false }
  let (r, s2) := makeRequest s1 (bzlPage 0).source 2 0 0x8008
    (leBytes b.wipeKind 1 ++ List.replicate 7 0 ++ leBytes b.epoch.toNat 8 ++ (ownerHash s).take 8)
  (repairs.map copyRequest).foldl storeRecord (storeRecord s2 r)

/-! ### Configuration (R409) -/

/-- The layout of a configuration. -/
def configFormat (bs : List Byte) : Bool :=
  let np := blobNat bs 4 2
  let nl := blobNat bs 6 2
  blobNat bs 0 2 == 1 && blobNat bs 2 1 < 2 && blobNat bs 3 1 == 0 && np ≤ 1024 && nl ≤ 64 && zeroAt bs 24 40 &&
    bs.length == 64 + 36 * np + 64 * nl + 3309 &&
    (List.range np).all fun i => blobNat bs (64 + 36 * i + 32) 1 < 8 && zeroAt bs (64 + 36 * i + 33) 3

/-- STATUS of a configuration; one whose CONFIG_SEQ is not above the one in force ends with EPOCH (assumption 19). -/
def configStatus (s : State) (bs : List Byte) : Nat :=
  let b := s.mod.bzl
  firstStatus [(!configFormat bs, 1), (b.owner.isEmpty, 5),
    (blobNat bs 8 8 != b.epoch.toNat || blobNat bs 16 8 ≤ b.configSeq.toNat, 4),
    (!ownerSigned s bs (bs.length - 3309) "KX-CFG", 2)]

/-- A key, by its hash, may hold a session of a role (R406). -/
def hashAllowed (b : Bezel) (h : BitVec 256) (role : Nat) : Bool :=
  h == val256 (shake b.owner 32) || b.peers.any fun e => e.1 == h && 1 ≤ role && bitAt e.2.toNat (role - 1)

/-- The OPEN sessions of a stack whose key or role the new lists remove are closed (R409). -/
def closeRemoved (old new : Bezel) (s : State) (st : Fin 8) : State :=
  ((s.st st).sess.filter fun e => e.2.st == .opened && hashAllowed old e.2.peerHash e.2.role &&
    !hashAllowed new e.2.peerHash e.2.role).foldl (fun s e => answerClose s st e.1) s

/-- CONFIG. -/
def bzlConfig (s : State) : State :=
  let bs := bzlInput s
  let e := configStatus s bs
  if e ≠ 0 then bzlEnd s 0 4 e
  else
    let np := blobNat bs 4 2
    let old := s.mod.bzl
    let isSealed := bitAt (blobNat bs 2 1) 0
    let s1 := s.modBzl fun b =>
      { b with configSeq := BitVec.ofNat 64 (blobNat bs 16 8), sealed := isSealed,
               configHash := BitVec.ofNat 512 (leNat (shake bs 64)),
               peers := (List.range np).map fun i => (val256 (slice bs (64 + 36 * i) 32), BitVec.ofNat 8 (blobNat bs (96 + 36 * i) 1)),
               plans := (List.range (blobNat bs 6 2)).map fun i =>
                 BitVec.ofNat 512 (blobNat bs (64 + 36 * np + 64 * i) 64) }
    let s2 := measExtend s1 4 (ownerData s1)
    let s3 := if isSealed = old.sealed then s2 else raiseEvt (measExtend s2 5 bs) (bzlPage 0) 4
    bzlEnd (s3.stacksIn.foldl (closeRemoved old s1.mod.bzl) s3) 0 4 0

/-! ### Sealing and debug (R410, R413) -/

/-- SEAL_EK. -/
def bzlSealEk (s : State) : State :=
  if s.mod.bzl.owner = [] then bzlEnd s 0 5 5 else bzlEnd (bzlOutput s (sealEk s)) 0 5 0

/-- STATUS of a SEAL_KEY blob. -/
def sealKeyStatus (s : State) (bs : List Byte) : Nat :=
  firstStatus [(bs.length != 4413 || blobNat bs 0 2 != 1 || 16 ≤ blobNat bs 2 1 || !zeroAt bs 3 5, 1),
    (s.mod.bzl.owner.isEmpty, 5), (blobNat bs 8 8 != s.mod.bzl.epoch.toNat, 4), (!ownerSigned s bs 1104 "KX-SEAL", 2)]

/-- The key that a SEAL_KEY blob gives its slot. -/
def sealedKey (s : State) (bs : List Byte) : SealSlot :=
  let ss := slice (Config.kemDecaps (sealSeeds s).1 (sealSeeds s).2 (slice bs 16 1088)) 0 32
  { dk := val256 (shake (ascii "KX seal dk" ++ ss ++ leBytes (blobNat bs 2 1) 1) 32), filled := true }

/-- SEAL_KEY. -/
def bzlSealKey (s : State) : State :=
  let bs := bzlInput s
  let e := sealKeyStatus s bs
  if e ≠ 0 then bzlEnd s 0 6 e
  else bzlEnd (measExtend (s.modSlot (blobNat bs 2 1) fun _ => sealedKey s bs) 5 bs) 0 6 0

/-- SEAL_DROP. -/
def bzlSealDrop (s : State) : State :=
  let bs := bzlInput s
  if bs.length ≠ 2 then bzlEnd s 0 7 1
  else bzlEnd ((List.range 16).foldl (fun s i => if bitAt (leNat bs) i then s.modSlot i fun _ => {} else s) s) 0 7 0

/-- STATUS of a debug token (R413). -/
def debugStatus (s : State) (bs : List Byte) : Nat :=
  let level := blobNat bs 2 1
  let b := s.mod.bzl
  let pk := slice bs 64 1952
  let bad := bs.length != 5325 || blobNat bs 0 2 != 1 || level == 0 || 2 < level || 2 ≤ blobNat bs 3 1 || !zeroAt bs 4 4 ||
    !zeroAt bs 56 8 || (level == 1 && !zeroAt bs 64 1952)
  let signed := if level = 1 then ownerSigned s bs 2016 "KX-DBG"
    else val256 (shake pk 32) == b.serviceHash && Config.dsaVerify pk (bs.take 2016) (ascii "KX-DBG") (slice bs 2016 3309)
  firstStatus [(bad, 1), ((level == 1) == b.owner.isEmpty, 5),
    (blobNat bs 8 8 != b.epoch.toNat || blobNat bs 16 8 != bootCount s, 4), (slice bs 24 32 != idHash s, 3), (!signed, 2)]

/-- DEBUG (R413). -/
def bzlDebug (s : State) : State :=
  let bs := bzlInput s
  let e := debugStatus s bs
  if e ≠ 0 then bzlEnd s 0 8 e
  else
    let owner := blobNat bs 2 1 == 1
    let s1 := measExtend (s.modBzl fun b =>
      { b with slots := Vector.replicate 16 {}, debugOwner := b.debugOwner || owner, debugVendor := b.debugVendor || !owner }) 5 bs
    bezelRecord (raiseEvt (bzlEnd s1 0 8 0) (bzlPage 0) 4) 0x8009
      (leBytes 8 1 ++ leBytes 0 1 ++ leBytes (bzlMode s1 0) 1)

/-! ### Firmware update (R402, R403) -/

/-- An image in memory. -/
def memReader (s : State) (addr : Nat) : ImageReader := fun a n => s.bytes (addr + a) n

/-- STATUS of an update: an image in another stack ends with STACK (assumption 19). -/
def updateStatus (s : State) (bs : List Byte) : Nat :=
  let a := blobNat bs 0 8
  let n := blobNat bs 8 8
  if bs.length ≠ 16 then 1
  else if s.mod.bzl.recovery ∧ s.mod.bzl.pairingFailed then 5
  else if a / 2 ^ 48 ≠ 0 then 7
  else if n < 8192 ∨ inMemory s 0 a n = false ∨ (readFailure s a n).isSome then 8
  else match verifyImage s (memReader s a) with
    | some 5 => 6
    | some _ => 8
    | none => if n = 8192 + fwCodeBytes (memReader s a) then 0 else 8

/-- FW_UPDATE: the image is written to the NOR flash; in recovery start-up goes on with it (R402). -/
def bzlFwUpdate (s : State) : State :=
  let bs := bzlInput s
  let e := updateStatus s bs
  if e ≠ 0 then bzlEnd s 0 9 e
  else
    let a := blobNat bs 0 8
    let n := blobNat bs 8 8
    let s1 := measExtend (s.modBzl fun b => { b with nor := Sparse.setList (fun _ => 0) [] 0 (s.bytes a n) }) 5 bs
    if s.mod.bzl.recovery then
      let s2 := firmwareStarts (s1.modBzl fun b => { b with recovery := false })
      bzlEnd (stageComplete (stageComplete s2 1) 2) 0 9 0
    else bzlEnd s1 0 9 0

/-! ### The command register and the rows -/

/-- A GO (R414, R415): other stacks' pages end it with STACK; a reserved OP is ignored. -/
def bzlGo (s : State) (st : Fin 8) (op : Nat) : State :=
  if op = 0 ∨ 9 < op then s
  else if st ≠ 0 then bzlEnd s st op 7
  else match op with
    | 1 => bzlIdentity s
    | 2 => bzlAttest s
    | 3 => bzlCustody s
    | 4 => bzlConfig s
    | 5 => bzlSealEk s
    | 6 => bzlSealKey s
    | 7 => bzlSealDrop s
    | 8 => bzlDebug s
    | _ => bzlFwUpdate s

/-- A word of BZL_BUF's selected slice, and one written (R414). -/
def bzlWord (s : State) (st : Fin 8) (off : Nat) : Nat :=
  leNat (Sparse.getList (fun _ => 0) (s.st st).bzlBuf (2048 * s.fld (bzlPage st) 0x04C 4 0 + (off - 0x800)) 4)
def bzlWordWrite (s : State) (st : Fin 8) (off : Nat) (v : Word) : State :=
  let a := 2048 * s.fld (bzlPage st) 0x04C 4 0 + (off - 0x800)
  s.modSt st fun x => { x with bzlBuf := Sparse.setList (fun _ => 0) x.bzlBuf a (leBytes v.toNat 4) }

/-- WIPE_COMPLETE (R408, R400 step 2): the primary runs and a wipe is pending. -/
def execWipeComplete (s : State) : Host.Outcome State Fault Refusal :=
  .next (if s.mod.bzl.wipePending ∧ s.mod.pwr.resetHeld = false ∧ s.domOn 0 7 = true then wipeDone s else s)

/-! ### Cross-checks (R422) -/

/-- The core a physical core serves, and the spare-map entry that names it. -/
def servedBy (s : State) (st : Fin 8) (phys : Nat) : Option Nat := (List.range 56).find? fun c => physCore s st c == phys
def spareEntry (s : State) (st : Fin 8) (phys : Nat) : Option Nat :=
  (List.range 4).find? fun i => bitsOf (spareReg s st i) 5 0 == phys && !bitAt (spareReg s st i) 14 && !bitAt (spareReg s st i) 15

/-- IDLE_CORE_TEST: a fixed pass on a spare core or on one whose MX page is unbound and idle. A spare that fails is retired, a core
in service that fails is swapped; the test leaves the core's stores zeroed. -/
def execIdleCoreTest (st : Fin 8) (phys : Fin 60) (sumOk : Bool) (s : State) : Host.Outcome State Fault Refusal :=
  if s.has st then
    .next (
      if s.domOn st (phys.val / 15) = false then s
      else match servedBy s st phys.val, spareEntry s st phys.val with
        | some c, _ =>
          let mx := stackPage st .mx c
          if s.fld mx 0x030 15 0 ≠ 0 ∨ busy s mx = true ∨ busy s (stackPage st .vc c) = true then s
          else
            let s1 := zeroPanel (s.modCore st c fun x => { x with tiles := [], banks := Vector.replicate 2 {} }) st c
            if sumOk then s1 else (submitOrDie s1 st 4 4 c).1
        | none, some i => if sumOk then s else s.setFlag (arbPage st) (0x0A0 + 4 * i) 15 true
        | none, none => s)
  else .fault .absentStack

/-- The management core is restarted: its stream is abandoned, with a STATUS the spec leaves open (assumption 2), and what it
submitted and still waits ends. -/
def mgmtRestart (s : State) (st : Fin 8) (missed : Nat) : State :=
  let k := min 255 ((s.st st).arb.restarts + 1)
  let s1 := recordFault (s.modArb st fun a => { a with restarts := k, missed := 0 }) (arbPage st) 0x0A 0x41
    (k * 2 ^ 16 + missed * 2 ^ 24) 0
  let s2 := if (s.st st).ckpt.streaming then
      let (v, s2) := s1.drawFree
      abandonStream s2 st (v.toNat % 2 ^ 16)
    else s1
  ((s.st st).arb.wait.filter fun a => a.sub == 4).foldl (fun s a => endWaiting s st a) s2

/-- HEARTBEAT_CHECK: the firmware has rung bit 28 of mailbox 16 since the last interval, or has missed one; the third in a row
restarts it. -/
def execHeartbeatCheck (st : Fin 8) (s : State) : Host.Outcome State Fault Refusal :=
  if s.has st then
    .next (
      if (s.st st).pwr.firmware = false ∨ s.mod.pwr.sleeping = true then s
      else if (s.box st 16).db.getLsbD 28 then
        (s.modBox st 16 fun b => { b with db := b.db &&& ~~~(BitVec.ofNat 32 (2 ^ 28)) }).modArb st fun a => { a with missed := 0 }
      else
        let k := (s.st st).arb.missed + 1
        if k < 3 then s.modArb st fun a => { a with missed := k } else mgmtRestart s st k)
  else .fault .absentStack

/-- The ports of the other stacks that lead to a stack go down (R422). -/
def portsToward (s : State) (st : Fin 8) : State :=
  s.stacksIn.foldl (fun s t => (List.range 3).foldl (fun s p =>
    if t ≠ st ∧ jkPeer s.part t.val p = st.val ∧ s.flag (jkPage t p) 0x040 0 = true then
      raiseEvt (s.setFlag (jkPage t p) 0x040 0 false) (jkPage t p) 5
    else s) s) s

/-- A stack that failed pairing is held in reset (R400, R417, R422). -/
def holdStack (s : State) (st : Fin 8) : State :=
  (portsToward (stackLost s st) st).modPwr st fun p => { p with held := true, paired := false, firmware := false }

end Sys2Proof.Machine
end

