-- ==== Sys2Proof/Machine/Tense.lean ====
section
/-! DEFINITION. The Tense unit (R53 to R68): acquisition, tracking and freewheel, tick edges, and the event slots. What a
fired slot does to its resource stands in Machine/Cadence.lean. -/

namespace Sys2Proof.Machine

/-- The TNS page of a stack. -/
def tnsPage (st : Fin 8) : Page := stackPage st .tns

/-- TNS_CTRL.SRC, RUN, SLEW and WINDOW (R67). -/
def tnsSrc (s : State) (st : Fin 8) : Nat := s.fld (tnsPage st) 0x040 1 0
def tnsRunning (s : State) (st : Fin 8) : Bool := s.flag (tnsPage st) 0x040 2
def tnsSlew (s : State) (st : Fin 8) : Nat := s.fld (tnsPage st) 0x040 6 4
def tnsWindow (s : State) (st : Fin 8) : Nat := s.fld (tnsPage st) 0x040 31 16

/-- TNS_BEAT_SET (R67). -/
def tnsBeatSet (s : State) (st : Fin 8) : Nat := s.pair (tnsPage st) 0x050 % 2 ^ 48

/-- The length of the current beat, in sixteenths of a picosecond (R56). -/
def Tense.beatLen (t : Tense) : Int := t.base + (if t.corrLeft = 0 then 0 else t.corr)

/-- The current beat number and tick. -/
def Tense.beat (t : Tense) : Nat := t.pos.toNat / 65536
def Tense.tick (t : Tense) : Nat := t.pos.toNat % 65536

/-! ### Event slots (R61 to R64) -/

/-- A slot, and one changed. -/
def Tense.slot (t : Tense) (n : Nat) : Slot := Sparse.get (fun _ => {}) t.slots n
def Tense.modSlot (t : Tense) (n : Nat) (f : Slot → Slot) : Tense :=
  { t with slots := Sparse.set (fun _ => {}) t.slots n (f (t.slot n)) }

/-- The greatest TARGET of a KIND, none for a reserved one (R62). -/
def kindTarget : Nat → Option Nat
  | 1 => some 0 | 2 => some 0 | 3 => some 15 | 4 => some 0 | 5 => some 255 | 6 => some 14 | 7 => some 63
  | _ => none

/-- The resource a slot contends for: a number of its own for each, none for doorbells (R62). -/
def Slot.resource (x : Slot) : Option Nat :=
  match x.kind with
  | 1 | 2 => some 0
  | 3 => some (16 + x.target.toNat)
  | 4 => some 1
  | 5 => some 2
  | 6 => some 3
  | _ => none

/-- A slot whose position has passed while it could not fire (R64): it fires at the first tick it can, or skips to the
first later position of its period, or disarms. -/
def Slot.miss (now : Nat) (x : Slot) : Slot :=
  if x.skip then
    if x.period = 0 then { x with missed := true, armed := false, waiting := false, late := false }
    else
      let n := (now - x.pos.toNat) / x.period.toNat + 1
      { x with missed := true, waiting := false, late := false, deferCount := 0,
               pos := x.pos + BitVec.ofNat 64 (n * x.period.toNat) }
  else { x with missed := true, waiting := true, late := true, deferCount := 0 }

/-- Every armed slot whose position lies before `now` and that does not wait is missed; each raises SLOT_MISSED (R64). -/
def missPassed (s : State) (st : Fin 8) (now : Nat) : State :=
  let t := (s.st st).tns
  (t.slots.filter fun e => e.2.armed && !e.2.waiting && e.2.pos.toNat < now).foldl
    (fun s e => raiseEvt (s.modTns st fun t => t.modSlot e.1 (Slot.miss now)) (tnsPage st) 8) s

/-- What a slot fires: its number, kind, target, bit and scheduled position. -/
structure Firing where
  slot : Nat
  kind : Nat
  target : Nat
  bit : Nat
  pos : DWord
  deriving DecidableEq, Repr

/-- A slot after firing at position `now` (R61): re-armed a period later, or disarmed. -/
def Slot.fire (x : Slot) : Slot :=
  let y := { x with fired := true, fireCount := x.fireCount + 1, waiting := false, late := false }
  if x.period = 0 then { y with armed := false } else { y with pos := x.pos + x.period }

/-- Whether slot `a` goes before slot `b` at tick `now` (R63, R64): a missed one by its earlier position, then by slot
number. -/
def fireBefore (now : Nat) (a b : Nat × Slot) : Bool :=
  let key := fun (x : Nat × Slot) => if x.2.late then x.2.pos.toNat else now
  key a < key b || (key a == key b && a.1 < b.1)

/-- Whether a waiting slot wins its resource at this tick (R63). -/
def winsTick (now : Nat) (waiting : List (Nat × Slot)) (e : Nat × Slot) : Bool :=
  match e.2.resource with
  | none => true
  | some r => waiting.all fun o => o.1 == e.1 || o.2.resource != some r || fireBefore now e o

/-- A slot that lost its resource: DEFERRED, DEFER_COUNT, SLOT_DEFERRED, and at 255 DEFER_LIMIT (R63). -/
def deferSlot (st : Fin 8) (s : State) (e : Nat × Slot) : State :=
  let s1 := s.modTns st fun t =>
    t.modSlot e.1 fun x => { x with deferred := true, deferCount := min 255 (x.deferCount + 1) }
  let s2 := if e.2.deferCount = 254 then recordFault s1 (tnsPage st) 0x09 0x04 e.1 0 else s1
  raiseEvt s2 (tnsPage st) 7

/-- A slot fires: its own state and SLOT_FIRED; a position that its re-arming leaves behind is missed (R61, R64). -/
def fireSlot (st : Fin 8) (now : Nat) (s : State) (e : Nat × Slot) : State :=
  let s1 := raiseEvt (s.modTns st fun t => t.modSlot e.1 Slot.fire) (tnsPage st) 6
  let x := ((s1.st st).tns).slot e.1
  if x.armed ∧ x.pos.toNat ≤ now then
    raiseEvt (s1.modTns st fun t => t.modSlot e.1 (Slot.miss now)) (tnsPage st) 8
  else s1

/-- The slots are evaluated at the tick that has just begun (R61 to R64): those due start waiting, the winners fire and
the losers are deferred. Answers the firings in slot order. -/
def evalSlots (s : State) (st : Fin 8) : State × List Firing :=
  let now := (s.st st).tns.pos.toNat
  let s1 := s.modTns st fun t => { t with slots := t.slots.map fun e =>
    if e.2.armed && !e.2.waiting && e.2.pos.toNat == now
    then (e.1, { e.2 with waiting := true, late := false, deferCount := 0 }) else e }
  let waiting := (s1.st st).tns.slots.filter fun e => e.2.waiting
  let winners := waiting.filter (winsTick now waiting)
  let losers := waiting.filter fun e => !winsTick now waiting e
  let s2 := losers.foldl (deferSlot st) s1
  (winners.foldl (fireSlot st now) s2,
   winners.map fun e => ⟨e.1, e.2.kind, e.2.target.toNat, e.2.bit, e.2.pos⟩)

/-! ### Edges (R53 to R58) -/

/-- The confirming edge (R54): ticks begin at tick 0 of beat `number`; slots whose positions the stop passed over are
missed (R57, R64). -/
def lockAt (s : State) (st : Fin 8) (t period number : Nat) : State :=
  let s1 := s.modTns st fun u =>
    { u with lock := .locked, ticking := true, freewheel := 0, acq := [], base := 16 * period,
             beatStart := 16 * (t : Int), corr := 0, corrLeft := 0, corrNext := none, acceptedCur := true,
             acceptedNext := false, lastEdge := t, lastBeat := number, periodPs := BitVec.ofNat 64 period,
             pos := BitVec.ofNat 64 (number * 65536), numberNext := none, frame := none }
  missPassed (raiseEvt s1 (tnsPage st) 3) st (number * 65536)

/-- After sleep, the first frame's number is taken, and a difference from the kept count is recorded in the Locket
(R60, R438). -/
def keptCount (s : State) (st : Fin 8) (number : Option Nat) : State :=
  match (s.st st).tns.kept, number with
  | some k, some n =>
    let s1 := s.modTns st fun u => { u with kept := none }
    if k = n then s1
    else locketRequest s1 (tnsPage st).source (tnsPage st).order st 0x800C (leBytes k 8 ++ leBytes n 8)
  | _, _ => s

/-- An edge during acquisition (R54): the first sets phase, the second measures the period, the third confirms or
starts again. `number` is the number a beat frame gave it (R53); with none the count goes on from TNS_BEAT_SET (SRC 0)
or from the beat held. -/
def acquireEdge (s : State) (st : Fin 8) (t : Nat) (number : Option Nat) : State :=
  match (s.st st).tns.acq with
  | [] => s.modTns st fun u => { u with acq := [t] }
  | [a] =>
    let p := t - a
    if 10 ^ 9 ≤ p ∧ p ≤ 60 * 10 ^ 12 then s.modTns st fun u => { u with acq := [t, a] }
    else recordFault (s.modTns st fun u => { u with acq := [t] }) (tnsPage st) 0x09 0x03 (min (p / 10 ^ 6) 0xFFFFFFFF) 0
  | b :: a :: _ =>
    let p := b - a
    if ((t : Int) - (b + p)).natAbs * 65536 ≤ tnsWindow s st * p then
      let n := match number with
        | some n => n
        | none => if tnsSrc s st = 0 then tnsBeatSet s st else (s.st st).tns.beat + 1
      lockAt (keptCount s st number) st t p n
    else s.modTns st fun u => { u with acq := [t] }

/-- The phase error in 256ths of a tick, held within 24 bits (R67). -/
def phaseOf (err len : Int) : BitVec 24 :=
  BitVec.ofInt 24 (max (-8388608) (min 8388607 (Int.ediv (err * 256 * 65536 * 2 + len) (2 * len))))

/-- A frame's number that differs from the local count at an accepted edge (R58). -/
def numberCheck (s : State) (st : Fin 8) (beat number : Nat) : State :=
  if beat = number then s
  else
    let s1 := s.modTns st fun u => { u with numberNext := some (number + (u.beat + 1 - beat)) }
    recordFault s1 (tnsPage st) 0x09 0x02 (number % 2 ^ 32) 0

/-- An edge while the unit tracks (R56, R57): accepted within the window of the edge it is nearest to, else a stray. -/
def trackEdge (s : State) (st : Fin 8) (t : Nat) (number : Option Nat) : State :=
  let u := (s.st st).tns
  let e0 := 16 * (t : Int) - u.beatStart
  let e1 := e0 - u.beatLen
  let next := e1.natAbs < e0.natAbs
  let err := if next then e1 else e0
  let beat := if next then u.beat + 1 else u.beat
  let taken := if next then u.acceptedNext else u.acceptedCur
  if (err.natAbs : Int) * 65536 ≤ tnsWindow s st * u.beatLen ∧ taken = false then
    let n := beat - u.lastBeat
    let back := u.lock = .freewheel
    let s1 := s.modTns st fun u =>
      { u with corrNext := some err, phaseErr := phaseOf err u.beatLen, freewheel := 0, lock := .locked,
               acceptedCur := if next then u.acceptedCur else true, acceptedNext := if next then true else u.acceptedNext,
               periodPs := if n = 0 then u.periodPs else BitVec.ofNat 64 ((t - u.lastEdge + n / 2) / n),
               lastEdge := t, lastBeat := beat }
    let s2 := if back then raiseEvt s1 (tnsPage st) 3 else s1
    match number with
    | some k => numberCheck s2 st beat k
    | none => s2
  else raiseEvt (s.countSat (tnsPage st) 0x064) (tnsPage st) 9

/-- A beat edge reaches the unit (R54, R56): while RUN is 0 it has no effect. -/
def tnsEdge (s : State) (st : Fin 8) (t : Nat) (number : Option Nat) : State :=
  if tnsRunning s st = false then s
  else match (s.st st).tns.lock with
    | .idle => s
    | .acquiring | .lost => acquireEdge s st t number
    | .locked | .freewheel => trackEdge s st t number

/-- Whether the time of a frame's edge lies within the acceptance window of time `t` (R53). -/
def nearEdge (s : State) (st : Fin 8) (t e : Nat) : Bool :=
  ((t : Int) - e).natAbs * 65536 * 16 ≤ tnsWindow s st * (s.st st).tns.beatLen.natAbs

/-- A beat frame reaches the unit, with its beat number and edge time in picoseconds (R53, R58): with SRC 1 it is the
edge; with SRC 2 it numbers a pin edge, the one accepted last or the one to come. -/
def tnsFrame (s : State) (st : Fin 8) (number t : Nat) : State :=
  match tnsSrc s st with
  | 1 => tnsEdge s st t (some number)
  | 2 =>
    let u := (s.st st).tns
    if (u.lock = .locked ∨ u.lock = .freewheel) ∧ nearEdge s st t u.lastEdge = true then
      numberCheck s st u.lastBeat number
    else s.modTns st fun u => { u with frame := some (number, t) }
  | _ => s

/-- In sleep a pin edge is counted, with SRC 0 or 2 (R60). -/
def sleepEdge (s : State) (st : Fin 8) : State :=
  if tnsSrc s st = 1 then s else s.modTns st fun u => { u with kept := some (u.kept.getD u.beat + 1) }

/-- A rising crossing of BEAT_P/N at `t` picoseconds (R53, R56). With SRC 1 the pins give no edges. -/
def beatCrossing (s : State) (st : Fin 8) (t : Nat) : State :=
  if s.mod.pwr.sleeping then sleepEdge s st
  else if tnsSrc s st = 1 then s
  else
    let number := match (s.st st).tns.frame with
      | some (n, e) => if tnsSrc s st = 2 ∧ (nearEdge s st t e = true ∨ (s.st st).tns.base = 0) then some n else none
      | none => none
    tnsEdge s st t number

/-- EDGE_WINDOW_EXPIRY (R57): the edge that starts the current beat was not accepted in its window. At the fourth beat
LOCK_STATE becomes LOST. -/
def execEdgeWindowExpiry (st : Fin 8) (s : State) : Host.Outcome State Fault Refusal :=
  if s.has st then
    let u := (s.st st).tns
    .next (if (u.lock = .locked ∨ u.lock = .freewheel) ∧ u.acceptedCur = false then
      let n := u.freewheel + 1
      if n ≥ 4 then
        let s1 := s.modTns st fun u => { u with freewheel := 4, lock := .lost, acq := [] }
        raiseEvt (recordFault s1 (tnsPage st) 0x09 0x01 (u.lastBeat % 2 ^ 32) 0) (tnsPage st) 5
      else
        let s1 := s.modTns st fun u => { u with freewheel := n, lock := .freewheel }
        if u.lock = .locked then raiseEvt s1 (tnsPage st) 4 else s1
      else s)
  else .fault .absentStack

/-- A beat boundary (R56 to R58): the tick length changes, a frame's number is taken, and a LOST unit stops at tick 0. -/
def beatBoundary (s : State) (st : Fin 8) : State :=
  let u := (s.st st).tns
  let num := match u.numberNext with
    | some n => n
    | none => u.beat + 1
  let left := if u.corrNext.isSome then 2 ^ tnsSlew s st else u.corrLeft - 1
  let corr := match u.corrNext with
    | some e => e / (2 ^ tnsSlew s st : Nat)
    | none => u.corr
  s.modTns st fun u =>
    { u with pos := BitVec.ofNat 64 (num % 2 ^ 48 * 65536), beatStart := u.beatStart + u.beatLen, corr := corr,
             corrLeft := left, corrNext := none, acceptedCur := u.acceptedNext, acceptedNext := false,
             numberNext := none, ticking := u.lock != .lost }

/-- A tick edge (R55): the position advances, and at tick 0 of a beat the boundary is made. A slot armed with a position
that has passed is missed (R64). No slot fires while the unit is LOST (R57). -/
def tickEdge (s : State) (st : Fin 8) : State × List Firing :=
  let u := (s.st st).tns
  if u.ticking = false then (s, [])
  else
    let s1 := if u.tick = 65535 then beatBoundary s st else s.modTns st fun u => { u with pos := u.pos + 1 }
    if u.lock = .lost then (s1, [])
    else
      evalSlots (missPassed s1 st (s1.st st).tns.pos.toNat) st

/-! ### Register commands (R54, R61, R67) -/

/-- TNS_CTRL.RUN from 0 to 1 (R54). -/
def tnsStart (s : State) (st : Fin 8) : State :=
  if tnsRunning s st then s
  else (s.setFlag (tnsPage st) 0x040 2 true).modTns st fun u => { u with lock := .acquiring, acq := [], freewheel := 0 }

/-- TNS_CTRL.RUN to 0 (R67): ticks stop. -/
def tnsHalt (s : State) (st : Fin 8) : State :=
  (s.setFlag (tnsPage st) 0x040 2 false).modTns st fun u =>
    { u with lock := .idle, ticking := false, acq := [], freewheel := 0 }

/-- A write of TNS_CTRL (R67): SRC only while RUN is 0, SLEW and WINDOW when legal, then RUN. -/
def tnsCtrlWrite (s : State) (st : Fin 8) (v : Word) : State :=
  let n := v.toNat
  let p := tnsPage st
  let s1 := if tnsRunning s st = false ∧ bitsOf n 1 0 ≠ 3 then s.setFld p 0x040 1 0 (bitsOf n 1 0) else s
  let s2 := if bitsOf n 6 4 ≤ 4 then s1.setFld p 0x040 6 4 (bitsOf n 6 4) else s1
  let s3 := if bitsOf n 31 16 ≠ 0 then s2.setFld p 0x040 31 16 (bitsOf n 31 16) else s2
  if bitAt n 2 then tnsStart s3 st else if tnsRunning s st then tnsHalt s3 st else s3

/-- A write of TNS_SLOT_CFG (R61, R68) on the selected slot: it takes the staged position and period; a reserved KIND or
TARGET armed leaves it disarmed and raises SLOT_CFG. A position already past is judged at the next tick edge. -/
def slotCfgWrite (s : State) (st : Fin 8) (v : Word) : State :=
  let n := v.toNat
  let i := s.fld (tnsPage st) 0x080 7 0
  let kind := bitsOf n 7 4
  let legal := match kindTarget kind with
    | some m => decide (bitsOf n 15 8 ≤ m)
    | none => false
  let armed := bitAt n 0 && legal
  let s1 := s.modTns st fun t => t.modSlot i fun x =>
    { x with pos := x.stagedPos, period := x.stagedPeriod, armed := armed, skip := bitAt n 1,
             kind := if (kindTarget kind).isSome then kind else x.kind,
             target := if legal then BitVec.ofNat 8 (bitsOf n 15 8) else x.target, bit := bitsOf n 20 16, waiting := false, late := false,
             deferCount := 0 }
  if bitAt n 0 && !legal then recordFault s1 (tnsPage st) 0x09 0x05 i 0 else s1

/-- Every slot disarmed (R329, event slots re-bound). -/
def disarmSlots (s : State) (st : Fin 8) : State :=
  s.modTns st fun t =>
    t.slots.foldl (fun u e => u.modSlot e.1 fun x => { x with armed := false, waiting := false, late := false }) t

/-- SLEEP_BEAT_COUNT (R60): one beat of the last measured period, counted on the crystal, with SRC 1. -/
def execSleepBeatCount (st : Fin 8) (s : State) : Host.Outcome State Fault Refusal :=
  if s.has st then
    .next (if s.mod.pwr.sleeping ∧ tnsSrc s st = 1 then
      s.modTns st fun u => { u with kept := some (u.kept.getD u.beat + 1) } else s)
  else .fault .absentStack

end Sys2Proof.Machine
end

