-- ==== Sys2Proof/Machine/Power.lean ====
section
/-! DEFINITION. Power, clocks, resets and start-up (R450 to R471, R478): domains, levels and capping, sleep, the resets, the
real-time clock and the stages of start-up. -/

namespace Sys2Proof.Machine

/-- The PWR page of a stack. -/
def pwrPage (st : Fin 8) : Page := stackPage st .pwr

/-! ### Domains (R452, R453) -/

/-- Domain `k` of a stack is changing state. -/
def inTransit (s : State) (st : Fin 8) (k : Nat) : Bool := s.flag (pwrPage st) 0x044 (8 + k)
def setTransit (s : State) (st : Fin 8) (k : Nat) (b : Bool) : State := s.setFlag (pwrPage st) 0x044 (8 + k) b

/-- QUIESCE set on a page (R30). -/
def quiescePage (s : State) (p : Page) : State := quiesceRise s (s.setFlag p 0x008 2 true) p

/-- A domain begins to power up, and to power down: every page of its blocks is quiesced. -/
def startUp (s : State) (st : Fin 8) (k : Nat) : State :=
  (setTransit s st k true).setFlag (pwrPage st) 0x044 (16 + k) false
def startDown (s : State) (st : Fin 8) (k : Nat) : State := (domainPages s st k).foldl quiescePage (setTransit s st k true)

/-- A core swap that has cut over holds the quadrants of its two cores (R426). -/
def swapHolds (s : State) (st : Fin 8) (k : Nat) : Bool :=
  (s.st st).arb.run.any fun a =>
    a.act == 4 && 1 ≤ a.phase && (physCore s st a.scope / 15 == k || bitsOf (spareReg s st a.spare) 5 0 / 15 == k)

/-- The domains of a stack follow PWR_DOM_REQ (R453): one that is changing state is left until the change completes, a quadrant
that a swap holds until it ends, and one that failed until it is requested again. -/
def applyDomains (s : State) (st : Fin 8) : State :=
  if s.mod.pwr.sleepTarget ≠ 0 then s
  else (List.range 7).foldl (fun s k =>
    let want := s.flag (pwrPage st) 0x040 k
    if inTransit s st k then s
    else if want ∧ s.domOn st k = false ∧ s.flag (pwrPage st) 0x044 (16 + k) = false then startUp s st k
    else if want = false ∧ s.domOn st k = true ∧ swapHolds s st k = false then startDown s st k
    else s) s

/-- CTL of a stack is required by its other domains that are ON, and that of stack 0 by the NOR and MRAM interfaces (R452). -/
def ctlRequired (s : State) (st : Fin 8) : Bool :=
  (List.range 7).any (fun k => s.domOn st k) || (st == 0 && (s.flag pwrmPage 0x088 8 || s.flag pwrmPage 0x088 9))

/-- A write of PWR_DOM_REQ: bit 7 reads 1, and a request to power CTL down while it is required shows REFUSED (assumption 24). -/
def domRequest (s : State) (st : Fin 8) (v : Word) : State :=
  let ask := (v &&& 0xFF) ||| 0x80
  let s1 := s.setReg (pwrPage st) 0x040 ask
  let s2 := if bitAt v.toNat 7 = false ∧ ctlRequired s st = true then s1.setFlag (pwrPage st) 0x044 24 true else s1
  applyDomains (s2.setFld (pwrPage st) 0x044 23 16 (bitsOf (s.reg (pwrPage st) 0x044 &&& ~~~(ask <<< 16)).toNat 23 16)) st

/-- Stage `j` of start-up is complete (R471). -/
def stageDone (s : State) (j : Nat) : Bool := s.flag pwrmPage 0x040 (3 + j)

/-- A Jukan link is up where both its ends have NET power and stage 5 of start-up is complete, and down where one end has lost
it (R22, R452). -/
def linksFollow (s : State) : State :=
  s.stacksIn.foldl (fun s i => (List.range 3).foldl (fun s p =>
    let peer : Fin 8 := Fin.ofNat 8 (jkPeer s.part i.val p)
    if s.has peer ∧ (s.domOn i 5 = false ∨ s.domOn peer 5 = false) then s.setFlag (jkPage i p) 0x040 0 false else s) s) s

/-- The Jukan ports of a stack train (R464 stage 5, R452): both ends of each link whose two NET domains are ON. -/
def trainPorts (s : State) (st : Fin 8) : State :=
  (List.range 3).foldl (fun s p =>
    let peer : Fin 8 := Fin.ofNat 8 (jkPeer s.part st.val p)
    if s.has peer ∧ s.domOn st 5 = true ∧ s.domOn peer 5 = true then
      (s.setFlag (jkPage st p) 0x040 0 true).setFlag (jkPage peer (jkBack s.part p)) 0x040 0 true
    else s) s

/-- The devices of a stack as trained, but for those of channels that failed. -/
def trainMemory (s : State) (st : Fin 8) (failed : List Nat) : State :=
  (List.range 4).foldl (fun s d =>
    s.setFlag (stackPage st .mem d) 0x06C 0 (!failed.any fun c => c / 4 == d)) s

/-- What a domain's power-up includes (R311, R452, R464): the NET section loaded and the links trained; the SRAM's spare map loaded,
and, once start-up has passed stage 4, devices that lost their training trained again. -/
def domainInit (s : State) (st : Fin 8) (k : Nat) : State :=
  match k with
  | 5 => let s1 := loadNet s st; if stageDone s 5 then trainPorts s1 st else s1
  | 6 =>
    let s1 := loadSpares s st (srmSpares st)
    if stageDone s 4 ∧ s.flag (stackPage st .mem 0) 0x06C 0 = false then trainMemory s1 st [] else s1
  | _ => s

/-- Domain `k` of a stack is ON: DOMAIN is raised, and a request that waited for the change is taken. -/
def upDone (s : State) (st : Fin 8) (k : Nat) : State :=
  if inTransit s st k ∧ s.domOn st k = false then
    let s1 := (setTransit s st k false).setFlag (pwrPage st) 0x044 k true
    applyDomains (raiseEvt (domainInit s1 st k) (pwrPage st) 5) st
  else s

/-- Domain `k` of a stack has powered down: every page of it is quiesced, and for CTL every other domain of the stack is off. -/
def downDone (s : State) (st : Fin 8) (k : Nat) : State :=
  let others := k != 7 || (List.range 7).all fun j => !s.domOn st j
  if inTransit s st k ∧ s.domOn st k = true ∧ others = true ∧ (domainPages s st k).all (quiesced s) = true then
    let s1 := domainLost s st k
    if k = 7 then (linksFollow s1).setReg (pwrPage st) 0x044 0
    else
      let s2 := (setTransit s1 st k false).setFlag (pwrPage st) 0x044 k false
      applyDomains (raiseEvt (linksFollow s2) (pwrPage st) 5) st
  else s

/-- The NOR flash interface, domain 64, and the MRAM interface, domain 65 (R452, R471). -/
def moduleDomain (s : State) (dom : Nat) (up : Bool) : State :=
  if dom = 64 then if s.flag pwrmPage 0x088 0 = up then s.setFlag pwrmPage 0x088 8 up else s
  else if dom = 65 then if s.domOn 0 7 = up then s.setFlag pwrmPage 0x088 9 up else s
  else s

/-- The stack and number of a domain. -/
def domStack (dom : Nat) : Fin 8 := Fin.ofNat 8 (dom / 8)

/-- DOMAIN_POWER_UP (R452). -/
def execDomainPowerUp (dom : Nat) (s : State) : Host.Outcome State Fault Refusal :=
  if 64 ≤ dom then .next (moduleDomain s dom true)
  else if s.has (domStack dom) then .next (upDone s (domStack dom) (dom % 8)) else .fault .absentStack

/-- DOMAIN_POWER_DOWN (R453). -/
def execDomainPowerDown (dom : Nat) (s : State) : Host.Outcome State Fault Refusal :=
  if 64 ≤ dom then .next (moduleDomain s dom false)
  else if s.has (domStack dom) then .next (downDone s (domStack dom) (dom % 8)) else .fault .absentStack

/-- DOMAIN_FAILED (R453). -/
def execDomainFailed (dom : Nat) (s : State) : Host.Outcome State Fault Refusal :=
  let record := fun (s : State) => recordFault s pwrmPage 0x0B 0x06 dom 0
  if 64 ≤ dom then .next (if dom < 66 ∧ s.flag pwrmPage 0x088 (dom - 56) = false then record s else s)
  else if s.has (domStack dom) then
    let st := domStack dom
    let k := dom % 8
    .next (if inTransit s st k ∧ s.domOn st k = false then
      record (raiseEvt ((setTransit s st k false).setFlag (pwrPage st) 0x044 (16 + k) true) (pwrPage st) 5)
    else s)
  else .fault .absentStack

/-- SWAP_COPY: an aborted swap releases the quadrants it held (R426). -/
def execSwapCopy (st : Fin 8) (act scope : Nat) (spareOk : Bool) (s : State) : Host.Outcome State Fault Refusal :=
  if s.has st then .next (applyDomains (swapCopied s st act scope spareOk) st) else .fault .absentStack

/-- SWAP_COMPLETE. -/
def execSwapComplete (st : Fin 8) (act scope : Nat) (s : State) : Host.Outcome State Fault Refusal :=
  if s.has st then .next (applyDomains (swapCompleted s st act scope) st) else .fault .absentStack

/-! ### Levels (R458 to R461) -/

/-- V(n) of a stack in millivolts, and its level, cap level and thermal level. -/
def levelVolts (s : State) (st : Fin 8) (n : Nat) : Nat := (s.st st).pwr.volts.getD (n - 8) 850
def levelOf (s : State) (st : Fin 8) : Nat := s.fld (pwrPage st) 0x048 4 0
def capLevel (s : State) (st : Fin 8) : Nat := s.fld (pwrPage st) 0x048 12 8
def thermLevel (s : State) (st : Fin 8) : Nat := s.fld (pwrPage st) 0x048 20 16

/-- A stack's clocks switch to a level. -/
def switchLevel (s : State) (st : Fin 8) (n : Nat) : State :=
  if n = levelOf s st then s
  else
    let s1 := if n < levelOf s st then s.countSat (pwrPage st) 0x05C else s
    raiseEvt (s1.setFld (pwrPage st) 0x048 4 0 n) (pwrPage st) 3

/-- AVS_ERROR (R461, R473, R484). -/
def avsError (s : State) (st : Fin 8) (status : Nat) : State :=
  recordFault (s.setFlag pwrmPage 0x084 st.val true) pwrmPage 0x0B 0x03 (st.val + 2 ^ 8 * (status % 256)) 0

/-- A stack is held at the highest level whose voltage does not exceed the one its regulator reports (R461). -/
def holdLevel (s : State) (st : Fin 8) : State :=
  let rep := s.fld (pwrPage st) 0x04C 25 16
  let n := ((List.range 9).reverse.find? fun k => levelVolts s st (8 + k) ≤ rep).getD 0 + 8
  (switchLevel s st n).modPwr st fun p => { p with avsHold := true, raising := none }

/-- V(n) is written over AVSBus; `fail` is the status of a write that two retries did not save. -/
def avsWrite (s : State) (st : Fin 8) (n : Nat) (fail : Option Nat) : State × Bool :=
  let v := levelVolts s st n
  let s1 := s.setFld (pwrPage st) 0x04C 9 0 v
  match fail with
  | none => (s1.setFld (pwrPage st) 0x04C 25 16 v, true)
  | some e => (holdLevel (avsError s1 st e) st, false)

/-- A stack moves toward its level, the lower of cap and thermal level (R458, R461): it lowers the clocks and then the voltage, or
writes the voltage and leaves the switch for 100 µs later. A change that arises during a raise waits. -/
def seekLevel (s : State) (st : Fin 8) (fail : Option Nat) : State :=
  let n := min (capLevel s st) (thermLevel s st)
  if (s.st st).pwr.avsHold ∨ (s.st st).pwr.raising.isSome ∨ n = levelOf s st then s
  else if n < levelOf s st then (avsWrite (switchLevel s st n) st n fail).1
  else match avsWrite s st n fail with
    | (s1, true) => s1.modPwr st fun p => { p with raising := some n }
    | (s1, false) => s1

/-- A stack's clocks run: its CTL domain is ON and nothing has stopped the part. -/
def stackRuns (s : State) (st : Fin 8) : Bool := s.clocked && !s.mod.pwr.resetHeld && s.domOn st 7

/-- LEVEL_RAISE_SWITCH (R461): the clocks switch, and a change that waited begins. -/
def execLevelRaiseSwitch (st : Fin 8) (avsFail : Option Nat) (s : State) : Host.Outcome State Fault Refusal :=
  if s.has st then
    .next (match (s.st st).pwr.raising with
      | some n => seekLevel ((switchLevel s st n).modPwr st fun p => { p with raising := none }) st avsFail
      | none => s)
  else .fault .absentStack

/-- The cap level and the count of windows below 98 % after a window (R459): powers in tenths of a watt, PWR_CAP in watts. -/
def capAfter (power cap below level : Nat) : Nat × Nat :=
  if 10 * cap < power then (max 8 (level - 1), 0)
  else if power * 100 < 10 * cap * 98 then if below + 1 = 4 then (min 16 (level + 1), 0) else (level, below + 1)
  else (level, 0)

/-- The powers a window gives the pages: a regulator that does not answer PMBus, status 0xFF, records AVS_ERROR and leaves the
module power as it was (R459, R484). -/
def windowPower (s : State) (tenthWatts : List Nat) (mute : List Nat) : State :=
  let s1 := s.stacksIn.foldl (fun s i =>
    if mute.contains i.val then avsError s i 0xFF
    else s.setReg (pwrPage i) 0x054 (BitVec.ofNat 32 (min 0xFFFF (tenthWatts.getD i.val 0)))) s
  if s.stacksIn.any fun i => mute.contains i.val then s1
  else s1.setReg pwrmPage 0x060
    (BitVec.ofNat 32 (min 0xFFFF (s.stacksIn.foldl (fun n i => n + tenthWatts.getD i.val 0) 0)))

/-- POWER_CAP_WINDOW (R459): the stacks' powers, and for each stack whose AVSBus write fails, or whose regulator does not answer,
the status. -/
def execPowerCapWindow (tenthWatts : List Nat) (avsFail : List (Nat × Nat)) (s : State) :
    Host.Outcome State Fault Refusal :=
  .next (
    if stackRuns s 0 = false then s
    else
      let mute := (avsFail.filter fun e => e.2 == 0xFF).map (·.1)
      let s1 := windowPower s tenthWatts mute
      let level := capLevel s 0
      let (n, k) := capAfter (s1.reg pwrmPage 0x060).toNat (s1.reg pwrmPage 0x05C).toNat s.mod.pwr.below level
      let s2 := s1.modPm fun p => { p with below := k }
      let s3 := if n < level then raiseEvt s2 pwrmPage 6 else s2
      s.stacksIn.foldl (fun s i =>
        let s' := s.setFld (pwrPage i) 0x048 12 8 n
        if stackRuns s i then seekLevel s' i ((avsFail.find? fun e => e.1 == i.val && e.2 != 0xFF).map (·.2)) else s') s3)

/-- A signed temperature as PWR_TEMP and the fault records show it. -/
def tempBits (quarterC : Int) : Nat := (BitVec.ofInt 10 quarterC).toNat

/-- A junction measured. -/
def measureTemp (s : State) (st : Fin 8) (quarterC : Int) : State :=
  (s.setReg (pwrPage st) 0x050 (BitVec.ofNat 32 (tempBits quarterC))).modPwr st fun p => { p with junction := quarterC }

/-- THERMAL_LEVEL_UPDATE (R460): the level falls at or above THROTTLE and rises below THROTTLE − HYST. -/
def execThermalLevelUpdate (st : Fin 8) (quarterC : Int) (avsFail : Option Nat) (s : State) :
    Host.Outcome State Fault Refusal :=
  if s.has st then
    let s1 := measureTemp s st quarterC
    let hot : Int := 4 * (s.fld pwrmPage 0x064 15 8 : Nat)
    let cool : Int := hot - 4 * (s.fld pwrmPage 0x064 23 16 : Nat)
    let n := thermLevel s st
    let m := if hot ≤ quarterC then max 8 (n - 1) else if quarterC < cool then min 16 (n + 1) else n
    .next (if stackRuns s st then seekLevel (s1.setFld (pwrPage st) 0x048 20 16 m) st avsFail else s1)
  else .fault .absentStack

/-- PWR_CAP (R459): held between 40 % of the envelope and the envelope. -/
def capWrite (s : State) (v : Nat) : State :=
  let e := envelope s.part
  s.setReg pwrmPage 0x05C (BitVec.ofNat 32 (max (e * 40 / 100) (min e (v % 65536))))

/-- PWR_THERM (R460): THROTTLE does not exceed 105 °C. -/
def thermWrite (s : State) (v : Nat) : State :=
  s.setReg pwrmPage 0x064 (BitVec.ofNat 32 (withBits (v % 2 ^ 24) 15 8 (min 105 (bitsOf v 15 8))))

/-! ### Resets (R463) -/

/-- The whole of PWR_CAUSE as a reset leaves it. -/
def setCause (s : State) (v : Nat) : State := s.setReg pwrmPage 0x044 (BitVec.ofNat 32 v)

/-- What every reset of stack 0's CTL domain does: every switched domain of every stack is lost, sleep ends, start-up begins. -/
def allLost (s : State) : State :=
  (s.stacksIn.foldl stackLost s).modPm fun p =>
    { p with clocksStopped := false, below := 0, sleepSaved := [], sleepTarget := 0, sleeping := false }

/-- A module reset (R463, R394): every mailbox as a power-on reset leaves it. -/
def moduleReset (s : State) (cause : Nat) : State :=
  let s1 := allLost s
  setCause (s1.stacksIn.foldl (fun s i => s.modSt i fun x => { x with mbx := [], replies := [], evtSent := 0 }) s1) cause

/-- A CTL reset of a stack (R463): of stack 0, everything; of another, its own domains, and the firmware and the pairing it must
take again (R417). -/
def ctlReset (s : State) (st : Fin 8) : State :=
  if st = 0 then setCause (allLost s) 2 else linksFollow (stackLost s st)

/-- Every junction is below 95 °C. -/
def allCool (s : State) : Bool := s.stacksIn.all fun i => decide ((s.st i).pwr.junction < 380)

/-- RESET_N (R463, R465): after a thermal trip it takes effect once every junction is below 95 °C. -/
def execResetN (s : State) : Host.Outcome State Fault Refusal :=
  let held := s.modPm fun p => { p with resetHeld := true }
  .next (
    if s.mod.pwr.thermtripN then
      if allCool s then
        moduleReset ((held.modPm fun p => { p with thermtripN := false }).setFlag pwrmPage 0x058 6 false) 0x401
      else held
    else moduleReset held 1)

/-- RESET_N_RELEASE (R464): start-up may begin. -/
def execResetNRelease (s : State) : Host.Outcome State Fault Refusal :=
  .next (s.modPm fun p => { p with resetHeld := false })

/-- POWER_ON_RESET (R463): everything but the NOR flash, the MRAM and the fuses. BOOT_COUNT, the owner record, the Locket ring, the
CAL block and the endorsement lie in MRAM; the devices' hard repairs stay. -/
def powerOn (s : State) : State :=
  let b := s.mod.bzl
  let l := s.mod.lkt
  let bzl : Bezel :=
    { b with meas := Vector.replicate 6 0, slots := Vector.replicate 16 {}, loadSeq := 0, loads := [], fwVersion := 0, fwSvn := 0,
             fwSlot := 0, heldFaults := [], recovery := false, pairingFailed := false, debugOwner := false, debugVendor := false }
  let lkt : Locket := { ring := l.ring, remap := l.remap, spareUsed := l.spareUsed, noSpare := l.noSpare, base := l.base }
  let stk := s.stk.map fun x =>
    ({ pwr := { keyEpoch := x.pwr.keyEpoch + 1, junction := x.pwr.junction }, repaired := x.repaired } : Stack)
  let boot := (bzlPage 0).key 0x058 / 8
  { State.reset with
    part := s.part, free := s.free, regs := Sparse.keep (fun k => k / 8 == boot) s.regs, stk := stk, out := s.out,
    pending := s.pending,
    mod := { lkt := lkt, bzl := bzl, bus := { straps := s.mod.bus.straps },
             cal := { active := s.mod.cal.active, other := s.mod.cal.other } } }

/-- POWER_ON_RESET. -/
def execPowerOnReset (s : State) : Host.Outcome State Fault Refusal := .next (powerOn s)

/-! ### Power failure and thermal trip (R443, R455, R465, R478) -/

/-- A record that the Locket writes at once, ahead of every request: the power-fail record's priority. -/
def recordFirst (s : State) (src : Source) (home : Fin 8) (code : Nat) (payload : List Byte) : State :=
  if locketReady s then
    let (r, s1) := makeRequest s src 0 home code payload
    storeRecord s1 r
  else s

/-- POWER_FAIL (R443, R455): the clocks stop and the PWRFAIL record is written, after which the Locket grants nothing. -/
def execPowerFail (undervoltage : Bool) (s : State) : Host.Outcome State Fault Refusal :=
  let cmp := s.setFlag pwrmPage 0x058 (bit undervoltage) true
  let c := (s.st 0).clp
  .next (if s.mod.pwr.clocksStopped then cmp
    else recordFirst (cmp.modPm fun p => { p with clocksStopped := true }) lktPage.source 0 0x8003
      (leBytes (bit undervoltage) 8 ++ leBytes c.step.toNat 8 ++ leBytes c.committed.toNat 8))

/-- POWER_FAIL_CLEARED (R455): a module reset by the part. -/
def execPowerFailCleared (s : State) : Host.Outcome State Fault Refusal :=
  let s1 := s.setFld pwrmPage 0x058 1 0 0
  .next (if s.mod.pwr.clocksStopped ∧ s.mod.pwr.thermtripN = false then moduleReset s1 0x101 else s1)

/-- THERM_ALERT (R465): an upward crossing of PWR_THERM.ALERT. -/
def execThermAlert (st : Fin 8) (quarterC : Int) (s : State) : Host.Outcome State Fault Refusal :=
  if s.has st then
    let alert : Int := 4 * (s.fld pwrmPage 0x064 7 0 : Nat)
    .next (if quarterC < alert then s
      else
        let s1 := (measureTemp s st quarterC).setFlag pwrmPage 0x058 5 true
        recordFault (raiseEvt s1 (pwrPage st) 4) (pwrPage st) 0x0B 0x01 (tempBits quarterC) 0)
  else .fault .absentStack

/-- THERM_ALERT_CLEAR (R465): ALERT_N deasserts. -/
def execThermAlertClear (s : State) : Host.Outcome State Fault Refusal := .next (s.setFlag pwrmPage 0x058 5 false)

/-- THERMTRIP (R465): THERMTRIP_N, the clocks stop, the record, and every domain powers down. -/
def thermTrip (s : State) (st : Fin 8) (quarterC : Int) : State :=
  let p := pwrPage st
  let s1 := ((measureTemp s st quarterC).setFlag pwrmPage 0x058 6 true).modPm fun x =>
    { x with thermtripN := true, clocksStopped := true }
  let s2 := pageFault s1 p 0x0B 0x02 (tempBits quarterC) 0
  let s3 := recordFirst s2 p.source p.home 0x0B02 (faultPayload s2 p (tempBits quarterC) 0)
  let s4 := s3.stacksIn.foldl (fun s i => (stackLost s i).setReg (pwrPage i) 0x044 0) s3
  s4.setFlag pwrmPage 0x044 10 true

/-- THERMTRIP. -/
def execThermtrip (st : Fin 8) (quarterC : Int) (s : State) : Host.Outcome State Fault Refusal :=
  if s.has st then .next (if quarterC < 460 ∨ s.mod.pwr.thermtripN = true then s else thermTrip s st quarterC)
  else .fault .absentStack

/-! ### References (R457) -/

/-- REFCLK_LOSS: REFCLK_100, or ETH_REFCLK, with which every link goes down. -/
def execRefclkLoss (eth : Bool) (s : State) : Host.Outcome State Fault Refusal :=
  .next (if eth then
    let s1 := s.modPm fun p => { p with ethRefclkLost := true }
    recordFault (s1.stacksIn.foldl (fun s i => portDrop (portDrop s i 0) i 1) s1) pwrmPage 0x0B 0x05 2 0
  else s.modPm fun p => { p with refclkLost := true, refclkReport := true })

/-- REFCLK_RETURN: a module reset by the part. -/
def execRefclkReturn (s : State) : Host.Outcome State Fault Refusal :=
  .next (if s.mod.pwr.refclkLost then
    let s1 := s.modPm fun p => { p with refclkLost := false }
    if s.mod.pwr.thermtripN then s1 else moduleReset s1 0x301
  else s)

/-- ETH_REFCLK_RETURN: the links may train again. -/
def execEthRefclkReturn (s : State) : Host.Outcome State Fault Refusal :=
  .next (s.modPm fun p => { p with ethRefclkLost := false })

/-- PLL_LOCK: recorded, and the stack's CTL domain is reset. -/
def execPllLock (st : Fin 8) (computeDie : Bool) (s : State) : Host.Outcome State Fault Refusal :=
  if s.has st then
    .next (if s.domOn st 7 = false ∨ s.mod.pwr.refclkLost = true then s
      else ctlReset (recordFault s (pwrPage st) 0x0B 0x04 (if computeDie then 1 else 2) 0) st)
  else .fault .absentStack

/-! ### Sleep (R462, R60) -/

/-- The domains of a stack that a level turns off. -/
def sleepDomains : Nat → List Nat
  | 1 => [0, 1, 2, 3, 4]
  | 2 => [0, 1, 2, 3, 4, 5, 6]
  | _ => [0, 1, 2, 3, 4, 5, 6, 7]

/-- Wake sources that are pending. -/
def wakePending (s : State) : Bool := s.reg pwrmPage 0x054 &&& s.reg pwrmPage 0x050 != 0

/-- Why sleep is refused, or 0. -/
def sleepReason (s : State) : Nat :=
  let any := fun (f : Stack → Bool) => s.stacksIn.any fun i => f (s.st i)
  firstStatus [(any (fun x => x.clp.state != .idle && x.clp.state != .torn), 1), (any (·.clp.ckptHold), 2),
    (any (fun x => x.seqs.toList.any fun q => q.st == .running), 3),
    (any (fun x => x.arb.run.any fun a => a.act != 1 && a.act != 2), 4), (wakePending s, 5)]

/-- A write of PWR_SLEEP with GO: entry begins, and the domains of the level are quiesced. LEVEL 0 is reserved; a write during an
entry changes nothing. -/
def sleepGo (s : State) (v : Word) : State :=
  let level := bitsOf v.toNat 1 0
  if bitAt v.toNat 4 = false ∨ level = 0 ∨ s.mod.pwr.sleepTarget ≠ 0 then s
  else if sleepReason s ≠ 0 then raiseEvt (s.setReg pwrmPage 0x04C (BitVec.ofNat 32 (2 ^ 8 * sleepReason s))) pwrmPage 5
  else
    let s1 := s.modPm fun p =>
      { p with sleepTarget := level,
               sleepSaved := (List.finRange 8).map fun i => BitVec.ofNat 8 (s.reg (pwrPage i) 0x044).toNat }
    let s2 := if 2 ≤ level then s1.setFlag pwrmPage 0x088 0 false else s1
    s2.stacksIn.foldl (fun s i => (sleepDomains level).foldl (fun s k =>
      if s.domOn i k ∧ inTransit s i k = false then startDown s i k else s) s) s2

/-- SLEEP_ENTERED: every domain of the level is off; the Tense units generate no ticks (R60). -/
def execSleepEntered (s : State) : Host.Outcome State Fault Refusal :=
  let t := s.mod.pwr.sleepTarget
  let off := s.stacksIn.all fun i => (sleepDomains t).all fun k => !s.domOn i k
  .next (if t ≠ 0 ∧ s.mod.pwr.sleeping = false ∧ off = true then
    s.stacksIn.foldl (fun s i => s.modTns i fun u =>
      { u with ticking := false, kept := if u.lock = .idle then u.kept else some u.beat }) (s.modPm fun p => { p with sleeping := true })
  else s)

/-- The Tense units that run acquire again (R60). -/
def tenseWakes (s : State) : State :=
  s.stacksIn.foldl (fun s i => s.modTns i fun u =>
    if tnsRunning s i then { u with lock := .acquiring, ticking := false, acq := [], freewheel := 0 } else u) s

/-- A stack's domains that were on before the sleep come back: those still on stop their quiesce, the others power up. -/
def domainsReturn (saved : List (BitVec 8)) (s : State) (st : Fin 8) : State :=
  (List.range 7).foldl (fun s k =>
    if (saved.getD st.val 0).getLsbD k = false then s
    else if s.domOn st k then (domainPages s st k).foldl (fun s p => s.setFlag p 0x008 2 false) (setTransit s st k false)
    else startUp s st k) s

/-- WAKE (R462, R478): an enabled source ends a sleep, or an entry to one; while the part is awake it has no effect. A wake from
level 3 is a reset of stack 0's CTL domain. -/
def execWake (src : Fin 7) (s : State) : Host.Outcome State Fault Refusal :=
  let p := s.mod.pwr
  .next (
    if p.sleepTarget = 0 ∨ s.flag pwrmPage 0x050 src.val = false ∨ p.resetHeld = true ∨ p.thermtripN = true then s
    else
      let deep := p.sleepTarget == 3 && (p.sleeping || !s.domOn 0 7)
      let s1 := if p.sleeping then tenseWakes s else s
      let s2 := s1.modPm fun p => { p with sleepTarget := 0, sleeping := false, sleepSaved := [] }
      let s3 := if deep then setCause (allLost s2) 2 else s2.stacksIn.foldl (domainsReturn p.sleepSaved) s2
      raiseEvt (s3.setFlag pwrmPage 0x054 src.val true) pwrmPage 4)

/-! ### The real-time clock (R456) -/

/-- The slew that a PPS edge at clock value `t` asks for: to the nearest whole second, by at most 100 ppm of a second. -/
def ppsSlew (t : Nat) : Int :=
  let sub : Int := (t % 1000000000 : Nat)
  let e := if sub < 500000000 then -sub else 1000000000 - sub
  max (-100000) (min 100000 e)

/-- PPS_IN: with SRC 2. A staged setting is applied at the edge. -/
def execPpsIn (s : State) : Host.Outcome State Fault Refusal :=
  .next (if s.fld pwrmPage 0x078 1 0 ≠ 2 then s
    else
      let s1 := if s.mod.pwr.rtcWaits then
          s.modPm fun p => { p with rtc := BitVec.ofNat 64 (s.pair pwrmPage 0x070), rtcWaits := false }
        else s
      let (t, s2) := s1.now
      rtcCorrect s2 (BitVec.ofInt 64 (ppsSlew t.toNat)))

/-- A write of PWR_RTC_SET_LO: the value applies at the next PPS edge with SRC 2, else at once. -/
def rtcSet (s : State) (lo : Word) : State :=
  let k := pwrmPage.key 0x074
  let hi := (Sparse.find s.staged k).getD (s.reg pwrmPage 0x074)
  let s1 := (({ s with staged := Sparse.del s.staged k } : State).setReg pwrmPage 0x070 lo).setReg pwrmPage 0x074 hi
  s1.modPm fun p => if s.fld pwrmPage 0x078 1 0 = 2 then { p with rtcWaits := true } else { p with rtc := hi ++ lo }

/-- RTC_DISCIPLINE_TIMEOUT. -/
def execRtcDisciplineTimeout (s : State) : Host.Outcome State Fault Refusal := .next (s.setFlag pwrmPage 0x078 2 false)

/-! ### Start-up (R400, R464) -/

/-- The soft repairs of the previous run become hard in the training stage (R297): a PPR record of each. -/
def hardRepairs (s : State) : State :=
  ((softRepairs s.mod.lkt.ring).filter fun v => leNat (slice (slotBytes v) 56 4) + 1 == bootCount s % 2 ^ 32).foldl
    (fun s v =>
      let r := copyRequest v
      let p : Page := ⟨r.src.stk, .mem, r.src.inst⟩
      addRequest s r.src p.order p.home 0x8007 (r.payload.take 9 ++ [1])) s

/-- Stage 1 (R400 steps 1 to 4): BOOT_COUNT, MEAS0, pairing. -/
def stage1 (s : State) (unpaired : List Nat) : State :=
  let s1 := (s.countPair (bzlPage 0) 0x058).modBzl fun b => { b with meas := Vector.replicate 6 0 }
  let s2 := measExtend s1 0 (fuseData s1)
  let s3 := if s.mod.pwr.refclkReport then recordFault (s2.modPm fun p => { p with refclkReport := false }) pwrmPage 0x0B 0x05 1 0
    else s2
  let bad := s.stacksIn.filter fun i => i != 0 && unpaired.contains i.val
  let s4 := s3.stacksIn.foldl (fun s i => s.modPwr i fun p => { p with paired := !bad.contains i }) s3
  if bad = [] then stageComplete s4 1
  else
    let s5 := bad.foldl (fun s i => bzlFault s 0x02 i.val) s4
    enterRecovery ((calStartup s5).modBzl fun b => { b with pairingFailed := true })

/-- Stage 2 (R400 steps 5 and 6, R468). -/
def stage2 (s : State) : State :=
  match verifyImage s (norReader s) with
  | some n => enterRecovery (calStartup (bzlFault s 0x01 n))
  | none => stageComplete (firmwareStarts (calStartup s)) 2

/-- What a stack has once its clocks and domains are up: every domain ON, and the CAL block's values for it. -/
def stackPowered (s : State) (st : Fin 8) : State :=
  loadSpares (loadNet (loadVolts ((domainsOn s st 0x7F).setReg (pwrPage st) 0x040 0xFF) st) st) st (arbSpares st ++ srmSpares st)

/-- Stage 4: training; a channel that failed twice records TRAIN. -/
def stage4 (s : State) (untrained : List (Nat × Nat)) : State :=
  let bad := untrained.filter fun e => s.has e.1 && e.2 < 16
  let s1 := s.stacksIn.foldl (fun s i => trainMemory s i ((bad.filter fun e => e.1 == i.val).map (·.2))) s
  let s2 := bad.foldl (fun s e => recordFault s (pwrPage (Fin.ofNat 8 e.1)) 0x0B 0x08 e.2 0) (hardRepairs s1)
  stageComplete (if bad = [] then s2 else s2.setFlag pwrmPage 0x040 12 true) 4

/-- Stage 7 (R399): fuses burn, or FUSE is recorded with what they were to hold, and READY is raised. -/
def stage7 (s : State) (fuseOk : Bool) : State :=
  let b := s.mod.bzl
  let c := (burnFuses s).mod.bzl
  let info := bit (b.rollback != c.rollback) + 2 * bit (b.revoked != c.revoked)
  let s1 := if fuseOk ∨ info = 0 then burnFuses s else bzlFault s 0x03 info
  raiseEvt (stageComplete s1 7) pwrmPage 3

/-- STARTUP_STAGE_DONE: the lowest stage not complete ends. Nothing goes on while RESET_N is low, the part is in recovery, a wipe
is pending, or it has no power to. -/
def execStartupStageDone (rep : StageReport) (s : State) : Host.Outcome State Fault Refusal :=
  .next (
    if s.mod.pwr.resetHeld ∨ s.mod.bzl.recovery ∨ s.mod.bzl.wipePending ∨ s.clocked = false ∨ s.domOn 0 7 = false ∨
        s.mod.pwr.refclkLost then s
    else if stageDone s 1 = false then stage1 s rep.unpaired
    else if stageDone s 2 = false then stage2 s
    else if stageDone s 3 = false then stageComplete (s.stacksIn.foldl stackPowered s) 3
    else if stageDone s 4 = false then stage4 s rep.untrained
    else if stageDone s 5 = false then stageComplete (s.stacksIn.foldl trainPorts s) 5
    else if stageDone s 6 = false then stageComplete s 6
    else if stageDone s 7 = false then stage7 s rep.fuseOk
    else s)

/-- A secondary has paired again after a reset of its CTL domain (R417, R463): its firmware is reloaded, and its domains power up and
take their values. -/
def stackReturns (s : State) (st : Fin 8) : State :=
  let s1 := s.modPwr st fun p => { p with paired := true, firmware := true }
  applyDomains ((loadSpares (loadVolts s1 st) st (arbSpares st)).setReg (pwrPage st) 0x040 0xFF) st

/-- PAIRING_CHECK (R422, R417): a secondary answers the primary's challenge; a wrong or missing answer records PAIRING and holds
the stack in reset. -/
def execPairingCheck (st : Fin 8) (answerOk : Bool) (s : State) : Host.Outcome State Fault Refusal :=
  if s.has st then
    .next (
      if st = 0 ∨ (s.st 0).pwr.firmware = false ∨ (s.st st).pwr.held = true then s
      else if answerOk = false then holdStack (bzlFault s 0x02 st.val) st
      else if (s.st st).pwr.paired then s
      else stackReturns s st)
  else .fault .absentStack

end Sys2Proof.Machine
end

