-- ==== Sys2Proof/Machine/Binding.lean ====
section
/-! DEFINITION. The re-binding procedure (R329 to R333, R302, R379): resources, the checks of a command, and the states each
resource passes through. -/

namespace Sys2Proof.Machine

/-! ### Resources (R329) -/

/-- What a resource code names. -/
inductive Res where
  | core (c : Nat)
  | group (g : Nat)
  | bead
  | fil
  | seq (n : Fin 4)
  | clp
  | slots
  | xfr
  | jk (p : Nat)
  | net (p : Nat)
  | range (r : Nat)
  | region (n : Nat)
  deriving DecidableEq, Repr

/-- The resource of a code, none where it names none. -/
def resOf (code : Nat) : Option Res :=
  if code < 0x38 then some (.core code)
  else if 0x100 ≤ code ∧ code < 0x104 then some (.group (code - 0x100))
  else if code = 0x110 then some .bead
  else if code = 0x120 then some .fil
  else if 0x130 ≤ code ∧ code < 0x134 then some (.seq (Fin.ofNat 4 (code - 0x130)))
  else if code = 0x140 then some .clp
  else if code = 0x150 then some .slots
  else if code = 0x160 then some .xfr
  else if 0x170 ≤ code ∧ code < 0x173 then some (.jk (code - 0x170))
  else if 0x180 ≤ code ∧ code < 0x182 then some (.net (code - 0x180))
  else if 0x190 ≤ code ∧ code < 0x1D0 then some (.range (code - 0x190))
  else if 0x200 ≤ code ∧ code < 0x240 then some (.region (code - 0x200))
  else none

/-- The pages whose BIND a resource changes whole. -/
def Res.pages (st : Fin 8) : Res → List Page
  | .core c => [stackPage st .mx c, stackPage st .vc c, stackPage st .rng c]
  | .bead => [stackPage st .bead]
  | .fil => [stackPage st .fil]
  | .seq n => [seqPage st n]
  | .clp => [clpPage st]
  | .slots => [tnsPage st]
  | .xfr => [xfrPage st]
  | .jk p => [jkPage st p]
  | .net p => [netPage st p]
  | _ => []

/-- The BIND registers a resource has apart from its pages': SMP_GBIND of a group, and a session range's. -/
def Res.bindReg (st : Fin 8) : Res → Option (Page × Nat)
  | .group g => some (stackPage st .smp, 0x050 + 4 * g)
  | .range r => some (kxtPage st, 0x900 + 4 * r)
  | _ => none

/-- The page on which BIND_DONE of a resource is raised. -/
def Res.eventPages (st : Fin 8) (r : Res) : List Page :=
  match r with
  | .group _ => [stackPage st .smp]
  | .range _ => [kxtPage st]
  | .region _ => [xfrPage st]
  | r => r.pages st

/-- A resource's LOCKED bit. -/
def Res.locked (s : State) (st : Fin 8) (r : Res) : Bool :=
  match r with
  | .region n => (s.region st n).locked
  | r => ((r.pages st).any fun p => s.flag p 0x030 31) || ((r.bindReg st).map fun e => s.flag e.1 e.2 31).getD false

/-! ### The checks of a command (R330) -/

/-- A region entry of a resource, if it is one. -/
def Res.entry (s : State) (st : Fin 8) : Res → Option Region
  | .region n => some (s.region st n)
  | _ => none

/-- The management core of the stack, or of another stack over Jukan. -/
def fromMgmt : Requester → Bool
  | .mgmt | .jukan (.mgmt _) => true
  | _ => false

/-- The host, here or over Jukan. -/
def fromHost : Requester → Bool
  | .host | .jukan .host => true
  | _ => false

/-- Why a command is refused, taken in the order of R330's table over all its resources, or 0. -/
def rebindReason (s : State) (r : Requester) (st : Fin 8) (codes : List Nat) (plan : Nat) (unlock : Bool) : Nat :=
  let rs := codes.filterMap resOf
  let calm := (s.st st).clp.state == .idle || (s.st st).clp.state == .torn
  let moving := fun (c : Nat) => (s.st st).arb.bind.any fun b => b.left.any fun x => x.res == c
  firstStatus [
    (rs.length != codes.length, 1),
    (codes.any moving, 2),
    (rs.any (Res.locked s st) && (!unlock || fromMgmt r), 3),
    (!calm && rs.any (fun x => x == .clp || ((x.entry s st).map (·.cp)).getD false), 4),
    ((s.st st).clp.ckptHold && rs.any (fun x => ((x.entry s st).map (·.ckpt)).getD false), 5),
    ((plan == 0xFFFF && fromHost r) || rs.any (fun x => match x with
      | .seq n => (s.seq st n).st == .loading || (s.seq st n).st == .ctx
      | _ => false), 6)]

/-- The BIND record of a command (R438). -/
def bindRecord (s : State) (st : Fin 8) (first count outcome reason : Nat) (plan : BitVec 16) (ticket : Nat) : State :=
  locketRequest s (arbPage st).source (arbPage st).order st 0x8004
    (leBytes first 2 ++ leBytes count 1 ++ leBytes outcome 1 ++ leBytes reason 1 ++ [0, 0, 0] ++ leBytes plan.toNat 2 ++
      List.replicate 6 0 ++ leBytes ticket 8)

/-! ### Quiescing (R331 step 1, R379) -/

/-- BIND_STAT of a resource shows a state and the pending plan. -/
def bindStat (s : State) (st : Fin 8) (r : Res) (state : Nat) (pending : BitVec 16) : State :=
  let v := BitVec.ofNat 32 (state + 2 ^ 16 * pending.toNat)
  match r with
  | .region n => s.modRegion st n fun x => { x with bst := state, pendingPlan := pending }
  | .range k => s.setReg (kxtPage st) (0xA00 + 4 * k) v
  | r => (r.pages st).foldl (fun s p => s.setReg p 0x034 v) s

/-- Passes accepted in advance of one that has issued have not started (R105, R331). -/
def discardAhead (s : State) (st : Fin 8) (c : Nat) : State :=
  s.modQueue st c fun x =>
    if x.entries.any fun e => e.st == .running && descOp e.desc == 1 then
      ({ x with entries := x.entries.map fun e =>
          if e.st = .accepted ∧ descOp e.desc = 1 then { e with st := .done false } else e } : Queue).advance
    else x

/-- A resource accepts no new work: what its queues hold unstarted is discarded, a sequencer stops, sessions close. -/
def startQuiesce (s : State) (st : Fin 8) (plan : BitVec 16) (r : Res) : State :=
  let s1 := bindStat s st r 2 plan
  let s2 := (r.pages st).foldl (fun s p =>
    quiescePage ((queuesOf p).foldl (fun s q => discardWaiting s st q) s) p) s1
  match r with
  | .core c => discardAhead s2 st c
  | .group g => discardWaiting s2 st (0x80 + g)
  | .seq n => if (s2.seq st n).st = .running then seqRest (s2.modSeq st n fun q => { q with abandoned := q.wait != .none }) st n .stopped 4 else s2
  | .range k => (List.range 512).foldl (fun s i => requestClose s st (512 * k + i)) s2
  | _ => s2

/-- REBIND (R330): the command is checked whole, and then each resource quiesces; or it is refused. -/
def rebindGo (s : State) (r : Requester) (st : Fin 8) (v : Word) : State :=
  if bitAt v.toNat 0 = false then s
  else
    let a := arbPage st
    let first := s.fld a 0x080 15 0
    let count := s.fld a 0x080 21 16 + 1
    let plan : BitVec 16 := BitVec.ofNat 16 (s.reg a 0x084).toNat
    let codes := (List.range count).map (first + ·)
    let why := rebindReason s r st codes plan.toNat (bitAt v.toNat 3)
    let ticket := (s.st st).arb.bindTicket + 1
    let s1 := s.modArb st fun b => { b with bindTicket := ticket }
    if why ≠ 0 then
      raiseEvt (bindRecord (s1.setReg a 0x08C (BitVec.ofNat 32 (3 + 2 ^ 8 * why))) st first count 2 why plan ticket) a 4
    else
      let cmd : RebindCmd :=
        { first := first, count := count, plan := plan, scrub := bitAt v.toNat 1, lock := bitAt v.toNat 2, ticket := ticket,
          left := codes.map fun c => { res := c } }
      let s2 := (s1.setReg a 0x08C (BitVec.ofNat 32 (1 + 2 ^ 16 * count))).modArb st fun b => { b with bind := b.bind ++ [cmd] }
      (codes.filterMap resOf).foldl (fun s x => startQuiesce s st plan x) s2

/-! ### Scrubbing (R331 step 2, R302, R379) -/

/-- The command that moves a resource, and the state it is in. -/
def moving (s : State) (st : Fin 8) (code : Nat) : Option (RebindCmd × Rebind) :=
  (s.st st).arb.bind.findSome? fun c => (c.left.find? fun x => x.res == code).map fun x => (c, x)

/-- The state of a resource being re-bound changed. -/
def modMoving (s : State) (st : Fin 8) (code phase : Nat) : State :=
  s.modArb st fun b => { b with bind := b.bind.map fun c =>
    { c with left := c.left.map fun x => if x.res = code then { x with phase := phase } else x } }

/-- A resource has no work in flight: its pages are quiesced, a group's queue has run out, a range's sessions are closed, and no
swap of it runs (R333). -/
def resQuiet (s : State) (st : Fin 8) (r : Res) : Bool :=
  let swap := fun (act lo n : Nat) => (s.st st).arb.run.any fun a => a.act == act && lo ≤ a.scope && a.scope < lo + n
  match r with
  | .core c => (r.pages st).all (quiesced s) && !swap 4 c 1
  | .group g => !(s.queue st (0x80 + g)).entries.any Entry.inFlight && !swap 5 (4 * g) 4
  | .bead => (r.pages st).all (quiesced s) && !swap 5 0x100 8
  | .seq n => (r.pages st).all (quiesced s) && !swap 6 n.val 1
  | .range k => (List.range 512).all fun i => (s.sess st (512 * k + i)).st == .closed
  | .region _ => true
  | r => (r.pages st).all (quiesced s)

/-- A region that is scrubbed: SRAM always, LPDDR5X where its attribute or the command asks (R302). -/
def regionScrubbed (s : State) (st : Fin 8) (n : Nat) (asked : Bool) : Bool :=
  sramRegion s st n || (s.region st n).scrub || asked

/-- A resource enters its scrub; an LPDDR5X region that is not scrubbed passes straight to the handover. -/
def enterScrub (s : State) (st : Fin 8) (code : Nat) (c : RebindCmd) (r : Res) : State :=
  match r with
  | .region n =>
    if regionScrubbed s st n c.scrub then (submit (modMoving (bindStat s st r 3 c.plan) st code 3) st 7 14 n).1
    else modMoving (bindStat s st r 4 c.plan) st code 4
  | r => modMoving (bindStat s st r 3 c.plan) st code 3

/-- REBIND_SCRUB. -/
def execRebindScrub (st : Fin 8) (res : Nat) (s : State) : Host.Outcome State Fault Refusal :=
  if s.has st then
    .next (match moving s st res, resOf res with
      | some (c, x), some r => if x.phase = 2 ∧ resQuiet s st r = true then enterScrub s st res c r else s
      | _, _ => s)
  else .fault .absentStack

/-- What a scrub clears (R329, R379). Nothing of the old plan is left to read in a core, so its pages' registers go as in a soft
reset (assumption 20). -/
def scrub (s : State) (st : Fin 8) (r : Res) : State :=
  match r with
  | .core c =>
    (r.pages st).foldl (fun s p => (clearPage s p (softKept p.blk)).setReg p 0x010 0) (zeroPanel (s.modCore st c fun _ => {}) st c)
  | .group g =>
    let s1 := discardQueue s st (0x80 + g)
    if h : g < 4 then s1.modSt st fun x => { x with groups := x.groups.set g {}, batches := x.batches.set g none } else s1
  | .bead => hotEmpty ((discardQueue s st 0x90).setFlag (stackPage st .bead) 0x080 0 false) st
  | .fil => (discardQueue s st 0xA0).modFil st fun f => { f with touched := [], inbox := [] }
  | .seq n => s.modSeq st n Seq.cleared
  | .slots => disarmSlots s st
  | .xfr => (discardPage s (xfrPage st)).modSt st fun x => { x with xfrStop := 0 }
  | .jk p => discardPage s (jkPage st p)
  | .range k => (List.range 512).foldl (fun s i =>
      if (s.sess st (512 * k + i)).st = .closed then s else sessClosed s st (512 * k + i)) s
  | .region n =>
    let e := s.region st n
    dropActivity (if e.valid then zeroRange s (st.val * 2 ^ 48 + e.base.toNat) e.size.toNat else s) st 14 n
  | _ => s

/-- REBIND_HANDOVER (R331 step 3): the scrub has ended, and any soft reset of R332 with it. -/
def execRebindHandover (st : Fin 8) (res : Nat) (s : State) : Host.Outcome State Fault Refusal :=
  if s.has st then
    .next (match moving s st res, resOf res with
      | some (c, x), some r =>
        if x.phase = 3 ∧ ((r.pages st).all fun p => !s.flag p 0x008 1) = true then
          modMoving (bindStat (scrub s st r) st r 4 c.plan) st res 4
        else s
      | _, _ => s)
  else .fault .absentStack

/-! ### Handing over (R331 step 3, R332) -/

/-- A resource takes its new plan: BIND, LOCKED, BIND_STAT, the end of QUIESCE, and BIND_DONE. -/
def handOver (s : State) (st : Fin 8) (c : RebindCmd) (r : Res) : State :=
  let v := BitVec.ofNat 32 (c.plan.toNat + bit c.lock * 2 ^ 31)
  let now := if c.plan = 0 then 0 else 1
  let s1 := (r.pages st).foldl (fun s p => (s.setReg p 0x030 v).setFlag p 0x008 2 false) (bindStat s st r now 0)
  let s2 := match r.bindReg st with | some e => s1.setReg e.1 e.2 v | none => s1
  let s3 := match r with
    | .region n => s2.modRegion st n fun x => { x with plan := c.plan, locked := c.lock }
    | _ => s2
  (r.eventPages st).foldl (fun s p => raiseEvt s p 2) s3

/-- A command's resource has been handed over: LEFT falls, and after the last STATE is DONE or FORCED, and the record is asked
for. ARB_BIND_STAT shows the command taken last. -/
def commandDone (s : State) (st : Fin 8) (c : RebindCmd) (code : Nat) : State :=
  let a := arbPage st
  let left := c.left.filter fun x => x.res != code
  let shown := c.ticket == (s.st st).arb.bindTicket
  let s1 := if shown then s.setFld a 0x08C 22 16 left.length else s
  if left ≠ [] then
    s1.modArb st fun b => { b with bind := b.bind.map fun y => if y.ticket = c.ticket then { y with left := left } else y }
  else
    let s2 := s1.modArb st fun b => { b with bind := b.bind.filter fun y => y.ticket != c.ticket }
    let s3 := if shown then s2.setFld a 0x08C 2 0 (if c.forced then 4 else 2) else s2
    let s4 := if c.forced then s3 else raiseEvt s3 a 5
    bindRecord s4 st c.first c.count (bit c.forced) 0 c.plan c.ticket

/-- REBIND_DONE. -/
def execRebindDone (st : Fin 8) (res : Nat) (s : State) : Host.Outcome State Fault Refusal :=
  if s.has st then
    .next (match moving s st res, resOf res with
      | some (c, x), some r => if x.phase = 4 then commandDone (handOver s st c r) st c res else s
      | _, _ => s)
  else .fault .absentStack

/-- REBIND_FORCED (R332): ARB_BIND_QLIMIT has passed. The resource is soft-reset, and goes on to its scrub; the first of a command
records BIND_FORCED. -/
def execRebindForced (st : Fin 8) (res : Nat) (s : State) : Host.Outcome State Fault Refusal :=
  if s.has st then
    .next (match moving s st res, resOf res with
      | some (c, x), some r =>
        if x.phase ≠ 2 then s
        else
          let s1 := s.modArb st fun b => { b with bind := b.bind.map fun y =>
            if y.ticket = c.ticket then { y with forced := true } else y }
          let s2 := if c.forced then s1 else raiseEvt (recordFault s1 (arbPage st) 0x0A 0x30 (res * 2 ^ 16) 0) (arbPage st) 6
          let s3 := match r with
            | .group g => discardQueue s2 st (0x80 + g)
            | r => (r.pages st).foldl (fun s p => if working s p then softReset s p else s) s2
          enterScrub s3 st res c r
      | _, _ => s)
  else .fault .absentStack

end Sys2Proof.Machine
end

