-- ==== Sys2Proof/Machine/RegRead.lean ====
section
/-! DEFINITION. What a read of a register returns (R7 to R11, R30 and the register rules of each chapter): stored fields, and
those computed from the state of the block. -/

namespace Sys2Proof.Machine

/-! ### Parts of views -/

/-- Bits of a list of numbers. -/
def maskOf (l : List Nat) : Nat := l.foldl (fun n i => n ||| 2 ^ i) 0

/-- A 64-bit value's half: the low one at the pair's offset, the high one four above it. -/
def half (v : Nat) (hi : Bool) : Nat := if hi then v / 2 ^ 32 % 2 ^ 32 else v % 2 ^ 32

/-- Descriptors of a queue that its engine has not started (QUEUED). -/
def queued (s : State) (st : Fin 8) (q : Nat) : Nat := ((s.queue st q).entries.filter fun e => e.st == .queued).length

/-- A descriptor of one of the given OPs stands in its engine. -/
def opInFlight (s : State) (st : Fin 8) (q : Nat) (ops : List Nat) : Bool :=
  (s.queue st q).entries.any fun e => e.inFlight && ops.contains (descOp e.desc)

/-- The accept and retire sequences of a page's queues, summed (R31, R309). -/
def acceptCount (s : State) (p : Page) : Nat :=
  ((queuesOf p).foldl (fun n q => n + (s.queue p.home q).accept.toNat) 0) % 2 ^ 32
def retireCount (s : State) (p : Page) : Nat :=
  ((queuesOf p).foldl (fun n q => n + (s.queue p.home q).retire.toNat) 0) % 2 ^ 32

/-- A spare serves a logical unit of the block (BLK_STAT.SPARE_ACTIVE). -/
def spareActive (s : State) (p : Page) : Bool :=
  let st := p.home
  let lane := fun i => s.flag (arbPage st) 0x0B0 i
  match p.blk with
  | .mx | .vc | .rng => (List.range 4).any fun i =>
      bitAt (spareReg s st i) 14 && bitsOf (spareReg s st i) 13 8 == p.inst
  | .smp => lane 4 || lane 12
  | .bead => lane 19
  | .seq => lane 26 && s.fld (arbPage st) 0x0B0 25 24 == p.inst
  | .kxt => s.fld (arbPage st) 0x0C0 10 0 != 0
  | .jk => s.fld p 0x040 4 1 != 0
  | .srm => (List.range 4).any fun g => s.flag p 0x044 (8 * g + 7)
  | _ => false

/-- BLK_STAT (R30). -/
def blkStat (s : State) (p : Page) : Nat :=
  bit (busy s p) + 2 * bit (quiesced s p) + 4 * bit (s.faulted p) + 8 * bit (spareActive s p)

/-! ### Views by block -/

/-- The common header (R30). -/
def viewHeader (s : State) (p : Page) : Nat → Option Nat
  | 0x000 => some (blkType p.blk * 2 ^ 16 + p.instNo * 2 ^ 8 + 1)
  | 0x00C => some (blkStat s p)
  | 0x018 => some (s.pend p).toNat
  | 0x01C => some (s.reg p 0x010).toNat
  | _ => none

/-- CLP (R66). -/
def viewClp (s : State) (st : Fin 8) (off : Nat) : Option Nat :=
  let c := (s.st st).clp
  match off with
  | 0x04C => some (stepCode c.state + 8 * bit c.due.isSome + 16 * bit c.ckptHold + 32 * bit c.evalHeld + 64 * bit c.voidLoss +
      128 * bit c.voidPlan + 256 * bit c.voidRemote + 512 * bit c.evalNonfinite + 2 ^ 16 * (c.mbReported % 2 ^ 16))
  | 0x050 | 0x054 => some (half c.step.toNat (off == 0x054))
  | 0x058 | 0x05C => some (half c.committed.toNat (off == 0x05C))
  | 0x060 | 0x064 => some (half c.evals.toNat (off == 0x064))
  | 0x068 => some c.loss.toNat
  | 0x06C => some c.lossMb.toNat
  | 0x070 | 0x074 => some (half c.lastPos.toNat (off == 0x074))
  | 0x078 => some c.late.toNat
  | 0x07C => some c.duration.toNat
  | 0x080 => some c.voidCnt.toNat
  | _ => none

/-- LOCK_STATE (R67). -/
def lockCode : LockState → Nat
  | .idle => 0 | .acquiring => 1 | .locked => 2 | .freewheel => 3 | .lost => 4

/-- TNS_NEXT (R67): the armed slot whose firing comes first. -/
def nextSlot (t : Tense) : Nat :=
  let key := fun (e : Nat × Slot) => if e.2.waiting && !e.2.late then t.pos.toNat else e.2.pos.toNat
  match t.slots.filter fun e => e.2.armed with
  | [] => 0x100
  | e :: es => (es.foldl (fun a b => if key b < key a then b else a) e).1

/-- TNS (R67); the slot is the one TNS_SLOT_SEL names. -/
def viewTns (s : State) (st : Fin 8) (off : Nat) : Option Nat :=
  let t := (s.st st).tns
  let x := t.slot (s.fld (tnsPage st) 0x080 7 0)
  match off with
  | 0x044 => some (lockCode t.lock + 16 * t.freewheel)
  | 0x048 | 0x04C => some (half t.pos.toNat (off == 0x04C))
  | 0x058 | 0x05C => some (half t.periodPs.toNat (off == 0x05C))
  | 0x060 => some t.phaseErr.toNat
  | 0x084 | 0x088 => some (half x.stagedPos.toNat (off == 0x088))
  | 0x08C | 0x090 => some (half x.stagedPeriod.toNat (off == 0x090))
  | 0x094 => some (bit x.armed + 2 * bit x.skip + 16 * x.kind + 2 ^ 8 * x.target.toNat + 2 ^ 16 * x.bit)
  | 0x098 => some (bit x.fired + 2 * bit x.missed + 4 * bit x.deferred + 2 ^ 8 * x.deferCount + 2 ^ 16 * x.fireCount.toNat)
  | 0x09C => some (nextSlot t)
  | _ => none

/-- The slots of a core's tiles that satisfy a test. -/
def tileMask (x : Core) (f : MxTile → Bool) : Nat :=
  maskOf ((x.tiles.filter fun e => f e.2).flatMap fun e => slotsFrom e.1 e.2.window)

/-- W of the window tile whose first slot is `t`, as ten bits. -/
def tileW (x : Core) (t : Nat) : Nat :=
  match x.tiles.find? fun e => e.1 == t && e.2.window with
  | some e => (BitVec.ofInt 10 e.2.w).toNat
  | none => 0

/-- MX (R115). -/
def viewMx (s : State) (st : Fin 8) (c off : Nat) : Option Nat :=
  let x := s.core st c
  let b0 := x.banks[0]
  let b1 := x.banks[1]
  match off with
  | 0x044 => some (bit (opInFlight s st c [1]) + 2 * bit (opInFlight s st c [2]) + 4 * bit (opInFlight s st c [3, 4]) +
      8 * bit (mxHazard s st c) + 16 * bit (s.flag (mxPage st c) 0x044 4) + 2 ^ 8 * queued s st c)
  | 0x048 => some (openSlots x + 2 ^ 8 * tileMask x (·.window) + 2 ^ 16 * tileMask x (·.drained))
  | 0x04C => some (tileMask x (·.flags.inexact) + 2 ^ 8 * tileMask x (·.flags.nonfinite) +
      2 ^ 16 * tileMask x (·.flags.repeated))
  | 0x050 => some (tileW x 0 + 2 ^ 16 * tileW x 2)
  | 0x054 => some (tileW x 4 + 2 ^ 16 * tileW x 6)
  | 0x058 => some (bit b0.valid + 2 * bit b1.valid + 4 * b0.fmt + 2 ^ 6 * b1.fmt + 2 ^ 10 * b0.shape + 2 ^ 12 * b1.shape)
  | 0x05C => some (b0.rows + 2 ^ 16 * b1.rows)
  | 0x070 => some (acceptCount s (mxPage st c))
  | 0x074 => some (retireCount s (mxPage st c))
  | 0x090 => some (x.tiles.foldl (fun n e => (slotsFrom e.1 e.2.window).foldl (fun n i => n + e.2.shape * 4 ^ i) n) 0)
  | _ => none

/-- The RUN at the head of a chain waits: for the tile it reads (R160), or for what a STREAM or LDB still reads (R113). -/
def runWaits (s : State) (st : Fin 8) (c : Nat) : Bool × Bool :=
  match vcHead s st c 1 with
  | none => (false, false)
  | some e =>
    match checkRun (s.core st c) e.desc with
    | .error _ => (false, false)
    | .ok ts =>
      let held := runHeld s st c e.desc ts
      let tile := runAsrc e.desc == 2 && (s.core st c).pass.isSome
      (held && tile, held && !tile)

/-- VC (R168). -/
def viewVc (s : State) (st : Fin 8) (c off : Nat) : Option Nat :=
  let x := s.core st c
  match off with
  | 0x040 => some (bit (opInFlight s st (vcQueue c) [1]) + 2 * bit (runWaits s st c).1 + 4 * bit (runWaits s st c).2 +
      2 ^ 8 * queued s st (vcQueue c) +
      2 ^ 16 * maskOf ((List.range 4).filter fun i => (x.chain.toList.getD i {}).valid))
  | 0x048 => some x.vl
  | 0x04C => some (acceptCount s (vcPage st c))
  | 0x050 => some (retireCount s (vcPage st c))
  | _ => none

/-- RNG (R282, R283): the lane RNG_LANE_SEL names, and the stack's key store, whose staged keys read as zero. -/
def viewRng (s : State) (st : Fin 8) (c off : Nat) : Option Nat :=
  let k := (s.st st).keys
  match off with
  | 0x050 | 0x054 | 0x058 | 0x05C =>
    some (word128 (laneCtr s st c (s.fld (stackPage st .rng c) 0x04C 5 0)) ((off - 0x050) / 4)).toNat
  | 0x0A4 => some k.skeyFp.toNat
  | 0x0A8 => some k.ekeyFp.toNat
  | 0x0AC => some (bit k.skeySet + 2 * bit k.ekeySet + 4 * bit k.busy + 8 * bit k.commitIgnored)
  | _ => none

/-- SMP (R222): walker contexts are in use only inside a HOP. -/
def viewSmp (s : State) (st : Fin 8) (off : Nat) : Option Nat :=
  if 0x040 ≤ off ∧ off < 0x050 then
    let g := (off - 0x040) / 4
    let x := s.group st g
    let l := x.leader.getD g
    some (x.phase + 8 * bit (x.leader.isSome && l != g) + 16 * bit x.faulted + 32 * (if x.leader.isSome then l else 0) +
      2 ^ 21 * queued s st (smpQueue g))
  else none

/-- BEAD (R261): lanes hold work only inside a command. -/
def viewBead (s : State) (st : Fin 8) (off : Nat) : Option Nat :=
  let h := (s.st st).hot
  match off with
  | 0x048 => some (2 ^ 8 * queued s st 0x90)
  | 0x070 => some (acceptCount s (beadPage st))
  | 0x074 => some (retireCount s (beadPage st))
  | 0x0A4 => some (h.state + 4 * bit h.activeB + 2 ^ 8 * h.group)
  | 0x0A8 => some h.active.length
  | 0x0AC => some h.waiting.length
  | _ => none

/-- FIL (R262). -/
def viewFil (s : State) (st : Fin 8) (off : Nat) : Option Nat :=
  let c := (s.st st).clp
  match off with
  | 0x074 => some (bit (working s (filPage st)) + 2 * bit (c.state == .commit && c.sequence == .commit) +
      4 * bit (s.flag (filPage st) 0x074 2) + 2 ^ 8 * queued s st 0xA0)
  | 0x078 => some (s.st st).fil.touched.length
  | 0x07C | 0x080 => some (half (poolUsed s st) (off == 0x080))
  | 0x0A4 => some (acceptCount s (filPage st))
  | 0x0A8 => some (retireCount s (filPage st))
  | _ => none

/-- MEM instance 4 (R309): the entry MEM_RGN_SEL names. -/
def viewXfr (s : State) (st : Fin 8) (off : Nat) : Option Nat :=
  let r := s.region st (s.fld (xfrPage st) 0x04C 5 0)
  match off with
  | 0x040 => some (maskOf ((List.range 8).filter fun c => (s.queue st (xfrQueue c)).entries.any Entry.inFlight) +
      2 ^ 8 * bit (s.flag (xfrPage st) 0x040 8))
  | 0x044 => some (acceptCount s (xfrPage st))
  | 0x048 => some (retireCount s (xfrPage st))
  | 0x050 | 0x054 => some (half r.stagedBase.toNat (off == 0x054))
  | 0x058 => some (regionAttr r)
  | 0x05C | 0x060 => some (half r.stagedSize.toNat (off == 0x060))
  | 0x064 => some (r.plan.toNat + 2 ^ 31 * bit r.locked)
  | 0x068 => some (r.bst + 2 ^ 16 * r.pendingPlan.toNat)
  | _ => none

/-- SEQ (R338). -/
def viewSeq (s : State) (st : Fin 8) (n : Fin 4) (off : Nat) : Option Nat :=
  let q := s.seq st n
  let shown := q.st == .stopped || q.st == .halted || q.st == .faulted
  let g := if shown then (q.gpr (s.fld (seqPage st n) 0x078 4 0)).toNat else 0
  match off with
  | 0x044 => some (seqCode q.st + 8 * bit (q.wait != .none) + 16 * waitKind q.wait + 128 * bit q.refused)
  | 0x058 => some q.pc.toNat
  | 0x060 => some q.exit.toNat
  | 0x07C | 0x080 => some (half g (off == 0x080))
  | 0x088 => some q.plan.toNat
  | _ => none

/-- ARB (R339). -/
def viewArb (s : State) (st : Fin 8) (off : Nat) : Option Nat :=
  let a := (s.st st).arb
  match off with
  | 0x048 => some (maskOf (a.run.map (·.act)))
  | 0x04C => some (maskOf (a.wait.map (·.act)) + 2 ^ 16 * a.wait.length)
  | 0x050 => some (maskOf ((List.range 4).filter fun d => patrolPaused s st 1 d) + 16 * bit (patrolPaused s st 2 0))
  | _ => none

/-- Activity 9 runs on a port. -/
def adapting (s : State) (st : Fin 8) (port : Nat) : Bool :=
  (s.st st).arb.run.any fun a => a.act == 9 && (a.scope == port || a.scope == 0xFFFF)

/-- The per-link registers of a NET page (R375). -/
def netLinkReg (off : Nat) : Bool := 0x04C ≤ off && off < 0x070

/-- Where a NET register is kept: a per-link one at that of the link in NET_LINK_SEL. -/
def netOff (s : State) (st : Fin 8) (port off : Nat) : Nat :=
  if netLinkReg off then linkOff (s.fld (netPage st port) 0x048 1 0) off else off

/-- NET (R375): the lanes of a link that is up are locked. -/
def viewNet (s : State) (st : Fin 8) (port off : Nat) : Option Nat :=
  let up := (s.port st port).up.toNat
  let n := modeLanes (portMode s st port)
  if off = 0x044 then
    some (up + 16 * maskOf ((List.range 8).filter fun l => n != 0 && bitAt up (l / n)) + 2 ^ 12 * bit (adapting s st port))
  else if netLinkReg off then some (s.reg (netPage st port) (netOff s st port off)).toNat
  else none

/-- KXT_SESS_STAT.STATE (R376). -/
def sessCode : SessState → Nat
  | .closed => 0 | .hsSent => 1 | .hsRecv => 2 | .opened => 3 | .closing => 4 | .failed => 5

/-- The round a channel is in: of its first phase, then of its second. -/
def chanRound (x : Channel) : Nat := if x.op = 0 ∧ x.redGot + 1 < x.nrank then x.redGot else x.gatGot

/-- KXT (R376). -/
def viewKxt (s : State) (st : Fin 8) (off : Nat) : Option Nat :=
  let c := s.sess st (s.fld (kxtPage st) 0x070 14 0)
  if 0x0A0 ≤ off ∧ off < 0x0E0 then
    let x := s.chan st ((off - 0x0A0) / 4)
    some (chanCode x.st + 2 ^ 8 * (chanRound x % 256) + 2 ^ 16 * s.fld (kxtPage st) off 26 16)
  else match off with
    | 0x058 => some ((s.st st).sess.filter fun e => e.2.st == .opened).length
    | 0x074 => some (sessCode c.st + 8 * c.role + 32 * bit c.initiator + 64 * (c.link + 4 * c.port))
    | 0x078 => some c.peer.toNat
    | 0x07C => some (c.rate.floor.toNat % 2 ^ 32)
    | 0x080 => some ((c.rtt.map (·.1)).getD 0 % 2 ^ 32)
    | 0x0F4 => some (bit (s.st st).ckpt.streaming + 2 * s.fld (kxtPage st) 0x0F4 2 1)
    | 0x0F8 | 0x0FC => some (half (s.st st).ckpt.bytes.toNat (off == 0x0FC))
    | _ => none

/-- JK (R377). -/
def viewJk (s : State) (st : Fin 8) (p off : Nat) : Option Nat :=
  match off with
  | 0x040 => some (s.fld (jkPage st p) 0x040 4 0 + 32 * queued s st (0xC0 + p))
  | 0x058 => some (acceptCount s (jkPage st p))
  | 0x05C => some (retireCount s (jkPage st p))
  | _ => none

/-- MBX (R393). -/
def viewMbx (s : State) (st : Fin 8) (page off : Nat) : Option Nat :=
  if 0x200 ≤ off ∧ off < 0x400 then
    let mb := 16 * page + (off - 0x200) / 32
    let b := s.box st mb
    match (off - 0x200) % 32 with
    | 0x00 | 0x08 => some b.word.toNat
    | 0x04 => some (mbxStat s st mb)
    | 0x0C => some b.db.toNat
    | 0x14 => some b.dbEn.toNat
    | _ => some 0
  else match off with
    | 0x044 => some (boxMask s st page (·.full))
    | 0x048 => some (boxMask s st page fun b => b.db &&& b.dbEn != 0)
    | _ => none

/-- BZL (R414). -/
def viewBzl (s : State) (st : Fin 8) (off : Nat) : Option Nat :=
  let b := s.mod.bzl
  if 0x800 ≤ off then some (bzlWord s st off)
  else match off with
    | 0x048 => some (bzlMode s st)
    | 0x060 => some b.fwVersion.toNat
    | 0x064 => some (bzlSvn s)
    | 0x068 | 0x06C => some (half b.epoch.toNat (off == 0x06C))
    | 0x070 => some (sealSlots s)
    | _ => none

/-- The registers of a reading window, at offsets from its first (R447). -/
def viewWindow (l : Locket) (w : Bool) (off : Nat) : Option Nat :=
  let x := l.window w
  match off with
  | 0x00 => some (2 * bit x.autoAdv)
  | 0x04 => some (bit x.loading + 2 * x.result + 8 * bit x.ecc)
  | 0x08 | 0x0C => some (half x.cur.toNat (off == 0x0C))
  | 0x10 | 0x14 => some (half x.snapLast.toNat (off == 0x14))
  | 0x18 | 0x1C => some (half x.snapOldest.toNat (off == 0x1C))
  | _ => if 0x40 ≤ off ∧ off < 0x80 then some (x.win.extractLsb' (8 * (off - 0x40)) 32).toNat else none

/-- LKT (R447): a record is written within one command, so WRITING reads 0. -/
def viewLkt (s : State) (off : Nat) : Option Nat :=
  let l := s.mod.lkt
  if 0x080 ≤ off ∧ off < 0x100 then viewWindow l false (off - 0x080)
  else if 0x100 ≤ off ∧ off < 0x180 then viewWindow l true (off - 0x100)
  else match off with
    | 0x040 => some (2 * bit l.stopped + 4 * bit l.scanned + 16 * (if l.scanned then l.spareUsed else 0) +
        2 ^ 16 * min 255 l.reqs.length)
    | 0x048 | 0x04C => some (half l.last.toNat (off == 0x04C))
    | 0x050 | 0x054 => some (half l.oldest.toNat (off == 0x054))
    | 0x058 | 0x05C => some (half l.base.toNat (off == 0x05C))
    | 0x19C => some (2 * bit (fwBusy s) + 4 * bit l.fwReject)
    | _ => none

/-- The module's PWR page (R471): SLEEP_STAT. -/
def viewPwrm (s : State) (off : Nat) : Option Nat :=
  let p := s.mod.pwr
  match off with
  | 0x04C => some ((if p.sleeping then p.sleepTarget else 0) + 4 * bit (p.sleepTarget != 0 && !p.sleeping) +
      2 ^ 8 * s.fld pwrmPage 0x04C 10 8)
  | _ => none

/-- CAL (R472). -/
def viewCal (s : State) (off : Nat) : Option Nat :=
  if 0x800 ≤ off then some (calWin s off)
  else match off with
    | 0x040 => some (calStat s)
    | 0x044 | 0x048 => some (half (imgSeq s.mod.cal.active) (off == 0x048))
    | _ => none

/-- The view of a register, none for one that is stored. -/
def viewOf (s : State) (p : Page) (off : Nat) : Option Nat :=
  let st := p.home
  if off < 0x040 then viewHeader s p off
  else match p.blk with
    | .clp => viewClp s st off
    | .tns => viewTns s st off
    | .mx => viewMx s st p.inst off
    | .vc => viewVc s st p.inst off
    | .rng => viewRng s st p.inst off
    | .smp => viewSmp s st off
    | .bead => viewBead s st off
    | .fil => viewFil s st off
    | .xfr => viewXfr s st off
    | .seq => viewSeq s st (Fin.ofNat 4 p.inst) off
    | .arb => viewArb s st off
    | .net => viewNet s st p.inst off
    | .kxt => viewKxt s st off
    | .jk => viewJk s st p.inst off
    | .mbx => viewMbx s st p.inst off
    | .bzl => viewBzl s st off
    | .lkt => viewLkt s off
    | .pwrm => viewPwrm s off
    | .cal => viewCal s off
    | .mem | .srm | .pwr => none

/-! ### Reading (R7, R9, R10) -/

/-- A register exists on a page: MBX_ROUTE stands on page 0 alone (R393). -/
def regHere (p : Page) (off : Nat) : Option RegSpec :=
  if p.blk = .mbx ∧ p.inst ≠ 0 ∧ 0x0C0 ≤ off ∧ off < 0x10C then none else regSpec p.blk off

/-- The bits of a register that a read returns: those of its fields but for WO ones. -/
def readMask (r : RegSpec) : Nat :=
  r.fields.foldl (fun n f => if f.acc = .wo then n else n ||| (2 ^ (f.hi + 1 - f.lo) - 1) * 2 ^ f.lo) 0

/-- The current value of a register: reserved bits and offsets read as zero (R10). -/
def regValue (s : State) (p : Page) (off : Nat) : Nat :=
  match regHere p off with
  | none => 0
  | some r =>
    match viewOf s p off with
    | some v => v % 2 ^ 32
    | none => (s.reg p off).toNat &&& readMask r

/-- The bits of a register that a read clears: its RC fields. -/
def rcMask (r : RegSpec) : Nat :=
  r.fields.foldl (fun n f => if f.acc = .rc then n ||| (2 ^ (f.hi + 1 - f.lo) - 1) * 2 ^ f.lo else n) 0

/-- The offsets of the _LO halves of a block's 64-bit pairs (R9). -/
def pairsOf : Blk → List Nat
  | .clp => [0x050, 0x058, 0x060, 0x070]
  | .tns => [0x048, 0x050, 0x058, 0x084, 0x08C]
  | .mx => [0x080, 0x088]
  | .vc => [0x054]
  | .rng => [0x044]
  | .smp => [0x060, 0x06C, 0x074]
  | .bead => [0x040, 0x050, 0x058, 0x084, 0x08C, 0x09C]
  | .fil => [0x044, 0x050, 0x058, 0x060, 0x06C, 0x07C, 0x088, 0x098]
  | .mem => [0x060]
  | .xfr => [0x050, 0x05C]
  | .seq => [0x048, 0x050, 0x064, 0x070, 0x07C]
  | .arb => [0x0B8, 0x0C4]
  | .net => [0x04C]
  | .kxt => [0x068, 0x084, 0x090, 0x0F8]
  | .jk => [0x044, 0x04C]
  | .bzl => [0x058, 0x068]
  | .lkt => [0x048, 0x050, 0x058, 0x088, 0x090, 0x098, 0x108, 0x110, 0x118]
  | .pwrm => [0x068, 0x070, 0x07C]
  | .cal => [0x044]
  | .srm | .mbx | .pwr => []

/-- A _LO half, and a _HI half; FAULT_ADDR is a pair of every page (R30). -/
def isLo (b : Blk) (off : Nat) : Bool := off == 0x028 || (pairsOf b).contains off
def isHi (b : Blk) (off : Nat) : Bool := 4 ≤ off && isLo b (off - 4)

/-- The two halves of a pair as they stand; the real-time clock is a measure of time (R456; assumption 3). -/
def pairNow (s : State) (p : Page) (lo : Nat) : Nat × Nat × State :=
  if p.blk = .pwrm ∧ lo = 0x068 then
    let (t, s1) := s.now
    (half t.toNat false, half t.toNat true, s1)
  else (regValue s p lo, regValue s p (lo + 4), s)

/-- A register read by a requester (R7, R9): a _LO half latches its _HI half, the next read of which returns it; RC bits are
cleared; the receiver's read of MBX_DATA empties the mailbox (R382); a read of a Locket window waits for its load (R444). -/
def readReg (s : State) (r : Requester) (p : Page) (off : Nat) : Word × State :=
  let k := p.key off
  if isLo p.blk off then
    let (lo, hi, s1) := pairNow s p off
    (BitVec.ofNat 32 lo, { s1 with latched := Sparse.put s1.latched (k + 4) (BitVec.ofNat 32 hi) })
  else if isHi p.blk off then
    match Sparse.find s.latched k with
    | some v => (v, { s with latched := Sparse.del s.latched k })
    | none => let (_, hi, s1) := pairNow s p (off - 4); (BitVec.ofNat 32 hi, s1)
  else if p.blk = .mbx ∧ 0x200 ≤ off ∧ off < 0x400 ∧ (off - 0x200) % 32 = 0 then
    mboxRead s r p.home (16 * p.inst + (off - 0x200) / 32)
  else if p.blk = .lkt ∧ 0x0C0 ≤ off ∧ off < 0x100 then winRead s false ((off - 0x0C0) / 4)
  else if p.blk = .lkt ∧ 0x140 ≤ off ∧ off < 0x180 then winRead s true ((off - 0x140) / 4)
  else
    let v := BitVec.ofNat 32 (regValue s p off)
    match regHere p off with
    | some x => if rcMask x = 0 then (v, s) else (v, s.setReg p off (s.reg p off &&& BitVec.ofNat 32 (2 ^ 32 - 1 - rcMask x)))
    | none => (v, s)

end Sys2Proof.Machine
end

