-- ==== Sys2Proof/Machine/RegWrite.lean ====
section
/-! DEFINITION. Register writes (R7 to R10, R30 to R32 and the register rules of each chapter): what a permitted write does, and
who may write what (R323, R361, R390, R429, R447, R463, R470). -/

namespace Sys2Proof.Machine

/-! ### Fields (R7, R10) -/

/-- A field after a write of `v` to its register, which held `old`: a reserved encoding leaves an RW field as it was. -/
def fieldWrite (v old : Nat) (f : FieldSpec) : Nat :=
  let x := bitsOf v f.hi f.lo
  let o := bitsOf old f.hi f.lo
  match f.acc with
  | .rw => if f.min ≤ x ∧ x ≤ f.max then withBits old f.hi f.lo x else old
  | .w1c => withBits old f.hi f.lo (o - (o &&& x))
  | .w1s => withBits old f.hi f.lo (o ||| x)
  | .ro | .wo | .rc => old

/-- A stored register after a write. -/
def storedWrite (s : State) (p : Page) (off : Nat) (v : Word) : State :=
  match regHere p off with
  | none => s
  | some r =>
    let k := if p.blk = .net then netOff s p.home p.inst off else off
    s.setReg p k (BitVec.ofNat 32 (r.fields.foldl (fieldWrite v.toNat) (s.reg p k).toNat))

/-- A register takes a write. -/
def writable (p : Page) (off : Nat) : Bool :=
  match regHere p off with
  | none => false
  | some r => r.fields.any fun f => f.acc == .rw

/-! ### The common header (R30 to R33) -/

/-- BLK_CTRL (R30, R31): ENABLE and QUIESCE as written, then a soft reset. ENABLE 0 stops acceptance; written while the page is
BUSY it acts as QUIESCE. -/
def ctrlWrite (s : State) (p : Page) (v : Word) : State :=
  let out := !bitAt v.toNat 0 && (busy s p || s.flag p 0x00C 1)
  let s1 := quiesceRise s ((storedWrite s p 0x008 (v &&& 5)).setFlag p 0x00C 1 out) p
  if bitAt v.toNat 1 then softReset s1 p else s1

/-- An MBX page's EVENT may be sent again once its EVT_PEND is zero (R392). -/
def evtSettle (s : State) (p : Page) : State :=
  if p.blk = .mbx ∧ s.pend p = 0 then
    s.modSt p.home fun x => { x with evtSent := BitVec.ofNat 4 (withBits x.evtSent.toNat p.inst p.inst 0) }
  else s

/-- EVT_EN: enabling an event that stands makes the line rise (R33). -/
def evtEnable (s : State) (p : Page) (v : Word) : State := evtSettle (lineRise s (s.setReg p 0x014 v) p) p

/-- The channels of the transfer engine that a fault stopped discard their queues and go on (R307). -/
def xfrRelease (s : State) (st : Fin 8) : State :=
  let s1 := (List.range 8).foldl (fun s c =>
    if bitAt (s.st st).xfrStop.toNat c then discardQueue s st (xfrQueue c) else s) s
  s1.modSt st fun x => { x with xfrStop := 0 }

/-- FAILED channels return to IDLE (R372). -/
def chanRelease (s : State) (st : Fin 8) : State :=
  (List.range 16).foldl (fun s c => if (s.chan st c).st = .failed then s.modChan st c fun _ => {} else s) s

/-- What the clearing write of a fault does beside the record (R32): the sampler, the transfer engine and the collective
channels leave what the fault stopped. -/
def faultRelease (s : State) (p : Page) : State :=
  match p.blk with
  | .smp => smpClear s p.home
  | .xfr => xfrRelease s p.home
  | .kxt => chanRelease s p.home
  | _ => s

/-- EVT_CLR (R30, R32): 1 clears an event, and in bit 0 the fault record too. KEY_COMMITTED and COMMIT_IGNORED are cleared on
every RNG page of the stack (R282). -/
def evtClear (s : State) (p : Page) (v : Word) : State :=
  let clear := fun (s : State) (q : Page) (m : Word) => s.setReg q 0x010 (s.reg q 0x010 &&& ~~~m)
  let s1 := clear s p v
  let s2 := if p.blk = .rng ∧ v &&& 0x18 ≠ 0 then
      (List.range 56).foldl (fun s c => clear s (stackPage p.home .rng c) (v &&& 0x18)) s1
    else s1
  let s3 := if bitAt v.toNat 0 then
      faultRelease (((s2.setReg p 0x020 0).setReg p 0x024 0).setPair p 0x028 0) p
    else s2
  evtSettle s3 p

/-- A header register written. -/
def writeHeader (s : State) (p : Page) (off : Nat) (v : Word) : State :=
  match off with
  | 0x008 => ctrlWrite s p v
  | 0x014 => evtEnable s p v
  | 0x01C => evtClear s p v
  | _ => s

/-! ### Registers with effects -/

/-- CLP (R66): CLP_CFG only in IDLE. -/
def writeClp (s : State) (st : Fin 8) (off : Nat) (v : Word) : State :=
  match off with
  | 0x040 => if bitsOf v.toNat 3 0 = 0 then s else clpCmd s st (bitsOf v.toNat 3 0)
  | 0x044 => if (s.st st).clp.state = .idle then storedWrite s (clpPage st) off v else s
  | _ => storedWrite s (clpPage st) off v

/-- TNS (R67). -/
def writeTns (s : State) (st : Fin 8) (off : Nat) (v : Word) : State :=
  match off with
  | 0x040 => tnsCtrlWrite s st v
  | 0x094 => slotCfgWrite s st v
  | 0x098 => s.modTns st fun t => t.modSlot (s.fld (tnsPage st) 0x080 7 0) fun x =>
      { x with fired := x.fired && !bitAt v.toNat 0, missed := x.missed && !bitAt v.toNat 1,
               deferred := x.deferred && !bitAt v.toNat 2 }
  | _ => storedWrite s (tnsPage st) off v

/-- MX (R115). -/
def writeMx (s : State) (st : Fin 8) (c off : Nat) (v : Word) : State :=
  match off with
  | 0x040 => mxCfgWrite s st c v
  | 0x04C => mxFlagsWrite s st c v
  | _ => storedWrite s (mxPage st c) off v

/-- A word of a 128-bit key replaced. -/
def keyWith (k : BitVec 128) (i : Nat) (v : Word) : BitVec 128 :=
  BitVec.ofNat 128 (withBits k.toNat (32 * i + 31) (32 * i) v.toNat)

/-- RNG (R282, R283). -/
def writeRng (s : State) (st : Fin 8) (c off : Nat) (v : Word) : State :=
  match off with
  | 0x040 =>
    let s1 := storedWrite s (stackPage st .rng c) off v
    if bitAt v.toNat 1 then requestReseed s1 st c else s1
  | 0x080 | 0x084 | 0x088 | 0x08C =>
    s.modKeys st fun k => { k with stagedS := keyWith k.stagedS ((off - 0x080) / 4) v }
  | 0x090 | 0x094 | 0x098 | 0x09C =>
    s.modKeys st fun k => { k with stagedE := keyWith k.stagedE ((off - 0x090) / 4) v }
  | 0x0A0 =>
    let s1 := if bitAt v.toNat 0 then commitStepKey s st else s
    if bitAt v.toNat 1 then commitEvalKey s1 st else s1
  | 0x0AC => s.modKeys st fun k => { k with commitIgnored := k.commitIgnored && !bitAt v.toNat 3 }
  | _ => storedWrite s (stackPage st .rng c) off v

/-- The hot-set registers that take effect only while EN is 0 (R261). -/
def hsHeld (off : Nat) : Bool := 0x084 ≤ off && off < 0x09C

/-- BEAD (R261): HS_CTRL.LOG2 only while EN is 0. -/
def writeBead (s : State) (st : Fin 8) (off : Nat) (v : Word) : State :=
  let p := beadPage st
  match off with
  | 0x080 =>
    let s1 := if hsEnabled s st then s else (storedWrite s p off v).setFlag p 0x080 0 false
    hsEnWrite s1 st (bitAt v.toNat 0)
  | _ => if hsHeld off && hsEnabled s st then s else storedWrite s p off v

/-- The FIL registers that take effect only with the touched-row set empty in state IDLE (R262). -/
def filHeld (off : Nat) : Bool := 0x040 ≤ off && off < 0x060

/-- Whether they take effect now. -/
def filFree (s : State) (st : Fin 8) : Bool := (s.st st).fil.touched.isEmpty && (s.st st).clp.state == .idle

/-- FIL (R262): an ignored write sets CFG_IGNORED. -/
def writeFil (s : State) (st : Fin 8) (off : Nat) (v : Word) : State :=
  let p := filPage st
  if filHeld off && !filFree s st then s.setFlag p 0x074 2 true else storedWrite s p off v

/-- MEM 0 to 3 (R308). -/
def writeMem (s : State) (st : Fin 8) (dev off : Nat) (v : Word) : State :=
  match off with
  | 0x048 => if bitAt v.toNat 0 then softRepair s st dev else s
  | _ => storedWrite s (stackPage st .mem dev) off v

/-- SRM (R310). -/
def writeSrm (s : State) (st : Fin 8) (off : Nat) (v : Word) : State :=
  let s1 := storedWrite s (srmPage st) off v
  if off = 0x040 ∧ bitAt v.toNat 8 = true then sramRepair s1 st (bitsOf v.toNat 5 0) else s1

/-- SEQ (R338). -/
def writeSeq (s : State) (st : Fin 8) (n : Fin 4) (off : Nat) (v : Word) : State :=
  match off with
  | 0x040 => seqCmd s st n v
  | 0x044 => if bitAt v.toNat 7 then s.modSeq st n fun q => { q with refused := false } else s
  | _ => storedWrite s (seqPage st n) off v

/-- ARB (R339). -/
def writeArb (s : State) (r : Requester) (st : Fin 8) (off : Nat) (v : Word) : State :=
  match off with
  | 0x040 => arbSubmitWrite s r st v
  | 0x088 => rebindGo s r st v
  | _ => storedWrite s (arbPage st) off v

/-- KXT (R376). -/
def writeKxt (s : State) (r : Requester) (st : Fin 8) (off : Nat) (v : Word) : State :=
  match off with
  | 0x08C => if bitAt v.toNat 0 then kxtOpenGo s r st else s
  | 0x098 => chanReadyWrite s st v
  | _ => storedWrite s (kxtPage st) off v

/-- MBX_DB_EN (R387): a host mailbox that becomes pending raises HOST_MAIL (R393). -/
def dbEnable (s : State) (st : Fin 8) (mb : Nat) (v : Word) : State :=
  let b := s.box st mb
  let s1 := s.modBox st mb fun b => { b with dbEn := v }
  if 20 ≤ mb ∧ b.db &&& b.dbEn = 0 ∧ b.db &&& v ≠ 0 then setEvt s1 (mbxPage st mb) 3 else s1

/-- MBX (R381, R386, R393). -/
def writeMbx (s : State) (r : Requester) (st : Fin 8) (page off : Nat) (v : Word) : State :=
  if 0x200 ≤ off ∧ off < 0x400 then
    let mb := 16 * page + (off - 0x200) / 32
    match (off - 0x200) % 32 with
    | 0x00 => mboxSend s r st mb v
    | 0x04 => s.modBox st mb fun b =>
        { b with collision := b.collision && !bitAt v.toNat 1, timeout := b.timeout && !bitAt v.toNat 2 }
    | 0x0C => s.modBox st mb fun b => { b with db := b.db &&& ~~~v }
    | 0x10 => ringBits s st mb v
    | 0x14 => dbEnable s st mb v
    | _ => s
  else storedWrite s (stackPage st .mbx page) off v

/-- BZL (R414). -/
def writeBzl (s : State) (st : Fin 8) (off : Nat) (v : Word) : State :=
  if 0x800 ≤ off then bzlWordWrite s st off v
  else match off with
    | 0x040 => if bitAt v.toNat 8 then bzlGo s st (bitsOf v.toNat 3 0) else s
    | _ => storedWrite s (bzlPage st) off v

/-- LKT (R447): bits 7, 8 and 11 of LKT_CLASS_EN stay 1. -/
def writeLkt (s : State) (off : Nat) (v : Word) : State :=
  let ctrl := fun (w : Bool) =>
    let s1 := modWindow s w fun x => { x with autoAdv := bitAt v.toNat 1 }
    if bitAt v.toNat 0 then snap s1 w else s1
  match off with
  | 0x044 => s.setReg lktPage 0x044 (v &&& 0xFFE ||| 0x980)
  | 0x080 => ctrl false
  | 0x100 => ctrl true
  | 0x19C =>
    let s1 := if bitAt v.toNat 2 then s.modLkt fun l => { l with fwReject := false } else s
    if bitAt v.toNat 0 then fwGo s1 else s1
  | _ => storedWrite s lktPage off v

/-- PWR of a stack (R470). -/
def writePwr (s : State) (st : Fin 8) (off : Nat) (v : Word) : State :=
  match off with
  | 0x040 => domRequest s st v
  | 0x058 => if bitAt v.toNat 0 ∧ s.mod.pwr.resetHeld = false ∧ s.mod.pwr.thermtripN = false then ctlReset s st else s
  | _ => storedWrite s (pwrPage st) off v

/-- The module's PWR page (R471). -/
def writePwrm (s : State) (off : Nat) (v : Word) : State :=
  match off with
  | 0x048 => sleepGo s v
  | 0x05C => capWrite s v.toNat
  | 0x064 => thermWrite s v.toNat
  | _ => storedWrite s pwrmPage off v

/-- CAL (R472). -/
def writeCal (s : State) (off : Nat) (v : Word) : State :=
  if 0x800 ≤ off then calWinWrite s off v
  else match off with
    | 0x050 => calCmd s v
    | _ => storedWrite s calPage off v

/-- A register that is no half of a pair written. -/
def writeOne (s : State) (r : Requester) (p : Page) (off : Nat) (v : Word) : State :=
  let st := p.home
  if off < 0x040 then writeHeader s p off v
  else match p.blk with
    | .clp => writeClp s st off v
    | .tns => writeTns s st off v
    | .mx => writeMx s st p.inst off v
    | .rng => writeRng s st p.inst off v
    | .bead => writeBead s st off v
    | .fil => writeFil s st off v
    | .mem => writeMem s st p.inst off v
    | .xfr => if off = 0x058 then regionWrite s st v else storedWrite s p off v
    | .srm => writeSrm s st off v
    | .seq => writeSeq s st (Fin.ofNat 4 p.inst) off v
    | .arb => writeArb s r st off v
    | .net => if off = 0x040 then netCfgWrite s st p.inst v else storedWrite s p off v
    | .kxt => writeKxt s r st off v
    | .mbx => writeMbx s r st p.inst off v
    | .bzl => writeBzl s st off v
    | .lkt => writeLkt s off v
    | .pwr => writePwr s st off v
    | .pwrm => writePwrm s off v
    | .cal => writeCal s off v
    | .vc | .smp | .jk => storedWrite s p off v

/-! ### Pairs (R9) -/

/-- A pair takes a 64-bit value at once. -/
def writeWhole (s : State) (p : Page) (off : Nat) (lo hi : Word) : State :=
  let st := p.home
  let both := storedWrite (storedWrite s p off lo) p (off + 4) hi
  let slot := fun (f : Slot → Slot) => s.modTns st fun t => t.modSlot (s.fld (tnsPage st) 0x080 7 0) f
  match p.blk, off with
  | .tns, 0x084 => slot fun x => { x with stagedPos := hi ++ lo }
  | .tns, 0x08C => slot fun x => { x with stagedPeriod := hi ++ lo }
  | .xfr, 0x050 => regionStage s st false hi lo
  | .xfr, 0x05C => regionStage s st true hi lo
  | .bead, 0x040 => if busy s p then s else both
  | .bead, o => if hsHeld o && hsEnabled s st then s else both
  | .fil, o => if filHeld o && !filFree s st then s.setFlag p 0x074 2 true else both
  | _, _ => both

/-- A _LO half written (R9): the pair takes it with the staged high half, or with the one it has. -/
def writeLo (s : State) (p : Page) (off : Nat) (v : Word) : State :=
  if p.blk = .lkt ∧ off = 0x088 then cursorWrite s false v
  else if p.blk = .lkt ∧ off = 0x108 then cursorWrite s true v
  else if p.blk = .pwrm ∧ off = 0x070 then rtcSet s v
  else if writable p off then
    let k := p.key (off + 4)
    let hi := (Sparse.find s.staged k).getD (BitVec.ofNat 32 (regValue s p (off + 4)))
    writeWhole { s with staged := Sparse.del s.staged k } p off v hi
  else s

/-- A permitted register write (R7, R9). -/
def writeReg (s : State) (r : Requester) (p : Page) (off : Nat) (v : Word) : State :=
  if isLo p.blk off then writeLo s p off v
  else if isHi p.blk off then
    if writable p off then { s with staged := Sparse.put s.staged (p.key off) v } else s
  else writeOne s r p off v

/-! ### Who may write -/

/-- A plan sequencer, here or over Jukan, and a Bezel. -/
def fromSeq : Requester → Bool
  | .seq _ | .jukan (.seq _ _) => true
  | _ => false
def fromBezel : Requester → Bool
  | .bezel | .jukan (.bezel _) => true
  | _ => false

/-- The management core of stack 0. -/
def fromMgmt0 (p : Page) : Requester → Bool
  | .mgmt => p.home == 0
  | .jukan (.mgmt i) => i == 0
  | _ => false

/-- The registers that only the re-binding procedure writes (R30, R222, R309). -/
def bindOnly (b : Blk) (off : Nat) : Bool :=
  off == 0x030 || off == 0x034 || (b == .smp && 0x050 ≤ off && off < 0x060) || (b == .xfr && (off == 0x064 || off == 0x068))

/-- Who may write a register of an MBX page (R390). -/
def mbxWritable (r : Requester) (page off : Nat) : Bool :=
  fromMgmt r || fromBezel r ||
    if 0x200 ≤ off ∧ off < 0x400 then
      match (off - 0x200) % 32 with
      | 0x00 | 0x10 => true
      | 0x04 | 0x0C | 0x14 => isReceiver r (16 * page + (off - 0x200) / 32)
      | _ => false
    else fromHost r && (off == 0x014 || off == 0x01C)

/-- A plan's WRR passes the binding check (R323), and the register is not another party's alone: the KXT registers below 0x090
but for those of R363, ARB_SUBMIT and the ARB registers from 0x080 (R336), and the LKT, PWR and CAL pages (R447, R470). -/
def planWritable (s : State) (r : Requester) (p : Page) (off : Nat) : Bool :=
  bindOf s p == requesterPlan s p.home r &&
    match p.blk with
    | .kxt => off < 0x040 || (0x084 ≤ off && off < 0x090) || 0x090 ≤ off
    | .arb => off != 0x040 && off < 0x080
    | .lkt | .pwr | .pwrm | .cal => false
    | _ => true

/-- Whether a requester may write a register. -/
def mayWrite (s : State) (r : Requester) (p : Page) (off : Nat) : Bool :=
  !bindOnly p.blk off &&
    if p.blk = .mbx then mbxWritable r p.inst off
    else if fromSeq r then planWritable s r p off
    else match p.blk with
      | .clp => !(fromHost r && off == 0x040 && (s.st p.home).clp.state == .commit)
      | .arb => !(fromHost r && 0x0C4 ≤ off && off < 0x0CC)
      | .lkt => !(fromHost r && (off == 0x044 || (0x180 ≤ off && off < 0x1A0)))
      | .pwr => off != 0x058 || fromMgmt0 p r || fromBezel r
      | _ => true

/-! ### Addresses (R25 to R29) -/

/-- A requester as it arrives in a stack through a broadcast (R28, R385): its originator, taken to be of stack 0 where the
requester's own stack is not given. -/
def crossing : Requester → Requester
  | .host => .jukan .host
  | .bezel => .jukan (.bezel 0)
  | .mgmt => .jukan (.mgmt 0)
  | .seq n => .jukan (.seq 0 n)
  | .jukan o => .jukan o

/-- The pages that a register address reaches, each with the requester that arrives there: one page, or with the stack field 0xF
and a per-stack page those of every populated stack. Answers none for an address that reaches no page. -/
def regTargets (s : State) (r : Requester) (a : Nat) : Option (List (Page × Requester)) :=
  let no := (offsetOf a - 0x7F0000000000) / 4096
  if a / 2 ^ 52 ≠ 0 ∨ placeOf (offsetOf a) ≠ some .regs then none
  else if stackField a = 15 then
    match pageAt 15 no with
    | some p => some [(p, r)]
    | none => match pageAt 0 no with
      | some p => some (s.stacksIn.map fun i => (⟨i.val, p.blk, p.inst⟩, crossing r))
      | none => none
  else if s.has (stackField a) then (pageAt (stackField a) no).map fun p => [(p, r)]
  else none

/-- The one page that a register read reaches: a read with the stack field 0xF of a per-stack page is refused (R28). -/
def regSource (s : State) (r : Requester) (a : Nat) : Option (Page × Requester) :=
  if stackField a = 15 ∧ pageAt 15 ((offsetOf a - 0x7F0000000000) / 4096) = none then none
  else match regTargets s r a with
    | some (e :: _) => some e
    | _ => none

/-- A permitted write at an address, in ascending stack order. -/
def writeAt (s : State) (ts : List (Page × Requester)) (off : Nat) (v : Word) : State :=
  ts.foldl (fun s e => writeReg s e.2 e.1 off v) s

/-- A write by a requester other than a sequencer or the host: one that is not permitted, or not aligned, or that reaches no page,
changes nothing (R7, R27, R390). -/
def regWrite (s : State) (r : Requester) (a : DWord) (v : Word) : State :=
  let off := a.toNat % 4096
  match regTargets s r a.toNat with
  | some ts => if off % 4 = 0 ∧ (ts.all fun e => mayWrite s e.2 e.1 off) = true then writeAt s ts off v else s
  | none => s

/-- A read by a requester: what it returns is recorded. -/
def regRead (s : State) (r : Requester) (a : DWord) : State :=
  let off := a.toNat % 4096
  match regSource s r a.toNat with
  | some (p, r1) => if off % 4 = 0 then let (v, s1) := readReg s r1 p off; s1.send (.value r v) else s
  | none => s

/-! ### The rows -/

/-- REGISTER_WRITE (R7). -/
def execRegisterWrite (r : Requester) (a : DWord) (v : Word) (s : State) : Host.Outcome State Fault Refusal :=
  .next (regWrite s r a v)

/-- RC_REGISTER_READ (R7, R8). -/
def execRcRegisterRead (r : Requester) (a : DWord) (s : State) : Host.Outcome State Fault Refusal := .next (regRead s r a)

/-- PAIR_LO_READ (R9). -/
def execPairLoRead (r : Requester) (a : DWord) (s : State) : Host.Outcome State Fault Refusal := .next (regRead s r a)

/-- PAIR_LO_WRITE (R9). -/
def execPairLoWrite (r : Requester) (a : DWord) (v : Word) (s : State) : Host.Outcome State Fault Refusal :=
  .next (regWrite s r a v)

end Sys2Proof.Machine
end

