-- ==== Sys2Proof/Machine/Access.lean ====
section
/-! DEFINITION. The rows that are a write of one register by a requester: each has its effect only where the requester may
write that register (R323, R329, R390, R414, R447, R470, R472), and otherwise changes nothing; the reply or fault that a
refused host or sequencer access gets belongs to its own row (HostOps, SeqBus). -/

namespace Sys2Proof.Machine

/-- What a write of a register does, `t`, where the requester may make it; else nothing. -/
def asked (s : State) (r : Requester) (p : Page) (off : Nat) (t : State) : State := if mayWrite s r p off then t else s

/-- BLOCK_ENABLE (R30). -/
def execBlockEnable (r : Requester) (p : Page) (on : Bool) (s : State) : Host.Outcome State Fault Refusal :=
  if s.pageOk p then
    .next (asked s r p 0x008 (ctrlWrite s p (BitVec.ofNat 32 (bit on + s.fld p 0x008 2 2 * 4))))
  else .fault .absentStack

/-- QUIESCE (R30). -/
def execQuiesce (r : Requester) (p : Page) (on : Bool) (s : State) : Host.Outcome State Fault Refusal :=
  if s.pageOk p then
    .next (asked s r p 0x008 (ctrlWrite s p (BitVec.ofNat 32 (s.fld p 0x008 0 0 + bit on * 4))))
  else .fault .absentStack

/-- SOFT_RST (R31). -/
def execSoftRst (r : Requester) (p : Page) (s : State) : Host.Outcome State Fault Refusal :=
  if s.pageOk p then .next (asked s r p 0x008 (softReset s p)) else .fault .absentStack

/-- EVT_CLR (R32). -/
def execEvtClr (r : Requester) (p : Page) (v : Word) (s : State) : Host.Outcome State Fault Refusal :=
  if s.pageOk p then .next (asked s r p 0x01C (evtClear s p v)) else .fault .absentStack

/-- OPEN_STEP (R39). -/
def execOpenStep (r : Requester) (st : Fin 8) (s : State) : Host.Outcome State Fault Refusal :=
  if s.has st then .next (asked s r (clpPage st) 0x040 (clpCmd s st 1)) else .fault .absentStack

/-- REDUCE_BEGIN (R39). -/
def execReduceBegin (r : Requester) (st : Fin 8) (s : State) : Host.Outcome State Fault Refusal :=
  if s.has st then .next (asked s r (clpPage st) 0x040 (clpCmd s st 2)) else .fault .absentStack

/-- ARM (R39). -/
def execArm (r : Requester) (st : Fin 8) (s : State) : Host.Outcome State Fault Refusal :=
  if s.has st then .next (asked s r (clpPage st) 0x040 (clpCmd s st 3)) else .fault .absentStack

/-- ABANDON (R40). -/
def execAbandon (r : Requester) (st : Fin 8) (s : State) : Host.Outcome State Fault Refusal :=
  if s.has st then .next (asked s r (clpPage st) 0x040 (clpCmd s st 4)) else .fault .absentStack

/-- OPEN_EVAL (R51). -/
def execOpenEval (r : Requester) (st : Fin 8) (s : State) : Host.Outcome State Fault Refusal :=
  if s.has st then .next (asked s r (clpPage st) 0x040 (clpCmd s st 5)) else .fault .absentStack

/-- CLOSE_EVAL (R39). -/
def execCloseEval (r : Requester) (st : Fin 8) (s : State) : Host.Outcome State Fault Refusal :=
  if s.has st then .next (asked s r (clpPage st) 0x040 (clpCmd s st 6)) else .fault .absentStack

/-- TNS_RUN (R54). -/
def execTnsRun (r : Requester) (st : Fin 8) (s : State) : Host.Outcome State Fault Refusal :=
  if s.has st then .next (asked s r (tnsPage st) 0x040 (tnsStart s st)) else .fault .absentStack

/-- TNS_STOP (R67). -/
def execTnsStop (r : Requester) (st : Fin 8) (s : State) : Host.Outcome State Fault Refusal :=
  if s.has st then .next (asked s r (tnsPage st) 0x040 (tnsHalt s st)) else .fault .absentStack

/-- TNS_SLOT_CFG (R61). -/
def execTnsSlotCfg (r : Requester) (st : Fin 8) (v : Word) (s : State) : Host.Outcome State Fault Refusal :=
  if s.has st then .next (asked s r (tnsPage st) 0x094 (slotCfgWrite s st v)) else .fault .absentStack

/-- MX_CFG_WRITE (R113). -/
def execMxCfgWrite (r : Requester) (st : Fin 8) (c : Fin 56) (v : Word) (s : State) : Host.Outcome State Fault Refusal :=
  if s.has st then .next (asked s r (stackPage st .mx c.val) 0x040 (mxCfgWrite s st c.val v)) else .fault .absentStack

/-- FIL_CFG_WRITE (R262): a write of one of the registers that R262 holds. -/
def execFilCfgWrite (r : Requester) (st : Fin 8) (off : Nat) (v : Word) (s : State) : Host.Outcome State Fault Refusal :=
  if s.has st then
    .next (asked s r (filPage st) off (if filHeld off && off % 4 == 0 then writeReg s r (filPage st) off v else s))
  else .fault .absentStack

/-- HS_ENABLE (R261). -/
def execHsEnable (r : Requester) (st : Fin 8) (s : State) : Host.Outcome State Fault Refusal :=
  if s.has st then .next (asked s r (beadPage st) 0x080 (hsEnWrite s st true)) else .fault .absentStack

/-- HS_DISABLE (R261). -/
def execHsDisable (r : Requester) (st : Fin 8) (s : State) : Host.Outcome State Fault Refusal :=
  if s.has st then .next (asked s r (beadPage st) 0x080 (hsEnWrite s st false)) else .fault .absentStack

/-- RESEED (R282). -/
def execReseed (r : Requester) (st : Fin 8) (c : Fin 56) (s : State) : Host.Outcome State Fault Refusal :=
  if s.has st then .next (asked s r (stackPage st .rng c.val) 0x040 (requestReseed s st c.val)) else .fault .absentStack

/-- SRAM_REPAIR (R290). -/
def execSramRepair (r : Requester) (st : Fin 8) (bank : BitVec 6) (s : State) : Host.Outcome State Fault Refusal :=
  if s.has st then .next (asked s r (stackPage st .srm) 0x040 (sramRepair s st bank.toNat)) else .fault .absentStack

/-- SOFT_REPAIR (R297). -/
def execSoftRepair (r : Requester) (st : Fin 8) (dev : Fin 4) (s : State) : Host.Outcome State Fault Refusal :=
  if s.has st then .next (asked s r (stackPage st .mem dev.val) 0x048 (softRepair s st dev.val)) else .fault .absentStack

/-- REGION_WRITE (R299). -/
def execRegionWrite (r : Requester) (st : Fin 8) (v : Word) (s : State) : Host.Outcome State Fault Refusal :=
  if s.has st then .next (asked s r (xfrPage st) 0x058 (regionWrite s st v)) else .fault .absentStack

/-- SEQ_LOAD (R325). -/
def execSeqLoad (r : Requester) (st : Fin 8) (q : Fin 4) (s : State) : Host.Outcome State Fault Refusal :=
  if s.has st then .next (asked s r (stackPage st .seq q.val) 0x040 (seqLoad s st q)) else .fault .absentStack

/-- SEQ_START (R326). -/
def execSeqStart (r : Requester) (st : Fin 8) (q : Fin 4) (s : State) : Host.Outcome State Fault Refusal :=
  if s.has st then .next (asked s r (stackPage st .seq q.val) 0x040 (seqStart s st q)) else .fault .absentStack

/-- SEQ_STOP (R326). -/
def execSeqStop (r : Requester) (st : Fin 8) (q : Fin 4) (s : State) : Host.Outcome State Fault Refusal :=
  if s.has st then .next (asked s r (stackPage st .seq q.val) 0x040 (seqStop s st q)) else .fault .absentStack

/-- SEQ_RESUME (R326). -/
def execSeqResume (r : Requester) (st : Fin 8) (q : Fin 4) (s : State) : Host.Outcome State Fault Refusal :=
  if s.has st then .next (asked s r (stackPage st .seq q.val) 0x040 (seqResume s st q)) else .fault .absentStack

/-- SEQ_SAVE (R328). -/
def execSeqSave (r : Requester) (st : Fin 8) (q : Fin 4) (withData : Bool) (s : State) :
    Host.Outcome State Fault Refusal :=
  if s.has st then .next (asked s r (stackPage st .seq q.val) 0x040 (seqSave s st q withData)) else .fault .absentStack

/-- SEQ_RESTORE (R328). -/
def execSeqRestore (r : Requester) (st : Fin 8) (q : Fin 4) (s : State) : Host.Outcome State Fault Refusal :=
  if s.has st then .next (asked s r (stackPage st .seq q.val) 0x040 (seqRestore s st q)) else .fault .absentStack

/-- SEQ_CLEAR (R326). -/
def execSeqClear (r : Requester) (st : Fin 8) (q : Fin 4) (s : State) : Host.Outcome State Fault Refusal :=
  if s.has st then .next (asked s r (stackPage st .seq q.val) 0x040 (seqClear s st q)) else .fault .absentStack

/-- REBIND (R330). -/
def execRebind (r : Requester) (st : Fin 8) (v : Word) (s : State) : Host.Outcome State Fault Refusal :=
  if s.has st then .next (asked s r (stackPage st .arb) 0x088 (rebindGo s r st v)) else .fault .absentStack

/-- ARB_SUBMIT (R335). -/
def execArbSubmit (r : Requester) (st : Fin 8) (v : Word) (s : State) : Host.Outcome State Fault Refusal :=
  if s.has st then .next (asked s r (stackPage st .arb) 0x040 (arbSubmitWrite s r st v)) else .fault .absentStack

/-- NET_CFG_WRITE (R375). -/
def execNetCfgWrite (r : Requester) (st : Fin 8) (port : Fin 2) (v : Word) (s : State) :
    Host.Outcome State Fault Refusal :=
  if s.has st then
    .next (asked s r (stackPage st .net port.val) 0x040 (netCfgWrite s st port.val v))
  else .fault .absentStack

/-- KXT_OPEN_GO (R363). -/
def execKxtOpenGo (r : Requester) (st : Fin 8) (s : State) : Host.Outcome State Fault Refusal :=
  if s.has st then .next (asked s r (stackPage st .kxt) 0x08C (kxtOpenGo s r st)) else .fault .absentStack

/-- CHAN_READY (R367). -/
def execChanReady (r : Requester) (st : Fin 8) (v : Word) (s : State) : Host.Outcome State Fault Refusal :=
  if s.has st then .next (asked s r (stackPage st .kxt) 0x098 (chanReadyWrite s st v)) else .fault .absentStack

/-- MBX_DB_SET (R386). -/
def execMbxDbSet (r : Requester) (st : Fin 8) (mb : Fin 64) (v : Word) (s : State) : Host.Outcome State Fault Refusal :=
  if s.has st then
    .next (asked s r (stackPage st .mbx (mb.val / 16)) (0x210 + mb.val % 16 * 0x20) (ringBits s st mb v))
  else .fault .absentStack

/-- IDENTITY (R415). -/
def execIdentity (r : Requester) (st : Fin 8) (s : State) : Host.Outcome State Fault Refusal :=
  if s.has st then .next (asked s r (bzlPage st) 0x040 (bzlGo s st 1)) else .fault .absentStack

/-- ATTEST (R405). -/
def execAttest (r : Requester) (st : Fin 8) (s : State) : Host.Outcome State Fault Refusal :=
  if s.has st then .next (asked s r (bzlPage st) 0x040 (bzlGo s st 2)) else .fault .absentStack

/-- CUSTODY (R408). -/
def execCustody (r : Requester) (st : Fin 8) (s : State) : Host.Outcome State Fault Refusal :=
  if s.has st then .next (asked s r (bzlPage st) 0x040 (bzlGo s st 3)) else .fault .absentStack

/-- CONFIG (R409). -/
def execConfig (r : Requester) (st : Fin 8) (s : State) : Host.Outcome State Fault Refusal :=
  if s.has st then .next (asked s r (bzlPage st) 0x040 (bzlGo s st 4)) else .fault .absentStack

/-- SEAL_EK (R410). -/
def execSealEk (r : Requester) (st : Fin 8) (s : State) : Host.Outcome State Fault Refusal :=
  if s.has st then .next (asked s r (bzlPage st) 0x040 (bzlGo s st 5)) else .fault .absentStack

/-- SEAL_KEY (R410). -/
def execSealKey (r : Requester) (st : Fin 8) (s : State) : Host.Outcome State Fault Refusal :=
  if s.has st then .next (asked s r (bzlPage st) 0x040 (bzlGo s st 6)) else .fault .absentStack

/-- SEAL_DROP (R410). -/
def execSealDrop (r : Requester) (st : Fin 8) (s : State) : Host.Outcome State Fault Refusal :=
  if s.has st then .next (asked s r (bzlPage st) 0x040 (bzlGo s st 7)) else .fault .absentStack

/-- DEBUG (R413). -/
def execDebug (r : Requester) (st : Fin 8) (s : State) : Host.Outcome State Fault Refusal :=
  if s.has st then .next (asked s r (bzlPage st) 0x040 (bzlGo s st 8)) else .fault .absentStack

/-- FW_UPDATE (R403). -/
def execFwUpdate (r : Requester) (st : Fin 8) (s : State) : Host.Outcome State Fault Refusal :=
  if s.has st then .next (asked s r (bzlPage st) 0x040 (bzlGo s st 9)) else .fault .absentStack

/-- PWR_DOM_REQ (R453). -/
def execPwrDomReq (r : Requester) (st : Fin 8) (v : Word) (s : State) : Host.Outcome State Fault Refusal :=
  if s.has st then .next (asked s r (pwrPage st) 0x040 (domRequest s st v)) else .fault .absentStack

/-- PWR_CTL_RESET (R463). -/
def execPwrCtlReset (r : Requester) (st : Fin 8) (s : State) : Host.Outcome State Fault Refusal :=
  if s.has st then
    .next (asked s r (pwrPage st) 0x058 (if s.mod.pwr.resetHeld ∨ s.mod.pwr.thermtripN then s else ctlReset s st))
  else .fault .absentStack

/-- LOCKET_CURSOR_WRITE (R444). -/
def execLocketCursorWrite (r : Requester) (win : Bool) (lo : Word) (s : State) : Host.Outcome State Fault Refusal :=
  .next (asked s r lktPage (if win then 0x108 else 0x088) (cursorWrite s win lo))

/-- LOCKET_SNAP (R445). -/
def execLocketSnap (r : Requester) (win : Bool) (s : State) : Host.Outcome State Fault Refusal :=
  .next (asked s r lktPage (if win then 0x100 else 0x080) (snap s win))

/-- LKT_FW_GO (R447). -/
def execLktFwGo (r : Requester) (s : State) : Host.Outcome State Fault Refusal :=
  .next (asked s r lktPage 0x19C (fwGo s))

/-- PWR_SLEEP (R462). -/
def execPwrSleep (r : Requester) (v : Word) (s : State) : Host.Outcome State Fault Refusal :=
  .next (asked s r pwrmPage 0x048 (sleepGo s v))

/-- RTC_SET (R456). -/
def execRtcSet (r : Requester) (lo : Word) (s : State) : Host.Outcome State Fault Refusal :=
  .next (asked s r pwrmPage 0x070 (rtcSet s lo))

/-- CAL_COPY (R469). -/
def execCalCopy (r : Requester) (s : State) : Host.Outcome State Fault Refusal :=
  .next (asked s r calPage 0x050 (calCopy s))

/-- CAL_COMMIT (R469). -/
def execCalCommit (r : Requester) (s : State) : Host.Outcome State Fault Refusal :=
  .next (asked s r calPage 0x050 (calCommit s))

/-- CAL_DISCARD (R472). -/
def execCalDiscard (r : Requester) (s : State) : Host.Outcome State Fault Refusal :=
  .next (asked s r calPage 0x050 (calDiscard s))

/-- The key store of a stack is written through any of its RNG pages (R283). -/
def askedKey (s : State) (r : Requester) (st : Fin 8) (t : State) : State :=
  if (List.range 56).any fun c => mayWrite s r (stackPage st .rng c) 0x0A0 then t else s

/-- KEY_COMMIT_STEP (R269). -/
def execKeyCommitStep (r : Requester) (st : Fin 8) (s : State) : Host.Outcome State Fault Refusal :=
  if s.has st then .next (askedKey s r st (commitStepKey s st)) else .fault .absentStack

/-- KEY_COMMIT_EVAL (R269). -/
def execKeyCommitEval (r : Requester) (st : Fin 8) (s : State) : Host.Outcome State Fault Refusal :=
  if s.has st then .next (askedKey s r st (commitEvalKey s st)) else .fault .absentStack

end Sys2Proof.Machine
end

