-- ==== Sys2Proof/Machine/Cadence.lean ====
section
/-! DEFINITION. The tick edge (R55, R61 to R64) and the confirming edge (R54): the events whose slots fire take effect in ascending slot
order. -/

namespace Sys2Proof.Machine

/-- A maintenance event (R337): activities of the part as a whole go to the arbiter of stack 0. -/
def maintenanceEvent (s : State) (st : Fin 8) (act : Nat) : State :=
  (submit s (if act = 11 ∨ act = 12 then 0 else st) 0 act 0xFFFF).1

/-- The effect of a slot that fires (R62). -/
def fireEffect (st : Fin 8) (s : State) (f : Firing) : State :=
  match f.kind with
  | 1 => claspEvent s st f.pos
  | 2 => evalEvent s st f.slot
  | 3 => collEvent s st f.target
  | 4 => ckptEvent s st
  | 5 => refreshEvent s st f.target
  | 6 => maintenanceEvent s st f.target
  | 7 => ringBits s st f.target (BitVec.ofNat 32 (2 ^ f.bit))
  | _ => s

/-- The events of slots that have fired take effect in order. -/
def fireAll (st : Fin 8) (p : State × List Firing) : State := p.2.foldl (fireEffect st) p.1

/-- A tick edge. -/
def tick (s : State) (st : Fin 8) : State := fireAll st (tickEdge s st)

/-- TICK (R55). -/
def execTick (st : Fin 8) (s : State) : Host.Outcome State Fault Refusal :=
  if s.has st then .next (tick s st) else .fault .absentStack

/-- The unit of a stack locks: it was acquiring, or LOST, and is LOCKED after. -/
def locksAt (s t : State) (st : Fin 8) : Bool :=
  ((s.st st).tns.lock == .acquiring || (s.st st).tns.lock == .lost) && (t.st st).tns.lock == .locked

/-- Tick 0 of its beat starts at the confirming edge (R54): the slots are evaluated there. `t` is the state `s` after the
edge. -/
def confirmTick (s t : State) (st : Fin 8) : State := if locksAt s t st then fireAll st (evalSlots t st) else t

/-- BEAT_EDGE (R53, R54, R56). -/
def execBeatEdge (st : Fin 8) (t : Nat) (s : State) : Host.Outcome State Fault Refusal :=
  if s.has st then .next (confirmTick s (beatCrossing s st t) st) else .fault .absentStack

end Sys2Proof.Machine
end

