-- ==== Sys2Proof/Machine/SeqBus.lean ====
section
/-! DEFINITION. What the sequencers do outside themselves (R315, R323, R325): LDG, STG, RDR, WRR, and the end of LOAD. -/

namespace Sys2Proof.Machine

/-! ### Memory (R323) -/

/-- A memory error of a sequencer's own access. -/
def seqMemFault (s : State) (st : Fin 8) (n : Fin 4) (e : MemErr) : State :=
  match e with
  | .region det rgn a => seqFault s st n 0x0A det rgn a
  | .ecc a => seqFault (countUe s a) st n 0x02 0x11 0 a

/-- LDG begins: its address is checked, and the sequencer waits for the data. -/
def ldgBody (st : Fin 8) (n : Fin 4) (s : State) (w : DWord) : State :=
  let a := (s.seq st n).sum w
  if a.toNat % 8 ≠ 0 ∨ inMemory s st a.toNat 8 = false then seqFault s st n 0x0A 0x24 0 a.toNat
  else match regionCheck s st (seqPlan s st n) false false a.toNat 8 with
    | some e => seqMemFault s st n e
    | none => seqHold s st n (.ldg a)

/-- LDG. -/
def execLdg (st : Fin 8) (q : Fin 4) (s : State) : Host.Outcome State Fault Refusal := issue 0x22 (ldgBody st q) st q s

/-- LDG_RETURN: the data stands in g[RD], or cannot be read. -/
def ldgReturn (s : State) (st : Fin 8) (n : Fin 4) : State :=
  let q := s.seq st n
  match q.wait with
  | .ldg a =>
    if q.st = .running ∧ s.swapping st 6 n.val = false then
      match readFailure s a.toNat 8 with
      | some f => seqMemFault s st n (.ecc f)
      | none => seqDo (waitEnded s st n) st n fun q =>
          q.setGpr (ksqRd q.instr) (BitVec.ofNat 64 (leNat (s.bytes a.toNat 8)))
    else s
  | _ => s

/-- LDG_RETURN. -/
def execLdgReturn (st : Fin 8) (q : Fin 4) (s : State) : Host.Outcome State Fault Refusal :=
  if s.has st then .next (ldgReturn s st q) else .fault .absentStack

/-- STG. -/
def stgBody (st : Fin 8) (n : Fin 4) (s : State) (w : DWord) : State :=
  let a := (s.seq st n).sum w
  if a.toNat % 8 ≠ 0 ∨ inMemory s st a.toNat 8 = false then seqFault s st n 0x0A 0x24 0 a.toNat
  else match engWrite s st (seqPlan s st n) false a.toNat (leBytes ((s.seq st n).gpr (ksqRd w)).toNat 8) with
    | (s1, some e) => seqMemFault s1 st n e
    | (s1, none) => seqDo s1 st n id

/-- STG. -/
def execStg (st : Fin 8) (q : Fin 4) (s : State) : Host.Outcome State Fault Refusal := issue 0x23 (stgBody st q) st q s

/-! ### Registers (R323) -/

/-- A sequencer as it arrives at a page: under its own index in its stack, over Jukan at a module page of another. -/
def seqRequester (st : Fin 8) (n : Fin 4) (p : Page) : Requester := if p.home = st then .seq n else .jukan (.seq st n)

/-- Whether a sequencer's register address lies in its own stack or names the stack field 0xF, on a register. -/
def seqReaches (st : Fin 8) (a : Nat) : Bool := (stackField a == st.val || stackField a == 15) && a % 4 == 0

/-- RDR begins: its address is checked, and the sequencer waits for the value. -/
def rdrBody (st : Fin 8) (n : Fin 4) (s : State) (w : DWord) : State :=
  let a := (s.seq st n).sum w
  if seqReaches st a.toNat = false ∨ regSource s (.seq n) a.toNat = none then seqFault s st n 0x0A 0x24 0 a.toNat
  else seqHold s st n (.rdr a)

/-- RDR. -/
def execRdr (st : Fin 8) (q : Fin 4) (s : State) : Host.Outcome State Fault Refusal := issue 0x24 (rdrBody st q) st q s

/-- RDR_RETURN: the register is read and its value stands in g[RD]. -/
def rdrReturn (s : State) (st : Fin 8) (n : Fin 4) : State :=
  let q := s.seq st n
  match q.wait with
  | .rdr a =>
    match regSource s (.seq n) a.toNat with
    | some (p, _) =>
      if q.st = .running ∧ s.swapping st 6 n.val = false then
        let (v, s1) := readReg s (seqRequester st n p) p (a.toNat % 4096)
        seqDo (waitEnded s1 st n) st n fun q => q.setGpr (ksqRd q.instr) (v.setWidth 64)
      else s
    | none => s
  | _ => s

/-- RDR_RETURN. -/
def execRdrReturn (st : Fin 8) (q : Fin 4) (s : State) : Host.Outcome State Fault Refusal :=
  if s.has st then .next (rdrReturn s st q) else .fault .absentStack

/-- WRR: with the stack field 0xF and a per-stack page, the write is made in every populated stack and needs the binding in each
(R28). -/
def wrrBody (st : Fin 8) (n : Fin 4) (s : State) (w : DWord) : State :=
  let a := ((s.seq st n).sum w).toNat
  let v : Word := ((s.seq st n).gpr (ksqRd w)).setWidth 32
  let no := (offsetOf a - 0x7F0000000000) / 4096
  match regTargets s (.jukan (.seq st n)) a with
  | none => seqFault s st n 0x0A 0x24 0 a
  | some ts =>
    let ts1 := match ts with
      | [(p, _)] => [(p, seqRequester st n p)]
      | ts => ts
    if seqReaches st a = false then seqFault s st n 0x0A 0x24 0 a
    else if (ts1.all fun e => mayWrite s e.2 e.1 (a % 4096)) = false then seqFault s st n 0x0A 0x25 no a
    else writeAt (seqDo s st n id) ts1 (a % 4096) v

/-- WRR. -/
def execWrr (st : Fin 8) (q : Fin 4) (s : State) : Host.Outcome State Fault Refusal := issue 0x25 (wrrBody st q) st q s

/-! ### LOAD (R325, R404, R412) -/

/-- The byte offset of the first field of an image's header that breaks R325's table. -/
def imageBad (h : List Byte) : Option Nat :=
  let n := fun i k => leNat (slice h i k)
  let code := n 8 4
  if n 0 4 ≠ 0x5051534B then some 0
  else if n 4 2 ≠ 1 then some 4
  else if n 6 2 = 0 ∨ n 6 2 = 0xFFFF then some 6
  else if code < 8 ∨ 262144 < code ∨ code % 8 ≠ 0 then some 8
  else if 65536 < n 12 4 ∨ n 12 4 % 8 ≠ 0 then some 12
  else if code / 8 ≤ n 16 4 then some 16
  else if n 20 44 ≠ 0 then some 20
  else none

/-- The status of a sequencer as SEQ_STAT shows it. -/
def seqStatus (s : State) (st : Fin 8) (n : Fin 4) : Nat := (viewSeq s st n 0x044).getD 0

/-- The reply to a PLAN_LOAD or PLAN_START (R360, R362): STATE with SEQ_STAT and FAULT_CODE where it did not succeed. -/
def planReply (s : State) (st : Fin 8) (n : Fin 4) (opc : Nat) (to_ : Nat × BitVec 16 × DWord) (ok : Bool) : State :=
  let data := if ok then [] else leBytes (seqStatus s st n) 4 ++ leBytes (s.reg (seqPage st n) 0x020).toNat 4
  match sidTarget s to_.1 with
  | some (i, c) =>
    if (s.sess i c).st = .opened ∨ (s.sess i c).st = .closing then
      sendOp s i c (opBytes opc 1 to_.2.1.toNat (if ok then 0 else 9) to_.2.2 data)
    else s
  | none => s

/-- The reply that waits for the LOAD under way, if one does, is sent. -/
def loadAnswer (s : State) (st : Fin 8) (n : Fin 4) (waits : Option (Nat × BitVec 16 × DWord)) (ok : Bool) : State :=
  match waits with
  | some w => planReply s st n 0x05 w ok
  | none => s

/-- A LOAD that faults leaves the state EMPTY (R325). -/
def loadFault (s : State) (st : Fin 8) (n : Fin 4) (cls det high addr : Nat) : State :=
  let waits := (s.seq st n).loadReply
  loadAnswer ((seqFault s st n cls det high addr).modSeq st n Seq.cleared) st n waits false

/-- The primary numbers and measures a LOAD (R404). -/
def measureLoad (s : State) (st : Fin 8) (n : Fin 4) (plan : Nat) (hash : List Byte) : State :=
  let b := s.mod.bzl
  let s1 := measExtend s 3 (leBytes st.val 1 ++ leBytes n.val 1 ++ leBytes plan 2 ++ [0, 0, 0, 0] ++
    leBytes b.loadSeq.toNat 8 ++ hash)
  s1.modBzl fun b => { b with
    loadSeq := b.loadSeq + 1
    loads := Sparse.set (fun _ => (0, 0)) b.loads (4 * st.val + n.val) (b.loadSeq, BitVec.ofNat 512 (leNat hash)) }

/-- A sequencer holding an image's code and data, everything else zero (R325). -/
def Seq.holding (q : Seq) (h code data : List Byte) : Seq :=
  let words := (List.range (code.length / 8)).map fun i => (BitVec.ofNat 64 (leNat (slice code (8 * i) 8)) : DWord)
  { q.cleared with
    st := .ready, istore := Sparse.setList (fun _ => 0) [] 0 words, dstore := Sparse.setList (fun _ => 0) [] 0 data,
    entry := BitVec.ofNat 15 (leNat (slice h 16 4)), plan := BitVec.ofNat 16 (leNat (slice h 6 2)) }

/-- The end of a LOAD. -/
def loadDone (s : State) (st : Fin 8) (n : Fin 4) : State :=
  let a := s.pair (seqPage st n) 0x048
  if inMemory s st a 64 = false then loadFault s st n 0x0A 0x24 0 a
  else if readFailure s a 64 ≠ none then loadFault (countUe s a) st n 0x02 0x11 0 a
  else
    let h := s.bytes a 64
    let plan := leNat (slice h 6 2)
    let code := leNat (slice h 8 4)
    let len := code + leNat (slice h 12 4)
    match imageBad h with
    | some i => loadFault s st n 0x0A 0x28 i a
    | none =>
      if plan ≠ seqPlan s st n then loadFault s st n 0x0A 0x29 plan a
      else if inMemory s st a (64 + len) = false then loadFault s st n 0x0A 0x24 0 a
      else match readFailure s a (64 + len) with
        | some f => loadFault (countUe s f) st n 0x02 0x11 0 f
        | none =>
          let body := s.bytes (a + 64) len
          let hash := shake (h ++ body) 64
          if s.mod.bzl.sealed ∧ s.mod.bzl.plans.contains (BitVec.ofNat 512 (leNat hash)) = false then
            bzlFault (loadFault s st n 0x0A 0x29 plan a) 0x04 (plan + st.val * 2 ^ 16 + n.val * 2 ^ 20)
          else
            let waits := (s.seq st n).loadReply
            let s1 := (measureLoad s st n plan hash).modSeq st n fun q => q.holding h (body.take code) (body.drop code)
            loadAnswer (raiseEvt s1 (seqPage st n) 5) st n waits true

/-- SEQ_LOAD_DONE (R325). -/
def execSeqLoadDone (st : Fin 8) (q : Fin 4) (s : State) : Host.Outcome State Fault Refusal :=
  if s.has st then .next (if (s.seq st q).st = .loading then loadDone s st q else s) else .fault .absentStack

end Sys2Proof.Machine
end

