-- ==== Sys2Proof/Machine/HostOps.lean ====
section
/-! DEFINITION. The operations of Kearax Transport sessions (R355, R359 to R362, R365, R391, R392, R402, R411): how a DATA packet
executes, and what each operation does and answers. -/

namespace Sys2Proof.Machine

/-! ### Answers (R359 to R362) -/

/-- A session that can still be answered. -/
def answerable (s : State) (st : Fin 8) (ctx : Nat) : Bool :=
  (s.sess st ctx).st == .opened || (s.sess st ctx).st == .closing

/-- The reply to an operation: its OPC, REQ and ADDR come back with RESP set (that ADDR comes back is assumption 22). -/
def reply (s : State) (st : Fin 8) (ctx : Nat) (op : HostOp) (status : Nat) (data : List Byte) (sealedFlag : Nat := 0) :
    State :=
  if answerable s st ctx then
    sendOp s st ctx (opBytes op.opc.toNat (1 + sealedFlag) op.req.toNat status op.addr data)
  else s

/-- The roles that may send an operation (R360): none for what only the part sends, and no answer for a reserved OPC. -/
def opRoles : Nat → Option (List Nat)
  | 0x01 | 0x02 | 0x03 | 0x04 | 0x05 | 0x06 | 0x07 | 0x08 => some [1]
  | 0x09 | 0x10 | 0x11 | 0x12 => some []
  | 0x13 => some [2]
  | 0x20 => some [3]
  | 0x30 => some [1, 3]
  | 0x3F => some [1, 2, 3]
  | _ => none

/-- What the recovery carries out (R402). -/
def recoveryAllows (opc : Nat) (op : HostOp) : Bool :=
  let a := op.addr.toNat
  let n := max 1 op.data.length
  let page := 0x7F0000000000 + 0x380 * 4096
  match opc with
  | 0x3F => true
  | 0x01 | 0x02 => page ≤ a && a + n ≤ page + 4096
  | 0x03 => 0x400000000000 ≤ a && a + n ≤ 0x400002000000
  | _ => false

/-- The plaintext of a sealed request (R411): none where the slot is empty, the tag fails or SEQ is not above the last one
accepted, which is recorded as SEAL_REPLAY. -/
def openSealed (s : State) (op : HostOp) : State × Option (List Byte) :=
  let h := op.data.take 16
  let n := leNat (slice h 0 1)
  let seq := leNat (slice h 4 8)
  let k := s.slot n
  if op.data.length < 32 ∨ 16 ≤ n ∨ k.filled = false ∨ leNat (slice h 1 3) ≠ 0 ∨ leNat (slice h 12 4) ≠ 0 then (s, none)
  else match Config.gcmOpen (bytes256 k.dk) (sealNonce 0 seq)
      (sealAad op.opc.toNat op.flags.toNat op.data.length op.addr) (op.data.drop 16) with
    | none => (s, none)
    | some pt =>
      if seq ≤ k.inSeq.toNat then (bzlFault s 0x05 n, none)
      else (s.modSlot n fun k => { k with inSeq := BitVec.ofNat 64 seq }, some (slice pt 0 (op.data.length - 32)))

/-- What carrying out an operation gives: the state, and the reply's status and data where one is due at once. -/
abbrev OpAnswer := State × Option (Nat × List Byte)

/-- A request as it arrives (R359 to R362, R402, R411, R412): replies are not requests, and one that may not be made is refused;
the data of a sealed one is opened first. A MEM_RD opens its own. -/
def request (opc : Nat) (body : State → HostOp → OpAnswer) (s : State) (st : Fin 8) (ctx : Nat) (op0 : HostOp) : State :=
  let op := { op0 with opc := BitVec.ofNat 8 opc }
  let isSealed := bitAt op.flags.toNat 1
  let finishOp := fun (r : OpAnswer) =>
    match r.2 with
    | some (status, data) => reply r.1 st ctx op status data
    | none => r.1
  if answerable s st ctx = false ∨ bitAt op.flags.toNat 0 = true then s
  else if 4 ≤ op.flags.toNat ∨ opRoles opc = none then reply s st ctx op 0x08 []
  else if s.mod.bzl.recovery = true ∧ recoveryAllows opc op = false then reply s st ctx op 0x08 []
  else if ((opRoles opc).getD []).contains (s.sess st ctx).role = false then reply s st ctx op 0x06 []
  else if (opc = 3 ∨ opc = 4) ∧ s.mod.bzl.sealed = true ∧ isSealed = false then reply s st ctx op 0x0C []
  else if isSealed = true ∧ opc ≠ 4 then
    match openSealed s op with
    | (s1, none) => reply s1 st ctx op 0x0C []
    | (s1, some data) => finishOp (body s1 { op with data := data })
  else finishOp (body s op)

/-! ### Reach (R3, R25, R28, R361) -/

/-- An operation of stack `st` carried out at stack `t`: requester index 6 there, or 7 over Jukan (R361). -/
def hostAt (st t : Fin 8) : Requester := if t = st then .host else .jukan .host

/-- Why an address cannot be reached from a stack, before what it holds is looked at: an unpopulated stack or an address bit
above 51, or a failed Jukan port on the way. The stack field 0xF reaches every stack with `all`, and else stack 0. -/
def unreachable (s : State) (st : Fin 8) (a : Nat) (all : Bool) : Option Nat :=
  if a / 2 ^ 52 ≠ 0 ∨ (stackField a ≠ 15 ∧ s.has (stackField a) = false) then some 0x01
  else
    let ends := if stackField a ≠ 15 then [stackField a] else if all then s.stacksIn.map (·.val) else [0]
    if ends.any fun t => (routeFail s st.val t).isSome then some 0x10 else none

/-! ### Registers (R361) -/

/-- The registers of an operation: for each word its targets and offset, or the status that refuses the whole. -/
def regTargetsAll (s : State) (st : Fin 8) (a : Nat) (write : Bool) : Nat → Except Nat (List (List (Page × Requester) × Nat))
  | 0 => .ok []
  | k + 1 => do
    let rest ← regTargetsAll s st a write k
    let b := a + 4 * k
    match regTargets s .host b with
    | none => .error 0x02
    | some ts =>
      let spread := decide (stackField b = 15) && !(ts.any fun e => e.1.stk == 15)
      let reqs := if spread then ts else ts.map fun e => (e.1, hostAt st e.1.home)
      if spread = true ∧ write = false then .error 0x02
      else if spread = true ∧ (unreachable s st b true).isSome then .error 0x10
      else if write = true ∧ (reqs.all fun e => mayWrite s e.2 e.1 (b % 4096)) = false then .error 0x0F
      else .ok (rest ++ [(reqs, b % 4096)])

/-- The words of data, in order. -/
def wordsOf (n : Nat) (bs : List Byte) : List Word := (List.range n).map fun i => BitVec.ofNat 32 (leNat (slice bs (4 * i) 4))

/-- A register operation's address and length: its status where they refuse it. -/
def regRefusal (s : State) (st : Fin 8) (op : HostOp) : Option Nat :=
  match unreachable s st op.addr.toNat false with
  | some e => some e
  | none => if op.addr.toNat % 4 ≠ 0 ∨ op.data.length % 4 ≠ 0 then some 0x03 else none

/-- REG_RD: DLEN is how many bytes to read. -/
def regRdBody (st : Fin 8) (s : State) (op : HostOp) : OpAnswer :=
  let n := op.data.length
  match regRefusal s st op with
  | some e => (s, some (e, []))
  | none =>
    if n < 4 ∨ 1024 < n then (s, some (0x07, []))
    else match regTargetsAll s st op.addr.toNat false (n / 4) with
      | .error e => (s, some (e, []))
      | .ok ts =>
        let (s1, bs) := ts.foldl (fun (acc : State × List Byte) (t : List (Page × Requester) × Nat) =>
          match t.1 with
          | (p, r) :: _ =>
            let (v, s1) := readReg acc.1 r p t.2
            (s1, acc.2 ++ leBytes v.toNat 4)
          | [] => acc) (s, [])
        (s1, some (0, bs))

/-- REG_WR: a word that may not be written refuses the whole. -/
def regWrBody (st : Fin 8) (s : State) (op : HostOp) : OpAnswer :=
  let n := op.data.length / 4
  match regRefusal s st op with
  | some e => (s, some (e, []))
  | none =>
    match regTargetsAll s st op.addr.toNat true n with
    | .error e => (s, some (e, []))
    | .ok ts => ((ts.zip (wordsOf n op.data)).foldl (fun s e => writeAt s e.1.1 e.1.2 e.2) s, some (0, []))

/-! ### Memory (R301, R361) -/

/-- The stacks a bulk operation is carried out in, or the status that refuses it. -/
def memStacks (s : State) (st : Fin 8) (a n : Nat) (write : Bool) : Except Nat (List (Fin 8)) :=
  match unreachable s st a true with
  | some e => .error e
  | none =>
    if a % 16 ≠ 0 ∨ n % 16 ≠ 0 then .error 0x03
    else
      let wide := decide (stackField a = 15)
      match rangePlace s (if wide then offsetOf a else a) (max 1 n) with
      | none | some .regs => .error 0x02
      | some (.panel _) => if wide then .error 0x02 else .ok [stackOf a]
      | some _ => if wide then (if write then .ok s.stacksIn else .error 0x02) else .ok [stackOf a]

/-- The valid regions that a range of a stack touches. -/
def regionsIn (s : State) (st : Fin 8) (off n : Nat) : List Region :=
  ((s.st st).regions.filter fun e => e.2.valid && regionsMeet e.2.base.toNat e.2.size.toNat off n).map (·.2)

/-- Why a host access is refused by the regions it touches (R301, R333). -/
def regionRefusal (s : State) (st : Fin 8) (off n : Nat) (write : Bool) : Option Nat :=
  let rs := regionsIn s st off n
  let free := (s.st st).clp.state == .idle || (s.st st).clp.state == .torn
  if rs.any fun r => decide (2 ≤ r.bst) then some 0x05
  else if write && !free && rs.any fun r => r.cp then some 0x04
  else none

/-- A host write carried out in one stack: into a CP region it first empties the hot set (R301). Answers whether every byte was
stored. -/
def hostWrite (s : State) (st : Fin 8) (off : Nat) (bs : List Byte) : State × Bool :=
  let a := st.val * 2 ^ 48 + off
  let s1 := if (regionsIn s st off bs.length).any fun r => r.cp then hotEmpty s st else s
  if bs = [] then (s, true)
  else if off < lpddrSize ∧ lpddrTrained s st = false then (s1, false)
  else match rawWrite s1 a bs with
    | (s2, none) => (s2, true)
    | (s2, some f) => (countUe s2 f, false)

/-- The status of an access that met an uncorrectable error or untrained memory: open (assumption 2). -/
def openStatus (s : State) : OpAnswer :=
  let (v, s1) := s.drawFree
  (s1, some (v.toNat % 2 ^ 16, []))

/-- MEM_WR: in every populated stack with the stack field 0xF (R28). -/
def memWrBody (st : Fin 8) (s : State) (op : HostOp) : OpAnswer :=
  let a := op.addr.toNat
  let n := op.data.length
  match memStacks s st a n true with
  | .error e => (s, some (e, []))
  | .ok ts =>
    match ts.findSome? fun t => regionRefusal s t (offsetOf a) n true with
    | some e => (s, some (e, []))
    | none =>
      let (s1, ok) := ts.foldl (fun (acc : State × Bool) t =>
        let (s1, ok) := hostWrite acc.1 t (offsetOf a) op.data
        (s1, acc.2 && ok)) (s, true)
      if ok then (s1, some (0, [])) else openStatus s1

/-- A MEM_RD's length in bytes 0 to 3 of its data, and with SEALED its slot in byte 4 (R360, R411). -/
def memRdBody (st : Fin 8) (ctx : Nat) (s : State) (op : HostOp) : OpAnswer :=
  let a := op.addr.toNat
  let isSealed := bitAt op.flags.toNat 1
  let n := leNat (slice op.data 0 4)
  let k := leNat (slice op.data 4 1)
  let c := s.sess st ctx
  let most := maxPayload s st c.port c.link - 16 - (if isSealed then 32 else 0)
  if op.data.length ≠ (if isSealed then 5 else 4) then (s, some (0x07, []))
  else if isSealed = true ∧ (16 ≤ k ∨ (s.slot k).filled = false) then (s, some (0x0C, []))
  else match memStacks s st a n false with
    | .error e => (s, some (e, []))
    | .ok ts =>
      let t := ts.headD 0
      if most < n then (s, some (0x07, []))
      else match regionRefusal s t (offsetOf a) n false with
        | some e => (s, some (e, []))
        | none =>
          match if n = 0 then none else readFailure s a n with
          | some f => openStatus (countUe s f)
          | none =>
            if isSealed then
              let (bs, s1) := sealOut s k op.opc.toNat 3 op.addr (s.bytes a n)
              (reply s1 st ctx op 0 bs 2, none)
            else (s, some (0, s.bytes a n))

/-! ### Plans (R360) -/

/-- The sequencer that a SEQ page address names, or the status that refuses the operation. -/
def planTarget (s : State) (st : Fin 8) (op : HostOp) (len : Nat) : Except Nat (Fin 8 × Fin 4) :=
  let a := op.addr.toNat
  match unreachable s st a false with
  | some e => .error e
  | none =>
    if op.data.length ≠ len then .error 0x07
    else match regTargets s .host a with
      | some [(p, _)] =>
        if h : p.blk = .seq ∧ a % 4096 = 0 ∧ p.inst < 4 then .ok (p.home, ⟨p.inst, h.2.2⟩) else .error 0x02
      | _ => .error 0x02

/-- PLAN_LOAD: the image address is written and LOAD begins; the reply waits for its end. A LOAD that is refused leaves the
image address as it was. -/
def planLoadBody (st : Fin 8) (ctx : Nat) (s : State) (op : HostOp) : OpAnswer :=
  match planTarget s st op 8 with
  | .error e => (s, some (e, []))
  | .ok (t, n) =>
    let waits := (sidOf st ctx, op.req, op.addr)
    let s1 := seqLoad s t n
    if (s1.seq t n).st = .loading ∧ (s.seq t n).st ≠ .loading then
      let img := leNat op.data
      let r := hostAt st t
      let s2 := writeReg s1 r (seqPage t n) 0x04C (BitVec.ofNat 32 (img / 2 ^ 32))
      let s3 := writeReg s2 r (seqPage t n) 0x048 (BitVec.ofNat 32 img)
      (s3.modSeq t n fun q => { q with loadReply := some waits }, none)
    else (planReply s1 t n 0x05 waits false, none)

/-- PLAN_START. -/
def planStartBody (st : Fin 8) (ctx : Nat) (s : State) (op : HostOp) : OpAnswer :=
  match planTarget s st op 0 with
  | .error e => (s, some (e, []))
  | .ok (t, n) =>
    let s1 := seqStart s t n
    let taken := (s.seq t n).st != .running && (s1.seq t n).st == .running
    (planReply s1 t n 0x06 (sidOf st ctx, op.req, op.addr) taken, none)

/-! ### Mailboxes (R391, R392) -/

/-- The stacks and requesters of a mailbox operation, or the status that refuses it. -/
def boxTargets (s : State) (st : Fin 8) (op : HostOp) : Except Nat (List (Fin 8 × Requester)) :=
  let a := op.addr.toNat
  match unreachable s st a true with
  | some e => .error e
  | none =>
    if op.data.length ≠ 4 then .error 0x07
    else if stackField a = 15 then .ok (s.stacksIn.map fun i => (i, crossing .host))
    else .ok [(stackOf a, hostAt st (stackOf a))]

/-- The status of a reply in whose parts every status is settled: the first other than OK, or OK. -/
def partsStatus (ps : List WaitPart) : Nat := ((ps.map fun p => p.ready.getD p.status).find? (· != 0)).getD 0

/-- MBX_WR: the status is fixed at the write, and the reply waits where the mailbox is not ready. -/
def mbxWrBody (st : Fin 8) (ctx : Nat) (s : State) (op : HostOp) : OpAnswer :=
  match boxTargets s st op with
  | .error e => (s, some (e, []))
  | .ok ts =>
    let mb := op.addr.toNat % 64
    let v : Word := BitVec.ofNat 32 (leNat op.data)
    let parts := ts.map fun e =>
      let status := if (s.box e.1 mb).full then 0x0A else 0
      ({ stk := e.1.val, status := status, ready := if boxReady s e.1 mb then some status else none } : WaitPart)
    let s1 := ts.foldl (fun s e => mboxSend s e.2 e.1 mb v) s
    if parts.all fun p => p.ready.isSome then (s1, some (partsStatus parts, []))
    else
      let w : WaitReply := { ctx := ctx, req := op.req, addr := op.addr, mb := mb, parts := parts }
      (s1.modSt st fun x => { x with replies := x.replies ++ [w] }, none)

/-- DOORBELL. -/
def doorbellBody (st : Fin 8) (s : State) (op : HostOp) : OpAnswer :=
  match boxTargets s st op with
  | .error e => (s, some (e, []))
  | .ok ts =>
    (ts.foldl (fun s e => ringBits s e.1 (op.addr.toNat % 64) (BitVec.ofNat 32 (leNat op.data))) s, some (0, []))

/-! ### Beat frames and collectives (R365, R368) -/

/-- A frame for the Tense units of every stack. -/
def frameToAll (s : State) (f : BeatFrame) : State :=
  s.stacksIn.foldl (fun s i => confirmTick s (tnsFrame s i f.beat.toNat (f.edge.toNat * 1000)) i) s

/-- A beat frame on a session of stack 0 at a time of the real-time clock. -/
def beatFrame (s : State) (ctx : Nat) (f : BeatFrame) (now : DWord) : State :=
  let k := kxtPage 0
  let late := s.fld k 0x104 15 0 * 1000
  if s.fld k 0x100 17 0 ≠ ctx then s
  else if f.edge.toNat ≤ now.toNat + 1000000000 ∧ now.toNat ≤ f.edge.toNat + late then frameToAll s f
  else raiseEvt (s.countSat k 0x108) k 8

/-- The frame that 32 bytes hold. -/
def frameOf (bs : List Byte) : BeatFrame :=
  { beat := BitVec.ofNat 48 (leNat (slice bs 0 8)), edge := BitVec.ofNat 64 (leNat (slice bs 8 8)),
    period := BitVec.ofNat 64 (leNat (slice bs 16 8)), leader := BitVec.ofNat 32 (leNat (slice bs 24 4)) }

/-- BEAT as a DATA packet carries it. -/
def beatBody (st : Fin 8) (ctx : Nat) (s : State) (op : HostOp) : OpAnswer :=
  if op.data.length ≠ 32 then (s, some (0x07, []))
  else if st = 0 then
    let (t, s1) := s.now
    (beatFrame s1 ctx (frameOf op.data) t, none)
  else (s, none)

/-- The segment that bytes hold. -/
def segmentOf (bs : List Byte) : Segment :=
  { chan := leNat (slice bs 0 2), phase := leNat (slice bs 2 1), flags := bs.getD 3 0, rank := leNat (slice bs 4 2),
    round := leNat (slice bs 6 2), step := BitVec.ofNat 64 (leNat (slice bs 8 8)), index := leNat (slice bs 16 4),
    w := toSigned 16 (leNat (slice bs 20 2)), data := slice bs 32 (leNat (slice bs 22 2)) }

/-- COLL: a segment goes to its channel. -/
def collBody (st : Fin 8) (ctx : Nat) (s : State) (op : HostOp) : OpAnswer :=
  if op.data.length < 32 ∨ op.data.length ≠ 32 + leNat (slice op.data 22 2) then (s, some (0x07, []))
  else
    let g := segmentOf op.data
    (if segOk s st ctx g.phase g = false then s
     else match g.phase with
      | 0 => startSegment s st g
      | 1 => reduceSegment s st g
      | 2 => gatherSegment s st g
      | 3 => voteSegment s st g
      | _ => s, none)

/-- CKPT_ACK as a DATA packet carries it. -/
def ckptAckBody (st : Fin 8) (ctx : Nat) (s : State) (op : HostOp) : OpAnswer :=
  (ckptAck s st ctx op.addr op.status.toNat, none)

/-! ### DATA (R355, R356) -/

/-- What an operation does once it may be made. -/
def opBody (opc : Nat) (st : Fin 8) (ctx : Nat) : State → HostOp → OpAnswer :=
  match opc with
  | 0x01 => regRdBody st
  | 0x02 => regWrBody st
  | 0x03 => memWrBody st
  | 0x04 => memRdBody st ctx
  | 0x05 => planLoadBody st ctx
  | 0x06 => planStartBody st ctx
  | 0x07 => mbxWrBody st ctx
  | 0x08 => doorbellBody st
  | 0x13 => ckptAckBody st ctx
  | 0x20 => collBody st ctx
  | 0x30 => beatBody st ctx
  | _ => fun s _ => (s, none)

/-- An operation of a session. -/
def hostOp (s : State) (st : Fin 8) (ctx : Nat) (op : HostOp) : State :=
  request op.opc.toNat (opBody op.opc.toNat st ctx) s st ctx op

/-- The operation that a payload holds (R359). The data of a REG_RD is as long as its DLEN, which says how much to read. -/
def opOf (bs : List Byte) : HostOp :=
  { opc := bs.getD 0 0, flags := bs.getD 1 0, req := BitVec.ofNat 16 (leNat (slice bs 2 2)),
    status := BitVec.ofNat 16 (leNat (slice bs 4 2)), addr := BitVec.ofNat 64 (leNat (slice bs 8 8)),
    data := slice bs 16 (leNat (slice bs 6 2)) }

/-- A payload executes: DLEN that is not the packet's own length is answered with LEN. One too short for a header does
nothing. -/
def payload (s : State) (st : Fin 8) (ctx : Nat) (bs : List Byte) : State :=
  let op := opOf bs
  if bs.length < 16 then s
  else if op.opc.toNat ≠ 1 ∧ op.data.length ≠ bs.length - 16 then
    if bitAt op.flags.toNat 0 then s else reply s st ctx op 0x07 []
  else hostOp s st ctx op

/-- The next SEQ executes, and after it those received ahead. -/
def deliver (st : Fin 8) (ctx : Nat) : Nat → State → State
  | 0, s => s
  | n + 1, s =>
    let c := s.sess st ctx
    match c.ahead.find? fun e => e.1 == c.seqRx with
    | some e =>
      let s1 := s.modSess st ctx fun c => { c with seqRx := c.seqRx + 1, ahead := c.ahead.filter fun x => x.1 != e.1 }
      deliver st ctx n (payload s1 st ctx e.2)
    | none => s

/-- A DATA payload taken in a session (R355, R356): old ones are acknowledged again, those more than 1,024 ahead are not taken. -/
def takeData (s : State) (st : Fin 8) (ctx : Nat) (seq : Word) (bs : List Byte) (ce : Bool) : State :=
  let c := s.sess st ctx
  let d := seqAhead seq c.seqRx
  let count := s.fld (kxtPage st) 0x044 23 16
  if 2 ^ 31 ≤ d then sendAck (s.modSess st ctx fun c => { c with ceSince := c.ceSince + bit ce }) st ctx
  else if 1024 < d then s
  else
    let held := c.ahead.any fun e => e.1 == seq
    let s1 := s.modSess st ctx fun c =>
      { c with ceSince := c.ceSince + bit ce, unacked := c.unacked + 1,
               ahead := if held then c.ahead else c.ahead ++ [(seq, bs)] }
    let s2 := deliver st ctx (c.ahead.length + 1) s1
    let x := s2.sess st ctx
    if answerable s2 st ctx = false then s2
    else
      let s3 := if x.ahead ≠ [] ∨ count ≤ x.unacked then sendAck s2 st ctx else s2
      if x.closeGot = true ∧ x.ahead = [] then answerClose s3 st ctx else s3

/-- DATA. `ce` says that its frame was marked (R344). The first one opens a session that has answered HS_INIT (R349). -/
def execData (st : Fin 8) (port : Fin 2) (link : Fin 4) (p : Packet) (ce : Bool) (s : State) :
    Host.Outcome State Fault Refusal :=
  if s.has st then
    .next (match receive s st port.val link.val p 0x10 with
      | (s1, none) => s1
      | (s1, some (ctx, bs)) =>
        let s2 := if (s1.sess st ctx).st = .hsRecv then sessOpened s1 st ctx else s1
        takeData s2 st ctx p.seq bs ce)
  else .fault .absentStack

/-! ### The rows -/

/-- REG_RD. -/
def execRegRd (st : Fin 8) (ctx : Nat) (op : HostOp) (s : State) : Host.Outcome State Fault Refusal :=
  if s.has st then .next (request 0x01 (regRdBody st) s st ctx op) else .fault .absentStack

/-- REG_WR. -/
def execRegWr (st : Fin 8) (ctx : Nat) (op : HostOp) (s : State) : Host.Outcome State Fault Refusal :=
  if s.has st then .next (request 0x02 (regWrBody st) s st ctx op) else .fault .absentStack

/-- MEM_WR. -/
def execMemWr (st : Fin 8) (ctx : Nat) (op : HostOp) (s : State) : Host.Outcome State Fault Refusal :=
  if s.has st then .next (request 0x03 (memWrBody st) s st ctx op) else .fault .absentStack

/-- MEM_RD. -/
def execMemRd (st : Fin 8) (ctx : Nat) (op : HostOp) (s : State) : Host.Outcome State Fault Refusal :=
  if s.has st then .next (request 0x04 (memRdBody st ctx) s st ctx op) else .fault .absentStack

/-- PLAN_LOAD. -/
def execPlanLoad (st : Fin 8) (ctx : Nat) (op : HostOp) (s : State) : Host.Outcome State Fault Refusal :=
  if s.has st then .next (request 0x05 (planLoadBody st ctx) s st ctx op) else .fault .absentStack

/-- PLAN_START. -/
def execPlanStart (st : Fin 8) (ctx : Nat) (op : HostOp) (s : State) : Host.Outcome State Fault Refusal :=
  if s.has st then .next (request 0x06 (planStartBody st ctx) s st ctx op) else .fault .absentStack

/-- MBX_WR. -/
def execMbxWr (st : Fin 8) (ctx : Nat) (op : HostOp) (s : State) : Host.Outcome State Fault Refusal :=
  if s.has st then .next (request 0x07 (mbxWrBody st ctx) s st ctx op) else .fault .absentStack

/-- A part that its mailbox's readiness settles (R391). -/
def settlePart (s : State) (mb : Nat) (p : WaitPart) : WaitPart :=
  if h : p.stk < 8 then
    if p.ready = none ∧ boxReady s ⟨p.stk, h⟩ mb = true then { p with ready := some p.status } else p
  else p

/-- MBX_WR_REPLY (R391): the `i`-th reply that waits on sessions of the stack is sent once each of its parts is settled. -/
def mbxWrReply (s : State) (st : Fin 8) (i : Nat) : State :=
  match (s.st st).replies[i]? with
  | none => s
  | some w =>
    let ps := w.parts.map (settlePart s w.mb)
    if ps.all fun p => p.ready.isSome then
      let s1 := s.modSt st fun x => { x with replies := x.replies.eraseIdx i }
      if answerable s1 st w.ctx then
        sendOp s1 st w.ctx (opBytes 0x07 1 w.req.toNat (partsStatus ps) w.addr [])
      else s1
    else s.modSt st fun x => { x with replies := x.replies.set i { w with parts := ps } }

/-- MBX_WR_REPLY. -/
def execMbxWrReply (st : Fin 8) (i : Nat) (s : State) : Host.Outcome State Fault Refusal :=
  if s.has st then .next (mbxWrReply s st i) else .fault .absentStack

/-- DOORBELL. -/
def execDoorbell (st : Fin 8) (ctx : Nat) (op : HostOp) (s : State) : Host.Outcome State Fault Refusal :=
  if s.has st then .next (request 0x08 (doorbellBody st) s st ctx op) else .fault .absentStack

/-- NOP. -/
def execKxtNop (st : Fin 8) (ctx : Nat) (op : HostOp) (s : State) : Host.Outcome State Fault Refusal :=
  if s.has st then .next (request 0x3F (fun s _ => (s, none)) s st ctx op) else .fault .absentStack

/-- MBX_EVENT_SEND (R392): one EVENT while EVT_PEND of an MBX page is not zero, and a further one only after it has been. The
host session of page 0 is unused (R393). -/
def mbxEventSend (s : State) (st : Fin 8) (page : Nat) : State :=
  let p := stackPage st .mbx page
  if s.pend p = 0 then evtSettle s p
  else if page = 0 ∨ (s.st st).evtSent.toNat.testBit page = true then s
  else match hostSess s p with
    | none => s
    | some (i, ctx) =>
      let s1 := s.modSt st fun x => { x with evtSent := BitVec.ofNat 4 (withBits x.evtSent.toNat page page 1) }
      sendOp s1 i ctx (opBytes 0x09 0 0 0 (BitVec.ofNat 64 (st.val * 2 ^ 48 + p.no)) [])

/-- MBX_EVENT_SEND. -/
def execMbxEventSend (st : Fin 8) (page : Fin 4) (s : State) : Host.Outcome State Fault Refusal :=
  if s.has st then .next (mbxEventSend s st page.val) else .fault .absentStack

/-- BEAT (R365): a frame on a session of stack 0 when the real-time clock reads `now`. -/
def execBeat (ctx : Nat) (f : BeatFrame) (now : DWord) (s : State) : Host.Outcome State Fault Refusal :=
  let c := s.sess 0 ctx
  .next (if answerable s 0 ctx && (c.role == 1 || c.role == 3) then beatFrame s ctx f now else s)

end Sys2Proof.Machine
end

