-- ==== Sys2Proof/Machine/I3c.lean ====
section
/-! DEFINITION. The board management bus (R482, R483): common command codes, and register accesses in private transfers. -/

namespace Sys2Proof.Machine

/-- The bus, changed. -/
def State.modBus (s : State) (f : BoardBus → BoardBus) : State := { s with mod := { s.mod with bus := f s.mod.bus } }

/-- What the part drives on the bus; no bytes where it does not acknowledge. -/
def i3cAnswer (s : State) (bs : List Byte) : State := s.send (.i3c bs)
def i3cNack (s : State) : State := i3cAnswer s []

/-- The page and offset of an address that the management bus may read: PWR pages, the module's PWR page, and CAL (R483). -/
def i3cReadable (s : State) (a : Nat) : Option (Page × Nat) :=
  match regSource s .mgmt a with
  | some (p, _) =>
    if a % 4 = 0 ∧ (p.blk = .pwr ∨ p.blk = .pwrm ∨ p.blk = .cal) then some (p, a % 4096) else none
  | none => none

/-- What the always-on island answers while no firmware runs: PWR_STAGE, PWR_CAUSE and PWR_CMP. -/
def islandReads (p : Page) (off : Nat) : Bool := p.blk == .pwrm && (off == 0x040 || off == 0x044 || off == 0x058)

/-- A private write: an address to read, or PWR_CAP's address and data; anything else is not acknowledged. -/
def i3cWrite (s : State) (bs : List Byte) : State :=
  let a := leNat (slice bs 0 8)
  let firmware := (s.st 0).pwr.firmware
  match bs.length, i3cReadable s a with
  | 8, some (p, off) =>
    if firmware || islandReads p off then
      let (v, s1) := readReg s .mgmt p off
      s1.modBus fun b => { b with ready := some v }
    else i3cNack s
  | 12, some (p, off) =>
    if firmware && p.blk == .pwrm && off == 0x05C then writeReg s .mgmt p off (BitVec.ofNat 32 (leNat (slice bs 8 4)))
    else i3cNack s
  | _, _ => i3cNack s

/-- I3C_PRIVATE_WRITE (R483). -/
def execI3cPrivateWrite (bytes : List Byte) (s : State) : Host.Outcome State Fault Refusal := .next (i3cWrite s bytes)

/-- I3C_PRIVATE_READ (R483): the data once it is ready. -/
def execI3cPrivateRead (s : State) : Host.Outcome State Fault Refusal :=
  .next (match s.mod.bus.ready with
    | some v => i3cAnswer (s.modBus fun b => { b with ready := none }) (leBytes v.toNat 4)
    | none => i3cNack s)

/-- The static address (R482). -/
def i3cStatic (s : State) : Nat := 0x50 + s.mod.bus.straps.toNat

/-- `n` bytes that the spec leaves open (assumption 2). -/
def openBytes (s : State) (n : Nat) : List Byte × State :=
  let (v, s1) := s.drawFree
  (leBytes v.toNat n, s1)

/-- A common command code, by the codes of the I3C standard (assumption 23); `arg` carries a dynamic address in [7:1]. A code
the part does not support is not acknowledged. -/
def commonCode (s : State) (ccc arg : Byte) : State :=
  let given := some (BitVec.ofNat 7 (arg.toNat / 2))
  match ccc.toNat with
  | 0x06 => s.modBus fun b => { b with dynamic := none }
  | 0x07 =>
    if s.mod.bus.dynamic.isSome then i3cNack s
    else
      let (pid, s1) := openBytes s 6
      i3cAnswer (s1.modBus fun b => { b with dynamic := given }) (pid ++ [0x06, 0x00])
  | 0x87 => if s.mod.bus.dynamic.isSome then i3cNack s else s.modBus fun b => { b with dynamic := given }
  | 0x8D => let (pid, s1) := openBytes s 6; i3cAnswer s1 pid
  | 0x8E => i3cAnswer s [0x06]
  | 0x8F => i3cAnswer s [0x00]
  | 0x90 => let (v, s1) := openBytes s 2; i3cAnswer s1 v
  | _ => i3cNack s

/-- COMMON_COMMAND_CODE (R482). -/
def execCommonCommandCode (ccc arg : Byte) (s : State) : Host.Outcome State Fault Refusal := .next (commonCode s ccc arg)

end Sys2Proof.Machine
end

