-- ==== Sys2Proof/Machine/Restore.lean ====
section
/-! DEFINITION. The restore of a checkpoint by the firmware (R432, R433). -/

namespace Sys2Proof.Machine

/-- The layout of a restore block: FORMAT, and the bytes that are zero. -/
def restoreLayout (bs : List Byte) : Bool :=
  leNat (slice bs 0 2) == 1 && leNat (slice bs 2 6) == 0 && leNat (slice bs 56 8) == 0

/-- Why a restore is refused, or 0 (R433). A block that cannot be read has no layout. -/
def restoreReason (s : State) (a : Nat) : Nat :=
  let bs := s.bytes a 64
  if rangePlace s a 64 ≠ some .sram ∨ readFailure s a 64 ≠ none ∨ restoreLayout bs = false then 1
  else if s.stacksIn.any fun i => (s.st i).clp.state != .idle && (s.st i).clp.state != .torn then 2
  else if leNat (slice bs 8 8) < leNat (slice bs 16 8) then 3
  else 0

/-- One stack restored: its step numbers set, KS derived, its Clasp engine IDLE, with what clears there (R66). -/
def restoreStack (step committed : DWord) (s : State) (i : Fin 8) : State :=
  startKs (s.modClp i fun c =>
    { c.idled with step := step, committed := committed }) i

/-- The reply to the host, in mailbox 20 of stack 0. -/
def restoreReply (s : State) (v : Nat) : State := mboxSend s .mgmt 0 20 (BitVec.ofNat 32 v)

/-- A restore word, 0x52 in [31:24] and the block's SRAM offset ÷ 256 below: only running firmware takes it. -/
def restore (s : State) (word : Word) : State :=
  let a := sramBase 0 + word.toNat % 2 ^ 24 * 256
  if word.toNat / 2 ^ 24 ≠ 0x52 ∨ (s.st 0).pwr.firmware = false then s
  else match restoreReason s a with
    | 0 =>
      let bs := s.bytes a 64
      let s1 := s.stacksIn.foldl
        (restoreStack (BitVec.ofNat 64 (leNat (slice bs 8 8))) (BitVec.ofNat 64 (leNat (slice bs 16 8)))) s
      restoreReply (locketRequest s1 fwSource 3 0 0x800D (slice bs 8 24)) 0x52000000
    | k => restoreReply s (0x52FF0000 + k)

/-- RESTORE_BLOCK. -/
def execRestoreBlock (word : Word) (s : State) : Host.Outcome State Fault Refusal := .next (restore s word)

end Sys2Proof.Machine
end

