-- ==== Sys2Proof/Machine/Dispatch.lean ====
section
/-! DEFINITION. The dispatch: one arm for each command of the table, each a direct call of its meaning. -/

namespace Sys2Proof.Machine

/-- The effect of a command on everything but the queue of commands that wait. -/
def exec (i : Instr) (s : State) : Host.Outcome State Fault Refusal :=
  match i with
  | .registerWrite r a v => Sys2Proof.Machine.execRegisterWrite r a v s
  | .rcRegisterRead r a => Sys2Proof.Machine.execRcRegisterRead r a s
  | .pairLoRead r a => Sys2Proof.Machine.execPairLoRead r a s
  | .pairLoWrite r a v => Sys2Proof.Machine.execPairLoWrite r a v s
  | .blockEnable r p on => Sys2Proof.Machine.execBlockEnable r p on s
  | .quiesce r p on => Sys2Proof.Machine.execQuiesce r p on s
  | .softRst r p => Sys2Proof.Machine.execSoftRst r p s
  | .softResetDone p => Sys2Proof.Machine.execSoftResetDone p s
  | .evtClr r p v => Sys2Proof.Machine.execEvtClr r p v s
  | .descriptorAccept st q => Sys2Proof.Machine.execDescriptorAccept st q s
  | .openStep r st => Sys2Proof.Machine.execOpenStep r st s
  | .reduceBegin r st => Sys2Proof.Machine.execReduceBegin r st s
  | .arm r st => Sys2Proof.Machine.execArm r st s
  | .abandon r st => Sys2Proof.Machine.execAbandon r st s
  | .openEval r st => Sys2Proof.Machine.execOpenEval r st s
  | .closeEval r st => Sys2Proof.Machine.execCloseEval r st s
  | .claspGateOpen => Sys2Proof.Machine.execClaspGateOpen s
  | .gateTimeout st => Sys2Proof.Machine.execGateTimeout st s
  | .commitSequenceEnd st => Sys2Proof.Machine.execCommitSequenceEnd st s
  | .voidSequenceEnd st => Sys2Proof.Machine.execVoidSequenceEnd st s
  | .evalEventTaken st => Sys2Proof.Machine.execEvalEventTaken st s
  | .tnsRun r st => Sys2Proof.Machine.execTnsRun r st s
  | .tnsStop r st => Sys2Proof.Machine.execTnsStop r st s
  | .beatEdge st t => Sys2Proof.Machine.execBeatEdge st t s
  | .edgeWindowExpiry st => Sys2Proof.Machine.execEdgeWindowExpiry st s
  | .tick st => Sys2Proof.Machine.execTick st s
  | .tnsSlotCfg r st v => Sys2Proof.Machine.execTnsSlotCfg r st v s
  | .mxStream st c => Sys2Proof.Machine.execMxStream st c s
  | .mxPassRetire st c => Sys2Proof.Machine.execMxPassRetire st c s
  | .mxLdb st c => Sys2Proof.Machine.execMxLdb st c s
  | .mxDrain st c => Sys2Proof.Machine.execMxDrain st c s
  | .mxFree st c => Sys2Proof.Machine.execMxFree st c s
  | .mxCfgWrite r st c v => Sys2Proof.Machine.execMxCfgWrite r st c v s
  | .vcRun st c => Sys2Proof.Machine.execVcRun st c s
  | .vcSetchain st c => Sys2Proof.Machine.execVcSetchain st c s
  | .vcSetvl st c => Sys2Proof.Machine.execVcSetvl st c s
  | .vcSave st c => Sys2Proof.Machine.execVcSave st c s
  | .vcRestore st c => Sys2Proof.Machine.execVcRestore st c s
  | .smpOpen st g => Sys2Proof.Machine.execSmpOpen st g s
  | .smpSeeds st g => Sys2Proof.Machine.execSmpSeeds st g s
  | .smpHop st g => Sys2Proof.Machine.execSmpHop st g s
  | .smpClose st g => Sys2Proof.Machine.execSmpClose st g s
  | .smpPrefix st g => Sys2Proof.Machine.execSmpPrefix st g s
  | .beadGather st => Sys2Proof.Machine.execBeadGather st s
  | .remoteRowRequest home src table row => Sys2Proof.Machine.execRemoteRowRequest home src table row s
  | .beadSplit st => Sys2Proof.Machine.execBeadSplit st s
  | .filScatter st => Sys2Proof.Machine.execFilScatter st s
  | .filContribution home src => Sys2Proof.Machine.execFilContribution home src s
  | .filRead st => Sys2Proof.Machine.execFilRead st s
  | .filExport st => Sys2Proof.Machine.execFilExport st s
  | .filMerge st => Sys2Proof.Machine.execFilMerge st s
  | .filCfgWrite r st off v => Sys2Proof.Machine.execFilCfgWrite r st off v s
  | .hotSetRefreshAdmit st => Sys2Proof.Machine.execHotSetRefreshAdmit st s
  | .hotSetCopyDone st n => Sys2Proof.Machine.execHotSetCopyDone st n s
  | .hotSetDirtyRecopy st n => Sys2Proof.Machine.execHotSetDirtyRecopy st n s
  | .hotSetSwitch st => Sys2Proof.Machine.execHotSetSwitch st s
  | .hsEnable r st => Sys2Proof.Machine.execHsEnable r st s
  | .hsDisable r st => Sys2Proof.Machine.execHsDisable r st s
  | .keyCommitStep r st => Sys2Proof.Machine.execKeyCommitStep r st s
  | .keyCommitEval r st => Sys2Proof.Machine.execKeyCommitEval r st s
  | .keyDerivationDone st => Sys2Proof.Machine.execKeyDerivationDone st s
  | .reseed r st c => Sys2Proof.Machine.execReseed r st c s
  | .rngSelfCheck st c err => Sys2Proof.Machine.execRngSelfCheck st c err s
  | .sramRepair r st bank => Sys2Proof.Machine.execSramRepair r st bank s
  | .sramRepairDone st => Sys2Proof.Machine.execSramRepairDone st s
  | .sramPatrol st line ce => Sys2Proof.Machine.execSramPatrol st line ce s
  | .lpddr5xPatrol st dev line linkCe linkUe => Sys2Proof.Machine.execLpddr5xPatrol st dev line linkCe linkUe s
  | .lpddr5xRetraining st ch => Sys2Proof.Machine.execLpddr5xRetraining st ch s
  | .softRepair r st dev => Sys2Proof.Machine.execSoftRepair r st dev s
  | .softRepairDone st dev => Sys2Proof.Machine.execSoftRepairDone st dev s
  | .regionWrite r st v => Sys2Proof.Machine.execRegionWrite r st v s
  | .xfrCopy st ch => Sys2Proof.Machine.execXfrCopy st ch s
  | .xfrFill st ch => Sys2Proof.Machine.execXfrFill st ch s
  | .xfrCompress st ch => Sys2Proof.Machine.execXfrCompress st ch s
  | .xfrExpand st ch => Sys2Proof.Machine.execXfrExpand st ch s
  | .xfrToRegion st ch => Sys2Proof.Machine.execXfrToRegion st ch s
  | .xfrFromRegion st ch => Sys2Proof.Machine.execXfrFromRegion st ch s
  | .xfrTilecopy st ch => Sys2Proof.Machine.execXfrTilecopy st ch s
  | .add st q => Sys2Proof.Machine.execAdd st q s
  | .sub st q => Sys2Proof.Machine.execSub st q s
  | .and st q => Sys2Proof.Machine.execAnd st q s
  | .or st q => Sys2Proof.Machine.execOr st q s
  | .xor st q => Sys2Proof.Machine.execXor st q s
  | .shl st q => Sys2Proof.Machine.execShl st q s
  | .shr st q => Sys2Proof.Machine.execShr st q s
  | .sar st q => Sys2Proof.Machine.execSar st q s
  | .mul st q => Sys2Proof.Machine.execMul st q s
  | .movhi st q => Sys2Proof.Machine.execMovhi st q s
  | .cmp st q => Sys2Proof.Machine.execCmp st q s
  | .pset st q => Sys2Proof.Machine.execPset st q s
  | .br st q => Sys2Proof.Machine.execBr st q s
  | .call st q => Sys2Proof.Machine.execCall st q s
  | .jmp st q => Sys2Proof.Machine.execJmp st q s
  | .halt st q => Sys2Proof.Machine.execHalt st q s
  | .trap st q => Sys2Proof.Machine.execTrap st q s
  | .ldd st q => Sys2Proof.Machine.execLdd st q s
  | .std st q => Sys2Proof.Machine.execStd st q s
  | .ldg st q => Sys2Proof.Machine.execLdg st q s
  | .ldgReturn st q => Sys2Proof.Machine.execLdgReturn st q s
  | .stg st q => Sys2Proof.Machine.execStg st q s
  | .rdr st q => Sys2Proof.Machine.execRdr st q s
  | .rdrReturn st q => Sys2Proof.Machine.execRdrReturn st q s
  | .wrr st q => Sys2Proof.Machine.execWrr st q s
  | .dwr st q => Sys2Proof.Machine.execDwr st q s
  | .dins st q => Sys2Proof.Machine.execDins st q s
  | .dld st q => Sys2Proof.Machine.execDld st q s
  | .dst st q => Sys2Proof.Machine.execDst st q s
  | .push st q => Sys2Proof.Machine.execPush st q s
  | .pushQueueRoom st q => Sys2Proof.Machine.execPushQueueRoom st q s
  | .waitq st q => Sys2Proof.Machine.execWaitq st q s
  | .waitqDone st q => Sys2Proof.Machine.execWaitqDone st q s
  | .fence st q => Sys2Proof.Machine.execFence st q s
  | .fenceDone st q => Sys2Proof.Machine.execFenceDone st q s
  | .waitdb st q => Sys2Proof.Machine.execWaitdb st q s
  | .waitdbDone st q => Sys2Proof.Machine.execWaitdbDone st q s
  | .time st q => Sys2Proof.Machine.execTime st q s
  | .waitpos st q => Sys2Proof.Machine.execWaitpos st q s
  | .waitposDone st q => Sys2Proof.Machine.execWaitposDone st q s
  | .nop st q => Sys2Proof.Machine.execNop st q s
  | .seqWatchdog st q => Sys2Proof.Machine.execSeqWatchdog st q s
  | .seqLoad r st q => Sys2Proof.Machine.execSeqLoad r st q s
  | .seqLoadDone st q => Sys2Proof.Machine.execSeqLoadDone st q s
  | .seqStart r st q => Sys2Proof.Machine.execSeqStart r st q s
  | .seqStop r st q => Sys2Proof.Machine.execSeqStop r st q s
  | .seqResume r st q => Sys2Proof.Machine.execSeqResume r st q s
  | .seqSave r st q withData => Sys2Proof.Machine.execSeqSave r st q withData s
  | .seqRestore r st q => Sys2Proof.Machine.execSeqRestore r st q s
  | .seqCtxDone st q => Sys2Proof.Machine.execSeqCtxDone st q s
  | .seqClear r st q => Sys2Proof.Machine.execSeqClear r st q s
  | .rebind r st v => Sys2Proof.Machine.execRebind r st v s
  | .rebindScrub st res => Sys2Proof.Machine.execRebindScrub st res s
  | .rebindHandover st res => Sys2Proof.Machine.execRebindHandover st res s
  | .rebindDone st res => Sys2Proof.Machine.execRebindDone st res s
  | .rebindForced st res => Sys2Proof.Machine.execRebindForced st res s
  | .arbSubmit r st v => Sys2Proof.Machine.execArbSubmit r st v s
  | .activitySubmit st sub act scope => Sys2Proof.Machine.execActivitySubmit st sub act scope s
  | .activityAdmit st n => Sys2Proof.Machine.execActivityAdmit st n s
  | .activityEnd st act scope => Sys2Proof.Machine.execActivityEnd st act scope s
  | .queueTimeout st n => Sys2Proof.Machine.execQueueTimeout st n s
  | .swapCutover st act scope => Sys2Proof.Machine.execSwapCutover st act scope s
  | .swapCopy st act scope spareOk => Sys2Proof.Machine.execSwapCopy st act scope spareOk s
  | .swapComplete st act scope => Sys2Proof.Machine.execSwapComplete st act scope s
  | .idleCoreTest st phys sumOk => Sys2Proof.Machine.execIdleCoreTest st phys sumOk s
  | .heartbeatCheck st => Sys2Proof.Machine.execHeartbeatCheck st s
  | .pairingCheck st answerOk => Sys2Proof.Machine.execPairingCheck st answerOk s
  | .linkUp st port link => Sys2Proof.Machine.execLinkUp st port link s
  | .linkDown st port link => Sys2Proof.Machine.execLinkDown st port link s
  | .netCfgWrite r st port v => Sys2Proof.Machine.execNetCfgWrite r st port v s
  | .pauseFrame st port link pfc => Sys2Proof.Machine.execPauseFrame st port link pfc s
  | .hsInit st port link body rnd => Sys2Proof.Machine.execHsInit st port link body rnd s
  | .hsResp st ctx body => Sys2Proof.Machine.execHsResp st ctx body s
  | .hsReject st ctx status => Sys2Proof.Machine.execHsReject st ctx status s
  | .data st port link p ce => Sys2Proof.Machine.execData st port link p ce s
  | .ack st p sampleNs => Sys2Proof.Machine.execAck st p sampleNs s
  | .close st p => Sys2Proof.Machine.execClose st p s
  | .closeAck st p => Sys2Proof.Machine.execCloseAck st p s
  | .reset st ctx => Sys2Proof.Machine.execReset st ctx s
  | .hsTimeout st ctx => Sys2Proof.Machine.execHsTimeout st ctx s
  | .rtoExpiry st ctx seq => Sys2Proof.Machine.execRtoExpiry st ctx seq s
  | .failedTimeout st ctx => Sys2Proof.Machine.execFailedTimeout st ctx s
  | .ackDelay st ctx => Sys2Proof.Machine.execAckDelay st ctx s
  | .ccPeriod st ctx => Sys2Proof.Machine.execCcPeriod st ctx s
  | .kxtOpenGo r st => Sys2Proof.Machine.execKxtOpenGo r st s
  | .regRd st ctx op => Sys2Proof.Machine.execRegRd st ctx op s
  | .regWr st ctx op => Sys2Proof.Machine.execRegWr st ctx op s
  | .memWr st ctx op => Sys2Proof.Machine.execMemWr st ctx op s
  | .memRd st ctx op => Sys2Proof.Machine.execMemRd st ctx op s
  | .planLoad st ctx op => Sys2Proof.Machine.execPlanLoad st ctx op s
  | .planStart st ctx op => Sys2Proof.Machine.execPlanStart st ctx op s
  | .mbxWr st ctx op => Sys2Proof.Machine.execMbxWr st ctx op s
  | .mbxWrReply st n => Sys2Proof.Machine.execMbxWrReply st n s
  | .doorbell st ctx op => Sys2Proof.Machine.execDoorbell st ctx op s
  | .kxtNop st ctx op => Sys2Proof.Machine.execKxtNop st ctx op s
  | .mbxEventSend st page => Sys2Proof.Machine.execMbxEventSend st page s
  | .checkpointStreamStart st => Sys2Proof.Machine.execCheckpointStreamStart st s
  | .ckptAck st ctx step status => Sys2Proof.Machine.execCkptAck st ctx step status s
  | .beat ctx f now => Sys2Proof.Machine.execBeat ctx f now s
  | .chanReady r st v => Sys2Proof.Machine.execChanReady r st v s
  | .collStartSegment st ctx g => Sys2Proof.Machine.execCollStartSegment st ctx g s
  | .collReduceSegment st ctx g => Sys2Proof.Machine.execCollReduceSegment st ctx g s
  | .collGatherSegment st ctx g => Sys2Proof.Machine.execCollGatherSegment st ctx g s
  | .collVoteSegment st ctx g => Sys2Proof.Machine.execCollVoteSegment st ctx g s
  | .collTimeout st c => Sys2Proof.Machine.execCollTimeout st c s
  | .jkSend st port => Sys2Proof.Machine.execJkSend st port s
  | .jkReduceLp st port => Sys2Proof.Machine.execJkReduceLp st port s
  | .jkSignal st port => Sys2Proof.Machine.execJkSignal st port s
  | .linkError st port => Sys2Proof.Machine.execLinkError st port s
  | .mbxSend r st mb v => Sys2Proof.Machine.execMbxSend r st mb v s
  | .mbxReceive r st mb => Sys2Proof.Machine.execMbxReceive r st mb s
  | .mbxTimeout st mb => Sys2Proof.Machine.execMbxTimeout st mb s
  | .mbxDbSet r st mb v => Sys2Proof.Machine.execMbxDbSet r st mb v s
  | .identity r st => Sys2Proof.Machine.execIdentity r st s
  | .attest r st => Sys2Proof.Machine.execAttest r st s
  | .custody r st => Sys2Proof.Machine.execCustody r st s
  | .wipeComplete => Sys2Proof.Machine.execWipeComplete s
  | .config r st => Sys2Proof.Machine.execConfig r st s
  | .sealEk r st => Sys2Proof.Machine.execSealEk r st s
  | .sealKey r st => Sys2Proof.Machine.execSealKey r st s
  | .sealDrop r st => Sys2Proof.Machine.execSealDrop r st s
  | .debug r st => Sys2Proof.Machine.execDebug r st s
  | .fwUpdate r st => Sys2Proof.Machine.execFwUpdate r st s
  | .locketWrite aged verifyOk => Sys2Proof.Machine.execLocketWrite aged verifyOk s
  | .locketScanDone => Sys2Proof.Machine.execLocketScanDone s
  | .locketCursorWrite r win lo => Sys2Proof.Machine.execLocketCursorWrite r win lo s
  | .locketWindowLoadDone win eccOk => Sys2Proof.Machine.execLocketWindowLoadDone win eccOk s
  | .locketWin15Read r win => Sys2Proof.Machine.execLocketWin15Read r win s
  | .locketSnap r win => Sys2Proof.Machine.execLocketSnap r win s
  | .lktFwGo r => Sys2Proof.Machine.execLktFwGo r s
  | .restoreBlock word => Sys2Proof.Machine.execRestoreBlock word s
  | .powerOnReset => Sys2Proof.Machine.execPowerOnReset s
  | .resetN => Sys2Proof.Machine.execResetN s
  | .powerFail undervoltage => Sys2Proof.Machine.execPowerFail undervoltage s
  | .powerFailCleared => Sys2Proof.Machine.execPowerFailCleared s
  | .pwrCtlReset r st => Sys2Proof.Machine.execPwrCtlReset r st s
  | .refclkLoss eth => Sys2Proof.Machine.execRefclkLoss eth s
  | .refclkReturn => Sys2Proof.Machine.execRefclkReturn s
  | .pllLock st computeDie => Sys2Proof.Machine.execPllLock st computeDie s
  | .pwrDomReq r st v => Sys2Proof.Machine.execPwrDomReq r st v s
  | .domainPowerUp dom => Sys2Proof.Machine.execDomainPowerUp dom s
  | .domainFailed dom => Sys2Proof.Machine.execDomainFailed dom s
  | .powerCapWindow tenthWatts avsFail => Sys2Proof.Machine.execPowerCapWindow tenthWatts avsFail s
  | .levelRaiseSwitch st avsFail => Sys2Proof.Machine.execLevelRaiseSwitch st avsFail s
  | .thermalLevelUpdate st quarterC avsFail => Sys2Proof.Machine.execThermalLevelUpdate st quarterC avsFail s
  | .thermAlert st quarterC => Sys2Proof.Machine.execThermAlert st quarterC s
  | .thermtrip st quarterC => Sys2Proof.Machine.execThermtrip st quarterC s
  | .pwrSleep r v => Sys2Proof.Machine.execPwrSleep r v s
  | .sleepEntered => Sys2Proof.Machine.execSleepEntered s
  | .wake src => Sys2Proof.Machine.execWake src s
  | .ppsIn => Sys2Proof.Machine.execPpsIn s
  | .rtcSet r lo => Sys2Proof.Machine.execRtcSet r lo s
  | .rtcDisciplineTimeout => Sys2Proof.Machine.execRtcDisciplineTimeout s
  | .startupStageDone rep => Sys2Proof.Machine.execStartupStageDone rep s
  | .calCopy r => Sys2Proof.Machine.execCalCopy r s
  | .calCommit r => Sys2Proof.Machine.execCalCommit r s
  | .calCommitDone verifyOk => Sys2Proof.Machine.execCalCommitDone verifyOk s
  | .calDiscard r => Sys2Proof.Machine.execCalDiscard r s
  | .i3cPrivateWrite bytes => Sys2Proof.Machine.execI3cPrivateWrite bytes s
  | .i3cPrivateRead => Sys2Proof.Machine.execI3cPrivateRead s
  | .resetNRelease => Sys2Proof.Machine.execResetNRelease s
  | .ethRefclkReturn => Sys2Proof.Machine.execEthRefclkReturn s
  | .domainPowerDown dom => Sys2Proof.Machine.execDomainPowerDown dom s
  | .thermAlertClear => Sys2Proof.Machine.execThermAlertClear s
  | .sleepBeatCount st => Sys2Proof.Machine.execSleepBeatCount st s
  | .jukanLaneFailed st port group => Sys2Proof.Machine.execJukanLaneFailed st port group s
  | .commonCommandCode ccc arg => Sys2Proof.Machine.execCommonCommandCode ccc arg s
  | .icmpEcho st port link v6 dst body => Sys2Proof.Machine.execIcmpEcho st port link v6 dst body s
  | .neighbourDiscovery st port link v6 target => Sys2Proof.Machine.execNeighbourDiscovery st port link v6 target s
  | .ptpEventMessage st port link offset => Sys2Proof.Machine.execPtpEventMessage st port link offset s
  | .droppedFrame st port link => Sys2Proof.Machine.execDroppedFrame st port link s

end Sys2Proof.Machine
end

