-- ==== Sys2Proof/Safety.lean ====
section
/-! DEFINITION. What counts as a safe run, and the terms the statements use: a command that completes, what stays as it
was, the form every state keeps, and the runs that never stop. -/

namespace Sys2Proof.Safety

open Machine

/-- A command answers a next state, and `P` holds of it. -/
def Completes (c : Instr) (s : State) (P : State → Prop) : Prop := ∃ t, exec c s = .next t ∧ P t

/-- Every byte of memory reads as before. -/
def MemoryKept (s t : State) : Prop := ∀ a, t.byte a = s.byte a

/-- Every byte outside a set of addresses reads as before. -/
def MemoryKeptBut (s t : State) (stored : Nat → Prop) : Prop := ∀ a, ¬ stored a → t.byte a = s.byte a

/-- The word stored under a register's key: by stack, page and offset. -/
def regWord (s : State) (k : Nat) : Word := Sparse.get (regDefault s.part) s.regs k

/-- Every stored register but those of a set of keys holds what it held. -/
def RegistersKeptBut (s t : State) (written : Nat → Prop) : Prop := ∀ k, ¬ written k → regWord t k = regWord s k

/-- Every queue holds what it held. -/
def QueuesKept (s t : State) : Prop := ∀ st q, t.queue st q = s.queue st q

/-- A queue after its descriptor at place `i` has left its engine, and after its first one has (R320). -/
def leftAt (q : Queue) (i : Nat) (clean : Bool) : Queue :=
  ({ q with entries := q.entries.modify i fun e => { e with st := .done clean } } : Queue).advance
def leftFirst (q : Queue) (clean : Bool) : Queue :=
  ({ q with entries := modFirst (fun e => { e with st := .done clean }) q.entries } : Queue).advance

/-- A sequencer issues the instruction at its pc: it runs, the word is legal and holds this opcode, and its guard is true (R314). -/
def Issues (s : State) (st : Fin 8) (q : Fin 4) (opc : Nat) : Prop :=
  s.has st = true ∧ seqRuns s st q = true ∧ ksqOk (s.seq st q).instr = true ∧ ksqOpc (s.seq st q).instr = opc ∧
    (s.seq st q).guard (s.seq st q).instr = true

/-- An instruction has executed: its sequencer holds `x` at the pc given, waits for nothing, and has counted it; memory is as
before. -/
def Executed (s t : State) (st : Fin 8) (q : Fin 4) (x : Seq) (pc : BitVec 15) : Prop :=
  t.seq st q = { x with pc := pc, wait := .none, abandoned := false } ∧
    t.pair (seqPage st q) 0x064 = (s.pair (seqPage st q) 0x064 + 1) % 2 ^ 64 ∧ MemoryKept s t

/-- An instruction waits: its sequencer holds its place and the kind of its wait, and nothing else changes. -/
def Waits (s t : State) (st : Fin 8) (q : Fin 4) (w : SeqWait) : Prop :=
  t = s.modSeq st q fun x => { x with wait := w }

/-- A sequencer has faulted at its pc (R327, R340). -/
def SeqFaulted (s t : State) (st : Fin 8) (q : Fin 4) (code high : Nat) : Prop :=
  t.seq st q = { s.seq st q with st := .faulted, wait := .none } ∧ t.fld (seqPage st q) 0x020 15 0 = code ∧
    (t.reg (seqPage st q) 0x024).toNat = (s.seq st q).pc.toNat + high * 2 ^ 16 ∧ MemoryKept s t

/-- The commands of the KSQ instructions, but for the ends of their waits. -/
def ksqCommands (st : Fin 8) (q : Fin 4) : List Instr :=
  [.add st q, .sub st q, .and st q, .or st q, .xor st q, .shl st q, .shr st q, .sar st q, .mul st q, .movhi st q, .cmp st q,
    .pset st q, .br st q, .call st q, .jmp st q, .halt st q, .trap st q, .ldd st q, .std st q, .ldg st q, .stg st q, .rdr st q,
    .wrr st q, .dwr st q, .dins st q, .dld st q, .dst st q, .push st q, .waitq st q, .fence st q, .waitdb st q, .time st q,
    .waitpos st q, .nop st q]

/-- A session may make an operation (R359 to R362, R402, R411, R412): it can be answered, the operation is a request, its role may
send it, sealed mode gets its bulk operations sealed, and the seal opens. `u` and `data` are what stands once it is opened. -/
def Accepts (s : State) (st : Fin 8) (ctx opc : Nat) (op : HostOp) (u : State) (data : List Byte) : Prop :=
  s.has st = true ∧ answerable s st ctx = true ∧ bitAt op.flags.toNat 0 = false ∧ op.flags.toNat < 4 ∧
    s.mod.bzl.recovery = false ∧ ((opRoles opc).getD []).contains (s.sess st ctx).role = true ∧
    (opc = 3 ∨ opc = 4 → s.mod.bzl.sealed = true → bitAt op.flags.toNat 1 = true) ∧
    (if bitAt op.flags.toNat 1 = true ∧ opc ≠ 4 then openSealed s { op with opc := BitVec.ofNat 8 opc } = (u, some data)
     else u = s ∧ data = op.data)

/-- A Bezel command has ended on a stack's page with a STATUS (R414). -/
def BezelEnds (t : State) (st : Fin 8) (op status : Nat) : Prop :=
  t.fld (bzlPage st) 0x044 7 4 = op ∧ t.fld (bzlPage st) 0x044 15 8 = status ∧ t.flag (bzlPage st) 0x010 3 = true

/-- The buffer holds this output, and BZL_OUT_LEN its length (R414). -/
def BezelAnswers (t : State) (bs : List Byte) : Prop :=
  Sparse.getList (fun _ => 0) (t.st 0).bzlBuf 0 bs.length = bs ∧ (t.reg (bzlPage 0) 0x054).toNat = bs.length

/-- Every switched domain of a stack has lost what it held, and none but CTL is on (R453, R463). -/
def StackGone (t : State) (st : Fin 8) : Prop :=
  (∀ k < 7, t.domOn st k = false) ∧ (t.st st).clp = {} ∧ (∀ q, (t.seq st q).st = .empty) ∧ (t.st st).sess = [] ∧
    (t.st st).pwr.firmware = false ∧ ∀ i < sramSize, t.byte (sramBase st + i) = 0

/-- A stack moves toward the lower of its cap and thermal level (R458, R461): a lower level switches at once, a higher one waits
for its voltage, and a stack that is held or raising changes nothing. -/
def LevelSought (s t : State) (st : Fin 8) : Prop :=
  let n := min (capLevel t st) (thermLevel t st)
  if (s.st st).pwr.avsHold = true ∨ (s.st st).pwr.raising.isSome = true ∨ n = levelOf s st then
    levelOf t st = levelOf s st ∧ (t.st st).pwr.raising = (s.st st).pwr.raising
  else
    t.fld (pwrPage st) 0x04C 9 0 = levelVolts s st n % 1024 ∧
      if n < levelOf s st then levelOf t st = n ∧ (t.st st).pwr.raising = none
      else levelOf t st = levelOf s st ∧ (t.st st).pwr.raising = some n

/-- The form every state keeps: registers, memory and queues are in the canonical form of their stores, so that states with
equal contents are equal data. -/
def Canonical (s : State) : Prop :=
  Sparse.wf (regDefault s.part) s.regs = true ∧ Memory.wf s ∧ Sparse.wf (fun _ => ({} : Queue)) s.queues = true

/-- A step keeps the form, the part and the commands that wait. -/
structure Kept (s t : State) : Prop where
  part : t.part = s.part
  pending : t.pending = s.pending
  canonical : Canonical s → Canonical t

/-- A command names only units the part populates (R1, R3): its stacks, and the page it names. -/
def unitsPresent (s : State) : Instr → Bool
  | .blockEnable _ p _ | .quiesce _ p _ | .softRst _ p | .softResetDone p | .evtClr _ p _ => s.pageOk p
  | .remoteRowRequest home src _ _ | .filContribution home src => s.has home && s.has src
  | .domainPowerUp dom | .domainFailed dom | .domainPowerDown dom => 64 ≤ dom || s.has (domStack dom)
  | .descriptorAccept st _ | .openStep _ st | .reduceBegin _ st | .arm _ st | .abandon _ st | .openEval _ st
  | .closeEval _ st | .gateTimeout st | .commitSequenceEnd st | .voidSequenceEnd st | .evalEventTaken st | .tnsRun _ st
  | .tnsStop _ st | .beatEdge st _ | .edgeWindowExpiry st | .tick st | .tnsSlotCfg _ st _ | .mxStream st _
  | .mxPassRetire st _ | .mxLdb st _ | .mxDrain st _ | .mxFree st _ | .mxCfgWrite _ st _ _ | .vcRun st _
  | .vcSetchain st _ | .vcSetvl st _ | .vcSave st _ | .vcRestore st _ | .smpOpen st _ | .smpSeeds st _ | .smpHop st _
  | .smpClose st _ | .smpPrefix st _ | .beadGather st | .beadSplit st | .filScatter st | .filRead st | .filExport st
  | .filMerge st | .filCfgWrite _ st _ _ | .hotSetRefreshAdmit st | .hotSetCopyDone st _ | .hotSetDirtyRecopy st _
  | .hotSetSwitch st | .hsEnable _ st | .hsDisable _ st | .keyCommitStep _ st | .keyCommitEval _ st
  | .keyDerivationDone st | .reseed _ st _ | .rngSelfCheck st _ _ | .sramRepair _ st _ | .sramRepairDone st
  | .sramPatrol st _ _ | .lpddr5xPatrol st _ _ _ _ | .lpddr5xRetraining st _ | .softRepair _ st _ | .softRepairDone st _
  | .regionWrite _ st _ | .xfrCopy st _ | .xfrFill st _ | .xfrCompress st _ | .xfrExpand st _ | .xfrToRegion st _
  | .xfrFromRegion st _ | .xfrTilecopy st _ | .add st _ | .sub st _ | .and st _ | .or st _ | .xor st _ | .shl st _
  | .shr st _ | .sar st _ | .mul st _ | .movhi st _ | .cmp st _ | .pset st _ | .br st _ | .call st _ | .jmp st _
  | .halt st _ | .trap st _ | .ldd st _ | .std st _ | .ldg st _ | .ldgReturn st _ | .stg st _ | .rdr st _
  | .rdrReturn st _ | .wrr st _ | .dwr st _ | .dins st _ | .dld st _ | .dst st _ | .push st _ | .pushQueueRoom st _
  | .waitq st _ | .waitqDone st _ | .fence st _ | .fenceDone st _ | .waitdb st _ | .waitdbDone st _ | .time st _
  | .waitpos st _ | .waitposDone st _ | .nop st _ | .seqWatchdog st _ | .seqLoad _ st _ | .seqLoadDone st _
  | .seqStart _ st _ | .seqStop _ st _ | .seqResume _ st _ | .seqSave _ st _ _ | .seqRestore _ st _ | .seqCtxDone st _
  | .seqClear _ st _ | .rebind _ st _ | .rebindScrub st _ | .rebindHandover st _ | .rebindDone st _ | .rebindForced st _
  | .arbSubmit _ st _ | .activitySubmit st _ _ _ | .activityAdmit st _ | .activityEnd st _ _ | .queueTimeout st _
  | .swapCutover st _ _ | .swapCopy st _ _ _ | .swapComplete st _ _ | .idleCoreTest st _ _ | .heartbeatCheck st
  | .pairingCheck st _ | .linkUp st _ _ | .linkDown st _ _ | .netCfgWrite _ st _ _ | .pauseFrame st _ _ _
  | .hsInit st _ _ _ _ | .hsResp st _ _ | .hsReject st _ _ | .data st _ _ _ _ | .ack st _ _ | .close st _
  | .closeAck st _ | .reset st _ | .hsTimeout st _ | .rtoExpiry st _ _ | .failedTimeout st _ | .ackDelay st _
  | .ccPeriod st _ | .kxtOpenGo _ st | .regRd st _ _ | .regWr st _ _ | .memWr st _ _ | .memRd st _ _ | .planLoad st _ _
  | .planStart st _ _ | .mbxWr st _ _ | .mbxWrReply st _ | .doorbell st _ _ | .kxtNop st _ _ | .mbxEventSend st _
  | .checkpointStreamStart st | .ckptAck st _ _ _ | .chanReady _ st _ | .collStartSegment st _ _
  | .collReduceSegment st _ _ | .collGatherSegment st _ _ | .collVoteSegment st _ _ | .collTimeout st _ | .jkSend st _
  | .jkReduceLp st _ | .jkSignal st _ | .linkError st _ | .mbxSend _ st _ _ | .mbxReceive _ st _ | .mbxTimeout st _
  | .mbxDbSet _ st _ _ | .identity _ st | .attest _ st | .custody _ st | .config _ st | .sealEk _ st | .sealKey _ st
  | .sealDrop _ st | .debug _ st | .fwUpdate _ st | .pwrCtlReset _ st | .pllLock st _ | .pwrDomReq _ st _
  | .levelRaiseSwitch st _ | .thermalLevelUpdate st _ _ | .thermAlert st _ | .thermtrip st _ | .sleepBeatCount st
  | .jukanLaneFailed st _ _ | .icmpEcho st _ _ _ _ _ | .neighbourDiscovery st _ _ _ _ | .ptpEventMessage st _ _ _
  | .droppedFrame st _ _ => s.has st
  | .registerWrite _ _ _ | .rcRegisterRead _ _ | .pairLoRead _ _ | .pairLoWrite _ _ _ | .claspGateOpen | .beat _ _ _
  | .wipeComplete | .locketWrite _ _ | .locketScanDone | .locketCursorWrite _ _ _ | .locketWindowLoadDone _ _
  | .locketWin15Read _ _ | .locketSnap _ _ | .lktFwGo _ | .restoreBlock _ | .powerOnReset | .resetN | .powerFail _
  | .powerFailCleared | .refclkLoss _ | .refclkReturn | .powerCapWindow _ _ | .pwrSleep _ _ | .sleepEntered | .wake _
  | .ppsIn | .rtcSet _ _ | .rtcDisciplineTimeout | .startupStageDone _ | .calCopy _ | .calCommit _ | .calCommitDone _
  | .calDiscard _ | .i3cPrivateWrite _ | .i3cPrivateRead | .resetNRelease | .ethRefclkReturn | .thermAlertClear
  | .commonCommandCode _ _ => true

/-- The kinds of state, the registers by the block type of their page. -/
inductive Kind where
  | memory | queues | clasp | tense | mailboxes | sequencers | arbiter | regions | stackPower | keys | cores | sampler | hotSet
  | filigree | ports | sessions | channels | streams | locket | bezel | cal | modulePower | bus | output
  | page (b : Blk)
  deriving DecidableEq, Repr

/-- The registers of every page, and every kind but those named. -/
def everyPage : List Kind := allBlks.map .page
def allBut (l : List Kind) : List Kind :=
  let typed : List Kind := [.memory, .queues, .clasp, .tense, .mailboxes, .sequencers, .arbiter, .regions, .stackPower, .keys,
    .cores, .sampler, .hotSet, .filigree, .ports, .sessions, .channels, .streams, .locket, .bezel, .cal, .modulePower, .bus,
    .output]
  (typed ++ everyPage).filter fun k => !l.contains k

/-- What an event may reach beside its page: a mailbox, its page's HOST_MAIL and a CTL domain that it wakes (R33, R388, R389). -/
def eventKinds : List Kind := [.mailboxes, .page .mbx, .page .pwr]

/-- What a fault may reach beside its page: its event, a Locket request, and the step that it tears (R32, R45, R418). -/
def faultKinds : List Kind := eventKinds ++ [.clasp, .locket, .page .clp, .page .lkt]

/-- A kind of state is the same in both states: as one sees it through the reads of memory, registers and queues. -/
def KindKept (s t : State) : Kind → Prop
  | .memory => MemoryKept s t
  | .queues => QueuesKept s t
  | .clasp => ∀ i, (t.st i).clp = (s.st i).clp
  | .tense => ∀ i, (t.st i).tns = (s.st i).tns
  | .mailboxes => ∀ i, (t.st i).mbx = (s.st i).mbx
  | .sequencers => ∀ i, (t.st i).seqs = (s.st i).seqs
  | .arbiter => ∀ i, (t.st i).arb = (s.st i).arb
  | .regions => ∀ i, (t.st i).regions = (s.st i).regions
  | .stackPower => ∀ i, (t.st i).pwr = (s.st i).pwr
  | .keys => ∀ i, (t.st i).keys = (s.st i).keys
  | .cores => ∀ i, (t.st i).cores = (s.st i).cores
  | .sampler => ∀ i, (t.st i).groups = (s.st i).groups ∧ (t.st i).batches = (s.st i).batches
  | .hotSet => ∀ i, (t.st i).hot = (s.st i).hot
  | .filigree => ∀ i, (t.st i).fil = (s.st i).fil
  | .ports => ∀ i, (t.st i).ports = (s.st i).ports
  | .sessions => ∀ i, (t.st i).sess = (s.st i).sess
  | .channels => ∀ i, (t.st i).chans = (s.st i).chans
  | .streams => ∀ i, (t.st i).ckpt = (s.st i).ckpt
  | .locket => t.mod.lkt = s.mod.lkt
  | .bezel => t.mod.bzl = s.mod.bzl
  | .cal => t.mod.cal = s.mod.cal
  | .modulePower => t.mod.pwr = s.mod.pwr
  | .bus => t.mod.bus = s.mod.bus
  | .output => t.out = s.out
  | .page b => ∀ p : Page, p.blk = b → p.inst < instances b → ∀ off < 4096, t.reg p off = s.reg p off

/-- The kinds of state a command may change, whatever its operands and the state; it changes no other. -/
def footprint : Instr → List Kind
  | .registerWrite _ _ _ | .pairLoWrite _ _ _ | .filCfgWrite _ _ _ _ | .wrr _ _ | .data _ _ _ _ _ | .regWr _ _ _
  | .planLoad _ _ _ => allBut [.bus]
  | .rcRegisterRead _ _ | .pairLoRead _ _ => everyPage ++ [.clasp, .mailboxes, .locket, .output]
  | .blockEnable _ _ _ | .quiesce _ _ _ | .softRst _ _ =>
    allBut [.memory, .regions, .stackPower, .keys, .bezel, .modulePower, .bus, .output]
  | .softResetDone _ => everyPage
  | .evtClr _ _ _ => everyPage ++ [.queues, .sampler, .channels]
  | .descriptorAccept _ _ =>
    faultKinds ++ [.memory, .queues, .sampler, .page .mx, .page .vc, .page .smp, .page .bead, .page .fil, .page .jk,
      .page .mem, .page .xfr, .page .srm]
  | .openStep _ _ | .reduceBegin _ _ | .arm _ _ | .abandon _ _ | .openEval _ _ | .closeEval _ _ => faultKinds ++ [.keys]
  | .claspGateOpen => faultKinds ++ [.memory, .hotSet, .page .bead, .page .fil, .page .kxt, .page .mem, .page .srm]
  | .gateTimeout _ | .locketWrite _ _ | .locketWindowLoadDone _ _ => faultKinds
  | .commitSequenceEnd _ | .voidSequenceEnd _ =>
    faultKinds ++ [.arbiter, .filigree, .streams, .page .arb, .page .kxt, .page .mem]
  | .evalEventTaken _ => eventKinds ++ [.clasp, .keys, .page .clp]
  | .tnsRun _ _ | .tnsStop _ _ => [.tense, .page .tns]
  | .edgeWindowExpiry _ | .tnsSlotCfg _ _ _ => faultKinds ++ [.tense, .page .tns]
  | .tick _ | .beatEdge _ _ | .beat _ _ _ =>
    faultKinds ++ [.memory, .tense, .arbiter, .keys, .sessions, .channels, .streams, .output, .page .bead, .page .arb,
      .page .tns, .page .kxt, .page .mem, .page .srm]
  | .mxStream _ _ | .mxLdb _ _ | .mxFree _ _ => faultKinds ++ [.queues, .cores, .page .mx]
  | .mxPassRetire _ _ => eventKinds ++ [.queues, .cores, .page .mx]
  | .mxDrain _ _ => faultKinds ++ [.memory, .queues, .cores, .page .mx]
  | .mxCfgWrite _ _ _ _ => [.page .mx]
  | .vcRun _ _ => faultKinds ++ [.memory, .queues, .cores, .page .mx, .page .vc, .page .rng]
  | .vcSetchain _ _ | .vcSetvl _ _ => eventKinds ++ [.queues, .cores, .page .vc]
  | .vcSave _ _ => faultKinds ++ [.memory, .queues, .page .vc]
  | .vcRestore _ _ => faultKinds ++ [.queues, .cores, .page .vc, .page .rng]
  | .smpOpen _ _ | .smpSeeds _ _ | .smpHop _ _ | .smpPrefix _ _ =>
    faultKinds ++ [.memory, .queues, .sampler, .page .smp, .page .mem, .page .srm]
  | .smpClose _ _ => faultKinds ++ [.queues, .sampler, .page .smp, .page .mem, .page .srm]
  | .beadGather _ | .beadSplit _ => faultKinds ++ [.memory, .queues, .page .bead, .page .mem, .page .srm]
  | .remoteRowRequest _ _ _ _ => [.output, .page .bead]
  | .filScatter _ | .filContribution _ _ | .filMerge _ =>
    faultKinds ++ [.queues, .filigree, .page .fil, .page .mem, .page .srm]
  | .filRead _ => faultKinds ++ [.memory, .queues, .filigree, .page .fil, .page .mem, .page .srm]
  | .filExport _ => faultKinds ++ [.memory, .queues, .page .fil, .page .mem, .page .srm]
  | .hotSetRefreshAdmit _ => faultKinds ++ [.arbiter, .hotSet, .page .bead, .page .mem, .page .srm]
  | .hotSetCopyDone _ _ => faultKinds ++ [.memory, .arbiter, .hotSet, .page .bead, .page .mem, .page .srm]
  | .hotSetDirtyRecopy _ _ => [.hotSet]
  | .hotSetSwitch _ => eventKinds ++ [.hotSet, .page .bead]
  | .hsEnable _ _ | .hsDisable _ _ => [.arbiter, .hotSet, .page .bead]
  | .keyCommitStep _ _ => eventKinds ++ [.keys, .cores, .page .rng]
  | .keyCommitEval _ _ => eventKinds ++ [.keys, .page .rng]
  | .keyDerivationDone _ => [.keys]
  | .reseed _ _ _ => eventKinds ++ [.cores, .page .rng]
  | .rngSelfCheck _ _ _ => faultKinds ++ [.page .rng]
  | .sramRepair _ _ _ => eventKinds ++ [.arbiter, .locket, .page .arb, .page .mem, .page .srm, .page .lkt]
  | .sramRepairDone _ => eventKinds ++ [.arbiter, .locket, .page .arb, .page .srm, .page .lkt]
  | .sramPatrol _ _ _ => faultKinds ++ [.page .srm]
  | .lpddr5xPatrol _ _ _ _ _ => eventKinds ++ [.page .mem]
  | .lpddr5xRetraining _ _ | .softRepair _ _ _ => eventKinds ++ [.arbiter, .locket, .page .arb, .page .mem, .page .lkt]
  | .softRepairDone _ _ | .activityEnd _ _ _ => eventKinds ++ [.arbiter, .locket, .page .mem, .page .lkt]
  | .regionWrite _ _ _ => eventKinds ++ [.regions, .page .xfr]
  | .xfrCopy _ _ | .xfrFill _ _ | .xfrCompress _ _ | .xfrExpand _ _ | .xfrToRegion _ _ | .xfrFromRegion _ _
  | .xfrTilecopy _ _ => faultKinds ++ [.memory, .queues, .page .mem, .page .xfr, .page .srm]
  | .add _ _ | .sub _ _ | .and _ _ | .or _ _ | .xor _ _ | .shl _ _ | .shr _ _ | .sar _ _ | .mul _ _ | .movhi _ _
  | .cmp _ _ | .pset _ _ | .br _ _ | .call _ _ | .jmp _ _ | .halt _ _ | .trap _ _ | .ldd _ _ | .std _ _ | .dwr _ _
  | .dins _ _ | .dld _ _ | .dst _ _ | .waitq _ _ | .fence _ _ | .waitdb _ _ | .time _ _ | .waitpos _ _ | .nop _ _
  | .seqWatchdog _ _ => faultKinds ++ [.sequencers, .page .seq]
  | .ldg _ _ | .ldgReturn _ _ => faultKinds ++ [.sequencers, .page .seq, .page .mem, .page .srm]
  | .stg _ _ | .seqCtxDone _ _ => faultKinds ++ [.memory, .sequencers, .page .seq, .page .mem, .page .srm]
  | .rdr _ _ | .rdrReturn _ _ => everyPage ++ [.clasp, .mailboxes, .sequencers, .locket]
  | .push _ _ => faultKinds ++ [.queues, .sequencers, .page .seq]
  | .pushQueueRoom _ _ => [.queues, .sequencers, .page .seq]
  | .waitqDone _ _ | .fenceDone _ _ | .waitposDone _ _ => [.sequencers, .page .seq]
  | .waitdbDone _ _ => [.mailboxes, .sequencers, .page .seq]
  | .seqLoad _ _ _ | .seqStart _ _ _ | .seqResume _ _ _ | .seqSave _ _ _ _ | .seqRestore _ _ _ | .seqClear _ _ _ =>
    [.sequencers]
  | .seqLoadDone _ _ =>
    faultKinds ++ [.sequencers, .sessions, .bezel, .output, .page .seq, .page .kxt, .page .mem, .page .srm, .page .bzl]
  | .seqStop _ _ _ => eventKinds ++ [.sequencers, .page .seq]
  | .rebind _ _ _ => everyPage ++ [.queues, .mailboxes, .sequencers, .arbiter, .regions, .sessions, .locket, .output]
  | .rebindScrub _ _ | .rebindDone _ _ => everyPage ++ [.mailboxes, .arbiter, .regions, .locket]
  | .rebindHandover _ _ => allBut [.stackPower, .keys, .ports, .bezel, .cal, .modulePower, .bus, .output]
  | .rebindForced _ _ => allBut [.memory, .stackPower, .keys, .bezel, .modulePower, .bus, .output]
  | .arbSubmit _ _ _ | .activitySubmit _ _ _ _ | .activityAdmit _ _ =>
    everyPage ++ [.clasp, .mailboxes, .sequencers, .arbiter, .locket]
  | .queueTimeout _ _ => faultKinds ++ [.arbiter, .streams, .page .arb]
  | .swapCutover _ _ _ => [.arbiter, .page .pwr]
  | .swapCopy _ _ _ _ | .swapComplete _ _ _ => everyPage ++ [.mailboxes, .arbiter, .locket]
  | .idleCoreTest _ _ _ => everyPage ++ [.memory, .clasp, .mailboxes, .sequencers, .arbiter, .cores, .locket]
  | .heartbeatCheck _ => faultKinds ++ [.arbiter, .streams, .page .arb, .page .kxt]
  | .pairingCheck _ _ | .custody _ _ | .domainPowerDown _ => allBut [.tense, .modulePower, .bus, .output]
  | .linkUp _ _ _ | .pauseFrame _ _ _ _ => eventKinds ++ [.ports, .page .net]
  | .linkDown _ _ _ | .netCfgWrite _ _ _ _ => faultKinds ++ [.ports, .page .net]
  | .hsInit _ _ _ _ _ => eventKinds ++ [.sessions, .output, .page .kxt]
  | .hsResp _ _ _ => eventKinds ++ [.sessions, .page .kxt]
  | .hsReject _ _ _ | .hsTimeout _ _ | .failedTimeout _ _ =>
    faultKinds ++ [.sequencers, .sessions, .channels, .streams, .page .kxt]
  | .ack _ _ _ | .kxtOpenGo _ _ | .mbxWrReply _ _ => [.sessions, .output, .page .kxt]
  | .close _ _ | .closeAck _ _ => faultKinds ++ [.sequencers, .sessions, .channels, .streams, .output, .page .kxt]
  | .reset _ _ | .ccPeriod _ _ => [.sessions]
  | .rtoExpiry _ _ _ => faultKinds ++ [.sessions, .channels, .streams, .output, .page .kxt]
  | .ackDelay _ _ => [.sessions, .output]
  | .regRd _ _ _ => everyPage ++ [.clasp, .mailboxes, .sessions, .locket, .bezel, .output]
  | .memWr _ _ _ =>
    faultKinds ++ [.memory, .arbiter, .hotSet, .sessions, .bezel, .output, .page .kxt, .page .mem, .page .srm, .page .bzl]
  | .memRd _ _ _ => faultKinds ++ [.sessions, .bezel, .output, .page .kxt, .page .mem, .page .srm, .page .bzl]
  | .planStart _ _ _ => faultKinds ++ [.sequencers, .sessions, .bezel, .output, .page .kxt, .page .bzl]
  | .mbxWr _ _ _ | .doorbell _ _ _ | .kxtNop _ _ _ => faultKinds ++ [.sessions, .bezel, .output, .page .kxt, .page .bzl]
  | .mbxEventSend _ _ => [.sessions, .output, .page .mbx, .page .kxt]
  | .checkpointStreamStart _ => faultKinds ++ [.sessions, .streams, .bezel, .output, .page .kxt]
  | .ckptAck _ _ _ _ => faultKinds ++ [.streams, .page .kxt]
  | .chanReady _ _ _ | .collStartSegment _ _ _ | .collReduceSegment _ _ _ | .collGatherSegment _ _ _ =>
    faultKinds ++ [.memory, .sessions, .channels, .output, .page .kxt, .page .mem, .page .srm]
  | .collVoteSegment _ _ _ | .collTimeout _ _ => faultKinds ++ [.channels, .page .kxt]
  | .jkSend _ _ | .jkReduceLp _ _ => faultKinds ++ [.memory, .queues, .page .jk, .page .mem, .page .srm]
  | .jkSignal _ _ | .linkError _ _ => faultKinds ++ [.queues, .page .jk, .page .mem, .page .srm]
  | .mbxSend _ _ _ _ | .mbxTimeout _ _ | .mbxDbSet _ _ _ _ => eventKinds
  | .mbxReceive _ _ _ => eventKinds ++ [.output]
  | .identity _ _ | .attest _ _ | .sealEk _ _ => eventKinds ++ [.locket, .page .bzl, .page .lkt]
  | .wipeComplete | .sealKey _ _ | .sealDrop _ _ | .debug _ _ => eventKinds ++ [.locket, .bezel, .page .bzl, .page .lkt]
  | .config _ _ => faultKinds ++ [.sequencers, .sessions, .channels, .streams, .bezel, .output, .page .kxt, .page .bzl]
  | .fwUpdate _ _ => eventKinds ++ [.stackPower, .locket, .bezel, .page .bzl, .page .lkt, .page .pwrm]
  | .locketScanDone | .lktFwGo _ => eventKinds ++ [.locket, .page .lkt]
  | .locketCursorWrite _ _ _ | .locketSnap _ _ => [.locket]
  | .locketWin15Read _ _ => faultKinds ++ [.output]
  | .restoreBlock _ => eventKinds ++ [.clasp, .keys, .locket, .page .lkt]
  | .powerOnReset | .i3cPrivateWrite _ => allBut []
  | .resetN | .powerFailCleared | .pwrCtlReset _ _ | .refclkReturn | .pllLock _ _ | .thermtrip _ _ =>
    allBut [.tense, .bus, .output]
  | .powerFail _ => eventKinds ++ [.locket, .modulePower, .page .lkt, .page .pwrm]
  | .refclkLoss _ => faultKinds ++ [.ports, .modulePower, .page .net, .page .pwrm]
  | .pwrDomReq _ _ _ => everyPage ++ [.mailboxes]
  | .domainPowerUp _ => everyPage ++ [.mailboxes, .ports]
  | .domainFailed _ => faultKinds ++ [.page .pwrm]
  | .powerCapWindow _ _ => faultKinds ++ [.stackPower, .modulePower, .page .pwrm]
  | .levelRaiseSwitch _ _ | .thermalLevelUpdate _ _ _ | .thermAlert _ _ => faultKinds ++ [.stackPower, .page .pwrm]
  | .pwrSleep _ _ => everyPage ++ [.mailboxes, .modulePower]
  | .sleepEntered => [.tense, .modulePower]
  | .wake _ => allBut [.bus, .output]
  | .ppsIn | .rtcSet _ _ | .ptpEventMessage _ _ _ _ => [.modulePower, .page .pwrm]
  | .rtcDisciplineTimeout | .thermAlertClear => [.page .pwrm]
  | .startupStageDone _ =>
    faultKinds ++ [.stackPower, .ports, .bezel, .cal, .modulePower, .page .arb, .page .net, .page .jk, .page .mem,
      .page .srm, .page .bzl, .page .pwrm, .page .cal]
  | .calCopy _ | .calCommit _ => [.cal, .page .cal]
  | .calCommitDone _ => eventKinds ++ [.stackPower, .bezel, .cal, .page .cal]
  | .calDiscard _ => [.cal]
  | .i3cPrivateRead | .commonCommandCode _ _ => [.bus, .output]
  | .resetNRelease | .ethRefclkReturn => [.modulePower]
  | .sleepBeatCount _ => [.tense]
  | .jukanLaneFailed _ _ _ => faultKinds ++ [.page .arb, .page .jk]
  | .icmpEcho _ _ _ _ _ _ | .neighbourDiscovery _ _ _ _ _ => [.output]
  | .droppedFrame _ _ _ => [.page .net]

/-- A state from which every run of any length answers a next state. -/
def NeverStops (s : State) : Prop := ∀ k, ∃ t, core.run k s = .next t

end Sys2Proof.Safety
end

