-- ==== Sys2Proof/Certificates/Slice0/Obligations.lean ====
section
/-! DEFINITION. The statements for the provers. Where a statement rests on a choice of the model, its docstring names the
entry of the assumption log. -/

open Sys2Proof Sys2Proof.Machine Sys2Proof.Safety

/-- With a command at the front of the queue, a step is exactly what that command does to the state with the rest of the queue; on
an empty queue it answers the same state (the model's choice, entry 1 of the assumption log); and a word of the table spells no
command, since no row of the table has bits. The queue is asked of the model of a block; it is no rule of the spec. -/
def Obligations.StepRunsTheFrontCommand : Prop :=
  (∀ (c : Instr) (cs : List Instr) (s : State),
    step { s with pending := c :: cs } = exec c { s with pending := cs }) ∧
  (∀ s : State, s.pending = [] → step s = .next s) ∧
  ∀ (s : State) (nbits w : Nat), decodeTableWord nbits w = none ∧ s.withFetchWord nbits w = s

/-- A command that names a unit of a stack the part does not populate stops with the fault absentStack, whatever else it names, so
it changes nothing (R1, R3); that the model says so by a fault is the model's form. Where the units it names are populated it
answers a next state: no command is refused and none stops on its data. -/
def Obligations.CommandsStopForAbsentStacksOnly : Prop :=
  ∀ (c : Instr) (s : State), (unitsPresent s c = false → exec c s = .fault .absentStack) ∧
    (unitsPresent s c = true → ∃ t, exec c s = .next t)

/-- From every state whose waiting commands name only units the part populates, a run of any length answers a next state: no
step of it is a fault or a refusal. -/
def Obligations.RunsNeverStop : Prop :=
  ∀ s : State, (∀ c ∈ s.pending, unitsPresent s c = true) → NeverStops s

/-- From every state whose register store, memory and queue store are in canonical form, each step that answers a next state
leaves them in canonical form. -/
def Obligations.StepKeepsCanonicalForm : Prop :=
  ∀ s t : State, Canonical s → step s = .next t → Canonical t

/-- The form that every step keeps holds in the state after reset. -/
def Obligations.ResetIsCanonical : Prop := Canonical State.reset

/-- Whatever a command does, the populated stacks stay what they were, and no command reads or changes the queue. -/
def Obligations.CommandsKeepPartAndQueue : Prop :=
  ∀ (c : Instr) (s t : State), exec c s = .next t → t.part = s.part ∧ t.pending = s.pending

/-- After reset, as the register tables give it: the part is the KX-820 (R4), start-up stands at stage 1 and the CTL domains
are on (R470, R471), every Clasp is IDLE at step 0 (R38), every sequencer is EMPTY (R341), every mailbox is empty with its
doorbell enables all set (R394), every queue is empty with both sequences zero (R320), no base key is set (R283), and the
levels are 16. -/
def Obligations.ResetLeaves : Prop :=
  State.reset.part = .kx820 ∧ State.reset.pending = [] ∧
    regValue State.reset pwrmPage 0x040 = 1 ∧
    ∀ st : Fin 8,
      regValue State.reset (pwrPage st) 0x044 = 0x80 ∧ regValue State.reset (pwrPage st) 0x048 = 0x101010 ∧
      (State.reset.st st).clp.state = .idle ∧ (State.reset.st st).clp.step = 0 ∧
      (∀ n : Fin 4, (State.reset.seq st n).st = .empty) ∧
      (∀ m : Nat, (State.reset.box st m).full = false ∧ (State.reset.box st m).word = 0 ∧
        (State.reset.box st m).dbEn = 0xFFFFFFFF) ∧
      (∀ q : Nat, (State.reset.queue st q).entries = [] ∧ (State.reset.queue st q).accept = 0 ∧
        (State.reset.queue st q).retire = 0) ∧
      (State.reset.st st).keys.skeySet = false ∧ (State.reset.st st).keys.ekeySet = false

/-- REGISTER_WRITE, RC_REGISTER_READ, PAIR_LO_READ and PAIR_LO_WRITE, each on a register of its kind. A permitted write of EVT_EN
of any page leaves the value written (R7, R30). A read of an RC register, MEM_LINK_CE_CNT, returns its value and clears it
(R7, R8). A read of FAULT_ADDR_LO of any page returns it, and whatever then happens to the pair, the next read of
FAULT_ADDR_HI returns the high half of that moment (R9). A write of KXT_CHAN_BASE_LO takes effect with the staged high half, or
where none is staged with the one that stands, and a write of the high half alone changes neither register (R9). A permitted write of MEM_PATROL whose
HOURS is the reserved value 0 leaves HOURS as it was, and EN takes the value written; with a legal HOURS both take it (R10, R308). -/
def Obligations.RegisterAccesses : Prop :=
  (∀ (s : State) (r r' : Requester) (p : Page) (a : DWord) (v : Word),
    regTargets s r a.toNat = some [(p, r')] → a.toNat % 4096 = 0x014 → mayWrite s r' p 0x014 = true →
    Completes (.registerWrite r a v) s fun t => t.reg p 0x014 = v) ∧
  (∀ (s : State) (r r' : Requester) (st : Fin 8) (dev : Fin 4) (a : DWord),
    regSource s r a.toNat = some (stackPage st .mem dev.val, r') → a.toNat % 4096 = 0x050 →
    Completes (.rcRegisterRead r a) s fun t =>
      t.out = s.out ++ [.value r (s.reg (stackPage st .mem dev.val) 0x050)] ∧
        t.reg (stackPage st .mem dev.val) 0x050 = 0) ∧
  (∀ (s : State) (r r' : Requester) (p : Page) (a : DWord),
    regSource s r a.toNat = some (p, r') → a.toNat % 4096 = 0x028 →
    Completes (.pairLoRead r a) s fun t =>
      t.out = s.out ++ [.value r (s.reg p 0x028)] ∧
        ∀ u : State, u.latched = t.latched →
          (readReg u r' p 0x02C).1 = BitVec.ofNat 32 ((s.reg p 0x02C).toNat % 2 ^ 20)) ∧
  (∀ (s : State) (r r' : Requester) (st : Fin 8) (a : DWord) (v : Word),
    regTargets s r a.toNat = some [(kxtPage st, r')] → mayWrite s r' (kxtPage st) (a.toNat % 4096) = true →
    (a.toNat % 4096 = 0x090 → Completes (.pairLoWrite r a v) s fun t =>
      t.reg (kxtPage st) 0x090 = v ∧
        t.reg (kxtPage st) 0x094 =
          (Sparse.find s.staged ((kxtPage st).key 0x094)).getD (s.reg (kxtPage st) 0x094)) ∧
    (a.toNat % 4096 = 0x094 → Completes (.registerWrite r a v) s fun t =>
      t.reg (kxtPage st) 0x090 = s.reg (kxtPage st) 0x090 ∧ t.reg (kxtPage st) 0x094 = s.reg (kxtPage st) 0x094 ∧
        Sparse.find t.staged ((kxtPage st).key 0x094) = some v)) ∧
  (∀ (s : State) (r r' : Requester) (st : Fin 8) (dev : Fin 4) (a : DWord) (v : Word),
    let p := stackPage st .mem dev.val
    regTargets s r a.toNat = some [(p, r')] → a.toNat % 4096 = 0x040 → mayWrite s r' p 0x040 = true →
    Completes (.registerWrite r a v) s fun t =>
      t.fld p 0x040 15 8 = (if bitsOf v.toNat 15 8 = 0 then s.fld p 0x040 15 8 else bitsOf v.toNat 15 8) ∧
        t.flag p 0x040 0 = bitAt v.toNat 0)

/-- Each write of the common header that its requester may make: BLOCK_ENABLE and QUIESCE set their bit of BLK_CTRL and leave
the other (R30). SOFT_RST, where none runs and, for the CLP and FIL pages, the step is not in COMMIT, shows SOFT_RST and clears the fault record, and
SOFT_RESET_DONE ends it (R31). EVT_CLR clears the events written with 1 and leaves the others of the page; with bit 0 it clears
the fault record (R30, R32). FIL_CFG_WRITE of FIL_CFG takes LOCK_ALL while the touched-row set is empty in state IDLE, and
else sets CFG_IGNORED and leaves FIL_CFG (R262). -/
def Obligations.HeaderWrites : Prop :=
  (∀ (s : State) (r : Requester) (p : Page) (on : Bool), s.pageOk p = true → mayWrite s r p 0x008 = true →
    Completes (.blockEnable r p on) s (fun t => t.flag p 0x008 0 = on ∧ t.flag p 0x008 2 = s.flag p 0x008 2) ∧
    Completes (.quiesce r p on) s (fun t => t.flag p 0x008 2 = on ∧ t.flag p 0x008 0 = s.flag p 0x008 0) ∧
    (s.flag p 0x008 1 = false → (p.blk = .clp ∨ p.blk = .fil → (s.st p.home).clp.state ≠ .commit) →
      Completes (.softRst r p) s fun t => t.flag p 0x008 1 = true ∧ t.fld p 0x020 31 0 = 0)) ∧
  (∀ (s : State) (p : Page), s.pageOk p = true → Completes (.softResetDone p) s fun t => t.flag p 0x008 1 = false) ∧
  (∀ (s : State) (r : Requester) (p : Page) (v : Word), s.pageOk p = true → mayWrite s r p 0x01C = true →
    Completes (.evtClr r p v) s fun t =>
      t.reg p 0x010 = s.reg p 0x010 &&& ~~~v ∧ (bitAt v.toNat 0 = true → t.fld p 0x020 31 0 = 0)) ∧
  (∀ (s : State) (r : Requester) (st : Fin 8) (v : Word), s.has st = true → mayWrite s r (filPage st) 0x040 = true →
    Completes (.filCfgWrite r st 0x040 v) s fun t =>
      if filFree s st then t.flag (filPage st) 0x040 0 = bitAt v.toNat 0
      else t.flag (filPage st) 0x074 2 = true ∧ t.reg (filPage st) 0x040 = s.reg (filPage st) 0x040)

/-- The first waiting descriptor of a queue, when its engine takes it: with a right check value, its engine's KIND and no
reserved bit or encoding, it is accepted, and the queue holds the same descriptors in the same order. For a matrix array the
formats must pair (R92), for a core not dead (R428), and for Bead and Filigree the checks of acceptance must pass. One whose check
value is wrong, taken by an engine that is not dead, starts nothing: the page records its class with detail CHECK, COUNT rises by
one and holds at its greatest value, the descriptor has left its engine, and no byte of memory changes (R16, R32). -/
def Obligations.DescriptorsAreAcceptedOrRejected : Prop :=
  (∀ (s : State) (st : Fin 8) (q i : Nat) (p : Page) (e : Entry),
    s.has st = true → queuePage st q = some p →
    ((s.queue st q).entries.zipIdx.find? fun e => e.1.st == .queued) = some (e, i) →
    (queueAccepts s st p q && unitFree s st p q e && !acceptHeld s st p q e.desc) = true →
    ((p.blk = .mx ∨ p.blk = .vc) → coreDead s st p.inst = false) →
    descBits e.desc 3 63 48 = (descCheck e.desc).toNat → descBits e.desc 0 7 0 = kindOf p.blk →
    firstOffending e.desc (fieldsOn s st p q e.desc) = none →
    (p.blk = .mx → descOp e.desc = 1 → fmtPair (descBits e.desc 0 35 32) (descBits e.desc 0 39 36) = true) →
    (p.blk = .bead → ∃ l, beadAccept s st e.desc = .ok l) → (p.blk = .fil → ∃ l, filAccept s st e.desc = .ok l) →
    Completes (.descriptorAccept st q) s fun t =>
      ((t.queue st q).entries[i]?).map (·.st) = some .accepted ∧
        (t.queue st q).entries.map (·.desc) = (s.queue st q).entries.map (·.desc) ∧
        (t.queue st q).accept = (s.queue st q).accept ∧ (t.queue st q).retire = (s.queue st q).retire) ∧
  (∀ (s : State) (st : Fin 8) (q i : Nat) (p : Page) (e : Entry),
    s.has st = true → queuePage st q = some p →
    ((s.queue st q).entries.zipIdx.find? fun e => e.1.st == .queued) = some (e, i) →
    (queueAccepts s st p q && unitFree s st p q e && !acceptHeld s st p q e.desc) = true →
    ((p.blk = .mx ∨ p.blk = .vc) → coreDead s st p.inst = false) →
    descBits e.desc 3 63 48 ≠ (descCheck e.desc).toNat →
    Completes (.descriptorAccept st q) s fun t =>
      t.fld p 0x020 7 0 = 0x02 ∧ t.fld p 0x020 15 8 = classOf p.blk ∧
        t.fld p 0x020 31 16 = min 0xFFFF (s.fld p 0x020 31 16 + 1) ∧ MemoryKept s t)

/-- Each command of CLP_CMD in the state that lists it and with its condition (R39). OPEN_STEP in IDLE consumes the next step
number and opens it with no loss reported (R35, R38). REDUCE_BEGIN needs MB_COUNT reports or VOID_PLAN, ARM the votes done or
VOID_PLAN. ABANDON sets VOID_PLAN and keeps the state. OPEN_EVAL counts an evaluation (R51), CLOSE_EVAL returns to IDLE. A held
evaluation event goes first (R52), so the commands of IDLE are stated with none held; EVAL_EVENT_TAKEN takes it. -/
def Obligations.ClaspCommands : Prop :=
  (∀ (s : State) (r : Requester) (st : Fin 8), s.has st = true → mayWrite s r (clpPage st) 0x040 = true →
    let c := (s.st st).clp
    (c.state = .idle → c.evalHeld = false → 1 ≤ mbCount s st → Completes (.openStep r st) s fun t =>
      let d := (t.st st).clp
      d.state = .opened ∧ d.step = c.step + 1 ∧ d.mbReported = 0 ∧ d.lossMb = 0xFFFF ∧ d.committed = c.committed) ∧
    (c.state = .opened → (c.mbReported = mbCount s st ∨ c.voidPlan = true) → Completes (.reduceBegin r st) s fun t =>
      (t.st st).clp = { c with state := .reduce }) ∧
    (c.state = .reduce → (votesDone s st = true ∨ c.voidPlan = true) → Completes (.arm r st) s fun t =>
      (t.st st).clp = { c with state := .armed }) ∧
    (c.state = .opened ∨ c.state = .reduce ∨ c.state = .armed → Completes (.abandon r st) s fun t =>
      (t.st st).clp = { c with voidPlan := true }) ∧
    (c.state = .idle → c.evalHeld = false → Completes (.openEval r st) s fun t =>
      let d := (t.st st).clp
      d.state = .eval ∧ d.evals = c.evals + 1 ∧ d.mbReported = 0 ∧ d.evalNonfinite = false) ∧
    (c.state = .eval → Completes (.closeEval r st) s fun t =>
      (t.st st).clp.state = .idle ∧ (t.st st).clp.evals = c.evals)) ∧
  (∀ (s : State) (st : Fin 8), s.has st = true → (s.st st).clp.state = .idle → (s.st st).clp.evalHeld = true →
    Completes (.evalEventTaken st) s fun t =>
      (t.st st).clp.state = .eval ∧ (t.st st).clp.evalHeld = false ∧ (t.st st).clp.evals = (s.st st).clp.evals + 1 ∧
        t.flag (clpPage st) 0x010 8 = true)

/-- A command that is not listed for the state changes no step state and records CMD_ORDER on the CLP page, with FAULT_INFO
naming the command and the state; in particular OPEN_STEP and OPEN_EVAL in TORN (R39, R45). -/
def Obligations.ClaspCommandsOutOfOrder : Prop :=
  ∀ (s : State) (r : Requester) (st : Fin 8), s.has st = true → mayWrite s r (clpPage st) 0x040 = true →
    let c := (s.st st).clp
    let refusedWith := fun (op : Nat) (t : State) =>
      (t.st st).clp = c ∧ t.fld (clpPage st) 0x020 15 0 = 0x0920 ∧
        (t.reg (clpPage st) 0x024).toNat = op + 16 * stepCode c.state
    (c.state ≠ .idle → Completes (.openStep r st) s (refusedWith 1) ∧ Completes (.openEval r st) s (refusedWith 5)) ∧
      (c.state = .armed ∨ c.state = .commit ∨ c.state = .torn →
        Completes (.reduceBegin r st) s (refusedWith 2) ∧ Completes (.arm r st) s (refusedWith 3) ∧
          Completes (.closeEval r st) s (refusedWith 6))

/-- CLASP_GATE_OPEN with every condition of R41 met in every populated stack, equal step numbers, no late vote and the clocks
running: with a VOID bit set in some stack every stack enters the VOID sequence; with none, and with no dense entry and no
touched row to update, every stack enters the committed sequence; either way stack 0's step record is requested (R42, R65).
GATE_TIMEOUT records GATE_TIMEOUT once GATE_LIMIT beats have passed since the event's position (R41). COMMIT_SEQUENCE_END
commits the step and returns to IDLE with the touched-row set empty (R43); VOID_SEQUENCE_END counts the VOID and leaves the
committed step as it was (R46). -/
def Obligations.ClaspGateAndSequences : Prop :=
  (∀ s : State, (∀ i : Fin 8, s.has i = true → gateMissing s i = 0 ∧ (s.st i).clp.step = (s.st 0).clp.step) →
    voteLate s = false → s.clocked = true →
    (stepOutcome s ≠ 0 → Completes .claspGateOpen s fun t =>
      t.mod.lkt.stepWaits = true ∧
        ∀ i : Fin 8, s.has i = true → (t.st i).clp.state = .commit ∧ (t.st i).clp.sequence = .void) ∧
    (stepOutcome s = 0 →
      (∀ i : Fin 8, s.has i = true → s.fld (filPage i) 0x068 15 0 = 0 ∧ (s.st i).fil.touched = []) →
      Completes .claspGateOpen s fun t =>
        t.mod.lkt.stepWaits = true ∧
          ∀ i : Fin 8, s.has i = true → (t.st i).clp.state = .commit ∧ (t.st i).clp.sequence = .commit)) ∧
  (∀ (s : State) (st : Fin 8) (p : DWord), s.has st = true →
    let c := (s.st st).clp
    let limit := s.fld (clpPage st) 0x048 7 0
    c.due = some p → limit ≠ 0 → c.timedOut = false → c.state ≠ .commit →
    p.toNat + limit * 65536 ≤ (s.st st).tns.pos.toNat →
    Completes (.gateTimeout st) s fun t =>
      (t.st st).clp.timedOut = true ∧ t.fld (clpPage st) 0x020 15 0 = 0x0922 ∧
        (t.reg (clpPage st) 0x024).toNat = gateMissing s st) ∧
  (∀ (s : State) (st : Fin 8), s.has st = true → (s.st st).clp.state = .commit → s.mod.lkt.stepWaits = false →
    s.clocked = true → (s.st st).clp.ckptWaits = false →
    ((s.st st).clp.sequence = .commit → Completes (.commitSequenceEnd st) s fun t =>
      (t.st st).clp.state = .idle ∧ (t.st st).clp.committed = (s.st st).clp.step ∧ (t.st st).fil.touched = [] ∧
        t.flag (clpPage st) 0x010 3 = true) ∧
    ((s.st st).clp.sequence = .void → Completes (.voidSequenceEnd st) s fun t =>
      (t.st st).clp.state = .idle ∧ (t.st st).clp.committed = (s.st st).clp.committed ∧ (t.st st).fil.touched = [] ∧
        (t.st st).clp.voidCnt = sat32 ((s.st st).clp.voidCnt.toNat + 1) ∧ t.flag (clpPage st) 0x010 4 = true))

/-- TNS_RUN starts acquisition and TNS_STOP ends it with the ticks (R54, R67). BEAT_EDGE: the first edge of an acquisition sets the
phase, the third within the window locks the unit at tick 0 (R54). EDGE_WINDOW_EXPIRY: without an accepted edge the unit
freewheels and at the fourth beat is LOST, with BEAT_LOST recorded (R57). TICK advances the position by one inside a beat, and
at tick 65,535 to tick 0 of the next beat (R55, R56); with no slot armed it changes no other part of the slots. TNS_SLOT_CFG
arms the selected slot with the staged position and period where KIND and TARGET are legal (R61, R62). SLEEP_BEAT_COUNT counts a
beat in sleep with SRC 1 (R60). A unit with one armed slot, of KIND 7 and with no period, that is not missed: the tick that brings
its position sets its doorbell bit in the mailbox it names, shows FIRED, counts it and disarms it (R61, R62). -/
def Obligations.TenseUnit : Prop :=
  (∀ (s : State) (r : Requester) (st : Fin 8), s.has st = true → mayWrite s r (tnsPage st) 0x040 = true →
    (tnsRunning s st = false → Completes (.tnsRun r st) s fun t =>
      tnsRunning t st = true ∧ (t.st st).tns.lock = .acquiring ∧ (t.st st).tns.acq = []) ∧
    Completes (.tnsStop r st) s fun t =>
      tnsRunning t st = false ∧ (t.st st).tns.lock = .idle ∧ (t.st st).tns.ticking = false) ∧
  (∀ (s : State) (st : Fin 8) (now : Nat), s.has st = true → s.mod.pwr.sleeping = false → tnsSrc s st = 0 →
    tnsRunning s st = true → (s.st st).tns.lock = .acquiring →
    ((s.st st).tns.acq = [] → Completes (.beatEdge st now) s fun t => (t.st st).tns.acq = [now]) ∧
    (∀ b a, (s.st st).tns.acq = [b, a] → (s.st st).tns.frame = none → (s.st st).tns.kept = none →
      (s.st st).tns.slots = [] →
      ((now : Int) - (b + (b - a : Nat))).natAbs * 65536 ≤ tnsWindow s st * (b - a) →
      Completes (.beatEdge st now) s fun t =>
        (t.st st).tns.lock = .locked ∧ (t.st st).tns.ticking = true ∧
          (t.st st).tns.pos = BitVec.ofNat 64 (tnsBeatSet s st * 65536) ∧ t.flag (tnsPage st) 0x010 3 = true)) ∧
  (∀ (s : State) (st : Fin 8), s.has st = true →
    ((s.st st).tns.lock = .locked ∨ (s.st st).tns.lock = .freewheel) → (s.st st).tns.acceptedCur = false →
    Completes (.edgeWindowExpiry st) s fun t =>
      if (s.st st).tns.freewheel < 3 then
        (t.st st).tns.lock = .freewheel ∧ (t.st st).tns.freewheel = (s.st st).tns.freewheel + 1
      else (t.st st).tns.lock = .lost ∧ t.fld (tnsPage st) 0x020 15 0 = 0x0901 ∧ t.flag (tnsPage st) 0x010 5 = true) ∧
  (∀ (s : State) (st : Fin 8), s.has st = true → (s.st st).tns.ticking = true → (s.st st).tns.numberNext = none →
    (s.st st).tns.slots = [] →
    Completes (.tick st) s fun t =>
      (t.st st).tns.slots = [] ∧
      if (s.st st).tns.tick = 65535 then
        (t.st st).tns.pos = BitVec.ofNat 64 (((s.st st).tns.beat + 1) % 2 ^ 48 * 65536)
      else (t.st st).tns.pos = (s.st st).tns.pos + 1) ∧
  (∀ (s : State) (r : Requester) (st : Fin 8) (v : Word) (m : Nat), s.has st = true →
    mayWrite s r (tnsPage st) 0x094 = true → bitAt v.toNat 0 = true → kindTarget (bitsOf v.toNat 7 4) = some m →
    bitsOf v.toNat 15 8 ≤ m → (s.st st).tns.ticking = false →
    Completes (.tnsSlotCfg r st v) s fun t =>
      let n := s.fld (tnsPage st) 0x080 7 0
      let x := (s.st st).tns.slot n
      let y := (t.st st).tns.slot n
      y.armed = true ∧ y.pos = x.stagedPos ∧ y.period = x.stagedPeriod ∧ y.kind = bitsOf v.toNat 7 4 ∧
        y.target.toNat = bitsOf v.toNat 15 8 ∧ y.bit = bitsOf v.toNat 20 16) ∧
  (∀ (s : State) (st : Fin 8), s.has st = true → s.mod.pwr.sleeping = true → tnsSrc s st = 1 →
    Completes (.sleepBeatCount st) s fun t =>
      (t.st st).tns.kept = some ((s.st st).tns.kept.getD (s.st st).tns.beat + 1)) ∧
  (∀ (s : State) (st : Fin 8) (n : Nat) (x : Slot), s.has st = true → (s.st st).tns.ticking = true →
    (s.st st).tns.lock = .locked → (s.st st).tns.tick ≠ 65535 → (s.st st).tns.slots = [(n, x)] → x.armed = true →
    x.waiting = false → x.kind = 7 → x.period = 0 → x.target.toNat < 64 → x.bit < 32 → x.pos = (s.st st).tns.pos + 1 →
    Completes (.tick st) s fun t =>
      let y := (t.st st).tns.slot n
      y.armed = false ∧ y.fired = true ∧ y.fireCount = x.fireCount + 1 ∧ (t.box st x.target.toNat).db.getLsbD x.bit = true)

/-- MX_STREAM of the command the feed holds, with no pass in the array and no hazard: where it starts without fault, finds or
opens its tile (R95) and meets no fault on the way, it runs, holding as its pass the result of the window sum (R124 to
R127), or, for FP32 formats, adding every product to the tile's cells in order (R135). MX_PASS_RETIRE makes a window pass's
sum the tile's (R125), empties the array and lets the command leave cleanly. Neither writes a byte of memory. -/
def Obligations.MatrixPass : Prop :=
  (∀ (s : State) (st : Fin 8) (c : Fin 56) (e : Entry) (i : Nat) (x : Core) (m : MxTile), s.has st = true →
    mxFirst s st c.val [1] = some (e, i) → e.st = .accepted → (s.core st c.val).pass = none →
    mxBlocked s st c.val e.desc i = false → passStartFault s st c.val e.desc = none →
    (passPlan s st c.val e.desc).fault = none → openTile (s.core st c.val) (abMode s st c.val) e.desc = .ok (x, m) →
    let p := passPlan s st c.val e.desc
    let slot := slotOfTile (abMode s st c.val) (descBits e.desc 0 42 40)
    let dims := shapeOf (descBits e.desc 0 44 43)
    let fed := (List.range dims.1).map fun k => (rowMask s st c.val e.desc).testBit k
    let run := windowRun (bitAt (descWord e.desc 0).toNat 50 || s.flag (mxPage st c.val) 0x040 1) dims.2 fed m.cells p
      (s.fld (mxPage st c.val) 0x040 3 2) 0 m.w 0 0
    (windowFmt (descBits e.desc 0 35 32) = true → ∀ reg cut nf, run.out = .ok (reg, cut, nf) →
      Completes (.mxStream st c) s fun t =>
        (t.core st c.val).pass = some { tile := slot, window := true, w := run.w, reps := run.reps, acc := reg, inexact := cut,
                                        nonfinite := nf } ∧
          ((t.queue st c.val).entries[i]?).map (·.st) = some .running ∧ MemoryKept s t) ∧
    (windowFmt (descBits e.desc 0 35 32) = false →
      Completes (.mxStream st c) s fun t =>
        (t.core st c.val).pass = some { tile := slot } ∧
          (∃ y, Sparse.find (t.core st c.val).tiles slot = some y ∧
            y.cells = (p.slices.foldl (fun a x => fp32Slice dims.2 fed x a) (m.cells, false)).1) ∧
          ((t.queue st c.val).entries[i]?).map (·.st) = some .running ∧ MemoryKept s t)) ∧
  (∀ (s : State) (st : Fin 8) (c : Fin 56) (p : MxPass) (e : Entry) (i : Nat), s.has st = true →
    (s.core st c.val).pass = some p → mxFirst s st c.val [1] = some (e, i) →
    Completes (.mxPassRetire st c) s fun t =>
      (t.core st c.val).pass = none ∧ t.queue st c.val = leftAt (s.queue st c.val) i true ∧ MemoryKept s t ∧
        ∀ m, Sparse.find (s.core st c.val).tiles p.tile = some m →
          ∃ y, Sparse.find (t.core st c.val).tiles p.tile = some y ∧ y.drained = false ∧ y.window = m.window ∧
            if p.window then y.w = p.w ∧ y.cells = (passCells m.cells p.reps p.acc).1 else y.w = m.w ∧ y.cells = m.cells)

/-- MX_LDB within the panel store and meeting no uncorrectable word makes its bank valid with the bytes of the panel, and
leaves the other bank (R98, R102). MX_DRAIN of the tile it names writes the drained cells at its offset and no other byte, and
shows the tile drained or, with CLOSE, closes it (R103). MX_FREE closes the tile and writes no byte (R104). Each command leaves
its queue cleanly. A write of MX_CFG takes effect while the page is idle with no tile open, and else changes only CFG_IGNORED
where it would change MX_CFG (R113). -/
def Obligations.MatrixBanksAndTiles : Prop :=
  (∀ (s : State) (st : Fin 8) (c : Fin 56) (e : Entry) (i : Nat), s.has st = true →
    mxFirst s st c.val [2] = some (e, i) → mxBlocked s st c.val e.desc i = false →
    let d := e.desc
    let off := descBits d 1 15 0 * 16
    let n := panelBytes (descBits d 0 36 33) (descBits d 1 28 16) (shapeOf (descBits d 0 38 37)).2
    off + n ≤ panelSize → badUnit s (panelBase st c.val + off) n = none →
    Completes (.mxLdb st c) s fun t =>
      let new : MxBank := { valid := true, fmt := descBits d 0 36 33, shape := descBits d 0 38 37, rows := descBits d 1 28 16,
                            data := s.bytes (panelBase st c.val + off) n }
      (t.core st c.val).banks = (if descBits d 0 32 32 = 0 then (s.core st c.val).banks.set 0 new
        else (s.core st c.val).banks.set 1 new) ∧
        t.queue st c.val = leftAt (s.queue st c.val) i true ∧ MemoryKept s t) ∧
  (∀ (s : State) (st : Fin 8) (c : Fin 56) (e : Entry) (i slot : Nat) (m : MxTile), s.has st = true →
    mxFirst s st c.val [3, 4] = some (e, i) → mxBlocked s st c.val e.desc i = false →
    slot = slotOfTile (abMode s st c.val) (descBits e.desc 0 42 40) → tileAt (s.core st c.val) slot = some (slot, m) →
    (descOp e.desc = 3 → (descBits e.desc 0 44 43 = 2 → m.window = true) → descBits e.desc 0 44 43 ≤ 2 →
      let a := panelBase st c.val + descBits e.desc 1 15 0 * 16
      let n := drainBytes (descBits e.desc 0 44 43)
      descBits e.desc 1 15 0 * 16 + n ≤ panelSize → badUnit s a n = none →
      Completes (.mxDrain st c) s fun t =>
        t.bytes a n = (drainData m (descBits e.desc 0 44 43)).1 ∧ MemoryKeptBut s t (fun b => a ≤ b ∧ b < a + n) ∧
          t.queue st c.val = leftAt (s.queue st c.val) i true ∧
          if bitAt (descWord e.desc 0).toNat 45 then Sparse.find (t.core st c.val).tiles slot = none
          else (Sparse.find (t.core st c.val).tiles slot).map (·.drained) = some true) ∧
    (descOp e.desc = 4 → Completes (.mxFree st c) s fun t =>
      Sparse.find (t.core st c.val).tiles slot = none ∧ t.queue st c.val = leftAt (s.queue st c.val) i true ∧
        MemoryKept s t)) ∧
  (∀ (s : State) (r : Requester) (st : Fin 8) (c : Fin 56) (v : Word), s.has st = true →
    mayWrite s r (mxPage st c.val) 0x040 = true →
    Completes (.mxCfgWrite r st c v) s fun t =>
      let n := bitsOf v.toNat 3 0
      if busy s (mxPage st c.val) = true ∨ (s.core st c.val).tiles ≠ [] then
        t.reg (mxPage st c.val) 0x040 = s.reg (mxPage st c.val) 0x040 ∧
          (n ≠ s.fld (mxPage st c.val) 0x040 3 0 → t.flag (mxPage st c.val) 0x044 4 = true)
      else t.fld (mxPage st c.val) 0x040 3 0 = n)

/-- Each command at the head of a chain's queue. VC_RUN, where its chain and areas pass the checks, no hazard holds it and it
meets no uncorrectable word, counts VL elements in VC_ELEM_CNT, leaves in memory and in the vector registers what its chain
computes from its sources, and retires (R147 to R164). SETCHAIN fills the slot it names and no other (R137), SETVL sets VL
(R147). SAVE writes the 17,600 bytes of the context and no other byte (R166); RESTORE takes VL and VC_STICKY from an image it
accepts, with RNG_PORTABILITY where the image carries no lane state it can take (R167). -/
def Obligations.VectorChain : Prop :=
  (∀ (s : State) (st : Fin 8) (c : Fin 56) (e : Entry) (ts : List TypedStage), s.has st = true →
    vcHead s st c.val 1 = some e → checkRun (s.core st c.val) e.desc = .ok ts →
    runStartFault s st c.val e.desc ts = none → runHeld s st c.val e.desc ts = false →
    let n := (s.core st c.val).vl
    let src := runSource s st c.val e.desc n
    src.bad = none →
    (runMask e.desc = true → runDst e.desc = 0 →
      badUnit s (panelBase st c.val + descBits e.desc 1 47 32 * 16) (streamBytes (runDfmt e.desc) n) = none) →
    Completes (.vcRun st c) s fun t =>
      let b := runBody (s.countPair (vcPage st c.val) 0x054 n) st c.val e ts src n true
      t.pair (vcPage st c.val) 0x054 = (s.pair (vcPage st c.val) 0x054 + n) % 2 ^ 64 ∧ t.mem = b.mem ∧
        (t.core st c.val).vregs = (b.core st c.val).vregs ∧
        t.queue st (vcQueue c.val) = leftFirst (s.queue st (vcQueue c.val)) true) ∧
  (∀ (s : State) (st : Fin 8) (c : Fin 56) (e : Entry), s.has st = true →
    (vcHead s st c.val 2 = some e → Completes (.vcSetchain st c) s fun t =>
      (∀ k : Fin 4, (t.core st c.val).chain[k] =
        if k.val = descBits e.desc 3 33 32 then chainOf e.desc else (s.core st c.val).chain[k]) ∧
        t.queue st (vcQueue c.val) = leftFirst (s.queue st (vcQueue c.val)) true ∧ MemoryKept s t) ∧
    (vcHead s st c.val 3 = some e → Completes (.vcSetvl st c) s fun t =>
      (t.core st c.val).vl = descBits e.desc 1 15 0 ∧
        t.queue st (vcQueue c.val) = leftFirst (s.queue st (vcQueue c.val)) true ∧ MemoryKept s t)) ∧
  (∀ (s : State) (st : Fin 8) (c : Fin 56) (e : Entry), s.has st = true →
    let off := descBits e.desc 1 15 0 * 16
    let a := panelBase st c.val + off
    (vcHead s st c.val 4 = some e → off + 17600 ≤ panelSize → panelWriteHeld s st c.val off 17600 = false →
      badUnit s a 17600 = none → Completes (.vcSave st c) s fun t =>
        t.bytes a 17600 = vcContext s st c.val ∧ MemoryKeptBut s t (fun b => a ≤ b ∧ b < a + 17600) ∧
          t.queue st (vcQueue c.val) = leftFirst (s.queue st (vcQueue c.val)) true) ∧
    (vcHead s st c.val 5 = some e → ∀ (fmt l v size : Nat),
      (fmt = 2 ∧ l = 64 ∧ v = 1024 ∨ fmt = 1 ∧ l = 32 ∧ v = 512) → size = 192 + 16 * l + 16 * v → off + size ≤ panelSize →
      badUnit s a size = none →
      let bs := s.bytes a size
      leNat (slice bs 0 2) = fmt → leNat (slice bs 2 2) = l → leNat (slice bs 8 2) = v → leNat (slice bs 6 2) = 4 →
      (∀ k < 4, (slotFrom (slice bs (64 + 32 * k) 32)).nstage ≤ 8 ∧
        ∀ w ∈ (slotFrom (slice bs (64 + 32 * k) 32)).words.toList, w.toNat % 16 ≤ 11) →
      Completes (.vcRestore st c) s fun t =>
        (t.core st c.val).vl = leNat (slice bs 4 2) ∧
          (if l = 64 ∧ bs.getD 10 0 = 1 then (t.reg (vcPage st c.val) 0x044).toNat = leNat (slice bs 12 4) % 256
            else t.flag (vcPage st c.val) 0x044 7 = true) ∧
          t.queue st (vcQueue c.val) = leftFirst (s.queue st (vcQueue c.val)) true ∧ MemoryKept s t))

/-- Each command at the head of its group's queue, where its body meets no fault. OPEN gives the batch of its descriptor, the
graph header and the latched key to the groups it names, in phase 1 under this leader (R194 to R196). SEEDS brings the batch's
groups to phase 2 and HOP h to phase h + 2, and memory is then what the body writes (R203 to R212). CLOSE returns them to IDLE,
counts the batch and raises BATCH_CLOSED (R201). PREFIX leaves the prefix sums its body writes and raises its event (R200). The
descriptor leaves its queue cleanly. -/
def Obligations.SamplerCommands : Prop :=
  (∀ (s u : State) (st : Fin 8) (g : Fin 4) (e : Entry), s.has st = true → s.clocked = true →
    let m := descBits e.desc 3 28 25
    (smpHead s st g.val 1 = some e → (lowestGroup m = g.val → s.batch st g.val = none → groupsIdle s st m = true) →
      openBatch s st g.val e = (u, none) →
      Completes (.smpOpen st g) s fun t =>
        (∃ h, readGraph s st e.plan.toNat (descBits e.desc 1 51 0) = .ok h ∧
          t.batch st g.val = some (newBatch e.desc h e.latch)) ∧
          (∀ i : Fin 4, m.testBit i.val = true → (t.group st i.val).phase = 1 ∧ (t.group st i.val).leader = some g.val) ∧
          t.mem = u.mem ∧ t.queue st (smpQueue g.val) = leftFirst (s.queue st (smpQueue g.val)) true) ∧
    (smpHead s st g.val 2 = some e → seedBatch s st g.val e = (u, none) →
      Completes (.smpSeeds st g) s fun t =>
        (∀ b, s.batch st g.val = some b → ∀ i : Fin 4, b.groups.getLsbD i.val = true → (t.group st i.val).phase = 2) ∧
          t.mem = u.mem ∧ t.batch st g.val = u.batch st g.val ∧
          t.queue st (smpQueue g.val) = leftFirst (s.queue st (smpQueue g.val)) true) ∧
    (smpHead s st g.val 3 = some e → hopBatch s st g.val e = (u, none) →
      Completes (.smpHop st g) s fun t =>
        (∀ b, s.batch st g.val = some b → ∀ i : Fin 4, b.groups.getLsbD i.val = true →
          (t.group st i.val).phase = descBits e.desc 0 34 32 + 2) ∧
          t.flag (smpPage st) 0x010 4 = true ∧ t.mem = u.mem ∧ t.batch st g.val = u.batch st g.val ∧
          t.queue st (smpQueue g.val) = leftFirst (s.queue st (smpQueue g.val)) true) ∧
    (smpHead s st g.val 4 = some e → ∀ b, s.batch st g.val = some b → 3 ≤ (s.group st g.val).phase →
      Completes (.smpClose st g) s fun t =>
        t.batch st g.val = none ∧ (∀ i : Fin 4, b.groups.getLsbD i.val = true →
          (t.group st i.val).phase = 0 ∧ (t.group st i.val).leader = none) ∧
          t.reg (smpPage st) 0x068 = s.reg (smpPage st) 0x068 + 1 ∧ t.flag (smpPage st) 0x010 3 = true ∧ MemoryKept s t ∧
          t.queue st (smpQueue g.val) = leftFirst (s.queue st (smpQueue g.val)) true) ∧
    (smpHead s st g.val 5 = some e → prefixRun s st g.val e = (u, none) →
      Completes (.smpPrefix st g) s fun t =>
        t.mem = u.mem ∧ t.flag (smpPage st) 0x010 7 = true ∧
          t.queue st (smpQueue g.val) = leftFirst (s.queue st (smpQueue g.val)) true))

/-- For every stream of 64-bit draws and a degree above the fanout, the places drawn are as many as the fanout, all different,
below the degree and in ascending order (R206). -/
def Obligations.FloydPlacesAreDistinct : Prop :=
  ∀ (draw : Nat → Nat) (d f : Nat), (∀ k, draw k < 2 ^ 64) → f ≤ d →
    (floydPlaces draw d f).length = f ∧ (floydPlaces draw d f).Nodup ∧ (∀ x ∈ floydPlaces draw d f, x < d) ∧
      (floydPlaces draw d f).Pairwise (· ≤ ·)

/-- For a table whose homes are distinct, an id that routes to one of them is recovered from the home and the local row, in each
of the three modes. -/
def Obligations.RoutingInverts : Prop :=
  ∀ (t : Table) (x home row : Nat), t.mode ≤ 2 → t.homes ≠ [] → t.homes.Nodup →
    (t.mode = 1 → 0 < t.shardRows ∧ x / t.shardRows < t.homes.length) →
    route t x = some (home, row) → unroute t home row = x

/-- BEAD_GATHER of a descriptor whose sources read without fault, whose destination no unretired command reads, and whose groups
meet no fault, leaves in memory what the groups write (with the count COMPACT asks for) and retires. REMOTE_ROW_REQUEST sends
the row that the home Bead reads, or none where it does not serve it, and writes no byte (R238). BEAD_SPLIT of a region that
reads without fault leaves in memory the parts written to its cores and retires (R240). -/
def Obligations.BeadCommands : Prop :=
  (∀ (s : State) (st : Fin 8) (e : Entry) (x : Indices) (ws : List (Val × Nat)) (m : List Byte) (g : Gather),
    s.has st = true → s.clocked = true → tabHead s st 0x90 1 = some e →
    let d := e.desc
    let plan := bindOf s (beadPage st)
    let n := (coresOf (latchedArg e 6)).length
    sourceClash (latchedTable e) (gatIsrc d) = false →
    readIndices s st plan (gatIsrc d) (latchedArg e 0) (descBits d 2 31 0) (descBits d 2 42 32) (latchedArg e 2) = .ok x →
    readWeights s st plan (gatWsrc d) (gatIsrc d) (latchedArg e 1) (latchedArg e 0) x = .ok ws →
    (if gatMasked d then tabRead s st plan 5 (latchedArg e 5) ((x.groups.length + 7) / 8) else .ok []) = .ok m →
    (gatDeal d = true → dealHeld s st (latchedArg e 6) (gatPoff d)
      (((x.groups.length + gatPkt d - 1) / max 1 (gatPkt d) + n - 1) / max 1 n * gatPkt d * gatStride d) = false) →
    gatherGroups st d (latchedTable e) e x ws.toArray m.toArray x.groups 0 { s := s } = (g, none) →
    (gatCompact d = false → Completes (.beadGather st) s fun t =>
      t.mem = g.s.mem ∧ t.queue st 0x90 = leftFirst (s.queue st 0x90) true) ∧
    (gatCompact d = true → ∀ u, tabWrite g.s st plan 4 false (latchedArg e 4) (leBytes g.out 4) = (u, none) →
      Completes (.beadGather st) s fun t =>
        t.mem = u.mem ∧ t.queue st 0x90 = leftFirst (s.queue st 0x90) true)) ∧
  (∀ (s : State) (home src : Fin 8) (table row : Nat), s.has home = true → s.has src = true → s.clocked = true →
    (∀ u bs, remoteRow s src home table row = .ok (u, bs) → Completes (.remoteRowRequest home src table row) s fun t =>
      t.out = s.out ++ [.row home src (some bs)] ∧ MemoryKept s t) ∧
    (∀ f, remoteRow s src home table row = .error f → Completes (.remoteRowRequest home src table row) s fun t =>
      t.out = s.out ++ [.row home src none] ∧ MemoryKept s t)) ∧
  (∀ (s u : State) (st : Fin 8) (e : Entry) (r : RgnHdr) (ps : List Nat) (es : List Listed), s.has st = true →
    s.clocked = true → tabHead s st 0x90 2 = some e →
    let rd : Reader TabErr := tabRead s st (bindOf s (beadPage st)) 0
    let cores := coresOf (latchedArg e 6)
    readRgn rd (latchedArg e 0) (some false) = .ok r → readRowptr rd r = .ok ps →
    readAllListed rd r ps ((latchedArg e 0 / 2 ^ 48 + 1) * 2 ^ 48) = .ok es → (r.e = 0 → r.n = 0) →
    dealHeld s st (latchedArg e 6) (gatPoff e.desc) (panelSize - gatPoff e.desc) = false →
    writeParts st (bindOf s (beadPage st)) (gatPoff e.desc) rd r ps es cores.length cores.zipIdx s = (u, none) →
    Completes (.beadSplit st) s fun t => t.mem = u.mem ∧ t.queue st 0x90 = leftFirst (s.queue st 0x90) true)

/-- FIL_SCATTER of indices and rows that meet no fault leaves its contributions on their way to their homes and writes no byte
(R243, R244). FIL_CONTRIBUTION takes the first contribution from a source off the way and leaves the touched-row set as
combining gives it (R245, R246). FIL_READ and FIL_EXPORT leave in memory what they write out, and retire (R247, R248). FIL_MERGE
adds the rows of the list whose home is this stack to the contributions on their way (R249). -/
def Obligations.FiligreeCommands : Prop :=
  (∀ (s u : State) (st : Fin 8) (e : Entry) (x : Indices) (ws : List (Val × Nat)), s.has st = true → s.clocked = true →
    tabHead s st 0xA0 1 = some e →
    let d := e.desc
    let plan := bindOf s (filPage st)
    sourceClash (latchedTable e) (filIsrc d) = false →
    readIndices s st plan (filIsrc d) (latchedArg e 0) (descBits d 2 31 0) 1 0 = .ok x →
    readWeights s st plan (filWsrc d) (filIsrc d) (latchedArg e 1) (latchedArg e 0) x = .ok ws →
    scatterRows st d (latchedTable e) ((latchedTable e).lock || filLockAll s st)
      ((x.ids.zip (x.rows.zip ws)).zipIdx.map fun p =>
        ⟨p.1.1, x.at_ p.2, latchedArg e 2 + p.1.2.1 * filStride d, p.1.2.2.1, p.1.2.2.2⟩) 0 [] s = (u, none) →
    Completes (.filScatter st) s fun t =>
      (∀ h : Fin 8, (t.st h).fil.inbox = (u.st h).fil.inbox) ∧ MemoryKept s t ∧
        (tokenWaits u st (headToken s st 0xA0) = false → t.queue st 0xA0 = leftFirst (s.queue st 0xA0) true)) ∧
  (∀ (s u : State) (home src : Fin 8) (c : Contribution), s.has home = true → s.has src = true → s.clocked = true →
    ((s.st home).fil.inbox.find? fun c => c.src == src.val) = some c →
    combineRow (s.modFil home fun f => { f with inbox := f.inbox.eraseP fun x => x.src == src.val }) home c = .ok u →
    Completes (.filContribution home src) s fun t =>
      (t.st home).fil.inbox = (s.st home).fil.inbox.eraseP (fun x => x.src == src.val) ∧
        (t.st home).fil.touched = (u.st home).fil.touched ∧ MemoryKept s t) ∧
  (∀ (s u : State) (st : Fin 8) (e : Entry), s.has st = true → s.clocked = true →
    (tabHead s st 0xA0 2 = some e → (latchedTable e).mode = 3 →
      readRows st e.desc (latchedTable e) (latchedArg e 3) (latchedArg e 4) (latchedTable e).nrows 0 s = (u, none) →
      Completes (.filRead st) s fun t =>
        t.mem = u.mem ∧ (t.st st).fil.touched = (u.st st).fil.touched ∧
          t.queue st 0xA0 = leftFirst (s.queue st 0xA0) true) ∧
    (tabHead s st 0xA0 3 = some e → ∀ rows, exportRows s st = .ok rows →
      let body := rows.flatMap fun r => listRow r.1.2 r.2
      let bs := leBytes 1 8 ++ leBytes rows.length 8 ++ leBytes (64 + body.length) 8 ++
        leBytes (s.st st).clp.step.toNat 8 ++ List.replicate 32 0 ++ body
      bs.length ≤ latchedArg e 4 → tabWrite s st (bindOf s (filPage st)) 3 false (latchedArg e 3) bs = (u, none) →
      Completes (.filExport st) s fun t =>
        t.mem = u.mem ∧ (t.st st).fil = (s.st st).fil ∧ t.queue st 0xA0 = leftFirst (s.queue st 0xA0) true) ∧
    (tabHead s st 0xA0 4 = some e → ∀ rows, readList s st (bindOf s (filPage st)) (latchedArg e 0) = .ok rows →
      Completes (.filMerge st) s fun t =>
        (t.st st).fil.inbox.length = (s.st st).fil.inbox.length +
          (rows.filter fun r => (route r.table r.id).any fun k => k.1 == st.val).length ∧ MemoryKept s t))

/-- HOT_SET_REFRESH_ADMIT of an admitted refresh whose lists read without fault makes the pending directory they give, of the
group refreshed (R256, R257). HOT_SET_COPY_DONE of a COPYING entry whose row copies without fault makes it READY (R257);
HOT_SET_DIRTY_RECOPY makes a DIRTY entry COPYING again (R258). HOT_SET_SWITCH in a committed Clasp makes a READY pending directory
the active one, in the other half, and ends the refresh (R259). HS_ENABLE and HS_DISABLE set EN, and a change empties both
directories (R261). -/
def Obligations.HotSetCommands : Prop :=
  (∀ (s : State) (st : Fin 8) (a : Activity) (es : List HsEntry) (k : Nat), s.has st = true →
    ((s.st st).arb.run.find? fun a => a.act == 10) = some a → (s.st st).hot.state = 0 → hsEnabled s st = true →
    s.faulted (beadPage st) = false → s.clocked = true → buildRefresh s st a.scope = .ok (es, k) →
    Completes (.hotSetRefreshAdmit st) s fun t =>
      (t.st st).hot.waiting = es ∧ (t.st st).hot.group = a.scope ∧ (t.st st).hot.active = (s.st st).hot.active ∧
        (t.st st).hot.state = if es.all (fun e => e.st == 2) then 2 else 1) ∧
  (∀ (s u : State) (st : Fin 8) (i : Nat) (e : HsEntry), s.has st = true → (s.st st).hot.waiting[i]? = some e →
    (e.st = 1 → s.faulted (beadPage st) = false → s.clocked = true → copyRow s st e = (u, none) →
      Completes (.hotSetCopyDone st i) s fun t =>
        ((t.st st).hot.waiting[i]?).map (·.st) = some 2 ∧ t.mem = u.mem) ∧
    (e.st = 3 → Completes (.hotSetDirtyRecopy st i) s fun t =>
      (t.st st).hot.waiting = (s.st st).hot.waiting.set i { e with st := 1 } ∧ MemoryKept s t)) ∧
  (∀ (s : State) (st : Fin 8), s.has st = true → (s.st st).clp.state = .commit → (s.st st).clp.sequence = .commit →
    (s.st st).hot.state = 2 → Completes (.hotSetSwitch st) s fun t =>
      (t.st st).hot.active = (s.st st).hot.waiting ∧ (t.st st).hot.waiting = [] ∧ (t.st st).hot.state = 0 ∧
        (t.st st).hot.activeB = !(s.st st).hot.activeB ∧ t.flag (beadPage st) 0x010 7 = true ∧ MemoryKept s t) ∧
  (∀ (s : State) (r : Requester) (st : Fin 8), s.has st = true → mayWrite s r (beadPage st) 0x080 = true →
    Completes (.hsEnable r st) s (fun t => hsEnabled t st = true ∧
      (hsEnabled s st = false → (t.st st).hot.active = [] ∧ (t.st st).hot.waiting = [])) ∧
    Completes (.hsDisable r st) s (fun t => hsEnabled t st = false ∧
      (hsEnabled s st = true → (t.st st).hot.active = [] ∧ (t.st st).hot.waiting = [])))

/-- KEY_COMMIT_STEP and KEY_COMMIT_EVAL by a requester that may write a page of the key store: in IDLE and TORN the base key
takes the staged value and its derivations begin, with every lane of the stack reseeded for the step key, and in every other
state only COMMIT_IGNORED is set (R269). KEY_DERIVATION_DONE gives KS, KE and KL what derive gives from the base keys, and ends
every derivation (R267). RESEED of a core with no accepted run puts every lane counter at its seed (R275), and waits while there
is one (R282). RNG_SELF_CHECK of a working generator changes nothing, and of a failing one records SELFTEST with the value got,
and makes an open step VOID or the evaluation non-finite (R281). -/
def Obligations.RandomGeneration : Prop :=
  (∀ (s : State) (r : Requester) (st : Fin 8), s.has st = true →
    ((List.range 56).any fun c => mayWrite s r (stackPage st .rng c) 0x0A0) = true →
    let k := (s.st st).keys
    let calm := (s.st st).clp.state = .idle ∨ (s.st st).clp.state = .torn
    (calm → Completes (.keyCommitStep r st) s fun t =>
      (t.st st).keys = { k with ksb := k.stagedS, skeySet := true, deriveL := true, deriveS := some (s.st st).clp.step } ∧
        ∀ c < 56, ∀ l, laneCtr t st c l = laneSeed st c l) ∧
    (calm → Completes (.keyCommitEval r st) s fun t =>
      (t.st st).keys = { k with keb := k.stagedE, ekeySet := true, deriveE := some (s.st st).clp.evals }) ∧
    (¬ calm → Completes (.keyCommitStep r st) s (fun t => (t.st st).keys = { k with commitIgnored := true }) ∧
      Completes (.keyCommitEval r st) s (fun t => (t.st st).keys = { k with commitIgnored := true }))) ∧
  (∀ (s : State) (st : Fin 8), s.has st = true → Completes (.keyDerivationDone st) s fun t =>
    let k := (s.st st).keys
    let k' := (t.st st).keys
    k'.busy = false ∧ k'.ksb = k.ksb ∧ k'.keb = k.keb ∧
      (∀ n, k.deriveS = some n → k'.ks = deriveKey k.ksb n 1 ∧ k'.skeyFp = fingerprint k.ksb) ∧
      (∀ n, k.deriveE = some n → k'.ke = deriveKey k.keb n 2 ∧ k'.ekeyFp = fingerprint k.keb) ∧
      (k.deriveL = true → k'.kl = deriveKey k.ksb 0 3)) ∧
  (∀ (s : State) (r : Requester) (st : Fin 8) (c : Fin 56), s.has st = true →
    mayWrite s r (stackPage st .rng c.val) 0x040 = true → Completes (.reseed r st c) s fun t =>
      if runsAccepted s st c.val then (t.core st c.val).reseedWaits = true ∧ (t.core st c.val).lanes = (s.core st c.val).lanes
      else (∀ l, laneCtr t st c.val l = laneSeed st c.val l) ∧ t.flag (stackPage st .rng c.val) 0x010 5 = true) ∧
  (∀ (s : State) (st : Fin 8) (c : Fin 56) (err : BitVec 128), s.has st = true →
    Completes (.rngSelfCheck st c 0) s (fun t => t = s) ∧
      (err ≠ 0 → Completes (.rngSelfCheck st c err) s fun t =>
        let p := stackPage st .rng c.val
        t.fld p 0x020 15 0 = 0x0130 ∧ t.reg p 0x024 = word128 (selfCheckValue (s.core st c.val) ^^^ err) 0 ∧
          ((s.st st).clp.state = .opened ∨ (s.st st).clp.state = .reduce ∨ (s.st st).clp.state = .armed →
            (t.st st).clp = { (s.st st).clp with voidPlan := true }) ∧
          ((s.st st).clp.state = .eval → (t.st st).clp = { (s.st st).clp with evalNonfinite := true }) ∧
          ((s.st st).clp.state = .commit → (t.st st).clp.state = .torn)))

/-- SRAM_REPAIR of a bank whose group's spare is in use sets REFUSED and submits nothing; with the spare free and no
conflicting activity it begins activity 3 for the bank and shows BUSY (R290). SRAM_REPAIR_DONE names the bank in its group's
spare map and ends the activity; no byte changes. SOFT_REPAIR of a bank already repaired sets REFUSED; otherwise, with nothing in
conflict, activity 7 begins. SOFT_REPAIR_DONE counts the repair, marks the bank and ends the activity (R297). SRAM_PATROL counts
corrected words, and records an uncorrectable one with its address (R291). LPDDR5X_PATROL moves its address on to the next line
(R298). LPDDR5X_RETRAINING with nothing in conflict closes its channel (R298). Patrols and repairs change no byte. -/
def Obligations.MemoryUpkeep : Prop :=
  (∀ (s : State) (r : Requester) (st : Fin 8) (bank : BitVec 6), s.has st = true →
    mayWrite s r (srmPage st) 0x040 = true →
    let g := bank.toNat / 16
    (s.flag (srmPage st) 0x044 (8 * g + 7) = true → Completes (.sramRepair r st bank) s fun t =>
      t.flag (srmPage st) 0x040 10 = true ∧ (t.st st).arb = (s.st st).arb ∧ MemoryKept s t) ∧
    (s.flag (srmPage st) 0x044 (8 * g + 7) = false → s.flag (srmPage st) 0x040 9 = false →
      judge s st { act := 3, scope := bank.toNat, sub := 3, ticket := 0 } = 0 →
      Completes (.sramRepair r st bank) s fun t =>
        t.flag (srmPage st) 0x040 9 = true ∧ t.fld (srmPage st) 0x040 5 0 = bank.toNat ∧ MemoryKept s t ∧
          (t.st st).arb.run = (s.st st).arb.run ++
            [{ act := 3, scope := bank.toNat, sub := 3, ticket := (s.st st).arb.ticket }])) ∧
  (∀ (s : State) (st : Fin 8) (a : Activity), s.has st = true →
    ((s.st st).arb.run.find? fun a => a.act == 3) = some a → a.scope < 64 → Completes (.sramRepairDone st) s fun t =>
      let g := a.scope / 16
      t.fld (srmPage st) 0x044 (8 * g + 3) (8 * g) = a.scope % 16 ∧ t.flag (srmPage st) 0x044 (8 * g + 7) = true ∧
        t.flag (srmPage st) 0x040 9 = false ∧ MemoryKept s t ∧
        (t.st st).arb.run = (s.st st).arb.run.filter fun b => !(b.act == 3 && b.scope == a.scope)) ∧
  (∀ (s : State) (r : Requester) (st : Fin 8) (dev : Fin 4), s.has st = true →
    mayWrite s r (stackPage st .mem dev.val) 0x048 = true →
    let p := stackPage st .mem dev.val
    let bank := dev.val * 2 ^ 7 + bitsOf (s.reg p 0x044).toNat 6 0
    ((s.st st).repaired.contains bank = true → Completes (.softRepair r st dev) s fun t =>
      t.flag p 0x04C 1 = true ∧ (t.st st).arb = (s.st st).arb ∧ MemoryKept s t) ∧
    ((s.st st).repaired.contains bank = false → s.flag p 0x04C 0 = false →
      judge s st { act := 7, scope := dev.val, sub := 3, ticket := 0 } = 0 →
      Completes (.softRepair r st dev) s fun t =>
        t.flag p 0x04C 0 = true ∧ MemoryKept s t ∧ (t.st st).arb.run = (s.st st).arb.run ++
          [{ act := 7, scope := dev.val, sub := 3, ticket := (s.st st).arb.ticket }])) ∧
  (∀ (s : State) (st : Fin 8) (dev : Fin 4), s.has st = true →
    ((s.st st).arb.run.any fun a => a.act == 7 && a.scope == dev.val) = true →
    Completes (.softRepairDone st dev) s fun t =>
      let p := stackPage st .mem dev.val
      (t.st st).repaired = (dev.val * 2 ^ 7 + bitsOf (s.reg p 0x044).toNat 6 0) :: (s.st st).repaired ∧
        t.flag p 0x04C 0 = false ∧ t.fld p 0x04C 15 8 = (s.fld p 0x04C 15 8 + 1) % 256 ∧ MemoryKept s t) ∧
  (∀ (s : State) (st : Fin 8) (line ce : Nat), s.has st = true → s.flag (srmPage st) 0x050 0 = true →
    s.domOn st 6 = true → line < sramSize / 256 → Completes (.sramPatrol st line ce) s fun t =>
      MemoryKept s t ∧ t.bad = s.bad ∧
        t.reg (srmPage st) 0x048 = (if ce = 0 then s.reg (srmPage st) 0x048 else sat32 ((s.reg (srmPage st) 0x048).toNat + ce)) ∧
        ∀ w, badUnit s (sramBase st.val + line * 256) 256 = some w →
          t.fld (srmPage st) 0x020 15 0 = 0x0212 ∧ t.pair (srmPage st) 0x028 = unitStart w % 2 ^ 52) ∧
  (∀ (s : State) (st : Fin 8) (dev : Fin 4) (line n : Nat) (ue : Bool), s.has st = true →
    let p := stackPage st .mem dev.val
    s.flag p 0x040 0 = true → s.domOn st 6 = true → s.flag p 0x06C 0 = true →
    Completes (.lpddr5xPatrol st dev line n ue) s fun t =>
      t.pair p 0x060 = (line + 1) % (96 * 2 ^ 30 / 256) * 256 ∧ MemoryKept s t ∧
        (n ≠ 0 → t.reg p 0x050 = sat32 ((s.reg p 0x050).toNat + n))) ∧
  (∀ (s : State) (st : Fin 8) (ch : Fin 16), s.has st = true →
    judge s st { act := 0, scope := ch.val, sub := 3, ticket := 0 } = 0 →
    Completes (.lpddr5xRetraining st ch) s fun t =>
      t.flag (stackPage st .mem (ch.val / 4)) 0x06C 2 = true ∧ MemoryKept s t ∧
        (t.st st).arb.run = (s.st st).arb.run ++ [{ act := 0, scope := ch.val, sub := 3, ticket := (s.st st).arb.ticket }])

/-- A permitted REGION_WRITE of the selected entry: unbound, not moving, with its commit protection free to change, and either
not valid or fitting a memory and meeting no other valid region, the entry takes the staged base and size and the attributes;
else it keeps what it holds and RGN_REJECT is set (R299). Every other entry is unchanged. -/
def Obligations.RegionTable : Prop :=
  ∀ (s : State) (r : Requester) (st : Fin 8) (v : Word), s.has st = true → mayWrite s r (xfrPage st) 0x058 = true →
    Completes (.regionWrite r st v) s fun t =>
      let n := s.fld (xfrPage st) 0x04C 5 0
      let e := s.region st n
      let e' := t.region st n
      let meets := (s.st st).regions.any fun x => x.1 != n && x.2.valid &&
        regionsMeet e.stagedBase.toNat e.stagedSize.toNat x.2.base.toNat x.2.size.toNat
      let calm := (s.st st).clp.state = .idle ∨ (s.st st).clp.state = .torn
      (if e.plan = 0 ∧ e.bst < 2 ∧ (bitAt v.toNat 1 = e.cp ∨ calm) ∧
          (bitAt v.toNat 0 = true → regionFits e.stagedBase.toNat e.stagedSize.toNat = true ∧ meets = false) then
        e' = { e with base := e.stagedBase, size := e.stagedSize, valid := bitAt v.toNat 0, cp := bitAt v.toNat 1,
                      scrub := bitAt v.toNat 2, ckpt := bitAt v.toNat 3 }
      else e' = e ∧ t.flag (xfrPage st) 0x040 8 = true) ∧
        (∀ k, k ≠ n → t.region st k = s.region st k) ∧ MemoryKept s t

/-- Each operation of the transfer engine at the head of its channel, with no panel range it waits for: where its body meets no
fault, memory is what the body writes, the descriptor leaves its queue cleanly and DONE is raised; where it meets one, the
descriptor leaves uncleanly and the channel stops, and no other (R307). -/
def Obligations.TransferCommands : Prop :=
  ∀ (s u : State) (st ch : Fin 8) (e : Entry), s.has st = true → s.clocked = true →
    (s.queue st (xfrQueue ch.val)).first = some e → e.st = .accepted → (s.st st).xfrStop.getLsbD ch.val = false →
    xfrHeld s st (xfrSrc e.desc) (xfrExtent e.desc).1 false = false →
    xfrHeld s st (xfrDst e.desc) (xfrExtent e.desc).2 true = false →
    let good := fun (t : State) =>
      t.mem = u.mem ∧ (t.st st).xfrStop = (s.st st).xfrStop ∧ t.flag (xfrPage st) 0x010 3 = true ∧
        t.queue st (xfrQueue ch.val) = leftFirst (s.queue st (xfrQueue ch.val)) true
    let stopped := fun (t : State) =>
      t.mem = u.mem ∧ (t.st st).xfrStop = (s.st st).xfrStop ||| BitVec.ofNat 8 (2 ^ ch.val) ∧
        t.queue st (xfrQueue ch.val) = leftFirst (s.queue st (xfrQueue ch.val)) false
    let runs := fun (op : Nat) (c : Instr) (body : State → Fin 8 → Desc → State × Option TabErr) =>
      descOp e.desc = op →
        (body s st e.desc = (u, none) → Completes c s good) ∧ ∀ f, body s st e.desc = (u, some f) → Completes c s stopped
    runs 1 (.xfrCopy st ch) xfrCopy ∧ runs 2 (.xfrFill st ch) xfrFill ∧ runs 3 (.xfrCompress st ch) xfrCompress ∧
      runs 4 (.xfrExpand st ch) xfrExpand ∧ runs 5 (.xfrToRegion st ch) xfrToRegion ∧
      runs 6 (.xfrFromRegion st ch) xfrFromRegion ∧ runs 7 (.xfrTilecopy st ch) xfrTilecopy

/-- COPY of a legal length between two aligned ranges of the memory that do not meet, in regions its plan may use and with no
uncorrectable word, leaves at DST the bytes of SRC and no other byte changed; FILL leaves its pattern over DST (R306). -/
def Obligations.CopyAndFill : Prop :=
  (∀ (s u : State) (st : Fin 8) (d : Desc), s.bad = [] → xfrCopy s st d = (u, none) →
    let n := xfrLen d
    u.bytes (xfrDst d) n = s.bytes (xfrSrc d) n ∧ MemoryKeptBut s u (fun a => xfrDst d ≤ a ∧ a < xfrDst d + n)) ∧
  (∀ (s u : State) (st : Fin 8) (d : Desc), s.bad = [] → xfrFill s st d = (u, none) →
    let n := xfrLen d
    (∀ i < n, u.byte (xfrDst d + i) = (leBytes (descBits d 1 31 0) 4).getD (i % 4) 0) ∧
      MemoryKeptBut s u (fun a => xfrDst d ≤ a ∧ a < xfrDst d + n))

/-- Each arithmetic instruction that issues leaves its result in g[RD], all else of the sequencer as it was, the pc at the next
instruction and one instruction counted: sums and products modulo 2^64, shifts by B[5:0] (R315). A result for g0 is discarded,
and g0 reads as zero (R312), which setGpr and gpr say; the last clause states it of them. -/
def Obligations.SequencerArithmetic : Prop :=
  (∀ (s : State) (st : Fin 8) (q : Fin 4),
    let x := s.seq st q
    let a := x.gpr (ksqRa x.instr)
    let b := x.opB x.instr
    let n := b.toNat % 64
    let gives := fun (opc : Nat) (c : Instr) (v : DWord) =>
      Issues s st q opc → Completes c s fun t => Executed s t st q (x.setGpr (ksqRd x.instr) v) (x.pc + 1)
    gives 0x01 (.add st q) (a + b) ∧ gives 0x02 (.sub st q) (a - b) ∧ gives 0x03 (.and st q) (a &&& b) ∧
      gives 0x04 (.or st q) (a ||| b) ∧ gives 0x05 (.xor st q) (a ^^^ b) ∧ gives 0x06 (.shl st q) (a <<< n) ∧
      gives 0x07 (.shr st q) (a >>> n) ∧ gives 0x08 (.sar st q) (a.sshiftRight n) ∧
      gives 0x09 (.mul st q) (BitVec.ofNat 64 (a.toNat * b.toNat)) ∧
      gives 0x0A (.movhi st q) (BitVec.ofNat 64 (ksqImm x.instr * 2 ^ 32 + a.toNat % 2 ^ 32))) ∧
  ∀ (x : Seq) (n : Nat) (v : DWord), x.gpr 0 = 0 ∧ x.setGpr 0 v = x ∧
    (0 < n → n < 32 → (x.setGpr n v).gpr n = v ∧ ∀ m, m ≠ n → (x.setGpr n v).gpr m = x.gpr m)

/-- CMP and PSET leave their result in p[RD] and nothing in p0; BR, CALL and JMP move the pc, CALL leaving the next pc in g31; NOP
only moves on (R315). HALT leaves IMM in SEQ_EXIT and the sequencer HALTED at its pc; TRAP faults with TRAP and IMM[15:0].
TIME leaves the cadence position in g[RD], or with FN 1 a measure of time, which is free. -/
def Obligations.SequencerControl : Prop :=
  (∀ (s : State) (st : Fin 8) (q : Fin 4),
    let x := s.seq st q
    let w := x.instr
    let a := x.gpr (ksqRa w)
    let b := x.opB w
    (Issues s st q 0x10 → Completes (.cmp st q) s fun t =>
      Executed s t st q (x.setPred (ksqRd w) (match ksqFn w with
        | 0 => decide (a = b)
        | 1 => decide (a ≠ b)
        | 2 => decide (a.toInt < b.toInt)
        | 3 => decide (b.toInt ≤ a.toInt)
        | 4 => decide (a.toNat < b.toNat)
        | _ => decide (b.toNat ≤ a.toNat))) (x.pc + 1)) ∧
    (Issues s st q 0x11 → Completes (.pset st q) s fun t =>
      let m := x.pred (ksqRa w)
      let n := x.pred (ksqRb w)
      Executed s t st q (x.setPred (ksqRd w) (match ksqFn w with
        | 0 => m && n
        | 1 => m || n
        | 2 => m && !n
        | _ => m != n)) (x.pc + 1)) ∧
    (Issues s st q 0x18 → Completes (.br st q) s fun t =>
      Executed s t st q x (BitVec.ofNat 15 (x.pc.toNat + ksqImm w))) ∧
    (Issues s st q 0x19 → Completes (.call st q) s fun t =>
      Executed s t st q (x.setGpr 31 (BitVec.ofNat 64 (x.pc.toNat + 1))) (BitVec.ofNat 15 (x.pc.toNat + ksqImm w))) ∧
    (Issues s st q 0x1A → Completes (.jmp st q) s fun t => Executed s t st q x (BitVec.ofNat 15 a.toNat)) ∧
    (Issues s st q 0x3F → Completes (.nop st q) s fun t => Executed s t st q x (x.pc + 1)) ∧
    (Issues s st q 0x1C → Completes (.halt st q) s fun t =>
      t.seq st q = { x with st := .halted, wait := .none, exit := BitVec.ofNat 32 (ksqImm w) } ∧
        t.flag (seqPage st q) 0x010 3 = true ∧ MemoryKept s t) ∧
    (Issues s st q 0x1D → Completes (.trap st q) s fun t => SeqFaulted s t st q 0x0A27 (ksqImm w % 2 ^ 16)) ∧
    (Issues s st q 0x32 → Completes (.time st q) s fun t =>
      if ksqFn w = 0 then Executed s t st q (x.setGpr (ksqRd w) (s.st st).tns.pos) (x.pc + 1)
      else ∃ v, Executed s t st q (x.setGpr (ksqRd w) v) (x.pc + 1))) ∧
  ∀ (x : Seq) (n : Nat) (v : Bool), x.pred 0 = true ∧ x.setPred 0 v = x ∧
    (0 < n → n < 8 → (x.setPred n v).pred n = v ∧ ∀ m < 8, m ≠ n → (x.setPred n v).pred m = x.pred m)

/-- Whatever instruction's command runs a sequencer whose word is not a legal instruction, the sequencer faults with ILLEGAL
at that word and does nothing else; a legal word of the command's own opcode with a false guard moves the pc and changes
nothing else, not even the count of instructions executed. The word of zeros is illegal (R314). -/
def Obligations.SequencerIllegalAndGuarded : Prop :=
  (∀ (s : State) (st : Fin 8) (q : Fin 4) (c : Instr), c ∈ ksqCommands st q → s.has st = true → seqRuns s st q = true →
    ksqOk (s.seq st q).instr = false →
    Completes c s fun t => SeqFaulted s t st q 0x0A20 (ksqOpc (s.seq st q).instr)) ∧
  (∀ (s : State) (st : Fin 8) (q : Fin 4), s.has st = true → seqRuns s st q = true →
    ksqOk (s.seq st q).instr = true → (s.seq st q).guard (s.seq st q).instr = false →
    ∃ c ∈ ksqCommands st q, Completes c s fun t => t = s.modSeq st q fun x => { x with pc := x.pc + 1 }) ∧
  ksqOk 0 = false

/-- LDD and STD move 8 bytes and DLD and DST 32 bytes between the data store and a register or a buffer, at an aligned address
within 65,536 bytes (R315); at any other address the sequencer faults with DATA_RANGE (R323). DWR replaces one word of a buffer
and DINS a field of one word; the other words, and the other bits of that word, stay. -/
def Obligations.SequencerData : Prop :=
  ∀ (s : State) (st : Fin 8) (q : Fin 4),
    let x := s.seq st q
    let w := x.instr
    let a := (x.sum w).toNat
    let rd := ksqRd w
    let stores := fun (t : State) (bs : List Byte) =>
      (t.seq st q).data a bs.length = bs ∧ (∀ i, i < a ∨ a + bs.length ≤ i → (t.seq st q).data i 1 = x.data i 1) ∧
        (t.seq st q).g = x.g ∧ (t.seq st q).p = x.p ∧ (t.seq st q).b = x.b ∧ (t.seq st q).pc = x.pc + 1 ∧ MemoryKept s t
    (a % 8 = 0 → a + 8 ≤ 65536 →
      (Issues s st q 0x20 → Completes (.ldd st q) s fun t =>
        Executed s t st q (x.setGpr rd (BitVec.ofNat 64 (leNat (x.data a 8)))) (x.pc + 1)) ∧
      (Issues s st q 0x21 → Completes (.std st q) s fun t => stores t (leBytes (x.gpr rd).toNat 8))) ∧
    (a % 32 = 0 → a + 32 ≤ 65536 →
      (Issues s st q 0x2A → Completes (.dld st q) s fun t =>
        Executed s t st q (x.setBuf rd (BitVec.ofNat 256 (leNat (x.data a 32)))) (x.pc + 1)) ∧
      (Issues s st q 0x2B → Completes (.dst st q) s fun t => stores t (leBytes (x.buf rd).toNat 32))) ∧
    (a % 8 ≠ 0 ∨ 65536 < a + 8 →
      (Issues s st q 0x20 → Completes (.ldd st q) s fun t => SeqFaulted s t st q 0x0A23 (min a 0xFFFF)) ∧
      (Issues s st q 0x21 → Completes (.std st q) s fun t => SeqFaulted s t st q 0x0A23 (min a 0xFFFF))) ∧
    (a % 32 ≠ 0 ∨ 65536 < a + 32 →
      (Issues s st q 0x2A → Completes (.dld st q) s fun t => SeqFaulted s t st q 0x0A23 (min a 0xFFFF)) ∧
      (Issues s st q 0x2B → Completes (.dst st q) s fun t => SeqFaulted s t st q 0x0A23 (min a 0xFFFF))) ∧
    (Issues s st q 0x28 → Completes (.dwr st q) s fun t =>
      ∃ d : Desc, Executed s t st q (x.setBuf rd d) (x.pc + 1) ∧ ∀ i < 4,
        descWord d i = if i = ksqFn w then x.gpr (ksqRa w) else descWord (x.buf rd) i) ∧
    (Issues s st q 0x29 → Completes (.dins st q) s fun t =>
      let lo := ksqImm w % 64
      let n := ksqImm w / 64 % 128
      ∃ d : Desc, Executed s t st q (x.setBuf rd d) (x.pc + 1) ∧ ∀ i < 4, ∀ k < 64,
        (descWord d i).getLsbD k =
          if i = ksqFn w ∧ lo ≤ k ∧ k < lo + n then (x.gpr (ksqRa w)).getLsbD (k - lo) else (descWord (x.buf rd) i).getLsbD k)

/-- LDG and RDR of an address they may reach wait for the value (R323); LDG_RETURN and RDR_RETURN leave it in g[RD],
zero-extended from 32 bits for a register, and move on. STG writes the 8 bytes of g[RD] and no other byte. WRR of pages that the
sequencer may write moves on and makes the register write in each. An address that is not aligned or not in the stack's memory
faults with AREA. -/
def Obligations.SequencerMemory : Prop :=
  ∀ (s : State) (st : Fin 8) (q : Fin 4),
    let x := s.seq st q
    let w := x.instr
    let a := (x.sum w).toNat
    let plan := seqPlan s st q
    (a % 8 = 0 → inMemory s st a 8 = true →
      (Issues s st q 0x22 → regionCheck s st plan false false a 8 = none →
        Completes (.ldg st q) s fun t => Waits s t st q (.ldg (x.sum w))) ∧
      (Issues s st q 0x23 → regionCheck s st plan true false a 8 = none → readFailure s a 8 = none →
        Completes (.stg st q) s fun t =>
          t.bytes a 8 = leBytes (x.gpr (ksqRd w)).toNat 8 ∧ MemoryKeptBut s t (fun b => a ≤ b ∧ b < a + 8) ∧
            t.seq st q = { x with pc := x.pc + 1, wait := .none, abandoned := false })) ∧
    (a % 8 ≠ 0 ∨ inMemory s st a 8 = false →
      (Issues s st q 0x22 → Completes (.ldg st q) s fun t => SeqFaulted s t st q 0x0A24 0) ∧
      (Issues s st q 0x23 → Completes (.stg st q) s fun t => SeqFaulted s t st q 0x0A24 0)) ∧
    (∀ b, s.has st = true → x.wait = .ldg b → x.st = .running → s.swapping st 6 q.val = false →
      readFailure s b.toNat 8 = none →
      Completes (.ldgReturn st q) s fun t =>
        Executed s t st q (x.setGpr (ksqRd w) (BitVec.ofNat 64 (leNat (s.bytes b.toNat 8)))) (x.pc + 1)) ∧
    (Issues s st q 0x24 → seqReaches st a = true → regSource s (.seq q) a ≠ none →
      Completes (.rdr st q) s fun t => Waits s t st q (.rdr (x.sum w))) ∧
    (∀ b p r, s.has st = true → x.wait = .rdr b → x.st = .running → s.swapping st 6 q.val = false →
      regSource s (.seq q) b.toNat = some (p, r) →
      Completes (.rdrReturn st q) s fun t =>
        t.seq st q = { x.setGpr (ksqRd w) ((readReg s (seqRequester st q p) p (b.toNat % 4096)).1.setWidth 64) with
          pc := x.pc + 1, wait := .none, abandoned := false } ∧ MemoryKept s t) ∧
    (∀ p r, Issues s st q 0x25 → seqReaches st a = true → regTargets s (.jukan (.seq st q)) a = some [(p, r)] →
      mayWrite s (seqRequester st q p) p (a % 4096) = true →
      Completes (.wrr st q) s fun t => ∃ u, Executed s u st q x (x.pc + 1) ∧
        t = writeReg u (seqRequester st q p) p (a % 4096) ((x.gpr (ksqRd w)).setWidth 32)) ∧
    (∀ ts, Issues s st q 0x25 → seqReaches st a = true → regTargets s (.jukan (.seq st q)) a = some ts → ts.length ≠ 1 →
      (∀ e ∈ ts, mayWrite s e.2 e.1 (a % 4096) = true) →
      Completes (.wrr st q) s fun t => ∃ u, Executed s u st q x (x.pc + 1) ∧
        t = writeAt u ts (a % 4096) ((x.gpr (ksqRd w)).setWidth 32))

/-- PUSH to a queue of the sequencer's plan with room appends the buffer with its check value, and g[RD] takes the accept
sequence that counts it; where the queue is full it waits, and PUSH_QUEUE_ROOM makes the push once there is room (R317). WAITQ,
FENCE, WAITDB and WAITPOS begin to wait. WAITQ_DONE and FENCE_DONE, once the tokens have been reached, move on with p[RD] telling
whether all retired cleanly (R321). WAITDB_DONE takes the doorbell bits that are set in B into g[RD] and clears them (R387).
WAITPOS_DONE moves on once a LOCKED Tense unit is at the position. SEQ_WATCHDOG faults a sequencer that waits, with WDOG and the
kind of its wait, where LIMIT is not 0 (R322). -/
def Obligations.SequencerQueuesAndWaits : Prop :=
  ∀ (s : State) (st : Fin 8) (q : Fin 4), s.has st = true →
    let x := s.seq st q
    let w := x.instr
    let v := (x.sum w).toNat
    let pushed := fun (t : State) =>
      t.queue st v = (s.queue st v).push
        { desc := sealDesc (x.buf (ksqFn w)), plan := BitVec.ofNat 16 (seqPlan s st q), by_ := q.val } ∧
        (t.seq st q).gpr (ksqRd w) = (if ksqRd w = 0 then 0 else ((s.queue st v).accept + 1).setWidth 64) ∧
        (t.seq st q).pc = x.pc + 1 ∧ (t.seq st q).wait = .none ∧ (t.seq st q).b = x.b ∧ MemoryKept s t
    (Issues s st q 0x2C → queuePage st v ≠ none → queueBind s st v = seqPlan s st q → queueRebinding s st v = false →
      ((s.queue st v).waiting < queueDepth v → Completes (.push st q) s pushed) ∧
      (queueDepth v ≤ (s.queue st v).waiting → Completes (.push st q) s fun t => Waits s t st q .queueFull)) ∧
    (x.st = .running → x.wait = .queueFull → (s.queue st v).waiting < queueDepth v →
      Completes (.pushQueueRoom st q) s pushed) ∧
    (Issues s st q 0x2E → queuePage st (x.gpr (ksqRa w) + ksqSext w).toNat ≠ none →
      Completes (.waitq st q) s fun t => Waits s t st q .waitq) ∧
    (Issues s st q 0x2F → Completes (.fence st q) s fun t => Waits s t st q .fence) ∧
    (Issues s st q 0x30 → Completes (.waitdb st q) s fun t => Waits s t st q .waitdb) ∧
    (Issues s st q 0x33 → Completes (.waitpos st q) s fun t => Waits s t st q .waitpos) ∧
    (x.st = .running → x.wait = .waitq →
      let n := (x.gpr (ksqRa w) + ksqSext w).toNat
      let token : Word := (x.gpr (ksqRb w)).setWidth 32
      ((s.queue st n).retire - token).toNat < 2 ^ 31 → ((s.queue st n).accept - token).toNat ≤ 2 ^ 31 →
      Completes (.waitqDone st q) s fun t =>
        (t.seq st q).pred (ksqRd w) =
          (ksqRd w % 8 == 0 || cleanUpTo (s.queue st n) (Sparse.get (fun _ => 0) x.waited n) token) ∧
          (t.seq st q).g = x.g ∧ (t.seq st q).pc = x.pc + 1 ∧ (t.seq st q).wait = .none ∧ MemoryKept s t) ∧
    (x.st = .running → x.wait = .fence → (∀ e ∈ x.pushed, reached (s.queue st e.1) e.2 = true) →
      Completes (.fenceDone st q) s fun t =>
        (t.seq st q).pred (ksqRd w) = (ksqRd w % 8 == 0 ||
          x.pushed.all fun e => cleanUpTo (s.queue st e.1) (Sparse.get (fun _ => 0) x.waited e.1) e.2) ∧
          (t.seq st q).g = x.g ∧ (t.seq st q).pc = x.pc + 1 ∧ (t.seq st q).wait = .none ∧ MemoryKept s t) ∧
    (x.st = .running → x.wait = .waitdb →
      let hit := (s.box st q.val).db &&& (x.opB w).setWidth 32
      hit ≠ 0 → Completes (.waitdbDone st q) s fun t =>
        (t.box st q.val).db = (s.box st q.val).db &&& ~~~hit ∧
          Executed s t st q (x.setGpr (ksqRd w) (hit.setWidth 64)) (x.pc + 1)) ∧
    (x.st = .running → x.wait = .waitpos → (s.st st).tns.lock = .locked → v ≤ (s.st st).tns.pos.toNat →
      Completes (.waitposDone st q) s fun t => Executed s t st q x (x.pc + 1)) ∧
    (x.st = .running → x.wait ≠ .none → s.fld (seqPage st q) 0x05C 15 0 ≠ 0 →
      Completes (.seqWatchdog st q) s fun t =>
        SeqFaulted s t st q 0x0A26 (waitKind x.wait) ∧ t.flag (seqPage st q) 0x010 7 = true)

/-- Each command of SEQ_CMD by a requester that may write it, in a state that lists it and with no dead unit: LOAD begins loading,
START runs from ENTRY, STOP and RESUME stop and continue at the pc, SAVE and RESTORE enter CTX, CLEAR zeroes everything the
plan left (R326). In every other state START, STOP and RESUME set only CMD_REFUSED. SEQ_LOAD_DONE of a legal image of the
sequencer's plan leaves it READY with the image's words, data and entry (R325). SEQ_CTX_DONE of a SAVE writes the context and no
other byte, and of a RESTORE of such a context takes it and leaves the sequencer STOPPED (R328). -/
def Obligations.SequencerCommands : Prop :=
  (∀ (s : State) (r : Requester) (st : Fin 8) (q : Fin 4), s.has st = true → mayWrite s r (seqPage st q) 0x040 = true →
    seqDead s st q = false →
    let x := s.seq st q
    let becomes := fun (c : Instr) (y : Seq) => Completes c s fun t => t.seq st q = y ∧ MemoryKept s t
    let refuses := fun (c : Instr) => becomes c { x with refused := true }
    let ready := s.faulted (seqPage st q) = false ∧ seqAccepts s st q = true
    (x.st = .empty ∨ x.st = .ready ∨ x.st = .stopped ∨ x.st = .halted ∨ x.st = .faulted →
      becomes (.seqLoad r st q) { x with st := .loading, wait := .none }) ∧
    (x.st = .ready → ready →
      becomes (.seqStart r st q) { x with st := .running, pc := x.entry, wait := .none, abandoned := false }) ∧
    (x.st = .running → s.faulted (seqPage st q) = false →
      becomes (.seqStop r st q) { x with st := .stopped, wait := .none, abandoned := x.wait != .none }) ∧
    (x.st = .stopped → ready →
      becomes (.seqResume r st q) { x with st := .running, wait := .none, abandoned := false }) ∧
    (∀ d, x.st = .stopped ∨ x.st = .halted ∨ x.st = .faulted →
      becomes (.seqSave r st q d) { x with st := .ctx, ctx := .save d x.st }) ∧
    (x.st = .ready ∨ x.st = .stopped ∨ x.st = .halted ∨ x.st = .faulted →
      becomes (.seqRestore r st q) { x with st := .ctx, ctx := .restore x.st }) ∧
    (x.st ≠ .loading → x.st ≠ .ctx → becomes (.seqClear r st q) { st := .empty, refused := x.refused, exit := x.exit }) ∧
    (x.st ≠ .ready → refuses (.seqStart r st q)) ∧ (x.st ≠ .running → refuses (.seqStop r st q)) ∧
    (x.st ≠ .stopped → refuses (.seqResume r st q))) ∧
  (∀ (s : State) (st : Fin 8) (q : Fin 4), s.has st = true → (s.seq st q).st = .loading →
    let a := s.pair (seqPage st q) 0x048
    let h := s.bytes a 64
    let code := leNat (slice h 8 4)
    let len := code + leNat (slice h 12 4)
    imageBad h = none → leNat (slice h 6 2) = seqPlan s st q → inMemory s st a (64 + len) = true →
    readFailure s a (64 + len) = none → s.mod.bzl.sealed = false →
    Completes (.seqLoadDone st q) s fun t =>
      let y := t.seq st q
      y.st = .ready ∧ y.entry = BitVec.ofNat 15 (leNat (slice h 16 4)) ∧ y.pc = 0 ∧ y.plan.toNat = seqPlan s st q ∧
        (∀ i < code / 8, Sparse.get (fun _ => 0) y.istore i = BitVec.ofNat 64 (leNat (s.bytes (a + 64 + 8 * i) 8))) ∧
        (∀ i, i < leNat (slice h 12 4) → y.data i 1 = s.bytes (a + 64 + code + i) 1) ∧ MemoryKept s t) ∧
  (∀ (s : State) (st : Fin 8) (q : Fin 4) (back : SeqState), s.has st = true → (s.seq st q).st = .ctx →
    let a := s.pair (seqPage st q) 0x050
    let x := s.seq st q
    (∀ d, x.ctx = .save d back →
      let bs := x.context (seqPlan s st q) d
      contextArea s st q a bs.length = true → regionCheck s st (seqPlan s st q) true false a bs.length = none →
      readFailure s a bs.length = none →
      Completes (.seqCtxDone st q) s fun t =>
        t.bytes a bs.length = bs ∧ MemoryKeptBut s t (fun b => a ≤ b ∧ b < a + bs.length) ∧
          t.seq st q = { x with st := back, ctx := .none } ∧ t.flag (seqPage st q) 0x010 6 = true) ∧
    (x.ctx = .restore back → contextArea s st q a 576 = true → readFailure s a 576 = none →
      let bs := s.bytes a 576
      contextOk bs = true → leNat (slice bs 2 2) = seqPlan s st q → bitAt (leNat (slice bs 7 1)) 0 = false →
      Completes (.seqCtxDone st q) s fun t =>
        t.seq st q = { x.fromContext bs with st := .stopped, ctx := .none } ∧ MemoryKept s t))

/-- A permitted REBIND with GO: where a check fails nothing is re-bound and ARB_BIND_STAT shows REFUSED with the reason of R330;
else the command joins those under way with every resource of its range, and each quiesces. REBIND_SCRUB takes a resource that has
no work in flight to its scrub, or an LPDDR5X region that needs none to its handover; REBIND_HANDOVER takes it from the scrub to
the handover, a core's panel store then reading zero (R329, R331). REBIND_DONE gives every page of the resource the new plan and
its LOCKED bit, and ends its QUIESCE. REBIND_FORCED takes a resource that did not quiesce to its scrub, and records
BIND_FORCED once for the command (R332). -/
def Obligations.Rebinding : Prop :=
  (∀ (s : State) (r : Requester) (st : Fin 8) (v : Word), s.has st = true → mayWrite s r (arbPage st) 0x088 = true →
    bitAt v.toNat 0 = true →
    let a := arbPage st
    let first := s.fld a 0x080 15 0
    let count := s.fld a 0x080 21 16 + 1
    let plan : BitVec 16 := BitVec.ofNat 16 (s.reg a 0x084).toNat
    let codes := (List.range count).map (first + ·)
    let why := rebindReason s r st codes plan.toNat (bitAt v.toNat 3)
    Completes (.rebind r st v) s fun t =>
      MemoryKept s t ∧ (t.st st).arb.bindTicket = (s.st st).arb.bindTicket + 1 ∧
      if why ≠ 0 then
        (t.st st).arb.bind = (s.st st).arb.bind ∧ (t.reg a 0x08C).toNat = 3 + 2 ^ 8 * why ∧ t.flag a 0x010 4 = true
      else
        (t.reg a 0x08C).toNat = 1 + 2 ^ 16 * count ∧
          (t.st st).arb.bind = (s.st st).arb.bind ++
            [{ first := first, count := count, plan := plan, scrub := bitAt v.toNat 1, lock := bitAt v.toNat 2,
               ticket := (s.st st).arb.bindTicket + 1, left := codes.map fun c => { res := c } }]) ∧
  (∀ (s : State) (st : Fin 8) (res : Nat) (c : RebindCmd) (x : Rebind) (r : Res), s.has st = true →
    moving s st res = some (c, x) → resOf res = some r →
    let phaseOf := fun (t : State) => (moving t st res).map fun e => e.2.phase
    (x.phase = 2 → resQuiet s st r = true → Completes (.rebindScrub st res) s fun t =>
      MemoryKept s t ∧ phaseOf t = some (match r with
        | .region n => if regionScrubbed s st n c.scrub then 3 else 4
        | _ => 3)) ∧
    (x.phase = 3 → (∀ p ∈ r.pages st, s.flag p 0x008 1 = false) → Completes (.rebindHandover st res) s fun t =>
      phaseOf t = some 4 ∧
        (∀ k, r = .core k → ∀ i < panelSize, t.byte (panelBase st.val k + i) = 0) ∧
        (∀ q, r = .seq q → (t.seq st q).st = .empty ∧ (t.seq st q).istore = [] ∧ (t.seq st q).dstore = []) ∧
        ((∀ k, r ≠ .core k) → (∀ n, r ≠ .region n) → MemoryKept s t)) ∧
    (x.phase = 4 → Completes (.rebindDone st res) s fun t =>
      (∀ p ∈ r.pages st, t.fld p 0x030 15 0 = c.plan.toNat ∧ t.flag p 0x030 31 = c.lock ∧ t.flag p 0x008 2 = false) ∧
        (∀ n, r = .region n → (t.region st n).plan = c.plan ∧ (t.region st n).locked = c.lock) ∧
        (∀ p ∈ r.eventPages st, t.flag p 0x010 2 = true) ∧ MemoryKept s t) ∧
    (x.phase = 2 → Completes (.rebindForced st res) s fun t =>
      (phaseOf t = some 3 ∨ phaseOf t = some 4) ∧ MemoryKept s t ∧
        (c.forced = false → t.fld (arbPage st) 0x020 15 0 = 0x0A30 ∧ (t.reg (arbPage st) 0x024).toNat = res * 2 ^ 16)))

/-- ACTIVITY_SUBMIT and a permitted ARB_SUBMIT with GO, of an activity that is not a swap without a spare: judged by R335, it
starts, waits at the end of the queue, or is refused and counted; ARB_SUBMIT leaves the result and its ticket in ARB_RESULT. A swap
that finds no spare marks its unit dead instead and starts nothing (R428). ACTIVITY_ADMIT starts the first waiting request that
may start (R336). ACTIVITY_END takes an activity whose work has ended out of the running set, and reopens a retrained
channel. QUEUE_TIMEOUT drops a waiting request and records its timeout (R340). -/
def Obligations.MaintenanceArbiter : Prop :=
  (∀ (s : State) (st : Fin 8) (k act scope : Nat), s.has st = true →
    let a : Activity := { act := act, scope := scope, sub := k, ticket := (s.st st).arb.ticket }
    let swap := act = 4 ∨ act = 5 ∨ act = 6
    let dies := swap ∧ scopeOk act scope = true ∧ submitterOk k act scope = true ∧ pickSpare s st act scope = none
    let judged := fun (t : State) =>
      (t.st st).arb.run = (if judge s st a = 0 then (s.st st).arb.run ++ [a] else (s.st st).arb.run) ∧
        (t.st st).arb.wait = (if judge s st a = 1 then (s.st st).arb.wait ++ [a] else (s.st st).arb.wait) ∧
        (2 ≤ judge s st a → t.reg (arbPage st) 0x05C = sat32 ((s.reg (arbPage st) 0x05C).toNat + 1)) ∧ MemoryKept s t
    let dead := fun (t : State) =>
      (t.st st).arb.run = (s.st st).arb.run ∧ t.fld (unitPage st act scope) 0x020 15 0 = 0x0A40 ∧
        t.flag (arbPage st) 0x010 8 = true ∧ (act = 4 → coreDead t st scope = true) ∧ MemoryKept s t
    (¬ dies → Completes (.activitySubmit st k act scope) s judged) ∧
    (dies → Completes (.activitySubmit st k act scope) s dead) ∧
    (∀ (r : Requester) (v : Word), mayWrite s r (arbPage st) 0x040 = true → bitAt v.toNat 31 = true →
      act = bitsOf v.toNat 3 0 → scope = bitsOf v.toNat 23 8 → k = submitterOf r →
      (¬ dies → Completes (.arbSubmit r st v) s fun t => judged t ∧
        (t.reg (arbPage st) 0x044).toNat = judge s st a + act * 2 ^ 8 + (s.st st).arb.ticket % 2 ^ 16 * 2 ^ 16) ∧
      (dies → Completes (.arbSubmit r st v) s fun t => dead t ∧ t.fld (arbPage st) 0x044 2 0 = 2))) ∧
  (∀ (s : State) (st : Fin 8) (i : Nat) (a : Activity), s.has st = true → (s.st st).arb.wait[i]? = some a →
    (admissible s st a = true → (∀ b ∈ (s.st st).arb.wait.take i, admissible s st b = false) →
      ¬((a.act = 4 ∨ a.act = 5 ∨ a.act = 6) ∧ pickSpare s st a.act a.scope = none) →
      Completes (.activityAdmit st i) s fun t =>
        (t.st st).arb.run = (s.st st).arb.run ++ [a] ∧ (t.st st).arb.wait = (s.st st).arb.wait.eraseIdx i ∧
          (a.act = 0 → a.scope < 16 → t.flag (stackPage st .mem (a.scope / 4)) 0x06C 2 = true)) ∧
    (s.fld (arbPage st) 0x054 15 0 ≠ 0 → Completes (.queueTimeout st i) s fun t =>
      (t.st st).arb.wait = (s.st st).arb.wait.erase a ∧ t.fld (arbPage st) 0x020 15 0 = 0x0A31 ∧ MemoryKept s t)) ∧
  (∀ (s : State) (st : Fin 8) (act scope : Nat), s.has st = true → mayEnd s act = true →
    ((s.st st).arb.run.any fun a => a.act == act && a.scope == scope) = true →
    Completes (.activityEnd st act scope) s fun t =>
      (t.st st).arb.run = ((s.st st).arb.run.filter fun a => !(a.act == act && a.scope == scope)) ∧ MemoryKept s t ∧
        (act = 0 → scope < 16 → t.flag (stackPage st .mem (scope / 4)) 0x06C 2 = false))

/-- SWAP_CUTOVER of a running swap whose position has come, with a spare and no re-binding of its unit, gives it the spare (R425).
SWAP_COPY once the unit has drained takes it to the copied state, or, with a spare that fails, ends the swap and retires the
spare (R427). SWAP_COMPLETE of a copied swap ends it, and the spare map names the unit the spare serves (R429). No byte of memory
changes. -/
def Obligations.SpareSwaps : Prop :=
  ∀ (s : State) (st : Fin 8) (act scope : Nat) (a : Activity), s.has st = true → runningSwap s st act scope = some a →
    (∀ i, pickSpare s st act scope = some i → a.phase = 0 → cutoverDue s st = true →
      let unit := if act = 4 then scope else if act = 6 then 0x130 + scope else if scope < 0x100 then 0x100 + scope / 4 else 0x110
      (∀ c ∈ (s.st st).arb.bind, ∀ r ∈ c.left, r.res ≠ unit) →
      Completes (.swapCutover st act scope) s fun t =>
        runningSwap t st act scope = some { a with phase := 1, spare := i } ∧ MemoryKept s t) ∧
    (a.phase = 1 → unitBusy s st act scope = false →
      (act = 4 → s.domOn st (bitsOf (spareReg s st a.spare) 5 0 / 15) = true) →
      Completes (.swapCopy st act scope true) s (fun t =>
        runningSwap t st act scope = some { a with phase := 2 } ∧ MemoryKept s t) ∧
      Completes (.swapCopy st act scope false) s (fun t =>
        runningSwap t st act scope = none ∧ MemoryKept s t ∧
          (act = 4 → a.spare < 4 → t.flag (arbPage st) (0x0A0 + 4 * a.spare) 15 = true) ∧
          (act ≠ 4 → t.flag (arbPage st) 0x0B0 (laneBits a.spare).2 = true))) ∧
    (a.phase = 2 → Completes (.swapComplete st act scope) s fun t =>
      runningSwap t st act scope = none ∧ t.flag (arbPage st) 0x010 7 = true ∧ MemoryKept s t ∧
        (act = 4 → a.spare < 4 → scope < 56 →
          t.fld (arbPage st) (0x0A0 + 4 * a.spare) 13 8 = scope ∧ t.flag (arbPage st) (0x0A0 + 4 * a.spare) 14 = true) ∧
        (act = 5 → scope < 16 → a.spare < 2 →
          t.fld (arbPage st) 0x0B0 (laneField a.spare).1 (laneField a.spare).2 = scope ∧
            t.flag (arbPage st) 0x0B0 (laneBits a.spare).1 = true) ∧
        (act = 6 → scope < 4 → a.spare = 3 →
          t.fld (arbPage st) 0x0B0 25 24 = scope ∧ t.flag (arbPage st) 0x0B0 26 = true))

/-- IDLE_CORE_TEST of an unbound idle core leaves its panel store and tiles zeroed and no other byte changed; of a free spare it
retires one that fails (R422). HEARTBEAT_CHECK takes the firmware's bit and starts its count of misses again, counts a miss, and
with the third restarts the firmware and records it. PAIRING_CHECK holds a stack that answers wrongly in reset, and changes
nothing for one that answers and is paired (R417, R422). -/
def Obligations.BezelChecks : Prop :=
  (∀ (s : State) (st : Fin 8) (phys : Fin 60), s.has st = true → s.domOn st (phys.val / 15) = true →
    (∀ c, servedBy s st phys.val = some c →
      s.fld (stackPage st .mx c) 0x030 15 0 = 0 → busy s (stackPage st .mx c) = false →
      busy s (stackPage st .vc c) = false → Completes (.idleCoreTest st phys true) s fun t =>
        (∀ i < panelSize, t.byte (panelBase st.val c + i) = 0) ∧ (t.core st c).tiles = [] ∧
          MemoryKeptBut s t (fun a => panelBase st.val c ≤ a ∧ a < panelBase st.val c + panelSize)) ∧
    (∀ i, servedBy s st phys.val = none → spareEntry s st phys.val = some i →
      Completes (.idleCoreTest st phys false) s fun t => t.flag (arbPage st) (0x0A0 + 4 * i) 15 = true ∧ MemoryKept s t)) ∧
  (∀ (s : State) (st : Fin 8), s.has st = true → (s.st st).pwr.firmware = true → s.mod.pwr.sleeping = false →
    ((s.box st 16).db.getLsbD 28 = true → Completes (.heartbeatCheck st) s fun t =>
      (t.st st).arb.missed = 0 ∧ (t.box st 16).db.getLsbD 28 = false ∧ (t.st st).arb.restarts = (s.st st).arb.restarts) ∧
    ((s.box st 16).db.getLsbD 28 = false → (s.st st).arb.missed < 2 → Completes (.heartbeatCheck st) s fun t =>
      (t.st st).arb.missed = (s.st st).arb.missed + 1 ∧ (t.st st).arb.restarts = (s.st st).arb.restarts) ∧
    ((s.box st 16).db.getLsbD 28 = false → 2 ≤ (s.st st).arb.missed → Completes (.heartbeatCheck st) s fun t =>
      (t.st st).arb.missed = 0 ∧ (t.st st).arb.restarts = min 255 ((s.st st).arb.restarts + 1) ∧
        ((s.st st).arb.wait = [] → (s.st st).ckpt.streaming = false → t.fld (arbPage st) 0x020 15 0 = 0x0A41))) ∧
  (∀ (s : State) (st : Fin 8), s.has st = true → st ≠ 0 → (s.st 0).pwr.firmware = true →
    (s.st st).pwr.held = false →
    Completes (.pairingCheck st false) s (fun t => (t.st st).pwr.held = true ∧ (t.st st).pwr.paired = false) ∧
    Completes (.pairingCheck st true) s (fun t =>
      (t.st st).pwr.paired = true ∧ ((s.st st).pwr.paired = true → t = s)))

/-- LINK_UP of a link that its port's mode has, with the domain ON and both clocks there, puts it up with the NET_CFG written
(R375); LINK_DOWN takes it down and records LINK_DOWN (R378). NET_CFG_WRITE takes the fields with a legal encoding, and a MODE
other than the one in force takes every link of the port down. A pause frame pauses every priority where PAUSE_RX is 1, a PFC frame
those it names of PFC_EN (R344). On a link that is up an echo request and an address request for the link's address are
answered, a PTP event steers the clock of the module, and a frame of no protocol is counted (R343). -/
def Obligations.NetworkPorts : Prop :=
  (∀ (s : State) (st : Fin 8) (port : Fin 2) (k : Fin 4), s.has st = true →
    let p := netPage st port.val
    (s.domOn st 5 = true → s.mod.pwr.ethRefclkLost = false → s.mod.pwr.clocksStopped = false →
      linkIsUp s st port.val k.val = false → k.val < modeLinks (s.fld p 0x040 2 0) →
      Completes (.linkUp st port k) s fun t =>
        linkIsUp t st port.val k.val = true ∧ (t.port st port.val).cfg = s.reg p 0x040 ∧ t.flag p 0x010 3 = true ∧
          ∀ j < 4, j ≠ k.val → linkIsUp t st port.val j = linkIsUp s st port.val j) ∧
    (linkIsUp s st port.val k.val = true →
      Completes (.linkDown st port k) s (fun t =>
        linkIsUp t st port.val k.val = false ∧ t.fld p 0x020 15 0 = 0x0601 ∧ (t.reg p 0x024).toNat = k.val * 2 ^ 16 ∧
          t.flag p 0x010 4 = true) ∧
      (bitAt (s.port st port.val).cfg.toNat 3 = true → Completes (.pauseFrame st port k none) s fun t =>
        (t.port st port.val).paused[k] = 0xFF ∧ t.reg p 0x088 = sat32 ((s.reg p 0x088).toNat + 1)) ∧
      (∀ b : Byte, bitsOf (s.port st port.val).cfg.toNat 15 8 ≠ 0 → Completes (.pauseFrame st port k (some b)) s fun t =>
        (t.port st port.val).paused[k] = b &&& BitVec.ofNat 8 (bitsOf (s.port st port.val).cfg.toNat 15 8)) ∧
      (∀ v6 dst body, linkAddress s st port.val k.val v6 = some dst → s.mod.pwr.clocksStopped = false →
        Completes (.icmpEcho st port k v6 dst body) s fun t => t = { s with out := s.out ++ [.frame st port.val k.val body] }) ∧
      (∀ v6 target, linkAddress s st port.val k.val v6 = some target → s.mod.pwr.clocksStopped = false →
        Completes (.neighbourDiscovery st port k v6 target) s fun t =>
          ∃ bs, t = { s with out := s.out ++ [.frame st port.val k.val bs] } ∧
            bs.take 6 = leBytes (linkReg s st port.val k.val 0x04C) 4 ++ leBytes (linkReg s st port.val k.val 0x050) 2) ∧
      (∀ d, st = 0 → s.fld pwrmPage 0x078 1 0 = 1 → (s.st 0).pwr.firmware = true →
        Completes (.ptpEventMessage st port k d) s fun t =>
          t.mod.pwr.rtc = s.mod.pwr.rtc + d ∧ t.flag pwrmPage 0x078 2 = true) ∧
      Completes (.droppedFrame st port k) s fun t => t.reg p 0x084 = sat32 ((s.reg p 0x084).toNat + 1))) ∧
  (∀ (s : State) (r : Requester) (st : Fin 8) (port : Fin 2) (v : Word), s.has st = true →
    let p := netPage st port.val
    mayWrite s r p 0x040 = true → Completes (.netCfgWrite r st port v) s fun t =>
      let n := v.toNat
      t.fld p 0x040 2 0 = (if bitsOf n 2 0 = 7 then s.fld p 0x040 2 0 else bitsOf n 2 0) ∧
        t.flag p 0x040 3 = bitAt n 3 ∧ t.fld p 0x040 15 8 = bitsOf n 15 8 ∧
        t.flag p 0x040 4 = (if bitAt n 4 = true ∧ bitsOf n 15 8 ≠ 0 then s.flag p 0x040 4 else bitAt n 4) ∧
        (t.fld p 0x040 2 0 ≠ s.fld p 0x040 2 0 → ∀ k < 4, linkIsUp t st port.val k = false))

/-- KXT_OPEN_GO of a legal open request in memory, to a peer that is not left alone, with a free context in a range of its plan,
sends HS_INIT from that context and shows BUSY (R363). HS_INIT of an allowed peer takes a free context, and is refused and counted
where there is none or ACCEPT is 0 (R350, R353). HS_RESP of the peer targeted opens the session and ends the open request with
its session id. HS_REJECT and HS_TIMEOUT end it and close the context, and FAILED_TIMEOUT closes a failed one (R349). -/
def Obligations.SessionHandshakes : Prop :=
  (∀ (s : State) (r : Requester) (st : Fin 8) (ctx : Nat) (pl : Place), s.has st = true →
    let a := s.pair (kxtPage st) 0x084
    let bs := s.bytes a 64
    let range := leNat (slice bs 6 2)
    mayWrite s r (kxtPage st) 0x08C = true → (s.st st).opening = none → a < 2 ^ 52 → s.has (stackField a) = true →
    rangePlace s a 64 = some pl → pl ≠ .regs → readFailure s a 64 = none → requestOk bs = true →
    (∀ e ∈ (s.st st).blocked, e.1 ≠ val256 (slice bs 24 32)) → rangeBind s st range = requesterPlan s st r →
    rangeMoving s st range = false → freeInRange s st range = some ctx →
    Completes (.kxtOpenGo r st) s fun t =>
      let c := t.sess st ctx
      (t.st st).opening = some ctx ∧ t.reg (kxtPage st) 0x0E0 = 1 ∧ c.st = .hsSent ∧ c.initiator = true ∧
        c.role = (bs.getD 0 0).toNat ∧ c.hsTarget = val256 (slice bs 24 32) ∧ c.hsBody.length = 6517) ∧
  (∀ (s : State) (st : Fin 8) (port : Fin 2) (k : Fin 4) (body rnd : List Byte), s.has st = true → body.length = 6517 →
    let role := (body.getD 0 0).toNat
    1 ≤ role → role ≤ 3 → slice body 1 3 = [0, 0, 0] →
    (∀ ctx, s.flag (kxtPage st) 0x040 16 = true → initAuth s body = true → incomingContext s st role = some ctx →
      Completes (.hsInit st port k body rnd) s fun t =>
        let c := t.sess st ctx
        c.st = .hsRecv ∧ c.role = role ∧ c.port = port.val ∧ c.link = k.val ∧
          c.peer = BitVec.ofNat 32 (leNat (slice body 4 4)) ∧ c.initiator = false) ∧
    (s.flag (kxtPage st) 0x040 16 = false ∨ (initAuth s body = true ∧ incomingContext s st role = none) →
      Completes (.hsInit st port k body rnd) s fun t =>
        (t.st st).sess = (s.st st).sess ∧ t.reg (kxtPage st) 0x05C = sat32 ((s.reg (kxtPage st) 0x05C).toNat + 1))) ∧
  (∀ (s : State) (st : Fin 8) (ctx : Nat), s.has st = true →
    let c := s.sess st ctx
    (c.st = .hsSent → ctx < 2 ^ 15 → ∀ body : List Byte, body.length = 6357 → leNat (slice body 4 4) = sidOf st ctx →
      val256 (shake (slice body 1096 1952) 32) = c.hsTarget →
      Config.dsaVerify (slice body 1096 1952) (shake c.hsBody 64 ++ body.take 3048) [] (slice body 3048 3309) = true →
      Completes (.hsResp st ctx body) s fun t =>
        (t.sess st ctx).st = .opened ∧ (t.sess st ctx).peer = BitVec.ofNat 32 (leNat (slice body 0 4)) ∧
          (t.sess st ctx).role = c.role ∧ (t.st st).opening = none ∧ t.reg (kxtPage st) 0x0E0 = 0 ∧
          (t.reg (kxtPage st) 0x0E4).toNat = sidOf st ctx) ∧
    (c.st = .hsSent → ∀ status, Completes (.hsReject st ctx status) s fun t =>
      t.sess st ctx = {} ∧ (t.st st).opening = none ∧ t.fld (kxtPage st) 0x0E0 15 8 = status.toNat % 256) ∧
    (c.st = .hsSent ∨ c.st = .hsRecv → Completes (.hsTimeout st ctx) s fun t =>
      t.sess st ctx = {} ∧ (c.st = .hsSent → (t.st st).opening = none)) ∧
    (c.st = .failed → Completes (.failedTimeout st ctx) s fun t => t.sess st ctx = {}))

/-- DATA in order on a session executes its payload, once, with the session advanced past it, and is acknowledged or left for a later
ACK (R355, R356); the first one opens a session that answered HS_INIT. ACK drops what it covers and keeps what it does
not (R356). ACK_DELAY sends the ACK. RTO_EXPIRY counts the expiry of its packet and sends it again, or with RETRY_MAX of them the
session fails (R357). CLOSE of a session with nothing missing, and CLOSE_ACK of one that is CLOSING, end it (R349); RESET is
counted (R351). CC_PERIOD leaves a rate between 100 Mb/s and the link's (R358). -/
def Obligations.SessionTransport : Prop :=
  (∀ (s u : State) (st : Fin 8) (port : Fin 2) (k : Fin 4) (p : Packet) (ce : Bool) (ctx : Nat) (bs : List Byte),
    s.has st = true → receive s st port.val k.val p 0x10 = (u, some (ctx, bs)) → (u.sess st ctx).ahead = [] →
    (u.sess st ctx).seqRx = p.seq →
    Completes (.data st port k p ce) s fun t =>
      let v := if (u.sess st ctx).st = .hsRecv then sessOpened u st ctx else u
      let w := v.modSess st ctx fun c =>
        { c with ceSince := c.ceSince + bit ce, unacked := c.unacked + 1, seqRx := c.seqRx + 1 }
      let x := payload w st ctx bs
      t = x ∨ t = sendAck x st ctx ∨ t = answerClose x st ctx ∨ t = answerClose (sendAck x st ctx) st ctx) ∧
  (∀ (s u : State) (st : Fin 8) (p : Packet) (ns ctx : Nat) (bs : List Byte), s.has st = true →
    (receive s st 0 0 p 0x11 = (u, some (ctx, bs)) → (u.sess st ctx).st = .opened ∨ (u.sess st ctx).st = .closing →
      bs.length = 24 → (u.sess st ctx).ackPn.toNat < p.pn.toNat → (u.sess st ctx).queued = [] →
      Completes (.ack st p ns) s fun t =>
        (t.sess st ctx).ackPn = p.pn ∧
          (t.sess st ctx).sent.map (·.seq) = ((u.sess st ctx).sent.filter fun e =>
            decide (seqAhead e.seq (BitVec.ofNat 32 (leNat (slice bs 0 4))) < 2 ^ 31)).map (·.seq)) ∧
    (receive s st 0 0 p 0x12 = (u, some (ctx, bs)) → (u.sess st ctx).st = .opened →
      Completes (.close st p) s fun t =>
        if (u.sess st ctx).ahead = [] then t.sess st ctx = {} else (t.sess st ctx).closeGot = true) ∧
    (receive s st 0 0 p 0x13 = (u, some (ctx, bs)) → (u.sess st ctx).st = .closing →
      Completes (.closeAck st p) s fun t => t.sess st ctx = {})) ∧
  (∀ (s : State) (st : Fin 8) (ctx : Nat), s.has st = true →
    let c := s.sess st ctx
    (0 < c.unacked → Completes (.ackDelay st ctx) s fun t =>
      (t.sess st ctx).unacked = 0 ∧ (t.sess st ctx).pnTx = c.pnTx + 1) ∧
    (∀ e : Sent, (c.st = .opened ∨ c.st = .closing) → (c.sent.find? fun x => x.seq == e.seq && !x.sacked) = some e →
      (e.timeouts + 1 < retryMax s st → Completes (.rtoExpiry st ctx e.seq) s fun t =>
        (t.sess st ctx).rtoSeen = true ∧ (t.sess st ctx).pnTx = c.pnTx + 1 ∧
          (t.sess st ctx).sent.map (·.seq) = c.sent.map (·.seq) ∧
          t.pair (kxtPage st) 0x068 = (s.pair (kxtPage st) 0x068 + 1) % 2 ^ 64) ∧
      (retryMax s st ≤ e.timeouts + 1 → Completes (.rtoExpiry st ctx e.seq) s fun t => (t.sess st ctx).st = .failed)) ∧
    (c.st ≠ .closed → Completes (.reset st ctx) s fun t => t.sess st ctx = { c with resets := c.resets + 1 }) ∧
    (c.st = .opened ∨ c.st = .closing → Completes (.ccPeriod st ctx) s fun t =>
      let d := t.sess st ctx
      100 ≤ d.rate ∧ d.rate ≤ max 100 (linkRate s st c : Nat) ∧ d.ceSeen = false ∧ d.rtoSeen = false ∧ d.st = c.st))

/-- An operation that its session may make, with SEALED data once they are opened. REG_RD of one reachable register answers its
value, and REG_WR of one writes it and answers OK (R361). MEM_WR to a range of one stack that no moving or closed region touches and
that holds no uncorrectable word leaves the data there and no other byte changed; MEM_RD of such a range, within the length a reply
holds, answers its bytes, sealed where the request was. An operation that its role may not send, or that is no operation, is
answered with its status and changes no memory. -/
def Obligations.HostMemoryAndRegisters : Prop :=
  (∀ (s u : State) (st : Fin 8) (ctx : Nat) (op : HostOp) (data : List Byte),
    let a := op.addr.toNat
    let answers := fun (opc : Nat) (v t : State) (bs : List Byte) =>
      t = reply v st ctx { op with opc := BitVec.ofNat 8 opc } 0 bs
    (∀ p r, data.length = 4 → a % 4 = 0 → unreachable u st a false = none → regTargets u .host a = some [(p, r)] →
      (stackField a ≠ 15 ∨ p.stk = 15) →
      (Accepts s st ctx 0x01 op u data → Completes (.regRd st ctx op) s fun t =>
        let x := readReg u (hostAt st p.home) p (a % 4096)
        answers 0x01 x.2 t (leBytes x.1.toNat 4)) ∧
      (Accepts s st ctx 0x02 op u data → mayWrite u (hostAt st p.home) p (a % 4096) = true →
        Completes (.regWr st ctx op) s fun t =>
          answers 0x02 (writeReg u (hostAt st p.home) p (a % 4096) (BitVec.ofNat 32 (leNat data))) t [])) ∧
    (∀ pl n, unreachable u st a true = none → stackField a ≠ 15 → a % 16 = 0 → n % 16 = 0 → n ≠ 0 →
      rangePlace u a n = some pl → pl ≠ .regs → regionRefusal u (stackOf a) (offsetOf a) n true = none →
      readFailure u a n = none →
      (Accepts s st ctx 0x03 op u data → n = data.length → Completes (.memWr st ctx op) s fun t =>
        t.bytes a n = data ∧ MemoryKeptBut s t fun b => a ≤ b ∧ b < a + n) ∧
      (Accepts s st ctx 0x04 op u data → bitAt op.flags.toNat 1 = false → data.length = 4 → n = leNat data →
        n ≤ maxPayload u st (u.sess st ctx).port (u.sess st ctx).link - 16 → Completes (.memRd st ctx op) s fun t =>
          answers 0x04 u t (u.bytes a n) ∧ MemoryKept s t) ∧
      (Accepts s st ctx 0x04 op u data → bitAt op.flags.toNat 1 = true → data.length = 5 → n = leNat (data.take 4) →
        leNat (data.drop 4) < 16 → (u.slot (leNat (data.drop 4))).filled = true →
        n ≤ maxPayload u st (u.sess st ctx).port (u.sess st ctx).link - 48 → Completes (.memRd st ctx op) s fun t =>
          let k := leNat (data.drop 4)
          (t.slot k).outSeq = (u.slot k).outSeq + 1 ∧ MemoryKept s t))) ∧
  (∀ (s : State) (st : Fin 8) (ctx : Nat) (op : HostOp), s.has st = true → answerable s st ctx = true →
    bitAt op.flags.toNat 0 = false →
    let refuses := fun (c : Instr) (opc status : Nat) =>
      Completes c s fun t => t = reply s st ctx { op with opc := BitVec.ofNat 8 opc } status []
    let alone := s.mod.bzl.recovery = false ∧ op.flags.toNat < 4
    (4 ≤ op.flags.toNat → refuses (.regRd st ctx op) 1 8 ∧ refuses (.memWr st ctx op) 3 8 ∧ refuses (.kxtNop st ctx op) 0x3F 8) ∧
    (alone → (s.sess st ctx).role ≠ 1 → refuses (.regRd st ctx op) 1 6 ∧ refuses (.regWr st ctx op) 2 6 ∧
      refuses (.memWr st ctx op) 3 6 ∧ refuses (.memRd st ctx op) 4 6 ∧ refuses (.planLoad st ctx op) 5 6 ∧
      refuses (.planStart st ctx op) 6 6 ∧ refuses (.mbxWr st ctx op) 7 6 ∧ refuses (.doorbell st ctx op) 8 6) ∧
    (alone → (s.sess st ctx).role = 1 → s.mod.bzl.sealed = true → bitAt op.flags.toNat 1 = false →
      refuses (.memWr st ctx op) 3 0x0C ∧ refuses (.memRd st ctx op) 4 0x0C))

/-- An operation that its session may make. PLAN_LOAD of a sequencer that can load writes the image address and begins LOAD, its reply
waiting; PLAN_START of one that is READY starts it (R360). MBX_WR puts its word in the mailbox, and its reply waits where the
mailbox is not ready (R391); MBX_WR_REPLY sends a reply once the mailbox is. DOORBELL sets its bits (R386), NOP only answers.
MBX_EVENT_SEND sends one EVENT for a page with events pending (R392). A BEAT frame of the session configured reaches the Tense units
where it is in time, and is counted where it is late (R365). -/
def Obligations.HostPlansAndMailboxes : Prop :=
  (∀ (s u : State) (st dst : Fin 8) (ctx : Nat) (op : HostOp) (data : List Byte), s.has dst = true →
    (∀ q, Accepts s st ctx 0x05 op u data → planTarget u st { op with opc := 5, data := data } 8 = .ok (dst, q) →
      (u.seq dst q).st = .empty ∨ (u.seq dst q).st = .ready → seqDead u dst q = false →
      Completes (.planLoad st ctx op) s fun t =>
        (t.seq dst q).st = .loading ∧ (t.seq dst q).loadReply = some (sidOf st ctx, op.req, op.addr) ∧
          (t.reg (seqPage dst q) 0x048).toNat = leNat data % 2 ^ 32 ∧ MemoryKept s t) ∧
    (∀ q, Accepts s st ctx 0x06 op u data → planTarget u st { op with opc := 6, data := data } 0 = .ok (dst, q) →
      (u.seq dst q).st = .ready → u.faulted (seqPage dst q) = false → seqAccepts u dst q = true → seqDead u dst q = false →
      Completes (.planStart st ctx op) s fun t =>
        (t.seq dst q).st = .running ∧ (t.seq dst q).pc = (u.seq dst q).entry ∧ MemoryKept s t) ∧
    (data.length = 4 → unreachable u st op.addr.toNat true = none → stackField op.addr.toNat ≠ 15 →
      stackOf op.addr.toNat = dst →
      let mb := op.addr.toNat % 64
      let v : Word := BitVec.ofNat 32 (leNat data)
      (Accepts s st ctx 0x07 op u data → Completes (.mbxWr st ctx op) s fun t =>
        (t.box dst mb).word = v ∧ (t.box dst mb).full = true ∧ (t.box dst mb).sender = requesterIndex (hostAt st dst) ∧
          (t.st st).replies.length = (u.st st).replies.length + (if boxReady u dst mb then 0 else 1)) ∧
      (Accepts s st ctx 0x08 op u data → Completes (.doorbell st ctx op) s fun t =>
        (t.box dst mb).db = (u.box dst mb).db ||| v)) ∧
    (Accepts s st ctx 0x3F op u data → Completes (.kxtNop st ctx op) s fun t =>
      t = reply u st ctx { op with opc := 0x3F } 0 [])) ∧
  (∀ (s : State) (st : Fin 8) (i : Nat) (w : WaitReply), s.has st = true → (s.st st).replies[i]? = some w →
    (w.parts.map (settlePart s w.mb)).all (fun p => p.ready.isSome) = true → Completes (.mbxWrReply st i) s fun t =>
      (t.st st).replies = (s.st st).replies.eraseIdx i) ∧
  (∀ (s : State) (st h : Fin 8) (k : Fin 4) (ctx : Nat), s.has st = true → k ≠ 0 → s.pend (stackPage st .mbx k.val) ≠ 0 →
    (s.st st).evtSent.toNat.testBit k.val = false → hostSess s (stackPage st .mbx k.val) = some (h, ctx) →
    Completes (.mbxEventSend st k) s fun t =>
      (t.st st).evtSent.toNat.testBit k.val = true ∧ (∀ j m, t.box j m = s.box j m)) ∧
  (∀ (s : State) (ctx : Nat) (f : BeatFrame) (now : DWord), answerable s 0 ctx = true →
    (s.sess 0 ctx).role = 1 ∨ (s.sess 0 ctx).role = 3 → s.fld (kxtPage 0) 0x100 17 0 = ctx →
    let inTime := f.edge.toNat ≤ now.toNat + 1000000000 ∧ now.toNat ≤ f.edge.toNat + s.fld (kxtPage 0) 0x104 15 0 * 1000
    (inTime → Completes (.beat ctx f now) s fun t => t = frameToAll s f) ∧
      (¬ inTime → Completes (.beat ctx f now) s fun t =>
        t.reg (kxtPage 0) 0x108 = sat32 ((s.reg (kxtPage 0) 0x108).toNat + 1) ∧ t.flag (kxtPage 0) 0x010 8 = true))

/-- CHAN_READY sets ready bits; the channel whose event has fired starts at the Clasp's step and its bit clears (R367). A START from
the successor lets data flow, and one that comes early for the same step is held (R372). A REDUCE or GATHER segment that the channel
expects, and that meets no failure, is combined into or written over its unit (R369, R370), and the channel goes on as far as it can.
A VOTE is taken, and the last one makes a voting channel DONE (R371). A segment of another step, a START included, and COLL_TIMEOUT
fail the channel (R372). -/
def Obligations.Collectives : Prop :=
  (∀ (s : State) (r : Requester) (st : Fin 8) (v : Word), s.has st = true → mayWrite s r (kxtPage st) 0x098 = true →
    ((∀ c < 16, (s.chan st c).fired = false) → Completes (.chanReady r st v) s fun t =>
      t.reg (kxtPage st) 0x098 = s.reg (kxtPage st) 0x098 ||| (v &&& 0xFFFF)) ∧
    (∀ c < 16, (s.chan st c).fired = true → (∀ d < 16, d ≠ c → (s.chan st d).fired = false) →
      (s.chan st c).st = .idle ∨ (s.chan st c).st = .done → v.getLsbD c = true →
      Completes (.chanReady r st v) s fun t =>
        (t.chan st c).step = (s.st st).clp.step ∧ (t.chan st c).fired = false ∧ (t.chan st c).st ≠ .idle ∧
          t.flag (kxtPage st) 0x098 c = false)) ∧
  (∀ (s : State) (st : Fin 8) (ctx : Nat) (g : Segment), s.has st = true →
    let u := segVoid s st g
    let x := u.chan st g.chan
    let other := fun (c : Instr) => Completes c s fun t =>
      (t.chan st g.chan).st = .failed ∧ t.fld (kxtPage st) 0x020 15 0 = 0x0611
    (segOk s st ctx 0 g = true → x.st ≠ .failed →
      (g.step = x.step → x.active = true → g.rank = x.succ → Completes (.collStartSegment st ctx g) s fun t =>
        (t.chan st g.chan).succReady = true ∧ (t.chan st g.chan).st ≠ .starting) ∧
      (g.step = x.step → x.active = false → Completes (.collStartSegment st ctx g) s fun t =>
        (g.rank, g.step) ∈ (t.chan st g.chan).held ∧ (t.chan st g.chan).st = x.st) ∧
      (g.step ≠ x.step → g.step ≠ x.step + 1 → other (.collStartSegment st ctx g))) ∧
    (∀ y, segOk s st ctx 1 g = true → x.st ≠ .failed → g.step = x.step → expected x false g = true →
      y = (if x.op = 0 then reduceSub u st g.chan g else reduceF32 u st g.chan g) → (y.chan st g.chan).active = true →
      Completes (.collReduceSegment st ctx g) s fun t =>
        t = chanPump (y.modChan st g.chan fun x => { x with part := x.part + 1 }) st g.chan) ∧
    (∀ y, segOk s st ctx 2 g = true → x.st ≠ .failed → g.step = x.step → expected x true g = true →
      y = gatherUnit u st g.chan g → (y.chan st g.chan).active = true →
      Completes (.collGatherSegment st ctx g) s fun t =>
        t = chanPump (y.modChan st g.chan fun x => { x with part := x.part + 1 }) st g.chan) ∧
    (segOk s st ctx 3 g = true → x.active = true → g.step = x.step → Completes (.collVoteSegment st ctx g) s fun t =>
      g.rank ∈ (t.chan st g.chan).votes ∧
        (x.st = .voting → (∀ k < x.nrank, k = x.rank ∨ k = g.rank ∨ k ∈ x.votes) → (t.chan st g.chan).st = .done)) ∧
    (x.st ≠ .failed → g.step ≠ x.step →
      (segOk s st ctx 1 g = true → other (.collReduceSegment st ctx g)) ∧
      (segOk s st ctx 2 g = true → other (.collGatherSegment st ctx g)) ∧
      (segOk s st ctx 3 g = true → other (.collVoteSegment st ctx g)))) ∧
  (∀ (s : State) (st : Fin 8) (c : Fin 16), s.has st = true → (s.chan st c.val).active = true →
    Completes (.collTimeout st c) s fun t =>
      (t.chan st c.val).st = .failed ∧ t.fld (kxtPage st) 0x020 15 0 = 0x0613)

/-- CHECKPOINT_STREAM_START of a wanted checkpoint, once activity 11 runs: in COMMIT it waits, in TORN the event is discarded, and
otherwise, with an OPEN STORE session, the stream starts and holds the checkpoint regions (R49, R364). CKPT_ACK with status OK ends
it with CKPT_DONE, and with another status abandons it; either way the hold ends. Memory is not changed. -/
def Obligations.CheckpointStreams : Prop :=
  (∀ (s : State) (st : Fin 8), s.has st = true → (s.st st).ckpt.wanted = true → (s.st st).ckpt.streaming = false →
    ((s.st 0).arb.run.any fun a => a.act == 11) = true →
    ((s.st st).clp.state = .commit → Completes (.checkpointStreamStart st) s fun t => t = s) ∧
    ((s.st st).clp.state = .torn → Completes (.checkpointStreamStart st) s fun t =>
      (t.st st).ckpt.wanted = false ∧ (t.st st).ckpt.streaming = false ∧ MemoryKept s t) ∧
    (∀ ctx, (s.st st).clp.state ≠ .commit → (s.st st).clp.state ≠ .torn →
      openSess s (s.fld (kxtPage st) 0x0F0 17 0) 2 = some (st, ctx) → s.mod.bzl.sealed = false → s.bad = [] →
      (∀ i : Fin 8, lpddrTrained s i = true) → Completes (.checkpointStreamStart st) s fun t =>
        (t.st st).ckpt.streaming = true ∧ (t.st st).ckpt.sess = ctx ∧ (t.st st).ckpt.step = (s.st st).clp.committed ∧
          (t.st st).clp.ckptHold = true ∧ t.flag (clpPage st) 0x010 6 = true ∧ MemoryKept s t)) ∧
  (∀ (s : State) (st : Fin 8) (ctx : Nat) (step : DWord) (status : BitVec 16), s.has st = true →
    (s.sess st ctx).st = .opened → (s.sess st ctx).role = 2 → (s.st st).ckpt.streaming = true → (s.st st).ckpt.sess = ctx →
    (s.st st).ckpt.step = step → Completes (.ckptAck st ctx step status) s fun t =>
      (t.st st).ckpt.streaming = false ∧ (t.st st).clp.ckptHold = false ∧ MemoryKept s t ∧
        (status = 0 → t.flag (kxtPage st) 0x010 7 = true ∧ t.flag (kxtPage st) 0x0F4 1 = true))

/-- Each Jukan command at the head of its port with a working way to the stack it names: where its body meets no fault, memory is what
the body writes, the descriptor leaves cleanly and DONE is raised; SIGNAL sets its doorbell bit in the stack named (R374). LINK_ERROR
records its fault (R378). JUKAN_LANE_FAILED takes the group's spare lane, and takes the port down where the spare is in use (R19,
R428). -/
def Obligations.JukanCommands : Prop :=
  (∀ (s u : State) (st : Fin 8) (p : Fin 3) (e : Entry), s.has st = true → s.clocked = true →
    (s.queue st (jkQueue p.val)).first = some e → e.st = .accepted → s.faulted (jkPage st p.val) = false →
    xfrHeld s st (jkSrc e.desc) (jkExtent e.desc) false = false →
    xfrHeld s (jkTarget e.desc) (jkDst e.desc) (jkExtent e.desc) true = false → jkWay s st p.val e.desc = none →
    let good := fun (t : State) =>
      t.mem = u.mem ∧ t.flag (jkPage st p.val) 0x010 3 = true ∧
        t.queue st (jkQueue p.val) = leftFirst (s.queue st (jkQueue p.val)) true
    (descOp e.desc = 1 → jkSend s st p.val e.desc = (u, none) → Completes (.jkSend st p) s good) ∧
    (descOp e.desc = 2 → jkReduce s st p.val e.desc = (u, none) → Completes (.jkReduceLp st p) s good) ∧
    (descOp e.desc = 3 → u = s → Completes (.jkSignal st p) s fun t => good t ∧
      (t.box (jkTarget e.desc) (bitsOf (jkLen e.desc) 5 0)).db.getLsbD (bitsOf (jkLen e.desc) 10 6) = true)) ∧
  (∀ (s : State) (st : Fin 8) (p : Fin 3), s.has st = true →
    Completes (.linkError st p) s (fun t => t.fld (jkPage st p.val) 0x020 15 0 = 0x0707 ∧ MemoryKept s t) ∧
    ∀ g : Fin 4, Completes (.jukanLaneFailed st p g) s fun t =>
      MemoryKept s t ∧
      if s.flag (jkPage st p.val) 0x040 (1 + g.val) = false then
        t.flag (jkPage st p.val) 0x040 (1 + g.val) = true ∧ t.flag (jkPage st p.val) 0x040 0 = s.flag (jkPage st p.val) 0x040 0
      else t.flag (jkPage st p.val) 0x040 0 = false ∧ t.fld (jkPage st p.val) 0x020 15 0 = 0x0A40)

/-- MBX_SEND stores the word, marks the sender, rings MAIL and counts the send; a word already held is replaced with COLLISION, and its
sender gets the LOST notice: bit 29 of its home mailbox, or for the host event 6 of the page (R381, R385). MBX_RECEIVE with the domain on answers the word: by the receiver of a FULL mailbox it empties it, and by any other it
changes nothing (R382). MBX_TIMEOUT of a word in a mailbox that is not ready withdraws it with TIMEOUT (R384). No byte of memory
changes. -/
def Obligations.Mailboxes : Prop :=
  ∀ (s : State) (st : Fin 8) (mb : Fin 64), s.has st = true →
    let b := s.box st mb.val
    let p := mbxPage st mb.val
    (∀ (r : Requester) (v : Word), Completes (.mbxSend r st mb v) s fun t =>
      let d := t.box st mb.val
      d.word = v ∧ d.full = true ∧ d.sender = requesterIndex r ∧ d.collision = (b.collision || b.full) ∧
        d.db.getLsbD 0 = true ∧ d.dbEn = b.dbEn ∧ t.reg p 0x050 = s.reg p 0x050 + 1 ∧ MemoryKept s t ∧
        (b.full = true → match homeBox st b.origin with
          | some (i, h) => (t.box i h).db.getLsbD 29 = true
          | none => t.flag p 0x010 6 = true)) ∧
    (∀ r : Requester, s.domOn st 7 = true → Completes (.mbxReceive r st mb) s fun t =>
      t.out = s.out ++ [.value r b.word] ∧ MemoryKept s t ∧ (t.box st mb.val).word = b.word ∧
        (t.box st mb.val).full = (b.full && !isReceiver r mb.val)) ∧
    (b.full = true → boxReady s st mb.val = false → Completes (.mbxTimeout st mb) s fun t =>
      (t.box st mb.val).full = false ∧ (t.box st mb.val).word = 0 ∧ (t.box st mb.val).timeout = true ∧
        t.reg p 0x058 = sat32 ((s.reg p 0x058).toNat + 1) ∧ MemoryKept s t)

/-- MBX_PENDING of a page shows, for each of its mailboxes, whether MBX_DB AND MBX_DB_EN is non-zero. MBX_DB_SET records every bit
written, enabled or not; bits that are all disabled wake no receiver and raise no HOST_MAIL, and an enabled one does both where
they are due. WAITDB is satisfied by the bits of MBX_DB that its operand B selects, whatever MBX_DB_EN holds. -/
def Obligations.DoorbellsPend : Prop :=
  (∀ (s : State) (st : Fin 8) (page k : Nat), page < 4 → k < 16 →
    bitAt (regValue s (stackPage st .mbx page) 0x048) k =
      decide ((s.box st (16 * page + k)).db &&& (s.box st (16 * page + k)).dbEn ≠ 0)) ∧
  (∀ (s : State) (r : Requester) (st : Fin 8) (mb : Fin 64) (v : Word), s.has st = true →
    mayWrite s r (stackPage st .mbx (mb.val / 16)) (0x210 + mb.val % 16 * 0x20) = true →
    let b := s.box st mb.val
    Completes (.mbxDbSet r st mb v) s fun t =>
      (t.box st mb.val).db = b.db ||| v ∧ (t.box st mb.val).dbEn = b.dbEn ∧
        (v &&& b.dbEn = 0 → (t.box st mb.val).waking = b.waking ∧ t.regs = s.regs) ∧
        (v &&& b.dbEn ≠ 0 → mb.val < 20 → s.domOn st 7 = false → (t.box st mb.val).waking = true) ∧
        (v &&& b.dbEn ≠ 0 → 20 ≤ mb.val → b.db &&& b.dbEn = 0 →
          t.flag (stackPage st .mbx (mb.val / 16)) 0x010 3 = true)) ∧
  (∀ (s : State) (st : Fin 8) (q : Fin 4), s.has st = true → (s.seq st q).st = .running → (s.seq st q).wait = .waitdb →
    let hit := (s.box st q.val).db &&& ((s.seq st q).opB (s.seq st q).instr).setWidth 32
    hit ≠ 0 → Completes (.waitdbDone st q) s fun t =>
      (t.seq st q).wait = .none ∧ (t.seq st q).pc = (s.seq st q).pc + 1 ∧ (t.box st q.val).db = (s.box st q.val).db &&& ~~~hit)

/-- Each Bezel command whose requester may write BZL_CMD, on stack 0's page. IDENTITY, ATTEST and SEAL_EK leave their output in the
buffer (SEAL_EK needs an owner). CUSTODY, CONFIG, SEAL_KEY, SEAL_DROP, DEBUG and FW_UPDATE end with the STATUS that their checks
give: a refused one changes nothing of the Bezel; an accepted one sets the owner with the next epoch and begins the wipe (R408),
the peers and plans (R409), the seal slot (R410), empties slots, unlocks debug and empties every slot (R413), or writes the image
to the NOR flash (R403). A command on another stack's page ends with STACK (R415). WIPE_COMPLETE erases the ring down to the custody
record and the soft repairs (R408). The order of the checks of a command is the model's choice (entry 19 of the assumption log). -/
def Obligations.BezelCommands : Prop :=
  (∀ (s : State) (r : Requester), mayWrite s r (bzlPage 0) 0x040 = true →
    let b := s.mod.bzl
    let bs := bzlInput s
    Completes (.identity r 0) s (fun t =>
      BezelEnds t 0 1 0 ∧ BezelAnswers t (ikPublic s ++ endorsement s) ∧ t.mod.bzl = b ∧ MemoryKept s t) ∧
    Completes (.attest r 0) s (fun t => t.mod.bzl = b ∧ MemoryKept s t ∧
      if bs.length = 32 then
        BezelEnds t 0 2 0 ∧ BezelAnswers t (attestBody s bs s.now.1 ++ ikSign s (attestBody s bs s.now.1) (ascii "KX-ATT"))
      else BezelEnds t 0 2 1) ∧
    Completes (.custody r 0) s (fun t =>
      if custodyStatus s bs = 0 then
        t.mod.bzl.owner = (if blobNat bs 2 1 = 1 then slice bs 48 1952 else []) ∧ t.mod.bzl.epoch = b.epoch + 1 ∧
          t.mod.bzl.wipePending = true ∧ t.mod.bzl.sealed = false ∧ t.mod.bzl.peers = [] ∧ t.mod.bzl.plans = [] ∧
          t.mod.bzl.configSeq = 0 ∧ t.mod.lkt.base = locketNext s + 1 ∧ ∀ st : Fin 8, s.has st = true → StackGone t st
      else BezelEnds t 0 3 (custodyStatus s bs) ∧ t.mod.bzl = b ∧ MemoryKept s t) ∧
    Completes (.config r 0) s (fun t => BezelEnds t 0 4 (configStatus s bs) ∧ t.mod.bzl.owner = b.owner ∧
      t.mod.bzl.epoch = b.epoch ∧
      if configStatus s bs = 0 then
        t.mod.bzl.configSeq.toNat = blobNat bs 16 8 ∧ t.mod.bzl.sealed = bitAt (blobNat bs 2 1) 0 ∧
          t.mod.bzl.peers.length = blobNat bs 4 2 ∧ t.mod.bzl.plans.length = blobNat bs 6 2
      else t.mod.bzl = b) ∧
    Completes (.sealEk r 0) s (fun t => t.mod.bzl = b ∧ MemoryKept s t ∧
      if b.owner = [] then BezelEnds t 0 5 5 else BezelEnds t 0 5 0 ∧ BezelAnswers t (sealEk s)) ∧
    Completes (.sealKey r 0) s (fun t => BezelEnds t 0 6 (sealKeyStatus s bs) ∧ MemoryKept s t ∧
      if sealKeyStatus s bs = 0 then
        t.slot (blobNat bs 2 1) = sealedKey s bs ∧ ∀ n, n ≠ blobNat bs 2 1 → t.slot n = s.slot n
      else t.mod.bzl = b) ∧
    Completes (.sealDrop r 0) s (fun t => MemoryKept s t ∧
      if bs.length = 2 then
        BezelEnds t 0 7 0 ∧ ∀ n < 16, t.slot n = if bitAt (leNat bs) n then {} else s.slot n
      else BezelEnds t 0 7 1 ∧ t.mod.bzl = b) ∧
    Completes (.debug r 0) s (fun t => BezelEnds t 0 8 (debugStatus s bs) ∧ MemoryKept s t ∧
      if debugStatus s bs = 0 then
        (∀ n, t.slot n = {}) ∧ t.mod.bzl.debugOwner = (b.debugOwner || blobNat bs 2 1 == 1) ∧
          t.mod.bzl.debugVendor = (b.debugVendor || blobNat bs 2 1 != 1)
      else t.mod.bzl = b) ∧
    Completes (.fwUpdate r 0) s (fun t => BezelEnds t 0 9 (updateStatus s bs) ∧ MemoryKept s t ∧
      if updateStatus s bs = 0 then
        t.mod.bzl.recovery = false ∧
          ∀ i < blobNat bs 8 8, Sparse.get (fun _ => 0) t.mod.bzl.nor i = s.byte (blobNat bs 0 8 + i)
      else t.mod.bzl = b)) ∧
  (∀ (s : State) (r : Requester) (st : Fin 8), s.has st = true → st ≠ 0 → mayWrite s r (bzlPage st) 0x040 = true →
    ∀ c ∈ [(Instr.identity r st, 1), (.attest r st, 2), (.custody r st, 3), (.config r st, 4), (.sealEk r st, 5),
        (.sealKey r st, 6), (.sealDrop r st, 7), (.debug r st, 8), (.fwUpdate r st, 9)],
      Completes c.1 s fun t => BezelEnds t st c.2 7 ∧ t.mod.bzl = s.mod.bzl ∧ MemoryKept s t) ∧
  (∀ s : State, s.mod.bzl.wipePending = true → s.mod.pwr.resetHeld = false → s.domOn 0 7 = true →
    Completes .wipeComplete s fun t =>
      t.mod.bzl.wipePending = false ∧ MemoryKept s t ∧
        t.mod.lkt.next = s.mod.lkt.base + 1 + BitVec.ofNat 64 (softRepairs s.mod.lkt.ring).length)

/-- LOCKET_WRITE, while the Locket may write and a request waits, stores the granted request's record at the next sequence number and
drops the request; where its verification fails the page moves to a spare, or without one NO_SPARE is recorded (R440, R441).
LOCKET_SCAN_DONE fixes the next sequence number and writes the START record (R442). LOCKET_CURSOR_WRITE sets the cursor and
starts its load, and LOCKET_WINDOW_LOAD_DONE leaves the slot and RESULT in the window, with MRAM_UE for an uncorrectable word
(R444, R448). LOCKET_WIN15_READ answers the last word of a loaded window and with AUTO_ADV goes on to the next slot. LOCKET_SNAP
takes the snapshot (R445). LKT_FW_GO makes the firmware's request, or shows REJECT for another code (R447). -/
def Obligations.LocketCommands : Prop :=
  (∀ (s : State) (aged : Bool) (q : RecReq), grantNext aged s.mod.lkt.reqs = some q → locketReady s = true →
    let l := s.mod.lkt
    let page := l.next.toNat % ringSlots / pageSlots
    let written := fun (t : State) =>
      t.mod.lkt.slot l.next.toNat = makeRecord l.next q (bootCount s) ∧ t.mod.lkt.last = l.next ∧ t.mod.lkt.next = l.next + 1 ∧
        (∀ n, n % ringSlots ≠ l.next.toNat % ringSlots → t.mod.lkt.slot n = l.slot n) ∧ MemoryKept s t
    Completes (.locketWrite aged true) s (fun t => written t ∧ t.mod.lkt.reqs = l.reqs.erase q ∧ t.flag lktPage 0x010 3 = true) ∧
    Completes (.locketWrite aged false) s (fun t => written t ∧
      if l.spareUsed < 16 then
        t.mod.lkt.spareUsed = l.spareUsed + 1 ∧ Sparse.get (fun _ => 0) t.mod.lkt.remap page = l.spareUsed + 1 ∧
          t.flag lktPage 0x010 5 = true
      else page ∈ t.mod.lkt.noSpare ∧ (page ∉ l.noSpare → t.fld lktPage 0x020 15 0 = 0x0221))) ∧
  (∀ s : State, s.mod.lkt.scanned = false → s.domOn 0 7 = true → Completes .locketScanDone s fun t =>
    t.mod.lkt.scanned = true ∧ t.mod.lkt.last = locketNext s ∧ t.mod.lkt.next = locketNext s + 1 ∧
      leNat (slice (slotBytes (t.mod.lkt.slot (locketNext s).toNat)) 28 2) = 0x8002 ∧ MemoryKept s t) ∧
  (∀ (s : State) (win : Bool),
    let x := s.mod.lkt.window win
    (∀ (r : Requester) (lo : Word), mayWrite s r lktPage (if win then 0x108 else 0x088) = true →
      Completes (.locketCursorWrite r win lo) s fun t =>
        (t.mod.lkt.window win).cur = (Sparse.find s.staged (lktPage.key (if win then 0x10C else 0x08C))).getD
          (x.cur.extractLsb' 32 32) ++ lo ∧ (t.mod.lkt.window win).loading = true ∧
          t.mod.lkt.window (!win) = s.mod.lkt.window (!win) ∧ t.mod.lkt.ring = s.mod.lkt.ring) ∧
    (x.loading = true → ∀ eccOk : Bool, Completes (.locketWindowLoadDone win eccOk) s fun t =>
      let y := t.mod.lkt.window win
      y.loading = false ∧ y.win = s.mod.lkt.slot x.cur.toNat ∧ y.result = loadResult s.mod.lkt x.cur ∧ y.ecc = !eccOk ∧
        (eccOk = false → t.fld lktPage 0x020 15 0 = 0x0210)) ∧
    (x.loading = false → ∀ r : Requester, Completes (.locketWin15Read r win) s fun t =>
      t.out = s.out ++ [.value r (x.win.extractLsb' 480 32)] ∧
        if x.autoAdv then (t.mod.lkt.window win).cur = x.cur + 1 ∧ (t.mod.lkt.window win).loading = true
        else t.mod.lkt = s.mod.lkt) ∧
    (∀ r : Requester, mayWrite s r lktPage (if win then 0x100 else 0x080) = true →
      Completes (.locketSnap r win) s fun t =>
        (t.mod.lkt.window win).snapLast = s.mod.lkt.last ∧ (t.mod.lkt.window win).snapOldest = s.mod.lkt.oldest ∧
          t.regs = s.regs)) ∧
  (∀ (s : State) (r : Requester), mayWrite s r lktPage 0x19C = true →
    let code := s.fld lktPage 0x180 15 0
    (0x8004 ≤ code → code ≤ 0x80FF → fwBusy s = false → Completes (.lktFwGo r) s fun t =>
      ∃ q : RecReq, t.mod.lkt.reqs = s.mod.lkt.reqs ++ [q] ∧ q.code.toNat = code ∧ q.order = 3 ∧
        q.payload = (List.range 6).flatMap fun i => leBytes (s.reg lktPage (0x184 + 4 * i)).toNat 4) ∧
    (¬(0x8004 ≤ code ∧ code ≤ 0x80FF) → Completes (.lktFwGo r) s fun t =>
      t.mod.lkt = { s.mod.lkt with fwReject := true }))

/-- Between its initial value and its final XOR, both all ones, the CRC takes a byte by eight steps of the reflected polynomial
0x82F6_3B78; the nine ASCII bytes give 0xE306_9283. Every record that is made carries the CRC of its bytes 0 to 59 in its bytes 60
to 63, little-endian, and is valid. A slot is valid exactly where its CRC matches and its zero fields, bits [7:4] of byte 27 and
[7:2] of byte 31, are zero. -/
def Obligations.RecordCrc : Prop :=
  (crc32c [] = 0xFFFFFFFF ^^^ 0xFFFFFFFF ∧ ∀ (bs : List Byte) (b : Byte),
    crc32c (bs ++ [b]) = (List.range 8).foldl
      (fun (c : Word) _ => if c.getLsbD 0 then (c >>> 1) ^^^ 0x82F63B78 else c >>> 1)
      ((crc32c bs ^^^ 0xFFFFFFFF) ^^^ b.setWidth 32) ^^^ 0xFFFFFFFF) ∧
  crc32c (ascii "123456789") = 0xE3069283 ∧
  (∀ (seq : DWord) (q : RecReq) (boot : Nat),
    let bs := slotBytes (makeRecord seq q boot)
    slice bs 60 4 = leBytes (crc32c (bs.take 60)).toNat 4 ∧ validRecord (makeRecord seq q boot) = true) ∧
  ∀ v : Slot64,
    let bs := slotBytes v
    validRecord v = true ↔ slice bs 60 4 = leBytes (crc32c (bs.take 60)).toNat 4 ∧
      (bs.getD 27 0).toNat / 16 = 0 ∧ (bs.getD 31 0).toNat / 4 = 0

/-- Whatever a command other than WIPE_COMPLETE does, every slot of the Locket ring holds what it held, but for the slot of the
newest record, LKT_LAST modulo the ring: records stay until newer ones replace them, and nothing clears, edits or reorders them
(R446). -/
def Obligations.RecordsStay : Prop :=
  ∀ (c : Instr) (s t : State), c ≠ .wipeComplete → exec c s = .next t → ∀ n : Nat,
    t.mod.lkt.slot n = s.mod.lkt.slot n ∨ n % ringSlots = t.mod.lkt.last.toNat % ringSlots

/-- RESTORE_BLOCK of a restore word, with the firmware running: a block that passes gives every stack its step numbers in IDLE and
answers 0x52000000 in mailbox 20; any other changes no Clasp and answers its reason (R433). CAL_COPY stages the active image.
CAL_COMMIT leaves the STATUS of a staged image that does not pass or whose SEQ is not the next, and else begins to write it; while
one is written both only show IGNORED (R469, R472). CAL_COMMIT_DONE makes the written image the active one, or ends with VERIFY.
CAL_DISCARD empties the staging area. -/
def Obligations.RestoreAndCal : Prop :=
  (∀ (s : State) (word : Word), word.toNat / 2 ^ 24 = 0x52 → (s.st 0).pwr.firmware = true →
    let a := sramBase 0 + word.toNat % 2 ^ 24 * 256
    let bs := s.bytes a 64
    (restoreReason s a = 0 → Completes (.restoreBlock word) s fun t =>
      (∀ st : Fin 8, s.has st = true → (t.st st).clp.step.toNat = leNat (slice bs 8 8) ∧
        (t.st st).clp.committed.toNat = leNat (slice bs 16 8) ∧ (t.st st).clp.state = .idle) ∧
        (t.box 0 20).word = 0x52000000 ∧ (t.box 0 20).full = true ∧ MemoryKept s t) ∧
    (restoreReason s a ≠ 0 → Completes (.restoreBlock word) s fun t =>
      (∀ st : Fin 8, (t.st st).clp = (s.st st).clp) ∧ (t.box 0 20).word.toNat = 0x52FF0000 + restoreReason s a ∧
        (t.box 0 20).full = true ∧ MemoryKept s t)) ∧
  (∀ (s : State) (r : Requester), mayWrite s r calPage 0x050 = true →
    let c := s.mod.cal
    let m := c.staging
    (c.commit = true →
      Completes (.calCopy r) s (fun t => t.mod = s.mod ∧ t.flag calPage 0x040 3 = true) ∧
      Completes (.calCommit r) s (fun t => t.mod = s.mod ∧ t.flag calPage 0x040 3 = true)) ∧
    (c.commit = false →
      Completes (.calCopy r) s (fun t => t.mod.cal = { c with staging := c.active } ∧ t.regs = s.regs) ∧
      Completes (.calCommit r) s (fun t =>
        if (imgCheck s m).1 ≠ 0 then
          t.mod.cal = c ∧ (t.reg calPage 0x054).toNat = (imgCheck s m).1 + 2 ^ 8 * (imgCheck s m).2
        else if imgSeq m ≠ imgSeq c.active + 1 then t.mod.cal = c ∧ t.reg calPage 0x054 = 3
        else t.mod.cal = { c with other := m, commit := true } ∧ t.regs = s.regs)) ∧
    Completes (.calDiscard r) s (fun t => t.mod.cal = { c with staging := [] } ∧ t.regs = s.regs)) ∧
  (∀ s : State, s.mod.cal.commit = true →
    Completes (.calCommitDone false) s (fun t =>
      t.mod.cal = { s.mod.cal with commit := false } ∧ t.reg calPage 0x054 = 6 ∧ MemoryKept s t) ∧
    Completes (.calCommitDone true) s (fun t =>
      t.mod.cal = { s.mod.cal with active := s.mod.cal.other, other := [], commit := false, valid := true } ∧
        t.reg calPage 0x054 = 0 ∧ t.flag calPage 0x010 3 = true ∧ MemoryKept s t))

/-- A power-on reset leaves every register at its After reset value but BOOT_COUNT, and keeps what lies in the MRAM, the NOR flash and
the fuses: the ring, the owner, the image and the CAL block (R463). RESET_N, where no thermal trip waits for the part to cool,
POWER_FAIL_CLEARED of a part that a failure stopped, and REFCLK_RETURN reset the module with their cause; PWR_CTL_RESET and
PLL_LOCK reset one stack's CTL domain, and for stack 0 everything (R463, R457). RESET_N_RELEASE lets start-up begin. POWER_FAIL stops
the clocks and writes the PWRFAIL record (R443, R455). THERMTRIP stops the clocks and powers every domain down; THERM_ALERT
records, and its clearing lets ALERT_N go (R465). Loss of ETH_REFCLK takes every link down; loss of REFCLK_100 is reported at the
next start-up (R457). -/
def Obligations.ResetCommands : Prop :=
  (∀ s : State, Completes .powerOnReset s fun t =>
    (∀ k, k / 8 ≠ (bzlPage 0).key 0x058 / 8 → regWord t k = regDefault s.part k) ∧ bootCount t = bootCount s ∧
      (∀ st : Fin 8, StackGone t st ∧ (t.st st).mbx = []) ∧ t.queues = [] ∧ t.mod.lkt.ring = s.mod.lkt.ring ∧
      t.mod.lkt.base = s.mod.lkt.base ∧ t.mod.bzl.owner = s.mod.bzl.owner ∧ t.mod.bzl.epoch = s.mod.bzl.epoch ∧
      t.mod.bzl.nor = s.mod.bzl.nor ∧ t.mod.bzl.rollback = s.mod.bzl.rollback ∧ t.mod.cal.active = s.mod.cal.active) ∧
  (∀ s : State,
    let gone := fun (cause : Word) (t : State) =>
      (∀ st : Fin 8, s.has st = true → StackGone t st ∧ (t.st st).mbx = []) ∧ t.reg pwrmPage 0x044 = cause
    (s.mod.pwr.thermtripN = false → Completes .resetN s fun t => gone 1 t ∧ t.mod.pwr.resetHeld = true) ∧
    (s.mod.pwr.thermtripN = true →
      (allCool s = true → Completes .resetN s fun t => gone 0x401 t ∧ t.mod.pwr.thermtripN = false) ∧
      (allCool s = false → Completes .resetN s fun t =>
        t.mod.pwr.resetHeld = true ∧ t.mod.pwr.thermtripN = true ∧ t.regs = s.regs)) ∧
    Completes .resetNRelease s (fun t => t = s.modPm fun p => { p with resetHeld := false }) ∧
    (s.mod.pwr.clocksStopped = true → s.mod.pwr.thermtripN = false →
      Completes .powerFailCleared s fun t => gone 0x101 t ∧ t.mod.pwr.clocksStopped = false) ∧
    (s.mod.pwr.refclkLost = true → s.mod.pwr.thermtripN = false →
      Completes .refclkReturn s fun t => gone 0x301 t ∧ t.mod.pwr.refclkLost = false)) ∧
  (∀ (s : State) (st : Fin 8), s.has st = true →
    let reset := fun (t : State) =>
      StackGone t st ∧ (st = 0 → t.reg pwrmPage 0x044 = 2 ∧ ∀ i : Fin 8, s.has i = true → StackGone t i) ∧
        (st ≠ 0 → ∀ i : Fin 8, i ≠ st → (t.st i).clp = (s.st i).clp)
    (∀ r : Requester, mayWrite s r (pwrPage st) 0x058 = true → s.mod.pwr.resetHeld = false → s.mod.pwr.thermtripN = false →
      Completes (.pwrCtlReset r st) s reset) ∧
    (∀ die : Bool, s.domOn st 7 = true → s.mod.pwr.refclkLost = false → Completes (.pllLock st die) s reset)) ∧
  (∀ (s : State) (under : Bool),
    (s.mod.pwr.clocksStopped = false → Completes (.powerFail under) s fun t =>
      t.mod.pwr.clocksStopped = true ∧ t.flag pwrmPage 0x058 (bit under) = true ∧ MemoryKept s t ∧
        (locketReady s = true → t.mod.lkt.stopped = true ∧ t.mod.lkt.last = s.mod.lkt.next ∧
          leNat (slice (slotBytes (t.mod.lkt.slot s.mod.lkt.next.toNat)) 28 2) = 0x8003)) ∧
    (s.mod.pwr.clocksStopped = true → Completes (.powerFail under) s fun t =>
      t = s.setFlag pwrmPage 0x058 (bit under) true)) ∧
  (∀ (s : State) (st : Fin 8) (quarterC : Int), s.has st = true →
    (4 * (s.fld pwrmPage 0x064 7 0 : Int) ≤ quarterC → Completes (.thermAlert st quarterC) s fun t =>
      t.flag pwrmPage 0x058 5 = true ∧ t.fld (pwrPage st) 0x020 15 0 = 0x0B01 ∧ t.flag (pwrPage st) 0x010 4 = true ∧
        (t.reg (pwrPage st) 0x050).toNat = tempBits quarterC ∧ MemoryKept s t) ∧
    (460 ≤ quarterC → s.mod.pwr.thermtripN = false → Completes (.thermtrip st quarterC) s fun t =>
      t.mod.pwr.thermtripN = true ∧ t.mod.pwr.clocksStopped = true ∧ t.flag pwrmPage 0x058 6 = true ∧
        t.flag pwrmPage 0x044 10 = true ∧ ∀ i : Fin 8, s.has i = true → StackGone t i ∧ t.domOn i 7 = false)) ∧
  (∀ s : State, Completes .thermAlertClear s (fun t => t = s.setFlag pwrmPage 0x058 5 false) ∧
    Completes (.refclkLoss false) s (fun t => t = s.modPm fun p => { p with refclkLost := true, refclkReport := true }) ∧
    Completes (.refclkLoss true) s (fun t => t.mod.pwr.ethRefclkLost = true ∧ t.fld pwrmPage 0x020 15 0 = 0x0B05 ∧
      (∀ (st : Fin 8) (p : Fin 2) (l : Fin 4), s.has st = true → linkIsUp t st p.val l.val = false) ∧ MemoryKept s t) ∧
    Completes .ethRefclkReturn s (fun t => t = s.modPm fun p => { p with ethRefclkLost := false }))

/-- A permitted write of PWR_DOM_REQ starts each change it asks for: a domain that is off powers up, and one that is on powers down
with every page of it quiesced (R453). DOMAIN_POWER_UP of a domain in transit leaves it ON; DOMAIN_POWER_DOWN of one whose pages
are all quiesced leaves it off with its queues empty; DOMAIN_FAILED shows the failure and records it. STARTUP_STAGE_DONE with
nothing failed completes the first stage that is not complete: BOOT_COUNT is counted in stage 1, the firmware runs from stage 2, the
domains are ON after stage 3, the devices trained after stage 4, the Jukan links after stage 5, and the fuses hold the image's SVN after
stage 7 (R399, R400, R464). -/
def Obligations.DomainsAndStartup : Prop :=
  (∀ (s : State) (r : Requester) (st : Fin 8) (v : Word), s.has st = true → mayWrite s r (pwrPage st) 0x040 = true →
    s.mod.pwr.sleepTarget = 0 → Completes (.pwrDomReq r st v) s fun t =>
      t.reg (pwrPage st) 0x040 = (v &&& 0xFF) ||| 0x80 ∧ MemoryKept s t ∧
      ∀ k < 7, inTransit s st k = false → t.domOn st k = s.domOn st k ∧
        (bitAt v.toNat k = true → s.domOn st k = false → inTransit t st k = true) ∧
        (bitAt v.toNat k = false → s.domOn st k = true → swapHolds s st k = false →
          inTransit t st k = true ∧ ∀ p ∈ domainPages s st k, t.flag p 0x008 2 = true) ∧
        (bitAt v.toNat k = s.domOn st k → inTransit t st k = false)) ∧
  (∀ (s : State) (st : Fin 8) (k : Nat), s.has st = true → k < 7 → inTransit s st k = true →
    (s.domOn st k = false → s.flag (pwrPage st) 0x040 k = true →
      Completes (.domainPowerUp (8 * st.val + k)) s fun t =>
        t.domOn st k = true ∧ inTransit t st k = false ∧ t.flag (pwrPage st) 0x010 5 = true ∧ MemoryKept s t) ∧
    (s.domOn st k = false → Completes (.domainFailed (8 * st.val + k)) s fun t =>
      t.domOn st k = false ∧ inTransit t st k = false ∧ t.flag (pwrPage st) 0x044 (16 + k) = true ∧
        t.fld pwrmPage 0x020 15 0 = 0x0B06 ∧ (t.reg pwrmPage 0x024).toNat = 8 * st.val + k ∧ MemoryKept s t) ∧
    (s.domOn st k = true → (domainPages s st k).all (quiesced s) = true → s.flag (pwrPage st) 0x040 k = false →
      Completes (.domainPowerDown (8 * st.val + k)) s fun t =>
        t.domOn st k = false ∧ inTransit t st k = false ∧ t.flag (pwrPage st) 0x010 5 = true ∧
          ∀ p ∈ domainPages s st k, ∀ q ∈ queuesOf p, t.queue p.home q = {})) ∧
  (∀ (s : State) (rep : StageReport) (j : Nat), 1 ≤ j → j ≤ 7 → (∀ i < j, 1 ≤ i → stageDone s i = true) →
    stageDone s j = false → s.mod.pwr.resetHeld = false → s.mod.bzl.recovery = false → s.mod.bzl.wipePending = false →
    s.clocked = true → s.domOn 0 7 = true → s.mod.pwr.refclkLost = false → rep.unpaired = [] → rep.untrained = [] →
    rep.fuseOk = true → (j = 2 → verifyImage s (norReader s) = none) →
    Completes (.startupStageDone rep) s fun t =>
      stageDone t j = true ∧ (∀ i, 1 ≤ i → i ≤ 7 → i ≠ j → stageDone t i = stageDone s i) ∧ MemoryKept s t ∧
        (j = 1 → bootCount t = (bootCount s + 1) % 2 ^ 64 ∧ ∀ st : Fin 8, s.has st = true → (t.st st).pwr.paired = true) ∧
        (j = 2 → ∀ st : Fin 8, s.has st = true → (t.st st).pwr.firmware = (s.st st).pwr.paired) ∧
        (j = 3 → ∀ st : Fin 8, s.has st = true → ∀ k < 7, t.domOn st k = true) ∧
        (j = 4 → ∀ st : Fin 8, s.has st = true → lpddrTrained t st = true) ∧
        (j = 5 → ∀ (st : Fin 8) (p : Fin 3), s.has st = true → s.has (jkPeer s.part st.val p.val) = true →
          s.domOn st 5 = true → s.domOn (Fin.ofNat 8 (jkPeer s.part st.val p.val)) 5 = true →
          t.flag (jkPage st p.val) 0x040 0 = true) ∧
        (j = 7 → t.mod.bzl.rollback = max s.mod.bzl.rollback s.mod.bzl.fwSvn ∧ t.flag pwrmPage 0x010 3 = true)) ∧
  (∀ (s : State) (rep : StageReport) (n : Nat), stageDone s 1 = true → stageDone s 2 = false →
    s.mod.pwr.resetHeld = false → s.mod.bzl.recovery = false → s.mod.bzl.wipePending = false → s.clocked = true →
    s.domOn 0 7 = true → s.mod.pwr.refclkLost = false → verifyImage s (norReader s) = some n →
    Completes (.startupStageDone rep) s fun t =>
      t.mod.bzl.recovery = true ∧ t.fld pwrmPage 0x040 3 0 = 8 ∧ t.fld (bzlPage 0) 0x020 15 0 = 0x0801 ∧ MemoryKept s t)

/-- With no AVSBus failure: POWER_CAP_WINDOW shows the powers, moves the cap level of every stack as R459 counts, and each stack whose
clocks run seeks its level. THERMAL_LEVEL_UPDATE shows the temperature, moves the thermal level by one at the thresholds of R460, and
the stack seeks its level. LEVEL_RAISE_SWITCH switches the clocks to the level that waited for its voltage (R461). PWR_SLEEP
is refused with its reason, or quiesces the domains of its level; SLEEP_ENTERED once they are off stops the ticks; and an enabled
WAKE ends the sleep and shows its source, out of level 3 as a reset of stack 0's CTL domain (R462). -/
def Obligations.LevelsAndSleep : Prop :=
  (∀ (s : State) (tenthWatts : List Nat), stackRuns s 0 = true →
    let total := min 0xFFFF (s.stacksIn.foldl (fun n i => n + tenthWatts.getD i.val 0) 0)
    let after := capAfter total (s.reg pwrmPage 0x05C).toNat s.mod.pwr.below (capLevel s 0)
    Completes (.powerCapWindow tenthWatts []) s fun t =>
      (t.reg pwrmPage 0x060).toNat = total ∧ t.mod.pwr.below = after.2 ∧ MemoryKept s t ∧
        ∀ st : Fin 8, s.has st = true → capLevel t st = after.1 ∧
          (t.reg (pwrPage st) 0x054).toNat = min 0xFFFF (tenthWatts.getD st.val 0) ∧
          (stackRuns s st = true → LevelSought s t st)) ∧
  (∀ (s : State) (st : Fin 8) (quarterC : Int), s.has st = true → stackRuns s st = true →
    let hot : Int := 4 * (s.fld pwrmPage 0x064 15 8 : Nat)
    let n := thermLevel s st
    Completes (.thermalLevelUpdate st quarterC none) s fun t =>
      (t.reg (pwrPage st) 0x050).toNat = tempBits quarterC ∧ LevelSought s t st ∧ MemoryKept s t ∧
        (hot ≤ quarterC → thermLevel t st = max 8 (n - 1)) ∧
        (quarterC < hot → quarterC < hot - 4 * (s.fld pwrmPage 0x064 23 16 : Nat) → thermLevel t st = min 16 (n + 1)) ∧
        (quarterC < hot → hot - 4 * (s.fld pwrmPage 0x064 23 16 : Nat) ≤ quarterC → thermLevel t st = n)) ∧
  (∀ (s : State) (st : Fin 8) (n : Nat), s.has st = true → (s.st st).pwr.raising = some n →
    n = min (capLevel s st) (thermLevel s st) → n ≠ levelOf s st → Completes (.levelRaiseSwitch st none) s fun t =>
      levelOf t st = n ∧ (t.st st).pwr.raising = none ∧ t.flag (pwrPage st) 0x010 3 = true ∧ MemoryKept s t) ∧
  (∀ (s : State) (r : Requester) (v : Word), mayWrite s r pwrmPage 0x048 = true → bitAt v.toNat 4 = true →
    bitsOf v.toNat 1 0 ≠ 0 → s.mod.pwr.sleepTarget = 0 →
    (sleepReason s ≠ 0 → Completes (.pwrSleep r v) s fun t =>
      (t.reg pwrmPage 0x04C).toNat = 2 ^ 8 * sleepReason s ∧ t.mod.pwr.sleepTarget = 0 ∧ t.flag pwrmPage 0x010 5 = true) ∧
    (sleepReason s = 0 → Completes (.pwrSleep r v) s fun t =>
      t.mod.pwr.sleepTarget = bitsOf v.toNat 1 0 ∧ MemoryKept s t ∧
        ∀ st : Fin 8, s.has st = true → ∀ k ∈ sleepDomains (bitsOf v.toNat 1 0), s.domOn st k = true →
          inTransit t st k = true)) ∧
  (∀ s : State, s.mod.pwr.sleepTarget ≠ 0 → s.mod.pwr.sleeping = false →
    (∀ st : Fin 8, s.has st = true → ∀ k ∈ sleepDomains s.mod.pwr.sleepTarget, s.domOn st k = false) →
    Completes .sleepEntered s fun t =>
      t.mod.pwr.sleeping = true ∧ (∀ st : Fin 8, s.has st = true → (t.st st).tns.ticking = false) ∧ MemoryKept s t) ∧
  (∀ (s : State) (src : Fin 7), s.mod.pwr.sleepTarget ≠ 0 → s.flag pwrmPage 0x050 src.val = true →
    s.mod.pwr.resetHeld = false → s.mod.pwr.thermtripN = false → Completes (.wake src) s fun t =>
      t.mod.pwr.sleepTarget = 0 ∧ t.mod.pwr.sleeping = false ∧ t.flag pwrmPage 0x054 src.val = true ∧
        t.flag pwrmPage 0x010 4 = true ∧
        (s.mod.pwr.sleepTarget = 3 → s.mod.pwr.sleeping = true →
          t.reg pwrmPage 0x044 = 2 ∧ ∀ st : Fin 8, s.has st = true → StackGone t st) ∧
        (s.mod.pwr.sleepTarget ≠ 3 → ∀ st : Fin 8, s.has st = true → ∀ k < 7,
          (s.mod.pwr.sleepSaved.getD st.val 0).getLsbD k = true → s.domOn st k = false → inTransit t st k = true))

/-- RTC_SET gives the clock its value at once, or with SRC 2 at the next PPS edge; PPS_IN with SRC 2 applies a waiting setting, slews
the clock and shows that it is disciplined; RTC_DISCIPLINE_TIMEOUT ends that (R456). A private write of eight bytes naming a register
that may be read makes its value ready, one of twelve writes PWR_CAP within its bounds, and any other is not acknowledged; a
private read answers the value that is ready, once (R483). The common command codes answer or set the dynamic address (R482); their
numbers are the I3C standard's (entry 23 of the assumption log). -/
def Obligations.ClockAndBoardBus : Prop :=
  (∀ (s : State) (r : Requester) (lo : Word), mayWrite s r pwrmPage 0x070 = true →
    let hi := (Sparse.find s.staged (pwrmPage.key 0x074)).getD (s.reg pwrmPage 0x074)
    Completes (.rtcSet r lo) s fun t =>
      t.reg pwrmPage 0x070 = lo ∧ t.reg pwrmPage 0x074 = hi ∧
        if s.fld pwrmPage 0x078 1 0 = 2 then t.mod.pwr = { s.mod.pwr with rtcWaits := true }
        else t.mod.pwr = { s.mod.pwr with rtc := hi ++ lo }) ∧
  (∀ s : State,
    (s.fld pwrmPage 0x078 1 0 = 2 →
      let base := if s.mod.pwr.rtcWaits then BitVec.ofNat 64 (s.pair pwrmPage 0x070) else s.mod.pwr.rtc
      Completes .ppsIn s fun t =>
        t.mod.pwr.rtc = base + BitVec.ofInt 64 (ppsSlew (base + Config.freeElapsed s.free).toNat) ∧
          t.mod.pwr.rtcWaits = false ∧ t.flag pwrmPage 0x078 2 = true) ∧
    (s.fld pwrmPage 0x078 1 0 ≠ 2 → Completes .ppsIn s fun t => t = s) ∧
    Completes .rtcDisciplineTimeout s (fun t => t = s.setFlag pwrmPage 0x078 2 false)) ∧
  (∀ (s : State) (bs : List Byte),
    let a := leNat (slice bs 0 8)
    (bs.length = 8 → ∀ p off, i3cReadable s a = some (p, off) → ((s.st 0).pwr.firmware || islandReads p off) = true →
      Completes (.i3cPrivateWrite bs) s fun t =>
        t.mod.bus.ready = some (readReg s .mgmt p off).1 ∧ t.out = s.out ∧ MemoryKept s t) ∧
    (bs.length = 12 → i3cReadable s a = some (pwrmPage, 0x05C) → (s.st 0).pwr.firmware = true →
      Completes (.i3cPrivateWrite bs) s fun t => t.out = s.out ∧
        (t.reg pwrmPage 0x05C).toNat =
          max (envelope s.part * 40 / 100) (min (envelope s.part) (leNat (slice bs 8 4) % 65536))) ∧
    ((bs.length ≠ 8 ∧ bs.length ≠ 12) ∨ i3cReadable s a = none → Completes (.i3cPrivateWrite bs) s fun t =>
      t = { s with out := s.out ++ [.i3c []] }) ∧
    (∀ v, s.mod.bus.ready = some v → Completes .i3cPrivateRead s fun t =>
      t.out = s.out ++ [.i3c (leBytes v.toNat 4)] ∧ t.mod.bus.ready = none) ∧
    (s.mod.bus.ready = none → Completes .i3cPrivateRead s fun t => t = { s with out := s.out ++ [.i3c []] })) ∧
  (∀ (s : State) (arg : Byte),
    let given := some (BitVec.ofNat 7 (arg.toNat / 2))
    Completes (.commonCommandCode 0x06 arg) s (fun t => t.mod.bus.dynamic = none ∧ t.out = s.out) ∧
    (s.mod.bus.dynamic = none →
      Completes (.commonCommandCode 0x87 arg) s (fun t => t.mod.bus.dynamic = given ∧ t.out = s.out) ∧
      Completes (.commonCommandCode 0x07 arg) s (fun t => t.mod.bus.dynamic = given ∧
        ∃ pid : List Byte, pid.length = 6 ∧ t.out = s.out ++ [.i3c (pid ++ [0x06, 0x00])])) ∧
    Completes (.commonCommandCode 0x8E arg) s (fun t => t = { s with out := s.out ++ [.i3c [0x06]] }) ∧
    Completes (.commonCommandCode 0x8F arg) s (fun t => t = { s with out := s.out ++ [.i3c [0x00]] }) ∧
    Completes (.commonCommandCode 0x90 arg) s (fun t =>
      ∃ bs : List Byte, bs.length = 2 ∧ t.out = s.out ++ [.i3c bs]) ∧
    ∀ code : Byte, code ∉ ([0x06, 0x07, 0x87, 0x8D, 0x8E, 0x8F, 0x90] : List Byte) →
      Completes (.commonCommandCode code arg) s fun t => t = { s with out := s.out ++ [.i3c []] })

/-- The frame of every command: where it answers a next state, each kind of state that its footprint does not list is what it was,
every byte of memory, every queue, the typed state of every unit and the registers of every page of a block type. What a footprint
lists is what the command's own effect may reach: the unit it names, and through an event or a fault a doorbell, a Locket request
and the step it tears. -/
def Obligations.CommandsKeepWhatIsNotTheirs : Prop :=
  ∀ (c : Instr) (s t : State), exec c s = .next t → ∀ k : Kind, k ∉ footprint c → KindKept s t k

/-- The frame within a kind. A KSQ instruction but WRR leaves every other sequencer as it was, and but WRR and RDR every register
outside its page, but for what an event, a Locket request or the count of an uncorrectable read writes. A command of a matrix array or
vector unit leaves every other core and the queues of every other unit. A mailbox command leaves the word of every other mailbox,
and a segment or timeout every other collective channel. -/
def Obligations.NeighboursKept : Prop :=
  (∀ (s t : State) (st : Fin 8) (q : Fin 4), ∀ c ∈ ksqCommands st q, c ≠ .wrr st q → exec c s = .next t →
    (∀ (i : Fin 8) (n : Fin 4), ¬(i = st ∧ n = q) → t.seq i n = s.seq i n) ∧
      (c ≠ .rdr st q → ∀ (p : Page) (off : Nat), p.inst < instances p.blk → off < 4096 → p ≠ seqPage st q → p ≠ lktPage →
        p.blk ≠ .mem → p.blk ≠ .srm → ¬(p.blk = .mbx ∧ off = 0x010) → ¬(p.blk = .pwr ∧ off = 0x044) →
        t.reg p off = s.reg p off)) ∧
  (∀ (s t : State) (r : Requester) (st : Fin 8) (c : Fin 56) (v : Word), ∀ cmd ∈ [Instr.mxStream st c, .mxPassRetire st c, .mxLdb st c,
      .mxDrain st c, .mxFree st c, .mxCfgWrite r st c v, .vcRun st c, .vcSetchain st c, .vcSetvl st c, .vcSave st c, .vcRestore st c],
    exec cmd s = .next t →
    (∀ (i : Fin 8) (k : Nat), ¬(i = st ∧ k = c.val) → t.core i k = s.core i k) ∧
      ∀ (i : Fin 8) (q : Nat), q < 4096 → ¬(i = st ∧ (q = mxQueue c.val ∨ q = vcQueue c.val)) → t.queue i q = s.queue i q) ∧
  (∀ (s t : State) (r : Requester) (st : Fin 8) (mb : Fin 64) (v : Word),
    ∀ cmd ∈ [Instr.mbxSend r st mb v, .mbxReceive r st mb, .mbxTimeout st mb, .mbxDbSet r st mb v],
    exec cmd s = .next t → ∀ (i : Fin 8) (m : Nat), ¬(i = st ∧ m = mb.val) →
      (t.box i m).word = (s.box i m).word ∧ (t.box i m).full = (s.box i m).full ∧ (t.box i m).sender = (s.box i m).sender) ∧
  (∀ (s t : State) (st : Fin 8) (ctx : Nat) (g : Segment) (c : Fin 16), ∀ cmd ∈ [Instr.collStartSegment st ctx g,
      .collReduceSegment st ctx g, .collGatherSegment st ctx g, .collVoteSegment st ctx g, .collTimeout st c],
    exec cmd s = .next t → ∀ (i : Fin 8) (k : Nat), ¬(i = st ∧ (k = g.chan ∨ k = c.val)) → t.chan i k = s.chan i k)
end

