-- ==== Sys2Proof/Laws/Sparse.lean ====
section
/-! SUPPORT. The laws of the sparse stores: what a read gives after each operation, and that every operation keeps the
canonical form. -/

namespace Sys2Proof.Laws.Sparse

open Machine

variable {α : Type}

/-! ### Reads after operations -/

@[simp] theorem find_nil (k : Nat) : Sparse.find ([] : Sparse α) k = none := rfl

theorem find_put (m : Sparse α) (k : Nat) (v : α) (j : Nat) :
    Sparse.find (Sparse.put m k v) j = if j = k then some v else Sparse.find m j := by
  induction m with
  | nil => simp [Sparse.put, Sparse.find, eq_comm]
  | cons e t ih =>
    obtain ⟨k', v'⟩ := e
    simp only [Sparse.put]
    split
    · simp [Sparse.find, eq_comm]
    · split
      · next h => subst h; by_cases hj : j = k' <;> simp [Sparse.find, hj, eq_comm]
      · simp only [Sparse.find, ih]
        split
        · next h => subst h; simp_all
        · rfl

theorem find_filter (p : Nat → Bool) (m : Sparse α) (j : Nat) :
    Sparse.find (m.filter fun e => p e.1) j = if p j then Sparse.find m j else none := by
  induction m with
  | nil => simp [Sparse.find]
  | cons e t ih =>
    obtain ⟨k, v⟩ := e
    by_cases h : p k <;> by_cases hj : k = j <;> simp_all [Sparse.find, List.filter]

theorem find_del (m : Sparse α) (k j : Nat) : Sparse.find (Sparse.del m k) j = if j = k then none else Sparse.find m j := by
  simp only [Sparse.del, find_filter (fun n => n != k)]
  by_cases h : j = k <;> simp [h]

/-- A key reads as it was last written, and every other key as before. -/
theorem get_set [DecidableEq α] (d : Nat → α) (m : Sparse α) (k : Nat) (v : α) (j : Nat) :
    Sparse.get d (Sparse.set d m k v) j = if j = k then v else Sparse.get d m j := by
  induction m with
  | nil =>
    by_cases hv : v = d k <;> by_cases hj : j = k <;> simp_all [Sparse.set, Sparse.get, Sparse.find, eq_comm]
  | cons e t ih =>
    obtain ⟨k', v'⟩ := e
    simp only [Sparse.set]
    split
    · next hk =>
      simp only [Sparse.get, Sparse.find] at ih ⊢
      by_cases hj : k' = j
      · subst hj; simp [Nat.ne_of_lt hk]
      · simpa [hj] using ih
    · split
      · next hv => simp only [Sparse.get, find_del]; split <;> simp_all
      · by_cases hj : j = k
        · simp [Sparse.get, Sparse.find, hj]
        · have hj' : ¬ k = j := fun h => hj h.symm
          by_cases hk : k' = k <;> simp [Sparse.get, Sparse.find, hj, hj', hk]

@[simp] theorem get_set_same [DecidableEq α] (d : Nat → α) (m : Sparse α) (k : Nat) (v : α) :
    Sparse.get d (Sparse.set d m k v) k = v := by simp [get_set]

theorem get_set_other [DecidableEq α] (d : Nat → α) (m : Sparse α) {k j : Nat} (v : α) (h : j ≠ k) :
    Sparse.get d (Sparse.set d m k v) j = Sparse.get d m j := by simp [get_set, h]

theorem get_keep (d : Nat → α) (p : Nat → Bool) (m : Sparse α) (j : Nat) :
    Sparse.get d (Sparse.keep p m) j = if p j then Sparse.get d m j else d j := by
  simp only [Sparse.get, Sparse.keep, find_filter p]
  split <;> rfl

theorem get_del (d : Nat → α) (m : Sparse α) (k j : Nat) : Sparse.get d (Sparse.del m k) j = if j = k then d j else Sparse.get d m j := by
  simp only [Sparse.get, find_del]
  split <;> rfl

@[simp] theorem get_nil (d : Nat → α) (k : Nat) : Sparse.get d [] k = d k := rfl

/-- A list written from `k`: its values at the keys it covers, and every other key as before. -/
theorem get_setList [DecidableEq α] (d : Nat → α) (vs : List α) (m : Sparse α) (k j : Nat) :
    Sparse.get d (Sparse.setList d m k vs) j = if h : k ≤ j ∧ j < k + vs.length then vs[j - k] else Sparse.get d m j := by
  induction vs generalizing m k with
  | nil => simp [Sparse.setList]
  | cons v vs ih =>
    simp only [Sparse.setList, ih, get_set, List.length_cons]
    by_cases hj : j = k
    · subst hj; simp
    · by_cases h : k + 1 ≤ j ∧ j < k + 1 + vs.length
      · have h' : k ≤ j ∧ j < k + (vs.length + 1) := by omega
        obtain ⟨i, rfl⟩ : ∃ i, j = k + (i + 1) := ⟨j - k - 1, by omega⟩
        simp only [h, h', dif_pos, and_self]
        have e1 : k + (i + 1) - (k + 1) = i := by omega
        have e2 : k + (i + 1) - k = i + 1 := by omega
        simp [e1, e2]
      · have h' : ¬ (k ≤ j ∧ j < k + (vs.length + 1)) := by omega
        rw [dif_neg h, dif_neg h', if_neg hj]

@[simp] theorem getList_length (d : Nat → α) (m : Sparse α) (k n : Nat) : (Sparse.getList d m k n).length = n := by
  induction n generalizing k with
  | zero => rfl
  | succ n ih => simp [Sparse.getList, ih]

theorem getList_getElem (d : Nat → α) (m : Sparse α) (k n i : Nat) (h : i < (Sparse.getList d m k n).length) :
    (Sparse.getList d m k n)[i] = Sparse.get d m (k + i) := by
  induction n generalizing k i with
  | zero => simp [Sparse.getList] at h
  | succ n ih =>
    cases i with
    | zero => simp [Sparse.getList]
    | succ i =>
      simp only [Sparse.getList, List.getElem_cons_succ]
      rw [ih]; congr 1; omega

/-! ### The canonical form -/

/-- The canonical form said of the list as a whole. -/
theorem wf_iff [DecidableEq α] (d : Nat → α) (m : Sparse α) :
    Sparse.wf d m = true ↔ (∀ e ∈ m, e.2 ≠ d e.1) ∧ m.Pairwise fun a b => a.1 < b.1 := by
  induction m with
  | nil => simp [Sparse.wf]
  | cons e t ih =>
    obtain ⟨k, v⟩ := e
    cases t with
    | nil => simp [Sparse.wf]
    | cons e' t =>
      obtain ⟨k', v'⟩ := e'
      simp only [Sparse.wf, Bool.and_eq_true, decide_eq_true_eq, ih, List.mem_cons, List.pairwise_cons, forall_eq_or_imp]
      constructor
      · rintro ⟨⟨h1, h2⟩, ⟨h3, h4⟩, h5, h6⟩
        exact ⟨⟨h1, h3, h4⟩, ⟨h2, fun a ha => lt_trans h2 (h5 a ha)⟩, h5, h6⟩
      · rintro ⟨⟨h1, h3, h4⟩, ⟨h2, -⟩, h5, h6⟩
        exact ⟨⟨h1, h2⟩, ⟨h3, h4⟩, h5, h6⟩

theorem mem_put {m : Sparse α} {k : Nat} {v : α} {e : Nat × α} (h : e ∈ Sparse.put m k v) : e = (k, v) ∨ e ∈ m := by
  induction m with
  | nil => simpa [Sparse.put] using h
  | cons e' t ih =>
    obtain ⟨k', v'⟩ := e'
    simp only [Sparse.put] at h
    split at h
    · simpa using h
    · split at h <;> simp only [List.mem_cons] at h ⊢
      · rcases h with h | h <;> simp [h]
      · rcases h with h | h
        · simp [h]
        · rcases ih h with h | h <;> simp [h]

theorem wf_filter [DecidableEq α] (d : Nat → α) (p : Nat × α → Bool) {m : Sparse α} (h : Sparse.wf d m = true) :
    Sparse.wf d (m.filter p) = true := by
  rw [wf_iff] at h ⊢
  exact ⟨fun e he => h.1 e (List.mem_of_mem_filter he), h.2.filter p⟩

theorem wf_keep [DecidableEq α] (d : Nat → α) (p : Nat → Bool) {m : Sparse α} (h : Sparse.wf d m = true) :
    Sparse.wf d (Sparse.keep p m) = true := wf_filter d _ h

theorem wf_del [DecidableEq α] (d : Nat → α) (k : Nat) {m : Sparse α} (h : Sparse.wf d m = true) : Sparse.wf d (Sparse.del m k) = true :=
  wf_filter d _ h

theorem wf_put [DecidableEq α] (d : Nat → α) {m : Sparse α} {k : Nat} {v : α} (h : Sparse.wf d m = true) (hv : v ≠ d k) :
    Sparse.wf d (Sparse.put m k v) = true := by
  rw [wf_iff] at h ⊢
  refine ⟨fun e he => ?_, ?_⟩
  · rcases mem_put he with rfl | he
    · exact hv
    · exact h.1 e he
  · have hp := h.2
    clear h
    induction m with
    | nil => simp [Sparse.put]
    | cons e t ih =>
      obtain ⟨k', v'⟩ := e
      rw [List.pairwise_cons] at hp
      simp only [Sparse.put]
      split
      · next hk =>
        refine List.pairwise_cons.2 ⟨fun a ha => ?_, List.pairwise_cons.2 hp⟩
        rcases List.mem_cons.1 ha with rfl | ha
        · exact hk
        · exact lt_trans hk (hp.1 a ha)
      · split
        · next hk => subst hk; exact List.pairwise_cons.2 hp
        · refine List.pairwise_cons.2 ⟨fun a ha => ?_, ih hp.2⟩
          rcases mem_put ha with rfl | ha
          · simp only; omega
          · exact hp.1 a ha

theorem mem_set [DecidableEq α] {d : Nat → α} {m : Sparse α} {k : Nat} {v : α} {e : Nat × α}
    (h : e ∈ Sparse.set d m k v) : e = (k, v) ∧ v ≠ d k ∨ e ∈ m := by
  induction m with
  | nil => simp only [Sparse.set] at h; split at h <;> simp_all
  | cons e' t ih =>
    obtain ⟨k', v'⟩ := e'
    simp only [Sparse.set] at h
    split at h
    · rcases List.mem_cons.1 h with h | h
      · simp [h]
      · rcases ih h with h | h <;> simp [h]
    · split at h
      · exact .inr (List.mem_of_mem_filter h)
      · next hv =>
        rcases List.mem_cons.1 h with h | h
        · exact .inl ⟨h, hv⟩
        · right; split at h <;> simp_all

/-- A write keeps the canonical form. -/
theorem wf_set [DecidableEq α] (d : Nat → α) {m : Sparse α} (k : Nat) (v : α) (h : Sparse.wf d m = true) :
    Sparse.wf d (Sparse.set d m k v) = true := by
  rw [wf_iff] at h ⊢
  refine ⟨fun e he => ?_, ?_⟩
  · rcases mem_set he with ⟨rfl, hv⟩ | he
    · exact hv
    · exact h.1 e he
  · have hp := h.2
    clear h
    induction m with
    | nil => simp only [Sparse.set]; split <;> simp
    | cons e t ih =>
      obtain ⟨k', v'⟩ := e
      rw [List.pairwise_cons] at hp
      simp only [Sparse.set]
      split
      · next hk =>
        refine List.pairwise_cons.2 ⟨fun a ha => ?_, ih hp.2⟩
        rcases mem_set ha with ⟨rfl, -⟩ | ha
        · exact hk
        · exact hp.1 a ha
      · next hk =>
        split
        · exact (List.pairwise_cons.2 hp).filter _
        · refine List.pairwise_cons.2 ⟨fun a ha => ?_, ?_⟩
          · split at ha
            · next e => subst e; exact hp.1 a ha
            · rcases List.mem_cons.1 ha with rfl | ha
              · simp only; omega
              · have := hp.1 a ha; simp only at this ⊢; omega
          · split
            · exact hp.2
            · exact List.pairwise_cons.2 hp

theorem wf_setList [DecidableEq α] (d : Nat → α) (vs : List α) {m : Sparse α} (k : Nat) (h : Sparse.wf d m = true) :
    Sparse.wf d (Sparse.setList d m k vs) = true := by
  induction vs generalizing m k with
  | nil => exact h
  | cons v vs ih => exact ih _ (wf_set d k v h)

/-- In a store in canonical form, what is listed is what is found. -/
theorem find_of_wf [DecidableEq α] (d : Nat → α) {m : Sparse α} (h : Sparse.wf d m = true) {k : Nat} {v : α} :
    Sparse.find m k = some v ↔ (k, v) ∈ m := by
  rw [wf_iff] at h
  have hp := h.2
  clear h
  induction m with
  | nil => simp
  | cons e t ih =>
    obtain ⟨k', v'⟩ := e
    rw [List.pairwise_cons] at hp
    by_cases hk : k' = k
    · subst hk
      simp only [Sparse.find, if_true, Option.some.injEq, List.mem_cons, Prod.mk.injEq, true_and]
      constructor
      · rintro rfl; exact .inl rfl
      · rintro (h | h)
        · exact h.symm
        · exact absurd (hp.1 _ h) (lt_irrefl _)
    · simp [Sparse.find, hk, ih hp.2, Ne.symm hk]

end Sys2Proof.Laws.Sparse
end

