-- ==== Sys2Proof/Laws/State.lean ====
section
/-! SUPPORT. Reads of a state after each update of it: for each field one lemma, true by computation, so that no proof unfolds
the record; then what a register, a queue, a stack's part or the module's part reads as after it was changed. -/

namespace Sys2Proof.Machine

variable (s : State)

/-! ### setReg -/

@[simp] theorem State.setReg_part (p : Page) (off : Nat) (v : Word) : (s.setReg p off v).part = s.part := rfl
@[simp] theorem State.setReg_free (p : Page) (off : Nat) (v : Word) : (s.setReg p off v).free = s.free := rfl
@[simp] theorem State.setReg_staged (p : Page) (off : Nat) (v : Word) : (s.setReg p off v).staged = s.staged := rfl
@[simp] theorem State.setReg_latched (p : Page) (off : Nat) (v : Word) : (s.setReg p off v).latched = s.latched := rfl
@[simp] theorem State.setReg_mem (p : Page) (off : Nat) (v : Word) : (s.setReg p off v).mem = s.mem := rfl
@[simp] theorem State.setReg_bad (p : Page) (off : Nat) (v : Word) : (s.setReg p off v).bad = s.bad := rfl
@[simp] theorem State.setReg_queues (p : Page) (off : Nat) (v : Word) : (s.setReg p off v).queues = s.queues := rfl
@[simp] theorem State.setReg_stk (p : Page) (off : Nat) (v : Word) : (s.setReg p off v).stk = s.stk := rfl
@[simp] theorem State.setReg_mod (p : Page) (off : Nat) (v : Word) : (s.setReg p off v).mod = s.mod := rfl
@[simp] theorem State.setReg_out (p : Page) (off : Nat) (v : Word) : (s.setReg p off v).out = s.out := rfl
@[simp] theorem State.setReg_pending (p : Page) (off : Nat) (v : Word) : (s.setReg p off v).pending = s.pending := rfl
@[simp] theorem State.setReg_has (p : Page) (off : Nat) (v : Word) (k : Nat) : (s.setReg p off v).has k = s.has k := rfl
@[simp] theorem State.setReg_stacksIn (p : Page) (off : Nat) (v : Word) : (s.setReg p off v).stacksIn = s.stacksIn := rfl
@[simp] theorem State.setReg_queue (p : Page) (off : Nat) (v : Word) (j : Fin 8) (x : Nat) : (s.setReg p off v).queue j x = s.queue j x := rfl
@[simp] theorem State.setReg_byte (p : Page) (off : Nat) (v : Word) (x : Nat) : (s.setReg p off v).byte x = s.byte x := rfl
@[simp] theorem State.setReg_st (p : Page) (off : Nat) (v : Word) (j : Fin 8) : (s.setReg p off v).st j = s.st j := rfl

/-! ### setFld -/

@[simp] theorem State.setFld_part (p : Page) (off hi lo v : Nat) : (s.setFld p off hi lo v).part = s.part := rfl
@[simp] theorem State.setFld_free (p : Page) (off hi lo v : Nat) : (s.setFld p off hi lo v).free = s.free := rfl
@[simp] theorem State.setFld_staged (p : Page) (off hi lo v : Nat) : (s.setFld p off hi lo v).staged = s.staged := rfl
@[simp] theorem State.setFld_latched (p : Page) (off hi lo v : Nat) : (s.setFld p off hi lo v).latched = s.latched := rfl
@[simp] theorem State.setFld_mem (p : Page) (off hi lo v : Nat) : (s.setFld p off hi lo v).mem = s.mem := rfl
@[simp] theorem State.setFld_bad (p : Page) (off hi lo v : Nat) : (s.setFld p off hi lo v).bad = s.bad := rfl
@[simp] theorem State.setFld_queues (p : Page) (off hi lo v : Nat) : (s.setFld p off hi lo v).queues = s.queues := rfl
@[simp] theorem State.setFld_stk (p : Page) (off hi lo v : Nat) : (s.setFld p off hi lo v).stk = s.stk := rfl
@[simp] theorem State.setFld_mod (p : Page) (off hi lo v : Nat) : (s.setFld p off hi lo v).mod = s.mod := rfl
@[simp] theorem State.setFld_out (p : Page) (off hi lo v : Nat) : (s.setFld p off hi lo v).out = s.out := rfl
@[simp] theorem State.setFld_pending (p : Page) (off hi lo v : Nat) : (s.setFld p off hi lo v).pending = s.pending := rfl
@[simp] theorem State.setFld_has (p : Page) (off hi lo v : Nat) (k : Nat) : (s.setFld p off hi lo v).has k = s.has k := rfl
@[simp] theorem State.setFld_stacksIn (p : Page) (off hi lo v : Nat) : (s.setFld p off hi lo v).stacksIn = s.stacksIn := rfl
@[simp] theorem State.setFld_queue (p : Page) (off hi lo v : Nat) (j : Fin 8) (x : Nat) : (s.setFld p off hi lo v).queue j x = s.queue j x := rfl
@[simp] theorem State.setFld_byte (p : Page) (off hi lo v : Nat) (x : Nat) : (s.setFld p off hi lo v).byte x = s.byte x := rfl
@[simp] theorem State.setFld_st (p : Page) (off hi lo v : Nat) (j : Fin 8) : (s.setFld p off hi lo v).st j = s.st j := rfl

/-! ### setFlag -/

@[simp] theorem State.setFlag_part (p : Page) (off i : Nat) (b : Bool) : (s.setFlag p off i b).part = s.part := rfl
@[simp] theorem State.setFlag_free (p : Page) (off i : Nat) (b : Bool) : (s.setFlag p off i b).free = s.free := rfl
@[simp] theorem State.setFlag_staged (p : Page) (off i : Nat) (b : Bool) : (s.setFlag p off i b).staged = s.staged := rfl
@[simp] theorem State.setFlag_latched (p : Page) (off i : Nat) (b : Bool) : (s.setFlag p off i b).latched = s.latched := rfl
@[simp] theorem State.setFlag_mem (p : Page) (off i : Nat) (b : Bool) : (s.setFlag p off i b).mem = s.mem := rfl
@[simp] theorem State.setFlag_bad (p : Page) (off i : Nat) (b : Bool) : (s.setFlag p off i b).bad = s.bad := rfl
@[simp] theorem State.setFlag_queues (p : Page) (off i : Nat) (b : Bool) : (s.setFlag p off i b).queues = s.queues := rfl
@[simp] theorem State.setFlag_stk (p : Page) (off i : Nat) (b : Bool) : (s.setFlag p off i b).stk = s.stk := rfl
@[simp] theorem State.setFlag_mod (p : Page) (off i : Nat) (b : Bool) : (s.setFlag p off i b).mod = s.mod := rfl
@[simp] theorem State.setFlag_out (p : Page) (off i : Nat) (b : Bool) : (s.setFlag p off i b).out = s.out := rfl
@[simp] theorem State.setFlag_pending (p : Page) (off i : Nat) (b : Bool) : (s.setFlag p off i b).pending = s.pending := rfl
@[simp] theorem State.setFlag_has (p : Page) (off i : Nat) (b : Bool) (k : Nat) : (s.setFlag p off i b).has k = s.has k := rfl
@[simp] theorem State.setFlag_stacksIn (p : Page) (off i : Nat) (b : Bool) : (s.setFlag p off i b).stacksIn = s.stacksIn := rfl
@[simp] theorem State.setFlag_queue (p : Page) (off i : Nat) (b : Bool) (j : Fin 8) (x : Nat) : (s.setFlag p off i b).queue j x = s.queue j x := rfl
@[simp] theorem State.setFlag_byte (p : Page) (off i : Nat) (b : Bool) (x : Nat) : (s.setFlag p off i b).byte x = s.byte x := rfl
@[simp] theorem State.setFlag_st (p : Page) (off i : Nat) (b : Bool) (j : Fin 8) : (s.setFlag p off i b).st j = s.st j := rfl

/-! ### countSat -/

@[simp] theorem State.countSat_part (p : Page) (off n : Nat) : (s.countSat p off n).part = s.part := rfl
@[simp] theorem State.countSat_free (p : Page) (off n : Nat) : (s.countSat p off n).free = s.free := rfl
@[simp] theorem State.countSat_staged (p : Page) (off n : Nat) : (s.countSat p off n).staged = s.staged := rfl
@[simp] theorem State.countSat_latched (p : Page) (off n : Nat) : (s.countSat p off n).latched = s.latched := rfl
@[simp] theorem State.countSat_mem (p : Page) (off n : Nat) : (s.countSat p off n).mem = s.mem := rfl
@[simp] theorem State.countSat_bad (p : Page) (off n : Nat) : (s.countSat p off n).bad = s.bad := rfl
@[simp] theorem State.countSat_queues (p : Page) (off n : Nat) : (s.countSat p off n).queues = s.queues := rfl
@[simp] theorem State.countSat_stk (p : Page) (off n : Nat) : (s.countSat p off n).stk = s.stk := rfl
@[simp] theorem State.countSat_mod (p : Page) (off n : Nat) : (s.countSat p off n).mod = s.mod := rfl
@[simp] theorem State.countSat_out (p : Page) (off n : Nat) : (s.countSat p off n).out = s.out := rfl
@[simp] theorem State.countSat_pending (p : Page) (off n : Nat) : (s.countSat p off n).pending = s.pending := rfl
@[simp] theorem State.countSat_has (p : Page) (off n : Nat) (k : Nat) : (s.countSat p off n).has k = s.has k := rfl
@[simp] theorem State.countSat_stacksIn (p : Page) (off n : Nat) : (s.countSat p off n).stacksIn = s.stacksIn := rfl
@[simp] theorem State.countSat_queue (p : Page) (off n : Nat) (j : Fin 8) (x : Nat) : (s.countSat p off n).queue j x = s.queue j x := rfl
@[simp] theorem State.countSat_byte (p : Page) (off n : Nat) (x : Nat) : (s.countSat p off n).byte x = s.byte x := rfl
@[simp] theorem State.countSat_st (p : Page) (off n : Nat) (j : Fin 8) : (s.countSat p off n).st j = s.st j := rfl

/-! ### countWrap -/

@[simp] theorem State.countWrap_part (p : Page) (off n : Nat) : (s.countWrap p off n).part = s.part := rfl
@[simp] theorem State.countWrap_free (p : Page) (off n : Nat) : (s.countWrap p off n).free = s.free := rfl
@[simp] theorem State.countWrap_staged (p : Page) (off n : Nat) : (s.countWrap p off n).staged = s.staged := rfl
@[simp] theorem State.countWrap_latched (p : Page) (off n : Nat) : (s.countWrap p off n).latched = s.latched := rfl
@[simp] theorem State.countWrap_mem (p : Page) (off n : Nat) : (s.countWrap p off n).mem = s.mem := rfl
@[simp] theorem State.countWrap_bad (p : Page) (off n : Nat) : (s.countWrap p off n).bad = s.bad := rfl
@[simp] theorem State.countWrap_queues (p : Page) (off n : Nat) : (s.countWrap p off n).queues = s.queues := rfl
@[simp] theorem State.countWrap_stk (p : Page) (off n : Nat) : (s.countWrap p off n).stk = s.stk := rfl
@[simp] theorem State.countWrap_mod (p : Page) (off n : Nat) : (s.countWrap p off n).mod = s.mod := rfl
@[simp] theorem State.countWrap_out (p : Page) (off n : Nat) : (s.countWrap p off n).out = s.out := rfl
@[simp] theorem State.countWrap_pending (p : Page) (off n : Nat) : (s.countWrap p off n).pending = s.pending := rfl
@[simp] theorem State.countWrap_has (p : Page) (off n : Nat) (k : Nat) : (s.countWrap p off n).has k = s.has k := rfl
@[simp] theorem State.countWrap_stacksIn (p : Page) (off n : Nat) : (s.countWrap p off n).stacksIn = s.stacksIn := rfl
@[simp] theorem State.countWrap_queue (p : Page) (off n : Nat) (j : Fin 8) (x : Nat) : (s.countWrap p off n).queue j x = s.queue j x := rfl
@[simp] theorem State.countWrap_byte (p : Page) (off n : Nat) (x : Nat) : (s.countWrap p off n).byte x = s.byte x := rfl
@[simp] theorem State.countWrap_st (p : Page) (off n : Nat) (j : Fin 8) : (s.countWrap p off n).st j = s.st j := rfl

/-! ### setPair -/

@[simp] theorem State.setPair_part (p : Page) (off n : Nat) : (s.setPair p off n).part = s.part := rfl
@[simp] theorem State.setPair_free (p : Page) (off n : Nat) : (s.setPair p off n).free = s.free := rfl
@[simp] theorem State.setPair_staged (p : Page) (off n : Nat) : (s.setPair p off n).staged = s.staged := rfl
@[simp] theorem State.setPair_latched (p : Page) (off n : Nat) : (s.setPair p off n).latched = s.latched := rfl
@[simp] theorem State.setPair_mem (p : Page) (off n : Nat) : (s.setPair p off n).mem = s.mem := rfl
@[simp] theorem State.setPair_bad (p : Page) (off n : Nat) : (s.setPair p off n).bad = s.bad := rfl
@[simp] theorem State.setPair_queues (p : Page) (off n : Nat) : (s.setPair p off n).queues = s.queues := rfl
@[simp] theorem State.setPair_stk (p : Page) (off n : Nat) : (s.setPair p off n).stk = s.stk := rfl
@[simp] theorem State.setPair_mod (p : Page) (off n : Nat) : (s.setPair p off n).mod = s.mod := rfl
@[simp] theorem State.setPair_out (p : Page) (off n : Nat) : (s.setPair p off n).out = s.out := rfl
@[simp] theorem State.setPair_pending (p : Page) (off n : Nat) : (s.setPair p off n).pending = s.pending := rfl
@[simp] theorem State.setPair_has (p : Page) (off n : Nat) (k : Nat) : (s.setPair p off n).has k = s.has k := rfl
@[simp] theorem State.setPair_stacksIn (p : Page) (off n : Nat) : (s.setPair p off n).stacksIn = s.stacksIn := rfl
@[simp] theorem State.setPair_queue (p : Page) (off n : Nat) (j : Fin 8) (x : Nat) : (s.setPair p off n).queue j x = s.queue j x := rfl
@[simp] theorem State.setPair_byte (p : Page) (off n : Nat) (x : Nat) : (s.setPair p off n).byte x = s.byte x := rfl
@[simp] theorem State.setPair_st (p : Page) (off n : Nat) (j : Fin 8) : (s.setPair p off n).st j = s.st j := rfl

/-! ### countPair -/

@[simp] theorem State.countPair_part (p : Page) (off n : Nat) : (s.countPair p off n).part = s.part := rfl
@[simp] theorem State.countPair_free (p : Page) (off n : Nat) : (s.countPair p off n).free = s.free := rfl
@[simp] theorem State.countPair_staged (p : Page) (off n : Nat) : (s.countPair p off n).staged = s.staged := rfl
@[simp] theorem State.countPair_latched (p : Page) (off n : Nat) : (s.countPair p off n).latched = s.latched := rfl
@[simp] theorem State.countPair_mem (p : Page) (off n : Nat) : (s.countPair p off n).mem = s.mem := rfl
@[simp] theorem State.countPair_bad (p : Page) (off n : Nat) : (s.countPair p off n).bad = s.bad := rfl
@[simp] theorem State.countPair_queues (p : Page) (off n : Nat) : (s.countPair p off n).queues = s.queues := rfl
@[simp] theorem State.countPair_stk (p : Page) (off n : Nat) : (s.countPair p off n).stk = s.stk := rfl
@[simp] theorem State.countPair_mod (p : Page) (off n : Nat) : (s.countPair p off n).mod = s.mod := rfl
@[simp] theorem State.countPair_out (p : Page) (off n : Nat) : (s.countPair p off n).out = s.out := rfl
@[simp] theorem State.countPair_pending (p : Page) (off n : Nat) : (s.countPair p off n).pending = s.pending := rfl
@[simp] theorem State.countPair_has (p : Page) (off n : Nat) (k : Nat) : (s.countPair p off n).has k = s.has k := rfl
@[simp] theorem State.countPair_stacksIn (p : Page) (off n : Nat) : (s.countPair p off n).stacksIn = s.stacksIn := rfl
@[simp] theorem State.countPair_queue (p : Page) (off n : Nat) (j : Fin 8) (x : Nat) : (s.countPair p off n).queue j x = s.queue j x := rfl
@[simp] theorem State.countPair_byte (p : Page) (off n : Nat) (x : Nat) : (s.countPair p off n).byte x = s.byte x := rfl
@[simp] theorem State.countPair_st (p : Page) (off n : Nat) (j : Fin 8) : (s.countPair p off n).st j = s.st j := rfl

/-! ### setByte -/

@[simp] theorem State.setByte_part (a : Nat) (b : Byte) : (s.setByte a b).part = s.part := rfl
@[simp] theorem State.setByte_free (a : Nat) (b : Byte) : (s.setByte a b).free = s.free := rfl
@[simp] theorem State.setByte_regs (a : Nat) (b : Byte) : (s.setByte a b).regs = s.regs := rfl
@[simp] theorem State.setByte_staged (a : Nat) (b : Byte) : (s.setByte a b).staged = s.staged := rfl
@[simp] theorem State.setByte_latched (a : Nat) (b : Byte) : (s.setByte a b).latched = s.latched := rfl
@[simp] theorem State.setByte_bad (a : Nat) (b : Byte) : (s.setByte a b).bad = s.bad := rfl
@[simp] theorem State.setByte_queues (a : Nat) (b : Byte) : (s.setByte a b).queues = s.queues := rfl
@[simp] theorem State.setByte_stk (a : Nat) (b : Byte) : (s.setByte a b).stk = s.stk := rfl
@[simp] theorem State.setByte_mod (a : Nat) (b : Byte) : (s.setByte a b).mod = s.mod := rfl
@[simp] theorem State.setByte_out (a : Nat) (b : Byte) : (s.setByte a b).out = s.out := rfl
@[simp] theorem State.setByte_pending (a : Nat) (b : Byte) : (s.setByte a b).pending = s.pending := rfl
@[simp] theorem State.setByte_has (a : Nat) (b : Byte) (k : Nat) : (s.setByte a b).has k = s.has k := rfl
@[simp] theorem State.setByte_stacksIn (a : Nat) (b : Byte) : (s.setByte a b).stacksIn = s.stacksIn := rfl
@[simp] theorem State.setByte_reg (a : Nat) (b : Byte) (pg : Page) (x : Nat) : (s.setByte a b).reg pg x = s.reg pg x := rfl
@[simp] theorem State.setByte_fld (a : Nat) (b : Byte) (pg : Page) (x y z : Nat) : (s.setByte a b).fld pg x y z = s.fld pg x y z := rfl
@[simp] theorem State.setByte_flag (a : Nat) (b : Byte) (pg : Page) (x y : Nat) : (s.setByte a b).flag pg x y = s.flag pg x y := rfl
@[simp] theorem State.setByte_queue (a : Nat) (b : Byte) (j : Fin 8) (x : Nat) : (s.setByte a b).queue j x = s.queue j x := rfl
@[simp] theorem State.setByte_st (a : Nat) (b : Byte) (j : Fin 8) : (s.setByte a b).st j = s.st j := rfl

/-! ### setBytes -/

@[simp] theorem State.setBytes_part (a : Nat) (bs : List Byte) : (s.setBytes a bs).part = s.part := rfl
@[simp] theorem State.setBytes_free (a : Nat) (bs : List Byte) : (s.setBytes a bs).free = s.free := rfl
@[simp] theorem State.setBytes_regs (a : Nat) (bs : List Byte) : (s.setBytes a bs).regs = s.regs := rfl
@[simp] theorem State.setBytes_staged (a : Nat) (bs : List Byte) : (s.setBytes a bs).staged = s.staged := rfl
@[simp] theorem State.setBytes_latched (a : Nat) (bs : List Byte) : (s.setBytes a bs).latched = s.latched := rfl
@[simp] theorem State.setBytes_bad (a : Nat) (bs : List Byte) : (s.setBytes a bs).bad = s.bad := rfl
@[simp] theorem State.setBytes_queues (a : Nat) (bs : List Byte) : (s.setBytes a bs).queues = s.queues := rfl
@[simp] theorem State.setBytes_stk (a : Nat) (bs : List Byte) : (s.setBytes a bs).stk = s.stk := rfl
@[simp] theorem State.setBytes_mod (a : Nat) (bs : List Byte) : (s.setBytes a bs).mod = s.mod := rfl
@[simp] theorem State.setBytes_out (a : Nat) (bs : List Byte) : (s.setBytes a bs).out = s.out := rfl
@[simp] theorem State.setBytes_pending (a : Nat) (bs : List Byte) : (s.setBytes a bs).pending = s.pending := rfl
@[simp] theorem State.setBytes_has (a : Nat) (bs : List Byte) (k : Nat) : (s.setBytes a bs).has k = s.has k := rfl
@[simp] theorem State.setBytes_stacksIn (a : Nat) (bs : List Byte) : (s.setBytes a bs).stacksIn = s.stacksIn := rfl
@[simp] theorem State.setBytes_reg (a : Nat) (bs : List Byte) (pg : Page) (x : Nat) : (s.setBytes a bs).reg pg x = s.reg pg x := rfl
@[simp] theorem State.setBytes_fld (a : Nat) (bs : List Byte) (pg : Page) (x y z : Nat) : (s.setBytes a bs).fld pg x y z = s.fld pg x y z := rfl
@[simp] theorem State.setBytes_flag (a : Nat) (bs : List Byte) (pg : Page) (x y : Nat) : (s.setBytes a bs).flag pg x y = s.flag pg x y := rfl
@[simp] theorem State.setBytes_queue (a : Nat) (bs : List Byte) (j : Fin 8) (x : Nat) : (s.setBytes a bs).queue j x = s.queue j x := rfl
@[simp] theorem State.setBytes_st (a : Nat) (bs : List Byte) (j : Fin 8) : (s.setBytes a bs).st j = s.st j := rfl

/-! ### keepBytes -/

@[simp] theorem State.keepBytes_part (w : Nat → Bool) : (s.keepBytes w).part = s.part := rfl
@[simp] theorem State.keepBytes_free (w : Nat → Bool) : (s.keepBytes w).free = s.free := rfl
@[simp] theorem State.keepBytes_regs (w : Nat → Bool) : (s.keepBytes w).regs = s.regs := rfl
@[simp] theorem State.keepBytes_staged (w : Nat → Bool) : (s.keepBytes w).staged = s.staged := rfl
@[simp] theorem State.keepBytes_latched (w : Nat → Bool) : (s.keepBytes w).latched = s.latched := rfl
@[simp] theorem State.keepBytes_bad (w : Nat → Bool) : (s.keepBytes w).bad = s.bad := rfl
@[simp] theorem State.keepBytes_queues (w : Nat → Bool) : (s.keepBytes w).queues = s.queues := rfl
@[simp] theorem State.keepBytes_stk (w : Nat → Bool) : (s.keepBytes w).stk = s.stk := rfl
@[simp] theorem State.keepBytes_mod (w : Nat → Bool) : (s.keepBytes w).mod = s.mod := rfl
@[simp] theorem State.keepBytes_out (w : Nat → Bool) : (s.keepBytes w).out = s.out := rfl
@[simp] theorem State.keepBytes_pending (w : Nat → Bool) : (s.keepBytes w).pending = s.pending := rfl
@[simp] theorem State.keepBytes_has (w : Nat → Bool) (k : Nat) : (s.keepBytes w).has k = s.has k := rfl
@[simp] theorem State.keepBytes_stacksIn (w : Nat → Bool) : (s.keepBytes w).stacksIn = s.stacksIn := rfl
@[simp] theorem State.keepBytes_reg (w : Nat → Bool) (pg : Page) (x : Nat) : (s.keepBytes w).reg pg x = s.reg pg x := rfl
@[simp] theorem State.keepBytes_fld (w : Nat → Bool) (pg : Page) (x y z : Nat) : (s.keepBytes w).fld pg x y z = s.fld pg x y z := rfl
@[simp] theorem State.keepBytes_flag (w : Nat → Bool) (pg : Page) (x y : Nat) : (s.keepBytes w).flag pg x y = s.flag pg x y := rfl
@[simp] theorem State.keepBytes_queue (w : Nat → Bool) (j : Fin 8) (x : Nat) : (s.keepBytes w).queue j x = s.queue j x := rfl
@[simp] theorem State.keepBytes_st (w : Nat → Bool) (j : Fin 8) : (s.keepBytes w).st j = s.st j := rfl

/-! ### modQueue -/

@[simp] theorem State.modQueue_part (i : Fin 8) (q : Nat) (f : Queue → Queue) : (s.modQueue i q f).part = s.part := rfl
@[simp] theorem State.modQueue_free (i : Fin 8) (q : Nat) (f : Queue → Queue) : (s.modQueue i q f).free = s.free := rfl
@[simp] theorem State.modQueue_regs (i : Fin 8) (q : Nat) (f : Queue → Queue) : (s.modQueue i q f).regs = s.regs := rfl
@[simp] theorem State.modQueue_staged (i : Fin 8) (q : Nat) (f : Queue → Queue) : (s.modQueue i q f).staged = s.staged := rfl
@[simp] theorem State.modQueue_latched (i : Fin 8) (q : Nat) (f : Queue → Queue) : (s.modQueue i q f).latched = s.latched := rfl
@[simp] theorem State.modQueue_mem (i : Fin 8) (q : Nat) (f : Queue → Queue) : (s.modQueue i q f).mem = s.mem := rfl
@[simp] theorem State.modQueue_bad (i : Fin 8) (q : Nat) (f : Queue → Queue) : (s.modQueue i q f).bad = s.bad := rfl
@[simp] theorem State.modQueue_stk (i : Fin 8) (q : Nat) (f : Queue → Queue) : (s.modQueue i q f).stk = s.stk := rfl
@[simp] theorem State.modQueue_mod (i : Fin 8) (q : Nat) (f : Queue → Queue) : (s.modQueue i q f).mod = s.mod := rfl
@[simp] theorem State.modQueue_out (i : Fin 8) (q : Nat) (f : Queue → Queue) : (s.modQueue i q f).out = s.out := rfl
@[simp] theorem State.modQueue_pending (i : Fin 8) (q : Nat) (f : Queue → Queue) : (s.modQueue i q f).pending = s.pending := rfl
@[simp] theorem State.modQueue_has (i : Fin 8) (q : Nat) (f : Queue → Queue) (k : Nat) : (s.modQueue i q f).has k = s.has k := rfl
@[simp] theorem State.modQueue_stacksIn (i : Fin 8) (q : Nat) (f : Queue → Queue) : (s.modQueue i q f).stacksIn = s.stacksIn := rfl
@[simp] theorem State.modQueue_reg (i : Fin 8) (q : Nat) (f : Queue → Queue) (pg : Page) (x : Nat) : (s.modQueue i q f).reg pg x = s.reg pg x := rfl
@[simp] theorem State.modQueue_fld (i : Fin 8) (q : Nat) (f : Queue → Queue) (pg : Page) (x y z : Nat) : (s.modQueue i q f).fld pg x y z = s.fld pg x y z := rfl
@[simp] theorem State.modQueue_flag (i : Fin 8) (q : Nat) (f : Queue → Queue) (pg : Page) (x y : Nat) : (s.modQueue i q f).flag pg x y = s.flag pg x y := rfl
@[simp] theorem State.modQueue_byte (i : Fin 8) (q : Nat) (f : Queue → Queue) (x : Nat) : (s.modQueue i q f).byte x = s.byte x := rfl
@[simp] theorem State.modQueue_st (i : Fin 8) (q : Nat) (f : Queue → Queue) (j : Fin 8) : (s.modQueue i q f).st j = s.st j := rfl

/-! ### modSt -/

@[simp] theorem State.modSt_part (i : Fin 8) (f : Stack → Stack) : (s.modSt i f).part = s.part := rfl
@[simp] theorem State.modSt_free (i : Fin 8) (f : Stack → Stack) : (s.modSt i f).free = s.free := rfl
@[simp] theorem State.modSt_regs (i : Fin 8) (f : Stack → Stack) : (s.modSt i f).regs = s.regs := rfl
@[simp] theorem State.modSt_staged (i : Fin 8) (f : Stack → Stack) : (s.modSt i f).staged = s.staged := rfl
@[simp] theorem State.modSt_latched (i : Fin 8) (f : Stack → Stack) : (s.modSt i f).latched = s.latched := rfl
@[simp] theorem State.modSt_mem (i : Fin 8) (f : Stack → Stack) : (s.modSt i f).mem = s.mem := rfl
@[simp] theorem State.modSt_bad (i : Fin 8) (f : Stack → Stack) : (s.modSt i f).bad = s.bad := rfl
@[simp] theorem State.modSt_queues (i : Fin 8) (f : Stack → Stack) : (s.modSt i f).queues = s.queues := rfl
@[simp] theorem State.modSt_mod (i : Fin 8) (f : Stack → Stack) : (s.modSt i f).mod = s.mod := rfl
@[simp] theorem State.modSt_out (i : Fin 8) (f : Stack → Stack) : (s.modSt i f).out = s.out := rfl
@[simp] theorem State.modSt_pending (i : Fin 8) (f : Stack → Stack) : (s.modSt i f).pending = s.pending := rfl
@[simp] theorem State.modSt_has (i : Fin 8) (f : Stack → Stack) (k : Nat) : (s.modSt i f).has k = s.has k := rfl
@[simp] theorem State.modSt_stacksIn (i : Fin 8) (f : Stack → Stack) : (s.modSt i f).stacksIn = s.stacksIn := rfl
@[simp] theorem State.modSt_reg (i : Fin 8) (f : Stack → Stack) (pg : Page) (x : Nat) : (s.modSt i f).reg pg x = s.reg pg x := rfl
@[simp] theorem State.modSt_fld (i : Fin 8) (f : Stack → Stack) (pg : Page) (x y z : Nat) : (s.modSt i f).fld pg x y z = s.fld pg x y z := rfl
@[simp] theorem State.modSt_flag (i : Fin 8) (f : Stack → Stack) (pg : Page) (x y : Nat) : (s.modSt i f).flag pg x y = s.flag pg x y := rfl
@[simp] theorem State.modSt_queue (i : Fin 8) (f : Stack → Stack) (j : Fin 8) (x : Nat) : (s.modSt i f).queue j x = s.queue j x := rfl

/-! ### modClp -/

@[simp] theorem State.modClp_part (i : Fin 8) (f : Clasp → Clasp) : (s.modClp i f).part = s.part := rfl
@[simp] theorem State.modClp_free (i : Fin 8) (f : Clasp → Clasp) : (s.modClp i f).free = s.free := rfl
@[simp] theorem State.modClp_regs (i : Fin 8) (f : Clasp → Clasp) : (s.modClp i f).regs = s.regs := rfl
@[simp] theorem State.modClp_staged (i : Fin 8) (f : Clasp → Clasp) : (s.modClp i f).staged = s.staged := rfl
@[simp] theorem State.modClp_latched (i : Fin 8) (f : Clasp → Clasp) : (s.modClp i f).latched = s.latched := rfl
@[simp] theorem State.modClp_mem (i : Fin 8) (f : Clasp → Clasp) : (s.modClp i f).mem = s.mem := rfl
@[simp] theorem State.modClp_bad (i : Fin 8) (f : Clasp → Clasp) : (s.modClp i f).bad = s.bad := rfl
@[simp] theorem State.modClp_queues (i : Fin 8) (f : Clasp → Clasp) : (s.modClp i f).queues = s.queues := rfl
@[simp] theorem State.modClp_mod (i : Fin 8) (f : Clasp → Clasp) : (s.modClp i f).mod = s.mod := rfl
@[simp] theorem State.modClp_out (i : Fin 8) (f : Clasp → Clasp) : (s.modClp i f).out = s.out := rfl
@[simp] theorem State.modClp_pending (i : Fin 8) (f : Clasp → Clasp) : (s.modClp i f).pending = s.pending := rfl
@[simp] theorem State.modClp_has (i : Fin 8) (f : Clasp → Clasp) (k : Nat) : (s.modClp i f).has k = s.has k := rfl
@[simp] theorem State.modClp_stacksIn (i : Fin 8) (f : Clasp → Clasp) : (s.modClp i f).stacksIn = s.stacksIn := rfl
@[simp] theorem State.modClp_reg (i : Fin 8) (f : Clasp → Clasp) (pg : Page) (x : Nat) : (s.modClp i f).reg pg x = s.reg pg x := rfl
@[simp] theorem State.modClp_fld (i : Fin 8) (f : Clasp → Clasp) (pg : Page) (x y z : Nat) : (s.modClp i f).fld pg x y z = s.fld pg x y z := rfl
@[simp] theorem State.modClp_flag (i : Fin 8) (f : Clasp → Clasp) (pg : Page) (x y : Nat) : (s.modClp i f).flag pg x y = s.flag pg x y := rfl
@[simp] theorem State.modClp_queue (i : Fin 8) (f : Clasp → Clasp) (j : Fin 8) (x : Nat) : (s.modClp i f).queue j x = s.queue j x := rfl

/-! ### modTns -/

@[simp] theorem State.modTns_part (i : Fin 8) (f : Tense → Tense) : (s.modTns i f).part = s.part := rfl
@[simp] theorem State.modTns_free (i : Fin 8) (f : Tense → Tense) : (s.modTns i f).free = s.free := rfl
@[simp] theorem State.modTns_regs (i : Fin 8) (f : Tense → Tense) : (s.modTns i f).regs = s.regs := rfl
@[simp] theorem State.modTns_staged (i : Fin 8) (f : Tense → Tense) : (s.modTns i f).staged = s.staged := rfl
@[simp] theorem State.modTns_latched (i : Fin 8) (f : Tense → Tense) : (s.modTns i f).latched = s.latched := rfl
@[simp] theorem State.modTns_mem (i : Fin 8) (f : Tense → Tense) : (s.modTns i f).mem = s.mem := rfl
@[simp] theorem State.modTns_bad (i : Fin 8) (f : Tense → Tense) : (s.modTns i f).bad = s.bad := rfl
@[simp] theorem State.modTns_queues (i : Fin 8) (f : Tense → Tense) : (s.modTns i f).queues = s.queues := rfl
@[simp] theorem State.modTns_mod (i : Fin 8) (f : Tense → Tense) : (s.modTns i f).mod = s.mod := rfl
@[simp] theorem State.modTns_out (i : Fin 8) (f : Tense → Tense) : (s.modTns i f).out = s.out := rfl
@[simp] theorem State.modTns_pending (i : Fin 8) (f : Tense → Tense) : (s.modTns i f).pending = s.pending := rfl
@[simp] theorem State.modTns_has (i : Fin 8) (f : Tense → Tense) (k : Nat) : (s.modTns i f).has k = s.has k := rfl
@[simp] theorem State.modTns_stacksIn (i : Fin 8) (f : Tense → Tense) : (s.modTns i f).stacksIn = s.stacksIn := rfl
@[simp] theorem State.modTns_reg (i : Fin 8) (f : Tense → Tense) (pg : Page) (x : Nat) : (s.modTns i f).reg pg x = s.reg pg x := rfl
@[simp] theorem State.modTns_fld (i : Fin 8) (f : Tense → Tense) (pg : Page) (x y z : Nat) : (s.modTns i f).fld pg x y z = s.fld pg x y z := rfl
@[simp] theorem State.modTns_flag (i : Fin 8) (f : Tense → Tense) (pg : Page) (x y : Nat) : (s.modTns i f).flag pg x y = s.flag pg x y := rfl
@[simp] theorem State.modTns_queue (i : Fin 8) (f : Tense → Tense) (j : Fin 8) (x : Nat) : (s.modTns i f).queue j x = s.queue j x := rfl

/-! ### modArb -/

@[simp] theorem State.modArb_part (i : Fin 8) (f : Arbiter → Arbiter) : (s.modArb i f).part = s.part := rfl
@[simp] theorem State.modArb_free (i : Fin 8) (f : Arbiter → Arbiter) : (s.modArb i f).free = s.free := rfl
@[simp] theorem State.modArb_regs (i : Fin 8) (f : Arbiter → Arbiter) : (s.modArb i f).regs = s.regs := rfl
@[simp] theorem State.modArb_staged (i : Fin 8) (f : Arbiter → Arbiter) : (s.modArb i f).staged = s.staged := rfl
@[simp] theorem State.modArb_latched (i : Fin 8) (f : Arbiter → Arbiter) : (s.modArb i f).latched = s.latched := rfl
@[simp] theorem State.modArb_mem (i : Fin 8) (f : Arbiter → Arbiter) : (s.modArb i f).mem = s.mem := rfl
@[simp] theorem State.modArb_bad (i : Fin 8) (f : Arbiter → Arbiter) : (s.modArb i f).bad = s.bad := rfl
@[simp] theorem State.modArb_queues (i : Fin 8) (f : Arbiter → Arbiter) : (s.modArb i f).queues = s.queues := rfl
@[simp] theorem State.modArb_mod (i : Fin 8) (f : Arbiter → Arbiter) : (s.modArb i f).mod = s.mod := rfl
@[simp] theorem State.modArb_out (i : Fin 8) (f : Arbiter → Arbiter) : (s.modArb i f).out = s.out := rfl
@[simp] theorem State.modArb_pending (i : Fin 8) (f : Arbiter → Arbiter) : (s.modArb i f).pending = s.pending := rfl
@[simp] theorem State.modArb_has (i : Fin 8) (f : Arbiter → Arbiter) (k : Nat) : (s.modArb i f).has k = s.has k := rfl
@[simp] theorem State.modArb_stacksIn (i : Fin 8) (f : Arbiter → Arbiter) : (s.modArb i f).stacksIn = s.stacksIn := rfl
@[simp] theorem State.modArb_reg (i : Fin 8) (f : Arbiter → Arbiter) (pg : Page) (x : Nat) : (s.modArb i f).reg pg x = s.reg pg x := rfl
@[simp] theorem State.modArb_fld (i : Fin 8) (f : Arbiter → Arbiter) (pg : Page) (x y z : Nat) : (s.modArb i f).fld pg x y z = s.fld pg x y z := rfl
@[simp] theorem State.modArb_flag (i : Fin 8) (f : Arbiter → Arbiter) (pg : Page) (x y : Nat) : (s.modArb i f).flag pg x y = s.flag pg x y := rfl
@[simp] theorem State.modArb_queue (i : Fin 8) (f : Arbiter → Arbiter) (j : Fin 8) (x : Nat) : (s.modArb i f).queue j x = s.queue j x := rfl

/-! ### modPwr -/

@[simp] theorem State.modPwr_part (i : Fin 8) (f : Power → Power) : (s.modPwr i f).part = s.part := rfl
@[simp] theorem State.modPwr_free (i : Fin 8) (f : Power → Power) : (s.modPwr i f).free = s.free := rfl
@[simp] theorem State.modPwr_regs (i : Fin 8) (f : Power → Power) : (s.modPwr i f).regs = s.regs := rfl
@[simp] theorem State.modPwr_staged (i : Fin 8) (f : Power → Power) : (s.modPwr i f).staged = s.staged := rfl
@[simp] theorem State.modPwr_latched (i : Fin 8) (f : Power → Power) : (s.modPwr i f).latched = s.latched := rfl
@[simp] theorem State.modPwr_mem (i : Fin 8) (f : Power → Power) : (s.modPwr i f).mem = s.mem := rfl
@[simp] theorem State.modPwr_bad (i : Fin 8) (f : Power → Power) : (s.modPwr i f).bad = s.bad := rfl
@[simp] theorem State.modPwr_queues (i : Fin 8) (f : Power → Power) : (s.modPwr i f).queues = s.queues := rfl
@[simp] theorem State.modPwr_mod (i : Fin 8) (f : Power → Power) : (s.modPwr i f).mod = s.mod := rfl
@[simp] theorem State.modPwr_out (i : Fin 8) (f : Power → Power) : (s.modPwr i f).out = s.out := rfl
@[simp] theorem State.modPwr_pending (i : Fin 8) (f : Power → Power) : (s.modPwr i f).pending = s.pending := rfl
@[simp] theorem State.modPwr_has (i : Fin 8) (f : Power → Power) (k : Nat) : (s.modPwr i f).has k = s.has k := rfl
@[simp] theorem State.modPwr_stacksIn (i : Fin 8) (f : Power → Power) : (s.modPwr i f).stacksIn = s.stacksIn := rfl
@[simp] theorem State.modPwr_reg (i : Fin 8) (f : Power → Power) (pg : Page) (x : Nat) : (s.modPwr i f).reg pg x = s.reg pg x := rfl
@[simp] theorem State.modPwr_fld (i : Fin 8) (f : Power → Power) (pg : Page) (x y z : Nat) : (s.modPwr i f).fld pg x y z = s.fld pg x y z := rfl
@[simp] theorem State.modPwr_flag (i : Fin 8) (f : Power → Power) (pg : Page) (x y : Nat) : (s.modPwr i f).flag pg x y = s.flag pg x y := rfl
@[simp] theorem State.modPwr_queue (i : Fin 8) (f : Power → Power) (j : Fin 8) (x : Nat) : (s.modPwr i f).queue j x = s.queue j x := rfl

/-! ### modSeq -/

@[simp] theorem State.modSeq_part (i : Fin 8) (n : Fin 4) (f : Seq → Seq) : (s.modSeq i n f).part = s.part := rfl
@[simp] theorem State.modSeq_free (i : Fin 8) (n : Fin 4) (f : Seq → Seq) : (s.modSeq i n f).free = s.free := rfl
@[simp] theorem State.modSeq_regs (i : Fin 8) (n : Fin 4) (f : Seq → Seq) : (s.modSeq i n f).regs = s.regs := rfl
@[simp] theorem State.modSeq_staged (i : Fin 8) (n : Fin 4) (f : Seq → Seq) : (s.modSeq i n f).staged = s.staged := rfl
@[simp] theorem State.modSeq_latched (i : Fin 8) (n : Fin 4) (f : Seq → Seq) : (s.modSeq i n f).latched = s.latched := rfl
@[simp] theorem State.modSeq_mem (i : Fin 8) (n : Fin 4) (f : Seq → Seq) : (s.modSeq i n f).mem = s.mem := rfl
@[simp] theorem State.modSeq_bad (i : Fin 8) (n : Fin 4) (f : Seq → Seq) : (s.modSeq i n f).bad = s.bad := rfl
@[simp] theorem State.modSeq_queues (i : Fin 8) (n : Fin 4) (f : Seq → Seq) : (s.modSeq i n f).queues = s.queues := rfl
@[simp] theorem State.modSeq_mod (i : Fin 8) (n : Fin 4) (f : Seq → Seq) : (s.modSeq i n f).mod = s.mod := rfl
@[simp] theorem State.modSeq_out (i : Fin 8) (n : Fin 4) (f : Seq → Seq) : (s.modSeq i n f).out = s.out := rfl
@[simp] theorem State.modSeq_pending (i : Fin 8) (n : Fin 4) (f : Seq → Seq) : (s.modSeq i n f).pending = s.pending := rfl
@[simp] theorem State.modSeq_has (i : Fin 8) (n : Fin 4) (f : Seq → Seq) (k : Nat) : (s.modSeq i n f).has k = s.has k := rfl
@[simp] theorem State.modSeq_stacksIn (i : Fin 8) (n : Fin 4) (f : Seq → Seq) : (s.modSeq i n f).stacksIn = s.stacksIn := rfl
@[simp] theorem State.modSeq_reg (i : Fin 8) (n : Fin 4) (f : Seq → Seq) (pg : Page) (x : Nat) : (s.modSeq i n f).reg pg x = s.reg pg x := rfl
@[simp] theorem State.modSeq_fld (i : Fin 8) (n : Fin 4) (f : Seq → Seq) (pg : Page) (x y z : Nat) : (s.modSeq i n f).fld pg x y z = s.fld pg x y z := rfl
@[simp] theorem State.modSeq_flag (i : Fin 8) (n : Fin 4) (f : Seq → Seq) (pg : Page) (x y : Nat) : (s.modSeq i n f).flag pg x y = s.flag pg x y := rfl
@[simp] theorem State.modSeq_queue (i : Fin 8) (n : Fin 4) (f : Seq → Seq) (j : Fin 8) (x : Nat) : (s.modSeq i n f).queue j x = s.queue j x := rfl

/-! ### modBox -/

@[simp] theorem State.modBox_part (i : Fin 8) (m : Nat) (f : Mailbox → Mailbox) : (s.modBox i m f).part = s.part := rfl
@[simp] theorem State.modBox_free (i : Fin 8) (m : Nat) (f : Mailbox → Mailbox) : (s.modBox i m f).free = s.free := rfl
@[simp] theorem State.modBox_regs (i : Fin 8) (m : Nat) (f : Mailbox → Mailbox) : (s.modBox i m f).regs = s.regs := rfl
@[simp] theorem State.modBox_staged (i : Fin 8) (m : Nat) (f : Mailbox → Mailbox) : (s.modBox i m f).staged = s.staged := rfl
@[simp] theorem State.modBox_latched (i : Fin 8) (m : Nat) (f : Mailbox → Mailbox) : (s.modBox i m f).latched = s.latched := rfl
@[simp] theorem State.modBox_mem (i : Fin 8) (m : Nat) (f : Mailbox → Mailbox) : (s.modBox i m f).mem = s.mem := rfl
@[simp] theorem State.modBox_bad (i : Fin 8) (m : Nat) (f : Mailbox → Mailbox) : (s.modBox i m f).bad = s.bad := rfl
@[simp] theorem State.modBox_queues (i : Fin 8) (m : Nat) (f : Mailbox → Mailbox) : (s.modBox i m f).queues = s.queues := rfl
@[simp] theorem State.modBox_mod (i : Fin 8) (m : Nat) (f : Mailbox → Mailbox) : (s.modBox i m f).mod = s.mod := rfl
@[simp] theorem State.modBox_out (i : Fin 8) (m : Nat) (f : Mailbox → Mailbox) : (s.modBox i m f).out = s.out := rfl
@[simp] theorem State.modBox_pending (i : Fin 8) (m : Nat) (f : Mailbox → Mailbox) : (s.modBox i m f).pending = s.pending := rfl
@[simp] theorem State.modBox_has (i : Fin 8) (m : Nat) (f : Mailbox → Mailbox) (k : Nat) : (s.modBox i m f).has k = s.has k := rfl
@[simp] theorem State.modBox_stacksIn (i : Fin 8) (m : Nat) (f : Mailbox → Mailbox) : (s.modBox i m f).stacksIn = s.stacksIn := rfl
@[simp] theorem State.modBox_reg (i : Fin 8) (m : Nat) (f : Mailbox → Mailbox) (pg : Page) (x : Nat) : (s.modBox i m f).reg pg x = s.reg pg x := rfl
@[simp] theorem State.modBox_fld (i : Fin 8) (m : Nat) (f : Mailbox → Mailbox) (pg : Page) (x y z : Nat) : (s.modBox i m f).fld pg x y z = s.fld pg x y z := rfl
@[simp] theorem State.modBox_flag (i : Fin 8) (m : Nat) (f : Mailbox → Mailbox) (pg : Page) (x y : Nat) : (s.modBox i m f).flag pg x y = s.flag pg x y := rfl
@[simp] theorem State.modBox_queue (i : Fin 8) (m : Nat) (f : Mailbox → Mailbox) (j : Fin 8) (x : Nat) : (s.modBox i m f).queue j x = s.queue j x := rfl

/-! ### modCore -/

@[simp] theorem State.modCore_part (i : Fin 8) (c : Nat) (f : Core → Core) : (s.modCore i c f).part = s.part := rfl
@[simp] theorem State.modCore_free (i : Fin 8) (c : Nat) (f : Core → Core) : (s.modCore i c f).free = s.free := rfl
@[simp] theorem State.modCore_regs (i : Fin 8) (c : Nat) (f : Core → Core) : (s.modCore i c f).regs = s.regs := rfl
@[simp] theorem State.modCore_staged (i : Fin 8) (c : Nat) (f : Core → Core) : (s.modCore i c f).staged = s.staged := rfl
@[simp] theorem State.modCore_latched (i : Fin 8) (c : Nat) (f : Core → Core) : (s.modCore i c f).latched = s.latched := rfl
@[simp] theorem State.modCore_mem (i : Fin 8) (c : Nat) (f : Core → Core) : (s.modCore i c f).mem = s.mem := rfl
@[simp] theorem State.modCore_bad (i : Fin 8) (c : Nat) (f : Core → Core) : (s.modCore i c f).bad = s.bad := rfl
@[simp] theorem State.modCore_queues (i : Fin 8) (c : Nat) (f : Core → Core) : (s.modCore i c f).queues = s.queues := rfl
@[simp] theorem State.modCore_mod (i : Fin 8) (c : Nat) (f : Core → Core) : (s.modCore i c f).mod = s.mod := rfl
@[simp] theorem State.modCore_out (i : Fin 8) (c : Nat) (f : Core → Core) : (s.modCore i c f).out = s.out := rfl
@[simp] theorem State.modCore_pending (i : Fin 8) (c : Nat) (f : Core → Core) : (s.modCore i c f).pending = s.pending := rfl
@[simp] theorem State.modCore_has (i : Fin 8) (c : Nat) (f : Core → Core) (k : Nat) : (s.modCore i c f).has k = s.has k := rfl
@[simp] theorem State.modCore_stacksIn (i : Fin 8) (c : Nat) (f : Core → Core) : (s.modCore i c f).stacksIn = s.stacksIn := rfl
@[simp] theorem State.modCore_reg (i : Fin 8) (c : Nat) (f : Core → Core) (pg : Page) (x : Nat) : (s.modCore i c f).reg pg x = s.reg pg x := rfl
@[simp] theorem State.modCore_fld (i : Fin 8) (c : Nat) (f : Core → Core) (pg : Page) (x y z : Nat) : (s.modCore i c f).fld pg x y z = s.fld pg x y z := rfl
@[simp] theorem State.modCore_flag (i : Fin 8) (c : Nat) (f : Core → Core) (pg : Page) (x y : Nat) : (s.modCore i c f).flag pg x y = s.flag pg x y := rfl
@[simp] theorem State.modCore_queue (i : Fin 8) (c : Nat) (f : Core → Core) (j : Fin 8) (x : Nat) : (s.modCore i c f).queue j x = s.queue j x := rfl

/-! ### modKeys -/

@[simp] theorem State.modKeys_part (i : Fin 8) (f : Keys → Keys) : (s.modKeys i f).part = s.part := rfl
@[simp] theorem State.modKeys_free (i : Fin 8) (f : Keys → Keys) : (s.modKeys i f).free = s.free := rfl
@[simp] theorem State.modKeys_regs (i : Fin 8) (f : Keys → Keys) : (s.modKeys i f).regs = s.regs := rfl
@[simp] theorem State.modKeys_staged (i : Fin 8) (f : Keys → Keys) : (s.modKeys i f).staged = s.staged := rfl
@[simp] theorem State.modKeys_latched (i : Fin 8) (f : Keys → Keys) : (s.modKeys i f).latched = s.latched := rfl
@[simp] theorem State.modKeys_mem (i : Fin 8) (f : Keys → Keys) : (s.modKeys i f).mem = s.mem := rfl
@[simp] theorem State.modKeys_bad (i : Fin 8) (f : Keys → Keys) : (s.modKeys i f).bad = s.bad := rfl
@[simp] theorem State.modKeys_queues (i : Fin 8) (f : Keys → Keys) : (s.modKeys i f).queues = s.queues := rfl
@[simp] theorem State.modKeys_mod (i : Fin 8) (f : Keys → Keys) : (s.modKeys i f).mod = s.mod := rfl
@[simp] theorem State.modKeys_out (i : Fin 8) (f : Keys → Keys) : (s.modKeys i f).out = s.out := rfl
@[simp] theorem State.modKeys_pending (i : Fin 8) (f : Keys → Keys) : (s.modKeys i f).pending = s.pending := rfl
@[simp] theorem State.modKeys_has (i : Fin 8) (f : Keys → Keys) (k : Nat) : (s.modKeys i f).has k = s.has k := rfl
@[simp] theorem State.modKeys_stacksIn (i : Fin 8) (f : Keys → Keys) : (s.modKeys i f).stacksIn = s.stacksIn := rfl
@[simp] theorem State.modKeys_reg (i : Fin 8) (f : Keys → Keys) (pg : Page) (x : Nat) : (s.modKeys i f).reg pg x = s.reg pg x := rfl
@[simp] theorem State.modKeys_fld (i : Fin 8) (f : Keys → Keys) (pg : Page) (x y z : Nat) : (s.modKeys i f).fld pg x y z = s.fld pg x y z := rfl
@[simp] theorem State.modKeys_flag (i : Fin 8) (f : Keys → Keys) (pg : Page) (x y : Nat) : (s.modKeys i f).flag pg x y = s.flag pg x y := rfl
@[simp] theorem State.modKeys_queue (i : Fin 8) (f : Keys → Keys) (j : Fin 8) (x : Nat) : (s.modKeys i f).queue j x = s.queue j x := rfl

/-! ### modRegion -/

@[simp] theorem State.modRegion_part (i : Fin 8) (n : Nat) (f : Region → Region) : (s.modRegion i n f).part = s.part := rfl
@[simp] theorem State.modRegion_free (i : Fin 8) (n : Nat) (f : Region → Region) : (s.modRegion i n f).free = s.free := rfl
@[simp] theorem State.modRegion_regs (i : Fin 8) (n : Nat) (f : Region → Region) : (s.modRegion i n f).regs = s.regs := rfl
@[simp] theorem State.modRegion_staged (i : Fin 8) (n : Nat) (f : Region → Region) : (s.modRegion i n f).staged = s.staged := rfl
@[simp] theorem State.modRegion_latched (i : Fin 8) (n : Nat) (f : Region → Region) : (s.modRegion i n f).latched = s.latched := rfl
@[simp] theorem State.modRegion_mem (i : Fin 8) (n : Nat) (f : Region → Region) : (s.modRegion i n f).mem = s.mem := rfl
@[simp] theorem State.modRegion_bad (i : Fin 8) (n : Nat) (f : Region → Region) : (s.modRegion i n f).bad = s.bad := rfl
@[simp] theorem State.modRegion_queues (i : Fin 8) (n : Nat) (f : Region → Region) : (s.modRegion i n f).queues = s.queues := rfl
@[simp] theorem State.modRegion_mod (i : Fin 8) (n : Nat) (f : Region → Region) : (s.modRegion i n f).mod = s.mod := rfl
@[simp] theorem State.modRegion_out (i : Fin 8) (n : Nat) (f : Region → Region) : (s.modRegion i n f).out = s.out := rfl
@[simp] theorem State.modRegion_pending (i : Fin 8) (n : Nat) (f : Region → Region) : (s.modRegion i n f).pending = s.pending := rfl
@[simp] theorem State.modRegion_has (i : Fin 8) (n : Nat) (f : Region → Region) (k : Nat) : (s.modRegion i n f).has k = s.has k := rfl
@[simp] theorem State.modRegion_stacksIn (i : Fin 8) (n : Nat) (f : Region → Region) : (s.modRegion i n f).stacksIn = s.stacksIn := rfl
@[simp] theorem State.modRegion_reg (i : Fin 8) (n : Nat) (f : Region → Region) (pg : Page) (x : Nat) : (s.modRegion i n f).reg pg x = s.reg pg x := rfl
@[simp] theorem State.modRegion_fld (i : Fin 8) (n : Nat) (f : Region → Region) (pg : Page) (x y z : Nat) : (s.modRegion i n f).fld pg x y z = s.fld pg x y z := rfl
@[simp] theorem State.modRegion_flag (i : Fin 8) (n : Nat) (f : Region → Region) (pg : Page) (x y : Nat) : (s.modRegion i n f).flag pg x y = s.flag pg x y := rfl
@[simp] theorem State.modRegion_queue (i : Fin 8) (n : Nat) (f : Region → Region) (j : Fin 8) (x : Nat) : (s.modRegion i n f).queue j x = s.queue j x := rfl

/-! ### modSess -/

@[simp] theorem State.modSess_part (i : Fin 8) (c : Nat) (f : Session → Session) : (s.modSess i c f).part = s.part := rfl
@[simp] theorem State.modSess_free (i : Fin 8) (c : Nat) (f : Session → Session) : (s.modSess i c f).free = s.free := rfl
@[simp] theorem State.modSess_regs (i : Fin 8) (c : Nat) (f : Session → Session) : (s.modSess i c f).regs = s.regs := rfl
@[simp] theorem State.modSess_staged (i : Fin 8) (c : Nat) (f : Session → Session) : (s.modSess i c f).staged = s.staged := rfl
@[simp] theorem State.modSess_latched (i : Fin 8) (c : Nat) (f : Session → Session) : (s.modSess i c f).latched = s.latched := rfl
@[simp] theorem State.modSess_mem (i : Fin 8) (c : Nat) (f : Session → Session) : (s.modSess i c f).mem = s.mem := rfl
@[simp] theorem State.modSess_bad (i : Fin 8) (c : Nat) (f : Session → Session) : (s.modSess i c f).bad = s.bad := rfl
@[simp] theorem State.modSess_queues (i : Fin 8) (c : Nat) (f : Session → Session) : (s.modSess i c f).queues = s.queues := rfl
@[simp] theorem State.modSess_mod (i : Fin 8) (c : Nat) (f : Session → Session) : (s.modSess i c f).mod = s.mod := rfl
@[simp] theorem State.modSess_out (i : Fin 8) (c : Nat) (f : Session → Session) : (s.modSess i c f).out = s.out := rfl
@[simp] theorem State.modSess_pending (i : Fin 8) (c : Nat) (f : Session → Session) : (s.modSess i c f).pending = s.pending := rfl
@[simp] theorem State.modSess_has (i : Fin 8) (c : Nat) (f : Session → Session) (k : Nat) : (s.modSess i c f).has k = s.has k := rfl
@[simp] theorem State.modSess_stacksIn (i : Fin 8) (c : Nat) (f : Session → Session) : (s.modSess i c f).stacksIn = s.stacksIn := rfl
@[simp] theorem State.modSess_reg (i : Fin 8) (c : Nat) (f : Session → Session) (pg : Page) (x : Nat) : (s.modSess i c f).reg pg x = s.reg pg x := rfl
@[simp] theorem State.modSess_fld (i : Fin 8) (c : Nat) (f : Session → Session) (pg : Page) (x y z : Nat) : (s.modSess i c f).fld pg x y z = s.fld pg x y z := rfl
@[simp] theorem State.modSess_flag (i : Fin 8) (c : Nat) (f : Session → Session) (pg : Page) (x y : Nat) : (s.modSess i c f).flag pg x y = s.flag pg x y := rfl
@[simp] theorem State.modSess_queue (i : Fin 8) (c : Nat) (f : Session → Session) (j : Fin 8) (x : Nat) : (s.modSess i c f).queue j x = s.queue j x := rfl

/-! ### modChan -/

@[simp] theorem State.modChan_part (i : Fin 8) (c : Nat) (f : Channel → Channel) : (s.modChan i c f).part = s.part := rfl
@[simp] theorem State.modChan_free (i : Fin 8) (c : Nat) (f : Channel → Channel) : (s.modChan i c f).free = s.free := rfl
@[simp] theorem State.modChan_regs (i : Fin 8) (c : Nat) (f : Channel → Channel) : (s.modChan i c f).regs = s.regs := rfl
@[simp] theorem State.modChan_staged (i : Fin 8) (c : Nat) (f : Channel → Channel) : (s.modChan i c f).staged = s.staged := rfl
@[simp] theorem State.modChan_latched (i : Fin 8) (c : Nat) (f : Channel → Channel) : (s.modChan i c f).latched = s.latched := rfl
@[simp] theorem State.modChan_mem (i : Fin 8) (c : Nat) (f : Channel → Channel) : (s.modChan i c f).mem = s.mem := rfl
@[simp] theorem State.modChan_bad (i : Fin 8) (c : Nat) (f : Channel → Channel) : (s.modChan i c f).bad = s.bad := rfl
@[simp] theorem State.modChan_queues (i : Fin 8) (c : Nat) (f : Channel → Channel) : (s.modChan i c f).queues = s.queues := rfl
@[simp] theorem State.modChan_mod (i : Fin 8) (c : Nat) (f : Channel → Channel) : (s.modChan i c f).mod = s.mod := rfl
@[simp] theorem State.modChan_out (i : Fin 8) (c : Nat) (f : Channel → Channel) : (s.modChan i c f).out = s.out := rfl
@[simp] theorem State.modChan_pending (i : Fin 8) (c : Nat) (f : Channel → Channel) : (s.modChan i c f).pending = s.pending := rfl
@[simp] theorem State.modChan_has (i : Fin 8) (c : Nat) (f : Channel → Channel) (k : Nat) : (s.modChan i c f).has k = s.has k := rfl
@[simp] theorem State.modChan_stacksIn (i : Fin 8) (c : Nat) (f : Channel → Channel) : (s.modChan i c f).stacksIn = s.stacksIn := rfl
@[simp] theorem State.modChan_reg (i : Fin 8) (c : Nat) (f : Channel → Channel) (pg : Page) (x : Nat) : (s.modChan i c f).reg pg x = s.reg pg x := rfl
@[simp] theorem State.modChan_fld (i : Fin 8) (c : Nat) (f : Channel → Channel) (pg : Page) (x y z : Nat) : (s.modChan i c f).fld pg x y z = s.fld pg x y z := rfl
@[simp] theorem State.modChan_flag (i : Fin 8) (c : Nat) (f : Channel → Channel) (pg : Page) (x y : Nat) : (s.modChan i c f).flag pg x y = s.flag pg x y := rfl
@[simp] theorem State.modChan_queue (i : Fin 8) (c : Nat) (f : Channel → Channel) (j : Fin 8) (x : Nat) : (s.modChan i c f).queue j x = s.queue j x := rfl

/-! ### modCkpt -/

@[simp] theorem State.modCkpt_part (i : Fin 8) (f : Ckpt → Ckpt) : (s.modCkpt i f).part = s.part := rfl
@[simp] theorem State.modCkpt_free (i : Fin 8) (f : Ckpt → Ckpt) : (s.modCkpt i f).free = s.free := rfl
@[simp] theorem State.modCkpt_regs (i : Fin 8) (f : Ckpt → Ckpt) : (s.modCkpt i f).regs = s.regs := rfl
@[simp] theorem State.modCkpt_staged (i : Fin 8) (f : Ckpt → Ckpt) : (s.modCkpt i f).staged = s.staged := rfl
@[simp] theorem State.modCkpt_latched (i : Fin 8) (f : Ckpt → Ckpt) : (s.modCkpt i f).latched = s.latched := rfl
@[simp] theorem State.modCkpt_mem (i : Fin 8) (f : Ckpt → Ckpt) : (s.modCkpt i f).mem = s.mem := rfl
@[simp] theorem State.modCkpt_bad (i : Fin 8) (f : Ckpt → Ckpt) : (s.modCkpt i f).bad = s.bad := rfl
@[simp] theorem State.modCkpt_queues (i : Fin 8) (f : Ckpt → Ckpt) : (s.modCkpt i f).queues = s.queues := rfl
@[simp] theorem State.modCkpt_mod (i : Fin 8) (f : Ckpt → Ckpt) : (s.modCkpt i f).mod = s.mod := rfl
@[simp] theorem State.modCkpt_out (i : Fin 8) (f : Ckpt → Ckpt) : (s.modCkpt i f).out = s.out := rfl
@[simp] theorem State.modCkpt_pending (i : Fin 8) (f : Ckpt → Ckpt) : (s.modCkpt i f).pending = s.pending := rfl
@[simp] theorem State.modCkpt_has (i : Fin 8) (f : Ckpt → Ckpt) (k : Nat) : (s.modCkpt i f).has k = s.has k := rfl
@[simp] theorem State.modCkpt_stacksIn (i : Fin 8) (f : Ckpt → Ckpt) : (s.modCkpt i f).stacksIn = s.stacksIn := rfl
@[simp] theorem State.modCkpt_reg (i : Fin 8) (f : Ckpt → Ckpt) (pg : Page) (x : Nat) : (s.modCkpt i f).reg pg x = s.reg pg x := rfl
@[simp] theorem State.modCkpt_fld (i : Fin 8) (f : Ckpt → Ckpt) (pg : Page) (x y z : Nat) : (s.modCkpt i f).fld pg x y z = s.fld pg x y z := rfl
@[simp] theorem State.modCkpt_flag (i : Fin 8) (f : Ckpt → Ckpt) (pg : Page) (x y : Nat) : (s.modCkpt i f).flag pg x y = s.flag pg x y := rfl
@[simp] theorem State.modCkpt_queue (i : Fin 8) (f : Ckpt → Ckpt) (j : Fin 8) (x : Nat) : (s.modCkpt i f).queue j x = s.queue j x := rfl

/-! ### modFil -/

@[simp] theorem State.modFil_part (i : Fin 8) (f : Filigree → Filigree) : (s.modFil i f).part = s.part := rfl
@[simp] theorem State.modFil_free (i : Fin 8) (f : Filigree → Filigree) : (s.modFil i f).free = s.free := rfl
@[simp] theorem State.modFil_regs (i : Fin 8) (f : Filigree → Filigree) : (s.modFil i f).regs = s.regs := rfl
@[simp] theorem State.modFil_staged (i : Fin 8) (f : Filigree → Filigree) : (s.modFil i f).staged = s.staged := rfl
@[simp] theorem State.modFil_latched (i : Fin 8) (f : Filigree → Filigree) : (s.modFil i f).latched = s.latched := rfl
@[simp] theorem State.modFil_mem (i : Fin 8) (f : Filigree → Filigree) : (s.modFil i f).mem = s.mem := rfl
@[simp] theorem State.modFil_bad (i : Fin 8) (f : Filigree → Filigree) : (s.modFil i f).bad = s.bad := rfl
@[simp] theorem State.modFil_queues (i : Fin 8) (f : Filigree → Filigree) : (s.modFil i f).queues = s.queues := rfl
@[simp] theorem State.modFil_mod (i : Fin 8) (f : Filigree → Filigree) : (s.modFil i f).mod = s.mod := rfl
@[simp] theorem State.modFil_out (i : Fin 8) (f : Filigree → Filigree) : (s.modFil i f).out = s.out := rfl
@[simp] theorem State.modFil_pending (i : Fin 8) (f : Filigree → Filigree) : (s.modFil i f).pending = s.pending := rfl
@[simp] theorem State.modFil_has (i : Fin 8) (f : Filigree → Filigree) (k : Nat) : (s.modFil i f).has k = s.has k := rfl
@[simp] theorem State.modFil_stacksIn (i : Fin 8) (f : Filigree → Filigree) : (s.modFil i f).stacksIn = s.stacksIn := rfl
@[simp] theorem State.modFil_reg (i : Fin 8) (f : Filigree → Filigree) (pg : Page) (x : Nat) : (s.modFil i f).reg pg x = s.reg pg x := rfl
@[simp] theorem State.modFil_fld (i : Fin 8) (f : Filigree → Filigree) (pg : Page) (x y z : Nat) : (s.modFil i f).fld pg x y z = s.fld pg x y z := rfl
@[simp] theorem State.modFil_flag (i : Fin 8) (f : Filigree → Filigree) (pg : Page) (x y : Nat) : (s.modFil i f).flag pg x y = s.flag pg x y := rfl
@[simp] theorem State.modFil_queue (i : Fin 8) (f : Filigree → Filigree) (j : Fin 8) (x : Nat) : (s.modFil i f).queue j x = s.queue j x := rfl

/-! ### modHot -/

@[simp] theorem State.modHot_part (i : Fin 8) (f : HotSet → HotSet) : (s.modHot i f).part = s.part := rfl
@[simp] theorem State.modHot_free (i : Fin 8) (f : HotSet → HotSet) : (s.modHot i f).free = s.free := rfl
@[simp] theorem State.modHot_regs (i : Fin 8) (f : HotSet → HotSet) : (s.modHot i f).regs = s.regs := rfl
@[simp] theorem State.modHot_staged (i : Fin 8) (f : HotSet → HotSet) : (s.modHot i f).staged = s.staged := rfl
@[simp] theorem State.modHot_latched (i : Fin 8) (f : HotSet → HotSet) : (s.modHot i f).latched = s.latched := rfl
@[simp] theorem State.modHot_mem (i : Fin 8) (f : HotSet → HotSet) : (s.modHot i f).mem = s.mem := rfl
@[simp] theorem State.modHot_bad (i : Fin 8) (f : HotSet → HotSet) : (s.modHot i f).bad = s.bad := rfl
@[simp] theorem State.modHot_queues (i : Fin 8) (f : HotSet → HotSet) : (s.modHot i f).queues = s.queues := rfl
@[simp] theorem State.modHot_mod (i : Fin 8) (f : HotSet → HotSet) : (s.modHot i f).mod = s.mod := rfl
@[simp] theorem State.modHot_out (i : Fin 8) (f : HotSet → HotSet) : (s.modHot i f).out = s.out := rfl
@[simp] theorem State.modHot_pending (i : Fin 8) (f : HotSet → HotSet) : (s.modHot i f).pending = s.pending := rfl
@[simp] theorem State.modHot_has (i : Fin 8) (f : HotSet → HotSet) (k : Nat) : (s.modHot i f).has k = s.has k := rfl
@[simp] theorem State.modHot_stacksIn (i : Fin 8) (f : HotSet → HotSet) : (s.modHot i f).stacksIn = s.stacksIn := rfl
@[simp] theorem State.modHot_reg (i : Fin 8) (f : HotSet → HotSet) (pg : Page) (x : Nat) : (s.modHot i f).reg pg x = s.reg pg x := rfl
@[simp] theorem State.modHot_fld (i : Fin 8) (f : HotSet → HotSet) (pg : Page) (x y z : Nat) : (s.modHot i f).fld pg x y z = s.fld pg x y z := rfl
@[simp] theorem State.modHot_flag (i : Fin 8) (f : HotSet → HotSet) (pg : Page) (x y : Nat) : (s.modHot i f).flag pg x y = s.flag pg x y := rfl
@[simp] theorem State.modHot_queue (i : Fin 8) (f : HotSet → HotSet) (j : Fin 8) (x : Nat) : (s.modHot i f).queue j x = s.queue j x := rfl

/-! ### modPm -/

@[simp] theorem State.modPm_part (f : PowerModule → PowerModule) : (s.modPm f).part = s.part := rfl
@[simp] theorem State.modPm_free (f : PowerModule → PowerModule) : (s.modPm f).free = s.free := rfl
@[simp] theorem State.modPm_regs (f : PowerModule → PowerModule) : (s.modPm f).regs = s.regs := rfl
@[simp] theorem State.modPm_staged (f : PowerModule → PowerModule) : (s.modPm f).staged = s.staged := rfl
@[simp] theorem State.modPm_latched (f : PowerModule → PowerModule) : (s.modPm f).latched = s.latched := rfl
@[simp] theorem State.modPm_mem (f : PowerModule → PowerModule) : (s.modPm f).mem = s.mem := rfl
@[simp] theorem State.modPm_bad (f : PowerModule → PowerModule) : (s.modPm f).bad = s.bad := rfl
@[simp] theorem State.modPm_queues (f : PowerModule → PowerModule) : (s.modPm f).queues = s.queues := rfl
@[simp] theorem State.modPm_stk (f : PowerModule → PowerModule) : (s.modPm f).stk = s.stk := rfl
@[simp] theorem State.modPm_out (f : PowerModule → PowerModule) : (s.modPm f).out = s.out := rfl
@[simp] theorem State.modPm_pending (f : PowerModule → PowerModule) : (s.modPm f).pending = s.pending := rfl
@[simp] theorem State.modPm_has (f : PowerModule → PowerModule) (k : Nat) : (s.modPm f).has k = s.has k := rfl
@[simp] theorem State.modPm_stacksIn (f : PowerModule → PowerModule) : (s.modPm f).stacksIn = s.stacksIn := rfl
@[simp] theorem State.modPm_reg (f : PowerModule → PowerModule) (pg : Page) (x : Nat) : (s.modPm f).reg pg x = s.reg pg x := rfl
@[simp] theorem State.modPm_fld (f : PowerModule → PowerModule) (pg : Page) (x y z : Nat) : (s.modPm f).fld pg x y z = s.fld pg x y z := rfl
@[simp] theorem State.modPm_flag (f : PowerModule → PowerModule) (pg : Page) (x y : Nat) : (s.modPm f).flag pg x y = s.flag pg x y := rfl
@[simp] theorem State.modPm_queue (f : PowerModule → PowerModule) (j : Fin 8) (x : Nat) : (s.modPm f).queue j x = s.queue j x := rfl
@[simp] theorem State.modPm_byte (f : PowerModule → PowerModule) (x : Nat) : (s.modPm f).byte x = s.byte x := rfl
@[simp] theorem State.modPm_st (f : PowerModule → PowerModule) (j : Fin 8) : (s.modPm f).st j = s.st j := rfl

/-! ### modLkt -/

@[simp] theorem State.modLkt_part (f : Locket → Locket) : (s.modLkt f).part = s.part := rfl
@[simp] theorem State.modLkt_free (f : Locket → Locket) : (s.modLkt f).free = s.free := rfl
@[simp] theorem State.modLkt_regs (f : Locket → Locket) : (s.modLkt f).regs = s.regs := rfl
@[simp] theorem State.modLkt_staged (f : Locket → Locket) : (s.modLkt f).staged = s.staged := rfl
@[simp] theorem State.modLkt_latched (f : Locket → Locket) : (s.modLkt f).latched = s.latched := rfl
@[simp] theorem State.modLkt_mem (f : Locket → Locket) : (s.modLkt f).mem = s.mem := rfl
@[simp] theorem State.modLkt_bad (f : Locket → Locket) : (s.modLkt f).bad = s.bad := rfl
@[simp] theorem State.modLkt_queues (f : Locket → Locket) : (s.modLkt f).queues = s.queues := rfl
@[simp] theorem State.modLkt_stk (f : Locket → Locket) : (s.modLkt f).stk = s.stk := rfl
@[simp] theorem State.modLkt_out (f : Locket → Locket) : (s.modLkt f).out = s.out := rfl
@[simp] theorem State.modLkt_pending (f : Locket → Locket) : (s.modLkt f).pending = s.pending := rfl
@[simp] theorem State.modLkt_has (f : Locket → Locket) (k : Nat) : (s.modLkt f).has k = s.has k := rfl
@[simp] theorem State.modLkt_stacksIn (f : Locket → Locket) : (s.modLkt f).stacksIn = s.stacksIn := rfl
@[simp] theorem State.modLkt_reg (f : Locket → Locket) (pg : Page) (x : Nat) : (s.modLkt f).reg pg x = s.reg pg x := rfl
@[simp] theorem State.modLkt_fld (f : Locket → Locket) (pg : Page) (x y z : Nat) : (s.modLkt f).fld pg x y z = s.fld pg x y z := rfl
@[simp] theorem State.modLkt_flag (f : Locket → Locket) (pg : Page) (x y : Nat) : (s.modLkt f).flag pg x y = s.flag pg x y := rfl
@[simp] theorem State.modLkt_queue (f : Locket → Locket) (j : Fin 8) (x : Nat) : (s.modLkt f).queue j x = s.queue j x := rfl
@[simp] theorem State.modLkt_byte (f : Locket → Locket) (x : Nat) : (s.modLkt f).byte x = s.byte x := rfl
@[simp] theorem State.modLkt_st (f : Locket → Locket) (j : Fin 8) : (s.modLkt f).st j = s.st j := rfl

/-! ### modBzl -/

@[simp] theorem State.modBzl_part (f : Bezel → Bezel) : (s.modBzl f).part = s.part := rfl
@[simp] theorem State.modBzl_free (f : Bezel → Bezel) : (s.modBzl f).free = s.free := rfl
@[simp] theorem State.modBzl_regs (f : Bezel → Bezel) : (s.modBzl f).regs = s.regs := rfl
@[simp] theorem State.modBzl_staged (f : Bezel → Bezel) : (s.modBzl f).staged = s.staged := rfl
@[simp] theorem State.modBzl_latched (f : Bezel → Bezel) : (s.modBzl f).latched = s.latched := rfl
@[simp] theorem State.modBzl_mem (f : Bezel → Bezel) : (s.modBzl f).mem = s.mem := rfl
@[simp] theorem State.modBzl_bad (f : Bezel → Bezel) : (s.modBzl f).bad = s.bad := rfl
@[simp] theorem State.modBzl_queues (f : Bezel → Bezel) : (s.modBzl f).queues = s.queues := rfl
@[simp] theorem State.modBzl_stk (f : Bezel → Bezel) : (s.modBzl f).stk = s.stk := rfl
@[simp] theorem State.modBzl_out (f : Bezel → Bezel) : (s.modBzl f).out = s.out := rfl
@[simp] theorem State.modBzl_pending (f : Bezel → Bezel) : (s.modBzl f).pending = s.pending := rfl
@[simp] theorem State.modBzl_has (f : Bezel → Bezel) (k : Nat) : (s.modBzl f).has k = s.has k := rfl
@[simp] theorem State.modBzl_stacksIn (f : Bezel → Bezel) : (s.modBzl f).stacksIn = s.stacksIn := rfl
@[simp] theorem State.modBzl_reg (f : Bezel → Bezel) (pg : Page) (x : Nat) : (s.modBzl f).reg pg x = s.reg pg x := rfl
@[simp] theorem State.modBzl_fld (f : Bezel → Bezel) (pg : Page) (x y z : Nat) : (s.modBzl f).fld pg x y z = s.fld pg x y z := rfl
@[simp] theorem State.modBzl_flag (f : Bezel → Bezel) (pg : Page) (x y : Nat) : (s.modBzl f).flag pg x y = s.flag pg x y := rfl
@[simp] theorem State.modBzl_queue (f : Bezel → Bezel) (j : Fin 8) (x : Nat) : (s.modBzl f).queue j x = s.queue j x := rfl
@[simp] theorem State.modBzl_byte (f : Bezel → Bezel) (x : Nat) : (s.modBzl f).byte x = s.byte x := rfl
@[simp] theorem State.modBzl_st (f : Bezel → Bezel) (j : Fin 8) : (s.modBzl f).st j = s.st j := rfl

/-! ### modCal -/

@[simp] theorem State.modCal_part (f : Cal → Cal) : (s.modCal f).part = s.part := rfl
@[simp] theorem State.modCal_free (f : Cal → Cal) : (s.modCal f).free = s.free := rfl
@[simp] theorem State.modCal_regs (f : Cal → Cal) : (s.modCal f).regs = s.regs := rfl
@[simp] theorem State.modCal_staged (f : Cal → Cal) : (s.modCal f).staged = s.staged := rfl
@[simp] theorem State.modCal_latched (f : Cal → Cal) : (s.modCal f).latched = s.latched := rfl
@[simp] theorem State.modCal_mem (f : Cal → Cal) : (s.modCal f).mem = s.mem := rfl
@[simp] theorem State.modCal_bad (f : Cal → Cal) : (s.modCal f).bad = s.bad := rfl
@[simp] theorem State.modCal_queues (f : Cal → Cal) : (s.modCal f).queues = s.queues := rfl
@[simp] theorem State.modCal_stk (f : Cal → Cal) : (s.modCal f).stk = s.stk := rfl
@[simp] theorem State.modCal_out (f : Cal → Cal) : (s.modCal f).out = s.out := rfl
@[simp] theorem State.modCal_pending (f : Cal → Cal) : (s.modCal f).pending = s.pending := rfl
@[simp] theorem State.modCal_has (f : Cal → Cal) (k : Nat) : (s.modCal f).has k = s.has k := rfl
@[simp] theorem State.modCal_stacksIn (f : Cal → Cal) : (s.modCal f).stacksIn = s.stacksIn := rfl
@[simp] theorem State.modCal_reg (f : Cal → Cal) (pg : Page) (x : Nat) : (s.modCal f).reg pg x = s.reg pg x := rfl
@[simp] theorem State.modCal_fld (f : Cal → Cal) (pg : Page) (x y z : Nat) : (s.modCal f).fld pg x y z = s.fld pg x y z := rfl
@[simp] theorem State.modCal_flag (f : Cal → Cal) (pg : Page) (x y : Nat) : (s.modCal f).flag pg x y = s.flag pg x y := rfl
@[simp] theorem State.modCal_queue (f : Cal → Cal) (j : Fin 8) (x : Nat) : (s.modCal f).queue j x = s.queue j x := rfl
@[simp] theorem State.modCal_byte (f : Cal → Cal) (x : Nat) : (s.modCal f).byte x = s.byte x := rfl
@[simp] theorem State.modCal_st (f : Cal → Cal) (j : Fin 8) : (s.modCal f).st j = s.st j := rfl

/-! ### modBus -/

@[simp] theorem State.modBus_part (f : BoardBus → BoardBus) : (s.modBus f).part = s.part := rfl
@[simp] theorem State.modBus_free (f : BoardBus → BoardBus) : (s.modBus f).free = s.free := rfl
@[simp] theorem State.modBus_regs (f : BoardBus → BoardBus) : (s.modBus f).regs = s.regs := rfl
@[simp] theorem State.modBus_staged (f : BoardBus → BoardBus) : (s.modBus f).staged = s.staged := rfl
@[simp] theorem State.modBus_latched (f : BoardBus → BoardBus) : (s.modBus f).latched = s.latched := rfl
@[simp] theorem State.modBus_mem (f : BoardBus → BoardBus) : (s.modBus f).mem = s.mem := rfl
@[simp] theorem State.modBus_bad (f : BoardBus → BoardBus) : (s.modBus f).bad = s.bad := rfl
@[simp] theorem State.modBus_queues (f : BoardBus → BoardBus) : (s.modBus f).queues = s.queues := rfl
@[simp] theorem State.modBus_stk (f : BoardBus → BoardBus) : (s.modBus f).stk = s.stk := rfl
@[simp] theorem State.modBus_out (f : BoardBus → BoardBus) : (s.modBus f).out = s.out := rfl
@[simp] theorem State.modBus_pending (f : BoardBus → BoardBus) : (s.modBus f).pending = s.pending := rfl
@[simp] theorem State.modBus_has (f : BoardBus → BoardBus) (k : Nat) : (s.modBus f).has k = s.has k := rfl
@[simp] theorem State.modBus_stacksIn (f : BoardBus → BoardBus) : (s.modBus f).stacksIn = s.stacksIn := rfl
@[simp] theorem State.modBus_reg (f : BoardBus → BoardBus) (pg : Page) (x : Nat) : (s.modBus f).reg pg x = s.reg pg x := rfl
@[simp] theorem State.modBus_fld (f : BoardBus → BoardBus) (pg : Page) (x y z : Nat) : (s.modBus f).fld pg x y z = s.fld pg x y z := rfl
@[simp] theorem State.modBus_flag (f : BoardBus → BoardBus) (pg : Page) (x y : Nat) : (s.modBus f).flag pg x y = s.flag pg x y := rfl
@[simp] theorem State.modBus_queue (f : BoardBus → BoardBus) (j : Fin 8) (x : Nat) : (s.modBus f).queue j x = s.queue j x := rfl
@[simp] theorem State.modBus_byte (f : BoardBus → BoardBus) (x : Nat) : (s.modBus f).byte x = s.byte x := rfl
@[simp] theorem State.modBus_st (f : BoardBus → BoardBus) (j : Fin 8) : (s.modBus f).st j = s.st j := rfl

/-! ### Open values -/

@[simp] theorem State.drawFree_part : s.drawFree.2.part = s.part := rfl
@[simp] theorem State.drawFree_regs : s.drawFree.2.regs = s.regs := rfl
@[simp] theorem State.drawFree_staged : s.drawFree.2.staged = s.staged := rfl
@[simp] theorem State.drawFree_latched : s.drawFree.2.latched = s.latched := rfl
@[simp] theorem State.drawFree_mem : s.drawFree.2.mem = s.mem := rfl
@[simp] theorem State.drawFree_bad : s.drawFree.2.bad = s.bad := rfl
@[simp] theorem State.drawFree_queues : s.drawFree.2.queues = s.queues := rfl
@[simp] theorem State.drawFree_stk : s.drawFree.2.stk = s.stk := rfl
@[simp] theorem State.drawFree_mod : s.drawFree.2.mod = s.mod := rfl
@[simp] theorem State.drawFree_out : s.drawFree.2.out = s.out := rfl
@[simp] theorem State.drawFree_pending : s.drawFree.2.pending = s.pending := rfl
@[simp] theorem State.drawFree_free : s.drawFree.2.free = s.free + 1 := rfl
@[simp] theorem State.drawElapsed_part : s.drawElapsed.2.part = s.part := rfl
@[simp] theorem State.drawElapsed_regs : s.drawElapsed.2.regs = s.regs := rfl
@[simp] theorem State.drawElapsed_staged : s.drawElapsed.2.staged = s.staged := rfl
@[simp] theorem State.drawElapsed_latched : s.drawElapsed.2.latched = s.latched := rfl
@[simp] theorem State.drawElapsed_mem : s.drawElapsed.2.mem = s.mem := rfl
@[simp] theorem State.drawElapsed_bad : s.drawElapsed.2.bad = s.bad := rfl
@[simp] theorem State.drawElapsed_queues : s.drawElapsed.2.queues = s.queues := rfl
@[simp] theorem State.drawElapsed_stk : s.drawElapsed.2.stk = s.stk := rfl
@[simp] theorem State.drawElapsed_mod : s.drawElapsed.2.mod = s.mod := rfl
@[simp] theorem State.drawElapsed_out : s.drawElapsed.2.out = s.out := rfl
@[simp] theorem State.drawElapsed_pending : s.drawElapsed.2.pending = s.pending := rfl
@[simp] theorem State.drawElapsed_free : s.drawElapsed.2.free = s.free + 1 := rfl
@[simp] theorem State.now_part : s.now.2.part = s.part := rfl
@[simp] theorem State.now_regs : s.now.2.regs = s.regs := rfl
@[simp] theorem State.now_staged : s.now.2.staged = s.staged := rfl
@[simp] theorem State.now_latched : s.now.2.latched = s.latched := rfl
@[simp] theorem State.now_mem : s.now.2.mem = s.mem := rfl
@[simp] theorem State.now_bad : s.now.2.bad = s.bad := rfl
@[simp] theorem State.now_queues : s.now.2.queues = s.queues := rfl
@[simp] theorem State.now_stk : s.now.2.stk = s.stk := rfl
@[simp] theorem State.now_mod : s.now.2.mod = s.mod := rfl
@[simp] theorem State.now_out : s.now.2.out = s.out := rfl
@[simp] theorem State.now_pending : s.now.2.pending = s.pending := rfl
@[simp] theorem State.now_free : s.now.2.free = s.free + 1 := rfl

/-! ### A stack's part after it was changed -/

theorem State.st_modSt (i : Fin 8) (f : Stack → Stack) (j : Fin 8) :
    (s.modSt i f).st j = if i = j then f (s.st i) else s.st j := by
  simp only [State.modSt, State.st, Fin.getElem_fin, Vector.getElem_set, Fin.ext_iff]

@[simp] theorem State.st_modSt_same (i : Fin 8) (f : Stack → Stack) : (s.modSt i f).st i = f (s.st i) := by
  simp [State.st_modSt]

/-- Whatever a change leaves alone in a stack reads as before in every stack. -/
theorem State.st_modSt_proj {β : Type} (g : Stack → β) {f : Stack → Stack} (h : ∀ x, g (f x) = g x) (i j : Fin 8) :
    g ((s.modSt i f).st j) = g (s.st j) := by
  rw [State.st_modSt]
  split
  · next e => rw [h, e]
  · rfl

@[simp] theorem State.modClp_st_tns (i : Fin 8) (f : Clasp → Clasp) (j : Fin 8) : ((s.modClp i f).st j).tns = (s.st j).tns := by
  unfold State.modClp; exact s.st_modSt_proj (·.tns) (by intro; rfl) i j
@[simp] theorem State.modClp_st_mbx (i : Fin 8) (f : Clasp → Clasp) (j : Fin 8) : ((s.modClp i f).st j).mbx = (s.st j).mbx := by
  unfold State.modClp; exact s.st_modSt_proj (·.mbx) (by intro; rfl) i j
@[simp] theorem State.modClp_st_replies (i : Fin 8) (f : Clasp → Clasp) (j : Fin 8) : ((s.modClp i f).st j).replies = (s.st j).replies := by
  unfold State.modClp; exact s.st_modSt_proj (·.replies) (by intro; rfl) i j
@[simp] theorem State.modClp_st_evtSent (i : Fin 8) (f : Clasp → Clasp) (j : Fin 8) : ((s.modClp i f).st j).evtSent = (s.st j).evtSent := by
  unfold State.modClp; exact s.st_modSt_proj (·.evtSent) (by intro; rfl) i j
@[simp] theorem State.modClp_st_seqs (i : Fin 8) (f : Clasp → Clasp) (j : Fin 8) : ((s.modClp i f).st j).seqs = (s.st j).seqs := by
  unfold State.modClp; exact s.st_modSt_proj (·.seqs) (by intro; rfl) i j
@[simp] theorem State.modClp_st_arb (i : Fin 8) (f : Clasp → Clasp) (j : Fin 8) : ((s.modClp i f).st j).arb = (s.st j).arb := by
  unfold State.modClp; exact s.st_modSt_proj (·.arb) (by intro; rfl) i j
@[simp] theorem State.modClp_st_regions (i : Fin 8) (f : Clasp → Clasp) (j : Fin 8) : ((s.modClp i f).st j).regions = (s.st j).regions := by
  unfold State.modClp; exact s.st_modSt_proj (·.regions) (by intro; rfl) i j
@[simp] theorem State.modClp_st_pwr (i : Fin 8) (f : Clasp → Clasp) (j : Fin 8) : ((s.modClp i f).st j).pwr = (s.st j).pwr := by
  unfold State.modClp; exact s.st_modSt_proj (·.pwr) (by intro; rfl) i j
@[simp] theorem State.modClp_st_keys (i : Fin 8) (f : Clasp → Clasp) (j : Fin 8) : ((s.modClp i f).st j).keys = (s.st j).keys := by
  unfold State.modClp; exact s.st_modSt_proj (·.keys) (by intro; rfl) i j
@[simp] theorem State.modClp_st_repaired (i : Fin 8) (f : Clasp → Clasp) (j : Fin 8) : ((s.modClp i f).st j).repaired = (s.st j).repaired := by
  unfold State.modClp; exact s.st_modSt_proj (·.repaired) (by intro; rfl) i j
@[simp] theorem State.modClp_st_cores (i : Fin 8) (f : Clasp → Clasp) (j : Fin 8) : ((s.modClp i f).st j).cores = (s.st j).cores := by
  unfold State.modClp; exact s.st_modSt_proj (·.cores) (by intro; rfl) i j
@[simp] theorem State.modClp_st_groups (i : Fin 8) (f : Clasp → Clasp) (j : Fin 8) : ((s.modClp i f).st j).groups = (s.st j).groups := by
  unfold State.modClp; exact s.st_modSt_proj (·.groups) (by intro; rfl) i j
@[simp] theorem State.modClp_st_batches (i : Fin 8) (f : Clasp → Clasp) (j : Fin 8) : ((s.modClp i f).st j).batches = (s.st j).batches := by
  unfold State.modClp; exact s.st_modSt_proj (·.batches) (by intro; rfl) i j
@[simp] theorem State.modClp_st_hot (i : Fin 8) (f : Clasp → Clasp) (j : Fin 8) : ((s.modClp i f).st j).hot = (s.st j).hot := by
  unfold State.modClp; exact s.st_modSt_proj (·.hot) (by intro; rfl) i j
@[simp] theorem State.modClp_st_fil (i : Fin 8) (f : Clasp → Clasp) (j : Fin 8) : ((s.modClp i f).st j).fil = (s.st j).fil := by
  unfold State.modClp; exact s.st_modSt_proj (·.fil) (by intro; rfl) i j
@[simp] theorem State.modClp_st_ports (i : Fin 8) (f : Clasp → Clasp) (j : Fin 8) : ((s.modClp i f).st j).ports = (s.st j).ports := by
  unfold State.modClp; exact s.st_modSt_proj (·.ports) (by intro; rfl) i j
@[simp] theorem State.modClp_st_sess (i : Fin 8) (f : Clasp → Clasp) (j : Fin 8) : ((s.modClp i f).st j).sess = (s.st j).sess := by
  unfold State.modClp; exact s.st_modSt_proj (·.sess) (by intro; rfl) i j
@[simp] theorem State.modClp_st_chans (i : Fin 8) (f : Clasp → Clasp) (j : Fin 8) : ((s.modClp i f).st j).chans = (s.st j).chans := by
  unfold State.modClp; exact s.st_modSt_proj (·.chans) (by intro; rfl) i j
@[simp] theorem State.modClp_st_ckpt (i : Fin 8) (f : Clasp → Clasp) (j : Fin 8) : ((s.modClp i f).st j).ckpt = (s.st j).ckpt := by
  unfold State.modClp; exact s.st_modSt_proj (·.ckpt) (by intro; rfl) i j
@[simp] theorem State.modClp_st_opening (i : Fin 8) (f : Clasp → Clasp) (j : Fin 8) : ((s.modClp i f).st j).opening = (s.st j).opening := by
  unfold State.modClp; exact s.st_modSt_proj (·.opening) (by intro; rfl) i j
@[simp] theorem State.modClp_st_blocked (i : Fin 8) (f : Clasp → Clasp) (j : Fin 8) : ((s.modClp i f).st j).blocked = (s.st j).blocked := by
  unfold State.modClp; exact s.st_modSt_proj (·.blocked) (by intro; rfl) i j
@[simp] theorem State.modClp_st_xfrStop (i : Fin 8) (f : Clasp → Clasp) (j : Fin 8) : ((s.modClp i f).st j).xfrStop = (s.st j).xfrStop := by
  unfold State.modClp; exact s.st_modSt_proj (·.xfrStop) (by intro; rfl) i j
@[simp] theorem State.modClp_st_bzlBuf (i : Fin 8) (f : Clasp → Clasp) (j : Fin 8) : ((s.modClp i f).st j).bzlBuf = (s.st j).bzlBuf := by
  unfold State.modClp; exact s.st_modSt_proj (·.bzlBuf) (by intro; rfl) i j
@[simp] theorem State.modClp_st_clp (f : Clasp → Clasp) (i : Fin 8) : ((s.modClp i f).st i).clp = f (s.st i).clp := by
  simp [State.modClp]
theorem State.modClp_st_other (f : Clasp → Clasp) (i j : Fin 8) (h : i ≠ j) : (s.modClp i f).st j = s.st j := by
  simp [State.modClp, State.st_modSt, h]

@[simp] theorem State.modTns_st_clp (i : Fin 8) (f : Tense → Tense) (j : Fin 8) : ((s.modTns i f).st j).clp = (s.st j).clp := by
  unfold State.modTns; exact s.st_modSt_proj (·.clp) (by intro; rfl) i j
@[simp] theorem State.modTns_st_mbx (i : Fin 8) (f : Tense → Tense) (j : Fin 8) : ((s.modTns i f).st j).mbx = (s.st j).mbx := by
  unfold State.modTns; exact s.st_modSt_proj (·.mbx) (by intro; rfl) i j
@[simp] theorem State.modTns_st_replies (i : Fin 8) (f : Tense → Tense) (j : Fin 8) : ((s.modTns i f).st j).replies = (s.st j).replies := by
  unfold State.modTns; exact s.st_modSt_proj (·.replies) (by intro; rfl) i j
@[simp] theorem State.modTns_st_evtSent (i : Fin 8) (f : Tense → Tense) (j : Fin 8) : ((s.modTns i f).st j).evtSent = (s.st j).evtSent := by
  unfold State.modTns; exact s.st_modSt_proj (·.evtSent) (by intro; rfl) i j
@[simp] theorem State.modTns_st_seqs (i : Fin 8) (f : Tense → Tense) (j : Fin 8) : ((s.modTns i f).st j).seqs = (s.st j).seqs := by
  unfold State.modTns; exact s.st_modSt_proj (·.seqs) (by intro; rfl) i j
@[simp] theorem State.modTns_st_arb (i : Fin 8) (f : Tense → Tense) (j : Fin 8) : ((s.modTns i f).st j).arb = (s.st j).arb := by
  unfold State.modTns; exact s.st_modSt_proj (·.arb) (by intro; rfl) i j
@[simp] theorem State.modTns_st_regions (i : Fin 8) (f : Tense → Tense) (j : Fin 8) : ((s.modTns i f).st j).regions = (s.st j).regions := by
  unfold State.modTns; exact s.st_modSt_proj (·.regions) (by intro; rfl) i j
@[simp] theorem State.modTns_st_pwr (i : Fin 8) (f : Tense → Tense) (j : Fin 8) : ((s.modTns i f).st j).pwr = (s.st j).pwr := by
  unfold State.modTns; exact s.st_modSt_proj (·.pwr) (by intro; rfl) i j
@[simp] theorem State.modTns_st_keys (i : Fin 8) (f : Tense → Tense) (j : Fin 8) : ((s.modTns i f).st j).keys = (s.st j).keys := by
  unfold State.modTns; exact s.st_modSt_proj (·.keys) (by intro; rfl) i j
@[simp] theorem State.modTns_st_repaired (i : Fin 8) (f : Tense → Tense) (j : Fin 8) : ((s.modTns i f).st j).repaired = (s.st j).repaired := by
  unfold State.modTns; exact s.st_modSt_proj (·.repaired) (by intro; rfl) i j
@[simp] theorem State.modTns_st_cores (i : Fin 8) (f : Tense → Tense) (j : Fin 8) : ((s.modTns i f).st j).cores = (s.st j).cores := by
  unfold State.modTns; exact s.st_modSt_proj (·.cores) (by intro; rfl) i j
@[simp] theorem State.modTns_st_groups (i : Fin 8) (f : Tense → Tense) (j : Fin 8) : ((s.modTns i f).st j).groups = (s.st j).groups := by
  unfold State.modTns; exact s.st_modSt_proj (·.groups) (by intro; rfl) i j
@[simp] theorem State.modTns_st_batches (i : Fin 8) (f : Tense → Tense) (j : Fin 8) : ((s.modTns i f).st j).batches = (s.st j).batches := by
  unfold State.modTns; exact s.st_modSt_proj (·.batches) (by intro; rfl) i j
@[simp] theorem State.modTns_st_hot (i : Fin 8) (f : Tense → Tense) (j : Fin 8) : ((s.modTns i f).st j).hot = (s.st j).hot := by
  unfold State.modTns; exact s.st_modSt_proj (·.hot) (by intro; rfl) i j
@[simp] theorem State.modTns_st_fil (i : Fin 8) (f : Tense → Tense) (j : Fin 8) : ((s.modTns i f).st j).fil = (s.st j).fil := by
  unfold State.modTns; exact s.st_modSt_proj (·.fil) (by intro; rfl) i j
@[simp] theorem State.modTns_st_ports (i : Fin 8) (f : Tense → Tense) (j : Fin 8) : ((s.modTns i f).st j).ports = (s.st j).ports := by
  unfold State.modTns; exact s.st_modSt_proj (·.ports) (by intro; rfl) i j
@[simp] theorem State.modTns_st_sess (i : Fin 8) (f : Tense → Tense) (j : Fin 8) : ((s.modTns i f).st j).sess = (s.st j).sess := by
  unfold State.modTns; exact s.st_modSt_proj (·.sess) (by intro; rfl) i j
@[simp] theorem State.modTns_st_chans (i : Fin 8) (f : Tense → Tense) (j : Fin 8) : ((s.modTns i f).st j).chans = (s.st j).chans := by
  unfold State.modTns; exact s.st_modSt_proj (·.chans) (by intro; rfl) i j
@[simp] theorem State.modTns_st_ckpt (i : Fin 8) (f : Tense → Tense) (j : Fin 8) : ((s.modTns i f).st j).ckpt = (s.st j).ckpt := by
  unfold State.modTns; exact s.st_modSt_proj (·.ckpt) (by intro; rfl) i j
@[simp] theorem State.modTns_st_opening (i : Fin 8) (f : Tense → Tense) (j : Fin 8) : ((s.modTns i f).st j).opening = (s.st j).opening := by
  unfold State.modTns; exact s.st_modSt_proj (·.opening) (by intro; rfl) i j
@[simp] theorem State.modTns_st_blocked (i : Fin 8) (f : Tense → Tense) (j : Fin 8) : ((s.modTns i f).st j).blocked = (s.st j).blocked := by
  unfold State.modTns; exact s.st_modSt_proj (·.blocked) (by intro; rfl) i j
@[simp] theorem State.modTns_st_xfrStop (i : Fin 8) (f : Tense → Tense) (j : Fin 8) : ((s.modTns i f).st j).xfrStop = (s.st j).xfrStop := by
  unfold State.modTns; exact s.st_modSt_proj (·.xfrStop) (by intro; rfl) i j
@[simp] theorem State.modTns_st_bzlBuf (i : Fin 8) (f : Tense → Tense) (j : Fin 8) : ((s.modTns i f).st j).bzlBuf = (s.st j).bzlBuf := by
  unfold State.modTns; exact s.st_modSt_proj (·.bzlBuf) (by intro; rfl) i j
@[simp] theorem State.modTns_st_tns (f : Tense → Tense) (i : Fin 8) : ((s.modTns i f).st i).tns = f (s.st i).tns := by
  simp [State.modTns]
theorem State.modTns_st_other (f : Tense → Tense) (i j : Fin 8) (h : i ≠ j) : (s.modTns i f).st j = s.st j := by
  simp [State.modTns, State.st_modSt, h]

@[simp] theorem State.modArb_st_clp (i : Fin 8) (f : Arbiter → Arbiter) (j : Fin 8) : ((s.modArb i f).st j).clp = (s.st j).clp := by
  unfold State.modArb; exact s.st_modSt_proj (·.clp) (by intro; rfl) i j
@[simp] theorem State.modArb_st_tns (i : Fin 8) (f : Arbiter → Arbiter) (j : Fin 8) : ((s.modArb i f).st j).tns = (s.st j).tns := by
  unfold State.modArb; exact s.st_modSt_proj (·.tns) (by intro; rfl) i j
@[simp] theorem State.modArb_st_mbx (i : Fin 8) (f : Arbiter → Arbiter) (j : Fin 8) : ((s.modArb i f).st j).mbx = (s.st j).mbx := by
  unfold State.modArb; exact s.st_modSt_proj (·.mbx) (by intro; rfl) i j
@[simp] theorem State.modArb_st_replies (i : Fin 8) (f : Arbiter → Arbiter) (j : Fin 8) : ((s.modArb i f).st j).replies = (s.st j).replies := by
  unfold State.modArb; exact s.st_modSt_proj (·.replies) (by intro; rfl) i j
@[simp] theorem State.modArb_st_evtSent (i : Fin 8) (f : Arbiter → Arbiter) (j : Fin 8) : ((s.modArb i f).st j).evtSent = (s.st j).evtSent := by
  unfold State.modArb; exact s.st_modSt_proj (·.evtSent) (by intro; rfl) i j
@[simp] theorem State.modArb_st_seqs (i : Fin 8) (f : Arbiter → Arbiter) (j : Fin 8) : ((s.modArb i f).st j).seqs = (s.st j).seqs := by
  unfold State.modArb; exact s.st_modSt_proj (·.seqs) (by intro; rfl) i j
@[simp] theorem State.modArb_st_regions (i : Fin 8) (f : Arbiter → Arbiter) (j : Fin 8) : ((s.modArb i f).st j).regions = (s.st j).regions := by
  unfold State.modArb; exact s.st_modSt_proj (·.regions) (by intro; rfl) i j
@[simp] theorem State.modArb_st_pwr (i : Fin 8) (f : Arbiter → Arbiter) (j : Fin 8) : ((s.modArb i f).st j).pwr = (s.st j).pwr := by
  unfold State.modArb; exact s.st_modSt_proj (·.pwr) (by intro; rfl) i j
@[simp] theorem State.modArb_st_keys (i : Fin 8) (f : Arbiter → Arbiter) (j : Fin 8) : ((s.modArb i f).st j).keys = (s.st j).keys := by
  unfold State.modArb; exact s.st_modSt_proj (·.keys) (by intro; rfl) i j
@[simp] theorem State.modArb_st_repaired (i : Fin 8) (f : Arbiter → Arbiter) (j : Fin 8) : ((s.modArb i f).st j).repaired = (s.st j).repaired := by
  unfold State.modArb; exact s.st_modSt_proj (·.repaired) (by intro; rfl) i j
@[simp] theorem State.modArb_st_cores (i : Fin 8) (f : Arbiter → Arbiter) (j : Fin 8) : ((s.modArb i f).st j).cores = (s.st j).cores := by
  unfold State.modArb; exact s.st_modSt_proj (·.cores) (by intro; rfl) i j
@[simp] theorem State.modArb_st_groups (i : Fin 8) (f : Arbiter → Arbiter) (j : Fin 8) : ((s.modArb i f).st j).groups = (s.st j).groups := by
  unfold State.modArb; exact s.st_modSt_proj (·.groups) (by intro; rfl) i j
@[simp] theorem State.modArb_st_batches (i : Fin 8) (f : Arbiter → Arbiter) (j : Fin 8) : ((s.modArb i f).st j).batches = (s.st j).batches := by
  unfold State.modArb; exact s.st_modSt_proj (·.batches) (by intro; rfl) i j
@[simp] theorem State.modArb_st_hot (i : Fin 8) (f : Arbiter → Arbiter) (j : Fin 8) : ((s.modArb i f).st j).hot = (s.st j).hot := by
  unfold State.modArb; exact s.st_modSt_proj (·.hot) (by intro; rfl) i j
@[simp] theorem State.modArb_st_fil (i : Fin 8) (f : Arbiter → Arbiter) (j : Fin 8) : ((s.modArb i f).st j).fil = (s.st j).fil := by
  unfold State.modArb; exact s.st_modSt_proj (·.fil) (by intro; rfl) i j
@[simp] theorem State.modArb_st_ports (i : Fin 8) (f : Arbiter → Arbiter) (j : Fin 8) : ((s.modArb i f).st j).ports = (s.st j).ports := by
  unfold State.modArb; exact s.st_modSt_proj (·.ports) (by intro; rfl) i j
@[simp] theorem State.modArb_st_sess (i : Fin 8) (f : Arbiter → Arbiter) (j : Fin 8) : ((s.modArb i f).st j).sess = (s.st j).sess := by
  unfold State.modArb; exact s.st_modSt_proj (·.sess) (by intro; rfl) i j
@[simp] theorem State.modArb_st_chans (i : Fin 8) (f : Arbiter → Arbiter) (j : Fin 8) : ((s.modArb i f).st j).chans = (s.st j).chans := by
  unfold State.modArb; exact s.st_modSt_proj (·.chans) (by intro; rfl) i j
@[simp] theorem State.modArb_st_ckpt (i : Fin 8) (f : Arbiter → Arbiter) (j : Fin 8) : ((s.modArb i f).st j).ckpt = (s.st j).ckpt := by
  unfold State.modArb; exact s.st_modSt_proj (·.ckpt) (by intro; rfl) i j
@[simp] theorem State.modArb_st_opening (i : Fin 8) (f : Arbiter → Arbiter) (j : Fin 8) : ((s.modArb i f).st j).opening = (s.st j).opening := by
  unfold State.modArb; exact s.st_modSt_proj (·.opening) (by intro; rfl) i j
@[simp] theorem State.modArb_st_blocked (i : Fin 8) (f : Arbiter → Arbiter) (j : Fin 8) : ((s.modArb i f).st j).blocked = (s.st j).blocked := by
  unfold State.modArb; exact s.st_modSt_proj (·.blocked) (by intro; rfl) i j
@[simp] theorem State.modArb_st_xfrStop (i : Fin 8) (f : Arbiter → Arbiter) (j : Fin 8) : ((s.modArb i f).st j).xfrStop = (s.st j).xfrStop := by
  unfold State.modArb; exact s.st_modSt_proj (·.xfrStop) (by intro; rfl) i j
@[simp] theorem State.modArb_st_bzlBuf (i : Fin 8) (f : Arbiter → Arbiter) (j : Fin 8) : ((s.modArb i f).st j).bzlBuf = (s.st j).bzlBuf := by
  unfold State.modArb; exact s.st_modSt_proj (·.bzlBuf) (by intro; rfl) i j
@[simp] theorem State.modArb_st_arb (f : Arbiter → Arbiter) (i : Fin 8) : ((s.modArb i f).st i).arb = f (s.st i).arb := by
  simp [State.modArb]
theorem State.modArb_st_other (f : Arbiter → Arbiter) (i j : Fin 8) (h : i ≠ j) : (s.modArb i f).st j = s.st j := by
  simp [State.modArb, State.st_modSt, h]

@[simp] theorem State.modPwr_st_clp (i : Fin 8) (f : Power → Power) (j : Fin 8) : ((s.modPwr i f).st j).clp = (s.st j).clp := by
  unfold State.modPwr; exact s.st_modSt_proj (·.clp) (by intro; rfl) i j
@[simp] theorem State.modPwr_st_tns (i : Fin 8) (f : Power → Power) (j : Fin 8) : ((s.modPwr i f).st j).tns = (s.st j).tns := by
  unfold State.modPwr; exact s.st_modSt_proj (·.tns) (by intro; rfl) i j
@[simp] theorem State.modPwr_st_mbx (i : Fin 8) (f : Power → Power) (j : Fin 8) : ((s.modPwr i f).st j).mbx = (s.st j).mbx := by
  unfold State.modPwr; exact s.st_modSt_proj (·.mbx) (by intro; rfl) i j
@[simp] theorem State.modPwr_st_replies (i : Fin 8) (f : Power → Power) (j : Fin 8) : ((s.modPwr i f).st j).replies = (s.st j).replies := by
  unfold State.modPwr; exact s.st_modSt_proj (·.replies) (by intro; rfl) i j
@[simp] theorem State.modPwr_st_evtSent (i : Fin 8) (f : Power → Power) (j : Fin 8) : ((s.modPwr i f).st j).evtSent = (s.st j).evtSent := by
  unfold State.modPwr; exact s.st_modSt_proj (·.evtSent) (by intro; rfl) i j
@[simp] theorem State.modPwr_st_seqs (i : Fin 8) (f : Power → Power) (j : Fin 8) : ((s.modPwr i f).st j).seqs = (s.st j).seqs := by
  unfold State.modPwr; exact s.st_modSt_proj (·.seqs) (by intro; rfl) i j
@[simp] theorem State.modPwr_st_arb (i : Fin 8) (f : Power → Power) (j : Fin 8) : ((s.modPwr i f).st j).arb = (s.st j).arb := by
  unfold State.modPwr; exact s.st_modSt_proj (·.arb) (by intro; rfl) i j
@[simp] theorem State.modPwr_st_regions (i : Fin 8) (f : Power → Power) (j : Fin 8) : ((s.modPwr i f).st j).regions = (s.st j).regions := by
  unfold State.modPwr; exact s.st_modSt_proj (·.regions) (by intro; rfl) i j
@[simp] theorem State.modPwr_st_keys (i : Fin 8) (f : Power → Power) (j : Fin 8) : ((s.modPwr i f).st j).keys = (s.st j).keys := by
  unfold State.modPwr; exact s.st_modSt_proj (·.keys) (by intro; rfl) i j
@[simp] theorem State.modPwr_st_repaired (i : Fin 8) (f : Power → Power) (j : Fin 8) : ((s.modPwr i f).st j).repaired = (s.st j).repaired := by
  unfold State.modPwr; exact s.st_modSt_proj (·.repaired) (by intro; rfl) i j
@[simp] theorem State.modPwr_st_cores (i : Fin 8) (f : Power → Power) (j : Fin 8) : ((s.modPwr i f).st j).cores = (s.st j).cores := by
  unfold State.modPwr; exact s.st_modSt_proj (·.cores) (by intro; rfl) i j
@[simp] theorem State.modPwr_st_groups (i : Fin 8) (f : Power → Power) (j : Fin 8) : ((s.modPwr i f).st j).groups = (s.st j).groups := by
  unfold State.modPwr; exact s.st_modSt_proj (·.groups) (by intro; rfl) i j
@[simp] theorem State.modPwr_st_batches (i : Fin 8) (f : Power → Power) (j : Fin 8) : ((s.modPwr i f).st j).batches = (s.st j).batches := by
  unfold State.modPwr; exact s.st_modSt_proj (·.batches) (by intro; rfl) i j
@[simp] theorem State.modPwr_st_hot (i : Fin 8) (f : Power → Power) (j : Fin 8) : ((s.modPwr i f).st j).hot = (s.st j).hot := by
  unfold State.modPwr; exact s.st_modSt_proj (·.hot) (by intro; rfl) i j
@[simp] theorem State.modPwr_st_fil (i : Fin 8) (f : Power → Power) (j : Fin 8) : ((s.modPwr i f).st j).fil = (s.st j).fil := by
  unfold State.modPwr; exact s.st_modSt_proj (·.fil) (by intro; rfl) i j
@[simp] theorem State.modPwr_st_ports (i : Fin 8) (f : Power → Power) (j : Fin 8) : ((s.modPwr i f).st j).ports = (s.st j).ports := by
  unfold State.modPwr; exact s.st_modSt_proj (·.ports) (by intro; rfl) i j
@[simp] theorem State.modPwr_st_sess (i : Fin 8) (f : Power → Power) (j : Fin 8) : ((s.modPwr i f).st j).sess = (s.st j).sess := by
  unfold State.modPwr; exact s.st_modSt_proj (·.sess) (by intro; rfl) i j
@[simp] theorem State.modPwr_st_chans (i : Fin 8) (f : Power → Power) (j : Fin 8) : ((s.modPwr i f).st j).chans = (s.st j).chans := by
  unfold State.modPwr; exact s.st_modSt_proj (·.chans) (by intro; rfl) i j
@[simp] theorem State.modPwr_st_ckpt (i : Fin 8) (f : Power → Power) (j : Fin 8) : ((s.modPwr i f).st j).ckpt = (s.st j).ckpt := by
  unfold State.modPwr; exact s.st_modSt_proj (·.ckpt) (by intro; rfl) i j
@[simp] theorem State.modPwr_st_opening (i : Fin 8) (f : Power → Power) (j : Fin 8) : ((s.modPwr i f).st j).opening = (s.st j).opening := by
  unfold State.modPwr; exact s.st_modSt_proj (·.opening) (by intro; rfl) i j
@[simp] theorem State.modPwr_st_blocked (i : Fin 8) (f : Power → Power) (j : Fin 8) : ((s.modPwr i f).st j).blocked = (s.st j).blocked := by
  unfold State.modPwr; exact s.st_modSt_proj (·.blocked) (by intro; rfl) i j
@[simp] theorem State.modPwr_st_xfrStop (i : Fin 8) (f : Power → Power) (j : Fin 8) : ((s.modPwr i f).st j).xfrStop = (s.st j).xfrStop := by
  unfold State.modPwr; exact s.st_modSt_proj (·.xfrStop) (by intro; rfl) i j
@[simp] theorem State.modPwr_st_bzlBuf (i : Fin 8) (f : Power → Power) (j : Fin 8) : ((s.modPwr i f).st j).bzlBuf = (s.st j).bzlBuf := by
  unfold State.modPwr; exact s.st_modSt_proj (·.bzlBuf) (by intro; rfl) i j
@[simp] theorem State.modPwr_st_pwr (f : Power → Power) (i : Fin 8) : ((s.modPwr i f).st i).pwr = f (s.st i).pwr := by
  simp [State.modPwr]
theorem State.modPwr_st_other (f : Power → Power) (i j : Fin 8) (h : i ≠ j) : (s.modPwr i f).st j = s.st j := by
  simp [State.modPwr, State.st_modSt, h]

@[simp] theorem State.modSeq_st_clp (i : Fin 8) (n : Fin 4) (f : Seq → Seq) (j : Fin 8) : ((s.modSeq i n f).st j).clp = (s.st j).clp := by
  unfold State.modSeq; exact s.st_modSt_proj (·.clp) (by intro; rfl) i j
@[simp] theorem State.modSeq_st_tns (i : Fin 8) (n : Fin 4) (f : Seq → Seq) (j : Fin 8) : ((s.modSeq i n f).st j).tns = (s.st j).tns := by
  unfold State.modSeq; exact s.st_modSt_proj (·.tns) (by intro; rfl) i j
@[simp] theorem State.modSeq_st_mbx (i : Fin 8) (n : Fin 4) (f : Seq → Seq) (j : Fin 8) : ((s.modSeq i n f).st j).mbx = (s.st j).mbx := by
  unfold State.modSeq; exact s.st_modSt_proj (·.mbx) (by intro; rfl) i j
@[simp] theorem State.modSeq_st_replies (i : Fin 8) (n : Fin 4) (f : Seq → Seq) (j : Fin 8) : ((s.modSeq i n f).st j).replies = (s.st j).replies := by
  unfold State.modSeq; exact s.st_modSt_proj (·.replies) (by intro; rfl) i j
@[simp] theorem State.modSeq_st_evtSent (i : Fin 8) (n : Fin 4) (f : Seq → Seq) (j : Fin 8) : ((s.modSeq i n f).st j).evtSent = (s.st j).evtSent := by
  unfold State.modSeq; exact s.st_modSt_proj (·.evtSent) (by intro; rfl) i j
@[simp] theorem State.modSeq_st_arb (i : Fin 8) (n : Fin 4) (f : Seq → Seq) (j : Fin 8) : ((s.modSeq i n f).st j).arb = (s.st j).arb := by
  unfold State.modSeq; exact s.st_modSt_proj (·.arb) (by intro; rfl) i j
@[simp] theorem State.modSeq_st_regions (i : Fin 8) (n : Fin 4) (f : Seq → Seq) (j : Fin 8) : ((s.modSeq i n f).st j).regions = (s.st j).regions := by
  unfold State.modSeq; exact s.st_modSt_proj (·.regions) (by intro; rfl) i j
@[simp] theorem State.modSeq_st_pwr (i : Fin 8) (n : Fin 4) (f : Seq → Seq) (j : Fin 8) : ((s.modSeq i n f).st j).pwr = (s.st j).pwr := by
  unfold State.modSeq; exact s.st_modSt_proj (·.pwr) (by intro; rfl) i j
@[simp] theorem State.modSeq_st_keys (i : Fin 8) (n : Fin 4) (f : Seq → Seq) (j : Fin 8) : ((s.modSeq i n f).st j).keys = (s.st j).keys := by
  unfold State.modSeq; exact s.st_modSt_proj (·.keys) (by intro; rfl) i j
@[simp] theorem State.modSeq_st_repaired (i : Fin 8) (n : Fin 4) (f : Seq → Seq) (j : Fin 8) : ((s.modSeq i n f).st j).repaired = (s.st j).repaired := by
  unfold State.modSeq; exact s.st_modSt_proj (·.repaired) (by intro; rfl) i j
@[simp] theorem State.modSeq_st_cores (i : Fin 8) (n : Fin 4) (f : Seq → Seq) (j : Fin 8) : ((s.modSeq i n f).st j).cores = (s.st j).cores := by
  unfold State.modSeq; exact s.st_modSt_proj (·.cores) (by intro; rfl) i j
@[simp] theorem State.modSeq_st_groups (i : Fin 8) (n : Fin 4) (f : Seq → Seq) (j : Fin 8) : ((s.modSeq i n f).st j).groups = (s.st j).groups := by
  unfold State.modSeq; exact s.st_modSt_proj (·.groups) (by intro; rfl) i j
@[simp] theorem State.modSeq_st_batches (i : Fin 8) (n : Fin 4) (f : Seq → Seq) (j : Fin 8) : ((s.modSeq i n f).st j).batches = (s.st j).batches := by
  unfold State.modSeq; exact s.st_modSt_proj (·.batches) (by intro; rfl) i j
@[simp] theorem State.modSeq_st_hot (i : Fin 8) (n : Fin 4) (f : Seq → Seq) (j : Fin 8) : ((s.modSeq i n f).st j).hot = (s.st j).hot := by
  unfold State.modSeq; exact s.st_modSt_proj (·.hot) (by intro; rfl) i j
@[simp] theorem State.modSeq_st_fil (i : Fin 8) (n : Fin 4) (f : Seq → Seq) (j : Fin 8) : ((s.modSeq i n f).st j).fil = (s.st j).fil := by
  unfold State.modSeq; exact s.st_modSt_proj (·.fil) (by intro; rfl) i j
@[simp] theorem State.modSeq_st_ports (i : Fin 8) (n : Fin 4) (f : Seq → Seq) (j : Fin 8) : ((s.modSeq i n f).st j).ports = (s.st j).ports := by
  unfold State.modSeq; exact s.st_modSt_proj (·.ports) (by intro; rfl) i j
@[simp] theorem State.modSeq_st_sess (i : Fin 8) (n : Fin 4) (f : Seq → Seq) (j : Fin 8) : ((s.modSeq i n f).st j).sess = (s.st j).sess := by
  unfold State.modSeq; exact s.st_modSt_proj (·.sess) (by intro; rfl) i j
@[simp] theorem State.modSeq_st_chans (i : Fin 8) (n : Fin 4) (f : Seq → Seq) (j : Fin 8) : ((s.modSeq i n f).st j).chans = (s.st j).chans := by
  unfold State.modSeq; exact s.st_modSt_proj (·.chans) (by intro; rfl) i j
@[simp] theorem State.modSeq_st_ckpt (i : Fin 8) (n : Fin 4) (f : Seq → Seq) (j : Fin 8) : ((s.modSeq i n f).st j).ckpt = (s.st j).ckpt := by
  unfold State.modSeq; exact s.st_modSt_proj (·.ckpt) (by intro; rfl) i j
@[simp] theorem State.modSeq_st_opening (i : Fin 8) (n : Fin 4) (f : Seq → Seq) (j : Fin 8) : ((s.modSeq i n f).st j).opening = (s.st j).opening := by
  unfold State.modSeq; exact s.st_modSt_proj (·.opening) (by intro; rfl) i j
@[simp] theorem State.modSeq_st_blocked (i : Fin 8) (n : Fin 4) (f : Seq → Seq) (j : Fin 8) : ((s.modSeq i n f).st j).blocked = (s.st j).blocked := by
  unfold State.modSeq; exact s.st_modSt_proj (·.blocked) (by intro; rfl) i j
@[simp] theorem State.modSeq_st_xfrStop (i : Fin 8) (n : Fin 4) (f : Seq → Seq) (j : Fin 8) : ((s.modSeq i n f).st j).xfrStop = (s.st j).xfrStop := by
  unfold State.modSeq; exact s.st_modSt_proj (·.xfrStop) (by intro; rfl) i j
@[simp] theorem State.modSeq_st_bzlBuf (i : Fin 8) (n : Fin 4) (f : Seq → Seq) (j : Fin 8) : ((s.modSeq i n f).st j).bzlBuf = (s.st j).bzlBuf := by
  unfold State.modSeq; exact s.st_modSt_proj (·.bzlBuf) (by intro; rfl) i j

@[simp] theorem State.modBox_st_clp (i : Fin 8) (m : Nat) (f : Mailbox → Mailbox) (j : Fin 8) : ((s.modBox i m f).st j).clp = (s.st j).clp := by
  unfold State.modBox; exact s.st_modSt_proj (·.clp) (by intro; rfl) i j
@[simp] theorem State.modBox_st_tns (i : Fin 8) (m : Nat) (f : Mailbox → Mailbox) (j : Fin 8) : ((s.modBox i m f).st j).tns = (s.st j).tns := by
  unfold State.modBox; exact s.st_modSt_proj (·.tns) (by intro; rfl) i j
@[simp] theorem State.modBox_st_replies (i : Fin 8) (m : Nat) (f : Mailbox → Mailbox) (j : Fin 8) : ((s.modBox i m f).st j).replies = (s.st j).replies := by
  unfold State.modBox; exact s.st_modSt_proj (·.replies) (by intro; rfl) i j
@[simp] theorem State.modBox_st_evtSent (i : Fin 8) (m : Nat) (f : Mailbox → Mailbox) (j : Fin 8) : ((s.modBox i m f).st j).evtSent = (s.st j).evtSent := by
  unfold State.modBox; exact s.st_modSt_proj (·.evtSent) (by intro; rfl) i j
@[simp] theorem State.modBox_st_seqs (i : Fin 8) (m : Nat) (f : Mailbox → Mailbox) (j : Fin 8) : ((s.modBox i m f).st j).seqs = (s.st j).seqs := by
  unfold State.modBox; exact s.st_modSt_proj (·.seqs) (by intro; rfl) i j
@[simp] theorem State.modBox_st_arb (i : Fin 8) (m : Nat) (f : Mailbox → Mailbox) (j : Fin 8) : ((s.modBox i m f).st j).arb = (s.st j).arb := by
  unfold State.modBox; exact s.st_modSt_proj (·.arb) (by intro; rfl) i j
@[simp] theorem State.modBox_st_regions (i : Fin 8) (m : Nat) (f : Mailbox → Mailbox) (j : Fin 8) : ((s.modBox i m f).st j).regions = (s.st j).regions := by
  unfold State.modBox; exact s.st_modSt_proj (·.regions) (by intro; rfl) i j
@[simp] theorem State.modBox_st_pwr (i : Fin 8) (m : Nat) (f : Mailbox → Mailbox) (j : Fin 8) : ((s.modBox i m f).st j).pwr = (s.st j).pwr := by
  unfold State.modBox; exact s.st_modSt_proj (·.pwr) (by intro; rfl) i j
@[simp] theorem State.modBox_st_keys (i : Fin 8) (m : Nat) (f : Mailbox → Mailbox) (j : Fin 8) : ((s.modBox i m f).st j).keys = (s.st j).keys := by
  unfold State.modBox; exact s.st_modSt_proj (·.keys) (by intro; rfl) i j
@[simp] theorem State.modBox_st_repaired (i : Fin 8) (m : Nat) (f : Mailbox → Mailbox) (j : Fin 8) : ((s.modBox i m f).st j).repaired = (s.st j).repaired := by
  unfold State.modBox; exact s.st_modSt_proj (·.repaired) (by intro; rfl) i j
@[simp] theorem State.modBox_st_cores (i : Fin 8) (m : Nat) (f : Mailbox → Mailbox) (j : Fin 8) : ((s.modBox i m f).st j).cores = (s.st j).cores := by
  unfold State.modBox; exact s.st_modSt_proj (·.cores) (by intro; rfl) i j
@[simp] theorem State.modBox_st_groups (i : Fin 8) (m : Nat) (f : Mailbox → Mailbox) (j : Fin 8) : ((s.modBox i m f).st j).groups = (s.st j).groups := by
  unfold State.modBox; exact s.st_modSt_proj (·.groups) (by intro; rfl) i j
@[simp] theorem State.modBox_st_batches (i : Fin 8) (m : Nat) (f : Mailbox → Mailbox) (j : Fin 8) : ((s.modBox i m f).st j).batches = (s.st j).batches := by
  unfold State.modBox; exact s.st_modSt_proj (·.batches) (by intro; rfl) i j
@[simp] theorem State.modBox_st_hot (i : Fin 8) (m : Nat) (f : Mailbox → Mailbox) (j : Fin 8) : ((s.modBox i m f).st j).hot = (s.st j).hot := by
  unfold State.modBox; exact s.st_modSt_proj (·.hot) (by intro; rfl) i j
@[simp] theorem State.modBox_st_fil (i : Fin 8) (m : Nat) (f : Mailbox → Mailbox) (j : Fin 8) : ((s.modBox i m f).st j).fil = (s.st j).fil := by
  unfold State.modBox; exact s.st_modSt_proj (·.fil) (by intro; rfl) i j
@[simp] theorem State.modBox_st_ports (i : Fin 8) (m : Nat) (f : Mailbox → Mailbox) (j : Fin 8) : ((s.modBox i m f).st j).ports = (s.st j).ports := by
  unfold State.modBox; exact s.st_modSt_proj (·.ports) (by intro; rfl) i j
@[simp] theorem State.modBox_st_sess (i : Fin 8) (m : Nat) (f : Mailbox → Mailbox) (j : Fin 8) : ((s.modBox i m f).st j).sess = (s.st j).sess := by
  unfold State.modBox; exact s.st_modSt_proj (·.sess) (by intro; rfl) i j
@[simp] theorem State.modBox_st_chans (i : Fin 8) (m : Nat) (f : Mailbox → Mailbox) (j : Fin 8) : ((s.modBox i m f).st j).chans = (s.st j).chans := by
  unfold State.modBox; exact s.st_modSt_proj (·.chans) (by intro; rfl) i j
@[simp] theorem State.modBox_st_ckpt (i : Fin 8) (m : Nat) (f : Mailbox → Mailbox) (j : Fin 8) : ((s.modBox i m f).st j).ckpt = (s.st j).ckpt := by
  unfold State.modBox; exact s.st_modSt_proj (·.ckpt) (by intro; rfl) i j
@[simp] theorem State.modBox_st_opening (i : Fin 8) (m : Nat) (f : Mailbox → Mailbox) (j : Fin 8) : ((s.modBox i m f).st j).opening = (s.st j).opening := by
  unfold State.modBox; exact s.st_modSt_proj (·.opening) (by intro; rfl) i j
@[simp] theorem State.modBox_st_blocked (i : Fin 8) (m : Nat) (f : Mailbox → Mailbox) (j : Fin 8) : ((s.modBox i m f).st j).blocked = (s.st j).blocked := by
  unfold State.modBox; exact s.st_modSt_proj (·.blocked) (by intro; rfl) i j
@[simp] theorem State.modBox_st_xfrStop (i : Fin 8) (m : Nat) (f : Mailbox → Mailbox) (j : Fin 8) : ((s.modBox i m f).st j).xfrStop = (s.st j).xfrStop := by
  unfold State.modBox; exact s.st_modSt_proj (·.xfrStop) (by intro; rfl) i j
@[simp] theorem State.modBox_st_bzlBuf (i : Fin 8) (m : Nat) (f : Mailbox → Mailbox) (j : Fin 8) : ((s.modBox i m f).st j).bzlBuf = (s.st j).bzlBuf := by
  unfold State.modBox; exact s.st_modSt_proj (·.bzlBuf) (by intro; rfl) i j

@[simp] theorem State.modCore_st_clp (i : Fin 8) (c : Nat) (f : Core → Core) (j : Fin 8) : ((s.modCore i c f).st j).clp = (s.st j).clp := by
  unfold State.modCore; exact s.st_modSt_proj (·.clp) (by intro; rfl) i j
@[simp] theorem State.modCore_st_tns (i : Fin 8) (c : Nat) (f : Core → Core) (j : Fin 8) : ((s.modCore i c f).st j).tns = (s.st j).tns := by
  unfold State.modCore; exact s.st_modSt_proj (·.tns) (by intro; rfl) i j
@[simp] theorem State.modCore_st_mbx (i : Fin 8) (c : Nat) (f : Core → Core) (j : Fin 8) : ((s.modCore i c f).st j).mbx = (s.st j).mbx := by
  unfold State.modCore; exact s.st_modSt_proj (·.mbx) (by intro; rfl) i j
@[simp] theorem State.modCore_st_replies (i : Fin 8) (c : Nat) (f : Core → Core) (j : Fin 8) : ((s.modCore i c f).st j).replies = (s.st j).replies := by
  unfold State.modCore; exact s.st_modSt_proj (·.replies) (by intro; rfl) i j
@[simp] theorem State.modCore_st_evtSent (i : Fin 8) (c : Nat) (f : Core → Core) (j : Fin 8) : ((s.modCore i c f).st j).evtSent = (s.st j).evtSent := by
  unfold State.modCore; exact s.st_modSt_proj (·.evtSent) (by intro; rfl) i j
@[simp] theorem State.modCore_st_seqs (i : Fin 8) (c : Nat) (f : Core → Core) (j : Fin 8) : ((s.modCore i c f).st j).seqs = (s.st j).seqs := by
  unfold State.modCore; exact s.st_modSt_proj (·.seqs) (by intro; rfl) i j
@[simp] theorem State.modCore_st_arb (i : Fin 8) (c : Nat) (f : Core → Core) (j : Fin 8) : ((s.modCore i c f).st j).arb = (s.st j).arb := by
  unfold State.modCore; exact s.st_modSt_proj (·.arb) (by intro; rfl) i j
@[simp] theorem State.modCore_st_regions (i : Fin 8) (c : Nat) (f : Core → Core) (j : Fin 8) : ((s.modCore i c f).st j).regions = (s.st j).regions := by
  unfold State.modCore; exact s.st_modSt_proj (·.regions) (by intro; rfl) i j
@[simp] theorem State.modCore_st_pwr (i : Fin 8) (c : Nat) (f : Core → Core) (j : Fin 8) : ((s.modCore i c f).st j).pwr = (s.st j).pwr := by
  unfold State.modCore; exact s.st_modSt_proj (·.pwr) (by intro; rfl) i j
@[simp] theorem State.modCore_st_keys (i : Fin 8) (c : Nat) (f : Core → Core) (j : Fin 8) : ((s.modCore i c f).st j).keys = (s.st j).keys := by
  unfold State.modCore; exact s.st_modSt_proj (·.keys) (by intro; rfl) i j
@[simp] theorem State.modCore_st_repaired (i : Fin 8) (c : Nat) (f : Core → Core) (j : Fin 8) : ((s.modCore i c f).st j).repaired = (s.st j).repaired := by
  unfold State.modCore; exact s.st_modSt_proj (·.repaired) (by intro; rfl) i j
@[simp] theorem State.modCore_st_groups (i : Fin 8) (c : Nat) (f : Core → Core) (j : Fin 8) : ((s.modCore i c f).st j).groups = (s.st j).groups := by
  unfold State.modCore; exact s.st_modSt_proj (·.groups) (by intro; rfl) i j
@[simp] theorem State.modCore_st_batches (i : Fin 8) (c : Nat) (f : Core → Core) (j : Fin 8) : ((s.modCore i c f).st j).batches = (s.st j).batches := by
  unfold State.modCore; exact s.st_modSt_proj (·.batches) (by intro; rfl) i j
@[simp] theorem State.modCore_st_hot (i : Fin 8) (c : Nat) (f : Core → Core) (j : Fin 8) : ((s.modCore i c f).st j).hot = (s.st j).hot := by
  unfold State.modCore; exact s.st_modSt_proj (·.hot) (by intro; rfl) i j
@[simp] theorem State.modCore_st_fil (i : Fin 8) (c : Nat) (f : Core → Core) (j : Fin 8) : ((s.modCore i c f).st j).fil = (s.st j).fil := by
  unfold State.modCore; exact s.st_modSt_proj (·.fil) (by intro; rfl) i j
@[simp] theorem State.modCore_st_ports (i : Fin 8) (c : Nat) (f : Core → Core) (j : Fin 8) : ((s.modCore i c f).st j).ports = (s.st j).ports := by
  unfold State.modCore; exact s.st_modSt_proj (·.ports) (by intro; rfl) i j
@[simp] theorem State.modCore_st_sess (i : Fin 8) (c : Nat) (f : Core → Core) (j : Fin 8) : ((s.modCore i c f).st j).sess = (s.st j).sess := by
  unfold State.modCore; exact s.st_modSt_proj (·.sess) (by intro; rfl) i j
@[simp] theorem State.modCore_st_chans (i : Fin 8) (c : Nat) (f : Core → Core) (j : Fin 8) : ((s.modCore i c f).st j).chans = (s.st j).chans := by
  unfold State.modCore; exact s.st_modSt_proj (·.chans) (by intro; rfl) i j
@[simp] theorem State.modCore_st_ckpt (i : Fin 8) (c : Nat) (f : Core → Core) (j : Fin 8) : ((s.modCore i c f).st j).ckpt = (s.st j).ckpt := by
  unfold State.modCore; exact s.st_modSt_proj (·.ckpt) (by intro; rfl) i j
@[simp] theorem State.modCore_st_opening (i : Fin 8) (c : Nat) (f : Core → Core) (j : Fin 8) : ((s.modCore i c f).st j).opening = (s.st j).opening := by
  unfold State.modCore; exact s.st_modSt_proj (·.opening) (by intro; rfl) i j
@[simp] theorem State.modCore_st_blocked (i : Fin 8) (c : Nat) (f : Core → Core) (j : Fin 8) : ((s.modCore i c f).st j).blocked = (s.st j).blocked := by
  unfold State.modCore; exact s.st_modSt_proj (·.blocked) (by intro; rfl) i j
@[simp] theorem State.modCore_st_xfrStop (i : Fin 8) (c : Nat) (f : Core → Core) (j : Fin 8) : ((s.modCore i c f).st j).xfrStop = (s.st j).xfrStop := by
  unfold State.modCore; exact s.st_modSt_proj (·.xfrStop) (by intro; rfl) i j
@[simp] theorem State.modCore_st_bzlBuf (i : Fin 8) (c : Nat) (f : Core → Core) (j : Fin 8) : ((s.modCore i c f).st j).bzlBuf = (s.st j).bzlBuf := by
  unfold State.modCore; exact s.st_modSt_proj (·.bzlBuf) (by intro; rfl) i j

@[simp] theorem State.modKeys_st_clp (i : Fin 8) (f : Keys → Keys) (j : Fin 8) : ((s.modKeys i f).st j).clp = (s.st j).clp := by
  unfold State.modKeys; exact s.st_modSt_proj (·.clp) (by intro; rfl) i j
@[simp] theorem State.modKeys_st_tns (i : Fin 8) (f : Keys → Keys) (j : Fin 8) : ((s.modKeys i f).st j).tns = (s.st j).tns := by
  unfold State.modKeys; exact s.st_modSt_proj (·.tns) (by intro; rfl) i j
@[simp] theorem State.modKeys_st_mbx (i : Fin 8) (f : Keys → Keys) (j : Fin 8) : ((s.modKeys i f).st j).mbx = (s.st j).mbx := by
  unfold State.modKeys; exact s.st_modSt_proj (·.mbx) (by intro; rfl) i j
@[simp] theorem State.modKeys_st_replies (i : Fin 8) (f : Keys → Keys) (j : Fin 8) : ((s.modKeys i f).st j).replies = (s.st j).replies := by
  unfold State.modKeys; exact s.st_modSt_proj (·.replies) (by intro; rfl) i j
@[simp] theorem State.modKeys_st_evtSent (i : Fin 8) (f : Keys → Keys) (j : Fin 8) : ((s.modKeys i f).st j).evtSent = (s.st j).evtSent := by
  unfold State.modKeys; exact s.st_modSt_proj (·.evtSent) (by intro; rfl) i j
@[simp] theorem State.modKeys_st_seqs (i : Fin 8) (f : Keys → Keys) (j : Fin 8) : ((s.modKeys i f).st j).seqs = (s.st j).seqs := by
  unfold State.modKeys; exact s.st_modSt_proj (·.seqs) (by intro; rfl) i j
@[simp] theorem State.modKeys_st_arb (i : Fin 8) (f : Keys → Keys) (j : Fin 8) : ((s.modKeys i f).st j).arb = (s.st j).arb := by
  unfold State.modKeys; exact s.st_modSt_proj (·.arb) (by intro; rfl) i j
@[simp] theorem State.modKeys_st_regions (i : Fin 8) (f : Keys → Keys) (j : Fin 8) : ((s.modKeys i f).st j).regions = (s.st j).regions := by
  unfold State.modKeys; exact s.st_modSt_proj (·.regions) (by intro; rfl) i j
@[simp] theorem State.modKeys_st_pwr (i : Fin 8) (f : Keys → Keys) (j : Fin 8) : ((s.modKeys i f).st j).pwr = (s.st j).pwr := by
  unfold State.modKeys; exact s.st_modSt_proj (·.pwr) (by intro; rfl) i j
@[simp] theorem State.modKeys_st_repaired (i : Fin 8) (f : Keys → Keys) (j : Fin 8) : ((s.modKeys i f).st j).repaired = (s.st j).repaired := by
  unfold State.modKeys; exact s.st_modSt_proj (·.repaired) (by intro; rfl) i j
@[simp] theorem State.modKeys_st_cores (i : Fin 8) (f : Keys → Keys) (j : Fin 8) : ((s.modKeys i f).st j).cores = (s.st j).cores := by
  unfold State.modKeys; exact s.st_modSt_proj (·.cores) (by intro; rfl) i j
@[simp] theorem State.modKeys_st_groups (i : Fin 8) (f : Keys → Keys) (j : Fin 8) : ((s.modKeys i f).st j).groups = (s.st j).groups := by
  unfold State.modKeys; exact s.st_modSt_proj (·.groups) (by intro; rfl) i j
@[simp] theorem State.modKeys_st_batches (i : Fin 8) (f : Keys → Keys) (j : Fin 8) : ((s.modKeys i f).st j).batches = (s.st j).batches := by
  unfold State.modKeys; exact s.st_modSt_proj (·.batches) (by intro; rfl) i j
@[simp] theorem State.modKeys_st_hot (i : Fin 8) (f : Keys → Keys) (j : Fin 8) : ((s.modKeys i f).st j).hot = (s.st j).hot := by
  unfold State.modKeys; exact s.st_modSt_proj (·.hot) (by intro; rfl) i j
@[simp] theorem State.modKeys_st_fil (i : Fin 8) (f : Keys → Keys) (j : Fin 8) : ((s.modKeys i f).st j).fil = (s.st j).fil := by
  unfold State.modKeys; exact s.st_modSt_proj (·.fil) (by intro; rfl) i j
@[simp] theorem State.modKeys_st_ports (i : Fin 8) (f : Keys → Keys) (j : Fin 8) : ((s.modKeys i f).st j).ports = (s.st j).ports := by
  unfold State.modKeys; exact s.st_modSt_proj (·.ports) (by intro; rfl) i j
@[simp] theorem State.modKeys_st_sess (i : Fin 8) (f : Keys → Keys) (j : Fin 8) : ((s.modKeys i f).st j).sess = (s.st j).sess := by
  unfold State.modKeys; exact s.st_modSt_proj (·.sess) (by intro; rfl) i j
@[simp] theorem State.modKeys_st_chans (i : Fin 8) (f : Keys → Keys) (j : Fin 8) : ((s.modKeys i f).st j).chans = (s.st j).chans := by
  unfold State.modKeys; exact s.st_modSt_proj (·.chans) (by intro; rfl) i j
@[simp] theorem State.modKeys_st_ckpt (i : Fin 8) (f : Keys → Keys) (j : Fin 8) : ((s.modKeys i f).st j).ckpt = (s.st j).ckpt := by
  unfold State.modKeys; exact s.st_modSt_proj (·.ckpt) (by intro; rfl) i j
@[simp] theorem State.modKeys_st_opening (i : Fin 8) (f : Keys → Keys) (j : Fin 8) : ((s.modKeys i f).st j).opening = (s.st j).opening := by
  unfold State.modKeys; exact s.st_modSt_proj (·.opening) (by intro; rfl) i j
@[simp] theorem State.modKeys_st_blocked (i : Fin 8) (f : Keys → Keys) (j : Fin 8) : ((s.modKeys i f).st j).blocked = (s.st j).blocked := by
  unfold State.modKeys; exact s.st_modSt_proj (·.blocked) (by intro; rfl) i j
@[simp] theorem State.modKeys_st_xfrStop (i : Fin 8) (f : Keys → Keys) (j : Fin 8) : ((s.modKeys i f).st j).xfrStop = (s.st j).xfrStop := by
  unfold State.modKeys; exact s.st_modSt_proj (·.xfrStop) (by intro; rfl) i j
@[simp] theorem State.modKeys_st_bzlBuf (i : Fin 8) (f : Keys → Keys) (j : Fin 8) : ((s.modKeys i f).st j).bzlBuf = (s.st j).bzlBuf := by
  unfold State.modKeys; exact s.st_modSt_proj (·.bzlBuf) (by intro; rfl) i j
@[simp] theorem State.modKeys_st_keys (f : Keys → Keys) (i : Fin 8) : ((s.modKeys i f).st i).keys = f (s.st i).keys := by
  simp [State.modKeys]
theorem State.modKeys_st_other (f : Keys → Keys) (i j : Fin 8) (h : i ≠ j) : (s.modKeys i f).st j = s.st j := by
  simp [State.modKeys, State.st_modSt, h]

@[simp] theorem State.modRegion_st_clp (i : Fin 8) (n : Nat) (f : Region → Region) (j : Fin 8) : ((s.modRegion i n f).st j).clp = (s.st j).clp := by
  unfold State.modRegion; exact s.st_modSt_proj (·.clp) (by intro; rfl) i j
@[simp] theorem State.modRegion_st_tns (i : Fin 8) (n : Nat) (f : Region → Region) (j : Fin 8) : ((s.modRegion i n f).st j).tns = (s.st j).tns := by
  unfold State.modRegion; exact s.st_modSt_proj (·.tns) (by intro; rfl) i j
@[simp] theorem State.modRegion_st_mbx (i : Fin 8) (n : Nat) (f : Region → Region) (j : Fin 8) : ((s.modRegion i n f).st j).mbx = (s.st j).mbx := by
  unfold State.modRegion; exact s.st_modSt_proj (·.mbx) (by intro; rfl) i j
@[simp] theorem State.modRegion_st_replies (i : Fin 8) (n : Nat) (f : Region → Region) (j : Fin 8) : ((s.modRegion i n f).st j).replies = (s.st j).replies := by
  unfold State.modRegion; exact s.st_modSt_proj (·.replies) (by intro; rfl) i j
@[simp] theorem State.modRegion_st_evtSent (i : Fin 8) (n : Nat) (f : Region → Region) (j : Fin 8) : ((s.modRegion i n f).st j).evtSent = (s.st j).evtSent := by
  unfold State.modRegion; exact s.st_modSt_proj (·.evtSent) (by intro; rfl) i j
@[simp] theorem State.modRegion_st_seqs (i : Fin 8) (n : Nat) (f : Region → Region) (j : Fin 8) : ((s.modRegion i n f).st j).seqs = (s.st j).seqs := by
  unfold State.modRegion; exact s.st_modSt_proj (·.seqs) (by intro; rfl) i j
@[simp] theorem State.modRegion_st_arb (i : Fin 8) (n : Nat) (f : Region → Region) (j : Fin 8) : ((s.modRegion i n f).st j).arb = (s.st j).arb := by
  unfold State.modRegion; exact s.st_modSt_proj (·.arb) (by intro; rfl) i j
@[simp] theorem State.modRegion_st_pwr (i : Fin 8) (n : Nat) (f : Region → Region) (j : Fin 8) : ((s.modRegion i n f).st j).pwr = (s.st j).pwr := by
  unfold State.modRegion; exact s.st_modSt_proj (·.pwr) (by intro; rfl) i j
@[simp] theorem State.modRegion_st_keys (i : Fin 8) (n : Nat) (f : Region → Region) (j : Fin 8) : ((s.modRegion i n f).st j).keys = (s.st j).keys := by
  unfold State.modRegion; exact s.st_modSt_proj (·.keys) (by intro; rfl) i j
@[simp] theorem State.modRegion_st_repaired (i : Fin 8) (n : Nat) (f : Region → Region) (j : Fin 8) : ((s.modRegion i n f).st j).repaired = (s.st j).repaired := by
  unfold State.modRegion; exact s.st_modSt_proj (·.repaired) (by intro; rfl) i j
@[simp] theorem State.modRegion_st_cores (i : Fin 8) (n : Nat) (f : Region → Region) (j : Fin 8) : ((s.modRegion i n f).st j).cores = (s.st j).cores := by
  unfold State.modRegion; exact s.st_modSt_proj (·.cores) (by intro; rfl) i j
@[simp] theorem State.modRegion_st_groups (i : Fin 8) (n : Nat) (f : Region → Region) (j : Fin 8) : ((s.modRegion i n f).st j).groups = (s.st j).groups := by
  unfold State.modRegion; exact s.st_modSt_proj (·.groups) (by intro; rfl) i j
@[simp] theorem State.modRegion_st_batches (i : Fin 8) (n : Nat) (f : Region → Region) (j : Fin 8) : ((s.modRegion i n f).st j).batches = (s.st j).batches := by
  unfold State.modRegion; exact s.st_modSt_proj (·.batches) (by intro; rfl) i j
@[simp] theorem State.modRegion_st_hot (i : Fin 8) (n : Nat) (f : Region → Region) (j : Fin 8) : ((s.modRegion i n f).st j).hot = (s.st j).hot := by
  unfold State.modRegion; exact s.st_modSt_proj (·.hot) (by intro; rfl) i j
@[simp] theorem State.modRegion_st_fil (i : Fin 8) (n : Nat) (f : Region → Region) (j : Fin 8) : ((s.modRegion i n f).st j).fil = (s.st j).fil := by
  unfold State.modRegion; exact s.st_modSt_proj (·.fil) (by intro; rfl) i j
@[simp] theorem State.modRegion_st_ports (i : Fin 8) (n : Nat) (f : Region → Region) (j : Fin 8) : ((s.modRegion i n f).st j).ports = (s.st j).ports := by
  unfold State.modRegion; exact s.st_modSt_proj (·.ports) (by intro; rfl) i j
@[simp] theorem State.modRegion_st_sess (i : Fin 8) (n : Nat) (f : Region → Region) (j : Fin 8) : ((s.modRegion i n f).st j).sess = (s.st j).sess := by
  unfold State.modRegion; exact s.st_modSt_proj (·.sess) (by intro; rfl) i j
@[simp] theorem State.modRegion_st_chans (i : Fin 8) (n : Nat) (f : Region → Region) (j : Fin 8) : ((s.modRegion i n f).st j).chans = (s.st j).chans := by
  unfold State.modRegion; exact s.st_modSt_proj (·.chans) (by intro; rfl) i j
@[simp] theorem State.modRegion_st_ckpt (i : Fin 8) (n : Nat) (f : Region → Region) (j : Fin 8) : ((s.modRegion i n f).st j).ckpt = (s.st j).ckpt := by
  unfold State.modRegion; exact s.st_modSt_proj (·.ckpt) (by intro; rfl) i j
@[simp] theorem State.modRegion_st_opening (i : Fin 8) (n : Nat) (f : Region → Region) (j : Fin 8) : ((s.modRegion i n f).st j).opening = (s.st j).opening := by
  unfold State.modRegion; exact s.st_modSt_proj (·.opening) (by intro; rfl) i j
@[simp] theorem State.modRegion_st_blocked (i : Fin 8) (n : Nat) (f : Region → Region) (j : Fin 8) : ((s.modRegion i n f).st j).blocked = (s.st j).blocked := by
  unfold State.modRegion; exact s.st_modSt_proj (·.blocked) (by intro; rfl) i j
@[simp] theorem State.modRegion_st_xfrStop (i : Fin 8) (n : Nat) (f : Region → Region) (j : Fin 8) : ((s.modRegion i n f).st j).xfrStop = (s.st j).xfrStop := by
  unfold State.modRegion; exact s.st_modSt_proj (·.xfrStop) (by intro; rfl) i j
@[simp] theorem State.modRegion_st_bzlBuf (i : Fin 8) (n : Nat) (f : Region → Region) (j : Fin 8) : ((s.modRegion i n f).st j).bzlBuf = (s.st j).bzlBuf := by
  unfold State.modRegion; exact s.st_modSt_proj (·.bzlBuf) (by intro; rfl) i j

@[simp] theorem State.modSess_st_clp (i : Fin 8) (c : Nat) (f : Session → Session) (j : Fin 8) : ((s.modSess i c f).st j).clp = (s.st j).clp := by
  unfold State.modSess; exact s.st_modSt_proj (·.clp) (by intro; rfl) i j
@[simp] theorem State.modSess_st_tns (i : Fin 8) (c : Nat) (f : Session → Session) (j : Fin 8) : ((s.modSess i c f).st j).tns = (s.st j).tns := by
  unfold State.modSess; exact s.st_modSt_proj (·.tns) (by intro; rfl) i j
@[simp] theorem State.modSess_st_mbx (i : Fin 8) (c : Nat) (f : Session → Session) (j : Fin 8) : ((s.modSess i c f).st j).mbx = (s.st j).mbx := by
  unfold State.modSess; exact s.st_modSt_proj (·.mbx) (by intro; rfl) i j
@[simp] theorem State.modSess_st_replies (i : Fin 8) (c : Nat) (f : Session → Session) (j : Fin 8) : ((s.modSess i c f).st j).replies = (s.st j).replies := by
  unfold State.modSess; exact s.st_modSt_proj (·.replies) (by intro; rfl) i j
@[simp] theorem State.modSess_st_evtSent (i : Fin 8) (c : Nat) (f : Session → Session) (j : Fin 8) : ((s.modSess i c f).st j).evtSent = (s.st j).evtSent := by
  unfold State.modSess; exact s.st_modSt_proj (·.evtSent) (by intro; rfl) i j
@[simp] theorem State.modSess_st_seqs (i : Fin 8) (c : Nat) (f : Session → Session) (j : Fin 8) : ((s.modSess i c f).st j).seqs = (s.st j).seqs := by
  unfold State.modSess; exact s.st_modSt_proj (·.seqs) (by intro; rfl) i j
@[simp] theorem State.modSess_st_arb (i : Fin 8) (c : Nat) (f : Session → Session) (j : Fin 8) : ((s.modSess i c f).st j).arb = (s.st j).arb := by
  unfold State.modSess; exact s.st_modSt_proj (·.arb) (by intro; rfl) i j
@[simp] theorem State.modSess_st_regions (i : Fin 8) (c : Nat) (f : Session → Session) (j : Fin 8) : ((s.modSess i c f).st j).regions = (s.st j).regions := by
  unfold State.modSess; exact s.st_modSt_proj (·.regions) (by intro; rfl) i j
@[simp] theorem State.modSess_st_pwr (i : Fin 8) (c : Nat) (f : Session → Session) (j : Fin 8) : ((s.modSess i c f).st j).pwr = (s.st j).pwr := by
  unfold State.modSess; exact s.st_modSt_proj (·.pwr) (by intro; rfl) i j
@[simp] theorem State.modSess_st_keys (i : Fin 8) (c : Nat) (f : Session → Session) (j : Fin 8) : ((s.modSess i c f).st j).keys = (s.st j).keys := by
  unfold State.modSess; exact s.st_modSt_proj (·.keys) (by intro; rfl) i j
@[simp] theorem State.modSess_st_repaired (i : Fin 8) (c : Nat) (f : Session → Session) (j : Fin 8) : ((s.modSess i c f).st j).repaired = (s.st j).repaired := by
  unfold State.modSess; exact s.st_modSt_proj (·.repaired) (by intro; rfl) i j
@[simp] theorem State.modSess_st_cores (i : Fin 8) (c : Nat) (f : Session → Session) (j : Fin 8) : ((s.modSess i c f).st j).cores = (s.st j).cores := by
  unfold State.modSess; exact s.st_modSt_proj (·.cores) (by intro; rfl) i j
@[simp] theorem State.modSess_st_groups (i : Fin 8) (c : Nat) (f : Session → Session) (j : Fin 8) : ((s.modSess i c f).st j).groups = (s.st j).groups := by
  unfold State.modSess; exact s.st_modSt_proj (·.groups) (by intro; rfl) i j
@[simp] theorem State.modSess_st_batches (i : Fin 8) (c : Nat) (f : Session → Session) (j : Fin 8) : ((s.modSess i c f).st j).batches = (s.st j).batches := by
  unfold State.modSess; exact s.st_modSt_proj (·.batches) (by intro; rfl) i j
@[simp] theorem State.modSess_st_hot (i : Fin 8) (c : Nat) (f : Session → Session) (j : Fin 8) : ((s.modSess i c f).st j).hot = (s.st j).hot := by
  unfold State.modSess; exact s.st_modSt_proj (·.hot) (by intro; rfl) i j
@[simp] theorem State.modSess_st_fil (i : Fin 8) (c : Nat) (f : Session → Session) (j : Fin 8) : ((s.modSess i c f).st j).fil = (s.st j).fil := by
  unfold State.modSess; exact s.st_modSt_proj (·.fil) (by intro; rfl) i j
@[simp] theorem State.modSess_st_ports (i : Fin 8) (c : Nat) (f : Session → Session) (j : Fin 8) : ((s.modSess i c f).st j).ports = (s.st j).ports := by
  unfold State.modSess; exact s.st_modSt_proj (·.ports) (by intro; rfl) i j
@[simp] theorem State.modSess_st_chans (i : Fin 8) (c : Nat) (f : Session → Session) (j : Fin 8) : ((s.modSess i c f).st j).chans = (s.st j).chans := by
  unfold State.modSess; exact s.st_modSt_proj (·.chans) (by intro; rfl) i j
@[simp] theorem State.modSess_st_ckpt (i : Fin 8) (c : Nat) (f : Session → Session) (j : Fin 8) : ((s.modSess i c f).st j).ckpt = (s.st j).ckpt := by
  unfold State.modSess; exact s.st_modSt_proj (·.ckpt) (by intro; rfl) i j
@[simp] theorem State.modSess_st_opening (i : Fin 8) (c : Nat) (f : Session → Session) (j : Fin 8) : ((s.modSess i c f).st j).opening = (s.st j).opening := by
  unfold State.modSess; exact s.st_modSt_proj (·.opening) (by intro; rfl) i j
@[simp] theorem State.modSess_st_blocked (i : Fin 8) (c : Nat) (f : Session → Session) (j : Fin 8) : ((s.modSess i c f).st j).blocked = (s.st j).blocked := by
  unfold State.modSess; exact s.st_modSt_proj (·.blocked) (by intro; rfl) i j
@[simp] theorem State.modSess_st_xfrStop (i : Fin 8) (c : Nat) (f : Session → Session) (j : Fin 8) : ((s.modSess i c f).st j).xfrStop = (s.st j).xfrStop := by
  unfold State.modSess; exact s.st_modSt_proj (·.xfrStop) (by intro; rfl) i j
@[simp] theorem State.modSess_st_bzlBuf (i : Fin 8) (c : Nat) (f : Session → Session) (j : Fin 8) : ((s.modSess i c f).st j).bzlBuf = (s.st j).bzlBuf := by
  unfold State.modSess; exact s.st_modSt_proj (·.bzlBuf) (by intro; rfl) i j

@[simp] theorem State.modChan_st_clp (i : Fin 8) (c : Nat) (f : Channel → Channel) (j : Fin 8) : ((s.modChan i c f).st j).clp = (s.st j).clp := by
  unfold State.modChan; exact s.st_modSt_proj (·.clp) (by intro; rfl) i j
@[simp] theorem State.modChan_st_tns (i : Fin 8) (c : Nat) (f : Channel → Channel) (j : Fin 8) : ((s.modChan i c f).st j).tns = (s.st j).tns := by
  unfold State.modChan; exact s.st_modSt_proj (·.tns) (by intro; rfl) i j
@[simp] theorem State.modChan_st_mbx (i : Fin 8) (c : Nat) (f : Channel → Channel) (j : Fin 8) : ((s.modChan i c f).st j).mbx = (s.st j).mbx := by
  unfold State.modChan; exact s.st_modSt_proj (·.mbx) (by intro; rfl) i j
@[simp] theorem State.modChan_st_replies (i : Fin 8) (c : Nat) (f : Channel → Channel) (j : Fin 8) : ((s.modChan i c f).st j).replies = (s.st j).replies := by
  unfold State.modChan; exact s.st_modSt_proj (·.replies) (by intro; rfl) i j
@[simp] theorem State.modChan_st_evtSent (i : Fin 8) (c : Nat) (f : Channel → Channel) (j : Fin 8) : ((s.modChan i c f).st j).evtSent = (s.st j).evtSent := by
  unfold State.modChan; exact s.st_modSt_proj (·.evtSent) (by intro; rfl) i j
@[simp] theorem State.modChan_st_seqs (i : Fin 8) (c : Nat) (f : Channel → Channel) (j : Fin 8) : ((s.modChan i c f).st j).seqs = (s.st j).seqs := by
  unfold State.modChan; exact s.st_modSt_proj (·.seqs) (by intro; rfl) i j
@[simp] theorem State.modChan_st_arb (i : Fin 8) (c : Nat) (f : Channel → Channel) (j : Fin 8) : ((s.modChan i c f).st j).arb = (s.st j).arb := by
  unfold State.modChan; exact s.st_modSt_proj (·.arb) (by intro; rfl) i j
@[simp] theorem State.modChan_st_regions (i : Fin 8) (c : Nat) (f : Channel → Channel) (j : Fin 8) : ((s.modChan i c f).st j).regions = (s.st j).regions := by
  unfold State.modChan; exact s.st_modSt_proj (·.regions) (by intro; rfl) i j
@[simp] theorem State.modChan_st_pwr (i : Fin 8) (c : Nat) (f : Channel → Channel) (j : Fin 8) : ((s.modChan i c f).st j).pwr = (s.st j).pwr := by
  unfold State.modChan; exact s.st_modSt_proj (·.pwr) (by intro; rfl) i j
@[simp] theorem State.modChan_st_keys (i : Fin 8) (c : Nat) (f : Channel → Channel) (j : Fin 8) : ((s.modChan i c f).st j).keys = (s.st j).keys := by
  unfold State.modChan; exact s.st_modSt_proj (·.keys) (by intro; rfl) i j
@[simp] theorem State.modChan_st_repaired (i : Fin 8) (c : Nat) (f : Channel → Channel) (j : Fin 8) : ((s.modChan i c f).st j).repaired = (s.st j).repaired := by
  unfold State.modChan; exact s.st_modSt_proj (·.repaired) (by intro; rfl) i j
@[simp] theorem State.modChan_st_cores (i : Fin 8) (c : Nat) (f : Channel → Channel) (j : Fin 8) : ((s.modChan i c f).st j).cores = (s.st j).cores := by
  unfold State.modChan; exact s.st_modSt_proj (·.cores) (by intro; rfl) i j
@[simp] theorem State.modChan_st_groups (i : Fin 8) (c : Nat) (f : Channel → Channel) (j : Fin 8) : ((s.modChan i c f).st j).groups = (s.st j).groups := by
  unfold State.modChan; exact s.st_modSt_proj (·.groups) (by intro; rfl) i j
@[simp] theorem State.modChan_st_batches (i : Fin 8) (c : Nat) (f : Channel → Channel) (j : Fin 8) : ((s.modChan i c f).st j).batches = (s.st j).batches := by
  unfold State.modChan; exact s.st_modSt_proj (·.batches) (by intro; rfl) i j
@[simp] theorem State.modChan_st_hot (i : Fin 8) (c : Nat) (f : Channel → Channel) (j : Fin 8) : ((s.modChan i c f).st j).hot = (s.st j).hot := by
  unfold State.modChan; exact s.st_modSt_proj (·.hot) (by intro; rfl) i j
@[simp] theorem State.modChan_st_fil (i : Fin 8) (c : Nat) (f : Channel → Channel) (j : Fin 8) : ((s.modChan i c f).st j).fil = (s.st j).fil := by
  unfold State.modChan; exact s.st_modSt_proj (·.fil) (by intro; rfl) i j
@[simp] theorem State.modChan_st_ports (i : Fin 8) (c : Nat) (f : Channel → Channel) (j : Fin 8) : ((s.modChan i c f).st j).ports = (s.st j).ports := by
  unfold State.modChan; exact s.st_modSt_proj (·.ports) (by intro; rfl) i j
@[simp] theorem State.modChan_st_sess (i : Fin 8) (c : Nat) (f : Channel → Channel) (j : Fin 8) : ((s.modChan i c f).st j).sess = (s.st j).sess := by
  unfold State.modChan; exact s.st_modSt_proj (·.sess) (by intro; rfl) i j
@[simp] theorem State.modChan_st_ckpt (i : Fin 8) (c : Nat) (f : Channel → Channel) (j : Fin 8) : ((s.modChan i c f).st j).ckpt = (s.st j).ckpt := by
  unfold State.modChan; exact s.st_modSt_proj (·.ckpt) (by intro; rfl) i j
@[simp] theorem State.modChan_st_opening (i : Fin 8) (c : Nat) (f : Channel → Channel) (j : Fin 8) : ((s.modChan i c f).st j).opening = (s.st j).opening := by
  unfold State.modChan; exact s.st_modSt_proj (·.opening) (by intro; rfl) i j
@[simp] theorem State.modChan_st_blocked (i : Fin 8) (c : Nat) (f : Channel → Channel) (j : Fin 8) : ((s.modChan i c f).st j).blocked = (s.st j).blocked := by
  unfold State.modChan; exact s.st_modSt_proj (·.blocked) (by intro; rfl) i j
@[simp] theorem State.modChan_st_xfrStop (i : Fin 8) (c : Nat) (f : Channel → Channel) (j : Fin 8) : ((s.modChan i c f).st j).xfrStop = (s.st j).xfrStop := by
  unfold State.modChan; exact s.st_modSt_proj (·.xfrStop) (by intro; rfl) i j
@[simp] theorem State.modChan_st_bzlBuf (i : Fin 8) (c : Nat) (f : Channel → Channel) (j : Fin 8) : ((s.modChan i c f).st j).bzlBuf = (s.st j).bzlBuf := by
  unfold State.modChan; exact s.st_modSt_proj (·.bzlBuf) (by intro; rfl) i j

@[simp] theorem State.modCkpt_st_clp (i : Fin 8) (f : Ckpt → Ckpt) (j : Fin 8) : ((s.modCkpt i f).st j).clp = (s.st j).clp := by
  unfold State.modCkpt; exact s.st_modSt_proj (·.clp) (by intro; rfl) i j
@[simp] theorem State.modCkpt_st_tns (i : Fin 8) (f : Ckpt → Ckpt) (j : Fin 8) : ((s.modCkpt i f).st j).tns = (s.st j).tns := by
  unfold State.modCkpt; exact s.st_modSt_proj (·.tns) (by intro; rfl) i j
@[simp] theorem State.modCkpt_st_mbx (i : Fin 8) (f : Ckpt → Ckpt) (j : Fin 8) : ((s.modCkpt i f).st j).mbx = (s.st j).mbx := by
  unfold State.modCkpt; exact s.st_modSt_proj (·.mbx) (by intro; rfl) i j
@[simp] theorem State.modCkpt_st_replies (i : Fin 8) (f : Ckpt → Ckpt) (j : Fin 8) : ((s.modCkpt i f).st j).replies = (s.st j).replies := by
  unfold State.modCkpt; exact s.st_modSt_proj (·.replies) (by intro; rfl) i j
@[simp] theorem State.modCkpt_st_evtSent (i : Fin 8) (f : Ckpt → Ckpt) (j : Fin 8) : ((s.modCkpt i f).st j).evtSent = (s.st j).evtSent := by
  unfold State.modCkpt; exact s.st_modSt_proj (·.evtSent) (by intro; rfl) i j
@[simp] theorem State.modCkpt_st_seqs (i : Fin 8) (f : Ckpt → Ckpt) (j : Fin 8) : ((s.modCkpt i f).st j).seqs = (s.st j).seqs := by
  unfold State.modCkpt; exact s.st_modSt_proj (·.seqs) (by intro; rfl) i j
@[simp] theorem State.modCkpt_st_arb (i : Fin 8) (f : Ckpt → Ckpt) (j : Fin 8) : ((s.modCkpt i f).st j).arb = (s.st j).arb := by
  unfold State.modCkpt; exact s.st_modSt_proj (·.arb) (by intro; rfl) i j
@[simp] theorem State.modCkpt_st_regions (i : Fin 8) (f : Ckpt → Ckpt) (j : Fin 8) : ((s.modCkpt i f).st j).regions = (s.st j).regions := by
  unfold State.modCkpt; exact s.st_modSt_proj (·.regions) (by intro; rfl) i j
@[simp] theorem State.modCkpt_st_pwr (i : Fin 8) (f : Ckpt → Ckpt) (j : Fin 8) : ((s.modCkpt i f).st j).pwr = (s.st j).pwr := by
  unfold State.modCkpt; exact s.st_modSt_proj (·.pwr) (by intro; rfl) i j
@[simp] theorem State.modCkpt_st_keys (i : Fin 8) (f : Ckpt → Ckpt) (j : Fin 8) : ((s.modCkpt i f).st j).keys = (s.st j).keys := by
  unfold State.modCkpt; exact s.st_modSt_proj (·.keys) (by intro; rfl) i j
@[simp] theorem State.modCkpt_st_repaired (i : Fin 8) (f : Ckpt → Ckpt) (j : Fin 8) : ((s.modCkpt i f).st j).repaired = (s.st j).repaired := by
  unfold State.modCkpt; exact s.st_modSt_proj (·.repaired) (by intro; rfl) i j
@[simp] theorem State.modCkpt_st_cores (i : Fin 8) (f : Ckpt → Ckpt) (j : Fin 8) : ((s.modCkpt i f).st j).cores = (s.st j).cores := by
  unfold State.modCkpt; exact s.st_modSt_proj (·.cores) (by intro; rfl) i j
@[simp] theorem State.modCkpt_st_groups (i : Fin 8) (f : Ckpt → Ckpt) (j : Fin 8) : ((s.modCkpt i f).st j).groups = (s.st j).groups := by
  unfold State.modCkpt; exact s.st_modSt_proj (·.groups) (by intro; rfl) i j
@[simp] theorem State.modCkpt_st_batches (i : Fin 8) (f : Ckpt → Ckpt) (j : Fin 8) : ((s.modCkpt i f).st j).batches = (s.st j).batches := by
  unfold State.modCkpt; exact s.st_modSt_proj (·.batches) (by intro; rfl) i j
@[simp] theorem State.modCkpt_st_hot (i : Fin 8) (f : Ckpt → Ckpt) (j : Fin 8) : ((s.modCkpt i f).st j).hot = (s.st j).hot := by
  unfold State.modCkpt; exact s.st_modSt_proj (·.hot) (by intro; rfl) i j
@[simp] theorem State.modCkpt_st_fil (i : Fin 8) (f : Ckpt → Ckpt) (j : Fin 8) : ((s.modCkpt i f).st j).fil = (s.st j).fil := by
  unfold State.modCkpt; exact s.st_modSt_proj (·.fil) (by intro; rfl) i j
@[simp] theorem State.modCkpt_st_ports (i : Fin 8) (f : Ckpt → Ckpt) (j : Fin 8) : ((s.modCkpt i f).st j).ports = (s.st j).ports := by
  unfold State.modCkpt; exact s.st_modSt_proj (·.ports) (by intro; rfl) i j
@[simp] theorem State.modCkpt_st_sess (i : Fin 8) (f : Ckpt → Ckpt) (j : Fin 8) : ((s.modCkpt i f).st j).sess = (s.st j).sess := by
  unfold State.modCkpt; exact s.st_modSt_proj (·.sess) (by intro; rfl) i j
@[simp] theorem State.modCkpt_st_chans (i : Fin 8) (f : Ckpt → Ckpt) (j : Fin 8) : ((s.modCkpt i f).st j).chans = (s.st j).chans := by
  unfold State.modCkpt; exact s.st_modSt_proj (·.chans) (by intro; rfl) i j
@[simp] theorem State.modCkpt_st_opening (i : Fin 8) (f : Ckpt → Ckpt) (j : Fin 8) : ((s.modCkpt i f).st j).opening = (s.st j).opening := by
  unfold State.modCkpt; exact s.st_modSt_proj (·.opening) (by intro; rfl) i j
@[simp] theorem State.modCkpt_st_blocked (i : Fin 8) (f : Ckpt → Ckpt) (j : Fin 8) : ((s.modCkpt i f).st j).blocked = (s.st j).blocked := by
  unfold State.modCkpt; exact s.st_modSt_proj (·.blocked) (by intro; rfl) i j
@[simp] theorem State.modCkpt_st_xfrStop (i : Fin 8) (f : Ckpt → Ckpt) (j : Fin 8) : ((s.modCkpt i f).st j).xfrStop = (s.st j).xfrStop := by
  unfold State.modCkpt; exact s.st_modSt_proj (·.xfrStop) (by intro; rfl) i j
@[simp] theorem State.modCkpt_st_bzlBuf (i : Fin 8) (f : Ckpt → Ckpt) (j : Fin 8) : ((s.modCkpt i f).st j).bzlBuf = (s.st j).bzlBuf := by
  unfold State.modCkpt; exact s.st_modSt_proj (·.bzlBuf) (by intro; rfl) i j
@[simp] theorem State.modCkpt_st_ckpt (f : Ckpt → Ckpt) (i : Fin 8) : ((s.modCkpt i f).st i).ckpt = f (s.st i).ckpt := by
  simp [State.modCkpt]
theorem State.modCkpt_st_other (f : Ckpt → Ckpt) (i j : Fin 8) (h : i ≠ j) : (s.modCkpt i f).st j = s.st j := by
  simp [State.modCkpt, State.st_modSt, h]

@[simp] theorem State.modFil_st_clp (i : Fin 8) (f : Filigree → Filigree) (j : Fin 8) : ((s.modFil i f).st j).clp = (s.st j).clp := by
  unfold State.modFil; exact s.st_modSt_proj (·.clp) (by intro; rfl) i j
@[simp] theorem State.modFil_st_tns (i : Fin 8) (f : Filigree → Filigree) (j : Fin 8) : ((s.modFil i f).st j).tns = (s.st j).tns := by
  unfold State.modFil; exact s.st_modSt_proj (·.tns) (by intro; rfl) i j
@[simp] theorem State.modFil_st_mbx (i : Fin 8) (f : Filigree → Filigree) (j : Fin 8) : ((s.modFil i f).st j).mbx = (s.st j).mbx := by
  unfold State.modFil; exact s.st_modSt_proj (·.mbx) (by intro; rfl) i j
@[simp] theorem State.modFil_st_replies (i : Fin 8) (f : Filigree → Filigree) (j : Fin 8) : ((s.modFil i f).st j).replies = (s.st j).replies := by
  unfold State.modFil; exact s.st_modSt_proj (·.replies) (by intro; rfl) i j
@[simp] theorem State.modFil_st_evtSent (i : Fin 8) (f : Filigree → Filigree) (j : Fin 8) : ((s.modFil i f).st j).evtSent = (s.st j).evtSent := by
  unfold State.modFil; exact s.st_modSt_proj (·.evtSent) (by intro; rfl) i j
@[simp] theorem State.modFil_st_seqs (i : Fin 8) (f : Filigree → Filigree) (j : Fin 8) : ((s.modFil i f).st j).seqs = (s.st j).seqs := by
  unfold State.modFil; exact s.st_modSt_proj (·.seqs) (by intro; rfl) i j
@[simp] theorem State.modFil_st_arb (i : Fin 8) (f : Filigree → Filigree) (j : Fin 8) : ((s.modFil i f).st j).arb = (s.st j).arb := by
  unfold State.modFil; exact s.st_modSt_proj (·.arb) (by intro; rfl) i j
@[simp] theorem State.modFil_st_regions (i : Fin 8) (f : Filigree → Filigree) (j : Fin 8) : ((s.modFil i f).st j).regions = (s.st j).regions := by
  unfold State.modFil; exact s.st_modSt_proj (·.regions) (by intro; rfl) i j
@[simp] theorem State.modFil_st_pwr (i : Fin 8) (f : Filigree → Filigree) (j : Fin 8) : ((s.modFil i f).st j).pwr = (s.st j).pwr := by
  unfold State.modFil; exact s.st_modSt_proj (·.pwr) (by intro; rfl) i j
@[simp] theorem State.modFil_st_keys (i : Fin 8) (f : Filigree → Filigree) (j : Fin 8) : ((s.modFil i f).st j).keys = (s.st j).keys := by
  unfold State.modFil; exact s.st_modSt_proj (·.keys) (by intro; rfl) i j
@[simp] theorem State.modFil_st_repaired (i : Fin 8) (f : Filigree → Filigree) (j : Fin 8) : ((s.modFil i f).st j).repaired = (s.st j).repaired := by
  unfold State.modFil; exact s.st_modSt_proj (·.repaired) (by intro; rfl) i j
@[simp] theorem State.modFil_st_cores (i : Fin 8) (f : Filigree → Filigree) (j : Fin 8) : ((s.modFil i f).st j).cores = (s.st j).cores := by
  unfold State.modFil; exact s.st_modSt_proj (·.cores) (by intro; rfl) i j
@[simp] theorem State.modFil_st_groups (i : Fin 8) (f : Filigree → Filigree) (j : Fin 8) : ((s.modFil i f).st j).groups = (s.st j).groups := by
  unfold State.modFil; exact s.st_modSt_proj (·.groups) (by intro; rfl) i j
@[simp] theorem State.modFil_st_batches (i : Fin 8) (f : Filigree → Filigree) (j : Fin 8) : ((s.modFil i f).st j).batches = (s.st j).batches := by
  unfold State.modFil; exact s.st_modSt_proj (·.batches) (by intro; rfl) i j
@[simp] theorem State.modFil_st_hot (i : Fin 8) (f : Filigree → Filigree) (j : Fin 8) : ((s.modFil i f).st j).hot = (s.st j).hot := by
  unfold State.modFil; exact s.st_modSt_proj (·.hot) (by intro; rfl) i j
@[simp] theorem State.modFil_st_ports (i : Fin 8) (f : Filigree → Filigree) (j : Fin 8) : ((s.modFil i f).st j).ports = (s.st j).ports := by
  unfold State.modFil; exact s.st_modSt_proj (·.ports) (by intro; rfl) i j
@[simp] theorem State.modFil_st_sess (i : Fin 8) (f : Filigree → Filigree) (j : Fin 8) : ((s.modFil i f).st j).sess = (s.st j).sess := by
  unfold State.modFil; exact s.st_modSt_proj (·.sess) (by intro; rfl) i j
@[simp] theorem State.modFil_st_chans (i : Fin 8) (f : Filigree → Filigree) (j : Fin 8) : ((s.modFil i f).st j).chans = (s.st j).chans := by
  unfold State.modFil; exact s.st_modSt_proj (·.chans) (by intro; rfl) i j
@[simp] theorem State.modFil_st_ckpt (i : Fin 8) (f : Filigree → Filigree) (j : Fin 8) : ((s.modFil i f).st j).ckpt = (s.st j).ckpt := by
  unfold State.modFil; exact s.st_modSt_proj (·.ckpt) (by intro; rfl) i j
@[simp] theorem State.modFil_st_opening (i : Fin 8) (f : Filigree → Filigree) (j : Fin 8) : ((s.modFil i f).st j).opening = (s.st j).opening := by
  unfold State.modFil; exact s.st_modSt_proj (·.opening) (by intro; rfl) i j
@[simp] theorem State.modFil_st_blocked (i : Fin 8) (f : Filigree → Filigree) (j : Fin 8) : ((s.modFil i f).st j).blocked = (s.st j).blocked := by
  unfold State.modFil; exact s.st_modSt_proj (·.blocked) (by intro; rfl) i j
@[simp] theorem State.modFil_st_xfrStop (i : Fin 8) (f : Filigree → Filigree) (j : Fin 8) : ((s.modFil i f).st j).xfrStop = (s.st j).xfrStop := by
  unfold State.modFil; exact s.st_modSt_proj (·.xfrStop) (by intro; rfl) i j
@[simp] theorem State.modFil_st_bzlBuf (i : Fin 8) (f : Filigree → Filigree) (j : Fin 8) : ((s.modFil i f).st j).bzlBuf = (s.st j).bzlBuf := by
  unfold State.modFil; exact s.st_modSt_proj (·.bzlBuf) (by intro; rfl) i j
@[simp] theorem State.modFil_st_fil (f : Filigree → Filigree) (i : Fin 8) : ((s.modFil i f).st i).fil = f (s.st i).fil := by
  simp [State.modFil]
theorem State.modFil_st_other (f : Filigree → Filigree) (i j : Fin 8) (h : i ≠ j) : (s.modFil i f).st j = s.st j := by
  simp [State.modFil, State.st_modSt, h]

@[simp] theorem State.modHot_st_clp (i : Fin 8) (f : HotSet → HotSet) (j : Fin 8) : ((s.modHot i f).st j).clp = (s.st j).clp := by
  unfold State.modHot; exact s.st_modSt_proj (·.clp) (by intro; rfl) i j
@[simp] theorem State.modHot_st_tns (i : Fin 8) (f : HotSet → HotSet) (j : Fin 8) : ((s.modHot i f).st j).tns = (s.st j).tns := by
  unfold State.modHot; exact s.st_modSt_proj (·.tns) (by intro; rfl) i j
@[simp] theorem State.modHot_st_mbx (i : Fin 8) (f : HotSet → HotSet) (j : Fin 8) : ((s.modHot i f).st j).mbx = (s.st j).mbx := by
  unfold State.modHot; exact s.st_modSt_proj (·.mbx) (by intro; rfl) i j
@[simp] theorem State.modHot_st_replies (i : Fin 8) (f : HotSet → HotSet) (j : Fin 8) : ((s.modHot i f).st j).replies = (s.st j).replies := by
  unfold State.modHot; exact s.st_modSt_proj (·.replies) (by intro; rfl) i j
@[simp] theorem State.modHot_st_evtSent (i : Fin 8) (f : HotSet → HotSet) (j : Fin 8) : ((s.modHot i f).st j).evtSent = (s.st j).evtSent := by
  unfold State.modHot; exact s.st_modSt_proj (·.evtSent) (by intro; rfl) i j
@[simp] theorem State.modHot_st_seqs (i : Fin 8) (f : HotSet → HotSet) (j : Fin 8) : ((s.modHot i f).st j).seqs = (s.st j).seqs := by
  unfold State.modHot; exact s.st_modSt_proj (·.seqs) (by intro; rfl) i j
@[simp] theorem State.modHot_st_arb (i : Fin 8) (f : HotSet → HotSet) (j : Fin 8) : ((s.modHot i f).st j).arb = (s.st j).arb := by
  unfold State.modHot; exact s.st_modSt_proj (·.arb) (by intro; rfl) i j
@[simp] theorem State.modHot_st_regions (i : Fin 8) (f : HotSet → HotSet) (j : Fin 8) : ((s.modHot i f).st j).regions = (s.st j).regions := by
  unfold State.modHot; exact s.st_modSt_proj (·.regions) (by intro; rfl) i j
@[simp] theorem State.modHot_st_pwr (i : Fin 8) (f : HotSet → HotSet) (j : Fin 8) : ((s.modHot i f).st j).pwr = (s.st j).pwr := by
  unfold State.modHot; exact s.st_modSt_proj (·.pwr) (by intro; rfl) i j
@[simp] theorem State.modHot_st_keys (i : Fin 8) (f : HotSet → HotSet) (j : Fin 8) : ((s.modHot i f).st j).keys = (s.st j).keys := by
  unfold State.modHot; exact s.st_modSt_proj (·.keys) (by intro; rfl) i j
@[simp] theorem State.modHot_st_repaired (i : Fin 8) (f : HotSet → HotSet) (j : Fin 8) : ((s.modHot i f).st j).repaired = (s.st j).repaired := by
  unfold State.modHot; exact s.st_modSt_proj (·.repaired) (by intro; rfl) i j
@[simp] theorem State.modHot_st_cores (i : Fin 8) (f : HotSet → HotSet) (j : Fin 8) : ((s.modHot i f).st j).cores = (s.st j).cores := by
  unfold State.modHot; exact s.st_modSt_proj (·.cores) (by intro; rfl) i j
@[simp] theorem State.modHot_st_groups (i : Fin 8) (f : HotSet → HotSet) (j : Fin 8) : ((s.modHot i f).st j).groups = (s.st j).groups := by
  unfold State.modHot; exact s.st_modSt_proj (·.groups) (by intro; rfl) i j
@[simp] theorem State.modHot_st_batches (i : Fin 8) (f : HotSet → HotSet) (j : Fin 8) : ((s.modHot i f).st j).batches = (s.st j).batches := by
  unfold State.modHot; exact s.st_modSt_proj (·.batches) (by intro; rfl) i j
@[simp] theorem State.modHot_st_fil (i : Fin 8) (f : HotSet → HotSet) (j : Fin 8) : ((s.modHot i f).st j).fil = (s.st j).fil := by
  unfold State.modHot; exact s.st_modSt_proj (·.fil) (by intro; rfl) i j
@[simp] theorem State.modHot_st_ports (i : Fin 8) (f : HotSet → HotSet) (j : Fin 8) : ((s.modHot i f).st j).ports = (s.st j).ports := by
  unfold State.modHot; exact s.st_modSt_proj (·.ports) (by intro; rfl) i j
@[simp] theorem State.modHot_st_sess (i : Fin 8) (f : HotSet → HotSet) (j : Fin 8) : ((s.modHot i f).st j).sess = (s.st j).sess := by
  unfold State.modHot; exact s.st_modSt_proj (·.sess) (by intro; rfl) i j
@[simp] theorem State.modHot_st_chans (i : Fin 8) (f : HotSet → HotSet) (j : Fin 8) : ((s.modHot i f).st j).chans = (s.st j).chans := by
  unfold State.modHot; exact s.st_modSt_proj (·.chans) (by intro; rfl) i j
@[simp] theorem State.modHot_st_ckpt (i : Fin 8) (f : HotSet → HotSet) (j : Fin 8) : ((s.modHot i f).st j).ckpt = (s.st j).ckpt := by
  unfold State.modHot; exact s.st_modSt_proj (·.ckpt) (by intro; rfl) i j
@[simp] theorem State.modHot_st_opening (i : Fin 8) (f : HotSet → HotSet) (j : Fin 8) : ((s.modHot i f).st j).opening = (s.st j).opening := by
  unfold State.modHot; exact s.st_modSt_proj (·.opening) (by intro; rfl) i j
@[simp] theorem State.modHot_st_blocked (i : Fin 8) (f : HotSet → HotSet) (j : Fin 8) : ((s.modHot i f).st j).blocked = (s.st j).blocked := by
  unfold State.modHot; exact s.st_modSt_proj (·.blocked) (by intro; rfl) i j
@[simp] theorem State.modHot_st_xfrStop (i : Fin 8) (f : HotSet → HotSet) (j : Fin 8) : ((s.modHot i f).st j).xfrStop = (s.st j).xfrStop := by
  unfold State.modHot; exact s.st_modSt_proj (·.xfrStop) (by intro; rfl) i j
@[simp] theorem State.modHot_st_bzlBuf (i : Fin 8) (f : HotSet → HotSet) (j : Fin 8) : ((s.modHot i f).st j).bzlBuf = (s.st j).bzlBuf := by
  unfold State.modHot; exact s.st_modSt_proj (·.bzlBuf) (by intro; rfl) i j
@[simp] theorem State.modHot_st_hot (f : HotSet → HotSet) (i : Fin 8) : ((s.modHot i f).st i).hot = f (s.st i).hot := by
  simp [State.modHot]
theorem State.modHot_st_other (f : HotSet → HotSet) (i j : Fin 8) (h : i ≠ j) : (s.modHot i f).st j = s.st j := by
  simp [State.modHot, State.st_modSt, h]

/-! ### The numbered parts of a stack -/

theorem State.seq_modSeq (i : Fin 8) (n : Fin 4) (f : Seq → Seq) (j : Fin 8) (k : Fin 4) :
    (s.modSeq i n f).seq j k = if i = j ∧ n = k then f (s.seq i n) else s.seq j k := by
  by_cases hij : i = j
  · subst hij
    simp only [State.modSeq, State.seq, State.st_modSt_same, Fin.getElem_fin, Vector.getElem_set, Fin.ext_iff, true_and]
  · simp [State.modSeq, State.seq, State.st_modSt, hij]

@[simp] theorem State.seq_modSeq_same (i : Fin 8) (n : Fin 4) (f : Seq → Seq) :
    (s.modSeq i n f).seq i n = f (s.seq i n) := by simp [State.seq_modSeq]

theorem State.box_modBox (i : Fin 8) (x : Nat) (f : Mailbox → Mailbox) (j : Fin 8) (y : Nat) :
    (s.modBox i x f).box j y = if i = j ∧ x = y then f (s.box i x) else s.box j y := by
  by_cases hij : i = j
  · subst hij
    simp [State.modBox, State.box, Laws.Sparse.get_set, eq_comm]
  · simp [State.modBox, State.box, State.st_modSt, hij]

@[simp] theorem State.box_modBox_same (i : Fin 8) (x : Nat) (f : Mailbox → Mailbox) :
    (s.modBox i x f).box i x = f (s.box i x) := by simp [State.box_modBox]

theorem State.core_modCore (i : Fin 8) (x : Nat) (f : Core → Core) (j : Fin 8) (y : Nat) :
    (s.modCore i x f).core j y = if i = j ∧ x = y then f (s.core i x) else s.core j y := by
  by_cases hij : i = j
  · subst hij
    simp [State.modCore, State.core, Laws.Sparse.get_set, eq_comm]
  · simp [State.modCore, State.core, State.st_modSt, hij]

@[simp] theorem State.core_modCore_same (i : Fin 8) (x : Nat) (f : Core → Core) :
    (s.modCore i x f).core i x = f (s.core i x) := by simp [State.core_modCore]

theorem State.region_modRegion (i : Fin 8) (x : Nat) (f : Region → Region) (j : Fin 8) (y : Nat) :
    (s.modRegion i x f).region j y = if i = j ∧ x = y then f (s.region i x) else s.region j y := by
  by_cases hij : i = j
  · subst hij
    simp [State.modRegion, State.region, Laws.Sparse.get_set, eq_comm]
  · simp [State.modRegion, State.region, State.st_modSt, hij]

@[simp] theorem State.region_modRegion_same (i : Fin 8) (x : Nat) (f : Region → Region) :
    (s.modRegion i x f).region i x = f (s.region i x) := by simp [State.region_modRegion]

theorem State.sess_modSess (i : Fin 8) (x : Nat) (f : Session → Session) (j : Fin 8) (y : Nat) :
    (s.modSess i x f).sess j y = if i = j ∧ x = y then f (s.sess i x) else s.sess j y := by
  by_cases hij : i = j
  · subst hij
    simp [State.modSess, State.sess, Laws.Sparse.get_set, eq_comm]
  · simp [State.modSess, State.sess, State.st_modSt, hij]

@[simp] theorem State.sess_modSess_same (i : Fin 8) (x : Nat) (f : Session → Session) :
    (s.modSess i x f).sess i x = f (s.sess i x) := by simp [State.sess_modSess]

theorem State.chan_modChan (i : Fin 8) (x : Nat) (f : Channel → Channel) (j : Fin 8) (y : Nat) :
    (s.modChan i x f).chan j y = if i = j ∧ x = y then f (s.chan i x) else s.chan j y := by
  by_cases hij : i = j
  · subst hij
    simp [State.modChan, State.chan, Laws.Sparse.get_set, eq_comm]
  · simp [State.modChan, State.chan, State.st_modSt, hij]

@[simp] theorem State.chan_modChan_same (i : Fin 8) (x : Nat) (f : Channel → Channel) :
    (s.modChan i x f).chan i x = f (s.chan i x) := by simp [State.chan_modChan]

/-! ### The module's part after it was changed -/

@[simp] theorem State.modPm_mod_lkt (f : PowerModule → PowerModule) : (s.modPm f).mod.lkt = s.mod.lkt := rfl
@[simp] theorem State.modPm_mod_pwr (f : PowerModule → PowerModule) : (s.modPm f).mod.pwr = f s.mod.pwr := rfl
@[simp] theorem State.modPm_mod_bus (f : PowerModule → PowerModule) : (s.modPm f).mod.bus = s.mod.bus := rfl
@[simp] theorem State.modPm_mod_bzl (f : PowerModule → PowerModule) : (s.modPm f).mod.bzl = s.mod.bzl := rfl
@[simp] theorem State.modPm_mod_cal (f : PowerModule → PowerModule) : (s.modPm f).mod.cal = s.mod.cal := rfl
@[simp] theorem State.modLkt_mod_lkt (f : Locket → Locket) : (s.modLkt f).mod.lkt = f s.mod.lkt := rfl
@[simp] theorem State.modLkt_mod_pwr (f : Locket → Locket) : (s.modLkt f).mod.pwr = s.mod.pwr := rfl
@[simp] theorem State.modLkt_mod_bus (f : Locket → Locket) : (s.modLkt f).mod.bus = s.mod.bus := rfl
@[simp] theorem State.modLkt_mod_bzl (f : Locket → Locket) : (s.modLkt f).mod.bzl = s.mod.bzl := rfl
@[simp] theorem State.modLkt_mod_cal (f : Locket → Locket) : (s.modLkt f).mod.cal = s.mod.cal := rfl
@[simp] theorem State.modBzl_mod_lkt (f : Bezel → Bezel) : (s.modBzl f).mod.lkt = s.mod.lkt := rfl
@[simp] theorem State.modBzl_mod_pwr (f : Bezel → Bezel) : (s.modBzl f).mod.pwr = s.mod.pwr := rfl
@[simp] theorem State.modBzl_mod_bus (f : Bezel → Bezel) : (s.modBzl f).mod.bus = s.mod.bus := rfl
@[simp] theorem State.modBzl_mod_bzl (f : Bezel → Bezel) : (s.modBzl f).mod.bzl = f s.mod.bzl := rfl
@[simp] theorem State.modBzl_mod_cal (f : Bezel → Bezel) : (s.modBzl f).mod.cal = s.mod.cal := rfl
@[simp] theorem State.modCal_mod_lkt (f : Cal → Cal) : (s.modCal f).mod.lkt = s.mod.lkt := rfl
@[simp] theorem State.modCal_mod_pwr (f : Cal → Cal) : (s.modCal f).mod.pwr = s.mod.pwr := rfl
@[simp] theorem State.modCal_mod_bus (f : Cal → Cal) : (s.modCal f).mod.bus = s.mod.bus := rfl
@[simp] theorem State.modCal_mod_bzl (f : Cal → Cal) : (s.modCal f).mod.bzl = s.mod.bzl := rfl
@[simp] theorem State.modCal_mod_cal (f : Cal → Cal) : (s.modCal f).mod.cal = f s.mod.cal := rfl
@[simp] theorem State.modBus_mod_lkt (f : BoardBus → BoardBus) : (s.modBus f).mod.lkt = s.mod.lkt := rfl
@[simp] theorem State.modBus_mod_pwr (f : BoardBus → BoardBus) : (s.modBus f).mod.pwr = s.mod.pwr := rfl
@[simp] theorem State.modBus_mod_bus (f : BoardBus → BoardBus) : (s.modBus f).mod.bus = f s.mod.bus := rfl
@[simp] theorem State.modBus_mod_bzl (f : BoardBus → BoardBus) : (s.modBus f).mod.bzl = s.mod.bzl := rfl
@[simp] theorem State.modBus_mod_cal (f : BoardBus → BoardBus) : (s.modBus f).mod.cal = s.mod.cal := rfl

/-! ### Registers and queues -/

/-- Two registers of a page are stored apart. -/
theorem Page.key_inj_off {p : Page} {a b : Nat} (h : p.key a = p.key b) : a = b := by
  simp only [Page.key] at h; omega

theorem State.reg_setReg (p : Page) (off : Nat) (v : Word) (q : Page) (x : Nat) :
    (s.setReg p off v).reg q x = if q.key x = p.key off then v else s.reg q x := by
  simp [State.setReg, State.reg, Laws.Sparse.get_set]

@[simp] theorem State.reg_setReg_same (p : Page) (off : Nat) (v : Word) : (s.setReg p off v).reg p off = v := by
  simp [State.reg_setReg]

theorem State.reg_setReg_other (p : Page) {off x : Nat} (v : Word) (h : x ≠ off) :
    (s.setReg p off v).reg p x = s.reg p x := by
  rw [State.reg_setReg, if_neg fun e => h (Page.key_inj_off e)]

/-- The pages of different stacks and the different pages of a stack are stored apart. -/
theorem Page.key_inj {p q : Page} {a b : Nat} (ha : a < 4096) (hb : b < 4096) (hp : p.no < 4096) (hq : q.no < 4096)
    (h : p.key a = q.key b) : p.stk = q.stk ∧ p.no = q.no ∧ a = b := by
  simp only [Page.key] at h; omega

theorem State.queue_modQueue (i : Fin 8) (q : Nat) (f : Queue → Queue) (j : Fin 8) (r : Nat) :
    (s.modQueue i q f).queue j r = if queueKey j r = queueKey i q then f (s.queue i q) else s.queue j r := by
  simp [State.modQueue, State.queue, Laws.Sparse.get_set]

@[simp] theorem State.queue_modQueue_same (i : Fin 8) (q : Nat) (f : Queue → Queue) :
    (s.modQueue i q f).queue i q = f (s.queue i q) := by simp [State.queue_modQueue]

end Sys2Proof.Machine
end

