-- ==== Sys2Proof/Laws/Bits.lean ====
section
/-! SUPPORT. The laws of bit fields: a field reads as it was written, the fields beside it as before, and bytes spell the
number they were taken from. -/

namespace Sys2Proof.Machine

theorem bitsOf_eq (n hi lo : Nat) : bitsOf n hi lo = n / 2 ^ lo % 2 ^ (hi + 1 - lo) := by
  simp [bitsOf, Nat.shiftRight_eq_div_pow]

theorem bitsOf_lt (n hi lo : Nat) : bitsOf n hi lo < 2 ^ (hi + 1 - lo) := Nat.mod_lt _ (Nat.two_pow_pos _)

/-- Bit `i` of a field is bit `lo + i` of the number. -/
theorem testBit_bitsOf (n hi lo i : Nat) : (bitsOf n hi lo).testBit i = (decide (i < hi + 1 - lo) && n.testBit (lo + i)) := by
  rw [bitsOf_eq, Nat.testBit_mod_two_pow, Nat.testBit_div_two_pow, Nat.add_comm i lo]

/-- The bits of a number with a field replaced. -/
theorem testBit_withBits (n hi lo v i : Nat) (h : lo ≤ hi) :
    (withBits n hi lo v).testBit i = if lo ≤ i ∧ i ≤ hi then v.testBit (i - lo) else n.testBit i := by
  obtain ⟨w, rfl⟩ : ∃ w, hi = lo + w := ⟨hi - lo, by omega⟩
  have e : lo + w + 1 - lo = w + 1 := by omega
  have hn : withBits n (lo + w) lo v = 2 ^ lo * (2 ^ (w + 1) * (n / 2 ^ lo / 2 ^ (w + 1)) + v % 2 ^ (w + 1)) + n % 2 ^ lo := by
    simp only [withBits, bitsOf_eq, e]
    have h1 := Nat.div_add_mod n (2 ^ lo)
    have h2 := Nat.div_add_mod (n / 2 ^ lo) (2 ^ (w + 1))
    generalize n % 2 ^ lo = c at *
    generalize n / 2 ^ lo = m at *
    generalize m % 2 ^ (w + 1) = b at *
    generalize m / 2 ^ (w + 1) = a at *
    generalize v % 2 ^ (w + 1) = x at *
    subst h2
    rw [← h1]
    have : 2 ^ lo * (2 ^ (w + 1) * a + b) + c - b * 2 ^ lo = 2 ^ lo * (2 ^ (w + 1) * a) + c := by
      rw [Nat.mul_add, Nat.mul_comm b]; omega
    rw [this]; ring
  rw [hn, Nat.testBit_two_pow_mul_add _ (Nat.mod_lt _ (Nat.two_pow_pos _)),
    Nat.testBit_two_pow_mul_add _ (Nat.mod_lt _ (Nat.two_pow_pos _))]
  by_cases h1 : i < lo
  · rw [if_pos h1, if_neg (by omega), Nat.testBit_mod_two_pow]; simp [h1]
  · rw [if_neg h1]
    by_cases h2 : i - lo < w + 1
    · rw [if_pos h2, if_pos (by omega), Nat.testBit_mod_two_pow]; simp [h2]
    · rw [if_neg h2, if_neg (by omega), Nat.testBit_div_two_pow, Nat.testBit_div_two_pow]
      congr 1; omega

/-- A field reads as it was written. -/
theorem bitsOf_withBits (n hi lo v : Nat) (h : lo ≤ hi) : bitsOf (withBits n hi lo v) hi lo = v % 2 ^ (hi + 1 - lo) := by
  refine Nat.eq_of_testBit_eq fun i => ?_
  rw [testBit_bitsOf, testBit_withBits _ _ _ _ _ h, Nat.testBit_mod_two_pow]
  by_cases hi' : i < hi + 1 - lo
  · rw [if_pos (by omega)]; simp
  · simp [hi']

/-- A field beside the one written reads as before. -/
theorem bitsOf_withBits_other (n hi lo v hi' lo' : Nat) (h : lo ≤ hi) (hd : hi' < lo ∨ hi < lo') :
    bitsOf (withBits n hi lo v) hi' lo' = bitsOf n hi' lo' := by
  refine Nat.eq_of_testBit_eq fun i => ?_
  rw [testBit_bitsOf, testBit_bitsOf, testBit_withBits _ _ _ _ _ h]
  by_cases hi'' : i < hi' + 1 - lo'
  · rw [if_neg (by omega)]
  · simp [hi'']

theorem withBits_lt {n hi lo k : Nat} (v : Nat) (h : lo ≤ hi) (hk : hi < k) (hn : n < 2 ^ k) : withBits n hi lo v < 2 ^ k := by
  refine Nat.lt_pow_two_of_testBit _ fun i hi' => ?_
  rw [testBit_withBits _ _ _ _ _ h, if_neg (by omega)]
  exact Nat.testBit_lt_two_pow (lt_of_lt_of_le hn (Nat.pow_le_pow_right (by decide) hi'))

/-! ### Fields of registers -/

theorem State.reg_setFld_toNat (s : State) (p : Page) (off : Nat) {hi lo : Nat} (v : Nat) (h : lo ≤ hi) (hk : hi < 32) :
    ((s.setFld p off hi lo v).reg p off).toNat = withBits (s.reg p off).toNat hi lo v := by
  rw [State.setFld, State.reg_setReg_same, BitVec.toNat_ofNat]
  exact Nat.mod_eq_of_lt (withBits_lt v h hk (s.reg p off).isLt)

theorem State.fld_setFld_same (s : State) (p : Page) (off : Nat) {hi lo : Nat} (v : Nat) (h : lo ≤ hi) (hk : hi < 32) :
    (s.setFld p off hi lo v).fld p off hi lo = v % 2 ^ (hi + 1 - lo) := by
  rw [State.fld, State.reg_setFld_toNat s p off v h hk, bitsOf_withBits _ _ _ _ h]

theorem State.fld_setFld_beside (s : State) (p : Page) (off : Nat) {hi lo : Nat} (v : Nat) {hi' lo' : Nat} (h : lo ≤ hi)
    (hk : hi < 32) (hd : hi' < lo ∨ hi < lo') : (s.setFld p off hi lo v).fld p off hi' lo' = s.fld p off hi' lo' := by
  rw [State.fld, State.reg_setFld_toNat s p off v h hk, bitsOf_withBits_other _ _ _ _ _ _ h hd]; rfl

theorem State.fld_setReg_other (s : State) (p : Page) {off x : Nat} (v : Word) (hi lo : Nat) (h : x ≠ off) :
    (s.setReg p off v).fld p x hi lo = s.fld p x hi lo := by
  rw [State.fld, State.reg_setReg_other s p v h]; rfl

theorem State.flag_setFlag_same (s : State) (p : Page) (off : Nat) {i : Nat} (b : Bool) (h : i < 32) :
    (s.setFlag p off i b).flag p off i = b := by
  rw [State.flag, State.setFlag, State.reg_setFld_toNat s p off (bit b) (le_refl i) h, bitAt,
    testBit_withBits _ _ _ _ _ (le_refl i), if_pos ⟨le_refl i, le_refl i⟩]
  cases b <;> simp [bit]

theorem State.flag_setFlag_beside (s : State) (p : Page) (off : Nat) {i j : Nat} (b : Bool) (h : i < 32) (hj : j ≠ i) :
    (s.setFlag p off i b).flag p off j = s.flag p off j := by
  rw [State.flag, State.setFlag, State.reg_setFld_toNat s p off (bit b) (le_refl i) h, bitAt,
    testBit_withBits _ _ _ _ _ (le_refl i), if_neg (by omega)]
  rfl

/-! ### Bytes of numbers -/

@[simp] theorem leBytes_length (n k : Nat) : (leBytes n k).length = k := by
  induction k generalizing n with
  | zero => rfl
  | succ k ih => simp [leBytes, ih]

/-- The first `k` bytes of a number spell it modulo 256^k. -/
theorem leNat_leBytes (n k : Nat) : leNat (leBytes n k) = n % 256 ^ k := by
  induction k generalizing n with
  | zero => simp [leBytes, leNat, Nat.mod_one]
  | succ k ih =>
    simp only [leBytes, leNat, ih, BitVec.toNat_ofNat]
    rw [show 256 ^ (k + 1) = 256 * 256 ^ k by ring, Nat.mod_mul]

@[simp] theorem slice_length (l : List Byte) (i k : Nat) : (slice l i k).length = k := by
  simp only [slice, List.length_append, List.length_replicate, List.length_take]; omega

end Sys2Proof.Machine
end

