-- ==== Sys2Proof/Laws/Memory.lean ====
section
/-! SUPPORT. The laws of memory: what a byte reads as after each operation, and that every operation keeps the canonical
form of memory. -/

namespace Sys2Proof.Machine

variable {s : State}

/-! ### What a byte reads as -/

theorem State.byte_setByte (s : State) (a : Nat) (b : Byte) (x : Nat) :
    (s.setByte a b).byte x = if x = a then b else s.byte x := by
  simp [State.byte, State.setByte, Laws.Sparse.get_set]

theorem State.byte_setBytes (s : State) (a : Nat) (bs : List Byte) (x : Nat) :
    (s.setBytes a bs).byte x = if h : a ≤ x ∧ x < a + bs.length then bs[x - a] else s.byte x := by
  simp [State.byte, State.setBytes, Laws.Sparse.get_setList]

theorem State.byte_setBytes_outside (s : State) {a : Nat} {bs : List Byte} {x : Nat} (h : x < a ∨ a + bs.length ≤ x) :
    (s.setBytes a bs).byte x = s.byte x := by
  rw [State.byte_setBytes, dif_neg (by omega)]

theorem State.byte_keepBytes (s : State) (p : Nat → Bool) (x : Nat) :
    (s.keepBytes p).byte x = if p x then s.byte x else memDefault s.stk x := by
  simp [State.byte, State.keepBytes, Laws.Sparse.get_keep]

/-- Bytes read back as they were written. -/
theorem State.bytes_setBytes (s : State) (a : Nat) (bs : List Byte) : (s.setBytes a bs).bytes a bs.length = bs := by
  refine List.ext_getElem (by simp [State.bytes]) fun i h1 h2 => ?_
  simp only [State.bytes, Laws.Sparse.getList_getElem]
  have := State.byte_setBytes s a bs (a + i)
  simp only [State.byte] at this
  rw [this, dif_pos ⟨by omega, by omega⟩]
  simp

/-- What an unlisted byte reads as depends on nothing of a stack but whether, and how often, its key was lost. -/
theorem memDefault_congr {u v : Vector Stack 8} (h : ∀ i : Fin 8, u[i].pwr.keyEpoch = v[i].pwr.keyEpoch) :
    memDefault u = memDefault v := by
  funext a
  simp only [memDefault]
  split
  · next ha => have := h ⟨a / 2 ^ 48, ha⟩; simp only [Fin.getElem_fin] at this; rw [this]
  · rfl

theorem memDefault_modSt (s : State) (i : Fin 8) {f : Stack → Stack} (h : ∀ x, (f x).pwr.keyEpoch = x.pwr.keyEpoch) :
    memDefault (s.modSt i f).stk = memDefault s.stk :=
  memDefault_congr fun j => s.st_modSt_proj (·.pwr.keyEpoch) h i j

/-- A change of a stack that does not lose its key leaves every byte as it was. -/
theorem State.byte_modSt (s : State) (i : Fin 8) {f : Stack → Stack} (h : ∀ x, (f x).pwr.keyEpoch = x.pwr.keyEpoch)
    (a : Nat) : (s.modSt i f).byte a = s.byte a := by
  simp [State.byte, memDefault_modSt s i h]

/-! ### The canonical form -/

theorem Memory.wf_reset : Memory.wf State.reset := rfl

theorem Memory.wf_setByte (h : Memory.wf s) (a : Nat) (b : Byte) : Memory.wf (s.setByte a b) :=
  Laws.Sparse.wf_set _ a b h

theorem Memory.wf_setBytes (h : Memory.wf s) (a : Nat) (bs : List Byte) : Memory.wf (s.setBytes a bs) :=
  Laws.Sparse.wf_setList _ bs a h

theorem Memory.wf_keepBytes (h : Memory.wf s) (p : Nat → Bool) : Memory.wf (s.keepBytes p) := Laws.Sparse.wf_keep _ p h

theorem Memory.wf_modSt (h : Memory.wf s) (i : Fin 8) {f : Stack → Stack}
    (hf : ∀ x, (f x).pwr.keyEpoch = x.pwr.keyEpoch) : Memory.wf (s.modSt i f) := by
  simpa [Memory.wf, memDefault_modSt s i hf] using h

theorem Memory.wf_foldl {α : Type} {f : State → α → State} (hf : ∀ s x, Memory.wf s → Memory.wf (f s x)) (l : List α)
    (h : Memory.wf s) : Memory.wf (l.foldl f s) := by
  induction l generalizing s with
  | nil => exact h
  | cons a l ih => exact ih (hf s a h)

theorem Memory.wf_rawWrite (h : Memory.wf s) (a : Nat) (bs : List Byte) : Memory.wf (rawWrite s a bs).1 := by
  simp only [rawWrite]
  split
  · exact Memory.wf_setBytes h a bs
  · refine Memory.wf_foldl (fun u x hu => ?_) _ h
    split
    · exact hu
    · exact Memory.wf_setByte hu _ _

theorem Memory.wf_engWrite (h : Memory.wf s) (st : Fin 8) (plan : Nat) (driven : Bool) (a : Nat) (bs : List Byte) :
    Memory.wf (engWrite s st plan driven a bs).1 := by
  have := Memory.wf_rawWrite h a bs
  unfold engWrite
  split
  · exact h
  · dsimp only
    split
    · exact h
    · split
      · exact h
      · split <;> next heq => rw [heq] at this; exact this

theorem Memory.wf_zeroSram (h : Memory.wf s) (st : Fin 8) : Memory.wf (zeroSram s st) := by
  simp only [Memory.wf, zeroSram, State.keepBytes]
  exact Laws.Sparse.wf_keep _ _ h

theorem Memory.wf_zeroPanel (h : Memory.wf s) (st : Fin 8) (c : Nat) : Memory.wf (zeroPanel s st c) := by
  simp only [Memory.wf, zeroPanel, State.keepBytes]
  exact Laws.Sparse.wf_keep _ _ h

theorem Memory.wf_zeroRange (h : Memory.wf s) (a n : Nat) : Memory.wf (zeroRange s a n) := by
  simp only [zeroRange]
  split
  · exact Memory.wf_setBytes (s := { s with bad := _ }) h _ _
  · exact Memory.wf_keepBytes (s := { s with bad := _ }) h _

theorem Memory.wf_loseKey (h : Memory.wf s) (st : Fin 8) : Memory.wf (loseKey s st) := by
  simp only [Memory.wf, Laws.Sparse.wf_iff] at h ⊢
  refine ⟨fun e he => ?_, h.2.filter _⟩
  obtain ⟨hm, hp⟩ := List.mem_filter.1 (show e ∈ s.mem.filter _ from he)
  have hd := h.1 e hm
  suffices memDefault (loseKey s st).stk e.1 = memDefault s.stk e.1 by rw [this]; exact hd
  simp only [memDefault]
  split
  · next ha =>
    by_cases hst : e.1 / 2 ^ 48 = st.val
    · have hl : ¬ e.1 % 2 ^ 48 < lpddrSize := by
        intro hlt
        simp [lpddrBase, lpddrSize] at hp hlt
        rcases hp with hp | hp <;> have := of_decide_eq_false hp <;> omega
      rw [if_neg (fun h => hl h.2), if_neg (fun h => hl h.2)]
    · have : (loseKey s st).stk[e.1 / 2 ^ 48] = s.stk[e.1 / 2 ^ 48] := by
        have := State.st_modSt s st (fun x => { x with pwr := { x.pwr with keyEpoch := x.pwr.keyEpoch + 1 } })
          ⟨e.1 / 2 ^ 48, ha⟩
        rw [if_neg (by intro h; exact hst (by rw [h]))] at this
        exact this
      rw [this]
  · rfl

/-! ### Stores -/

/-- A raw write stores nowhere but in its range. -/
theorem byte_rawWrite_outside (s : State) {a : Nat} {bs : List Byte} {x : Nat} (h : x < a ∨ a + bs.length ≤ x) :
    (rawWrite s a bs).1.byte x = s.byte x := by
  simp only [rawWrite]
  split
  · exact State.byte_setBytes_outside s h
  · have key : ∀ (l : List (Byte × Nat)), (∀ e ∈ l, e.2 < bs.length) → ∀ (keep : List Nat) (u : State),
        (l.foldl (fun (s : State) (e : Byte × Nat) =>
          if keep.any fun w => unitStart w ≤ a + e.2 && a + e.2 < unitStart w + eccUnit w then s
          else s.setByte (a + e.2) e.1) u).byte x = u.byte x := by
      intro l
      induction l with
      | nil => intro _ _ _; rfl
      | cons e l ih =>
        intro hl keep u
        have he := hl e (by simp)
        rw [List.foldl_cons, ih (fun e he => hl e (by simp [he]))]
        split
        · rfl
        · rw [State.byte_setByte, if_neg (by omega)]
    rw [key]
    · rfl
    · intro e he
      obtain ⟨i, hi, rfl⟩ := List.mem_iff_getElem.1 he
      simpa using hi

/-- An engine's write stores nowhere but in its range. -/
theorem byte_engWrite_outside (s : State) (st : Fin 8) (plan : Nat) (driven : Bool) {a : Nat} {bs : List Byte} {x : Nat}
    (h : x < a ∨ a + bs.length ≤ x) : (engWrite s st plan driven a bs).1.byte x = s.byte x := by
  have := byte_rawWrite_outside s h
  unfold engWrite
  split
  · rfl
  · dsimp only
    split
    · rfl
    · split
      · rfl
      · split <;> next heq => rw [heq] at this; exact this

/-- A slice of bytes read from memory is those bytes read. -/
theorem slice_bytes (s : State) (a n i k : Nat) (h : i + k ≤ n) : slice (s.bytes a n) i k = s.bytes (a + i) k := by
  refine List.ext_getElem (by simp [State.bytes]) fun j h1 h2 => ?_
  have hj : j < k := by simpa [State.bytes] using h2
  have e : (((s.bytes a n).drop i).take k).length = k := by simp [State.bytes]; omega
  simp only [slice, e, Nat.sub_self, List.replicate_zero, List.append_nil]
  rw [List.getElem_take, List.getElem_drop]
  simp only [State.bytes, Laws.Sparse.getList_getElem, Nat.add_assoc]

end Sys2Proof.Machine
end

