-- ==== Sys2Proof/Laws/Frame.lean ====
section
/-! SUPPORT. What the shared operations may change, by the kinds of state of `Safety.Kind`: one lemma for each operation, cited
in place of its definition. -/

namespace Sys2Proof.Laws

open Machine Safety

/-! ### Pages are stored apart -/

theorem basePage_inj {b c : Blk} {i j : Nat} (hi : i < instances b) (hj : j < instances c)
    (h : basePage b + i = basePage c + j) : b = c ∧ i = j := by
  cases b <;> cases c <;> simp only [basePage, instances] at hi hj h <;> first
    | exact ⟨rfl, by omega⟩
    | omega

theorem basePage_lt {b : Blk} {i : Nat} (hi : i < instances b) : basePage b + i < 4096 := by
  cases b <;> simp only [basePage, instances] at hi ⊢ <;> omega

/-- The registers of two pages are the same only where the pages and the offsets are. -/
theorem key_inj {p q : Page} {a b : Nat} (hp : p.inst < instances p.blk) (hq : q.inst < instances q.blk) (ha : a < 4096)
    (hb : b < 4096) (h : p.key a = q.key b) : p = q ∧ a = b := by
  obtain ⟨h1, h2, h3⟩ := Page.key_inj ha hb (basePage_lt hp) (basePage_lt hq) h
  obtain ⟨h4, h5⟩ := basePage_inj hp hq h2
  cases p; cases q; simp_all

/-! ### The relation -/

/-- Every kind of state but those named is as it was. -/
structure KeptBut (l : List Kind) (s t : State) : Prop where
  kind : ∀ k, k ∉ l → KindKept s t k

theorem KindKept.refl (s : State) (k : Kind) : KindKept s s k := by
  cases k <;> simp [KindKept, MemoryKept, QueuesKept]

theorem KindKept.trans {s t u : State} {k : Kind} (h : KindKept s t k) (g : KindKept t u k) : KindKept s u k := by
  cases k <;> simp only [KindKept, MemoryKept, QueuesKept] at h g ⊢
  case page b => exact fun p hb hi off ho => (g p hb hi off ho).trans (h p hb hi off ho)
  case queues => exact fun st q => (g st q).trans (h st q)
  case sampler => exact fun i => ⟨(g i).1.trans (h i).1, (g i).2.trans (h i).2⟩
  all_goals first
    | exact fun i => (g i).trans (h i)
    | exact g.trans h

theorem KeptBut.refl (l : List Kind) (s : State) : KeptBut l s s := ⟨fun k _ => KindKept.refl s k⟩

theorem KeptBut.trans {l : List Kind} {s t u : State} (h : KeptBut l s t) (g : KeptBut l t u) : KeptBut l s u :=
  ⟨fun k hk => KindKept.trans (h.kind k hk) (g.kind k hk)⟩

theorem KeptBut.mono {l m : List Kind} {s t : State} (h : KeptBut l s t) (hl : l ⊆ m) : KeptBut m s t :=
  ⟨fun k hk => h.kind k fun hm => hk (hl hm)⟩

theorem KeptBut.foldl {α : Type} {l : List Kind} {f : State → α → State} (hf : ∀ s x, KeptBut l s (f s x)) (xs : List α)
    (s : State) : KeptBut l s (xs.foldl f s) := by
  induction xs generalizing s with
  | nil => exact .refl l s
  | cons a xs ih => exact (hf s a).trans (ih _)

/-! ### Updates -/

theorem keptBut_setReg (s : State) {p : Page} {off : Nat} (v : Word) (hp : p.inst < instances p.blk) (ho : off < 4096) :
    KeptBut [.page p.blk] s (s.setReg p off v) := by
  refine ⟨fun k hk => ?_⟩
  cases k <;> simp only [KindKept, MemoryKept, QueuesKept]
  case page b =>
    intro q hb hq x hx
    subst hb
    rw [State.reg_setReg, if_neg]
    intro h
    obtain ⟨rfl, -⟩ := key_inj hq hp hx ho h
    exact hk (by simp)
  all_goals simp

theorem keptBut_setFld (s : State) {p : Page} {off : Nat} (hi lo v : Nat) (hp : p.inst < instances p.blk)
    (ho : off < 4096) : KeptBut [.page p.blk] s (s.setFld p off hi lo v) := keptBut_setReg s _ hp ho

theorem keptBut_setFlag (s : State) {p : Page} {off : Nat} (i : Nat) (b : Bool) (hp : p.inst < instances p.blk)
    (ho : off < 4096) : KeptBut [.page p.blk] s (s.setFlag p off i b) := keptBut_setReg s _ hp ho

theorem keptBut_countSat (s : State) {p : Page} {off : Nat} (n : Nat) (hp : p.inst < instances p.blk) (ho : off < 4096) :
    KeptBut [.page p.blk] s (s.countSat p off n) := keptBut_setReg s _ hp ho

theorem keptBut_countWrap (s : State) {p : Page} {off : Nat} (n : Nat) (hp : p.inst < instances p.blk) (ho : off < 4096) :
    KeptBut [.page p.blk] s (s.countWrap p off n) := keptBut_setReg s _ hp ho

theorem keptBut_setPair (s : State) {p : Page} {off : Nat} (n : Nat) (hp : p.inst < instances p.blk)
    (ho : off + 4 < 4096) : KeptBut [.page p.blk] s (s.setPair p off n) :=
  (keptBut_setReg s _ hp (by omega)).trans (keptBut_setReg _ _ hp ho)

theorem keptBut_countPair (s : State) {p : Page} {off : Nat} (n : Nat) (hp : p.inst < instances p.blk)
    (ho : off + 4 < 4096) : KeptBut [.page p.blk] s (s.countPair p off n) := keptBut_setPair s _ hp ho

theorem queueKey_inj {i j : Fin 8} {q r : Nat} (hq : q < 4096) (hr : r < 4096) (h : queueKey i q = queueKey j r) :
    i = j ∧ q = r := by
  simp only [queueKey] at h
  exact ⟨Fin.ext (by omega), by omega⟩

theorem keptBut_modQueue (s : State) (st : Fin 8) (q : Nat) (f : Queue → Queue) : KeptBut [.queues] s (s.modQueue st q f) := by
  refine ⟨fun k hk => ?_⟩
  cases k <;> simp only [KindKept, MemoryKept, QueuesKept]
  case queues => simp at hk
  all_goals simp

theorem keptBut_modClp (s : State) (i : Fin 8) (f : Clasp → Clasp) : KeptBut [.clasp] s (s.modClp i f) := by
  refine ⟨fun k hk => ?_⟩
  cases k <;> simp only [KindKept, MemoryKept, QueuesKept]
  case clasp => simp at hk
  case memory => unfold State.modClp; exact State.byte_modSt s i (by intro; rfl)
  all_goals simp

theorem keptBut_modTns (s : State) (i : Fin 8) (f : Tense → Tense) : KeptBut [.tense] s (s.modTns i f) := by
  refine ⟨fun k hk => ?_⟩
  cases k <;> simp only [KindKept, MemoryKept, QueuesKept]
  case tense => simp at hk
  case memory => unfold State.modTns; exact State.byte_modSt s i (by intro; rfl)
  all_goals simp

theorem keptBut_modArb (s : State) (i : Fin 8) (f : Arbiter → Arbiter) : KeptBut [.arbiter] s (s.modArb i f) := by
  refine ⟨fun k hk => ?_⟩
  cases k <;> simp only [KindKept, MemoryKept, QueuesKept]
  case arbiter => simp at hk
  case memory => unfold State.modArb; exact State.byte_modSt s i (by intro; rfl)
  all_goals simp

theorem keptBut_modSeq (s : State) (i : Fin 8) (n : Fin 4) (f : Seq → Seq) : KeptBut [.sequencers] s (s.modSeq i n f) := by
  refine ⟨fun k hk => ?_⟩
  cases k <;> simp only [KindKept, MemoryKept, QueuesKept]
  case sequencers => simp at hk
  case memory => unfold State.modSeq; exact State.byte_modSt s i (by intro; rfl)
  all_goals simp

theorem keptBut_modBox (s : State) (i : Fin 8) (m : Nat) (f : Mailbox → Mailbox) : KeptBut [.mailboxes] s (s.modBox i m f) := by
  refine ⟨fun k hk => ?_⟩
  cases k <;> simp only [KindKept, MemoryKept, QueuesKept]
  case mailboxes => simp at hk
  case memory => unfold State.modBox; exact State.byte_modSt s i (by intro; rfl)
  all_goals simp

theorem keptBut_modCore (s : State) (i : Fin 8) (c : Nat) (f : Machine.Core → Machine.Core) : KeptBut [.cores] s (s.modCore i c f) := by
  refine ⟨fun k hk => ?_⟩
  cases k <;> simp only [KindKept, MemoryKept, QueuesKept]
  case cores => simp at hk
  case memory => unfold State.modCore; exact State.byte_modSt s i (by intro; rfl)
  all_goals simp

theorem keptBut_modKeys (s : State) (i : Fin 8) (f : Keys → Keys) : KeptBut [.keys] s (s.modKeys i f) := by
  refine ⟨fun k hk => ?_⟩
  cases k <;> simp only [KindKept, MemoryKept, QueuesKept]
  case keys => simp at hk
  case memory => unfold State.modKeys; exact State.byte_modSt s i (by intro; rfl)
  all_goals simp

theorem keptBut_modRegion (s : State) (i : Fin 8) (n : Nat) (f : Region → Region) : KeptBut [.regions] s (s.modRegion i n f) := by
  refine ⟨fun k hk => ?_⟩
  cases k <;> simp only [KindKept, MemoryKept, QueuesKept]
  case regions => simp at hk
  case memory => unfold State.modRegion; exact State.byte_modSt s i (by intro; rfl)
  all_goals simp

theorem keptBut_modSess (s : State) (i : Fin 8) (c : Nat) (f : Session → Session) : KeptBut [.sessions] s (s.modSess i c f) := by
  refine ⟨fun k hk => ?_⟩
  cases k <;> simp only [KindKept, MemoryKept, QueuesKept]
  case sessions => simp at hk
  case memory => unfold State.modSess; exact State.byte_modSt s i (by intro; rfl)
  all_goals simp

theorem keptBut_modChan (s : State) (i : Fin 8) (c : Nat) (f : Channel → Channel) : KeptBut [.channels] s (s.modChan i c f) := by
  refine ⟨fun k hk => ?_⟩
  cases k <;> simp only [KindKept, MemoryKept, QueuesKept]
  case channels => simp at hk
  case memory => unfold State.modChan; exact State.byte_modSt s i (by intro; rfl)
  all_goals simp

theorem keptBut_modCkpt (s : State) (i : Fin 8) (f : Ckpt → Ckpt) : KeptBut [.streams] s (s.modCkpt i f) := by
  refine ⟨fun k hk => ?_⟩
  cases k <;> simp only [KindKept, MemoryKept, QueuesKept]
  case streams => simp at hk
  case memory => unfold State.modCkpt; exact State.byte_modSt s i (by intro; rfl)
  all_goals simp

theorem keptBut_modFil (s : State) (i : Fin 8) (f : Filigree → Filigree) : KeptBut [.filigree] s (s.modFil i f) := by
  refine ⟨fun k hk => ?_⟩
  cases k <;> simp only [KindKept, MemoryKept, QueuesKept]
  case filigree => simp at hk
  case memory => unfold State.modFil; exact State.byte_modSt s i (by intro; rfl)
  all_goals simp

theorem keptBut_modHot (s : State) (i : Fin 8) (f : HotSet → HotSet) : KeptBut [.hotSet] s (s.modHot i f) := by
  refine ⟨fun k hk => ?_⟩
  cases k <;> simp only [KindKept, MemoryKept, QueuesKept]
  case hotSet => simp at hk
  case memory => unfold State.modHot; exact State.byte_modSt s i (by intro; rfl)
  all_goals simp

/-- A change of a stack's power state that does not lose its key. -/
theorem keptBut_modPwr (s : State) (i : Fin 8) {f : Power → Power} (h : ∀ x, (f x).keyEpoch = x.keyEpoch) :
    KeptBut [.stackPower] s (s.modPwr i f) := by
  refine ⟨fun k hk => ?_⟩
  cases k <;> simp only [KindKept, MemoryKept, QueuesKept]
  case stackPower => simp at hk
  case memory => unfold State.modPwr; exact State.byte_modSt s i (fun x => h x.pwr)
  all_goals simp

theorem keptBut_modPm (s : State) (f : PowerModule → PowerModule) : KeptBut [.modulePower] s (s.modPm f) := by
  refine ⟨fun k hk => ?_⟩
  cases k <;> simp only [KindKept, MemoryKept, QueuesKept]
  case modulePower => simp at hk
  all_goals simp

theorem keptBut_modLkt (s : State) (f : Locket → Locket) : KeptBut [.locket] s (s.modLkt f) := by
  refine ⟨fun k hk => ?_⟩
  cases k <;> simp only [KindKept, MemoryKept, QueuesKept]
  case locket => simp at hk
  all_goals simp

theorem keptBut_modBzl (s : State) (f : Bezel → Bezel) : KeptBut [.bezel] s (s.modBzl f) := by
  refine ⟨fun k hk => ?_⟩
  cases k <;> simp only [KindKept, MemoryKept, QueuesKept]
  case bezel => simp at hk
  all_goals simp

theorem keptBut_modCal (s : State) (f : Cal → Cal) : KeptBut [.cal] s (s.modCal f) := by
  refine ⟨fun k hk => ?_⟩
  cases k <;> simp only [KindKept, MemoryKept, QueuesKept]
  case cal => simp at hk
  all_goals simp

theorem keptBut_modBus (s : State) (f : BoardBus → BoardBus) : KeptBut [.bus] s (s.modBus f) := by
  refine ⟨fun k hk => ?_⟩
  cases k <;> simp only [KindKept, MemoryKept, QueuesKept]
  case bus => simp at hk
  all_goals simp

theorem keptBut_store (s : State) {t : State} (h : ∃ m b, t = { s with mem := m, bad := b }) : KeptBut [.memory] s t := by
  obtain ⟨m, b, rfl⟩ := h
  refine ⟨fun k hk => ?_⟩
  cases k <;> simp only [KindKept, QueuesKept]
  case memory => simp at hk
  case page b => exact fun _ _ _ _ _ => rfl
  case sampler => exact fun _ => ⟨rfl, rfl⟩
  all_goals first
    | exact fun _ => rfl
    | exact fun _ _ => rfl

theorem keptBut_setBytes (s : State) (a : Nat) (bs : List Byte) : KeptBut [.memory] s (s.setBytes a bs) :=
  keptBut_store s ⟨_, _, rfl⟩

theorem keptBut_keepBytes (s : State) (p : Nat → Bool) : KeptBut [.memory] s (s.keepBytes p) := keptBut_store s ⟨_, _, rfl⟩

theorem keptBut_free (s : State) (n : Nat) : KeptBut [] s { s with free := n } := by
  refine ⟨fun k _ => ?_⟩
  cases k <;> simp only [KindKept, MemoryKept, QueuesKept]
  case page b => exact fun _ _ _ _ _ => rfl
  case sampler => exact fun _ => ⟨rfl, rfl⟩
  all_goals first
    | exact fun _ => rfl
    | exact fun _ _ => rfl

theorem keptBut_out (s : State) (l : List Output) : KeptBut [.output] s { s with out := l } := by
  refine ⟨fun k hk => ?_⟩
  cases k <;> simp only [KindKept, MemoryKept, QueuesKept]
  case output => simp at hk
  case page b => exact fun _ _ _ _ _ => rfl
  case sampler => exact fun _ => ⟨rfl, rfl⟩
  all_goals first
    | exact fun _ => rfl
    | exact fun _ _ => rfl

theorem keptBut_send (s : State) (o : Output) : KeptBut [.output] s (s.send o) := by
  unfold State.send
  split
  · split
    · exact .refl _ s
    · exact keptBut_out ..
  · split
    · exact .refl _ s
    · exact keptBut_out ..
  · exact keptBut_out ..

/-! ### Events and doorbells -/

theorem keptBut_setEvt (s : State) {p : Page} (n : Nat) (hp : p.inst < instances p.blk) :
    KeptBut [.page p.blk] s (setEvt s p n) := keptBut_setFlag s n true hp (by decide)

theorem keptBut_wakeBox (s : State) (i : Fin 8) (m : Nat) : KeptBut eventKinds s (wakeBox s i m) := by
  unfold wakeBox
  split
  · exact ((keptBut_modBox ..).mono (by simp [eventKinds])).trans
      ((keptBut_setFlag (p := stackPage i .pwr) _ 15 true (show 0 < 1 by decide) (by decide)).mono (by simp [eventKinds, stackPage]))
  · exact .refl _ s

theorem keptBut_ringBits (s : State) (i : Fin 8) {m : Nat} (bs : Word) (hm : m < 64) :
    KeptBut eventKinds s (ringBits s i m bs) := by
  have hb : KeptBut eventKinds s (s.modBox i m fun b => { b with db := b.db ||| bs }) :=
    (keptBut_modBox ..).mono (by simp [eventKinds])
  have he : ∀ u : State, KeptBut eventKinds u (setEvt u (stackPage i .mbx (m / 16)) 3) := fun u =>
    (keptBut_setEvt (p := stackPage i .mbx (m / 16)) u 3 (show m / 16 < 4 by omega)).mono (by simp [eventKinds, stackPage])
  simp only [ringBits]
  split <;> split
  · exact (hb.trans (he _)).trans (keptBut_wakeBox ..)
  · exact hb.trans (keptBut_wakeBox ..)
  · exact hb.trans (he _)
  · exact hb

theorem keptBut_ringLine (s : State) (p : Page) : KeptBut eventKinds s (ringLine s p) := by
  unfold ringLine
  split
  · exact .refl _ s
  · dsimp only
    split
    · exact keptBut_ringBits s _ _ (by simp only [bitsOf]; exact Nat.mod_lt _ (by decide))
    · exact .refl _ s

theorem keptBut_lineRise (s₀ s : State) (p : Page) : KeptBut eventKinds s (lineRise s₀ s p) := by
  unfold lineRise
  split
  · exact keptBut_ringLine ..
  · exact .refl _ s

/-- An event reaches its page, and the mailbox its page's line rings (R33, R388, R389). -/
theorem keptBut_raiseEvt (s : State) {p : Page} (n : Nat) (hp : p.inst < instances p.blk) :
    KeptBut (.page p.blk :: eventKinds) s (raiseEvt s p n) :=
  ((keptBut_setEvt s n hp).mono (by simp)).trans ((keptBut_lineRise ..).mono (by simp))

/-! ### Locket requests and faults -/

theorem keptBut_addRequest (s : State) (src : Source) (order : Nat) (home : Fin 8) (code : Nat) (payload : List Byte) :
    KeptBut [.locket] s (addRequest s src order home code payload) := by
  simp only [addRequest, makeRequest, State.now, State.drawElapsed]
  exact ((keptBut_free s (s.free + 1)).mono (by simp)).trans (keptBut_modLkt { s with free := s.free + 1 } _)

/-- A request reaches the Locket, and its page where one is dropped (R439). -/
theorem keptBut_locketRequest (s : State) (src : Source) (order : Nat) (home : Fin 8) (code : Nat) (payload : List Byte) :
    KeptBut (.locket :: .page .lkt :: eventKinds) s (locketRequest s src order home code payload) := by
  unfold locketRequest
  split
  · exact (((keptBut_modLkt ..).mono (by simp)).trans
      ((keptBut_countSat (p := lktPage) _ 1 (by decide) (by decide)).mono (by simp [lktPage, modulePage]))).trans
      ((keptBut_raiseEvt (p := lktPage) _ 4 (by decide)).mono (by simp [lktPage, modulePage]))
  · exact (keptBut_addRequest ..).mono (by simp)

theorem keptBut_pageFault (s : State) {p : Page} (cls det info addr : Nat) (hp : p.inst < instances p.blk) :
    KeptBut (.page p.blk :: eventKinds) s (pageFault s p cls det info addr) :=
  ((((keptBut_setReg s _ hp (by decide)).mono (by simp)).trans ((keptBut_setReg _ _ hp (by decide)).mono (by simp))).trans
    ((keptBut_setPair _ _ hp (by decide)).mono (by simp))).trans (keptBut_raiseEvt _ 0 hp)

theorem keptBut_recordPlain (s : State) {p : Page} (cls det info addr : Nat) (tears : Bool) (hp : p.inst < instances p.blk) :
    KeptBut (.page p.blk :: faultKinds) s (recordPlain s p cls det info addr tears) := by
  have h := (keptBut_pageFault s cls det info addr hp).mono (m := .page p.blk :: faultKinds) (by simp [faultKinds])
  simp only [recordPlain]
  split
  · exact h.trans ((keptBut_locketRequest ..).mono (by simp [faultKinds]))
  · exact h

theorem keptBut_tornNow (info : Nat) (s : State) (i : Fin 8) : KeptBut faultKinds s (tornNow info s i) :=
  (((keptBut_modClp ..).mono (by simp [faultKinds])).trans
    ((keptBut_recordPlain (p := stackPage i .clp) _ _ _ _ _ _ (show 0 < 1 by decide)).mono (by simp [faultKinds, stackPage]))).trans
    ((keptBut_raiseEvt (p := stackPage i .clp) _ 9 (show 0 < 1 by decide)).mono (by simp [faultKinds, stackPage]))

theorem keptBut_tear (s : State) (info : Nat) : KeptBut faultKinds s (tear s info) :=
  KeptBut.foldl (fun s i => by
    unfold tornStack
    split
    · exact keptBut_tornNow ..
    · exact .refl _ s) _ s

/-- A fault reaches its page, the Locket, and the step that it tears (R32, R45, R418). -/
theorem keptBut_recordFault (s : State) {p : Page} (cls det info addr : Nat) (hp : p.inst < instances p.blk) :
    KeptBut (.page p.blk :: faultKinds) s (recordFault s p cls det info addr) := by
  unfold recordFault
  split
  · exact (keptBut_recordPlain s cls det info addr true hp).trans ((keptBut_tear ..).mono (by simp))
  · exact keptBut_recordPlain s cls det info addr false hp

/-! ### Queues -/

/-- The page of a queue is one of R29's. -/
theorem queuePage_inst {st : Fin 8} {q : Nat} {p : Page} (h : queuePage st q = some p) : p.inst < instances p.blk := by
  unfold queuePage at h
  repeat' split at h
  all_goals first
    | (cases h; done)
    | (injection h with h; subst h; simp only [stackPage, instances]; omega)

theorem keptBut_quiesceRise (s₀ s : State) {p : Page} (hp : p.inst < instances p.blk) :
    KeptBut (.page p.blk :: eventKinds) s (quiesceRise s₀ s p) := by
  unfold quiesceRise
  split
  · exact keptBut_raiseEvt s 1 hp
  · exact .refl _ s

/-- A descriptor that leaves its engine reaches its queue, and by QUIESCED its page (R30, R320). -/
theorem keptBut_finish (s : State) (st : Fin 8) {q : Nat} (clean : Bool) {p : Page} (h : queuePage st q = some p) :
    KeptBut (.queues :: .page p.blk :: eventKinds) s (finish s st q clean) := by
  simp only [finish, h]
  exact ((keptBut_modQueue ..).mono (by simp)).trans ((keptBut_quiesceRise _ _ (queuePage_inst h)).mono (by simp))

theorem keptBut_discardQueue (s : State) (st : Fin 8) (q : Nat) : KeptBut [.queues] s (discardQueue s st q) :=
  keptBut_modQueue ..

theorem keptBut_discardWaiting (s : State) (st : Fin 8) (q : Nat) : KeptBut [.queues] s (discardWaiting s st q) :=
  keptBut_modQueue ..

theorem keptBut_engineFault (s : State) (st : Fin 8) {q : Nat} (cls det info addr : Nat) {p : Page}
    (h : queuePage st q = some p) :
    KeptBut (.queues :: .page p.blk :: faultKinds) s (engineFault s st q cls det info addr) := by
  simp only [engineFault, h]
  exact ((keptBut_recordFault s cls det info addr (queuePage_inst h)).mono (by simp)).trans
    ((keptBut_finish _ st false h).mono (by intro k; simp [faultKinds]; tauto))

/-! ### Memory -/

theorem keptBut_rawWrite (s : State) (a : Nat) (bs : List Byte) : KeptBut [.memory] s (rawWrite s a bs).1 := by
  simp only [rawWrite]
  split
  · exact keptBut_setBytes ..
  · dsimp only
    refine KeptBut.trans (keptBut_store s ⟨s.mem, _, rfl⟩) (KeptBut.foldl (fun s e => ?_) _ _)
    split
    · exact .refl _ s
    · exact keptBut_store s ⟨_, _, rfl⟩

theorem keptBut_engWrite (s : State) (st : Fin 8) (plan : Nat) (driven : Bool) (a : Nat) (bs : List Byte) :
    KeptBut [.memory] s (engWrite s st plan driven a bs).1 := by
  have := keptBut_rawWrite s a bs
  unfold engWrite
  split
  · exact .refl _ s
  · dsimp only
    split
    · exact .refl _ s
    · split
      · exact .refl _ s
      · split <;> next heq => rw [heq] at this; exact this

theorem keptBut_countUe (s : State) (a : Nat) : KeptBut (.page .srm :: .page .mem :: eventKinds) s (countUe s a) := by
  simp only [countUe]
  split
  · exact ((keptBut_countSat (p := stackPage _ .srm) _ 1 (by simp [stackPage, instances]) (by decide)).mono
      (by simp [stackPage])).trans
      ((keptBut_raiseEvt (p := stackPage _ .srm) _ 4 (by simp [stackPage, instances])).mono (by simp [stackPage]))
  · next hd =>
    have hlt : lpddrChannel (offsetOf a) / 4 < 4 := by
      have : ∀ x y, x < 16 → y < 16 → Nat.xor x y < 16 := fun x y hx hy => Nat.xor_lt_two_pow (n := 4) hx hy
      have hb : ∀ o hi lo, hi = lo + 3 → bitsOf o hi lo < 16 := fun o hi lo h => by
        subst h; simp only [bitsOf]; rw [show lo + 3 + 1 - lo = 4 by omega]; exact Nat.mod_lt _ (by decide)
      have : lpddrChannel (offsetOf a) < 16 := this _ _ (this _ _ (hb _ _ _ rfl) (hb _ _ _ rfl)) (hb _ _ _ rfl)
      omega
    exact ((keptBut_countSat (p := stackPage _ .mem _) _ 1 (by simpa [stackPage, instances] using hlt) (by decide)).mono
      (by simp [stackPage])).trans
      ((keptBut_raiseEvt (p := stackPage _ .mem _) _ 3 (by simpa [stackPage, instances] using hlt)).mono (by simp [stackPage]))
  · exact .refl _ s

theorem keptBut_memFault (s : State) {p : Page} (e : MemErr) (eccDet low eccHigh : Nat) (hp : p.inst < instances p.blk) :
    KeptBut (.page p.blk :: .page .srm :: .page .mem :: faultKinds) s (memFault s p e eccDet low eccHigh) := by
  unfold memFault
  split
  · exact (keptBut_recordFault s _ _ _ _ hp).mono (by intro k; simp; tauto)
  · exact ((keptBut_countUe s _).mono (by intro k; simp [faultKinds]; tauto)).trans
      ((keptBut_recordFault _ _ _ _ _ hp).mono (by intro k; simp; tauto))

end Sys2Proof.Laws
end

