-- ==== Sys2Proof/Laws/Kept.lean ====
section
/-! SUPPORT. Every shared operation keeps the part, the commands that wait and the canonical form (`Safety.Kept`): one lemma for
each operation, cited in place of its definition. -/

namespace Sys2Proof.Safety

open Machine

/-! ### Ways to build it -/

theorem Kept.refl (s : State) : Kept s s := ⟨rfl, rfl, id⟩

theorem Kept.trans {s t u : State} (h : Kept s t) (g : Kept t u) : Kept s u :=
  ⟨g.part.trans h.part, g.pending.trans h.pending, fun c => g.canonical (h.canonical c)⟩

theorem Kept.foldl {α : Type} {f : State → α → State} (hf : ∀ s x, Kept s (f s x)) (l : List α) (s : State) :
    Kept s (l.foldl f s) := by
  induction l generalizing s with
  | nil => exact .refl s
  | cons a l ih => exact (hf s a).trans (ih _)

/-- A change of nothing that the form looks at. -/
theorem Kept.of_eq {s t : State} (h1 : t.part = s.part) (h2 : t.pending = s.pending) (h3 : t.regs = s.regs)
    (h4 : t.mem = s.mem) (h5 : t.stk = s.stk) (h6 : t.queues = s.queues) : Kept s t :=
  ⟨h1, h2, fun ⟨a, b, c⟩ => ⟨by rw [h1, h3]; exact a, by rw [Memory.wf, h4, h5]; exact b, by rw [h6]; exact c⟩⟩

end Sys2Proof.Safety

namespace Sys2Proof.Laws

open Machine Safety

/-! ### Updates -/

theorem kept_setReg (s : State) (p : Page) (off : Nat) (v : Word) : Kept s (s.setReg p off v) :=
  ⟨rfl, rfl, fun ⟨a, b, c⟩ => ⟨Laws.Sparse.wf_set _ _ _ a, b, c⟩⟩

theorem kept_setFld (s : State) (p : Page) (off hi lo v : Nat) : Kept s (s.setFld p off hi lo v) := kept_setReg ..

theorem kept_setFlag (s : State) (p : Page) (off i : Nat) (b : Bool) : Kept s (s.setFlag p off i b) := kept_setReg ..

theorem kept_countSat (s : State) (p : Page) (off n : Nat) : Kept s (s.countSat p off n) := kept_setReg ..

theorem kept_countWrap (s : State) (p : Page) (off n : Nat) : Kept s (s.countWrap p off n) := kept_setReg ..

theorem kept_setPair (s : State) (p : Page) (off n : Nat) : Kept s (s.setPair p off n) :=
  (kept_setReg ..).trans (kept_setReg ..)

theorem kept_countPair (s : State) (p : Page) (off n : Nat) : Kept s (s.countPair p off n) := kept_setPair ..

theorem kept_modQueue (s : State) (st : Fin 8) (q : Nat) (f : Queue → Queue) : Kept s (s.modQueue st q f) :=
  ⟨rfl, rfl, fun ⟨a, b, c⟩ => ⟨a, b, Laws.Sparse.wf_set _ _ _ c⟩⟩

/-- A change of a stack that does not lose its key. -/
theorem kept_modSt (s : State) (i : Fin 8) {f : Stack → Stack} (h : ∀ x, (f x).pwr.keyEpoch = x.pwr.keyEpoch) :
    Kept s (s.modSt i f) :=
  ⟨rfl, rfl, fun ⟨a, b, c⟩ => ⟨a, Memory.wf_modSt b i h, c⟩⟩

theorem kept_modClp (s : State) (i : Fin 8) (f : Clasp → Clasp) : Kept s (s.modClp i f) := kept_modSt s i fun _ => rfl

theorem kept_modTns (s : State) (i : Fin 8) (f : Tense → Tense) : Kept s (s.modTns i f) := kept_modSt s i fun _ => rfl

theorem kept_modArb (s : State) (i : Fin 8) (f : Arbiter → Arbiter) : Kept s (s.modArb i f) := kept_modSt s i fun _ => rfl

theorem kept_modPwr (s : State) (i : Fin 8) {f : Power → Power} (h : ∀ x, (f x).keyEpoch = x.keyEpoch) :
    Kept s (s.modPwr i f) := kept_modSt s i fun x => h x.pwr

theorem kept_modSeq (s : State) (i : Fin 8) (n : Fin 4) (f : Seq → Seq) : Kept s (s.modSeq i n f) :=
  kept_modSt s i fun _ => rfl

theorem kept_modBox (s : State) (i : Fin 8) (m : Nat) (f : Mailbox → Mailbox) : Kept s (s.modBox i m f) :=
  kept_modSt s i fun _ => rfl

theorem kept_modCore (s : State) (i : Fin 8) (c : Nat) (f : Machine.Core → Machine.Core) : Kept s (s.modCore i c f) :=
  kept_modSt s i fun _ => rfl

theorem kept_modKeys (s : State) (i : Fin 8) (f : Keys → Keys) : Kept s (s.modKeys i f) := kept_modSt s i fun _ => rfl

theorem kept_modRegion (s : State) (i : Fin 8) (n : Nat) (f : Region → Region) : Kept s (s.modRegion i n f) :=
  kept_modSt s i fun _ => rfl

theorem kept_modSess (s : State) (i : Fin 8) (c : Nat) (f : Session → Session) : Kept s (s.modSess i c f) :=
  kept_modSt s i fun _ => rfl

theorem kept_modChan (s : State) (i : Fin 8) (c : Nat) (f : Channel → Channel) : Kept s (s.modChan i c f) :=
  kept_modSt s i fun _ => rfl

theorem kept_modCkpt (s : State) (i : Fin 8) (f : Ckpt → Ckpt) : Kept s (s.modCkpt i f) := kept_modSt s i fun _ => rfl

theorem kept_modFil (s : State) (i : Fin 8) (f : Filigree → Filigree) : Kept s (s.modFil i f) :=
  kept_modSt s i fun _ => rfl

theorem kept_modHot (s : State) (i : Fin 8) (f : HotSet → HotSet) : Kept s (s.modHot i f) := kept_modSt s i fun _ => rfl

theorem kept_setByte (s : State) (a : Nat) (b : Byte) : Kept s (s.setByte a b) :=
  ⟨rfl, rfl, fun ⟨x, y, z⟩ => ⟨x, Memory.wf_setByte y a b, z⟩⟩

theorem kept_setBytes (s : State) (a : Nat) (bs : List Byte) : Kept s (s.setBytes a bs) :=
  ⟨rfl, rfl, fun ⟨x, y, z⟩ => ⟨x, Memory.wf_setBytes y a bs, z⟩⟩

theorem kept_keepBytes (s : State) (p : Nat → Bool) : Kept s (s.keepBytes p) :=
  ⟨rfl, rfl, fun ⟨x, y, z⟩ => ⟨x, Memory.wf_keepBytes y p, z⟩⟩

theorem kept_modPm (s : State) (f : PowerModule → PowerModule) : Kept s (s.modPm f) := .of_eq rfl rfl rfl rfl rfl rfl

theorem kept_modLkt (s : State) (f : Locket → Locket) : Kept s (s.modLkt f) := .of_eq rfl rfl rfl rfl rfl rfl

theorem kept_modBzl (s : State) (f : Bezel → Bezel) : Kept s (s.modBzl f) := .of_eq rfl rfl rfl rfl rfl rfl

theorem kept_modCal (s : State) (f : Cal → Cal) : Kept s (s.modCal f) := .of_eq rfl rfl rfl rfl rfl rfl

theorem kept_modBus (s : State) (f : BoardBus → BoardBus) : Kept s (s.modBus f) := .of_eq rfl rfl rfl rfl rfl rfl

theorem kept_drawFree (s : State) : Kept s s.drawFree.2 := .of_eq rfl rfl rfl rfl rfl rfl

theorem kept_now (s : State) : Kept s s.now.2 := .of_eq rfl rfl rfl rfl rfl rfl

theorem kept_send (s : State) (o : Output) : Kept s (s.send o) := by
  unfold State.send
  split
  · split
    · exact .refl s
    · exact .of_eq rfl rfl rfl rfl rfl rfl
  · split
    · exact .refl s
    · exact .of_eq rfl rfl rfl rfl rfl rfl
  · exact .of_eq rfl rfl rfl rfl rfl rfl

/-! ### Events and doorbells -/

theorem kept_wakeBox (s : State) (i : Fin 8) (m : Nat) : Kept s (wakeBox s i m) := by
  unfold wakeBox
  split
  · exact (kept_modBox ..).trans (kept_setFlag ..)
  · exact .refl s

theorem kept_setEvt (s : State) (p : Page) (n : Nat) : Kept s (setEvt s p n) := kept_setFlag ..

theorem kept_ringBits (s : State) (i : Fin 8) (m : Nat) (bs : Word) : Kept s (ringBits s i m bs) := by
  simp only [ringBits]
  split <;> split
  · exact ((kept_modBox ..).trans (kept_setEvt ..)).trans (kept_wakeBox ..)
  · exact (kept_modBox ..).trans (kept_wakeBox ..)
  · exact (kept_modBox ..).trans (kept_setEvt ..)
  · exact kept_modBox ..

theorem kept_ringLine (s : State) (p : Page) : Kept s (ringLine s p) := by
  unfold ringLine
  split
  · exact .refl s
  · dsimp only; split
    · exact kept_ringBits ..
    · exact .refl s

theorem kept_lineRise (s₀ s : State) (p : Page) : Kept s (lineRise s₀ s p) := by
  unfold lineRise; split
  · exact kept_ringLine ..
  · exact .refl s

theorem kept_raiseEvt (s : State) (p : Page) (n : Nat) : Kept s (raiseEvt s p n) :=
  (kept_setEvt ..).trans (kept_lineRise ..)

/-! ### Locket requests and faults -/

theorem kept_addRequest (s : State) (src : Source) (order : Nat) (home : Fin 8) (code : Nat) (payload : List Byte) :
    Kept s (addRequest s src order home code payload) :=
  .of_eq rfl rfl rfl rfl rfl rfl

theorem kept_locketRequest (s : State) (src : Source) (order : Nat) (home : Fin 8) (code : Nat) (payload : List Byte) :
    Kept s (locketRequest s src order home code payload) := by
  unfold locketRequest
  split
  · exact ((kept_modLkt ..).trans (kept_countSat ..)).trans (kept_raiseEvt ..)
  · exact kept_addRequest ..

theorem kept_pageFault (s : State) (p : Page) (cls det info addr : Nat) : Kept s (pageFault s p cls det info addr) :=
  (((kept_setReg ..).trans (kept_setReg ..)).trans (kept_setPair ..)).trans (kept_raiseEvt ..)

theorem kept_recordPlain (s : State) (p : Page) (cls det info addr : Nat) (tears : Bool) :
    Kept s (recordPlain s p cls det info addr tears) := by
  simp only [recordPlain]
  split
  · exact (kept_pageFault ..).trans (kept_locketRequest ..)
  · exact kept_pageFault ..

theorem kept_tornNow (info : Nat) (s : State) (i : Fin 8) : Kept s (tornNow info s i) :=
  ((kept_modClp ..).trans (kept_recordPlain ..)).trans (kept_raiseEvt ..)

theorem kept_tear (s : State) (info : Nat) : Kept s (tear s info) :=
  Kept.foldl (fun s i => by
    unfold tornStack; split
    · exact kept_tornNow ..
    · exact .refl s) _ s

theorem kept_recordFault (s : State) (p : Page) (cls det info addr : Nat) :
    Kept s (recordFault s p cls det info addr) := by
  unfold recordFault
  split
  · exact (kept_recordPlain ..).trans (kept_tear ..)
  · exact kept_recordPlain ..

/-! ### Queues -/

theorem kept_quiesceRise (s₀ s : State) (p : Page) : Kept s (quiesceRise s₀ s p) := by
  unfold quiesceRise; split
  · exact kept_raiseEvt ..
  · exact .refl s

theorem kept_finish (s : State) (st : Fin 8) (q : Nat) (clean : Bool) : Kept s (finish s st q clean) := by
  simp only [finish]
  split
  · exact (kept_modQueue ..).trans (kept_quiesceRise ..)
  · exact kept_modQueue ..

theorem kept_discardQueue (s : State) (st : Fin 8) (q : Nat) : Kept s (discardQueue s st q) := kept_modQueue ..

theorem kept_discardWaiting (s : State) (st : Fin 8) (q : Nat) : Kept s (discardWaiting s st q) := kept_modQueue ..

theorem kept_engineFault (s : State) (st : Fin 8) (q cls det info addr : Nat) :
    Kept s (engineFault s st q cls det info addr) := by
  unfold engineFault; split
  · exact .refl s
  · exact (kept_recordFault ..).trans (kept_finish ..)

/-! ### Memory -/

theorem kept_bad (s : State) (l : List Nat) : Kept s { s with bad := l } := .of_eq rfl rfl rfl rfl rfl rfl

theorem kept_rawWrite (s : State) (a : Nat) (bs : List Byte) : Kept s (rawWrite s a bs).1 := by
  simp only [rawWrite]
  split
  · exact kept_setBytes ..
  · dsimp only
    refine (kept_bad s _).trans (Kept.foldl (fun s e => ?_) _ _)
    split
    · exact .refl s
    · exact kept_setByte ..

theorem kept_engWrite (s : State) (st : Fin 8) (plan : Nat) (driven : Bool) (a : Nat) (bs : List Byte) :
    Kept s (engWrite s st plan driven a bs).1 := by
  have := kept_rawWrite s a bs
  unfold engWrite
  split
  · exact .refl s
  · dsimp only
    split
    · exact .refl s
    · split
      · exact .refl s
      · split <;> next heq => rw [heq] at this; exact this

theorem kept_countUe (s : State) (a : Nat) : Kept s (countUe s a) := by
  simp only [countUe]
  split
  · exact (kept_countSat ..).trans (kept_raiseEvt ..)
  · exact (kept_countSat ..).trans (kept_raiseEvt ..)
  · exact .refl s

theorem kept_memFault (s : State) (p : Page) (e : MemErr) (eccDet low eccHigh : Nat) :
    Kept s (memFault s p e eccDet low eccHigh) := by
  unfold memFault; split
  · exact kept_recordFault ..
  · exact (kept_countUe ..).trans (kept_recordFault ..)

theorem kept_loseKey (s : State) (st : Fin 8) : Kept s (loseKey s st) :=
  ⟨rfl, rfl, fun ⟨a, b, c⟩ => ⟨a, Memory.wf_loseKey b st, c⟩⟩

theorem kept_zeroSram (s : State) (st : Fin 8) : Kept s (zeroSram s st) :=
  ⟨rfl, rfl, fun ⟨a, b, c⟩ => ⟨a, Memory.wf_zeroSram b st, c⟩⟩

theorem kept_zeroPanel (s : State) (st : Fin 8) (k : Nat) : Kept s (zeroPanel s st k) :=
  ⟨rfl, rfl, fun ⟨a, b, c⟩ => ⟨a, Memory.wf_zeroPanel b st k, c⟩⟩

theorem kept_zeroRange (s : State) (a n : Nat) : Kept s (zeroRange s a n) := by
  simp only [zeroRange]
  split
  · exact (kept_bad s _).trans (kept_setBytes ..)
  · exact (kept_bad s _).trans (kept_keepBytes ..)

end Sys2Proof.Laws
end

