-- ==== Sys2Proof/Laws/Queues.lean ====
section
/-! SUPPORT. The laws of queues (R320): what leaving an engine does to a queue, and to the others. -/

namespace Sys2Proof.Laws

open Machine Safety

@[simp] theorem advance_accept (q : Queue) : q.advance.accept = q.accept := rfl

/-- The retire sequence advances by one for every entry that leaves. -/
theorem retireHead_length (es : List Entry) (r : Word) (u : List Word) :
    (retireHead es r u).2.1 = r + BitVec.ofNat 32 (es.length - (retireHead es r u).1.length) ∧
      (retireHead es r u).1.length ≤ es.length := by
  induction es generalizing r u with
  | nil => simp [retireHead]
  | cons e es ih =>
    simp only [retireHead]
    split
    · next c _ =>
      obtain ⟨h1, h2⟩ := ih (r + 1) (if c then u else u ++ [r + 1])
      refine ⟨?_, by simp only [List.length_cons]; omega⟩
      rw [h1, List.length_cons, show es.length + 1 - (retireHead es (r + 1) (if c then u else u ++ [r + 1])).1.length =
        (es.length - (retireHead es (r + 1) (if c then u else u ++ [r + 1])).1.length) + 1 by omega]
      rw [BitVec.ofNat_add, BitVec.add_assoc, BitVec.add_comm 1]
      rfl
    · simp

/-- The entry at the head of an advanced queue has not left its engine. -/
theorem retireHead_head (es : List Entry) (r : Word) (u : List Word) (e : Entry) (h : (retireHead es r u).1.head? = some e) :
    e.isDone = false := by
  induction es generalizing r u with
  | nil => simp [retireHead] at h
  | cons a es ih =>
    simp only [retireHead] at h
    split at h
    · exact ih _ _ h
    · next hs =>
      simp only [List.head?_cons, Option.some.injEq] at h
      subst h
      unfold Entry.isDone
      split
      · next c hc => exact absurd hc (hs c)
      · rfl

/-- A queue after its first descriptor has left its engine (R320). -/
theorem queue_finish (s : State) (st : Fin 8) {q : Nat} (clean : Bool) {p : Page} (h : queuePage st q = some p) :
    (finish s st q clean).queue st q = leftFirst (s.queue st q) clean := by
  simp only [finish, h]
  rw [(keptBut_quiesceRise _ _ (queuePage_inst h)).kind .queues (by simp [eventKinds]) st q, State.queue_modQueue_same]
  rfl

/-- The other queues are as they were. -/
theorem queue_finish_other (s : State) (st : Fin 8) {q : Nat} (clean : Bool) {p : Page} (h : queuePage st q = some p)
    (i : Fin 8) (r : Nat) (hr : queueKey i r ≠ queueKey st q) : (finish s st q clean).queue i r = s.queue i r := by
  simp only [finish, h]
  rw [(keptBut_quiesceRise _ _ (queuePage_inst h)).kind .queues (by simp [eventKinds]) i r, State.queue_modQueue, if_neg hr]

end Sys2Proof.Laws
end

