-- ==== Sys2Proof/WellFormed.lean ====
section
/-! DEFINITION. Which commands name units, registers and values that the manual knows: the check of a command as syntax,
before any state is looked at. -/

namespace Sys2Proof

open Machine

/-- A page that R29 lists: its block in the right space, and its instance among the block's. -/
def Page.valid (p : Page) : Bool :=
  (if isModule p.blk then p.stk == 15 else p.stk < 8) && p.inst < instances p.blk

/-- A register address: 52 bits and four-byte aligned (R7, R25). -/
def registerAligned (a : DWord) : Bool := a.toNat < 2 ^ 52 && a.toNat % 4 == 0

/-- A resource code of R329 has 16 bits; an activity is one of the fifteen of R334 and its scope has 16 bits. -/
def activityNamed (act scope : Nat) : Bool := act < 15 && scope < 65536

/-- The check of a command. -/
def Instr.wellFormed : Instr → Bool
  | .registerWrite _ a _ | .rcRegisterRead _ a | .pairLoRead _ a | .pairLoWrite _ a _ => registerAligned a
  | .blockEnable _ p _ | .quiesce _ p _ | .softRst _ p | .softResetDone p | .evtClr _ p _ => p.valid
  | .descriptorAccept _ q => allQueues.contains q
  | .remoteRowRequest _ _ table row => table < 65536 && row < 2 ^ 32
  | .filCfgWrite _ _ off _ => 0x040 ≤ off && off ≤ 0x070 && off % 4 == 0
  | .sramPatrol _ line _ => line < 3 * 2 ^ 22
  | .lpddr5xPatrol _ _ line _ _ => line < 96 * 2 ^ 22
  | .rebindScrub _ r | .rebindHandover _ r | .rebindDone _ r | .rebindForced _ r => r < 65536
  | .activitySubmit _ u act scope => u < 6 && activityNamed act scope
  | .activityEnd _ act scope | .swapCutover _ act scope | .swapCopy _ act scope _ | .swapComplete _ act scope =>
    activityNamed act scope
  | .hsResp _ ctx _ | .hsReject _ ctx _ | .reset _ ctx | .hsTimeout _ ctx | .failedTimeout _ ctx | .ackDelay _ ctx
  | .ccPeriod _ ctx | .ckptAck _ ctx _ _ | .rtoExpiry _ ctx _ => ctx < 2 ^ 15
  | .regRd _ ctx _ | .regWr _ ctx _ | .memWr _ ctx _ | .memRd _ ctx _ | .planLoad _ ctx _ | .planStart _ ctx _
  | .mbxWr _ ctx _ | .doorbell _ ctx _ | .kxtNop _ ctx _ => ctx < 2 ^ 15
  | .beat ctx _ _ => ctx < 2 ^ 15
  | .collStartSegment _ ctx g | .collReduceSegment _ ctx g | .collGatherSegment _ ctx g | .collVoteSegment _ ctx g =>
    ctx < 2 ^ 15 && g.chan < 16
  | .domainPowerUp d | .domainFailed d | .domainPowerDown d => d < 2 ^ 7
  | .openStep _ _ | .reduceBegin _ _ | .arm _ _ | .abandon _ _ | .openEval _ _ | .closeEval _ _ | .claspGateOpen
  | .gateTimeout _ | .commitSequenceEnd _ | .voidSequenceEnd _ | .evalEventTaken _ | .tnsRun _ _ | .tnsStop _ _
  | .beatEdge _ _ | .edgeWindowExpiry _ | .tick _ | .tnsSlotCfg _ _ _ | .mxStream _ _ | .mxPassRetire _ _ | .mxLdb _ _
  | .mxDrain _ _ | .mxFree _ _ | .mxCfgWrite _ _ _ _ | .vcRun _ _ | .vcSetchain _ _ | .vcSetvl _ _ | .vcSave _ _
  | .vcRestore _ _ | .smpOpen _ _ | .smpSeeds _ _ | .smpHop _ _ | .smpClose _ _ | .smpPrefix _ _ | .beadGather _
  | .beadSplit _ | .filScatter _ | .filContribution _ _ | .filRead _ | .filExport _ | .filMerge _
  | .hotSetRefreshAdmit _ | .hotSetCopyDone _ _ | .hotSetDirtyRecopy _ _ | .hotSetSwitch _ | .hsEnable _ _
  | .hsDisable _ _ | .keyCommitStep _ _ | .keyCommitEval _ _ | .keyDerivationDone _ | .reseed _ _ _
  | .rngSelfCheck _ _ _ | .sramRepair _ _ _ | .sramRepairDone _ | .lpddr5xRetraining _ _ | .softRepair _ _ _
  | .softRepairDone _ _ | .regionWrite _ _ _ | .xfrCopy _ _ | .xfrFill _ _ | .xfrCompress _ _ | .xfrExpand _ _
  | .xfrToRegion _ _ | .xfrFromRegion _ _ | .xfrTilecopy _ _ | .add _ _ | .sub _ _ | .and _ _ | .or _ _ | .xor _ _
  | .shl _ _ | .shr _ _ | .sar _ _ | .mul _ _ | .movhi _ _ | .cmp _ _ | .pset _ _ | .br _ _ | .call _ _ | .jmp _ _
  | .halt _ _ | .trap _ _ | .ldd _ _ | .std _ _ | .ldg _ _ | .ldgReturn _ _ | .stg _ _ | .rdr _ _ | .rdrReturn _ _
  | .wrr _ _ | .dwr _ _ | .dins _ _ | .dld _ _ | .dst _ _ | .push _ _ | .pushQueueRoom _ _ | .waitq _ _ | .waitqDone _ _
  | .fence _ _ | .fenceDone _ _ | .waitdb _ _ | .waitdbDone _ _ | .time _ _ | .waitpos _ _ | .waitposDone _ _ | .nop _ _
  | .seqWatchdog _ _ | .seqLoad _ _ _ | .seqLoadDone _ _ | .seqStart _ _ _ | .seqStop _ _ _ | .seqResume _ _ _
  | .seqSave _ _ _ _ | .seqRestore _ _ _ | .seqCtxDone _ _ | .seqClear _ _ _ | .rebind _ _ _ | .arbSubmit _ _ _
  | .activityAdmit _ _ | .queueTimeout _ _ | .idleCoreTest _ _ _ | .heartbeatCheck _ | .pairingCheck _ _ | .linkUp _ _ _
  | .linkDown _ _ _ | .netCfgWrite _ _ _ _ | .pauseFrame _ _ _ _ | .hsInit _ _ _ _ _ | .data _ _ _ _ _ | .ack _ _ _
  | .close _ _ | .closeAck _ _ | .kxtOpenGo _ _ | .mbxWrReply _ _ | .mbxEventSend _ _ | .checkpointStreamStart _
  | .chanReady _ _ _ | .collTimeout _ _ | .jkSend _ _ | .jkReduceLp _ _ | .jkSignal _ _ | .linkError _ _
  | .mbxSend _ _ _ _ | .mbxReceive _ _ _ | .mbxTimeout _ _ | .mbxDbSet _ _ _ _ | .identity _ _ | .attest _ _
  | .custody _ _ | .wipeComplete | .config _ _ | .sealEk _ _ | .sealKey _ _ | .sealDrop _ _ | .debug _ _ | .fwUpdate _ _
  | .locketWrite _ _ | .locketScanDone | .locketCursorWrite _ _ _ | .locketWindowLoadDone _ _ | .locketWin15Read _ _
  | .locketSnap _ _ | .lktFwGo _ | .restoreBlock _ | .powerOnReset | .resetN | .powerFail _ | .powerFailCleared
  | .pwrCtlReset _ _ | .refclkLoss _ | .refclkReturn | .pllLock _ _ | .pwrDomReq _ _ _ | .powerCapWindow _ _
  | .levelRaiseSwitch _ _ | .thermalLevelUpdate _ _ _ | .thermAlert _ _ | .thermtrip _ _ | .pwrSleep _ _ | .sleepEntered
  | .wake _ | .ppsIn | .rtcSet _ _ | .rtcDisciplineTimeout | .startupStageDone _ | .calCopy _ | .calCommit _
  | .calCommitDone _ | .calDiscard _ | .i3cPrivateWrite _ | .i3cPrivateRead | .resetNRelease | .ethRefclkReturn
  | .thermAlertClear | .sleepBeatCount _ | .jukanLaneFailed _ _ _ | .commonCommandCode _ _ | .icmpEcho _ _ _ _ _ _
  | .neighbourDiscovery _ _ _ _ _ | .ptpEventMessage _ _ _ _ | .droppedFrame _ _ _ => true

end Sys2Proof
end

