-- ==== Sys2Proof/Tests/Slice0.lean ====
section
/-! SUPPORT. Tests: an ill-formed command for each check of WellFormed, the manual's own examples, and for each statement with
hypotheses one theorem for each of its clauses, `witness_<statement>_<n>`, with a state and operands that meet the
hypotheses together and what the command then leaves. -/

namespace Sys2Proof.Tests

open Machine Safety

set_option maxRecDepth 65536
set_option Elab.async false

/-- The state after reset; a command's next state has a property; a state with commands waiting. -/
abbrev r0 : State := State.reset
def ends (o : Host.Outcome State Fault Refusal) (p : State → Bool) : Bool :=
  match o with
  | .next t => p t
  | _ => false
def stops (o : Host.Outcome State Fault Refusal) : Bool :=
  match o with
  | .fault .absentStack => true
  | _ => false
/-- The state after reset of a KX-220: stacks 2 to 7 are absent. -/
def small : State := { r0 with part := .kx220 }

/-! ### Ill-formed commands -/

theorem test_unaligned_register : (Instr.registerWrite .mgmt 0x0003_7F00_0023_0022 0).wellFormed = false := by decide
theorem test_address_bit_52 : (Instr.pairLoRead .mgmt 0x0013_7F00_0023_0020).wellFormed = false := by decide
theorem test_unlisted_page : (Instr.blockEnable .mgmt ⟨0, .seq, 4⟩ true).wellFormed = false := by decide
theorem test_module_page_in_a_stack : (Instr.softRst .mgmt ⟨0, .lkt, 0⟩).wellFormed = false := by decide
theorem test_unlisted_queue : (Instr.descriptorAccept 0 0x38).wellFormed = false := by decide
theorem test_table_number : (Instr.remoteRowRequest 0 1 65536 0).wellFormed = false := by decide
theorem test_fil_offset : (Instr.filCfgWrite .mgmt 0 0x074 0).wellFormed = false := by decide
theorem test_sram_line : (Instr.sramPatrol 0 (3 * 2 ^ 22) 0).wellFormed = false := by decide
theorem test_lpddr_line : (Instr.lpddr5xPatrol 0 0 (96 * 2 ^ 22) 0 false).wellFormed = false := by decide
theorem test_resource_code : (Instr.rebindScrub 0 65536).wellFormed = false := by decide
theorem test_submitter : (Instr.activitySubmit 0 6 1 0).wellFormed = false := by decide
theorem test_activity_number : (Instr.activityEnd 0 15 0).wellFormed = false := by decide
theorem test_context_number : (Instr.reset 0 (2 ^ 15)).wellFormed = false := by decide
theorem test_channel_number :
    (Instr.collVoteSegment 0 0 ⟨16, 3, 0, 0, 0, 0, 0, 0, []⟩).wellFormed = false := by decide
theorem test_domain_number : (Instr.domainPowerUp 128).wellFormed = false := by decide
theorem test_well_formed : (Instr.collVoteSegment 0 0 ⟨15, 3, 0, 0, 0, 0, 0, 0, []⟩).wellFormed = true := by decide

/-! ### Steps, stops and the registers -/

theorem witness_StepRunsTheFrontCommand_1 :
    ends (step { r0 with pending := [.openStep .mgmt 2] }) (fun t => (t.st 2).clp.state == .opened && t.pending == []) = true ∧
      ends (step r0) (fun t => t.pending == []) = true := by decide

theorem witness_CommandsStopForAbsentStacksOnly_1 :
    unitsPresent small (.openStep .mgmt 2) = false ∧ stops (exec (.openStep .mgmt 2) small) = true ∧
      unitsPresent small (.openStep .mgmt 1) = true ∧ unitsPresent small (.filContribution 1 2) = false := by decide

theorem witness_RunsNeverStop_1 : ∀ c ∈ [Instr.openStep .mgmt 1, .resetN], unitsPresent small c = true := by decide

theorem witness_StepKeepsCanonicalForm_1 : Canonical r0 := by
  exact ⟨by decide, by decide, by decide⟩

/-- The address of R29: FAULT_INFO of SEQ page 0 of stack 3. -/
theorem test_R29_address :
    regSource r0 .mgmt 0x0003_7F00_0023_0024 = some (⟨3, .seq, 0⟩, .mgmt) := by decide

theorem witness_RegisterAccesses_1 : regTargets r0 .mgmt 0x0003_7F00_0023_0014 = some [(⟨3, .seq, 0⟩, .mgmt)] ∧
    mayWrite r0 .mgmt ⟨3, .seq, 0⟩ 0x014 = true ∧
    ends (exec (.registerWrite .mgmt 0x0003_7F00_0023_0014 0x55) r0) (fun t => t.reg ⟨3, .seq, 0⟩ 0x014 == 0x55) = true := by
  decide

/-- MEM_LINK_CE_CNT of device 1 of stack 2, holding 9. -/
def counted : State := r0.setReg (stackPage 2 .mem 1) 0x050 9
theorem witness_RegisterAccesses_2 :
    regSource counted .mgmt 0x0002_7F00_0033_1050 = some (stackPage 2 .mem 1, .mgmt) ∧
    ends (exec (.rcRegisterRead .mgmt 0x0002_7F00_0033_1050) counted)
      (fun t => t.out == [.value .mgmt 9] && t.reg (stackPage 2 .mem 1) 0x050 == 0) = true := by decide

/-- FAULT_ADDR of SEQ page 0 of stack 3, read while a second fault comes between its halves (R9). -/
def faultAt : State := r0.setPair ⟨3, .seq, 0⟩ 0x028 0x1_2345_6789
theorem witness_RegisterAccesses_3 :
    regSource faultAt .mgmt 0x0003_7F00_0023_0028 = some (⟨3, .seq, 0⟩, .mgmt) ∧
    ends (exec (.pairLoRead .mgmt 0x0003_7F00_0023_0028) faultAt)
      (fun t => t.out == [.value .mgmt 0x2345_6789] &&
        (readReg (t.setPair ⟨3, .seq, 0⟩ 0x028 0) .mgmt ⟨3, .seq, 0⟩ 0x02C).1 == 1) = true := by decide

theorem witness_RegisterAccesses_4 :
    regTargets r0 .mgmt 0x0001_7F00_0031_0090 = some [(kxtPage 1, .mgmt)] ∧ mayWrite r0 .mgmt (kxtPage 1) 0x090 = true ∧
    regTargets r0 .mgmt 0x0001_7F00_0031_0094 = some [(kxtPage 1, .mgmt)] ∧
    ends (exec (.registerWrite .mgmt 0x0001_7F00_0031_0094 7) r0) (fun t => t.pair (kxtPage 1) 0x090 == 0 &&
      ends (exec (.pairLoWrite .mgmt 0x0001_7F00_0031_0090 64) t) fun u => u.pair (kxtPage 1) 0x090 == 7 * 2 ^ 32 + 64) = true := by
  decide

/-- MEM_PATROL: the reserved HOURS 0 is not taken, and HOURS 1 is. -/
theorem witness_RegisterAccesses_5 :
    let p := stackPage 0 .mem 3
    regTargets r0 .mgmt 0x0000_7F00_0033_3040 = some [(p, .mgmt)] ∧ mayWrite r0 .mgmt p 0x040 = true ∧
    ends (exec (.registerWrite .mgmt 0x0000_7F00_0033_3040 0) r0)
      (fun t => t.fld p 0x040 15 8 == r0.fld p 0x040 15 8 && !t.flag p 0x040 0) = true ∧
    ends (exec (.registerWrite .mgmt 0x0000_7F00_0033_3040 0x101) r0) (fun t => t.fld p 0x040 15 8 == 1 && t.flag p 0x040 0) =
      true := by decide

theorem witness_HeaderWrites_1 :
    let p := stackPage 1 .clp
    r0.pageOk p = true ∧ mayWrite r0 .mgmt p 0x008 = true ∧ r0.flag p 0x008 1 = false ∧ (r0.st p.home).clp.state ≠ .commit ∧
    ends (exec (.blockEnable .mgmt p false) r0) (fun t => !t.flag p 0x008 0) = true ∧
    ends (exec (.quiesce .mgmt p true) r0) (fun t => t.flag p 0x008 2) = true ∧
    ends (exec (.softRst .mgmt p) (r0.setReg p 0x020 0x10920)) (fun t => t.flag p 0x008 1 && t.fld p 0x020 31 0 == 0) = true := by
  decide

theorem witness_HeaderWrites_2 :
    let p := modulePage .lkt
    r0.pageOk p = true ∧ ends (exec (.softResetDone p) (r0.setFlag p 0x008 1 true)) (fun t => !t.flag p 0x008 1) = true := by decide

theorem witness_HeaderWrites_3 :
    let p := stackPage 7 .mx 55
    r0.pageOk p = true ∧ mayWrite r0 .host p 0x01C = true ∧
    ends (exec (.evtClr .host p 1) ((r0.setReg p 0x010 5).setReg p 0x020 0x10201))
      (fun t => t.reg p 0x010 == 4 && t.fld p 0x020 31 0 == 0) = true := by decide

theorem witness_HeaderWrites_4 :
    mayWrite r0 .mgmt (filPage 2) 0x040 = true ∧ filFree r0 2 = true ∧
    ends (exec (.filCfgWrite .mgmt 2 0x040 1) r0) (fun t => t.flag (filPage 2) 0x040 0) = true ∧
    let s := r0.modClp 2 fun c => { c with state := .opened }
    filFree s 2 = false ∧ ends (exec (.filCfgWrite .mgmt 2 0x040 1) s)
      (fun t => !t.flag (filPage 2) 0x040 0 && t.flag (filPage 2) 0x074 2) = true := by decide

/-! ### Steps -/

/-- A Clasp in a step state, with a batch reported where one is due. -/
def inState (x : StepState) : State := r0.modClp 1 fun c => { c with state := x, mbReported := mbCount r0 1 }

theorem witness_ClaspCommands_1 :
    mayWrite r0 .mgmt (clpPage 1) 0x040 = true ∧ 1 ≤ mbCount r0 1 ∧
    ends (exec (.openStep .mgmt 1) r0) (fun t => (t.st 1).clp.state == .opened && (t.st 1).clp.step == 1) = true ∧
    ends (exec (.openEval .mgmt 1) r0) (fun t => (t.st 1).clp.state == .eval && (t.st 1).clp.evals == 1) = true := by decide

theorem witness_ClaspCommands_2 :
    mayWrite (inState .opened) .mgmt (clpPage 1) 0x040 = true ∧
    ends (exec (.reduceBegin .mgmt 1) (inState .opened)) (fun t => (t.st 1).clp.state == .reduce) = true ∧
    ends (exec (.abandon .mgmt 1) (inState .opened)) (fun t => (t.st 1).clp.voidPlan && (t.st 1).clp.state == .opened) = true ∧
    votesDone (inState .reduce) 1 = true ∧
    ends (exec (.arm .mgmt 1) (inState .reduce)) (fun t => (t.st 1).clp.state == .armed) = true ∧
    ends (exec (.closeEval .mgmt 1) (inState .eval)) (fun t => (t.st 1).clp.state == .idle) = true := by decide

theorem witness_ClaspCommands_3 :
    let s := r0.modClp 1 fun c => { c with evalHeld := true }
    (s.st 1).clp.state = .idle ∧ ends (exec (.evalEventTaken 1) s)
      (fun t => (t.st 1).clp.state == .eval && t.flag (clpPage 1) 0x010 8) = true := by decide

theorem witness_ClaspCommandsOutOfOrder_1 :
    mayWrite (inState .torn) .mgmt (clpPage 1) 0x040 = true ∧
    ends (exec (.openStep .mgmt 1) (inState .torn)) (fun t => t.fld (clpPage 1) 0x020 15 0 == 0x0920 &&
      (t.reg (clpPage 1) 0x024).toNat == 1 + 16 * stepCode .torn && (t.st 1).clp.state == .torn) = true ∧
    ends (exec (.arm .mgmt 1) (inState .commit)) (fun t => t.fld (clpPage 1) 0x020 15 0 == 0x0920) = true := by decide

/-- Every stack armed at step 1 with its event come, and nothing that the gate waits for. -/
def armedAll : State := { r0 with stk := Vector.replicate 8 <|
  { clp := { state := .armed, step := 1, mbReported := 1, due := some 0 } } }
theorem witness_ClaspGateAndSequences_1 :
    (∀ i : Fin 8, gateMissing armedAll i = 0 ∧ (armedAll.st i).clp.step = 1) ∧ voteLate armedAll = false ∧
      armedAll.clocked = true ∧ stepOutcome armedAll = 0 ∧ (∀ i : Fin 8, armedAll.fld (filPage i) 0x068 15 0 = 0) ∧
      ends (exec .claspGateOpen armedAll) (fun t => (t.st 7).clp.state == .commit && (t.st 7).clp.sequence == .commit) = true := by
  decide

theorem witness_ClaspGateAndSequences_2 :
    let s := armedAll.modClp 3 fun c => { c with voidPlan := true }
    (∀ i : Fin 8, gateMissing s i = 0) ∧ stepOutcome s ≠ 0 ∧
      ends (exec .claspGateOpen s) (fun t => (t.st 0).clp.sequence == .void && t.mod.lkt.stepWaits) = true := by decide

theorem witness_ClaspGateAndSequences_3 :
    let s := ((r0.modClp 1 fun c => { c with due := some 0 }).setReg (clpPage 1) 0x048 1).modTns 1 fun u => { u with pos := 65536 }
    s.fld (clpPage 1) 0x048 7 0 = 1 ∧ 0 + 1 * 65536 ≤ (s.st 1).tns.pos.toNat ∧
      ends (exec (.gateTimeout 1) s) (fun t => (t.st 1).clp.timedOut && t.fld (clpPage 1) 0x020 15 0 == 0x0922) = true := by decide

theorem witness_ClaspGateAndSequences_4 :
    let s := r0.modClp 1 fun c => { c with state := .commit, sequence := .commit, step := 5 }
    let v := r0.modClp 1 fun c => { c with state := .commit, sequence := .void, step := 5 }
    s.mod.lkt.stepWaits = false ∧ (s.st 1).clp.ckptWaits = false ∧
      ends (exec (.commitSequenceEnd 1) s) (fun t => (t.st 1).clp.committed == 5 && (t.st 1).clp.state == .idle) = true ∧
      ends (exec (.voidSequenceEnd 1) v) (fun t => (t.st 1).clp.committed == 0 && (t.st 1).clp.voidCnt == 1) = true := by decide

/-! ### The Tense unit -/

theorem witness_TenseUnit_1 :
    mayWrite r0 .mgmt (tnsPage 1) 0x040 = true ∧ tnsRunning r0 1 = false ∧
      ends (exec (.tnsRun .mgmt 1) r0) (fun t => tnsRunning t 1 && (t.st 1).tns.lock == .acquiring) = true ∧
      ends (exec (.tnsStop .mgmt 1) r0) (fun t => (t.st 1).tns.lock == .idle) = true := by decide

/-- A unit that acquires from its own edges, with two taken 1,000,000 ps apart. -/
def acquiring : State := (r0.setFlag (tnsPage 1) 0x040 2 true).modTns 1 fun u => { u with lock := .acquiring }
theorem witness_TenseUnit_2 :
    let s := acquiring.modTns 1 fun u => { u with acq := [2000000, 1000000] }
    tnsSrc acquiring 1 = 0 ∧ tnsRunning acquiring 1 = true ∧
      ends (exec (.beatEdge 1 1000000) acquiring) (fun t => (t.st 1).tns.acq == [1000000]) = true ∧
      ends (exec (.beatEdge 1 3000000) s) (fun t => (t.st 1).tns.lock == .locked && (t.st 1).tns.ticking) = true := by decide

theorem witness_TenseUnit_3 :
    let s := r0.modTns 1 fun u => { u with lock := .locked }
    let v := r0.modTns 1 fun u => { u with lock := .freewheel, freewheel := 3 }
    (s.st 1).tns.acceptedCur = false ∧
      ends (exec (.edgeWindowExpiry 1) s) (fun t => (t.st 1).tns.lock == .freewheel) = true ∧
      ends (exec (.edgeWindowExpiry 1) v) (fun t => (t.st 1).tns.lock == .lost && t.fld (tnsPage 1) 0x020 15 0 == 0x0901) = true := by
  decide

theorem witness_TenseUnit_4 :
    let s := r0.modTns 1 fun u => { u with ticking := true, lock := .locked, pos := 65535 }
    let v := r0.modTns 1 fun u => { u with ticking := true, lock := .locked, pos := 65534 }
    (s.st 1).tns.tick = 65535 ∧ ends (exec (.tick 1) s) (fun t => (t.st 1).tns.pos == 65536) = true ∧
      ends (exec (.tick 1) v) (fun t => (t.st 1).tns.pos == 65535) = true := by decide

theorem witness_TenseUnit_5 :
    let s := r0.modTns 1 fun u => { u with slots := [(2, { stagedPos := 9, stagedPeriod := 4 })] }
    let u := s.setReg (tnsPage 1) 0x080 2
    mayWrite u .mgmt (tnsPage 1) 0x094 = true ∧ kindTarget 7 = some 63 ∧
      ends (exec (.tnsSlotCfg .mgmt 1 (1 + 16 * 7 + 2 ^ 8 * 63 + 2 ^ 16 * 31)) u)
        (fun t => ((t.st 1).tns.slot 2).armed && ((t.st 1).tns.slot 2).pos == 9 && ((t.st 1).tns.slot 2).target == 63) = true := by
  decide

theorem witness_TenseUnit_6 :
    let s := (r0.setFld (tnsPage 1) 0x040 1 0 1).modPm fun p => { p with sleeping := true }
    tnsSrc s 1 = 1 ∧ ends (exec (.sleepBeatCount 1) s) (fun t => (t.st 1).tns.kept == some 1) = true := by decide

theorem witness_TenseUnit_7 :
    let s := r0.modTns 1 fun u => { u with ticking := true, lock := .locked, pos := 6,
                                            slots := [(0, { armed := true, kind := 7, target := 63, bit := 31, pos := 7 })] }
    ends (exec (.tick 1) s) (fun t => !((t.st 1).tns.slot 0).armed && ((t.st 1).tns.slot 0).fired &&
      (t.box 1 63).db.getLsbD 31) = true := by decide

/-! ### Descriptors and the matrix array -/

/-- A descriptor of four words, with its check value; a queue holding it; a stack with its domains on. -/
def dsc (w0 w1 w2 w3 : Nat) : Desc := sealDesc (BitVec.ofNat 256 (w0 + w1 * 2 ^ 64 + w2 * 2 ^ 128 + w3 * 2 ^ 192))
def held (s : State) (st : Fin 8) (q : Nat) (d : Desc) (x : EntryState := .accepted) (latch : List DWord := []) : State :=
  s.modQueue st q fun _ => { entries := [{ desc := d, plan := 0xFFFF, by_ := 0, st := x, latch := latch }], accept := 1 }
def lit (st : Fin 8) : State := r0.setReg (pwrPage st) 0x044 0xFF

/-- A STREAM of FP16 panels with one row of the mask set, on core 5. -/
def stream : Desc := dsc (0x10 + 1 * 2 ^ 8 + 3 * 2 ^ 32 + 3 * 2 ^ 36 + 1 * 2 ^ 48) (1 * 2 ^ 32) 0 0
def streaming (x : EntryState) : State :=
  (held ((((lit 1).setReg (mxPage 1 5) 0x008 1).setReg (mxPage 1 5) 0x060 1)) 1 5 stream x)

theorem witness_DescriptorsAreAcceptedOrRejected_1 :
    let s := streaming .queued
    queuePage 1 5 = some (mxPage 1 5) ∧
    (queueAccepts s 1 (mxPage 1 5) 5 && unitFree s 1 (mxPage 1 5) 5 { desc := stream, plan := 0, by_ := 0 } &&
      !acceptHeld s 1 (mxPage 1 5) 5 stream) = true ∧ coreDead s 1 5 = false ∧
    descBits stream 3 63 48 = (descCheck stream).toNat ∧ descBits stream 0 7 0 = kindOf .mx ∧
    firstOffending stream (fieldsOn s 1 (mxPage 1 5) 5 stream) = none ∧
    fmtPair (descBits stream 0 35 32) (descBits stream 0 39 36) = true ∧
    ends (exec (.descriptorAccept 1 5) s) (fun t => (t.queue 1 5).entries.map (·.st) == [.accepted]) = true := by decide

theorem witness_DescriptorsAreAcceptedOrRejected_2 :
    let d := stream ^^^ 0x10000
    let s := held (streaming .queued) 1 5 d .queued
    descBits d 3 63 48 ≠ (descCheck d).toNat ∧
    (queueAccepts s 1 (mxPage 1 5) 5 && unitFree s 1 (mxPage 1 5) 5 { desc := d, plan := 0, by_ := 0 }) = true ∧
    ends (exec (.descriptorAccept 1 5) s) (fun t => t.fld (mxPage 1 5) 0x020 7 0 == 2 &&
      t.fld (mxPage 1 5) 0x020 15 8 == classOf .mx && (t.queue 1 5).entries == [] && (t.queue 1 5).retire == 1) = true := by decide

theorem witness_MatrixPass_1 :
    let s := ((streaming .accepted).setReg (mxPage 1 5) 0x060 0).setReg (mxPage 1 5) 0x064 0
    let run := windowRun false 64 (List.replicate 64 false) [] (passPlan s 1 5 stream) 0 0 0 0 0
    (mxFirst s 1 5 [1]).isSome = true ∧ (s.core 1 5).pass = none ∧ mxBlocked s 1 5 stream 0 = false ∧
    passStartFault s 1 5 stream = none ∧ (passPlan s 1 5 stream).fault = none ∧
    (openTile (s.core 1 5) false stream).isOk = true ∧ windowFmt (descBits stream 0 35 32) = true ∧
    rowMask s 1 5 stream % 2 ^ 64 = 0 ∧ run.out.isOk = true := by
  decide +kernel

theorem witness_MatrixPass_2 :
    let d := dsc (0x10 + 1 * 2 ^ 8 + 1 * 2 ^ 32 + 1 * 2 ^ 36 + 7 * 2 ^ 40 + 1 * 2 ^ 48) (1 * 2 ^ 32) 0 0
    let s := held (streaming .accepted) 1 5 d
    (mxFirst s 1 5 [1]).isSome = true ∧ windowFmt (descBits d 0 35 32) = false ∧ passStartFault s 1 5 d = none ∧
    (passPlan s 1 5 d).fault = none ∧ (openTile (s.core 1 5) false d).isOk = true := by decide

theorem witness_MatrixPass_3 :
    let s := (streaming .running).modCore 1 5 fun x => { x with pass := some { tile := 0, window := true, w := 3 },
                                                                tiles := [(0, { window := true, shape := 0, w := 1, cells := [] })] }
    (mxFirst s 1 5 [1]).isSome = true ∧ ends (exec (.mxPassRetire 1 5) s) (fun t => (t.core 1 5).pass == none &&
      (t.queue 1 5).entries == [] && ((t.core 1 5).tiles.map (·.2.w)) == [3]) = true := by decide

/-- An LDB of one slice of 64 FP16 elements to bank 1. -/
theorem witness_MatrixBanksAndTiles_1 :
    let d := dsc (0x10 + 2 * 2 ^ 8 + 1 * 2 ^ 32 + 3 * 2 ^ 33) (1 * 2 ^ 16) 0 0
    let s := held (streaming .accepted) 1 5 d
    (mxFirst s 1 5 [2]).isSome = true ∧ mxBlocked s 1 5 d 0 = false ∧
    panelBytes (descBits d 0 36 33) (descBits d 1 28 16) 64 ≤ panelSize ∧
    ends (exec (.mxLdb 1 5) s) (fun t => (t.core 1 5).banks[1].valid && (t.core 1 5).banks[1].rows == 1 &&
      !(t.core 1 5).banks[0].valid && (t.queue 1 5).entries == []) = true := by decide

/-- A DRAIN of an open FP32 tile that holds 1.0 in its first cell, written at byte 16, and a FREE of it. -/
def tiled (d : Desc) : State :=
  held (r0.modCore 1 5 fun x => { x with tiles := [(7, { window := false, shape := 0, w := 0, cells := [(0, 0x3F800000)] })] })
    1 5 d
theorem witness_MatrixBanksAndTiles_2 :
    let d := dsc (0x10 + 3 * 2 ^ 8 + 7 * 2 ^ 40) 1 0 0
    let s := tiled d
    (mxFirst s 1 5 [3, 4]).isSome = true ∧ mxBlocked s 1 5 d 0 = false ∧ (tileAt (s.core 1 5) 7).isSome = true ∧
    descOp d = 3 ∧ 16 + drainBytes 0 ≤ panelSize := by decide

theorem witness_MatrixBanksAndTiles_3 :
    let d := dsc (0x10 + 4 * 2 ^ 8 + 7 * 2 ^ 40) 0 0 0
    (mxFirst (tiled d) 1 5 [3, 4]).isSome = true ∧
    ends (exec (.mxFree 1 5) (tiled d)) (fun t => (t.core 1 5).tiles == [] && (t.queue 1 5).entries == []) = true := by decide

theorem witness_MatrixBanksAndTiles_4 :
    mayWrite r0 .mgmt (mxPage 1 5) 0x040 = true ∧
    ends (exec (.mxCfgWrite .mgmt 1 5 0xD) r0) (fun t => t.fld (mxPage 1 5) 0x040 3 0 == 0xD) = true ∧
    ends (exec (.mxCfgWrite .mgmt 1 5 0xD) (tiled stream)) (fun t => t.fld (mxPage 1 5) 0x040 3 0 == r0.fld (mxPage 1 5) 0x040 3 0 &&
      t.flag (mxPage 1 5) 0x044 4) = true := by decide

/-! ### The vector chain -/

/-- A RUN of one element of vector register 0, holding 1.0, through an empty chain to byte 16 of the panel store, as FP32. -/
def vrun : Desc := dsc (0x11 + 1 * 2 ^ 8 + 1 * 2 ^ 54) (1 * 2 ^ 32) 0 0
def chained (d : Desc) : State :=
  held (r0.modCore 1 5 fun x => { x with vl := 1, vregs := [(0, 0x3F800000)], chain := x.chain.set 0 { valid := true } }) 1 0x45 d
theorem witness_VectorChain_1 :
    let s := chained vrun
    (vcHead s 1 5 1).isSome = true ∧ (checkRun (s.core 1 5) vrun).isOk = true ∧ runStartFault s 1 5 vrun [] = none ∧
    runHeld s 1 5 vrun [] = false ∧ (runSource s 1 5 vrun 1).bad = none ∧ runMask vrun = false ∧
    ends (exec (.vcRun 1 5) s) (fun t => t.bytes (panelBase 1 5 + 16) 4 == [0, 0, 0x80, 0x3F] &&
      t.pair (vcPage 1 5) 0x054 == 1 && (t.queue 1 0x45).entries == []) = true := by decide +kernel

theorem witness_VectorChain_2 :
    let d := dsc (0x11 + 2 * 2 ^ 8) 0x4567 0 (3 * 2 ^ 32 + 1 * 2 ^ 34)
    (vcHead (chained d) 1 5 2).isSome = true ∧
    ends (exec (.vcSetchain 1 5) (chained d)) (fun t => (t.core 1 5).chain[3].valid && (t.core 1 5).chain[3].nstage == 1 &&
      (t.core 1 5).chain[3].words[0] == 0x4567 && (t.core 1 5).chain[0].nstage == 0) = true := by decide

theorem witness_VectorChain_3 :
    let d := dsc (0x11 + 3 * 2 ^ 8) 1000 0 0
    (vcHead (chained d) 1 5 3).isSome = true ∧
    ends (exec (.vcSetvl 1 5) (chained d)) (fun t => (t.core 1 5).vl == 1000 && (t.queue 1 0x45).retire == 1) = true := by decide

theorem witness_VectorChain_4 :
    let d := dsc (0x11 + 4 * 2 ^ 8) ((1048576 - 17600) / 16) 0 0
    (vcHead (chained d) 1 5 4).isSome = true ∧ descBits d 1 15 0 * 16 + 17600 = panelSize ∧
    panelWriteHeld (chained d) 1 5 (descBits d 1 15 0 * 16) 17600 = false := by decide

/-- A context of 32 lanes and 512 elements, with VL 7, in the panel store from byte 0. -/
def restoring : State :=
  { chained (dsc (0x11 + 5 * 2 ^ 8) 0 0 0) with
    mem := [(369435912175616, 1), (369435912175618, 32), (369435912175620, 7), (369435912175622, 4), (369435912175625, 2)] }

theorem restoring_slot (k : Nat) (hk : k < 4) : restoring.bytes (369435912175616 + (64 + 32 * k)) 32 = List.replicate 32 0 := by
  interval_cases k <;> decide +kernel

theorem empty_slot : (slotFrom (List.replicate 32 0)).nstage ≤ 8 ∧
    ∀ w ∈ (slotFrom (List.replicate 32 0)).words.toList, w.toNat % 16 ≤ 11 := by
  refine ⟨by decide, fun w hw => ?_⟩
  obtain ⟨i, hi, rfl⟩ := List.mem_iff_getElem.mp hw
  rw [Vector.length_toList] at hi
  simp only [slotFrom, Vector.getElem_toList, Vector.getElem_ofFn]
  interval_cases i <;> decide +kernel

theorem witness_VectorChain_5 :
    panelBase 1 5 = 369435912175616 ∧ (vcHead restoring 1 5 5).isSome = true ∧ 192 + 16 * 32 + 16 * 512 ≤ panelSize := by
  decide +kernel

theorem witness_VectorChain_6 :
    let bs := restoring.bytes 369435912175616 (192 + 16 * 32 + 16 * 512)
    leNat (slice bs 0 2) = 1 ∧ leNat (slice bs 2 2) = 32 ∧ leNat (slice bs 8 2) = 512 ∧ leNat (slice bs 6 2) = 4 ∧
      ∀ k < 4, (slotFrom (slice bs (64 + 32 * k) 32)).nstage ≤ 8 ∧
        ∀ w ∈ (slotFrom (slice bs (64 + 32 * k) 32)).words.toList, w.toNat % 16 ≤ 11 := by
  intro bs
  refine ⟨?_, ?_, ?_, ?_, fun k hk => ?_⟩
  · rw [slice_bytes _ _ _ _ _ (by decide)]; decide +kernel
  · rw [slice_bytes _ _ _ _ _ (by decide)]; decide +kernel
  · rw [slice_bytes _ _ _ _ _ (by decide)]; decide +kernel
  · rw [slice_bytes _ _ _ _ _ (by decide)]; decide +kernel
  · rw [slice_bytes _ _ _ _ _ (by omega), restoring_slot k hk]; exact empty_slot
/-! ### The sampler -/

/-- A graph of two nodes and one edge of node 0 to node 1, weight 1.0, with PREFIX, in the SRAM of stack 1: its header at byte 0,
ROWPTR at 64, COL at 128, WEIGHT at 192, PREFIX at 256. -/
def sram1 : Nat := 2 ^ 48 + 0x400000000000
def graphed : State :=
  { (lit 1).setReg (smpPage 1) 0x050 0xFFFF with
    mem := [(sram1, 1), (sram1 + 2, 6), (sram1 + 8, 2), (sram1 + 16, 1), (sram1 + 24, 64), (sram1 + 32, 128),
      (sram1 + 40, 192), (sram1 + 48, 0), (sram1 + 49, 1), (sram1 + 72, 1), (sram1 + 80, 1), (sram1 + 128, 1),
      (sram1 + 193, 0x3C)] }
def batched (n : Nat) (nodes : List Nat) (phase : Nat) (d : Desc) : State :=
  ((held graphed 1 0x80 d).modGroups 1 (fun i => i == 0) fun _ x => { x with phase := phase, leader := some 0 }).setBatch 1 0
    (some { groups := 1, flags := 6, nnode := 2, nedge := 1, rowptr := sram1 + 64, col := sram1 + 128, weight := sram1 + 192,
            pfx := sram1 + 256, dedup := sram1 + 4096, log2 := 3, nmax := 4, tag := 1, numbered := n, nodes := nodes })

theorem witness_SamplerCommands_1 :
    let d := dsc (0x20 + 1 * 2 ^ 8) sram1 (sram1 + 4096 + 3 * 2 ^ 52) (4 + 1 * 2 ^ 25 + 1 * 2 ^ 32)
    let s := held graphed 1 0x80 d
    (smpHead s 1 0 1).isSome = true ∧ lowestGroup 1 = 0 ∧ s.batch 1 0 = none ∧ groupsIdle s 1 1 = true ∧
      (openBatch s 1 0 { desc := d, plan := 0xFFFF, by_ := 0, st := .accepted }).2 = none ∧
      ends (exec (.smpOpen 1 0) s) (fun t => ((t.batch 1 0).map (·.nedge)) == some 1 && (t.group 1 0).phase == 1) = true := by
  decide +kernel

/-- The seed list at byte 8192 holds node 0; the block goes to byte 16384. -/
theorem witness_SamplerCommands_2 :
    let d := dsc (0x20 + 2 * 2 ^ 8 + 1 * 2 ^ 32) (sram1 + 8192) (sram1 + 16384) 4096
    (smpHead (batched 0 [] 1 d) 1 0 2).isSome = true ∧
      (seedBatch (batched 0 [] 1 d) 1 0 { desc := d, plan := 0xFFFF, by_ := 0, st := .accepted }).2 = none := by decide +kernel

theorem witness_SamplerCommands_3 :
    let d := dsc (0x20 + 3 * 2 ^ 8 + 1 * 2 ^ 32 + 1 * 2 ^ 38) (sram1 + 16384) 4096 0
    (smpHead (batched 1 [0] 2 d) 1 0 3).isSome = true ∧
      (hopBatch (batched 1 [0] 2 d) 1 0 { desc := d, plan := 0xFFFF, by_ := 0, st := .accepted }).2 = none := by decide +kernel

theorem witness_SamplerCommands_4 :
    let s := batched 2 [1] 3 (dsc (0x20 + 4 * 2 ^ 8) 0 0 0)
    (smpHead s 1 0 4).isSome = true ∧ (s.batch 1 0).isSome = true ∧ 3 ≤ (s.group 1 0).phase ∧
      ends (exec (.smpClose 1 0) s) (fun t => t.batch 1 0 == none && (t.group 1 0).phase == 0 &&
        t.reg (smpPage 1) 0x068 == 1 && t.flag (smpPage 1) 0x010 3) = true := by decide +kernel

/-- PREFIX of the one row: 1.0 is 2^24 units of 2^-24. -/
theorem witness_SamplerCommands_5 :
    let d := dsc (0x20 + 5 * 2 ^ 8 + 1 * 2 ^ 32) sram1 0 0
    let s := held graphed 1 0x80 d
    (smpHead s 1 0 5).isSome = true ∧
      (prefixRun s 1 0 { desc := d, plan := 0xFFFF, by_ := 0, st := .accepted }).2 = none ∧
      ends (exec (.smpPrefix 1 0) s) (fun t => leNat (t.bytes (sram1 + 256) 8) == 2 ^ 24) = true := by decide +kernel

/-- R206's examples: of 3 places 2, by draws 0x9000… and 0x6000…; of 4 places 2, by 0x4000… and 0x1000…. -/
theorem test_floyd :
    floydPlaces (fun k => if k = 0 then 0x9000000000000000 else 0x6000000000000000) 3 2 = [1, 2] ∧
      floydPlaces (fun k => if k = 0 then 0x4000000000000000 else 0x1000000000000000) 4 2 = [0, 3] := by
  constructor <;> simp [floydPlaces, List.range_succ, List.mergeSort, List.MergeSort.Internal.splitInTwo]

theorem witness_FloydPlacesAreDistinct : (∀ k : Nat, (fun _ => 0 : Nat → Nat) k < 2 ^ 64) ∧ 2 ≤ 3 :=
  ⟨fun _ => Nat.two_pow_pos 64, by decide⟩

/-! ### Tables -/

/-- A table of 16 rows in stacks 1 and 3, in mode 1 (by runs of 8 rows) and in mode 2 (by hash). -/
def table (mode : Nat) : Table :=
  { flags := 1, rfmt := 1, elems := 8, rstride := 16, mode := mode, shards := if mode = 0 then 2 else 0xA, nrows := 16,
    shardRows := if mode = 1 then 8 else 0, base := sram1 + 4096, dflt := 0, tid := 0, hsgroup := 0, gw := 0, mBase := 0,
    vBase := 0, opt := Opt.of [] }
theorem witness_RoutingInverts :
    ∀ m < 3, (table m).mode ≤ 2 ∧ (table m).homes ≠ [] ∧ (table m).homes.Nodup ∧
      ((table m).mode = 1 → 0 < (table m).shardRows ∧ 11 / (table m).shardRows < (table m).homes.length) ∧
      (route (table m) 11).isSome = true := by decide +kernel
/-- The SRAM of stack 1 with a directory at byte 0 whose entry 0 is a table of 16 rows of 8 BF16 elements in mode 0, its rows
from byte 4096: row 3 begins with 1.0, row 5 with 2.0; the ids 3 and 5 at byte 8192; an empty region at byte 16384. Bead and
Filigree belong to the firmware's plan, and the hot set is enabled with two slots of 16 bytes from byte 24576. -/
def entryWords (flags mode : Nat) : List DWord :=
  [BitVec.ofNat 64 (1 + flags * 2 ^ 16 + 1 * 2 ^ 24 + 8 * 2 ^ 32 + 1 * 2 ^ 48),
    BitVec.ofNat 64 (mode + if mode = 3 then 0 else 2 * 2 ^ 8), 16, 0, BitVec.ofNat 64 (sram1 + 4096)] ++ List.replicate 11 0
def shelf : State :=
  let s := ((((((r0.setReg (beadPage 1) 0x030 0xFFFF).setReg (filPage 1) 0x030 0xFFFF).setPair (beadPage 1) 0x040
    0x400000000000).setReg (beadPage 1) 0x080 (1 + 4 * 2)).setPair (beadPage 1) 0x08C 0x400000006000).setReg (beadPage 1) 0x094
    1).setReg (beadPage 1) 0x098 2
  { s with
    mem := [(sram1, 1), (sram1 + 2, 5), (sram1 + 3, 1), (sram1 + 4, 8), (sram1 + 6, 1), (sram1 + 9, 2), (sram1 + 16, 16),
      (sram1 + 33, 0x10), (sram1 + 37, 0x40), (sram1 + 38, 1), (sram1 + 4144, 0x80), (sram1 + 4145, 0x3F),
      (sram1 + 4177, 0x40), (sram1 + 8192, 3), (sram1 + 8196, 5), (sram1 + 16384, 1), (sram1 + 16386, 1),
      (sram1 + 16416, 64), (sram1 + 16424, 72), (sram1 + 16432, 72), (sram1 + 16440, 80)] }
def args (l : List Nat) : List DWord := l.map (BitVec.ofNat 64)
def entry (d : Desc) (l : List DWord) : Entry := { desc := d, plan := 0xFFFF, by_ := 0, st := .accepted, latch := l }

/-- A GATHER of the rows 3 and 5 as one group, summed to FP32 at byte 12288: 3.0 first. -/
def gatherLatch : List DWord := args [sram1 + 8192, 0, 0, sram1 + 12288, 0, 0, 0, 0] ++ entryWords 1 0
def gatherDesc : Desc := dsc (0x21 + 1 * 2 ^ 8) 0 (2 + 2 * 2 ^ 32 + 2 * 2 ^ 43) 0
theorem witness_BeadCommands_1 :
    let s := held shelf 1 0x90 gatherDesc .accepted gatherLatch
    let e := entry gatherDesc gatherLatch
    (tabHead s 1 0x90 1).isSome = true ∧ s.clocked = true ∧ sourceClash (latchedTable e) (gatIsrc gatherDesc) = false ∧
      gatCompact gatherDesc = false ∧ gatDeal gatherDesc = false ∧ gatMasked gatherDesc = false ∧
      ends (exec (.beadGather 1) s) (fun t => t.bytes (sram1 + 12288) 4 == [0, 0, 0x40, 0x40] &&
        (t.queue 1 0x90).entries == []) = true := by decide +kernel
theorem witness_BeadCommands_2 :
    let s := held shelf 1 0x90 gatherDesc .accepted gatherLatch
    let e := entry gatherDesc gatherLatch
    let x : Indices := ⟨[3, 5], [(0, 2)], [0, 1], fun i => sram1 + 8192 + 4 * i, none⟩
    let ws : List (Val × Nat) := List.replicate 2 (.fin false 1 0, 1)
    (gatherGroups 1 gatherDesc (latchedTable e) e x ws.toArray #[] x.groups 0 { s := s }).2 = none ∧
      (readWeights s 1 0xFFFF 0 0 0 0 x).toOption.map (·.length) = some 2 := by decide +kernel

/-- The home Bead of stack 3 serves a row of stack 3's directory, here by its own request. -/
theorem witness_BeadCommands_3 :
    ends (exec (.remoteRowRequest 1 1 0 3) shelf) (fun t => t.out == [.row 1 1 (some (List.append [0x80, 0x3F]
      (List.replicate 14 0)))]) = true ∧
      ends (exec (.remoteRowRequest 1 1 1 3) shelf) (fun t => t.out == [.row 1 1 none]) = true := by decide +kernel

/-- A SPLIT of the empty region to core 5. -/
theorem witness_BeadCommands_4 :
    let d := dsc (0x21 + 2 * 2 ^ 8 + 1 * 2 ^ 56) 0 0 0
    let s := held shelf 1 0x90 d .accepted (args [sram1 + 16384, 0, 0, 0, 0, 0, 32, 0])
    let r : RgnHdr := ⟨sram1 + 16384, 1, false, 0, 0, 0, 0, sram1 + 16448, sram1 + 16456, sram1 + 16456, sram1 + 16464⟩
    (tabHead s 1 0x90 2).isSome = true ∧ coresOf 32 = [5] ∧ dealHeld s 1 32 0 panelSize = false ∧
      (match readRgn (tabRead s 1 0xFFFF 0) (sram1 + 16384) (some false) with | .ok x => x == r | .error _ => false) = true ∧
      (match readRowptr (tabRead s 1 0xFFFF 0) r with | .ok x => x == [0] | .error _ => false) = true ∧
      (writeParts 1 0xFFFF 0 (tabRead s 1 0xFFFF 0) r [0] [] 1 [(5, 0)] s).2 = none := by decide +kernel

/-- A SCATTER of one FP32 gradient row, at byte 32768, to row 3. -/
theorem witness_FiligreeCommands_1 :
    let d := dsc (0x22 + 1 * 2 ^ 8) 0 1 0
    let s := held shelf 1 0xA0 d .accepted (args [sram1 + 8192, 0, sram1 + 32768, 0, 0, 0, 0, 0] ++ entryWords 1 0)
    (tabHead s 1 0xA0 1).isSome = true ∧ s.clocked = true ∧
      ends (exec (.filScatter 1) s) (fun t => (t.st 1).fil.inbox.map (fun c => (c.table, c.row)) == [(0, 3)]) = true := by
  decide +kernel

/-- A contribution from stack 1 to its own row 3, which the touched-row set already holds. -/
def contribution : Contribution :=
  { src := 1, table := 0, row := 3, w := 0, gw := 0, flags := {}, lock := false, cells := List.replicate 8 2, tag := 0,
    token := 1, plan := 0xFFFF }
def touching : State :=
  shelf.modFil 1 fun f => { f with inbox := [contribution], touched := [⟨0, 3, 0, {}, List.replicate 8 3⟩] }
theorem witness_FiligreeCommands_2 :
    ((touching.st 1).fil.inbox.find? fun c => c.src == 1) = some contribution ∧
      ends (exec (.filContribution 1 1) touching) (fun t => (t.st 1).fil.inbox == [] &&
        (t.st 1).fil.touched.map (·.cells) == [List.replicate 8 5]) = true := by decide +kernel

/-- A READ of a local table of 16 rows to byte 32768. -/
theorem witness_FiligreeCommands_3 :
    let d := dsc (0x22 + 2 * 2 ^ 8) 0 (2 * 2 ^ 32) 0
    let e := entry d (args [0, 0, 0, sram1 + 32768, 4096, 0, 0, 0] ++ entryWords 1 3)
    let s := held shelf 1 0xA0 d .accepted e.latch
    (tabHead s 1 0xA0 2).isSome = true ∧ (latchedTable e).mode = 3 ∧
      (readRows 1 d (latchedTable e) (latchedArg e 3) (latchedArg e 4) (latchedTable e).nrows 0 s).2 = none := by decide +kernel

/-- An EXPORT of no rows. -/
theorem witness_FiligreeCommands_4 :
    let d := dsc (0x22 + 3 * 2 ^ 8) 0 0 0
    let s := held shelf 1 0xA0 d .accepted (args [0, 0, 0, sram1 + 32768, 4096, 0, 0, 0])
    (tabHead s 1 0xA0 3).isSome = true ∧ (s.st 1).fil.touched = [] ∧
      (tabWrite s 1 0xFFFF 3 false (sram1 + 32768) (leBytes 1 8 ++ leBytes 0 8 ++ leBytes 64 8 ++ leBytes 0 8 ++
        List.replicate 32 0)).2 = none := by decide +kernel

/-- A MERGE of an empty list at byte 32768. -/
theorem witness_FiligreeCommands_5 :
    let d := dsc (0x22 + 4 * 2 ^ 8) 0 0 0
    let s := held { shelf with mem := [(sram1 + 32768, 1), (sram1 + 32784, 64)] } 1 0xA0 d .accepted
      (args [sram1 + 32768, 0, 0, 0, 0, 0, 0, 0])
    (tabHead s 1 0xA0 4).isSome = true ∧
      (match readList s 1 0xFFFF (sram1 + 32768) with | .ok [] => true | _ => false) = true := by decide +kernel

/-- A refresh of group 0 whose list is empty; an entry being copied, and one to be copied again; a switch. -/
theorem witness_HotSetCommands_1 :
    let s := shelf.modArb 1 fun a => { a with run := [{ act := 10, scope := 0, sub := 2, ticket := 1 }] }
    hsEnabled s 1 = true ∧ s.faulted (beadPage 1) = false ∧ (s.st 1).hot.state = 0 ∧
      (match buildRefresh (s.setPair (beadPage 1) 0x09C 0x400000010000) 1 0 with | .ok x => x == ([], 0) | _ => false) = true ∧
      ends (exec (.hotSetRefreshAdmit 1) (s.setPair (beadPage 1) 0x09C 0x400000010000)) (fun t =>
        (t.st 1).hot.state == 2) = true := by decide +kernel
def copying : State :=
  shelf.modHot 1 fun h => { h with state := 1, waiting := [⟨0, 3, 1, 1⟩, ⟨0, 5, 0, 3⟩] }
theorem witness_HotSetCommands_2 :
    (copyRow copying 1 ⟨0, 3, 1, 1⟩).2 = none ∧ ends (exec (.hotSetCopyDone 1 0) copying) (fun t =>
      (t.st 1).hot.waiting.map (·.st) == [2, 3] && t.bytes (sram1 + 24592) 2 == [0x80, 0x3F]) = true ∧
      ends (exec (.hotSetDirtyRecopy 1 1) copying) (fun t => (t.st 1).hot.waiting.map (·.st) == [1, 1]) = true := by decide +kernel
theorem witness_HotSetCommands_3 :
    let s := (copying.modHot 1 fun h => { h with state := 2 }).modClp 1 fun c => { c with state := .commit, sequence := .commit }
    (s.st 1).hot.state = 2 ∧ ends (exec (.hotSetSwitch 1) s) (fun t => (t.st 1).hot.active.length == 2 &&
      (t.st 1).hot.activeB && (t.st 1).hot.state == 0) = true := by decide +kernel
theorem witness_HotSetCommands_4 :
    mayWrite copying .mgmt (beadPage 1) 0x080 = true ∧ hsEnabled copying 1 = true ∧
      ends (exec (.hsDisable .mgmt 1) copying) (fun t => !hsEnabled t 1 && (t.st 1).hot.waiting == []) = true ∧
      ends (exec (.hsEnable .mgmt 1) r0) (fun t => hsEnabled t 1) = true := by decide
/-- The header of the sparse pass's example (R176, R185): E4M3, blocks 0x8013. -/
theorem test_sparse_header :
    makeHeader false 0x8013 5 = 0xAA00000225448013 ∧ headerFault 0xAA00000225448013 false 5 true = none ∧
      (readHeader 0xAA00000225448013 false).len = 137 := by decide

/-! ### Keys and generators -/

theorem witness_RandomGeneration_1 :
    let s := r0.modClp 1 fun c => { c with state := .opened }
    ((List.range 56).any fun c => mayWrite r0 .mgmt (stackPage 1 .rng c) 0x0A0) = true ∧ (r0.st 1).clp.state = .idle ∧
      ends (exec (.keyCommitStep .mgmt 1) s) (fun t => (t.st 1).keys.commitIgnored) = true ∧
      ends (exec (.keyCommitEval .mgmt 1) r0) (fun t => (t.st 1).keys.ekeySet) = true := by decide

theorem witness_RandomGeneration_2 :
    mayWrite r0 .mgmt (stackPage 1 .rng 5) 0x040 = true ∧ runsAccepted r0 1 5 = false ∧
      runsAccepted (chained vrun) 1 5 = true ∧
      ends (exec (.reseed .mgmt 1 5) (chained vrun)) (fun t => (t.core 1 5).reseedWaits) = true := by decide +kernel

theorem witness_RandomGeneration_3 :
    (1 : BitVec 128) ≠ 0 ∧
      ((r0.modClp 1 fun c => { c with state := .armed }).st 1).clp.state = .armed ∧
      ((r0.modClp 1 fun c => { c with state := .eval }).st 1).clp.state = .eval ∧
      ((r0.modClp 1 fun c => { c with state := .commit }).st 1).clp.state = .commit := by decide

/-! ### Memory -/

def repairing : State :=
  (r0.setFlag (srmPage 1) 0x040 9 true).modArb 1 fun a => { a with run := [{ act := 3, scope := 18, sub := 3, ticket := 0 }] }
theorem witness_MemoryUpkeep_1 :
    mayWrite r0 .mgmt (srmPage 1) 0x040 = true ∧ r0.flag (srmPage 1) 0x044 15 = false ∧ r0.flag (srmPage 1) 0x040 9 = false ∧
      judge r0 1 { act := 3, scope := 18, sub := 3, ticket := 0 } = 0 ∧
      ends (exec (.sramRepair .mgmt 1 18) r0) (fun t => t.flag (srmPage 1) 0x040 9) = true ∧
      ends (exec (.sramRepair .mgmt 1 18) (r0.setFlag (srmPage 1) 0x044 15 true)) (fun t => t.flag (srmPage 1) 0x040 10) = true ∧
      ends (exec (.sramRepairDone 1) repairing) (fun t => t.fld (srmPage 1) 0x044 11 8 == 2 && t.flag (srmPage 1) 0x044 15) = true := by
  decide

theorem witness_MemoryUpkeep_2 :
    let p := stackPage 1 .mem 2
    let s := r0.setReg p 0x044 5
    let run : State := s.modArb 1 fun a => { a with run := [{ act := 7, scope := 2, sub := 3, ticket := 0 }] }
    mayWrite s .mgmt p 0x048 = true ∧ s.flag p 0x04C 0 = false ∧ (s.st 1).repaired.contains (2 * 2 ^ 7 + 5) = false ∧
      judge s 1 { act := 7, scope := 2, sub := 3, ticket := 0 } = 0 ∧
      ends (exec (.softRepair .mgmt 1 2) (s.modSt 1 fun x => { x with repaired := [261] })) (fun t => t.flag p 0x04C 1) = true ∧
      ends (exec (.softRepairDone 1 2) run) (fun t => (t.st 1).repaired == [261] && t.fld p 0x04C 15 8 == 1) = true := by decide

theorem witness_MemoryUpkeep_3 :
    let s := { (lit 1).setFlag (srmPage 1) 0x050 0 true with bad := [sram1 + 264] }
    s.flag (srmPage 1) 0x050 0 = true ∧ s.domOn 1 6 = true ∧ (badUnit s (sramBase 1 + 256) 256).isSome = true ∧
      ends (exec (.sramPatrol 1 1 3) s) (fun t => t.reg (srmPage 1) 0x048 == 3 && t.fld (srmPage 1) 0x020 15 0 == 0x0212) = true := by
  decide

theorem witness_MemoryUpkeep_4 :
    let p := stackPage 1 .mem 2
    let s := ((lit 1).setFlag p 0x040 0 true).setFlag p 0x06C 0 true
    s.flag p 0x040 0 = true ∧ s.domOn 1 6 = true ∧ s.flag p 0x06C 0 = true ∧
      ends (exec (.lpddr5xPatrol 1 2 7 0 false) s) (fun t => t.pair p 0x060 == 2048) = true ∧
      judge r0 1 { act := 0, scope := 9, sub := 3, ticket := 0 } = 0 ∧
      ends (exec (.lpddr5xRetraining 1 9) r0) (fun t => t.flag p 0x06C 2) = true := by decide

/-- Entry 3 of the region table, staged at 64 KiB of SRAM, made valid. -/
theorem witness_RegionTable :
    let s := (r0.setReg (xfrPage 1) 0x04C 3).modRegion 1 3 fun e => { e with stagedBase := 0x400000000000, stagedSize := 65536 }
    mayWrite s .mgmt (xfrPage 1) 0x058 = true ∧ ends (exec (.regionWrite .mgmt 1 1) s) (fun t => (t.region 1 3).valid &&
      (t.region 1 3).base == 0x400000000000 && !t.flag (xfrPage 1) 0x040 8) = true := by decide

/-! ### The transfer engine -/

/-- The engine under the firmware's plan, with 5 in the first byte of SRAM, an empty E4M3 tile at byte 4096, and an empty E4M3
region of one tile row at byte 8192. -/
def mover (d : Desc) : State :=
  held { (r0.setReg (xfrPage 1) 0x030 0xFFFF) with
    mem := [(sram1, 5), (sram1 + 4098, 0x40), (sram1 + 4099, 5), (sram1 + 4103, 0x1F), (sram1 + 8192, 1), (sram1 + 8194, 5),
      (sram1 + 8196, 1), (sram1 + 8200, 1), (sram1 + 8224, 64), (sram1 + 8232, 80), (sram1 + 8240, 80), (sram1 + 8248, 88)] }
    1 0xB2 d
def moverDesc (op fmt region src dst len : Nat) : Desc :=
  dsc (0x30 + op * 2 ^ 8 + 2 * 2 ^ 32 + fmt * 2 ^ 35 + region * 2 ^ 39) (sram1 + src) (sram1 + dst) len
def ready (d : Desc) : Bool :=
  let s := mover d
  (s.queue 1 (xfrQueue 2)).first.isSome && !(s.st 1).xfrStop.getLsbD 2 && !xfrHeld s 1 (xfrSrc d) (xfrExtent d).1 false &&
    !xfrHeld s 1 (xfrDst d) (xfrExtent d).2 true && s.clocked
theorem witness_TransferCommands_1 :
    let d := moverDesc 1 0 0 0 16384 16
    ready d = true ∧ descOp d = 1 ∧ (xfrCopy (mover d) 1 d).2 = none ∧
      ends (exec (.xfrCopy 1 2) (mover d)) (fun t => t.byte (sram1 + 16384) == 5 && (t.queue 1 0xB2).entries == []) = true ∧
      (xfrCopy (mover (moverDesc 1 0 0 0 16384 8)) 1 (moverDesc 1 0 0 0 16384 8)).2.isSome = true := by decide +kernel
theorem witness_TransferCommands_2 :
    let d := dsc (0x30 + 2 * 2 ^ 8 + 2 * 2 ^ 32) 0x04030201 (sram1 + 16384) 16
    ready d = true ∧ descOp d = 2 ∧ (xfrFill (mover d) 1 d).2 = none ∧
      ends (exec (.xfrFill 1 2) (mover d)) (fun t => t.bytes (sram1 + 16384) 8 == [1, 2, 3, 4, 1, 2, 3, 4]) = true ∧
      (xfrFill (mover d) 1 (d + 2 ^ 192)).2.isSome = true := by decide +kernel
/-- A COMPRESS of a panel of zeros. -/
def squeeze : Desc := moverDesc 3 7 0 32768 65536 1
theorem zeros_read (s : State) (a n k : Nat) (h : ∀ i < n, s.byte (a + i) = 0) : (s.bytes a n).toArray.getD k 0 = 0 := by
  rw [Array.getD_eq_getD_getElem?, List.getElem?_toArray]
  by_cases hk : k < n
  · have hl : k < (s.bytes a n).length := by simpa [State.bytes] using hk
    rw [List.getElem?_eq_getElem hl]
    simpa [State.bytes, State.byte, Laws.Sparse.getList_getElem] using h k hk
  · rw [List.getElem?_eq_none (by simpa [State.bytes] using hk)]; rfl
theorem find_above {m : Sparse Byte} {k : Nat} (h : ∀ e ∈ m, e.1 < k) : Sparse.find m k = none := by
  induction m with
  | nil => rfl
  | cons e t ih =>
    have a : e.1 ≠ k := Nat.ne_of_lt (h e (by simp))
    simp [Sparse.find, a, ih fun x hx => h x (List.mem_cons_of_mem _ hx)]
theorem byte_above (s : State) {a b : Nat} (h : (s.mem.all fun e => decide (e.1 < b)) = true) (hb : b ≤ a)
    (ha : lpddrSize ≤ a % 2 ^ 48) : s.byte a = 0 := by
  have f : Sparse.find s.mem a = none := find_above fun e he => by
    have := List.all_eq_true.mp h e he; simp at this; omega
  unfold State.byte Sparse.get memDefault
  rw [f, Option.getD_none]
  split
  · exact if_neg fun x => absurd x.2 (Nat.not_lt.mpr ha)
  · rfl
theorem squeeze_low : ((mover squeeze).mem.all fun e => decide (e.1 < sram1 + 32768)) = true := by decide +kernel
theorem squeeze_zeros (i : Nat) (hi : i < 2176) : (mover squeeze).byte (sram1 + 32768 + i) = 0 :=
  byte_above _ squeeze_low (Nat.le_add_right _ _) (by unfold sram1 lpddrSize; omega)
theorem squeeze_tile :
    tileBytes 7 (panelCode ((mover squeeze).bytes (sram1 + 32768) 2176).toArray 7 64)
      (fun g i => panelScale ((mover squeeze).bytes (sram1 + 32768) 2176).toArray 7 64 (32 * g) i) =
    leBytes (makeHeader false 0 7) 8 := by
  have z := zeros_read (mover squeeze) (sram1 + 32768) 2176 (h := squeeze_zeros)
  have a : panelCode ((mover squeeze).bytes (sram1 + 32768) 2176).toArray 7 64 = fun _ _ => 0 := by
    funext k i
    unfold panelCode
    rw [show elemBits 7 = 4 from rfl]
    unfold codeAt
    simp only [z]
    simp
  have b : (fun g i => panelScale ((mover squeeze).bytes (sram1 + 32768) 2176).toArray 7 64 (32 * g) i) = fun _ _ => 0 := by
    funext g i; unfold panelScale; rw [z]; rfl
  rw [a, b]; decide +kernel
theorem squeeze_read : metaRead (xfrRead (mover squeeze) 1 0) (sram1 + 32768) 2176 =
    .ok ((mover squeeze).bytes (sram1 + 32768) 2176) := by
  have m : mapped (mover squeeze) 1 (sram1 + 32768) 2176 = true := by decide +kernel
  have b : bindOf (mover squeeze) (xfrPage 1) = 0xFFFF := by decide +kernel
  have p : placeOf (offsetOf (sram1 + 32768)) = some .sram := by decide +kernel
  have r : regionCheck (mover squeeze) 1 0xFFFF false false (sram1 + 32768) 2176 = none := by decide +kernel
  have f : readFailure (mover squeeze) (sram1 + 32768) 2176 = none := by decide +kernel
  simp [metaRead, xfrRead, engRead, m, b, p, r, f]
theorem eachTile_one {st : Fin 8} {body : State → Nat → Nat → Except (MetaErr TabErr) (List Byte × Nat)} {s : State}
    {src dst n : Nat} {bs : List Byte} (h : body s 0 src = .ok (bs, n)) (w : (xfrWrite s st dst bs).2 = none) :
    (eachTile st body 1 0 src dst s).2 = none := by
  rcases hx : xfrWrite s st dst bs with ⟨u, x⟩
  rw [hx] at w
  dsimp only at w
  subst w
  simp [eachTile, h, hx]
theorem squeeze_written : (xfrWrite (mover squeeze) 1 (sram1 + 65536) (leBytes (makeHeader false 0 7) 8)).2 = none := by
  decide +kernel
theorem witness_TransferCommands_3 :
    ready squeeze = true ∧ descOp squeeze = 3 ∧ (xfrCompress (mover squeeze) 1 squeeze).2 = none := by
  refine ⟨by decide +kernel, by decide, ?_⟩
  have l : xfrLen squeeze = 1 := by decide +kernel
  have a : xfrSrc squeeze = sram1 + 32768 := by decide +kernel
  have b : xfrDst squeeze = sram1 + 65536 := by decide +kernel
  have f : xfrFmt squeeze = 7 := by decide +kernel
  have m : mapped (mover squeeze) 1 (sram1 + 32768) 1 = true ∧ mapped (mover squeeze) 1 (sram1 + 65536) 1 = true := by
    decide +kernel
  have h : compressTile 1 7 (mover squeeze) 0 (sram1 + 32768) = .ok (leBytes (makeHeader false 0 7) 8, 2176) := by
    have n : panelBytes 7 64 64 = 2176 := by decide
    unfold compressTile
    dsimp only
    rw [n, squeeze_read]
    exact congrArg (fun x => Except.ok (x, 2176)) squeeze_tile
  unfold xfrCompress tileRun
  rw [l, a, b, f, if_neg (by decide), if_neg (by rw [m.1]; decide), if_neg (by rw [m.2]; decide)]
  exact eachTile_one h squeeze_written
theorem witness_TransferCommands_4 :
    let d := moverDesc 4 5 0 4096 65536 1
    ready d = true ∧ descOp d = 4 ∧ (xfrExpand (mover d) 1 d).2 = none := by decide +kernel
theorem witness_TransferCommands_5 :
    let d := moverDesc 5 5 0 4096 8192 1
    ready d = true ∧ descOp d = 5 ∧ (xfrToRegion (mover d) 1 d).2 = none := by decide +kernel
theorem witness_TransferCommands_6 :
    let d := moverDesc 6 5 0 8192 65536 0
    ready d = true ∧ descOp d = 6 ∧ (xfrFromRegion (mover d) 1 d).2 = none := by decide +kernel
theorem witness_TransferCommands_7 :
    let d := moverDesc 7 5 0 4096 65536 1
    let r := moverDesc 7 5 1 8192 65536 0
    ready d = true ∧ descOp d = 7 ∧ (xfrTilecopy (mover d) 1 d).2 = none ∧ ready r = true ∧
      (xfrTilecopy (mover r) 1 r).2 = none := by decide +kernel
theorem witness_TransferCommands_8 :
    ∀ op ∈ [3, 4, 5, 7], let d := moverDesc op 5 0 4096 8192 0
      ready d = true ∧ descOp d = op ∧ (match op with
        | 3 => (xfrCompress (mover d) 1 d).2.isSome
        | 4 => (xfrExpand (mover d) 1 d).2.isSome
        | 5 => (xfrToRegion (mover d) 1 d).2.isSome
        | _ => (xfrTilecopy (mover d) 1 d).2.isSome) = true := by decide +kernel
theorem witness_CopyAndFill :
    let c := moverDesc 1 0 0 0 16384 16
    let f := dsc (0x30 + 2 * 2 ^ 8 + 2 * 2 ^ 32) 0x04030201 (sram1 + 16384) 16
    (mover c).bad = [] ∧ (xfrCopy (mover c) 1 c).2 = none ∧ (xfrFill (mover f) 1 f).2 = none := by decide +kernel
/-! ### The sequencers -/

/-- A KSQ instruction's word (R314), and sequencer 2 of stack 1 running one at pc 0 under the firmware's plan, with the given
general registers (number, value). -/
def ksq (opc rd ra rb immf fn imm : Nat) : DWord :=
  BitVec.ofNat 64 (opc + rd * 2 ^ 10 + ra * 2 ^ 15 + rb * 2 ^ 20 + immf * 2 ^ 25 + fn * 2 ^ 26 + imm * 2 ^ 32)
def sequencing (w : DWord) (gs : List (Nat × DWord)) (wait : SeqWait := .none) : State :=
  (r0.setReg (seqPage 1 2) 0x030 0xFFFF).modSeq 1 2 fun x =>
    gs.foldl (fun x e => x.setGpr e.1 e.2) { x with st := .running, wait := wait, istore := [(0, w)] }
/-- The state issues the instruction, in the words of Issues. -/
def issuing (s : State) (opc : Nat) : Bool :=
  s.has 1 && seqRuns s 1 2 && ksqOk (s.seq 1 2).instr && ksqOpc (s.seq 1 2).instr == opc &&
    (s.seq 1 2).guard (s.seq 1 2).instr
theorem issuing_spec {s : State} {opc : Nat} (h : issuing s opc = true) : Issues s 1 2 opc := by
  simp only [issuing, Bool.and_eq_true, beq_iff_eq] at h
  exact ⟨h.1.1.1.1, h.1.1.1.2, h.1.1.2, h.1.2, h.2⟩
/-- What an instruction leaves in a general register. -/
def leaves (c : Instr) (s : State) (n : Nat) (v : DWord) : Bool :=
  ends (exec c s) fun t => (t.seq 1 2).gpr n == v && (t.seq 1 2).pc == 1

/-- R315's words: PUSH, WAITQ and BR of the manual's loop. -/
theorem test_ksq_words :
    ksqOpc 0x000000800A00182C = 0x2C ∧ ksqOk 0x000000800A00182C = true ∧ ksqFn 0x000000800A00182C = 2 ∧
      ksqRd 0x000000800A00182C = 6 ∧ ksqImm 0x000000800A00182C = 0x80 ∧
      ksqOpc 0x000000800260042E = 0x2E ∧ ksqOk 0x000000800260042E = true ∧ ksqRd 0x000000800260042E = 1 ∧
      ksqRb 0x000000800260042E = 6 ∧ ksqOpc 0x000001E802000258 = 0x18 ∧ ksqOk 0x000001E802000258 = true ∧
      ksqPg 0x000001E802000258 = 1 ∧ ksqPn 0x000001E802000258 = true ∧ ksqImm 0x000001E802000258 = 0x1E8 := by decide

theorem witness_SequencerArithmetic_1 :
    ∀ opc ∈ [1, 2, 3, 4, 5, 6, 7, 8, 9], issuing (sequencing (ksq opc 3 1 2 0 0 0) [(1, 0x8000000000000003), (2, 65)]) opc = true := by
  decide
theorem witness_SequencerArithmetic_2 :
    let s := fun opc => sequencing (ksq opc 3 1 2 0 0 0) [(1, 0x8000000000000003), (2, 65)]
    leaves (.add 1 2) (s 1) 3 0x8000000000000044 = true ∧ leaves (.sub 1 2) (s 2) 3 0x7FFFFFFFFFFFFFC2 = true ∧
      leaves (.and 1 2) (s 3) 3 1 = true ∧ leaves (.or 1 2) (s 4) 3 0x8000000000000043 = true ∧
      leaves (.xor 1 2) (s 5) 3 0x8000000000000042 = true ∧ leaves (.shl 1 2) (s 6) 3 6 = true ∧
      leaves (.shr 1 2) (s 7) 3 0x4000000000000001 = true ∧ leaves (.sar 1 2) (s 8) 3 0xC000000000000001 = true ∧
      leaves (.mul 1 2) (s 9) 3 0x80000000000000C3 = true := by decide +kernel
theorem witness_SequencerArithmetic_3 :
    let s := sequencing (ksq 0x0A 3 1 0 1 0 0x1234) [(1, 0xFFFFFFFF00000005)]
    issuing s 0x0A = true ∧ leaves (.movhi 1 2) s 3 0x123400000005 = true ∧ 0 < 31 ∧ 31 < 32 := by decide

theorem witness_SequencerControl_1 :
    issuing (sequencing (ksq 0x10 2 1 0 1 2 1) [(1, 0xFFFFFFFFFFFFFFFF)]) 0x10 = true ∧
      issuing (sequencing (ksq 0x11 2 0 1 0 3 0) []) 0x11 = true ∧ issuing (sequencing (ksq 0x18 0 0 0 1 0 0xFFFFFFFF) []) 0x18 = true ∧
      issuing (sequencing (ksq 0x19 0 0 0 1 0 9) []) 0x19 = true ∧ issuing (sequencing (ksq 0x1A 0 1 0 0 0 0) [(1, 77)]) 0x1A = true ∧
      issuing (sequencing (ksq 0x1C 0 0 0 0 0 7) []) 0x1C = true ∧ issuing (sequencing (ksq 0x1D 0 0 0 0 0 7) []) 0x1D = true ∧
      issuing (sequencing (ksq 0x32 1 0 0 0 0 0) []) 0x32 = true ∧ issuing (sequencing (ksq 0x3F 0 0 0 0 0 0) []) 0x3F = true := by
  decide
theorem witness_SequencerControl_2 :
    ends (exec (.cmp 1 2) (sequencing (ksq 0x10 2 1 0 1 2 1) [(1, 0xFFFFFFFFFFFFFFFF)])) (fun t => (t.seq 1 2).pred 2) = true ∧
      ends (exec (.pset 1 2) (sequencing (ksq 0x11 2 0 1 0 3 0) [])) (fun t => (t.seq 1 2).pred 2) = true ∧
      ends (exec (.br 1 2) (sequencing (ksq 0x18 0 0 0 1 0 0xFFFFFFFF) [])) (fun t => (t.seq 1 2).pc == 0x7FFF) = true ∧
      leaves (.call 1 2) (sequencing (ksq 0x19 0 0 0 1 0 1) []) 31 1 = true ∧
      ends (exec (.jmp 1 2) (sequencing (ksq 0x1A 0 1 0 0 0 0) [(1, 77)])) (fun t => (t.seq 1 2).pc == 77) = true ∧
      ends (exec (.halt 1 2) (sequencing (ksq 0x1C 0 0 0 0 0 7) [])) (fun t => (t.seq 1 2).st == .halted && (t.seq 1 2).exit == 7) = true ∧
      ends (exec (.trap 1 2) (sequencing (ksq 0x1D 0 0 0 0 0 7) [])) (fun t => (t.seq 1 2).st == .faulted &&
        t.fld (seqPage 1 2) 0x020 15 0 == 0x0A27 && t.reg (seqPage 1 2) 0x024 == 0x70000) = true := by decide +kernel

theorem witness_SequencerIllegalAndGuarded :
    ksqOk 0 = false ∧ seqRuns (sequencing 0 []) 1 2 = true ∧ Instr.add 1 2 ∈ ksqCommands 1 2 ∧
      ends (exec (.add 1 2) (sequencing 0 [])) (fun t => t.fld (seqPage 1 2) 0x020 15 0 == 0x0A20) = true ∧
      (let s := sequencing (ksq 1 3 1 2 0 0 0 ||| 0x200) []
       ksqOk (s.seq 1 2).instr = true ∧ (s.seq 1 2).guard (s.seq 1 2).instr = false ∧
         ends (exec (.add 1 2) s) (fun t => (t.seq 1 2).pc == 1 && t.pair (seqPage 1 2) 0x064 == 0) = true) := by decide

theorem witness_SequencerData_1 :
    (∀ opc ∈ [0x20, 0x21], issuing (sequencing (ksq opc 3 1 0 1 0 0) [(1, 65528), (3, 5)]) opc = true) ∧
      (∀ opc ∈ [0x2A, 0x2B], issuing (sequencing (ksq opc 3 1 0 1 0 0) [(1, 65504)]) opc = true) ∧
      (∀ opc ∈ [0x20, 0x21, 0x2A, 0x2B], issuing (sequencing (ksq opc 3 1 0 1 0 4) [(1, 65528)]) opc = true) ∧
      issuing (sequencing (ksq 0x28 3 1 0 0 2 0) [(1, 9)]) 0x28 = true ∧
      issuing (sequencing (ksq 0x29 3 1 0 1 2 (4 + 8 * 64)) [(1, 0xAB)]) 0x29 = true := by decide
theorem witness_SequencerData_2 :
    ends (exec (.std 1 2) (sequencing (ksq 0x21 3 1 0 1 0 0) [(1, 65528), (3, 0x105)])) (fun t =>
      (t.seq 1 2).data 65528 2 == [5, 1]) = true ∧
      ends (exec (.ldd 1 2) (sequencing (ksq 0x20 3 1 0 1 0 4) [(1, 65528)])) (fun t =>
        t.fld (seqPage 1 2) 0x020 15 0 == 0x0A23) = true ∧
      ends (exec (.dwr 1 2) (sequencing (ksq 0x28 3 1 0 0 2 0) [(1, 9)])) (fun t => descWord ((t.seq 1 2).buf 3) 2 == 9) = true ∧
      ends (exec (.dins 1 2) (sequencing (ksq 0x29 3 1 0 1 2 (4 + 8 * 64)) [(1, 0x3AB)])) (fun t =>
        descWord ((t.seq 1 2).buf 3) 2 == 0xAB0) = true := by decide +kernel

theorem witness_SequencerMemory_1 :
    let at_ : List (Nat × DWord) := [(1, BitVec.ofNat 64 sram1), (3, 0x77)]
    (∀ opc ∈ [0x22, 0x23], issuing (sequencing (ksq opc 3 1 0 1 0 8) at_) opc = true ∧
      issuing (sequencing (ksq opc 3 1 0 1 0 4) at_) opc = true) ∧ inMemory r0 1 (sram1 + 8) 8 = true ∧
      regionCheck (sequencing 0 []) 1 0xFFFF true false (sram1 + 8) 8 = none ∧
      ends (exec (.stg 1 2) (sequencing (ksq 0x23 3 1 0 1 0 8) at_)) (fun t => t.bytes (sram1 + 8) 2 == [0x77, 0]) = true ∧
      ends (exec (.ldg 1 2) (sequencing (ksq 0x22 3 1 0 1 0 4) at_)) (fun t => t.fld (seqPage 1 2) 0x020 15 0 == 0x0A24) = true ∧
      (let s := { sequencing (ksq 0x22 3 1 0 1 0 8) at_ (.ldg (BitVec.ofNat 64 (sram1 + 8))) with mem := [(sram1 + 9, 2)] }
       leaves (.ldgReturn 1 2) s 3 0x200 = true ∧ readFailure s (sram1 + 8) 8 = none) := by decide +kernel

/-- ENTRY of the sequencer's own page, read and written by itself; and QUEUES of every stack's mailbox page written at once. -/
theorem witness_SequencerMemory_2 :
    let a := 2 ^ 48 + 0x7F0000000000 + (seqPage 1 2).no * 4096
    let s := fun opc => sequencing (ksq opc 3 1 0 1 0 0x5C) [(1, BitVec.ofNat 64 a), (3, 5)]
    (∀ opc ∈ [0x24, 0x25], issuing (s opc) opc = true) ∧ seqReaches 1 (a + 0x5C) = true ∧
      regTargets (s 0x25) (.jukan (.seq 1 2)) (a + 0x5C) = some [(seqPage 1 2, .jukan (.seq 1 2))] ∧
      (regSource (s 0x24) (.seq 2) (a + 0x5C)).isSome = true ∧
      mayWrite (s 0x25) (seqRequester 1 2 (seqPage 1 2)) (seqPage 1 2) 0x5C = true ∧
      ends (exec (.wrr 1 2) (s 0x25)) (fun t => t.fld (seqPage 1 2) 0x05C 15 0 == 5 && (t.seq 1 2).pc == 1) = true ∧
      ends (exec (.rdr 1 2) (s 0x24)) (fun t => (t.seq 1 2).wait == .rdr (BitVec.ofNat 64 (a + 0x5C))) = true ∧
      (let w := (sequencing (ksq 0x24 3 1 0 1 0 0x5C) [] (.rdr (BitVec.ofNat 64 (a + 0x5C)))).setReg (seqPage 1 2) 0x05C 9
       leaves (.rdrReturn 1 2) w 3 9 = true) := by decide +kernel
theorem witness_SequencerMemory_3 :
    let a := 15 * 2 ^ 48 + 0x7F0000000000 + (seqPage 1 2).no * 4096
    let s := sequencing (ksq 0x25 3 1 0 1 0 0x5C) [(1, BitVec.ofNat 64 a), (3, 5)]
    issuing s 0x25 = true ∧ seqReaches 1 (a + 0x5C) = true ∧
      (regTargets s (.jukan (.seq 1 2)) (a + 0x5C)).map (·.length) = some 8 ∧
      ((regTargets r0 (.jukan (.seq 1 2)) (a + 0x5C)).getD []).all (fun e =>
        (mayWrite ((List.range 8).foldl (fun s i => s.setReg (seqPage (Fin.ofNat 8 i) 2) 0x030 0xFFFF) s) e.2 e.1 0x5C)) = true := by
  decide +kernel

/-! ### Queues and waits of a sequencer -/

/-- A queue of the matrix array of core 0 under the same plan, and a PUSH of buffer 2 to it; the same queue full. -/
def pushing (n : Nat) (wait : SeqWait) : State :=
  ((sequencing (ksq 0x2C 6 0 0 1 2 0) [] wait).setReg (mxPage 1 0) 0x030 0xFFFF).modQueue 1 0 fun _ =>
    { entries := List.replicate n { desc := 0, plan := 0xFFFF, by_ := 2 }, accept := BitVec.ofNat 32 n }
theorem witness_SequencerQueuesAndWaits_1 :
    let d := queueDepth 0
    issuing (pushing 0 .none) 0x2C = true ∧ (queuePage 1 0).isSome = true ∧
      queueBind (pushing 0 .none) 1 0 = seqPlan (pushing 0 .none) 1 2 ∧ queueRebinding (pushing 0 .none) 1 0 = false ∧
      ((pushing 0 .none).queue 1 0).waiting < d ∧ d ≤ ((pushing d .none).queue 1 0).waiting ∧
      leaves (.push 1 2) (pushing 0 .none) 6 1 = true ∧
      ends (exec (.push 1 2) (pushing d .none)) (fun t => (t.seq 1 2).wait == .queueFull) = true ∧
      leaves (.pushQueueRoom 1 2) (pushing 1 .queueFull) 6 2 = true := by decide +kernel
theorem witness_SequencerQueuesAndWaits_2 :
    issuing (sequencing (ksq 0x2E 1 0 6 1 0 0x80) [(6, 1)]) 0x2E = true ∧ issuing (sequencing (ksq 0x2F 1 0 0 0 0 0) []) 0x2F = true ∧
      issuing (sequencing (ksq 0x30 1 0 0 1 0 7) []) 0x30 = true ∧ issuing (sequencing (ksq 0x33 0 0 0 1 0 7) []) 0x33 = true ∧
      (queuePage 1 0x80).isSome = true := by decide
theorem witness_SequencerQueuesAndWaits_3 :
    let s := (sequencing (ksq 0x2E 1 0 6 1 0 0x80) [(6, 1)] .waitq).modQueue 1 0x80 fun _ => { accept := 1, retire := 1 }
    ends (exec (.waitqDone 1 2) s) (fun t => (t.seq 1 2).pred 1 && (t.seq 1 2).pc == 1) = true ∧
      ((s.queue 1 0x80).retire - 1).toNat < 2 ^ 31 ∧ ((s.queue 1 0x80).accept - 1).toNat ≤ 2 ^ 31 := by decide +kernel
theorem witness_SequencerQueuesAndWaits_4 :
    let f := (sequencing (ksq 0x2F 1 0 0 0 0 0) [] .fence).modSeq 1 2 fun x => { x with pushed := [(0x80, 1)] }
    let s := f.modQueue 1 0x80 fun _ => { accept := 1, retire := 1 }
    (∀ e ∈ (s.seq 1 2).pushed, reached (s.queue 1 e.1) e.2 = true) ∧
      ends (exec (.fenceDone 1 2) s) (fun t => (t.seq 1 2).pred 1 && (t.seq 1 2).pc == 1) = true := by decide +kernel
theorem witness_SequencerQueuesAndWaits_5 :
    let d := (sequencing (ksq 0x30 1 0 0 1 0 7) [] .waitdb).modBox 1 2 fun b => { b with db := 0xC }
    let p := (sequencing (ksq 0x33 0 0 0 1 0 7) [] .waitpos).modTns 1 fun u => { u with lock := .locked, pos := 7 }
    let w := (sequencing (ksq 0x33 0 0 0 1 0 7) [] .waitpos).setReg (seqPage 1 2) 0x05C 10
    leaves (.waitdbDone 1 2) d 1 4 = true ∧ ends (exec (.waitdbDone 1 2) d) (fun t => (t.box 1 2).db == 8) = true ∧
      ends (exec (.waitposDone 1 2) p) (fun t => (t.seq 1 2).pc == 1) = true ∧
      ends (exec (.seqWatchdog 1 2) w) (fun t => t.fld (seqPage 1 2) 0x020 15 0 == 0x0A26 &&
        t.reg (seqPage 1 2) 0x024 == 0x50000) = true := by decide +kernel

/-! ### The commands of a sequencer -/

def seqInState (x : SeqState) : State :=
  (r0.setFlag (seqPage 1 2) 0x008 0 true).modSeq 1 2 fun q => { q with st := x, entry := 9, pc := 4 }
theorem witness_SequencerCommands_1 :
    mayWrite (seqInState .ready) .mgmt (seqPage 1 2) 0x040 = true ∧ seqDead (seqInState .ready) 1 2 = false ∧
      (seqInState .ready).faulted (seqPage 1 2) = false ∧ seqAccepts (seqInState .ready) 1 2 = true ∧
      ends (exec (.seqLoad .mgmt 1 2) (seqInState .halted)) (fun t => (t.seq 1 2).st == .loading) = true ∧
      ends (exec (.seqStart .mgmt 1 2) (seqInState .ready)) (fun t => (t.seq 1 2).st == .running && (t.seq 1 2).pc == 9) = true ∧
      ends (exec (.seqStop .mgmt 1 2) (seqInState .running)) (fun t => (t.seq 1 2).st == .stopped) = true ∧
      ends (exec (.seqResume .mgmt 1 2) (seqInState .stopped)) (fun t => (t.seq 1 2).st == .running && (t.seq 1 2).pc == 4) = true ∧
      ends (exec (.seqSave .mgmt 1 2 true) (seqInState .stopped)) (fun t => (t.seq 1 2).ctx == .save true .stopped) = true ∧
      ends (exec (.seqRestore .mgmt 1 2) (seqInState .ready)) (fun t => (t.seq 1 2).ctx == .restore .ready) = true ∧
      ends (exec (.seqClear .mgmt 1 2) (seqInState .ready)) (fun t => (t.seq 1 2).st == .empty && (t.seq 1 2).pc == 0) = true ∧
      ends (exec (.seqStart .mgmt 1 2) (seqInState .empty)) (fun t => (t.seq 1 2).refused && (t.seq 1 2).st == .empty) = true := by decide

/-- An image of one NOP for plan 5 at byte 4096. -/
theorem witness_SequencerCommands_2 :
    let s := { (((seqInState .loading).setReg (seqPage 1 2) 0x030 5).setPair (seqPage 1 2) 0x048 (sram1 + 4096)) with
      mem := [(sram1 + 4096, 0x4B), (sram1 + 4097, 0x53), (sram1 + 4098, 0x51), (sram1 + 4099, 0x50), (sram1 + 4100, 1),
        (sram1 + 4102, 5), (sram1 + 4104, 8), (sram1 + 4160, 0x3F)] }
    let h := s.bytes (sram1 + 4096) 64
    s.pair (seqPage 1 2) 0x048 = sram1 + 4096 ∧ imageBad h = none ∧ leNat (slice h 6 2) = seqPlan s 1 2 ∧
      inMemory s 1 (sram1 + 4096) 72 = true ∧ readFailure s (sram1 + 4096) 72 = none ∧ s.mod.bzl.sealed = false ∧
      leNat (slice h 8 4) + leNat (slice h 12 4) = 8 ∧
      ends (exec (.seqLoadDone 1 2) s) (fun t => (t.seq 1 2).st == .ready && (t.seq 1 2).instr == 0x3F) = true := by decide +kernel

theorem witness_SequencerCommands_3 :
    let c := (((seqInState .ctx).setReg (seqPage 1 2) 0x030 0xFFFF).setPair (seqPage 1 2) 0x050 (sram1 + 4096))
    let v := c.modSeq 1 2 fun x => { x with ctx := .save false .halted }
    let w := { c.modSeq 1 2 fun x => { x with ctx := .restore .halted } with
      mem := [(sram1 + 4096, 1), (sram1 + 4098, 0xFF), (sram1 + 4099, 0xFF), (sram1 + 4102, 1)] }
    contextArea c 1 2 (sram1 + 4096) 576 = true ∧ regionCheck c 1 0xFFFF true false (sram1 + 4096) 576 = none ∧
      readFailure c (sram1 + 4096) 576 = none ∧ (c.seq 1 2).st = .ctx ∧
      ends (exec (.seqCtxDone 1 2) v) (fun t => (t.seq 1 2).st == .halted && t.bytes (sram1 + 4096) 2 == [1, 0]) = true ∧
      contextOk (w.bytes (sram1 + 4096) 576) = true ∧ leNat (slice (w.bytes (sram1 + 4096) 576) 2 2) = 0xFFFF ∧
      ends (exec (.seqCtxDone 1 2) w) (fun t => (t.seq 1 2).st == .stopped && (t.seq 1 2).pc == 0) = true := by decide +kernel

/-! ### Re-binding -/

def rebinding (res phase : Nat) : State :=
  r0.modArb 1 fun a => { a with bind := [{ first := res, count := 1, plan := 7, lock := true, left := [{ res := res, phase := phase }] }] }
theorem witness_Rebinding_1 :
    let s := (r0.setReg (arbPage 1) 0x080 0x132).setReg (arbPage 1) 0x084 7
    mayWrite s .mgmt (arbPage 1) 0x088 = true ∧ rebindReason s .mgmt 1 [0x132] 7 false = 0 ∧
      rebindReason (s.modSeq 1 2 fun x => { x with st := .loading }) .mgmt 1 [0x132] 7 false = 6 ∧
      ends (exec (.rebind .mgmt 1 5) s) (fun t => (t.st 1).arb.bind.length == 1) = true := by decide
theorem witness_Rebinding_2 :
    resOf 0x132 = some (.seq 2) ∧ (moving (rebinding 0x132 2) 1 0x132).isSome = true ∧
      resQuiet (rebinding 0x203 2) 1 (.region 3) = true ∧ resOf 0x203 = some (.region 3) ∧
      regionScrubbed (rebinding 0x203 2) 1 3 false = false ∧
      ends (exec (.rebindScrub 1 0x203) (rebinding 0x203 2)) (fun t => (moving t 1 0x203).map (fun e => e.2.phase) == some 4) = true ∧
      (∀ p ∈ (Res.seq 2).pages 1, (rebinding 0x132 3).flag p 0x008 1 = false) ∧
      ends (exec (.rebindHandover 1 0x132) (rebinding 0x132 3)) (fun t => (moving t 1 0x132).map (fun e => e.2.phase) == some 4 &&
        (t.seq 1 2).st == .empty) = true ∧
      ends (exec (.rebindDone 1 0x132) (rebinding 0x132 4)) (fun t => t.fld (seqPage 1 2) 0x030 15 0 == 7 &&
        t.flag (seqPage 1 2) 0x030 31) = true ∧
      ends (exec (.rebindForced 1 0x132) (rebinding 0x132 2)) (fun t => t.fld (arbPage 1) 0x020 15 0 == 0x0A30 &&
        t.reg (arbPage 1) 0x024 == 0x1320000) = true := by decide +kernel
/-! ### The maintenance arbiter -/

theorem witness_MaintenanceArbiter_1 :
    let v : Word := 0x80000000 + 4 + 7 * 2 ^ 8
    let none_ := (List.range 4).foldl (fun (s : State) i => s.setFlag (arbPage 1) (0x0A0 + 4 * i) 15 true) r0
    judge r0 1 { act := 4, scope := 7, sub := 4, ticket := 0 } = 0 ∧ mayWrite r0 .mgmt (arbPage 1) 0x040 = true ∧
      submitterOf .mgmt = 4 ∧ bitAt v.toNat 31 = true ∧ bitsOf v.toNat 3 0 = 4 ∧ bitsOf v.toNat 23 8 = 7 ∧
      ends (exec (.arbSubmit .mgmt 1 v) r0) (fun t => (t.st 1).arb.run.length == 1 && t.reg (arbPage 1) 0x044 == 0x400) = true ∧
      scopeOk 4 7 = true ∧ submitterOk 4 4 7 = true ∧ pickSpare none_ 1 4 7 = none := by decide

theorem witness_MaintenanceArbiter_2 :
    let a : Activity := { act := 0, scope := 9, sub := 3, ticket := 4 }
    let s := r0.modArb 1 fun b => { b with wait := [a] }
    (s.st 1).arb.wait[0]? = some a ∧ admissible s 1 a = true ∧
      ends (exec (.activityAdmit 1 0) s) (fun t => (t.st 1).arb.run == [a] && (t.st 1).arb.wait == []) = true ∧
      (let u := s.setReg (arbPage 1) 0x054 5
       u.fld (arbPage 1) 0x054 15 0 ≠ 0 ∧ ends (exec (.queueTimeout 1 0) u) (fun t => (t.st 1).arb.wait == [] &&
         t.fld (arbPage 1) 0x020 15 0 == 0x0A31) = true) ∧
      (let u := s.modArb 1 fun b => { b with run := [a], wait := [] }
       mayEnd u 0 = true ∧ ends (exec (.activityEnd 1 0 9) u) (fun t => (t.st 1).arb.run == []) = true) := by decide

/-- A swap of core 7 under way to spare 0, whose core 56 lies in quadrant 3. -/
def swap (act scope phase spare : Nat) : State :=
  ((lit 1).setReg (pwrPage 1) 0x040 0xFF).modArb 1 fun b =>
    { b with run := [{ act := act, scope := scope, sub := 4, ticket := 0, phase := phase, spare := spare }] }
def swapping (phase : Nat) : State := swap 4 7 phase 0
theorem witness_SpareSwaps_1 :
    (runningSwap (swapping 0) 1 4 7).isSome = true ∧ (pickSpare (swapping 0) 1 4 7).isSome = true ∧ cutoverDue (swapping 0) 1 = true ∧
      ((swapping 0).st 1).arb.bind = [] ∧
      ends (exec (.swapCutover 1 4 7) (swapping 0)) (fun t => (runningSwap t 1 4 7).map (·.phase) == some 1) = true := by decide +kernel
theorem witness_SpareSwaps_2 :
    unitBusy (swapping 1) 1 4 7 = false ∧ (swapping 1).domOn 1 (bitsOf (spareReg (swapping 1) 1 0) 5 0 / 15) = true ∧
      ends (exec (.swapCopy 1 4 7 true) (swapping 1)) (fun t => (runningSwap t 1 4 7).map (·.phase) == some 2) = true ∧
      ends (exec (.swapCopy 1 4 7 false) (swapping 1)) (fun t => (runningSwap t 1 4 7).isNone && t.flag (arbPage 1) 0x0A0 15) = true := by
  decide +kernel
theorem witness_SpareSwaps_3 :
    ends (exec (.swapComplete 1 4 7) (swapping 2)) (fun t => (runningSwap t 1 4 7).isNone &&
      t.fld (arbPage 1) 0x0A0 13 8 == 7 && t.flag (arbPage 1) 0x0A0 14) = true ∧
      (ends (exec (.swapComplete 1 5 9) (swap 5 9 2 1)) (fun t => t.fld (arbPage 1) 0x0B0 11 8 == 9 && t.flag (arbPage 1) 0x0B0 12) = true) ∧
      (ends (exec (.swapComplete 1 6 2) (swap 6 2 2 3)) (fun t => t.fld (arbPage 1) 0x0B0 25 24 == 2 && t.flag (arbPage 1) 0x0B0 26) = true) := by
  decide +kernel

theorem witness_BezelChecks_1 :
    (lit 1).domOn 1 0 = true ∧ servedBy (lit 1) 1 7 = some 7 ∧ (lit 1).fld (stackPage 1 .mx 7) 0x030 15 0 = 0 ∧
      busy (lit 1) (stackPage 1 .mx 7) = false ∧ busy (lit 1) (stackPage 1 .vc 7) = false ∧
      servedBy (lit 1) 1 57 = none ∧ spareEntry (lit 1) 1 57 = some 1 ∧
      ends (exec (.idleCoreTest 1 57 false) (lit 1)) (fun t => t.flag (arbPage 1) 0x0A4 15) = true := by decide +kernel
theorem witness_BezelChecks_2 :
    let s := r0.modSt 1 fun x => { x with pwr := { x.pwr with firmware := true } }
    let v := s.modArb 1 fun b => { b with missed := 2 }
    (s.st 1).pwr.firmware = true ∧ s.mod.pwr.sleeping = false ∧ (s.st 1).arb.missed < 2 ∧ (v.st 1).arb.wait = [] ∧
      ends (exec (.heartbeatCheck 1) (s.modBox 1 16 fun b => { b with db := 0x10000000 })) (fun t => (t.box 1 16).db == 0) = true ∧
      ends (exec (.heartbeatCheck 1) s) (fun t => (t.st 1).arb.missed == 1) = true ∧
      ends (exec (.heartbeatCheck 1) v) (fun t => (t.st 1).arb.restarts == 1 && t.fld (arbPage 1) 0x020 15 0 == 0x0A41) = true := by
  decide
theorem witness_BezelChecks_3 :
    let s := r0.modSt 0 fun x => { x with pwr := { x.pwr with firmware := true } }
    let v := s.modSt 1 fun x => { x with pwr := { x.pwr with held := false } }
    (s.st 0).pwr.firmware = true ∧ (v.st 1).pwr.held = false ∧
      ends (exec (.pairingCheck 1 false) v) (fun t => (t.st 1).pwr.held) = true ∧
      ends (exec (.pairingCheck 1 true) v) (fun t => (t.st 1).pwr.paired) = true := by decide

/-! ### Ethernet -/

/-- Port 0 of stack 0 in the mode of two links, with its domain on; and with link 1 up. -/
def wired : State := (lit 0).setReg (netPage 0 0) 0x040 (2 + 8 + 2 ^ 8 * 3)
def linked : State := wired.modPort 0 0 fun p => { p with cfg := 2 + 8 + 2 ^ 8 * 3, up := 2 }
theorem witness_NetworkPorts_1 :
    wired.domOn 0 5 = true ∧ wired.mod.pwr.ethRefclkLost = false ∧ wired.mod.pwr.clocksStopped = false ∧
      linkIsUp wired 0 0 1 = false ∧ modeLinks (wired.fld (netPage 0 0) 0x040 2 0) = 2 ∧
      ends (exec (.linkUp 0 0 1) wired) (fun t => linkIsUp t 0 0 1 && !linkIsUp t 0 0 0) = true ∧
      linkIsUp linked 0 0 1 = true ∧ ends (exec (.linkDown 0 0 1) linked) (fun t => !linkIsUp t 0 0 1 &&
        t.fld (netPage 0 0) 0x020 15 0 == 0x0601) = true := by decide
theorem witness_NetworkPorts_2 :
    let s := (linked.setReg (netPage 0 0) (linkOff 1 0x054) 77).setReg (netPage 0 0) (linkOff 1 0x04C) 0x0403
    bitAt (linked.port 0 0).cfg.toNat 3 = true ∧ bitsOf (linked.port 0 0).cfg.toNat 15 8 ≠ 0 ∧
      linkAddress s 0 0 1 false = some 77 ∧
      ends (exec (.icmpEcho 0 0 1 false 77 [9]) s) (fun t => t.out == [.frame 0 0 1 [9]]) = true ∧
      ends (exec (.neighbourDiscovery 0 0 1 false 77) s) (fun t => t.out == [.frame 0 0 1 [3, 4, 0, 0, 0, 0, 77, 0, 0, 0]]) = true ∧
      ends (exec (.pauseFrame 0 0 1 (some 6)) linked) (fun t => (t.port 0 0).paused[1] == 2) = true := by decide +kernel
theorem witness_NetworkPorts_3 :
    let s := (linked.setReg pwrmPage 0x078 1).modSt 0 fun x => { x with pwr := { x.pwr with firmware := true } }
    s.fld pwrmPage 0x078 1 0 = 1 ∧ (s.st 0).pwr.firmware = true ∧
      ends (exec (.ptpEventMessage 0 0 1 5) s) (fun t => t.mod.pwr.rtc == s.mod.pwr.rtc + 5) = true ∧
      mayWrite linked .mgmt (netPage 0 0) 0x040 = true ∧
      ends (exec (.netCfgWrite .mgmt 0 0 1) linked) (fun t => t.fld (netPage 0 0) 0x040 2 0 == 1 && !linkIsUp t 0 0 1) = true := by
  decide

/-! ### Sessions -/

/-- Stack 1 with range 0 of its sessions bound to the firmware; with an open request at byte 64 of SRAM; and with context 0 in a
state. -/
def opening : State :=
  { ((r0.setReg (kxtPage 1) 0x900 0xFFFF).setFlag (kxtPage 1) 0x040 16 true).setPair (kxtPage 1) 0x084 (sram1 + 64) with
    mem := [(sram1 + 64, 1), (sram1 + 66, 4)] }
def session (x : SessState) : State :=
  opening.modSess 1 0 fun c => { c with st := x, peer := 0x10007, seqRx := 5, role := 1 }
theorem witness_SessionHandshakes_1 :
    let bs := opening.bytes (sram1 + 64) 64
    mayWrite opening .mgmt (kxtPage 1) 0x08C = true ∧ (opening.st 1).opening = none ∧
      opening.pair (kxtPage 1) 0x084 = sram1 + 64 ∧ opening.has (stackField (sram1 + 64)) = true ∧
      rangePlace opening (sram1 + 64) 64 = some .sram ∧ readFailure opening (sram1 + 64) 64 = none ∧ requestOk bs = true ∧
      (opening.st 1).blocked = [] ∧ leNat (slice bs 6 2) = 0 ∧ rangeBind opening 1 0 = requesterPlan opening 1 .mgmt ∧
      rangeMoving opening 1 0 = false ∧ freeInRange opening 1 0 = some 0 := by decide +kernel

/-- HS_INIT for this part by a signature that verifies: the signature is the one thing the model leaves open. -/
def initBody : List Byte := [1, 0, 0, 0] ++ (List.replicate 4 0 ++ (idHash opening ++ List.replicate 6477 0))
theorem witness_SessionHandshakes_2
    (h : Config.dsaVerify (slice initBody 1256 1952) (initBody.take 3208) [] (slice initBody 3208 3309) = true) :
    initBody.length = 6517 ∧ (initBody.getD 0 0).toNat = 1 ∧ slice initBody 1 3 = [0, 0, 0] ∧
      opening.flag (kxtPage 1) 0x040 16 = true ∧ initAuth opening initBody = true ∧ incomingContext opening 1 1 = some 0 := by
  have n : (idHash opening).length = 32 := slice_length _ _ _
  have m : slice initBody 8 32 = idHash opening := by simp [slice, initBody, n]
  have p : peerAllowed opening (slice initBody 1256 1952) 1 = true := by
    rw [show peerAllowed opening (slice initBody 1256 1952) 1 = ((1 : Nat) == 1) from rfl]; rfl
  refine ⟨by simp [initBody, n], rfl, by simp [slice, initBody], by decide, ?_, by decide⟩
  unfold initAuth
  dsimp only
  rw [m, h, show (initBody.getD 0 0).toNat = 1 from rfl, p]
  simp
theorem witness_SessionHandshakes_3 :
    let s := opening.setFlag (kxtPage 1) 0x040 16 false
    s.flag (kxtPage 1) 0x040 16 = false ∧ incomingContext (opening.setReg (kxtPage 1) 0x900 5) 1 1 = none := by decide +kernel

/-- HS_RESP of the key targeted, by a signature that verifies. -/
def respBody : List Byte := [7, 0, 0, 0] ++ (leBytes (sidOf 1 0) 4 ++ List.replicate 6349 0)
def answering : State :=
  opening.modSess 1 0 fun c => { c with st := .hsSent, hsTarget := val256 (shake (slice respBody 1096 1952) 32) }
theorem witness_SessionHandshakes_4
    (h : Config.dsaVerify (slice respBody 1096 1952) (shake (answering.sess 1 0).hsBody 64 ++ respBody.take 3048) []
      (slice respBody 3048 3309) = true) :
    (answering.sess 1 0).st = .hsSent ∧ respBody.length = 6357 ∧ leNat (slice respBody 4 4) = sidOf 1 0 ∧
      val256 (shake (slice respBody 1096 1952) 32) = (answering.sess 1 0).hsTarget ∧
      Config.dsaVerify (slice respBody 1096 1952) (shake (answering.sess 1 0).hsBody 64 ++ respBody.take 3048) []
        (slice respBody 3048 3309) = true :=
  ⟨rfl, by simp [respBody], by decide +kernel, rfl, h⟩
theorem witness_SessionHandshakes_5 :
    ends (exec (.hsReject 1 0 0x20E) (session .hsSent)) (fun t => (t.sess 1 0).st == .closed && t.fld (kxtPage 1) 0x0E0 15 8 == 0xE) = true ∧
      ends (exec (.hsTimeout 1 0) (session .hsRecv)) (fun t => (t.sess 1 0).st == .closed) = true ∧
      ends (exec (.failedTimeout 1 0) (session .failed)) (fun t => (t.sess 1 0).st == .closed) = true := by decide +kernel

/-- A packet of context 0 in the format of R346, whose tag passes: the cipher is the one thing the model leaves open. -/
def packetOf (type : Byte) (seq : Word) (n : Nat) : Packet :=
  { magic := 0x584B, ver := 1, type := type, dsid := BitVec.ofNat 32 (sidOf 1 0), pn := 9, seq := seq, len := BitVec.ofNat 16 n,
    flags := 0, frag := 0, body := List.replicate (n + 16) 0 }
theorem received {x : SessState} (hx : x = .opened ∨ x = .hsRecv ∨ x = .closing) (type : Byte) (seq : Word) (n : Nat) (hn : n ≤ 24)
    (ht : type = 0x10 ∨ seq = 0) {pt : List Byte}
    (h : Config.gcmOpen (bytes256 0) (nonceOf 0 9) (headerBytes { packetOf type seq n with body := [] })
      (packetOf type seq n).body = some pt) :
    ∃ u, receive (session x) 1 0 0 (packetOf type seq n) type = (u, some (0, slice pt 0 n)) ∧ (u.sess 1 0).st = x ∧
      (u.sess 1 0).ahead = [] ∧ (u.sess 1 0).queued = [] ∧ (u.sess 1 0).ackPn = 0 ∧ (u.sess 1 0).seqRx = 5 := by
  have hl : (packetOf type seq n).len.toNat = n := by simp [packetOf]; omega
  have h1 : headerOk (packetOf type seq n) type = true := by
    rcases ht with rfl | rfl <;> simp [headerOk, packetOf] <;> omega
  have h0 : (session x).sess 1 0 = { st := x, peer := 0x10007, seqRx := 5, role := 1 } := by
    rw [session, State.sess_modSess_same, show opening.sess 1 0 = {} from rfl]
  have h2 : rxContext (session x) 1 (packetOf type seq n).dsid = some 0 := by
    rcases hx with rfl | rfl | rfl <;> (show rxContext (session _) 1 (BitVec.ofNat 32 (sidOf 1 0)) = some 0) <;> decide +kernel
  have h4 : openBody ((session x).sess 1 0) (packetOf type seq n) =
      some ({ (session x).sess 1 0 with sinceKey := 1, keyOld := none }, slice pt 0 n) := by
    have h' : Config.gcmOpen (bytes256 0) (nonceOf 0 (packetOf type seq n).pn) (headerBytes { packetOf type seq n with body := [] })
      (packetOf type seq n).body = some pt := h
    have e : bitAt (packetOf type seq n).flags.toNat 0 = false := by show bitAt (0 : Byte).toNat 0 = false; decide
    rw [h0]
    unfold openBody
    dsimp only
    rw [if_pos e, h', hl]
    rfl
  unfold receive
  rw [if_neg (by simp [h1]), h2]
  dsimp only
  rw [h4]
  refine ⟨_, rfl, ?_⟩
  rw [State.sess_modSess_same, h0]
  exact ⟨rfl, rfl, rfl, rfl, rfl⟩

theorem witness_SessionTransport_1 {pt : List Byte}
    (h : Config.gcmOpen (bytes256 0) (nonceOf 0 9) (headerBytes { packetOf 0x10 5 0 with body := [] })
      (packetOf 0x10 5 0).body = some pt) :
    ∃ u bs, receive (session .opened) 1 0 0 (packetOf 0x10 5 0) 0x10 = (u, some (0, bs)) ∧ (u.sess 1 0).ahead = [] ∧
      (u.sess 1 0).seqRx = (packetOf 0x10 5 0).seq := by
  obtain ⟨u, a, -, b, -, -, c⟩ := received (.inl rfl) 0x10 5 0 (by decide) (.inl rfl) h
  exact ⟨u, _, a, b, c⟩
theorem witness_SessionTransport_2 {pt : List Byte}
    (h : Config.gcmOpen (bytes256 0) (nonceOf 0 9) (headerBytes { packetOf 0x11 0 24 with body := [] })
      (packetOf 0x11 0 24).body = some pt) :
    ∃ u bs, receive (session .closing) 1 0 0 (packetOf 0x11 0 24) 0x11 = (u, some (0, bs)) ∧ (u.sess 1 0).st = .closing ∧
      bs.length = 24 ∧ (u.sess 1 0).ackPn.toNat < (packetOf 0x11 0 24).pn.toNat ∧ (u.sess 1 0).queued = [] := by
  obtain ⟨u, a, b, -, c, d, -⟩ := received (.inr (.inr rfl)) 0x11 0 24 (by decide) (.inr rfl) h
  exact ⟨u, _, a, b, slice_length _ _ _, by rw [d]; decide, c⟩
theorem witness_SessionTransport_3 {pt : List Byte}
    (h : Config.gcmOpen (bytes256 0) (nonceOf 0 9) (headerBytes { packetOf 0x12 0 0 with body := [] })
      (packetOf 0x12 0 0).body = some pt) :
    ∃ u bs, receive (session .opened) 1 0 0 (packetOf 0x12 0 0) 0x12 = (u, some (0, bs)) ∧ (u.sess 1 0).st = .opened := by
  obtain ⟨u, a, b, -⟩ := received (.inl rfl) 0x12 0 0 (by decide) (.inr rfl) h
  exact ⟨u, _, a, b⟩
theorem witness_SessionTransport_4 {pt : List Byte}
    (h : Config.gcmOpen (bytes256 0) (nonceOf 0 9) (headerBytes { packetOf 0x13 0 0 with body := [] })
      (packetOf 0x13 0 0).body = some pt) :
    ∃ u bs, receive (session .closing) 1 0 0 (packetOf 0x13 0 0) 0x13 = (u, some (0, bs)) ∧ (u.sess 1 0).st = .closing := by
  obtain ⟨u, a, b, -⟩ := received (.inr (.inr rfl)) 0x13 0 0 (by decide) (.inr rfl) h
  exact ⟨u, _, a, b⟩

/-- A session with one packet sent, and one to acknowledge. -/
def busySession (timeouts : Nat) : State :=
  (session .opened).modSess 1 0 fun c =>
    { c with unacked := 1, sent := [{ seq := 3, payload := [], pn := 2, timeouts := timeouts }], seqTx := 4 }
theorem witness_SessionTransport_5 :
    0 < ((busySession 0).sess 1 0).unacked ∧
      (((busySession 0).sess 1 0).sent.find? fun x => x.seq == 3 && !x.sacked).isSome = true ∧
      0 + 1 < retryMax (busySession 0) 1 ∧ retryMax (busySession 20) 1 ≤ 20 + 1 ∧
      ends (exec (.rtoExpiry 1 0 3) (busySession 20)) (fun t => (t.sess 1 0).st == .failed) = true ∧
      ends (exec (.ackDelay 1 0) (busySession 0)) (fun t => (t.sess 1 0).unacked == 0) = true ∧
      ends (exec (.reset 1 0) (busySession 0)) (fun t => (t.sess 1 0).resets == 1) = true ∧
      ends (exec (.ccPeriod 1 0) (busySession 0)) (fun t => (t.sess 1 0).rate == 100) = true := by decide +kernel

/-! ### Host operations -/

/-- Session 0 of stack 1 with a compute host; a request; the address of a register of sequencer 2; and slot 3 filled. -/
def hosted : State := session .opened
def request_ (addr : Nat) (data : List Byte) (flags : Byte := 0) : HostOp :=
  { opc := 0, flags := flags, req := 6, status := 0, addr := BitVec.ofNat 64 addr, data := data }
def seqReg (off : Nat) : Nat := 2 ^ 48 + 0x7F0000000000 + (seqPage 1 2).no * 4096 + off
def keyed : State := hosted.modSlot 3 fun k => { k with filled := true }

theorem witness_HostMemoryAndRegisters_1 :
    let op := request_ (seqReg 8) [2, 0, 0, 0]
    (∀ opc ∈ [1, 2], hosted.has 1 = true ∧ answerable hosted 1 0 = true ∧ bitAt op.flags.toNat 0 = false ∧ op.flags.toNat < 4 ∧
      hosted.mod.bzl.recovery = false ∧ ((opRoles opc).getD []).contains (hosted.sess 1 0).role = true) ∧
      unreachable hosted 1 op.addr.toNat false = none ∧ regTargets hosted .host op.addr.toNat = some [(seqPage 1 2, .host)] ∧
      stackField op.addr.toNat ≠ 15 ∧ mayWrite hosted (hostAt 1 (seqPage 1 2).home) (seqPage 1 2) 8 = true ∧
      ends (exec (.regRd 1 0 op) hosted) (fun t => (t.sess 1 0).seqTx == 1) = true ∧
      ends (exec (.regWr 1 0 op) hosted) (fun t => t.flag (seqPage 1 2) 0x008 1) = true := by decide +kernel

theorem witness_HostMemoryAndRegisters_2 :
    let a := sram1 + 0x1000
    let w := request_ a (List.replicate 16 0x5A)
    unreachable hosted 1 a true = none ∧ stackField a ≠ 15 ∧ a % 16 = 0 ∧ rangePlace hosted a 16 = some .sram ∧
      regionRefusal hosted (stackOf a) (offsetOf a) 16 true = none ∧ readFailure hosted a 16 = none ∧ (opRoles 3) = some [1] ∧
      w.addr.toNat = a ∧ ends (exec (.memWr 1 0 w) hosted) (fun t => t.bytes a 16 == List.replicate 16 0x5A) = true := by
  decide +kernel

theorem witness_HostMemoryAndRegisters_3 :
    let a := sram1 + 64
    16 ≤ maxPayload hosted 1 (hosted.sess 1 0).port (hosted.sess 1 0).link - 48 ∧ (keyed.slot 3).filled = true ∧
      unreachable keyed 1 a true = none ∧ rangePlace keyed a 16 = some .sram ∧ readFailure keyed a 16 = none ∧
      ends (exec (.memRd 1 0 (request_ a [16, 0, 0, 0])) hosted) (fun t => (t.sess 1 0).seqTx == 1) = true ∧
      ends (exec (.memRd 1 0 (request_ a [16, 0, 0, 0, 3] 2)) keyed) (fun t => (t.slot 3).outSeq == 1) = true := by
  decide +kernel

/-- Refusals: flags that must be zero, a role that may send nothing, and bulk data that must be sealed. -/
theorem witness_HostMemoryAndRegisters_4 :
    let store := hosted.modSess 1 0 fun c => { c with role := 2 }
    let closed := hosted.modBzl fun b => { b with sealed := true }
    (request_ 0 [] 4).flags.toNat = 4 ∧ (store.sess 1 0).role = 2 ∧ closed.mod.bzl.recovery = false ∧
      (closed.sess 1 0).role = 1 ∧ closed.mod.bzl.sealed = true ∧
      ends (exec (.kxtNop 1 0 (request_ 0 [] 4)) hosted) (fun t => (t.sess 1 0).seqTx == 1) = true ∧
      ends (exec (.memWr 1 0 (request_ sram1 (List.replicate 16 7))) store) (fun t => t.mem == store.mem) = true ∧
      ends (exec (.memWr 1 0 (request_ sram1 (List.replicate 16 7))) closed) (fun t => t.mem == closed.mem) = true := by
  decide +kernel

theorem witness_HostPlansAndMailboxes_1 :
    let op := request_ (seqReg 0) [0, 1, 0, 0, 0, 0x40, 1, 0]
    planTarget hosted 1 { op with opc := 5 } 8 = .ok (1, 2) ∧ (hosted.seq 1 2).st = .empty ∧ seqDead hosted 1 2 = false ∧
      (opRoles 5) = some [1] ∧
      ends (exec (.planLoad 1 0 op) hosted) (fun t => (t.seq 1 2).st == .loading && t.reg (seqPage 1 2) 0x048 == 0x100) = true := by
  decide +kernel
theorem witness_HostPlansAndMailboxes_2 :
    let s := (hosted.setReg (seqPage 1 2) 0x008 1).modSeq 1 2 fun q => { q with st := .ready, entry := 5 }
    let op := request_ (seqReg 0) []
    planTarget s 1 { op with opc := 6 } 0 = .ok (1, 2) ∧ (s.seq 1 2).st = .ready ∧ s.faulted (seqPage 1 2) = false ∧
      seqAccepts s 1 2 = true ∧ seqDead s 1 2 = false ∧
      ends (exec (.planStart 1 0 op) s) (fun t => (t.seq 1 2).st == .running && (t.seq 1 2).pc == 5) = true := by decide +kernel
theorem witness_HostPlansAndMailboxes_3 :
    let op := request_ (2 ^ 48 + 21) [9, 0, 0, 0]
    unreachable hosted 1 op.addr.toNat true = none ∧ stackField op.addr.toNat ≠ 15 ∧ stackOf op.addr.toNat = 1 ∧
      ends (exec (.mbxWr 1 0 op) hosted) (fun t => (t.box 1 21).word == 9 && (t.box 1 21).full) = true ∧
      ends (exec (.doorbell 1 0 op) hosted) (fun t => (t.box 1 21).db == 9) = true := by decide +kernel
theorem witness_HostPlansAndMailboxes_4 :
    let w : WaitReply := { ctx := 0, req := 6, addr := 21, mb := 21, parts := [{ stk := 1, status := 0, ready := some 0 }] }
    let s := hosted.modSt 1 fun x => { x with replies := [w] }
    (s.st 1).replies[0]? = some w ∧ (w.parts.map (settlePart s w.mb)).all (fun p => p.ready.isSome) = true ∧
      ends (exec (.mbxWrReply 1 0) s) (fun t => (t.st 1).replies == [] && (t.sess 1 0).seqTx == 1) = true := by decide +kernel
theorem witness_HostPlansAndMailboxes_5 :
    let p := stackPage 1 .mbx 1
    let s := ((hosted.setReg p 0x010 8).setReg p 0x014 8).setReg p 0x04C (BitVec.ofNat 32 (sidOf 1 0))
    s.pend p ≠ 0 ∧ (s.st 1).evtSent.toNat.testBit 1 = false ∧ hostSess s p = some (1, 0) ∧
      ends (exec (.mbxEventSend 1 1) s) (fun t => (t.st 1).evtSent == 2) = true := by decide +kernel
theorem witness_HostPlansAndMailboxes_6 :
    let s := (r0.setReg (kxtPage 0) 0x104 500).modSess 0 0 fun c => { c with st := .opened, role := 1 }
    let f : BeatFrame := { beat := 8, edge := 1000000, period := 0, leader := 0 }
    answerable s 0 0 = true ∧ (s.sess 0 0).role = 1 ∧ s.fld (kxtPage 0) 0x100 17 0 = 0 ∧
      f.edge.toNat ≤ (1000000 : DWord).toNat + 1000000000 ∧
      (1000000 : DWord).toNat ≤ f.edge.toNat + s.fld (kxtPage 0) 0x104 15 0 * 1000 ∧
      ends (exec (.beat 0 f 1600000) s) (fun t => t.reg (kxtPage 0) 0x108 == 1 && t.flag (kxtPage 0) 0x010 8) = true := by
  decide +kernel

/-! ### Collectives -/

/-- Stack 1 with a peer session, its channels' plan the firmware's, and channel 2 of two ranks adding one FP32 value. -/
def peered : State := ((hosted.setReg (kxtPage 1) 0x030 0xFFFF).modSess 1 0 fun c => { c with role := 3 })
def adding (rank : Nat) (x : Channel → Channel) : State :=
  peered.modChan 1 2 fun c => x { c with
    st := .data, op := 2, nrank := 2, rank := rank, count := 1, buf := sram1 + 64, redSent := 1, sess := [sidOf 1 0, sidOf 1 0] }
def segment (phase rank : Nat) (data : List Byte := []) (step : DWord := 0) : Segment :=
  { chan := 2, phase := phase, flags := 0, rank := rank, round := 0, step := step, index := 0, w := 0, data := data }

theorem witness_Collectives_1 :
    let s := peered.modChan 1 2 fun c => { c with fired := true }
    mayWrite r0 .mgmt (kxtPage 1) 0x098 = true ∧ (∀ c < 16, (r0.chan 1 c).fired = false) ∧
      ends (exec (.chanReady .mgmt 1 5) r0) (fun t => t.reg (kxtPage 1) 0x098 == 5) = true ∧
      (s.chan 1 2).fired = true ∧ (∀ d < 16, d ≠ 2 → (s.chan 1 d).fired = false) ∧ (s.chan 1 2).st = .idle ∧
      (5 : Word).getLsbD 2 = true ∧
      ends (exec (.chanReady .mgmt 1 5) s) (fun t => !(t.chan 1 2).fired && t.reg (kxtPage 1) 0x098 == 1) = true := by
  decide +kernel
theorem witness_Collectives_2 :
    let s := adding 0 fun c => { c with st := .starting }
    segOk s 1 0 0 (segment 0 1) = true ∧ (s.chan 1 2).active = true ∧ (s.chan 1 2).succ = 1 ∧
      ends (exec (.collStartSegment 1 0 (segment 0 1)) s) (fun t => (t.chan 1 2).st == .data) = true ∧
      segOk peered 1 0 0 (segment 0 1) = true ∧ (peered.chan 1 2).active = false ∧
      ends (exec (.collStartSegment 1 0 (segment 0 1)) peered) (fun t => (t.chan 1 2).held == [(1, 0)]) = true ∧
      ends (exec (.collStartSegment 1 0 (segment 0 1 [] 7)) s) (fun t => (t.chan 1 2).st == .failed) = true := by decide +kernel
theorem witness_Collectives_3 :
    let s := adding 0 id
    let g := segment 1 1 [0, 0, 0x80, 0x3F]
    segOk s 1 0 1 g = true ∧ expected (s.chan 1 2) false g = true ∧ ((reduceF32 s 1 2 g).chan 1 2).active = true ∧
      ends (exec (.collReduceSegment 1 0 g) s) (fun t => (t.chan 1 2).redGot == 1) = true := by decide +kernel
theorem witness_Collectives_4 :
    let s := adding 1 fun c => { c with redGot := 1 }
    let g := segment 2 0 [1, 2, 3, 4]
    segOk s 1 0 2 g = true ∧ expected (s.chan 1 2) true g = true ∧ ((gatherUnit s 1 2 g).chan 1 2).active = true ∧
      ends (exec (.collGatherSegment 1 0 g) s) (fun t => t.bytes (sram1 + 64) 4 == [1, 2, 3, 4]) = true := by decide +kernel
theorem witness_Collectives_5 :
    let s := adding 0 fun c => { c with st := .voting }
    segOk s 1 0 3 (segment 3 1) = true ∧ (s.chan 1 2).st = .voting ∧ (∀ k < (s.chan 1 2).nrank, k = 0 ∨ k = 1) ∧
      ends (exec (.collVoteSegment 1 0 (segment 3 1)) s) (fun t => (t.chan 1 2).st == .done) = true ∧
      segOk s 1 0 1 (segment 1 1 [] 9) = true ∧ segOk s 1 0 2 (segment 2 1 [] 9) = true ∧
      segOk s 1 0 3 (segment 3 1 [] 9) = true ∧
      ends (exec (.collGatherSegment 1 0 (segment 2 1 [] 9)) s) (fun t => t.fld (kxtPage 1) 0x020 15 0 == 0x0611) = true ∧
      ends (exec (.collTimeout 1 2) s) (fun t => t.fld (kxtPage 1) 0x020 15 0 == 0x0613) = true := by decide +kernel

/-- A checkpoint event of stack 1 that activity 11 serves, with a store session and every device trained. -/
def wanting (x : StepState) : State :=
  (((((hosted.modSess 1 0 fun c => { c with role := 2 }).setReg (kxtPage 1) 0x0F0 (BitVec.ofNat 32 (sidOf 1 0))).modCkpt 1
    fun k => { k with wanted := true }).modArb 0 fun b => { b with run := [{ act := 11, scope := 0, sub := 4, ticket := 0 }] }).modClp 1
    fun c => { c with state := x })
def trained (s : State) : State :=
  (List.finRange 8).foldl (fun s i => (List.range 4).foldl (fun s d => s.setFlag (stackPage i .mem d) 0x06C 0 true) s) s
theorem witness_CheckpointStreams_1 :
    ((wanting .idle).st 1).ckpt.wanted = true ∧ ((wanting .idle).st 1).ckpt.streaming = false ∧
      (((wanting .idle).st 0).arb.run.any fun a => a.act == 11) = true ∧ ((wanting .commit).st 1).clp.state = .commit ∧
      ends (exec (.checkpointStreamStart 1) (wanting .commit)) (fun t => (t.st 1).ckpt.wanted) = true ∧
      ends (exec (.checkpointStreamStart 1) (wanting .torn)) (fun t => !(t.st 1).ckpt.wanted && !(t.st 1).ckpt.streaming) = true := by
  decide +kernel
theorem witness_CheckpointStreams_2 :
    let s := trained (wanting .idle)
    (s.st 1).ckpt.wanted = true ∧ (s.st 1).ckpt.streaming = false ∧ ((s.st 0).arb.run.any fun a => a.act == 11) = true ∧
      openSess s (s.fld (kxtPage 1) 0x0F0 17 0) 2 = some (1, 0) ∧ s.mod.bzl.sealed = false ∧ s.bad = [] ∧
      (∀ i : Fin 8, lpddrTrained s i = true) ∧
      ends (exec (.checkpointStreamStart 1) s) (fun t => (t.st 1).ckpt.streaming && (t.st 1).clp.ckptHold) = true := by
  decide +kernel
theorem witness_CheckpointStreams_3 :
    let s := (wanting .idle).modCkpt 1 fun k => { k with streaming := true, step := 5 }
    (s.sess 1 0).st = .opened ∧ (s.sess 1 0).role = 2 ∧ (s.st 1).ckpt.streaming = true ∧ (s.st 1).ckpt.sess = 0 ∧
      (s.st 1).ckpt.step = 5 ∧
      ends (exec (.ckptAck 1 0 5 0) s) (fun t => !(t.st 1).ckpt.streaming && t.flag (kxtPage 1) 0x010 7) = true ∧
      ends (exec (.ckptAck 1 0 5 9) s) (fun t => !(t.st 1).ckpt.streaming && !t.flag (kxtPage 1) 0x010 7) = true := by decide +kernel

/-- A Jukan descriptor at the head of the port of stack 1 that leads to stack 2, with every link up. -/
def jkHead (d : Desc) : State :=
  held ((List.finRange 8).foldl (fun s i => (List.range 2).foldl (fun s p => s.setFlag (jkPage i p) 0x040 0 true) s)
    ((r0.setReg (jkPage 1 0) 0x030 0xFFFF).setReg (pwrPage 2) 0x044 0xFF)) 1 (jkQueue 0) d
/-- The example of R21: from stack 1 to stack 7 by way of stacks 5 and 6. -/
theorem test_route_1_to_7 : (jkRoute .kx820 1 7).map (·.1) = [1, 5, 6] := by decide
theorem witness_JukanCommands_1 :
    let d := dsc (0x10 + 1 * 2 ^ 8) (sram1 + 64) (2 * 2 ^ 48 + 0x400000000000) 16
    let s := { jkHead d with mem := [(sram1 + 66, 4)] }
    (s.queue 1 (jkQueue 0)).first.map (·.st) = some .accepted ∧ s.clocked = true ∧ s.faulted (jkPage 1 0) = false ∧
      xfrHeld s 1 (jkSrc d) (jkExtent d) false = false ∧ xfrHeld s (jkTarget d) (jkDst d) (jkExtent d) true = false ∧
      jkWay s 1 0 d = none ∧ descOp d = 1 ∧ (jkSend s 1 0 d).2 = none ∧
      ends (exec (.jkSend 1 0) s) (fun t => t.byte (2 * 2 ^ 48 + 0x400000000002) == 4 &&
        t.pair (jkPage 1 0) 0x044 == 16 && t.pair (jkPage 2 1) 0x04C == 16) = true := by decide +kernel
theorem witness_JukanCommands_2 :
    let d := dsc (0x10 + 2 * 2 ^ 8) (sram1 + 64) (2 * 2 ^ 48 + 0x400000000000) 0
    let s := jkHead d
    xfrHeld s 1 (jkSrc d) (jkExtent d) false = false ∧ xfrHeld s (jkTarget d) (jkDst d) (jkExtent d) true = false ∧
      s.faulted (jkPage 1 0) = false ∧ jkWay s 1 0 d = none ∧ descOp d = 2 ∧ (jkReduce s 1 0 d).2 = none ∧
      ends (exec (.jkReduceLp 1 0) s) (fun t => t.flag (jkPage 1 0) 0x010 3) = true := by decide +kernel
theorem witness_JukanCommands_3 :
    let d := dsc (0x10 + 3 * 2 ^ 8) 0 (2 * 2 ^ 48) (5 + 7 * 2 ^ 6)
    let s := jkHead d
    xfrHeld s 1 (jkSrc d) (jkExtent d) false = false ∧ xfrHeld s (jkTarget d) (jkDst d) (jkExtent d) true = false ∧
      s.faulted (jkPage 1 0) = false ∧ jkWay s 1 0 d = none ∧ descOp d = 3 ∧
      ends (exec (.jkSignal 1 0) s) (fun t => (t.box 2 5).db == 0x80) = true := by decide +kernel
theorem witness_JukanCommands_4 :
    ends (exec (.linkError 1 0) r0) (fun t => t.fld (jkPage 1 0) 0x020 15 0 == 0x0707) = true ∧
      ends (exec (.jukanLaneFailed 1 0 2) r0) (fun t => t.flag (jkPage 1 0) 0x040 3) = true := by decide +kernel

/-! ### Mailboxes -/

/-- The manual's example of R383 to R385: mailbox 2 holds a word of the management core; the Bezel sends, sequencer 2 reads and the
host sends. -/
def example383 : State :=
  match exec (.mbxSend .bezel 1 2 0xAA) (r0.modBox 1 2 fun b => { b with full := true, word := 0x11, sender := 5, origin := .mgmt }) with
  | .next t => match exec (.mbxReceive (.seq 2) 1 2) t with
    | .next u => match exec (.mbxSend .host 1 2 0xBB) u with
      | .next v => v
      | _ => r0
    | _ => r0
  | _ => r0
theorem test_mailbox_example :
    let b := example383.box 1 2
    b.word = 0xBB ∧ b.full = true ∧ b.sender = 6 ∧ b.collision = true ∧ (example383.box 1 4).db = 0x20000000 ∧
      (example383.box 1 16).db = 0x80000000 ∧ example383.out = [.value (.seq 2) 0xAA] := by decide +kernel
theorem witness_Mailboxes_1 :
    let s := r0.modBox 1 2 fun b => { b with full := true, word := 0x11, origin := .mgmt }
    s.domOn 1 7 = true ∧ (s.box 1 2).full = true ∧ boxReady s 1 2 = false ∧ homeBox 1 (s.box 1 2).origin = some (1, 4) ∧
      ends (exec (.mbxTimeout 1 2) s) (fun t => (t.box 1 2).timeout && (t.box 1 4).db == 0x40000000) = true := by decide +kernel
theorem witness_Mailboxes_2 :
    let s := r0.modBox 1 30 fun b => { b with full := true, word := 0x11, origin := .host }
    homeBox 1 (s.box 1 30).origin = none ∧
      ends (exec (.mbxSend .bezel 1 30 7) s) (fun t => t.flag (mbxPage 1 30) 0x010 6 && (t.box 1 30).word == 7) = true := by
  decide +kernel
theorem witness_DoorbellsPend_1 :
    let s := r0.modBox 1 30 fun b => { b with dbEn := 4 }
    mayWrite s .mgmt (stackPage 1 .mbx 1) (0x210 + 14 * 0x20) = true ∧ (3 : Word) &&& (s.box 1 30).dbEn = 0 ∧
      (4 : Word) &&& (s.box 1 30).dbEn ≠ 0 ∧ (s.box 1 30).db &&& (s.box 1 30).dbEn = 0 ∧
      ends (exec (.mbxDbSet .mgmt 1 30 3) s) (fun t => (t.box 1 30).db == 3 && !t.flag (stackPage 1 .mbx 1) 0x010 3) = true ∧
      ends (exec (.mbxDbSet .mgmt 1 30 4) s) (fun t => t.flag (stackPage 1 .mbx 1) 0x010 3) = true := by decide
theorem witness_DoorbellsPend_2 :
    let s := (r0.modBox 1 5 fun b => { b with dbEn := 4 }).setReg (pwrPage 1) 0x044 0
    s.domOn 1 7 = false ∧ mayWrite s .mgmt (stackPage 1 .mbx 0) (0x210 + 5 * 0x20) = true ∧ (4 : Word) &&& (s.box 1 5).dbEn ≠ 0 ∧
      ends (exec (.mbxDbSet .mgmt 1 5 4) s) (fun t => (t.box 1 5).waking) = true := by decide +kernel
theorem witness_DoorbellsPend_3 :
    let d := (sequencing (ksq 0x30 1 0 0 1 0 7) [] .waitdb).modBox 1 2 fun b => { b with db := 0xC, dbEn := 0 }
    (d.seq 1 2).st = .running ∧ (d.seq 1 2).wait = .waitdb ∧
      (d.box 1 2).db &&& ((d.seq 1 2).opB (d.seq 1 2).instr).setWidth 32 ≠ 0 ∧
      ends (exec (.waitdbDone 1 2) d) (fun t => (t.box 1 2).db == 8 && (t.seq 1 2).pc == 1) = true := by decide +kernel

/-! ### Formats and addresses -/

/-- The example of R62: 470 overflows to 448 and -300 rounds to -288 in E4M3. -/
theorem test_e4m3_examples :
    toFmt e4m3 .rne true (.fin false 470 0) = (0x7E, ⟨true, true, false, false⟩) ∧ (toFmt e4m3 .rne true (.fin false 460 0)).1 = 0x7E ∧
      (toFmt e4m3 .rne true (.fin false 460 0)).2.of_ = false ∧ (toFmt e4m3 .rne true (.fin true 300 0)).1 = 0xF9 := by decide +kernel
/-- The example of R79: the SR of 1 + 2^-10 to BF16 by 16 bits. -/
theorem test_sr_example :
    ([0xE000, 0xFFFF, 0xE3A1].all fun r => (toFmt bf16 (modeOf 4 16 r) false (f32 0x3F802000)).1 == 0x3F81) = true ∧
      ([0, 0xDFFF].all fun r => (toFmt bf16 (modeOf 4 16 r) false (f32 0x3F802000)).1 == 0x3F80) = true := by decide +kernel
/-- The example of R292. -/
theorem test_channel_examples : lpddrChannel 0x1234567800 = 0xA ∧ lpddrChannel 0x1234577800 = 0xB := by decide
/-- The example of R123 and R132: four products aligned at W = 30, with the second and third inexact. -/
theorem test_align_example :
    align (.fin false 3 (-2)) 30 = some (.num 12, false) ∧ align (.fin true 3 (-5)) 30 = some (.num (-2), true) ∧
      align (.fin false 3 (-5)) 30 = some (.num 1, true) ∧ align (.fin true 5 (-1)) 30 = some (.num (-40), false) := by decide +kernel

/-! ### The Bezel -/

theorem witness_BezelCommands_1 :
    let s := (r0.setReg (bzlPage 0) 0x050 2).modSlot 1 fun k => { k with filled := true }
    let u := s.modSt 0 fun x => { x with bzlBuf := [(0, 2)] }
    mayWrite r0 .mgmt (bzlPage 0) 0x040 = true ∧ mayWrite r0 .mgmt (bzlPage 3) 0x040 = true ∧
      ends (exec (.sealDrop .mgmt 0) u) (fun t => !(t.slot 1).filled && t.fld (bzlPage 0) 0x044 15 4 == 7) = true ∧
      ends (exec (.sealDrop .mgmt 0) r0) (fun t => t.fld (bzlPage 0) 0x044 15 8 == 1) = true ∧
      ends (exec (.sealEk .mgmt 0) r0) (fun t => t.fld (bzlPage 0) 0x044 15 8 == 5) = true ∧
      ends (exec (.config .mgmt 3) r0) (fun t => t.fld (bzlPage 3) 0x044 15 8 == 7 && t.fld (bzlPage 3) 0x044 7 4 == 4) = true := by
  decide +kernel
theorem witness_BezelCommands_2 :
    let s := r0.modBzl fun b => { b with wipePending := true }
    s.mod.bzl.wipePending = true ∧ s.mod.pwr.resetHeld = false ∧ s.domOn 0 7 = true := by decide

/-! ### The Locket -/

def wanted : RecReq :=
  { src := ⟨4, 2, 1⟩, order := 5, code := 0x0211, payload := [1, 2, 3], time := 9, timeValid := true, pos := 0, posValid := false }
def scanned : State := r0.modLkt fun l => { l with scanned := true, next := 7, last := 6, reqs := [wanted] }
theorem witness_LocketCommands_1 :
    grantNext false scanned.mod.lkt.reqs = some wanted ∧ locketReady scanned = true ∧
      ends (exec (.locketWrite false true) scanned) (fun t => t.mod.lkt.last == 7 && t.mod.lkt.reqs == [] &&
        (slotBytes (t.mod.lkt.slot 7)).take 8 == [7, 0, 0, 0, 0, 0, 0, 0]) = true ∧
      ends (exec (.locketWrite false false) scanned) (fun t => t.mod.lkt.spareUsed == 1) = true := by decide +kernel
theorem witness_LocketCommands_2 :
    r0.mod.lkt.scanned = false ∧ r0.domOn 0 7 = true ∧
      ends (exec .locketScanDone r0) (fun t => t.mod.lkt.scanned && t.mod.lkt.last == 0 && t.mod.lkt.next == 1) = true := by
  decide +kernel
theorem witness_LocketCommands_3 :
    let s := r0.modLkt fun l => { l with winA := { l.winA with loading := true, cur := 5, autoAdv := true } }
    let u := r0.modLkt fun l => { l with winA := { l.winA with cur := 5, autoAdv := true } }
    (∀ win : Bool, mayWrite r0 .mgmt lktPage (if win then 0x108 else 0x088) = true ∧
      mayWrite r0 .mgmt lktPage (if win then 0x100 else 0x080) = true) ∧
      (s.mod.lkt.window false).loading = true ∧ (u.mod.lkt.window false).loading = false ∧
      ends (exec (.locketWindowLoadDone false false) s) (fun t => t.fld lktPage 0x020 15 0 == 0x0210 && t.mod.lkt.winA.ecc) = true ∧
      ends (exec (.locketWin15Read .mgmt false) u) (fun t => t.mod.lkt.winA.cur == 6 && t.mod.lkt.winA.loading) = true := by
  decide +kernel
theorem witness_LocketCommands_4 :
    let s := r0.setReg lktPage 0x180 0x8004
    mayWrite s .mgmt lktPage 0x19C = true ∧ s.fld lktPage 0x180 15 0 = 0x8004 ∧ fwBusy s = false ∧
      ends (exec (.lktFwGo .mgmt) s) (fun t => t.mod.lkt.reqs.map (·.code) == [0x8004]) = true ∧
      (r0.setReg lktPage 0x180 0x8003).fld lktPage 0x180 15 0 < 0x8004 ∧
      ends (exec (.lktFwGo .mgmt) (r0.setReg lktPage 0x180 0x8003)) (fun t => t.mod.lkt.fwReject) = true := by decide +kernel

/-- The check value of R437. -/
theorem test_crc : crc32c (ascii "123456789") = 0xE3069283 := by decide +kernel
theorem witness_RecordsStay_1 :
    Instr.locketWrite false true ≠ .wipeComplete ∧
      ends (exec (.locketWrite false true) scanned) (fun t => t.mod.lkt.last == 7) = true := by decide +kernel

/-! ### Restoring, calibration and resets -/

/-- The firmware runs, and a restore block of step 9 with 4 committed lies at offset 256 of stack 0's SRAM. -/
def blockPlaced : State :=
  { r0.modSt 0 fun x => { x with pwr := { x.pwr with firmware := true } } with
    mem := [(0x400000000100, 1), (0x400000000108, 9), (0x400000000110, 4)] }
theorem witness_RestoreAndCal_1 :
    (0x52000001 : Word).toNat / 2 ^ 24 = 0x52 ∧ (blockPlaced.st 0).pwr.firmware = true ∧
      restoreReason blockPlaced (sramBase 0 + 256) = 0 ∧ restoreReason blockPlaced (sramBase 0 + 512) = 1 ∧
      ends (exec (.restoreBlock 0x52000001) blockPlaced) (fun t => (t.st 5).clp.step == 9 && (t.st 5).clp.committed == 4) = true ∧
      ends (exec (.restoreBlock 0x52000002) blockPlaced) (fun t => (t.box 0 20).word == 0x52FF0001) = true := by decide +kernel
theorem witness_RestoreAndCal_2 :
    let s := { r0 with mod := { r0.mod with cal := { r0.mod.cal with commit := true, other := [(0, 1)] } } }
    mayWrite r0 .mgmt calPage 0x050 = true ∧ s.mod.cal.commit = true ∧ r0.mod.cal.commit = false ∧
      (imgCheck r0 []).1 = 1 ∧ ends (exec (.calCommit .mgmt) { r0 with mod := { r0.mod with cal := { r0.mod.cal with staging := [] } } })
        (fun t => t.reg calPage 0x054 == 1) = true ∧
      ends (exec (.calCopy .mgmt) s) (fun t => t.flag calPage 0x040 3) = true ∧
      ends (exec (.calCommitDone true) s) (fun t => t.mod.cal.active == [(0, 1)] && !t.mod.cal.commit) = true := by decide +kernel

theorem witness_ResetCommands_1 :
    r0.mod.pwr.thermtripN = false ∧ allCool r0 = true ∧
      allCool (r0.modSt 1 fun x => { x with pwr := { x.pwr with junction := 400 } }) = false ∧
      (r0.modPm fun p => { p with thermtripN := true }).mod.pwr.thermtripN = true ∧
      (r0.modPm fun p => { p with clocksStopped := true }).mod.pwr.clocksStopped = true ∧
      (r0.modPm fun p => { p with refclkLost := true }).mod.pwr.refclkLost = true ∧
      mayWrite r0 .bezel (pwrPage 3) 0x058 = true ∧ r0.mod.pwr.resetHeld = false ∧ r0.domOn 3 7 = true ∧
      r0.mod.pwr.refclkLost = false ∧ r0.mod.pwr.clocksStopped = false ∧ locketReady scanned = true ∧
      4 * (r0.fld pwrmPage 0x064 7 0 : Int) ≤ 460 := by decide +kernel
theorem witness_ResetCommands_2 :
    ends (exec .resetN r0) (fun t => t.reg pwrmPage 0x044 == 1 && t.mod.pwr.resetHeld) = true ∧
      ends (exec (.powerFail true) scanned) (fun t => t.mod.pwr.clocksStopped && t.mod.lkt.last == 7) = true ∧
      ends (exec (.thermAlert 3 460) r0) (fun t => t.flag pwrmPage 0x058 5) = true ∧
      ends (exec (.refclkLoss true) r0) (fun t => t.mod.pwr.ethRefclkLost) = true := by decide +kernel

/-! ### Domains, start-up, levels and sleep -/

/-- A stack with a domain changing state, from on or from off, with every page quiesced. -/
def changing (isOn : Bool) : State :=
  let s := (((lit 1).setReg (pwrPage 1) 0x040 (if isOn then 0x80 else 0x90)).setReg (pwrPage 1) 0x044 (if isOn then 0x1090 else 0x1080))
  [stackPage 1 .smp, stackPage 1 .bead, stackPage 1 .fil].foldl (fun s p => s.setReg p 0x008 5) s

/-- Start-up with the first stages complete. -/
def staged (n : Nat) : State := (List.range n).foldl (fun s i => stageComplete s (i + 1)) r0
def allWell : StageReport := { untrained := [], unpaired := [], fuseOk := true }

/-- An image of eight zero bytes of code in the NOR flash, its key's hash in the fuses: its signature is the one thing the model
leaves open. -/
def imageNor (hash : List Byte) : Sparse Byte :=
  [(0, 0x4B), (1, 0x46), (2, 0x57), (3, 0x4D), (4, 1), (12, 8)] ++ (List.range 64).map fun i => (16 + i, hash.getD i 0)
def imaged : State :=
  (staged 1).modBzl fun b =>
    { b with nor := imageNor (shake (List.replicate 8 0) 64), keyHash := Vector.replicate 4 (val256 (shake (List.replicate 1952 0) 32)) }
theorem image_zeros (hash : List Byte) (a n : Nat) (h : 80 ≤ a) :
    Sparse.getList (fun _ => (0 : Byte)) (imageNor hash) a n = List.replicate n 0 := by
  have none_ : ∀ (m : Sparse Byte) (k : Nat), (∀ e ∈ m, e.1 ≠ k) → Sparse.find m k = none := by
    intro m
    induction m with
    | nil => intro k _; rfl
    | cons e m ih =>
      intro k hk
      rw [show Sparse.find (e :: m) k = if e.1 = k then some e.2 else Sparse.find m k from rfl,
        if_neg (hk e (by simp)), ih k fun x hx => hk x (by simp [hx])]
  induction n generalizing a with
  | zero => rfl
  | succ n ih =>
    have : Sparse.get (fun _ => (0 : Byte)) (imageNor hash) a = 0 := by
      rw [Sparse.get, none_ _ a ?_]
      · rfl
      · intro e he
        simp only [imageNor, List.cons_append, List.nil_append, List.mem_cons, List.mem_map, List.mem_range] at he
        rcases he with rfl | rfl | rfl | rfl | rfl | rfl | ⟨i, hi, rfl⟩ <;> dsimp only <;> omega
    exact List.cons_eq_cons.mpr ⟨this, ih (a + 1) (by omega)⟩
theorem image_hash (hash : List Byte) (h : hash.length = 64) :
    Sparse.getList (fun _ => (0 : Byte)) (imageNor hash) 16 64 = hash := by
  rw [show Sparse.getList (fun _ => (0 : Byte)) (imageNor hash) 16 64 = (List.range 64).map fun i => hash.getD i 0 from rfl]
  apply List.ext_getElem
  · simp [h]
  · intro i h1 h2
    simp [List.getD_eq_getElem?_getD, h2]
theorem image_verifies
    (h : Config.dsaVerify (List.replicate 1952 0) (norReader imaged 0 128) (ascii "KX-FW") (List.replicate 3309 0) = true) :
    verifyImage imaged (norReader imaged) = none := by
  have z : ∀ a n, 80 ≤ a → norReader imaged a n = List.replicate n 0 := fun a n ha => image_zeros _ a n ha
  have hh : norReader imaged 16 64 = shake (List.replicate 8 0) 64 := image_hash _ (slice_length _ _ _)
  have zero : ∀ n, leNat (List.replicate n (0 : Byte)) = 0 := by
    intro n
    induction n with
    | zero => rfl
    | succ n ih =>
      have e : leNat (List.replicate (n + 1) (0 : Byte)) = 0 + 256 * leNat (List.replicate n (0 : Byte)) := rfl
      rw [e, ih]
  have hc : fwCodeBytes (norReader imaged) = 8 := rfl
  have hk : fwKeySlot (norReader imaged) = 0 := rfl
  have hl : fwLayoutOk (norReader imaged) = true := by
    unfold fwLayoutOk
    rw [z 80 48 (by omega), z 5389 2803 (by omega), zero, zero, hc, hk, show fwSvnOf (norReader imaged) = 0 from rfl,
      show leNat (norReader imaged 0 4) = 0x4D57464B from rfl, show leNat (norReader imaged 4 2) = 1 from rfl]
    decide
  unfold verifyImage
  rw [hl, hk, hc, z 128 1952 (by omega), z 2080 3309 (by omega), z 8192 8 (by omega), hh, h,
    show fwSvnOf (norReader imaged) = 0 from rfl]
  simp [imaged, State.modBzl]
  rfl

theorem witness_DomainsAndStartup_1 :
    let s := (lit 1).setReg (pwrPage 1) 0x044 0x81
    mayWrite s .mgmt (pwrPage 1) 0x040 = true ∧ s.mod.pwr.sleepTarget = 0 ∧ s.domOn 1 0 = true ∧ s.domOn 1 4 = false ∧
      swapHolds s 1 0 = false ∧ (∀ k < 7, inTransit s 1 k = false) ∧
      ends (exec (.pwrDomReq .mgmt 1 0x90) s) (fun t => t.reg (pwrPage 1) 0x040 == 0x90 && inTransit t 1 4 && inTransit t 1 0) = true := by
  decide +kernel
theorem witness_DomainsAndStartup_2 :
    inTransit (changing false) 1 4 = true ∧ (changing false).domOn 1 4 = false ∧ (changing false).flag (pwrPage 1) 0x040 4 = true ∧
      inTransit (changing true) 1 4 = true ∧ (changing true).domOn 1 4 = true ∧ (changing true).flag (pwrPage 1) 0x040 4 = false ∧
      (domainPages (changing true) 1 4).all (quiesced (changing true)) = true ∧
      ends (exec (.domainPowerUp 12) (changing false)) (fun t => t.domOn 1 4 && !inTransit t 1 4) = true ∧
      ends (exec (.domainFailed 12) (changing false)) (fun t => t.fld pwrmPage 0x020 15 0 == 0x0B06) = true ∧
      ends (exec (.domainPowerDown 12) (changing true)) (fun t => !t.domOn 1 4 && !inTransit t 1 4) = true := by decide +kernel
/-- Every stage but the second finds those before it complete; the second has an image that verifies, or none. -/
theorem witness_DomainsAndStartup_3 :
    (∀ j < 7, (∀ i ≤ j, 1 ≤ i → stageDone (staged j) i = true) ∧ stageDone (staged j) (j + 1) = false) ∧
      r0.mod.pwr.resetHeld = false ∧ r0.mod.bzl.recovery = false ∧ r0.mod.bzl.wipePending = false ∧ r0.clocked = true ∧
      r0.domOn 0 7 = true ∧ r0.mod.pwr.refclkLost = false ∧ allWell.unpaired = [] ∧ allWell.untrained = [] ∧ allWell.fuseOk = true ∧
      verifyImage (staged 1) (norReader (staged 1)) = some 1 := by decide +kernel
theorem witness_DomainsAndStartup_4
    (h : Config.dsaVerify (List.replicate 1952 0) (norReader imaged 0 128) (ascii "KX-FW") (List.replicate 3309 0) = true) :
    stageDone imaged 1 = true ∧ stageDone imaged 2 = false ∧ verifyImage imaged (norReader imaged) = none :=
  ⟨by decide +kernel, by decide +kernel, image_verifies h⟩
theorem witness_LevelsAndSleep_1 :
    stackRuns r0 0 = true ∧ stackRuns r0 1 = true ∧
      ends (exec (.powerCapWindow [9000] []) (r0.setReg pwrmPage 0x05C 400)) (fun t => t.reg pwrmPage 0x060 == 9000 && capLevel t 3 < 16) =
        true ∧
      (4 * (r0.fld pwrmPage 0x064 15 8 : Nat) : Int) ≤ 400 ∧
      ends (exec (.thermalLevelUpdate 1 400 none) r0) (fun t => thermLevel t 1 == 15 && levelOf t 1 == 15) = true := by decide +kernel
theorem witness_LevelsAndSleep_2 :
    let low := (r0.setFld (pwrPage 1) 0x048 4 0 15).modSt 1 fun x => { x with pwr := { x.pwr with raising := some 16 } }
    (low.st 1).pwr.raising = some 16 ∧ min (capLevel low 1) (thermLevel low 1) = 16 ∧ levelOf low 1 ≠ 16 ∧
      ends (exec (.levelRaiseSwitch 1 none) low) (fun t => levelOf t 1 == 16 && (t.st 1).pwr.raising == none) = true := by decide +kernel
theorem witness_LevelsAndSleep_3 :
    let s := r0.modClp 1 fun c => { c with state := .opened }
    mayWrite r0 .mgmt pwrmPage 0x048 = true ∧ bitAt (0x12 : Word).toNat 4 = true ∧ r0.mod.pwr.sleepTarget = 0 ∧ sleepReason r0 = 0 ∧
      sleepReason s = 1 ∧
      ends (exec (.pwrSleep .mgmt 0x12) r0) (fun t => t.mod.pwr.sleepTarget == 2) = true ∧
      ends (exec (.pwrSleep .mgmt 0x12) s) (fun t => t.reg pwrmPage 0x04C == 0x100) = true := by decide +kernel
theorem witness_LevelsAndSleep_4 :
    let s := (r0.modPm fun p => { p with sleepTarget := 2 }).setReg pwrmPage 0x050 4
    s.mod.pwr.sleepTarget ≠ 0 ∧ s.mod.pwr.sleeping = false ∧
      (∀ st : Fin 8, ∀ k ∈ sleepDomains s.mod.pwr.sleepTarget, s.domOn st k = false) ∧
      ends (exec .sleepEntered s) (fun t => t.mod.pwr.sleeping) = true ∧ s.flag pwrmPage 0x050 2 = true ∧
      s.mod.pwr.resetHeld = false ∧ s.mod.pwr.thermtripN = false ∧
      ends (exec (.wake 2) s) (fun t => t.mod.pwr.sleepTarget == 0 && t.flag pwrmPage 0x054 2) = true := by decide +kernel

/-! ### Time and the board's bus -/

theorem witness_ClockAndBoardBus_1 :
    let s := r0.setReg pwrmPage 0x078 2
    let u := s.modPm fun p => { p with rtcWaits := true }
    mayWrite r0 .mgmt pwrmPage 0x070 = true ∧ r0.fld pwrmPage 0x078 1 0 ≠ 2 ∧ s.fld pwrmPage 0x078 1 0 = 2 ∧
      ends (exec (.rtcSet .mgmt 5) r0) (fun t => t.mod.pwr.rtc == 5) = true ∧
      ends (exec (.rtcSet .mgmt 5) s) (fun t => t.mod.pwr.rtcWaits && t.reg pwrmPage 0x070 == 5) = true ∧
      ends (exec .ppsIn u) (fun t => !t.mod.pwr.rtcWaits && t.flag pwrmPage 0x078 2) = true := by decide +kernel
/-- The example of R483: the bytes written, and the value read, for PWR_TEMP of stack 3 at 86.0 degrees. -/
def askTemp : List Byte := [0x50, 0x00, 0x3A, 0x00, 0x00, 0x7F, 0x03, 0x00]
def warm : State :=
  (r0.setReg (pwrPage 3) 0x050 0x158).modSt 0 fun x => { x with pwr := { x.pwr with firmware := true } }
theorem test_management_read :
    ends (exec .i3cPrivateRead warm) (fun t => t.out == [.i3c []]) = true ∧
      (match exec (.i3cPrivateWrite askTemp) warm with
        | .next t => ends (exec .i3cPrivateRead t) fun u => u.out == [.i3c [0x58, 0x01, 0, 0]]
        | _ => false) = true := by decide +kernel
theorem witness_ClockAndBoardBus_2 :
    let cap : List Byte := leBytes (0xF7F0000000000 + pwrmPage.no * 4096 + 0x05C) 8 ++ [0xF4, 1, 0, 0]
    i3cReadable warm (leNat (slice askTemp 0 8)) = some (pwrPage 3, 0x050) ∧ (warm.st 0).pwr.firmware = true ∧
      cap.length = 12 ∧ i3cReadable warm (leNat (slice cap 0 8)) = some (pwrmPage, 0x05C) ∧
      ends (exec (.i3cPrivateWrite cap) warm) (fun t => t.reg pwrmPage 0x05C == 500) = true ∧
      ends (exec (.i3cPrivateWrite [1]) warm) (fun t => t.out == [.i3c []]) = true := by decide +kernel
theorem witness_ClockAndBoardBus_3 :
    let s := { r0 with mod := { r0.mod with bus := { r0.mod.bus with dynamic := none, ready := some 7 } } }
    s.mod.bus.dynamic = none ∧ s.mod.bus.ready = some 7 ∧ r0.mod.bus.ready = none ∧
      ends (exec (.commonCommandCode 0x87 0x42) s) (fun t => t.mod.bus.dynamic == some 0x21) = true ∧
      ends (exec (.commonCommandCode 0x06 0) s) (fun t => t.mod.bus.dynamic == none) = true ∧
      (0x55 : Byte) ∉ ([0x06, 0x07, 0x87, 0x8D, 0x8E, 0x8F, 0x90] : List Byte) := by decide +kernel

/-! ### Frames -/

theorem witness_CommandsKeepWhatIsNotTheirs_1 :
    ends (exec (.openStep .mgmt 2) r0) (fun t => (t.st 2).clp.state == .opened) = true ∧
      (Kind.queues ∉ footprint (.openStep .mgmt 2)) := by decide +kernel
theorem witness_NeighboursKept_1 :
    let g := segment 0 1
    Instr.nop 1 2 ∈ ksqCommands 1 2 ∧ Instr.nop 1 2 ≠ .wrr 1 2 ∧
      ends (exec (.nop 1 2) (sequencing (ksq 0x3F 0 0 0 0 0 0) [])) (fun t => (t.seq 1 2).pc == 1) = true ∧
      ends (exec (.mxCfgWrite .mgmt 1 5 0xD) r0) (fun t => t.reg (mxPage 1 5) 0x040 == 0xD) = true ∧
      ends (exec (.mbxSend .mgmt 1 5 7) r0) (fun t => (t.box 1 5).word == 7) = true ∧
      ends (exec (.collStartSegment 1 0 g) peered) (fun t => (t.chan 1 2).held == [(1, 0)]) = true := by decide +kernel

end Sys2Proof.Tests
end

section
/-! What every command keeps. `Kept s t` (the part, the commands that wait and the canonical form) is shown of each operation of
the model once, as `kept_<name>`, from those of the operations that it calls. -/

-- One proof at a time: the stacks of many side by side would take the memory that the check allows.
set_option Elab.async false

namespace Sys2Proof.Safety

open Machine

namespace Kept

variable {s t u : State}

theorem ite {c : Prop} [Decidable c] (h : Kept s t) (g : Kept s u) : Kept s (if c then t else u) := by
  split <;> assumption

/-- The state of a result that was taken apart. -/
theorem fst_of {α : Type} {r : State × α} {x : α} (h : Kept s r.1) (e : r = (t, x)) : Kept s t := by
  subst e; exact h

/-- A fold that carries more than the state. -/
theorem foldl_fst {α β : Type} {f : State × β → α → State × β} (hf : ∀ x a, Kept x.1 (f x a).1) (l : List α)
    (x : State × β) : Kept x.1 (l.foldl f x).1 := by
  induction l generalizing x with
  | nil => exact .refl _
  | cons a l ih => exact (hf x a).trans (ih _)

end Kept

end Sys2Proof.Safety

namespace Sys2Proof.Laws

open Machine Safety

/-! ### What the form does not look at, and registers and queues at large -/

theorem kept_apart (s : State) (free : Nat) (staged latched : Sparse Word) (mod : Module) (out : List Output) :
    Kept s { s with free := free, staged := staged, latched := latched, mod := mod, out := out } :=
  .of_eq rfl rfl rfl rfl rfl rfl

theorem kept_drawElapsed (s : State) : Kept s s.drawElapsed.2 := kept_apart ..

/-- A change of a stack, or of its power state, that loses no key. -/
theorem kept_modStack (s : State) (i : Fin 8) (f : Stack → Stack)
    (h : ∀ x, (f x).pwr.keyEpoch = x.pwr.keyEpoch := by intro _; rfl) : Kept s (s.modSt i f) := kept_modSt s i h
theorem kept_modPower (s : State) (i : Fin 8) (f : Power → Power)
    (h : ∀ x, (f x).keyEpoch = x.keyEpoch := by intro _; rfl) : Kept s (s.modPwr i f) := kept_modPwr s i h

/-- Registers, queues and halves of registers that are forgotten. -/
theorem kept_clearPage (s : State) (p : Page) (kept : Nat → Bool) : Kept s (clearPage s p kept) :=
  ⟨rfl, rfl, fun ⟨a, b, c⟩ =>
    ⟨Laws.Sparse.wf_keep (regDefault s.part) (fun k => (k / 4096 != p.key 0 / 4096) || kept (k % 4096)) a, b, c⟩⟩

theorem wf_foldl_del {α : Type} {d : Nat → α} [DecidableEq α] (key : Nat → Nat) (l : List Nat) (m : Sparse α)
    (h : Sparse.wf d m = true) : Sparse.wf d (l.foldl (fun m q => Sparse.del m (key q)) m) = true := by
  induction l generalizing m with
  | nil => exact h
  | cons q l ih => exact ih _ (Laws.Sparse.wf_del _ _ h)

theorem kept_dropQueues (s : State) (p : Page) : Kept s (dropQueues s p) :=
  ⟨rfl, rfl, fun ⟨a, b, c⟩ => ⟨a, b, wf_foldl_del _ _ _ c⟩⟩

end Sys2Proof.Laws
end

section
/-! What regions and the maintenance arbiter keep. -/

-- One proof at a time: the stacks of many side by side would take the memory that the check allows.
set_option Elab.async false

namespace Sys2Proof.Laws

open Machine Safety

/-! ### Regions and the maintenance arbiter -/

theorem kept_rgnReject (s : State) (st : Fin 8) : Kept s (rgnReject s st) :=
  (kept_setFlag ..).trans (kept_raiseEvt ..)

theorem kept_regionWrite (s : State) (st : Fin 8) (v : Word) : Kept s (regionWrite s st v) :=
  .ite (kept_modRegion ..) (kept_rgnReject ..)

theorem kept_regionStage (s : State) (st : Fin 8) (size : Bool) (hi lo : Word) :
    Kept s (regionStage s st size hi lo) :=
  .ite (kept_modRegion ..) (kept_rgnReject ..)

theorem kept_setRetraining (s : State) (st : Fin 8) (ch : Nat) (on : Bool) : Kept s (setRetraining s st ch on) :=
  kept_setFlag ..

theorem kept_activityStart (s : State) (st : Fin 8) (a : Activity) : Kept s (activityStart s st a) :=
  .ite ((kept_modArb ..).trans (kept_countWrap ..) |>.trans (kept_raiseEvt ..)
    |>.trans (kept_setRetraining ..)) ((kept_modArb ..).trans (kept_countWrap ..) |>.trans (kept_raiseEvt ..))

theorem kept_arbRecord (s : State) (st : Fin 8) (a : Activity) (status : Nat) : Kept s (arbRecord s st a status) :=
  kept_locketRequest ..

theorem kept_refuseActivity (s : State) (st : Fin 8) (a : Activity) (status : Nat) :
    Kept s (refuseActivity s st a status) :=
  (kept_countSat ..).trans (kept_arbRecord ..) |>.trans (kept_raiseEvt ..)

theorem kept_submit (s : State) (st : Fin 8) (sub act scope : Nat) : Kept s (submit s st sub act scope).1 := by
  unfold submit
  dsimp only
  split
  · dsimp only
    exact (kept_modArb ..).trans (kept_activityStart ..)
  · dsimp only
    exact (kept_modArb ..).trans (kept_modArb ..)
  · dsimp only
    exact (kept_modArb ..).trans (kept_refuseActivity ..)

theorem kept_swapRecord (s : State) (st : Fin 8) (act scope outcome old new : Nat) :
    Kept s (swapRecord s st act scope outcome old new) :=
  kept_locketRequest ..

theorem kept_markDead (s : State) (st : Fin 8) (act scope : Nat) : Kept s (markDead s st act scope) := by
  unfold markDead
  split
  · exact .ite (kept_setFlag ..) (kept_setFlag ..)
  · exact .ite (kept_setFlag ..) (kept_setFlag ..)
  · exact kept_setFlag ..

theorem kept_unitDead (s : State) (st : Fin 8) (act scope : Nat) : Kept s (unitDead s st act scope) := by
  unfold unitDead
  dsimp only
  split
  · split
    · exact (kept_drawFree ..).trans (kept_markDead ..) |>.trans (kept_recordFault ..) |>.trans (kept_raiseEvt ..)
          |>.trans (kept_swapRecord ..) |>.trans (kept_modSeq ..)
    · exact (kept_drawFree ..).trans (kept_markDead ..) |>.trans (kept_recordFault ..) |>.trans (kept_raiseEvt ..)
          |>.trans (kept_swapRecord ..)
  · exact (kept_drawFree ..).trans (kept_markDead ..) |>.trans (kept_recordFault ..) |>.trans (kept_raiseEvt ..)
        |>.trans (kept_swapRecord ..)

theorem kept_submitOrDie (s : State) (st : Fin 8) (sub act scope : Nat) :
    Kept s (submitOrDie s st sub act scope).1 := by
  unfold submitOrDie
  split
  · dsimp only
    exact kept_unitDead ..
  · exact kept_submit ..

theorem kept_arbSubmitWrite (s : State) (r : Requester) (st : Fin 8) (v : Word) :
    Kept s (arbSubmitWrite s r st v) :=
  .ite ((kept_submitOrDie ..).trans (kept_setReg ..)) (.refl _)

theorem kept_compact (s : State) : Kept s (compact s) :=
  .ite ((kept_drawFree ..).trans (kept_modLkt ..) |>.trans (kept_raiseEvt ..)
    |>.trans (kept_locketRequest ..)) (kept_drawFree ..)

theorem kept_dropActivity (s : State) (st : Fin 8) (act scope : Nat) : Kept s (dropActivity s st act scope) :=
  kept_modArb ..

theorem kept_endWaiting (s : State) (st : Fin 8) (a : Activity) : Kept s (endWaiting s st a) :=
  .ite (Kept.ite ((kept_modArb ..).trans (kept_refuseActivity ..)
    |>.trans (kept_setFld ..)) ((kept_modArb ..).trans (kept_refuseActivity ..)) |>.trans (.foldl
    (fun _ _ => kept_modStack ..) _ _)) (Kept.ite ((kept_modArb ..).trans (kept_refuseActivity ..)
    |>.trans (kept_setFld ..)) ((kept_modArb ..).trans (kept_refuseActivity ..)))

theorem kept_modActivity (s : State) (st : Fin 8) (act scope : Nat) (f : Activity → Activity) :
    Kept s (modActivity s st act scope f) :=
  kept_modArb ..

theorem kept_retireSpare (s : State) (st : Fin 8) (act i : Nat) : Kept s (retireSpare s st act i) :=
  .ite (kept_setFlag ..) (kept_setFlag ..)

theorem kept_swapCopied (s : State) (st : Fin 8) (act scope : Nat) (spareOk : Bool) :
    Kept s (swapCopied s st act scope spareOk) := by
  unfold swapCopied
  dsimp only
  split
  · exact .refl _
  · exact .ite (.refl _) (Kept.ite
        (.refl _) (Kept.ite (kept_modActivity ..) ((kept_dropActivity ..).trans (kept_retireSpare ..)
        |>.trans (kept_swapRecord ..))))

theorem kept_mapSpare (s : State) (st : Fin 8) (act scope i : Nat) : Kept s (mapSpare s st act scope i) :=
  .ite ((Kept.foldl (fun _ _ => (kept_setFlag ..).trans (kept_setFlag ..)) _ _).trans (kept_setFld ..)
    |>.trans (kept_setFlag ..)) ((kept_setFld ..).trans (kept_setFlag ..))

theorem kept_swapCompleted (s : State) (st : Fin 8) (act scope : Nat) : Kept s (swapCompleted s st act scope) := by
  unfold swapCompleted
  dsimp only
  split
  · exact .refl _
  · exact .ite ((kept_dropActivity ..).trans (kept_mapSpare ..) |>.trans (kept_raiseEvt ..)
        |>.trans (kept_swapRecord ..)) (.refl _)

theorem kept_sramRepair (s : State) (st : Fin 8) (bank : Nat) : Kept s (sramRepair s st bank) :=
  .ite ((kept_setFld ..).trans (kept_setFlag ..)) (Kept.ite (kept_setFld ..) (Kept.ite ((kept_setFld ..).trans
    (kept_submit ..) |>.trans (kept_setFlag ..)) ((kept_setFld ..).trans (kept_submit ..))))

theorem kept_pprRecord (s : State) (st : Fin 8) (dev outcome : Nat) : Kept s (pprRecord s st dev outcome) :=
  kept_locketRequest ..

theorem kept_softRepair (s : State) (st : Fin 8) (dev : Nat) : Kept s (softRepair s st dev) :=
  .ite ((kept_setFlag ..).trans (kept_pprRecord ..)) (Kept.ite
    (.refl _) (Kept.ite ((kept_submit ..).trans (kept_setFlag ..)) (kept_submit ..)))

end Sys2Proof.Laws
end

section
/-! What the matrix engine keeps. -/

-- One proof at a time: the stacks of many side by side would take the memory that the check allows.
set_option Elab.async false

namespace Sys2Proof.Laws

open Machine Safety

/-! ### The matrix engine -/

theorem kept_finishAt (s : State) (st : Fin 8) (q i : Nat) (clean : Bool) : Kept s (finishAt s st q i clean) := by
  unfold finishAt
  dsimp only
  split
  · exact (kept_modQueue ..).trans (kept_quiesceRise ..)
  · exact kept_modQueue ..

theorem kept_runAt (s : State) (st : Fin 8) (q i : Nat) : Kept s (runAt s st q i) :=
  kept_modQueue ..

theorem kept_mxRetire (s : State) (st : Fin 8) (c i : Nat) : Kept s (mxRetire s st c i) :=
  .ite (kept_finishAt ..) ((kept_finishAt ..).trans (kept_raiseEvt ..))

theorem kept_returnAdvance (s : State) (st : Fin 8) (c : Nat) (own : Option Nat) :
    Kept s (returnAdvance s st c own) :=
  kept_modQueue ..

theorem kept_mxFault (s : State) (st : Fin 8) (c i : Nat) (d : Desc) (cls det high addr : Nat) :
    Kept s (mxFault s st c i d cls det high addr) :=
  (kept_recordFault ..).trans (kept_returnAdvance ..) |>.trans (kept_finishAt ..)

theorem kept_modTile (s : State) (st : Fin 8) (c slot : Nat) (f : MxTile → MxTile) :
    Kept s (modTile s st c slot f) :=
  kept_modCore ..

theorem kept_joinFlags (s : State) (st : Fin 8) (c slot : Nat) (fl : WinFlags) :
    Kept s (joinFlags s st c slot fl) := by
  unfold joinFlags
  split
  · exact .refl _
  · dsimp only
    exact .ite ((Kept.ite ((kept_modTile ..).trans (kept_raiseEvt ..)) (kept_modTile ..)).trans (kept_raiseEvt ..))
        (Kept.ite ((kept_modTile ..).trans (kept_raiseEvt ..)) (kept_modTile ..))

theorem kept_countIssue (s : State) (st : Fin 8) (c cyc sl : Nat) : Kept s (countIssue s st c cyc sl) :=
  (kept_countPair ..).trans (kept_countPair ..)

theorem kept_countRepeats (s : State) (st : Fin 8) (c slot n : Nat) : Kept s (countRepeats s st c slot n) :=
  .ite (.refl _) ((kept_joinFlags ..).trans (kept_countSat ..) |>.trans (kept_raiseEvt ..))

theorem kept_streamPass (s : State) (st : Fin 8) (c i : Nat) (d : Desc) : Kept s (streamPass s st c i d) := by
  unfold streamPass
  dsimp only
  split
  · exact kept_mxFault ..
  · exact kept_mxFault ..
  · split
    · exact kept_mxFault ..
    · split
      · split
        · exact (kept_modCore ..).trans (kept_countIssue ..) |>.trans (kept_countRepeats ..)
              |>.trans (kept_mxFault ..)
        · exact (kept_modCore ..).trans (kept_countIssue ..) |>.trans (kept_countRepeats ..)
              |>.trans (kept_runAt ..) |>.trans (kept_modCore ..)
      · split
        · exact (kept_modCore ..).trans (kept_countIssue ..) |>.trans (kept_modTile ..) |>.trans (kept_joinFlags ..)
              |>.trans (kept_mxFault ..)
        · exact (kept_modCore ..).trans (kept_countIssue ..) |>.trans (kept_modTile ..) |>.trans (kept_joinFlags ..)
              |>.trans (kept_runAt ..) |>.trans (kept_modCore ..)

theorem kept_modBank (s : State) (st : Fin 8) (c b : Nat) (f : MxBank → MxBank) : Kept s (modBank s st c b f) :=
  kept_modCore ..

theorem kept_starveStream (s : State) (st : Fin 8) (c b i : Nat) : Kept s (starveStream s st c b i) := by
  unfold starveStream
  split
  · exact .ite (kept_mxFault ..) (.refl _)
  · exact .refl _

theorem kept_loadBank (s : State) (st : Fin 8) (c i : Nat) (d : Desc) : Kept s (loadBank s st c i d) := by
  unfold loadBank
  dsimp only
  split
  · exact (kept_modBank ..).trans (kept_mxFault ..) |>.trans (kept_starveStream ..)
  · split
    · exact (kept_modBank ..).trans (kept_mxFault ..) |>.trans (kept_starveStream ..)
    · exact (kept_modBank ..).trans (kept_modBank ..) |>.trans (kept_mxRetire ..)

theorem kept_drainTile (s : State) (st : Fin 8) (c i : Nat) (d : Desc) : Kept s (drainTile s st c i d) := by
  unfold drainTile
  dsimp only
  split
  · exact kept_mxFault ..
  · exact .ite (kept_mxFault ..) (Kept.ite (kept_mxFault ..) ((Kept.ite ((kept_rawWrite ..).trans (kept_modTile ..)
        |>.trans (kept_joinFlags ..) |>.trans (kept_modCore ..)) ((kept_rawWrite ..).trans (kept_modTile ..)
        |>.trans (kept_joinFlags ..))).trans (kept_mxRetire ..)))

theorem kept_freeTile (s : State) (st : Fin 8) (c i : Nat) (d : Desc) : Kept s (freeTile s st c i d) := by
  unfold freeTile
  dsimp only
  split
  · exact kept_mxRetire ..
  · exact .ite (kept_mxFault ..) ((kept_modCore ..).trans (kept_mxRetire ..))

theorem kept_mxCfgWrite (s : State) (st : Fin 8) (c : Nat) (v : Word) : Kept s (mxCfgWrite s st c v) :=
  .ite (Kept.ite (.refl _) (kept_setFlag ..)) (kept_setFld ..)

theorem kept_mxFlagsWrite (s : State) (st : Fin 8) (c : Nat) (v : Word) : Kept s (mxFlagsWrite s st c v) :=
  kept_modCore ..

end Sys2Proof.Laws
end

section
/-! What tables, random numbers, the Clasp and the vector engine keep. -/

-- One proof at a time: the stacks of many side by side would take the memory that the check allows.
set_option Elab.async false

namespace Sys2Proof.Laws

open Machine Safety

/-! ### Tables -/

theorem kept_tabFault (s : State) (st : Fin 8) (q : Nat) (d : Desc) (e : TabErr) :
    Kept s (tabFault s st q d e) := by
  unfold tabFault
  split
  · exact .refl _
  · dsimp only
    refine .trans ?_ (kept_finish ..)
    split
    · exact kept_recordFault ..
    · exact kept_memFault ..

theorem kept_tabWrite (s : State) (st : Fin 8) (plan area : Nat) (driven : Bool) (a : Nat) (bs : List Byte) :
    Kept s (tabWrite s st plan area driven a bs).1 := by
  unfold tabWrite
  dsimp only
  split
  · dsimp only
    exact .refl _
  · split
    · dsimp only
      exact .refl _
    · exact kept_engWrite ..

/-! ### Random generation -/

theorem kept_reseed (s : State) (st : Fin 8) (c : Nat) : Kept s (reseed s st c) :=
  (kept_modCore ..).trans (kept_raiseEvt ..)

theorem kept_keyEvent (s : State) (st : Fin 8) (n : Nat) : Kept s (keyEvent s st n) :=
  .foldl (fun _ _ => kept_raiseEvt ..) _ _

theorem kept_startKs (s : State) (st : Fin 8) : Kept s (startKs s st) := by
  unfold startKs
  exact kept_modKeys ..

theorem kept_startKe (s : State) (st : Fin 8) : Kept s (startKe s st) := by
  unfold startKe
  exact kept_modKeys ..

theorem kept_commitIgnored (s : State) (st : Fin 8) : Kept s (commitIgnored s st) :=
  (kept_modKeys ..).trans (kept_keyEvent ..)

theorem kept_commitStepKey (s : State) (st : Fin 8) : Kept s (commitStepKey s st) :=
  .ite ((kept_modKeys ..).trans (kept_startKs ..) |>.trans (.foldl (fun _ _ => kept_reseed ..) _ _)
    |>.trans (kept_keyEvent ..)) (kept_commitIgnored ..)

theorem kept_commitEvalKey (s : State) (st : Fin 8) : Kept s (commitEvalKey s st) :=
  .ite ((kept_modKeys ..).trans (kept_startKe ..) |>.trans (kept_keyEvent ..)) (kept_commitIgnored ..)

theorem kept_requestReseed (s : State) (st : Fin 8) (c : Nat) : Kept s (requestReseed s st c) :=
  .ite (kept_modCore ..) (kept_reseed ..)

/-! ### The Clasp's commands -/

theorem kept_clpRefuse (s : State) (st : Fin 8) (op : Nat) : Kept s (clpRefuse s st op) :=
  kept_recordFault ..

theorem kept_enterEval (s : State) (st : Fin 8) : Kept s (enterEval s st) :=
  (kept_modClp ..).trans (kept_startKe ..)

theorem kept_takeEval (s : State) (st : Fin 8) : Kept s (takeEval s st) :=
  (kept_modClp ..).trans (kept_enterEval ..) |>.trans (kept_ringBits ..) |>.trans (kept_raiseEvt ..)

theorem kept_openStep (s : State) (st : Fin 8) : Kept s (openStep s st) :=
  (kept_modClp ..).trans (kept_startKs ..)

theorem kept_clpCmd (s0 : State) (st : Fin 8) (op : Nat) : Kept s0 (clpCmd s0 st op) := by
  unfold clpCmd
  split
  · exact .refl _
  · dsimp only
    split
    · exact .ite ((Kept.ite (kept_takeEval ..) (.refl _)).trans (kept_openStep ..)) ((Kept.ite (kept_takeEval ..)
          (.refl _)).trans (kept_clpRefuse ..))
    · exact .ite ((Kept.ite (kept_takeEval ..) (.refl _)).trans (kept_modClp ..)) ((Kept.ite (kept_takeEval ..)
          (.refl _)).trans (kept_clpRefuse ..))
    · exact .ite ((Kept.ite (kept_takeEval ..) (.refl _)).trans (kept_modClp ..)) ((Kept.ite (kept_takeEval ..)
          (.refl _)).trans (kept_clpRefuse ..))
    · exact (Kept.ite (kept_takeEval ..) (.refl _)).trans (kept_modClp ..)
    · exact (Kept.ite (kept_takeEval ..) (.refl _)).trans (kept_modClp ..)
    · exact (Kept.ite (kept_takeEval ..) (.refl _)).trans (kept_modClp ..)
    · exact (Kept.ite (kept_takeEval ..) (.refl _)).trans (kept_enterEval ..)
    · exact (Kept.ite (kept_takeEval ..) (.refl _)).trans (kept_modClp ..)
    · exact (Kept.ite (kept_takeEval ..) (.refl _)).trans (kept_clpRefuse ..)

theorem kept_lossReport (s : State) (st : Fin 8) (v : Word) : Kept s (lossReport s st v) :=
  .ite (kept_recordFault ..) (Kept.ite (kept_modClp ..) (Kept.ite ((kept_modClp ..).trans (kept_modClp ..))
    ((Kept.ite ((kept_modClp ..).trans (kept_modClp ..)) ((kept_modClp ..).trans (kept_modClp ..)
    |>.trans (kept_modClp ..))).trans (kept_raiseEvt ..))))

theorem kept_claspEvent (s : State) (st : Fin 8) (pos : DWord) : Kept s (claspEvent s st pos) := by
  unfold claspEvent
  split
  · exact kept_modClp ..
  · exact kept_modClp ..
  · exact kept_modClp ..
  · exact kept_modClp ..

theorem kept_evalEvent (s : State) (st : Fin 8) (slot : Nat) : Kept s (evalEvent s st slot) :=
  .ite (kept_recordFault ..) (Kept.ite (kept_takeEval ..) (kept_modClp ..))

/-! ### The vector chain -/

theorem kept_stickyJoin (s : State) (st : Fin 8) (c k : Nat) : Kept s (stickyJoin s st c k) :=
  kept_setReg .. |>.trans (.foldl (fun _ _ => Kept.ite (kept_raiseEvt ..) (.refl _)) _ _)

theorem kept_writePieces (s : State) (a : Nat) (ps : List (Nat × List Byte)) : Kept s (writePieces s a ps) :=
  .foldl (fun _ _ => kept_rawWrite ..) _ _

theorem kept_writeVreg (s : State) (st : Fin 8) (c r : Nat) (zero : Bool) (out : List (Option Word)) :
    Kept s (writeVreg s st c r zero out) :=
  kept_modCore ..

theorem kept_vcFault (s : State) (st : Fin 8) (c : Nat) (d : Desc) (cls det high addr : Nat) :
    Kept s (vcFault s st c d cls det high addr) :=
  kept_engineFault ..

theorem kept_vcRetire (s : State) (st : Fin 8) (c : Nat) : Kept s (vcRetire s st c) :=
  (kept_finish ..).trans (kept_raiseEvt ..)

theorem kept_lanesAfter (s : State) (st : Fin 8) (c n : Nat) (uses : List (Nat × Nat)) :
    Kept s (lanesAfter s st c n uses) :=
  .foldl (fun _ _ => kept_modCore ..) _ _

theorem kept_runBody (s : State) (st : Fin 8) (c : Nat) (e : Entry) (ts : List TypedStage) (src : RunSource) (upTo : Nat)
    (whole : Bool) : Kept s (runBody s st c e ts src upTo whole) := by
  unfold runBody
  extract_lets
  split
  extract_lets
  split
  next s1 s2 _ _ _ _ =>
  extract_lets s3 s4 s5
  have h1 : Kept s s1 := kept_countPair ..
  have h2 : Kept s s2 := .ite h1 (h1.trans (kept_modCore ..))
  have h3 : Kept s s3 := by
    unfold s3
    split
    · exact h2.trans (kept_writePieces ..)
    · exact h2.trans (kept_writeVreg ..)
    · exact .ite (h2.trans (kept_lossReport ..) |>.trans (kept_countWrap ..) |>.trans (kept_raiseEvt ..)) h2
  have h4 : Kept s s4 := .ite (h3.trans (kept_joinFlags ..)) h3
  have h5 : Kept s s5 := h4.trans (kept_stickyJoin ..)
  exact .ite (h5.trans (kept_lanesAfter ..)) h5

theorem kept_lateReseed (s : State) (st : Fin 8) (c : Nat) : Kept s (lateReseed s st c) :=
  .ite (kept_reseed ..) (.refl _)

theorem kept_vcRun (s : State) (st : Fin 8) (c : Nat) (e : Entry) : Kept s (vcRun s st c e) := by
  unfold vcRun
  extract_lets
  split
  · exact kept_vcFault ..
  split
  · exact kept_vcFault ..
  split
  · exact .refl _
  split
  · exact (kept_countPair ..).trans (kept_runBody ..) |>.trans (kept_vcRetire ..) |>.trans (kept_lateReseed ..)
  · split
    exact (Kept.ite (kept_countPair ..) ((kept_countPair ..).trans (kept_runBody ..))).trans (kept_vcFault ..)
  · exact kept_vcFault ..

theorem kept_setChain (s : State) (st : Fin 8) (c : Nat) (e : Entry) : Kept s (setChain s st c e) :=
  (kept_modCore ..).trans (kept_vcRetire ..)

theorem kept_setVl (s : State) (st : Fin 8) (c : Nat) (e : Entry) : Kept s (setVl s st c e) :=
  (kept_modCore ..).trans (kept_vcRetire ..)

theorem kept_vcSave (s : State) (st : Fin 8) (c : Nat) (e : Entry) : Kept s (vcSave s st c e) := by
  unfold vcSave
  exact .ite (kept_vcFault ..) (Kept.ite (.refl _) ((kept_rawWrite ..).trans (kept_vcRetire ..)))

theorem kept_restoreFrom (s : State) (st : Fin 8) (c l v : Nat) (bs : List Byte) :
    Kept s (restoreFrom s st c l v bs) :=
  .ite ((kept_modCore ..).trans (kept_setReg ..)
    |>.trans (kept_modCore ..)) ((kept_modCore ..).trans (kept_setReg ..) |>.trans (kept_reseed ..)
    |>.trans (kept_stickyJoin ..))

theorem kept_vcRestore (s : State) (st : Fin 8) (c : Nat) (e : Entry) : Kept s (vcRestore s st c e) := by
  unfold vcRestore
  dsimp only
  split
  · exact kept_vcFault ..
  · split
    · exact kept_vcFault ..
    · split
      · exact kept_vcFault ..
      · split
        · exact kept_vcFault ..
        · split
          · exact kept_vcFault ..
          · exact .ite (kept_vcFault ..) ((kept_restoreFrom ..).trans (kept_vcRetire ..))

end Sys2Proof.Laws
end

section
/-! What Bead, Filigree, the transfer engines and Jukan keep. -/

-- One proof at a time: the stacks of many side by side would take the memory that the check allows.
set_option Elab.async false

namespace Sys2Proof.Laws

open Machine Safety

/-! ### Gather -/

/-- A result that was mapped or bound is one of what it was made from. -/
theorem exists_of_map_ok {ε α β : Type} {r : Except ε α} {f : α → β} {y : β} (e : r.map f = .ok y) :
    ∃ a, f a = y := by
  cases r with
  | error _ => cases e
  | ok a => exact ⟨a, Except.ok.inj e⟩

theorem exists_of_bind_ok {ε α β : Type} {r : Except ε α} {f : α → Except ε β} {y : β} (e : r.bind f = .ok y) :
    ∃ a, f a = .ok y := by
  cases r with
  | error _ => cases e
  | ok a => exact ⟨a, e⟩

theorem kept_tabRetire (s : State) (st : Fin 8) (q : Nat) : Kept s (tabRetire s st q) := by
  unfold tabRetire
  split
  · exact (kept_finish ..).trans (kept_raiseEvt ..)
  · exact .refl _

theorem kept_homeRow {s u : State} {st : Fin 8} {t : Table} {no row : Nat} {bs : List Byte}
    (e : homeRow s st t no row = .ok (u, bs)) : Kept s u := by
  unfold homeRow at e
  dsimp only at e
  split at e
  · split at e
    · cases e
    · split at e
      · obtain ⟨_, h⟩ := exists_of_map_ok e
        cases h
        exact kept_countSat ..
      · obtain ⟨_, h⟩ := exists_of_map_ok e
        cases h
        exact .refl _
  · obtain ⟨_, h⟩ := exists_of_map_ok e
    cases h
    exact .refl _

theorem kept_remoteRow {s u : State} {st home : Fin 8} {no row : Nat} {bs : List Byte}
    (e : remoteRow s st home no row = .ok (u, bs)) : Kept s u := by
  unfold remoteRow at e
  dsimp only at e
  split at e
  · cases e
  · split at e
    · cases e
    · split at e
      · cases e
      · exact kept_homeRow e

theorem kept_beadSticky (s : State) (st : Fin 8) (k : Nat) : Kept s (beadSticky s st k) :=
  .ite ((kept_setReg ..).trans (kept_raiseEvt ..)) (kept_setReg ..)

theorem kept_gatherRow {st : Fin 8} {t : Table} {no x a : Nat} {g u : Gather} {vs : List Val}
    (e : gatherRow st t no x a g = .ok (u, vs)) : Kept g.s u.s := by
  have hf : ∀ (s : State) (r : Bool), Kept s (if r then (s.countPair (beadPage st) 0x058).countSat
      (beadPage st) 0x060 else s.countPair (beadPage st) 0x058) := fun s r =>
    .ite ((kept_countPair ..).trans (kept_countSat ..)) (kept_countPair ..)
  unfold gatherRow at e
  dsimp only at e
  split at e
  · cases e
    exact .refl _
  · split at e
    · split at e
      · cases e
      · obtain ⟨_, h⟩ := exists_of_map_ok e
        cases h
        exact (hf g.s false)
    · split at e
      · split at e
        · cases e
          exact (kept_countSat ..).trans (kept_setFlag ..) |>.trans (kept_raiseEvt ..)
        · obtain ⟨_, h⟩ := exists_of_map_ok e
          cases h
          exact (kept_countSat ..).trans (kept_setFlag ..) |>.trans (kept_raiseEvt ..)
      · split at e
        · cases hr : homeRow g.s st t no _ with
          | error f => rw [hr] at e; cases e
          | ok y =>
            rw [hr] at e
            cases e
            exact (kept_homeRow hr).trans (hf y.1 false)
        · cases hr : remoteRow g.s st _ no _ with
          | error f => rw [hr] at e; cases e
          | ok y =>
            rw [hr] at e
            cases e
            exact (kept_remoteRow hr).trans (hf y.1 true)

theorem kept_gatherGroup (st : Fin 8) (t : Table) (no : Nat) (at_ : Nat → Nat) (l : List (Nat × Nat × Val)) (g : Gather)
    (acc : List (Val × List Val)) : Kept g.s (gatherGroup st t no at_ l g acc).1.s := by
  induction l generalizing g acc with
  | nil => exact .refl _
  | cons y l ih =>
    unfold gatherGroup
    dsimp only
    split
    · exact kept_countPair ..
    · next eq => exact (kept_countPair ..).trans (kept_gatherRow eq) |>.trans (ih _ _)

theorem kept_gatherGroups (st : Fin 8) (d : Desc) (t : Table) (e : Entry) (x : Indices) (ws : Array (Val × Nat))
    (mask : Array Byte) (l : List (Nat × Nat)) (i : Nat) (g : Gather) :
    Kept g.s (gatherGroups st d t e x ws mask l i g).1.s := by
  induction l generalizing i g with
  | nil => exact .refl _
  | cons y l ih =>
    have hg : ∀ {z}, z = gatherGroup st t (gatTable d) x.at_ (if (!gatMasked d || (mask.getD (i / 8) 0).toNat.testBit (i % 8)) = true
        then (List.range (y.2 - y.1)).map fun k => (y.1 + k, x.ids.toArray.getD (y.1 + k) 0, (ws.getD (y.1 + k) (.zero, 1)).1)
        else []) g [] → Kept g.s z.1.s := by
      rintro _ rfl
      exact kept_gatherGroup ..
    unfold gatherGroups
    extract_lets plan fed ids items
    split
    · next eq => exact hg eq.symm
    · next g1 rows eq =>
      have h0 : Kept g.s g1.s := hg eq.symm
      extract_lets s1 vals
      have h1 : Kept g.s s1 := .ite (h0.trans (kept_countSat ..) |>.trans (kept_beadSticky ..)) h0
      split
      · exact h1.trans (ih (i + 1) { g1 with s := s1 })
      · split
        split
        split
        · exact h1
        · split
          · next eq => exact h1.trans (kept_beadSticky ..) |>.trans (.fst_of (kept_tabWrite ..) eq)
          · next s2 eq =>
            have h2 : Kept g.s s2 := h1.trans (kept_beadSticky ..) |>.trans (.fst_of (kept_tabWrite ..) eq)
            have h3 : ∀ {z : State × Option TabErr}, z = (if gatCompact d = true then
                tabWrite s2 st plan 4 false (latchedArg e 4 + 4 + 4 * g1.out) (leBytes i 4) else (s2, none)) →
                Kept g.s z.1 := by
              rintro _ rfl
              split
              · exact h2.trans (kept_tabWrite ..)
              · exact h2
            split
            next s3 _ eq =>
            split
            · exact h3 eq.symm
            · exact (h3 eq.symm).trans (ih (i + 1) { g1 with s := s3, out := g1.out + 1 })

theorem kept_gather (s : State) (st : Fin 8) (e : Entry) : Kept s (gather s st e) := by
  have hg : ∀ {d t x ws m l z}, gatherGroups st d t e x ws m l 0 { s := s } = z → Kept s z.1.s := by
    rintro _ _ _ _ _ _ _ rfl
    exact kept_gatherGroups (g := { s := s }) ..
  unfold gather
  extract_lets d p plan t jp prep n
  clear_value prep
  split
  · exact kept_tabFault ..
  · extract_lets packets
    split
    · exact .refl _
    · split
      · next eq => exact (hg eq).trans (kept_tabFault ..)
      · next g eq =>
        have h3 : ∀ {z : State × Option TabErr}, (if gatCompact d = true then
            tabWrite g.s st plan 4 false (latchedArg e 4) (leBytes g.out 4) else (g.s, none)) = z → Kept s z.1 := by
          rintro _ rfl
          split
          · exact (hg eq).trans (kept_tabWrite ..)
          · exact hg eq
        split
        next eq3 =>
        split
        · exact (h3 eq3).trans (kept_tabFault ..)
        · exact (h3 eq3).trans (kept_tabRetire ..)

theorem kept_partBytes {rd : Reader TabErr} {s u : State} {r : RgnHdr} {ps : List Nat} {es : List Listed} {bs : List Byte}
    (e : partBytes rd s r ps es = .ok (u, bs)) : Kept s u := by
  cases es with
  | nil =>
    cases e
    exact (kept_drawFree s).trans (kept_drawFree _) |>.trans (kept_drawFree _)
  | cons y l =>
    obtain ⟨_, e⟩ := exists_of_bind_ok e
    obtain ⟨_, e⟩ := exists_of_bind_ok e
    cases e
    exact .refl _

theorem kept_writeParts (st : Fin 8) (plan poff : Nat) (rd : Reader TabErr) (r : RgnHdr) (ps : List Nat)
    (listed : List Listed) (np : Nat) (l : List (Nat × Nat)) (s : State) :
    Kept s (writeParts st plan poff rd r ps listed np l s).1 := by
  induction l generalizing s with
  | nil => exact .refl _
  | cons y l ih =>
    rw [writeParts]
    split
    · exact .refl _
    · next eq =>
      split
      · exact kept_partBytes eq
      · dsimp only
        split
        · next eq' => exact (kept_partBytes eq).trans (.fst_of (kept_tabWrite ..) eq')
        · next eq' => exact (kept_partBytes eq).trans (Kept.fst_of (kept_tabWrite ..) eq') |>.trans (ih _)

theorem kept_split (s : State) (st : Fin 8) (e : Entry) : Kept s (split s st e) := by
  unfold split
  dsimp only
  split
  · exact .refl _
  · split
    · exact kept_tabFault ..
    · split
      · next eq1 =>
          exact (Kept.fst_of (kept_writeParts ..) eq1).trans (kept_tabFault ..)
      · next eq1 =>
          exact (Kept.fst_of (kept_writeParts ..) eq1).trans (kept_tabRetire ..)

/-! ### The Filigree -/

theorem kept_countRaises (s : State) (st : Fin 8) (n : Int) : Kept s (countRaises s st n) :=
  .ite (.refl _) ((kept_countSat ..).trans (kept_raiseEvt ..))

theorem kept_sendRow {s u : State} {st : Fin 8} {d : Desc} {t : Table} {home row : Nat} {p : Partial} {fl : WinFlags}
    (e : sendRow s st d t home row p fl = .ok u) : Kept s u := by
  unfold sendRow at e
  dsimp only at e
  split at e
  · cases e
  · split at e
    · cases e
    · cases e
      exact kept_modFil ..

theorem kept_flushRows (st : Fin 8) (d : Desc) (t : Table) (lock : Bool) (l : WindowRows) (s : State) :
    Kept s (flushRows st d t lock l s).1 := by
  induction l generalizing s with
  | nil => exact .refl _
  | cons y l ih =>
    unfold flushRows
    dsimp only
    split
    · exact .refl _
    · split
      · exact kept_countRaises ..
      · next eq => exact (kept_countRaises ..).trans (kept_sendRow eq) |>.trans (ih _)

theorem kept_dropIndex (s : State) (st : Fin 8) : Kept s (dropIndex s st) :=
  (kept_countSat ..).trans (kept_setFlag ..) |>.trans (kept_raiseEvt ..)

theorem kept_scatterRows (st : Fin 8) (d : Desc) (t : Table) (lock : Bool) (l : List ScatItem) (pos : Nat)
    (win : WindowRows) (s : State) : Kept s (scatterRows st d t lock l pos win s).1 := by
  induction l generalizing pos win s with
  | nil => exact kept_flushRows ..
  | cons it l ih =>
    have hf : ∀ {z : State × Option TabErr}, (if pos % 4096 = 0 then flushRows st d t lock win s else (s, none)) = z →
        Kept s z.1 := by
      rintro _ rfl
      split
      · exact kept_flushRows ..
      · exact .refl _
    unfold scatterRows
    split
    next s1 f eq =>
    have h : Kept s s1 := hf eq
    extract_lets win place
    clear_value place
    split
    · exact h
    · rcases place with _ | _ | k
      · exact h
      · exact h.trans (kept_dropIndex ..) |>.trans (ih _ _ _)
      · dsimp only
        split
        · exact h
        · split
          · exact h
          · exact h.trans (kept_countRaises ..) |>.trans (ih _ _ _)

theorem kept_startHead (s : State) (st : Fin 8) (q : Nat) : Kept s (startHead s st q) :=
  kept_modQueue ..

theorem kept_updateRetire (s : State) (st : Fin 8) : Kept s (updateRetire s st) := by
  unfold updateRetire
  split
  · exact .ite (kept_tabRetire ..) (.refl _)
  · exact .refl _

theorem kept_updateSent (s : State) (st : Fin 8) : Kept s (updateSent s st) :=
  (kept_startHead ..).trans (kept_updateRetire ..)

theorem kept_scatter (s : State) (st : Fin 8) (e : Entry) : Kept s (scatter s st e) := by
  unfold scatter
  dsimp only
  split
  · exact kept_tabFault ..
  · split
    · next eq1 =>
        exact (Kept.fst_of (kept_scatterRows ..) eq1).trans (kept_tabFault ..)
    · next eq1 =>
        exact (Kept.fst_of (kept_scatterRows ..) eq1).trans (kept_updateSent ..)

theorem kept_filSticky (s : State) (st : Fin 8) (f : WinFlags) : Kept s (filSticky s st f) :=
  .ite ((kept_setReg ..).trans (kept_raiseEvt ..)) (kept_setReg ..)

theorem kept_combineRow {s u : State} {home : Fin 8} {c : Contribution} (e : combineRow s home c = .ok u) :
    Kept s u := by
  unfold combineRow at e
  extract_lets fil at_ need old bar base ps at e
  clear_value bar
  cases bar with
  | some f => cases e
  | none =>
    dsimp only at e
    split at e
    · cases e
    · cases e
      exact (kept_modFil ..).trans (kept_countPair ..) |>.trans (kept_filSticky ..) |>.trans
        (kept_countRaises ..)

theorem kept_dropToken (s : State) (src : Fin 8) (token : Word) : Kept s (dropToken s src token) :=
  .foldl (fun _ _ => kept_modFil ..) _ _

theorem kept_contributionFault (s : State) (src : Fin 8) (c : Contribution) (e : TabErr) :
    Kept s (contributionFault s src c e) := by
  unfold contributionFault
  dsimp only
  split
  · split
    · exact .ite ((kept_dropToken ..).trans (kept_recordFault ..)
          |>.trans (kept_finish ..)) ((kept_dropToken ..).trans (kept_recordFault ..))
    · exact .ite ((kept_dropToken ..).trans (kept_memFault ..)
          |>.trans (kept_finish ..)) ((kept_dropToken ..).trans (kept_memFault ..))
  · split
    · exact (kept_dropToken ..).trans (kept_recordFault ..)
    · exact (kept_dropToken ..).trans (kept_memFault ..)

theorem kept_takeContribution (s : State) (home src : Fin 8) : Kept s (takeContribution s home src) := by
  unfold takeContribution
  split
  · exact .refl _
  · dsimp only
    split
    · exact (kept_modFil ..).trans (kept_contributionFault ..)
    · next eq =>
        exact (kept_modFil ..).trans (kept_combineRow (e := eq) ..) |>.trans (kept_updateRetire ..)

theorem kept_readRows (st : Fin 8) (d : Desc) (t : Table) (out size k i : Nat) (s : State) :
    Kept s (readRows st d t out size k i s).1 := by
  induction k generalizing i s with
  | zero => exact .refl _
  | succ k ih =>
    unfold readRows
    dsimp only
    split
    · exact .refl _
    · split
      · next eq => exact .fst_of (kept_tabWrite ..) eq
      · next eq =>
        have h := Kept.fst_of (kept_tabWrite ..) eq
        exact (Kept.ite (h.trans (kept_modFil ..)) h).trans (ih _ _)

theorem kept_filRead (s : State) (st : Fin 8) (e : Entry) : Kept s (filRead s st e) := by
  unfold filRead
  dsimp only
  split
  · exact kept_tabFault ..
  · split
    · next eq =>
        exact (Kept.fst_of (kept_readRows ..) eq).trans (kept_tabFault ..)
    · next eq =>
        exact (Kept.fst_of (kept_readRows ..) eq).trans (kept_tabRetire ..)

theorem kept_filExport (s : State) (st : Fin 8) (e : Entry) : Kept s (filExport s st e) := by
  unfold filExport
  split
  · exact kept_tabFault ..
  · dsimp only
    split
    · exact kept_tabFault ..
    · split
      · next eq1 =>
          exact (Kept.fst_of (kept_tabWrite ..) eq1).trans (kept_tabFault ..)
      · next eq1 =>
          exact (Kept.fst_of (kept_tabWrite ..) eq1).trans (kept_tabRetire ..)

theorem kept_filMerge (s : State) (st : Fin 8) (e : Entry) : Kept s (filMerge s st e) := by
  unfold filMerge
  split
  · exact kept_tabFault ..
  · dsimp only
    exact (kept_modFil ..).trans (kept_updateSent ..)

/-! ### The transfer engine -/

theorem kept_xfrFault (s : State) (st : Fin 8) (ch : Nat) (d : Desc) (e : TabErr) :
    Kept s (xfrFault s st ch d e) := by
  unfold xfrFault
  dsimp only
  refine .trans ?_ (kept_modStack ..)
  refine .trans ?_ (kept_finish ..)
  split
  · exact kept_recordFault ..
  · exact kept_memFault ..

theorem kept_xfrWrite (s : State) (st : Fin 8) (a : Nat) (bs : List Byte) : Kept s (xfrWrite s st a bs).1 := by
  unfold xfrWrite
  dsimp only
  split
  · dsimp only
    exact .refl _
  · split
    · dsimp only
      exact .refl _
    · exact kept_engWrite ..

theorem kept_copyPieces (rd : State → Reader TabErr) (wr : State → Nat → List Byte → State × Option TabErr)
    (k src dst n : Nat) (s : State) (hw : ∀ s a bs, Kept s (wr s a bs).1) :
    Kept s (copyPieces rd wr k src dst n s).1 := by
  induction k generalizing src dst n s with
  | zero => exact .refl _
  | succ k ih =>
    unfold copyPieces
    dsimp only
    split
    · exact .refl _
    · split
      · split
        · exact .refl _
        · exact hw ..
      · split
        · next eq => exact .fst_of (hw ..) eq
        · next eq => exact (Kept.fst_of (hw ..) eq).trans (ih _ _ _ _)

theorem kept_xfrCopy (s : State) (st : Fin 8) (d : Desc) : Kept s (xfrCopy s st d).1 := by
  unfold xfrCopy
  extract_lets n
  split
  split
  · exact .refl _
  split
  · exact .refl _
  split
  · exact .refl _
  split
  · exact .refl _
  exact kept_copyPieces (hw := fun _ _ _ => kept_xfrWrite ..) ..

theorem kept_fillPieces (st : Fin 8) (pat : List Byte) (k dst n : Nat) (s : State) :
    Kept s (fillPieces st pat k dst n s).1 := by
  induction k generalizing dst n s with
  | zero => exact .refl _
  | succ k ih =>
    unfold fillPieces
    dsimp only
    split
    · exact .refl _
    · split
      · next eq => exact .fst_of (kept_xfrWrite ..) eq
      · next eq => exact (Kept.fst_of (kept_xfrWrite ..) eq).trans (ih _ _ _)

theorem kept_xfrFill (s : State) (st : Fin 8) (d : Desc) : Kept s (xfrFill s st d).1 := by
  unfold xfrFill
  dsimp only
  split
  · dsimp only
    exact .refl _
  · split
    · dsimp only
      exact .refl _
    · exact kept_fillPieces ..

theorem kept_eachTile (st : Fin 8) (body : State → Nat → Nat → Except (MetaErr TabErr) (List Byte × Nat))
    (k t src dst : Nat) (s : State) : Kept s (eachTile st body k t src dst s).1 := by
  induction k generalizing t src dst s with
  | zero => exact .refl _
  | succ k ih =>
    unfold eachTile
    split
    · exact .refl _
    · split
      · next eq => exact .fst_of (kept_xfrWrite ..) eq
      · next eq => exact (Kept.fst_of (kept_xfrWrite ..) eq).trans (ih _ _ _ _)

theorem kept_tileRun (s : State) (st : Fin 8) (d : Desc) (alignS alignD : Nat) (body : State → Nat → Nat → Except
    (MetaErr TabErr) (List Byte × Nat)) :
    Kept s (tileRun s st d alignS alignD body).1 := by
  unfold tileRun
  split
  · dsimp only
    exact .refl _
  · split
    · dsimp only
      exact .refl _
    · split
      · dsimp only
        exact .refl _
      · exact kept_eachTile ..

theorem kept_xfrCompress (s : State) (st : Fin 8) (d : Desc) : Kept s (xfrCompress s st d).1 :=
  kept_tileRun ..

theorem kept_xfrExpand (s : State) (st : Fin 8) (d : Desc) : Kept s (xfrExpand s st d).1 :=
  kept_tileRun ..

theorem kept_xfrWrites (st : Fin 8) (l : List (Nat × List Byte)) (s : State) : Kept s (xfrWrites st l s).1 := by
  induction l generalizing s with
  | nil => exact .refl _
  | cons y l ih =>
    unfold xfrWrites
    split
    · next eq => exact .fst_of (kept_xfrWrite ..) eq
    · next eq => exact (Kept.fst_of (kept_xfrWrite ..) eq).trans (ih _)

theorem kept_appendTiles (st : Fin 8) (r : RgnHdr) (k t src e n off : Nat) (s : State) :
    Kept s (appendTiles st r k t src e n off s).1 := by
  induction k generalizing t src e n off s with
  | zero => exact .refl _
  | succ k ih =>
    unfold appendTiles
    split
    · exact .refl _
    · split
      · exact ih ..
      · split
        · exact .refl _
        · split
          · exact .refl _
          · split
            · next eq => exact .fst_of (kept_xfrWrites ..) eq
            · next eq => exact (Kept.fst_of (kept_xfrWrites ..) eq).trans (ih _ _ _ _ _ _)

theorem kept_xfrToRegion (s : State) (st : Fin 8) (d : Desc) : Kept s (xfrToRegion s st d).1 := by
  unfold xfrToRegion
  extract_lets rd prep
  clear_value prep
  split
  · exact .refl _
  split
  · exact .refl _
  split
  · exact .refl _
  split
  · exact .refl _
  next r off =>
  have h : ∀ {z : State × Option TabErr}, (if r.e = 0 then xfrWrite s st r.cum (leBytes 0 8) else (s, none)) = z →
      Kept s z.1 := by
    rintro _ rfl
    split
    · exact kept_xfrWrite ..
    · exact .refl _
  split
  · next eq => exact h eq
  · next eq =>
    split
    · next eq' => exact (h eq).trans (.fst_of (kept_appendTiles ..) eq')
    · next eq' => exact (h eq).trans (Kept.fst_of (kept_appendTiles ..) eq') |>.trans (kept_xfrWrites ..)

theorem kept_xfrFromRegion (s : State) (st : Fin 8) (d : Desc) : Kept s (xfrFromRegion s st d).1 := by
  unfold xfrFromRegion
  extract_lets rd prep
  have hp : ∀ {u bs}, prep = .ok (u, bs) → Kept s u := by
    intro u bs e
    obtain ⟨_, e⟩ := exists_of_bind_ok e
    obtain ⟨_, e⟩ := exists_of_bind_ok e
    obtain ⟨_, e⟩ := exists_of_bind_ok e
    split at e
    · exact kept_partBytes e
    · obtain ⟨_, e⟩ := exists_of_bind_ok e
      cases e
      exact .refl _
  clear_value prep
  split
  · exact .refl _
  split
  · exact .refl _
  split
  · exact .refl _
  split
  · exact .refl _
  · exact (hp rfl).trans (kept_xfrWrite ..)

theorem kept_xfrTilecopy (s : State) (st : Fin 8) (d : Desc) : Kept s (xfrTilecopy s st d).1 := by
  unfold xfrTilecopy
  split
  · split
    · dsimp only
      exact .refl _
    · split
      · dsimp only
        exact .refl _
      · split
        · dsimp only
          exact .refl _
        · exact kept_xfrWrites ..
  · exact kept_tileRun ..

/-! ### Jukan -/

theorem kept_jkFault (s : State) (st : Fin 8) (p : Nat) (d : Desc) (e : TabErr) : Kept s (jkFault s st p d e) := by
  unfold jkFault
  dsimp only
  refine .trans ?_ (kept_finish ..)
  split
  · exact kept_recordFault ..
  · exact kept_memFault ..

theorem kept_jkWrite (s : State) (st : Fin 8) (plan a : Nat) (bs : List Byte) :
    Kept s (jkWrite s st plan a bs).1 := by
  unfold jkWrite
  dsimp only
  split
  · dsimp only
    exact .refl _
  · split
    · dsimp only
      exact .refl _
    · exact kept_engWrite ..

theorem kept_countHop (s : State) (n p m : Nat) : Kept s (countHop s n p m) :=
  (kept_countPair ..).trans (kept_countPair ..)

theorem kept_countRoute (s : State) (a b m : Nat) : Kept s (countRoute s a b m) := by
  unfold countRoute
  split
  · dsimp only
    exact .foldl (fun _ _ => kept_countHop ..) _ _
  · exact .foldl (fun _ _ => kept_countHop ..) _ _

theorem kept_jkSend (s : State) (st : Fin 8) (p : Nat) (d : Desc) : Kept s (jkSend s st p d).1 := by
  unfold jkSend
  extract_lets plan dst n
  split
  · exact .refl _
  · have h := kept_copyPieces (fun s => jkRead s st plan 0) (fun s => jkWrite s dst plan) (n / 16 + 1) (jkSrc d) (jkDst d) n s
      fun _ _ _ => kept_jkWrite ..
    exact .ite (h.trans (kept_countRoute ..)) h

theorem kept_reduceTile (s : State) (st dst : Fin 8) (plan : Nat) (lock : Bool) (t src at_ : Nat) :
    Kept s (reduceTile s st dst plan lock t src at_).1 := by
  unfold reduceTile
  dsimp only
  split
  · dsimp only
    exact .refl _
  · split
    · dsimp only
      exact .refl _
    · split
      · dsimp only
        exact .refl _
      · dsimp only
        exact .refl _
      · exact kept_jkWrite ..

theorem kept_reduceTiles (st dst : Fin 8) (plan : Nat) (lock : Bool) (k t src at_ : Nat) (s : State) :
    Kept s (reduceTiles st dst plan lock k t src at_ s).1 := by
  induction k generalizing t src at_ s with
  | zero => exact .refl _
  | succ k ih =>
    unfold reduceTiles
    split
    · next eq => exact .fst_of (kept_reduceTile ..) eq
    · next eq => exact (Kept.fst_of (kept_reduceTile ..) eq).trans (ih _ _ _ _)

theorem kept_jkReduce (s : State) (st : Fin 8) (p : Nat) (d : Desc) : Kept s (jkReduce s st p d).1 := by
  unfold jkReduce
  extract_lets dst
  split
  · exact .refl _
  · exact .ite ((kept_reduceTiles ..).trans (kept_countRoute ..)) (kept_reduceTiles ..)

theorem kept_jkSignal (s : State) (_st : Fin 8) (_p : Nat) (d : Desc) : Kept s (jkSignal s _st _p d).1 :=
  kept_ringBits ..

end Sys2Proof.Laws
end

section
/-! What the sampler, acceptance, mailboxes, packets, the Locket, calibration, the hot set and the ports keep. -/

-- One proof at a time: the stacks of many side by side would take the memory that the check allows.
set_option Elab.async false

namespace Sys2Proof.Laws

open Machine Safety

/-! ### The sampler -/

theorem kept_modGroups (s : State) (st : Fin 8) (p : Nat → Bool) (f : Nat → SmpGroup → SmpGroup) :
    Kept s (s.modGroups st p f) :=
  kept_modStack ..

theorem kept_setBatch (s : State) (st : Fin 8) (g : Nat) (b : Option Batch) : Kept s (s.setBatch st g b) := by
  unfold State.setBatch
  split
  · exact kept_modStack ..
  · exact .refl _

theorem kept_endFaulted (s : State) (st : Fin 8) (g : Nat) : Kept s (endFaulted s st g) :=
  (Kept.ite ((kept_modGroups ..).trans (kept_countWrap ..)) (kept_modGroups ..)).trans (kept_setBatch ..)

theorem kept_smpFault (s : State) (st : Fin 8) (g : Nat) (d : Desc) (e : SmpErr) :
    Kept s (smpFault s st g d e) := by
  unfold smpFault
  dsimp only
  refine .trans ?_ (kept_finish ..)
  refine .trans ?_ (kept_endFaulted ..)
  split
  · exact kept_recordFault ..
  · exact kept_recordFault ..
  · exact kept_memFault ..

theorem kept_smpWrite (s : State) (st : Fin 8) (plan area a : Nat) (bs : List Byte) :
    Kept s (smpWrite s st plan area a bs).1 :=
  kept_engWrite ..

theorem kept_smpWrites (st : Fin 8) (plan area : Nat) (s : State) (ws : List (Nat × List Byte)) :
    Kept s (smpWrites st plan area s ws).1 := by
  induction ws generalizing s with
  | nil => exact .refl _
  | cons w ws ih =>
    unfold smpWrites
    split
    · next eq => exact (Kept.fst_of (kept_smpWrite ..) eq).trans (ih _)
    · next eq => exact .fst_of (kept_smpWrite ..) eq

theorem kept_smpEnd {s : State} (st : Fin 8) (g : Nat) (d : Desc) {r : State × Option SmpErr} (h : Kept s r.1) :
    Kept s (smpEnd st g d r) := by
  unfold smpEnd
  split
  · exact h.trans (kept_smpFault ..)
  · exact h.trans (kept_finish ..)

theorem kept_clearTable (s : State) (st : Fin 8) (plan a n : Nat) : Kept s (clearTable s st plan a n).1 := by
  unfold clearTable
  split
  · dsimp only
    exact .refl _
  · dsimp only
    exact kept_zeroRange ..

theorem kept_openBatch (s : State) (st : Fin 8) (g : Nat) (e : Entry) : Kept s (openBatch s st g e).1 := by
  unfold openBatch
  dsimp only
  split
  · dsimp only
    exact .refl _
  · split
    · dsimp only
      exact .refl _
    · split
      · dsimp only
        exact .refl _
      · dsimp only
        exact .refl _
      · split
        · dsimp only
          exact .refl _
        · split
          · dsimp only
            exact .refl _
          · split
            · dsimp only
              split
              · exact kept_clearTable ..
              · dsimp only
                exact .refl _
            · dsimp only
              refine .trans ?_ (kept_setBatch ..)
              refine .trans ?_ (kept_modGroups ..)
              split
              · exact kept_clearTable ..
              · dsimp only
                exact .refl _

theorem kept_numberNode (st : Fin 8) (plan h : Nat) (s : State) (b : Batch) (id : Nat) :
    Kept s (numberNode st plan h s b id).1 := by
  unfold numberNode
  dsimp only
  split
  · dsimp only
    exact .refl _
  · dsimp only
    exact .refl _
  · exact kept_drawFree ..
  · split
    · dsimp only
      exact .refl _
    · split
      · dsimp only
        exact kept_smpWrite ..
      · dsimp only
        exact kept_smpWrite ..

theorem kept_numberAll (st : Fin 8) (plan h : Nat) (s : State) (b : Batch) (ids : List Nat) (acc : List (Nat × Bool)) :
    Kept s (numberAll st plan h s b ids acc).1 := by
  induction ids generalizing s b acc with
  | nil => exact .refl _
  | cons id ids ih =>
    unfold numberAll
    split
    · next eq => exact .fst_of (kept_numberNode ..) eq
    · next eq => exact (Kept.fst_of (kept_numberNode ..) eq).trans (ih _ _ _)

theorem kept_writeBlock (st : Fin 8) (plan out : Nat) (s : State) (b : Batch) (arrays : List (Nat × List Byte)) (h :
    BlockHdr) :
    Kept s (writeBlock st plan out s b arrays h).1 :=
  kept_smpWrites ..

theorem kept_smpCounts (s : State) (st : Fin 8) (new invalid isolated dups trunc : Nat) :
    Kept s (smpCounts s st new invalid isolated dups trunc) :=
  .ite ((kept_countSat ..).trans (kept_countSat ..) |>.trans (kept_countSat ..) |>.trans (kept_countSat ..)
    |>.trans (kept_countSat ..)) ((kept_countSat ..).trans (kept_countSat ..) |>.trans (kept_countSat ..)
    |>.trans (kept_countSat ..) |>.trans (kept_countSat ..) |>.trans (kept_raiseEvt ..))

theorem kept_startBlock (s : State) (st : Fin 8) (plan h out size avail : Nat) :
    Kept s (startBlock s st plan h out size avail).1 := by
  unfold startBlock
  split
  · dsimp only
    exact .refl _
  · split
    · dsimp only
      exact .refl _
    · exact kept_smpWrite ..

theorem kept_seedBatch (s : State) (st : Fin 8) (g : Nat) (e : Entry) : Kept s (seedBatch s st g e).1 := by
  unfold seedBatch
  extract_lets d plan n out
  split
  · exact .refl _
  extract_lets nb nodeOff
  split
  · exact .refl _
  split
  · exact .refl _
  split
  · next eq => exact .fst_of (kept_startBlock ..) eq
  next s1 eq =>
  have h1 : Kept s s1 := .fst_of (kept_startBlock ..) eq
  split
  · exact h1
  extract_lets ids
  split
  · next eq => exact h1.trans (.fst_of (kept_numberAll ..) eq)
  next s2 b1 ks eq =>
  have h2 : Kept s s2 := h1.trans (.fst_of (kept_numberAll ..) eq)
  extract_lets dups bad
  split
  · next eq => exact h2.trans (.fst_of (kept_writeBlock ..) eq)
  · next eq =>
    exact h2.trans (.fst_of (kept_writeBlock ..) eq) |>.trans (kept_smpCounts ..) |>.trans (kept_modGroups ..) |>.trans
      (kept_setBatch ..)

theorem kept_hopBatch (s : State) (st : Fin 8) (g : Nat) (e : Entry) : Kept s (hopBatch s st g e).1 := by
  unfold hopBatch
  extract_lets d plan h w ew ep f out
  split
  · exact .refl _
  extract_lets b nd first rb recOff ewOff epOff nodeOff size
  split
  · exact .refl _
  split
  · exact .refl _
  split
  · next eq => exact .fst_of (kept_startBlock ..) eq
  next s1 eq =>
  have h1 : Kept s s1 := .fst_of (kept_startBlock ..) eq
  split
  · exact h1
  extract_lets kept trunc
  split
  · next eq => exact h1.trans (.fst_of (kept_numberAll ..) eq)
  next s2 b1 ks eq =>
  have h2 : Kept s s2 := h1.trans (.fst_of (kept_numberAll ..) eq)
  extract_lets words weights
  clear_value weights
  split
  · exact h2
  split
  · next eq => exact h2.trans (.fst_of (kept_writeBlock ..) eq)
  · next s3 eq =>
    extract_lets s4 s5
    have h4 : Kept s s4 :=
      h2.trans (.fst_of (kept_writeBlock ..) eq) |>.trans (kept_smpCounts ..) |>.trans (kept_countPair ..) |>.trans
        (kept_countPair ..)
    have h5 : Kept s s5 := .ite h4 (h4.trans (kept_raiseEvt ..))
    exact h5.trans (kept_raiseEvt ..) |>.trans (kept_modGroups ..) |>.trans (kept_setBatch ..)

theorem kept_closeBatch (s : State) (st : Fin 8) (g : Nat) (_e : Entry) : Kept s (closeBatch s st g _e).1 := by
  unfold closeBatch
  dsimp only
  split
  · dsimp only
    exact .refl _
  · split
    · dsimp only
      exact .refl _
    · exact (kept_modGroups ..).trans (kept_setBatch ..) |>.trans (kept_countWrap ..) |>.trans (kept_raiseEvt ..)

theorem kept_prefixRow (st : Fin 8) (plan weight pfx n : Nat) (s : State) (p sum : Nat) :
    Kept s (prefixRow st plan weight pfx n s p sum).1 := by
  induction n generalizing s p sum with
  | zero => exact .refl _
  | succ n ih =>
    unfold prefixRow
    split
    · exact .refl _
    · split
      · exact .refl _
      · split
        · exact .refl _
        · split
          · next eq => exact .fst_of (kept_smpWrite ..) eq
          · next eq => exact (Kept.fst_of (kept_smpWrite ..) eq).trans (ih _ _ _)

theorem kept_prefixRows (st : Fin 8) (plan rowptr weight pfx nedge n : Nat) (s : State) (row : Nat) :
    Kept s (prefixRows st plan rowptr weight pfx nedge n s row).1 := by
  induction n generalizing s row with
  | zero => exact .refl _
  | succ n ih =>
    unfold prefixRows
    split
    · exact .refl _
    · extract_lets lo hi
      split
      · exact .refl _
      · split
        · exact .refl _
        · split
          · next eq => exact .fst_of (kept_prefixRow ..) eq
          · next eq => exact (Kept.fst_of (kept_prefixRow ..) eq).trans (ih _ _)

theorem kept_prefixRun (s : State) (st : Fin 8) (g : Nat) (e : Entry) : Kept s (prefixRun s st g e).1 := by
  unfold prefixRun
  dsimp only
  split
  · dsimp only
    exact .refl _
  · split
    · dsimp only
      exact .refl _
    · split
      · dsimp only
        exact .refl _
      · split
        · dsimp only
          exact .refl _
        · split
          · dsimp only
            exact .refl _
          · split
            · dsimp only
              exact kept_prefixRows ..
            · dsimp only
              exact (kept_prefixRows ..).trans (kept_raiseEvt ..)

theorem kept_smpClear (s : State) (st : Fin 8) : Kept s (smpClear s st) := by
  unfold smpClear
  exact (Kept.foldl (fun _ _ => Kept.ite (kept_discardQueue ..) (.refl _)) _ _).trans (kept_modGroups ..)

theorem kept_smpCleared (s : State) (st : Fin 8) : Kept s (smpCleared s st) :=
  kept_modStack ..

/-! ### Acceptance -/

theorem kept_rejectAt (s : State) (st : Fin 8) (p : Page) (q i : Nat) (d : Desc) (cls det high : Nat) :
    Kept s (rejectAt s st p q i d cls det high) := by
  unfold rejectAt
  dsimp only
  refine .trans ?_ (kept_finishAt ..)
  split
  · exact (kept_recordFault ..).trans (kept_returnAdvance ..)
  · exact (kept_recordFault ..).trans (kept_endFaulted ..)
  · exact (kept_recordFault ..).trans (kept_modStack ..)
  · exact kept_recordFault ..

theorem kept_rejectDead (s : State) (st : Fin 8) (p : Page) (q i : Nat) : Kept s (rejectDead s st p q i) :=
  (kept_drawFree ..).trans (kept_recordFault ..) |>.trans (kept_finishAt ..)

theorem kept_acceptAt (s : State) (st : Fin 8) (q i : Nat) (latch : List DWord) :
    Kept s (acceptAt s st q i latch) :=
  kept_modQueue ..

theorem kept_hazardRise (s0 s : State) (st : Fin 8) (c : Nat) : Kept s (hazardRise s0 s st c) :=
  .ite (kept_raiseEvt ..) (.refl _)

theorem kept_acceptOpen (s : State) (st : Fin 8) (q i : Nat) : Kept s (acceptOpen s st q i) :=
  (kept_setPair ..).trans (kept_acceptAt ..)

theorem kept_acceptGood (s : State) (st : Fin 8) (p : Page) (q i : Nat) (d : Desc) :
    Kept s (acceptGood s st p q i d) := by
  unfold acceptGood
  split
  · dsimp only
    exact .ite (kept_rejectAt ..) ((kept_acceptAt ..).trans (kept_hazardRise ..))
  · exact .ite (kept_acceptAt ..) (kept_acceptAt ..)
  · exact .ite (kept_acceptOpen ..) (kept_acceptAt ..)
  · split
    · exact kept_acceptAt ..
    · exact kept_tabFault ..
  · split
    · exact kept_acceptAt ..
    · exact kept_tabFault ..
  · exact kept_acceptAt ..

theorem kept_acceptEntry (s : State) (st : Fin 8) (p : Page) (q i : Nat) (d : Desc) :
    Kept s (acceptEntry s st p q i d) := by
  unfold acceptEntry
  dsimp only
  split
  · exact kept_rejectDead ..
  · split
    · exact kept_rejectAt ..
    · split
      · exact kept_rejectAt ..
      · split
        · exact kept_rejectAt ..
        · exact kept_acceptGood ..

theorem kept_descriptorAccept (s : State) (st : Fin 8) (q : Nat) : Kept s (descriptorAccept s st q) := by
  unfold descriptorAccept
  split
  · exact .refl _
  · split
    · exact .refl _
    · exact .ite (kept_acceptEntry ..) (.refl _)

/-! ### Mailboxes -/

theorem kept_notice (s : State) (st : Fin 8) (mb : Nat) (sender : Requester) (bit : Nat) :
    Kept s (notice s st mb sender bit) := by
  unfold notice
  split
  · exact kept_ringBits ..
  · exact kept_setEvt ..

theorem kept_settleReplies (s : State) (st : Fin 8) (mb : Nat) (status : Option Nat) :
    Kept s (settleReplies s st mb status) :=
  .foldl (fun _ _ => kept_modStack ..) _ _

theorem kept_mboxSend (s : State) (r : Requester) (st : Fin 8) (mb : Nat) (v : Word) :
    Kept s (mboxSend s r st mb v) :=
  (Kept.ite ((kept_modBox ..).trans (kept_countWrap ..) |>.trans (kept_countSat ..)
      |>.trans (kept_notice ..)) (Kept.ite ((kept_modBox ..).trans (kept_countWrap ..)
      |>.trans (kept_setEvt ..)) ((kept_modBox ..).trans (kept_countWrap ..)))).trans (kept_ringBits ..)
      |>.trans (kept_wakeBox ..)

theorem kept_mboxRead (s : State) (r : Requester) (st : Fin 8) (mb : Nat) : Kept s (mboxRead s r st mb).2 := by
  unfold mboxRead
  dsimp only
  split
  · exact (kept_modBox ..).trans (kept_settleReplies ..) |>.trans (kept_notice ..)
  · dsimp only
    exact .refl _

theorem kept_mbxReset (s : State) (st : Fin 8) (page : Nat) : Kept s (mbxReset s st page) :=
  kept_modStack .. |>.trans (.foldl (fun _ _ => kept_modStack ..) _ _)

/-! ### Packets -/

theorem kept_freeBytes (n : Nat) (s : State) : Kept s (freeBytes n s).2 := by
  induction n generalizing s with
  | zero => exact .refl _
  | succ n ih => exact (kept_drawFree s).trans (ih _)

theorem kept_modPort (s : State) (st : Fin 8) (p : Nat) (f : NetPort → NetPort) : Kept s (s.modPort st p f) := by
  unfold State.modPort
  split
  · exact kept_modStack ..
  · exact .refl _

theorem kept_sendPacket (s : State) (st : Fin 8) (ctx : Nat) (type : Byte) (seq : Word) (retx : Bool) (payload :
    List Byte) :
    Kept s (sendPacket s st ctx type seq retx payload) := by
  unfold sendPacket
  exact (kept_modSess ..).trans (kept_send ..)

theorem kept_sendData (s : State) (st : Fin 8) (ctx : Nat) (seq : Word) (retx : Bool) (payload : List Byte) :
    Kept s (sendData s st ctx seq retx payload) :=
  .ite ((kept_sendPacket ..).trans (kept_modSess ..)
    |>.trans (kept_countPair ..)) ((kept_sendPacket ..).trans (kept_modSess ..))

theorem kept_sendOp (s : State) (st : Fin 8) (ctx : Nat) (payload : List Byte) : Kept s (sendOp s st ctx payload) :=
  .ite (kept_modSess ..) ((kept_modSess ..).trans (kept_sendData ..))

theorem kept_sendQueued (st : Fin 8) (ctx : Nat) (ps : List (List Byte)) (s : State) :
    Kept s (sendQueued st ctx ps s) := by
  induction ps generalizing s with
  | nil => exact .refl _
  | cons p ps ih => exact .ite (.refl _) ((kept_modSess ..).trans (kept_sendOp ..) |>.trans (ih _))

theorem kept_sendAck (s : State) (st : Fin 8) (ctx : Nat) : Kept s (sendAck s st ctx) :=
  (kept_modSess ..).trans (kept_sendPacket ..)

theorem kept_badPacket (s : State) (st : Fin 8) : Kept s (badPacket s st) :=
  kept_countSat ..

theorem kept_receive (s : State) (st : Fin 8) (port link : Nat) (p : Packet) (type : Byte) :
    Kept s (receive s st port link p type).1 := by
  unfold receive
  split
  · exact kept_badPacket ..
  · split
    · dsimp only [State.drawFree]
      exact (kept_apart ..).trans (kept_send ..)
    · split
      · exact kept_badPacket ..
      · dsimp only
        exact kept_modSess ..

/-! ### The Locket -/

theorem kept_locketNotice (s : State) (page spare reason : Nat) : Kept s (locketNotice s page spare reason) :=
  kept_locketRequest ..

theorem kept_storeRecord (s : State) (r : RecReq) : Kept s (storeRecord s r) :=
  .ite ((kept_modLkt ..).trans (kept_countWrap ..) |>.trans (kept_raiseEvt ..)
    |>.trans (kept_raiseEvt ..)) ((kept_modLkt ..).trans (kept_countWrap ..) |>.trans (kept_raiseEvt ..))

theorem kept_remapPage (s : State) (page : Nat) : Kept s (remapPage s page) :=
  .ite ((kept_modLkt ..).trans (kept_raiseEvt ..) |>.trans (kept_locketNotice ..)) (Kept.ite
    (.refl _) ((kept_modLkt ..).trans (kept_recordFault ..)))

theorem kept_scanDone (s : State) : Kept s (scanDone s) :=
  .ite (.refl _) ((kept_now ..).trans (kept_modLkt ..) |>.trans (kept_storeRecord ..))

theorem kept_modWindow (s : State) (w : Bool) (f : LkWindow → LkWindow) : Kept s (modWindow s w f) :=
  kept_modLkt ..

theorem kept_setCursor (s : State) (w : Bool) (cur : DWord) : Kept s (setCursor s w cur) :=
  kept_modWindow ..

theorem kept_cursorWrite (s : State) (w : Bool) (lo : Word) : Kept s (cursorWrite s w lo) := by
  unfold cursorWrite
  exact (kept_apart s ..).trans (kept_setCursor ..)

theorem kept_windowLoaded (s : State) (w eccOk : Bool) : Kept s (windowLoaded s w eccOk) :=
  .ite (Kept.ite (kept_modWindow ..) ((kept_modWindow ..).trans (kept_recordFault ..))) (.refl _)

theorem kept_win15Read (s : State) (w : Bool) : Kept s (win15Read s w) :=
  .ite (kept_setCursor ..) (.refl _)

theorem kept_winRead (s : State) (w : Bool) (i : Nat) : Kept s (winRead s w i).2 :=
  .ite ((kept_windowLoaded ..).trans (kept_win15Read ..)) (kept_windowLoaded ..)

theorem kept_snap (s : State) (w : Bool) : Kept s (snap s w) := by
  unfold snap
  exact kept_modWindow ..

theorem kept_fwGo (s : State) : Kept s (fwGo s) :=
  .ite (kept_locketRequest ..) (kept_modLkt ..)

theorem kept_locketSoftReset (s : State) : Kept s (locketSoftReset s) :=
  kept_modLkt ..

/-! ### Calibration -/

theorem kept_measExtend (s : State) (i : Fin 6) (data : List Byte) : Kept s (measExtend s i data) :=
  Kept.of_eq rfl rfl rfl rfl rfl rfl

theorem kept_loadNet (s : State) (st : Fin 8) : Kept s (loadNet s st) :=
  .foldl (fun _ _ => (kept_setFld .. |>.trans (.foldl
    (fun _ _ => (kept_setReg ..).trans (kept_setReg ..)) _ _)).trans (kept_modPort ..)) _ _

theorem kept_loadVolts (s : State) (st : Fin 8) : Kept s (loadVolts s st) := by
  unfold loadVolts
  exact kept_modPower ..

theorem kept_loadSpares (s : State) (st : Fin 8) (regs : List (Page × Nat)) : Kept s (loadSpares s st regs) :=
  .foldl (fun _ _ => by
      split
      · exact kept_setReg ..
      · exact kept_setReg ..) _ _

theorem kept_calResult (s : State) (r : Nat × Nat) : Kept s (calResult s r) :=
  kept_setReg ..

theorem kept_calCopy (s : State) : Kept s (calCopy s) :=
  .ite (kept_setFlag ..) (kept_modCal ..)

theorem kept_calCommit (s : State) : Kept s (calCommit s) :=
  .ite (kept_setFlag ..) (Kept.ite (kept_calResult ..) (Kept.ite (kept_calResult ..) (kept_modCal ..)))

theorem kept_calDiscard (s : State) : Kept s (calDiscard s) :=
  kept_modCal ..

theorem kept_calCmd (s : State) (v : Word) : Kept s (calCmd s v) :=
  .ite ((Kept.ite ((Kept.ite (kept_calCopy ..) (.refl _)).trans (kept_calCommit ..)) (Kept.ite (kept_calCopy ..)
    (.refl _))).trans (kept_calDiscard ..)) (Kept.ite ((Kept.ite (kept_calCopy ..)
    (.refl _)).trans (kept_calCommit ..)) (Kept.ite (kept_calCopy ..) (.refl _)))

theorem kept_calWinWrite (s : State) (off : Nat) (v : Word) : Kept s (calWinWrite s off v) :=
  .ite (.refl _) (kept_modCal ..)

theorem kept_calStartup (s : State) : Kept s (calStartup s) :=
  .ite (kept_modCal ..) ((kept_modCal ..).trans (kept_recordFault ..) |>.trans (kept_raiseEvt ..))

/-! ### The hot set -/

theorem kept_dropRefresh (s : State) (st : Fin 8) : Kept s (dropRefresh s st) :=
  kept_modArb ..

theorem kept_endRefresh (s : State) (st : Fin 8) : Kept s (endRefresh s st) :=
  (kept_modHot ..).trans (kept_dropRefresh ..)

theorem kept_hotEmpty (s : State) (st : Fin 8) : Kept s (hotEmpty s st) :=
  (kept_modHot ..).trans (kept_endRefresh ..)

theorem kept_refreshReady (s : State) (st : Fin 8) : Kept s (refreshReady s st) :=
  .ite ((kept_modHot ..).trans (kept_dropRefresh ..) |>.trans (kept_raiseEvt ..)) (.refl _)

theorem kept_refreshEvent (s : State) (st : Fin 8) (grp : Nat) : Kept s (refreshEvent s st grp) :=
  .ite (.refl _) (Kept.ite ((kept_countSat ..).trans (kept_locketRequest ..)
    |>.trans (kept_raiseEvt ..)) (kept_submit ..))

theorem kept_refreshFault (s : State) (st : Fin 8) (e : TabErr) : Kept s (refreshFault s st e) := by
  unfold refreshFault
  dsimp only
  refine .trans ?_ (kept_endRefresh ..)
  split
  · exact kept_recordFault ..
  · exact kept_memFault ..

theorem kept_refreshStart (s : State) (st : Fin 8) (grp : Nat) : Kept s (refreshStart s st grp) := by
  unfold refreshStart
  split
  · exact kept_refreshFault ..
  · dsimp only
    exact (Kept.ite (.refl _) (kept_countSat ..)).trans (kept_modHot ..) |>.trans (kept_refreshReady ..)

theorem kept_setEntry (s : State) (st : Fin 8) (i n : Nat) : Kept s (setEntry s st i n) :=
  kept_modHot ..

/-- `copyRow` is unfolded with its reads made variables, which the kernel then has nothing to evaluate of. -/
theorem kept_copyRow (s : State) (st : Fin 8) (e : HsEntry) : Kept s (copyRow s st e).1 := by
  obtain ⟨f, hf⟩ : ∃ f, f = copyRow := exists_eq
  obtain ⟨table, ht⟩ : ∃ f, f = readTable := exists_eq
  obtain ⟨read, hr⟩ : ∃ f, f = tabRead := exists_eq
  rw [← hf]
  delta copyRow at hf
  rw [← ht, ← hr] at hf
  subst hf
  dsimp only
  split
  · exact .refl _
  · split
    · exact .refl _
    · exact kept_tabWrite ..

theorem kept_writeThrough (s : State) (st : Fin 8) (plan no row : Nat) (bs : List Byte) :
    Kept s (writeThrough s st plan no row bs).1 := by
  unfold writeThrough
  dsimp only
  split
  · dsimp only
    exact .refl _
  · split
    · dsimp only
      split
      · exact kept_tabWrite ..
      · dsimp only
        exact .refl _
    · dsimp only
      split
      · exact kept_tabWrite ..
      · dsimp only
        exact .refl _
    · split
      · dsimp only
        split
        · exact kept_tabWrite ..
        · dsimp only
          exact .refl _
      · split
        · refine .trans ?_ (kept_tabWrite ..)
          split
          · exact kept_tabWrite ..
          · dsimp only
            exact .refl _
        · split
          · dsimp only
            refine .trans ?_ (kept_countSat ..)
            refine .trans ?_ (kept_setEntry ..)
            split
            · exact kept_tabWrite ..
            · dsimp only
              exact .refl _
          · dsimp only
            split
            · exact kept_tabWrite ..
            · dsimp only
              exact .refl _

theorem kept_hsEnWrite (s : State) (st : Fin 8) (on : Bool) : Kept s (hsEnWrite s st on) :=
  .ite (.refl _) ((kept_hotEmpty ..).trans (kept_setFlag ..))

/-! ### The ports -/

theorem kept_linkDrop (s : State) (st : Fin 8) (port link : Nat) : Kept s (linkDrop s st port link) :=
  .ite ((kept_modPort ..).trans (kept_recordFault ..) |>.trans (kept_raiseEvt ..)) (.refl _)

theorem kept_portDrop (s : State) (st : Fin 8) (port : Nat) : Kept s (portDrop s st port) :=
  .foldl (fun _ _ => kept_linkDrop ..) _ _

theorem kept_linkRise (s : State) (st : Fin 8) (port link : Nat) : Kept s (linkRise s st port link) :=
  .ite ((kept_modPort ..).trans (kept_modPort ..) |>.trans (kept_raiseEvt ..)) (.refl _)

theorem kept_netCfgWrite (s : State) (st : Fin 8) (port : Nat) (v : Word) : Kept s (netCfgWrite s st port v) :=
  .ite (kept_setReg ..) ((kept_setReg ..).trans (kept_portDrop ..) |>.trans (kept_modPort ..))

theorem kept_rtcCorrect (s : State) (by_ : DWord) : Kept s (rtcCorrect s by_) :=
  (kept_modPm ..).trans (kept_setFlag ..)

end Sys2Proof.Laws
end

section
/-! What the sequencers and the Clasp's gate keep. -/

-- One proof at a time: the stacks of many side by side would take the memory that the check allows.
set_option Elab.async false

namespace Sys2Proof.Laws

open Machine Safety

/-! ### The sequencer -/

theorem kept_seqVoid (s : State) (st : Fin 8) (n : Fin 4) : Kept s (seqVoid s st n) :=
  .ite (kept_modClp ..) (.refl _)

theorem kept_seqFault (s : State) (st : Fin 8) (n : Fin 4) (cls det high addr : Nat) :
    Kept s (seqFault s st n cls det high addr) :=
  (kept_modSeq ..).trans (kept_recordFault ..) |>.trans (kept_seqVoid ..)

theorem kept_seqNext (s : State) (st : Fin 8) (n : Fin 4) (pc : BitVec 15) : Kept s (seqNext s st n pc) :=
  (kept_modSeq ..).trans (kept_countPair ..)

theorem kept_seqDo (s : State) (st : Fin 8) (n : Fin 4) (f : Machine.Seq → Machine.Seq) : Kept s (seqDo s st n f) :=
  (kept_modSeq ..).trans (kept_seqNext ..)

theorem kept_seqHold (s : State) (st : Fin 8) (n : Fin 4) (w : SeqWait) : Kept s (seqHold s st n w) :=
  kept_modSeq ..

theorem kept_waitEnded (s : State) (st : Fin 8) (n : Fin 4) : Kept s (waitEnded s st n) :=
  (kept_drawElapsed ..).trans (kept_countPair ..)

theorem kept_aluBody (f : DWord → DWord → DWord) (st : Fin 8) (n : Fin 4) (s : State) (w : DWord) :
    Kept s (aluBody f st n s w) :=
  kept_seqDo ..

theorem kept_movhiBody (st : Fin 8) (n : Fin 4) (s : State) (w : DWord) : Kept s (movhiBody st n s w) :=
  kept_seqDo ..

theorem kept_cmpBody (st : Fin 8) (n : Fin 4) (s : State) (w : DWord) : Kept s (cmpBody st n s w) :=
  kept_seqDo ..

theorem kept_psetBody (st : Fin 8) (n : Fin 4) (s : State) (w : DWord) : Kept s (psetBody st n s w) :=
  kept_seqDo ..

theorem kept_callBody (st : Fin 8) (n : Fin 4) (s : State) (w : DWord) : Kept s (callBody st n s w) :=
  (kept_modSeq ..).trans (kept_seqNext ..)

theorem kept_seqRest (s : State) (st : Fin 8) (n : Fin 4) (dst : SeqState) (evt : Nat) :
    Kept s (seqRest s st n dst evt) :=
  (kept_modSeq ..).trans (kept_raiseEvt ..)

theorem kept_haltBody (st : Fin 8) (n : Fin 4) (s : State) (w : DWord) : Kept s (haltBody st n s w) :=
  (kept_modSeq ..).trans (kept_countPair ..) |>.trans (kept_seqRest ..)

theorem kept_dataBody (size : Nat) (f : Machine.Seq → Nat → Machine.Seq) (st : Fin 8) (n : Fin 4) (s : State) (w :
    DWord) :
    Kept s (dataBody size f st n s w) :=
  .ite (kept_seqDo ..) (kept_seqFault ..)

theorem kept_dwrBody (st : Fin 8) (n : Fin 4) (s : State) (w : DWord) : Kept s (dwrBody st n s w) :=
  kept_seqDo ..

theorem kept_dinsBody (st : Fin 8) (n : Fin 4) (s : State) (w : DWord) : Kept s (dinsBody st n s w) :=
  kept_seqDo ..

theorem kept_pushNow (s : State) (st : Fin 8) (n : Fin 4) (w : DWord) (q : Nat) : Kept s (pushNow s st n w q) :=
  (kept_modQueue ..).trans (kept_countWrap ..) |>.trans (kept_seqDo ..)

theorem kept_pushBody (st : Fin 8) (n : Fin 4) (s : State) (w : DWord) : Kept s (pushBody st n s w) :=
  .ite (kept_seqFault ..) (Kept.ite (kept_seqFault ..) (Kept.ite (kept_seqHold ..) (kept_pushNow ..)))

theorem kept_waitOutcome (s : State) (q : Queue) (from_ token : Word) : Kept s (waitOutcome s q from_ token).2 := by
  unfold waitOutcome
  dsimp only
  split
  · exact kept_drawFree ..
  · dsimp only
    exact .refl _

theorem kept_timeBody (st : Fin 8) (n : Fin 4) (s : State) (w : DWord) : Kept s (timeBody st n s w) :=
  .ite (kept_seqDo ..) ((kept_drawElapsed ..).trans (kept_seqDo ..))

theorem kept_seqRefuse (s : State) (st : Fin 8) (n : Fin 4) : Kept s (seqRefuse s st n) :=
  kept_modSeq ..

theorem kept_seqLoad (s : State) (st : Fin 8) (n : Fin 4) : Kept s (seqLoad s st n) := by
  unfold seqLoad
  split
  · exact .ite (kept_seqRefuse ..) (kept_modSeq ..)
  · exact .ite (kept_seqRefuse ..) (kept_modSeq ..)
  · exact .ite (kept_seqRefuse ..) (kept_modSeq ..)
  · exact .ite (kept_seqRefuse ..) (kept_modSeq ..)
  · exact .ite (kept_seqRefuse ..) (kept_modSeq ..)
  · exact kept_seqRefuse ..

theorem kept_seqStart (s : State) (st : Fin 8) (n : Fin 4) : Kept s (seqStart s st n) :=
  .ite (kept_modSeq ..) (kept_seqRefuse ..)

theorem kept_seqStop (s : State) (st : Fin 8) (n : Fin 4) : Kept s (seqStop s st n) :=
  .ite ((kept_modSeq ..).trans (kept_seqRest ..)) (kept_seqRefuse ..)

theorem kept_seqResume (s : State) (st : Fin 8) (n : Fin 4) : Kept s (seqResume s st n) :=
  .ite (kept_modSeq ..) (kept_seqRefuse ..)

theorem kept_seqSave (s : State) (st : Fin 8) (n : Fin 4) (withData : Bool) : Kept s (seqSave s st n withData) := by
  unfold seqSave
  split
  · exact .ite (kept_seqRefuse ..) (kept_modSeq ..)
  · exact .ite (kept_seqRefuse ..) (kept_modSeq ..)
  · exact .ite (kept_seqRefuse ..) (kept_modSeq ..)
  · exact kept_seqRefuse ..

theorem kept_seqRestore (s : State) (st : Fin 8) (n : Fin 4) : Kept s (seqRestore s st n) := by
  unfold seqRestore
  split
  · exact .ite (kept_seqRefuse ..) (kept_modSeq ..)
  · exact .ite (kept_seqRefuse ..) (kept_modSeq ..)
  · exact .ite (kept_seqRefuse ..) (kept_modSeq ..)
  · exact .ite (kept_seqRefuse ..) (kept_modSeq ..)
  · exact kept_seqRefuse ..

theorem kept_seqClear (s : State) (st : Fin 8) (n : Fin 4) : Kept s (seqClear s st n) := by
  unfold seqClear
  split
  · exact kept_seqRefuse ..
  · exact kept_seqRefuse ..
  · exact kept_modSeq ..

theorem kept_seqCmd (s : State) (st : Fin 8) (n : Fin 4) (v : Word) : Kept s (seqCmd s st n v) := by
  unfold seqCmd
  split
  · exact .refl _
  · exact kept_seqLoad ..
  · exact kept_seqStart ..
  · exact kept_seqStop ..
  · exact kept_seqResume ..
  · exact kept_seqSave ..
  · exact kept_seqRestore ..
  · exact kept_seqClear ..
  · exact kept_seqRefuse ..

theorem kept_saveDone (s : State) (st : Fin 8) (n : Fin 4) (withData : Bool) (back : SeqState) :
    Kept s (saveDone s st n withData back) := by
  unfold saveDone
  dsimp only
  split
  · exact (kept_modSeq ..).trans (kept_seqFault ..)
  · split
    · next eq =>
        exact (kept_modSeq ..).trans (Kept.fst_of (kept_engWrite ..) eq) |>.trans (kept_raiseEvt ..)
    · next eq =>
        exact (kept_modSeq ..).trans (Kept.fst_of (kept_engWrite ..) eq) |>.trans (kept_seqFault ..)
    · next eq =>
        exact (kept_modSeq ..).trans (Kept.fst_of (kept_engWrite ..) eq) |>.trans (kept_countUe ..)
            |>.trans (kept_seqFault ..)

theorem kept_restoreDone (s : State) (st : Fin 8) (n : Fin 4) (back : SeqState) :
    Kept s (restoreDone s st n back) :=
  .ite ((kept_modSeq ..).trans (kept_seqFault ..)) (Kept.ite ((kept_modSeq ..).trans (kept_countUe ..)
    |>.trans (kept_seqFault ..)) (Kept.ite ((kept_modSeq ..).trans (kept_seqFault ..)) (Kept.ite ((kept_modSeq
    ..).trans (kept_seqFault ..)) (Kept.ite ((kept_modSeq ..).trans (kept_seqFault ..)) ((kept_modSeq ..).trans
    (kept_modSeq ..) |>.trans (kept_raiseEvt ..))))))

/-! ### The step's end -/

theorem kept_optWrites (st : Fin 8) (plan : Nat) (l : List (Nat × List Byte)) (s : State) :
    Kept s (optWrites st plan l s).1 := by
  induction l generalizing s with
  | nil => exact .refl _
  | cons x l ih =>
    have h := kept_tabWrite s st plan 6 true x.1 x.2
    rw [optWrites]
    split
    next eq => exact h.fst_of eq
    next eq => exact (h.fst_of eq).trans (ih _)

theorem kept_runKernel (s : State) (st : Fin 8) (plan : Nat) (o : Opt) (x : OptArray) (gs : List Val) :
    Kept s (runKernel s st plan o x gs).1 := by
  unfold runKernel
  extract_lets key vfmt zeros prep
  clear_value prep
  split
  · exact .refl _
  · dsimp only
    split
    next eq => exact .fst_of (kept_optWrites ..) eq
    next eq => exact .fst_of (kept_optWrites ..) eq

theorem kept_claspFault (s : State) (st : Fin 8) (e : TabErr) : Kept s (claspFault s st e) := by
  unfold claspFault
  split
  · exact kept_recordFault ..
  · exact kept_memFault ..

/-- Unfolded as in `kept_copyRow`. -/
theorem kept_denseUpdate (s : State) (st : Fin 8) (i : Nat) : Kept s (denseUpdate s st i).1 := by
  obtain ⟨f, hf⟩ : ∃ f, f = denseUpdate := exists_eq
  obtain ⟨read, hr⟩ : ∃ f, f = tabRead := exists_eq
  rw [← hf]
  delta denseUpdate at hf
  rw [← hr] at hf
  subst hf
  dsimp only
  split
  · exact .refl _
  · split
    · exact .refl _
    · split
      · exact .refl _
      · split
        next eq => exact .fst_of (kept_runKernel ..) eq
        next eq => exact .fst_of (kept_runKernel ..) eq

/-- Unfolded as in `kept_copyRow`. -/
theorem kept_rowUpdate (s : State) (st : Fin 8) (r : TouchedRow) : Kept s (rowUpdate s st r).1 := by
  have hk := kept_runKernel
  obtain ⟨f, hf⟩ : ∃ f, f = rowUpdate := exists_eq
  obtain ⟨table, ht⟩ : ∃ f, f = readTable := exists_eq
  rw [← hf]
  delta rowUpdate at hf
  rw [← ht] at hf
  subst hf
  dsimp only
  split
  · exact .refl _
  · split
    · exact .refl _
    · split
      next eq => exact .fst_of (hk ..) eq
      next s1 wb bad eq =>
        have h := Kept.fst_of (hk ..) eq
        split
        all_goals
          next eq' =>
            refine h.trans (.fst_of ?_ eq')
            split
            · exact kept_writeThrough ..
            · exact .refl _

theorem kept_updNf (s : State) (st : Fin 8) (bad : Bool) : Kept s (updNf s st bad) :=
  .ite (kept_setFlag ..) (.refl _)

/-- Unfolded as in `kept_copyRow`. -/
theorem kept_issueDense (st : Fin 8) (l : List Nat) (s : State) : Kept s (issueDense st l s) := by
  obtain ⟨f, hf⟩ : ∃ f, f = issueDense := exists_eq
  obtain ⟨d, hd⟩ : ∃ f, f = denseUpdate := exists_eq
  rw [← hf]
  delta issueDense issueDense._f at hf
  rw [← hd] at hf
  subst hf
  induction l generalizing s with
  | nil => exact .refl _
  | cons i l ih =>
    have h := kept_denseUpdate s st i
    rw [← hd] at h
    refine .ite (.refl _) ?_
    split
    next eq => exact (h.fst_of eq).trans (kept_claspFault ..)
    next eq => exact (h.fst_of eq).trans (kept_updNf ..) |>.trans (ih _)

/-- Unfolded as in `kept_copyRow`. -/
theorem kept_issueRows (st : Fin 8) (l : List TouchedRow) (s : State) : Kept s (issueRows st l s) := by
  obtain ⟨f, hf⟩ : ∃ f, f = issueRows := exists_eq
  obtain ⟨d, hd⟩ : ∃ f, f = rowUpdate := exists_eq
  rw [← hf]
  delta issueRows issueRows._f at hf
  rw [← hd] at hf
  subst hf
  induction l generalizing s with
  | nil => exact .refl _
  | cons r l ih =>
    have h := kept_rowUpdate s st r
    rw [← hd] at h
    refine .ite (.refl _) ?_
    split
    next eq => exact (h.fst_of eq).trans (kept_claspFault ..)
    next s1 done bad eq =>
      have hc : Kept s1 (if done then s1.countPair (filPage st) 0x098 else s1) :=
        .ite (kept_countPair ..) (.refl _)
      exact (h.fst_of eq).trans hc |>.trans (kept_updNf ..) |>.trans (ih _)

theorem kept_commitUpdates (s : State) (st : Fin 8) : Kept s (commitUpdates s st) := by
  have h := (kept_issueDense st (List.range (s.fld (filPage st) 0x068 15 0)) s).trans
    (kept_issueRows st (s.st st).fil.touched _)
  exact .ite (h.trans (kept_raiseEvt ..)) h

theorem kept_claspBegin (s : State) (st : Fin 8) : Kept s (claspBegin s st) :=
  .ite ((kept_modClp ..).trans (kept_raiseEvt ..)) (kept_modClp ..)

theorem kept_disagree (s : State) (lowest : Nat) : Kept s (disagree s lowest) :=
  .foldl (fun _ _ => (kept_recordFault ..).trans (kept_tornNow ..)) _ _

theorem kept_voteLateTorn (s : State) : Kept s (voteLateTorn s) :=
  .foldl (fun _ _ => by
      refine .trans ?_ (kept_tornNow ..)
      split
      · exact kept_recordFault ..
      · exact .refl _) _ _

theorem kept_stepRecord (s : State) (outcome : Nat) : Kept s (stepRecord s outcome) :=
  (kept_modLkt ..).trans (kept_locketRequest ..)

theorem kept_commitStep (s : State) : Kept s (commitStep s) := by
  unfold commitStep
  extract_lets s1 s2
  have h1 : Kept s s1 := by
    refine .foldl (fun s i => .ite (.refl _) ?_) _ _
    split
    · exact kept_claspFault ..
    · exact .refl _
  have h2 : Kept s s2 := h1.trans (.foldl (fun s i => .ite (kept_commitUpdates ..) (.refl _)) _ _)
  exact .ite h1 (.ite (h2.trans (kept_stepRecord ..)) h2)

theorem kept_claspGate (s : State) : Kept s (claspGate s) := by
  have h1 : Kept s (s.stacksIn.foldl claspBegin s) := .foldl (fun s i => kept_claspBegin ..) _ _
  refine .ite (.refl _) ?_
  split
  · exact h1.trans (kept_disagree ..)
  · refine .ite (h1.trans (kept_voteLateTorn ..)) ?_
    extract_lets outcome seq s2
    have h2 : Kept s s2 := h1.trans (.foldl (fun s i => kept_modClp ..) _ _)
    exact .ite (h2.trans (kept_commitStep ..)) (h2.trans (kept_stepRecord ..))

theorem kept_ckptRecord (s : State) (st : Fin 8) (step bytes : DWord) (status : Nat) :
    Kept s (ckptRecord s st step bytes status) :=
  kept_locketRequest ..

theorem kept_ckptFailed (s : State) (st : Fin 8) (ctx status : Nat) : Kept s (ckptFailed s st ctx status) :=
  (kept_setFld ..).trans (kept_recordFault ..)

theorem kept_ckptEvent (s : State) (st : Fin 8) : Kept s (ckptEvent s st) := by
  unfold ckptEvent
  dsimp only
  split
  · exact (kept_ckptRecord ..).trans (kept_ckptFailed ..)
  · exact kept_modClp ..
  · exact .ite (kept_modStack ..) (Kept.ite ((kept_submit ..).trans (kept_modStack ..)) (kept_submit ..))

theorem kept_ckptAfter (s : State) (st : Fin 8) : Kept s (ckptAfter s st) :=
  .ite ((kept_modClp ..).trans (kept_ckptEvent ..)) (.refl _)

theorem kept_clearTouched (s : State) (st : Fin 8) : Kept s (clearTouched s st) :=
  kept_modFil ..

end Sys2Proof.Laws
end

section
/-! What checkpoint streams, collectives and sessions keep. -/

-- One proof at a time: the stacks of many side by side would take the memory that the check allows.
set_option Elab.async false

namespace Sys2Proof.Laws

open Machine Safety

/-! ### Checkpoints -/

theorem kept_modSlot (s : State) (n : Nat) (f : SealSlot → SealSlot) : Kept s (s.modSlot n f) := by
  unfold State.modSlot
  split
  · exact kept_modBzl ..
  · exact .refl _

theorem kept_sealOut (s : State) (n opc flags : Nat) (addr : DWord) (data : List Byte) :
    Kept s (sealOut s n opc flags addr data).2 := by
  unfold sealOut
  dsimp only
  exact kept_modSlot ..

theorem kept_endStream (s : State) (st : Fin 8) (status : Nat) : Kept s (endStream s st status) :=
  (kept_modCkpt ..).trans (kept_modClp ..) |>.trans (kept_ckptRecord ..)

theorem kept_abandonStream (s : State) (st : Fin 8) (status : Nat) : Kept s (abandonStream s st status) :=
  (kept_endStream ..).trans (kept_ckptFailed ..)

theorem kept_sendCkptData (st : Fin 8) (ctx : Nat) (acc : State × List Byte) (piece : Nat × Nat) :
    Kept acc.1 (sendCkptData st ctx acc piece).1 := by
  unfold sendCkptData
  dsimp only
  split
  · exact (kept_sealOut ..).trans (kept_sendOp ..)
  · exact kept_sendOp ..

theorem kept_startStream (s : State) (st : Fin 8) : Kept s (startStream s st) := by
  unfold startStream
  extract_lets c
  split
  next i ctx _ =>
    refine .ite (kept_abandonStream ..) ?_
    extract_lets x n pieces s1 s2 s3
    have h2 : Kept s s2 := (kept_modCkpt ..).trans (kept_modClp ..) |>.trans (kept_raiseEvt ..)
    refine .ite (h2.trans (kept_drawFree ..) |>.trans (kept_abandonStream ..)) ?_
    have h4 := Kept.foldl_fst (kept_sendCkptData st ctx) pieces (s3, [])
    exact h2.trans (kept_sendOp ..) |>.trans h4 |>.trans (kept_sendOp ..)
  · exact kept_abandonStream ..

theorem kept_ckptAck (s : State) (st : Fin 8) (ctx : Nat) (step : DWord) (status : Nat) :
    Kept s (ckptAck s st ctx step status) :=
  .ite (Kept.ite ((kept_endStream ..).trans (kept_setFld ..) |>.trans (kept_raiseEvt ..)) (kept_abandonStream ..))
    (.refl _)

theorem kept_ckptSessionLost (s : State) (st : Fin 8) (ctx : Nat) : Kept s (ckptSessionLost s st ctx) :=
  .ite (kept_abandonStream ..) (.refl _)

/-! ### Collectives -/

theorem kept_chanRing (s : State) (st : Fin 8) (c : Nat) : Kept s (chanRing s st c) :=
  kept_ringBits ..

theorem kept_chanStop (s : State) (st : Fin 8) (c : Nat) : Kept s (chanStop s st c) :=
  (kept_modChan ..).trans (kept_chanRing ..)

theorem kept_chanFail (s : State) (st : Fin 8) (c det high : Nat) : Kept s (chanFail s st c det high) :=
  (kept_recordFault ..).trans (kept_chanStop ..)

theorem kept_chanMemFail (s : State) (st : Fin 8) (c : Nat) (e : MemErr) : Kept s (chanMemFail s st c e) :=
  (kept_memFault ..).trans (kept_chanStop ..)

theorem kept_sendSeg (s : State) (st : Fin 8) (c dest phase round index : Nat) (w : Int) (fl : WinFlags) (data :
    List Byte) :
    Kept s (sendSeg s st c dest phase round index w fl data) :=
  kept_sendOp ..

theorem kept_setSub (s : State) (st : Fin 8) (c u : Nat) (w : Int) (fl : WinFlags) :
    Kept s (setSub s st c u w fl) :=
  kept_modChan ..

theorem kept_sendUnit (st : Fin 8) (c phase round : Nat) (s : State) (u : Nat) :
    Kept s (sendUnit st c phase round s u) := by
  unfold sendUnit
  dsimp only
  split
  · exact .refl _
  · split
    · exact kept_chanMemFail ..
    · exact kept_sendSeg ..

theorem kept_sendBlock (st : Fin 8) (c round a n : Nat) (s : State) (i : Nat) :
    Kept s (sendBlock st c round a n s i) := by
  unfold sendBlock
  dsimp only
  split
  · exact .refl _
  · split
    · exact kept_chanMemFail ..
    · exact kept_sendSeg ..

theorem kept_sendRound (s : State) (st : Fin 8) (c : Nat) (gather : Bool) (round : Nat) :
    Kept s (sendRound s st c gather round) :=
  .ite (Kept.foldl (fun _ _ => kept_sendBlock ..) _ _) (Kept.foldl (fun _ _ => kept_sendUnit ..) _ _)

theorem kept_endTile (st : Fin 8) (c : Nat) (s : State) (t : Nat) : Kept s (endTile st c s t) := by
  unfold endTile
  dsimp only
  split
  · exact .refl _
  · split
    · exact kept_chanMemFail ..
    · split
      · exact kept_chanFail ..
      · split
        · next eq1 =>
            exact (Kept.fst_of (kept_engWrite ..) eq1).trans (kept_chanMemFail ..)
        · next eq1 =>
            exact Kept.fst_of (kept_engWrite ..) eq1

theorem kept_chanDone (s : State) (st : Fin 8) (c : Nat) : Kept s (chanDone s st c) :=
  (kept_modChan ..).trans (kept_chanRing ..) |>.trans (kept_raiseEvt ..)

theorem kept_votesIn (s : State) (st : Fin 8) (c : Nat) : Kept s (votesIn s st c) :=
  .ite (kept_chanDone ..) (.refl _)

theorem kept_chanFinish (s : State) (st : Fin 8) (c : Nat) : Kept s (chanFinish s st c) :=
  .ite (Kept.ite (Kept.foldl (fun _ _ => kept_endTile ..) _ _) (.refl _)) (Kept.ite ((Kept.ite (Kept.foldl
    (fun _ _ => kept_endTile ..) _ _) (.refl _) |>.trans (.foldl
    (fun _ _ => kept_sendSeg ..) _ _)).trans (kept_modChan ..) |>.trans (kept_modClp ..)
    |>.trans (kept_votesIn ..)) ((Kept.ite (Kept.foldl (fun _ _ => kept_endTile ..) _ _)
    (.refl _)).trans (kept_chanDone ..)))

theorem kept_pump (st : Fin 8) (c fuel : Nat) (s : State) : Kept s (pump st c fuel s) := by
  induction fuel generalizing s with
  | zero => exact .refl _
  | succ fuel ih =>
    have hm := kept_modChan s st c
    rw [pump]
    exact .ite (.refl _) <| .ite ((hm _).trans (ih _)) <| .ite ((hm _).trans (kept_sendRound ..) |>.trans (ih _)) <|
      .ite (.refl _) <| .ite ((hm _).trans (ih _)) <| .ite ((hm _).trans (kept_sendRound ..) |>.trans (ih _)) <|
      .ite (.refl _) (kept_chanFinish ..)

theorem kept_chanPump (s : State) (st : Fin 8) (c : Nat) : Kept s (chanPump s st c) :=
  kept_pump ..

theorem kept_copyOwn (s : State) (st : Fin 8) (c : Nat) : Kept s (copyOwn s st c) := by
  unfold copyOwn
  extract_lets x n
  refine .ite (kept_chanFail ..) ?_
  split
  · exact kept_chanMemFail ..
  · split
    next eq => exact (Kept.fst_of (kept_engWrite ..) eq).trans (kept_chanMemFail ..)
    next eq => exact .fst_of (kept_engWrite ..) eq

theorem kept_succStart (s : State) (st : Fin 8) (c : Nat) : Kept s (succStart s st c) :=
  (kept_modChan ..).trans (kept_chanPump ..)

/-- Unfolded as in `kept_copyRow`. -/
theorem kept_chanStart (s : State) (st : Fin 8) (c : Nat) : Kept s (chanStart s st c) := by
  obtain ⟨f, hf⟩ : ∃ f, f = chanStart := exists_eq
  obtain ⟨read, hr⟩ : ∃ f, f = engRead := exists_eq
  obtain ⟨place, hp⟩ : ∃ f, f = rangePlace := exists_eq
  obtain ⟨check, hc⟩ : ∃ f, f = regionCheck := exists_eq
  rw [← hf]
  delta chanStart at hf
  rw [← hr, ← hp, ← hc] at hf
  subst hf
  beta_reduce
  extract_lets step s0 base plan
  have h0 : Kept s s0 := (kept_setFlag ..).trans (kept_modChan ..)
  refine .ite (h0.trans (kept_chanFail ..)) ?_
  split
  · exact h0.trans (kept_chanMemFail ..)
  split
  · exact h0.trans (kept_chanFail ..)
  extract_lets n
  split
  · exact h0.trans (kept_chanMemFail ..)
  extract_lets s1 x s2 s3 ready s4
  have h1 : Kept s s1 := h0.trans (kept_modChan ..)
  split
  · exact h1.trans (kept_chanFail ..)
  split
  · exact h1.trans (kept_chanFail ..)
  have h2 : Kept s s2 := h1.trans (.ite (kept_copyOwn ..) (.refl _))
  have h4 : Kept s s4 := h2.trans (kept_sendSeg ..) |>.trans (kept_modChan ..)
  exact .ite h2 (.ite (h4.trans (kept_succStart ..)) h4)

theorem kept_chanTry (s : State) (st : Fin 8) (c : Nat) : Kept s (chanTry s st c) :=
  .ite (kept_chanStart ..) (.refl _)

theorem kept_collEvent (s : State) (st : Fin 8) (c : Nat) : Kept s (collEvent s st c) :=
  .ite ((kept_modChan ..).trans (kept_chanTry ..)) (kept_recordFault ..)

theorem kept_chanReadyWrite (s : State) (st : Fin 8) (v : Word) : Kept s (chanReadyWrite s st v) :=
  kept_setReg .. |>.trans (.foldl (fun _ _ => kept_chanTry ..) _ _)

theorem kept_segVoid (s : State) (st : Fin 8) (g : Segment) : Kept s (segVoid s st g) :=
  .ite (kept_modClp ..) (.refl _)

theorem kept_chanWrite (s : State) (st : Fin 8) (c a : Nat) (bs : List Byte) : Kept s (chanWrite s st c a bs) := by
  unfold chanWrite
  split
  · next eq =>
      exact (Kept.fst_of (kept_engWrite ..) eq).trans (kept_chanMemFail ..)
  · next eq =>
      exact Kept.fst_of (kept_engWrite ..) eq

theorem kept_reduceSub (s : State) (st : Fin 8) (c : Nat) (g : Segment) : Kept s (reduceSub s st c g) := by
  unfold reduceSub
  dsimp only
  split
  · exact kept_chanMemFail ..
  · split
    · exact kept_chanFail ..
    · exact kept_chanFail ..
    · exact (kept_setSub ..).trans (kept_chanWrite ..)

theorem kept_reduceF32 (s : State) (st : Fin 8) (c : Nat) (g : Segment) : Kept s (reduceF32 s st c g) := by
  unfold reduceF32
  dsimp only
  split
  · exact kept_chanMemFail ..
  · exact kept_chanWrite ..

theorem kept_gatherUnit (s : State) (st : Fin 8) (c : Nat) (g : Segment) : Kept s (gatherUnit s st c g) :=
  .ite (Kept.ite (kept_chanFail ..) (Kept.ite (kept_chanFail ..) (kept_chanWrite ..))) ((Kept.ite (kept_setSub ..)
    (.refl _)).trans (kept_chanWrite ..))

theorem kept_segStep (s : State) (st : Fin 8) (g : Segment) (body : State → State) (hb : ∀ t, Kept t (body t)) :
    Kept s (segStep s st g body) :=
  .ite (kept_segVoid ..) (.ite ((kept_segVoid ..).trans (kept_chanFail ..)) ((kept_segVoid ..).trans (hb _)))

theorem kept_startSegment (s : State) (st : Fin 8) (g : Segment) : Kept s (startSegment s st g) :=
  .ite (kept_segVoid ..) (Kept.ite (Kept.ite ((kept_segVoid ..).trans (kept_succStart ..)) (kept_segVoid ..))
    (Kept.ite ((kept_segVoid ..).trans (kept_modChan ..)) ((kept_segVoid ..).trans (kept_chanFail ..))))

/-- A unit that was taken, and what it lets go on. -/
theorem kept_chanTaken {s t : State} (st : Fin 8) (c : Nat) (f : Channel → Channel) (h : Kept s t) :
    Kept s (if (t.chan st c).active then chanPump (t.modChan st c f) st c else t) :=
  .ite (h.trans (kept_modChan ..) |>.trans (kept_chanPump ..)) h

theorem kept_reduceSegment (s : State) (st : Fin 8) (g : Segment) : Kept s (reduceSegment s st g) :=
  kept_segStep s st g _ fun _ => .ite (.refl _) <| kept_chanTaken st g.chan _ <|
    .ite (kept_reduceSub ..) (kept_reduceF32 ..)

theorem kept_gatherSegment (s : State) (st : Fin 8) (g : Segment) : Kept s (gatherSegment s st g) :=
  kept_segStep s st g _ fun _ => .ite (.refl _) <| kept_chanTaken st g.chan _ (kept_gatherUnit ..)

theorem kept_voteSegment (s : State) (st : Fin 8) (g : Segment) : Kept s (voteSegment s st g) :=
  .ite (kept_segVoid ..) (Kept.ite ((kept_segVoid ..).trans (kept_chanFail ..)) (Kept.ite ((kept_segVoid ..).trans
    (kept_modChan ..) |>.trans (kept_votesIn ..)) (kept_segVoid ..)))

theorem kept_collSessionLost (s : State) (st : Fin 8) (ctx : Nat) : Kept s (collSessionLost s st ctx) := by
  unfold collSessionLost
  dsimp only
  exact .foldl (fun _ _ => by
      split
      · exact .ite (kept_chanFail ..) (.refl _)
      · exact .refl _) _ _

/-! ### Sessions -/

theorem kept_sessClosed (s : State) (st : Fin 8) (ctx : Nat) : Kept s (sessClosed s st ctx) :=
  (kept_modSess ..).trans (kept_modStack ..) |>.trans (.foldl (fun _ _ => Kept.foldl
      (fun _ _ => kept_modSeq ..) _ _) _ _) |>.trans (kept_collSessionLost ..) |>.trans (kept_ckptSessionLost ..)

theorem kept_sessFailed (s : State) (st : Fin 8) (ctx : Nat) : Kept s (sessFailed s st ctx) :=
  (kept_modSess ..).trans (kept_raiseEvt ..) |>.trans (kept_collSessionLost ..) |>.trans (kept_ckptSessionLost ..)

theorem kept_sessOpened (s : State) (st : Fin 8) (ctx : Nat) : Kept s (sessOpened s st ctx) :=
  (kept_modSess ..).trans (kept_raiseEvt ..)

theorem kept_closeIfIdle (s : State) (st : Fin 8) (ctx : Nat) : Kept s (closeIfIdle s st ctx) :=
  .ite ((kept_modSess ..).trans (kept_sendPacket ..)) (.refl _)

theorem kept_requestClose (s : State) (st : Fin 8) (ctx : Nat) : Kept s (requestClose s st ctx) :=
  .ite ((kept_modSess ..).trans (kept_closeIfIdle ..)) (.refl _)

theorem kept_answerClose (s : State) (st : Fin 8) (ctx : Nat) : Kept s (answerClose s st ctx) :=
  (kept_sendPacket ..).trans (kept_sessClosed ..)

theorem kept_sendFragments (s : State) (st : Fin 8) (port link : Nat) (type : Byte) (dsid : Word) (body : List Byte)
    :
    Kept s (sendFragments s st port link type dsid body) :=
  .foldl (fun _ _ => kept_send ..) _ _

theorem kept_sendReject (s : State) (st : Fin 8) (port link isid status : Nat) :
    Kept s (sendReject s st port link isid status) :=
  kept_send ..

theorem kept_refuseCapacity (s : State) (st : Fin 8) (port link isid : Nat) :
    Kept s (refuseCapacity s st port link isid) :=
  (kept_countSat ..).trans (kept_raiseEvt ..) |>.trans (kept_sendReject ..)

theorem kept_acceptInit (s : State) (st : Fin 8) (port link ctx : Nat) (body rnd : List Byte) :
    Kept s (acceptInit s st port link ctx body rnd) :=
  (kept_modSess ..).trans (kept_sendFragments ..)

theorem kept_hsInit (s : State) (st : Fin 8) (port link : Nat) (body rnd : List Byte) :
    Kept s (hsInit s st port link body rnd) := by
  unfold hsInit
  dsimp only
  split
  · exact kept_badPacket ..
  · split
    · exact kept_refuseCapacity ..
    · split
      · exact (kept_countSat ..).trans (kept_sendReject ..)
      · split
        · exact kept_refuseCapacity ..
        · exact kept_acceptInit ..

theorem kept_openEnds (s : State) (st : Fin 8) (status sid : Nat) : Kept s (openEnds s st status sid) :=
  (kept_modStack ..).trans (kept_setReg ..) |>.trans (kept_setReg ..)

theorem kept_sendInit (s : State) (st : Fin 8) (ctx : Nat) (bs : List Byte) : Kept s (sendInit s st ctx bs) := by
  unfold sendInit
  dsimp only
  exact (kept_freeBytes ..).trans (kept_freeBytes ..) |>.trans (kept_freeBytes ..) |>.trans (kept_modSess ..)
      |>.trans (kept_sendFragments ..)

theorem kept_kxtOpenGo (s : State) (r : Requester) (st : Fin 8) : Kept s (kxtOpenGo s r st) := by
  unfold kxtOpenGo
  dsimp only
  split
  · exact .refl _
  · split
    · exact kept_openEnds ..
    · split
      · exact kept_openEnds ..
      · exact kept_openEnds ..
      · split
        · exact (kept_now ..).trans (kept_drawFree ..) |>.trans (kept_openEnds ..)
        · split
          · exact (kept_now ..).trans (kept_openEnds ..)
          · split
            · exact (kept_now ..).trans (kept_openEnds ..)
            · exact (kept_now ..).trans (kept_modStack ..) |>.trans (kept_sendInit ..) |>.trans (kept_setReg ..)

theorem kept_takeAck (s : State) (st : Fin 8) (ctx : Nat) (pn : DWord) (bs : List Byte) (sampleNs : Nat) :
    Kept s (takeAck s st ctx pn bs sampleNs) :=
  .ite (.refl _) ((kept_modSess .. |>.trans (.foldl (fun _ _ => kept_sendData ..) _ _)).trans (kept_sendQueued ..)
    |>.trans (kept_closeIfIdle ..))

end Sys2Proof.Laws
end

section
/-! What resets, the Bezel, the Tense, power and binding keep. -/

-- One proof at a time: the stacks of many side by side would take the memory that the check allows.
set_option Elab.async false

namespace Sys2Proof.Laws

open Machine Safety

/-! ### Resets of blocks -/

theorem kept_rngCleared (s : State) (st : Fin 8) (c : Nat) : Kept s (rngCleared s st c) :=
  kept_modCore ..

theorem kept_tablesCleared (s : State) (st : Fin 8) : Kept s (tablesCleared s st) :=
  (kept_discardQueue ..).trans (kept_discardQueue ..) |>.trans (.foldl (fun _ _ => kept_clearPage ..) _ _)
      |>.trans (kept_modFil ..) |>.trans (kept_hotEmpty ..)

theorem kept_discardPage (s : State) (p : Page) : Kept s (discardPage s p) :=
  .foldl (fun _ _ => kept_discardQueue ..) _ _

theorem kept_sessionsCleared (s : State) (st : Fin 8) : Kept s (sessionsCleared s st) := by
  unfold sessionsCleared
  exact (Kept.ite (kept_abandonStream ..) (.refl _) |>.trans (.foldl (fun _ _ => Kept.foldl
      (fun _ _ => kept_modSeq ..) _ _) _ _)).trans (kept_modStack ..)

theorem kept_endAllWaiting (s : State) (st : Fin 8) : Kept s (endAllWaiting s st) :=
  .foldl (fun _ _ => kept_endWaiting ..) _ _

theorem kept_stagedCleared (s : State) (st : Fin 8) : Kept s (stagedCleared s st) :=
  .foldl (fun _ _ => kept_modRegion ..) _ _

theorem kept_softBlock (s : State) (p : Page) : Kept s (softBlock s p) := by
  unfold softBlock
  dsimp only
  split
  · exact (kept_discardPage ..).trans (kept_modCore ..)
  · exact (kept_discardPage ..).trans (kept_modCore ..)
  · exact kept_rngCleared ..
  · exact (kept_discardPage ..).trans (kept_smpCleared ..)
  · exact kept_tablesCleared ..
  · exact kept_tablesCleared ..
  · split
    · exact kept_modSeq ..
    · exact .refl _
  · exact kept_endAllWaiting ..
  · exact kept_modClp ..
  · exact kept_modTns ..
  · exact kept_mbxReset ..
  · exact kept_modPort ..
  · exact kept_sessionsCleared ..
  · exact kept_discardPage ..
  · exact .refl _
  · exact (kept_discardPage ..).trans (kept_modStack ..) |>.trans (kept_stagedCleared ..)
  · exact .refl _
  · exact kept_modStack ..
  · exact kept_locketSoftReset ..
  · exact .refl _
  · exact .refl _
  · exact Kept.of_eq rfl rfl rfl rfl rfl rfl

theorem kept_softReset (s : State) (p : Page) : Kept s (softReset s p) :=
  .ite (.refl _) (Kept.ite (kept_clpRefuse ..) (Kept.ite (kept_recordPlain ..) ((kept_softBlock ..).trans
    (kept_clearPage ..) |>.trans (kept_setReg ..) |>.trans (kept_setFlag ..))))

theorem kept_primaryLost (s : State) : Kept s (primaryLost s) :=
  (kept_modLkt ..).trans (kept_modBzl ..) |>.trans (kept_apart ..)

theorem kept_domainState (s : State) (st : Fin 8) (k : Nat) : Kept s (domainState s st k) :=
  .ite (Kept.foldl
    (fun _ _ => (kept_modCore ..).trans (kept_zeroPanel ..)) _ _) (Kept.ite ((kept_modStack ..).trans
    (kept_endRefresh ..)) (Kept.ite ((kept_sessionsCleared ..).trans (kept_modStack ..)) (Kept.ite ((kept_zeroSram
    ..).trans (kept_modStack ..)) (Kept.ite ((kept_loseKey ..).trans (kept_modStack ..)
    |>.trans (kept_primaryLost ..)) ((kept_loseKey ..).trans (kept_modStack ..))))))

theorem kept_domainLost (s : State) (st : Fin 8) (k : Nat) : Kept s (domainLost s st k) :=
  kept_domainState .. |>.trans (.foldl (fun _ _ => (kept_clearPage ..).trans (kept_dropQueues ..)) _ _)

theorem kept_stackLost (s : State) (st : Fin 8) : Kept s (stackLost s st) :=
  Kept.foldl (fun _ _ => kept_domainLost ..) _ _ |>.trans (.foldl (fun _ _ => kept_setReg ..) _ _)

/-! ### The Bezel -/

theorem kept_bezelRecord (s : State) (code : Nat) (payload : List Byte) : Kept s (bezelRecord s code payload) :=
  kept_locketRequest ..

theorem kept_bzlFault (s : State) (det info : Nat) : Kept s (bzlFault s det info) :=
  .ite (kept_recordFault ..) ((kept_modBzl ..).trans (kept_pageFault ..))

theorem kept_heldWritten (s : State) : Kept s (heldWritten s) := by
  unfold heldWritten
  exact (Kept.foldl (fun _ _ => kept_addRequest ..) _ _).trans (kept_modBzl ..)

theorem kept_burnFuses (s : State) : Kept s (burnFuses s) :=
  kept_modBzl ..

theorem kept_firmwareStarts (s : State) : Kept s (firmwareStarts s) :=
  (kept_measExtend ..).trans (kept_measExtend ..) |>.trans (kept_measExtend ..) |>.trans (kept_modBzl ..) |>.trans
      (.foldl (fun _ _ => kept_modPower ..) _ _) |>.trans (kept_heldWritten ..)

theorem kept_stageComplete (s : State) (j : Nat) : Kept s (stageComplete s j) :=
  kept_setReg ..

theorem kept_domainsOn (s : State) (st : Fin 8) (mask : Nat) : Kept s (domainsOn s st mask) :=
  kept_setReg ..

theorem kept_enterRecovery (s : State) : Kept s (enterRecovery s) :=
  (kept_modBzl ..).trans (kept_setFld ..) |>.trans (kept_domainsOn ..) |>.trans (kept_loadNet ..)

theorem kept_bzlOutput (s : State) (bs : List Byte) : Kept s (bzlOutput s bs) :=
  (kept_modStack ..).trans (kept_setReg ..)

theorem kept_bzlEnd (s : State) (st : Fin 8) (op status : Nat) : Kept s (bzlEnd s st op status) :=
  .ite ((kept_setFld ..).trans (kept_raiseEvt ..)) ((kept_setFld ..).trans (kept_raiseEvt ..)
    |>.trans (kept_bezelRecord ..))

theorem kept_bzlIdentity (s : State) : Kept s (bzlIdentity s) :=
  (kept_bzlOutput ..).trans (kept_bzlEnd ..)

theorem kept_bzlAttest (s : State) : Kept s (bzlAttest s) :=
  .ite (kept_bzlEnd ..) ((kept_now ..).trans (kept_bzlOutput ..) |>.trans (kept_bzlEnd ..))

theorem kept_custodyAccept (s : State) (bs : List Byte) : Kept s (custodyAccept s bs) :=
  (kept_modBzl ..).trans (kept_measExtend ..) |>.trans (kept_modLkt ..) |>.trans (kept_raiseEvt ..) |>.trans (.foldl
      (fun _ _ => kept_stackLost ..) _ _) |>.trans (kept_setReg ..)

theorem kept_bzlCustody (s : State) : Kept s (bzlCustody s) :=
  .ite (kept_custodyAccept ..) (kept_bzlEnd ..)

theorem kept_wipeDone (s : State) : Kept s (wipeDone s) :=
  (kept_modLkt ..).trans (kept_modBzl ..) |>.trans (kept_now ..) |>.trans (kept_storeRecord ..) |>.trans (.foldl
      (fun _ _ => kept_storeRecord ..) _ _)

theorem kept_closeRemoved (old new : Bezel) (s : State) (st : Fin 8) : Kept s (closeRemoved old new s st) :=
  .foldl (fun _ _ => kept_answerClose ..) _ _

theorem kept_bzlConfig (s : State) : Kept s (bzlConfig s) :=
  .ite (kept_bzlEnd ..) ((Kept.ite ((kept_modBzl ..).trans (kept_measExtend ..)) ((kept_modBzl ..).trans
    (kept_measExtend ..) |>.trans (kept_measExtend ..) |>.trans (kept_raiseEvt ..)) |>.trans (.foldl
    (fun _ _ => kept_closeRemoved ..) _ _)).trans (kept_bzlEnd ..))

theorem kept_bzlSealEk (s : State) : Kept s (bzlSealEk s) :=
  .ite (kept_bzlEnd ..) ((kept_bzlOutput ..).trans (kept_bzlEnd ..))

theorem kept_bzlSealKey (s : State) : Kept s (bzlSealKey s) :=
  .ite (kept_bzlEnd ..) ((kept_modSlot ..).trans (kept_measExtend ..) |>.trans (kept_bzlEnd ..))

theorem kept_bzlSealDrop (s : State) : Kept s (bzlSealDrop s) :=
  .ite (kept_bzlEnd ..) ((Kept.foldl (fun _ _ => Kept.ite (kept_modSlot ..) (.refl _)) _ _).trans (kept_bzlEnd ..))

theorem kept_bzlDebug (s : State) : Kept s (bzlDebug s) :=
  .ite (kept_bzlEnd ..) ((kept_modBzl ..).trans (kept_measExtend ..) |>.trans (kept_bzlEnd ..)
    |>.trans (kept_raiseEvt ..) |>.trans (kept_bezelRecord ..))

theorem kept_bzlFwUpdate (s : State) : Kept s (bzlFwUpdate s) :=
  .ite (kept_bzlEnd ..) (Kept.ite ((kept_modBzl ..).trans (kept_measExtend ..) |>.trans (kept_modBzl ..)
    |>.trans (kept_firmwareStarts ..) |>.trans (kept_stageComplete ..) |>.trans (kept_stageComplete ..)
    |>.trans (kept_bzlEnd ..)) ((kept_modBzl ..).trans (kept_measExtend ..) |>.trans (kept_bzlEnd ..)))

theorem kept_bzlGo (s : State) (st : Fin 8) (op : Nat) : Kept s (bzlGo s st op) := by
  unfold bzlGo
  split
  · exact .refl _
  · split
    · exact kept_bzlEnd ..
    · split
      · exact kept_bzlIdentity ..
      · exact kept_bzlAttest ..
      · exact kept_bzlCustody ..
      · exact kept_bzlConfig ..
      · exact kept_bzlSealEk ..
      · exact kept_bzlSealKey ..
      · exact kept_bzlSealDrop ..
      · exact kept_bzlDebug ..
      · exact kept_bzlFwUpdate ..

theorem kept_bzlWordWrite (s : State) (st : Fin 8) (off : Nat) (v : Word) : Kept s (bzlWordWrite s st off v) := by
  unfold bzlWordWrite
  exact kept_modStack ..

theorem kept_mgmtRestart (s : State) (st : Fin 8) (missed : Nat) : Kept s (mgmtRestart s st missed) :=
  Kept.ite ((kept_modArb ..).trans (kept_recordFault ..) |>.trans (kept_drawFree ..)
      |>.trans (kept_abandonStream ..)) ((kept_modArb ..).trans (kept_recordFault ..)) |>.trans (.foldl
      (fun _ _ => kept_endWaiting ..) _ _)

theorem kept_portsToward (s : State) (st : Fin 8) : Kept s (portsToward s st) :=
  .foldl (fun _ _ => Kept.foldl (fun _ _ => Kept.ite ((kept_setFlag ..).trans (kept_raiseEvt ..))
    (.refl _)) _ _) _ _

theorem kept_holdStack (s : State) (st : Fin 8) : Kept s (holdStack s st) :=
  (kept_stackLost ..).trans (kept_portsToward ..) |>.trans (kept_modPower ..)

/-! ### The Tense -/

theorem kept_missPassed (s : State) (st : Fin 8) (now : Nat) : Kept s (missPassed s st now) :=
  .foldl (fun _ _ => (kept_modTns ..).trans (kept_raiseEvt ..)) _ _

theorem kept_deferSlot (st : Fin 8) (s : State) (e : Nat × Slot) : Kept s (deferSlot st s e) :=
  (Kept.ite ((kept_modTns ..).trans (kept_recordFault ..)) (kept_modTns ..)).trans (kept_raiseEvt ..)

theorem kept_fireSlot (st : Fin 8) (now : Nat) (s : State) (e : Nat × Slot) : Kept s (fireSlot st now s e) :=
  .ite ((kept_modTns ..).trans (kept_raiseEvt ..) |>.trans (kept_modTns ..)
    |>.trans (kept_raiseEvt ..)) ((kept_modTns ..).trans (kept_raiseEvt ..))

theorem kept_evalSlots (s : State) (st : Fin 8) : Kept s (evalSlots s st).1 :=
  kept_modTns .. |>.trans (.foldl (fun _ _ => kept_deferSlot ..) _ _) |>.trans (.foldl
      (fun _ _ => kept_fireSlot ..) _ _)

theorem kept_lockAt (s : State) (st : Fin 8) (t period number : Nat) : Kept s (lockAt s st t period number) :=
  (kept_modTns ..).trans (kept_raiseEvt ..) |>.trans (kept_missPassed ..)

theorem kept_keptCount (s : State) (st : Fin 8) (number : Option Nat) : Kept s (keptCount s st number) := by
  unfold keptCount
  split
  · dsimp only
    exact .ite (kept_modTns ..) ((kept_modTns ..).trans (kept_locketRequest ..))
  · exact .refl _

theorem kept_acquireEdge (s : State) (st : Fin 8) (t : Nat) (number : Option Nat) :
    Kept s (acquireEdge s st t number) := by
  unfold acquireEdge
  split
  · exact kept_modTns ..
  · dsimp only
    exact .ite (kept_modTns ..) ((kept_modTns ..).trans (kept_recordFault ..))
  · dsimp only
    exact .ite ((kept_keptCount ..).trans (kept_lockAt ..)) (kept_modTns ..)

theorem kept_numberCheck (s : State) (st : Fin 8) (beat number : Nat) : Kept s (numberCheck s st beat number) :=
  .ite (.refl _) ((kept_modTns ..).trans (kept_recordFault ..))

theorem kept_trackEdge (s : State) (st : Fin 8) (t : Nat) (number : Option Nat) :
    Kept s (trackEdge s st t number) := by
  unfold trackEdge
  dsimp only
  split
  · split
    · split
      · exact (Kept.ite ((kept_modTns ..).trans (kept_raiseEvt ..)) (kept_modTns ..)).trans (kept_numberCheck ..)
      · exact .ite ((kept_modTns ..).trans (kept_raiseEvt ..)) (kept_modTns ..)
    · exact (kept_countSat ..).trans (kept_raiseEvt ..)
  · split
    · split
      · exact (Kept.ite ((kept_modTns ..).trans (kept_raiseEvt ..)) (kept_modTns ..)).trans (kept_numberCheck ..)
      · exact .ite ((kept_modTns ..).trans (kept_raiseEvt ..)) (kept_modTns ..)
    · exact (kept_countSat ..).trans (kept_raiseEvt ..)

theorem kept_tnsEdge (s : State) (st : Fin 8) (t : Nat) (number : Option Nat) : Kept s (tnsEdge s st t number) := by
  unfold tnsEdge
  split
  · exact .refl _
  · split
    · exact .refl _
    · exact kept_acquireEdge ..
    · exact kept_acquireEdge ..
    · exact kept_trackEdge ..
    · exact kept_trackEdge ..

theorem kept_tnsFrame (s : State) (st : Fin 8) (number t : Nat) : Kept s (tnsFrame s st number t) := by
  unfold tnsFrame
  split
  · exact kept_tnsEdge ..
  · dsimp only
    exact .ite (kept_numberCheck ..) (kept_modTns ..)
  · exact .refl _

theorem kept_sleepEdge (s : State) (st : Fin 8) : Kept s (sleepEdge s st) :=
  .ite (.refl _) (kept_modTns ..)

theorem kept_beatCrossing (s : State) (st : Fin 8) (t : Nat) : Kept s (beatCrossing s st t) :=
  .ite (kept_sleepEdge ..) (Kept.ite (.refl _) (kept_tnsEdge ..))

theorem kept_beatBoundary (s : State) (st : Fin 8) : Kept s (beatBoundary s st) := by
  unfold beatBoundary
  exact kept_modTns ..

theorem kept_tickEdge (s : State) (st : Fin 8) : Kept s (tickEdge s st).1 := by
  unfold tickEdge
  dsimp only
  split
  · dsimp only
    exact .refl _
  · split
    · dsimp only
      exact .ite (kept_beatBoundary ..) (kept_modTns ..)
    · exact (Kept.ite (kept_beatBoundary ..) (kept_modTns ..)).trans (kept_missPassed ..)
          |>.trans (kept_evalSlots ..)

theorem kept_tnsStart (s : State) (st : Fin 8) : Kept s (tnsStart s st) :=
  .ite (.refl _) ((kept_setFlag ..).trans (kept_modTns ..))

theorem kept_tnsHalt (s : State) (st : Fin 8) : Kept s (tnsHalt s st) :=
  (kept_setFlag ..).trans (kept_modTns ..)

theorem kept_tnsCtrlWrite (s : State) (st : Fin 8) (v : Word) : Kept s (tnsCtrlWrite s st v) :=
  .ite ((Kept.ite ((Kept.ite ((Kept.ite (kept_setFld ..)
    (.refl _)).trans (kept_setFld ..)) (Kept.ite (kept_setFld ..)
    (.refl _))).trans (kept_setFld ..)) (Kept.ite ((Kept.ite (kept_setFld ..)
    (.refl _)).trans (kept_setFld ..)) (Kept.ite (kept_setFld ..)
    (.refl _)))).trans (kept_tnsStart ..)) (Kept.ite ((Kept.ite ((Kept.ite ((Kept.ite (kept_setFld ..)
    (.refl _)).trans (kept_setFld ..)) (Kept.ite (kept_setFld ..)
    (.refl _))).trans (kept_setFld ..)) (Kept.ite ((Kept.ite (kept_setFld ..)
    (.refl _)).trans (kept_setFld ..)) (Kept.ite (kept_setFld ..)
    (.refl _)))).trans (kept_tnsHalt ..)) (Kept.ite ((Kept.ite ((Kept.ite (kept_setFld ..)
    (.refl _)).trans (kept_setFld ..)) (Kept.ite (kept_setFld ..)
    (.refl _))).trans (kept_setFld ..)) (Kept.ite ((Kept.ite (kept_setFld ..)
    (.refl _)).trans (kept_setFld ..)) (Kept.ite (kept_setFld ..) (.refl _)))))

theorem kept_slotCfgWrite (s : State) (st : Fin 8) (v : Word) : Kept s (slotCfgWrite s st v) :=
  .ite ((kept_modTns ..).trans (kept_recordFault ..)) (kept_modTns ..)

theorem kept_disarmSlots (s : State) (st : Fin 8) : Kept s (disarmSlots s st) :=
  kept_modTns ..

/-! ### Power -/

theorem kept_setTransit (s : State) (st : Fin 8) (k : Nat) (b : Bool) : Kept s (setTransit s st k b) :=
  kept_setFlag ..

theorem kept_quiescePage (s : State) (p : Page) : Kept s (quiescePage s p) :=
  (kept_setFlag ..).trans (kept_quiesceRise ..)

theorem kept_startUp (s : State) (st : Fin 8) (k : Nat) : Kept s (startUp s st k) :=
  (kept_setTransit ..).trans (kept_setFlag ..)

theorem kept_startDown (s : State) (st : Fin 8) (k : Nat) : Kept s (startDown s st k) :=
  kept_setTransit .. |>.trans (.foldl (fun _ _ => kept_quiescePage ..) _ _)

theorem kept_applyDomains (s : State) (st : Fin 8) : Kept s (applyDomains s st) :=
  .ite (.refl _) (Kept.foldl (fun _ _ => Kept.ite
    (.refl _) (Kept.ite (kept_startUp ..) (Kept.ite (kept_startDown ..) (.refl _)))) _ _)

theorem kept_domRequest (s : State) (st : Fin 8) (v : Word) : Kept s (domRequest s st v) :=
  (Kept.ite ((kept_setReg ..).trans (kept_setFlag ..)) (kept_setReg ..)).trans (kept_setFld ..)
      |>.trans (kept_applyDomains ..)

theorem kept_linksFollow (s : State) : Kept s (linksFollow s) :=
  .foldl (fun _ _ => Kept.foldl (fun _ _ => Kept.ite (kept_setFlag ..) (.refl _)) _ _) _ _

theorem kept_trainPorts (s : State) (st : Fin 8) : Kept s (trainPorts s st) :=
  .foldl (fun _ _ => Kept.ite ((kept_setFlag ..).trans (kept_setFlag ..)) (.refl _)) _ _

theorem kept_trainMemory (s : State) (st : Fin 8) (failed : List Nat) : Kept s (trainMemory s st failed) :=
  .foldl (fun _ _ => kept_setFlag ..) _ _

theorem kept_domainInit (s : State) (st : Fin 8) (k : Nat) : Kept s (domainInit s st k) := by
  unfold domainInit
  split
  · dsimp only
    exact .ite ((kept_loadNet ..).trans (kept_trainPorts ..)) (kept_loadNet ..)
  · dsimp only
    exact .ite ((kept_loadSpares ..).trans (kept_trainMemory ..)) (kept_loadSpares ..)
  · exact .refl _

theorem kept_upDone (s : State) (st : Fin 8) (k : Nat) : Kept s (upDone s st k) :=
  .ite ((kept_setTransit ..).trans (kept_setFlag ..) |>.trans (kept_domainInit ..) |>.trans (kept_raiseEvt ..)
    |>.trans (kept_applyDomains ..)) (.refl _)

theorem kept_downDone (s : State) (st : Fin 8) (k : Nat) : Kept s (downDone s st k) :=
  .ite (Kept.ite ((kept_domainLost ..).trans (kept_linksFollow ..)
    |>.trans (kept_setReg ..)) ((kept_domainLost ..).trans (kept_setTransit ..) |>.trans (kept_setFlag ..)
    |>.trans (kept_linksFollow ..) |>.trans (kept_raiseEvt ..) |>.trans (kept_applyDomains ..))) (.refl _)

theorem kept_moduleDomain (s : State) (dom : Nat) (up : Bool) : Kept s (moduleDomain s dom up) :=
  .ite (Kept.ite (kept_setFlag ..) (.refl _)) (Kept.ite (Kept.ite (kept_setFlag ..) (.refl _)) (.refl _))

theorem kept_switchLevel (s : State) (st : Fin 8) (n : Nat) : Kept s (switchLevel s st n) :=
  .ite (.refl _) ((Kept.ite (kept_countSat ..) (.refl _)).trans (kept_setFld ..) |>.trans (kept_raiseEvt ..))

theorem kept_avsError (s : State) (st : Fin 8) (status : Nat) : Kept s (avsError s st status) :=
  (kept_setFlag ..).trans (kept_recordFault ..)

theorem kept_holdLevel (s : State) (st : Fin 8) : Kept s (holdLevel s st) := by
  unfold holdLevel
  exact (kept_switchLevel ..).trans (kept_modPower ..)

theorem kept_avsWrite (s : State) (st : Fin 8) (n : Nat) (fail : Option Nat) : Kept s (avsWrite s st n fail).1 := by
  unfold avsWrite
  dsimp only
  split
  · dsimp only
    exact (kept_setFld ..).trans (kept_setFld ..)
  · dsimp only
    exact (kept_setFld ..).trans (kept_avsError ..) |>.trans (kept_holdLevel ..)

theorem kept_seekLevel (s : State) (st : Fin 8) (fail : Option Nat) : Kept s (seekLevel s st fail) := by
  unfold seekLevel
  dsimp only
  split
  · exact .refl _
  · split
    · exact (kept_switchLevel ..).trans (kept_avsWrite ..)
    · split
      · next eq =>
          exact (Kept.fst_of (kept_avsWrite ..) eq).trans (kept_modPower ..)
      · next eq =>
          exact Kept.fst_of (kept_avsWrite ..) eq

theorem kept_windowPower (s : State) (tenthWatts mute : List Nat) : Kept s (windowPower s tenthWatts mute) :=
  .ite (Kept.foldl (fun _ _ => Kept.ite (kept_avsError ..) (kept_setReg ..)) _ _) ((Kept.foldl
    (fun _ _ => Kept.ite (kept_avsError ..) (kept_setReg ..)) _ _).trans (kept_setReg ..))

theorem kept_measureTemp (s : State) (st : Fin 8) (quarterC : Int) : Kept s (measureTemp s st quarterC) :=
  (kept_setReg ..).trans (kept_modPower ..)

theorem kept_capWrite (s : State) (v : Nat) : Kept s (capWrite s v) :=
  kept_setReg ..

theorem kept_thermWrite (s : State) (v : Nat) : Kept s (thermWrite s v) :=
  kept_setReg ..

theorem kept_setCause (s : State) (v : Nat) : Kept s (setCause s v) :=
  kept_setReg ..

theorem kept_allLost (s : State) : Kept s (allLost s) :=
  (Kept.foldl (fun _ _ => kept_stackLost ..) _ _).trans (kept_modPm ..)

theorem kept_moduleReset (s : State) (cause : Nat) : Kept s (moduleReset s cause) :=
  (kept_allLost .. |>.trans (.foldl (fun _ _ => kept_modStack ..) _ _)).trans (kept_setCause ..)

theorem kept_ctlReset (s : State) (st : Fin 8) : Kept s (ctlReset s st) :=
  .ite ((kept_allLost ..).trans (kept_setCause ..)) ((kept_stackLost ..).trans (kept_linksFollow ..))

theorem wf_powerOn (s : State) (h : Canonical s) : Canonical (powerOn s) :=
  ⟨Laws.Sparse.wf_keep (regDefault s.part) (fun k => k / 8 == (bzlPage 0).key 0x058 / 8) h.1, rfl, rfl⟩

theorem kept_powerOn (s : State) : Kept s (powerOn s) := ⟨rfl, rfl, wf_powerOn s⟩

theorem kept_recordFirst (s : State) (src : Source) (home : Fin 8) (code : Nat) (payload : List Byte) :
    Kept s (recordFirst s src home code payload) :=
  .ite ((kept_now ..).trans (kept_storeRecord ..)) (.refl _)

theorem kept_thermTrip (s : State) (st : Fin 8) (quarterC : Int) : Kept s (thermTrip s st quarterC) :=
  (kept_measureTemp ..).trans (kept_setFlag ..) |>.trans (kept_modPm ..) |>.trans (kept_pageFault ..)
      |>.trans (kept_recordFirst ..) |>.trans (.foldl (fun _ _ => (kept_stackLost ..).trans (kept_setReg ..)) _ _)
      |>.trans (kept_setFlag ..)

theorem kept_sleepGo (s : State) (v : Word) : Kept s (sleepGo s v) :=
  .ite (.refl _) (Kept.ite ((kept_setReg ..).trans (kept_raiseEvt ..)) (Kept.ite ((kept_modPm ..).trans
    (kept_setFlag ..)) (kept_modPm ..) |>.trans (.foldl (fun _ _ => Kept.foldl
    (fun _ _ => Kept.ite (kept_startDown ..) (.refl _)) _ _) _ _)))

theorem kept_tenseWakes (s : State) : Kept s (tenseWakes s) :=
  .foldl (fun _ _ => kept_modTns ..) _ _

theorem kept_domainsReturn (saved : List (BitVec 8)) (s : State) (st : Fin 8) : Kept s (domainsReturn saved s st) :=
  .foldl (fun _ _ => Kept.ite (.refl _) (Kept.ite (kept_setTransit .. |>.trans (.foldl
    (fun _ _ => kept_setFlag ..) _ _)) (kept_startUp ..))) _ _

theorem kept_rtcSet (s : State) (lo : Word) : Kept s (rtcSet s lo) := by
  unfold rtcSet
  exact (kept_apart ..).trans (kept_setReg ..) |>.trans (kept_setReg ..) |>.trans (kept_modPm ..)

theorem kept_hardRepairs (s : State) : Kept s (hardRepairs s) :=
  .foldl (fun _ _ => kept_addRequest ..) _ _

theorem kept_stage1 (s : State) (unpaired : List Nat) : Kept s (stage1 s unpaired) :=
  .ite ((Kept.ite ((kept_countPair ..).trans (kept_modBzl ..) |>.trans (kept_measExtend ..) |>.trans (kept_modPm ..)
    |>.trans (kept_recordFault ..)) ((kept_countPair ..).trans (kept_modBzl ..) |>.trans (kept_measExtend ..))
    |>.trans (.foldl
    (fun _ _ => kept_modPower ..) _ _)).trans (kept_stageComplete ..)) ((Kept.ite ((kept_countPair ..).trans
    (kept_modBzl ..) |>.trans (kept_measExtend ..) |>.trans (kept_modPm ..)
    |>.trans (kept_recordFault ..)) ((kept_countPair ..).trans (kept_modBzl ..) |>.trans (kept_measExtend ..))
    |>.trans (.foldl (fun _ _ => kept_modPower ..) _ _) |>.trans (.foldl
    (fun _ _ => kept_bzlFault ..) _ _)).trans (kept_calStartup ..) |>.trans (kept_modBzl ..)
    |>.trans (kept_enterRecovery ..))

theorem kept_stage2 (s : State) : Kept s (stage2 s) := by
  unfold stage2
  split
  · exact (kept_bzlFault ..).trans (kept_calStartup ..) |>.trans (kept_enterRecovery ..)
  · exact (kept_calStartup ..).trans (kept_firmwareStarts ..) |>.trans (kept_stageComplete ..)

theorem kept_stackPowered (s : State) (st : Fin 8) : Kept s (stackPowered s st) :=
  (kept_domainsOn ..).trans (kept_setReg ..) |>.trans (kept_loadVolts ..) |>.trans (kept_loadNet ..)
      |>.trans (kept_loadSpares ..)

theorem kept_stage4 (s : State) (untrained : List (Nat × Nat)) : Kept s (stage4 s untrained) :=
  (Kept.ite ((Kept.foldl (fun _ _ => kept_trainMemory ..) _ _).trans (kept_hardRepairs ..) |>.trans (.foldl
      (fun _ _ => kept_recordFault ..) _ _)) ((Kept.foldl
      (fun _ _ => kept_trainMemory ..) _ _).trans (kept_hardRepairs ..) |>.trans (.foldl
      (fun _ _ => kept_recordFault ..) _ _) |>.trans (kept_setFlag ..))).trans (kept_stageComplete ..)

theorem kept_stage7 (s : State) (fuseOk : Bool) : Kept s (stage7 s fuseOk) :=
  (Kept.ite (kept_burnFuses ..) (kept_bzlFault ..)).trans (kept_stageComplete ..) |>.trans (kept_raiseEvt ..)

theorem kept_stackReturns (s : State) (st : Fin 8) : Kept s (stackReturns s st) :=
  (kept_modPower ..).trans (kept_loadVolts ..) |>.trans (kept_loadSpares ..) |>.trans (kept_setReg ..)
      |>.trans (kept_applyDomains ..)

/-! ### Binding -/

theorem kept_bindRecord (s : State) (st : Fin 8) (first count outcome reason : Nat) (plan : BitVec 16) (ticket :
    Nat) :
    Kept s (bindRecord s st first count outcome reason plan ticket) :=
  kept_locketRequest ..

theorem kept_bindStat (s : State) (st : Fin 8) (r : Res) (state : Nat) (pending : BitVec 16) :
    Kept s (bindStat s st r state pending) := by
  unfold bindStat
  dsimp only
  split
  · exact kept_modRegion ..
  · exact kept_setReg ..
  · exact .foldl (fun _ _ => kept_setReg ..) _ _

theorem kept_discardAhead (s : State) (st : Fin 8) (c : Nat) : Kept s (discardAhead s st c) :=
  kept_modQueue ..

theorem kept_startQuiesce (s : State) (st : Fin 8) (plan : BitVec 16) (r : Res) :
    Kept s (startQuiesce s st plan r) := by
  unfold startQuiesce
  dsimp only
  split
  · exact (kept_bindStat .. |>.trans (.foldl (fun _ _ => (Kept.foldl
        (fun _ _ => kept_discardWaiting ..) _ _).trans (kept_quiescePage ..)) _ _)).trans (kept_discardAhead ..)
  · exact (kept_bindStat .. |>.trans (.foldl (fun _ _ => (Kept.foldl
        (fun _ _ => kept_discardWaiting ..) _ _).trans (kept_quiescePage ..)) _ _)).trans (kept_discardWaiting ..)
  · exact .ite ((kept_bindStat .. |>.trans (.foldl (fun _ _ => (Kept.foldl
        (fun _ _ => kept_discardWaiting ..) _ _).trans (kept_quiescePage ..)) _ _)).trans (kept_modSeq ..)
        |>.trans (kept_seqRest ..)) (kept_bindStat .. |>.trans (.foldl (fun _ _ => (Kept.foldl
        (fun _ _ => kept_discardWaiting ..) _ _).trans (kept_quiescePage ..)) _ _))
  · exact kept_bindStat .. |>.trans (.foldl (fun _ _ => (Kept.foldl
        (fun _ _ => kept_discardWaiting ..) _ _).trans (kept_quiescePage ..)) _ _) |>.trans (.foldl
        (fun _ _ => kept_requestClose ..) _ _)
  · exact kept_bindStat .. |>.trans (.foldl (fun _ _ => (Kept.foldl
        (fun _ _ => kept_discardWaiting ..) _ _).trans (kept_quiescePage ..)) _ _)

theorem kept_rebindGo (s : State) (r : Requester) (st : Fin 8) (v : Word) : Kept s (rebindGo s r st v) :=
  .ite (.refl _) (Kept.ite ((kept_modArb ..).trans (kept_setReg ..) |>.trans (kept_bindRecord ..)
    |>.trans (kept_raiseEvt ..)) ((kept_modArb ..).trans (kept_setReg ..) |>.trans (kept_modArb ..) |>.trans (.foldl
    (fun _ _ => kept_startQuiesce ..) _ _)))

theorem kept_modMoving (s : State) (st : Fin 8) (code phase : Nat) : Kept s (modMoving s st code phase) :=
  kept_modArb ..

theorem kept_enterScrub (s : State) (st : Fin 8) (code : Nat) (c : RebindCmd) (r : Res) :
    Kept s (enterScrub s st code c r) := by
  unfold enterScrub
  split
  · exact .ite ((kept_bindStat ..).trans (kept_modMoving ..)
        |>.trans (kept_submit ..)) ((kept_bindStat ..).trans (kept_modMoving ..))
  · exact (kept_bindStat ..).trans (kept_modMoving ..)

theorem kept_scrub (s : State) (st : Fin 8) (r : Res) : Kept s (scrub s st r) := by
  unfold scrub
  split
  · exact (kept_modCore ..).trans (kept_zeroPanel ..) |>.trans (.foldl
        (fun _ _ => (kept_clearPage ..).trans (kept_setReg ..)) _ _)
  · dsimp only
    split
    · exact (kept_discardQueue ..).trans (kept_modStack ..)
    · exact kept_discardQueue ..
  · exact (kept_discardQueue ..).trans (kept_setFlag ..) |>.trans (kept_hotEmpty ..)
  · exact (kept_discardQueue ..).trans (kept_modFil ..)
  · exact kept_modSeq ..
  · exact kept_disarmSlots ..
  · exact (kept_discardPage ..).trans (kept_modStack ..)
  · exact kept_discardPage ..
  · exact .foldl (fun _ _ => Kept.ite (.refl _) (kept_sessClosed ..)) _ _
  · dsimp only
    exact (Kept.ite (kept_zeroRange ..) (.refl _)).trans (kept_dropActivity ..)
  · exact .refl _

theorem kept_handOver (s : State) (st : Fin 8) (c : RebindCmd) (r : Res) : Kept s (handOver s st c r) := by
  unfold handOver
  dsimp only
  refine .trans ?_ (.foldl (fun _ _ => kept_raiseEvt ..) _ _)
  split
  · exact (kept_bindStat .. |>.trans (.foldl
        (fun _ _ => (kept_setReg ..).trans (kept_setFlag ..)) _ _)).trans (kept_modRegion ..)
  · split
    · exact (kept_bindStat .. |>.trans (.foldl
          (fun _ _ => (kept_setReg ..).trans (kept_setFlag ..)) _ _)).trans (kept_setReg ..)
    · exact kept_bindStat .. |>.trans (.foldl (fun _ _ => (kept_setReg ..).trans (kept_setFlag ..)) _ _)

theorem kept_commandDone (s : State) (st : Fin 8) (c : RebindCmd) (code : Nat) : Kept s (commandDone s st c code) :=
  .ite ((Kept.ite (kept_setFld ..)
    (.refl _)).trans (kept_modArb ..)) ((Kept.ite (Kept.ite ((Kept.ite (kept_setFld ..)
    (.refl _)).trans (kept_modArb ..) |>.trans (kept_setFld ..)) ((Kept.ite (kept_setFld ..)
    (.refl _)).trans (kept_modArb ..))) ((Kept.ite ((Kept.ite (kept_setFld ..) (.refl _)).trans (kept_modArb ..)
    |>.trans (kept_setFld ..)) ((Kept.ite (kept_setFld ..)
    (.refl _)).trans (kept_modArb ..))).trans (kept_raiseEvt ..))).trans (kept_bindRecord ..))

end Sys2Proof.Laws
end

section
/-! What register reads, register writes and a tick keep. -/

-- One proof at a time: the stacks of many side by side would take the memory that the check allows.
set_option Elab.async false

namespace Sys2Proof.Laws

open Machine Safety

/-! ### Register reads -/

theorem kept_pairNow (s : State) (p : Page) (lo : Nat) : Kept s (pairNow s p lo).2.2 := by
  unfold pairNow
  split
  · exact kept_now ..
  · exact .refl _

theorem kept_readReg (s : State) (r : Requester) (p : Page) (off : Nat) : Kept s (readReg s r p off).2 := by
  unfold readReg
  extract_lets k v
  split
  · exact (kept_pairNow ..).trans (kept_apart ..)
  split
  · split
    · exact kept_apart ..
    · exact kept_pairNow ..
  split
  · exact kept_mboxRead ..
  split
  · exact kept_winRead ..
  split
  · exact kept_winRead ..
  split
  · split
    · exact .refl _
    · exact kept_setReg ..
  · exact .refl _

/-! ### Register writes -/

theorem kept_storedWrite (s : State) (p : Page) (off : Nat) (v : Word) : Kept s (storedWrite s p off v) := by
  unfold storedWrite
  split
  · exact .refl _
  · dsimp only
    exact kept_setReg ..

theorem kept_ctrlWrite (s : State) (p : Page) (v : Word) : Kept s (ctrlWrite s p v) :=
  .ite ((kept_storedWrite ..).trans (kept_setFlag ..) |>.trans (kept_quiesceRise ..)
    |>.trans (kept_softReset ..)) ((kept_storedWrite ..).trans (kept_setFlag ..) |>.trans (kept_quiesceRise ..))

theorem kept_evtSettle (s : State) (p : Page) : Kept s (evtSettle s p) :=
  .ite (kept_modStack ..) (.refl _)

theorem kept_evtEnable (s : State) (p : Page) (v : Word) : Kept s (evtEnable s p v) :=
  (kept_setReg ..).trans (kept_lineRise ..) |>.trans (kept_evtSettle ..)

theorem kept_xfrRelease (s : State) (st : Fin 8) : Kept s (xfrRelease s st) := by
  unfold xfrRelease
  exact (Kept.foldl (fun _ _ => Kept.ite (kept_discardQueue ..) (.refl _)) _ _).trans (kept_modStack ..)

theorem kept_chanRelease (s : State) (st : Fin 8) : Kept s (chanRelease s st) :=
  .foldl (fun _ _ => Kept.ite (kept_modChan ..) (.refl _)) _ _

theorem kept_faultRelease (s : State) (p : Page) : Kept s (faultRelease s p) := by
  unfold faultRelease
  split
  · exact kept_smpClear ..
  · exact kept_xfrRelease ..
  · exact kept_chanRelease ..
  · exact .refl _

theorem kept_evtClear (s : State) (p : Page) (v : Word) : Kept s (evtClear s p v) :=
  (Kept.ite ((Kept.ite (kept_setReg .. |>.trans (.foldl
      (fun _ _ => kept_setReg ..) _ _)) (kept_setReg ..)).trans (kept_setReg ..) |>.trans (kept_setReg ..)
      |>.trans (kept_setPair ..) |>.trans (kept_faultRelease ..)) (Kept.ite (kept_setReg .. |>.trans (.foldl
      (fun _ _ => kept_setReg ..) _ _)) (kept_setReg ..))).trans (kept_evtSettle ..)

theorem kept_writeHeader (s : State) (p : Page) (off : Nat) (v : Word) : Kept s (writeHeader s p off v) := by
  unfold writeHeader
  split
  · exact kept_ctrlWrite ..
  · exact kept_evtEnable ..
  · exact kept_evtClear ..
  · exact .refl _

theorem kept_writeClp (s : State) (st : Fin 8) (off : Nat) (v : Word) : Kept s (writeClp s st off v) := by
  unfold writeClp
  split
  · exact .ite (.refl _) (kept_clpCmd ..)
  · exact .ite (kept_storedWrite ..) (.refl _)
  · exact kept_storedWrite ..

theorem kept_writeTns (s : State) (st : Fin 8) (off : Nat) (v : Word) : Kept s (writeTns s st off v) := by
  unfold writeTns
  split
  · exact kept_tnsCtrlWrite ..
  · exact kept_slotCfgWrite ..
  · exact kept_modTns ..
  · exact kept_storedWrite ..

theorem kept_writeMx (s : State) (st : Fin 8) (c off : Nat) (v : Word) : Kept s (writeMx s st c off v) := by
  unfold writeMx
  split
  · exact kept_mxCfgWrite ..
  · exact kept_mxFlagsWrite ..
  · exact kept_storedWrite ..

theorem kept_writeRng (s : State) (st : Fin 8) (c off : Nat) (v : Word) : Kept s (writeRng s st c off v) := by
  unfold writeRng
  split
  · dsimp only
    exact .ite ((kept_storedWrite ..).trans (kept_requestReseed ..)) (kept_storedWrite ..)
  · exact kept_modKeys ..
  · exact kept_modKeys ..
  · exact kept_modKeys ..
  · exact kept_modKeys ..
  · exact kept_modKeys ..
  · exact kept_modKeys ..
  · exact kept_modKeys ..
  · exact kept_modKeys ..
  · dsimp only
    exact .ite ((Kept.ite (kept_commitStepKey ..)
        (.refl _)).trans (kept_commitEvalKey ..)) (Kept.ite (kept_commitStepKey ..) (.refl _))
  · exact kept_modKeys ..
  · exact kept_storedWrite ..

theorem kept_writeBead (s : State) (st : Fin 8) (off : Nat) (v : Word) : Kept s (writeBead s st off v) := by
  unfold writeBead
  split
  · dsimp only
    exact (Kept.ite (.refl _) ((kept_storedWrite ..).trans (kept_setFlag ..))).trans (kept_hsEnWrite ..)
  · exact .ite (.refl _) (kept_storedWrite ..)

theorem kept_writeFil (s : State) (st : Fin 8) (off : Nat) (v : Word) : Kept s (writeFil s st off v) :=
  .ite (kept_setFlag ..) (kept_storedWrite ..)

theorem kept_writeMem (s : State) (st : Fin 8) (dev off : Nat) (v : Word) : Kept s (writeMem s st dev off v) := by
  unfold writeMem
  split
  · exact .ite (kept_softRepair ..) (.refl _)
  · exact kept_storedWrite ..

theorem kept_writeSrm (s : State) (st : Fin 8) (off : Nat) (v : Word) : Kept s (writeSrm s st off v) :=
  .ite ((kept_storedWrite ..).trans (kept_sramRepair ..)) (kept_storedWrite ..)

theorem kept_writeSeq (s : State) (st : Fin 8) (n : Fin 4) (off : Nat) (v : Word) :
    Kept s (writeSeq s st n off v) := by
  unfold writeSeq
  split
  · exact kept_seqCmd ..
  · exact .ite (kept_modSeq ..) (.refl _)
  · exact kept_storedWrite ..

theorem kept_writeArb (s : State) (r : Requester) (st : Fin 8) (off : Nat) (v : Word) :
    Kept s (writeArb s r st off v) := by
  unfold writeArb
  split
  · exact kept_arbSubmitWrite ..
  · exact kept_rebindGo ..
  · exact kept_storedWrite ..

theorem kept_writeKxt (s : State) (r : Requester) (st : Fin 8) (off : Nat) (v : Word) :
    Kept s (writeKxt s r st off v) := by
  unfold writeKxt
  split
  · exact .ite (kept_kxtOpenGo ..) (.refl _)
  · exact kept_chanReadyWrite ..
  · exact kept_storedWrite ..

theorem kept_dbEnable (s : State) (st : Fin 8) (mb : Nat) (v : Word) : Kept s (dbEnable s st mb v) :=
  .ite ((kept_modBox ..).trans (kept_setEvt ..)) (kept_modBox ..)

theorem kept_writeMbx (s : State) (r : Requester) (st : Fin 8) (page off : Nat) (v : Word) :
    Kept s (writeMbx s r st page off v) := by
  unfold writeMbx
  split
  · dsimp only
    split
    · exact kept_mboxSend ..
    · exact kept_modBox ..
    · exact kept_modBox ..
    · exact kept_ringBits ..
    · exact kept_dbEnable ..
    · exact .refl _
  · exact kept_storedWrite ..

theorem kept_writeBzl (s : State) (st : Fin 8) (off : Nat) (v : Word) : Kept s (writeBzl s st off v) := by
  unfold writeBzl
  split
  · exact kept_bzlWordWrite ..
  · split
    · exact .ite (kept_bzlGo ..) (.refl _)
    · exact kept_storedWrite ..

theorem kept_writeLkt (s : State) (off : Nat) (v : Word) : Kept s (writeLkt s off v) := by
  unfold writeLkt
  dsimp only
  split
  · exact kept_setReg ..
  · exact .ite ((kept_modWindow ..).trans (kept_snap ..)) (kept_modWindow ..)
  · exact .ite ((kept_modWindow ..).trans (kept_snap ..)) (kept_modWindow ..)
  · exact .ite ((Kept.ite (kept_modLkt ..) (.refl _)).trans (kept_fwGo ..)) (Kept.ite (kept_modLkt ..) (.refl _))
  · exact kept_storedWrite ..

theorem kept_writePwr (s : State) (st : Fin 8) (off : Nat) (v : Word) : Kept s (writePwr s st off v) := by
  unfold writePwr
  split
  · exact kept_domRequest ..
  · exact .ite (kept_ctlReset ..) (.refl _)
  · exact kept_storedWrite ..

theorem kept_writePwrm (s : State) (off : Nat) (v : Word) : Kept s (writePwrm s off v) := by
  unfold writePwrm
  split
  · exact kept_sleepGo ..
  · exact kept_capWrite ..
  · exact kept_thermWrite ..
  · exact kept_storedWrite ..

theorem kept_writeCal (s : State) (off : Nat) (v : Word) : Kept s (writeCal s off v) := by
  unfold writeCal
  split
  · exact kept_calWinWrite ..
  · split
    · exact kept_calCmd ..
    · exact kept_storedWrite ..

theorem kept_writeOne (s : State) (r : Requester) (p : Page) (off : Nat) (v : Word) :
    Kept s (writeOne s r p off v) := by
  unfold writeOne
  dsimp only
  split
  · exact kept_writeHeader ..
  · split
    · exact kept_writeClp ..
    · exact kept_writeTns ..
    · exact kept_writeMx ..
    · exact kept_writeRng ..
    · exact kept_writeBead ..
    · exact kept_writeFil ..
    · exact kept_writeMem ..
    · exact .ite (kept_regionWrite ..) (kept_storedWrite ..)
    · exact kept_writeSrm ..
    · exact kept_writeSeq ..
    · exact kept_writeArb ..
    · exact .ite (kept_netCfgWrite ..) (kept_storedWrite ..)
    · exact kept_writeKxt ..
    · exact kept_writeMbx ..
    · exact kept_writeBzl ..
    · exact kept_writeLkt ..
    · exact kept_writePwr ..
    · exact kept_writePwrm ..
    · exact kept_writeCal ..
    · exact kept_storedWrite ..
    · exact kept_storedWrite ..
    · exact kept_storedWrite ..

theorem kept_writeWhole (s : State) (p : Page) (off : Nat) (lo hi : Word) : Kept s (writeWhole s p off lo hi) := by
  unfold writeWhole
  dsimp only
  split
  · exact kept_modTns ..
  · exact kept_modTns ..
  · exact kept_regionStage ..
  · exact kept_regionStage ..
  · exact .ite (.refl _) ((kept_storedWrite ..).trans (kept_storedWrite ..))
  · exact .ite (.refl _) ((kept_storedWrite ..).trans (kept_storedWrite ..))
  · exact .ite (kept_setFlag ..) ((kept_storedWrite ..).trans (kept_storedWrite ..))
  · exact (kept_storedWrite ..).trans (kept_storedWrite ..)

theorem kept_writeLo (s : State) (p : Page) (off : Nat) (v : Word) : Kept s (writeLo s p off v) :=
  .ite (kept_cursorWrite ..) (Kept.ite (kept_cursorWrite ..) (Kept.ite (kept_rtcSet ..) (Kept.ite ((kept_apart
    ..).trans (kept_writeWhole ..)) (.refl _))))

theorem kept_writeReg (s : State) (r : Requester) (p : Page) (off : Nat) (v : Word) :
    Kept s (writeReg s r p off v) :=
  .ite (kept_writeLo ..) (Kept.ite (Kept.ite (kept_apart ..) (.refl _)) (kept_writeOne ..))

theorem kept_writeAt (s : State) (ts : List (Page × Requester)) (off : Nat) (v : Word) :
    Kept s (writeAt s ts off v) :=
  .foldl (fun _ _ => kept_writeReg ..) _ _

theorem kept_regWrite (s : State) (r : Requester) (a : DWord) (v : Word) : Kept s (regWrite s r a v) := by
  unfold regWrite
  dsimp only
  split
  · exact .ite (kept_writeAt ..) (.refl _)
  · exact .refl _

theorem kept_regRead (s : State) (r : Requester) (a : DWord) : Kept s (regRead s r a) := by
  unfold regRead
  dsimp only
  split
  · exact .ite ((kept_readReg ..).trans (kept_send ..)) (.refl _)
  · exact .refl _

/-! ### Requesters -/

theorem kept_asked {s t : State} (r : Requester) (p : Page) (off : Nat) (h : Kept s t) : Kept s (asked s r p off t) :=
  .ite h (.refl _)

theorem kept_askedKey {s t : State} (r : Requester) (st : Fin 8) (h : Kept s t) : Kept s (askedKey s r st t) :=
  .ite h (.refl _)

/-! ### Cadence -/

theorem kept_maintenanceEvent (s : State) (st : Fin 8) (act : Nat) : Kept s (maintenanceEvent s st act) :=
  kept_submit ..

theorem kept_fireEffect (st : Fin 8) (s : State) (f : Firing) : Kept s (fireEffect st s f) := by
  unfold fireEffect
  split
  · exact kept_claspEvent ..
  · exact kept_evalEvent ..
  · exact kept_collEvent ..
  · exact kept_ckptEvent ..
  · exact kept_refreshEvent ..
  · exact kept_maintenanceEvent ..
  · exact kept_ringBits ..
  · exact .refl _

theorem kept_fireAll (st : Fin 8) (p : State × List Firing) : Kept p.1 (fireAll st p) :=
  .foldl (fun _ _ => kept_fireEffect ..) _ _

theorem kept_tick (s : State) (st : Fin 8) : Kept s (tick s st) :=
  (kept_tickEdge ..).trans (kept_fireAll st (tickEdge s st))

theorem kept_confirmTick (s t : State) (st : Fin 8) : Kept t (confirmTick s t st) :=
  .ite ((kept_evalSlots ..).trans (kept_fireAll ..)) (.refl _)

end Sys2Proof.Laws
end

section
/-! What the buses, the operations of the host and the restore keep. -/

-- One proof at a time: the stacks of many side by side would take the memory that the check allows.
set_option Elab.async false

namespace Sys2Proof.Laws

open Machine Safety

/-! ### The bus of a sequencer -/

theorem kept_seqMemFault (s : State) (st : Fin 8) (n : Fin 4) (e : MemErr) : Kept s (seqMemFault s st n e) := by
  unfold seqMemFault
  split
  · exact kept_seqFault ..
  · exact (kept_countUe ..).trans (kept_seqFault ..)

theorem kept_ldgBody (st : Fin 8) (n : Fin 4) (s : State) (w : DWord) : Kept s (ldgBody st n s w) := by
  unfold ldgBody
  dsimp only
  split
  · exact kept_seqFault ..
  · split
    · exact kept_seqMemFault ..
    · exact kept_seqHold ..

theorem kept_ldgReturn (s : State) (st : Fin 8) (n : Fin 4) : Kept s (ldgReturn s st n) := by
  unfold ldgReturn
  dsimp only
  split
  · split
    · split
      · exact kept_seqMemFault ..
      · exact (kept_waitEnded ..).trans (kept_seqDo ..)
    · exact .refl _
  · exact .refl _

theorem kept_stgBody (st : Fin 8) (n : Fin 4) (s : State) (w : DWord) : Kept s (stgBody st n s w) := by
  unfold stgBody
  dsimp only
  split
  · exact kept_seqFault ..
  · split
    · next eq =>
        exact (Kept.fst_of (kept_engWrite ..) eq).trans (kept_seqMemFault ..)
    · next eq =>
        exact (Kept.fst_of (kept_engWrite ..) eq).trans (kept_seqDo ..)

theorem kept_rdrBody (st : Fin 8) (n : Fin 4) (s : State) (w : DWord) : Kept s (rdrBody st n s w) :=
  .ite (kept_seqFault ..) (kept_seqHold ..)

theorem kept_rdrReturn (s : State) (st : Fin 8) (n : Fin 4) : Kept s (rdrReturn s st n) := by
  unfold rdrReturn
  dsimp only
  split
  · split
    · exact .ite ((kept_readReg ..).trans (kept_waitEnded ..) |>.trans (kept_seqDo ..)) (.refl _)
    · exact .refl _
  · exact .refl _

theorem kept_wrrBody (st : Fin 8) (n : Fin 4) (s : State) (w : DWord) : Kept s (wrrBody st n s w) := by
  unfold wrrBody
  dsimp only
  split
  · exact kept_seqFault ..
  · exact .ite (kept_seqFault ..) (Kept.ite (kept_seqFault ..) ((kept_seqDo ..).trans (kept_writeAt ..)))

theorem kept_planReply (s : State) (st : Fin 8) (n : Fin 4) (opc : Nat) (to_ : Nat × BitVec 16 × DWord) (ok : Bool)
    :
    Kept s (planReply s st n opc to_ ok) := by
  unfold planReply
  dsimp only
  split
  · exact .ite (kept_sendOp ..) (.refl _)
  · exact .refl _

theorem kept_loadAnswer (s : State) (st : Fin 8) (n : Fin 4) (waits : Option (Nat × BitVec 16 × DWord)) (ok : Bool)
    :
    Kept s (loadAnswer s st n waits ok) := by
  unfold loadAnswer
  split
  · exact kept_planReply ..
  · exact .refl _

theorem kept_loadFault (s : State) (st : Fin 8) (n : Fin 4) (cls det high addr : Nat) :
    Kept s (loadFault s st n cls det high addr) :=
  (kept_seqFault ..).trans (kept_modSeq ..) |>.trans (kept_loadAnswer ..)

theorem kept_measureLoad (s : State) (st : Fin 8) (n : Fin 4) (plan : Nat) (hash : List Byte) :
    Kept s (measureLoad s st n plan hash) := by
  unfold measureLoad
  exact (kept_measExtend ..).trans (kept_modBzl ..)

theorem kept_loadDone (s : State) (st : Fin 8) (n : Fin 4) : Kept s (loadDone s st n) := by
  unfold loadDone
  dsimp only
  split
  · exact kept_loadFault ..
  · split
    · exact (kept_countUe ..).trans (kept_loadFault ..)
    · split
      · exact kept_loadFault ..
      · split
        · exact kept_loadFault ..
        · split
          · exact kept_loadFault ..
          · split
            · exact (kept_countUe ..).trans (kept_loadFault ..)
            · exact .ite ((kept_loadFault ..).trans (kept_bzlFault ..)) ((kept_measureLoad ..).trans (kept_modSeq
                  ..) |>.trans (kept_raiseEvt ..) |>.trans (kept_loadAnswer ..))

/-! ### Operations of the host -/

theorem kept_openSealed (s : State) (op : HostOp) : Kept s (openSealed s op).1 := by
  unfold openSealed
  dsimp only
  split
  · dsimp only
    exact .refl _
  · split
    · dsimp only
      exact .refl _
    · split
      · dsimp only
        exact kept_bzlFault ..
      · dsimp only
        exact kept_modSlot ..

theorem kept_hostWrite (s : State) (st : Fin 8) (off : Nat) (bs : List Byte) :
    Kept s (hostWrite s st off bs).1 := by
  unfold hostWrite
  dsimp only
  split
  · dsimp only
    exact .refl _
  · split
    · dsimp only
      exact .ite (kept_hotEmpty ..) (.refl _)
    · split
      · next eq =>
          dsimp only
          exact (Kept.ite (kept_hotEmpty ..) (.refl _)).trans (Kept.fst_of (kept_rawWrite ..) eq)
      · next eq =>
          dsimp only
          exact (Kept.ite (kept_hotEmpty ..) (.refl _)).trans (Kept.fst_of (kept_rawWrite ..) eq)
              |>.trans (kept_countUe ..)

theorem kept_reply (s : State) (st : Fin 8) (ctx : Nat) (op : HostOp) (status : Nat) (data : List Byte) (sealedFlag
    : Nat) :
    Kept s (reply s st ctx op status data sealedFlag) :=
  .ite (kept_sendOp ..) (.refl _)

theorem kept_openStatus (s : State) : Kept s (openStatus s).1 :=
  kept_drawFree ..

theorem kept_regRdBody (st : Fin 8) (s : State) (op : HostOp) : Kept s (regRdBody st s op).1 := by
  unfold regRdBody
  extract_lets n
  split
  · exact .refl _
  split
  · exact .refl _
  split
  · exact .refl _
  · refine Kept.foldl_fst (fun acc t => ?_) _ (s, _)
    split
    · exact kept_readReg ..
    · exact .refl _

theorem kept_regWrBody (st : Fin 8) (s : State) (op : HostOp) : Kept s (regWrBody st s op).1 := by
  unfold regWrBody
  dsimp only
  split
  · dsimp only
    exact .refl _
  · split
    · dsimp only
      exact .refl _
    · dsimp only
      exact .foldl (fun _ _ => kept_writeAt ..) _ _

theorem kept_memWrBody (st : Fin 8) (s : State) (op : HostOp) : Kept s (memWrBody st s op).1 := by
  unfold memWrBody
  extract_lets a n
  split
  · exact .refl _
  split
  · exact .refl _
  split
  next ts _ _ s1 ok eq =>
  have h : Kept s s1 := by
    refine .fst_of (.foldl_fst (fun acc t => ?_) _ (s, _)) eq
    exact kept_hostWrite ..
  split
  · exact h
  · exact h.trans (kept_openStatus _)

theorem kept_memRdBody (st : Fin 8) (ctx : Nat) (s : State) (op : HostOp) : Kept s (memRdBody st ctx s op).1 := by
  unfold memRdBody
  dsimp only
  split
  · split
    · dsimp only
      exact .refl _
    · split
      · dsimp only
        exact .refl _
      · split
        · dsimp only
          exact .refl _
        · split
          · dsimp only
            exact .refl _
          · split
            · dsimp only
              exact .refl _
            · split
              · exact (kept_countUe ..).trans (kept_openStatus ..)
              · exact (kept_sealOut ..).trans (kept_reply ..)
  · split
    · dsimp only
      exact .refl _
    · split
      · dsimp only
        exact .refl _
      · split
        · dsimp only
          exact .refl _
        · split
          · dsimp only
            exact .refl _
          · split
            · dsimp only
              exact .refl _
            · split
              · exact (kept_countUe ..).trans (kept_openStatus ..)
              · dsimp only
                exact .refl _

theorem kept_planLoadBody (st : Fin 8) (ctx : Nat) (s : State) (op : HostOp) : Kept s (planLoadBody st ctx s op).1 := by
  unfold planLoadBody
  split
  · exact .refl _
  · dsimp only
    split
    · dsimp only
      exact (kept_seqLoad ..).trans (kept_writeReg ..) |>.trans (kept_writeReg ..) |>.trans (kept_modSeq ..)
    · exact (kept_seqLoad ..).trans (kept_planReply ..)

theorem kept_planStartBody (st : Fin 8) (ctx : Nat) (s : State) (op : HostOp) :
    Kept s (planStartBody st ctx s op).1 := by
  unfold planStartBody
  dsimp only
  split
  · dsimp only
    exact .refl _
  · exact (kept_seqStart ..).trans (kept_planReply ..)

theorem kept_mbxWrBody (st : Fin 8) (ctx : Nat) (s : State) (op : HostOp) : Kept s (mbxWrBody st ctx s op).1 := by
  have h : ∀ (ts : List (Fin 8 × Requester)) mb v, Kept s (ts.foldl (fun s e => mboxSend s e.2 e.1 mb v) s) := fun _ _ _ =>
    .foldl (fun _ _ => kept_mboxSend ..) _ _
  unfold mbxWrBody
  split
  · exact .refl _
  · dsimp only
    split
    · exact h ..
    · dsimp only
      exact (h ..).trans (kept_modStack ..)

theorem kept_doorbellBody (st : Fin 8) (s : State) (op : HostOp) : Kept s (doorbellBody st s op).1 := by
  unfold doorbellBody
  split
  · dsimp only
    exact .refl _
  · dsimp only
    exact .foldl (fun _ _ => kept_ringBits ..) _ _

theorem kept_frameToAll (s : State) (f : BeatFrame) : Kept s (frameToAll s f) :=
  .foldl (fun _ _ => (kept_tnsFrame ..).trans (kept_confirmTick ..)) _ _

theorem kept_beatFrame (s : State) (ctx : Nat) (f : BeatFrame) (now : DWord) : Kept s (beatFrame s ctx f now) :=
  .ite (.refl _) (Kept.ite (kept_frameToAll ..) ((kept_countSat ..).trans (kept_raiseEvt ..)))

theorem kept_beatBody (st : Fin 8) (ctx : Nat) (s : State) (op : HostOp) : Kept s (beatBody st ctx s op).1 := by
  unfold beatBody
  dsimp only
  split
  · dsimp only
    exact .refl _
  · split
    · exact (kept_now ..).trans (kept_beatFrame ..)
    · dsimp only
      exact .refl _

theorem kept_collBody (st : Fin 8) (ctx : Nat) (s : State) (op : HostOp) : Kept s (collBody st ctx s op).1 := by
  unfold collBody
  dsimp only
  split
  · dsimp only
    exact .refl _
  · split
    · exact .refl _
    · split
      · exact kept_startSegment ..
      · exact kept_reduceSegment ..
      · exact kept_gatherSegment ..
      · exact kept_voteSegment ..
      · exact .refl _

theorem kept_ckptAckBody (st : Fin 8) (ctx : Nat) (s : State) (op : HostOp) : Kept s (ckptAckBody st ctx s op).1 :=
  kept_ckptAck ..

theorem kept_opBody (opc : Nat) (st : Fin 8) (ctx : Nat) (s : State) (op : HostOp) :
    Kept s (opBody opc st ctx s op).1 := by
  unfold opBody
  split
  · exact kept_regRdBody ..
  · exact kept_regWrBody ..
  · exact kept_memWrBody ..
  · exact kept_memRdBody ..
  · exact kept_planLoadBody ..
  · exact kept_planStartBody ..
  · exact kept_mbxWrBody ..
  · exact kept_doorbellBody ..
  · exact kept_ckptAckBody ..
  · exact kept_collBody ..
  · exact kept_beatBody ..
  · exact .refl _

theorem kept_request (opc : Nat) (body : State → HostOp → OpAnswer) (s : State) (st : Fin 8) (ctx : Nat) (op : HostOp)
    (hb : ∀ t op, Kept t (body t op).1) : Kept s (request opc body s st ctx op) := by
  unfold request
  extract_lets op isSealed finishOp
  have hf : ∀ {t : State} (r : OpAnswer), Kept t r.1 → Kept t (finishOp r) := by
    intro t r h
    unfold finishOp
    split
    · exact h.trans (kept_reply ..)
    · exact h
  refine .ite (.refl _) <| .ite (kept_reply ..) <| .ite (kept_reply ..) <| .ite (kept_reply ..) <| .ite (kept_reply ..) <|
    .ite ?_ (hf _ (hb _ _))
  split
  next eq => exact (Kept.fst_of (kept_openSealed ..) eq).trans (kept_reply ..)
  next eq => exact (Kept.fst_of (kept_openSealed ..) eq).trans (hf _ (hb _ _))

theorem kept_hostOp (s : State) (st : Fin 8) (ctx : Nat) (op : HostOp) : Kept s (hostOp s st ctx op) :=
  kept_request _ _ _ _ _ _ (kept_opBody _ st ctx)

theorem kept_payload (s : State) (st : Fin 8) (ctx : Nat) (bs : List Byte) : Kept s (payload s st ctx bs) :=
  .ite (.refl _) (Kept.ite (Kept.ite (.refl _) (Kept.ite (kept_sendOp ..) (.refl _))) (kept_hostOp ..))

theorem kept_deliver (st : Fin 8) (ctx n : Nat) (s : State) : Kept s (deliver st ctx n s) := by
  induction n generalizing s with
  | zero => exact .refl _
  | succ n ih =>
    rw [deliver]
    dsimp only
    split
    · exact (kept_modSess ..).trans (kept_payload ..) |>.trans (ih _)
    · exact .refl _

theorem kept_takeData (s : State) (st : Fin 8) (ctx : Nat) (seq : Word) (bs : List Byte) (ce : Bool) :
    Kept s (takeData s st ctx seq bs ce) :=
  .ite ((kept_modSess ..).trans (kept_sendAck ..)) (Kept.ite
    (.refl _) (Kept.ite ((kept_modSess ..).trans (kept_deliver ..)) (Kept.ite ((Kept.ite ((kept_modSess ..).trans
    (kept_deliver ..)
    |>.trans (kept_sendAck ..)) ((kept_modSess ..).trans (kept_deliver ..))).trans (kept_answerClose ..)) (Kept.ite
    ((kept_modSess ..).trans (kept_deliver ..)
    |>.trans (kept_sendAck ..)) ((kept_modSess ..).trans (kept_deliver ..))))))

theorem kept_mbxWrReply (s : State) (st : Fin 8) (i : Nat) : Kept s (mbxWrReply s st i) := by
  unfold mbxWrReply
  split
  · exact .refl _
  · dsimp only
    exact .ite (Kept.ite ((kept_modStack ..).trans (kept_sendOp ..)) (kept_modStack ..)) (kept_modStack ..)

theorem kept_mbxEventSend (s : State) (st : Fin 8) (page : Nat) : Kept s (mbxEventSend s st page) := by
  unfold mbxEventSend
  dsimp only
  split
  · exact kept_evtSettle ..
  · split
    · exact .refl _
    · split
      · exact .refl _
      · exact (kept_modStack ..).trans (kept_sendOp ..)

/-! ### The board bus -/

theorem kept_i3cAnswer (s : State) (bs : List Byte) : Kept s (i3cAnswer s bs) :=
  kept_send ..

theorem kept_i3cNack (s : State) : Kept s (i3cNack s) :=
  kept_i3cAnswer ..

theorem kept_i3cWrite (s : State) (bs : List Byte) : Kept s (i3cWrite s bs) := by
  unfold i3cWrite
  dsimp only
  split
  · exact .ite ((kept_readReg ..).trans (kept_modBus ..)) (kept_i3cNack ..)
  · exact .ite (kept_writeReg ..) (kept_i3cNack ..)
  · exact kept_i3cNack ..

theorem kept_openBytes (s : State) (n : Nat) : Kept s (openBytes s n).2 :=
  kept_drawFree ..

theorem kept_commonCode (s : State) (ccc arg : Byte) : Kept s (commonCode s ccc arg) := by
  unfold commonCode
  dsimp only
  split
  · exact kept_modBus ..
  · exact .ite (kept_i3cNack ..) ((kept_openBytes ..).trans (kept_modBus ..) |>.trans (kept_i3cAnswer ..))
  · exact .ite (kept_i3cNack ..) (kept_modBus ..)
  · exact (kept_openBytes ..).trans (kept_i3cAnswer ..)
  · exact kept_i3cAnswer ..
  · exact kept_i3cAnswer ..
  · exact (kept_openBytes ..).trans (kept_i3cAnswer ..)
  · exact kept_i3cNack ..

/-! ### The restore block -/

theorem kept_restoreStack (step committed : DWord) (s : State) (i : Fin 8) :
    Kept s (restoreStack step committed s i) :=
  (kept_modClp ..).trans (kept_startKs ..)

theorem kept_restoreReply (s : State) (v : Nat) : Kept s (restoreReply s v) :=
  kept_mboxSend ..

theorem kept_restore (s : State) (word : Word) : Kept s (restore s word) := by
  unfold restore
  dsimp only
  split
  · exact .refl _
  · split
    · exact (Kept.foldl (fun _ _ => kept_restoreStack ..) _ _).trans (kept_locketRequest ..)
          |>.trans (kept_restoreReply ..)
    · exact kept_restoreReply ..

end Sys2Proof.Laws
end

section
/-! How a command answers: with a state that keeps what every command keeps, or with the fault of an absent stack. Each shape that
the commands of a queue or of a sequencer share is treated once. -/

-- One proof at a time: the stacks of many side by side would take the memory that the check allows.
set_option Elab.async false

namespace Sys2Proof.Safety

open Machine

/-- An outcome from `s`: a next state that keeps what every command keeps where `b` holds, and the fault of a stack that the part
does not populate where it does not. -/
def Answers (b : Bool) (s : State) (o : Host.Outcome State Fault Refusal) : Prop :=
  ∃ t, Kept s t ∧ o = if b = true then .next t else .fault .absentStack

namespace Answers

variable {b : Bool} {s t : State} {o : Host.Outcome State Fault Refusal}

theorem guard (h : Kept s t) : Answers b s (if b = true then .next t else .fault .absentStack) := ⟨t, h, rfl⟩

/-- A command that names two stacks. -/
theorem guard_and {c : Bool} (h : Kept s t) :
    Answers (b && c) s (if b = true ∧ c = true then .next t else .fault .absentStack) :=
  ⟨t, h, by simp only [Bool.and_eq_true]⟩

/-- A command that names a domain, of the module or of one stack. -/
theorem guard_or {p : Prop} [Decidable p] {u : State} (h : Kept s t) (h' : Kept s u) :
    Answers (decide p || b) s (if p then .next t else if b = true then .next u else .fault .absentStack) := by
  by_cases hp : p
  · exact ⟨t, h, by simp [hp]⟩
  · exact ⟨u, h', by simp [hp]⟩

/-- A command that names no unit of a stack. -/
theorem always (h : Kept s t) : Answers true s (.next t) := ⟨t, h, rfl⟩

theorem eq_next (h : Answers b s o) (hb : b = true) : ∃ t, Kept s t ∧ o = .next t := by
  obtain ⟨t, ht, rfl⟩ := h
  exact ⟨t, ht, if_pos hb⟩

theorem eq_fault (h : Answers b s o) (hb : b = false) : o = .fault .absentStack := by
  obtain ⟨t, -, rfl⟩ := h
  exact if_neg (hb ▸ Bool.false_ne_true)

theorem kept_of_next (h : Answers b s o) (e : o = .next t) : Kept s t := by
  obtain ⟨u, hu, rfl⟩ := h
  split at e
  · cases e; exact hu
  · cases e

end Answers

end Sys2Proof.Safety

namespace Sys2Proof.Laws

open Machine Safety

/-! ### The commands of a sequencer -/

theorem answers_issue (opc : Nat) {body : State → DWord → State} (st : Fin 8) (n : Fin 4) (s : State)
    (h : ∀ w, Kept s (body s w)) : Answers (s.has st) s (issue opc body st n s) :=
  .guard (.ite (.refl _) (.ite (kept_seqFault ..) (.ite (.refl _) (.ite (h _) (kept_modSeq ..)))))

theorem answers_resume (k : SeqWait) {body : State → DWord → State} (st : Fin 8) (n : Fin 4) (s : State)
    (h : ∀ w, Kept s (body s w)) : Answers (s.has st) s (resume k body st n s) :=
  .guard (.ite (h _) (.refl _))

/-! ### The commands of a queue -/

theorem answers_drainer (op : Nat) {body : State → Fin 8 → Nat → Nat → Desc → State} (st : Fin 8) (c : Nat) (s : State)
    (h : ∀ i d, Kept s (body s st c i d)) : Answers (s.has st) s (drainer op body st c s) := by
  refine .guard ?_
  split
  · exact .ite (.refl _) (h ..)
  · exact .refl _

theorem answers_vcRow (op : Nat) {body : State → Fin 8 → Nat → Entry → State} (st : Fin 8) (c : Nat) (s : State)
    (h : ∀ e, Kept s (body s st c e)) : Answers (s.has st) s (vcRow op body st c s) := by
  refine .guard ?_
  split
  · exact h _
  · exact .refl _

theorem answers_smpRow (op : Nat) {body : State → Fin 8 → Nat → Entry → State} (st : Fin 8) (g : Fin 4) (s : State)
    (h : ∀ e, Kept s (body s st g.val e)) : Answers (s.has st) s (smpRow op body st g s) := by
  refine .guard ?_
  split
  · exact .ite (h _) (.refl _)
  · exact .refl _

theorem answers_tabRow (q op : Nat) {body : State → Fin 8 → Entry → State} (st : Fin 8) (s : State)
    (h : ∀ e, Kept s (body s st e)) : Answers (s.has st) s (tabRow q op body st s) := by
  refine .guard ?_
  split
  · exact .ite (h _) (.refl _)
  · exact .refl _

theorem answers_xfrRow (op : Nat) {body : State → Fin 8 → Desc → State × Option TabErr} (st ch : Fin 8) (s : State)
    (h : ∀ d, Kept s (body s st d).1) : Answers (s.has st) s (xfrRow_ op body st ch s) := by
  refine .guard ?_
  split
  · refine .ite ?_ (.refl _)
    split
    · next eq => exact (Kept.fst_of (h _) eq).trans (kept_xfrFault ..)
    · next eq => exact (Kept.fst_of (h _) eq).trans (kept_finish ..) |>.trans (kept_raiseEvt ..)
  · exact .refl _

theorem answers_jkRow (op : Nat) {body : State → Fin 8 → Nat → Desc → State × Option TabErr} (st : Fin 8) (p : Fin 3)
    (s : State) (h : ∀ d, Kept s (body s st p.val d).1) : Answers (s.has st) s (jkRow op body st p s) := by
  refine .guard ?_
  split
  · refine .ite ?_ (.refl _)
    split
    · exact kept_jkFault ..
    · split
      · next eq => exact (Kept.fst_of (h _) eq).trans (kept_jkFault ..)
      · next eq => exact (Kept.fst_of (h _) eq).trans (kept_finish ..) |>.trans (kept_raiseEvt ..)
  · exact .refl _

end Sys2Proof.Laws
end

section
/-! The commands whose effect has several cases, each with the rule of how it answers. -/

-- One proof at a time: the stacks of many side by side would take the memory that the check allows.
set_option Elab.async false

namespace Sys2Proof.Laws

open Machine Safety

theorem answers_gateTimeout (st : Fin 8) (s : State) : Answers (s.has st) s (execGateTimeout st s) := by
  refine .guard ?_
  dsimp only
  split
  · exact .refl _
  · exact .ite (.refl _) ((kept_modClp ..).trans (kept_recordFault ..))

theorem answers_commitSequenceEnd (st : Fin 8) (s : State) :
    Answers (s.has st) s (execCommitSequenceEnd st s) :=
  .guard (.ite ((kept_drawElapsed ..).trans (kept_clearTouched ..) |>.trans (kept_modClp ..)
    |>.trans (kept_raiseEvt ..) |>.trans (kept_ckptAfter ..) |>.trans (kept_quiesceRise ..)) (.refl _))

theorem answers_voidSequenceEnd (st : Fin 8) (s : State) : Answers (s.has st) s (execVoidSequenceEnd st s) :=
  .guard (.ite ((kept_clearTouched ..).trans (kept_modClp ..) |>.trans (kept_raiseEvt ..)
    |>.trans (kept_ckptAfter ..) |>.trans (kept_quiesceRise ..)) (.refl _))

theorem answers_edgeWindowExpiry (st : Fin 8) (s : State) : Answers (s.has st) s (execEdgeWindowExpiry st s) :=
  .guard (.ite (Kept.ite ((kept_modTns ..).trans (kept_recordFault ..)
    |>.trans (kept_raiseEvt ..)) (Kept.ite ((kept_modTns ..).trans (kept_raiseEvt ..)) (kept_modTns ..))) (.refl _))

theorem answers_mxStream (st : Fin 8) (c : Fin 56) (s : State) :
    Answers (s.has st) s (execMxStream st c s) := by
  refine .guard ?_
  split
  · exact .ite (kept_streamPass ..) (.refl _)
  · exact .refl _

theorem answers_mxPassRetire (st : Fin 8) (c : Fin 56) (s : State) :
    Answers (s.has st) s (execMxPassRetire st c s) := by
  refine .guard ?_
  split
  · dsimp only
    exact (kept_modCore ..).trans (kept_modTile ..) |>.trans (kept_modTile ..) |>.trans (kept_joinFlags ..)
        |>.trans (kept_mxRetire ..)
  · exact .refl _

theorem answers_mxLdb (st : Fin 8) (c : Fin 56) (s : State) : Answers (s.has st) s (execMxLdb st c s) := by
  refine .guard ?_
  split
  · exact .ite (.refl _) (kept_loadBank ..)
  · exact .refl _

theorem answers_smpOpen (st : Fin 8) (g : Fin 4) (s : State) : Answers (s.has st) s (execSmpOpen st g s) :=
  answers_smpRow _ _ _ _ fun _ => .ite (.refl _) (kept_smpEnd _ _ _ (kept_openBatch ..))

theorem answers_smpSeeds (st : Fin 8) (g : Fin 4) (s : State) : Answers (s.has st) s (execSmpSeeds st g s) :=
  answers_smpRow _ _ _ _ fun _ => kept_smpEnd _ _ _ (kept_seedBatch ..)

theorem answers_smpHop (st : Fin 8) (g : Fin 4) (s : State) : Answers (s.has st) s (execSmpHop st g s) :=
  answers_smpRow _ _ _ _ fun _ => kept_smpEnd _ _ _ (kept_hopBatch ..)

theorem answers_smpClose (st : Fin 8) (g : Fin 4) (s : State) : Answers (s.has st) s (execSmpClose st g s) :=
  answers_smpRow _ _ _ _ fun _ => kept_smpEnd _ _ _ (kept_closeBatch ..)

theorem answers_smpPrefix (st : Fin 8) (g : Fin 4) (s : State) : Answers (s.has st) s (execSmpPrefix st g s) :=
  answers_smpRow _ _ _ _ fun _ => kept_smpEnd _ _ _ (kept_prefixRun ..)

theorem answers_remoteRowRequest (home src : Fin 8) (table row : Nat) (s : State) :
    Answers (s.has home && s.has src) s (execRemoteRowRequest home src table row s) := by
  refine .guard_and ?_
  split
  · exact .refl _
  · split
    · next eq =>
        exact (kept_remoteRow (e := eq) ..).trans (kept_send ..)
    · exact kept_send ..

theorem answers_hotSetRefreshAdmit (st : Fin 8) (s : State) :
    Answers (s.has st) s (execHotSetRefreshAdmit st s) := by
  refine .guard ?_
  split
  · exact .ite (kept_refreshStart ..) (.refl _)
  · exact .refl _

theorem answers_hotSetCopyDone (st : Fin 8) (i : Nat) (s : State) :
    Answers (s.has st) s (execHotSetCopyDone st i s) := by
  refine .guard ?_
  split
  · exact .refl _
  · split
    · split
      · next eq =>
          exact (Kept.fst_of (kept_copyRow ..) eq).trans (kept_refreshFault ..)
      · next eq =>
          exact (Kept.fst_of (kept_copyRow ..) eq).trans (kept_setEntry ..) |>.trans (kept_refreshReady ..)
    · exact .refl _

theorem answers_hotSetDirtyRecopy (st : Fin 8) (i : Nat) (s : State) :
    Answers (s.has st) s (execHotSetDirtyRecopy st i s) := by
  refine .guard ?_
  split
  · exact .refl _
  · exact .ite (kept_setEntry ..) (.refl _)

theorem answers_hotSetSwitch (st : Fin 8) (s : State) : Answers (s.has st) s (execHotSetSwitch st s) :=
  .guard (.ite ((kept_modHot ..).trans (kept_countWrap ..) |>.trans (kept_raiseEvt ..)) (.refl _))

theorem answers_sramRepairDone (st : Fin 8) (s : State) : Answers (s.has st) s (execSramRepairDone st s) := by
  refine .guard ?_
  split
  · exact .refl _
  · dsimp only
    exact (kept_dropActivity ..).trans (kept_setFld ..) |>.trans (kept_setFlag ..) |>.trans (kept_setFlag ..)
        |>.trans (kept_raiseEvt ..) |>.trans (kept_swapRecord ..)

theorem answers_sramPatrol (st : Fin 8) (line ce : Nat) (s : State) :
    Answers (s.has st) s (execSramPatrol st line ce s) := by
  refine .guard ?_
  split
  · exact .refl _
  · dsimp only
    split
    · exact (Kept.ite (.refl _) ((kept_countSat ..).trans (kept_raiseEvt ..))).trans (kept_countSat ..)
          |>.trans (kept_raiseEvt ..) |>.trans (kept_recordFault ..)
    · exact .ite (.refl _) ((kept_countSat ..).trans (kept_raiseEvt ..))

theorem answers_lpddr5xPatrol (st : Fin 8) (dev : Fin 4) (line linkCe : Nat) (linkUe : Bool) (s : State) :
    Answers (s.has st) s (execLpddr5xPatrol st dev line linkCe linkUe s) :=
  .guard (.ite (.refl _) (Kept.ite ((Kept.ite ((Kept.ite (.refl _) (kept_countSat ..)).trans (kept_countSat ..)
    |>.trans (kept_countSat ..)) (Kept.ite (.refl _) (kept_countSat ..))).trans (kept_setPair ..)
    |>.trans (kept_raiseEvt ..)) ((Kept.ite ((Kept.ite (.refl _) (kept_countSat ..)).trans (kept_countSat ..)
    |>.trans (kept_countSat ..)) (Kept.ite (.refl _) (kept_countSat ..))).trans (kept_setPair ..))))

theorem answers_softRepairDone (st : Fin 8) (dev : Fin 4) (s : State) :
    Answers (s.has st) s (execSoftRepairDone st dev s) :=
  .guard (.ite ((kept_dropActivity ..).trans (kept_modStack ..) |>.trans (kept_setFlag ..) |>.trans (kept_setFld ..)
    |>.trans (kept_raiseEvt ..) |>.trans (kept_pprRecord ..)) (.refl _))

theorem answers_br (st : Fin 8) (q : Fin 4) (s : State) : Answers (s.has st) s (execBr st q s) :=
  answers_issue _ _ _ _ fun _ => kept_seqNext ..

theorem answers_jmp (st : Fin 8) (q : Fin 4) (s : State) : Answers (s.has st) s (execJmp st q s) :=
  answers_issue _ _ _ _ fun _ => kept_seqNext ..

theorem answers_trap (st : Fin 8) (q : Fin 4) (s : State) : Answers (s.has st) s (execTrap st q s) :=
  answers_issue _ _ _ _ fun _ => kept_seqFault ..

theorem answers_ldd (st : Fin 8) (q : Fin 4) (s : State) : Answers (s.has st) s (execLdd st q s) :=
  answers_issue _ _ _ _ fun _ => kept_dataBody ..

theorem answers_std (st : Fin 8) (q : Fin 4) (s : State) : Answers (s.has st) s (execStd st q s) :=
  answers_issue _ _ _ _ fun _ => kept_dataBody ..

theorem answers_dld (st : Fin 8) (q : Fin 4) (s : State) : Answers (s.has st) s (execDld st q s) :=
  answers_issue _ _ _ _ fun _ => kept_dataBody ..

theorem answers_dst (st : Fin 8) (q : Fin 4) (s : State) : Answers (s.has st) s (execDst st q s) :=
  answers_issue _ _ _ _ fun _ => kept_dataBody ..

theorem answers_pushQueueRoom (st : Fin 8) (q : Fin 4) (s : State) :
    Answers (s.has st) s (execPushQueueRoom st q s) :=
  answers_resume _ _ _ _ fun _ => .ite (.refl _) ((kept_waitEnded ..).trans (kept_pushNow ..))

theorem answers_waitq (st : Fin 8) (q : Fin 4) (s : State) : Answers (s.has st) s (execWaitq st q s) :=
  answers_issue _ _ _ _ fun _ => .ite (kept_seqFault ..) (kept_seqHold ..)

theorem answers_waitqDone (st : Fin 8) (q : Fin 4) (s : State) : Answers (s.has st) s (execWaitqDone st q s) :=
  answers_resume _ _ _ _ fun _ => .ite ((kept_waitEnded ..).trans (kept_waitOutcome ..) |>.trans (kept_seqDo ..))
      (.refl _)

theorem answers_fence (st : Fin 8) (q : Fin 4) (s : State) : Answers (s.has st) s (execFence st q s) :=
  answers_issue _ _ _ _ fun _ => kept_seqHold ..

theorem answers_fenceDone (st : Fin 8) (q : Fin 4) (s : State) : Answers (s.has st) s (execFenceDone st q s) :=
  answers_resume _ _ _ _ fun _ => .ite ((kept_waitEnded ..).trans (kept_seqDo ..)) (.refl _)

theorem answers_waitdb (st : Fin 8) (q : Fin 4) (s : State) : Answers (s.has st) s (execWaitdb st q s) :=
  answers_issue _ _ _ _ fun _ => kept_seqHold ..

theorem answers_waitdbDone (st : Fin 8) (q : Fin 4) (s : State) :
    Answers (s.has st) s (execWaitdbDone st q s) :=
  answers_resume _ _ _ _ fun _ => .ite (.refl _) ((kept_waitEnded ..).trans (kept_modBox ..)
      |>.trans (kept_seqDo ..))

theorem answers_waitpos (st : Fin 8) (q : Fin 4) (s : State) : Answers (s.has st) s (execWaitpos st q s) :=
  answers_issue _ _ _ _ fun _ => kept_seqHold ..

theorem answers_waitposDone (st : Fin 8) (q : Fin 4) (s : State) :
    Answers (s.has st) s (execWaitposDone st q s) :=
  answers_resume _ _ _ _ fun _ => .ite ((kept_waitEnded ..).trans (kept_seqDo ..)) (.refl _)

theorem answers_nop (st : Fin 8) (q : Fin 4) (s : State) : Answers (s.has st) s (execNop st q s) :=
  answers_issue _ _ _ _ fun _ => kept_seqDo ..

theorem answers_seqCtxDone (st : Fin 8) (q : Fin 4) (s : State) :
    Answers (s.has st) s (execSeqCtxDone st q s) := by
  refine .guard ?_
  split
  · exact kept_saveDone ..
  · exact kept_restoreDone ..
  · exact .refl _

theorem answers_rebindScrub (st : Fin 8) (res : Nat) (s : State) :
    Answers (s.has st) s (execRebindScrub st res s) := by
  refine .guard ?_
  split
  · exact .ite (kept_enterScrub ..) (.refl _)
  · exact .refl _

theorem answers_rebindHandover (st : Fin 8) (res : Nat) (s : State) :
    Answers (s.has st) s (execRebindHandover st res s) := by
  refine .guard ?_
  split
  · exact .ite ((kept_scrub ..).trans (kept_bindStat ..) |>.trans (kept_modMoving ..)) (.refl _)
  · exact .refl _

theorem answers_rebindDone (st : Fin 8) (res : Nat) (s : State) :
    Answers (s.has st) s (execRebindDone st res s) := by
  refine .guard ?_
  split
  · exact .ite ((kept_handOver ..).trans (kept_commandDone ..)) (.refl _)
  · exact .refl _

theorem answers_rebindForced (st : Fin 8) (res : Nat) (s : State) :
    Answers (s.has st) s (execRebindForced st res s) := by
  refine .guard ?_
  split
  · split
    · exact .refl _
    · dsimp only
      refine .trans ?_ (kept_enterScrub ..)
      split
      · exact (Kept.ite (kept_modArb ..) ((kept_modArb ..).trans (kept_recordFault ..)
            |>.trans (kept_raiseEvt ..))).trans (kept_discardQueue ..)
      · exact Kept.ite (kept_modArb ..) ((kept_modArb ..).trans (kept_recordFault ..) |>.trans (kept_raiseEvt ..))
            |>.trans (.foldl (fun _ _ => Kept.ite (kept_softReset ..) (.refl _)) _ _)
  · exact .refl _

theorem answers_activityAdmit (st : Fin 8) (i : Nat) (s : State) :
    Answers (s.has st) s (execActivityAdmit st i s) := by
  refine .guard ?_
  dsimp only
  split
  · exact .refl _
  · exact .ite (Kept.ite ((kept_modArb ..).trans (kept_unitDead ..)) ((kept_modArb ..).trans (kept_activityStart
        ..))) (.refl _)

theorem answers_activityEnd (st : Fin 8) (act scope : Nat) (s : State) :
    Answers (s.has st) s (execActivityEnd st act scope s) :=
  .guard (.ite (Kept.ite ((kept_dropActivity ..).trans (kept_setRetraining ..)) (Kept.ite ((kept_dropActivity
    ..).trans (kept_compact ..)) (kept_dropActivity ..))) (.refl _))

theorem answers_queueTimeout (st : Fin 8) (i : Nat) (s : State) :
    Answers (s.has st) s (execQueueTimeout st i s) := by
  refine .guard ?_
  split
  · exact .refl _
  · exact .ite (.refl _) ((kept_endWaiting ..).trans (kept_recordFault ..))

theorem answers_swapCutover (st : Fin 8) (act scope : Nat) (s : State) :
    Answers (s.has st) s (execSwapCutover st act scope s) := by
  refine .guard ?_
  split
  · dsimp only
    exact .ite (Kept.ite ((kept_modActivity ..).trans (kept_setFlag ..)
        |>.trans (kept_setFlag ..)) (kept_modActivity ..)) (.refl _)
  · exact .refl _

theorem answers_idleCoreTest (st : Fin 8) (phys : Fin 60) (sumOk : Bool) (s : State) :
    Answers (s.has st) s (execIdleCoreTest st phys sumOk s) := by
  refine .guard ?_
  split
  · exact .refl _
  · split
    · dsimp only
      exact .ite
          (.refl _) (Kept.ite ((kept_modCore ..).trans (kept_zeroPanel ..)) ((kept_modCore ..).trans (kept_zeroPanel
          ..) |>.trans (kept_submitOrDie ..)))
    · exact .ite (.refl _) (kept_setFlag ..)
    · exact .refl _

theorem answers_heartbeatCheck (st : Fin 8) (s : State) : Answers (s.has st) s (execHeartbeatCheck st s) :=
  .guard (.ite
    (.refl _) (Kept.ite ((kept_modBox ..).trans (kept_modArb ..)) (Kept.ite (kept_modArb ..) (kept_mgmtRestart
    ..))))

theorem answers_pairingCheck (st : Fin 8) (answerOk : Bool) (s : State) :
    Answers (s.has st) s (execPairingCheck st answerOk s) :=
  .guard (.ite (.refl _) (Kept.ite ((kept_bzlFault ..).trans (kept_holdStack ..)) (Kept.ite
    (.refl _) (kept_stackReturns ..))))

theorem answers_pauseFrame (st : Fin 8) (port : Fin 2) (link : Fin 4) (pfc : Option Byte) (s : State) :
    Answers (s.has st) s (execPauseFrame st port link pfc s) := by
  refine .guard ?_
  split
  · exact .refl _
  · split
    · exact .ite (kept_countSat ..) ((kept_countSat ..).trans (kept_modPort ..) |>.trans (kept_raiseEvt ..))
    · exact .ite ((kept_countSat ..).trans (kept_modPort ..) |>.trans (kept_raiseEvt ..)) (kept_countSat ..)

theorem answers_hsResp (st : Fin 8) (ctx : Nat) (body : List Byte) (s : State) :
    Answers (s.has st) s (execHsResp st ctx body s) :=
  .guard (.ite ((kept_modSess ..).trans (kept_sessOpened ..) |>.trans (kept_openEnds ..)) (.refl _))

theorem answers_hsReject (st : Fin 8) (ctx : Nat) (status : BitVec 16) (s : State) :
    Answers (s.has st) s (execHsReject st ctx status s) :=
  .guard (.ite ((kept_now ..).trans (kept_modStack ..) |>.trans (kept_sessClosed ..) |>.trans (kept_openEnds ..))
    (.refl _))

theorem answers_data (st : Fin 8) (port : Fin 2) (link : Fin 4) (p : Packet) (ce : Bool) (s : State) :
    Answers (s.has st) s (execData st port link p ce s) := by
  refine .guard ?_
  split
  · next eq =>
      exact Kept.fst_of (kept_receive ..) eq
  · next eq =>
      dsimp only
      exact (Kept.ite ((Kept.fst_of (kept_receive ..) eq).trans (kept_sessOpened ..)) (Kept.fst_of (kept_receive ..)
          eq)).trans (kept_takeData ..)

theorem answers_ack (st : Fin 8) (p : Packet) (sampleNs : Nat) (s : State) :
    Answers (s.has st) s (execAck st p sampleNs s) := by
  refine .guard ?_
  split
  · next eq =>
      exact Kept.fst_of (kept_receive ..) eq
  · next eq =>
      split
      · exact .ite ((Kept.fst_of (kept_receive ..) eq).trans (kept_takeAck ..)) ((Kept.fst_of (kept_receive ..)
            eq).trans (kept_badPacket ..))
      · exact .ite ((Kept.fst_of (kept_receive ..) eq).trans (kept_takeAck ..)) ((Kept.fst_of (kept_receive ..)
            eq).trans (kept_badPacket ..))
      · exact Kept.fst_of (kept_receive ..) eq

theorem answers_close (st : Fin 8) (p : Packet) (s : State) : Answers (s.has st) s (execClose st p s) := by
  refine .guard ?_
  split
  · next eq =>
      exact Kept.fst_of (kept_receive ..) eq
  · next eq =>
      exact .ite (Kept.ite ((Kept.fst_of (kept_receive ..) eq).trans (kept_answerClose ..)) ((Kept.fst_of
          (kept_receive ..) eq).trans (kept_modSess ..))) (Kept.fst_of (kept_receive ..) eq)

theorem answers_closeAck (st : Fin 8) (p : Packet) (s : State) :
    Answers (s.has st) s (execCloseAck st p s) := by
  refine .guard ?_
  split
  · next eq =>
      exact Kept.fst_of (kept_receive ..) eq
  · next eq =>
      exact .ite ((Kept.fst_of (kept_receive ..) eq).trans (kept_sessClosed ..)) (Kept.fst_of (kept_receive ..) eq)

theorem answers_hsTimeout (st : Fin 8) (ctx : Nat) (s : State) :
    Answers (s.has st) s (execHsTimeout st ctx s) := by
  refine .guard ?_
  split
  · dsimp only
    exact (kept_drawFree ..).trans (kept_sessClosed ..) |>.trans (kept_openEnds ..)
  · exact kept_sessClosed ..
  · exact .refl _

theorem answers_rtoExpiry (st : Fin 8) (ctx : Nat) (seq : Word) (s : State) :
    Answers (s.has st) s (execRtoExpiry st ctx seq s) := by
  refine .guard ?_
  split
  · exact .refl _
  · split
    · dsimp only
      exact .ite ((kept_modSess ..).trans (kept_sessFailed ..)) ((kept_modSess ..).trans (kept_sendData ..))
    · exact .ite (Kept.ite ((kept_modSess ..).trans (kept_sessFailed ..)) ((kept_modSess ..).trans (kept_sendPacket
          ..) |>.trans (kept_countPair ..))) (.refl _)

theorem answers_ccPeriod (st : Fin 8) (ctx : Nat) (s : State) :
    Answers (s.has st) s (execCcPeriod st ctx s) := by
  refine .guard ?_
  split
  · exact kept_modSess ..
  · exact kept_modSess ..
  · exact .refl _

theorem answers_checkpointStreamStart (st : Fin 8) (s : State) :
    Answers (s.has st) s (execCheckpointStreamStart st s) := by
  refine .guard ?_
  split
  · split
    · exact (kept_modCkpt ..).trans (kept_ckptRecord ..) |>.trans (kept_ckptFailed ..)
    · exact .refl _
    · exact kept_startStream ..
  · exact .refl _

theorem answers_linkError (st : Fin 8) (p : Fin 3) (s : State) :
    Answers (s.has st) s (execLinkError st p s) := by
  refine .guard ?_
  split
  · exact .ite (kept_jkFault ..) (kept_recordFault ..)
  · exact kept_recordFault ..

theorem answers_mbxTimeout (st : Fin 8) (mb : Fin 64) (s : State) :
    Answers (s.has st) s (execMbxTimeout st mb s) :=
  .guard (.ite ((kept_modBox ..).trans (kept_countSat ..) |>.trans (kept_settleReplies ..)
    |>.trans (kept_notice ..)) (.refl _))

theorem answers_locketWrite (aged verifyOk : Bool) (s : State) :
    Answers true s (execLocketWrite aged verifyOk s) := by
  refine .always ?_
  split
  · exact .refl _
  · exact .ite (Kept.ite (kept_storeRecord ..) ((kept_storeRecord ..).trans (kept_remapPage ..))) (.refl _)

theorem answers_locketWin15Read (r : Requester) (win : Bool) (s : State) :
    Answers true s (execLocketWin15Read r win s) :=
  .always ((kept_winRead s win 15).trans (kept_send ..))

theorem answers_resetN (s : State) : Answers true s (execResetN s) :=
  .always (.ite (Kept.ite ((kept_modPm ..).trans (kept_modPm ..) |>.trans (kept_setFlag ..)
    |>.trans (kept_moduleReset ..)) (kept_modPm ..)) ((kept_modPm ..).trans (kept_moduleReset ..)))

theorem answers_powerFail (undervoltage : Bool) (s : State) : Answers true s (execPowerFail undervoltage s) :=
  .always (.ite (kept_setFlag ..) ((kept_setFlag ..).trans (kept_modPm ..) |>.trans (kept_recordFirst ..)))

theorem answers_refclkLoss (eth : Bool) (s : State) : Answers true s (execRefclkLoss eth s) :=
  .always (.ite ((kept_modPm .. |>.trans (.foldl
    (fun _ _ => (kept_portDrop ..).trans (kept_portDrop ..)) _ _)).trans (kept_recordFault ..)) (kept_modPm ..))

theorem answers_refclkReturn (s : State) : Answers true s (execRefclkReturn s) :=
  .always (.ite (Kept.ite (kept_modPm ..) ((kept_modPm ..).trans (kept_moduleReset ..))) (.refl _))

theorem answers_domainFailed (dom : Nat) (s : State) :
    Answers (64 ≤ dom || s.has (domStack dom)) s (execDomainFailed dom s) :=
  .guard_or (.ite (kept_recordFault ..) (.refl _)) (.ite ((kept_setTransit ..).trans (kept_setFlag ..)
    |>.trans (kept_raiseEvt ..) |>.trans (kept_recordFault ..)) (.refl _))

theorem answers_powerCapWindow (tenthWatts : List Nat) (avsFail : List (Nat × Nat)) (s : State) :
    Answers true s (execPowerCapWindow tenthWatts avsFail s) :=
  .always (.ite (.refl _) (Kept.ite ((kept_windowPower ..).trans (kept_modPm ..)
    |>.trans (kept_raiseEvt ..)) ((kept_windowPower ..).trans (kept_modPm ..)) |>.trans (.foldl
    (fun _ _ => Kept.ite ((kept_setFld ..).trans (kept_seekLevel ..)) (kept_setFld ..)) _ _)))

theorem answers_levelRaiseSwitch (st : Fin 8) (avsFail : Option Nat) (s : State) :
    Answers (s.has st) s (execLevelRaiseSwitch st avsFail s) := by
  refine .guard ?_
  split
  · exact (kept_switchLevel ..).trans (kept_modPower ..) |>.trans (kept_seekLevel ..)
  · exact .refl _

theorem answers_thermalLevelUpdate (st : Fin 8) (quarterC : Int) (avsFail : Option Nat) (s : State) :
    Answers (s.has st) s (execThermalLevelUpdate st quarterC avsFail s) :=
  .guard (.ite ((kept_measureTemp ..).trans (kept_setFld ..) |>.trans (kept_seekLevel ..)) (kept_measureTemp ..))

theorem answers_thermAlert (st : Fin 8) (quarterC : Int) (s : State) :
    Answers (s.has st) s (execThermAlert st quarterC s) :=
  .guard (.ite (.refl _) ((kept_measureTemp ..).trans (kept_setFlag ..) |>.trans (kept_raiseEvt ..)
    |>.trans (kept_recordFault ..)))

theorem answers_sleepEntered (s : State) : Answers true s (execSleepEntered s) :=
  .always (.ite (kept_modPm .. |>.trans (.foldl (fun _ _ => kept_modTns ..) _ _)) (.refl _))

theorem answers_wake (src : Fin 7) (s : State) : Answers true s (execWake src s) :=
  .always (.ite (.refl _) ((Kept.ite ((Kept.ite (kept_tenseWakes ..) (.refl _)).trans (kept_modPm ..)
    |>.trans (kept_allLost ..) |>.trans (kept_setCause ..)) ((Kept.ite (kept_tenseWakes ..)
    (.refl _)).trans (kept_modPm ..) |>.trans (.foldl
    (fun _ _ => kept_domainsReturn ..) _ _))).trans (kept_setFlag ..) |>.trans (kept_raiseEvt ..)))

theorem answers_ppsIn (s : State) : Answers true s (execPpsIn s) :=
  .always (.ite (.refl _) ((Kept.ite (kept_modPm ..) (.refl _)).trans (kept_now ..) |>.trans (kept_rtcCorrect ..)))

theorem answers_startupStageDone (rep : StageReport) (s : State) :
    Answers true s (execStartupStageDone rep s) :=
  .always (.ite (.refl _) (Kept.ite (kept_stage1 ..) (Kept.ite (kept_stage2 ..) (Kept.ite ((Kept.foldl
    (fun _ _ => kept_stackPowered ..) _ _).trans (kept_stageComplete ..)) (Kept.ite (kept_stage4 ..) (Kept.ite
    ((Kept.foldl
    (fun _ _ => kept_trainPorts ..) _ _).trans (kept_stageComplete ..)) (Kept.ite (kept_stageComplete ..) (Kept.ite
    (kept_stage7 ..) (.refl _)))))))))

theorem answers_calCommitDone (verifyOk : Bool) (s : State) : Answers true s (execCalCommitDone verifyOk s) :=
  .always (.ite
    (.refl _) (Kept.ite ((kept_modCal ..).trans (kept_calResult ..)) ((kept_modCal ..).trans (kept_measExtend ..)
    |>.trans (.foldl (fun _ _ => kept_loadVolts ..) _ _) |>.trans (kept_calResult ..) |>.trans (kept_raiseEvt ..))))

theorem answers_i3cPrivateRead (s : State) : Answers true s (execI3cPrivateRead s) := by
  refine .always ?_
  split
  · exact (kept_modBus ..).trans (kept_i3cAnswer ..)
  · exact kept_i3cNack ..

theorem answers_jukanLaneFailed (st : Fin 8) (p : Fin 3) (g : Fin 4) (s : State) :
    Answers (s.has st) s (execJukanLaneFailed st p g s) :=
  .guard (.ite ((kept_drawFree ..).trans (kept_setFlag ..) |>.trans (kept_raiseEvt ..)
    |>.trans (kept_swapRecord ..)) ((kept_drawFree ..).trans (kept_setFlag ..) |>.trans (kept_raiseEvt ..)
    |>.trans (kept_recordFault ..) |>.trans (kept_raiseEvt ..) |>.trans (kept_swapRecord ..)))

end Sys2Proof.Laws
end

section
/-! Every command answers with a next state exactly where the units it names are populated, and keeps what every command keeps. -/

-- One proof at a time: the stacks of many side by side would take the memory that the check allows.
set_option Elab.async false

namespace Sys2Proof.Laws

open Machine Safety

theorem exec_answers (c : Instr) (s : State) : Answers (unitsPresent s c) s (exec c s) := by
  cases c with
  | registerWrite r a v => exact .always (kept_regWrite ..)
  | rcRegisterRead r a => exact .always (kept_regRead ..)
  | pairLoRead r a => exact .always (kept_regRead ..)
  | pairLoWrite r a v => exact .always (kept_regWrite ..)
  | blockEnable r p on => exact .guard (kept_asked _ _ _ (kept_ctrlWrite ..))
  | quiesce r p on => exact .guard (kept_asked _ _ _ (kept_ctrlWrite ..))
  | softRst r p => exact .guard (kept_asked _ _ _ (kept_softReset ..))
  | softResetDone p => exact .guard (kept_setFlag ..)
  | evtClr r p v => exact .guard (kept_asked _ _ _ (kept_evtClear ..))
  | descriptorAccept st q => exact .guard (kept_descriptorAccept ..)
  | openStep r st => exact .guard (kept_asked _ _ _ (kept_clpCmd ..))
  | reduceBegin r st => exact .guard (kept_asked _ _ _ (kept_clpCmd ..))
  | arm r st => exact .guard (kept_asked _ _ _ (kept_clpCmd ..))
  | abandon r st => exact .guard (kept_asked _ _ _ (kept_clpCmd ..))
  | openEval r st => exact .guard (kept_asked _ _ _ (kept_clpCmd ..))
  | closeEval r st => exact .guard (kept_asked _ _ _ (kept_clpCmd ..))
  | claspGateOpen => exact .always (kept_claspGate ..)
  | gateTimeout st => exact answers_gateTimeout ..
  | commitSequenceEnd st => exact answers_commitSequenceEnd ..
  | voidSequenceEnd st => exact answers_voidSequenceEnd ..
  | evalEventTaken st => exact .guard (.ite (kept_takeEval ..) (.refl _))
  | tnsRun r st => exact .guard (kept_asked _ _ _ (kept_tnsStart ..))
  | tnsStop r st => exact .guard (kept_asked _ _ _ (kept_tnsHalt ..))
  | beatEdge st t => exact .guard ((kept_beatCrossing ..).trans (kept_confirmTick ..))
  | edgeWindowExpiry st => exact answers_edgeWindowExpiry ..
  | tick st => exact .guard (kept_tick ..)
  | tnsSlotCfg r st v => exact .guard (kept_asked _ _ _ (kept_slotCfgWrite ..))
  | mxStream st c => exact answers_mxStream ..
  | mxPassRetire st c => exact answers_mxPassRetire ..
  | mxLdb st c => exact answers_mxLdb ..
  | mxDrain st c => exact answers_drainer _ _ _ _ fun _ _ => kept_drainTile ..
  | mxFree st c => exact answers_drainer _ _ _ _ fun _ _ => kept_freeTile ..
  | mxCfgWrite r st c v => exact .guard (kept_asked _ _ _ (kept_mxCfgWrite ..))
  | vcRun st c => exact answers_vcRow _ _ _ _ fun _ => kept_vcRun ..
  | vcSetchain st c => exact answers_vcRow _ _ _ _ fun _ => kept_setChain ..
  | vcSetvl st c => exact answers_vcRow _ _ _ _ fun _ => kept_setVl ..
  | vcSave st c => exact answers_vcRow _ _ _ _ fun _ => kept_vcSave ..
  | vcRestore st c => exact answers_vcRow _ _ _ _ fun _ => kept_vcRestore ..
  | smpOpen st g => exact answers_smpOpen ..
  | smpSeeds st g => exact answers_smpSeeds ..
  | smpHop st g => exact answers_smpHop ..
  | smpClose st g => exact answers_smpClose ..
  | smpPrefix st g => exact answers_smpPrefix ..
  | beadGather st => exact answers_tabRow _ _ _ _ fun _ => kept_gather ..
  | remoteRowRequest home src table row => exact answers_remoteRowRequest ..
  | beadSplit st => exact answers_tabRow _ _ _ _ fun _ => kept_split ..
  | filScatter st => exact answers_tabRow _ _ _ _ fun _ => kept_scatter ..
  | filContribution home src => exact .guard_and (.ite (kept_takeContribution ..) (.refl _))
  | filRead st => exact answers_tabRow _ _ _ _ fun _ => kept_filRead ..
  | filExport st => exact answers_tabRow _ _ _ _ fun _ => kept_filExport ..
  | filMerge st => exact answers_tabRow _ _ _ _ fun _ => kept_filMerge ..
  | filCfgWrite r st off v => exact .guard (kept_asked _ _ _ (.ite (kept_writeReg ..) (.refl _)))
  | hotSetRefreshAdmit st => exact answers_hotSetRefreshAdmit ..
  | hotSetCopyDone st n => exact answers_hotSetCopyDone ..
  | hotSetDirtyRecopy st n => exact answers_hotSetDirtyRecopy ..
  | hotSetSwitch st => exact answers_hotSetSwitch ..
  | hsEnable r st => exact .guard (kept_asked _ _ _ (kept_hsEnWrite ..))
  | hsDisable r st => exact .guard (kept_asked _ _ _ (kept_hsEnWrite ..))
  | keyCommitStep r st => exact .guard (kept_askedKey _ _ (kept_commitStepKey ..))
  | keyCommitEval r st => exact .guard (kept_askedKey _ _ (kept_commitEvalKey ..))
  | keyDerivationDone st => exact .guard (kept_modKeys ..)
  | reseed r st c => exact .guard (kept_asked _ _ _ (kept_requestReseed ..))
  | rngSelfCheck st c err => exact .guard (.ite (.refl _) ((kept_recordFault ..).trans (kept_modClp ..)))
  | sramRepair r st bank => exact .guard (kept_asked _ _ _ (kept_sramRepair ..))
  | sramRepairDone st => exact answers_sramRepairDone ..
  | sramPatrol st line ce => exact answers_sramPatrol ..
  | lpddr5xPatrol st dev line linkCe linkUe => exact answers_lpddr5xPatrol ..
  | lpddr5xRetraining st ch => exact .guard (kept_submit ..)
  | softRepair r st dev => exact .guard (kept_asked _ _ _ (kept_softRepair ..))
  | softRepairDone st dev => exact answers_softRepairDone ..
  | regionWrite r st v => exact .guard (kept_asked _ _ _ (kept_regionWrite ..))
  | xfrCopy st ch => exact answers_xfrRow _ _ _ _ fun _ => kept_xfrCopy ..
  | xfrFill st ch => exact answers_xfrRow _ _ _ _ fun _ => kept_xfrFill ..
  | xfrCompress st ch => exact answers_xfrRow _ _ _ _ fun _ => kept_xfrCompress ..
  | xfrExpand st ch => exact answers_xfrRow _ _ _ _ fun _ => kept_xfrExpand ..
  | xfrToRegion st ch => exact answers_xfrRow _ _ _ _ fun _ => kept_xfrToRegion ..
  | xfrFromRegion st ch => exact answers_xfrRow _ _ _ _ fun _ => kept_xfrFromRegion ..
  | xfrTilecopy st ch => exact answers_xfrRow _ _ _ _ fun _ => kept_xfrTilecopy ..
  | add st q => exact answers_issue _ _ _ _ fun _ => kept_aluBody ..
  | sub st q => exact answers_issue _ _ _ _ fun _ => kept_aluBody ..
  | and st q => exact answers_issue _ _ _ _ fun _ => kept_aluBody ..
  | or st q => exact answers_issue _ _ _ _ fun _ => kept_aluBody ..
  | xor st q => exact answers_issue _ _ _ _ fun _ => kept_aluBody ..
  | shl st q => exact answers_issue _ _ _ _ fun _ => kept_aluBody ..
  | shr st q => exact answers_issue _ _ _ _ fun _ => kept_aluBody ..
  | sar st q => exact answers_issue _ _ _ _ fun _ => kept_aluBody ..
  | mul st q => exact answers_issue _ _ _ _ fun _ => kept_aluBody ..
  | movhi st q => exact answers_issue _ _ _ _ fun _ => kept_movhiBody ..
  | cmp st q => exact answers_issue _ _ _ _ fun _ => kept_cmpBody ..
  | pset st q => exact answers_issue _ _ _ _ fun _ => kept_psetBody ..
  | br st q => exact answers_br ..
  | call st q => exact answers_issue _ _ _ _ fun _ => kept_callBody ..
  | jmp st q => exact answers_jmp ..
  | halt st q => exact answers_issue _ _ _ _ fun _ => kept_haltBody ..
  | trap st q => exact answers_trap ..
  | ldd st q => exact answers_ldd ..
  | std st q => exact answers_std ..
  | ldg st q => exact answers_issue _ _ _ _ fun _ => kept_ldgBody ..
  | ldgReturn st q => exact .guard (kept_ldgReturn ..)
  | stg st q => exact answers_issue _ _ _ _ fun _ => kept_stgBody ..
  | rdr st q => exact answers_issue _ _ _ _ fun _ => kept_rdrBody ..
  | rdrReturn st q => exact .guard (kept_rdrReturn ..)
  | wrr st q => exact answers_issue _ _ _ _ fun _ => kept_wrrBody ..
  | dwr st q => exact answers_issue _ _ _ _ fun _ => kept_dwrBody ..
  | dins st q => exact answers_issue _ _ _ _ fun _ => kept_dinsBody ..
  | dld st q => exact answers_dld ..
  | dst st q => exact answers_dst ..
  | push st q => exact answers_issue _ _ _ _ fun _ => kept_pushBody ..
  | pushQueueRoom st q => exact answers_pushQueueRoom ..
  | waitq st q => exact answers_waitq ..
  | waitqDone st q => exact answers_waitqDone ..
  | fence st q => exact answers_fence ..
  | fenceDone st q => exact answers_fenceDone ..
  | waitdb st q => exact answers_waitdb ..
  | waitdbDone st q => exact answers_waitdbDone ..
  | time st q => exact answers_issue _ _ _ _ fun _ => kept_timeBody ..
  | waitpos st q => exact answers_waitpos ..
  | waitposDone st q => exact answers_waitposDone ..
  | nop st q => exact answers_nop ..
  | seqWatchdog st q => exact .guard (.ite ((kept_seqFault ..).trans (kept_raiseEvt ..)) (.refl _))
  | seqLoad r st q => exact .guard (kept_asked _ _ _ (kept_seqLoad ..))
  | seqLoadDone st q => exact .guard (.ite (kept_loadDone ..) (.refl _))
  | seqStart r st q => exact .guard (kept_asked _ _ _ (kept_seqStart ..))
  | seqStop r st q => exact .guard (kept_asked _ _ _ (kept_seqStop ..))
  | seqResume r st q => exact .guard (kept_asked _ _ _ (kept_seqResume ..))
  | seqSave r st q withData => exact .guard (kept_asked _ _ _ (kept_seqSave ..))
  | seqRestore r st q => exact .guard (kept_asked _ _ _ (kept_seqRestore ..))
  | seqCtxDone st q => exact answers_seqCtxDone ..
  | seqClear r st q => exact .guard (kept_asked _ _ _ (kept_seqClear ..))
  | rebind r st v => exact .guard (kept_asked _ _ _ (kept_rebindGo ..))
  | rebindScrub st res => exact answers_rebindScrub ..
  | rebindHandover st res => exact answers_rebindHandover ..
  | rebindDone st res => exact answers_rebindDone ..
  | rebindForced st res => exact answers_rebindForced ..
  | arbSubmit r st v => exact .guard (kept_asked _ _ _ (kept_arbSubmitWrite ..))
  | activitySubmit st sub act scope => exact .guard (kept_submitOrDie ..)
  | activityAdmit st n => exact answers_activityAdmit ..
  | activityEnd st act scope => exact answers_activityEnd ..
  | queueTimeout st n => exact answers_queueTimeout ..
  | swapCutover st act scope => exact answers_swapCutover ..
  | swapCopy st act scope spareOk => exact .guard ((kept_swapCopied ..).trans (kept_applyDomains ..))
  | swapComplete st act scope => exact .guard ((kept_swapCompleted ..).trans (kept_applyDomains ..))
  | idleCoreTest st phys sumOk => exact answers_idleCoreTest ..
  | heartbeatCheck st => exact answers_heartbeatCheck ..
  | pairingCheck st answerOk => exact answers_pairingCheck ..
  | linkUp st port link => exact .guard (kept_linkRise ..)
  | linkDown st port link => exact .guard (kept_linkDrop ..)
  | netCfgWrite r st port v => exact .guard (kept_asked _ _ _ (kept_netCfgWrite ..))
  | pauseFrame st port link pfc => exact answers_pauseFrame ..
  | hsInit st port link body rnd => exact .guard (kept_hsInit ..)
  | hsResp st ctx body => exact answers_hsResp ..
  | hsReject st ctx status => exact answers_hsReject ..
  | data st port link p ce => exact answers_data ..
  | ack st p sampleNs => exact answers_ack ..
  | close st p => exact answers_close ..
  | closeAck st p => exact answers_closeAck ..
  | reset st ctx => exact .guard (.ite (.refl _) (kept_modSess ..))
  | hsTimeout st ctx => exact answers_hsTimeout ..
  | rtoExpiry st ctx seq => exact answers_rtoExpiry ..
  | failedTimeout st ctx => exact .guard (.ite (kept_sessClosed ..) (.refl _))
  | ackDelay st ctx => exact .guard (.ite (kept_sendAck ..) (.refl _))
  | ccPeriod st ctx => exact answers_ccPeriod ..
  | kxtOpenGo r st => exact .guard (kept_asked _ _ _ (kept_kxtOpenGo ..))
  | regRd st ctx op => exact .guard (kept_request _ _ _ _ _ _ fun _ _ => kept_regRdBody ..)
  | regWr st ctx op => exact .guard (kept_request _ _ _ _ _ _ fun _ _ => kept_regWrBody ..)
  | memWr st ctx op => exact .guard (kept_request _ _ _ _ _ _ fun _ _ => kept_memWrBody ..)
  | memRd st ctx op => exact .guard (kept_request _ _ _ _ _ _ fun _ _ => kept_memRdBody ..)
  | planLoad st ctx op => exact .guard (kept_request _ _ _ _ _ _ fun _ _ => kept_planLoadBody ..)
  | planStart st ctx op => exact .guard (kept_request _ _ _ _ _ _ fun _ _ => kept_planStartBody ..)
  | mbxWr st ctx op => exact .guard (kept_request _ _ _ _ _ _ fun _ _ => kept_mbxWrBody ..)
  | mbxWrReply st n => exact .guard (kept_mbxWrReply ..)
  | doorbell st ctx op => exact .guard (kept_request _ _ _ _ _ _ fun _ _ => kept_doorbellBody ..)
  | kxtNop st ctx op => exact .guard (kept_request _ _ _ _ _ _ fun _ _ => .refl _)
  | mbxEventSend st page => exact .guard (kept_mbxEventSend ..)
  | checkpointStreamStart st => exact answers_checkpointStreamStart ..
  | ckptAck st ctx step status => exact .guard (.ite (kept_ckptAck ..) (.refl _))
  | beat ctx f now => exact .always (.ite (kept_beatFrame ..) (.refl _))
  | chanReady r st v => exact .guard (kept_asked _ _ _ (kept_chanReadyWrite ..))
  | collStartSegment st ctx g => exact .guard (.ite (kept_startSegment ..) (.refl _))
  | collReduceSegment st ctx g => exact .guard (.ite (kept_reduceSegment ..) (.refl _))
  | collGatherSegment st ctx g => exact .guard (.ite (kept_gatherSegment ..) (.refl _))
  | collVoteSegment st ctx g => exact .guard (.ite (kept_voteSegment ..) (.refl _))
  | collTimeout st c => exact .guard (.ite (kept_chanFail ..) (.refl _))
  | jkSend st port => exact answers_jkRow _ _ _ _ fun _ => kept_jkSend ..
  | jkReduceLp st port => exact answers_jkRow _ _ _ _ fun _ => kept_jkReduce ..
  | jkSignal st port => exact answers_jkRow _ _ _ _ fun _ => kept_jkSignal ..
  | linkError st port => exact answers_linkError ..
  | mbxSend r st mb v => exact .guard (kept_mboxSend ..)
  | mbxReceive r st mb => exact .guard (.ite ((kept_mboxRead ..).trans (kept_send ..)) (.refl _))
  | mbxTimeout st mb => exact answers_mbxTimeout ..
  | mbxDbSet r st mb v => exact .guard (kept_asked _ _ _ (kept_ringBits ..))
  | identity r st => exact .guard (kept_asked _ _ _ (kept_bzlGo ..))
  | attest r st => exact .guard (kept_asked _ _ _ (kept_bzlGo ..))
  | custody r st => exact .guard (kept_asked _ _ _ (kept_bzlGo ..))
  | wipeComplete => exact .always (.ite (kept_wipeDone ..) (.refl _))
  | config r st => exact .guard (kept_asked _ _ _ (kept_bzlGo ..))
  | sealEk r st => exact .guard (kept_asked _ _ _ (kept_bzlGo ..))
  | sealKey r st => exact .guard (kept_asked _ _ _ (kept_bzlGo ..))
  | sealDrop r st => exact .guard (kept_asked _ _ _ (kept_bzlGo ..))
  | debug r st => exact .guard (kept_asked _ _ _ (kept_bzlGo ..))
  | fwUpdate r st => exact .guard (kept_asked _ _ _ (kept_bzlGo ..))
  | locketWrite aged verifyOk => exact answers_locketWrite ..
  | locketScanDone => exact .always (kept_scanDone ..)
  | locketCursorWrite r win lo => exact .always (kept_asked _ _ _ (kept_cursorWrite ..))
  | locketWindowLoadDone win eccOk => exact .always (kept_windowLoaded ..)
  | locketWin15Read r win => exact answers_locketWin15Read ..
  | locketSnap r win => exact .always (kept_asked _ _ _ (kept_snap ..))
  | lktFwGo r => exact .always (kept_asked _ _ _ (kept_fwGo ..))
  | restoreBlock word => exact .always (kept_restore ..)
  | powerOnReset => exact .always (kept_powerOn ..)
  | resetN => exact answers_resetN ..
  | powerFail undervoltage => exact answers_powerFail ..
  | powerFailCleared => exact .always (.ite ((kept_setFld ..).trans (kept_moduleReset ..)) (kept_setFld ..))
  | pwrCtlReset r st => exact .guard (kept_asked _ _ _ (.ite (.refl _) (kept_ctlReset ..)))
  | refclkLoss eth => exact answers_refclkLoss ..
  | refclkReturn => exact answers_refclkReturn ..
  | pllLock st computeDie => exact .guard (.ite (.refl _) ((kept_recordFault ..).trans (kept_ctlReset ..)))
  | pwrDomReq r st v => exact .guard (kept_asked _ _ _ (kept_domRequest ..))
  | domainPowerUp dom => exact .guard_or (kept_moduleDomain ..) (kept_upDone ..)
  | domainFailed dom => exact answers_domainFailed ..
  | powerCapWindow tenthWatts avsFail => exact answers_powerCapWindow ..
  | levelRaiseSwitch st avsFail => exact answers_levelRaiseSwitch ..
  | thermalLevelUpdate st quarterC avsFail => exact answers_thermalLevelUpdate ..
  | thermAlert st quarterC => exact answers_thermAlert ..
  | thermtrip st quarterC => exact .guard (.ite (.refl _) (kept_thermTrip ..))
  | pwrSleep r v => exact .always (kept_asked _ _ _ (kept_sleepGo ..))
  | sleepEntered => exact answers_sleepEntered ..
  | wake src => exact answers_wake ..
  | ppsIn => exact answers_ppsIn ..
  | rtcSet r lo => exact .always (kept_asked _ _ _ (kept_rtcSet ..))
  | rtcDisciplineTimeout => exact .always (kept_setFlag ..)
  | startupStageDone rep => exact answers_startupStageDone ..
  | calCopy r => exact .always (kept_asked _ _ _ (kept_calCopy ..))
  | calCommit r => exact .always (kept_asked _ _ _ (kept_calCommit ..))
  | calCommitDone verifyOk => exact answers_calCommitDone ..
  | calDiscard r => exact .always (kept_asked _ _ _ (kept_calDiscard ..))
  | i3cPrivateWrite bytes => exact .always (kept_i3cWrite ..)
  | i3cPrivateRead => exact answers_i3cPrivateRead ..
  | resetNRelease => exact .always (kept_modPm ..)
  | ethRefclkReturn => exact .always (kept_modPm ..)
  | domainPowerDown dom => exact .guard_or (kept_moduleDomain ..) (kept_downDone ..)
  | thermAlertClear => exact .always (kept_setFlag ..)
  | sleepBeatCount st => exact .guard (.ite (kept_modTns ..) (.refl _))
  | jukanLaneFailed st port group => exact answers_jukanLaneFailed ..
  | commonCommandCode ccc arg => exact .always (kept_commonCode ..)
  | icmpEcho st port link v6 dst body => exact .guard (.ite (kept_send ..) (.refl _))
  | neighbourDiscovery st port link v6 target => exact .guard (.ite (kept_send ..) (.refl _))
  | ptpEventMessage st port link offset => exact .guard (.ite (kept_rtcCorrect ..) (.refl _))
  | droppedFrame st port link => exact .guard (.ite (kept_countSat ..) (.refl _))

end Sys2Proof.Laws
end

section
/-! What a step and a run are, and the statements about every command. -/

-- One proof at a time: the stacks of many side by side would take the memory that the check allows.
set_option Elab.async false

namespace Sys2Proof.Laws

open Machine Safety

/-! ### One step, and a run -/

theorem exec_eq_next {c : Instr} {s : State} (h : unitsPresent s c = true) : ∃ t, Kept s t ∧ exec c s = .next t :=
  (exec_answers c s).eq_next h

theorem exec_kept {c : Instr} {s t : State} (h : exec c s = .next t) : Kept s t := (exec_answers c s).kept_of_next h

theorem canonical_withPending (s : State) (l : List Instr) : Canonical { s with pending := l } ↔ Canonical s := .rfl

theorem step_canonical {s t : State} (hs : Canonical s) (h : step s = .next t) : Canonical t := by
  unfold step at h
  split at h
  · cases h; exact hs
  · next c cs _ => exact (exec_kept h).canonical ((canonical_withPending s cs).2 hs)

/-- Which units a command names of a state depends on its part alone. -/
theorem unitsPresent_of_part {s t : State} (h : t.part = s.part) (c : Instr) : unitsPresent t c = unitsPresent s c := by
  have hhas : t.has = s.has := by funext i; simp only [State.has, h]
  have hpage : t.pageOk = s.pageOk := by funext p; simp only [State.pageOk, hhas]
  unfold unitsPresent
  rw [hhas, hpage]

/-- Every command that waits names populated units. -/
def PendingPresent (s : State) : Prop := ∀ c ∈ s.pending, unitsPresent s c = true

theorem step_pendingPresent {s : State} (h : PendingPresent s) : ∃ t, step s = .next t ∧ PendingPresent t := by
  unfold step
  split
  · exact ⟨s, rfl, h⟩
  · next c cs eq =>
    have hs : ∀ d ∈ c :: cs, unitsPresent { s with pending := cs } d = true := fun d hd =>
      (unitsPresent_of_part (s := s) rfl d).trans (h d (eq ▸ hd))
    obtain ⟨t, ht, e⟩ := exec_eq_next (hs c (.head _))
    have hp : t.pending = cs := ht.pending
    exact ⟨t, e, fun d hd => (unitsPresent_of_part ht.part d).trans (hs d (.tail _ (hp ▸ hd)))⟩

theorem PendingPresent.neverStops {s : State} (h : PendingPresent s) : NeverStops s := by
  intro k
  induction k generalizing s with
  | zero => exact ⟨s, rfl⟩
  | succ k ih =>
    obtain ⟨t, e, ht⟩ := step_pendingPresent h
    obtain ⟨u, hu⟩ := ih ht
    refine ⟨u, ?_⟩
    have hstep : core.step s = .next t := e
    simpa only [Host.Core.run, hstep] using hu

end Sys2Proof.Laws

open Sys2Proof Machine Safety Laws

/-- Settles O2, from how every command answers. -/
theorem commandsStopForAbsentStacksOnly : Obligations.CommandsStopForAbsentStacksOnly := fun c s =>
  ⟨(exec_answers c s).eq_fault, fun h => (exec_eq_next h).imp fun _ => And.right⟩

/-- Settles O6, from what every command keeps. -/
theorem commandsKeepPartAndQueue : Obligations.CommandsKeepPartAndQueue := fun _ _ _ h =>
  ⟨(exec_kept h).part, (exec_kept h).pending⟩

/-- Settles O4, from what every command keeps. -/
theorem stepKeepsCanonicalForm : Obligations.StepKeepsCanonicalForm := fun _ _ => step_canonical

/-- Settles O3: that the commands that wait name populated units holds after every step, and such a step answers a next state. -/
theorem runsNeverStop : Obligations.RunsNeverStop := fun _ => PendingPresent.neverStops
end

section
/-! The state after reset. -/

namespace Sys2Proof.Laws

open Machine Safety

/-- Every stack of the reset state is the default one. -/
@[simp] theorem st_reset (st : Fin 8) : State.reset.st st = {} := by
  simp only [State.reset, State.st, Fin.getElem_fin, Vector.getElem_replicate]

@[simp] theorem queue_reset (st : Fin 8) (q : Nat) : State.reset.queue st q = {} := rfl

end Sys2Proof.Laws
end

section
open Sys2Proof Machine Safety Laws

/-- Settles O5: the empty stores of the reset state are in canonical form. -/
theorem resetIsCanonical : Obligations.ResetIsCanonical := ⟨rfl, Memory.wf_reset, rfl⟩

/-- Settles O7: the registers by computing for each stack, the typed state as the default of a stack. -/
theorem resetLeaves : Obligations.ResetLeaves := by
  have hreg : ∀ st : Fin 8, regValue State.reset (pwrPage st) 0x044 = 0x80 ∧
      regValue State.reset (pwrPage st) 0x048 = 0x101010 := by decide
  refine ⟨rfl, rfl, by decide, fun st => ⟨(hreg st).1, (hreg st).2, ?_⟩⟩
  simp [State.seq, State.box]

end

section
/-! What an event and a fault leave of the registers at other offsets, and the events that they leave set. -/

namespace Sys2Proof.Laws

open Machine Safety

@[simp] theorem stackPage_blk (st : Fin 8) (b : Blk) (i : Nat) : (stackPage st b i).blk = b := rfl
@[simp] theorem stackPage_home (st : Fin 8) (b : Blk) (i : Nat) : (stackPage st b i).home = st := dif_pos st.isLt

/-! ### Registers at other offsets -/

section
variable (s : State) (p q : Page) {x : Nat}

/-- Registers at different offsets are stored apart, whatever their pages. -/
theorem reg_setReg_apart {off : Nat} (v : Word) (h : x % 4096 ≠ off % 4096) : (s.setReg p off v).reg q x = s.reg q x := by
  rw [State.reg_setReg, if_neg]
  simp only [Page.key]
  omega

theorem reg_setFlag_apart {off : Nat} (n : Nat) (b : Bool) (h : x % 4096 ≠ off % 4096) :
    (s.setFlag p off n b).reg q x = s.reg q x := reg_setReg_apart _ _ _ _ h

theorem reg_wakeBox_apart (i : Fin 8) (m : Nat) (h : x % 4096 ≠ 0x044) : (wakeBox s i m).reg q x = s.reg q x := by
  unfold wakeBox
  split
  · rw [reg_setFlag_apart _ _ _ _ _ h, State.modBox_reg]
  · rfl

theorem reg_setEvt_apart (n : Nat) (h : x % 4096 ≠ 0x010) : (setEvt s p n).reg q x = s.reg q x :=
  reg_setFlag_apart _ _ _ _ _ h

theorem reg_ringBits_apart (i : Fin 8) (m : Nat) (bs : Word) (h : x % 4096 ≠ 0x044) (h' : x % 4096 ≠ 0x010) :
    (ringBits s i m bs).reg q x = s.reg q x := by
  have hs : ∀ c : Prop, ∀ [Decidable c], ∀ t : State, (if c then setEvt t (stackPage i .mbx (m / 16)) 3 else t).reg q x = t.reg q x := by
    intro c _ t
    split
    · exact reg_setEvt_apart _ _ _ _ h'
    · rfl
  dsimp only [ringBits]
  split
  · rw [reg_wakeBox_apart _ _ _ _ h, hs, State.modBox_reg]
  · rw [hs, State.modBox_reg]

theorem reg_ringLine_apart (h : x % 4096 ≠ 0x044) (h' : x % 4096 ≠ 0x010) : (ringLine s p).reg q x = s.reg q x := by
  unfold ringLine
  split
  · rfl
  · dsimp only
    split
    · exact reg_ringBits_apart _ _ _ _ _ h h'
    · rfl

theorem reg_lineRise_apart (s₀ : State) (h : x % 4096 ≠ 0x044) (h' : x % 4096 ≠ 0x010) :
    (lineRise s₀ s p).reg q x = s.reg q x := by
  unfold lineRise
  split
  · exact reg_ringLine_apart _ _ _ h h'
  · rfl

/-- An event changes registers at 0x010 and 0x044 alone: EVT_STAT, and PWR_DOM where a CTL domain wakes. -/
theorem reg_raiseEvt_apart (n : Nat) (h : x % 4096 ≠ 0x044) (h' : x % 4096 ≠ 0x010) :
    (raiseEvt s p n).reg q x = s.reg q x := by
  rw [raiseEvt, reg_lineRise_apart _ _ _ _ h h', reg_setEvt_apart _ _ _ _ h']

theorem reg_locketRequest_apart (src : Source) (order : Nat) (i : Fin 8) (code : Nat) (payload : List Byte) (h : x % 4096 ≠ 0x044)
    (h' : x % 4096 ≠ 0x010) (h'' : x % 4096 ≠ 0x064) : (locketRequest s src order i code payload).reg q x = s.reg q x := by
  unfold locketRequest
  split
  · rw [reg_raiseEvt_apart _ _ _ _ h h', State.countSat, reg_setReg_apart _ _ _ _ h'', State.modLkt_reg]
  · rfl

end

/-! ### Events that stand -/

section
variable (s : State) (p q : Page)

/-- Raising an event clears none. -/
theorem flag_setEvt_of_flag (n : Nat) {m : Nat} (hn : n < 32) (h : s.flag q 0x010 m = true) : (setEvt s p n).flag q 0x010 m = true := by
  have hk : ∀ {x : State}, q.key 0x010 = p.key 0x010 → x.reg q 0x010 = x.reg p 0x010 := fun e => by simp only [State.reg, e]
  by_cases e : q.key 0x010 = p.key 0x010
  · simp only [State.flag, hk e] at h ⊢
    by_cases hm : m = n
    · subst hm; exact State.flag_setFlag_same s p 0x010 true hn
    · exact (State.flag_setFlag_beside s p 0x010 true hn hm).trans h
  · simpa only [State.flag, setEvt, State.setFlag, State.setFld, State.reg_setReg, if_neg e] using h

theorem flag_ringBits_of_flag (i : Fin 8) (n : Nat) (bs : Word) {m : Nat} (h : s.flag q 0x010 m = true) :
    (ringBits s i n bs).flag q 0x010 m = true := by
  have hw : ∀ t : State, (wakeBox t i n).flag q 0x010 m = t.flag q 0x010 m := fun t => by
    simp only [State.flag, reg_wakeBox_apart t q i n (x := 0x010) (by decide)]
  dsimp only [ringBits]
  split
  · rw [hw]
    split
    · exact flag_setEvt_of_flag _ _ _ _ (by decide) h
    · exact h
  · split
    · exact flag_setEvt_of_flag _ _ _ _ (by decide) h
    · exact h

theorem flag_lineRise_of_flag (s₀ : State) {m : Nat} (h : s.flag q 0x010 m = true) : (lineRise s₀ s p).flag q 0x010 m = true := by
  unfold lineRise ringLine
  split
  · split
    · exact h
    · dsimp only
      split
      · exact flag_ringBits_of_flag _ _ _ _ _ h
      · exact h
  · exact h

/-- An event that has been raised stands. -/
theorem flag_raiseEvt (n : Nat) (hn : n < 32) : (raiseEvt s p n).flag p 0x010 n = true :=
  flag_lineRise_of_flag _ _ _ _ (State.flag_setFlag_same s p 0x010 true hn)

end

/-! ### The fault record -/

section
variable (s : State) (p q : Page)

/-- A fault of a block that is no engine changes, of the registers, its record's and EVT_STAT, PWR_DOM and LKT_DROPPED. -/
theorem reg_recordFault_apart (cls det info addr : Nat) {x : Nat} (he : isEngine p.blk = false)
    (hx : ∀ off ∈ [0x010, 0x020, 0x024, 0x028, 0x02C, 0x044, 0x064], x % 4096 ≠ off) :
    (recordFault s p cls det info addr).reg q x = s.reg q x := by
  simp only [List.mem_cons, List.not_mem_nil, or_false, forall_eq_or_imp, forall_eq] at hx
  obtain ⟨h10, h20, h24, h28, h2c, h44, h64⟩ := hx
  have hp : (pageFault s p cls det info addr).reg q x = s.reg q x := by
    rw [pageFault, reg_raiseEvt_apart _ _ _ _ h44 h10, State.setPair, reg_setReg_apart _ _ _ _ h2c, reg_setReg_apart _ _ _ _ h28,
      reg_setReg_apart _ _ _ _ h24, reg_setReg_apart _ _ _ _ h20]
  rw [recordFault, if_neg (by simp [he]), recordPlain]
  split
  · rw [reg_locketRequest_apart _ _ _ _ _ _ _ h44 h10 h64, hp]
  · exact hp

/-- What the record of a block that is no engine holds after its fault. -/
theorem record_recordFault (cls det info addr : Nat) (he : isEngine p.blk = false) (hc : cls < 256) (hd : det < 256)
    (hi : info < 2 ^ 32) :
    (recordFault s p cls det info addr).fld p 0x020 15 0 = det + cls * 2 ^ 8 ∧
      ((recordFault s p cls det info addr).reg p 0x024).toNat = info := by
  have hp : ∀ x ∈ [0x020, 0x024], (recordFault s p cls det info addr).reg p x = (pageFault s p cls det info addr).reg p x := by
    intro x hx
    have h3 : x % 4096 ≠ 0x044 ∧ x % 4096 ≠ 0x010 ∧ x % 4096 ≠ 0x064 := by
      simp only [List.mem_cons, List.not_mem_nil, or_false] at hx
      omega
    rw [recordFault, if_neg (by simp [he]), recordPlain]
    split
    · exact reg_locketRequest_apart _ _ _ _ _ _ _ h3.1 h3.2.1 h3.2.2
    · rfl
  rw [State.fld, hp 0x020 (by simp), hp 0x024 (by simp), pageFault, reg_raiseEvt_apart _ _ _ _ (by decide) (by decide),
    reg_raiseEvt_apart _ _ _ _ (by decide) (by decide)]
  simp only [State.setPair, State.reg_setReg_other _ p _ (show (0x020 : Nat) ≠ 0x028 + 4 by decide),
    State.reg_setReg_other _ p _ (show (0x020 : Nat) ≠ 0x028 by decide), State.reg_setReg_other _ p _ (show (0x020 : Nat) ≠ 0x024 by decide),
    State.reg_setReg_other _ p _ (show (0x024 : Nat) ≠ 0x028 + 4 by decide), State.reg_setReg_other _ p _ (show (0x024 : Nat) ≠ 0x028 by decide),
    State.reg_setReg_same, BitVec.toNat_ofNat, bitsOf_eq]
  generalize min 0xFFFF (s.fld p 0x020 31 16 + 1) = n
  omega

end

end Sys2Proof.Laws
end

section
/-! Register accesses (R7 to R10): what each kind of read and write does, and O8. -/

namespace Sys2Proof.Laws

open Machine Safety

/-! ### Whole-register fields -/

theorem bitsOf_word (v : Word) : bitsOf v.toNat 31 0 = v.toNat := by
  rw [bitsOf_eq]
  have := v.isLt
  omega

/-- A bit of a number is its field of one bit. -/
theorem bitAt_eq_bitsOf (n i : Nat) : bitAt n i = decide (bitsOf n i i = 1) := by
  rw [bitAt, bitsOf_eq, Nat.testBit_eq_decide_div_mod_eq, Nat.add_sub_cancel_left, pow_one]

theorem withBits_word (v old : Word) : withBits old.toNat 31 0 (bitsOf v.toNat 31 0) = v.toNat := by
  rw [bitsOf_word, withBits, bitsOf_word]
  have := v.isLt
  omega

theorem and_word (v : Word) : v.toNat &&& 0xFFFFFFFF = v.toNat := by
  rw [show (0xFFFFFFFF : Nat) = 2 ^ 32 - 1 by rfl, Nat.and_two_pow_sub_one_eq_mod]
  exact Nat.mod_eq_of_lt v.isLt

/-! ### The address -/

section
variable {s : State} {r r' : Requester} {p : Page} {a : DWord}

/-- A permitted write at the address of one register. -/
theorem regWrite_of_target {off : Nat} {v : Word} (ht : regTargets s r a.toNat = some [(p, r')]) (ho : a.toNat % 4096 = off)
    (h4 : off % 4 = 0) (hw : mayWrite s r' p off = true) : regWrite s r a v = writeReg s r' p off v := by
  simp only [regWrite, ht, ho, h4, List.all_cons, List.all_nil, hw, Bool.and_true, and_self, if_true, writeAt, List.foldl_cons,
    List.foldl_nil]

/-- A read at the address of a register. -/
theorem regRead_of_source {off : Nat} (ht : regSource s r a.toNat = some (p, r')) (ho : a.toNat % 4096 = off) (h4 : off % 4 = 0) :
    regRead s r a = (readReg s r' p off).2.send (.value r (readReg s r' p off).1) := by
  simp only [regRead, ht, ho, h4, if_true]

end

/-! ### Single registers -/

section
variable (s : State) (r : Requester) (p : Page) (v : Word)

theorem not_half_of_header {b : Blk} {off : Nat} (h : off < 0x028) : isLo b off = false ∧ isHi b off = false := by
  have hp : ∀ o < 0x028, ((pairsOf b).contains o) = false := by cases b <;> decide
  have hl : ∀ o < 0x028, isLo b o = false := fun o ho => by
    simp only [isLo, hp o ho, Bool.or_false, beq_eq_false_iff_ne]; omega
  exact ⟨hl off h, by simp only [isHi, hl (off - 4) (by omega), Bool.and_false]⟩

/-- A write of EVT_EN leaves the value written: no event that rises changes it. -/
theorem reg_writeReg_evtEn : (writeReg s r p 0x014 v).reg p 0x014 = v := by
  have hh := not_half_of_header (b := p.blk) (off := 0x014) (by decide)
  have hs : ∀ t : State, (evtSettle t p).reg p 0x014 = t.reg p 0x014 := fun t => by
    unfold evtSettle
    split <;> rfl
  rw [writeReg, if_neg (by simp [hh]), if_neg (by simp [hh])]
  change (evtEnable s p v).reg p 0x014 = v
  rw [evtEnable, hs, reg_lineRise_apart _ _ _ _ (by decide) (by decide), State.reg_setReg_same]

/-- A register with an RC field of 32 bits answers its value and is cleared. -/
theorem readReg_memCe (st : Fin 8) (dev : Nat) :
    readReg s r (stackPage st .mem dev) 0x050 =
      (s.reg (stackPage st .mem dev) 0x050, s.setReg (stackPage st .mem dev) 0x050 0) := by
  have hr : regValue s (stackPage st .mem dev) 0x050 = (s.reg (stackPage st .mem dev) 0x050).toNat := and_word _
  change (BitVec.ofNat 32 (regValue s (stackPage st .mem dev) 0x050), s.setReg (stackPage st .mem dev) 0x050
    (s.reg (stackPage st .mem dev) 0x050 &&& 0)) = _
  rw [hr, BitVec.ofNat_toNat, BitVec.setWidth_eq, show (0 : Word) = 0#32 from rfl, BitVec.and_zero]

/-- The HOURS field of MEM_PATROL, whose 0 is reserved (R308). -/
def patrolHours : FieldSpec := { hi := 15, lo := 8, acc := .rw, reset := 24, min := 1, max := 255 }

/-- MEM_PATROL takes EN, then HOURS where it is legal. -/
theorem writeReg_patrol (st : Fin 8) (dev : Nat) :
    writeReg s r (stackPage st .mem dev) 0x040 v = s.setReg (stackPage st .mem dev) 0x040 (BitVec.ofNat 32
      (fieldWrite v.toNat (withBits (s.reg (stackPage st .mem dev) 0x040).toNat 0 0 (bitsOf v.toNat 0 0)) patrolHours)) := by
  have h0 : ∀ old, fieldWrite v.toNat old { hi := 0, lo := 0, acc := .rw, reset := 1 } = withBits old 0 0 (bitsOf v.toNat 0 0) :=
    fun old => if_pos ⟨Nat.zero_le _, by have := bitsOf_lt v.toNat 0 0; dsimp only at this ⊢; omega⟩
  have hr : regHere (stackPage st .mem dev) 0x040 =
      some ⟨0x040, 1, 4, [{ hi := 0, lo := 0, acc := .rw, reset := 1 }, patrolHours]⟩ := rfl
  have hw : writeReg s r (stackPage st .mem dev) 0x040 v = writeMem s st dev 0x040 v := by
    have hh : isLo .mem 0x040 = false ∧ isHi .mem 0x040 = false := by decide
    rw [writeReg, if_neg (by simp [hh]), if_neg (by simp [hh]), writeOne, if_neg (by decide), stackPage_home]
    rfl
  have hm : writeMem s st dev 0x040 v = storedWrite s (stackPage st .mem dev) 0x040 v := by simp only [writeMem]
  rw [hw, hm, storedWrite, hr, ← h0]
  rfl

/-- A field of 8 bits at least 1 keeps its old value where 0 is written. -/
theorem fieldWrite_hours (n old : Nat) :
    fieldWrite n old patrolHours = if bitsOf n 15 8 = 0 then old else withBits old 15 8 (bitsOf n 15 8) := by
  have h := bitsOf_lt n 15 8
  by_cases h0 : bitsOf n 15 8 = 0
  · rw [if_pos h0]; exact if_neg (by simp only [patrolHours]; omega)
  · rw [if_neg h0]; exact if_pos (by simp only [patrolHours]; omega)

theorem patrol_writeReg (st : Fin 8) (dev : Nat) :
    let p := stackPage st .mem dev
    (writeReg s r p 0x040 v).fld p 0x040 15 8 = (if bitsOf v.toNat 15 8 = 0 then s.fld p 0x040 15 8 else bitsOf v.toNat 15 8) ∧
      (writeReg s r p 0x040 v).flag p 0x040 0 = bitAt v.toNat 0 := by
  intro p
  have hw : ∀ x < 2 ^ 32, (BitVec.ofNat 32 x).toNat = x := fun x hx => by rw [BitVec.toNat_ofNat, Nat.mod_eq_of_lt hx]
  have h1 : withBits (s.reg p 0x040).toNat 0 0 (bitsOf v.toNat 0 0) < 2 ^ 32 :=
    withBits_lt _ (by decide) (by decide) (s.reg p 0x040).isLt
  rw [writeReg_patrol, fieldWrite_hours, State.fld, State.flag, State.reg_setReg_same]
  by_cases h0 : bitsOf v.toNat 15 8 = 0
  · rw [if_pos h0, if_pos h0, hw _ h1, bitsOf_withBits_other _ _ _ _ _ _ (by decide) (by decide), bitAt_eq_bitsOf,
      bitsOf_withBits _ _ _ _ (by decide), bitAt_eq_bitsOf, Nat.mod_eq_of_lt (bitsOf_lt ..)]
    exact ⟨rfl, rfl⟩
  · rw [if_neg h0, if_neg h0, hw _ (withBits_lt _ (by decide) (by decide) h1), bitsOf_withBits _ _ _ _ (by decide), bitAt_eq_bitsOf,
      bitsOf_withBits_other _ _ _ _ _ _ (by decide) (by decide), bitsOf_withBits _ _ _ _ (by decide), bitAt_eq_bitsOf,
      Nat.mod_eq_of_lt (bitsOf_lt ..), Nat.mod_eq_of_lt (bitsOf_lt ..)]
    exact ⟨rfl, rfl⟩

end

/-! ### Pairs (R9) -/

section
variable (s : State) (r : Requester) (v : Word)

/-- FAULT_ADDR has no view: its halves read as they are stored, the high one in its 20 bits. -/
theorem regValue_faultAddr (p : Page) :
    regValue s p 0x028 = (s.reg p 0x028).toNat ∧ regValue s p 0x02C = (s.reg p 0x02C).toNat % 2 ^ 20 := by
  have hh : ∀ off ∈ [0x028, 0x02C], regHere p off = regSpec p.blk off := fun off ho => if_neg (by
    simp only [List.mem_cons, List.not_mem_nil, or_false] at ho; omega)
  have hm : ∀ b, regSpec b 0x028 = regSpec .mx 0x028 ∧ regSpec b 0x02C = regSpec .mx 0x02C := fun b => by cases b <;> exact ⟨rfl, rfl⟩
  have hl : regValue s p 0x028 = (s.reg p 0x028).toNat &&& 0xFFFFFFFF := by
    rw [regValue, hh _ (by simp), (hm p.blk).1]; rfl
  have hi : regValue s p 0x02C = (s.reg p 0x02C).toNat &&& (2 ^ 20 - 1) := by
    rw [regValue, hh _ (by simp), (hm p.blk).2]; rfl
  exact ⟨hl.trans (and_word _), hi.trans (Nat.and_two_pow_sub_one_eq_mod ..)⟩

/-- A read of FAULT_ADDR_LO returns it and latches FAULT_ADDR_HI. -/
theorem readReg_faultAddrLo (p : Page) :
    readReg s r p 0x028 = (s.reg p 0x028,
      { s with latched := Sparse.put s.latched (p.key 0x02C) (BitVec.ofNat 32 ((s.reg p 0x02C).toNat % 2 ^ 20)) }) := by
  obtain ⟨hlo, hhi⟩ := regValue_faultAddr s p
  have hp : pairNow s p 0x028 = ((s.reg p 0x028).toNat, (s.reg p 0x02C).toNat % 2 ^ 20, s) := by
    rw [pairNow, if_neg (by simp), hlo, hhi]
  rw [readReg, if_pos (by simp [isLo]), hp]
  simp only [BitVec.ofNat_toNat, BitVec.setWidth_eq]
  rfl

/-- A read of FAULT_ADDR_HI returns the half that is latched. -/
theorem readReg_faultAddrHi (p : Page) {x : Word} (h : Sparse.find s.latched (p.key 0x02C) = some x) :
    (readReg s r p 0x02C).1 = x := by
  have hl : isLo p.blk 0x02C = false := by cases p.blk <;> rfl
  rw [readReg, if_neg (by simp [hl]), if_pos (by simp [isHi, isLo]), h]

/-- A write of the high half of KXT_CHAN_BASE is staged. -/
theorem writeReg_chanBaseHi (st : Fin 8) :
    writeReg s r (kxtPage st) 0x094 v = { s with staged := Sparse.put s.staged ((kxtPage st).key 0x094) v } := rfl

/-- A register of KXT_CHAN_BASE takes a write whole. -/
theorem storedWrite_chanBase (st : Fin 8) {off : Nat} (ho : off = 0x090 ∨ off = 0x094) :
    storedWrite s (kxtPage st) off v = s.setReg (kxtPage st) off v := by
  have hf : ∀ old : Word, fieldWrite v.toNat old.toNat { hi := 31, lo := 0, acc := .rw, reset := 0 } = v.toNat := fun old =>
    (if_pos ⟨Nat.zero_le _, by have := bitsOf_lt v.toNat 31 0; dsimp only at this ⊢; omega⟩).trans (withBits_word v old)
  have hs : storedWrite s (kxtPage st) off v = s.setReg (kxtPage st) off (BitVec.ofNat 32
      (fieldWrite v.toNat (s.reg (kxtPage st) off).toNat { hi := 31, lo := 0, acc := .rw, reset := 0 })) := by
    rcases ho with rfl | rfl <;> rfl
  rw [hs, hf, BitVec.ofNat_toNat, BitVec.setWidth_eq]

/-- A write of the low half takes effect with the high half staged, or else with the one that stands. -/
theorem writeReg_chanBaseLo (st : Fin 8) :
    let k := (kxtPage st).key 0x094
    let hi := (Sparse.find s.staged k).getD (s.reg (kxtPage st) 0x094)
    writeReg s r (kxtPage st) 0x090 v =
      (({ s with staged := Sparse.del s.staged k } : State).setReg (kxtPage st) 0x090 v).setReg (kxtPage st) 0x094 hi := by
  intro k hi
  have hv : regValue s (kxtPage st) 0x094 = (s.reg (kxtPage st) 0x094).toNat := and_word _
  have hh : hi = (Sparse.find s.staged k).getD (BitVec.ofNat 32 (regValue s (kxtPage st) 0x094)) := by
    rw [hv, BitVec.ofNat_toNat, BitVec.setWidth_eq]
  rw [hh, ← storedWrite_chanBase _ _ st (.inr rfl), ← storedWrite_chanBase _ _ st (.inl rfl)]
  rfl

end

end Sys2Proof.Laws
end

section
open Sys2Proof Machine Safety Laws

/-- Settles O8: each access is the one lemma of its register. -/
theorem registerAccesses : Obligations.RegisterAccesses := by
  refine ⟨fun s r r' p a v ht ho hw => ⟨_, rfl, ?_⟩, fun s r r' st dev a hs ho => ⟨_, rfl, ?_⟩,
    fun s r r' p a hs ho => ⟨_, rfl, ?_⟩, fun s r r' st a v ht hw => ⟨fun ho => ⟨_, rfl, ?_⟩, fun ho => ⟨_, rfl, ?_⟩⟩,
    fun s r r' st dev a v => fun ht ho hw => ⟨_, rfl, ?_⟩⟩
  · rw [regWrite_of_target ht ho rfl hw]
    exact reg_writeReg_evtEn s r' p v
  · rw [regRead_of_source hs ho rfl, readReg_memCe]
    exact ⟨rfl, State.reg_setReg_same ..⟩
  · rw [regRead_of_source hs ho rfl, readReg_faultAddrLo]
    refine ⟨rfl, fun u hu => readReg_faultAddrHi u r' p ?_⟩
    rw [hu]
    exact (Sparse.find_put ..).trans (if_pos rfl)
  · rw [regWrite_of_target ht ho rfl (ho ▸ hw), writeReg_chanBaseLo]
    exact ⟨(State.reg_setReg_other _ _ _ (by decide)).trans (State.reg_setReg_same ..), State.reg_setReg_same ..⟩
  · rw [regWrite_of_target ht ho rfl (ho ▸ hw), writeReg_chanBaseHi]
    exact ⟨rfl, rfl, (Sparse.find_put ..).trans (if_pos rfl)⟩
  · rw [regWrite_of_target ht ho rfl hw]
    exact patrol_writeReg s r' v st dev

end

section
/-! The Ethernet ports (R342 to R344, R375): what each operation leaves of a port and its page, and O40. -/

namespace Sys2Proof.Laws

open Machine Safety

/-! ### A port's record -/

section
variable (s : State) (st : Fin 8)

theorem port_congr {s t : State} {st : Fin 8} (h : (t.st st).ports = (s.st st).ports) (n : Nat) : t.port st n = s.port st n := by
  simp only [State.port, h]

theorem port_modPort (n : Fin 2) (f : NetPort → NetPort) : (s.modPort st n.val f).port st n.val = f (s.port st n.val) := by
  simp [State.modPort, State.port, n.isLt]

theorem reg_modPort (n : Nat) (f : NetPort → NetPort) (q : Page) (x : Nat) : (s.modPort st n f).reg q x = s.reg q x := by
  unfold State.modPort
  split <;> rfl

/-- The events and faults of a port's page leave every port as it was. -/
theorem port_raiseEvt {p : Page} (hp : p.blk = .net) (hi : p.inst < 2) (n m : Nat) : (raiseEvt s p n).port st m = s.port st m :=
  port_congr ((keptBut_raiseEvt s n (by rw [hp]; exact hi)).1 .ports (by rw [hp]; decide) st) m

theorem port_recordFault {p : Page} (hp : p.blk = .net) (hi : p.inst < 2) (cls det info addr m : Nat) :
    (recordFault s p cls det info addr).port st m = s.port st m :=
  port_congr ((keptBut_recordFault s cls det info addr (by rw [hp]; exact hi)).1 .ports (by rw [hp]; decide) st) m

end

/-! ### Links -/

/-- The bit of a link in the port's record, written. -/
theorem up_withBits (up : BitVec 4) {k : Nat} (hk : k < 4) (b : Bool) (j : Nat) :
    bitAt (BitVec.ofNat 4 (withBits up.toNat k k (bit b))).toNat j = if j = k then b else bitAt up.toNat j := by
  rw [BitVec.toNat_ofNat, Nat.mod_eq_of_lt (withBits_lt _ le_rfl hk up.isLt), bitAt, testBit_withBits _ _ _ _ _ le_rfl]
  by_cases h : j = k
  · rw [if_pos (by omega), if_pos h, h, Nat.sub_self]
    cases b <;> rfl
  · rw [if_neg (by omega), if_neg h, bitAt]

/-- The port after link `k` has left LINK_UP. -/
def portDown (x : NetPort) (k : Fin 4) : NetPort :=
  { x with up := BitVec.ofNat 4 (withBits x.up.toNat k.val k.val 0), paused := x.paused.set k.val 0 }

section
variable (s : State) (st : Fin 8) (n : Fin 2) (k : Fin 4)

theorem linkDrop_of_down (h : linkIsUp s st n.val k.val = false) : linkDrop s st n.val k.val = s := by
  rw [linkDrop, if_neg (by simp [h])]

theorem linkDrop_of_up (h : linkIsUp s st n.val k.val = true) :
    linkDrop s st n.val k.val = raiseEvt (recordFault (s.modPort st n.val fun p => portDown p k) (netPage st n.val) 0x06 0x01
      (k.val * 2 ^ 16) 0) (netPage st n.val) 4 := by
  simp only [linkDrop, h, if_true, portDown, k.isLt, dif_pos]

theorem port_linkDrop_of_up (h : linkIsUp s st n.val k.val = true) :
    (linkDrop s st n.val k.val).port st n.val = portDown (s.port st n.val) k := by
  rw [linkDrop_of_up s st n k h, port_raiseEvt _ _ rfl n.isLt, port_recordFault _ _ rfl n.isLt, port_modPort]

/-- After a drop the link is down, and the others stand as they did. -/
theorem linkIsUp_linkDrop (j : Nat) :
    linkIsUp (linkDrop s st n.val k.val) st n.val j = (linkIsUp s st n.val j && decide (j ≠ k.val)) := by
  by_cases h : linkIsUp s st n.val k.val = true
  · rw [linkIsUp, port_linkDrop_of_up s st n k h, portDown]
    refine (up_withBits _ k.isLt false j).trans ?_
    by_cases hj : j = k.val <;> simp [hj, linkIsUp]
  · rw [linkDrop_of_down s st n k (by simpa using h)]
    by_cases hj : j = k.val
    · simp [hj, h]
    · simp [hj]

/-- A drop leaves NET_CFG. -/
theorem cfg_linkDrop : (linkDrop s st n.val k.val).reg (netPage st n.val) 0x040 = s.reg (netPage st n.val) 0x040 := by
  by_cases h : linkIsUp s st n.val k.val = true
  · rw [linkDrop_of_up s st n k h, reg_raiseEvt_apart _ _ _ _ (by decide) (by decide),
      reg_recordFault_apart _ _ _ _ _ _ _ rfl (by decide), reg_modPort]
  · rw [linkDrop_of_down s st n k (by simpa using h)]

/-- All four links dropped: none is up, and NET_CFG stands. -/
theorem portDrop_down : (∀ j < 4, linkIsUp (portDrop s st n.val) st n.val j = false) ∧
    (portDrop s st n.val).reg (netPage st n.val) 0x040 = s.reg (netPage st n.val) 0x040 := by
  have hd : portDrop s st n.val = linkDrop (linkDrop (linkDrop (linkDrop s st n.val (0 : Fin 4).val) st n.val (1 : Fin 4).val)
      st n.val (2 : Fin 4).val) st n.val (3 : Fin 4).val := rfl
  rw [hd]
  refine ⟨fun j hj => ?_, by simp only [cfg_linkDrop]⟩
  rw [linkIsUp_linkDrop, linkIsUp_linkDrop, linkIsUp_linkDrop, linkIsUp_linkDrop]
  obtain rfl | rfl | rfl | rfl : j = 0 ∨ j = 1 ∨ j = 2 ∨ j = 3 := by omega
  all_goals simp

/-- LINK_UP where R375 allows it. -/
theorem linkRise_of (hd : s.domOn st 5 = true) (he : s.mod.pwr.ethRefclkLost = false) (hc : s.mod.pwr.clocksStopped = false)
    (hu : linkIsUp s st n.val k.val = false) (hm : k.val < modeLinks (s.fld (netPage st n.val) 0x040 2 0)) :
    let t := linkRise s st n.val k.val
    t.port st n.val = { s.port st n.val with
        cfg := s.reg (netPage st n.val) 0x040, up := BitVec.ofNat 4 (withBits (s.port st n.val).up.toNat k.val k.val 1) } ∧
      t.flag (netPage st n.val) 0x010 3 = true := by
  have hr : linkRise s st n.val k.val = raiseEvt ((s.modPort st n.val fun p => { p with cfg := s.reg (netPage st n.val) 0x040 }).modPort
      st n.val fun p => { p with up := BitVec.ofNat 4 (withBits p.up.toNat k.val k.val 1) }) (netPage st n.val) 3 := by
    refine if_pos ⟨hd, he, hc, hu, ?_⟩
    rw [portMode, port_modPort]
    exact hm
  rw [hr]
  exact ⟨by rw [port_raiseEvt _ _ rfl n.isLt, port_modPort, port_modPort], flag_raiseEvt _ _ _ (by decide)⟩

end

/-! ### NET_CFG -/

section
variable (s : State) (st : Fin 8) (n : Fin 2) (v : Word)

/-- MODE and PAUSE_TX as a write of NET_CFG leaves them: a reserved encoding keeps the old field (R10, R375). -/
def cfgMode (old new : Nat) : Nat := if bitsOf new 2 0 = 7 then bitsOf old 2 0 else bitsOf new 2 0
def cfgPauseTx (old new : Nat) : Nat := if bitAt new 4 ∧ bitsOf new 15 8 ≠ 0 then bitsOf old 4 4 else bitsOf new 4 4

/-- NET_CFG after a write. -/
def cfgWord (old new : Nat) : Nat :=
  cfgMode old new + 8 * bitsOf new 3 3 + 16 * cfgPauseTx old new + 2 ^ 8 * bitsOf new 15 8

theorem bitsOf_cfgWord (old new : Nat) :
    cfgWord old new < 2 ^ 32 ∧ bitsOf (cfgWord old new) 2 0 = cfgMode old new ∧ bitsOf (cfgWord old new) 3 3 = bitsOf new 3 3 ∧
      bitsOf (cfgWord old new) 4 4 = cfgPauseTx old new ∧ bitsOf (cfgWord old new) 15 8 = bitsOf new 15 8 := by
  have hm : cfgMode old new < 8 := by unfold cfgMode; split <;> exact bitsOf_lt ..
  have ht : cfgPauseTx old new < 2 := by unfold cfgPauseTx; split <;> exact bitsOf_lt ..
  have hb : bitsOf new 3 3 < 2 := bitsOf_lt ..
  have hp : bitsOf new 15 8 < 256 := bitsOf_lt ..
  rw [cfgWord]
  generalize cfgMode old new = m at *
  generalize cfgPauseTx old new = t at *
  generalize bitsOf new 3 3 = b at *
  generalize bitsOf new 15 8 = q at *
  simp only [bitsOf_eq]
  omega

/-- NET_CFG holds the legal fields of the write; where MODE changed, no link is up. -/
theorem netCfgWrite_spec :
    let p := netPage st n.val
    let t := netCfgWrite s st n.val v
    (t.reg p 0x040).toNat = cfgWord (s.reg p 0x040).toNat v.toNat ∧
      (cfgMode (s.reg p 0x040).toNat v.toNat ≠ s.fld p 0x040 2 0 → ∀ k < 4, linkIsUp t st n.val k = false) := by
  intro p t
  obtain ⟨hlt, -⟩ := bitsOf_cfgWord (s.reg p 0x040).toNat v.toNat
  have ht : t = (if cfgMode (s.reg p 0x040).toNat v.toNat = bitsOf (s.reg p 0x040).toNat 2 0 then
      s.setReg p 0x040 (BitVec.ofNat 32 (cfgWord (s.reg p 0x040).toNat v.toNat))
    else (portDrop (s.setReg p 0x040 (BitVec.ofNat 32 (cfgWord (s.reg p 0x040).toNat v.toNat))) st n.val).modPort st n.val
      fun x => { x with
        cfg := (s.setReg p 0x040 (BitVec.ofNat 32 (cfgWord (s.reg p 0x040).toNat v.toNat))).reg p 0x040 }) := rfl
  by_cases hm : cfgMode (s.reg p 0x040).toNat v.toNat = bitsOf (s.reg p 0x040).toNat 2 0
  · rw [ht, if_pos hm, State.reg_setReg_same, BitVec.toNat_ofNat, Nat.mod_eq_of_lt hlt]
    exact ⟨rfl, fun h => absurd hm h⟩
  · obtain ⟨hdown, hcfg⟩ := portDrop_down (s.setReg p 0x040 (BitVec.ofNat 32 (cfgWord (s.reg p 0x040).toNat v.toNat))) st n
    rw [ht, if_neg hm, reg_modPort, hcfg, State.reg_setReg_same, BitVec.toNat_ofNat, Nat.mod_eq_of_lt hlt]
    exact ⟨rfl, fun _ k hk => by rw [linkIsUp, port_modPort]; exact hdown k hk⟩

end

/-! ### Pauses -/

section
variable (s : State) (st : Fin 8) (n : Fin 2) (k : Fin 4)

/-- A pause frame that is taken: counted, the priorities paused, the event raised. -/
def pauseTaken (b : Byte) : State :=
  raiseEvt ((s.countSat (netPage st n.val) 0x088).modPort st n.val fun p => { p with paused := p.paused.set k b }) (netPage st n.val) 5

theorem pauseTaken_spec (b : Byte) :
    ((pauseTaken s st n k b).port st n.val).paused[k] = b ∧
      (pauseTaken s st n k b).reg (netPage st n.val) 0x088 = sat32 ((s.reg (netPage st n.val) 0x088).toNat + 1) := by
  constructor
  · rw [pauseTaken, port_raiseEvt _ _ rfl n.isLt, port_modPort]
    simp
  · rw [pauseTaken, reg_raiseEvt_apart _ _ _ _ (by decide) (by decide), reg_modPort, State.countSat, State.reg_setReg_same]

end

/-- A frame is sent while the transmitters are clocked. -/
theorem send_frame (s : State) (st : Fin 8) (port link : Nat) (bs : List Byte) (h : s.mod.pwr.clocksStopped = false) :
    s.send (.frame st port link bs) = { s with out := s.out ++ [.frame st port link bs] } := by
  simp only [State.send, h, Bool.false_eq_true, if_false]

end Sys2Proof.Laws
end

section
open Sys2Proof Machine Safety Laws

/-- Settles O40: each row by the lemma of its operation on the port. -/
theorem networkPorts : Obligations.NetworkPorts := by
  refine ⟨fun s st port k hs => ⟨fun hd he hc hu hm => ⟨_, if_pos hs, ?_⟩, fun hu => ⟨⟨_, if_pos hs, ?_⟩, fun hp => ⟨_, if_pos hs, ?_⟩,
    fun b hb => ⟨_, if_pos hs, ?_⟩, fun v6 dst body ha hc => ⟨_, if_pos hs, ?_⟩, fun v6 dst ha hc => ⟨_, if_pos hs, ?_⟩,
    fun d h0 hf hr => ⟨_, if_pos hs, ?_⟩, ⟨_, if_pos hs, ?_⟩⟩⟩, fun s r st port v hs => fun hw => ⟨_, if_pos hs, ?_⟩⟩
  · obtain ⟨hport, hevt⟩ := linkRise_of s st port k hd he hc hu hm
    have hup : ∀ j, linkIsUp (linkRise s st port.val k.val) st port.val j = if j = k.val then true else linkIsUp s st port.val j := by
      intro j
      rw [linkIsUp, hport]
      exact up_withBits _ k.isLt true j
    exact ⟨(hup _).trans (if_pos rfl), by rw [hport], hevt, fun j _ hj => (hup j).trans (if_neg hj)⟩
  · obtain ⟨hrec, hinfo⟩ := record_recordFault (s.modPort st port.val fun p => portDown p k) (netPage st port.val) 0x06 0x01
      (k.val * 2 ^ 16) 0 rfl (by decide) (by decide) (by omega)
    refine ⟨by simp [linkIsUp_linkDrop], ?_⟩
    rw [linkDrop_of_up s st port k hu]
    refine ⟨?_, ?_, flag_raiseEvt _ _ _ (by decide)⟩
    · rw [State.fld, reg_raiseEvt_apart _ _ _ _ (by decide) (by decide)]
      exact hrec
    · rw [reg_raiseEvt_apart _ _ _ _ (by decide) (by decide)]
      exact hinfo
  · simp only [hu, hp, if_true]
    exact pauseTaken_spec s st port k 0xFF
  · simp only [hu, hb]
    exact (pauseTaken_spec s st port k _).1
  · simp only [hu, ha, and_self, if_true]
    exact send_frame _ _ _ _ _ hc
  · simp only [hu, ha, and_self, if_true]
    exact ⟨_, send_frame _ _ _ _ _ hc, rfl⟩
  · simp only [h0] at hu ⊢
    simp only [hu, hf, hr, and_self, if_true]
    exact ⟨rfl, State.flag_setFlag_same _ _ _ _ (by decide)⟩
  · simp only [hu, if_true]
    exact State.reg_setReg_same ..
  · obtain ⟨hreg, hdown⟩ := netCfgWrite_spec s st port v
    obtain ⟨-, h20, h33, h44, h158⟩ := bitsOf_cfgWord (s.reg (netPage st port.val) 0x040).toNat v.toNat
    have ha : asked s r (stackPage st .net port.val) 0x040 (netCfgWrite s st port.val v) = netCfgWrite s st port.val v := if_pos hw
    simp only [ha, State.fld, State.flag, bitAt_eq_bitsOf, hreg, h20, h33, h44, h158]
    refine ⟨rfl, trivial, trivial, ?_, hdown⟩
    rw [cfgPauseTx, bitAt_eq_bitsOf]
    split <;> rfl

end

section
/-! A command that changes a kind of state outside its footprint. -/

open Sys2Proof Machine Safety

namespace Sys2Proof.Laws

/-- The reset state with a base staged for region 3 of stack 0. -/
def regionStaged : State := State.reset.modRegion 0 3 fun e => { e with stagedBase := 65536 }

/-- What a soft reset of the transfer engines of stack 0 leaves of it. -/
def regionSoftReset : State := asked regionStaged .mgmt (xfrPage 0) 0x008 (softReset regionStaged (xfrPage 0))

theorem exec_softRst_regionStaged : exec (.softRst .mgmt (xfrPage 0)) regionStaged = .next regionSoftReset :=
  (if_pos (by decide) : execSoftRst .mgmt (xfrPage 0) regionStaged = .next regionSoftReset)

/-- The soft reset clears what is staged of a region entry (R31). -/
theorem staged_regionStaged : (regionStaged.region 0 3).stagedBase = 65536 := by decide
theorem staged_regionSoftReset : (regionSoftReset.region 0 3).stagedBase = 0 := by decide +kernel

end Sys2Proof.Laws

open Sys2Proof.Laws

/-- Refutes O59: the footprint of a soft reset lists no region, and the soft reset of an XFR page clears what is staged of the
regions of its stack. -/
theorem not_commandsKeepWhatIsNotTheirs : ¬ Obligations.CommandsKeepWhatIsNotTheirs := by
  unfold Obligations.CommandsKeepWhatIsNotTheirs
  intro h
  have hk : ∀ i, (regionSoftReset.st i).regions = (regionStaged.st i).regions :=
    h _ _ _ exec_softRst_regionStaged .regions (by decide)
  have same : regionSoftReset.region 0 3 = regionStaged.region 0 3 := by simp only [State.region, hk 0]
  exact absurd (congrArg Region.stagedBase same) (by rw [staged_regionStaged, staged_regionSoftReset]; decide)
end

section
/-! A reading of the state that an operation leaves as it was: how such facts are put together, once for every reading. -/

namespace Sys2Proof.Laws

open Machine Safety

/-- A reading `v` of the state answers the same in both states. -/
def Same {α : Type} (v : State → α) (s t : State) : Prop := v t = v s

namespace Same

variable {α : Type} {v : State → α} {s t u : State}

theorem refl (s : State) : Same v s s := rfl

theorem trans (h : Same v s t) (g : Same v t u) : Same v s u := Eq.trans g h

theorem ite {c : Prop} [Decidable c] (h : Same v s t) (g : Same v s u) : Same v s (if c then t else u) := by
  split <;> assumption

theorem foldl {β : Type} {f : State → β → State} (hf : ∀ s x, Same v s (f s x)) (l : List β) (s : State) :
    Same v s (l.foldl f s) := by
  induction l generalizing s with
  | nil => exact .refl s
  | cons a l ih => exact (hf s a).trans (ih _)

/-- The state of a result that was taken apart. -/
theorem fst_of {β : Type} {r : State × β} {x : β} (h : Same v s r.1) (e : r = (t, x)) : Same v s t := by
  subst e; exact h

end Same

end Sys2Proof.Laws
end

section
/-! The common header (R30 to R32): what each write of it leaves, and O9. -/

namespace Sys2Proof.Laws

open Machine Safety

/-! ### One bit of a field written -/

theorem bitsOf_bit (n i : Nat) : bitsOf n i i = bit (bitAt n i) := by
  have h := bitsOf_lt n i i
  rw [bitAt_eq_bitsOf]
  by_cases h1 : bitsOf n i i = 1
  · simp [h1, bit]
  · rw [Nat.add_sub_cancel_left, pow_one] at h
    simp only [h1, decide_false, bit, Bool.false_eq_true, if_false]
    omega

/-- A write of a register leaves a field as it was, or puts some value into it. -/
theorem fieldWrite_cases (v old : Nat) (f : FieldSpec) :
    fieldWrite v old f = old ∨ ∃ x, fieldWrite v old f = withBits old f.hi f.lo x := by
  unfold fieldWrite
  dsimp only
  split
  · split
    · exact .inr ⟨_, rfl⟩
    · exact .inl rfl
  · exact .inr ⟨_, rfl⟩
  · exact .inr ⟨_, rfl⟩
  · exact .inl rfl
  · exact .inl rfl
  · exact .inl rfl

theorem fieldWrite_lt {v old k : Nat} {f : FieldSpec} (h : f.lo ≤ f.hi) (hk : f.hi < k) (ho : old < 2 ^ k) :
    fieldWrite v old f < 2 ^ k := by
  obtain e | ⟨x, e⟩ := fieldWrite_cases v old f
  · exact e.trans_lt ho
  · exact e.trans_lt (withBits_lt x h hk ho)

/-- A field leaves the bits beside it. -/
theorem testBit_fieldWrite_beside {v old i : Nat} {f : FieldSpec} (h : f.lo ≤ f.hi) (hi : i < f.lo ∨ f.hi < i) :
    (fieldWrite v old f).testBit i = old.testBit i := by
  obtain e | ⟨x, e⟩ := fieldWrite_cases v old f
  · rw [e]
  · rw [e, testBit_withBits _ _ _ _ _ h, if_neg (by omega)]

/-- A plain field of one bit takes the bit written. -/
theorem testBit_fieldWrite_rw (v old i r : Nat) : (fieldWrite v old (rw_ i i r)).testBit i = bitAt v i := by
  have hx : bitsOf v i i ≤ 0xFFFFFFFF := by
    rw [bitsOf_bit]; cases bitAt v i <;> decide
  have hf : fieldWrite v old (rw_ i i r) = withBits old i i (bitsOf v i i) := if_pos ⟨Nat.zero_le _, hx⟩
  rw [hf, testBit_withBits _ _ _ _ _ le_rfl, if_pos ⟨le_rfl, le_rfl⟩, Nat.sub_self, bitsOf_bit]
  cases bitAt v i <;> rfl

/-! ### BLK_CTRL -/

section
variable (s : State) (p q : Page) {x : Nat}

theorem reg_quiesceRise_apart (s₀ : State) (h : x % 4096 ≠ 0x044) (h' : x % 4096 ≠ 0x010) :
    (quiesceRise s₀ s p).reg q x = s.reg q x := by
  unfold quiesceRise
  split
  · exact reg_raiseEvt_apart _ _ _ _ h h'
  · rfl

/-- BLK_CTRL of every page has the fields ENABLE, SOFT_RST and QUIESCE (R30). -/
theorem storedWrite_ctrl (v : Word) : storedWrite s p 0x008 v = s.setReg p 0x008 (BitVec.ofNat 32
    (fieldWrite v.toNat (fieldWrite v.toNat (fieldWrite v.toNat (s.reg p 0x008).toNat (rw_ 0 0 0)) (w1s 1 1)) (rw_ 2 2 0))) := by
  have hr : regHere p 0x008 = some (one 0x008 [rw_ 0 0 0, w1s 1 1, rw_ 2 2 0]) :=
    (if_neg (by simp)).trans (by cases p.blk <;> rfl)
  have hk : (if p.blk = .net then netOff s p.home p.inst 0x008 else 0x008) = 0x008 := by split <;> rfl
  rw [storedWrite, hr]
  dsimp only
  rw [hk]
  rfl

/-- A write of BLK_CTRL leaves ENABLE and QUIESCE as written. -/
theorem flag_storedWrite_ctrl (v : Word) :
    (storedWrite s p 0x008 v).flag p 0x008 0 = bitAt v.toNat 0 ∧ (storedWrite s p 0x008 v).flag p 0x008 2 = bitAt v.toNat 2 := by
  have h0 := fieldWrite_lt (v := v.toNat) (f := rw_ 0 0 0) (k := 32) le_rfl (by decide) (s.reg p 0x008).isLt
  have h1 := fieldWrite_lt (v := v.toNat) (f := w1s 1 1) le_rfl (by decide) h0
  have h2 := fieldWrite_lt (v := v.toNat) (f := rw_ 2 2 0) le_rfl (by decide) h1
  simp only [storedWrite_ctrl, State.flag, State.reg_setReg_same, BitVec.toNat_ofNat, Nat.mod_eq_of_lt h2, bitAt]
  constructor
  · rw [testBit_fieldWrite_beside le_rfl (by decide), testBit_fieldWrite_beside le_rfl (by decide), testBit_fieldWrite_rw, bitAt]
  · rw [testBit_fieldWrite_rw, bitAt]

/-- ENABLE and QUIESCE written with SOFT_RST 0 (R30). -/
theorem flag_ctrlWrite (enable quiesce : Bool) :
    let t := ctrlWrite s p (BitVec.ofNat 32 (bit enable + bit quiesce * 4))
    t.flag p 0x008 0 = enable ∧ t.flag p 0x008 2 = quiesce := by
  intro t
  have hb : bitAt (BitVec.ofNat 32 (bit enable + bit quiesce * 4)).toNat 1 = false ∧
      bitAt (BitVec.ofNat 32 (bit enable + bit quiesce * 4) &&& (5 : Word)).toNat 0 = enable ∧
      bitAt (BitVec.ofNat 32 (bit enable + bit quiesce * 4) &&& (5 : Word)).toNat 2 = quiesce := by
    cases enable <;> cases quiesce <;> decide
  obtain ⟨hr, he, hq⟩ := hb
  have ht : t.reg p 0x008 = (storedWrite s p 0x008 (BitVec.ofNat 32 (bit enable + bit quiesce * 4) &&& 5)).reg p 0x008 := by
    dsimp only [t, ctrlWrite]
    rw [if_neg (hr ▸ Bool.false_ne_true), reg_quiesceRise_apart _ _ _ _ (by decide) (by decide), reg_setFlag_apart _ _ _ _ _ (by decide)]
  obtain ⟨h0, h2⟩ := flag_storedWrite_ctrl s p (BitVec.ofNat 32 (bit enable + bit quiesce * 4) &&& 5)
  exact ⟨by rw [State.flag, ht]; exact h0.trans he, by rw [State.flag, ht]; exact h2.trans hq⟩

end

/-! ### SOFT_RST -/

/-- FAULT_CODE is zero after reset on every page. -/
theorem regDefault_faultCode (part : Part) {k : Nat} (h : k % 4096 = 0x020) : regDefault part k = 0 := by
  have hs : ∀ b, regSpec b 0x020 = some (one 0x020 [ro 7 0 0, ro 15 8 0, ro 31 16 0]) := fun b => by cases b <;> rfl
  unfold regDefault
  split
  · rfl
  · dsimp only
    simp [h, hs, one, ro]

/-- A page's registers go back to their After reset values, but for those kept. -/
theorem reg_clearPage (s : State) (p : Page) (kept : Nat → Bool) {x : Nat} (hx : x < 4096) :
    (clearPage s p kept).reg p x = if kept x then s.reg p x else regDefault s.part (p.key x) := by
  have hp : p.key x / 4096 = p.key 0 / 4096 ∧ p.key x % 4096 = x := by simp only [Page.key]; omega
  have hg := Sparse.get_keep (regDefault s.part) (fun k => k / 4096 != p.key 0 / 4096 || kept (k % 4096)) s.regs (p.key x)
  simp only [hp, bne_self_eq_false, Bool.false_or] at hg
  exact hg

/-- A soft reset that is carried out (R31) shows SOFT_RST and clears the fault record. -/
theorem softReset_spec (s : State) (p : Page) (hf : s.flag p 0x008 1 = false)
    (hc : p.blk = .clp ∨ p.blk = .fil → (s.st p.home).clp.state ≠ .commit) :
    (softReset s p).flag p 0x008 1 = true ∧ (softReset s p).fld p 0x020 31 0 = 0 := by
  have hs : softReset s p = ((clearPage (softBlock s p) p (softKept p.blk)).setReg p 0x010
      (s.reg p 0x010 &&& (if p.blk = .rng then 0x18 else 0))).setFlag p 0x008 1 true := by
    dsimp only [softReset]
    rw [if_neg (by simp [hf]), if_neg fun h => hc (.inl h.1) (by simpa using h.2),
      if_neg fun h => hc (.inr h.1) (by simpa using h.2)]
  have hk : softKept p.blk 0x020 = false := by cases p.blk <;> rfl
  rw [hs]
  refine ⟨State.flag_setFlag_same _ _ _ _ (by decide), ?_⟩
  rw [State.fld, reg_setFlag_apart _ _ _ _ _ (by decide), State.reg_setReg_other _ _ _ (by decide), reg_clearPage _ _ _ (by decide),
    hk, if_neg (by decide), regDefault_faultCode _ (by simp only [Page.key]; omega)]
  rfl

/-! ### EVT_CLR -/

section
variable (q : Page) (x : Nat)

theorem sameReg_discardQueue (s : State) (st : Fin 8) (k : Nat) : Same (·.reg q x) s (discardQueue s st k) := rfl

theorem sameReg_modSt (s : State) (i : Fin 8) (f : Stack → Stack) : Same (·.reg q x) s (s.modSt i f) := rfl

theorem sameReg_modChan (s : State) (st : Fin 8) (c : Nat) (f : Channel → Channel) : Same (·.reg q x) s (s.modChan st c f) := rfl

/-- What the clearing write of a fault releases lies outside the registers (R32). -/
theorem sameReg_faultRelease (s : State) (p : Page) : Same (·.reg q x) s (faultRelease s p) := by
  unfold faultRelease smpClear xfrRelease chanRelease State.modGroups
  split
  · exact (Same.foldl (fun _ _ => .ite (sameReg_discardQueue ..) (.refl _)) _ _).trans (sameReg_modSt ..)
  · exact (Same.foldl (fun _ _ => .ite (sameReg_discardQueue ..) (.refl _)) _ _).trans (sameReg_modSt ..)
  · exact .foldl (fun _ _ => .ite (sameReg_modChan ..) (.refl _)) _ _
  · exact .refl _

theorem sameReg_evtSettle (s : State) (p : Page) : Same (·.reg q x) s (evtSettle s p) := .ite rfl (.refl _)

end

/-- Events of several pages cleared, where this page's of them are clear already. -/
theorem reg_clearEach (m : Word) (f : Nat → Page) (l : List Nat) (s : State) (p : Page)
    (h : s.reg p 0x010 &&& ~~~m = s.reg p 0x010) :
    (l.foldl (fun s c => s.setReg (f c) 0x010 (s.reg (f c) 0x010 &&& ~~~m)) s).reg p 0x010 = s.reg p 0x010 := by
  induction l generalizing s with
  | nil => rfl
  | cons c l ih =>
    have hs : (s.setReg (f c) 0x010 (s.reg (f c) 0x010 &&& ~~~m)).reg p 0x010 = s.reg p 0x010 := by
      rw [State.reg_setReg]
      split
      · next e => simpa only [State.reg, e] using h
      · rfl
    rw [List.foldl_cons, ih _ (by rw [hs]; exact h), hs]

theorem and_not_and (w v m : Word) : w &&& ~~~v &&& ~~~(v &&& m) = w &&& ~~~v := by
  ext i hi
  simp only [BitVec.getElem_and, BitVec.getElem_not]
  cases w[i] <;> cases v[i] <;> cases m[i] <;> rfl

/-- EVT_CLR clears the events written with 1, and with bit 0 the fault record (R30, R32). -/
theorem evtClear_spec (s : State) (p : Page) (v : Word) :
    (evtClear s p v).reg p 0x010 = s.reg p 0x010 &&& ~~~v ∧
      (bitAt v.toNat 0 = true → (evtClear s p v).fld p 0x020 31 0 = 0) := by
  obtain ⟨u, hu, hreg⟩ : ∃ u : State, u.reg p 0x010 = s.reg p 0x010 &&& ~~~v ∧ evtClear s p v = evtSettle (if bitAt v.toNat 0 then
      faultRelease (((u.setReg p 0x020 0).setReg p 0x024 0).setPair p 0x028 0) p else u) p := by
    refine ⟨_, ?_, rfl⟩
    split
    · rw [reg_clearEach (v &&& 0x18) (fun c => stackPage p.home .rng c), State.reg_setReg_same]
      rw [State.reg_setReg_same]
      exact and_not_and ..
    · exact State.reg_setReg_same ..
  have hx : ∀ x, (evtClear s p v).reg p x = (if bitAt v.toNat 0 then
      (((u.setReg p 0x020 0).setReg p 0x024 0).setPair p 0x028 0).reg p x else u.reg p x) := fun x => by
    rw [hreg]
    refine Eq.trans (sameReg_evtSettle p x _ p) ?_
    split
    · exact sameReg_faultRelease p x _ p
    · rfl
  simp only [State.setPair] at hx
  constructor
  · rw [hx, State.reg_setReg_other _ _ _ (by decide), State.reg_setReg_other _ _ _ (by decide), State.reg_setReg_other _ _ _ (by decide),
      State.reg_setReg_other _ _ _ (by decide), ite_self, hu]
  · intro hv
    rw [State.fld, hx, if_pos hv, State.reg_setReg_other _ _ _ (by decide), State.reg_setReg_other _ _ _ (by decide),
      State.reg_setReg_other _ _ _ (by decide), State.reg_setReg_same]
    rfl

/-! ### FIL_CFG -/

theorem writeReg_filCfg (s : State) (r : Requester) (st : Fin 8) (v : Word) :
    writeReg s r (filPage st) 0x040 v = if filFree s st then
      s.setReg (filPage st) 0x040 (BitVec.ofNat 32 (fieldWrite v.toNat (s.reg (filPage st) 0x040).toNat (rw_ 0 0 0)))
    else s.setFlag (filPage st) 0x074 2 true := by
  have hh : isLo .fil 0x040 = false ∧ isHi .fil 0x040 = false := by decide
  have hw : writeReg s r (filPage st) 0x040 v = writeFil s st 0x040 v := by
    rw [filPage, writeReg, if_neg (by simp [hh]), if_neg (by simp [hh]), writeOne, if_neg (by decide), stackPage_home]
    rfl
  have hr : regHere (filPage st) 0x040 = some (one 0x040 [rw_ 0 0 0]) := rfl
  have hs : storedWrite s (filPage st) 0x040 v = s.setReg (filPage st) 0x040
      (BitVec.ofNat 32 (fieldWrite v.toNat (s.reg (filPage st) 0x040).toNat (rw_ 0 0 0))) := by
    rw [storedWrite, hr]
    rfl
  have hheld : filHeld 0x040 = true := by decide
  rw [hw, writeFil, hheld, ← hs, Bool.true_and]
  cases filFree s st
  · exact if_pos rfl
  · exact if_neg Bool.false_ne_true

end Sys2Proof.Laws
end

section
open Sys2Proof Machine Safety Laws

/-- Settles O9: each write of the header by the lemma of its register. -/
theorem headerWrites : Obligations.HeaderWrites := by
  have hf : ∀ (s : State) (p : Page) (i : Nat), s.fld p 0x008 i i = bit (s.flag p 0x008 i) := fun s p i => bitsOf_bit ..
  refine ⟨fun s r p on ho hw => ⟨⟨_, if_pos ho, ?_⟩, ⟨_, if_pos ho, ?_⟩, fun hr hc => ⟨_, if_pos ho, ?_⟩⟩,
    fun s p ho => ⟨_, if_pos ho, State.flag_setFlag_same _ _ _ _ (by decide)⟩, fun s r p v ho hw => ⟨_, if_pos ho, ?_⟩,
    fun s r st v ho hw => ⟨_, if_pos ho, ?_⟩⟩
  · rw [asked, if_pos hw, hf]
    exact flag_ctrlWrite ..
  · rw [asked, if_pos hw, hf]
    exact (flag_ctrlWrite ..).symm
  · rw [asked, if_pos hw]
    exact softReset_spec s p hr hc
  · rw [asked, if_pos hw]
    exact evtClear_spec ..
  · rw [asked, if_pos hw, if_pos (by decide), writeReg_filCfg]
    split
    · rw [State.flag, State.reg_setReg_same, BitVec.toNat_ofNat,
        Nat.mod_eq_of_lt (fieldWrite_lt le_rfl (by decide) (s.reg (filPage st) 0x040).isLt)]
      exact testBit_fieldWrite_rw ..
    · exact ⟨State.flag_setFlag_same _ _ _ _ (by decide), reg_setFlag_apart _ _ _ _ _ (by decide)⟩

end

section
/-! What a doorbell, an event and a fault leave: for readings that see no bell, and of the registers of another page. -/

namespace Sys2Proof.Laws

open Machine Safety

variable {α : Type} {v : State → α}

/-! ### Readings that no doorbell reaches -/

/-- A reading that does not see what a doorbell may change (R386 to R389): of a mailbox what is not its word, HOST_MAIL of the
page that serves it, and the waking bit of a CTL domain. -/
structure Unrung (v : State → α) : Prop where
  box : ∀ s i m f, (∀ b, (f b : Mailbox).word = b.word ∧ (f b).full = b.full ∧ (f b).sender = b.sender) → Same v s (s.modBox i m f)
  mail : ∀ s i k, k < 4 → Same v s (setEvt s (stackPage i .mbx k) 3)
  wake : ∀ s i, Same v s (s.setFlag (stackPage i .pwr) 0x044 15 true)

namespace Unrung

variable (hv : Unrung v)

include hv

theorem wakeBox (s : State) (i : Fin 8) (m : Nat) : Same v s (wakeBox s i m) := by
  have hb : Same v s (s.modBox i m fun b => { b with waking := true }) := hv.box s i m _ fun _ => ⟨rfl, rfl, rfl⟩
  exact .ite (hb.trans (hv.wake _ i)) (.refl s)

theorem ringBits (s : State) (i : Fin 8) {m : Nat} (bs : Word) (hm : m < 64) : Same v s (ringBits s i m bs) := by
  have hb : Same v s (s.modBox i m fun b => { b with db := b.db ||| bs }) := hv.box s i m _ fun _ => ⟨rfl, rfl, rfl⟩
  have hp : m / 16 < 4 := by omega
  dsimp only [Machine.ringBits]
  exact .ite (.trans (.ite (hb.trans (hv.mail _ i _ hp)) hb) (hv.wakeBox _ i m)) (.ite (hb.trans (hv.mail _ i _ hp)) hb)

theorem ringLine (s : State) (p : Page) : Same v s (ringLine s p) := by
  unfold Machine.ringLine
  split
  · exact .refl s
  · exact .ite (hv.ringBits _ _ _ (bitsOf_lt _ 5 0)) (.refl s)

theorem lineRise (s₀ s : State) (p : Page) : Same v s (lineRise s₀ s p) := .ite (hv.ringLine ..) (.refl s)

/-- An event, for a reading that does not see the event's own bit. -/
theorem raiseEvt {s : State} {p : Page} {n : Nat} (h : Same v s (setEvt s p n)) : Same v s (raiseEvt s p n) :=
  h.trans (hv.lineRise ..)

end Unrung

/-! ### The registers of a page after a fault -/

section
variable (s : State) (p q : Page) {x : Nat}

theorem reg_recordPlain_eq (cls det info addr : Nat) (tears : Bool) (h : x % 4096 ≠ 0x044) (h' : x % 4096 ≠ 0x010)
    (h'' : x % 4096 ≠ 0x064) : (recordPlain s p cls det info addr tears).reg q x = (pageFault s p cls det info addr).reg q x := by
  dsimp only [recordPlain]
  split
  · exact reg_locketRequest_apart _ _ _ _ _ _ _ h h' h''
  · rfl

/-- A step that a fault tears leaves the registers of the faulting page, where no tear shows on its kind. -/
theorem reg_recordFault_eq (cls det info addr : Nat) (hp : p.inst < instances p.blk) (hk : Kind.page p.blk ∉ faultKinds)
    (hx : x < 4096) (h : x ≠ 0x044) (h' : x ≠ 0x010) (h'' : x ≠ 0x064) :
    (recordFault s p cls det info addr).reg p x = (pageFault s p cls det info addr).reg p x := by
  have hm : x % 4096 = x := Nat.mod_eq_of_lt hx
  have hr : ∀ tears, (recordPlain s p cls det info addr tears).reg p x = (pageFault s p cls det info addr).reg p x := fun tears =>
    reg_recordPlain_eq _ _ _ _ _ _ _ _ (hm.trans_ne h) (hm.trans_ne h') (hm.trans_ne h'')
  unfold recordFault
  split
  · exact ((keptBut_tear _ _).kind _ hk p rfl hp x hx).trans (hr true)
  · exact hr false

theorem reg_pageFault_apart (cls det info addr : Nat)
    (hx : ∀ off ∈ [0x010, 0x020, 0x024, 0x028, 0x02C, 0x044], x % 4096 ≠ off) :
    (pageFault s p cls det info addr).reg q x = s.reg q x := by
  simp only [List.mem_cons, List.not_mem_nil, or_false, forall_eq_or_imp, forall_eq] at hx
  obtain ⟨h10, h20, h24, h28, h2c, h44⟩ := hx
  rw [pageFault, reg_raiseEvt_apart _ _ _ _ h44 h10, State.setPair, reg_setReg_apart _ _ _ _ h2c, reg_setReg_apart _ _ _ _ h28,
    reg_setReg_apart _ _ _ _ h24, reg_setReg_apart _ _ _ _ h20]

/-- FAULT_CODE shows class and detail (R32). -/
theorem fld_pageFault (cls det info addr : Nat) (hc : cls < 256) (hd : det < 256) :
    (pageFault s p cls det info addr).fld p 0x020 15 0 = det + cls * 2 ^ 8 := by
  rw [State.fld, pageFault, reg_raiseEvt_apart _ _ _ _ (by decide) (by decide), State.setPair, State.reg_setReg_other _ _ _ (by decide),
    State.reg_setReg_other _ _ _ (by decide), State.reg_setReg_other _ _ _ (by decide), State.reg_setReg_same, BitVec.toNat_ofNat, bitsOf_eq]
  generalize min 0xFFFF (s.fld p 0x020 31 16 + 1) = n
  omega

theorem fld_recordFault (cls det info addr : Nat) (hp : p.inst < instances p.blk) (hk : Kind.page p.blk ∉ faultKinds)
    (hc : cls < 256) (hd : det < 256) : (recordFault s p cls det info addr).fld p 0x020 15 0 = det + cls * 2 ^ 8 := by
  rw [State.fld, reg_recordFault_eq _ _ _ _ _ _ hp hk (by decide) (by decide) (by decide) (by decide)]
  exact fld_pageFault _ _ _ _ _ _ hc hd

end

/-! ### Doorbell bits -/

/-- Bells set bits of their mailbox and clear none. -/
theorem db_ringBits (s : State) (i : Fin 8) (m : Nat) (bs : Word) (j : Fin 8) (k : Nat) :
    ((ringBits s i m bs).box j k).db = if i = j ∧ m = k then (s.box i m).db ||| bs else (s.box j k).db := by
  have hw : ∀ t : State, ((wakeBox t i m).box j k).db = (t.box j k).db := fun t => by
    have hb : ((t.modBox i m fun b => { b with waking := true }).box j k).db = (t.box j k).db := by
      rw [State.box_modBox]
      split
      · next e => obtain ⟨rfl, rfl⟩ := e; rfl
      · rfl
    unfold wakeBox
    split
    · exact hb
    · rfl
  have hm : ∀ c : Prop, ∀ [Decidable c], ∀ t : State,
      ((if c then setEvt t (stackPage i .mbx (m / 16)) 3 else t).box j k).db = (t.box j k).db := fun c _ t => by
    split <;> rfl
  have hb : ((s.modBox i m fun b => { b with db := b.db ||| bs }).box j k).db =
      if i = j ∧ m = k then (s.box i m).db ||| bs else (s.box j k).db := by
    rw [State.box_modBox]
    split <;> rfl
  dsimp only [ringBits]
  split
  · rw [hw, hm, hb]
  · rw [hm, hb]

/-- A doorbell bit that is set stands when others ring. -/
theorem db_ringBits_of_db (s : State) (i : Fin 8) (m : Nat) (bs : Word) {j : Fin 8} {k n : Nat}
    (h : (s.box j k).db.getLsbD n = true) : ((ringBits s i m bs).box j k).db.getLsbD n = true := by
  rw [db_ringBits]
  split
  · next e => obtain ⟨rfl, rfl⟩ := e; rw [BitVec.getLsbD_or, h, Bool.true_or]
  · exact h

theorem db_raiseEvt_of_db (s : State) (p : Page) (e : Nat) {j : Fin 8} {k n : Nat} (h : (s.box j k).db.getLsbD n = true) :
    ((raiseEvt s p e).box j k).db.getLsbD n = true := by
  unfold raiseEvt lineRise ringLine
  split
  · split
    · exact h
    · dsimp only
      split
      · exact db_ringBits_of_db _ _ _ _ h
      · exact h
  · exact h

theorem db_finish_of_db (s : State) (st : Fin 8) (q : Nat) (clean : Bool) {j : Fin 8} {k n : Nat}
    (h : (s.box j k).db.getLsbD n = true) : ((finish s st q clean).box j k).db.getLsbD n = true := by
  dsimp only [finish]
  split
  · unfold quiesceRise
    split
    · exact db_raiseEvt_of_db _ _ _ h
    · exact h
  · exact h

end Sys2Proof.Laws
end

section
/-! The Jukan ports (R19, R374, R378, R428): what a descriptor, a link error and a failed lane leave, and O47. -/

namespace Sys2Proof.Laws

open Machine Safety

/-! ### Queues under a descriptor's body -/

section
variable {α : Type} {v : State → α}

/-- What an engine's write to memory leaves. -/
theorem same_engWrite (hv : ∀ (s : State) m b, Same v s { s with mem := m, bad := b }) (s : State) (st : Fin 8) (plan : Nat)
    (driven : Bool) (a : Nat) (bs : List Byte) : Same v s (engWrite s st plan driven a bs).1 := by
  have hr : Same v s (rawWrite s a bs).1 := by
    dsimp only [rawWrite]
    split
    · exact hv ..
    · exact (hv s _ _).trans (.foldl (fun _ _ => .ite (.refl _) (hv ..)) _ _)
  unfold engWrite
  split
  · exact .refl s
  · dsimp only
    split
    · exact .refl s
    · split
      · exact .refl s
      · split <;> next e => exact hr.fst_of e

theorem same_copyPieces (rd : State → Reader TabErr) (wr : State → Nat → List Byte → State × Option TabErr)
    (hw : ∀ s a bs, Same v s (wr s a bs).1) (k src dst n : Nat) (s : State) : Same v s (copyPieces rd wr k src dst n s).1 := by
  induction k generalizing src dst n s with
  | zero => exact .refl s
  | succ k ih =>
    unfold copyPieces
    split
    · exact .refl s
    · dsimp only
      split
      · split
        · exact .refl s
        · exact hw ..
      · split
        · next e => exact (hw ..).fst_of e
        · next e => exact ((hw ..).fst_of e).trans (ih ..)

end

theorem sameQueues_jkWrite (s : State) (st : Fin 8) (plan a : Nat) (bs : List Byte) :
    Same State.queues s (jkWrite s st plan a bs).1 := by
  unfold jkWrite
  split
  · exact .refl s
  · split
    · exact .refl s
    · exact same_engWrite (v := State.queues) (fun _ _ _ => rfl) ..

theorem sameQueues_countRoute (s : State) (a b m : Nat) : Same State.queues s (countRoute s a b m) := by
  have hop : ∀ (s : State) (n p m : Nat), Same State.queues s (countHop s n p m) := fun _ _ _ _ => rfl
  unfold countRoute
  split
  · exact .foldl (fun _ _ => hop ..) _ s
  · exact .foldl (fun _ _ => hop ..) _ s

theorem sameQueues_jkSend (s : State) (st : Fin 8) (p : Nat) (d : Desc) : Same State.queues s (jkSend s st p d).1 := by
  unfold jkSend
  extract_lets plan dst n
  split
  · exact .refl s
  · have h := same_copyPieces (fun s => jkRead s st plan 0) (fun s => jkWrite s dst plan) (fun _ _ _ => sameQueues_jkWrite ..)
      (n / 16 + 1) (jkSrc d) (jkDst d) n s
    exact .ite (h.trans (sameQueues_countRoute ..)) h

theorem sameQueues_reduceTile (s : State) (st dst : Fin 8) (plan : Nat) (lock : Bool) (t src at_ : Nat) :
    Same State.queues s (reduceTile s st dst plan lock t src at_).1 := by
  unfold reduceTile
  dsimp only
  split
  · exact .refl s
  · split
    · exact .refl s
    · split
      · exact .refl s
      · exact .refl s
      · exact sameQueues_jkWrite ..

theorem sameQueues_reduceTiles (st dst : Fin 8) (plan : Nat) (lock : Bool) (k t src at_ : Nat) (s : State) :
    Same State.queues s (reduceTiles st dst plan lock k t src at_ s).1 := by
  induction k generalizing t src at_ s with
  | zero => exact .refl s
  | succ k ih =>
    unfold reduceTiles
    split
    · next e => exact (sameQueues_reduceTile ..).fst_of e
    · next e => exact ((sameQueues_reduceTile ..).fst_of e).trans (ih ..)

theorem sameQueues_jkReduce (s : State) (st : Fin 8) (p : Nat) (d : Desc) : Same State.queues s (jkReduce s st p d).1 := by
  unfold jkReduce
  extract_lets dst
  split
  · exact .refl s
  · exact .ite ((sameQueues_reduceTiles ..).trans (sameQueues_countRoute ..)) (sameQueues_reduceTiles ..)

/-- A reading of what neither registers nor stacks hold sees no doorbell. -/
theorem unrung_mem : Unrung State.mem := ⟨fun _ _ _ _ _ => rfl, fun _ _ _ _ => rfl, fun _ _ => rfl⟩
theorem unrung_queues : Unrung State.queues := ⟨fun _ _ _ _ _ => rfl, fun _ _ _ _ => rfl, fun _ _ => rfl⟩

/-! ### A descriptor at the head of a port -/

theorem jkPage_inst (st : Fin 8) (p : Fin 3) : (jkPage st p.val).inst < instances (jkPage st p.val).blk := p.isLt

theorem queuePage_jk (st : Fin 8) (p : Fin 3) : queuePage st (jkQueue p.val) = some (jkPage st p.val) := by
  fin_cases p <;> rfl

theorem mem_finish (s : State) (st : Fin 8) (q : Nat) (clean : Bool) : (finish s st q clean).mem = s.mem := by
  dsimp only [finish]
  split
  · unfold quiesceRise
    split
    · exact unrung_mem.raiseEvt rfl
    · rfl
  · rfl

/-- A descriptor that leaves its port cleanly: DONE is raised, and memory is as its body left it. -/
theorem jkDone_spec (u : State) (st : Fin 8) (p : Fin 3) :
    let t := raiseEvt (finish u st (jkQueue p.val) true) (jkPage st p.val) 3
    t.mem = u.mem ∧ t.flag (jkPage st p.val) 0x010 3 = true ∧
      t.queue st (jkQueue p.val) = leftFirst (u.queue st (jkQueue p.val)) true := by
  intro t
  have hq := (keptBut_raiseEvt (finish u st (jkQueue p.val) true) 3 (jkPage_inst st p)).kind .queues
    (by decide : Kind.queues ∉ .page .jk :: eventKinds) st (jkQueue p.val)
  have hm : Same State.mem (finish u st (jkQueue p.val) true) t := unrung_mem.raiseEvt rfl
  exact ⟨Eq.trans hm (mem_finish ..), flag_raiseEvt _ _ _ (by decide), hq.trans (queue_finish u st true (queuePage_jk st p))⟩

/-- A port carries out its head: accepted, of this operation, with nothing that holds it, a way to its stack and a body that meets
no fault. -/
theorem jkRow_of {op : Nat} {body : State → Fin 8 → Nat → Desc → State × Option TabErr} {st : Fin 8} {p : Fin 3} {s u : State}
    {e : Entry} (hs : s.has st = true) (hq : (s.queue st (jkQueue p.val)).first = some e)
    (hgo : e.st = .accepted ∧ descOp e.desc = op ∧ s.clocked = true ∧ s.faulted (jkPage st p.val) = false ∧
      xfrHeld s st (jkSrc e.desc) (jkExtent e.desc) false = false ∧
      xfrHeld s (jkTarget e.desc) (jkDst e.desc) (jkExtent e.desc) true = false)
    (hway : jkWay s st p.val e.desc = none) (hb : body s st p.val e.desc = (u, none)) :
    jkRow op body st p s = .next (raiseEvt (finish u st (jkQueue p.val) true) (jkPage st p.val) 3) := by
  simp only [jkRow, hs, hq, hgo, hway, hb, and_self, if_true]

/-- A body that keeps the queues leaves its port's queue with the head gone. -/
theorem jkDone_queue {u s : State} (st : Fin 8) (p : Fin 3) (h : Same State.queues s u) :
    (raiseEvt (finish u st (jkQueue p.val) true) (jkPage st p.val) 3).queue st (jkQueue p.val) =
      leftFirst (s.queue st (jkQueue p.val)) true := by
  obtain ⟨-, -, hq⟩ := jkDone_spec u st p
  rw [hq, State.queue, State.queue, h]

/-- SIGNAL's body rings its doorbell and changes neither memory nor queues (R374, R386). -/
theorem jkSignal_spec (s : State) (st : Fin 8) (p : Nat) (d : Desc) :
    let u := (jkSignal s st p d).1
    Same State.mem s u ∧ Same State.queues s u ∧
      (u.box (jkTarget d) (bitsOf (jkLen d) 5 0)).db.getLsbD (bitsOf (jkLen d) 10 6) = true := by
  have hb : bitsOf (jkLen d) 10 6 < 32 := bitsOf_lt _ 10 6
  refine ⟨unrung_mem.ringBits _ _ _ (bitsOf_lt _ 5 0), unrung_queues.ringBits _ _ _ (bitsOf_lt _ 5 0), ?_⟩
  rw [jkSignal, db_ringBits, if_pos ⟨rfl, rfl⟩, BitVec.getLsbD_or, BitVec.getLsbD_ofNat, Nat.testBit_two_pow_self]
  simp [hb]

/-! ### Links and lanes -/

theorem same_byte_iff {s t : State} : Same State.byte s t ↔ MemoryKept s t := funext_iff

section
variable (s : State) {p : Page} (hp : p.inst < instances p.blk)
include hp

theorem sameByte_raiseEvt (n : Nat) : Same State.byte s (raiseEvt s p n) :=
  same_byte_iff.2 ((keptBut_raiseEvt s n hp).kind .memory (by simp [eventKinds]))

theorem sameByte_recordFault (cls det info addr : Nat) : Same State.byte s (recordFault s p cls det info addr) :=
  same_byte_iff.2 ((keptBut_recordFault s cls det info addr hp).kind .memory (by simp [faultKinds, eventKinds]))

end

theorem sameByte_swapRecord (s : State) (st : Fin 8) (act scope outcome old new : Nat) :
    Same State.byte s (swapRecord s st act scope outcome old new) :=
  same_byte_iff.2 ((keptBut_locketRequest ..).kind .memory (by decide))

/-- The fault of a link shows LINK_ERROR and leaves memory (R378). -/
theorem linkFault_spec (s : State) (st : Fin 8) (p : Fin 3) (info : Nat) :
    let t := recordFault s (jkPage st p.val) 0x07 0x07 info 0
    t.fld (jkPage st p.val) 0x020 15 0 = 0x0707 ∧ MemoryKept s t :=
  ⟨fld_recordFault _ _ _ _ _ _ (jkPage_inst st p) (by decide : Kind.page .jk ∉ faultKinds) (by decide) (by decide),
    same_byte_iff.1 (sameByte_recordFault _ (jkPage_inst st p) ..)⟩

/-- The descriptor that a link was carrying leaves its port, and the fault stands. -/
theorem linkFault_finish_spec (s : State) (st : Fin 8) (p : Fin 3) (d : Desc) :
    let t := jkFault s st p.val d (.fault 0x07 0x07 p.val 0)
    t.fld (jkPage st p.val) 0x020 15 0 = 0x0707 ∧ MemoryKept s t := by
  obtain ⟨hc, hm⟩ := linkFault_spec s st p (p.val % 2 ^ 16 * 2 ^ 16 + descTag d)
  have hq := queuePage_jk st p
  have hf : ∀ u : State, (finish u st (jkQueue p.val) false).reg (jkPage st p.val) 0x020 = u.reg (jkPage st p.val) 0x020 := fun u => by
    simp only [finish, hq]
    exact reg_quiesceRise_apart _ _ _ _ (by decide) (by decide)
  have hfin : Same State.byte _ (jkFault s st p.val d (.fault 0x07 0x07 p.val 0)) := same_byte_iff.2
    ((keptBut_finish _ st false hq).kind .memory (by decide : Kind.memory ∉ .queues :: .page .jk :: eventKinds))
  refine ⟨?_, same_byte_iff.1 ((same_byte_iff.2 hm).trans hfin)⟩
  rw [jkFault, State.fld, hf]
  exact hc

theorem reg_swapRecord_apart (s : State) (st : Fin 8) (act scope outcome old new : Nat) (q : Page) {x : Nat} (h : x % 4096 ≠ 0x044)
    (h' : x % 4096 ≠ 0x010) (h'' : x % 4096 ≠ 0x064) : (swapRecord s st act scope outcome old new).reg q x = s.reg q x :=
  reg_locketRequest_apart _ _ _ _ _ _ _ h h' h''

/-- The spare of a lane group takes over (R19): the group's bit is set, LINK_UP stands and memory with it. -/
theorem laneSpare_spec (s : State) (st : Fin 8) (p : Fin 3) (g : Fin 4) (old new : Nat) :
    let page := jkPage st p.val
    let t := swapRecord (raiseEvt (s.setFlag page 0x040 (1 + g.val) true) page 4) st 8 p.val 0 old new
    MemoryKept s t ∧ t.flag page 0x040 (1 + g.val) = true ∧ t.flag page 0x040 0 = s.flag page 0x040 0 := by
  intro page t
  have hr : t.reg page 0x040 = (s.setFlag page 0x040 (1 + g.val) true).reg page 0x040 := by
    rw [reg_swapRecord_apart _ _ _ _ _ _ _ _ (by decide) (by decide) (by decide), reg_raiseEvt_apart _ _ _ _ (by decide) (by decide)]
  have hm : Same State.byte (s.setFlag page 0x040 (1 + g.val) true) t :=
    (sameByte_raiseEvt _ (jkPage_inst st p) 4).trans (sameByte_swapRecord ..)
  refine ⟨same_byte_iff.1 hm, ?_, ?_⟩
  · rw [State.flag, hr]
    exact State.flag_setFlag_same _ _ _ _ (by omega)
  · rw [State.flag, hr]
    exact State.flag_setFlag_beside _ _ _ _ (by omega) (by omega)

/-- The port of a group whose spare is in use goes down (R19, R428): LINK_UP falls, UNIT_DEAD stands, and memory is kept. -/
theorem laneDown_spec (s : State) (st : Fin 8) (p : Fin 3) (info old new : Nat) :
    let page := jkPage st p.val
    let t := swapRecord (raiseEvt (recordFault (raiseEvt (s.setFlag page 0x040 0 false) page 5) page 0x0A 0x40 info 0) (arbPage st) 8)
      st 8 p.val 2 old new
    MemoryKept s t ∧ t.flag page 0x040 0 = false ∧ t.fld page 0x020 15 0 = 0x0A40 := by
  intro page t
  have hk : Kind.page page.blk ∉ faultKinds := (by decide : Kind.page .jk ∉ faultKinds)
  have hi : page.inst < instances page.blk := jkPage_inst st p
  have hr : ∀ x, x % 4096 ≠ 0x044 → x % 4096 ≠ 0x010 → x % 4096 ≠ 0x064 → t.reg page x =
      (recordFault (raiseEvt (s.setFlag page 0x040 0 false) page 5) page 0x0A 0x40 info 0).reg page x := fun x h h' h'' => by
    rw [reg_swapRecord_apart _ _ _ _ _ _ _ _ h h' h'', reg_raiseEvt_apart _ _ _ _ h h']
  have hm : Same State.byte (s.setFlag page 0x040 0 false) t :=
    (sameByte_raiseEvt _ hi 5).trans (sameByte_recordFault _ hi ..)
      |>.trans (sameByte_raiseEvt (p := arbPage st) _ (show 0 < 1 by decide) 8) |>.trans (sameByte_swapRecord ..)
  refine ⟨same_byte_iff.1 hm, ?_, ?_⟩
  · rw [State.flag, hr _ (by decide) (by decide) (by decide), reg_recordFault_eq _ _ _ _ _ _ hi hk (by decide) (by decide) (by decide)
      (by decide), reg_pageFault_apart _ _ _ _ _ _ _ (by decide), reg_raiseEvt_apart _ _ _ _ (by decide) (by decide)]
    exact State.flag_setFlag_same _ _ _ _ (by decide)
  · rw [State.fld, hr _ (by decide) (by decide) (by decide)]
    exact fld_recordFault _ _ _ _ _ _ hi hk (by decide) (by decide)

end Sys2Proof.Laws
end

section
open Sys2Proof Machine Safety Laws

/-- Settles O47: a descriptor by the row of its port, a link error by its fault, and a failed lane by the two cases of its group. -/
theorem jukanCommands : Obligations.JukanCommands := by
  refine ⟨fun s u st p e hs hclk hq hacc hf hsrc hdst hway => ?_, fun s st p hs => ⟨⟨_, if_pos hs, ?_⟩, fun g => ⟨_, if_pos hs, ?_⟩⟩⟩
  · intro good
    have hgood : Same State.queues s u → good (raiseEvt (finish u st (jkQueue p.val) true) (jkPage st p.val) 3) := fun h => by
      obtain ⟨hmem, hdone, -⟩ := jkDone_spec u st p
      exact ⟨hmem, hdone, jkDone_queue st p h⟩
    refine ⟨fun hop hb => ⟨_, jkRow_of hs hq ⟨hacc, hop, hclk, hf, hsrc, hdst⟩ hway hb, hgood ?_⟩,
      fun hop hb => ⟨_, jkRow_of hs hq ⟨hacc, hop, hclk, hf, hsrc, hdst⟩ hway hb, hgood ?_⟩, fun hop hu => ?_⟩
    · exact (sameQueues_jkSend ..).fst_of hb
    · exact (sameQueues_jkReduce ..).fst_of hb
    · subst hu
      obtain ⟨hm, hqs, hdb⟩ := jkSignal_spec u st p.val e.desc
      obtain ⟨hmem, hdone, -⟩ := jkDone_spec (jkSignal u st p.val e.desc).1 st p
      exact ⟨_, jkRow_of (body := jkSignal) hs hq ⟨hacc, hop, hclk, hf, hsrc, hdst⟩ hway rfl,
        ⟨hmem.trans hm, hdone, jkDone_queue st p hqs⟩,
        db_raiseEvt_of_db _ _ _ (db_finish_of_db _ _ _ _ hdb)⟩
  · split
    · split
      · exact linkFault_finish_spec ..
      · exact linkFault_spec ..
    · exact linkFault_spec ..
  · dsimp only
    split
    · exact laneSpare_spec s.drawFree.2 st p g _ _
    · exact laneDown_spec s.drawFree.2 st p _ _ _

end

section
/-! What a step of one unit leaves of the units beside it (O60): the mailboxes (R380, R385) and the collective channels (R367). -/

set_option Elab.async false

namespace Sys2Proof.Laws

open Machine Safety

/-! ### Outcomes that keep a reading -/

/-- Where a command answers a next state, the reading `v` of it is what it was. -/
def NextSame {α : Type} (v : State → α) (s : State) (o : Host.Outcome State Fault Refusal) : Prop := ∀ t, o = .next t → Same v s t

namespace NextSame

variable {α : Type} {v : State → α} {s t : State}

theorem next (h : Same v s t) : NextSame v s (.next t) := fun _ e => by cases e; exact h

/-- A unit's command stops only at an absent stack. -/
theorem guard {b : Bool} (h : Same v s t) : NextSame v s (if b then .next t else .fault .absentStack) := by
  split
  · exact .next h
  · intro _ e; cases e

end NextSame

/-! ### Mailboxes -/

/-- What a mailbox holds of its last send (R381). -/
def boxWord (i : Fin 8) (m : Nat) (s : State) : Word × Bool × Nat := ((s.box i m).word, (s.box i m).full, (s.box i m).sender)

theorem unrung_boxWord (i : Fin 8) (m : Nat) : Unrung (boxWord i m) where
  box s j n f hf := by
    dsimp only [Same, boxWord]
    rw [State.box_modBox]
    split
    · next e => obtain ⟨rfl, rfl⟩ := e; rw [(hf _).1, (hf _).2.1, (hf _).2.2]
    · rfl
  mail _ _ _ _ := rfl
  wake _ _ := rfl

theorem homeBox_lt {st i : Fin 8} {r : Requester} {h : Nat} (e : homeBox st r = some (i, h)) : h < 64 := by
  unfold homeBox at e
  split at e <;> simp only [Option.some.injEq, Prod.mk.injEq, reduceCtorEq] at e <;> omega

section
variable {st i : Fin 8} {mb m : Nat} (h : ¬(i = st ∧ m = mb))

theorem sameWord_notice (s : State) (j : Fin 8) (n : Nat) (r : Requester) (bit : Nat) : Same (boxWord i m) s (notice s j n r bit) := by
  unfold notice
  split
  · next e => exact (unrung_boxWord i m).ringBits _ _ _ (homeBox_lt e)
  · rfl

theorem sameWord_settleReplies (s : State) (j : Fin 8) (n : Nat) (status : Option Nat) :
    Same (boxWord i m) s (settleReplies s j n status) := by
  have hf : ∀ (s : State) (l : Fin 8) (f : Stack → List WaitReply), Same (boxWord i m) s (s.modSt l fun x => { x with replies := f x }) := by
    intro s l f
    have hb : (s.modSt l fun x => { x with replies := f x }).box i m = s.box i m := by
      rw [State.box, State.st_modSt]
      split
      · next e => subst e; rfl
      · rfl
    dsimp only [Same, boxWord]
    rw [hb]
  exact .foldl (fun _ _ => hf ..) _ _

include h

theorem sameWord_modBox (s : State) (f : Mailbox → Mailbox) : Same (boxWord i m) s (s.modBox st mb f) := by
  have hb : (s.modBox st mb f).box i m = s.box i m := by rw [State.box_modBox, if_neg]; exact fun e => h ⟨e.1.symm, e.2.symm⟩
  dsimp only [Same, boxWord]
  rw [hb]

theorem sameWord_mboxSend (s : State) (r : Requester) (v : Word) (hm : mb < 64) : Same (boxWord i m) s (mboxSend s r st mb v) := by
  unfold mboxSend
  extract_lets b p s1 s2 s3
  have h1 : Same (boxWord i m) s s1 := sameWord_modBox h s _
  have h2 : Same (boxWord i m) s s2 := h1
  have h3 : Same (boxWord i m) s s3 := .ite (h2.trans (sameWord_notice (s2.countSat p 0x054) ..)) (.ite h2 h2)
  exact h3.trans ((unrung_boxWord i m).ringBits _ _ _ hm) |>.trans ((unrung_boxWord i m).wakeBox ..)

theorem sameWord_mboxRead (s : State) (r : Requester) : Same (boxWord i m) s (mboxRead s r st mb).2 := by
  unfold mboxRead
  extract_lets b s1
  split
  · exact (sameWord_modBox h ..).trans (sameWord_settleReplies ..) |>.trans (sameWord_notice ..)
  · exact .refl s

theorem sameWord_timeout (s : State) (f : Mailbox → Mailbox) (status : Option Nat) (r : Requester) (bit : Nat) :
    Same (boxWord i m) s
      (notice (settleReplies ((s.modBox st mb f).countSat (mbxPage st mb) 0x058) st mb status) st mb r bit) :=
  have h1 : Same (boxWord i m) s ((s.modBox st mb f).countSat (mbxPage st mb) 0x058) := sameWord_modBox h s f
  h1.trans (sameWord_settleReplies ..) |>.trans (sameWord_notice ..)

end

/-- The mailbox commands, for the word of every other mailbox. -/
theorem boxWord_mailboxCommands {st i : Fin 8} {mb : Fin 64} {m : Nat} (h : ¬(i = st ∧ m = mb.val)) (s : State) (r : Requester)
    (v : Word) : ∀ cmd ∈ [Instr.mbxSend r st mb v, .mbxReceive r st mb, .mbxTimeout st mb, .mbxDbSet r st mb v],
      NextSame (boxWord i m) s (exec cmd s) := by
  simp only [List.mem_cons, List.not_mem_nil, or_false, forall_eq_or_imp, forall_eq]
  refine ⟨.guard ?send, .guard ?receive, .guard ?timeout, .guard ?ring⟩
  case send => exact sameWord_mboxSend h _ _ _ mb.isLt
  case receive => exact .ite (sameWord_mboxRead h ..) (.refl s)
  case timeout => exact .ite (sameWord_timeout h ..) (.refl s)
  case ring => exact .ite ((unrung_boxWord i m).ringBits _ _ _ mb.isLt) (.refl s)

/-! ### Collective channels -/

section
variable {i : Fin 8} {k : Nat}

theorem sameChan_of_keptBut {l : List Kind} {s t : State} (h : KeptBut l s t) (hk : Kind.channels ∉ l) : Same (·.chan i k) s t := by
  have hc : (t.st i).chans = (s.st i).chans := h.kind .channels hk i
  dsimp only [Same, State.chan]
  rw [hc]

theorem unrung_chan (i : Fin 8) (k : Nat) : Unrung (·.chan i k) where
  box _ _ _ _ _ := sameChan_of_keptBut (keptBut_modBox ..) (by decide)
  mail _ _ _ _ := rfl
  wake _ _ := rfl

theorem sameChan_modSess (s : State) (st : Fin 8) (ctx : Nat) (f : Session → Session) : Same (·.chan i k) s (s.modSess st ctx f) :=
  sameChan_of_keptBut (keptBut_modSess ..) (by decide)

theorem sameChan_sendPacket (s : State) (st : Fin 8) (ctx : Nat) (type : Byte) (seq : Word) (retx : Bool) (payload : List Byte) :
    Same (·.chan i k) s (sendPacket s st ctx type seq retx payload) := by
  unfold sendPacket
  exact (sameChan_modSess ..).trans (sameChan_of_keptBut (keptBut_send ..) (by decide))

theorem sameChan_sendData (s : State) (st : Fin 8) (ctx : Nat) (seq : Word) (retx : Bool) (payload : List Byte) :
    Same (·.chan i k) s (sendData s st ctx seq retx payload) := by
  unfold sendData
  extract_lets pn s1 s2
  have h2 : Same (·.chan i k) s s2 := (sameChan_sendPacket ..).trans (sameChan_modSess ..)
  exact .ite h2 h2

theorem sameChan_sendOp (s : State) (st : Fin 8) (ctx : Nat) (payload : List Byte) :
    Same (·.chan i k) s (sendOp s st ctx payload) :=
  .ite (sameChan_modSess ..) ((sameChan_modSess ..).trans (sameChan_sendData ..))

theorem sameChan_engWrite (s : State) (st : Fin 8) (plan : Nat) (driven : Bool) (a : Nat) (bs : List Byte) :
    Same (·.chan i k) s (engWrite s st plan driven a bs).1 := sameChan_of_keptBut (keptBut_engWrite ..) (by decide)

theorem sameChan_chanRing (s : State) (st : Fin 8) (c : Nat) : Same (·.chan i k) s (chanRing s st c) :=
  (unrung_chan i k).ringBits _ _ _ (bitsOf_lt _ 21 16)

theorem sameChan_segVoid (s : State) (st : Fin 8) (g : Segment) : Same (·.chan i k) s (segVoid s st g) :=
  .ite (sameChan_of_keptBut (keptBut_modClp ..) (by decide)) (.refl s)

end

section
variable {st i : Fin 8} {c k : Nat} (h : ¬(i = st ∧ k = c)) (s : State)
include h

theorem sameChan_modChan (f : Channel → Channel) : Same (·.chan i k) s (s.modChan st c f) := by
  dsimp only [Same]
  rw [State.chan_modChan, if_neg]
  exact fun e => h ⟨e.1.symm, e.2.symm⟩

theorem sameChan_chanStop : Same (·.chan i k) s (chanStop s st c) := (sameChan_modChan h ..).trans (sameChan_chanRing ..)

theorem sameChan_chanFail (det high : Nat) : Same (·.chan i k) s (chanFail s st c det high) :=
  (sameChan_of_keptBut (keptBut_recordFault (p := kxtPage st) s _ _ _ _ Nat.one_pos) (by simp [faultKinds, eventKinds])).trans
    (sameChan_chanStop h _)

theorem sameChan_chanMemFail (e : MemErr) : Same (·.chan i k) s (chanMemFail s st c e) :=
  (sameChan_of_keptBut (keptBut_memFault (p := kxtPage st) s _ _ _ _ Nat.one_pos) (by simp [faultKinds, eventKinds])).trans
    (sameChan_chanStop h _)

theorem sameChan_sendUnit (phase round u : Nat) : Same (·.chan i k) s (sendUnit st c phase round s u) := by
  unfold sendUnit
  dsimp only
  split
  · exact .refl s
  · split
    · exact sameChan_chanMemFail h ..
    · exact sameChan_sendOp ..

theorem sameChan_sendBlock (round a n j : Nat) : Same (·.chan i k) s (sendBlock st c round a n s j) := by
  unfold sendBlock
  dsimp only
  split
  · exact .refl s
  · split
    · exact sameChan_chanMemFail h ..
    · exact sameChan_sendOp ..

theorem sameChan_sendRound (gather : Bool) (round : Nat) : Same (·.chan i k) s (sendRound s st c gather round) :=
  .ite (.foldl (fun _ _ => sameChan_sendBlock h ..) _ _) (.foldl (fun _ _ => sameChan_sendUnit h ..) _ _)

theorem sameChan_endTile (t : Nat) : Same (·.chan i k) s (endTile st c s t) := by
  unfold endTile
  dsimp only
  split
  · exact .refl s
  · split
    · exact sameChan_chanMemFail h ..
    · split
      · exact sameChan_chanFail h ..
      · split
        · next e => exact (Same.fst_of (sameChan_engWrite ..) e).trans (sameChan_chanMemFail h ..)
        · next e => exact (sameChan_engWrite ..).fst_of e

theorem sameChan_chanDone : Same (·.chan i k) s (chanDone s st c) :=
  (sameChan_modChan h ..).trans (sameChan_chanRing ..) |>.trans ((unrung_chan i k).raiseEvt rfl)

theorem sameChan_votesIn : Same (·.chan i k) s (votesIn s st c) := .ite (sameChan_chanDone h s) (.refl s)

theorem sameChan_chanFinish : Same (·.chan i k) s (chanFinish s st c) := by
  unfold chanFinish
  extract_lets x s1 s2 s3
  have h1 : Same (·.chan i k) s s1 := .ite (.foldl (fun _ _ => sameChan_endTile h ..) _ _) (.refl s)
  have h2 : Same (·.chan i k) s s2 := h1.trans (.foldl (fun _ _ => sameChan_sendOp ..) _ _)
  have h3 : Same (·.chan i k) s s3 := h2.trans (sameChan_modChan h ..)
  have hc : ∀ f, Same (·.chan i k) s3 (s3.modClp st f) := fun _ => sameChan_of_keptBut (keptBut_modClp ..) (by decide)
  exact .ite h1 (.ite (h3.trans (hc _) |>.trans (sameChan_votesIn h _)) (h1.trans (sameChan_chanDone h _)))

theorem sameChan_pump (fuel : Nat) : Same (·.chan i k) s (pump st c fuel s) := by
  induction fuel generalizing s with
  | zero => exact .refl s
  | succ fuel ih =>
    have hm := sameChan_modChan h s
    rw [pump]
    exact .ite (.refl s) <| .ite ((hm _).trans (ih _)) <| .ite ((hm _).trans (sameChan_sendRound h ..) |>.trans (ih _)) <|
      .ite (.refl s) <| .ite ((hm _).trans (ih _)) <| .ite ((hm _).trans (sameChan_sendRound h ..) |>.trans (ih _)) <|
      .ite (.refl s) (sameChan_chanFinish h s)

theorem sameChan_succStart : Same (·.chan i k) s (succStart s st c) := (sameChan_modChan h ..).trans (sameChan_pump h ..)

theorem sameChan_chanWrite (a : Nat) (bs : List Byte) : Same (·.chan i k) s (chanWrite s st c a bs) := by
  unfold chanWrite
  split
  · next e => exact (Same.fst_of (sameChan_engWrite ..) e).trans (sameChan_chanMemFail h ..)
  · next e => exact (sameChan_engWrite ..).fst_of e

theorem sameChan_reduceSub (g : Segment) : Same (·.chan i k) s (reduceSub s st c g) := by
  unfold reduceSub
  dsimp only
  split
  · exact sameChan_chanMemFail h ..
  · split
    · exact sameChan_chanFail h ..
    · exact sameChan_chanFail h ..
    · exact (sameChan_modChan h ..).trans (sameChan_chanWrite h ..)

theorem sameChan_reduceF32 (g : Segment) : Same (·.chan i k) s (reduceF32 s st c g) := by
  unfold reduceF32
  dsimp only
  split
  · exact sameChan_chanMemFail h ..
  · exact sameChan_chanWrite h ..

theorem sameChan_gatherUnit (g : Segment) : Same (·.chan i k) s (gatherUnit s st c g) :=
  .ite (.ite (sameChan_chanFail h ..) (.ite (sameChan_chanFail h ..) (sameChan_chanWrite h ..)))
    (.trans (.ite (sameChan_modChan h ..) (.refl s)) (sameChan_chanWrite h ..))

/-- A unit that was taken, and what it lets go on. -/
theorem sameChan_taken {s t : State} (hs : Same (·.chan i k) s t) (f : Channel → Channel) :
    Same (·.chan i k) s (if (t.chan st c).active then chanPump (t.modChan st c f) st c else t) :=
  .ite (hs.trans (sameChan_modChan h ..) |>.trans (sameChan_pump h ..)) hs

end

section
variable {st i : Fin 8} {k : Nat} {g : Segment} (h : ¬(i = st ∧ k = g.chan)) (s : State)
include h

theorem sameChan_segStep {body : State → State} (hb : ∀ t, Same (·.chan i k) t (body t)) : Same (·.chan i k) s (segStep s st g body) :=
  have hv := sameChan_segVoid s st g
  .ite hv (.ite (hv.trans (sameChan_chanFail h ..)) (hv.trans (hb _)))

theorem sameChan_startSegment : Same (·.chan i k) s (startSegment s st g) :=
  have hv := sameChan_segVoid s st g
  .ite hv (.ite (.ite (hv.trans (sameChan_succStart h _)) hv)
    (.ite (hv.trans (sameChan_modChan h ..)) (hv.trans (sameChan_chanFail h ..))))

theorem sameChan_reduceSegment : Same (·.chan i k) s (reduceSegment s st g) :=
  sameChan_segStep h s fun t => .ite (.refl t) (sameChan_taken h (.ite (sameChan_reduceSub h t g) (sameChan_reduceF32 h t g)) _)

theorem sameChan_gatherSegment : Same (·.chan i k) s (gatherSegment s st g) :=
  sameChan_segStep h s fun t => .ite (.refl t) (sameChan_taken h (sameChan_gatherUnit h t g) _)

theorem sameChan_voteSegment : Same (·.chan i k) s (voteSegment s st g) :=
  sameChan_segStep h s fun t => .ite ((sameChan_modChan h ..).trans (sameChan_votesIn h _)) (.refl t)

end

/-- Segments and timeouts, for every other channel. -/
theorem sameChan_segmentCommands {st i : Fin 8} {k : Nat} {g : Segment} {c : Fin 16} (h : ¬(i = st ∧ (k = g.chan ∨ k = c.val)))
    (s : State) (ctx : Nat) : ∀ cmd ∈ [Instr.collStartSegment st ctx g, .collReduceSegment st ctx g, .collGatherSegment st ctx g,
      .collVoteSegment st ctx g, .collTimeout st c], NextSame (·.chan i k) s (exec cmd s) := by
  have hg : ¬(i = st ∧ k = g.chan) := fun e => h ⟨e.1, .inl e.2⟩
  have hc : ¬(i = st ∧ k = c.val) := fun e => h ⟨e.1, .inr e.2⟩
  simp only [List.mem_cons, List.not_mem_nil, or_false, forall_eq_or_imp, forall_eq]
  refine ⟨.guard ?start, .guard ?reduce, .guard ?gather, .guard ?vote, .guard ?timeout⟩
  case start => exact .ite (sameChan_startSegment hg s) (.refl s)
  case reduce => exact .ite (sameChan_reduceSegment hg s) (.refl s)
  case gather => exact .ite (sameChan_gatherSegment hg s) (.refl s)
  case vote => exact .ite (sameChan_voteSegment hg s) (.refl s)
  case timeout => exact .ite (sameChan_chanFail hc ..) (.refl s)

end Sys2Proof.Laws
end

section
/-! What a command of a matrix array or vector unit leaves of the cores beside it (R15), and what a fault reaches. -/

set_option Elab.async false

namespace Sys2Proof.Laws

open Machine Safety

variable {α : Type} {v : State → α}

/-! ### Readings that no fault reaches -/

/-- A reading that does not see the registers of a page. -/
def PageUnseen (v : State → α) (p : Page) : Prop := ∀ s off x, off < 4096 → Same v s (s.setReg p off x)

theorem PageUnseen.setPair {p : Page} (h : PageUnseen v p) (s : State) {off : Nat} (n : Nat) (ho : off + 4 < 4096) :
    Same v s (s.setPair p off n) := (h s off _ (by omega)).trans (h _ (off + 4) _ ho)

/-- A reading that sees neither a doorbell nor what a Locket request may change: its place in the Locket, the dropped events of its
page, and the draw of its time (R439). -/
structure Unrecorded (v : State → α) : Prop extends Unrung v where
  locket : ∀ s f, Same v s (s.modLkt f)
  draw : ∀ (s : State) n, Same v s { s with free := n }
  page : PageUnseen v lktPage

namespace Unrecorded

variable (hv : Unrecorded v)
include hv

theorem raiseEvt {p : Page} (hp : PageUnseen v p) (s : State) (n : Nat) : Same v s (raiseEvt s p n) :=
  hv.toUnrung.raiseEvt (hp s _ _ (by decide))

theorem locketRequest (s : State) (src : Source) (order : Nat) (home : Fin 8) (code : Nat) (payload : List Byte) :
    Same v s (locketRequest s src order home code payload) := by
  unfold Machine.locketRequest
  split
  · exact (hv.locket ..).trans (hv.page _ _ _ (by decide)) |>.trans (hv.raiseEvt hv.page ..)
  · unfold addRequest makeRequest State.now State.drawElapsed
    exact (hv.draw ..).trans (hv.locket ..)

theorem pageFault {p : Page} (hp : PageUnseen v p) (s : State) (cls det info addr : Nat) :
    Same v s (pageFault s p cls det info addr) :=
  (hp s _ _ (by decide)).trans (hp _ _ _ (by decide)) |>.trans (hp.setPair _ _ (by decide)) |>.trans (hv.raiseEvt hp ..)

theorem recordPlain {p : Page} (hp : PageUnseen v p) (s : State) (cls det info addr : Nat) (tears : Bool) :
    Same v s (recordPlain s p cls det info addr tears) :=
  .ite ((hv.pageFault hp ..).trans (hv.locketRequest ..)) (hv.pageFault hp ..)

end Unrecorded

/-! ### Readings of the cores beside one -/

/-- A reading that sees of cores and queues nothing that core `c` of stack `st` has, and else of no kind of state. -/
structure BesideCore (v : State → α) (st : Fin 8) (c : Nat) : Prop where
  reg : ∀ p, PageUnseen v p
  kept : ∀ {l s t}, KeptBut l s t → .cores ∉ l → .queues ∉ l → Same v s t
  core : ∀ s f, Same v s (s.modCore st c f)
  mxQueue : ∀ s f, Same v s (s.modQueue st (mxQueue c) f)
  vcQueue : ∀ s f, Same v s (s.modQueue st (vcQueue c) f)

theorem besideCore_core {st i : Fin 8} {c k : Nat} (h : ¬(i = st ∧ k = c)) : BesideCore (·.core i k) st c where
  reg _ _ _ _ _ := rfl
  kept hl hc _ := by
    have hi : (_ : Stack).cores = (_ : Stack).cores := hl.kind .cores hc i
    dsimp only [Same, State.core]
    rw [hi]
  core s f := by
    dsimp only [Same]
    rw [State.core_modCore, if_neg]
    exact fun e => h ⟨e.1.symm, e.2.symm⟩
  mxQueue _ _ := rfl
  vcQueue _ _ := rfl

theorem besideCore_queue {st i : Fin 8} {c q : Nat} (hc : c < 56) (hq : q < 4096)
    (h : ¬(i = st ∧ (q = mxQueue c ∨ q = vcQueue c))) : BesideCore (·.queue i q) st c where
  reg _ _ _ _ _ := rfl
  kept hl _ hk := hl.kind .queues hk i q
  core _ _ := rfl
  mxQueue s f := by
    dsimp only [Same]
    rw [State.queue_modQueue, if_neg]
    intro e
    obtain ⟨hi, hq⟩ := queueKey_inj hq (by unfold Machine.mxQueue; omega) e
    exact h ⟨hi, .inl hq⟩
  vcQueue s f := by
    dsimp only [Same]
    rw [State.queue_modQueue, if_neg]
    intro e
    obtain ⟨hi, hq⟩ := queueKey_inj hq (by unfold Machine.vcQueue; omega) e
    exact h ⟨hi, .inr hq⟩

namespace BesideCore

variable {st : Fin 8} {c : Nat} (hv : BesideCore v st c) (s : State)
include hv

theorem unrecorded : Unrecorded v where
  box _ _ _ _ _ := hv.kept (keptBut_modBox ..) (by decide) (by decide)
  mail _ _ _ _ := hv.reg _ _ _ _ (by decide)
  wake _ _ := hv.reg _ _ _ _ (by decide)
  locket _ _ := hv.kept (keptBut_modLkt ..) (by decide) (by decide)
  draw _ _ := hv.kept (keptBut_free ..) (by decide) (by decide)
  page := hv.reg _

theorem raiseEvt (p : Page) (n : Nat) : Same v s (raiseEvt s p n) := hv.unrecorded.raiseEvt (hv.reg p) s n

theorem countPair (p : Page) {off : Nat} (n : Nat) (ho : off + 4 < 4096) : Same v s (s.countPair p off n) :=
  (hv.reg p).setPair s _ ho

theorem recordFault (p : Page) (cls det info addr : Nat) : Same v s (recordFault s p cls det info addr) :=
  have hr := hv.unrecorded.recordPlain (hv.reg p) s cls det info addr
  .ite ((hr true).trans (hv.kept (keptBut_tear ..) (by decide) (by decide))) (hr false)

theorem quiesceRise (s₀ : State) (p : Page) : Same v s (quiesceRise s₀ s p) := .ite (hv.raiseEvt ..) (.refl s)

theorem rawWrite (a : Nat) (bs : List Byte) : Same v s (rawWrite s a bs).1 :=
  hv.kept (keptBut_rawWrite ..) (by decide) (by decide)

/-! ### The matrix engine -/

theorem finishAt (i : Nat) (clean : Bool) : Same v s (finishAt s st (Machine.mxQueue c) i clean) := by
  unfold Machine.finishAt
  extract_lets s1
  have h1 : Same v s s1 := hv.mxQueue ..
  split
  · exact h1.trans (hv.quiesceRise ..)
  · exact h1

theorem mxRetire (i : Nat) : Same v s (mxRetire s st c i) := .ite (hv.finishAt ..) ((hv.finishAt ..).trans (hv.raiseEvt ..))

theorem mxFault (i : Nat) (d : Desc) (cls det high addr : Nat) : Same v s (mxFault s st c i d cls det high addr) :=
  (hv.recordFault ..).trans (hv.mxQueue ..) |>.trans (hv.finishAt ..)

theorem joinFlags (slot : Nat) (fl : WinFlags) : Same v s (joinFlags s st c slot fl) := by
  unfold Machine.joinFlags
  split
  · exact .refl s
  · extract_lets s1 s2
    have h1 : Same v s s1 := hv.core ..
    have h2 : Same v s s2 := .ite (h1.trans (hv.raiseEvt ..)) h1
    exact .ite (h2.trans (hv.raiseEvt ..)) h2

theorem countIssue (cyc sl : Nat) : Same v s (countIssue s st c cyc sl) :=
  (hv.countPair _ _ _ (by decide)).trans (hv.countPair _ _ _ (by decide))

theorem countRepeats (slot n : Nat) : Same v s (countRepeats s st c slot n) :=
  .ite (.refl s) ((hv.joinFlags ..).trans (hv.reg _ _ _ _ (by decide)) |>.trans (hv.raiseEvt ..))

theorem streamPass (i : Nat) (d : Desc) : Same v s (streamPass s st c i d) := by
  unfold Machine.streamPass
  dsimp only
  split
  · exact hv.mxFault ..
  · exact hv.mxFault ..
  · split
    · exact hv.mxFault ..
    · have hc : ∀ x cyc sl, Same v s (Machine.countIssue (s.modCore st c fun _ => x) st c cyc sl) := fun _ _ _ =>
        (hv.core ..).trans (hv.countIssue ..)
      split
      · split
        · exact (hc ..).trans (hv.countRepeats ..) |>.trans (hv.mxFault ..)
        · exact (hc ..).trans (hv.countRepeats ..) |>.trans (hv.mxQueue ..) |>.trans (hv.core ..)
      · split
        · exact (hc ..).trans (hv.core ..) |>.trans (hv.joinFlags ..) |>.trans (hv.mxFault ..)
        · exact (hc ..).trans (hv.core ..) |>.trans (hv.joinFlags ..) |>.trans (hv.mxQueue ..) |>.trans (hv.core ..)

theorem starveStream (b i : Nat) : Same v s (starveStream s st c b i) := by
  unfold Machine.starveStream
  split
  · exact .ite (hv.mxFault ..) (.refl s)
  · exact .refl s

theorem loadBank (i : Nat) (d : Desc) : Same v s (loadBank s st c i d) := by
  unfold Machine.loadBank
  extract_lets b fmt shape rows off n s1
  have h1 : Same v s s1 := hv.core ..
  split
  · exact h1.trans (hv.mxFault ..) |>.trans (hv.starveStream ..)
  · split
    · exact h1.trans (hv.mxFault ..) |>.trans (hv.starveStream ..)
    · exact h1.trans (hv.core ..) |>.trans (hv.mxRetire ..)

theorem drainTile (i : Nat) (d : Desc) : Same v s (drainTile s st c i d) := by
  unfold Machine.drainTile
  dsimp only
  split
  · exact hv.mxFault ..
  · have h2 : ∀ a bs slot f fl, Same v s (Machine.joinFlags (modTile (Machine.rawWrite s a bs).1 st c slot f) st c slot fl) :=
      fun _ _ _ _ _ => (hv.rawWrite ..).trans (hv.core ..) |>.trans (hv.joinFlags ..)
    exact .ite (hv.mxFault ..) (.ite (hv.mxFault ..) (.trans (.ite ((h2 ..).trans (hv.core ..)) (h2 ..)) (hv.mxRetire ..)))

theorem freeTile (i : Nat) (d : Desc) : Same v s (freeTile s st c i d) := by
  unfold Machine.freeTile
  dsimp only
  split
  · exact hv.mxRetire ..
  · exact .ite (hv.mxFault ..) ((hv.core ..).trans (hv.mxRetire ..))

/-! ### The vector chain -/

theorem reseed : Same v s (reseed s st c) := (hv.core ..).trans (hv.raiseEvt ..)

theorem stickyJoin (k : Nat) : Same v s (stickyJoin s st c k) :=
  (hv.reg (vcPage st c) s 0x044 _ (by decide)).trans (.foldl (fun _ _ => .ite (hv.raiseEvt ..) (.refl _)) _ _)

theorem finish (clean : Bool) : Same v s (finish s st (Machine.vcQueue c) clean) := by
  unfold Machine.finish
  extract_lets s1
  have h1 : Same v s s1 := hv.vcQueue ..
  split
  · exact h1.trans (hv.quiesceRise ..)
  · exact h1

theorem vcFault (d : Desc) (cls det high addr : Nat) : Same v s (vcFault s st c d cls det high addr) := by
  unfold Machine.vcFault engineFault
  split
  · exact .refl s
  · exact (hv.recordFault ..).trans (hv.finish ..)

theorem vcRetire : Same v s (vcRetire s st c) := (hv.finish ..).trans (hv.raiseEvt ..)

theorem lossReport (w : Word) : Same v s (lossReport s st w) := by
  have hm : ∀ (s : State) f, Same v s (s.modClp st f) := fun _ _ => hv.kept (keptBut_modClp ..) (by decide) (by decide)
  unfold Machine.lossReport
  extract_lets k s1 s2
  have h1 : Same v s s1 := hm ..
  have h2 : Same v s s2 := h1.trans (hm ..)
  exact .ite (hv.recordFault ..) (.ite h1 (.ite (h1.trans (hm ..)) (.trans (.ite h2 (h2.trans (hm ..))) (hv.raiseEvt ..))))

theorem runBody (e : Entry) (ts : List TypedStage) (src : RunSource) (upTo : Nat) (whole : Bool) :
    Same v s (runBody s st c e ts src upTo whole) := by
  unfold Machine.runBody
  extract_lets
  split
  extract_lets
  split
  next s1 s2 _ _ _ _ =>
  extract_lets s3 s4 s5
  have h1 : Same v s s1 := hv.countPair _ _ _ (by decide)
  have h2 : Same v s s2 := .ite h1 (h1.trans (hv.core ..))
  have h3 : Same v s s3 := by
    unfold s3
    split
    · exact h2.trans (.foldl (fun _ _ => hv.rawWrite ..) _ _)
    · exact h2.trans (hv.core ..)
    · exact .ite (h2.trans (hv.lossReport ..) |>.trans (hv.reg _ _ _ _ (by decide)) |>.trans (hv.raiseEvt ..)) h2
  have h4 : Same v s s4 := .ite (h3.trans (hv.joinFlags ..)) h3
  have h5 : Same v s s5 := h4.trans (hv.stickyJoin ..)
  exact .ite (h5.trans (.foldl (fun _ _ => hv.core ..) _ _)) h5

theorem vcRun (e : Entry) : Same v s (vcRun s st c e) := by
  unfold Machine.vcRun
  extract_lets
  split
  · exact hv.vcFault ..
  split
  · exact hv.vcFault ..
  split
  · exact .refl s
  have hn : ∀ n, Same v s (s.countPair (vcPage st c) 0x054 n) := fun n => hv.countPair _ _ n (by decide)
  split
  · exact (hn _).trans (hv.runBody ..) |>.trans (hv.vcRetire ..) |>.trans (.ite (hv.reseed ..) (.refl _))
  · split
    exact .trans (.ite (hn _) ((hn _).trans (hv.runBody ..))) (hv.vcFault ..)
  · exact hv.vcFault ..

theorem vcSave (e : Entry) : Same v s (vcSave s st c e) := by
  unfold Machine.vcSave
  exact .ite (hv.vcFault ..) (.ite (.refl s) ((hv.rawWrite ..).trans (hv.vcRetire ..)))

theorem restoreFrom (l n : Nat) (bs : List Byte) : Same v s (restoreFrom s st c l n bs) := by
  unfold Machine.restoreFrom
  extract_lets slots vb regs s1 s2
  have h2 : Same v s s2 := (hv.core ..).trans (hv.reg _ _ _ _ (by decide))
  exact .ite (h2.trans (hv.core ..)) (h2.trans (hv.reseed ..) |>.trans (hv.stickyJoin ..))

theorem vcRestore (e : Entry) : Same v s (vcRestore s st c e) := by
  unfold Machine.vcRestore
  dsimp only
  split
  · exact hv.vcFault ..
  · split
    · exact hv.vcFault ..
    · split
      · exact hv.vcFault ..
      · split
        · exact hv.vcFault ..
        · split
          · exact hv.vcFault ..
          · exact .ite (hv.vcFault ..) ((hv.restoreFrom ..).trans (hv.vcRetire ..))

end BesideCore

/-! ### The commands of a core -/

theorem NextSame.drainer (op : Nat) {body : State → Fin 8 → Nat → Nat → Desc → State} {st : Fin 8} {c : Nat} {s : State}
    (hb : ∀ i d, Same v s (body s st c i d)) : NextSame v s (drainer op body st c s) := by
  refine .guard ?_
  split
  · exact .ite (.refl s) (hb ..)
  · exact .refl s

theorem NextSame.vcRow (op : Nat) {body : State → Fin 8 → Nat → Entry → State} {st : Fin 8} {c : Nat} {s : State}
    (hb : ∀ e, Same v s (body s st c e)) : NextSame v s (vcRow op body st c s) := by
  refine .guard ?_
  split
  · exact hb _
  · exact .refl s

theorem BesideCore.passRetire {st : Fin 8} {c : Fin 56} (hv : BesideCore v st c.val) (s : State) :
    NextSame v s (execMxPassRetire st c s) := by
  refine .guard ?_
  split
  · exact (hv.core ..).trans (hv.core ..) |>.trans (hv.core ..) |>.trans (hv.joinFlags ..) |>.trans (hv.mxRetire ..)
  · exact .refl s

theorem BesideCore.stream {st : Fin 8} {c : Fin 56} (hv : BesideCore v st c.val) (s : State) :
    NextSame v s (execMxStream st c s) := by
  refine .guard ?_
  split
  · exact .ite (hv.streamPass ..) (.refl s)
  · exact .refl s

theorem BesideCore.ldb {st : Fin 8} {c : Fin 56} (hv : BesideCore v st c.val) (s : State) : NextSame v s (execMxLdb st c s) := by
  refine .guard ?_
  split
  · exact .ite (.refl s) (hv.loadBank ..)
  · exact .refl s

/-- A core's commands, for what the cores beside it hold. -/
theorem BesideCore.commands {st : Fin 8} {c : Fin 56} (hv : BesideCore v st c.val) (s : State) (r : Requester) (x : Word) :
    ∀ cmd ∈ [Instr.mxStream st c, .mxPassRetire st c, .mxLdb st c, .mxDrain st c, .mxFree st c, .mxCfgWrite r st c x, .vcRun st c,
      .vcSetchain st c, .vcSetvl st c, .vcSave st c, .vcRestore st c], NextSame v s (exec cmd s) := by
  simp only [List.mem_cons, List.not_mem_nil, or_false, forall_eq_or_imp, forall_eq]
  refine ⟨hv.stream s, hv.passRetire s, hv.ldb s, NextSame.drainer 3 (hv.drainTile s), NextSame.drainer 4 (hv.freeTile s), .guard ?cfg,
    .vcRow 1 (hv.vcRun s), .vcRow 2 ?chain, .vcRow 3 ?vl, .vcRow 4 (hv.vcSave s), .vcRow 5 (hv.vcRestore s)⟩
  case cfg =>
    exact .ite (.ite (.ite (.refl s) (hv.reg _ _ _ _ (by decide))) (hv.reg _ _ _ _ (by decide))) (.refl s)
  case chain => exact fun _ => (hv.core ..).trans (hv.vcRetire ..)
  case vl => exact fun _ => (hv.core ..).trans (hv.vcRetire ..)

end Sys2Proof.Laws
end

section
/-! What a KSQ instruction leaves of the sequencers and pages beside its own (R314, R323), and O60. -/

set_option Elab.async false

namespace Sys2Proof.Laws

open Machine Safety

variable {α : Type} {v : State → α}

/-! ### The count of an uncorrectable read -/

/-- Four bits each of three fields make one of 16 channels. -/
theorem lpddrChannel_lt (o : Nat) : lpddrChannel o < 16 := by
  have hx : ∀ a b, a < 16 → b < 16 → Nat.xor a b < 16 := fun _ _ ha hb => Nat.xor_lt_two_pow (n := 4) ha hb
  exact hx _ _ (hx _ _ (bitsOf_lt o 11 8) (bitsOf_lt o 19 16)) (bitsOf_lt o 27 24)

/-- An uncorrectable read counts on an SRAM page or a memory channel's page (R289, R294). -/
theorem Unrecorded.countUe (hv : Unrecorded v) (hs : ∀ i, PageUnseen v (stackPage i .srm))
    (hm : ∀ i k, k < 4 → PageUnseen v (stackPage i .mem k)) (s : State) (a : Nat) : Same v s (countUe s a) := by
  have hl := lpddrChannel_lt (offsetOf a)
  unfold Machine.countUe
  extract_lets st
  split
  · exact (hs st _ _ _ (by decide)).trans (hv.raiseEvt (hs st) ..)
  · have hp := hm st (lpddrChannel (offsetOf a) / 4) (by omega)
    exact (hp _ _ _ (by decide)).trans (hv.raiseEvt hp ..)
  · exact .refl s

/-! ### Readings beside a sequencer -/

/-- A reading that sees nothing of sequencer `n` of stack `st` or its page, of the Clasps, queues and memory, nor of a fault's record
or an uncorrectable read's count. -/
structure BesideSeq (v : State → α) (st : Fin 8) (n : Fin 4) : Prop extends Unrecorded v where
  own : PageUnseen v (seqPage st n)
  srm : ∀ i, PageUnseen v (stackPage i .srm)
  mem : ∀ i k, k < 4 → PageUnseen v (stackPage i .mem k)
  seq : ∀ s f, Same v s (s.modSeq st n f)
  clasp : ∀ s i f, Same v s (s.modClp i f)
  queue : ∀ s i q f, Same v s (s.modQueue i q f)
  store : ∀ (s : State) m b, Same v s { s with mem := m, bad := b }

theorem besideSeq_seq {st i : Fin 8} {n k : Fin 4} (h : ¬(i = st ∧ k = n)) : BesideSeq (·.seq i k) st n where
  box s j m f _ := by
    have hi : ((s.modBox j m f).st i).seqs = (s.st i).seqs := (keptBut_modBox s j m f).kind .sequencers (by decide) i
    dsimp only [Same, State.seq]
    rw [hi]
  mail _ _ _ _ := rfl
  wake _ _ := rfl
  locket _ _ := rfl
  draw _ _ := rfl
  page _ _ _ _ := rfl
  own _ _ _ _ := rfl
  srm _ _ _ _ _ := rfl
  mem _ _ _ _ _ _ _ := rfl
  seq s f := by
    dsimp only [Same]
    rw [State.seq_modSeq, if_neg]
    exact fun e => h ⟨e.1.symm, e.2.symm⟩
  clasp s j f := by
    have hi : ((s.modClp j f).st i).seqs = (s.st i).seqs := (keptBut_modClp s j f).kind .sequencers (by decide) i
    dsimp only [Same, State.seq]
    rw [hi]
  queue _ _ _ _ := rfl
  store _ _ _ := rfl

section
variable {p : Page} {off : Nat} (hp : p.inst < instances p.blk) (ho : off < 4096)
include hp ho

theorem pageUnseen_of_ne {q : Page} (hq : q.inst < instances q.blk) (h : p ≠ q) : PageUnseen (·.reg p off) q := fun s x w hx => by
  dsimp only [Same]
  rw [State.reg_setReg, if_neg]
  exact fun e => h (key_inj hp hq ho hx e).1

theorem sameReg_setReg {q : Page} {x : Nat} (hq : q.inst < instances q.blk) (hx : x < 4096) (h : ¬(p.blk = q.blk ∧ off = x)) (s : State)
    (w : Word) : Same (·.reg p off) s (s.setReg q x w) := by
  dsimp only [Same]
  rw [State.reg_setReg, if_neg]
  intro e
  obtain ⟨rfl, rfl⟩ := key_inj hp hq ho hx e
  exact h ⟨rfl, rfl⟩

theorem besideSeq_reg {st : Fin 8} {n : Fin 4} (hs : p ≠ seqPage st n) (hl : p ≠ lktPage) (hm : p.blk ≠ .mem) (hr : p.blk ≠ .srm)
    (hmail : ¬(p.blk = .mbx ∧ off = 0x010)) (hwake : ¬(p.blk = .pwr ∧ off = 0x044)) : BesideSeq (·.reg p off) st n where
  box _ _ _ _ _ := rfl
  mail s i k hk := sameReg_setReg (q := stackPage i .mbx k) hp ho hk (by decide) hmail s _
  wake s i := sameReg_setReg (q := stackPage i .pwr) hp ho Nat.one_pos (by decide) hwake s _
  locket _ _ := rfl
  draw _ _ := rfl
  page := pageUnseen_of_ne hp ho (q := lktPage) Nat.one_pos hl
  own := pageUnseen_of_ne hp ho (q := seqPage st n) n.isLt hs
  srm i := pageUnseen_of_ne hp ho (q := stackPage i .srm) Nat.one_pos fun e => hr (congrArg Page.blk e)
  mem i k hk := pageUnseen_of_ne hp ho (q := stackPage i .mem k) hk fun e => hm (congrArg Page.blk e)
  seq _ _ := rfl
  clasp _ _ _ := rfl
  queue _ _ _ _ := rfl
  store _ _ _ := rfl

end

/-! ### The instructions -/

namespace BesideSeq

variable {st : Fin 8} {n : Fin 4} (hv : BesideSeq v st n) (s : State) (w : DWord)
include hv

theorem seqFault (cls det high addr : Nat) : Same v s (seqFault s st n cls det high addr) := by
  unfold Machine.seqFault seqVoid recordFault
  have hr := fun (s : State) info => hv.recordPlain hv.own s cls det info addr false
  have he : isEngine (seqPage st n).blk = false := rfl
  simp only [he, Bool.false_eq_true, false_and, if_false]
  exact (hv.seq ..).trans (hr ..) |>.trans (.ite (hv.clasp ..) (.refl _))

theorem seqMemFault (e : MemErr) : Same v s (seqMemFault s st n e) := by
  unfold Machine.seqMemFault
  split
  · exact hv.seqFault ..
  · exact (hv.countUe hv.srm hv.mem ..).trans (hv.seqFault ..)

theorem seqNext (pc : BitVec 15) : Same v s (seqNext s st n pc) := (hv.seq ..).trans (hv.own.setPair _ _ (by decide))

theorem seqDo (f : Machine.Seq → Machine.Seq) : Same v s (seqDo s st n f) := (hv.seq ..).trans (hv.seqNext ..)

theorem haltBody : Same v s (haltBody st n s w) :=
  (hv.seq ..).trans (hv.own.setPair _ _ (by decide)) |>.trans (hv.seq ..) |>.trans (hv.raiseEvt hv.own ..)

theorem dataBody (size : Nat) (f : Machine.Seq → Nat → Machine.Seq) : Same v s (dataBody size f st n s w) :=
  .ite (hv.seqDo ..) (hv.seqFault ..)

theorem pushNow (q : Nat) : Same v s (pushNow s st n w q) :=
  (hv.queue ..).trans (hv.own _ _ _ (by decide)) |>.trans (hv.seqDo ..)

theorem pushBody : Same v s (pushBody st n s w) :=
  .ite (hv.seqFault ..) (.ite (hv.seqFault ..) (.ite (hv.seq ..) (hv.pushNow ..)))

theorem timeBody : Same v s (timeBody st n s w) := .ite (hv.seqDo ..) ((hv.draw ..).trans (hv.seqDo ..))

theorem ldgBody : Same v s (ldgBody st n s w) := by
  unfold Machine.ldgBody
  dsimp only
  split
  · exact hv.seqFault ..
  · split
    · exact hv.seqMemFault ..
    · exact hv.seq ..

theorem stgBody : Same v s (stgBody st n s w) := by
  have hw := fun (s : State) plan driven a bs => same_engWrite hv.store s st plan driven a bs
  unfold Machine.stgBody
  dsimp only
  split
  · exact hv.seqFault ..
  · split
    · next e => exact ((hw ..).fst_of e).trans (hv.seqMemFault ..)
    · next e => exact ((hw ..).fst_of e).trans (hv.seqDo ..)

theorem rdrBody : Same v s (rdrBody st n s w) := .ite (hv.seqFault ..) (hv.seq ..)

theorem issue (opc : Nat) {body : State → DWord → State} (hb : ∀ w, Same v s (body s w)) : NextSame v s (issue opc body st n s) :=
  .guard (.ite (.refl s) (.ite (hv.seqFault ..) (.ite (.refl s) (.ite (hb _) (hv.seq ..)))))

/-- The KSQ instructions but WRR, for what stands beside the sequencer and its page. -/
theorem commands : ∀ c ∈ ksqCommands st n, c ≠ .wrr st n → NextSame v s (exec c s) := by
  simp only [ksqCommands, List.mem_cons, List.not_mem_nil, or_false, forall_eq_or_imp, forall_eq]
  refine ⟨?add, ?sub, ?and, ?or, ?xor, ?shl, ?shr, ?sar, ?mul, ?movhi, ?cmp, ?pset, ?br, ?call, ?jmp, ?halt, ?trap, ?ldd, ?std, ?ldg,
    ?stg, ?rdr, ?wrr, ?dwr, ?dins, ?dld, ?dst, ?push, ?waitq, ?fence, ?waitdb, ?time, ?waitpos, ?nop⟩ <;> intro hc
  case wrr => exact absurd rfl hc
  case add | sub | and | or | xor | shl | shr | sar | mul => exact hv.issue s _ fun _ => hv.seqDo ..
  case movhi | cmp | pset | dwr | dins => exact hv.issue s _ fun _ => hv.seqDo ..
  case nop => exact (hv.issue s _ fun _ => hv.seqDo .. : NextSame v s (execNop st n s))
  case br => exact (hv.issue s _ fun _ => hv.seqNext .. : NextSame v s (execBr st n s))
  case jmp => exact (hv.issue s _ fun _ => hv.seqNext .. : NextSame v s (execJmp st n s))
  case call => exact hv.issue s _ fun _ => (hv.seq ..).trans (hv.seqNext ..)
  case halt => exact hv.issue s _ (hv.haltBody s)
  case trap => exact (hv.issue s _ fun _ => hv.seqFault .. : NextSame v s (execTrap st n s))
  case ldd => exact (hv.issue s _ fun _ => hv.dataBody .. : NextSame v s (execLdd st n s))
  case std => exact (hv.issue s _ fun _ => hv.dataBody .. : NextSame v s (execStd st n s))
  case dld => exact (hv.issue s _ fun _ => hv.dataBody .. : NextSame v s (execDld st n s))
  case dst => exact (hv.issue s _ fun _ => hv.dataBody .. : NextSame v s (execDst st n s))
  case ldg => exact hv.issue s _ (hv.ldgBody s)
  case stg => exact hv.issue s _ (hv.stgBody s)
  case rdr => exact hv.issue s _ (hv.rdrBody s)
  case push => exact hv.issue s _ (hv.pushBody s)
  case waitq => exact (hv.issue s _ fun _ => .ite (hv.seqFault ..) (hv.seq ..) : NextSame v s (execWaitq st n s))
  case fence => exact (hv.issue s _ fun _ => hv.seq .. : NextSame v s (execFence st n s))
  case waitdb => exact (hv.issue s _ fun _ => hv.seq .. : NextSame v s (execWaitdb st n s))
  case waitpos => exact (hv.issue s _ fun _ => hv.seq .. : NextSame v s (execWaitpos st n s))
  case time => exact hv.issue s _ (hv.timeBody s)

end BesideSeq

end Sys2Proof.Laws
end

section
/-! O60: a command of one unit leaves the units beside it. -/

open Sys2Proof Machine Safety Laws

/-- Settles O60: each reading of a unit beside the command's own is kept by every state operation of the command, step by step of
its body. -/
theorem neighboursKept : Obligations.NeighboursKept := by
  unfold Obligations.NeighboursKept
  refine ⟨?sequencers, ?cores, ?mailboxes, ?channels⟩
  case sequencers =>
    intro s t st q c hc hw he
    exact ⟨fun i n h => (besideSeq_seq h).commands s c hc hw t he, fun _ p off hp ho hs hl hm hr hmail hwake =>
      (besideSeq_reg hp ho hs hl hm hr hmail hwake).commands s c hc hw t he⟩
  case cores =>
    intro s t r st c x cmd hc he
    exact ⟨fun i k h => (besideCore_core h).commands s r x cmd hc t he, fun i q hq h =>
      (besideCore_queue c.isLt hq h).commands s r x cmd hc t he⟩
  case mailboxes =>
    intro s t r st mb x cmd hc he i m h
    have hb : boxWord i m t = boxWord i m s := boxWord_mailboxCommands h s r x cmd hc t he
    simpa only [boxWord, Prod.mk.injEq] using hb
  case channels =>
    intro s t st ctx g c cmd hc he i k h
    exact sameChan_segmentCommands h s ctx cmd hc t he
end

section
/-! The Clasp engine's commands (R38 to R40, R51, R52): what each does in the state that lists it, and O11. -/

namespace Sys2Proof.Laws

open Machine Safety

/-! ### What each command does where it is listed -/

section
variable {s : State} {st : Fin 8}

theorem clpCmd_openStep (hs : (s.st st).clp.state = .idle) (hh : (s.st st).clp.evalHeld = false) (hm : 1 ≤ mbCount s st) :
    clpCmd s st 1 = openStep s st := by
  simp [clpCmd, hs, hh, hm]

theorem clpCmd_reduceBegin (hs : (s.st st).clp.state = .opened)
    (hc : (s.st st).clp.mbReported = mbCount s st ∨ (s.st st).clp.voidPlan = true) :
    clpCmd s st 2 = s.modClp st fun c => { c with state := .reduce } := by
  simp [clpCmd, hs, hc]

theorem clpCmd_arm (hs : (s.st st).clp.state = .reduce) (hc : votesDone s st = true ∨ (s.st st).clp.voidPlan = true) :
    clpCmd s st 3 = s.modClp st fun c => { c with state := .armed } := by
  simp [clpCmd, hs, hc]

theorem clpCmd_abandon
    (hs : (s.st st).clp.state = .opened ∨ (s.st st).clp.state = .reduce ∨ (s.st st).clp.state = .armed) :
    clpCmd s st 4 = s.modClp st fun c => { c with voidPlan := true } := by
  obtain h | h | h := hs <;> simp [clpCmd, h]

theorem clpCmd_openEval (hs : (s.st st).clp.state = .idle) (hh : (s.st st).clp.evalHeld = false) :
    clpCmd s st 5 = enterEval s st := by
  simp [clpCmd, hs, hh]

theorem clpCmd_closeEval (hs : (s.st st).clp.state = .eval) : clpCmd s st 6 = s.modClp st Clasp.idled := by
  simp [clpCmd, hs]

end

/-- A write of CLP_CMD that its requester may make carries out its command (R39). -/
theorem clpRow {s t : State} {r : Requester} {st : Fin 8} {op : Nat} (hst : s.has st = true)
    (hw : mayWrite s r (clpPage st) 0x040 = true) (h : clpCmd s st op = t) :
    (if s.has st then .next (asked s r (clpPage st) 0x040 (clpCmd s st op)) else .fault .absentStack :
      Host.Outcome State Fault Refusal) = .next t := by
  rw [if_pos hst, asked, if_pos hw, h]

/-! ### The Clasp after it -/

section
variable (s : State) (st : Fin 8)

theorem clp_openStep : ((openStep s st).st st).clp =
    { (s.st st).clp with
      state := .opened, step := (s.st st).clp.step + 1, mbReported := 0, lossMb := 0xFFFF, due := (s.st st).clp.dueNext,
      dueNext := none } := by
  simp [openStep, startKs]

theorem clp_enterEval : ((enterEval s st).st st).clp =
    { (s.st st).clp with state := .eval, evals := (s.st st).clp.evals + 1, evalNonfinite := false, mbReported := 0 } := by
  simp [enterEval, startKe]

/-- Events and doorbells leave every Clasp. -/
theorem clp_raiseEvt {p : Page} (hp : p.inst < instances p.blk) (n : Nat) (i : Fin 8) :
    ((raiseEvt s p n).st i).clp = (s.st i).clp :=
  (keptBut_raiseEvt s n hp).kind .clasp (by simp [eventKinds]) i

theorem clp_ringBits (j : Fin 8) {m : Nat} (bs : Word) (hm : m < 64) (i : Fin 8) :
    ((ringBits s j m bs).st i).clp = (s.st i).clp :=
  (keptBut_ringBits s j bs hm).kind .clasp (by decide) i

theorem clpPage_inst : (clpPage st).inst < instances (clpPage st).blk := Nat.one_pos

/-- A held evaluation event that is taken enters EVAL, and is held no more (R52). -/
theorem clp_takeEval : ((takeEval s st).st st).clp =
    { (s.st st).clp with
      state := .eval, evals := (s.st st).clp.evals + 1, evalNonfinite := false, mbReported := 0, evalHeld := false } := by
  dsimp only [takeEval]
  have hm : s.fld (clpPage st) 0x044 21 16 < 64 := bitsOf_lt _ 21 16
  rw [clp_raiseEvt _ (clpPage_inst st), clp_ringBits _ _ _ hm, clp_enterEval]
  simp

end

end Sys2Proof.Laws
end

section
open Sys2Proof Machine Safety Laws

/-- Settles O11: each command by what it does in its state, and the evaluation event by what taking it leaves. -/
theorem claspCommands : Obligations.ClaspCommands := by
  refine ⟨fun s r st hst hw => ?_, fun s st hst hs hh => ⟨_, (if_pos hst).trans (congrArg _ (if_pos ⟨hs, hh⟩)), ?_⟩⟩
  · intro c
    refine ⟨fun hs hh hm => ⟨_, clpRow hst hw (clpCmd_openStep hs hh hm), ?_⟩,
      fun hs hc => ⟨_, clpRow hst hw (clpCmd_reduceBegin hs hc), State.modClp_st_clp ..⟩,
      fun hs hc => ⟨_, clpRow hst hw (clpCmd_arm hs hc), State.modClp_st_clp ..⟩,
      fun hs => ⟨_, clpRow hst hw (clpCmd_abandon hs), State.modClp_st_clp ..⟩,
      fun hs hh => ⟨_, clpRow hst hw (clpCmd_openEval hs hh), ?_⟩,
      fun hs => ⟨_, clpRow hst hw (clpCmd_closeEval hs), ?_⟩⟩
    · simp only [clp_openStep, c, and_self]
    · simp only [clp_enterEval, c, and_self]
    · simp only [State.modClp_st_clp, Clasp.idled, c, and_self]
  · simp only [clp_takeEval, true_and]
    exact flag_raiseEvt _ _ _ (by decide)

end

section
/-! What events, faults without a tear and Locket requests leave of the Clasps and of events that stand, and the gate and the
sequences of the Clasp (R41 to R46, R65), with O13. -/

namespace Sys2Proof.Laws

open Machine Safety

/-! ### Events that stand -/

theorem flag_raiseEvt_of_flag (s : State) (p q : Page) {n m : Nat} (hn : n < 32) (h : s.flag q 0x010 m = true) :
    (raiseEvt s p n).flag q 0x010 m = true :=
  flag_lineRise_of_flag _ _ _ _ (flag_setEvt_of_flag s p q n hn h)

theorem flag_quiesceRise_of_flag (s₀ s : State) (p q : Page) {m : Nat} (h : s.flag q 0x010 m = true) :
    (quiesceRise s₀ s p).flag q 0x010 m = true := by
  unfold quiesceRise
  split
  · exact flag_raiseEvt_of_flag _ _ _ (by decide) h
  · exact h

/-! ### Faults that tear nothing -/

theorem unrecorded_clp (i : Fin 8) : Unrecorded fun s => (s.st i).clp where
  box _ _ _ _ _ := State.modBox_st_clp ..
  mail _ _ _ _ := rfl
  wake _ _ := rfl
  locket _ _ := rfl
  draw _ _ := rfl
  page _ _ _ _ := rfl

theorem clp_locketRequest (s : State) (src : Source) (order : Nat) (home : Fin 8) (code : Nat) (payload : List Byte) (i : Fin 8) :
    ((locketRequest s src order home code payload).st i).clp = (s.st i).clp :=
  (unrecorded_clp i).locketRequest ..

/-- A fault of a block that is no engine leaves every Clasp (R45). -/
theorem clp_recordFault (s : State) {p : Page} (he : isEngine p.blk = false) (cls det info addr : Nat) (i : Fin 8) :
    ((recordFault s p cls det info addr).st i).clp = (s.st i).clp := by
  rw [recordFault, if_neg (by simp [he])]
  exact (unrecorded_clp i).recordPlain (fun _ _ _ _ => rfl) ..

/-! ### The stacks of the part -/

theorem mem_stacksIn {s : State} {i : Fin 8} : i ∈ s.stacksIn ↔ s.has i = true := by
  simp [State.stacksIn]

theorem stacksIn_of_part {s t : State} (h : t.part = s.part) : t.stacksIn = s.stacksIn := by
  simp only [State.stacksIn, State.has, h]

/-- A fold in which no element of the list changes the start ends at the start. -/
theorem foldl_eq_self {α β : Type} {f : β → α → β} {b : β} {l : List α} (h : ∀ a ∈ l, f b a = b) : l.foldl f b = b := by
  induction l with
  | nil => rfl
  | cons a l ih =>
    rw [List.foldl_cons, h a (by simp)]
    exact ih fun c hc => h c (by simp [hc])

/-! ### The gate -/

/-- Every stack of the part enters a sequence after its Clasp began. -/
def gateEntered (s : State) (seq : Sequence) : State :=
  s.stacksIn.foldl (fun s i => s.modClp i fun c => { c with state := .commit, sequence := seq }) (s.stacksIn.foldl claspBegin s)

/-- The gate opens (R41, R42): no condition is missing, the step numbers are the same, no vote is late and the clocks run. -/
theorem claspGate_opens {s : State}
    (h : ∀ i : Fin 8, s.has i = true → gateMissing s i = 0 ∧ (s.st i).clp.step = (s.st 0).clp.step)
    (hv : voteLate s = false) (hc : s.clocked = true) :
    claspGate s = if stepOutcome s = 0 then commitStep (gateEntered s .commit)
      else stepRecord (gateEntered s .void) (stepOutcome s) := by
  have hm : (s.stacksIn.any fun i => gateMissing s i != 0) = false := by
    simpa [mem_stacksIn] using fun i hi => (h i hi).1
  have hd : (s.stacksIn.find? fun i => (s.st i).clp.step != (s.st 0).clp.step) = none := by
    simpa [mem_stacksIn] using fun i hi => (h i hi).2
  simp only [claspGate, hm, hd, hc, hv]
  by_cases h0 : stepOutcome s = 0 <;> simp [h0, gateEntered]

/-- Stacks enter a sequence: those listed, and those that were in it stay in it. -/
theorem clp_enterAll (seq : Sequence) {l : List (Fin 8)} {s : State} {i : Fin 8}
    (h : i ∈ l ∨ (s.st i).clp.state = .commit ∧ (s.st i).clp.sequence = seq) :
    let t := l.foldl (fun s i => s.modClp i fun c => { c with state := .commit, sequence := seq }) s
    (t.st i).clp.state = .commit ∧ (t.st i).clp.sequence = seq := by
  induction l generalizing s with
  | nil => simpa using h
  | cons a l ih =>
    refine ih ?_
    by_cases ha : a = i
    · subst ha; exact .inr (by simp)
    · rw [State.modClp_st_other _ _ _ _ ha]
      refine h.imp_left fun hi => ?_
      exact (List.mem_cons.1 hi).resolve_left (Ne.symm ha)

theorem clp_gateEntered (s : State) (seq : Sequence) {i : Fin 8} (hi : s.has i = true) :
    ((gateEntered s seq).st i).clp.state = .commit ∧ ((gateEntered s seq).st i).clp.sequence = seq :=
  clp_enterAll seq (.inl (mem_stacksIn.2 hi))

theorem part_gateEntered (s : State) (seq : Sequence) : (gateEntered s seq).part = s.part :=
  ((Kept.foldl kept_claspBegin _ _).trans (Kept.foldl (fun _ _ => kept_modClp ..) _ _)).part

/-- Stack 0's step record is requested (R65): it waits in the Locket, and every Clasp is as it was. -/
theorem stepRecord_spec (s : State) (outcome : Nat) :
    (stepRecord s outcome).mod.lkt.stepWaits = true ∧ ∀ i, ((stepRecord s outcome).st i).clp = (s.st i).clp := by
  have hu : Unrung fun s : State => s.mod.lkt.stepWaits := ⟨fun _ _ _ _ _ => rfl, fun _ _ _ _ => rfl, fun _ _ => rfl⟩
  have hk : ∀ (s : State) src order home code payload,
      (locketRequest s src order home code payload).mod.lkt.stepWaits = s.mod.lkt.stepWaits := by
    intro s src order home code payload
    unfold locketRequest
    split
    · exact hu.raiseEvt rfl
    · rfl
  exact ⟨hk .., fun i => clp_locketRequest ..⟩

/-! ### A commit with nothing to update -/

/-- Filigree's dense count and touched rows of a stack. -/
def updateWork (i : Fin 8) (s : State) : Word × Filigree := (s.reg (filPage i) 0x068, (s.st i).fil)

theorem unrung_updateWork (i : Fin 8) : Unrung (updateWork i) where
  box _ _ _ _ _ := by simp only [Same, updateWork, State.modBox_reg, State.modBox_st_fil]
  mail _ _ _ _ := by simp only [Same, updateWork, reg_setEvt_apart _ _ _ _ (show 0x068 % 4096 ≠ 0x010 by decide)]; rfl
  wake _ _ := by simp only [Same, updateWork, reg_setFlag_apart _ _ _ _ _ (show 0x068 % 4096 ≠ 0x044 % 4096 by decide)]; rfl

theorem sameWork_raiseEvt (i : Fin 8) (s : State) (p : Page) (n : Nat) : Same (updateWork i) s (raiseEvt s p n) :=
  (unrung_updateWork i).raiseEvt (by
    simp only [Same, updateWork, reg_setEvt_apart _ _ _ _ (show 0x068 % 4096 ≠ 0x010 by decide)]; rfl)

theorem sameWork_modClp (i : Fin 8) (s : State) (j : Fin 8) (f : Clasp → Clasp) : Same (updateWork i) s (s.modClp j f) := by
  simp only [Same, updateWork, State.modClp_reg, State.modClp_st_fil]

theorem sameWork_gateEntered (i : Fin 8) (s : State) (seq : Sequence) : Same (updateWork i) s (gateEntered s seq) :=
  have hb : ∀ t j, Same (updateWork i) t (claspBegin t j) := fun _ _ =>
    .ite ((sameWork_modClp ..).trans (sameWork_raiseEvt ..)) (sameWork_modClp ..)
  (Same.foldl hb _ _).trans (.foldl (fun _ _ => sameWork_modClp ..) _ _)

/-- A stack that commits has nothing to update: no dense entry and no touched row. -/
def NothingToUpdate (s : State) (i : Fin 8) : Prop := s.fld (filPage i) 0x068 15 0 = 0 ∧ (s.st i).fil.touched = []

theorem NothingToUpdate.of_same {s t : State} {i : Fin 8} (h : NothingToUpdate s i) (hs : Same (updateWork i) s t) :
    NothingToUpdate t i := by
  obtain ⟨hr, hf⟩ := Prod.mk.inj hs
  obtain ⟨hd, ht⟩ := h
  exact ⟨by rw [State.fld, hr]; exact hd, by rw [hf]; exact ht⟩

theorem denseCheck_of_nothing {s : State} {i : Fin 8} (h : NothingToUpdate s i) : denseCheck s i = none := by
  obtain ⟨hd, -⟩ := h
  simp [denseCheck, hd]

theorem issueDense_nil (st : Fin 8) (s : State) : issueDense st [] s = s := rfl
theorem issueRows_nil (st : Fin 8) (s : State) : issueRows st [] s = s := rfl

/-- The updates of a stack with none are UPDATE_DONE alone. -/
theorem commitUpdates_of_nothing {s : State} {i : Fin 8} (h : NothingToUpdate s i) (hc : (s.st i).clp.state = .commit) :
    commitUpdates s i = raiseEvt s (filPage i) 7 := by
  obtain ⟨hd, ht⟩ := h
  simp only [commitUpdates, hd, ht, List.range_zero, issueDense_nil, issueRows_nil, hc, if_true]

theorem filPage_inst (st : Fin 8) : (filPage st).inst < instances (filPage st).blk := Nat.one_pos

/-- The two passes of the gate's work over the stacks (R250, R251): the dense check, and the updates. -/
def denseGate (s : State) (i : Fin 8) : State :=
  if (s.st i).clp.state ≠ .commit then s
  else match denseCheck s i with | some e => claspFault s i e | none => s
def updateGate (s : State) (i : Fin 8) : State := if (s.st i).clp.state = .commit then commitUpdates s i else s

theorem commitStep_of_allCommit {s t u : State} (ht : s.stacksIn.foldl denseGate s = t) (hc : allCommit t = true)
    (hu : t.stacksIn.foldl updateGate t = u) (hd : allCommit u = true) : commitStep s = stepRecord u 0 := by
  have h : commitStep s = if allCommit (s.stacksIn.foldl denseGate s) = false then s.stacksIn.foldl denseGate s
    else if allCommit ((s.stacksIn.foldl denseGate s).stacksIn.foldl updateGate (s.stacksIn.foldl denseGate s)) then
      stepRecord ((s.stacksIn.foldl denseGate s).stacksIn.foldl updateGate (s.stacksIn.foldl denseGate s)) 0
    else (s.stacksIn.foldl denseGate s).stacksIn.foldl updateGate (s.stacksIn.foldl denseGate s) := rfl
  rw [h, ht, hu, hc, hd, if_neg (by decide), if_pos rfl]

theorem denseGate_of_nothing {s : State} {i : Fin 8} (h : NothingToUpdate s i) : denseGate s i = s := by
  rw [denseGate, denseCheck_of_nothing h, ite_self]

/-- The updates of stacks with none leave the part and every Clasp. -/
theorem updateGates_of_nothing {l : List (Fin 8)} {s : State} (h : ∀ i ∈ l, NothingToUpdate s i) :
    (l.foldl updateGate s).part = s.part ∧ ∀ j, ((l.foldl updateGate s).st j).clp = (s.st j).clp := by
  induction l generalizing s with
  | nil => exact ⟨rfl, fun _ => rfl⟩
  | cons a l ih =>
    rw [List.foldl_cons, updateGate]
    split
    · next hc =>
      rw [commitUpdates_of_nothing (h a (by simp)) hc]
      obtain ⟨hp, hk⟩ := ih (s := raiseEvt s (filPage a) 7) fun i hi => (h i (by simp [hi])).of_same (sameWork_raiseEvt ..)
      exact ⟨hp.trans (kept_raiseEvt ..).part, fun j => (hk j).trans (clp_raiseEvt _ (filPage_inst a) _ _)⟩
    · exact ih fun i hi => h i (by simp [hi])

/-- Stacks with nothing to update, all in COMMIT, stay in their sequence through the step's work, and the step record is
requested (R42, R65). -/
theorem commitStep_of_nothing {s : State} (h : ∀ i : Fin 8, s.has i = true → NothingToUpdate s i ∧ (s.st i).clp.state = .commit) :
    (commitStep s).mod.lkt.stepWaits = true ∧ ∀ i, ((commitStep s).st i).clp = (s.st i).clp := by
  have hall : ∀ t : State, t.part = s.part → (∀ i, (t.st i).clp = (s.st i).clp) → allCommit t = true := by
    intro t hp hc
    simpa [allCommit, stacksIn_of_part hp, hc, mem_stacksIn] using fun i hi => (h i hi).2
  have hn : ∀ i ∈ s.stacksIn, NothingToUpdate s i := fun i hi => (h i (mem_stacksIn.1 hi)).1
  obtain ⟨hp, hc⟩ := updateGates_of_nothing hn
  rw [commitStep_of_allCommit (foldl_eq_self fun i hi => denseGate_of_nothing (hn i hi)) (hall s rfl fun _ => rfl) rfl
    (hall _ hp hc)]
  obtain ⟨hr, hk⟩ := stepRecord_spec (s.stacksIn.foldl updateGate s) 0
  exact ⟨hr, fun i => (hk i).trans (hc i)⟩

/-! ### The ends of the sequences -/

/-- The Clasp after each sequence (R43, R46); `u` is what the commit's duration takes from the clock. -/
def claspCommitted (u : Nat) (c : Clasp) : Clasp := { c.idled with committed := c.step, duration := sat32 (45000 + u) }
def claspVoided (c : Clasp) : Clasp := { c.idled with duration := 24750, voidCnt := sat32 (c.voidCnt.toNat + 1) }

/-- A sequence's end where no checkpoint event waits: the Clasp is as the end makes it, the touched rows are cleared and the event
is raised. -/
theorem sequenceEnd_spec (s u : State) (st : Fin 8) (f : Clasp → Clasp) {n : Nat} (hn : n < 32)
    (hw : (f (u.st st).clp).ckptWaits = false) :
    let t := quiesceRise s (ckptAfter (raiseEvt ((clearTouched u st).modClp st f) (clpPage st) n) st) (clpPage st)
    (t.st st).clp = f (u.st st).clp ∧ (t.st st).fil.touched = [] ∧ t.flag (clpPage st) 0x010 n = true := by
  intro t
  have hclp : (((clearTouched u st).modClp st f).st st).clp = f (u.st st).clp := by
    rw [State.modClp_st_clp, clearTouched, State.modFil_st_clp]
  have hfil : (((clearTouched u st).modClp st f).st st).fil.touched = [] := by
    rw [State.modClp_st_fil, clearTouched, State.modFil_st_fil]
  have ht : t = quiesceRise s (raiseEvt ((clearTouched u st).modClp st f) (clpPage st) n) (clpPage st) := by
    dsimp only [t]
    rw [ckptAfter, if_neg]
    rw [clp_raiseEvt _ (clpPage_inst st), hclp, hw]
    decide
  have hk : KeptBut (.page .clp :: eventKinds) ((clearTouched u st).modClp st f) t := by
    rw [ht]
    exact (keptBut_raiseEvt _ n (clpPage_inst st)).trans (keptBut_quiesceRise _ _ (clpPage_inst st))
  have hkf : (t.st st).fil = (((clearTouched u st).modClp st f).st st).fil := hk.kind .filigree (by decide) st
  refine ⟨(hk.kind .clasp (by decide) st).trans hclp, by rw [hkf, hfil], ?_⟩
  rw [ht]
  exact flag_quiesceRise_of_flag _ _ _ _ (flag_raiseEvt _ _ _ hn)

/-! ### The limit of the gate -/

theorem gateMissing_lt (s : State) (st : Fin 8) : gateMissing s st < 16 := by
  have hb : ∀ b, bit b ≤ 1 := by decide
  have h0 := hb ((s.st st).clp.state != .armed)
  have h1 := hb (s.st st).clp.due.isNone
  have h2 := hb (s.st st).clp.ckptHold
  have h3 := hb (!drained s st)
  simp only [gateMissing]
  omega

/-- GATE_TIMEOUT once GATE_LIMIT beats have passed since the event's position (R41). -/
theorem execGateTimeout_of_due {s : State} {st : Fin 8} {p : DWord} (hst : s.has st = true) (hd : (s.st st).clp.due = some p)
    (hn : ¬(s.fld (clpPage st) 0x048 7 0 = 0 ∨ (s.st st).clp.timedOut = true ∨ (s.st st).clp.state = .commit ∨
      (s.st st).tns.pos.toNat < p.toNat + s.fld (clpPage st) 0x048 7 0 * 65536)) :
    execGateTimeout st s = .next
      (recordFault (s.modClp st fun c => { c with timedOut := true }) (clpPage st) 0x09 0x22 (gateMissing s st) 0) := by
  simp only [execGateTimeout, hst, hd, Option.some_or, if_true, if_neg hn]

end Sys2Proof.Laws
end

section
open Sys2Proof Machine Safety Laws

/-- Settles O13: the gate by the sequence its stacks enter, its limit by the fault, and the ends by what they leave of the Clasp. -/
theorem claspGateAndSequences : Obligations.ClaspGateAndSequences := by
  refine ⟨fun s h hv hc => ⟨fun ho => ⟨_, rfl, ?_⟩, fun ho hn => ⟨_, rfl, ?_⟩⟩, fun s st p hst => ?_,
    fun s st hst hs hw hc hk => ⟨fun hq => ⟨_, (if_pos hst).trans (congrArg _ (if_pos ⟨hs, hq, hw, hc⟩)), ?_⟩,
      fun hq => ⟨_, (if_pos hst).trans (congrArg _ (if_pos ⟨hs, hq, hw, hc⟩)), ?_⟩⟩⟩
  · rw [claspGate_opens h hv hc, if_neg ho]
    obtain ⟨hr, hk⟩ := stepRecord_spec (gateEntered s .void) (stepOutcome s)
    exact ⟨hr, fun i hi => by rw [hk]; exact clp_gateEntered s .void hi⟩
  · rw [claspGate_opens h hv hc, if_pos ho]
    obtain ⟨hr, hk⟩ := commitStep_of_nothing (s := gateEntered s .commit) fun i hi => by
      have hi : s.has i = true := by rwa [State.has, part_gateEntered] at hi
      exact ⟨NothingToUpdate.of_same (hn i hi) (sameWork_gateEntered ..), (clp_gateEntered s .commit hi).1⟩
    exact ⟨hr, fun i hi => by rw [hk]; exact clp_gateEntered s .commit hi⟩
  · intro c limit hd hl ht hs hp
    have hg := gateMissing_lt s st
    obtain ⟨hcode, hinfo⟩ := record_recordFault (s.modClp st fun c => { c with timedOut := true }) (clpPage st) 0x09 0x22
      (gateMissing s st) 0 rfl (by decide) (by decide) (by omega)
    refine ⟨_, execGateTimeout_of_due hst hd ?_, ?_, hcode, hinfo⟩
    · rintro (h | h | h | h)
      · exact hl h
      · exact absurd (ht.symm.trans h) (by decide)
      · exact hs h
      · omega
    · rw [clp_recordFault _ rfl, State.modClp_st_clp]
  · obtain ⟨hclp, htouched, hevt⟩ := sequenceEnd_spec s s.drawElapsed.2 st (claspCommitted s.drawElapsed.1.toNat) (n := 3)
      (by decide) hk
    exact ⟨congrArg Clasp.state hclp, congrArg Clasp.committed hclp, htouched, hevt⟩
  · obtain ⟨hclp, htouched, hevt⟩ := sequenceEnd_spec s s st claspVoided (n := 4) (by decide) hk
    exact ⟨congrArg Clasp.state hclp, (congrArg Clasp.committed hclp :), htouched, congrArg Clasp.voidCnt hclp, hevt⟩

end

section
/-! The Tense unit (R53 to R68): its edges, ticks and event slots, and O14. -/

namespace Sys2Proof.Laws

open Machine Safety

/-! ### What an event and a fault leave of the unit -/

section
variable (s : State) (st : Fin 8)

theorem tnsPage_inst : (tnsPage st).inst < instances (tnsPage st).blk := Nat.one_pos

theorem tns_raiseEvt (n : Nat) (i : Fin 8) : ((raiseEvt s (tnsPage st) n).st i).tns = (s.st i).tns :=
  (keptBut_raiseEvt s n (tnsPage_inst st)).kind .tense (by decide : Kind.tense ∉ .page .tns :: eventKinds) i

theorem tns_recordFault (cls det info addr : Nat) (i : Fin 8) :
    ((recordFault s (tnsPage st) cls det info addr).st i).tns = (s.st i).tns :=
  (keptBut_recordFault s cls det info addr (tnsPage_inst st)).kind .tense (by decide : Kind.tense ∉ .page .tns :: faultKinds) i

theorem slot_modSlot (t : Tense) (n : Nat) (f : Slot → Slot) : (t.modSlot n f).slot n = f (t.slot n) := by
  simp [Tense.modSlot, Tense.slot]

end

/-! ### RUN -/

section
variable (s : State) (st : Fin 8)

theorem tnsStart_spec (h : tnsRunning s st = false) :
    let t := tnsStart s st
    tnsRunning t st = true ∧ (t.st st).tns.lock = .acquiring ∧ (t.st st).tns.acq = [] := by
  intro t
  have ht : t = (s.setFlag (tnsPage st) 0x040 2 true).modTns st fun u =>
      { u with lock := .acquiring, acq := [], freewheel := 0 } := by
    simp only [t, tnsStart, h, Bool.false_eq_true, if_false]
  rw [ht]
  refine ⟨State.flag_setFlag_same s _ _ _ (by decide), ?_⟩
  simp

theorem tnsHalt_spec :
    let t := tnsHalt s st
    tnsRunning t st = false ∧ (t.st st).tns.lock = .idle ∧ (t.st st).tns.ticking = false := by
  refine ⟨State.flag_setFlag_same s _ _ _ (by decide), ?_⟩
  simp [tnsHalt]

end

/-! ### Slots at a tick -/

section
variable {s : State} {st : Fin 8}

theorem missPassed_of_noSlots (h : (s.st st).tns.slots = []) (now : Nat) : missPassed s st now = s := by
  simp [missPassed, h]

/-- A slot that is due, and the slots due at the unit's position, which start waiting (R61). -/
def slotWaiting (x : Slot) : Slot := { x with waiting := true, late := false, deferCount := 0 }
def slotDue (now : Nat) (e : Nat × Slot) : Nat × Slot :=
  if e.2.armed && !e.2.waiting && e.2.pos.toNat == now then (e.1, slotWaiting e.2) else e
def startDue (s : State) (st : Fin 8) : State :=
  s.modTns st fun t => { t with slots := t.slots.map (slotDue (s.st st).tns.pos.toNat) }

/-- Where every slot that waits wins its resource, all of them fire and none is deferred. -/
theorem evalSlots_of_winners {w : List (Nat × Slot)} (hw : ((startDue s st).st st).tns.slots.filter (fun e => e.2.waiting) = w)
    (hwin : ∀ e ∈ w, winsTick (s.st st).tns.pos.toNat w e = true) :
    evalSlots s st = (w.foldl (fireSlot st (s.st st).tns.pos.toNat) (startDue s st),
      w.map fun e => ⟨e.1, e.2.kind, e.2.target.toNat, e.2.bit, e.2.pos⟩) := by
  have hl : (w.filter fun e => !winsTick (s.st st).tns.pos.toNat w e) = [] :=
    List.filter_eq_nil_iff.2 fun e he => by simp [hwin e he]
  have he : evalSlots s st = ((w.filter (winsTick (s.st st).tns.pos.toNat w)).foldl (fireSlot st (s.st st).tns.pos.toNat)
      ((w.filter fun e => !winsTick (s.st st).tns.pos.toNat w e).foldl (deferSlot st) (startDue s st)),
      (w.filter (winsTick (s.st st).tns.pos.toNat w)).map fun e => ⟨e.1, e.2.kind, e.2.target.toNat, e.2.bit, e.2.pos⟩) := by
    subst hw; rfl
  rw [he, hl, List.filter_eq_self.2 hwin, List.foldl_nil]

/-- A unit with no slot fires none, and is as it was; so are the registers. -/
theorem evalSlots_of_noSlots (h : (s.st st).tns.slots = []) :
    let t := fireAll st (evalSlots s st)
    (t.st st).tns = (s.st st).tns ∧ ∀ p x, t.reg p x = s.reg p x := by
  have hd : ((startDue s st).st st).tns = (s.st st).tns := by
    rw [startDue, State.modTns_st_tns, h, List.map_nil, ← h]
  rw [evalSlots_of_winners (w := []) (by rw [hd, h, List.filter_nil]) (by simp)]
  exact ⟨hd, fun _ _ => rfl⟩

theorem fire_of_noPeriod {x : Slot} (hp : x.period = 0) :
    x.fire = { x with fired := true, fireCount := x.fireCount + 1, waiting := false, late := false, armed := false } := by
  simp only [Slot.fire, if_pos hp]

/-- A slot with no period that fires is disarmed, so nothing of it is missed. -/
theorem fireSlot_of_noPeriod (now : Nat) {n : Nat} {y x : Slot} (hx : (s.st st).tns.slot n = x) (hp : x.period = 0) :
    fireSlot st now s (n, y) = raiseEvt (s.modTns st fun t => t.modSlot n Slot.fire) (tnsPage st) 6 := by
  have ha : (((raiseEvt (s.modTns st fun t => t.modSlot n Slot.fire) (tnsPage st) 6).st st).tns.slot n).armed = false := by
    rw [tns_raiseEvt, State.modTns_st_tns, slot_modSlot, hx, fire_of_noPeriod hp]
  simp only [fireSlot, ha, Bool.false_eq_true, false_and, if_false]

/-- The one slot of a unit, armed at its position for a doorbell and with no period, fires and rings the doorbell (R61, R62). -/
theorem evalSlots_single {n : Nat} {x : Slot} (hs : (s.st st).tns.slots = [(n, x)]) (ha : x.armed = true) (hw : x.waiting = false)
    (hk : x.kind = 7) (hp : x.period = 0) (hm : x.target.toNat < 64) (hb : x.bit < 32) (hpos : x.pos = (s.st st).tns.pos) :
    let t := fireAll st (evalSlots s st)
    let y := (t.st st).tns.slot n
    y.armed = false ∧ y.fired = true ∧ y.fireCount = x.fireCount + 1 ∧ (t.box st x.target.toNat).db.getLsbD x.bit = true := by
  intro t y
  have hslots : ((startDue s st).st st).tns.slots = [(n, slotWaiting x)] := by simp [startDue, hs, slotDue, ha, hw, hpos]
  have hslot : ((startDue s st).st st).tns.slot n = slotWaiting x := by simp [Tense.slot, hslots, Sparse.get, Sparse.find]
  have ht : t = ringBits (raiseEvt ((startDue s st).modTns st fun t => t.modSlot n Slot.fire) (tnsPage st) 6) st x.target.toNat
      (BitVec.ofNat 32 (2 ^ x.bit)) := by
    dsimp only [t]
    rw [evalSlots_of_winners (w := [(n, slotWaiting x)]) (by rw [hslots]; rfl) (by simp [winsTick, Slot.resource, slotWaiting, hk])]
    simp only [List.foldl_cons, List.foldl_nil, fireSlot_of_noPeriod _ hslot hp, fireAll, List.map_cons, List.map_nil, fireEffect,
      slotWaiting, hk]
  have hy : y = (slotWaiting x).fire := by
    have hr : (t.st st).tns = _ := ht ▸ (keptBut_ringBits _ st _ hm).kind .tense (by decide) st
    dsimp only [y]
    rw [hr, tns_raiseEvt, State.modTns_st_tns, slot_modSlot, hslot]
  rw [hy, fire_of_noPeriod (x := slotWaiting x) hp]
  refine ⟨rfl, rfl, rfl, ?_⟩
  rw [ht, db_ringBits, if_pos ⟨rfl, rfl⟩, BitVec.getLsbD_or, BitVec.getLsbD_ofNat, Nat.testBit_two_pow_self]
  simp [hb]

end

/-! ### Ticks -/

section
variable {s : State} {st : Fin 8}

/-- The position moves at a tick edge (R55, R56). -/
def tickMoved (s : State) (st : Fin 8) : State :=
  if (s.st st).tns.tick = 65535 then beatBoundary s st else s.modTns st fun u => { u with pos := u.pos + 1 }

/-- A tick edge: the position moves, and where the unit is not LOST the slots are judged there (R55, R57, R61). -/
theorem tickEdge_of_ticking (ht : (s.st st).tns.ticking = true) :
    tickEdge s st = if (s.st st).tns.lock = .lost then (tickMoved s st, [])
      else evalSlots (missPassed (tickMoved s st) st ((tickMoved s st).st st).tns.pos.toNat) st :=
  if_neg (by simp [ht])

/-- The next position: one further inside a beat, and at its end tick 0 of the next where no number was taken; the slots stay. -/
theorem tns_tickMoved (h : (s.st st).tns.numberNext = none) :
    ((tickMoved s st).st st).tns.slots = (s.st st).tns.slots ∧
      if (s.st st).tns.tick = 65535 then
        ((tickMoved s st).st st).tns.pos = BitVec.ofNat 64 (((s.st st).tns.beat + 1) % 2 ^ 48 * 65536)
      else ((tickMoved s st).st st).tns.pos = (s.st st).tns.pos + 1 := by
  by_cases ht : (s.st st).tns.tick = 65535
  · simp [tickMoved, ht, beatBoundary, h]
  · simp [tickMoved, ht]

/-- A tick of a unit that is left with no slot only moves its position. -/
theorem tns_tick_of_noSlots (ht : (s.st st).tns.ticking = true) (h : ((tickMoved s st).st st).tns.slots = []) :
    ((tick s st).st st).tns = ((tickMoved s st).st st).tns := by
  rw [tick, tickEdge_of_ticking ht]
  split
  · rfl
  · rw [missPassed_of_noSlots h]
    exact (evalSlots_of_noSlots h).1

/-- The tick that brings the position of a unit's one slot misses nothing (R64). -/
theorem tick_single {n : Nat} {x : Slot} (ht : (s.st st).tns.ticking = true) (hl : (s.st st).tns.lock = .locked)
    (hn : (s.st st).tns.tick ≠ 65535) (hs : (s.st st).tns.slots = [(n, x)]) (hpos : x.pos = (s.st st).tns.pos + 1) :
    tick s st = fireAll st (evalSlots (s.modTns st fun u => { u with pos := u.pos + 1 }) st) := by
  have hm : tickMoved s st = s.modTns st fun u => { u with pos := u.pos + 1 } := if_neg hn
  have hp : ∀ now, now = x.pos.toNat → missPassed (tickMoved s st) st now = tickMoved s st := by
    rintro _ rfl
    simp [missPassed, hm, hs]
  rw [tick, tickEdge_of_ticking ht, if_neg (by simp [hl]), hp _ (by simp [hm, hpos]), hm]

end

/-! ### Edges -/

section
variable {s : State} {st : Fin 8} {now : Nat}

/-- A pin edge with SRC 0 reaches a unit that acquires, with no number (R53, R54). -/
theorem beatCrossing_acquiring (hp : s.mod.pwr.sleeping = false) (hsrc : tnsSrc s st = 0) (hr : tnsRunning s st = true)
    (hl : (s.st st).tns.lock = .acquiring) : beatCrossing s st now = acquireEdge s st now none := by
  cases hf : (s.st st).tns.frame <;> simp [beatCrossing, hp, hsrc, hf, tnsEdge, hr, hl]

/-- The first edge of an acquisition sets the phase, and confirms nothing (R54). -/
theorem confirmTick_first (hl : (s.st st).tns.lock = .acquiring) (ha : (s.st st).tns.acq = []) :
    ((confirmTick s (acquireEdge s st now none) st).st st).tns.acq = [now] := by
  have he : acquireEdge s st now none = s.modTns st fun u => { u with acq := [now] } := by
    simp only [acquireEdge, ha]
  simp [he, confirmTick, locksAt, hl]

/-- An edge with no number leaves the count kept in sleep (R60). -/
theorem keptCount_none : keptCount s st none = s := by
  cases h : (s.st st).tns.kept <;> simp [keptCount, h]

/-- The third edge within the window of the second confirms the acquisition, with SRC 0 at TNS_BEAT_SET (R54). -/
theorem acquireEdge_third {a b : Nat} (hsrc : tnsSrc s st = 0) (ha : (s.st st).tns.acq = [b, a])
    (hw : ((now : Int) - (b + (b - a : Nat))).natAbs * 65536 ≤ tnsWindow s st * (b - a)) :
    acquireEdge s st now none = lockAt s st now (b - a) (tnsBeatSet s st) := by
  simp only [acquireEdge, ha, hw, hsrc, if_true, keptCount_none]

/-- The unit at a confirming edge (R54). -/
def tnsLocked (now period number : Nat) (u : Tense) : Tense :=
  { u with lock := .locked, ticking := true, freewheel := 0, acq := [], base := 16 * period,
           beatStart := 16 * (now : Int), corr := 0, corrLeft := 0, corrNext := none, acceptedCur := true,
           acceptedNext := false, lastEdge := now, lastBeat := number, periodPs := BitVec.ofNat 64 period,
           pos := BitVec.ofNat 64 (number * 65536), numberNext := none, frame := none }

/-- A confirming edge of a unit with no slots: it is locked, its ticks begin at tick 0 of the beat, and LOCKED is raised (R54). -/
theorem confirmTick_lockAt (hl : (s.st st).tns.lock = .acquiring) (hs : (s.st st).tns.slots = []) (period number : Nat) :
    let t := confirmTick s (lockAt s st now period number) st
    (t.st st).tns.lock = .locked ∧ (t.st st).tns.ticking = true ∧ (t.st st).tns.pos = BitVec.ofNat 64 (number * 65536) ∧
      t.flag (tnsPage st) 0x010 3 = true := by
  intro t
  have hu : ((raiseEvt (s.modTns st (tnsLocked now period number)) (tnsPage st) 3).st st).tns =
      tnsLocked now period number (s.st st).tns := by
    rw [tns_raiseEvt, State.modTns_st_tns]
  have hlock : lockAt s st now period number = raiseEvt (s.modTns st (tnsLocked now period number)) (tnsPage st) 3 :=
    missPassed_of_noSlots ((congrArg Tense.slots hu).trans hs :) _
  obtain ⟨htns, hreg⟩ := evalSlots_of_noSlots (s := lockAt s st now period number) (st := st) (by rw [hlock, hu]; exact hs)
  have ht : t = fireAll st (evalSlots (lockAt s st now period number) st) := by
    refine if_pos ?_
    rw [locksAt, hl, hlock, hu]
    rfl
  rw [ht, htns, State.flag, hreg, hlock, hu]
  exact ⟨rfl, rfl, rfl, flag_raiseEvt _ _ _ (by decide)⟩

/-- A unit whose beat had no accepted edge goes on without one for three beats (R57). -/
theorem edgeWindowExpiry_freewheels (hst : s.has st = true) (hl : (s.st st).tns.lock = .locked ∨ (s.st st).tns.lock = .freewheel)
    (ha : (s.st st).tns.acceptedCur = false) (hn : (s.st st).tns.freewheel < 3) :
    ∃ t, execEdgeWindowExpiry st s = .next t ∧ (t.st st).tns.lock = .freewheel ∧
      (t.st st).tns.freewheel = (s.st st).tns.freewheel + 1 := by
  refine ⟨_, (if_pos hst).trans (congrArg _ ((if_pos ⟨hl, ha⟩).trans (if_neg (by omega)))), ?_⟩
  dsimp only
  split
  · rw [tns_raiseEvt, State.modTns_st_tns]
    exact ⟨rfl, rfl⟩
  · rw [State.modTns_st_tns]
    exact ⟨rfl, rfl⟩

/-- At the fourth such beat it is LOST, with BEAT_LOST recorded and LOST raised (R57). -/
theorem edgeWindowExpiry_lost (hst : s.has st = true) (hl : (s.st st).tns.lock = .locked ∨ (s.st st).tns.lock = .freewheel)
    (ha : (s.st st).tns.acceptedCur = false) (hn : ¬(s.st st).tns.freewheel < 3) :
    ∃ t, execEdgeWindowExpiry st s = .next t ∧ (t.st st).tns.lock = .lost ∧ t.fld (tnsPage st) 0x020 15 0 = 0x0901 ∧
      t.flag (tnsPage st) 0x010 5 = true := by
  refine ⟨_, (if_pos hst).trans (congrArg _ ((if_pos ⟨hl, ha⟩).trans (if_pos (by omega)))), ?_, ?_,
    flag_raiseEvt _ _ _ (by decide)⟩
  · rw [tns_raiseEvt, tns_recordFault, State.modTns_st_tns]
  · rw [State.fld, reg_raiseEvt_apart _ _ _ _ (by decide) (by decide)]
    exact fld_recordFault _ _ _ _ _ _ (tnsPage_inst st) (by decide : Kind.page .tns ∉ faultKinds) (by decide) (by decide)

end

/-! ### TNS_SLOT_CFG -/

/-- A slot armed with its staged position and period by a write of TNS_SLOT_CFG (R61, R68). -/
def slotArmed (n : Nat) (x : Slot) : Slot :=
  { x with pos := x.stagedPos, period := x.stagedPeriod, armed := true, skip := bitAt n 1, kind := bitsOf n 7 4,
           target := BitVec.ofNat 8 (bitsOf n 15 8), bit := bitsOf n 20 16, waiting := false, late := false, deferCount := 0 }

/-- A legal KIND and TARGET arm the selected slot (R61, R62). -/
theorem slotCfgWrite_legal {s : State} {st : Fin 8} {v : Word} {m : Nat} (ha : bitAt v.toNat 0 = true)
    (hk : kindTarget (bitsOf v.toNat 7 4) = some m) (ht : bitsOf v.toNat 15 8 ≤ m) :
    slotCfgWrite s st v = s.modTns st fun t => t.modSlot (s.fld (tnsPage st) 0x080 7 0) (slotArmed v.toNat) := by
  simp only [slotCfgWrite, hk, ht, ha, decide_true, Option.isSome_some, Bool.and_true, Bool.not_true, Bool.and_false,
    Bool.false_eq_true, if_true, if_false]
  rfl

end Sys2Proof.Laws
end

section
open Sys2Proof Machine Safety Laws

/-- Settles O14: each row by the lemma of its operation on the unit. -/
theorem tenseUnit : Obligations.TenseUnit := by
  refine ⟨fun s r st hst hw => ⟨fun hr => ⟨_, (if_pos hst).trans (congrArg _ (if_pos hw)), tnsStart_spec s st hr⟩,
      ⟨_, (if_pos hst).trans (congrArg _ (if_pos hw)), tnsHalt_spec s st⟩⟩,
    fun s st now hst hp hsrc hr hl => ⟨fun ha => ⟨_, if_pos hst, ?_⟩, fun b a ha _ _ hs hw => ⟨_, if_pos hst, ?_⟩⟩,
    fun s st hst hl ha => ?_, fun s st hst ht hn hs => ⟨_, if_pos hst, ?_⟩,
    fun s r st v m hst hw ha hk hm _ =>
      ⟨_, (if_pos hst).trans (congrArg _ ((if_pos hw).trans (slotCfgWrite_legal ha hk hm))), ?_⟩,
    fun s st hst hp hsrc => ⟨_, (if_pos hst).trans (congrArg _ (if_pos ⟨hp, hsrc⟩)), ?_⟩,
    fun s st n x hst ht hl hn hs ha hw hk hp hm hb hpos => ⟨_, if_pos hst, ?_⟩⟩
  · rw [beatCrossing_acquiring hp hsrc hr hl]
    exact confirmTick_first hl ha
  · rw [beatCrossing_acquiring hp hsrc hr hl, acquireEdge_third hsrc ha hw]
    exact confirmTick_lockAt hl hs _ _
  · by_cases hn : (s.st st).tns.freewheel < 3
    · obtain ⟨t, he, h⟩ := edgeWindowExpiry_freewheels hst hl ha hn
      exact ⟨t, he, (if_pos hn).mpr h⟩
    · obtain ⟨t, he, h⟩ := edgeWindowExpiry_lost hst hl ha hn
      exact ⟨t, he, (if_neg hn).mpr h⟩
  · obtain ⟨hslots, hpos⟩ := tns_tickMoved hn
    simp only [tns_tick_of_noSlots ht (hslots.trans hs)]
    exact ⟨hslots.trans hs, hpos⟩
  · have hlt : bitsOf v.toNat 15 8 < 2 ^ 8 := bitsOf_lt ..
    simp only [State.modTns_st_tns, slot_modSlot, slotArmed, BitVec.toNat_ofNat, Nat.mod_eq_of_lt hlt, and_self]
  · simp only [State.modTns_st_tns]
  · rw [tick_single ht hl hn hs hpos]
    exact evalSlots_single (by simpa using hs) ha hw hk hp hm hb (by simpa using hpos)

end

section
/-! Checkpoint streams (R49, R50, R303, R364): how a stream starts and ends, and O46. -/

namespace Sys2Proof.Laws

open Machine Safety

/-! ### What is sent -/

/-- What sending on a session reaches: the session and what left the part, the counters of the KXT page, and a seal slot's count. -/
def sendKinds : List Kind := [.sessions, .output, .page .kxt, .bezel]

theorem kxtPage_inst (st : Fin 8) : (kxtPage st).inst < instances (kxtPage st).blk := Nat.one_pos

section
variable (s : State) (st : Fin 8) (ctx : Nat)

theorem keptBut_sess (f : Session → Session) : KeptBut sendKinds s (s.modSess st ctx f) :=
  (keptBut_modSess ..).mono (by decide)

theorem keptBut_sendPacket (type : Byte) (seq : Word) (retx : Bool) (payload : List Byte) :
    KeptBut sendKinds s (sendPacket s st ctx type seq retx payload) := by
  unfold sendPacket
  exact (keptBut_sess ..).trans ((keptBut_send ..).mono (by decide))

theorem keptBut_sendData (seq : Word) (retx : Bool) (payload : List Byte) :
    KeptBut sendKinds s (sendData s st ctx seq retx payload) := by
  have h : ∀ f, KeptBut sendKinds s ((sendPacket s st ctx 0x10 seq retx payload).modSess st ctx f) := fun _ =>
    (keptBut_sendPacket ..).trans (keptBut_sess ..)
  unfold sendData
  dsimp only
  split
  · exact (h _).trans ((keptBut_countPair _ 1 (kxtPage_inst st) (by decide)).mono (by decide : [Kind.page .kxt] ⊆ sendKinds))
  · exact h _

theorem keptBut_sendOp (payload : List Byte) : KeptBut sendKinds s (sendOp s st ctx payload) := by
  unfold sendOp
  dsimp only
  split
  · exact keptBut_sess ..
  · exact (keptBut_sess ..).trans (keptBut_sendData ..)

theorem keptBut_sealOut (n opc flags : Nat) (addr : DWord) (data : List Byte) :
    KeptBut sendKinds s (sealOut s n opc flags addr data).2 := by
  dsimp only [sealOut]
  unfold State.modSlot
  split
  · exact (keptBut_modBzl ..).mono (by decide)
  · exact .refl _ s

theorem keptBut_sendCkptData (sofar : List Byte) (piece : Nat × Nat) :
    KeptBut sendKinds s (sendCkptData st ctx (s, sofar) piece).1 := by
  unfold sendCkptData
  dsimp only
  split
  · exact (keptBut_sealOut ..).trans (keptBut_sendOp ..)
  · exact keptBut_sendOp ..

theorem keptBut_sendPieces (pieces : List (Nat × Nat)) (sofar : List Byte) :
    KeptBut sendKinds s (pieces.foldl (sendCkptData st ctx) (s, sofar)).1 := by
  induction pieces generalizing s sofar with
  | nil => exact .refl _ _
  | cons p l ih => exact (keptBut_sendCkptData ..).trans (ih ..)

end

/-! ### The start of a stream -/

/-- Memory that is trained and without an error fails no read (R289, R294, R464). -/
theorem readFailure_of_sound {s : State} (hb : s.bad = []) (ht : ∀ i : Fin 8, lpddrTrained s i = true) (a n : Nat) :
    readFailure s a n = none := by
  simp [readFailure, badUnit, hb, ht]

/-- A stream that has started and sent nothing yet: it runs on session `ctx` for the committed step, holds the checkpoint regions
and has raised its event (R49, R364). -/
def streamStarted (s : State) (st : Fin 8) (ctx : Nat) (bytes : DWord) : State :=
  raiseEvt ((s.modCkpt st fun k =>
    { k with streaming := true, step := (s.st st).clp.committed, sess := ctx, bytes := bytes }).modClp st fun c =>
      { c with ckptHold := true }) (clpPage st) 6

theorem keptBut_streamStarted (s : State) (st : Fin 8) (ctx : Nat) (bytes : DWord) :
    KeptBut (.clasp :: .streams :: .page .clp :: eventKinds) s (streamStarted s st ctx bytes) :=
  ((keptBut_modCkpt ..).mono (by decide)).trans ((keptBut_modClp ..).mono (by decide))
    |>.trans ((keptBut_raiseEvt _ 6 (clpPage_inst st)).mono (by decide : Kind.page .clp :: eventKinds ⊆ _))

theorem streamStarted_spec (s : State) (st : Fin 8) (ctx : Nat) (bytes : DWord) :
    let t := streamStarted s st ctx bytes
    (t.st st).ckpt.streaming = true ∧ (t.st st).ckpt.sess = ctx ∧ (t.st st).ckpt.step = (s.st st).clp.committed ∧
      (t.st st).clp.ckptHold = true ∧ t.flag (clpPage st) 0x010 6 = true := by
  intro t
  have hk : ∀ u : State, ((raiseEvt u (clpPage st) 6).st st).ckpt = (u.st st).ckpt := fun u =>
    (keptBut_raiseEvt u 6 (clpPage_inst st)).kind .streams (by decide : Kind.streams ∉ .page .clp :: eventKinds) st
  refine ⟨?_, ?_, ?_, ?_, flag_raiseEvt _ _ _ (by decide)⟩
  · simp [t, streamStarted, hk]
  · simp [t, streamStarted, hk]
  · simp [t, streamStarted, hk]
  · simp [t, streamStarted, clp_raiseEvt _ (clpPage_inst st)]

/-- On an open session of the stack, out of sealed mode and with sound memory, a stream starts and then only sends. -/
theorem startStream_of_session {s : State} {st : Fin 8} {ctx : Nat}
    (ho : openSess s (s.fld (kxtPage st) 0x0F0 17 0) 2 = some (st, ctx)) (hs : s.mod.bzl.sealed = false) (hb : s.bad = [])
    (ht : ∀ i : Fin 8, lpddrTrained s i = true) :
    ∃ bytes, KeptBut sendKinds (streamStarted s st ctx bytes) (startStream s st) := by
  have hp : ∀ pieces : List (Nat × Nat), pieces.any (pieceBad s) = false := by
    simp [pieceBad, readFailure_of_sound hb ht]
  unfold startStream
  simp only [ho, hs, hp, ne_eq, not_true_eq_false, Bool.false_eq_true, false_and, or_self, if_false]
  exact ⟨_, (keptBut_sendOp ..).trans (keptBut_sendPieces ..) |>.trans (keptBut_sendOp ..)⟩

/-- Such a stream runs on its session for the committed step, holds the checkpoint regions and keeps memory (R49, R364). -/
theorem startStream_spec {s : State} {st : Fin 8} {ctx : Nat}
    (ho : openSess s (s.fld (kxtPage st) 0x0F0 17 0) 2 = some (st, ctx)) (hs : s.mod.bzl.sealed = false) (hb : s.bad = [])
    (ht : ∀ i : Fin 8, lpddrTrained s i = true) :
    let t := startStream s st
    (t.st st).ckpt.streaming = true ∧ (t.st st).ckpt.sess = ctx ∧ (t.st st).ckpt.step = (s.st st).clp.committed ∧
      (t.st st).clp.ckptHold = true ∧ t.flag (clpPage st) 0x010 6 = true ∧ MemoryKept s t := by
  intro t
  obtain ⟨bytes, hk⟩ := startStream_of_session ho hs hb ht
  obtain ⟨hr, hsess, hstep, hhold, hevt⟩ := streamStarted_spec s st ctx bytes
  have hckpt : (t.st st).ckpt = _ := hk.kind .streams (by decide) st
  have hclp : (t.st st).clp = _ := hk.kind .clasp (by decide) st
  have hreg : t.reg (clpPage st) 0x010 = _ :=
    hk.kind (.page .clp) (by decide) (clpPage st) rfl (clpPage_inst st) 0x010 (by decide)
  have hmem : MemoryKept (streamStarted s st ctx bytes) t := hk.kind .memory (by decide)
  have hmem₀ : MemoryKept s (streamStarted s st ctx bytes) := (keptBut_streamStarted ..).kind .memory (by decide)
  rw [hckpt, hclp, State.flag, hreg]
  exact ⟨hr, hsess, hstep, hhold, hevt, fun a => (hmem a).trans (hmem₀ a)⟩

/-! ### The end of a stream -/

section
variable (s : State) (st : Fin 8)

theorem keptBut_ckptRecord (step bytes : DWord) (status : Nat) : KeptBut faultKinds s (ckptRecord s st step bytes status) :=
  (keptBut_locketRequest ..).mono (by decide)

theorem keptBut_ckptFailed (ctx status : Nat) : KeptBut (.page .kxt :: faultKinds) s (ckptFailed s st ctx status) :=
  ((keptBut_setFld s 2 1 2 (kxtPage_inst st) (by decide)).mono (by decide : [Kind.page .kxt] ⊆ _)).trans
    (keptBut_recordFault (p := kxtPage st) _ _ _ _ _ (kxtPage_inst st))

theorem clp_ckptFailed (ctx status : Nat) (i : Fin 8) : ((ckptFailed s st ctx status).st i).clp = (s.st i).clp := by
  rw [ckptFailed, clp_recordFault _ rfl, State.setFld_st]

/-- A stream that ends runs no more and holds nothing (R49). -/
theorem endStream_spec (status : Nat) :
    ((endStream s st status).st st).ckpt.streaming = false ∧ ((endStream s st status).st st).clp.ckptHold = false := by
  have hk : ∀ (u : State) step bytes, ((ckptRecord u st step bytes status).st st).ckpt = (u.st st).ckpt := fun u step bytes =>
    (keptBut_ckptRecord u st step bytes status).kind .streams (by decide) st
  constructor
  · simp [endStream, hk]
  · simp [endStream, ckptRecord, clp_locketRequest]

theorem keptBut_endStream (status : Nat) : KeptBut (.streams :: .page .kxt :: faultKinds) s (endStream s st status) :=
  ((keptBut_modCkpt ..).mono (by decide)).trans ((keptBut_modClp ..).mono (by decide))
    |>.trans ((keptBut_ckptRecord ..).mono (by decide))

/-- An abandoned stream has ended (R50, R364). -/
theorem abandonStream_spec (status : Nat) :
    ((abandonStream s st status).st st).ckpt.streaming = false ∧ ((abandonStream s st status).st st).clp.ckptHold = false := by
  obtain ⟨hs, hh⟩ := endStream_spec s st status
  have hk : ((abandonStream s st status).st st).ckpt = ((endStream s st status).st st).ckpt :=
    (keptBut_ckptFailed ..).kind .streams (by decide) st
  exact ⟨by rw [hk, hs], by rw [abandonStream, clp_ckptFailed, hh]⟩

theorem keptBut_abandonStream (status : Nat) : KeptBut (.streams :: .page .kxt :: faultKinds) s (abandonStream s st status) :=
  (keptBut_endStream ..).trans ((keptBut_ckptFailed ..).mono (by decide))

/-- A checkpoint event discarded in TORN (R49): it is wanted no more, no stream starts and memory is kept. -/
theorem streamDiscarded_spec (step : DWord) (hn : (s.st st).ckpt.streaming = false) :
    let t := ckptFailed (ckptRecord (s.modCkpt st fun k => { k with wanted := false }) st step 0 0xFFFE) st 0 0xFFFE
    (t.st st).ckpt.wanted = false ∧ (t.st st).ckpt.streaming = false ∧ MemoryKept s t := by
  intro t
  have hk : KeptBut (.page .kxt :: faultKinds) (s.modCkpt st fun k => { k with wanted := false }) t :=
    ((keptBut_ckptRecord ..).mono (by decide)).trans (keptBut_ckptFailed ..)
  have hckpt : (t.st st).ckpt = _ := hk.kind .streams (by decide) st
  have hmem : MemoryKept _ t := hk.kind .memory (by decide)
  have hmem₀ : MemoryKept s (s.modCkpt st fun k => { k with wanted := false }) := (keptBut_modCkpt ..).kind .memory (by decide)
  rw [hckpt, State.modCkpt_st_ckpt]
  exact ⟨rfl, hn, fun a => (hmem a).trans (hmem₀ a)⟩

/-- A stream acknowledged with OK: CKPT_DONE, and LAST_OK of KXT_CKPT_STAT (R364). -/
def streamDone : State := raiseEvt ((endStream s st 0).setFld (kxtPage st) 0x0F4 2 1 1) (kxtPage st) 7

theorem keptBut_streamDone : KeptBut (.streams :: .page .kxt :: faultKinds) s (streamDone s st) :=
  (keptBut_endStream ..).trans ((keptBut_setFld _ 2 1 1 (kxtPage_inst st) (by decide)).mono (by decide : [Kind.page .kxt] ⊆ _))
    |>.trans ((keptBut_raiseEvt _ 7 (kxtPage_inst st)).mono (by decide : Kind.page .kxt :: eventKinds ⊆ _))

theorem streamDone_spec :
    let t := streamDone s st
    (t.st st).ckpt.streaming = false ∧ (t.st st).clp.ckptHold = false ∧ t.flag (kxtPage st) 0x010 7 = true ∧
      t.flag (kxtPage st) 0x0F4 1 = true := by
  intro t
  obtain ⟨hs, hh⟩ := endStream_spec s st 0
  have hk : (t.st st).ckpt = ((endStream s st 0).st st).ckpt :=
    (keptBut_raiseEvt _ 7 (kxtPage_inst st)).kind .streams (by decide : Kind.streams ∉ .page .kxt :: eventKinds) st
  refine ⟨by rw [hk, hs], ?_, flag_raiseEvt _ _ _ (by decide), ?_⟩
  · dsimp only [t, streamDone]
    rw [clp_raiseEvt _ (kxtPage_inst st), State.setFld_st, hh]
  · dsimp only [t, streamDone]
    rw [State.flag, reg_raiseEvt_apart _ _ _ _ (by decide) (by decide),
      State.reg_setFld_toNat _ _ _ _ (by decide) (by decide), bitAt, testBit_withBits _ _ _ _ _ (by decide)]
    rfl

end

/-! ### Rows -/

section
variable {s : State} {st : Fin 8}

/-- The start of a wanted checkpoint once activity 11 runs. -/
theorem checkpointStreamStart_wanted (hst : s.has st = true)
    (h : (s.st st).ckpt.wanted = true ∧ (s.st st).ckpt.streaming = false ∧ ((s.st 0).arb.run.any fun a => a.act == 11) = true) :
    ((s.st st).clp.state = .commit → execCheckpointStreamStart st s = .next s) ∧
    ((s.st st).clp.state = .torn → execCheckpointStreamStart st s = .next
      (ckptFailed (ckptRecord (s.modCkpt st fun k => { k with wanted := false }) st (s.st st).clp.step 0 0xFFFE) st 0 0xFFFE)) ∧
    ((s.st st).clp.state ≠ .commit → (s.st st).clp.state ≠ .torn → execCheckpointStreamStart st s = .next (startStream s st)) := by
  simp only [execCheckpointStreamStart, hst, h, and_self, if_true]
  refine ⟨fun hc => by rw [hc], fun hc => by rw [hc], fun hc ht => ?_⟩
  split
  · contradiction
  · contradiction
  · rfl

/-- An acknowledgement of the stream that runs. -/
theorem ckptAck_running {ctx : Nat} {step : DWord} (hr : (s.st st).ckpt.streaming = true) (hc : (s.st st).ckpt.sess = ctx)
    (hs : (s.st st).ckpt.step = step) (status : Nat) :
    ckptAck s st ctx step status = if status = 0 then streamDone s st else abandonStream s st status :=
  if_pos ⟨hr, hc, hs⟩

end

end Sys2Proof.Laws
end

section
open Sys2Proof Machine Safety Laws

/-- Settles O46: a start by the state of its Clasp, and an acknowledgement by its status. -/
theorem checkpointStreams : Obligations.CheckpointStreams := by
  refine ⟨fun s st hst hw hn ha => ?_, fun s st ctx step status hst ho hr hs hc hp =>
    ⟨_, (if_pos hst).trans (congrArg _ (if_pos ⟨ho, hr⟩)), ?_⟩⟩
  · obtain ⟨hcommit, htorn, hstart⟩ := checkpointStreamStart_wanted hst ⟨hw, hn, ha⟩
    exact ⟨fun hc => ⟨_, hcommit hc, rfl⟩, fun hc => ⟨_, htorn hc, streamDiscarded_spec s st _ hn⟩,
      fun ctx hc ht ho hsl hb htr => ⟨_, hstart hc ht, startStream_spec ho hsl hb htr⟩⟩
  · rw [ckptAck_running hs hc hp]
    by_cases h0 : status = 0
    · subst h0
      obtain ⟨hstream, hhold, hevt, hok⟩ := streamDone_spec s st
      exact ⟨hstream, hhold, (keptBut_streamDone s st).kind .memory (by decide), fun _ => ⟨hevt, hok⟩⟩
    · have hne : status.toNat ≠ 0 := fun h => h0 (BitVec.eq_of_toNat_eq h)
      rw [if_neg hne]
      obtain ⟨hstream, hhold⟩ := abandonStream_spec s st status.toNat
      exact ⟨hstream, hhold, (keptBut_abandonStream ..).kind .memory (by decide), fun h => absurd h h0⟩

end

section
/-! What memory holds after a write that meets no uncorrectable unit (R289). -/

namespace Sys2Proof.Laws

open Machine Safety

/-- A write that meets no uncorrectable unit stores every byte (R289). -/
theorem rawWrite_of_sound {s : State} {a : Nat} {bs : List Byte} (h : badUnit s a bs.length = none) :
    ∃ l, (rawWrite s a bs).1 = ({ s with bad := l } : State).setBytes a bs := by
  have hw : ∀ w ∈ s.bad, ¬(unitStart w < a + bs.length ∧ a < unitStart w + eccUnit w) := by
    simpa only [badUnit, List.find?_eq_none, Bool.and_eq_true, decide_eq_true_eq] using h
  have hall : ∀ (l : List Byte) (k : Nat) (u : State),
      (l.zipIdx k).foldl (fun (u : State) (e : Byte × Nat) => u.setByte (a + e.2) e.1) u = u.setBytes (a + k) l := by
    intro l
    induction l with
    | nil => exact fun _ _ => rfl
    | cons b l ih => exact fun k u => ih (k + 1) _
  unfold rawWrite
  split
  · exact ⟨s.bad, rfl⟩
  · refine ⟨_, (List.foldl_ext _ (fun (u : State) (e : Byte × Nat) => u.setByte (a + e.2) e.1) _ fun u e he => if_neg ?_).trans
      (hall bs 0 _)⟩
    obtain ⟨hlt, -⟩ := List.mem_zipIdx' he
    simp only [List.any_eq_true, List.mem_filter, Bool.and_eq_true, decide_eq_true_eq, not_exists, not_and]
    intro w hm h1 h2
    exact hw w hm.1 ⟨by omega, by omega⟩

theorem bytes_rawWrite {s : State} {a : Nat} {bs : List Byte} (h : badUnit s a bs.length = none) :
    (rawWrite s a bs).1.bytes a bs.length = bs := by
  obtain ⟨l, e⟩ := rawWrite_of_sound h
  rw [e]
  exact State.bytes_setBytes ..

theorem bytes_of_memoryKept {s t : State} (h : MemoryKept s t) (a n : Nat) : t.bytes a n = s.bytes a n := by
  refine List.ext_getElem (by simp [State.bytes]) fun k _ _ => ?_
  simp only [State.bytes, Sparse.getList_getElem]
  exact h (a + k)

end Sys2Proof.Laws
end

section
/-! The tiles and the queue of a matrix array (R93 to R95, R105): what the operations of its commands change, and what they
leave. -/

namespace Sys2Proof.Laws

open Machine Safety

/-! ### The tiles of a core -/

/-- A core with the tile that begins at a slot changed. -/
def onTile (slot : Nat) (f : MxTile → MxTile) (x : Machine.Core) : Machine.Core :=
  { x with tiles := x.tiles.map fun e => if e.1 = slot then (e.1, f e.2) else e }

theorem core_modTile (s : State) (st : Fin 8) (c slot : Nat) (f : MxTile → MxTile) :
    (modTile s st c slot f).core st c = onTile slot f (s.core st c) := State.core_modCore_same ..

theorem find_onTile (slot : Nat) (f : MxTile → MxTile) (x : Machine.Core) :
    Sparse.find (onTile slot f x).tiles slot = (Sparse.find x.tiles slot).map f := by
  show Sparse.find (x.tiles.map _) slot = _
  induction x.tiles with
  | nil => rfl
  | cons e l ih =>
    obtain ⟨k, t⟩ := e
    by_cases h : k = slot
    · simp [Sparse.find, h]
    · simpa [Sparse.find, h] using ih

/-- Where no tile begins at the slot, nothing changes. -/
theorem onTile_of_closed {slot : Nat} (f : MxTile → MxTile) {x : Machine.Core} (h : Sparse.find x.tiles slot = none) :
    onTile slot f x = x := by
  have key : ∀ l : Sparse MxTile, Sparse.find l slot = none → l.map (fun e => if e.1 = slot then (e.1, f e.2) else e) = l := by
    intro l
    induction l with
    | nil => exact fun _ => rfl
    | cons e l ih =>
      obtain ⟨k, t⟩ := e
      by_cases hk : k = slot
      · simp [Sparse.find, hk]
      · simpa [Sparse.find, hk] using ih
  rw [onTile, key _ h]

/-- The open tile that a slot is the first of is the one listed there (R94). -/
theorem find_of_tileAt {x : Machine.Core} {slot : Nat} {m : MxTile} (h : tileAt x slot = some (slot, m)) :
    Sparse.find x.tiles slot = some m := by
  unfold tileAt at h
  generalize x.tiles = l at h ⊢
  induction l with
  | nil => cases h
  | cons e l ih =>
    obtain ⟨k, t⟩ := e
    rw [List.find?_cons] at h
    split at h
    · cases h; simp [Sparse.find]
    · next hn =>
      have hk : k ≠ slot := by
        rintro rfl
        cases hw : t.window <;> simp [slotsFrom, hw] at hn
      rw [Sparse.find, if_neg hk]
      exact ih h

/-- A pass that starts finds its tile open (R95). -/
theorem find_of_openTile {x y : Machine.Core} {ab : Bool} {d : Desc} {m : MxTile} (h : openTile x ab d = .ok (y, m)) :
    Sparse.find y.tiles (slotOfTile ab (descBits d 0 42 40)) = some m := by
  unfold openTile at h
  dsimp only at h
  split at h
  · split at h
    · cases h
    · cases h
      exact (Sparse.find_put ..).trans (if_pos rfl)
  · split at h
    · cases h
    · next b t hat =>
      split at h
      · cases h
      · next hb =>
        cases h
        rw [not_or, not_not] at hb
        exact find_of_tileAt (hb.1 ▸ hat)

/-! ### What the operations of a command leave -/

/-- What a command of an array may change short of its queue: its core, its page, and what its events ring. -/
def arrayKinds : List Kind := .cores :: .page .mx :: eventKinds

theorem core_of_keptBut {l : List Kind} {s t : State} (h : KeptBut l s t) (hl : Kind.cores ∉ l) (st : Fin 8) (c : Nat) :
    t.core st c = s.core st c := by
  have hc : (t.st st).cores = (s.st st).cores := h.kind .cores hl st
  rw [State.core, State.core, hc]

section
variable (s : State) (st : Fin 8) (c : Fin 56)

theorem mxPage_inst : (mxPage st c.val).inst < instances (mxPage st c.val).blk := c.isLt

theorem queuePage_mx : queuePage st (mxQueue c.val) = some (mxPage st c.val) := if_pos c.isLt

theorem keptBut_mxEvt (n : Nat) : KeptBut (.page .mx :: eventKinds) s (raiseEvt s (mxPage st c.val) n) :=
  keptBut_raiseEvt s n (mxPage_inst st c)

theorem keptBut_mxCore (f : Machine.Core → Machine.Core) : KeptBut arrayKinds s (s.modCore st c.val f) :=
  (keptBut_modCore ..).mono (by decide)

theorem keptBut_modTile (slot : Nat) (f : MxTile → MxTile) : KeptBut arrayKinds s (modTile s st c.val slot f) :=
  keptBut_mxCore ..

theorem keptBut_countIssue (cyc sl : Nat) : KeptBut [.page .mx] s (countIssue s st c.val cyc sl) :=
  (keptBut_countPair _ _ (mxPage_inst st c) (by decide)).trans (keptBut_countPair _ _ (mxPage_inst st c) (by decide))

/-- Flags join the tile of a slot, and no other part of the core. -/
theorem core_joinFlags (slot : Nat) (fl : WinFlags) :
    (joinFlags s st c.val slot fl).core st c.val = onTile slot (fun t => { t with flags := t.flags.or fl }) (s.core st c.val) := by
  have he : ∀ (b : Bool) (u : State) (n : Nat),
      (if b then raiseEvt u (mxPage st c.val) n else u).core st c.val = u.core st c.val := fun b u n => by
    cases b
    · rfl
    · exact core_of_keptBut (keptBut_mxEvt u st c n) (by decide) st c.val
  unfold joinFlags
  split
  · next h => rw [onTile_of_closed _ h]
  · rw [he, he, core_modTile]

theorem keptBut_joinFlags (slot : Nat) (fl : WinFlags) : KeptBut arrayKinds s (joinFlags s st c.val slot fl) := by
  have he : ∀ (b : Bool) (u : State) (n : Nat), KeptBut arrayKinds u (if b then raiseEvt u (mxPage st c.val) n else u) :=
    fun b u n => by
      cases b
      · exact .refl _ u
      · exact (keptBut_mxEvt u st c n).mono (by decide)
  unfold joinFlags
  split
  · exact .refl _ s
  · exact (keptBut_modTile ..).trans (he ..) |>.trans (he ..)

theorem keptBut_countRepeats (slot n : Nat) : KeptBut arrayKinds s (countRepeats s st c.val slot n) := by
  unfold countRepeats
  split
  · exact .refl _ s
  · exact (keptBut_joinFlags ..).trans ((keptBut_countSat _ _ (mxPage_inst st c) (by decide)).mono (by decide : [Kind.page .mx] ⊆ _))
      |>.trans ((keptBut_mxEvt ..).mono (by decide))

/-! ### The end of a command -/

theorem keptBut_finishAt (i : Nat) (clean : Bool) :
    KeptBut (.queues :: .page .mx :: eventKinds) s (finishAt s st (mxQueue c.val) i clean) := by
  simp only [finishAt, queuePage_mx]
  exact ((keptBut_modQueue ..).mono (by decide)).trans ((keptBut_quiesceRise _ _ (mxPage_inst st c)).mono
    (by decide : Kind.page .mx :: eventKinds ⊆ _))

/-- A queue after its descriptor at place `i` has left its engine (R320). -/
theorem queue_finishAt (i : Nat) (clean : Bool) :
    (finishAt s st (mxQueue c.val) i clean).queue st c.val = leftAt (s.queue st c.val) i clean := by
  simp only [finishAt, queuePage_mx]
  exact ((keptBut_quiesceRise _ _ (mxPage_inst st c)).kind .queues (by decide : Kind.queues ∉ .page .mx :: eventKinds) st c.val).trans
    (State.queue_modQueue_same ..)

/-- A command that retires leaves its core and memory as its body left them, and its queue cleanly (R105). -/
theorem mxRetire_spec (i : Nat) :
    let t := mxRetire s st c.val i
    t.core st c.val = s.core st c.val ∧ t.queue st c.val = leftAt (s.queue st c.val) i true ∧ MemoryKept s t := by
  have hf := keptBut_finishAt s st c i true
  have he := (keptBut_mxEvt (finishAt s st (mxQueue c.val) i true) st c 3)
  have hk : KeptBut (.queues :: .page .mx :: eventKinds) s (mxRetire s st c.val i) := by
    unfold mxRetire
    dsimp only
    split
    · exact hf
    · exact hf.trans (he.mono (by decide))
  refine ⟨core_of_keptBut hk (by decide) .., ?_, hk.kind .memory (by decide)⟩
  unfold mxRetire
  dsimp only
  split
  · exact queue_finishAt ..
  · exact (he.kind .queues (by decide) st c.val).trans (queue_finishAt ..)

/-- A body that changes its core and events only, and then retires. -/
theorem mxRetire_spec_of_keptBut {u : State} (h : KeptBut arrayKinds s u) (i : Nat) :
    let t := mxRetire u st c.val i
    t.core st c.val = u.core st c.val ∧ t.queue st c.val = leftAt (s.queue st c.val) i true ∧ MemoryKept s t := by
  obtain ⟨hcore, hqueue, hmem⟩ := mxRetire_spec u st c i
  have hq : u.queue st c.val = s.queue st c.val := h.kind .queues (by decide) st c.val
  have hm : MemoryKept s u := h.kind .memory (by decide)
  exact ⟨hcore, hq ▸ hqueue, fun a => (hmem a).trans (hm a)⟩

end

/-- The command in flight of an operation stands at its place in the queue. -/
theorem entry_of_mxFirst {s : State} {st : Fin 8} {c i : Nat} {ops : List Nat} {e : Entry} (h : mxFirst s st c ops = some (e, i)) :
    (s.queue st c).entries[i]? = some e := by
  have hf : (e, i) ∈ mxFlight s st c := List.mem_of_find?_eq_some h
  exact List.mk_mem_zipIdx_iff_getElem?.1 (List.mem_of_mem_filter hf)

end Sys2Proof.Laws
end

section
/-! What the commands of a matrix array do to their core and memory: streams and their retirement (R107, R125, R135), loads
(R98), drains (R103) and frees (R104). -/

namespace Sys2Proof.Laws

open Machine Safety

/-! ### A pass issues -/

/-- A pass has issued its slices: the array holds it, and its command runs. -/
def passIssued (u : State) (st : Fin 8) (c i : Nat) (p : MxPass) : State :=
  (runAt u st (mxQueue c) i).modCore st c fun x => { x with pass := some p }

theorem passIssued_spec {s u : State} {st : Fin 8} {c : Fin 56} {i : Nat} {e : Entry} (h : KeptBut arrayKinds s u)
    (he : (s.queue st c.val).entries[i]? = some e) (p : MxPass) :
    let t := passIssued u st c.val i p
    t.core st c.val = { u.core st c.val with pass := some p } ∧
      ((t.queue st c.val).entries[i]?).map (·.st) = some .running ∧ MemoryKept s t := by
  intro t
  have hq : u.queue st c.val = s.queue st c.val := h.kind .queues (by decide) st c.val
  have ht : KeptBut (.queues :: arrayKinds) u t := ((keptBut_modQueue ..).mono (by decide)).trans ((keptBut_mxCore ..).mono (by decide))
  have hm : MemoryKept u t := ht.kind .memory (by decide)
  refine ⟨State.core_modCore_same .., ?_, fun a => (hm a).trans (h.kind .memory (by decide) a)⟩
  simp only [t, passIssued, runAt, mxQueue, State.modCore_queue, State.queue_modQueue_same, hq, List.getElem?_modify_eq, he]
  rfl

section
variable (s : State) (st : Fin 8) (c : Nat) (d : Desc)

/-- The rows that a pass feeds (R112), the slot of its tile (R96), and how its window sum goes from a tile (R125, R127). -/
def passRows : List Bool := (List.range (shapeOf (descBits d 0 44 43)).1).map fun k => (rowMask s st c d).testBit k
def passSlot : Nat := slotOfTile (abMode s st c) (descBits d 0 42 40)
def passRun (m : MxTile) : WindowRun :=
  windowRun (bitAt (descWord d 0).toNat 50 || s.flag (mxPage st c) 0x040 1) (shapeOf (descBits d 0 44 43)).2 (passRows s st c d)
    m.cells (passPlan s st c d) (s.fld (mxPage st c) 0x040 3 2) 0 m.w 0 0
/-- The cells of an FP32 pass: its slices added to the tile's in order (R135), and NONFINITE. -/
def passProducts (m : MxTile) : Sparse DWord × Bool :=
  (passPlan s st c d).slices.foldl (fun a x => fp32Slice (shapeOf (descBits d 0 44 43)).2 (passRows s st c d) x a) (m.cells, false)

end

section
variable (s : State) (st : Fin 8) (c : Fin 56) (d : Desc) (x : Machine.Core) (m : MxTile)

/-- What the attempts of a window pass count and raise before it is held (R115, R127), from the core with its tile found or
opened. -/
def windowCounted : State :=
  countRepeats (countIssue (s.modCore st c.val fun _ => x) st c.val (passRun s st c.val d m).cyc (passRun s st c.val d m).sl)
    st c.val (passSlot s st c.val d) (passRun s st c.val d m).reps

/-- What an FP32 pass leaves of its tile before it is held: its cells, and NONFINITE where a product raised it (R135). -/
def productsAdded : State :=
  let n := (passPlan s st c.val d).slices.length
  joinFlags (modTile (countIssue (s.modCore st c.val fun _ => x) st c.val (2 * n) n) st c.val (passSlot s st c.val d)
    fun t => { t with cells := (passProducts s st c.val d m).1 }) st c.val (passSlot s st c.val d)
    { nonfinite := (passProducts s st c.val d m).2 }

theorem keptBut_windowCounted : KeptBut arrayKinds s (windowCounted s st c d x m) :=
  (keptBut_mxCore ..).trans ((keptBut_countIssue ..).mono (by decide)) |>.trans (keptBut_countRepeats ..)

theorem keptBut_productsAdded : KeptBut arrayKinds s (productsAdded s st c d x m) :=
  (keptBut_mxCore ..).trans ((keptBut_countIssue ..).mono (by decide)) |>.trans (keptBut_modTile ..)
    |>.trans (keptBut_joinFlags ..)

end

section
variable {s : State} {st : Fin 8} {c : Fin 56} {d : Desc} {x : Machine.Core} {m : MxTile} {i : Nat}
  (hopen : openTile (s.core st c.val) (abMode s st c.val) d = .ok (x, m))
include hopen

/-- The tile of an FP32 pass holds the products. -/
theorem find_productsAdded : ∃ y, Sparse.find ((productsAdded s st c d x m).core st c.val).tiles (passSlot s st c.val d) = some y ∧
    y.cells = (passProducts s st c.val d m).1 := by
  have hx : ∀ n, (countIssue (s.modCore st c.val fun _ => x) st c.val (2 * n) n).core st c.val = x := fun n =>
    (core_of_keptBut (keptBut_countIssue ..) (by decide) ..).trans (State.core_modCore_same ..)
  have hf : Sparse.find x.tiles (passSlot s st c.val d) = some m := find_of_openTile hopen
  rw [productsAdded, core_joinFlags, core_modTile, hx, find_onTile, find_onTile, hf]
  exact ⟨_, rfl, rfl⟩

variable (hstart : passStartFault s st c.val d = none) (hplan : (passPlan s st c.val d).fault = none)
include hstart hplan

/-- A window pass that meets no fault is held with the result of its window sum. -/
theorem streamPass_of_window (hw : windowFmt (descBits d 0 35 32) = true) {reg : Sparse DWord} {cut nf : Bool}
    (hrun : (passRun s st c.val d m).out = .ok (reg, cut, nf)) :
    streamPass s st c.val i d = passIssued (windowCounted s st c d x m) st c.val i
      { tile := passSlot s st c.val d, window := true, w := (passRun s st c.val d m).w, reps := (passRun s st c.val d m).reps,
        acc := reg, inexact := cut, nonfinite := nf } := by
  simp only [passRun, passRows] at hrun
  simp only [streamPass, hstart, hplan, hopen, hw, if_true, hrun]
  rfl

/-- An FP32 pass that meets no fault is held once its products are added. -/
theorem streamPass_of_fp32 (hw : windowFmt (descBits d 0 35 32) = false) :
    streamPass s st c.val i d = passIssued (productsAdded s st c d x m) st c.val i { tile := passSlot s st c.val d } := by
  simp only [streamPass, hstart, hplan, hopen, hw]
  rfl

end

/-! ### The rows of the commands -/

section
variable {s : State} {st : Fin 8} {c : Fin 56} {e : Entry} {i : Nat} (hs : s.has st = true)
include hs

theorem execMxStream_of (hf : mxFirst s st c.val [1] = some (e, i)) (ha : e.st = .accepted) (hp : (s.core st c.val).pass = none)
    (hb : mxBlocked s st c.val e.desc i = false) : execMxStream st c s = .next (streamPass s st c.val i e.desc) := by
  simp only [execMxStream, hs, hf, ha, hp, hb, and_self, if_true]

theorem execMxLdb_of (hf : mxFirst s st c.val [2] = some (e, i)) (hb : mxBlocked s st c.val e.desc i = false) :
    execMxLdb st c s = .next (loadBank s st c.val i e.desc) := by
  simp only [execMxLdb, hs, hf, hb, if_true, Bool.false_eq_true, if_false]

theorem drainer_of {op : Nat} (body : State → Fin 8 → Nat → Nat → Desc → State) (hf : mxFirst s st c.val [3, 4] = some (e, i))
    (ho : descOp e.desc = op) (hb : mxBlocked s st c.val e.desc i = false) :
    drainer op body st c.val s = .next (body s st c.val i e.desc) := by
  simp only [drainer, hs, hf, ho, hb, if_true, ne_eq, not_true, Bool.false_eq_true, or_self, if_false]

end

/-! ### A pass retires -/

/-- The core and the events as MX_PASS_RETIRE leaves them. -/
def passRetired (s : State) (st : Fin 8) (c : Nat) (p : MxPass) : State :=
  joinFlags (modTile (modTile (s.modCore st c fun x => { x with pass := none }) st c p.tile fun t =>
    if p.window then retireWindow t p else t) st c p.tile fun t => { t with drained := false }) st c p.tile
    { inexact := p.inexact, nonfinite := p.nonfinite }

section
variable (s : State) (st : Fin 8) (c : Fin 56) (p : MxPass)

theorem execMxPassRetire_of_pass (hs : s.has st = true) (hp : (s.core st c.val).pass = some p) {e : Entry} {i : Nat}
    (hf : mxFirst s st c.val [1] = some (e, i)) :
    execMxPassRetire st c s = .next (mxRetire (passRetired s st c.val p) st c.val i) := by
  simp only [execMxPassRetire, hs, hf, hp, if_true]
  rfl

theorem keptBut_passRetired : KeptBut arrayKinds s (passRetired s st c.val p) :=
  (keptBut_mxCore ..).trans (keptBut_modTile ..) |>.trans (keptBut_modTile ..) |>.trans (keptBut_joinFlags ..)

theorem core_passRetired : (passRetired s st c.val p).core st c.val =
    onTile p.tile (fun t => { t with flags := t.flags.or { inexact := p.inexact, nonfinite := p.nonfinite } })
      (onTile p.tile (fun t => { t with drained := false }) (onTile p.tile (fun t => if p.window then retireWindow t p else t)
        { s.core st c.val with pass := none })) := by
  rw [passRetired, core_joinFlags, core_modTile, core_modTile, State.core_modCore_same]

/-- The array is empty, and the tile holds the pass where it is one of a window. -/
theorem passRetired_spec :
    let x := (passRetired s st c.val p).core st c.val
    x.pass = none ∧ ∀ m, Sparse.find (s.core st c.val).tiles p.tile = some m →
      ∃ y, Sparse.find x.tiles p.tile = some y ∧ y.drained = false ∧ y.window = m.window ∧
        if p.window then y.w = p.w ∧ y.cells = (passCells m.cells p.reps p.acc).1 else y.w = m.w ∧ y.cells = m.cells := by
  intro x
  have hx : x = _ := core_passRetired s st c p
  refine ⟨by rw [hx]; rfl, fun m hm => ?_⟩
  rw [hx, find_onTile, find_onTile, find_onTile, hm]
  refine ⟨_, rfl, rfl, ?_⟩
  cases p.window
  · exact ⟨rfl, rfl, rfl⟩
  · exact ⟨rfl, rfl, rfl⟩

end

/-! ### A bank is loaded -/

/-- The bank that a load fills: the bytes of its panel (R98). -/
def loadedBank (s : State) (st : Fin 8) (c : Nat) (d : Desc) : MxBank :=
  { valid := true, fmt := descBits d 0 36 33, shape := descBits d 0 38 37, rows := descBits d 1 28 16,
    data := s.bytes (panelBase st c + descBits d 1 15 0 * 16)
      (panelBytes (descBits d 0 36 33) (descBits d 1 28 16) (shapeOf (descBits d 0 38 37)).2) }

/-- The core as a load leaves it: the bank is invalid while it loads (R98). -/
def bankLoaded (s : State) (st : Fin 8) (c : Nat) (d : Desc) : State :=
  modBank (modBank s st c (descBits d 0 32 32) fun x => { x with valid := false }) st c (descBits d 0 32 32)
    fun _ => loadedBank s st c d

section
variable {s : State} {st : Fin 8} {c : Nat} {d : Desc}

/-- A load within the panel store that meets no uncorrectable word fills its bank and retires. -/
theorem loadBank_of_fits {i n : Nat} (hn : n = panelBytes (descBits d 0 36 33) (descBits d 1 28 16) (shapeOf (descBits d 0 38 37)).2)
    (hfit : descBits d 1 15 0 * 16 + n ≤ panelSize) (hb : badUnit s (panelBase st c + descBits d 1 15 0 * 16) n = none) :
    loadBank s st c i d = mxRetire (bankLoaded s st c d) st c i := by
  subst hn
  simp only [loadBank, hb]
  exact if_neg (by omega)

/-- A load fills the bank it names and leaves the other. -/
theorem banks_bankLoaded : ((bankLoaded s st c d).core st c).banks = if descBits d 0 32 32 = 0
    then (s.core st c).banks.set 0 (loadedBank s st c d) else (s.core st c).banks.set 1 (loadedBank s st c d) := by
  simp only [bankLoaded, modBank, State.core_modCore_same]
  split
  · exact Vector.set_set ..
  · exact Vector.set_set ..

end

theorem keptBut_modBank (s : State) (st : Fin 8) (c : Fin 56) (b : Nat) (f : MxBank → MxBank) :
    KeptBut arrayKinds s (modBank s st c.val b f) := keptBut_mxCore ..

theorem keptBut_bankLoaded (s : State) (st : Fin 8) (c : Fin 56) (d : Desc) : KeptBut arrayKinds s (bankLoaded s st c.val d) :=
  (keptBut_modBank ..).trans (keptBut_modBank ..)

/-! ### A tile is drained -/

theorem tileCells_length (t : MxTile) : (tileCells t).length = 4096 := Sparse.getList_length ..

theorem length_flatMap_leBytes {α : Type} (f : α → Nat) (l : List α) (k : Nat) :
    (l.flatMap fun x => leBytes (f x) k).length = l.length * k := by
  simp [List.length_flatMap]

/-- A drain writes as many bytes as its format takes (R103). -/
theorem drainData_length (t : MxTile) {dfmt : Nat} (h : dfmt ≤ 2) : (drainData t dfmt).1.length = drainBytes dfmt := by
  obtain rfl | h := h.eq_or_lt
  · rw [drainData, if_pos rfl]
    simp only [List.length_append, leBytes_length, List.length_replicate, length_flatMap_leBytes, tileCells_length]
    rfl
  · rw [drainData, if_neg h.ne]
    dsimp only
    rw [length_flatMap_leBytes, List.length_map, tileCells_length]
    obtain rfl | rfl : dfmt = 0 ∨ dfmt = 1 := by omega
    · rfl
    · rfl

/-- The tile of a slot as a drain leaves it: drained, with the flag its conversion raised, and closed with CLOSE (R103, R130). -/
def tileDrained (s : State) (st : Fin 8) (c slot : Nat) (nf close : Bool) : State :=
  let u := joinFlags (modTile s st c slot fun t => { t with drained := true }) st c slot { nonfinite := nf }
  if close then u.modCore st c fun x => { x with tiles := Sparse.del x.tiles slot } else u

theorem keptBut_tileDrained (s : State) (st : Fin 8) (c : Fin 56) (slot : Nat) (nf close : Bool) :
    KeptBut arrayKinds s (tileDrained s st c.val slot nf close) := by
  have hu := (keptBut_modTile s st c slot fun t => { t with drained := true }).trans
    (keptBut_joinFlags _ st c slot { nonfinite := nf })
  unfold tileDrained
  dsimp only
  split
  · exact hu.trans (keptBut_mxCore ..)
  · exact hu

/-- An open tile is drained, or with CLOSE is open no more. -/
theorem find_tileDrained {s : State} {st : Fin 8} {c : Fin 56} {slot : Nat} {m : MxTile}
    (h : Sparse.find (s.core st c.val).tiles slot = some m) (nf close : Bool) :
    let x := (tileDrained s st c.val slot nf close).core st c.val
    if close then Sparse.find x.tiles slot = none else (Sparse.find x.tiles slot).map (·.drained) = some true := by
  cases close
  · simp only [tileDrained, Bool.false_eq_true, if_false, core_joinFlags, core_modTile, find_onTile, h]
    rfl
  · simp only [tileDrained, if_true, State.core_modCore_same]
    exact (Sparse.find_del ..).trans (if_pos rfl)

section
variable {s : State} {st : Fin 8} {c : Nat} {d : Desc} {i slot : Nat} {m : MxTile}
  (hslot : slot = slotOfTile (abMode s st c) (descBits d 0 42 40)) (htile : tileAt (s.core st c) slot = some (slot, m))
include hslot htile

/-- A drain within the panel store of the tile it names stores its bytes, and retires. -/
theorem drainTile_of_tileAt (hw : descBits d 0 44 43 = 2 → m.window = true)
    (hfit : descBits d 1 15 0 * 16 + drainBytes (descBits d 0 44 43) ≤ panelSize) :
    let x := drainData m (descBits d 0 44 43)
    drainTile s st c i d = mxRetire (tileDrained (rawWrite s (panelBase st c + descBits d 1 15 0 * 16) x.1).1 st c slot x.2
      (bitAt (descWord d 0).toNat 45)) st c i := by
  have hgo : ¬(slot ≠ slot ∨ descBits d 0 44 43 = 2 ∧ m.window = false) := by
    rintro (h | ⟨h, h'⟩)
    · exact h rfl
    · exact Bool.false_ne_true (h'.symm.trans (hw h))
  simp only [drainTile, ← hslot, htile]
  rw [if_neg hgo, if_neg (by omega)]
  rfl

/-- A free of the tile it names closes it, and retires (R104). -/
theorem freeTile_of_tileAt : freeTile s st c i d =
    mxRetire (s.modCore st c fun x => { x with tiles := Sparse.del x.tiles slot }) st c i := by
  simp only [freeTile, ← hslot, htile, ne_eq, not_true, if_false]

end

/-! ### MX_CFG -/

/-- MX_CFG takes the value written while the page is idle with no tile open, and is kept otherwise, with CFG_IGNORED where the
value differs (R113). -/
theorem mxCfgWrite_spec (s : State) (st : Fin 8) (c : Nat) (v : Word) :
    let t := mxCfgWrite s st c v
    let n := bitsOf v.toNat 3 0
    if busy s (mxPage st c) = true ∨ (s.core st c).tiles ≠ [] then
      t.reg (mxPage st c) 0x040 = s.reg (mxPage st c) 0x040 ∧
        (n ≠ s.fld (mxPage st c) 0x040 3 0 → t.flag (mxPage st c) 0x044 4 = true)
    else t.fld (mxPage st c) 0x040 3 0 = n := by
  unfold mxCfgWrite
  dsimp only
  split
  · split
    · next hn => exact ⟨rfl, fun h => absurd hn h⟩
    · exact ⟨State.reg_setReg_other _ _ _ (by decide), fun _ => State.flag_setFlag_same _ _ _ _ (by decide)⟩
  · exact (State.fld_setFld_same _ _ _ _ (by decide) (by decide)).trans (Nat.mod_eq_of_lt (bitsOf_lt ..))

end Sys2Proof.Laws
end

section
open Sys2Proof Machine Safety Laws

/-- Settles O15: a stream by the class of its formats, and the retirement by what it makes of the core. -/
theorem matrixPass : Obligations.MatrixPass := by
  refine ⟨fun s st c e i x m hs hf ha hp hb hstart hplan hopen => ⟨fun hw reg cut nf hrun => ?_, fun hw => ?_⟩,
    fun s st c p e i hs hp hf => ⟨_, execMxPassRetire_of_pass s st c p hs hp hf, ?_⟩⟩
  · obtain ⟨hcore, hrunning, hmem⟩ := passIssued_spec (keptBut_windowCounted s st c e.desc x m) (entry_of_mxFirst hf) _
    exact ⟨_, (execMxStream_of hs hf ha hp hb).trans (congrArg _ (streamPass_of_window hopen hstart hplan hw hrun)),
      congrArg Machine.Core.pass hcore, hrunning, hmem⟩
  · obtain ⟨hcore, hrunning, hmem⟩ := passIssued_spec (keptBut_productsAdded s st c e.desc x m) (entry_of_mxFirst hf) _
    obtain ⟨y, hy, hcells⟩ := find_productsAdded hopen
    exact ⟨_, (execMxStream_of hs hf ha hp hb).trans (congrArg _ (streamPass_of_fp32 hopen hstart hplan hw)),
      congrArg Machine.Core.pass hcore, ⟨y, by rw [hcore]; exact hy, hcells⟩, hrunning, hmem⟩
  · obtain ⟨hcore, hqueue, hmem⟩ := mxRetire_spec_of_keptBut s st c (keptBut_passRetired s st c p) i
    rw [hcore]
    obtain ⟨hpass, htile⟩ := passRetired_spec s st c p
    exact ⟨hpass, hqueue, hmem, htile⟩

/-- Settles O16: each command by what its body leaves of the core, and the write of MX_CFG by its three cases. -/
theorem matrixBanksAndTiles : Obligations.MatrixBanksAndTiles := by
  refine ⟨fun s st c e i hs hf hb => fun hfit hbad => ?_,
    fun s st c e i slot m hs hf hb hslot htile => ⟨fun ho hw hfmt => fun hfit hbad => ?_, fun ho => ?_⟩,
    fun s r st c v hs hw => ⟨_, (if_pos hs).trans (congrArg _ (if_pos hw)), mxCfgWrite_spec s st c.val v⟩⟩
  · obtain ⟨hcore, hqueue, hmem⟩ := mxRetire_spec_of_keptBut s st c (keptBut_bankLoaded s st c e.desc) i
    exact ⟨_, (execMxLdb_of hs hf hb).trans (congrArg _ (loadBank_of_fits rfl hfit hbad)),
      (congrArg Machine.Core.banks hcore).trans banks_bankLoaded, hqueue, hmem⟩
  · have hlen := drainData_length m hfmt
    have hopen : ∀ a bs, Sparse.find ((rawWrite s a bs).1.core st c.val).tiles slot = some m := fun a bs => by
      rw [core_of_keptBut (keptBut_rawWrite s a bs) (by decide), find_of_tileAt htile]
    obtain ⟨hcore, hqueue, hmem⟩ := mxRetire_spec_of_keptBut _ st c (keptBut_tileDrained (rawWrite s _ _).1 st c slot _ _) i
    refine ⟨_, (drainer_of hs drainTile hf ho hb).trans (congrArg _ (drainTile_of_tileAt hslot htile hw hfit)), ?_,
      fun a ha => (hmem a).trans ?_, ?_, ?_⟩
    · rw [bytes_of_memoryKept hmem, ← hlen]
      exact bytes_rawWrite (hlen ▸ hbad)
    · exact byte_rawWrite_outside _ (by rw [hlen]; omega)
    · rw [hqueue, (keptBut_rawWrite ..).kind .queues (by decide)]
    · rw [hcore]
      exact find_tileDrained (hopen ..) ..
  · obtain ⟨hcore, hqueue, hmem⟩ := mxRetire_spec_of_keptBut s st c (keptBut_mxCore s st c _) i
    refine ⟨_, (drainer_of hs freeTile hf ho hb).trans (congrArg _ (freeTile_of_tileAt hslot htile)), ?_, hqueue, hmem⟩
    rw [hcore, State.core_modCore_same]
    exact (Sparse.find_del ..).trans (if_pos rfl)

end

section
/-! The vector chain (R137, R147 to R171): what a command leaves as it retires, and what the body of each leaves. -/

namespace Sys2Proof.Laws

open Machine Safety

/-! ### The page and the queue of a chain -/

/-- An event of a page that no doorbell reaches leaves the page's other registers. -/
theorem reg_raiseEvt_other (s : State) {p : Page} (n : Nat) (hp : p.inst < instances p.blk) (hk : Kind.page p.blk ∉ eventKinds)
    {x : Nat} (hx : x < 4096) (h : x ≠ 0x010) : (raiseEvt s p n).reg p x = s.reg p x :=
  ((keptBut_lineRise ..).kind _ hk p rfl hp x hx).trans (State.reg_setReg_other _ _ _ h)

section
variable (s : State) (st : Fin 8) (c : Fin 56)

theorem vcPage_inst : (vcPage st c.val).inst < instances (vcPage st c.val).blk := c.isLt

theorem queuePage_vc : queuePage st (vcQueue c.val) = some (vcPage st c.val) := by
  have hc := c.isLt
  rw [queuePage, if_neg (by unfold vcQueue; omega), if_pos (by unfold vcQueue; omega), vcQueue, Nat.add_sub_cancel_left, vcPage]

theorem reg_vcEvt (n : Nat) {x : Nat} (hx : x < 4096) (h : x ≠ 0x010) :
    (raiseEvt s (vcPage st c.val) n).reg (vcPage st c.val) x = s.reg (vcPage st c.val) x :=
  reg_raiseEvt_other s n (vcPage_inst st c) (by decide : Kind.page .vc ∉ eventKinds) hx h

theorem keptBut_vcEvt (n : Nat) : KeptBut (.page .vc :: eventKinds) s (raiseEvt s (vcPage st c.val) n) :=
  keptBut_raiseEvt s n (vcPage_inst st c)

/-! ### The end of a command -/

/-- A command that retires leaves its core, memory and the registers of its page but its events, and its queue cleanly (R164). -/
theorem vcRetire_spec :
    let t := vcRetire s st c.val
    t.core st c.val = s.core st c.val ∧ t.queue st (vcQueue c.val) = leftFirst (s.queue st (vcQueue c.val)) true ∧
      t.mem = s.mem ∧ MemoryKept s t ∧ ∀ x < 4096, x ≠ 0x010 → t.reg (vcPage st c.val) x = s.reg (vcPage st c.val) x := by
  intro t
  have hf : KeptBut (.queues :: .page .vc :: eventKinds) s (finish s st (vcQueue c.val) true) := keptBut_finish _ _ _ (queuePage_vc st c)
  have he := keptBut_vcEvt (finish s st (vcQueue c.val) true) st c 3
  have ht : KeptBut (.queues :: .page .vc :: eventKinds) s t := hf.trans (he.mono (by decide))
  refine ⟨core_of_keptBut ht (by decide) .., (he.kind .queues (by decide) ..).trans (queue_finish _ _ _ (queuePage_vc st c)),
    Eq.trans (unrung_mem.raiseEvt rfl) (mem_finish ..), ht.kind .memory (by decide), fun x hx h => ?_⟩
  refine (reg_vcEvt _ st c 3 hx h).trans ?_
  simp only [finish, queuePage_vc, quiesceRise]
  split
  · exact reg_vcEvt _ st c 1 hx h
  · rfl

/-- A body that changes neither its queue nor memory, and then retires. -/
theorem vcRetire_spec_of_keptBut {l : List Kind} {u : State} (h : KeptBut l s u) (hq : Kind.queues ∉ l) (hm : Kind.memory ∉ l) :
    let t := vcRetire u st c.val
    t.core st c.val = u.core st c.val ∧ t.queue st (vcQueue c.val) = leftFirst (s.queue st (vcQueue c.val)) true ∧ MemoryKept s t := by
  obtain ⟨hcore, hqueue, -, hmem, -⟩ := vcRetire_spec u st c
  have hqu : u.queue st (vcQueue c.val) = s.queue st (vcQueue c.val) := h.kind .queues hq st _
  have hmu : MemoryKept s u := h.kind .memory hm
  exact ⟨hcore, hqu ▸ hqueue, fun a => (hmem a).trans (hmu a)⟩

/-! ### Reseeding and VC_STICKY -/

theorem keptBut_reseed : KeptBut (.cores :: .page .rng :: eventKinds) s (reseed s st c.val) :=
  ((keptBut_modCore ..).mono (by decide)).trans
    ((keptBut_raiseEvt (p := stackPage st .rng c.val) _ 5 c.isLt).mono (by decide : Kind.page .rng :: eventKinds ⊆ _))

theorem core_reseed : (reseed s st c.val).core st c.val = { s.core st c.val with lanes := [], reseedWaits := false } :=
  (core_of_keptBut (keptBut_raiseEvt (p := stackPage st .rng c.val) _ 5 c.isLt)
    (by decide : Kind.cores ∉ .page .rng :: eventKinds) ..).trans (State.core_modCore_same ..)

/-- A reseed that waited leaves the vector registers, memory, the queue and the chain's page. -/
theorem lateReseed_spec :
    let t := lateReseed s st c.val
    (t.core st c.val).vregs = (s.core st c.val).vregs ∧ t.queue st (vcQueue c.val) = s.queue st (vcQueue c.val) ∧ t.mem = s.mem ∧
      ∀ x < 4096, t.reg (vcPage st c.val) x = s.reg (vcPage st c.val) x := by
  unfold lateReseed
  split
  · have hk := keptBut_reseed s st c
    exact ⟨(congrArg Machine.Core.vregs (core_reseed s st c)).trans rfl, hk.kind .queues (by decide) .., unrung_mem.raiseEvt rfl,
      hk.kind (.page .vc) (by decide) _ rfl (vcPage_inst st c)⟩
  · exact ⟨rfl, rfl, rfl, fun _ _ => rfl⟩

theorem keptBut_stickyJoin (k : Nat) : KeptBut (.page .vc :: eventKinds) s (stickyJoin s st c.val k) := by
  refine .trans ((keptBut_setReg s _ (vcPage_inst st c) (by decide)).mono (by decide : [Kind.page .vc] ⊆ _)) (.foldl (fun u x => ?_) _ _)
  split
  · exact keptBut_vcEvt ..
  · exact .refl _ u

/-- VC_STICKY takes the conditions (R168). -/
theorem reg_stickyJoin (k : Nat) : (stickyJoin s st c.val k).reg (vcPage st c.val) 0x044 =
    BitVec.ofNat 32 ((s.reg (vcPage st c.val) 0x044).toNat ||| k) :=
  .trans (Same.foldl (v := (·.reg (vcPage st c.val) 0x044))
    (fun _ _ => .ite (reg_vcEvt _ st c _ (by decide) (by decide)) (.refl _)) _ _) (State.reg_setReg_same ..)

end

/-! ### The rows of the commands -/

theorem vcRow_of {s : State} {st : Fin 8} {c op : Nat} {e : Entry} (body : State → Fin 8 → Nat → Entry → State)
    (hs : s.has st = true) (h : vcHead s st c op = some e) : vcRow op body st c s = .next (body s st c e) := by
  simp only [vcRow, hs, h, if_true]

end Sys2Proof.Laws
end

section
/-! A RUN (R147 to R165): what its body leaves of its queue and of the count of elements. -/

namespace Sys2Proof.Laws

open Machine Safety

/-- The queue of a chain, and VC_ELEM_CNT. -/
def chainProgress (st : Fin 8) (c : Nat) (s : State) : Queue × Nat := (s.queue st (vcQueue c), s.pair (vcPage st c) 0x054)

theorem pair_setPair (s : State) (p : Page) (off n : Nat) : (s.setPair p off n).pair p off = n % 2 ^ 64 := by
  rw [State.pair, State.setPair, State.reg_setReg_same, State.reg_setReg_other _ _ _ (by omega), State.reg_setReg_same,
    BitVec.toNat_ofNat, BitVec.toNat_ofNat]
  omega

/-- A loss report reaches the Clasp, and its page by an event or a fault (R38, R40). -/
theorem keptBut_lossReport (s : State) (st : Fin 8) (w : Word) : KeptBut faultKinds s (lossReport s st w) := by
  have hm : ∀ (s : State) f, KeptBut faultKinds s (s.modClp st f) := fun s f => (keptBut_modClp s st f).mono (by decide)
  have he : ∀ s : State, KeptBut faultKinds s (raiseEvt s (clpPage st) 5) := fun s =>
    (keptBut_raiseEvt (p := clpPage st) s 5 Nat.one_pos).mono (by decide : Kind.page .clp :: eventKinds ⊆ _)
  unfold lossReport
  dsimp only
  split
  · exact (keptBut_recordFault (p := clpPage st) s _ _ _ _ Nat.one_pos).mono (by decide : Kind.page .clp :: faultKinds ⊆ _)
  · split
    · exact hm ..
    · split
      · exact (hm ..).trans (hm ..)
      · refine .trans ?_ (he _)
        split
        · exact (hm ..).trans (hm ..)
        · exact (hm ..).trans (hm ..) |>.trans (hm ..)

section
variable {s t : State} (st : Fin 8) (c : Fin 56)

theorem sameProgress_of_keptBut {l : List Kind} (h : KeptBut l s t) (hq : Kind.queues ∉ l) (hp : Kind.page .vc ∉ l) :
    Same (chainProgress st c.val) s t := by
  have hr := h.kind (.page .vc) hp (vcPage st c.val) rfl (vcPage_inst st c)
  exact Prod.ext (h.kind .queues hq ..)
    (congrArg₂ (fun a b : Word => a.toNat + 2 ^ 32 * b.toNat) (hr 0x054 (by decide)) (hr 0x058 (by decide)))

variable (s)

theorem sameProgress_setReg {off : Nat} (x : Word) (h : off ≠ 0x054) (h' : off ≠ 0x058) :
    Same (chainProgress st c.val) s (s.setReg (vcPage st c.val) off x) :=
  Prod.ext rfl (congrArg₂ (fun a b : Word => a.toNat + 2 ^ 32 * b.toNat) (State.reg_setReg_other _ _ _ h.symm)
    (State.reg_setReg_other _ _ _ h'.symm))

theorem sameProgress_vcEvt (n : Nat) : Same (chainProgress st c.val) s (raiseEvt s (vcPage st c.val) n) :=
  (sameProgress_setReg s st c _ (by decide) (by decide)).trans (sameProgress_of_keptBut st c (keptBut_lineRise ..) (by decide) (by decide))

/-- The body of a run leaves its queue and VC_ELEM_CNT. -/
theorem sameProgress_runBody (e : Entry) (ts : List TypedStage) (src : RunSource) (upTo : Nat) (whole : Bool) :
    Same (chainProgress st c.val) s (runBody s st c.val e ts src upTo whole) := by
  have hcore : ∀ (s : State) f, Same (chainProgress st c.val) s (s.modCore st c.val f) := fun s f =>
    sameProgress_of_keptBut st c (keptBut_modCore s st c.val f) (by decide) (by decide)
  unfold runBody
  extract_lets
  split
  extract_lets
  split
  next s1 s2 _ _ _ _ =>
  extract_lets s3 s4 s5
  have h1 : Same (chainProgress st c.val) s s1 := sameProgress_of_keptBut st c
    (keptBut_countPair (p := stackPage st .rng c.val) _ _ c.isLt (by decide)) (by decide : Kind.queues ∉ [.page .rng])
    (by decide : Kind.page .vc ∉ [.page .rng])
  have h2 : Same (chainProgress st c.val) s s2 := .ite h1 (h1.trans (hcore ..))
  have h3 : Same (chainProgress st c.val) s s3 := by
    unfold s3
    split
    · exact h2.trans (.foldl (fun _ _ => sameProgress_of_keptBut st c (keptBut_rawWrite ..) (by decide) (by decide)) _ _)
    · exact h2.trans (hcore ..)
    · exact .ite (h2.trans (sameProgress_of_keptBut st c (keptBut_lossReport ..) (by decide) (by decide))
        |>.trans (sameProgress_setReg _ st c _ (by decide) (by decide)) |>.trans (sameProgress_vcEvt ..)) h2
  have h4 : Same (chainProgress st c.val) s s4 :=
    .ite (h3.trans (sameProgress_of_keptBut st c (keptBut_joinFlags ..) (by decide) (by decide))) h3
  have h5 : Same (chainProgress st c.val) s s5 := h4.trans (sameProgress_setReg _ st c _ (by decide) (by decide))
    |>.trans (.foldl (fun _ _ => .ite (sameProgress_vcEvt ..) (.refl _)) _ _)
  exact .ite (h5.trans (.foldl (fun _ _ => hcore ..) _ _)) h5

end

section
variable {s : State} {st : Fin 8} {c : Fin 56} {e : Entry} {ts : List TypedStage}

/-- A RUN whose chain and areas pass the checks, that nothing holds and that meets no uncorrectable word runs whole. -/
theorem vcRun_of_sound (hcheck : checkRun (s.core st c.val) e.desc = .ok ts) (hstart : runStartFault s st c.val e.desc ts = none)
    (hheld : runHeld s st c.val e.desc ts = false) (hbad : (runSource s st c.val e.desc (s.core st c.val).vl).bad = none)
    (hstale : runMask e.desc = true → runDst e.desc = 0 → badUnit s (panelBase st c.val + descBits e.desc 1 47 32 * 16)
      (streamBytes (runDfmt e.desc) (s.core st c.val).vl) = none) :
    vcRun s st c.val e = lateReseed (vcRetire (runBody (s.countPair (vcPage st c.val) 0x054 (s.core st c.val).vl) st c.val e ts
      (runSource s st c.val e.desc (s.core st c.val).vl) (s.core st c.val).vl true) st c.val) st c.val := by
  by_cases hmask : runMask e.desc = true ∧ runDst e.desc = 0
  · simp only [vcRun, hcheck, hstart, hheld, hbad, if_pos hmask, hstale hmask.1 hmask.2, Option.map_none, Bool.false_eq_true, if_false]
  · simp only [vcRun, hcheck, hstart, hheld, hbad, if_neg hmask, Bool.false_eq_true, if_false]

end

end Sys2Proof.Laws
end

section
/-! SETCHAIN (R137), SAVE (R166) and RESTORE (R167): what each leaves of the core, memory and the chain's page. -/

namespace Sys2Proof.Laws

open Machine Safety

/-! ### Slots -/

/-- A SETCHAIN fills the slot that it names and no other. -/
theorem chain_setSlot (x : Machine.Core) {i : Nat} (h : i < 4) (v : VcSlot) (k : Fin 4) :
    (setSlot x i v).chain[k] = if k.val = i then v else x.chain[k] := by
  simp only [setSlot, h, dif_pos, Fin.getElem_fin, Vector.getElem_set, eq_comm]

/-! ### A context saved -/

theorem slotImage_length (x : VcSlot) : (slotImage x).length = 32 := by
  simp only [slotImage, List.length_append, leBytes_length, length_flatMap_leBytes, Vector.length_toList, List.length_cons,
    List.length_nil, List.length_replicate]

/-- A context has 17,600 bytes (R166). -/
theorem vcContext_length (s : State) (st : Fin 8) (c : Nat) : (vcContext s st c).length = 17600 := by
  have hslots : ((s.core st c).chain.toList.flatMap slotImage).length = 128 := by
    simp [List.length_flatMap, slotImage_length]
  simp only [vcContext, List.length_append, leBytes_length, length_flatMap_leBytes, hslots, Sparse.getList_length, List.length_range,
    List.length_cons, List.length_nil, List.length_replicate]

/-- A SAVE within the panel store that nothing holds writes the context, and retires. -/
theorem vcSave_of_fits {s : State} {st : Fin 8} {c : Nat} {e : Entry} (hfit : descBits e.desc 1 15 0 * 16 + 17600 ≤ panelSize)
    (hheld : panelWriteHeld s st c (descBits e.desc 1 15 0 * 16) 17600 = false) :
    vcSave s st c e = vcRetire (rawWrite s (panelBase st c + descBits e.desc 1 15 0 * 16) (vcContext s st c)).1 st c := by
  simp only [vcSave, hheld, Nat.not_lt.2 hfit, Bool.false_eq_true, if_false]

/-! ### A context restored -/

theorem badUnit_none_of_le {s : State} {a n m : Nat} (hle : m ≤ n) (h : badUnit s a n = none) : badUnit s a m = none := by
  simp only [badUnit, List.find?_eq_none, Bool.and_eq_true, decide_eq_true_eq] at h ⊢
  exact fun w hw hm => h w hw ⟨by omega, hm.2⟩

section
variable {s : State} {st : Fin 8} {c : Nat} {e : Entry}

/-- A RESTORE accepts an image of one of the two layouts whose slots are legal, within the panel store and with no uncorrectable
word. -/
theorem vcRestore_of_accepted {fmt l v : Nat} (hlayout : fmt = 2 ∧ l = 64 ∧ v = 1024 ∨ fmt = 1 ∧ l = 32 ∧ v = 512)
    (hfit : descBits e.desc 1 15 0 * 16 + (192 + 16 * l + 16 * v) ≤ panelSize)
    (hbad : badUnit s (panelBase st c + descBits e.desc 1 15 0 * 16) (192 + 16 * l + 16 * v) = none) {bs : List Byte}
    (hbs : bs = s.bytes (panelBase st c + descBits e.desc 1 15 0 * 16) (192 + 16 * l + 16 * v))
    (hf : leNat (slice bs 0 2) = fmt) (hl : leNat (slice bs 2 2) = l) (hv : leNat (slice bs 8 2) = v) (hn : leNat (slice bs 6 2) = 4)
    (hslots : ∀ k < 4, (slotFrom (slice bs (64 + 32 * k) 32)).nstage ≤ 8 ∧
      ∀ w ∈ (slotFrom (slice bs (64 + 32 * k) 32)).words.toList, w.toNat % 16 ≤ 11) :
    vcRestore s st c e = vcRetire (restoreFrom s st c l v bs) st c := by
  have hheader : ∀ i, i + 2 ≤ 64 →
      slice (s.bytes (panelBase st c + descBits e.desc 1 15 0 * 16) 64) i 2 = slice bs i 2 := fun i hi => by
    rw [hbs, slice_bytes _ _ _ _ _ hi, slice_bytes _ _ _ _ _ (by omega)]
  have hlegal : ((List.range 4).any fun k =>
      8 < (slotFrom (slice bs (64 + 32 * k) 32)).nstage ||
        (slotFrom (slice bs (64 + 32 * k) 32)).words.toList.any fun w => 11 < w.toNat % 16) = false := by
    simp only [List.any_eq_false, List.mem_range, Bool.or_eq_true, decide_eq_true_eq, List.any_eq_true, not_or, not_lt, not_exists,
      not_and]
    exact hslots
  simp only [vcRestore, badUnit_none_of_le (show 64 ≤ _ by omega) hbad, hheader 0 (by decide), hheader 2 (by decide),
    hheader 6 (by decide), hheader 8 (by decide), hf, hl, hv, hn, ← hbs, hbad, hlegal, hlayout,
    Nat.not_lt.2 hfit, show ¬panelSize < descBits e.desc 1 15 0 * 16 + 64 by omega, not_true, ne_eq, or_self, if_false,
    Bool.false_eq_true]

end

section
variable (s : State) (st : Fin 8) (c : Fin 56) (l v : Nat) (bs : List Byte)

/-- What a RESTORE may change short of its queue. -/
def contextKinds : List Kind := .cores :: .page .vc :: .page .rng :: eventKinds

/-- A restored context has the image's VL, and its VC_STICKY, with RNG_PORTABILITY where the lanes are seeded again (R167). -/
theorem restoreFrom_spec :
    let u := restoreFrom s st c.val l v bs
    KeptBut contextKinds s u ∧ (u.core st c.val).vl = leNat (slice bs 4 2) ∧
      if l = 64 ∧ bs.getD 10 0 = 1 then (u.reg (vcPage st c.val) 0x044).toNat = leNat (slice bs 12 4) % 256
      else u.flag (vcPage st c.val) 0x044 7 = true := by
  have hcore : ∀ (s : State) f, KeptBut contextKinds s (s.modCore st c.val f) := fun _ _ => (keptBut_modCore ..).mono (by decide)
  unfold restoreFrom
  extract_lets slots vb regs s1 s2 u
  have h2 : KeptBut contextKinds s s2 := (hcore ..).trans
    ((keptBut_setReg _ _ (vcPage_inst st c) (by decide)).mono (by decide : [Kind.page .vc] ⊆ _))
  have hvl : (s2.core st c.val).vl = leNat (slice bs 4 2) := by
    show (s1.core st c.val).vl = _
    rw [State.core_modCore_same]
  unfold u
  split
  · refine ⟨h2.trans (hcore ..), ?_, ?_⟩
    · rw [State.core_modCore_same]
      exact hvl
    · rw [State.modCore_reg, State.reg_setReg_same, BitVec.toNat_ofNat]
      exact Nat.mod_eq_of_lt (by omega)
  · refine ⟨h2.trans ((keptBut_reseed s2 st c).mono (by decide)) |>.trans
      ((keptBut_stickyJoin ..).mono (by decide : Kind.page .vc :: eventKinds ⊆ _)), ?_, ?_⟩
    · rw [core_of_keptBut (keptBut_stickyJoin ..) (by decide), core_reseed]
      exact hvl
    · rw [State.flag, reg_stickyJoin, bitAt, BitVec.toNat_ofNat, Nat.testBit_mod_two_pow, Nat.testBit_or,
        show Nat.testBit 128 7 = true by decide, Bool.or_true]
      rfl

end

end Sys2Proof.Laws
end

section
open Sys2Proof Machine Safety Laws

/-- Settles O17: each command by the lemma of its body, and by what a command leaves as it retires. -/
theorem vectorChain : Obligations.VectorChain := by
  refine ⟨fun s st c e ts hs hhead hcheck hstart hheld hbad hstale => ?_,
    fun s st c e hs => ⟨fun hhead => ?_, fun hhead => ?_⟩,
    fun s st c e hs => ⟨fun hhead hfit hheld hbad => ?_,
      fun hhead fmt l v size hlayout hsize hfit hbad hf hl hv hn hslots => ?_⟩⟩
  · refine ⟨_, (vcRow_of vcRun hs hhead).trans (congrArg _ (vcRun_of_sound hcheck hstart hheld hbad hstale)), ?_⟩
    extract_lets b
    obtain ⟨hq, hn⟩ := Prod.ext_iff.1 (sameProgress_runBody (s.countPair (vcPage st c.val) 0x054 (s.core st c.val).vl) st c e ts
      (runSource s st c.val e.desc (s.core st c.val).vl) (s.core st c.val).vl true)
    obtain ⟨hcore, hqueue, hmem, -, hreg⟩ := vcRetire_spec b st c
    obtain ⟨hvregs, hqueue', hmem', hreg'⟩ := lateReseed_spec (vcRetire b st c.val) st c
    refine ⟨?_, hmem'.trans hmem, hvregs.trans (congrArg _ hcore), hqueue'.trans (hqueue.trans (congrArg (leftFirst · true) hq))⟩
    rw [State.pair, hreg' 0x054 (by decide), hreg' 0x058 (by decide), hreg 0x054 (by decide) (by decide),
      hreg 0x058 (by decide) (by decide)]
    exact Eq.trans hn (pair_setPair ..)
  · obtain ⟨hcore, hqueue, hmem⟩ := vcRetire_spec_of_keptBut s st c (keptBut_modCore s st c.val _) (by decide) (by decide)
    refine ⟨_, vcRow_of setChain hs hhead, fun k => ?_, hqueue, hmem⟩
    rw [setChain, hcore, State.core_modCore_same]
    exact chain_setSlot _ (bitsOf_lt ..) _ k
  · obtain ⟨hcore, hqueue, hmem⟩ := vcRetire_spec_of_keptBut s st c (keptBut_modCore s st c.val _) (by decide) (by decide)
    refine ⟨_, vcRow_of setVl hs hhead, ?_, hqueue, hmem⟩
    rw [setVl, hcore, State.core_modCore_same]
  · have hlen := vcContext_length s st c.val
    obtain ⟨-, hqueue, -, hmem, -⟩ := vcRetire_spec (rawWrite s _ (vcContext s st c.val)).1 st c
    refine ⟨_, (vcRow_of vcSave hs hhead).trans (congrArg _ (vcSave_of_fits hfit hheld)), ?_, fun a ha => (hmem a).trans ?_, ?_⟩
    · rw [bytes_of_memoryKept hmem, ← hlen]
      exact bytes_rawWrite (hlen ▸ hbad)
    · exact byte_rawWrite_outside _ (by rw [hlen]; omega)
    · rw [hqueue, (keptBut_rawWrite ..).kind .queues (by decide)]
  · subst hsize
    obtain ⟨hk, hvl, hsticky⟩ := restoreFrom_spec s st c l v
      (s.bytes (panelBase st c.val + descBits e.desc 1 15 0 * 16) (192 + 16 * l + 16 * v))
    obtain ⟨hcore, hqueue, hmem⟩ := vcRetire_spec_of_keptBut s st c hk (by decide) (by decide)
    obtain ⟨-, -, -, -, hreg⟩ := vcRetire_spec (restoreFrom s st c.val l v _) st c
    refine ⟨_, (vcRow_of vcRestore hs hhead).trans (congrArg _ (vcRestore_of_accepted hlayout hfit hbad rfl hf hl hv hn hslots)),
      (congrArg _ hcore).trans hvl, ?_, hqueue, hmem⟩
    rw [State.flag, hreg 0x044 (by decide) (by decide)]
    exact hsticky

end

section
/-! What a command leaves that only stores, and what a descriptor leaves as it retires: for the queues of Bead (R264) and of the
transfer engine (R307). -/

namespace Sys2Proof.Laws

open Machine Safety

/-! ### A descriptor that retires -/

theorem queue_of_sameQueues {s u : State} (h : Same State.queues s u) (st : Fin 8) (q : Nat) : u.queue st q = s.queue st q := by
  rw [State.queue, State.queue, h]

/-- A descriptor that leaves its queue cleanly and raises its page's event 3 leaves memory as its body did. -/
theorem retired_spec (u : State) (st : Fin 8) {q : Nat} {p : Page} (hp : queuePage st q = some p) :
    let t := raiseEvt (finish u st q true) p 3
    t.mem = u.mem ∧ t.queue st q = leftFirst (u.queue st q) true ∧ t.flag p 0x010 3 = true := by
  intro t
  have hm : Same State.mem (finish u st q true) t := unrung_mem.raiseEvt rfl
  have hq : Same State.queues (finish u st q true) t := unrung_queues.raiseEvt rfl
  exact ⟨Eq.trans hm (mem_finish ..), (queue_of_sameQueues hq ..).trans (queue_finish u st true hp), flag_raiseEvt _ _ _ (by decide)⟩

/-! ### Operations that only store -/

/-- A check that a body makes first, and that ends it with nothing changed. -/
theorem Same.fst_guard {α β : Type} {v : State → α} {s : State} {c : Prop} [Decidable c] {x : β} {r : State × β}
    (h : Same v s r.1) : Same v s (if c then (s, x) else r).1 := by
  split
  · exact .refl s
  · exact h

/-- The state beside memory, its uncorrectable words and the count of the values drawn. -/
def besideStore (s : State) : State := { s with mem := [], bad := [], free := 0 }

section
variable {s u : State} (h : Same besideStore s u)
include h

theorem sameQueues_of_besideStore : Same State.queues s u :=
  (congrArg State.queues h :)

theorem st_of_besideStore (i : Fin 8) : u.st i = s.st i :=
  (congrArg (State.st · i) h :)

end

theorem sameBeside_engWrite (s : State) (st : Fin 8) (plan : Nat) (driven : Bool) (a : Nat) (bs : List Byte) :
    Same besideStore s (engWrite s st plan driven a bs).1 := same_engWrite (v := besideStore) (fun _ _ _ => rfl) ..

theorem sameBeside_tabWrite (s : State) (st : Fin 8) (plan area : Nat) (driven : Bool) (a : Nat) (bs : List Byte) :
    Same besideStore s (tabWrite s st plan area driven a bs).1 :=
  .fst_guard (.fst_guard (sameBeside_engWrite ..))

/-- A part's bytes are read, and an empty part's header draws (R240). -/
theorem sameBeside_partBytes {rd : Reader TabErr} {s u : State} {r : RgnHdr} {ps : List Nat} {es : List Listed} {bs : List Byte}
    (e : partBytes rd s r ps es = .ok (u, bs)) : Same besideStore s u := by
  cases es with
  | nil => cases e; rfl
  | cons y l =>
    obtain ⟨_, e⟩ := exists_of_bind_ok e
    obtain ⟨_, e⟩ := exists_of_bind_ok e
    cases e
    exact .refl s

theorem sameBeside_writeParts (st : Fin 8) (plan poff : Nat) (rd : Reader TabErr) (r : RgnHdr) (ps : List Nat)
    (listed : List Listed) (np : Nat) (l : List (Nat × Nat)) (s : State) :
    Same besideStore s (writeParts st plan poff rd r ps listed np l s).1 := by
  induction l generalizing s with
  | nil => exact .refl s
  | cons y l ih =>
    rw [writeParts]
    split
    · exact .refl s
    · next e =>
      have hp := sameBeside_partBytes e
      split
      · exact hp
      · dsimp only
        split
        · next e => exact hp.trans ((sameBeside_tabWrite ..).fst_of e)
        · next e => exact hp.trans ((sameBeside_tabWrite ..).fst_of e) |>.trans (ih _)

end Sys2Proof.Laws
end

section
/-! Bead (R229 to R242): the rows of its commands, and what the groups of a gather and a row from home leave. -/

namespace Sys2Proof.Laws

open Machine Safety

/-! ### The rows of the commands -/

theorem queuePage_bead (st : Fin 8) : queuePage st 0x90 = some (beadPage st) := rfl

section
variable {s : State} {st : Fin 8}

theorem tabRow_of {q op : Nat} {e : Entry} (body : State → Fin 8 → Entry → State) (hs : s.has st = true)
    (hc : s.clocked = true) (h : tabHead s st q op = some e) : tabRow q op body st s = .next (body s st e) := by
  simp only [tabRow, hs, h, hc, if_true]

/-- A BEAD command that retires leaves memory as its body did, and its queue cleanly. -/
theorem beadRetire_spec {u : State} (h : Same State.queues s u) :
    (tabRetire u st 0x90).mem = u.mem ∧ (tabRetire u st 0x90).queue st 0x90 = leftFirst (s.queue st 0x90) true := by
  obtain ⟨hm, hq, -⟩ := retired_spec u st (queuePage_bead st)
  exact ⟨hm, hq.trans (congrArg (leftFirst · true) (queue_of_sameQueues h ..))⟩

end

/-! ### Rows from home (R238) -/

/-- A row from home changes nothing but the count of the hot set's hits. -/
theorem homeRow_state {s u : State} {st : Fin 8} {t : Table} {no row : Nat} {bs : List Byte}
    (e : homeRow s st t no row = .ok (u, bs)) : u = s ∨ u = s.countSat (beadPage st) 0x06C := by
  unfold homeRow at e
  dsimp only at e
  split at e
  · split at e
    · cases e
    · split at e
      · obtain ⟨_, h⟩ := exists_of_map_ok e
        exact .inr (congrArg Prod.fst h).symm
      · obtain ⟨_, h⟩ := exists_of_map_ok e
        exact .inl (congrArg Prod.fst h).symm
  · obtain ⟨_, h⟩ := exists_of_map_ok e
    exact .inl (congrArg Prod.fst h).symm

theorem remoteRow_state {s u : State} {st home : Fin 8} {no row : Nat} {bs : List Byte}
    (e : remoteRow s st home no row = .ok (u, bs)) : u = s ∨ u = s.countSat (beadPage home) 0x06C := by
  unfold remoteRow at e
  dsimp only at e
  split at e
  · cases e
  · split at e
    · cases e
    · split at e
      · cases e
      · exact homeRow_state e

section
variable {s : State} {home src : Fin 8} {table row : Nat} (hhome : s.has home = true) (hsrc : s.has src = true)
  (hc : s.clocked = true)
include hhome hsrc hc

theorem execRemoteRowRequest_served {u : State} {bs : List Byte} (h : remoteRow s src home table row = .ok (u, bs)) :
    execRemoteRowRequest home src table row s = .next (u.send (.row home src (some bs))) := by
  simp only [execRemoteRowRequest, hhome, hsrc, hc, h, and_self, if_true, Bool.true_eq_false, if_false]

theorem execRemoteRowRequest_refused {f : TabErr} (h : remoteRow s src home table row = .error f) :
    execRemoteRowRequest home src table row s = .next (s.send (.row home src none)) := by
  simp only [execRemoteRowRequest, hhome, hsrc, hc, h, and_self, if_true, Bool.true_eq_false, if_false]

end

/-! ### The groups of a gather (R234 to R238) -/

theorem sameQueues_beadSticky (s : State) (st : Fin 8) (k : Nat) : Same State.queues s (beadSticky s st k) :=
  .ite (unrung_queues.raiseEvt rfl) rfl

theorem sameQueues_tabWrite (s : State) (st : Fin 8) (plan area : Nat) (driven : Bool) (a : Nat) (bs : List Byte) :
    Same State.queues s (tabWrite s st plan area driven a bs).1 := sameQueues_of_besideStore (sameBeside_tabWrite ..)

theorem sameQueues_gatherRow {st : Fin 8} {t : Table} {no x a : Nat} {g u : Gather} {vs : List Val}
    (e : gatherRow st t no x a g = .ok (u, vs)) : Same State.queues g.s u.s := by
  have hfetched : ∀ (s : State) (remote : Bool), Same State.queues s (if remote then (s.countPair (beadPage st) 0x058).countSat
      (beadPage st) 0x060 else s.countPair (beadPage st) 0x058) := fun _ _ => .ite rfl rfl
  have hhome : ∀ {s v : State} {p : Page}, v = s ∨ v = s.countSat p 0x06C → Same State.queues s v := by
    rintro s v p (rfl | rfl) <;> rfl
  unfold gatherRow at e
  dsimp only at e
  split at e
  · cases e
    rfl
  · split at e
    · split at e
      · cases e
      · obtain ⟨_, h⟩ := exists_of_map_ok e
        cases h
        exact hfetched g.s false
    · split at e
      · split at e
        · cases e
          exact unrung_queues.raiseEvt rfl
        · obtain ⟨_, h⟩ := exists_of_map_ok e
          cases h
          exact unrung_queues.raiseEvt rfl
      · split at e
        · cases hr : homeRow g.s st t no _ with
          | error f => rw [hr] at e; cases e
          | ok y =>
            rw [hr] at e
            cases e
            exact (hhome (homeRow_state hr)).trans (hfetched y.1 false)
        · cases hr : remoteRow g.s st _ no _ with
          | error f => rw [hr] at e; cases e
          | ok y =>
            rw [hr] at e
            cases e
            exact (hhome (remoteRow_state hr)).trans (hfetched y.1 true)

theorem sameQueues_gatherGroup (st : Fin 8) (t : Table) (no : Nat) (at_ : Nat → Nat) (l : List (Nat × Nat × Val)) (g : Gather)
    (acc : List (Val × List Val)) : Same State.queues g.s (gatherGroup st t no at_ l g acc).1.s := by
  induction l generalizing g acc with
  | nil => exact .refl g.s
  | cons y l ih =>
    unfold gatherGroup
    dsimp only
    split
    · rfl
    · next e => exact (sameQueues_gatherRow e).trans (ih ..)

theorem sameQueues_gatherGroups (st : Fin 8) (d : Desc) (t : Table) (e : Entry) (x : Indices) (ws : Array (Val × Nat))
    (mask : Array Byte) (l : List (Nat × Nat)) (i : Nat) (g : Gather) :
    Same State.queues g.s (gatherGroups st d t e x ws mask l i g).1.s := by
  induction l generalizing i g with
  | nil => exact .refl g.s
  | cons y l ih =>
    unfold gatherGroups
    extract_lets plan fed ids items
    have hgroup := sameQueues_gatherGroup st t (gatTable d) x.at_ items g []
    split
    · next eq => rw [eq] at hgroup; exact hgroup
    · next g1 rows eq =>
      rw [eq] at hgroup
      extract_lets s1 vals
      have h1 : Same State.queues g.s s1 := .ite (hgroup.trans (sameQueues_beadSticky (g1.s.countSat _ _) st 4)) hgroup
      split
      · exact h1.trans (ih (i + 1) { g1 with s := s1 })
      · split
        next bs k _ =>
        split
        split
        · exact h1
        · have hrow := fun a => h1.trans (sameQueues_beadSticky s1 st k) |>.trans (sameQueues_tabWrite _ st plan 3 false a bs)
          split
          · next eq => exact (hrow _).fst_of eq
          · next s2 eq =>
            have h2 : Same State.queues g.s s2 := (hrow _).fst_of eq
            have hpos : Same State.queues g.s (if gatCompact d = true then
                tabWrite s2 st plan 4 false (latchedArg e 4 + 4 + 4 * g1.out) (leBytes i 4) else (s2, none)).1 := by
              split
              · exact h2.trans (sameQueues_tabWrite ..)
              · exact h2
            split
            next s3 _ eq =>
            rw [eq] at hpos
            split
            · exact hpos
            · exact hpos.trans (ih (i + 1) { g1 with s := s3, out := g1.out + 1 })

/-! ### The bodies of the commands -/

section
variable {s u : State} {st : Fin 8} {e : Entry}

/-- A GATHER whose sources read, whose destination nothing holds and whose groups meet no fault retires once COMPACT's count is
written. -/
theorem gather_of_groups {x : Indices} {ws : List (Val × Nat)} {m : List Byte} {g : Gather}
    (hclash : sourceClash (latchedTable e) (gatIsrc e.desc) = false)
    (hx : readIndices s st (bindOf s (beadPage st)) (gatIsrc e.desc) (latchedArg e 0) (descBits e.desc 2 31 0)
      (descBits e.desc 2 42 32) (latchedArg e 2) = .ok x)
    (hws : readWeights s st (bindOf s (beadPage st)) (gatWsrc e.desc) (gatIsrc e.desc) (latchedArg e 1) (latchedArg e 0) x = .ok ws)
    (hm : (if gatMasked e.desc then tabRead s st (bindOf s (beadPage st)) 5 (latchedArg e 5) ((x.groups.length + 7) / 8)
      else .ok []) = .ok m)
    (hheld : gatDeal e.desc = true → dealHeld s st (latchedArg e 6) (gatPoff e.desc)
      (((x.groups.length + gatPkt e.desc - 1) / max 1 (gatPkt e.desc) + (coresOf (latchedArg e 6)).length - 1) /
        max 1 (coresOf (latchedArg e 6)).length * gatPkt e.desc * gatStride e.desc) = false)
    (hg : gatherGroups st e.desc (latchedTable e) e x ws.toArray m.toArray x.groups 0 { s := s } = (g, none))
    (hcount : (if gatCompact e.desc then tabWrite g.s st (bindOf s (beadPage st)) 4 false (latchedArg e 4) (leBytes g.out 4)
      else (g.s, none)) = (u, none)) : gather s st e = tabRetire u st 0x90 := by
  have hfree := not_and.2 fun h => Bool.eq_false_iff.1 (hheld h)
  split at hm
  · next hmask =>
    simp only [gather, hclash, hx, hws, hmask, hm, hfree, hg, hcount, Bool.false_eq_true, if_true, if_false, bind, Except.bind]
  · next hmask =>
    obtain rfl := Except.ok.inj hm
    simp only [gather, hclash, hx, hws, hmask, hfree, hg, hcount, Bool.false_eq_true, if_false, bind, Except.bind]

/-- A SPLIT of a region that reads, with a destination that nothing holds, retires once its parts are written (R240). -/
theorem split_of_parts {r : RgnHdr} {ps : List Nat} {es : List Listed}
    (hr : readRgn (tabRead s st (bindOf s (beadPage st)) 0) (latchedArg e 0) (some false) = .ok r)
    (hps : readRowptr (tabRead s st (bindOf s (beadPage st)) 0) r = .ok ps)
    (hes : readAllListed (tabRead s st (bindOf s (beadPage st)) 0) r ps ((latchedArg e 0 / 2 ^ 48 + 1) * 2 ^ 48) = .ok es)
    (hempty : r.e = 0 → r.n = 0)
    (hheld : dealHeld s st (latchedArg e 6) (gatPoff e.desc) (panelSize - gatPoff e.desc) = false)
    (hw : writeParts st (bindOf s (beadPage st)) (gatPoff e.desc) (tabRead s st (bindOf s (beadPage st)) 0) r ps es
      (coresOf (latchedArg e 6)).length (coresOf (latchedArg e 6)).zipIdx s = (u, none)) :
    Machine.split s st e = tabRetire u st 0x90 := by
  have hn : ¬(r.e = 0 ∧ r.n ≠ 0) := fun h => h.2 (hempty h.1)
  simp only [Machine.split, hheld, hr, hps, hes, hn, hw, Bool.false_eq_true, if_false, bind, Except.bind]

end

end Sys2Proof.Laws
end

section
open Sys2Proof Machine Safety Laws

/-- Settles O21: a gather and a split by their bodies, which keep the queues, and a row by what home answers. -/
theorem beadCommands : Obligations.BeadCommands := by
  refine ⟨fun s st e x ws m g hs hc hhead => ?_, fun s home src table row hhome hsrc hc => ⟨fun u bs h => ?_, fun f h => ?_⟩,
    fun s u st e r ps es hs hc hhead => ?_⟩
  · intro d plan n hclash hx hws hm hheld hg
    have hgq : Same State.queues s g.s := by
      have h := sameQueues_gatherGroups st d (latchedTable e) e x ws.toArray m.toArray x.groups 0 { s := s }
      rwa [hg] at h
    have hrow := tabRow_of gather hs hc hhead
    refine ⟨fun hcompact => ?_, fun hcompact u hu => ?_⟩
    · exact ⟨_, hrow.trans (congrArg _ (gather_of_groups hclash hx hws hm hheld hg (if_neg (by simp [d, hcompact])))),
        beadRetire_spec hgq⟩
    · exact ⟨_, hrow.trans (congrArg _ (gather_of_groups hclash hx hws hm hheld hg ((if_pos hcompact).trans hu))),
        beadRetire_spec (hgq.trans ((sameQueues_tabWrite ..).fst_of hu))⟩
  · refine ⟨_, execRemoteRowRequest_served hhome hsrc hc h, ?_⟩
    rcases remoteRow_state h with rfl | rfl <;> exact ⟨rfl, fun _ => rfl⟩
  · exact ⟨_, execRemoteRowRequest_refused hhome hsrc hc h, rfl, fun _ => rfl⟩
  · intro rd cores hr hps hes hempty hheld hw
    exact ⟨_, (tabRow_of Machine.split hs hc hhead).trans (congrArg _ (split_of_parts hr hps hes hempty hheld hw)),
      beadRetire_spec (sameQueues_of_besideStore ((sameBeside_writeParts ..).fst_of hw))⟩

end

section
/-! Readings that no fault reaches (R32, R45, R418). -/

namespace Sys2Proof.Laws

open Machine Safety

variable {α : Type} {v : State → α}

/-- A reading that sees no register, no Clasp, no doorbell and no Locket request: what a fault leaves as it was (R32, R45). -/
structure Unfaulted (v : State → α) : Prop extends Unrecorded v where
  reg : ∀ p, PageUnseen v p
  clasp : ∀ s i f, Same v s (s.modClp i f)

theorem unfaulted_mem : Unfaulted State.mem :=
  ⟨⟨unrung_mem, fun _ _ => rfl, fun _ _ => rfl, fun _ _ _ _ => rfl⟩, fun _ _ _ _ _ => rfl, fun _ _ _ => rfl⟩

theorem unfaulted_queues : Unfaulted State.queues :=
  ⟨⟨unrung_queues, fun _ _ => rfl, fun _ _ => rfl, fun _ _ _ _ => rfl⟩, fun _ _ _ _ _ => rfl, fun _ _ _ => rfl⟩

theorem unfaulted_xfrStop (st : Fin 8) : Unfaulted fun s => (s.st st).xfrStop where
  box _ _ _ _ _ := State.modBox_st_xfrStop ..
  mail _ _ _ _ := rfl
  wake _ _ := rfl
  locket _ _ := rfl
  draw _ _ := rfl
  page _ _ _ _ := rfl
  reg _ _ _ _ _ := rfl
  clasp _ _ _ := State.modClp_st_xfrStop ..

namespace Unfaulted

variable (hv : Unfaulted v) (s : State)
include hv

theorem raiseEvt (p : Page) (n : Nat) : Same v s (raiseEvt s p n) := hv.toUnrecorded.raiseEvt (hv.reg p) s n

theorem tornStack (info : Nat) (i : Fin 8) : Same v s (tornStack info s i) :=
  .ite ((hv.clasp ..).trans (hv.recordPlain (hv.reg _) ..) |>.trans (hv.raiseEvt ..)) (.refl s)

theorem recordFault (p : Page) (cls det info addr : Nat) : Same v s (recordFault s p cls det info addr) :=
  .ite ((hv.recordPlain (hv.reg p) ..).trans (.foldl (hv.tornStack · _) _ _)) (hv.recordPlain (hv.reg p) ..)

theorem countUe (a : Nat) : Same v s (countUe s a) := by
  unfold Machine.countUe
  dsimp only
  split
  · exact (hv.reg _ _ _ _ (by decide)).trans (hv.raiseEvt ..)
  · exact (hv.reg _ _ _ _ (by decide)).trans (hv.raiseEvt ..)
  · exact .refl s

theorem memFault (p : Page) (e : MemErr) (eccDet low eccHigh : Nat) : Same v s (memFault s p e eccDet low eccHigh) := by
  cases e with
  | region => exact hv.recordFault ..
  | ecc => exact (hv.countUe ..).trans (hv.recordFault ..)

/-- A descriptor that leaves its queue, for a reading that does not see the queue. -/
theorem finish (hq : ∀ s st q f, Same v s (s.modQueue st q f)) (st : Fin 8) (q : Nat) (clean : Bool) :
    Same v s (finish s st q clean) := by
  unfold Machine.finish
  dsimp only
  split
  · exact (hq ..).trans (.ite (hv.raiseEvt ..) (.refl _))
  · exact hq ..

end Unfaulted

end Sys2Proof.Laws
end

section
/-! The transfer engine (R304 to R307): every operation only stores, and what a descriptor leaves of its channel. -/

namespace Sys2Proof.Laws

open Machine Safety

/-! ### The operations only store -/

theorem sameBeside_xfrWrite (s : State) (st : Fin 8) (a : Nat) (bs : List Byte) : Same besideStore s (xfrWrite s st a bs).1 :=
  .fst_guard (.fst_guard (sameBeside_engWrite ..))

theorem sameBeside_xfrCopy (s : State) (st : Fin 8) (d : Desc) : Same besideStore s (xfrCopy s st d).1 :=
  .fst_guard (.fst_guard (.fst_guard (.fst_guard (same_copyPieces _ _ (fun _ _ _ => sameBeside_xfrWrite ..) ..))))

theorem sameBeside_fillPieces (st : Fin 8) (pat : List Byte) (k dst n : Nat) (s : State) :
    Same besideStore s (fillPieces st pat k dst n s).1 := by
  induction k generalizing dst n s with
  | zero => exact .refl s
  | succ k ih =>
    unfold fillPieces
    dsimp only
    split
    · exact .refl s
    · split
      · next e => exact (sameBeside_xfrWrite ..).fst_of e
      · next e => exact ((sameBeside_xfrWrite ..).fst_of e).trans (ih ..)

theorem sameBeside_xfrFill (s : State) (st : Fin 8) (d : Desc) : Same besideStore s (xfrFill s st d).1 :=
  .fst_guard (.fst_guard (sameBeside_fillPieces ..))

theorem sameBeside_eachTile (st : Fin 8) (body : State → Nat → Nat → Except (MetaErr TabErr) (List Byte × Nat))
    (k t src dst : Nat) (s : State) : Same besideStore s (eachTile st body k t src dst s).1 := by
  induction k generalizing t src dst s with
  | zero => exact .refl s
  | succ k ih =>
    unfold eachTile
    split
    · exact .refl s
    · split
      · next e => exact (sameBeside_xfrWrite ..).fst_of e
      · next e => exact ((sameBeside_xfrWrite ..).fst_of e).trans (ih ..)

theorem sameBeside_tileRun (s : State) (st : Fin 8) (d : Desc) (alignS alignD : Nat)
    (body : State → Nat → Nat → Except (MetaErr TabErr) (List Byte × Nat)) :
    Same besideStore s (tileRun s st d alignS alignD body).1 :=
  .fst_guard (.fst_guard (.fst_guard (sameBeside_eachTile ..)))

theorem sameBeside_xfrWrites (st : Fin 8) (l : List (Nat × List Byte)) (s : State) :
    Same besideStore s (xfrWrites st l s).1 := by
  induction l generalizing s with
  | nil => exact .refl s
  | cons y l ih =>
    unfold xfrWrites
    split
    · next e => exact (sameBeside_xfrWrite ..).fst_of e
    · next e => exact ((sameBeside_xfrWrite ..).fst_of e).trans (ih _)

theorem sameBeside_appendTiles (st : Fin 8) (r : RgnHdr) (k t src e n off : Nat) (s : State) :
    Same besideStore s (appendTiles st r k t src e n off s).1 := by
  induction k generalizing t src e n off s with
  | zero => exact .refl s
  | succ k ih =>
    unfold appendTiles
    split
    · exact .refl s
    · split
      · exact ih ..
      · refine .fst_guard (.fst_guard ?_)
        split
        · next e => exact (sameBeside_xfrWrites ..).fst_of e
        · next e => exact ((sameBeside_xfrWrites ..).fst_of e).trans (ih ..)

theorem sameBeside_xfrToRegion (s : State) (st : Fin 8) (d : Desc) : Same besideStore s (xfrToRegion s st d).1 := by
  unfold xfrToRegion
  extract_lets rd prep
  clear_value prep
  refine .fst_guard (.fst_guard (.fst_guard ?_))
  split
  · exact .refl s
  next r off =>
  have hcum : Same besideStore s (if r.e = 0 then xfrWrite s st r.cum (leBytes 0 8) else (s, none)).1 := by
    split
    · exact sameBeside_xfrWrite ..
    · exact .refl s
  split
  · next e => exact hcum.fst_of e
  · next e =>
    have h1 := hcum.fst_of e
    split
    · next e => exact h1.trans ((sameBeside_appendTiles ..).fst_of e)
    · next e => exact h1.trans ((sameBeside_appendTiles ..).fst_of e) |>.trans (sameBeside_xfrWrites ..)

theorem sameBeside_xfrFromRegion (s : State) (st : Fin 8) (d : Desc) : Same besideStore s (xfrFromRegion s st d).1 := by
  unfold xfrFromRegion
  extract_lets rd prep
  have hprep : ∀ {u bs}, prep = .ok (u, bs) → Same besideStore s u := by
    intro u bs e
    obtain ⟨_, e⟩ := exists_of_bind_ok e
    obtain ⟨_, e⟩ := exists_of_bind_ok e
    obtain ⟨_, e⟩ := exists_of_bind_ok e
    split at e
    · exact sameBeside_partBytes e
    · obtain ⟨_, e⟩ := exists_of_bind_ok e
      cases e
      exact .refl s
  clear_value prep
  refine .fst_guard (.fst_guard (.fst_guard ?_))
  split
  · exact .refl s
  · exact (hprep rfl).trans (sameBeside_xfrWrite ..)

theorem sameBeside_xfrTilecopy (s : State) (st : Fin 8) (d : Desc) : Same besideStore s (xfrTilecopy s st d).1 := by
  unfold xfrTilecopy
  split
  · refine .fst_guard (.fst_guard ?_)
    split
    · exact .refl s
    · exact sameBeside_xfrWrites ..
  · exact sameBeside_tileRun ..

/-! ### A channel and its head -/

theorem queuePage_xfr (st ch : Fin 8) : queuePage st (xfrQueue ch.val) = some (xfrPage st) := by
  fin_cases ch <;> rfl

section
variable {op : Nat} {body : State → Fin 8 → Desc → State × Option TabErr} {s u : State} {st ch : Fin 8} {e : Entry}
  (hs : s.has st = true) (hq : (s.queue st (xfrQueue ch.val)).first = some e)
  (hgo : e.st = .accepted ∧ descOp e.desc = op ∧ s.clocked = true ∧ (s.st st).xfrStop.getLsbD ch.val = false ∧
    xfrHeld s st (xfrSrc e.desc) (xfrExtent e.desc).1 false = false ∧
    xfrHeld s st (xfrDst e.desc) (xfrExtent e.desc).2 true = false)
include hs hq hgo

theorem xfrRow_of_done (hb : body s st e.desc = (u, none)) :
    xfrRow_ op body st ch s = .next (raiseEvt (finish u st (xfrQueue ch.val) true) (xfrPage st) 3) := by
  simp only [xfrRow_, hs, hq, hgo, hb, and_self, if_true]

theorem xfrRow_of_fault {f : TabErr} (hb : body s st e.desc = (u, some f)) :
    xfrRow_ op body st ch s = .next (xfrFault u st ch.val e.desc f) := by
  simp only [xfrRow_, hs, hq, hgo, hb, and_self, if_true]

end

section
variable {s u : State} (st ch : Fin 8) (h : Same besideStore s u)
include h

/-- A descriptor that meets no fault leaves its channel cleanly, and DONE (R305). -/
theorem xfrDone_spec :
    let t := raiseEvt (finish u st (xfrQueue ch.val) true) (xfrPage st) 3
    t.mem = u.mem ∧ (t.st st).xfrStop = (s.st st).xfrStop ∧ t.flag (xfrPage st) 0x010 3 = true ∧
      t.queue st (xfrQueue ch.val) = leftFirst (s.queue st (xfrQueue ch.val)) true := by
  intro t
  obtain ⟨hm, hq, hd⟩ := retired_spec u st (queuePage_xfr st ch)
  have hx := unfaulted_xfrStop st
  have ht : (t.st st).xfrStop = (u.st st).xfrStop := (hx.finish u (fun _ _ _ _ => rfl) ..).trans (hx.raiseEvt ..)
  exact ⟨hm, ht.trans (congrArg _ (st_of_besideStore h st)), hd,
    hq.trans (congrArg (leftFirst · true) (queue_of_sameQueues (sameQueues_of_besideStore h) ..))⟩

/-- A descriptor that meets a fault leaves its channel uncleanly, and the channel stopped, with no other (R307). -/
theorem xfrFault_spec (d : Desc) (f : TabErr) :
    let t := xfrFault u st ch.val d f
    t.mem = u.mem ∧ (t.st st).xfrStop = (s.st st).xfrStop ||| BitVec.ofNat 8 (2 ^ ch.val) ∧
      t.queue st (xfrQueue ch.val) = leftFirst (s.queue st (xfrQueue ch.val)) false := by
  unfold xfrFault
  extract_lets p s1 t
  have hf : ∀ {α : Type} {v : State → α}, Unfaulted v → Same v u s1 := fun hv => by
    unfold s1
    split
    · exact hv.recordFault ..
    · exact hv.memFault ..
  have hx := unfaulted_xfrStop st
  have hstop : ((finish s1 st (xfrQueue ch.val) false).st st).xfrStop = (u.st st).xfrStop :=
    (hf hx).trans (hx.finish s1 (fun _ _ _ _ => rfl) ..)
  refine ⟨(mem_finish ..).trans (hf unfaulted_mem), ?_, ?_⟩
  · rw [State.st_modSt_same, hstop, st_of_besideStore h]
  · rw [State.modSt_queue, queue_finish s1 st false (queuePage_xfr st ch),
      queue_of_sameQueues ((sameQueues_of_besideStore h).trans (hf unfaulted_queues))]

end

end Sys2Proof.Laws
end

section
open Sys2Proof Machine Safety Laws

/-- Settles O27: each operation by its row, as every body only stores. -/
theorem transferCommands : Obligations.TransferCommands := by
  intro s u st ch e hs hc hq ha hrun hsrc hdst good stopped runs
  have hruns : ∀ {op c body}, exec c s = xfrRow_ op body st ch s → (∀ s st d, Same besideStore s (body s st d).1) →
      runs op c body := fun hrow hstores hop => by
    have hu : ∀ {f}, _ = (u, f) → Same besideStore s u := fun hb => (hstores s st e.desc).fst_of hb
    exact ⟨fun hb => ⟨_, hrow.trans (xfrRow_of_done hs hq ⟨ha, hop, hc, hrun, hsrc, hdst⟩ hb), xfrDone_spec st ch (hu hb)⟩,
      fun f hb => ⟨_, hrow.trans (xfrRow_of_fault hs hq ⟨ha, hop, hc, hrun, hsrc, hdst⟩ hb),
        xfrFault_spec st ch (hu hb) e.desc f⟩⟩
  exact ⟨hruns rfl sameBeside_xfrCopy, hruns rfl sameBeside_xfrFill, hruns rfl fun _ _ _ => sameBeside_tileRun ..,
    hruns rfl fun _ _ _ => sameBeside_tileRun .., hruns rfl sameBeside_xfrToRegion, hruns rfl sameBeside_xfrFromRegion,
    hruns rfl sameBeside_xfrTilecopy⟩

end

section
/-! Floyd's method (R206): the places drawn so far are distinct and lie below the bound of the next draw. -/

namespace Sys2Proof.Laws

open Machine

/-- Draw `k` of Floyd's method puts one more place before those drawn. -/
def floydStep (draw : Nat → Nat) (d f : Nat) (acc : List Nat) (k : Nat) : List Nat :=
  let i := d - f + k
  let r := draw k * (i + 1) / 2 ^ 64
  (if acc.contains r then i else r) :: acc

/-- The places of the first `n` draws, the latest first. -/
def floydDrawn (draw : Nat → Nat) (d f n : Nat) : List Nat := (List.range n).foldl (floydStep draw d f) []

theorem floydPlaces_eq_mergeSort (draw : Nat → Nat) (d f : Nat) :
    floydPlaces draw d f = (floydDrawn draw d f f).mergeSort fun a b => decide (a ≤ b) := rfl

theorem floydDrawn_succ (draw : Nat → Nat) (d f n : Nat) :
    floydDrawn draw d f (n + 1) = floydStep draw d f (floydDrawn draw d f n) n := by
  simp only [floydDrawn, List.range_succ, List.foldl_append, List.foldl_cons, List.foldl_nil]

/-- A 64-bit draw scaled to a bound lies below it. -/
theorem scaled_lt {u m : Nat} (hu : u < 2 ^ 64) (hm : 0 < m) : u * m / 2 ^ 64 < m :=
  (Nat.div_lt_iff_lt_mul (Nat.two_pow_pos 64)).2 (by rw [Nat.mul_comm m]; exact Nat.mul_lt_mul_of_pos_right hu hm)

/-- Where a draw repeats a place, its bound is taken instead, which no earlier draw could reach. -/
theorem floydStep_distinct {draw : Nat → Nat} {d f k : Nat} {acc : List Nat} (hu : draw k < 2 ^ 64) (hacc : acc.Nodup)
    (hlt : ∀ x ∈ acc, x < d - f + k) :
    (floydStep draw d f acc k).Nodup ∧ ∀ x ∈ floydStep draw d f acc k, x < d - f + (k + 1) := by
  have hr : draw k * (d - f + k + 1) / 2 ^ 64 < d - f + k + 1 := scaled_lt hu (Nat.succ_pos _)
  have hold : ∀ x ∈ acc, x < d - f + (k + 1) := fun x hx => Nat.lt_succ_of_lt (hlt x hx)
  dsimp only [floydStep]
  split
  · exact ⟨List.nodup_cons.2 ⟨fun h => (hlt _ h).false, hacc⟩, List.forall_mem_cons.2 ⟨Nat.lt_succ_self _, hold⟩⟩
  · next hnew =>
    exact ⟨List.nodup_cons.2 ⟨fun h => hnew (List.contains_iff_mem.2 h), hacc⟩, List.forall_mem_cons.2 ⟨hr, hold⟩⟩

theorem floydDrawn_distinct {draw : Nat → Nat} (d f : Nat) (hdraw : ∀ k, draw k < 2 ^ 64) (n : Nat) :
    (floydDrawn draw d f n).length = n ∧ (floydDrawn draw d f n).Nodup ∧ ∀ x ∈ floydDrawn draw d f n, x < d - f + n := by
  induction n with
  | zero => exact ⟨rfl, List.nodup_nil, fun _ h => absurd h List.not_mem_nil⟩
  | succ n ih =>
    obtain ⟨hlen, hnodup, hlt⟩ := ih
    rw [floydDrawn_succ]
    exact ⟨congrArg (· + 1) hlen, floydStep_distinct (hdraw n) hnodup hlt⟩

end Sys2Proof.Laws
end

section
open Sys2Proof Machine Laws

/-- Settles O19: after every draw the places are distinct and below its bound, and sorting them changes neither. -/
theorem floydPlacesAreDistinct : Obligations.FloydPlacesAreDistinct := by
  intro draw d f hdraw hf
  obtain ⟨hlen, hnodup, hlt⟩ := floydDrawn_distinct d f hdraw f
  have hperm := List.mergeSort_perm (floydDrawn draw d f f) fun a b => decide (a ≤ b)
  rw [floydPlaces_eq_mergeSort]
  refine ⟨hperm.length_eq.trans hlen, hperm.nodup_iff.2 hnodup, fun x hx => ?_, ?_⟩
  · rw [← Nat.sub_add_cancel hf]
    exact hlt x (hperm.mem_iff.1 hx)
  · exact (List.pairwise_mergeSort (by simpa using fun _ _ _ => Nat.le_trans) (by simpa using Nat.le_total) _).imp of_decide_eq_true

end

section
/-! The Neighbourhood Sampler (R193 to R223): its rows, its groups and batches after a change, and what the body of each command
leaves where it meets no fault. -/

namespace Sys2Proof.Laws

open Machine Safety

/-! ### Groups and batches -/

section
variable (s : State) (st : Fin 8)

theorem group_modGroups (p : Nat → Bool) (f : Nat → SmpGroup → SmpGroup) (i : Fin 4) :
    (s.modGroups st p f).group st i.val = if p i.val then f i.val (s.group st i.val) else s.group st i.val := by
  have hget : ∀ v : Vector SmpGroup 4, v.toList.getD i.val {} = v[i] := fun v => by
    rw [List.getD_eq_getElem _ _ (by simp), Vector.getElem_toList, Fin.getElem_fin]
  simp only [State.group, hget, State.modGroups, State.st_modSt_same, Fin.getElem_fin, Vector.getElem_ofFn]

theorem setBatch_eq (g : Fin 4) (b : Option Batch) :
    s.setBatch st g.val b = s.modSt st fun x => { x with batches := x.batches.set g b } := dif_pos g.isLt

/-- How OPEN, SEEDS, HOP and CLOSE end: the groups of `m` are changed by `f`, and their leader `g` holds `b` (R194). -/
def batchTaken (g : Fin 4) (m : Nat → Bool) (f : SmpGroup → SmpGroup) (b : Option Batch) : State :=
  (s.modGroups st m fun _ x => f x).setBatch st g.val b

section
variable (g : Fin 4) (m : Nat → Bool) (f : SmpGroup → SmpGroup) (b : Option Batch)

theorem batchTaken_eq : batchTaken s st g m f b =
    (s.modGroups st m fun _ x => f x).modSt st fun x => { x with batches := x.batches.set g b } := setBatch_eq ..

@[simp] theorem batchTaken_mem : (batchTaken s st g m f b).mem = s.mem := by rw [batchTaken_eq]; rfl
@[simp] theorem batchTaken_queues : (batchTaken s st g m f b).queues = s.queues := by rw [batchTaken_eq]; rfl
@[simp] theorem batchTaken_reg (p : Page) (x : Nat) : (batchTaken s st g m f b).reg p x = s.reg p x := by rw [batchTaken_eq]; rfl

theorem memoryKept_batchTaken : MemoryKept s (batchTaken s st g m f b) := fun a => by
  rw [batchTaken_eq, State.byte_modSt _ _ (by intro; rfl), State.modGroups, State.byte_modSt _ _ (by intro; rfl)]

@[simp] theorem batch_batchTaken : (batchTaken s st g m f b).batch st g.val = b := by
  rw [batchTaken_eq, State.batch, State.st_modSt_same, List.getD_eq_getElem _ _ (by simp), Vector.getElem_toList]
  exact Vector.getElem_set_self ..

theorem group_batchTaken {i : Fin 4} (h : m i.val = true) : (batchTaken s st g m f b).group st i.val = f (s.group st i.val) := by
  rw [batchTaken_eq, State.group, State.st_modSt_same, ← State.group, group_modGroups, if_pos h]

end

end

/-! ### A command that retires -/

section
variable (u : State) (st : Fin 8) (g : Fin 4)

theorem queuePage_smp : queuePage st (smpQueue g.val) = some (smpPage st) := by
  fin_cases g <;> rfl

theorem finish_smp (clean : Bool) : finish u st (smpQueue g.val) clean =
    quiesceRise u (u.modQueue st (smpQueue g.val) (leftFirst · clean)) (smpPage st) := by
  simp only [finish, queuePage_smp]
  rfl

theorem sampler_of_kept {s t : State} (h : KindKept s t .sampler) (st : Fin 8) : t.batch st = s.batch st ∧ t.group st = s.group st := by
  obtain ⟨hgroups, hbatches⟩ := h st
  exact ⟨funext fun i => by rw [State.batch, hbatches, State.batch], funext fun i => by rw [State.group, hgroups, State.group]⟩

/-- A command that retires leaves memory, the groups and the batches as its body did, and its queue cleanly (R201). -/
theorem smpRetire_spec :
    let t := finish u st (smpQueue g.val) true
    t.mem = u.mem ∧ MemoryKept u t ∧ t.queue st (smpQueue g.val) = leftFirst (u.queue st (smpQueue g.val)) true ∧
      t.batch st = u.batch st ∧ t.group st = u.group st := by
  have hk := keptBut_finish u st true (queuePage_smp st g)
  exact ⟨mem_finish .., hk.kind .memory (by decide : Kind.memory ∉ .queues :: .page .smp :: eventKinds),
    queue_finish _ _ _ (queuePage_smp st g),
    sampler_of_kept (hk.kind .sampler (by decide : Kind.sampler ∉ .queues :: .page .smp :: eventKinds)) st⟩

theorem flag_smpRetire {n : Nat} (h : u.flag (smpPage st) 0x010 n = true) :
    (finish u st (smpQueue g.val) true).flag (smpPage st) 0x010 n = true := by
  rw [finish_smp]
  exact flag_quiesceRise_of_flag _ _ _ _ h

theorem reg_smpRetire {x : Nat} (h : x % 4096 ≠ 0x044) (h' : x % 4096 ≠ 0x010) :
    (finish u st (smpQueue g.val) true).reg (smpPage st) x = u.reg (smpPage st) x := by
  rw [finish_smp, reg_quiesceRise_apart _ _ _ _ h h']
  rfl

/-- A batch's command that retires, after a body that kept the queues. -/
theorem smpRetire_batchTaken {s v : State} (hv : Same State.queues s v) (m : Nat → Bool) (f : SmpGroup → SmpGroup)
    (b : Option Batch) :
    let t := finish (batchTaken v st g m f b) st (smpQueue g.val) true
    t.batch st g.val = b ∧ (∀ i : Fin 4, m i.val = true → t.group st i.val = f (v.group st i.val)) ∧ t.mem = v.mem ∧
      t.queue st (smpQueue g.val) = leftFirst (s.queue st (smpQueue g.val)) true := by
  intro t
  obtain ⟨hmem, -, hqueue, hbatch, hgroup⟩ := smpRetire_spec (batchTaken v st g m f b) st g
  have hq : Same State.queues s (batchTaken v st g m f b) := hv.trans (batchTaken_queues ..)
  exact ⟨(congrFun hbatch _).trans (batch_batchTaken ..), fun i hi => (congrFun hgroup _).trans (group_batchTaken (h := hi) ..),
    hmem.trans (batchTaken_mem ..), hqueue.trans (congrArg (leftFirst · true) (queue_of_sameQueues hq ..))⟩

end

/-! ### The rows of the commands -/

section
variable {s u : State} {st : Fin 8} {g : Fin 4} {e : Entry} (hs : s.has st = true) (hc : s.clocked = true)
include hs hc

/-- A command whose body meets no fault retires. -/
theorem smpRow_of_done {op : Nat} (body : State → Fin 8 → Nat → Entry → State × Option SmpErr)
    (h : smpHead s st g.val op = some e) (hb : body s st g.val e = (u, none)) :
    smpRow op (fun s st g e => smpEnd st g e.desc (body s st g e)) st g s = .next (finish u st (smpQueue g.val) true) := by
  simp only [smpRow, hs, h, hc, hb, if_true, smpEnd]

/-- An OPEN whose groups are IDLE does not wait. -/
theorem execSmpOpen_of_done (h : smpHead s st g.val 1 = some e)
    (hready : lowestGroup (descBits e.desc 3 28 25) = g.val → s.batch st g.val = none →
      groupsIdle s st (descBits e.desc 3 28 25) = true)
    (hb : openBatch s st g.val e = (u, none)) : execSmpOpen st g s = .next (finish u st (smpQueue g.val) true) := by
  have hgo : ¬(lowestGroup (descBits e.desc 3 28 25) = g.val ∧ (s.batch st g.val).isSome = false ∧
      groupsIdle s st (descBits e.desc 3 28 25) = false) := fun ⟨hl, hn, hi⟩ =>
    Bool.false_ne_true (hi.symm.trans (hready hl (Option.not_isSome_iff_eq_none.1 (Bool.eq_false_iff.1 hn))))
  simp only [execSmpOpen, smpRow, hs, h, hc, hb, hgo, if_true, if_false, smpEnd]

end

/-! ### What the bodies store -/

section
variable (s : State) (st : Fin 8) (plan : Nat)

theorem sameBeside_smpWrite (area a : Nat) (bs : List Byte) : Same besideStore s (smpWrite s st plan area a bs).1 :=
  sameBeside_engWrite ..

theorem sameBeside_smpWrites (area : Nat) (ws : List (Nat × List Byte)) : Same besideStore s (smpWrites st plan area s ws).1 := by
  induction ws generalizing s with
  | nil => exact .refl s
  | cons w ws ih =>
    unfold smpWrites
    split
    · next e => exact ((sameBeside_smpWrite ..).fst_of e).trans (ih _)
    · next e => exact (sameBeside_smpWrite ..).fst_of e

theorem sameBeside_clearTable (a n : Nat) : Same besideStore s (clearTable s st plan a n).1 := by
  unfold clearTable zeroRange
  split
  · exact .refl s
  · exact .ite rfl rfl

theorem sameBeside_numberNode (h : Nat) (b : Batch) (id : Nat) : Same besideStore s (numberNode st plan h s b id).1 := by
  unfold numberNode
  split
  · exact .refl s
  · exact .refl s
  · rfl
  · refine .fst_guard ?_
    dsimp only
    split <;> dsimp only <;> exact sameBeside_smpWrite ..

theorem sameBeside_numberAll (h : Nat) (b : Batch) (ids : List Nat) (acc : List (Nat × Bool)) :
    Same besideStore s (numberAll st plan h s b ids acc).1 := by
  induction ids generalizing s b acc with
  | nil => exact .refl s
  | cons id ids ih =>
    unfold numberAll
    split
    · next e => exact (sameBeside_numberNode ..).fst_of e
    · next e => exact ((sameBeside_numberNode ..).fst_of e).trans (ih ..)

theorem sameBeside_startBlock (h out size avail : Nat) : Same besideStore s (startBlock s st plan h out size avail).1 := by
  unfold startBlock
  split
  · exact .refl s
  · exact .fst_guard (sameBeside_smpWrite ..)

theorem sameBeside_prefixRow (weight pfx n p sum : Nat) : Same besideStore s (prefixRow st plan weight pfx n s p sum).1 := by
  induction n generalizing s p sum with
  | zero => exact .refl s
  | succ n ih =>
    unfold prefixRow
    split
    · exact .refl s
    · split
      · exact .refl s
      · refine .fst_guard ?_
        split
        · next e => exact (sameBeside_smpWrite ..).fst_of e
        · next e => exact ((sameBeside_smpWrite ..).fst_of e).trans (ih ..)

theorem sameBeside_prefixRows (rowptr weight pfx nedge n row : Nat) :
    Same besideStore s (prefixRows st plan rowptr weight pfx nedge n s row).1 := by
  induction n generalizing s row with
  | zero => exact .refl s
  | succ n ih =>
    unfold prefixRows
    split
    · exact .refl s
    · refine .fst_guard (.fst_guard ?_)
      split
      · next e => exact (sameBeside_prefixRow ..).fst_of e
      · next e => exact ((sameBeside_prefixRow ..).fst_of e).trans (ih ..)

theorem sameQueues_smpCounts (new invalid isolated dups trunc : Nat) :
    Same State.queues s (smpCounts s st new invalid isolated dups trunc) := .ite rfl (unrung_queues.raiseEvt rfl)

end

/-! ### The bodies of the commands -/

section
variable {s u : State} {st : Fin 8} {g : Fin 4} {e : Entry}

/-- An OPEN that meets no fault clears at most its table, and begins its batch (R194 to R196). -/
theorem openBatch_done (hb : openBatch s st g.val e = (u, none)) : ∃ h v,
    readGraph s st e.plan.toNat (descBits e.desc 1 51 0) = .ok h ∧ Same State.queues s v ∧
      u = batchTaken v st g (descBits e.desc 3 28 25).testBit
        (fun x => { x with phase := 1, leader := some g.val, faulted := false }) (some (newBatch e.desc h e.latch)) := by
  unfold openBatch at hb
  extract_lets at hb
  split at hb
  · cases hb
  split at hb
  · cases hb
  split at hb
  · cases hb
  · cases hb
  split at hb
  · cases hb
  split at hb
  · cases hb
  next h hread =>
  dsimp only at hb
  split at hb
  · cases hb
  cases hb
  refine ⟨h, _, hread, ?_, rfl⟩
  split
  · exact sameQueues_of_besideStore (sameBeside_clearTable ..)
  · exact .refl s

/-- A SEEDS that meets no fault takes its batch to phase 2 (R203). -/
theorem seedBatch_done (hb : seedBatch s st g.val e = (u, none)) : ∃ b b' v,
    s.batch st g.val = some b ∧ Same State.queues s v ∧
      u = batchTaken v st g (fun i => b.groups.getLsbD i) (fun x => { x with phase := 2 }) (some b') := by
  unfold seedBatch at hb
  extract_lets at hb
  split at hb
  · cases hb
  next b hbatch =>
  extract_lets at hb
  split at hb
  · cases hb
  split at hb
  · cases hb
  split at hb
  · cases hb
  next hstart =>
  split at hb
  · cases hb
  extract_lets at hb
  split at hb
  · cases hb
  next hnumber =>
  extract_lets at hb
  split at hb
  · cases hb
  next hwrite =>
  cases hb
  have hstored := ((sameBeside_startBlock ..).fst_of hstart).trans ((sameBeside_numberAll ..).fst_of hnumber)
    |>.trans ((sameBeside_smpWrites ..).fst_of hwrite)
  exact ⟨b, _, _, hbatch, (sameQueues_of_besideStore hstored).trans (sameQueues_smpCounts ..), rfl⟩

/-- A HOP that meets no fault takes its batch to the next phase, with its event (R204). -/
theorem hopBatch_done (hb : hopBatch s st g.val e = (u, none)) : ∃ b b' v,
    s.batch st g.val = some b ∧ Same State.queues s v ∧ v.flag (smpPage st) 0x010 4 = true ∧
      u = batchTaken v st g (fun i => b.groups.getLsbD i) (fun x => { x with phase := descBits e.desc 0 34 32 + 2 }) (some b') := by
  unfold hopBatch at hb
  extract_lets at hb
  split at hb
  · cases hb
  next b hbatch =>
  extract_lets at hb
  split at hb
  · cases hb
  split at hb
  · cases hb
  split at hb
  · cases hb
  next hstart =>
  split at hb
  · cases hb
  extract_lets at hb
  split at hb
  · cases hb
  next hnumber =>
  extract_lets words weights at hb
  clear_value weights
  split at hb
  · cases hb
  split at hb
  · cases hb
  next s3 hwrite =>
  extract_lets s4 s5 at hb
  cases hb
  have hstored := ((sameBeside_startBlock ..).fst_of hstart).trans ((sameBeside_numberAll ..).fst_of hnumber)
    |>.trans ((sameBeside_smpWrites ..).fst_of hwrite)
  have h4 : Same State.queues s s4 := (sameQueues_of_besideStore hstored).trans (sameQueues_smpCounts s3 st ..)
  have h5 : Same State.queues s s5 := .ite h4 (h4.trans (unrung_queues.raiseEvt rfl))
  exact ⟨b, _, raiseEvt s5 (smpPage st) 4, hbatch, h5.trans (unrung_queues.raiseEvt rfl), flag_raiseEvt _ _ _ (by decide), rfl⟩

/-- A PREFIX that meets no fault writes its rows and raises its event (R200). -/
theorem prefixRun_done (hb : prefixRun s st g.val e = (u, none)) :
    Same State.queues s u ∧ u.flag (smpPage st) 0x010 7 = true := by
  unfold prefixRun at hb
  extract_lets at hb
  split at hb
  · cases hb
  split at hb
  · cases hb
  split at hb
  · cases hb
  split at hb
  · cases hb
  split at hb
  · cases hb
  dsimp only at hb
  split at hb
  · cases hb
  cases hb
  exact ⟨(sameQueues_of_besideStore (sameBeside_prefixRows ..)).trans (unrung_queues.raiseEvt rfl), flag_raiseEvt _ _ _ (by decide)⟩

/-- What a CLOSE leaves: no batch, which is counted, and BATCH_CLOSED (R201). -/
def closedBatch (s : State) (st : Fin 8) (g : Fin 4) (b : Batch) : State :=
  raiseEvt ((batchTaken s st g (fun i => b.groups.getLsbD i) (fun x => { x with phase := 0, leader := none }) none).countWrap
    (smpPage st) 0x068) (smpPage st) 3

/-- A CLOSE past the first hop ends its batch (R194). -/
theorem closeBatch_of_phase {b : Batch} (h : s.batch st g.val = some b) (hp : 3 ≤ (s.group st g.val).phase) :
    closeBatch s st g.val e = (closedBatch s st g b, none) := by
  simp only [closeBatch, h, Nat.not_lt.2 hp, if_false]
  rfl

theorem smpClose_spec (s : State) (st : Fin 8) (g : Fin 4) (b : Batch) :
    let t := finish (closedBatch s st g b) st (smpQueue g.val) true
    t.batch st g.val = none ∧
      (∀ i : Fin 4, b.groups.getLsbD i.val = true → t.group st i.val = { s.group st i.val with phase := 0, leader := none }) ∧
      t.reg (smpPage st) 0x068 = s.reg (smpPage st) 0x068 + 1 ∧ t.flag (smpPage st) 0x010 3 = true ∧ MemoryKept s t ∧
      t.queue st (smpQueue g.val) = leftFirst (s.queue st (smpQueue g.val)) true := by
  have hinst : (smpPage st).inst < instances (smpPage st).blk := Nat.one_pos
  have hk : KeptBut (.page .smp :: eventKinds) (batchTaken s st g _ _ none) (closedBatch s st g b) :=
    ((keptBut_countWrap _ 1 hinst (by decide)).mono (by decide : [Kind.page .smp] ⊆ _)).trans (keptBut_raiseEvt _ 3 hinst)
  obtain ⟨hbatch₁, hgroup₁⟩ := sampler_of_kept (hk.kind .sampler (by decide)) st
  have hmem₁ : MemoryKept _ _ := hk.kind .memory (by decide)
  have hqueue₁ : Same State.queues s (closedBatch s st g b) :=
    .trans (batchTaken_queues s st g _ _ none) (unrung_queues.raiseEvt rfl)
  obtain ⟨-, hmem, hqueue, hbatch, hgroup⟩ := smpRetire_spec (closedBatch s st g b) st g
  refine ⟨?_, fun i hi => ?_, ?_, flag_smpRetire _ _ _ (flag_raiseEvt _ _ _ (by decide)),
    fun a => (hmem a).trans (hmem₁ a) |>.trans (memoryKept_batchTaken s st g _ _ none a),
    hqueue.trans (congrArg (leftFirst · true) (queue_of_sameQueues hqueue₁ ..))⟩
  · rw [hbatch, hbatch₁, batch_batchTaken]
  · rw [hgroup, hgroup₁]
    exact group_batchTaken (h := hi) ..
  · rw [reg_smpRetire _ _ _ (by decide) (by decide), closedBatch, reg_raiseEvt_apart _ _ _ _ (by decide) (by decide),
      State.countWrap, State.reg_setReg_same, batchTaken_reg]
    rfl

end

end Sys2Proof.Laws
end

section
open Sys2Proof Machine Safety Laws

/-- Settles O18: each command by its row, from how its body ends where it meets no fault. -/
theorem samplerCommands : Obligations.SamplerCommands := by
  intro s u st g e hs hc m
  refine ⟨fun hhead hready hb => ?_, fun hhead hb => ?_, fun hhead hb => ?_, fun hhead b hbatch hphase => ?_, fun hhead hb => ?_⟩
  · have hrow := execSmpOpen_of_done hs hc hhead hready hb
    obtain ⟨h, v, hread, hv, rfl⟩ := openBatch_done hb
    obtain ⟨hbatch, hgroup, hmem, hqueue⟩ := smpRetire_batchTaken st g hv m.testBit
      (fun x => { x with phase := 1, leader := some g.val, faulted := false }) (some (newBatch e.desc h e.latch))
    refine ⟨_, hrow, ⟨h, hread, hbatch⟩, fun i hi => ?_, hmem.trans (batchTaken_mem ..).symm, hqueue⟩
    rw [hgroup i hi]
    exact ⟨rfl, rfl⟩
  · have hrow := smpRow_of_done hs hc seedBatch hhead hb
    obtain ⟨b, b', v, hb₀, hv, rfl⟩ := seedBatch_done hb
    obtain ⟨hbatch, hgroup, hmem, hqueue⟩ := smpRetire_batchTaken st g hv (fun i => b.groups.getLsbD i)
      (fun x => { x with phase := 2 }) (some b')
    refine ⟨_, hrow, fun b₁ hb₁ i hi => ?_, hmem.trans (batchTaken_mem ..).symm, hbatch.trans (batch_batchTaken ..).symm, hqueue⟩
    obtain rfl := Option.some.inj (hb₀.symm.trans hb₁)
    rw [hgroup i hi]
  · have hrow := smpRow_of_done hs hc hopBatch hhead hb
    obtain ⟨b, b', v, hb₀, hv, hflag, rfl⟩ := hopBatch_done hb
    obtain ⟨hbatch, hgroup, hmem, hqueue⟩ := smpRetire_batchTaken st g hv (fun i => b.groups.getLsbD i)
      (fun x => { x with phase := descBits e.desc 0 34 32 + 2 }) (some b')
    refine ⟨_, hrow, fun b₁ hb₁ i hi => ?_, flag_smpRetire _ _ _ (by rwa [State.flag, batchTaken_reg]),
      hmem.trans (batchTaken_mem ..).symm, hbatch.trans (batch_batchTaken ..).symm, hqueue⟩
    obtain rfl := Option.some.inj (hb₀.symm.trans hb₁)
    rw [hgroup i hi]
  · have hrow := smpRow_of_done hs hc closeBatch hhead (closeBatch_of_phase hbatch hphase)
    obtain ⟨hnone, hgroup, hreg, hflag, hmem, hqueue⟩ := smpClose_spec s st g b
    refine ⟨_, hrow, hnone, fun i hi => ?_, hreg, hflag, hmem, hqueue⟩
    rw [hgroup i hi]
    exact ⟨rfl, rfl⟩
  · obtain ⟨hq, hflag⟩ := prefixRun_done hb
    obtain ⟨hmem, -, hqueue, -, -⟩ := smpRetire_spec u st g
    exact ⟨_, smpRow_of_done hs hc prefixRun hhead hb, hmem, flag_smpRetire _ _ _ hflag,
      hqueue.trans (congrArg (leftFirst · true) (queue_of_sameQueues hq ..))⟩

end

section
/-! Routing of row ids (R227, R228): how an id is placed in each mode, and that a home and local row name one id. -/

namespace Sys2Proof.Laws

open Machine

/-! ### Where an id goes -/

/-- The shard of an id among the homes, and its local row there, by MODE (R228). -/
theorem route_eq_some {t : Table} {x home row : Nat} (h : route t x = some (home, row)) : ∃ k, home = t.homes.getD k 0 ∧
    (t.mode = 0 → k = 0 ∧ row = x) ∧ (t.mode = 1 → k = x / t.shardRows ∧ row = x % t.shardRows) ∧
    (t.mode = 2 → k = (x % t.homes.length + shardHash (x / t.homes.length)) % t.homes.length ∧ row = x / t.homes.length) := by
  obtain ⟨-, h⟩ := Option.ite_none_left_eq_some.1 h
  obtain ⟨rfl, rfl⟩ := Prod.mk.inj (Option.some.inj h)
  refine ⟨_, rfl, fun hm => ?_, fun hm => ?_, fun hm => ?_⟩ <;>
    · rw [hm]
      exact ⟨rfl, rfl⟩

/-! ### The id of a local row -/

/-- A home's place among distinct homes is the shard it was picked as. -/
theorem findIdx_homes {t : Table} (h : t.homes.Nodup) {k : Nat} (hk : k < t.homes.length) :
    t.homes.findIdx (· == t.homes.getD k 0) = k := by
  rw [List.getD_eq_getElem _ _ hk]
  exact h.idxOf_getElem k hk

section
variable (t : Table) (home row : Nat)

theorem unroute_whole (h : t.mode = 0) : unroute t home row = row := by
  simp only [unroute, h]

theorem unroute_runs (h : t.mode = 1) :
    unroute t home row = t.homes.findIdx (· == home) * t.shardRows + row := by
  simp only [unroute, h]

theorem unroute_hash (h : t.mode = 2) : unroute t home row = row * t.homes.length +
    (t.homes.findIdx (· == home) + t.homes.length - shardHash row % t.homes.length) % t.homes.length := by
  simp only [unroute, h]

end

/-- A shift among `n` places, undone by the way round. -/
theorem sub_add_mod_cancel {r n : Nat} (c : Nat) (hr : r < n) : ((r + c) % n + n - c % n) % n = r := by
  have hc : c % n < n := Nat.mod_lt _ (Nat.zero_lt_of_lt hr)
  rw [Nat.add_mod_eq_ite, Nat.mod_eq_of_lt hr]
  split
  · rw [show r + c % n - n + n - c % n = r by omega, Nat.mod_eq_of_lt hr]
  · rw [show r + c % n + n - c % n = r + n by omega, Nat.add_mod_right, Nat.mod_eq_of_lt hr]

end Sys2Proof.Laws
end

section
open Sys2Proof Machine Laws

/-- Settles O20: a home's place among the distinct homes is the shard the id was put in, and each mode's shard and row give the
id back. -/
theorem routingInverts : Obligations.RoutingInverts := by
  intro t x home row hmode hne hnodup hruns h
  have hn : 0 < t.homes.length := List.length_pos_iff.2 hne
  obtain ⟨k, rfl, hwhole, hrun, hhash⟩ := route_eq_some h
  obtain h0 | h1 | h2 : t.mode = 0 ∨ t.mode = 1 ∨ t.mode = 2 := by omega
  · obtain ⟨-, rfl⟩ := hwhole h0
    exact unroute_whole t _ _ h0
  · obtain ⟨rfl, rfl⟩ := hrun h1
    obtain ⟨-, hk⟩ := hruns h1
    rw [unroute_runs t _ _ h1, findIdx_homes hnodup hk, Nat.div_add_mod']
  · obtain ⟨rfl, rfl⟩ := hhash h2
    rw [unroute_hash t _ _ h2, findIdx_homes hnodup (Nat.mod_lt _ hn), sub_add_mod_cancel _ (Nat.mod_lt _ hn), Nat.div_add_mod']

end

section
/-! The hot set (R255 to R261): what the ends of a refresh, a copy and the enable bit leave of it. -/

namespace Sys2Proof.Laws

open Machine Safety

/-! ### Operations on the directories -/

section
variable (s : State) (st : Fin 8)

theorem beadPage_inst : (beadPage st).inst < instances (beadPage st).blk := Nat.one_pos

/-- An event of the BEAD page leaves the hot set and memory. -/
theorem beadEvt_spec (n : Nat) : let t := raiseEvt s (beadPage st) n
    (t.st st).hot = (s.st st).hot ∧ t.mem = s.mem ∧ MemoryKept s t :=
  have hk := keptBut_raiseEvt s n (beadPage_inst st)
  ⟨hk.kind .hotSet (by decide : Kind.hotSet ∉ .page .bead :: eventKinds) st, unrung_mem.raiseEvt rfl,
    hk.kind .memory (by decide : Kind.memory ∉ .page .bead :: eventKinds)⟩

/-- A refresh that copies is READY once every entry of the pending directory is (R257); nothing else of the hot set changes. -/
theorem refreshReady_spec : let h := (s.st st).hot
    let t := refreshReady s st
    (t.st st).hot = { h with state := if h.state = 1 ∧ h.waiting.all (fun e => e.st == 2) then 2 else h.state } ∧
      t.mem = s.mem := by
  dsimp only [refreshReady]
  split
  · obtain ⟨hhot, hmem, -⟩ := beadEvt_spec (dropRefresh (s.modHot st fun h => { h with state := 2 }) st) st 6
    exact ⟨hhot.trans ((State.modArb_st_hot ..).trans (State.modHot_st_hot ..)), hmem⟩
  · exact ⟨rfl, rfl⟩

/-- A refresh that begins has the directory its lists give, of its group (R256, R257). -/
theorem hot_refreshStart {grp k : Nat} {es : List HsEntry} (h : buildRefresh s st grp = .ok (es, k)) :
    ((refreshStart s st grp).st st).hot =
      { (s.st st).hot with waiting := es, state := if es.all (fun e => e.st == 2) then 2 else 1, group := grp } := by
  have hcount : ((if k = 0 then s else s.countSat (beadPage st) 0x0B4 k).st st).hot = (s.st st).hot := by
    split <;> rfl
  obtain ⟨hhot, -⟩ := refreshReady_spec ((if k = 0 then s else s.countSat (beadPage st) 0x0B4 k).modHot st
    fun h => { h with waiting := es, state := 1, group := grp }) st
  simp only [refreshStart, h, hhot, State.modHot_st_hot, hcount, true_and]

/-- A READY directory taken as the active one, in the other half. -/
def hotSwitched (h : HotSet) : HotSet := { h with active := h.waiting, waiting := [], state := 0, activeB := !h.activeB }

theorem hot_setEntry (i n : Nat) : ((setEntry s st i n).st st).hot =
    { (s.st st).hot with waiting := (s.st st).hot.waiting.modify i fun e => { e with st := n } } := State.modHot_st_hot ..

theorem hot_hotEmpty : ((hotEmpty s st).st st).hot = { (s.st st).hot with active := [], waiting := [], state := 0 } := by
  simp only [hotEmpty, endRefresh, dropRefresh, State.modArb_st_hot, State.modHot_st_hot]

/-- EN written leaves EN as it was written, and a change leaves both directories empty (R261). -/
theorem hsEnWrite_spec (on : Bool) : let t := hsEnWrite s st on
    hsEnabled t st = on ∧ (hsEnabled s st = !on → (t.st st).hot.active = [] ∧ (t.st st).hot.waiting = []) := by
  dsimp only [hsEnWrite]
  split
  · next h => exact ⟨h, fun hn => by simp [h] at hn⟩
  · refine ⟨State.flag_setFlag_same _ _ _ on (by decide), fun _ => ?_⟩
    rw [State.setFlag_st, hot_hotEmpty]
    exact ⟨rfl, rfl⟩

/-- A row's copy only stores; unfolded as in `kept_copyRow`. -/
theorem sameBeside_copyRow (e : HsEntry) : Same besideStore s (copyRow s st e).1 := by
  obtain ⟨f, hf⟩ : ∃ f, f = copyRow := exists_eq
  obtain ⟨table, ht⟩ : ∃ f, f = readTable := exists_eq
  obtain ⟨read, hr⟩ : ∃ f, f = tabRead := exists_eq
  rw [← hf]
  delta copyRow at hf
  rw [← ht, ← hr] at hf
  subst hf
  dsimp only
  split
  · exact .refl s
  · split
    · exact .refl s
    · exact sameBeside_tabWrite ..

end

/-! ### The rows of the commands -/

section
variable {s : State} {st : Fin 8} (hs : s.has st = true)
include hs

theorem execHotSetRefreshAdmit_of {a : Activity}
    (ha : ((s.st st).arb.run.find? fun a => a.act == 10) = some a) (hidle : (s.st st).hot.state = 0)
    (hen : hsEnabled s st = true) (hf : s.faulted (beadPage st) = false) (hc : s.clocked = true) :
    execHotSetRefreshAdmit st s = .next (refreshStart s st a.scope) := by
  simp only [execHotSetRefreshAdmit, hs, ha, hidle, hen, hf, hc, and_self, if_true]

theorem execHotSetCopyDone_of {u : State} {i : Nat} {e : HsEntry} (hi : (s.st st).hot.waiting[i]? = some e) (he : e.st = 1)
    (hf : s.faulted (beadPage st) = false) (hc : s.clocked = true) (hu : copyRow s st e = (u, none)) :
    execHotSetCopyDone st i s = .next (refreshReady (setEntry u st i 2) st) := by
  simp only [execHotSetCopyDone, hs, hi, he, hf, hc, hu, and_self, if_true]

theorem execHotSetDirtyRecopy_of {i : Nat} {e : HsEntry} (hi : (s.st st).hot.waiting[i]? = some e) (he : e.st = 3) :
    execHotSetDirtyRecopy st i s = .next (setEntry s st i 1) := by
  simp only [execHotSetDirtyRecopy, hs, hi, he, if_true]

theorem execHotSetSwitch_of (hclp : (s.st st).clp.state = .commit) (hseq : (s.st st).clp.sequence = .commit)
    (hready : (s.st st).hot.state = 2) : execHotSetSwitch st s =
      .next (raiseEvt ((s.modHot st hotSwitched).countWrap (beadPage st) 0x0B8) (beadPage st) 7) :=
  (if_pos hs).trans (congrArg _ (if_pos ⟨hclp, hseq, hready⟩))

theorem execHsEnable_of {r : Requester} (hr : mayWrite s r (beadPage st) 0x080 = true) :
    execHsEnable r st s = .next (hsEnWrite s st true) := by
  simp only [execHsEnable, asked, hs, hr, if_true]

theorem execHsDisable_of {r : Requester} (hr : mayWrite s r (beadPage st) 0x080 = true) :
    execHsDisable r st s = .next (hsEnWrite s st false) := by
  simp only [execHsDisable, asked, hs, hr, if_true]

end

end Sys2Proof.Laws
end

section
open Sys2Proof Machine Safety Laws

/-- Settles O23: each command by its row; a copy only stores, and events leave the directories. -/
theorem hotSetCommands : Obligations.HotSetCommands := by
  refine ⟨fun s st a es k hs ha hidle hen hf hc hb => ?_, fun s u st i e hs hi => ⟨fun he hf hc hu => ?_, fun he => ?_⟩,
    fun s st hs hclp hseq hready => ?_, fun s r st hs hr => ⟨?_, ?_⟩⟩
  · refine ⟨_, execHotSetRefreshAdmit_of hs ha hidle hen hf hc, ?_⟩
    simp only [hot_refreshStart s st hb, and_self]
  · obtain ⟨hhot, hmem⟩ := refreshReady_spec (setEntry u st i 2) st
    have hu' : u.st st = s.st st := st_of_besideStore ((sameBeside_copyRow ..).fst_of hu) st
    refine ⟨_, execHotSetCopyDone_of hs hi he hf hc hu, ?_, hmem⟩
    rw [hhot, hot_setEntry, hu', List.getElem?_modify_eq, hi]
    rfl
  · refine ⟨_, execHotSetDirtyRecopy_of hs hi he, ?_, (keptBut_modHot ..).kind .memory (by decide)⟩
    rw [hot_setEntry, List.modify_eq_set_getElem?, hi]
    rfl
  · obtain ⟨hhot, -, hmem⟩ := beadEvt_spec ((s.modHot st hotSwitched).countWrap (beadPage st) 0x0B8) st 7
    rw [State.countWrap_st, State.modHot_st_hot] at hhot
    refine ⟨_, execHotSetSwitch_of hs hclp hseq hready, ?_⟩
    simp only [hhot]
    exact ⟨rfl, rfl, rfl, rfl, flag_raiseEvt _ _ _ (by decide),
      fun x => (hmem x).trans ((keptBut_modHot s st hotSwitched).kind .memory (by decide) x)⟩
  · obtain ⟨hen, hempty⟩ := hsEnWrite_spec s st true
    exact ⟨_, execHsEnable_of hs hr, hen, hempty⟩
  · obtain ⟨hen, hempty⟩ := hsEnWrite_spec s st false
    exact ⟨_, execHsDisable_of hs hr, hen, hempty⟩

end

section
/-! Random generation (R267 to R283): what commits, derivations, reseeds and failed self-checks leave of the key store, the lane
counters and the Clasps. -/

namespace Sys2Proof.Laws

open Machine Safety

/-! ### What events leave of the key store and the cores -/

theorem unrung_keys (i : Fin 8) : Unrung fun s => (s.st i).keys where
  box _ _ _ _ _ := State.modBox_st_keys ..
  mail _ _ _ _ := rfl
  wake _ _ := rfl

theorem unrung_core (i : Fin 8) (k : Nat) : Unrung (·.core i k) where
  box _ _ _ _ _ := by simp only [Same, State.core, State.modBox_st_cores]
  mail _ _ _ _ := rfl
  wake _ _ := rfl

section
variable (s : State) (st : Fin 8)

theorem keys_keyEvent (n : Nat) : ((keyEvent s st n).st st).keys = (s.st st).keys :=
  Same.foldl (v := fun s => (s.st st).keys) (fun _ _ => (unrung_keys st).raiseEvt rfl) _ s

theorem core_keyEvent (n k : Nat) : (keyEvent s st n).core st k = s.core st k :=
  Same.foldl (v := (·.core st k)) (fun _ _ => (unrung_core st k).raiseEvt rfl) _ s

/-! ### Lane counters (R275) -/

/-- A counter that no draw has advanced is at its seed. -/
theorem laneCtr_of_lanes_nil {c : Nat} (h : (s.core st c).lanes = []) (l : Nat) : laneCtr s st c l = laneSeed st c l := by
  rw [laneCtr, h]
  rfl

theorem keys_reseed (c : Nat) : ((reseed s st c).st st).keys = (s.st st).keys :=
  Eq.trans ((unrung_keys st).raiseEvt rfl) (State.modCore_st_keys ..)

theorem lanes_reseed (c k : Nat) : ((reseed s st c).core st k).lanes = if k = c then [] else (s.core st k).lanes := by
  have hcore : (reseed s st c).core st k = (s.modCore st c fun x => { x with lanes := [], reseedWaits := false }).core st k :=
    (unrung_core st k).raiseEvt rfl
  rw [hcore]
  by_cases hk : k = c
  · rw [hk, State.core_modCore_same, if_pos rfl]
  · rw [State.core_modCore, if_neg fun h => hk h.2.symm, if_neg hk]

/-- Each core of a list that is reseeded has its counters at their seeds. -/
theorem lanes_foldl_reseed {k : Nat} (l : List Nat) (h : k ∈ l ∨ (s.core st k).lanes = []) :
    ((l.foldl (reseed · st) s).core st k).lanes = [] := by
  induction l generalizing s with
  | nil => exact h.resolve_left List.not_mem_nil
  | cons c l ih =>
    refine ih _ ?_
    rw [lanes_reseed]
    by_cases hc : k = c
    · exact .inr (if_pos hc)
    · rw [if_neg hc]
      exact h.imp_left fun hm => (List.mem_cons.1 hm).resolve_left hc

/-! ### Commits (R269) -/

theorem mayCommit_iff : mayCommit s st = true ↔ (s.st st).clp.state = .idle ∨ (s.st st).clp.state = .torn := by
  simp [mayCommit]

theorem keys_commitIgnored : ((commitIgnored s st).st st).keys = { (s.st st).keys with commitIgnored := true } :=
  (keys_keyEvent ..).trans (State.modKeys_st_keys ..)

/-- A step key that is committed: the derivations of KS and KL begin and every lane of the stack is reseeded. -/
theorem commitStepKey_spec (h : mayCommit s st = true) :
    let k := (s.st st).keys
    let t := commitStepKey s st
    (t.st st).keys = { k with ksb := k.stagedS, skeySet := true, deriveL := true, deriveS := some (s.st st).clp.step } ∧
      ∀ c < 56, ∀ l, laneCtr t st c l = laneSeed st c l := by
  dsimp only [commitStepKey]
  rw [if_pos h]
  refine ⟨?keys, fun c hc => laneCtr_of_lanes_nil _ _ ?lanes⟩
  case keys =>
    rw [keys_keyEvent]
    refine Eq.trans (Same.foldl (v := fun s => (s.st st).keys) (fun s c => keys_reseed s st c) _ _) ?_
    simp only [startKs, State.modKeys_st_keys, State.modKeys_st_clp]
  case lanes =>
    rw [core_keyEvent]
    exact lanes_foldl_reseed _ st _ (.inl (List.mem_range.2 hc))

theorem keys_commitEvalKey (h : mayCommit s st = true) : let k := (s.st st).keys
    ((commitEvalKey s st).st st).keys =
      { k with keb := k.stagedE, ekeySet := true, deriveE := some (s.st st).clp.evals } := by
  simp only [commitEvalKey, h, if_true, keys_keyEvent, startKe, State.modKeys_st_keys, State.modKeys_st_clp]

theorem commitKeys_of_not_mayCommit (h : ¬ mayCommit s st = true) :
    commitStepKey s st = commitIgnored s st ∧ commitEvalKey s st = commitIgnored s st :=
  ⟨if_neg h, if_neg h⟩

/-! ### The end of the derivations (R267) -/

/-- Keys derived are those of the base keys, of the derivations in progress; none is in progress after it. -/
theorem derived_spec (k : Keys) : let k' := k.derived
    k'.busy = false ∧ k'.ksb = k.ksb ∧ k'.keb = k.keb ∧
      (∀ n, k.deriveS = some n → k'.ks = deriveKey k.ksb n 1 ∧ k'.skeyFp = fingerprint k.ksb) ∧
      (∀ n, k.deriveE = some n → k'.ke = deriveKey k.keb n 2 ∧ k'.ekeyFp = fingerprint k.keb) ∧
      (k.deriveL = true → k'.kl = deriveKey k.ksb 0 3) := by
  refine ⟨rfl, rfl, rfl, fun n hn => ?_, fun n hn => ?_, fun hl => if_pos hl⟩
  · simp only [Keys.derived, hn, Option.isSome_some, Bool.true_or, if_true, and_self]
  · simp only [Keys.derived, hn, Option.isSome_some, if_true, and_self]

/-! ### Reseeding on request (R275, R282) -/

/-- A reseed waits while the core has an accepted run, and is made at once where it has none. -/
theorem requestReseed_spec (c : Nat) : let t := requestReseed s st c
    if runsAccepted s st c then (t.core st c).reseedWaits = true ∧ (t.core st c).lanes = (s.core st c).lanes
    else (∀ l, laneCtr t st c l = laneSeed st c l) ∧ t.flag (stackPage st .rng c) 0x010 5 = true := by
  dsimp only [requestReseed]
  split
  · simp only [State.core_modCore_same, and_self]
  · refine ⟨laneCtr_of_lanes_nil _ _ ?_, flag_raiseEvt _ _ _ (by decide)⟩
    rw [lanes_reseed, if_pos rfl]

end

/-! ### Steps that a fault tears (R45) -/

theorem clp_recordPlain (s : State) (p : Page) (cls det info addr : Nat) (tears : Bool) (j : Fin 8) :
    ((recordPlain s p cls det info addr tears).st j).clp = (s.st j).clp :=
  (unrecorded_clp j).recordPlain (fun _ _ _ _ => rfl) ..

/-- Of the Clasps, a tear changes the one of its stack alone. -/
theorem clp_tornNow (info : Nat) (s : State) (i j : Fin 8) : ((tornNow info s i).st j).clp =
    ((s.modClp i fun c => { c with state := .torn, sequence := .none }).st j).clp :=
  (clp_raiseEvt _ (clpPage_inst i) 9 j).trans (clp_recordPlain ..)

theorem state_tornNow (info : Nat) (s : State) (i : Fin 8) : ((tornNow info s i).st i).clp.state = .torn := by
  rw [clp_tornNow, State.modClp_st_clp]

theorem clp_tornStack_other (info : Nat) (s : State) {i j : Fin 8} (h : i ≠ j) :
    ((tornStack info s i).st j).clp = (s.st j).clp := by
  unfold tornStack
  split
  · rw [clp_tornNow, State.modClp_st_other _ _ _ _ h]
  · rfl

section
variable {s : State}

/-- A stack in COMMIT among those torn ends in TORN, and one that is there stays. -/
theorem state_foldl_tornStack {st : Fin 8} (info : Nat) (l : List (Fin 8))
    (h : (s.st st).clp.state = .commit ∧ st ∈ l ∨ (s.st st).clp.state = .torn) :
    ((l.foldl (tornStack info) s).st st).clp.state = .torn := by
  induction l generalizing s with
  | nil => exact h.resolve_left fun hm => List.not_mem_nil hm.2
  | cons i l ih =>
    refine ih ?_
    by_cases hi : i = st
    · subst hi
      refine .inr ?_
      unfold tornStack
      split
      · exact state_tornNow ..
      · next hc => exact h.resolve_left fun hm => hc hm.1
    · rw [clp_tornStack_other _ _ hi]
      exact h.imp_left fun ⟨hc, hm⟩ => ⟨hc, (List.mem_cons.1 hm).resolve_left (Ne.symm hi)⟩

/-- An engine's fault in COMMIT tears the step of its stack (R45). -/
theorem state_recordFault_of_commit {p : Page} (cls det info addr : Nat) (he : isEngine p.blk = true)
    (hs : s.has p.home = true) (hc : (s.st p.home).clp.state = .commit) :
    ((recordFault s p cls det info addr).st p.home).clp.state = .torn := by
  rw [recordFault, if_pos ⟨he, hc⟩]
  refine state_foldl_tornStack _ _ (.inl ⟨(congrArg Clasp.state (clp_recordPlain ..)).trans hc, mem_stacksIn.2 ?_⟩)
  rwa [State.has, (kept_recordPlain ..).part]

/-- A fault of a stack outside COMMIT leaves every Clasp. -/
theorem clp_recordFault_of_not_commit {p : Page} (cls det info addr : Nat) (hc : (s.st p.home).clp.state ≠ .commit) (i : Fin 8) :
    ((recordFault s p cls det info addr).st i).clp = (s.st i).clp := by
  rw [recordFault, if_neg fun h => hc h.2]
  exact clp_recordPlain ..

end

/-! ### Self-checks (R281) -/

/-- FAULT_INFO shows what the fault names (R32). -/
theorem info_pageFault (s : State) (p : Page) (cls det info addr : Nat) :
    (pageFault s p cls det info addr).reg p 0x024 = BitVec.ofNat 32 info := by
  rw [pageFault, reg_raiseEvt_apart _ _ _ _ (by decide) (by decide), State.setPair, State.reg_setReg_other _ _ _ (by decide),
    State.reg_setReg_other _ _ _ (by decide), State.reg_setReg_same]

/-- What a failed self-check makes of the Clasp of its stack, by the state it was in (R281). -/
def clpAfterSelfCheck (state : StepState) (k : Clasp) : Clasp :=
  match state with
  | .opened | .reduce | .armed => { k with voidPlan := true }
  | .eval => { k with evalNonfinite := true }
  | _ => k

/-- The fault SELFTEST, with the value got. -/
def selfTestFault (s : State) (st : Fin 8) (c : Fin 56) (err : BitVec 128) : State :=
  recordFault s (stackPage st .rng c.val) 0x01 0x30 (word128 (selfCheckValue (s.core st c.val) ^^^ err) 0).toNat 0

section
variable {s : State} {st : Fin 8} (c : Fin 56) {err : BitVec 128}

theorem execRngSelfCheck_of_zero (hs : s.has st = true) : execRngSelfCheck st c 0 s = .next s := by
  simp only [execRngSelfCheck, hs, if_true]

theorem execRngSelfCheck_of_ne (hs : s.has st = true) (he : err ≠ 0) : execRngSelfCheck st c err s =
    .next ((selfTestFault s st c err).modClp st (clpAfterSelfCheck (s.st st).clp.state)) :=
  (if_pos hs).trans (congrArg _ (if_neg he))

theorem record_selfTestFault (s : State) (st : Fin 8) (err : BitVec 128) :
    let p := stackPage st .rng c.val
    (selfTestFault s st c err).fld p 0x020 15 0 = 0x0130 ∧
      (selfTestFault s st c err).reg p 0x024 = word128 (selfCheckValue (s.core st c.val) ^^^ err) 0 := by
  have hp : (stackPage st .rng c.val).inst < instances (stackPage st .rng c.val).blk := c.isLt
  have hk : Kind.page (stackPage st .rng c.val).blk ∉ faultKinds := (by decide : Kind.page .rng ∉ faultKinds)
  refine ⟨fld_recordFault _ _ _ _ _ _ hp hk (by decide) (by decide), ?_⟩
  rw [selfTestFault, reg_recordFault_eq _ _ _ _ _ _ hp hk (by decide) (by decide) (by decide) (by decide), info_pageFault,
    BitVec.ofNat_toNat, BitVec.setWidth_eq]

theorem clp_selfTestFault (hc : (s.st st).clp.state ≠ .commit) : ((selfTestFault s st c err).st st).clp = (s.st st).clp :=
  clp_recordFault_of_not_commit _ _ _ _ (by rwa [stackPage_home]) st

theorem state_selfTestFault (hs : s.has st = true) (hc : (s.st st).clp.state = .commit) :
    ((selfTestFault s st c err).st st).clp.state = .torn := by
  have h := state_recordFault_of_commit (p := stackPage st .rng c.val) 0x01 0x30
    (word128 (selfCheckValue (s.core st c.val) ^^^ err) 0).toNat 0 rfl
    (by rwa [stackPage_home]) (by rwa [stackPage_home])
  rwa [stackPage_home] at h

end

/-! ### The rows of the commands -/

section
variable {s : State} {r : Requester} {st : Fin 8} (hs : s.has st = true)
include hs

theorem execKeyCommitStep_of (hr : ((List.range 56).any fun c => mayWrite s r (stackPage st .rng c) 0x0A0) = true) :
    execKeyCommitStep r st s = .next (commitStepKey s st) :=
  (if_pos hs).trans (congrArg _ (if_pos hr))

theorem execKeyCommitEval_of (hr : ((List.range 56).any fun c => mayWrite s r (stackPage st .rng c) 0x0A0) = true) :
    execKeyCommitEval r st s = .next (commitEvalKey s st) :=
  (if_pos hs).trans (congrArg _ (if_pos hr))

theorem execReseed_of {c : Fin 56} (hr : mayWrite s r (stackPage st .rng c.val) 0x040 = true) :
    execReseed r st c s = .next (requestReseed s st c.val) :=
  (if_pos hs).trans (congrArg _ (if_pos hr))

end

end Sys2Proof.Laws
end

section
open Sys2Proof Machine Safety Laws

/-- Settles O24: commits by the state of the Clasp, and a failed self-check by whether it tears the step. -/
theorem randomGeneration : Obligations.RandomGeneration := by
  refine ⟨fun s r st hs hr => ⟨fun hc => ?_, fun hc => ?_, fun hc => ?_⟩, fun s st hs => ?_,
    fun s r st c hs hr => ⟨_, execReseed_of hs hr, requestReseed_spec s st c.val⟩,
    fun s st c err hs => ⟨⟨_, execRngSelfCheck_of_zero c hs, rfl⟩, fun he => ?_⟩⟩
  · exact ⟨_, execKeyCommitStep_of hs hr, commitStepKey_spec s st ((mayCommit_iff ..).2 hc)⟩
  · exact ⟨_, execKeyCommitEval_of hs hr, keys_commitEvalKey s st ((mayCommit_iff ..).2 hc)⟩
  · obtain ⟨hstep, heval⟩ := commitKeys_of_not_mayCommit s st (mt (mayCommit_iff ..).1 hc)
    exact ⟨⟨_, (execKeyCommitStep_of hs hr).trans (congrArg _ hstep), keys_commitIgnored s st⟩,
      ⟨_, (execKeyCommitEval_of hs hr).trans (congrArg _ heval), keys_commitIgnored s st⟩⟩
  · exact ⟨_, if_pos hs, by simpa only [State.modKeys_st_keys] using derived_spec (s.st st).keys⟩
  · obtain ⟨hcode, hinfo⟩ := record_selfTestFault c s st err
    refine ⟨_, execRngSelfCheck_of_ne c hs he, hcode, hinfo, fun hc => ?_, fun hc => ?_, fun hc => ?_⟩
    · rw [State.modClp_st_clp, clp_selfTestFault c (by rcases hc with hc | hc | hc <;> rw [hc] <;> decide)]
      rcases hc with hc | hc | hc <;> rw [hc] <;> rfl
    · rw [State.modClp_st_clp, clp_selfTestFault c (by rw [hc]; decide), hc]
      rfl
    · rw [State.modClp_st_clp, hc]
      exact state_selfTestFault c hs hc

end

section
/-! What COPY and FILL leave in memory (R306): stores of consecutive pieces are one store, so each transfer that ends without a
fault is one store of all its bytes. -/

namespace Sys2Proof.Laws

open Machine

/-! ### Bytes of consecutive ranges -/

theorem bytes_add (s : State) (a m n : Nat) : s.bytes a (m + n) = s.bytes a m ++ s.bytes (a + m) n := by
  induction m generalizing a with
  | zero => simp [State.bytes, Sparse.getList]
  | succ m ih =>
    rw [Nat.add_right_comm m 1 n, ← Nat.add_assoc a m 1, Nat.add_right_comm a m 1]
    exact congrArg (s.byte a :: ·) (ih (a + 1))

theorem setBytes_append (s : State) (a : Nat) (bs cs : List Byte) :
    s.setBytes a (bs ++ cs) = (s.setBytes a bs).setBytes (a + bs.length) cs := by
  induction bs generalizing s a with
  | nil => rfl
  | cons b bs ih => exact (ih (s.setByte a b) (a + 1)).trans (by rw [List.length_cons, Nat.add_right_comm]; rfl)

theorem bytes_length (s : State) (a n : Nat) : (s.bytes a n).length = n := Sparse.getList_length ..

/-- A store leaves the bytes of a range it does not meet. -/
theorem bytes_setBytes_apart (s : State) {a b n : Nat} {bs : List Byte} (h : b + n ≤ a ∨ a + bs.length ≤ b) :
    (s.setBytes a bs).bytes b n = s.bytes b n := by
  refine List.ext_getElem (by simp only [bytes_length]) fun i hi _ => ?_
  rw [bytes_length] at hi
  simp only [State.bytes, Sparse.getList_getElem]
  exact State.byte_setBytes_outside s (by omega)

/-- Repetitions of a pattern hold at each place what the pattern holds at that place modulo its length. -/
theorem getElem_flatten_replicate {pat : List Byte} {k i : Nat} (h : i < (List.replicate k pat).flatten.length) :
    (List.replicate k pat).flatten[i] = pat.getD (i % pat.length) 0 := by
  induction k generalizing i with
  | zero => simp at h
  | succ k ih =>
    simp only [List.replicate_succ, List.flatten_cons] at h ⊢
    by_cases hi : i < pat.length
    · rw [List.getElem_append_left hi, Nat.mod_eq_of_lt hi, List.getD_eq_getElem _ _ hi]
    · rw [List.getElem_append_right (by omega), ih, ← Nat.mod_eq_sub_mod (by omega)]

theorem length_flatten_replicate_of_four {pat : List Byte} {n : Nat} (hpat : pat.length = 4) (hn : n % 4 = 0) :
    (List.replicate (n / 4) pat).flatten.length = n := by
  rw [List.length_flatten, List.map_replicate, List.sum_replicate_nat, hpat, Nat.div_mul_cancel (Nat.dvd_of_mod_eq_zero hn)]

/-! ### Accesses that end without an error -/

/-- A check that a body makes first did not end a body that ends without an error. -/
theorem guard_passed {β : Type} {c : Prop} [Decidable c] {s u : State} {x : β} {r : State × Option β}
    (h : (if c then (s, some x) else r) = (u, none)) : ¬c ∧ r = (u, none) := by
  split at h
  · cases h
  · exact ⟨‹_›, h⟩

section
variable {s u : State} {st : Fin 8} {a : Nat} {bs : List Byte}

theorem engWrite_done {plan : Nat} {driven : Bool} (hbad : s.bad = [])
    (h : engWrite s st plan driven a bs = (u, none)) : u = s.setBytes a bs := by
  unfold engWrite at h
  split at h
  · next hbs => subst hbs; cases h; rfl
  · dsimp only at h
    split at h
    · cases h
    · obtain ⟨-, h⟩ := guard_passed h
      rw [rawWrite, if_pos hbad] at h
      cases h
      rfl

theorem xfrWrite_done (hbad : s.bad = []) (h : xfrWrite s st a bs = (u, none)) : u = s.setBytes a bs := by
  unfold xfrWrite at h
  split at h
  · next hbs => subst hbs; cases h; rfl
  · obtain ⟨-, h⟩ := guard_passed h
    obtain ⟨rfl, he⟩ := Prod.mk.inj h
    exact engWrite_done hbad (Prod.ext rfl (Option.map_eq_none_iff.1 he))

theorem engRead_done {plan n : Nat} (h : engRead s st plan a n = .ok bs) : bs = s.bytes a n := by
  unfold engRead at h
  split at h
  · next hn => subst hn; cases h; rfl
  · dsimp only at h
    split at h
    · cases h
    · split at h <;> cases h
      rfl

theorem xfrRead_done {side n : Nat} (h : xfrRead s st side a n = .ok bs) : bs = s.bytes a n := by
  unfold xfrRead at h
  split at h
  · next hn => subst hn; cases h; rfl
  · split at h
    · cases h
    · split at h
      · next hr => cases h; exact engRead_done hr
      · cases h

end

/-! ### Transfers piece by piece -/

/-- A piece ends the transfer, or ends at a line, and what is left needs one line less. -/
theorem pieceLen_cases {dst n k : Nat} (h : n ≤ 256 * (k + 1) - dst % 256) :
    pieceLen dst n ≤ n ∧ n - pieceLen dst n ≤ 256 * k - (dst + pieceLen dst n) % 256 := by
  unfold pieceLen
  omega

theorem copyPieces_done {st : Fin 8} {k src dst n : Nat} {s u : State} (hbad : s.bad = []) (hk : n ≤ 256 * k - dst % 256)
    (hapart : src + n ≤ dst ∨ dst + n ≤ src)
    (h : copyPieces (fun s => xfrRead s st 0) (fun s => xfrWrite s st) k src dst n s = (u, none)) :
    u = s.setBytes dst (s.bytes src n) := by
  induction k generalizing src dst n s with
  | zero =>
    obtain rfl : n = 0 := by omega
    cases h
    rfl
  | succ k ih =>
    unfold copyPieces at h
    split at h
    · next hn => subst hn; cases h; rfl
    · dsimp only at h
      obtain ⟨hm, hleft⟩ := pieceLen_cases hk
      generalize pieceLen dst n = m at h hm hleft
      split at h
      · split at h <;> cases h
      · next bs hread =>
        obtain rfl := xfrRead_done hread
        split at h
        · cases h
        · next s1 hwrite =>
          obtain rfl := xfrWrite_done hbad hwrite
          calc u = (s.setBytes dst (s.bytes src m)).setBytes (dst + m)
                    ((s.setBytes dst (s.bytes src m)).bytes (src + m) (n - m)) := ih hbad hleft (by omega) h
            _ = (s.setBytes dst (s.bytes src m)).setBytes (dst + (s.bytes src m).length) (s.bytes (src + m) (n - m)) := by
              rw [bytes_setBytes_apart s (by rw [bytes_length]; omega), bytes_length]
            _ = s.setBytes dst (s.bytes src n) := by
              rw [← setBytes_append, ← bytes_add, Nat.add_sub_cancel' hm]

theorem fillPieces_done {st : Fin 8} {pat : List Byte} {k dst n : Nat} {s u : State} (hpat : pat.length = 4)
    (hbad : s.bad = []) (hk : n ≤ 256 * k - dst % 256) (hn : n % 4 = 0) (hdst : dst % 4 = 0)
    (h : fillPieces st pat k dst n s = (u, none)) : u = s.setBytes dst (List.replicate (n / 4) pat).flatten := by
  induction k generalizing dst n s with
  | zero =>
    obtain rfl : n = 0 := by omega
    cases h
    rfl
  | succ k ih =>
    unfold fillPieces at h
    split at h
    · next hn => subst hn; cases h; rfl
    · dsimp only at h
      obtain ⟨hm, hleft⟩ := pieceLen_cases hk
      have hm4 : pieceLen dst n % 4 = 0 := by unfold pieceLen; omega
      generalize pieceLen dst n = m at h hm hleft hm4
      split at h
      · cases h
      · next s1 hwrite =>
        obtain rfl := xfrWrite_done hbad hwrite
        have hlen := length_flatten_replicate_of_four hpat hm4
        calc u = (s.setBytes dst (List.replicate (m / 4) pat).flatten).setBytes (dst + m)
                  (List.replicate ((n - m) / 4) pat).flatten := ih hbad hleft (by omega) (by omega) h
          _ = s.setBytes dst (List.replicate (m / 4 + (n - m) / 4) pat).flatten := by
            rw [List.replicate_add, List.flatten_append, setBytes_append, hlen]
          _ = s.setBytes dst (List.replicate (n / 4) pat).flatten := by
            rw [show m / 4 + (n - m) / 4 = n / 4 by omega]

/-! ### COPY and FILL -/

section
variable {s u : State} {st : Fin 8} {d : Desc}

theorem lenBad_eq_false {n : Nat} (h : ¬lenBad n = true) : n ≠ 0 ∧ n % 16 = 0 := by
  simpa [lenBad] using h

theorem xfrCopy_done (hbad : s.bad = []) (h : xfrCopy s st d = (u, none)) :
    u = s.setBytes (xfrDst d) (s.bytes (xfrSrc d) (xfrLen d)) := by
  obtain ⟨hlen, h⟩ := guard_passed h
  obtain ⟨-, h⟩ := guard_passed h
  obtain ⟨-, h⟩ := guard_passed h
  obtain ⟨hmeet, h⟩ := guard_passed h
  obtain ⟨hn, hn16⟩ := lenBad_eq_false hlen
  refine copyPieces_done hbad (by omega) ?_ h
  simp only [rangesMeet, Bool.and_eq_true, bne_iff_ne, decide_eq_true_eq] at hmeet
  omega

theorem xfrFill_done (hbad : s.bad = []) (h : xfrFill s st d = (u, none)) :
    xfrLen d % 16 = 0 ∧
      u = s.setBytes (xfrDst d) (List.replicate (xfrLen d / 4) (leBytes (descBits d 1 31 0) 4)).flatten := by
  obtain ⟨hlen, h⟩ := guard_passed h
  obtain ⟨hdst, h⟩ := guard_passed h
  obtain ⟨hn, hn16⟩ := lenBad_eq_false hlen
  exact ⟨hn16, fillPieces_done (leBytes_length ..) hbad (by omega) (by omega) (by omega) h⟩

end

end Sys2Proof.Laws
end

section
open Sys2Proof Machine Safety Laws

/-- Settles O28: each transfer that ends without a fault is one store at DST, of the bytes of SRC or of the pattern repeated. -/
theorem copyAndFill : Obligations.CopyAndFill := by
  refine ⟨fun s u st d hbad h => ?_, fun s u st d hbad h => ?_⟩ <;> dsimp only
  · obtain rfl := xfrCopy_done hbad h
    have hlen := bytes_length s (xfrSrc d) (xfrLen d)
    refine ⟨?_, fun a ha => State.byte_setBytes_outside s (by omega)⟩
    simpa only [hlen] using State.bytes_setBytes s (xfrDst d) (s.bytes (xfrSrc d) (xfrLen d))
  · obtain ⟨hn16, rfl⟩ := xfrFill_done hbad h
    have hlen := length_flatten_replicate_of_four (leBytes_length (descBits d 1 31 0) 4) (n := xfrLen d) (by omega)
    refine ⟨fun i hi => ?_, fun a ha => State.byte_setBytes_outside s (by omega)⟩
    rw [State.byte_setBytes, dif_pos ⟨by omega, by omega⟩, getElem_flatten_replicate, leBytes_length, Nat.add_sub_cancel_left]

end

section
/-! A sequencer's commands (R312 to R327): what an instruction that issues, the end of a wait and a fault leave of the sequencer, of
its registers and of memory. -/

namespace Sys2Proof.Laws

open Machine Safety

/-! ### Readings that no fault reaches -/

/-- A sequencer is no part of what an event, a fault or a torn step changes. -/
theorem unfaulted_seq (i : Fin 8) (k : Fin 4) : Unfaulted (·.seq i k) :=
  have hb := besideSeq_seq (st := i) (i := i) (n := k + 1) (k := k) (by omega)
  { hb with reg := fun _ _ _ _ _ => rfl }

/-- Nor is memory. -/
theorem unfaulted_byte : Unfaulted State.byte where
  box s i m f _ := same_byte_iff.2 ((keptBut_modBox s i m f).kind .memory (by decide))
  mail _ _ _ _ := rfl
  wake _ _ := rfl
  locket _ _ := rfl
  draw _ _ := rfl
  page _ _ _ _ := rfl
  reg _ _ _ _ _ := rfl
  clasp s i f := same_byte_iff.2 ((keptBut_modClp s i f).kind .memory (by decide))

theorem sameByte_modSeq (s : State) (st : Fin 8) (n : Fin 4) (f : Seq → Seq) : Same State.byte s (s.modSeq st n f) :=
  same_byte_iff.2 ((keptBut_modSeq s st n f).kind .memory (by decide))

section
variable {s u : State} {st : Fin 8} {q : Fin 4}

/-! ### Instructions and waits -/

theorem issue_of_issues {opc : Nat} {body : State → DWord → State} (h : Issues s st q opc) :
    issue opc body st q s = .next (body s (s.seq st q).instr) := by
  obtain ⟨hs, hr, hw, ho, hg⟩ := h
  simp [issue, hs, hr, hw, ho, hg]

/-- A command that is one instruction ends as its body does, where the instruction issues. -/
theorem completes_issue {c : Instr} {opc : Nat} {body : State → DWord → State} {P : State → Prop}
    (hc : exec c s = issue opc body st q s) (h : Issues s st q opc) (hP : P (body s (s.seq st q).instr)) : Completes c s P :=
  ⟨_, hc.trans (issue_of_issues h), hP⟩

/-- The end of a wait is its body, where the sequencer waits so. -/
theorem completes_resume {c : Instr} {k : SeqWait} {body : State → DWord → State} {P : State → Prop}
    (hc : exec c s = resume k body st q s) (hs : s.has st = true) (hr : (s.seq st q).st = .running) (hw : (s.seq st q).wait = k)
    (hP : P (body s (s.seq st q).instr)) : Completes c s P :=
  ⟨_, hc.trans (by simp [resume, hs, hr, hw]), hP⟩

/-! ### An instruction that executes -/

/-- SEQ_ICNT counts an instruction, and nothing else of a sequencer but its pc and wait changes, whatever the instruction has drawn,
counted or written before (R315). -/
theorem executed_seqNext (hp : u.pair (seqPage st q) 0x064 = s.pair (seqPage st q) 0x064) (hm : Same State.byte s u) (pc : BitVec 15) :
    Executed s (seqNext u st q pc) st q (u.seq st q) pc := by
  have hb := hm.trans (sameByte_modSeq u st q fun x => { x with pc := pc, wait := .none, abandoned := false })
  refine ⟨State.seq_modSeq_same u st q fun x => { x with pc := pc, wait := .none, abandoned := false }, ?_, same_byte_iff.1 hb⟩
  rw [seqNext, State.countPair, pair_setPair, ← hp]
  rfl

theorem executed_seqDo (hp : u.pair (seqPage st q) 0x064 = s.pair (seqPage st q) 0x064) (hm : Same State.byte s u) (f : Seq → Seq) :
    Executed s (seqDo u st q f) st q (f (u.seq st q)) ((u.seq st q).pc + 1) := by
  have h := executed_seqNext (u := u.modSeq st q f) hp (hm.trans (sameByte_modSeq u st q f)) ((u.seq st q).pc + 1)
  rwa [State.seq_modSeq_same] at h

/-- The same where nothing stands before the change of the sequencer. -/
theorem executed_seqDo_self (f : Seq → Seq) : Executed s (seqDo s st q f) st q (f (s.seq st q)) ((s.seq st q).pc + 1) :=
  executed_seqDo rfl (.refl s) f

/-! ### A sequencer that faults -/

theorem seqFaulted_of {cls det high addr : Nat} (hc : cls < 256) (hd : det < 256) :
    SeqFaulted s (seqFault s st q cls det high addr) st q (det + cls * 2 ^ 8) (high % 2 ^ 16) := by
  have he : isEngine (seqPage st q).blk = false := rfl
  have hv : ∀ t p x, (seqVoid t st q).reg p x = t.reg p x := fun t p x => by
    unfold seqVoid
    dsimp only
    split <;> rfl
  have hclp : ∀ {α : Type} {v : State → α}, Unfaulted v → ∀ t, Same v t (seqVoid t st q) := fun h t => .ite (h.clasp ..) (.refl t)
  have hpc : (s.seq st q).pc.toNat + high % 2 ^ 16 * 2 ^ 16 < 2 ^ 32 := by
    have := (s.seq st q).pc.isLt
    omega
  obtain ⟨hcode, hinfo⟩ := record_recordFault (s.modSeq st q fun x => { x with st := .faulted, wait := .none }) (seqPage st q) cls det
    ((s.seq st q).pc.toNat + high % 2 ^ 16 * 2 ^ 16) addr he hc hd hpc
  refine ⟨?_, ?_, ?_, ?_⟩
  · exact Eq.trans (((unfaulted_seq st q).recordFault ..).trans (hclp (unfaulted_seq st q) _)) (State.seq_modSeq_same s st q _)
  · rw [State.fld, seqFault, hv]
    exact hcode
  · rw [seqFault, hv, hinfo]
  · exact same_byte_iff.1 ((sameByte_modSeq s st q _).trans (unfaulted_byte.recordFault ..) |>.trans
      (hclp unfaulted_byte _))

/-- An event on top of a fault leaves the fault as it stands. -/
theorem seqFaulted_raiseEvt {t : State} {code high : Nat} (h : SeqFaulted s t st q code high) (n : Nat) :
    SeqFaulted s (raiseEvt t (seqPage st q) n) st q code high := by
  obtain ⟨hseq, hcode, hinfo, hmem⟩ := h
  refine ⟨Eq.trans ((unfaulted_seq st q).raiseEvt ..) hseq, ?_, ?_, same_byte_iff.1 ((same_byte_iff.2 hmem).trans (unfaulted_byte.raiseEvt ..))⟩
  · rwa [State.fld, reg_raiseEvt_apart _ _ _ _ (by decide) (by decide)]
  · rwa [reg_raiseEvt_apart _ _ _ _ (by decide) (by decide)]

end

/-! ### Registers and predicates (R312) -/

section
variable (x : Seq) (n : Nat)

theorem gpr_setGpr (v : DWord) (h0 : 0 < n) (hn : n < 32) (m : Nat) : (x.setGpr n v).gpr m = if m = n then v else x.gpr m := by
  have hs : x.setGpr n v = { x with g := x.g.set n v } := by
    rw [Seq.setGpr, dif_pos hn, if_neg (by omega)]
  rw [hs]
  unfold Seq.gpr
  by_cases hm : m < 32
  · rcases eq_or_ne m n with rfl | hne
    · simp [hn, h0.ne']
    · simp [hm, hne, Vector.getElem_set_ne _ _ hne.symm]
  · rw [dif_neg hm, if_neg (by omega), dif_neg hm]

theorem setGpr_zero (v : DWord) : x.setGpr 0 v = x := rfl
theorem gpr_zero : x.gpr 0 = 0 := rfl

end

end Sys2Proof.Laws
end

section
/-! Arithmetic and control of a sequencer (R315): what the operands give, and O29 and O30. -/

namespace Sys2Proof.Laws

open Machine Safety

/-! ### Operands -/

theorem shiftAmount_eq (b : DWord) : shiftAmount b = b.toNat % 64 := by
  simp [shiftAmount, bitsOf_eq]

theorem mul_eq_ofNat (a b : DWord) : a * b = BitVec.ofNat 64 (a.toNat * b.toNat) := by
  rw [BitVec.ofNat_mul, BitVec.ofNat_toNat, BitVec.ofNat_toNat, BitVec.setWidth_eq, BitVec.setWidth_eq]

/-- Sign extension of IMM shows in no bit of a pc (R315). -/
theorem branchTarget_eq (x : Seq) (w : DWord) : branchTarget x w = BitVec.ofNat 15 (x.pc.toNat + ksqImm w) := by
  have himm : ksqImm w < 2 ^ 32 := bitsOf_lt w.toNat 63 32
  have hs : (ksqSext w).toNat % 2 ^ 15 = ksqImm w % 2 ^ 15 := by
    rw [ksqSext, BitVec.toNat_signExtend, BitVec.toNat_setWidth, BitVec.toNat_ofNat]
    split <;> omega
  refine BitVec.eq_of_toNat_eq ?_
  rw [branchTarget, BitVec.toNat_add, BitVec.toNat_ofNat, BitVec.toNat_ofNat]
  omega

/-- A predicate written reads so, but p0 as true; the others read as before (R312). -/
theorem pred_setPred (x : Seq) (n : Nat) (v : Bool) (m : Nat) :
    (x.setPred n v).pred m = if m % 8 = n % 8 then (n % 8 == 0 || v) else x.pred m := by
  by_cases h0 : n % 8 = 0
  · rw [Seq.setPred, if_pos h0]
    split
    · simp_all [Seq.pred]
    · rfl
  · have hp : withBits x.p.toNat (n % 8) (n % 8) (bit v) < 2 ^ 8 := withBits_lt _ le_rfl (Nat.mod_lt _ (by decide)) x.p.isLt
    rw [Seq.setPred, if_neg h0]
    simp only [Seq.pred, bitAt, BitVec.toNat_ofNat, Nat.mod_eq_of_lt hp, testBit_withBits _ _ _ _ _ le_rfl]
    by_cases hm : m % 8 = n % 8
    · cases v <;> simp [hm, bit]
    · rw [if_neg hm, if_neg (by omega)]

/-- A comparison as the manual states it (R315). -/
theorem cmpCond_eq (c : Nat) (a b : DWord) : cmpCond c a b = (match c with
    | 0 => decide (a = b)
    | 1 => decide (a ≠ b)
    | 2 => decide (a.toInt < b.toInt)
    | 3 => decide (b.toInt ≤ a.toInt)
    | 4 => decide (a.toNat < b.toNat)
    | _ => decide (b.toNat ≤ a.toNat)) := by
  unfold cmpCond
  rw [Bool.eq_iff_iff]
  split <;> simp [BitVec.slt, BitVec.ult]

/-! ### Commands -/

@[simp] theorem seq_countPair (s : State) (p : Page) (off n : Nat) (i : Fin 8) (k : Fin 4) : (s.countPair p off n).seq i k = s.seq i k := rfl
@[simp] theorem seq_raiseEvt (s : State) (p : Page) (n : Nat) (i : Fin 8) (k : Fin 4) : (raiseEvt s p n).seq i k = s.seq i k :=
  (unfaulted_seq i k).raiseEvt s p n

section
variable {s : State} {st : Fin 8} {q : Fin 4}

/-- An arithmetic instruction leaves its function of g[RA] and B in g[RD]. -/
theorem completes_alu {c : Instr} {opc : Nat} {f : DWord → DWord → DWord} (hc : exec c s = issue opc (aluBody f st q) st q s)
    {v : DWord} (hv : f ((s.seq st q).gpr (ksqRa (s.seq st q).instr)) ((s.seq st q).opB (s.seq st q).instr) = v)
    (h : Issues s st q opc) :
    Completes c s fun t => Executed s t st q ((s.seq st q).setGpr (ksqRd (s.seq st q).instr) v) ((s.seq st q).pc + 1) := by
  subst hv
  exact completes_issue hc h (executed_seqDo_self _)

/-- HALT leaves the sequencer at rest with its event (R315, R327). -/
theorem haltBody_spec (w : DWord) : let t := haltBody st q s w
    t.seq st q = { s.seq st q with st := .halted, wait := .none, exit := BitVec.ofNat 32 (ksqImm w) } ∧
      t.flag (seqPage st q) 0x010 3 = true ∧ MemoryKept s t := by
  have hmem : Same State.byte s (haltBody st q s w) := (sameByte_modSeq ..).trans ((unfaulted_byte.reg _).setPair _ _ (by decide))
    |>.trans (sameByte_modSeq ..) |>.trans (unfaulted_byte.raiseEvt ..)
  refine ⟨?_, flag_raiseEvt _ _ _ (by decide), same_byte_iff.1 hmem⟩
  dsimp only [haltBody, seqRest]
  rw [seq_raiseEvt, State.seq_modSeq_same, seq_countPair, State.seq_modSeq_same]

end

end Sys2Proof.Laws
end

section
open Sys2Proof Machine Safety Laws

/-- Settles O29: every arithmetic body is one change of g[RD], and the register file reads g0 as zero. -/
theorem sequencerArithmetic : Obligations.SequencerArithmetic := by
  refine ⟨fun s st q => ?_, fun x n v => ⟨gpr_zero x, setGpr_zero x v, fun h0 hn => ⟨?_, fun m hm => ?_⟩⟩⟩
  · intro x a b n gives
    have hn : shiftAmount b = n := shiftAmount_eq b
    refine ⟨?add, ?sub, ?and, ?or, ?xor, ?shl, ?shr, ?sar, ?mul, ?movhi⟩
    case add | sub | and | or | xor => exact completes_alu rfl rfl
    case shl => exact completes_alu rfl (congrArg (a <<< ·) hn)
    case shr => exact completes_alu rfl (congrArg (a >>> ·) hn)
    case sar => exact completes_alu rfl (congrArg a.sshiftRight hn)
    case mul => exact completes_alu rfl (mul_eq_ofNat a b)
    case movhi => exact fun h => completes_issue rfl h (executed_seqDo_self _)
  · rw [gpr_setGpr x n v h0 hn, if_pos rfl]
  · rw [gpr_setGpr x n v h0 hn, if_neg hm]

/-- Settles O30: each body by what it changes of the sequencer; HALT by its rest, TRAP by its fault. -/
theorem sequencerControl : Obligations.SequencerControl := by
  refine ⟨fun s st q => ?_, fun x n v => ⟨rfl, rfl, fun h0 hn => ⟨?_, fun m hm hne => ?_⟩⟩⟩
  · intro x w a b
    refine ⟨?cmp, ?pset, ?br, ?call, ?jmp, ?nop, ?halt, ?trap, ?time⟩ <;> intro h
    case cmp =>
      refine completes_issue rfl h ?_
      exact Eq.subst (motive := fun v => Executed s _ st q (x.setPred (ksqRd w) v) (x.pc + 1)) (cmpCond_eq (ksqFn w) a b)
        (executed_seqDo_self _)
    case pset => exact completes_issue rfl h (executed_seqDo_self _)
    case br =>
      refine completes_issue (rfl : _ = execBr st q s) h ?_
      rw [← branchTarget_eq]
      exact executed_seqNext rfl (.refl s) _
    case call =>
      refine completes_issue rfl h ?_
      have hx := executed_seqNext (u := s.modSeq st q fun y => y.setGpr 31 (BitVec.ofNat 64 (y.pc.toNat + 1))) (q := q) (st := st)
        (s := s) rfl (sameByte_modSeq ..) (branchTarget x w)
      rw [State.seq_modSeq_same] at hx
      rw [← branchTarget_eq]
      exact hx
    case jmp => exact completes_issue (rfl : _ = execJmp st q s) h (executed_seqNext rfl (.refl s) _)
    case nop => exact completes_issue (rfl : _ = execNop st q s) h (executed_seqDo_self id)
    case halt => exact completes_issue rfl h (haltBody_spec w)
    case trap => exact completes_issue (rfl : _ = execTrap st q s) h (seqFaulted_of (by decide) (by decide))
    case time =>
      refine completes_issue rfl h ?_
      unfold timeBody
      split
      · exact executed_seqDo_self _
      · exact ⟨_, executed_seqDo rfl rfl _⟩
  · rw [pred_setPred, if_pos rfl]
    have : n % 8 ≠ 0 := by omega
    simp [this]
  · rw [pred_setPred, if_neg (by omega)]

end

section
/-! The data store and the descriptor buffers of a sequencer (R315, R323), and O32. -/

namespace Sys2Proof.Laws

open Machine Safety

/-! ### The data store -/

section
variable (x : Seq) (a : Nat) (bs : List Byte)

theorem data_setData : (x.setData a bs).data a bs.length = bs := by
  refine List.ext_getElem (Sparse.getList_length ..) fun i h h' => ?_
  simp only [Seq.data, Seq.setData, Sparse.getList_getElem, Sparse.get_setList]
  rw [dif_pos ⟨by omega, by omega⟩]
  congr 1
  omega

theorem data_setData_outside {i : Nat} (h : i < a ∨ a + bs.length ≤ i) : (x.setData a bs).data i 1 = x.data i 1 := by
  simp only [Seq.data, Seq.setData, Sparse.getList, Sparse.get_setList]
  rw [dif_neg (by omega)]

end

/-! ### Words of a buffer -/

/-- A word of a descriptor written reads so, and the others as before (R315). -/
theorem descWord_setDescWord (d : Desc) (j : Nat) (v : DWord) {i : Nat} (hi : i < 4) :
    descWord (setDescWord d j v) i = if i = j then v else descWord d i := by
  refine BitVec.eq_of_getLsbD_eq fun k hk => ?_
  simp only [descWord, setDescWord, BitVec.getLsbD_extractLsb', BitVec.getLsbD_ofNat, testBit_withBits _ _ _ _ _ (Nat.le_add_right ..)]
  by_cases hij : i = j
  · subst hij
    rw [if_pos (by omega), if_pos rfl, Nat.add_sub_cancel_left]
    simp [hk, show 64 * i + k < 256 by omega, BitVec.getLsbD]
  · rw [if_neg (by omega), if_neg hij, BitVec.getLsbD_extractLsb']
    simp [hk, show 64 * i + k < 256 by omega, BitVec.getLsbD]

/-- The bits of a word with a field of at least one bit inserted (R315). -/
theorem getLsbD_inserted (old v : DWord) {lo n k : Nat} (hn : 0 < n) (hk : k < 64) :
    (BitVec.ofNat 64 (withBits old.toNat (lo + n - 1) lo v.toNat)).getLsbD k =
      if lo ≤ k ∧ k < lo + n then v.getLsbD (k - lo) else old.getLsbD k := by
  rw [BitVec.getLsbD_ofNat, testBit_withBits _ _ _ _ _ (by omega), decide_eq_true hk, Bool.true_and]
  by_cases h : lo ≤ k ∧ k < lo + n
  · rw [if_pos h, if_pos (by omega), BitVec.testBit_toNat]
  · rw [if_neg h, if_neg (by omega), BitVec.testBit_toNat]

/-! ### Instructions on the data store -/

section
variable {s t : State} {st : Fin 8} {q : Fin 4}

theorem dataOk_iff {a : DWord} {n : Nat} : dataOk a n = true ↔ a.toNat % n = 0 ∧ a.toNat + n ≤ 65536 := by
  simp [dataOk]

theorem executed_dataBody {size : Nat} {w : DWord} (f : Seq → Nat → Seq)
    (h : ((s.seq st q).sum w).toNat % size = 0 ∧ ((s.seq st q).sum w).toNat + size ≤ 65536) :
    Executed s (dataBody size f st q s w) st q (f (s.seq st q) ((s.seq st q).sum w).toNat) ((s.seq st q).pc + 1) := by
  dsimp only [dataBody]
  rw [if_pos (dataOk_iff.2 h)]
  exact executed_seqDo_self _

/-- An address that is not aligned or leaves the store is DATA_RANGE (R323). -/
theorem seqFaulted_dataBody {size : Nat} {w : DWord} (f : Seq → Nat → Seq)
    (h : ((s.seq st q).sum w).toNat % size ≠ 0 ∨ 65536 < ((s.seq st q).sum w).toNat + size) :
    SeqFaulted s (dataBody size f st q s w) st q 0x0A23 (min ((s.seq st q).sum w).toNat 0xFFFF) := by
  have hm : min ((s.seq st q).sum w).toNat 0xFFFF % 2 ^ 16 = min ((s.seq st q).sum w).toNat 0xFFFF := by omega
  have hf := seqFaulted_of (s := s) (st := st) (q := q) (cls := 0x0A) (det := 0x23) (high := min ((s.seq st q).sum w).toNat 0xFFFF)
    (addr := ((s.seq st q).sum w).toNat) (by decide) (by decide)
  dsimp only [dataBody]
  rw [if_neg fun ok => by have := dataOk_iff.1 ok; omega]
  rwa [hm] at hf

/-- What a store of bytes leaves of the sequencer and of memory. -/
theorem stores_of_executed {a : Nat} {bs : List Byte} (h : Executed s t st q ((s.seq st q).setData a bs) ((s.seq st q).pc + 1)) :
    (t.seq st q).data a bs.length = bs ∧
      (∀ i, i < a ∨ a + bs.length ≤ i → (t.seq st q).data i 1 = (s.seq st q).data i 1) ∧ (t.seq st q).g = (s.seq st q).g ∧
      (t.seq st q).p = (s.seq st q).p ∧ (t.seq st q).b = (s.seq st q).b ∧ (t.seq st q).pc = (s.seq st q).pc + 1 ∧ MemoryKept s t := by
  obtain ⟨hseq, -, hmem⟩ := h
  rw [hseq]
  exact ⟨data_setData .., fun i hi => data_setData_outside _ _ _ hi, rfl, rfl, rfl, rfl, hmem⟩

/-- A DINS that issues names a field of at least one bit (R315). -/
theorem dinsWidth_pos_of_issues (h : Issues s st q 0x29) : 0 < bitsOf (ksqImm (s.seq st q).instr) 12 6 := by
  obtain ⟨-, -, hok, hopc, -⟩ := h
  simp only [ksqOk, hopc, ksqSpec, dinsOk, Bool.and_eq_true, decide_eq_true_eq, bne_self_eq_false, Bool.false_or] at hok
  omega

end

end Sys2Proof.Laws
end

section
open Sys2Proof Machine Safety Laws

/-- Settles O32: loads and stores by the two cases of their address, DWR and DINS by the words of the buffer they write. -/
theorem sequencerData : Obligations.SequencerData := by
  intro s st q x w a rd stores
  refine ⟨fun h8 hle => ⟨fun h => ?ldd, fun h => ?std⟩, fun h32 hle => ⟨fun h => ?dld, fun h => ?dst⟩,
    fun hbad => ⟨fun h => ?lddBad, fun h => ?stdBad⟩, fun hbad => ⟨fun h => ?dldBad, fun h => ?dstBad⟩, fun h => ?dwr, fun h => ?dins⟩
  case ldd => exact completes_issue (rfl : _ = execLdd st q s) h (executed_dataBody _ ⟨h8, hle⟩)
  case std => exact completes_issue (rfl : _ = execStd st q s) h (stores_of_executed (executed_dataBody _ ⟨h8, hle⟩))
  case dld => exact completes_issue (rfl : _ = execDld st q s) h (executed_dataBody _ ⟨h32, hle⟩)
  case dst => exact completes_issue (rfl : _ = execDst st q s) h (stores_of_executed (executed_dataBody _ ⟨h32, hle⟩))
  case lddBad => exact completes_issue (rfl : _ = execLdd st q s) h (seqFaulted_dataBody _ hbad)
  case stdBad => exact completes_issue (rfl : _ = execStd st q s) h (seqFaulted_dataBody _ hbad)
  case dldBad => exact completes_issue (rfl : _ = execDld st q s) h (seqFaulted_dataBody _ hbad)
  case dstBad => exact completes_issue (rfl : _ = execDst st q s) h (seqFaulted_dataBody _ hbad)
  case dwr =>
    exact completes_issue (rfl : _ = execDwr st q s) h ⟨_, executed_seqDo_self _, fun i hi => descWord_setDescWord _ _ _ hi⟩
  case dins =>
    refine completes_issue (rfl : _ = execDins st q s) h ⟨_, executed_seqDo_self _, fun i hi k hk => ?_⟩
    have hlo : ksqImm w % 64 = bitsOf (ksqImm w) 5 0 := by simp [bitsOf_eq]
    have hn : ksqImm w / 64 % 128 = bitsOf (ksqImm w) 12 6 := by simp [bitsOf_eq]
    rw [descWord_setDescWord _ _ _ hi, hlo, hn]
    by_cases hfn : i = ksqFn w
    · rw [if_pos hfn, getLsbD_inserted _ _ (dinsWidth_pos_of_issues h) hk, hfn]
      simp only [true_and]
      rfl
    · rw [if_neg hfn, if_neg fun e => hfn e.1]

end

section
/-! O35: what CLEAR keeps of a sequencer (R321, R326). -/

namespace Sys2Proof.Laws

open Machine

/-- A part at reset, but that sequencer 0 of stack 0 has pushed a descriptor whose accept sequence is 1 to queue 0x80. -/
def pushedAtReset : State := State.reset.modSeq 0 0 fun x => { x with pushed := [(0x80, 1)] }

theorem exec_seqClear_pushedAtReset : exec (.seqClear .mgmt 0 0) pushedAtReset = .next (pushedAtReset.modSeq 0 0 Seq.cleared) := by
  have hw : mayWrite pushedAtReset .mgmt (stackPage 0 .seq 0) 0x040 = true := by decide
  change Host.Outcome.next (asked pushedAtReset .mgmt (stackPage 0 .seq 0) 0x040 (seqClear pushedAtReset 0 0)) = _
  rw [asked, if_pos hw]
  rfl

end Sys2Proof.Laws
end

section
open Sys2Proof Machine Laws

/-- Refutes O35: CLEAR keeps what the sequencer pushed and what it waited for (R321), where the statement has both empty. -/
theorem not_sequencerCommands : ¬ Obligations.SequencerCommands := by
  rintro ⟨hcmd, -, -⟩
  obtain ⟨-, -, -, -, -, -, hclear, -⟩ := hcmd pushedAtReset .mgmt 0 0 (by decide) (by decide) (by decide)
  obtain ⟨t, ht, hseq, -⟩ := hclear (by decide) (by decide)
  obtain rfl : pushedAtReset.modSeq 0 0 Seq.cleared = t := Host.Outcome.next.inj (exec_seqClear_pushedAtReset.symm.trans ht)
  have hpushed : [((0x80 : Nat), (1 : Word))] = [] := congrArg Seq.pushed hseq
  exact absurd hpushed (by decide)

end

section
/-! Queues, waits and their ends of a sequencer (R317 to R322), and O34. -/

namespace Sys2Proof.Laws

open Machine Safety

/-- A descriptor pushed to queue `v`: the entry stands last, g[RD] holds the accept sequence that counts it, and the next instruction
follows (R317). -/
def PushedTo (s t : State) (st : Fin 8) (q : Fin 4) (w : DWord) (v : Nat) : Prop :=
  t.queue st v = (s.queue st v).push
    { desc := sealDesc ((s.seq st q).buf (ksqFn w)), plan := BitVec.ofNat 16 (seqPlan s st q), by_ := q.val } ∧
    (t.seq st q).gpr (ksqRd w) = (if ksqRd w = 0 then 0 else ((s.queue st v).accept + 1).setWidth 64) ∧
    (t.seq st q).pc = (s.seq st q).pc + 1 ∧ (t.seq st q).wait = .none ∧ (t.seq st q).b = (s.seq st q).b ∧ MemoryKept s t

theorem setGpr_b (x : Seq) (n : Nat) (v : DWord) : (x.setGpr n v).b = x.b := by
  unfold Seq.setGpr
  split
  · split <;> rfl
  · rfl

theorem setPred_g (x : Seq) (n : Nat) (v : Bool) : (x.setPred n v).g = x.g := by unfold Seq.setPred; split <;> rfl

/-- What WAITQ and FENCE note of the tokens covered is all that a FENCE changes of a sequencer beside its predicate. -/
theorem foldl_waited (l : List (Nat × Word)) (x : Seq) :
    ∃ m, l.foldl (fun (y : Seq) e => { y with waited := Sparse.set (fun _ => 0) y.waited e.1 e.2 }) x = { x with waited := m } := by
  induction l generalizing x with
  | nil => exact ⟨x.waited, rfl⟩
  | cons e l ih =>
    obtain ⟨m, hm⟩ := ih { x with waited := Sparse.set (fun _ => 0) x.waited e.1 e.2 }
    exact ⟨m, hm⟩

section
variable {s : State} {st : Fin 8} {q : Fin 4}

theorem ksqRd_lt (w : DWord) : ksqRd w < 32 := bitsOf_lt ..

/-- An instruction that executes leaves the mailboxes. -/
theorem box_seqDo (f : Seq → Seq) (i : Fin 8) (m : Nat) : (seqDo s st q f).box i m = s.box i m := by
  simp only [State.box, seqDo, seqNext, State.countPair_st, State.modSeq_st_mbx]

/-! ### The end of a wait -/

theorem sameByte_waitEnded : Same State.byte s (waitEnded s st q) := rfl

/-- Only the count of the cycles waited changes among the registers. -/
theorem reg_waitEnded {off : Nat} (hl : off ≠ 0x070) (hh : off ≠ 0x074) :
    (waitEnded s st q).reg (seqPage st q) off = s.reg (seqPage st q) off := by
  simp only [waitEnded, State.countPair, State.setPair]
  rw [State.reg_setReg_other _ _ _ hh, State.reg_setReg_other _ _ _ hl]
  rfl

theorem seqPlan_waitEnded : seqPlan (waitEnded s st q) st q = seqPlan s st q := by
  rw [seqPlan, State.fld, reg_waitEnded (by decide) (by decide)]
  rfl

theorem pair_waitEnded : (waitEnded s st q).pair (seqPage st q) 0x064 = s.pair (seqPage st q) 0x064 := by
  rw [State.pair, reg_waitEnded (by decide) (by decide), reg_waitEnded (by decide) (by decide)]
  rfl

/-- The instruction a sequencer waited in executes at the end of its wait. -/
theorem executed_waitEnded (f : Seq → Seq) :
    Executed s (seqDo (waitEnded s st q) st q f) st q (f (s.seq st q)) ((s.seq st q).pc + 1) :=
  executed_seqDo pair_waitEnded sameByte_waitEnded f

/-- An end of a wait that leaves only a predicate, whatever it notes of the tokens covered (R321). -/
theorem leaves_pred_of_executed {t : State} {x y : Seq} {n : Nat} {v : Bool} {m : List (Nat × Word)} (hy : y = { x with waited := m })
    (h : Executed s t st q (y.setPred n v) (x.pc + 1)) :
    (t.seq st q).pred n = (n % 8 == 0 || v) ∧ (t.seq st q).g = x.g ∧ (t.seq st q).pc = x.pc + 1 ∧ (t.seq st q).wait = .none ∧
      MemoryKept s t := by
  subst hy
  obtain ⟨hseq, -, hmem⟩ := h
  rw [hseq]
  refine ⟨Eq.trans (pred_setPred { x with waited := m } n v n) (if_pos rfl), setPred_g _ _ _, rfl, rfl, hmem⟩

/-- The outcome of a wait on a token at most 2^31 behind the accept sequence (R321). -/
theorem waitOutcome_of_near {b : Queue} {f token : Word} (h : (b.accept - token).toNat ≤ 2 ^ 31) :
    waitOutcome s b f token = (cleanUpTo b f token, s) := if_neg (not_lt.2 h)

/-- WAITQ_DONE once the token has been reached executes the WAITQ, with the outcome of R321 in p[RD]. -/
theorem exec_waitqDone_of_reached {w : DWord} {n : Nat} {token : Word} (hs : s.has st = true) (hst : (s.seq st q).st = .running)
    (hw : (s.seq st q).wait = .waitq) (hi : (s.seq st q).instr = w) (hn : waitqQueue (s.seq st q) w = n)
    (ht : ((s.seq st q).gpr (ksqRb w)).setWidth 32 = token) (hret : reached (s.queue st n) token = true)
    (hacc : ((s.queue st n).accept - token).toNat ≤ 2 ^ 31) :
    exec (.waitqDone st q) s = .next (seqDo (waitEnded s st q) st q fun y =>
      ({ y with waited := Sparse.set (fun _ => 0) y.waited n token } : Seq).setPred (ksqRd w)
        (cleanUpTo (s.queue st n) (Sparse.get (fun _ => 0) (s.seq st q).waited n) token)) := by
  subst hi hn ht
  change execWaitqDone st q s = _
  rw [execWaitqDone, resume, if_pos hs, if_pos ⟨hst, hw⟩]
  dsimp only
  rw [if_pos hret, waitOutcome_of_near hacc]

/-- The doorbell bits that end a WAITDB are cleared as it executes (R387). -/
theorem taken_doorbells (hit : Word) (f : Seq → Seq) :
    let t := seqDo ((waitEnded s st q).modBox st q.val fun b => { b with db := b.db &&& ~~~hit }) st q f
    (t.box st q.val).db = (s.box st q.val).db &&& ~~~hit ∧ Executed s t st q (f (s.seq st q)) ((s.seq st q).pc + 1) := by
  have hbox {α : Type} {v : State → α} (hv : Unfaulted v) : Same v (waitEnded s st q) ((waitEnded s st q).modBox st q.val
      fun b => { b with db := b.db &&& ~~~hit }) := hv.box _ _ _ _ fun _ => ⟨rfl, rfl, rfl⟩
  have h := executed_seqDo (q := q) (f := f) (st := st) (s := s)
    (u := (waitEnded s st q).modBox st q.val fun b => { b with db := b.db &&& ~~~hit })
    (by rw [State.pair, State.modBox_reg, State.modBox_reg, ← State.pair, pair_waitEnded])
    (sameByte_waitEnded.trans (hbox unfaulted_byte))
  have hseq : ((waitEnded s st q).modBox st q.val fun b => { b with db := b.db &&& ~~~hit }).seq st q = s.seq st q :=
    hbox (unfaulted_seq st q)
  rw [hseq] at h
  refine ⟨?_, h⟩
  rw [box_seqDo, State.box_modBox_same]
  rfl

/-! ### A push -/

theorem pushedTo_pushNow (w : DWord) (v : Nat) : PushedTo s (pushNow s st q w v) st q w v := by
  obtain ⟨hseq, -, hmem⟩ := executed_seqDo_self (st := st) (q := q)
    (s := (s.modQueue st v fun y => y.push
      { desc := sealDesc ((s.seq st q).buf (ksqFn w)), plan := BitVec.ofNat 16 (seqPlan s st q), by_ := q.val }).countWrap
        (seqPage st q) 0x06C)
    fun y => ({ y with pushed := Sparse.set (fun _ => 0) y.pushed v ((s.queue st v).accept + 1) } : Seq).setGpr (ksqRd w)
      (BitVec.ofNat 64 ((s.queue st v).accept + 1).toNat)
  refine ⟨State.queue_modQueue_same s st v fun y => y.push _, ?_, congrArg Seq.pc hseq, congrArg Seq.wait hseq,
    (congrArg Seq.b hseq).trans (setGpr_b ..), hmem⟩
  refine (congrArg (fun x : Seq => x.gpr (ksqRd w)) hseq).trans ?_
  by_cases h0 : ksqRd w = 0
  · rw [if_pos h0, h0]
    rfl
  · rw [if_neg h0]
    exact (gpr_setGpr _ _ _ (Nat.pos_of_ne_zero h0) (ksqRd_lt w) _).trans (if_pos rfl) |>.trans (BitVec.ofNat_toNat ..)

/-- A push after a wait for room is the push that would have been made at once (R317). -/
theorem pushedTo_waitEnded (w : DWord) (v : Nat) : PushedTo s (pushNow (waitEnded s st q) st q w v) st q w v := by
  have h := pushedTo_pushNow (s := waitEnded s st q) (st := st) (q := q) w v
  rw [PushedTo, seqPlan_waitEnded] at h
  exact h

/-! ### The watchdog -/

theorem seqFaulted_watchdog (k : SeqWait) :
    let t := raiseEvt (seqFault s st q 0x0A 0x26 (waitKind k) 0) (seqPage st q) 7
    SeqFaulted s t st q 0x0A26 (waitKind k) ∧ t.flag (seqPage st q) 0x010 7 = true := by
  have hk : waitKind k % 2 ^ 16 = waitKind k := by cases k <;> rfl
  have hf := seqFaulted_of (s := s) (st := st) (q := q) (cls := 0x0A) (det := 0x26) (high := waitKind k) (addr := 0) (by decide) (by decide)
  rw [hk] at hf
  exact ⟨seqFaulted_raiseEvt hf 7, flag_raiseEvt _ _ _ (by decide)⟩

end

end Sys2Proof.Laws
end

section
open Sys2Proof Machine Safety Laws

/-- Settles O34: a push by what it leaves, the start of a wait by the sequencer's hold, its end by the instruction that then executes,
and the watchdog by its fault. -/
theorem sequencerQueuesAndWaits : Obligations.SequencerQueuesAndWaits := by
  intro s st q hs x w v pushed
  refine ⟨fun h hp hb hr => ⟨fun hroom => ?push, fun hfull => ?full⟩, fun hst hw hroom => ?room, fun h hp => ?waitq, fun h => ?fence,
    fun h => ?waitdb, fun h => ?waitpos, fun hst hw => ?waitqDone, fun hst hw hall => ?fenceDone,
    fun hst hw => ?waitdbDone, fun hst hw hlock hpos => ?waitposDone, fun hst hw hlim => ?watchdog⟩
  case push =>
    refine completes_issue (rfl : _ = execPush st q s) h ?_
    rw [pushBody, if_neg hp, if_neg (not_or.2 ⟨not_not_intro hb, ne_true_of_eq_false hr⟩), if_neg (not_le.2 hroom)]
    exact pushedTo_pushNow w v
  case full =>
    refine completes_issue (rfl : _ = execPush st q s) h ?_
    rw [pushBody, if_neg hp, if_neg (not_or.2 ⟨not_not_intro hb, ne_true_of_eq_false hr⟩), if_pos hfull]
    rfl
  case room =>
    refine completes_resume (rfl : _ = execPushQueueRoom st q s) hs hst hw ?_
    dsimp only
    rw [if_neg (not_le.2 hroom)]
    exact pushedTo_waitEnded w v
  case waitq =>
    exact completes_issue (rfl : _ = execWaitq st q s) h (if_neg hp)
  case fence => exact completes_issue (rfl : _ = execFence st q s) h rfl
  case waitdb => exact completes_issue (rfl : _ = execWaitdb st q s) h rfl
  case waitpos => exact completes_issue (rfl : _ = execWaitpos st q s) h rfl
  case waitqDone =>
    intro n token hret hacc
    exact ⟨_, exec_waitqDone_of_reached hs hst hw rfl rfl rfl (decide_eq_true hret) hacc,
      leaves_pred_of_executed (x := x) rfl (executed_waitEnded _)⟩
  case fenceDone =>
    refine completes_resume (rfl : _ = execFenceDone st q s) hs hst hw ?_
    dsimp only
    rw [if_pos (List.all_eq_true.2 hall)]
    obtain ⟨m, hm⟩ := foldl_waited x.pushed x
    exact leaves_pred_of_executed hm (executed_waitEnded _)
  case waitdbDone =>
    intro hit hne
    refine completes_resume (rfl : _ = execWaitdbDone st q s) hs hst hw ?_
    dsimp only
    rw [if_neg hne]
    exact taken_doorbells hit _
  case waitposDone =>
    refine completes_resume (rfl : _ = execWaitposDone st q s) hs hst hw ?_
    dsimp only
    rw [if_pos ⟨hlock, hpos⟩]
    exact executed_waitEnded id
  case watchdog =>
    refine ⟨_, if_pos hs, ?_⟩
    dsimp only
    rw [if_pos ⟨hst, hw, hlim⟩]
    exact seqFaulted_watchdog x.wait

end

section
/-! A sequencer's accesses to memory and to registers (R323), and O33. -/

namespace Sys2Proof.Laws

open Machine Safety

/-! ### A store that meets no uncorrectable unit -/

theorem foldl_setByte (a : Nat) (bs : List Byte) (k : Nat) (u : State) :
    (bs.zipIdx k).foldl (fun (s : State) (e : Byte × Nat) => s.setByte (a + e.2) e.1) u = u.setBytes (a + k) bs := by
  induction bs generalizing k u with
  | nil => rfl
  | cons b bs ih => exact ih (k + 1) (u.setByte (a + k) b)

/-- A write that touches no unit with an error stores all its bytes (R289, R295). -/
theorem rawWrite_of_fair {s : State} {a : Nat} {bs : List Byte} (h : badUnit s a bs.length = none) :
    (rawWrite s a bs).2 = none ∧ (rawWrite s a bs).1.bytes a bs.length = bs := by
  have hbad : ∀ w ∈ s.bad, ¬(unitStart w < a + bs.length ∧ a < unitStart w + eccUnit w) := fun w hw => by
    simpa using List.find?_eq_none.1 h w hw
  unfold rawWrite
  split
  · exact ⟨rfl, State.bytes_setBytes ..⟩
  · dsimp only
    generalize hkeep : (s.bad.filter fun w => !(decide (a ≤ unitStart w) && decide (unitStart w + eccUnit w ≤ a + bs.length))) = keep
    have hk : ∀ w ∈ keep, ¬(unitStart w < a + bs.length ∧ a < unitStart w + eccUnit w) := fun w hw =>
      hbad w (List.mem_filter.1 (hkeep ▸ hw)).1
    refine ⟨?_, ?_⟩
    · rw [List.find?_eq_none.2 fun w hw => by simpa using hk w hw]
      rfl
    · rw [List.foldl_ext _ (fun (s : State) (e : Byte × Nat) => s.setByte (a + e.2) e.1) _ fun u e he => if_neg fun hany => ?_, foldl_setByte]
      · exact State.bytes_setBytes ..
      · obtain ⟨w, hw, hin⟩ := List.any_eq_true.1 hany
        have := List.snd_lt_of_mem_zipIdx he
        have := hk w hw
        simp only [Bool.and_eq_true, decide_eq_true_eq] at hin
        omega

/-- So does an engine's write that passes the check of regions, where the memory can be read. -/
theorem engWrite_of_fair {s : State} {st : Fin 8} {plan : Nat} {driven : Bool} {a : Nat} {bs : List Byte}
    (hr : regionCheck s st plan true driven a bs.length = none) (hf : readFailure s a bs.length = none) :
    (engWrite s st plan driven a bs).2 = none ∧ (engWrite s st plan driven a bs).1.bytes a bs.length = bs := by
  by_cases hb : bs = []
  · subst hb
    exact ⟨rfl, rfl⟩
  obtain ⟨htrained, hfair⟩ : ¬(a % 2 ^ 48 < lpddrSize ∧ lpddrTrained s (stackOf a) = false) ∧ badUnit s a bs.length = none := by
    unfold readFailure at hf
    split at hf
    · cases hf
    · next h => exact ⟨h, Option.map_eq_none_iff.1 hf⟩
  obtain ⟨hnone, hbytes⟩ := rawWrite_of_fair hfair
  unfold engWrite
  rw [if_neg hb]
  dsimp only
  rw [hr]
  split
  · next e he => split at he <;> cases he
  · rw [if_neg htrained]
    generalize rawWrite s a bs = w at hnone hbytes
    obtain ⟨s1, f⟩ := w
    obtain rfl : f = none := hnone
    exact ⟨rfl, hbytes⟩

/-! ### What reading a register leaves -/

/-- A reading that no register read reaches: none of a fault's, no mailbox, no reply held back and no latched half. -/
structure Unread {α : Type} (v : State → α) : Prop extends Unfaulted v where
  mailbox : ∀ s i m f, Same v s (s.modBox i m f)
  replies : ∀ (s : State) i (f : List WaitReply → List WaitReply), Same v s (s.modSt i fun x => { x with replies := f x.replies })
  latched : ∀ (s : State) l, Same v s { s with latched := l }

theorem unread_seq (i : Fin 8) (k : Fin 4) : Unread (·.seq i k) where
  toUnfaulted := unfaulted_seq i k
  mailbox s j m f := congrArg (fun x => x[k]) ((keptBut_modBox s j m f).kind .sequencers (by decide) i)
  replies s j g := congrArg (fun x => x[k])
    (State.st_modSt_proj s Stack.seqs (f := fun x => { x with replies := g x.replies }) (fun _ => rfl) j i)
  latched _ _ := rfl

theorem unread_byte : Unread State.byte where
  toUnfaulted := unfaulted_byte
  mailbox s j m f := same_byte_iff.2 ((keptBut_modBox s j m f).kind .memory (by decide))
  replies s j g := funext fun a => State.byte_modSt s j (f := fun x => { x with replies := g x.replies }) (fun _ => rfl) a
  latched _ _ := rfl

namespace Unread

variable {α : Type} {v : State → α} (hv : Unread v)
include hv

theorem notice (s : State) (st : Fin 8) (mb : Nat) (r : Requester) (bit : Nat) : Same v s (notice s st mb r bit) := by
  unfold Machine.notice
  split
  · next e => exact hv.toUnrung.ringBits _ _ _ (homeBox_lt e)
  · exact hv.reg _ _ _ _ (by decide)

theorem settleReplies (s : State) (st : Fin 8) (mb : Nat) (status : Option Nat) : Same v s (settleReplies s st mb status) :=
  .foldl (fun _ _ => hv.replies ..) _ _

theorem mboxRead (s : State) (r : Requester) (st : Fin 8) (mb : Nat) : Same v s (mboxRead s r st mb).2 := by
  unfold Machine.mboxRead
  extract_lets b s1
  split
  · exact (hv.mailbox ..).trans (hv.settleReplies ..) |>.trans (hv.notice ..)
  · exact .refl s

theorem modWindow (s : State) (w : Bool) (f : LkWindow → LkWindow) : Same v s (modWindow s w f) := hv.locket ..

theorem windowLoaded (s : State) (w eccOk : Bool) : Same v s (windowLoaded s w eccOk) :=
  .ite (.ite (hv.modWindow ..) ((hv.modWindow ..).trans (hv.recordFault ..))) (.refl s)

theorem winRead (s : State) (w : Bool) (i : Nat) : Same v s (winRead s w i).2 :=
  have hl := hv.windowLoaded s w true
  .ite (hl.trans (.ite (hv.modWindow ..) (.refl _))) hl

theorem pairNow (s : State) (p : Page) (lo : Nat) : Same v s (pairNow s p lo).2.2 := by
  unfold Machine.pairNow
  split
  · exact hv.draw ..
  · exact .refl s

/-- A register read reaches the registers, the mailboxes, the Locket's windows and what they ring, and nothing else. -/
theorem readReg (s : State) (r : Requester) (p : Page) {off : Nat} (ho : off < 4096) : Same v s (readReg s r p off).2 := by
  unfold Machine.readReg
  extract_lets k x
  split
  · exact (hv.pairNow ..).trans (hv.latched ..)
  split
  · split
    · exact hv.latched ..
    · exact hv.pairNow ..
  split
  · exact hv.mboxRead ..
  split
  · exact hv.winRead ..
  split
  · exact hv.winRead ..
  split
  · split
    · exact .refl s
    · exact hv.reg _ _ _ _ ho
  · exact .refl s

end Unread

/-! ### The instructions -/

section
variable {s : State} {st : Fin 8} {q : Fin 4} {w : DWord}

/-- STG of bytes that may be written stores them, and executes (R323). -/
theorem stgBody_of_fair {a : Nat} (ha : ((s.seq st q).sum w).toNat = a) (h8 : a % 8 = 0) (hin : inMemory s st a 8 = true)
    (hr : regionCheck s st (seqPlan s st q) true false a 8 = none) (hf : readFailure s a 8 = none) :
    let t := stgBody st q s w
    t.bytes a 8 = leBytes ((s.seq st q).gpr (ksqRd w)).toNat 8 ∧ MemoryKeptBut s t (fun b => a ≤ b ∧ b < a + 8) ∧
      t.seq st q = { s.seq st q with pc := (s.seq st q).pc + 1, wait := .none, abandoned := false } := by
  subst ha
  have hlen : (leBytes ((s.seq st q).gpr (ksqRd w)).toNat 8).length = 8 := leBytes_length ..
  have hw := engWrite_of_fair (s := s) (st := st) (plan := seqPlan s st q) (driven := false) (a := ((s.seq st q).sum w).toNat)
    (bs := leBytes ((s.seq st q).gpr (ksqRd w)).toNat 8) (by rw [hlen]; exact hr) (by rw [hlen]; exact hf)
  have hout : MemoryKeptBut s _ fun b => ((s.seq st q).sum w).toNat ≤ b ∧ b < ((s.seq st q).sum w).toNat + 8 := fun b hb =>
    byte_engWrite_outside s st (seqPlan s st q) false (a := ((s.seq st q).sum w).toNat)
      (bs := leBytes ((s.seq st q).gpr (ksqRd w)).toNat 8) (by omega)
  have hseq : Same (·.seq st q) s _ := same_engWrite (v := (·.seq st q)) (fun _ _ _ => rfl) s st (seqPlan s st q) false
    ((s.seq st q).sum w).toNat (leBytes ((s.seq st q).gpr (ksqRd w)).toNat 8)
  dsimp only [stgBody]
  rw [if_neg (by simp [h8, hin])]
  generalize engWrite s st (seqPlan s st q) false ((s.seq st q).sum w).toNat (leBytes ((s.seq st q).gpr (ksqRd w)).toNat 8) = e
    at hw hout hseq
  obtain ⟨s1, f⟩ := e
  obtain ⟨hnone, hbytes⟩ := hw
  obtain rfl : f = none := hnone
  obtain ⟨hx, -, hmem⟩ := executed_seqDo_self (s := s1) (st := st) (q := q) id
  have hs1 : s1.seq st q = s.seq st q := hseq
  rw [hs1] at hx
  rw [hlen] at hbytes
  exact ⟨(bytes_of_memoryKept hmem _ _).trans hbytes, fun b hb => (hmem b).trans (hout b hb), hx⟩

/-- An address that is not aligned or leaves the stack's memory is AREA (R323). -/
theorem seqFaulted_area {a : Nat} : SeqFaulted s (seqFault s st q 0x0A 0x24 0 a) st q 0x0A24 0 := seqFaulted_of (by decide) (by decide)

theorem ldgReturn_of_fair {b : DWord} (hw : (s.seq st q).wait = .ldg b) (hst : (s.seq st q).st = .running)
    (hsw : s.swapping st 6 q.val = false) (hf : readFailure s b.toNat 8 = none) :
    ldgReturn s st q = seqDo (waitEnded s st q) st q fun x =>
      x.setGpr (ksqRd x.instr) (BitVec.ofNat 64 (leNat (s.bytes b.toNat 8))) := by
  rw [ldgReturn]
  simp only [hw, hf]
  rw [if_pos ⟨hst, hsw⟩]

theorem rdrReturn_of_source {b : DWord} {p : Page} {r : Requester} (hw : (s.seq st q).wait = .rdr b)
    (hst : (s.seq st q).st = .running) (hsw : s.swapping st 6 q.val = false) (hsrc : regSource s (.seq q) b.toNat = some (p, r)) :
    rdrReturn s st q = seqDo (waitEnded (readReg s (seqRequester st q p) p (b.toNat % 4096)).2 st q) st q fun x =>
      x.setGpr (ksqRd x.instr) ((readReg s (seqRequester st q p) p (b.toNat % 4096)).1.setWidth 64) := by
  rw [rdrReturn]
  simp only [hw, hsrc]
  rw [if_pos ⟨hst, hsw⟩]

/-- An instruction that executes after a register read leaves what its own change leaves (R323). -/
theorem read_rdrReturn (r : Requester) (p : Page) {a : Nat} (f : Seq → Seq) :
    let t := seqDo (waitEnded (readReg s r p (a % 4096)).2 st q) st q f
    t.seq st q = { f (s.seq st q) with pc := (s.seq st q).pc + 1, wait := .none, abandoned := false } ∧ MemoryKept s t := by
  have ha : a % 4096 < 4096 := Nat.mod_lt _ (by decide)
  obtain ⟨hseq, -, hmem⟩ := executed_waitEnded (s := (readReg s r p (a % 4096)).2) (st := st) (q := q) f
  have hs1 : (readReg s r p (a % 4096)).2.seq st q = s.seq st q := (unread_seq st q).readReg s r p ha
  rw [hs1] at hseq
  exact ⟨hseq, same_byte_iff.1 ((unread_byte.readReg s r p ha).trans (same_byte_iff.2 hmem))⟩

theorem wrrBody_of_one {a : Nat} {p : Page} {r : Requester} (ha : ((s.seq st q).sum w).toNat = a) (hre : seqReaches st a = true)
    (hts : regTargets s (.jukan (.seq st q)) a = some [(p, r)]) (hmay : mayWrite s (seqRequester st q p) p (a % 4096) = true) :
    wrrBody st q s w = writeReg (seqDo s st q id) (seqRequester st q p) p (a % 4096) (((s.seq st q).gpr (ksqRd w)).setWidth 32) := by
  subst ha
  rw [wrrBody]
  simp only [hts, hre, List.all_cons, hmay]
  rfl

theorem wrrBody_of_several {a : Nat} {ts : List (Page × Requester)} (ha : ((s.seq st q).sum w).toNat = a)
    (hre : seqReaches st a = true) (hts : regTargets s (.jukan (.seq st q)) a = some ts) (hlen : ts.length ≠ 1)
    (hmay : ∀ e ∈ ts, mayWrite s e.2 e.1 (a % 4096) = true) :
    wrrBody st q s w = writeAt (seqDo s st q id) ts (a % 4096) (((s.seq st q).gpr (ksqRd w)).setWidth 32) := by
  subst ha
  have hall : (ts.all fun e => mayWrite s e.2 e.1 (((s.seq st q).sum w).toNat % 4096)) = true := List.all_eq_true.2 hmay
  rw [wrrBody]
  simp only [hts, hre]
  match ts, hlen with
  | [], _ => rfl
  | [_], hlen => exact absurd rfl hlen
  | _ :: _ :: _, _ => rw [if_neg (by decide), if_neg (ne_false_of_eq_true hall)]

end

end Sys2Proof.Laws
end

section
open Sys2Proof Machine Safety Laws

/-- Settles O33: LDG and RDR by the sequencer's hold, their returns by the instruction that then executes, STG and WRR by what they
write, and a bad address by its fault. -/
theorem sequencerMemory : Obligations.SequencerMemory := by
  intro s st q x w a plan
  refine ⟨fun h8 hin => ⟨fun h hr => ?ldg, fun h hr hf => ?stg⟩, fun hbad => ⟨fun h => ?ldgArea, fun h => ?stgArea⟩,
    fun b hs hw hst hsw hf => ?ldgReturn, fun h hre hsrc => ?rdr, fun b p r hs hw hst hsw hsrc => ?rdrReturn,
    fun p r h hre hts hmay => ?wrr, fun ts h hre hts hlen hmay => ?wrrAll⟩
  case ldg =>
    refine completes_issue (rfl : _ = execLdg st q s) h ?_
    rw [ldgBody, if_neg (not_or.2 ⟨not_not_intro h8, ne_false_of_eq_true hin⟩), hr]
    rfl
  case stg => exact completes_issue (rfl : _ = execStg st q s) h (stgBody_of_fair rfl h8 hin hr hf)
  case ldgArea =>
    refine completes_issue (rfl : _ = execLdg st q s) h ?_
    rw [ldgBody, if_pos hbad]
    exact seqFaulted_area
  case stgArea =>
    refine completes_issue (rfl : _ = execStg st q s) h ?_
    rw [stgBody, if_pos hbad]
    exact seqFaulted_area
  case ldgReturn =>
    refine ⟨_, if_pos hs, ?_⟩
    rw [ldgReturn_of_fair hw hst hsw hf]
    exact executed_waitEnded _
  case rdr => exact completes_issue (rfl : _ = execRdr st q s) h (if_neg (not_or.2 ⟨ne_false_of_eq_true hre, hsrc⟩))
  case rdrReturn =>
    refine ⟨_, if_pos hs, ?_⟩
    rw [rdrReturn_of_source hw hst hsw hsrc]
    exact read_rdrReturn _ _ _
  case wrr => exact completes_issue (rfl : _ = execWrr st q s) h ⟨_, executed_seqDo_self id, wrrBody_of_one rfl hre hts hmay⟩
  case wrrAll =>
    exact completes_issue (rfl : _ = execWrr st q s) h ⟨_, executed_seqDo_self id, wrrBody_of_several rfl hre hts hlen hmay⟩

end

section
/-! What the re-binding procedure reaches beside the resources it moves (R329 to R333). -/

namespace Sys2Proof.Laws

open Machine Safety

/-! ### Readings beside the resources -/

/-- A change of a stack that leaves its re-binding commands and the key of its memory. -/
def BindKept (f : Stack → Stack) : Prop :=
  ∀ x, (f x).arb.bind = x.arb.bind ∧ (f x).arb.bindTicket = x.arb.bindTicket ∧ (f x).pwr.keyEpoch = x.pwr.keyEpoch

/-- A reading that sees at most memory, the re-binding commands, and what the arbiter's page holds beside its events and its counts of
activities. -/
structure Unbound {α : Type} (v : State → α) : Prop where
  kept : ∀ {l s t}, KeptBut l s t → .memory ∉ l → .arbiter ∉ l → .page .arb ∉ l → Same v s t
  stack : ∀ s i f, BindKept f → Same v s (s.modSt i f)
  own : ∀ s i {off} x, off = 0x010 ∨ off = 0x058 ∨ off = 0x05C → Same v s (s.setReg (arbPage i) off x)

theorem unbound_byte : Unbound State.byte where
  kept h hm _ _ := same_byte_iff.2 (h.kind .memory hm)
  stack s i _ h := funext fun a => State.byte_modSt s i (fun x => (h x).2.2) a
  own _ _ _ _ _ := rfl

/-- The re-binding commands under way in a stack, and how many it has taken. -/
def bindState (st : Fin 8) (s : State) : List RebindCmd × Nat := ((s.st st).arb.bind, (s.st st).arb.bindTicket)

theorem unbound_bind (st : Fin 8) : Unbound (bindState st) where
  kept h _ ha _ := congrArg (fun b : Arbiter => (b.bind, b.bindTicket)) (h.kind .arbiter ha st)
  stack s i _ h := State.st_modSt_proj s (fun x : Stack => (x.arb.bind, x.arb.bindTicket)) (fun x => Prod.ext (h x).1 (h x).2.1) i st
  own _ _ _ _ _ := rfl

theorem unbound_reg (st : Fin 8) {off : Nat} (ho : off < 4096) (h : off ≠ 0x010 ∧ off ≠ 0x058 ∧ off ≠ 0x05C) :
    Unbound (·.reg (arbPage st) off) where
  kept hk _ _ hp := hk.kind (.page .arb) hp (arbPage st) rfl Nat.one_pos off ho
  stack _ _ _ _ := rfl
  own s i x w hx := reg_setReg_apart s (arbPage i) (arbPage st) w (by omega)

/-! ### The resources of R329 -/

/-- A page of R29 that is no arbiter's. -/
def Bindable (p : Page) : Prop := p.inst < instances p.blk ∧ p.blk ≠ .arb

/-- A resource that a code of R329 names. -/
def Listed : Res → Prop
  | .core c => c < 56
  | .group g => g < 4
  | .jk p => p < 3
  | .net p => p < 2
  | .range k | .region k => k < 64
  | _ => True

theorem listed_of_resOf {code : Nat} {r : Res} (h : resOf code = some r) : Listed r := by
  unfold resOf at h
  iterate 12
    rcases ite_eq_iff.1 h with ⟨hc, he⟩ | ⟨-, h⟩
    · cases he
      simp only [Listed] <;> omega
  cases h

theorem bindable_stackPage (st : Fin 8) {b : Blk} {i : Nat} (hi : i < instances b) (hb : b ≠ .arb) :
    Bindable (stackPage st b i) := ⟨hi, hb⟩

theorem bindable_pages {r : Res} (hr : Listed r) (st : Fin 8) : ∀ p ∈ r.pages st, Bindable p := by
  cases r with
  | core c =>
    have hc : c < 56 := hr
    simp only [Res.pages, List.forall_mem_cons, List.not_mem_nil, false_imp_iff, implies_true, and_true]
    exact ⟨bindable_stackPage st hc (by decide), bindable_stackPage st hc (by decide), bindable_stackPage st hc (by decide)⟩
  | seq n => exact List.forall_mem_singleton.2 (bindable_stackPage st n.isLt (by decide))
  | bead | fil | clp | slots | xfr => exact List.forall_mem_singleton.2 (bindable_stackPage st Nat.one_pos (by decide))
  | jk p | net p => exact List.forall_mem_singleton.2 (bindable_stackPage st hr (by decide))
  | group | range | region => exact List.forall_mem_nil _

theorem bindable_kxt (st : Fin 8) : Bindable (kxtPage st) := bindable_stackPage st Nat.one_pos (by decide)

theorem keptBut_clearPage (s : State) {p : Page} (kept : Nat → Bool) (hp : p.inst < instances p.blk) :
    KeptBut [.page p.blk] s (clearPage s p kept) := by
  refine ⟨fun k hk => ?_⟩
  cases k <;> simp only [KindKept, MemoryKept, QueuesKept]
  case page b =>
    intro q hb hi off ho
    have hk' : b ≠ p.blk := by simpa using hk
    have hne : q.key off / 4096 ≠ p.key 0 / 4096 := fun e => by
      have hkey : q.key off = p.key off := by simp only [Page.key] at e ⊢; omega
      obtain ⟨rfl, -⟩ := key_inj (hb ▸ hi) hp ho ho hkey
      exact hk' hb.symm
    have hg := Sparse.get_keep (regDefault s.part) (fun k => k / 4096 != p.key 0 / 4096 || kept (k % 4096)) s.regs (q.key off)
    rw [bne_iff_ne.2 hne, Bool.true_or, if_pos rfl] at hg
    exact hg
  case sampler => exact fun _ => ⟨rfl, rfl⟩
  all_goals intros; rfl

/-- A run over a list that keeps a reading at each of its members. -/
theorem Same.foldl_mem {α β : Type} {v : State → α} (s : State) {f : State → β → State} {l : List β}
    (h : ∀ u, ∀ x ∈ l, Same v u (f u x)) : Same v s (l.foldl f s) := by
  induction l generalizing s with
  | nil => exact .refl s
  | cons x l ih => exact (h s x (by simp)).trans (ih _ fun u y hy => h u y (by simp [hy]))

namespace Unbound

variable {α : Type} {v : State → α} (hv : Unbound v) (s : State) {p : Page}
include hv

theorem page (hp : Bindable p) : PageUnseen v p := fun _ _ _ ho =>
  hv.kept (keptBut_setReg _ _ hp.1 ho) (by simp) (by simp) (by simpa using hp.2.symm)

theorem unrecorded : Unrecorded v where
  box _ _ _ _ _ := hv.stack _ _ _ fun _ => ⟨rfl, rfl, rfl⟩
  mail s i k hk := hv.page (p := stackPage i .mbx k) ⟨hk, by simp⟩ _ _ _ (by decide)
  wake s i := hv.page (p := stackPage i .pwr) ⟨Nat.one_pos, by simp⟩ _ _ _ (by decide)
  locket _ _ := hv.kept (keptBut_modLkt ..) (by decide) (by decide) (by decide)
  draw _ _ := hv.kept (keptBut_free ..) (by decide) (by decide) (by decide)
  page := hv.page ⟨by decide, by decide⟩

theorem raiseEvt (hp : Bindable p) (n : Nat) : Same v s (raiseEvt s p n) := hv.unrecorded.raiseEvt (hv.page hp) s n

theorem recordPlain (hp : Bindable p) (cls det info addr : Nat) (tears : Bool) : Same v s (recordPlain s p cls det info addr tears) :=
  hv.unrecorded.recordPlain (hv.page hp) s cls det info addr tears

theorem recordFault (hp : Bindable p) (cls det info addr : Nat) : Same v s (recordFault s p cls det info addr) :=
  hv.kept (keptBut_recordFault s cls det info addr hp.1) (by simp [faultKinds, eventKinds]) (by simp [faultKinds, eventKinds])
    (by simpa [faultKinds, eventKinds] using hp.2.symm)

theorem queue (i : Fin 8) (q : Nat) (f : Queue → Queue) : Same v s (s.modQueue i q f) :=
  hv.kept (keptBut_modQueue ..) (by decide) (by decide) (by decide)

theorem seq (i : Fin 8) (n : Fin 4) (f : Machine.Seq → Machine.Seq) : Same v s (s.modSeq i n f) :=
  hv.stack s i (fun x => { x with seqs := x.seqs.set n (f x.seqs[n]) }) fun _ => ⟨rfl, rfl, rfl⟩

theorem region (i : Fin 8) (n : Nat) (f : Region → Region) : Same v s (s.modRegion i n f) :=
  hv.kept (keptBut_modRegion ..) (by decide) (by decide) (by decide)

theorem sess (i : Fin 8) (ctx : Nat) (f : Session → Session) : Same v s (s.modSess i ctx f) :=
  hv.kept (keptBut_modSess ..) (by decide) (by decide) (by decide)

theorem core (i : Fin 8) (c : Nat) (f : Machine.Core → Machine.Core) : Same v s (s.modCore i c f) :=
  hv.kept (keptBut_modCore ..) (by decide) (by decide) (by decide)

theorem fil (i : Fin 8) (f : Filigree → Filigree) : Same v s (s.modFil i f) :=
  hv.kept (keptBut_modFil ..) (by decide) (by decide) (by decide)

theorem tns (i : Fin 8) (f : Tense → Tense) : Same v s (s.modTns i f) :=
  hv.kept (keptBut_modTns ..) (by decide) (by decide) (by decide)

theorem arb (i : Fin 8) {f : Arbiter → Arbiter} (h : ∀ b, (f b).bind = b.bind ∧ (f b).bindTicket = b.bindTicket) :
    Same v s (s.modArb i f) :=
  hv.stack s i _ fun x => ⟨(h x.arb).1, (h x.arb).2, rfl⟩

/-- An event of the arbiter's own page. -/
theorem raiseEvt_own (i : Fin 8) (n : Nat) : Same v s (Machine.raiseEvt s (arbPage i) n) :=
  hv.unrecorded.toUnrung.raiseEvt (hv.own s i _ (.inl rfl))

theorem xfrStop (i : Fin 8) : Same v s (s.modSt i fun x => { x with xfrStop := 0 }) := hv.stack _ _ _ fun _ => ⟨rfl, rfl, rfl⟩

theorem discardPage (p : Page) : Same v s (discardPage s p) := .foldl (fun _ _ => hv.queue ..) _ _

theorem clearPage (hp : Bindable p) (kept : Nat → Bool) : Same v s (clearPage s p kept) :=
  hv.kept (keptBut_clearPage s kept hp.1) (by simp) (by simp) (by simpa using hp.2.symm)

theorem quiescePage (hp : Bindable p) : Same v s (quiescePage s p) :=
  (hv.page hp _ _ _ (by decide)).trans (.ite (hv.raiseEvt _ hp 1) (.refl _))

/-! ### Pages and resources -/

theorem closeIfIdle (st : Fin 8) (ctx : Nat) : Same v s (closeIfIdle s st ctx) :=
  .ite ((hv.sess ..).trans (hv.kept (keptBut_sendPacket ..) (by decide) (by decide) (by decide))) (.refl s)

theorem requestClose (st : Fin 8) (ctx : Nat) : Same v s (requestClose s st ctx) :=
  .ite ((hv.sess ..).trans (hv.closeIfIdle ..)) (.refl s)

theorem clpRefuse (st : Fin 8) (op : Nat) : Same v s (clpRefuse s st op) :=
  hv.recordFault s (bindable_stackPage st Nat.one_pos (by decide)) ..

theorem endRefresh (st : Fin 8) : Same v s (endRefresh s st) :=
  (hv.kept (keptBut_modHot s st fun h => { h with waiting := [], state := 0 }) (by decide) (by decide) (by decide)).trans
    (hv.arb _ st (f := fun b => { b with run := b.run.filter fun a => a.act != 10 }) fun _ => ⟨rfl, rfl⟩)

theorem hotEmpty (st : Fin 8) : Same v s (hotEmpty s st) :=
  (hv.kept (keptBut_modHot s st fun h => { h with active := [] }) (by decide) (by decide) (by decide)).trans (hv.endRefresh ..)

theorem tablesCleared (st : Fin 8) : Same v s (tablesCleared s st) := by
  have hc : ∀ u, ∀ b ∈ [Blk.bead, Blk.fil], Same v u (Machine.clearPage u (stackPage st b) fun off => !tableCounter b off) := fun u =>
    List.forall_mem_cons.2 ⟨hv.clearPage u (bindable_stackPage st Nat.one_pos (by decide)) _,
      List.forall_mem_singleton.2 (hv.clearPage u (bindable_stackPage st Nat.one_pos (by decide)) _)⟩
  exact (hv.queue ..).trans (hv.queue ..) |>.trans (Same.foldl_mem _ hc) |>.trans (hv.fil ..) |>.trans (hv.hotEmpty ..)

theorem chanFail (st : Fin 8) (c det high : Nat) : Same v s (chanFail s st c det high) := by
  have hc := fun u : State => hv.kept (keptBut_modChan u st c fun x => { x with st := .failed }) (by decide) (by decide) (by decide)
  exact (hv.recordFault s (bindable_kxt st) ..).trans (hc _) |>.trans (hv.unrecorded.ringBits _ _ _ (bitsOf_lt _ 21 16))

theorem sessClosed (st : Fin 8) (ctx : Nat) : Same v s (sessClosed s st ctx) := by
  have hreplies := fun u : State => hv.stack u st (fun x => { x with replies := x.replies.filter fun w => w.ctx != ctx }) fun _ =>
    ⟨rfl, rfl, rfl⟩
  have hcoll : ∀ u, Same v u (collSessionLost u st ctx) := fun u => .foldl (fun _ _ => by
    dsimp only
    split
    · exact .ite (hv.chanFail ..) (.refl _)
    · exact .refl _) _ _
  have hckpt : ∀ u, Same v u (ckptSessionLost u st ctx) := fun u =>
    .ite (hv.kept (keptBut_abandonStream ..) (by decide) (by decide) (by decide)) (.refl u)
  exact (hv.sess ..).trans (hreplies _) |>.trans (.foldl (fun _ _ => .foldl (fun _ _ => hv.seq ..) _ _) _ _) |>.trans (hcoll _)
    |>.trans (hckpt _)

/-- The start of an activity that trains no channel (R298). -/
theorem activityStart (st : Fin 8) {a : Activity} (ha : a.act ≠ 0) : Same v s (activityStart s st a) := by
  unfold Machine.activityStart
  extract_lets s1 s2
  have h1 : Same v s s1 := (hv.arb s st (f := fun b => { b with run := b.run ++ [a] }) fun _ => ⟨rfl, rfl⟩).trans
    (hv.own _ st _ (.inr (.inl rfl)))
  rw [if_neg fun h => ha h.1]
  exact h1.trans (hv.raiseEvt_own ..)

/-- A submission of an activity that trains no channel (R335). -/
theorem submit (st : Fin 8) (sub : Nat) {act : Nat} (scope : Nat) (ha : act ≠ 0) : Same v s (submit s st sub act scope).1 := by
  unfold Machine.submit
  extract_lets a s1
  have h1 : Same v s s1 := hv.arb s st (f := fun b => { b with ticket := (b.ticket + 1) % 65536 }) fun _ => ⟨rfl, rfl⟩
  split
  · exact h1.trans (hv.activityStart s1 st ha)
  · exact h1.trans (hv.arb s1 st (f := fun b => { b with wait := b.wait ++ [a] }) fun _ => ⟨rfl, rfl⟩)
  · exact h1.trans (hv.own _ st _ (.inr (.inr rfl))) |>.trans (hv.unrecorded.locketRequest ..) |>.trans (hv.raiseEvt_own ..)

section
variable {st : Fin 8} {r : Res} (hr : Listed r)
include hr

theorem bindStat (state : Nat) (pending : BitVec 16) : Same v s (bindStat s st r state pending) := by
  have hp := bindable_pages (st := st) hr
  cases r with
  | region n => exact hv.region s st n fun x => { x with bst := state, pendingPlan := pending }
  | range k =>
    have hk : k < 64 := hr
    exact hv.page (bindable_kxt st) _ _ _ (by omega)
  | _ => exact Same.foldl_mem s fun u p h => hv.page (hp p h) u _ _ (by decide)

/-- What a resource's quiescing reaches (R331 step 1, R379). -/
theorem startQuiesce (plan : BitVec 16) : Same v s (startQuiesce s st plan r) := by
  have hp := bindable_pages hr st
  unfold Machine.startQuiesce
  extract_lets s1 s2
  have h2 : Same v s s2 := (hv.bindStat s hr 2 plan).trans
    (Same.foldl_mem s1 fun u p h => .trans (.foldl (fun _ _ => hv.queue ..) _ _) (hv.quiescePage _ (hp p h)))
  split
  · exact h2.trans (hv.queue ..)
  · exact h2.trans (hv.queue ..)
  · next n => exact .ite (h2.trans (hv.seq ..) |>.trans (hv.seq ..)
      |>.trans (hv.raiseEvt _ (bindable_stackPage st n.isLt (by decide)) _)) h2
  · exact h2.trans (.foldl (fun _ _ => hv.requestClose ..) _ _)
  · exact h2

/-- What a soft reset does to the block of a resource's page, beside its registers (R31). -/
theorem softBlock : ∀ p ∈ r.pages st, Same v s (softBlock s p) := by
  have hseq : ∀ n : Fin 4, Same v s (Machine.softBlock s (seqPage st n)) := fun n => by
    change Same v s (if h : n.val < 4 then _ else s)
    rw [dif_pos n.isLt]
    exact hv.seq ..
  have hport : ∀ i, Same v s (Machine.softBlock s (netPage st i)) := fun i => by
    change Same v s (if h : i < 2 then _ else s)
    split
    · next h => exact hv.stack s _ (fun x => { x with ports := x.ports.set i {} }) fun _ => ⟨rfl, rfl, rfl⟩
    · exact .refl s
  have hrng : ∀ c, Same v s (rngCleared s (stackPage st .rng c).home c) := fun c => hv.core ..
  have htns : Same v s (s.modTns (tnsPage st).home fun _ => {}) := hv.tns ..
  cases r with
  | core c =>
    refine List.forall_mem_cons.2 ⟨(hv.discardPage ..).trans (hv.core ..), List.forall_mem_cons.2 ⟨?_, ?_⟩⟩
    · exact (hv.discardPage ..).trans (hv.core ..)
    · exact List.forall_mem_singleton.2 (hrng c)
  | bead | fil => exact List.forall_mem_singleton.2 (hv.tablesCleared ..)
  | seq n => exact List.forall_mem_singleton.2 (hseq n)
  | clp => exact List.forall_mem_singleton.2 (hv.kept (keptBut_modClp ..) (by decide) (by decide) (by decide))
  | slots => exact List.forall_mem_singleton.2 htns
  | xfr => exact List.forall_mem_singleton.2 ((hv.discardPage ..).trans (hv.xfrStop ..) |>.trans (.foldl (fun _ _ => hv.region ..) _ _))
  | jk i => exact List.forall_mem_singleton.2 (hv.discardPage ..)
  | net i => exact List.forall_mem_singleton.2 (hport i)
  | group | range | region => exact List.forall_mem_nil _

/-- What the soft reset of a resource's pages reaches, by R332. -/
theorem softReset {p : Page} (hp : p ∈ r.pages st) : Same v s (softReset s p) := by
  have hb := bindable_pages hr st p hp
  have hk : Same v s (Machine.softBlock s p) := hv.softBlock s hr p hp
  unfold Machine.softReset
  dsimp only
  refine .ite (.refl s) (.ite (hv.clpRefuse ..) (.ite (hv.recordPlain s hb ..) ?_))
  exact hk.trans (hv.clearPage _ hb _) |>.trans (hv.page hb _ _ _ (by decide)) |>.trans (hv.page hb _ _ _ (by decide))

/-- What a scrub reaches (R329, R379): beside memory where the resource holds memory, nothing that is read. -/
theorem scrub (hmem : (∃ k, r = .core k) ∨ (∃ n, r = .region n) → ∀ (u : State) m b, Same v u { u with mem := m, bad := b }) :
    Same v s (scrub s st r) := by
  have hp := bindable_pages hr st
  cases r with
  | core c =>
    have hm := hmem (.inl ⟨c, rfl⟩)
    unfold Machine.scrub
    have hz : ∀ u, Same v u (zeroPanel u st c) := fun u => hm ..
    exact (hv.core ..).trans (hz _) |>.trans
      (Same.foldl_mem _ fun u p h => (hv.clearPage u (hp p h) _).trans (hv.page (hp p h) _ _ _ (by decide)))
  | group g =>
    dsimp only [Machine.scrub]
    split
    · exact (hv.queue ..).trans (hv.stack _ _ _ fun _ => ⟨rfl, rfl, rfl⟩)
    · exact hv.queue ..
  | bead => exact (hv.queue ..).trans (hv.page (bindable_stackPage st Nat.one_pos (by decide)) _ _ _ (by decide)) |>.trans (hv.hotEmpty ..)
  | fil => exact (hv.queue s st 0xA0 _).trans (hv.fil _ st fun f => { f with touched := [], inbox := [] })
  | seq n => exact hv.seq ..
  | slots =>
    dsimp only [Machine.scrub, disarmSlots]
    exact hv.tns ..
  | xfr => exact (hv.discardPage ..).trans (hv.xfrStop ..)
  | jk i => exact hv.discardPage ..
  | range k => exact .foldl (fun _ _ => .ite (.refl _) (hv.sessClosed ..)) _ _
  | region n =>
    have hm := hmem (.inr ⟨n, rfl⟩)
    have hz : ∀ a k, Same v s (zeroRange s a k) := fun a k => .ite (hm ..) (hm ..)
    exact Same.trans (.ite (hz ..) (.refl s))
      (hv.arb _ st (f := fun b => { b with run := b.run.filter fun a => !(a.act == 14 && a.scope == n) }) fun _ => ⟨rfl, rfl⟩)
  | clp | net => exact .refl s

/-- What the start of a scrub reaches, for a reading that does not see the arbiter. -/
theorem enterScrub (harb : ∀ (u : State) i f, Same v u (u.modArb i f)) (code : Nat) (c : RebindCmd) :
    Same v s (enterScrub s st code c r) := by
  have hs : ∀ n state, Same v s (modMoving (Machine.bindStat s st r state c.plan) st code n) := fun n state =>
    (hv.bindStat s hr state c.plan).trans (harb ..)
  cases r with
  | region n => exact .ite ((hs ..).trans (hv.submit _ _ _ _ (by decide))) (hs ..)
  | _ => exact hs ..

end

end Unbound

end Sys2Proof.Laws
end

section
/-! The re-binding procedure (R329 to R333): what each step leaves of a resource, and O36. -/

namespace Sys2Proof.Laws

open Machine Safety

/-! ### The state of a resource -/

/-- The command of a list that moves a resource, and the state it is in. -/
def movingIn (l : List RebindCmd) (code : Nat) : Option (RebindCmd × Rebind) :=
  l.findSome? fun c => (c.left.find? fun x => x.res == code).map fun x => (c, x)

theorem moving_eq (s : State) (st : Fin 8) (code : Nat) : moving s st code = movingIn (s.st st).arb.bind code := rfl

/-- A resource of the list in another state. -/
def setPhase (code phase : Nat) (x : Rebind) : Rebind := if x.res = code then { x with phase := phase } else x

theorem find?_map_setPhase (l : List Rebind) (code phase : Nat) :
    (l.map (setPhase code phase)).find? (fun x => x.res == code) = (l.find? fun x => x.res == code).map fun x => { x with phase := phase } := by
  induction l with
  | nil => rfl
  | cons x l ih =>
    by_cases h : x.res = code
    · simp [setPhase, h]
    · simp [setPhase, h, ih]

theorem phase_movingIn_map (l : List RebindCmd) (code phase : Nat) :
    (movingIn (l.map fun c => { c with left := c.left.map (setPhase code phase) }) code).map (fun e => e.2.phase) =
      (movingIn l code).map fun _ => phase := by
  induction l with
  | nil => rfl
  | cons c l ih =>
    simp only [movingIn, List.map_cons, List.findSome?_cons, find?_map_setPhase] at ih ⊢
    cases c.left.find? fun x => x.res == code with
    | none => exact ih
    | some x => rfl

/-- A resource moved shows the state it was moved to, whatever has become of its commands beside their resources. -/
theorem phase_modMoving {s u : State} {st : Fin 8} {code : Nat} {e : RebindCmd × Rebind} (phase : Nat)
    (hu : (u.st st).arb.bind = (s.st st).arb.bind) (h : moving s st code = some e) :
    (moving (modMoving u st code phase) st code).map (fun e => e.2.phase) = some phase := by
  have hm : ((modMoving u st code phase).st st).arb.bind =
      (u.st st).arb.bind.map fun c => { c with left := c.left.map (setPhase code phase) } := by
    rw [modMoving, State.modArb_st_arb]
    rfl
  rw [moving_eq, hm, hu, phase_movingIn_map, ← moving_eq, h]
  rfl

theorem unfaulted_regions (st : Fin 8) : Unfaulted fun s => (s.st st).regions where
  box _ _ _ _ _ := State.modBox_st_regions ..
  mail _ _ _ _ := rfl
  wake _ _ := rfl
  locket _ _ := rfl
  draw _ _ := rfl
  page _ _ _ _ := rfl
  reg _ _ _ _ _ := rfl
  clasp _ _ _ := State.modClp_st_regions ..

theorem region_congr {s t : State} {st : Fin 8} (h : (t.st st).regions = (s.st st).regions) (n : Nat) : t.region st n = s.region st n := by
  unfold State.region
  rw [h]

/-- A Locket request leaves the events that are set. -/
theorem flag_locketRequest_of_flag {s : State} {p : Page} {n : Nat} (h : s.flag p 0x010 n = true) (src : Source) (order : Nat)
    (home : Fin 8) (code : Nat) (payload : List Byte) : (locketRequest s src order home code payload).flag p 0x010 n = true := by
  unfold locketRequest
  split
  · refine flag_raiseEvt_of_flag _ _ _ (by decide) ?_
    rwa [State.flag, State.countSat, reg_setReg_apart _ _ _ _ (by decide), State.modLkt_reg]
  · exact h

/-! ### The command (R330) -/

theorem firstStatus_le {l : List (Bool × Nat)} {n : Nat} (h : ∀ e ∈ l, e.2 ≤ n) : firstStatus l ≤ n := by
  induction l with
  | nil => exact Nat.zero_le n
  | cons e l ih =>
    rw [firstStatus]
    split
    · exact h e (by simp)
    · exact ih fun x hx => h x (by simp [hx])

theorem rebindReason_le (s : State) (r : Requester) (st : Fin 8) (codes : List Nat) (plan : Nat) (unlock : Bool) :
    rebindReason s r st codes plan unlock ≤ 6 := by
  refine firstStatus_le ?_
  simp only [List.forall_mem_cons, List.not_mem_nil, false_imp_iff, implies_true, and_true]
  omega

section
variable (s : State) (st : Fin 8) (n : Nat) (w : Word)

theorem sameByte_modArb (f : Arbiter → Arbiter) : Same State.byte s (s.modArb st f) :=
  same_byte_iff.2 ((keptBut_modArb ..).kind .memory (by decide))

/-- What a refused command leaves: ARB_BIND_STAT with its reason, the event and the record (R330). -/
theorem refused_spec (first count outcome reason : Nat) (plan : BitVec 16) :
    let t := raiseEvt (bindRecord ((s.modArb st fun b => { b with bindTicket := n }).setReg (arbPage st) 0x08C w) st first count outcome
      reason plan n) (arbPage st) 4
    MemoryKept s t ∧ (t.st st).arb.bindTicket = n ∧ (t.st st).arb.bind = (s.st st).arb.bind ∧ t.reg (arbPage st) 0x08C = w ∧
      t.flag (arbPage st) 0x010 4 = true := by
  extract_lets t
  have ht : ∀ {α : Type} {v : State → α}, Unbound v →
      Same v ((s.modArb st fun b => { b with bindTicket := n }).setReg (arbPage st) 0x08C w) t := fun hv =>
    (hv.unrecorded.locketRequest ..).trans (hv.raiseEvt_own ..)
  have harb : ((t.st st).arb.bind, (t.st st).arb.bindTicket) = ((s.st st).arb.bind, n) := by
    refine Eq.trans (ht (unbound_bind st)) ?_
    dsimp only [bindState]
    rw [State.setReg_st, State.modArb_st_arb]
  obtain ⟨hbind, hticket⟩ := Prod.ext_iff.1 harb
  have hreg : t.reg (arbPage st) 0x08C = _ := ht (unbound_reg st (by decide) (by decide))
  have hbyte : Same State.byte s t := (sameByte_modArb s st fun b => { b with bindTicket := n }).trans (ht unbound_byte)
  exact ⟨same_byte_iff.1 hbyte, hticket, hbind, hreg.trans (State.reg_setReg_same ..), flag_raiseEvt _ _ _ (by decide)⟩

/-- What an accepted command leaves: it stands behind those under way, and every resource it names quiesces (R330, R331). -/
theorem accepted_spec (cmd : RebindCmd) (plan : BitVec 16) (codes : List Nat) :
    let s1 := (s.modArb st fun b => { b with bindTicket := n }).setReg (arbPage st) 0x08C w
    let u := s1.modArb st fun b => { b with bind := b.bind ++ [cmd] }
    let t := (codes.filterMap resOf).foldl (fun s x => startQuiesce s st plan x) u
    MemoryKept s t ∧ (t.st st).arb.bindTicket = n ∧ (t.st st).arb.bind = (s.st st).arb.bind ++ [cmd] ∧ t.reg (arbPage st) 0x08C = w := by
  extract_lets s1 u t
  have ht : ∀ {α : Type} {v : State → α}, Unbound v → Same v u t := fun hv => Same.foldl_mem _ fun x r hr => by
    obtain ⟨code, -, hcode⟩ := List.mem_filterMap.1 hr
    exact hv.startQuiesce x (listed_of_resOf hcode) plan
  have harb : ((t.st st).arb.bind, (t.st st).arb.bindTicket) = ((s.st st).arb.bind ++ [cmd], n) := by
    refine Eq.trans (ht (unbound_bind st)) ?_
    dsimp only [bindState, u, s1]
    rw [State.modArb_st_arb, State.setReg_st, State.modArb_st_arb]
  obtain ⟨hbind, hticket⟩ := Prod.ext_iff.1 harb
  have hreg : t.reg (arbPage st) 0x08C = u.reg (arbPage st) 0x08C := ht (unbound_reg st (by decide) (by decide))
  have hs1 : Same State.byte s s1 := sameByte_modArb s st fun b => { b with bindTicket := n }
  have hu : Same State.byte s u := hs1.trans (sameByte_modArb s1 st _)
  exact ⟨same_byte_iff.1 (hu.trans (ht unbound_byte)), hticket, hbind, hreg.trans (State.reg_setReg_same ..)⟩

end

/-! ### Quiescing, scrub and handover (R331) -/

/-- The state a resource goes to once it has quiesced: the scrub, or for a region that needs none the handover (R302, R331). -/
def phaseAfterQuiesce (s : State) (st : Fin 8) (r : Res) (asked : Bool) : Nat :=
  match r with
  | .region n => if regionScrubbed s st n asked then 3 else 4
  | _ => 3

theorem moving_congr {s u : State} {st : Fin 8} (h : Same (bindState st) s u) (code : Nat) :
    moving u st code = moving s st code :=
  congrArg (fun l : List RebindCmd × Nat => movingIn l.1 code) h

section
variable {s : State} {st : Fin 8} {code : Nat} {r : Res} (hr : Listed r)

/-- A panel store written with zeros reads zero (R119, R329). -/
theorem byte_zeroPanel (s : State) (st : Fin 8) {k i : Nat} (hk : k < 56) (hi : i < panelSize) :
    (zeroPanel s st k).byte (panelBase st.val k + i) = 0 := by
  have hst := st.isLt
  have hkeep := State.byte_keepBytes s (fun a => !(panelBase st k ≤ a && a < panelBase st k + panelSize)) (panelBase st.val k + i)
  rw [if_neg (by simp [hi])] at hkeep
  refine Eq.trans hkeep ?_
  unfold memDefault
  split
  · dsimp only
    rw [if_neg]
    simp only [panelSize] at hi
    simp only [panelBase, lpddrSize]
    omega
  · rfl

theorem sameByte_modMoving (s : State) (st : Fin 8) (code phase : Nat) : Same State.byte s (modMoving s st code phase) := sameByte_modArb ..

include hr

/-- The state a resource enters from its quiescing (R331 step 2, R302). -/
theorem phase_enterScrub {e : RebindCmd × Rebind} (c : RebindCmd) (h : moving s st code = some e) :
    (moving (enterScrub s st code c r) st code).map (fun e => e.2.phase) =
      some (phaseAfterQuiesce s st r c.scrub) := by
  have hm : ∀ state, (moving (modMoving (bindStat s st r state c.plan) st code state) st code).map (fun e => e.2.phase) = some state :=
    fun state => phase_modMoving state (congrArg Prod.fst ((unbound_bind st).bindStat s hr state c.plan)) h
  cases r with
  | region n =>
    dsimp only [enterScrub, phaseAfterQuiesce]
    split
    · rw [moving_congr ((unbound_bind st).submit _ st 7 n (by decide))]
      exact hm 3
    · exact hm 4
  | _ => exact hm 3

/-- A resource scrubbed goes over to its handover (R331 step 3). -/
theorem phase_handover {e : RebindCmd × Rebind} (plan : BitVec 16) (h : moving s st code = some e) :
    (moving (modMoving (bindStat (scrub s st r) st r 4 plan) st code 4) st code).map (fun e => e.2.phase) = some 4 :=
  phase_modMoving 4 (congrArg Prod.fst
    (((unbound_bind st).scrub s hr fun _ _ _ _ => rfl).trans ((unbound_bind st).bindStat _ hr 4 plan))) h

/-- What a handover does not see of memory is as the scrub left it. -/
theorem sameByte_handover (plan : BitVec 16) :
    Same State.byte (scrub s st r) (modMoving (bindStat (scrub s st r) st r 4 plan) st code 4) :=
  (unbound_byte.bindStat _ hr 4 plan).trans (sameByte_modMoving ..)

end

/-- A sequencer handed over is as its scrub left it: empty (R329, R326). -/
theorem seq_handover (s : State) (st : Fin 8) (q : Fin 4) (plan : BitVec 16) (code : Nat) :
    (modMoving (bindStat (scrub s st (.seq q)) st (.seq q) 4 plan) st code 4).seq st q = (s.seq st q).cleared := by
  rw [State.seq, modMoving, State.modArb_st_seqs]
  exact State.seq_modSeq_same s st q Seq.cleared

theorem byte_scrub_core (s : State) (st : Fin 8) {k i : Nat} (hk : k < 56) (hi : i < panelSize) :
    (scrub s st (.core k)).byte (panelBase st.val k + i) = 0 := by
  have hp := bindable_pages (r := .core k) hk st
  have hfold := Same.foldl_mem (v := State.byte) (zeroPanel (s.modCore st k fun _ => {}) st k)
    (f := fun s p => (clearPage s p (softKept p.blk)).setReg p 0x010 0) (l := (Res.core k).pages st) fun u p h =>
      (unbound_byte.clearPage u (hp p h) _).trans (unbound_byte.page (hp p h) _ _ _ (by decide))
  exact (congrFun hfold _).trans (byte_zeroPanel _ st hk hi)

/-! ### Handing over (R331 step 3) -/

/-- What each step of a run establishes at its member and keeps at the others holds of every member at the end. -/
theorem foldl_establishes {β : Type} {P : β → State → Prop} {f : State → β → State} (hset : ∀ u x, P x (f u x))
    (hkeep : ∀ u x y, P x u → P x (f u y)) (l : List β) (u : State) : ∀ x ∈ l, P x (l.foldl f u) := by
  have hrest : ∀ (l : List β) u x, P x u → P x (l.foldl f u) := by
    intro l
    induction l with
    | nil => exact fun _ _ h => h
    | cons y l ih => exact fun u x h => ih _ x (hkeep u x y h)
  induction l generalizing u with
  | nil => exact fun _ hx => nomatch hx
  | cons y l ih =>
    exact List.forall_mem_cons.2 ⟨hrest l _ y (hset u y), ih _⟩

/-- A page shows a binding word in BIND, and no QUIESCE (R30, R331). -/
def BoundTo (w : Word) (p : Page) (t : State) : Prop := t.reg p 0x030 = w ∧ t.flag p 0x008 2 = false

/-- BIND written, and QUIESCE ended. -/
def bindPage (w : Word) (s : State) (p : Page) : State := (s.setReg p 0x030 w).setFlag p 0x008 2 false

theorem boundTo_bindPage (w : Word) (s : State) (p : Page) : BoundTo w p (bindPage w s p) := by
  refine ⟨?_, State.flag_setFlag_same _ _ _ _ (by decide)⟩
  rw [bindPage, reg_setFlag_apart _ _ _ _ _ (by decide), State.reg_setReg_same]

theorem BoundTo.bindPage {w : Word} {s : State} {p : Page} (q : Page) (h : BoundTo w p s) : BoundTo w p (bindPage w s q) := by
  obtain ⟨hreg, hflag⟩ := h
  refine ⟨?_, ?_⟩
  · rw [Laws.bindPage, reg_setFlag_apart _ _ _ _ _ (by decide), State.reg_setReg, hreg, ite_self]
  · rw [State.flag, Laws.bindPage, State.setFlag, State.setFld, State.reg_setReg]
    split
    · next e =>
      have hq := State.flag_setFlag_same (s.setReg q 0x030 w) q 0x008 (i := 2) false (by decide)
      rwa [State.flag, State.setFlag, State.setFld, State.reg_setReg_same] at hq
    · rwa [reg_setReg_apart _ _ _ _ (by decide)]

theorem BoundTo.of_reg {w : Word} {p : Page} {s t : State} (h : BoundTo w p s) (hr : ∀ x ∈ [0x030, 0x008], t.reg p x = s.reg p x) :
    BoundTo w p t := by
  obtain ⟨hreg, hflag⟩ := h
  exact ⟨(hr _ (by simp)).trans hreg, by rw [State.flag, hr _ (by simp)]; exact hflag⟩

/-- A binding word's plan and LOCKED bit (R30). -/
theorem BoundTo.fields {plan : BitVec 16} {lock : Bool} {p : Page} {t : State}
    (h : BoundTo (BitVec.ofNat 32 (plan.toNat + bit lock * 2 ^ 31)) p t) :
    t.fld p 0x030 15 0 = plan.toNat ∧ t.flag p 0x030 31 = lock ∧ t.flag p 0x008 2 = false := by
  obtain ⟨hreg, hflag⟩ := h
  have hp := plan.isLt
  refine ⟨?_, ?_, hflag⟩
  · rw [State.fld, hreg, BitVec.toNat_ofNat, bitsOf_eq]
    cases lock <;> simp only [bit] <;> omega
  · rw [State.flag, hreg, bitAt, BitVec.toNat_ofNat, Nat.testBit_eq_decide_div_mod_eq]
    cases lock <;> simp [bit] <;> omega

section
variable {s : State} {st : Fin 8} {r : Res} {c : RebindCmd}

/-- The binding word of a command. -/
def bindWord (c : RebindCmd) : Word := BitVec.ofNat 32 (c.plan.toNat + bit c.lock * 2 ^ 31)

theorem handOver_of_pages (h : r.pages st ≠ []) :
    handOver s st c r = (r.pages st).foldl (fun s p => raiseEvt s p 2)
      ((r.pages st).foldl (bindPage (bindWord c)) (bindStat s st r (if c.plan = 0 then 0 else 1) 0)) := by
  cases r with
  | group | range | region => exact absurd rfl h
  | _ => rfl

/-- Every page of a resource handed over shows its new binding. -/
theorem boundTo_handOver : ∀ p ∈ r.pages st, BoundTo (bindWord c) p (handOver s st c r) := by
  intro p hp
  rw [handOver_of_pages (List.ne_nil_of_mem hp)]
  have hb := foldl_establishes (P := BoundTo (bindWord c)) (f := bindPage (bindWord c)) (fun u q => boundTo_bindPage _ u q)
    (fun u q q' h => h.bindPage q') (r.pages st) (bindStat s st r (if c.plan = 0 then 0 else 1) 0) p hp
  refine hb.of_reg fun x hx => Same.foldl (v := (·.reg p x)) (fun u q => ?_) _ _
  have hx' : x = 0x030 ∨ x = 0x008 := by simpa using hx
  exact reg_raiseEvt_apart _ _ _ _ (by omega) (by omega)

/-- A region handed over has its new plan and LOCKED bit (R302, R309). -/
theorem region_handOver (n : Nat) : ((handOver s st c (.region n)).region st n).plan = c.plan ∧
    ((handOver s st c (.region n)).region st n).locked = c.lock := by
  have hu : ∀ u : State, (raiseEvt u (xfrPage st) 2).region st n = u.region st n := fun u =>
    region_congr ((unfaulted_regions st).raiseEvt u (xfrPage st) 2) n
  have h := (hu _).trans (State.region_modRegion_same (bindStat s st (.region n) (if c.plan = 0 then 0 else 1) 0) st n
    fun x => { x with plan := c.plan, locked := c.lock })
  exact ⟨congrArg Region.plan h, congrArg Region.locked h⟩

theorem flag_handOver : ∀ p ∈ r.eventPages st, (handOver s st c r).flag p 0x010 2 = true :=
  foldl_establishes (P := fun p t => t.flag p 0x010 2 = true) (fun _ _ => flag_raiseEvt _ _ _ (by decide))
    (fun _ _ _ h => flag_raiseEvt_of_flag _ _ _ (by decide) h) _ _

theorem sameByte_handOver (hr : Listed r) : Same State.byte s (handOver s st c r) := by
  unfold handOver
  extract_lets w now s1 s2 s3
  have h1 : Same State.byte s s1 := (unbound_byte.bindStat s hr now 0).trans (.foldl (v := State.byte) (f := bindPage w) (fun _ _ => rfl) _ _)
  have h2 : Same State.byte s s2 := by
    unfold s2
    split <;> exact h1
  have h3 : Same State.byte s s3 := by
    unfold s3
    split
    · exact h2.trans (unbound_byte.region ..)
    · exact h2
  exact h3.trans (.foldl (fun _ _ => unfaulted_byte.raiseEvt ..) _ _)

end

/-! ### The end of a command (R330, R332) -/

/-- What the arbiter's state, ARB_BIND_STAT, an event of its page and a Locket request keep, the end of a command keeps. -/
theorem commandDone_keeps {P : State → Prop} {st : Fin 8} (hfld : ∀ u hi lo x, P u → P (u.setFld (arbPage st) 0x08C hi lo x))
    (harb : ∀ u f, P u → P (u.modArb st f)) (hevt : ∀ u, P u → P (raiseEvt u (arbPage st) 5))
    (hrec : ∀ u src order home code payload, P u → P (locketRequest u src order home code payload)) {s : State} (c : RebindCmd)
    (code : Nat) (h : P s) : P (commandDone s st c code) := by
  unfold commandDone
  extract_lets a left shown s1 s2 s3 s4
  have h1 : P s1 := by
    unfold s1
    split
    · exact hfld _ _ _ _ h
    · exact h
  have h2 : P s2 := harb _ _ h1
  have h3 : P s3 := by
    unfold s3
    split
    · exact hfld _ _ _ _ h2
    · exact h2
  have h4 : P s4 := by
    unfold s4
    split
    · exact h3
    · exact hevt _ h3
  split
  · exact harb _ _ h1
  · exact hrec _ _ _ _ _ _ h4

section
variable {s : State} {st : Fin 8} (c : RebindCmd) (code : Nat)

/-- So a reading that sees neither a fault nor the arbiter is as before. -/
theorem same_commandDone {α : Type} {v : State → α} (hv : Unfaulted v) (harb : ∀ (u : State) f, Same v u (u.modArb st f)) :
    Same v s (commandDone s st c code) :=
  commandDone_keeps (P := Same v s) (fun u _ _ _ h => h.trans (hv.reg _ u _ _ (by decide))) (fun u f h => h.trans (harb u f))
    (fun u h => h.trans (hv.raiseEvt u ..)) (fun u _ _ _ _ _ h => h.trans (hv.locketRequest u ..)) c code (.refl s)

theorem reg_commandDone (p : Page) {x : Nat} (hx : x = 0x030 ∨ x = 0x008) : (commandDone s st c code).reg p x = s.reg p x :=
  commandDone_keeps (P := fun t => t.reg p x = s.reg p x) (fun _ _ _ _ h => (reg_setReg_apart _ _ _ _ (by omega)).trans h)
    (fun _ _ h => h) (fun _ h => (reg_raiseEvt_apart _ _ _ _ (by omega) (by omega)).trans h)
    (fun _ _ _ _ _ _ h => (reg_locketRequest_apart _ _ _ _ _ _ _ (by omega) (by omega) (by omega)).trans h) c code rfl

theorem flag_commandDone (p : Page) {n : Nat} (h : s.flag p 0x010 n = true) : (commandDone s st c code).flag p 0x010 n = true :=
  commandDone_keeps (P := fun t => t.flag p 0x010 n = true)
    (fun _ _ _ _ h => by rwa [State.flag, State.setFld, reg_setReg_apart _ _ _ _ (by decide)])
    (fun _ _ h => h) (fun _ h => flag_raiseEvt_of_flag _ _ _ (by decide) h) (fun _ _ _ _ _ _ h => flag_locketRequest_of_flag h ..) c code h

end

/-! ### A resource that did not quiesce (R332) -/

/-- The command of a ticket is forced. -/
def setForced (s : State) (st : Fin 8) (ticket : Nat) : State :=
  s.modArb st fun b => { b with bind := b.bind.map fun y => if y.ticket = ticket then { y with forced := true } else y }

/-- The command is forced from here on, and the first time that is recorded. -/
def noteForced (s : State) (st : Fin 8) (c : RebindCmd) (code : Nat) : State :=
  let s1 := setForced s st c.ticket
  if c.forced then s1 else raiseEvt (recordFault s1 (arbPage st) 0x0A 0x30 (code * 2 ^ 16) 0) (arbPage st) 6

/-- The resource is reset: a group's queue is discarded, the pages of another that still work are soft-reset. -/
def resetForced (s : State) (st : Fin 8) (r : Res) : State :=
  match r with
  | .group g => discardQueue s st (0x80 + g)
  | r => (r.pages st).foldl (fun s p => if working s p then softReset s p else s) s

theorem Unbound.resetForced {α : Type} {v : State → α} (hv : Unbound v) (s : State) (st : Fin 8) {r : Res} (hr : Listed r) :
    Same v s (resetForced s st r) := by
  cases r with
  | group g =>
    dsimp only [Laws.resetForced, discardQueue]
    exact hv.queue ..
  | _ => exact Same.foldl_mem s fun u p hp => .ite (hv.softReset u hr hp) (.refl u)

/-- A resource under re-binding stays so where its commands change beside their resources. -/
theorem movingIn_map {f : RebindCmd → RebindCmd} (hf : ∀ c, (f c).left = c.left) (l : List RebindCmd) (code : Nat) :
    movingIn (l.map f) code = (movingIn l code).map fun e => (f e.1, e.2) := by
  induction l with
  | nil => rfl
  | cons c l ih =>
    simp only [movingIn, List.map_cons, List.findSome?_cons, hf] at ih ⊢
    cases c.left.find? fun x => x.res == code with
    | none => exact ih
    | some x => rfl

theorem unfaulted_bind (st : Fin 8) : Unfaulted (bindState st) where
  toUnrecorded := (unbound_bind st).unrecorded
  reg _ _ _ _ _ := rfl
  clasp _ _ _ := (unbound_bind st).kept (keptBut_modClp ..) (by decide) (by decide) (by decide)

section
variable {s : State} {st : Fin 8} {code : Nat} {c : RebindCmd} {x : Rebind}

theorem moving_noteForced (h : moving s st code = some (c, x)) : ∃ e, moving (noteForced s st c code) st code = some e := by
  have hnote : ∀ s1, Same (bindState st) s1
      (if c.forced then s1 else raiseEvt (recordFault s1 (arbPage st) 0x0A 0x30 (code * 2 ^ 16) 0) (arbPage st) 6) := fun s1 =>
    .ite (.refl s1) (((unfaulted_bind st).recordFault ..).trans ((unfaulted_bind st).raiseEvt ..))
  rw [noteForced, moving_congr (hnote _), moving_eq, setForced, State.modArb_st_arb, movingIn_map (fun y => by split <;> rfl), ← moving_eq, h]
  exact ⟨_, rfl⟩

theorem sameByte_noteForced : Same State.byte s (noteForced s st c code) :=
  have h1 : Same State.byte s (setForced s st c.ticket) := sameByte_modArb ..
  .ite h1 (h1.trans (unfaulted_byte.recordFault ..) |>.trans (unfaulted_byte.raiseEvt ..))

/-- BIND_FORCED stands in the arbiter's record after the first resource of a command that is forced (R332, R340). -/
theorem record_noteForced (hf : c.forced = false) (hc : code < 0x240) :
    (noteForced s st c code).fld (arbPage st) 0x020 15 0 = 0x0A30 ∧ ((noteForced s st c code).reg (arbPage st) 0x024).toNat = code * 2 ^ 16 := by
  obtain ⟨hcode, hinfo⟩ := record_recordFault (setForced s st c.ticket) (arbPage st) 0x0A 0x30 (code * 2 ^ 16) 0 rfl
     (by decide) (by decide) (by omega)
  rw [noteForced, if_neg (by simp [hf]), State.fld, reg_raiseEvt_apart _ _ _ _ (by decide) (by decide),
    reg_raiseEvt_apart _ _ _ _ (by decide) (by decide)]
  exact ⟨hcode, hinfo⟩

theorem lt_of_resOf {r : Res} (h : resOf code = some r) : code < 0x240 := by
  by_contra hlt
  have hn : resOf code = none := by
    unfold resOf
    repeat rw [if_neg (by omega)]
  rw [hn] at h
  cases h

/-- Forcing a resource of a command takes it to its scrub, or past it (R332). -/
theorem forced_spec {r : Res} (hr : resOf code = some r) (h : moving s st code = some (c, x)) :
    let t := enterScrub (resetForced (noteForced s st c code) st r) st code c r
    ((moving t st code).map (fun e => e.2.phase) = some 3 ∨ (moving t st code).map (fun e => e.2.phase) = some 4) ∧ MemoryKept s t ∧
      (c.forced = false → t.fld (arbPage st) 0x020 15 0 = 0x0A30 ∧ (t.reg (arbPage st) 0x024).toNat = code * 2 ^ 16) := by
  extract_lets t
  have hl := listed_of_resOf hr
  obtain ⟨e, he⟩ := moving_noteForced h
  have hphase : (moving t st code).map (fun e => e.2.phase) = _ := phase_enterScrub hl c
    ((moving_congr ((unbound_bind st).resetForced _ st hl) code).trans he)
  have hbyte : Same State.byte s t := sameByte_noteForced.trans (unbound_byte.resetForced _ st hl) |>.trans
    (unbound_byte.enterScrub _ hl (fun u i f => sameByte_modArb u i f) code c)
  have hreg : ∀ off, off = 0x020 ∨ off = 0x024 → t.reg (arbPage st) off = (noteForced s st c code).reg (arbPage st) off := fun off ho =>
    have hv := unbound_reg st (off := off) (by omega) (by omega)
    (hv.resetForced (noteForced s st c code) st hl).trans (hv.enterScrub _ hl (fun _ _ _ => rfl) code c)
  refine ⟨?_, same_byte_iff.1 hbyte, fun hf => ?_⟩
  · rw [hphase]
    unfold phaseAfterQuiesce
    split
    · split
      · exact .inl rfl
      · exact .inr rfl
    · exact .inl rfl
  · rw [State.fld, hreg _ (.inl rfl), hreg _ (.inr rfl)]
    exact record_noteForced hf (lt_of_resOf hr)

end

/-! ### The steps -/

section
variable {s : State} {st : Fin 8} {code : Nat} {c : RebindCmd} {x : Rebind} {r : Res} (hs : s.has st = true)
  (hm : moving s st code = some (c, x)) (hr : resOf code = some r)
include hs hm hr

theorem completes_rebindScrub {P : State → Prop} (hx : x.phase = 2) (hq : resQuiet s st r = true) (hP : P (enterScrub s st code c r)) :
    Completes (.rebindScrub st code) s P := by
  refine ⟨_, if_pos hs, ?_⟩
  simp only [hm, hr]
  rw [if_pos ⟨hx, hq⟩]
  exact hP

theorem completes_rebindHandover {P : State → Prop} (hx : x.phase = 3) (hp : ∀ p ∈ r.pages st, s.flag p 0x008 1 = false)
    (hP : P (modMoving (bindStat (scrub s st r) st r 4 c.plan) st code 4)) : Completes (.rebindHandover st code) s P := by
  refine ⟨_, if_pos hs, ?_⟩
  simp only [hm, hr]
  rw [if_pos ⟨hx, List.all_eq_true.2 fun p h => by rw [hp p h]; rfl⟩]
  exact hP

theorem completes_rebindDone {P : State → Prop} (hx : x.phase = 4) (hP : P (commandDone (handOver s st c r) st c code)) :
    Completes (.rebindDone st code) s P := by
  refine ⟨_, if_pos hs, ?_⟩
  simp only [hm, hr]
  rw [if_pos hx]
  exact hP

theorem completes_rebindForced {P : State → Prop} (hx : x.phase = 2)
    (hP : P (enterScrub (resetForced (noteForced s st c code) st r) st code c r)) : Completes (.rebindForced st code) s P := by
  refine ⟨_, if_pos hs, ?_⟩
  simp only [hm, hr]
  rw [if_neg (not_not_intro hx)]
  exact hP

end

end Sys2Proof.Laws
end

section
open Sys2Proof Machine Safety Laws

/-- Settles O36: the command by its two outcomes, each later step by the state it takes the resource to and what that reaches. -/
theorem rebinding : Obligations.Rebinding := by
  refine ⟨fun s r st v hs hmay hgo => ?rebind, fun s st res c x r hs hm hr => ?steps⟩
  case rebind =>
    intro a first count plan codes why
    have hgo' : ¬ bitAt v.toNat 0 = false := by rw [hgo]; decide
    refine ⟨_, (if_pos hs).trans (congrArg _ (if_pos hmay)), ?_⟩
    by_cases hwhy : why ≠ 0
    · obtain ⟨hmem, hticket, hbind, hreg, hflag⟩ := refused_spec s st ((s.st st).arb.bindTicket + 1) (BitVec.ofNat 32 (3 + 2 ^ 8 * why))
        first count 2 why plan
      have heq : rebindGo s r st v = _ := (if_neg hgo').trans (if_pos hwhy)
      have hle : why ≤ 6 := rebindReason_le ..
      rw [if_pos hwhy, heq]
      refine ⟨hmem, hticket, hbind, ?_, hflag⟩
      rw [hreg, BitVec.toNat_ofNat]
      omega
    · obtain ⟨hmem, hticket, hbind, hreg⟩ := accepted_spec s st ((s.st st).arb.bindTicket + 1) (BitVec.ofNat 32 (1 + 2 ^ 16 * count))
        { first := first, count := count, plan := plan, scrub := bitAt v.toNat 1, lock := bitAt v.toNat 2,
          ticket := (s.st st).arb.bindTicket + 1, left := codes.map fun c => { res := c } } plan codes
      have heq : rebindGo s r st v = _ := (if_neg hgo').trans (if_neg hwhy)
      have hcount : s.fld a 0x080 21 16 < 2 ^ 6 := bitsOf_lt ..
      rw [if_neg hwhy, heq]
      refine ⟨hmem, hticket, ?_, hbind⟩
      rw [hreg, BitVec.toNat_ofNat]
      omega
  case steps =>
    have hl := listed_of_resOf hr
    intro phaseOf
    refine ⟨fun hx hq => ?scrub, fun hx hp => ?handover, fun hx => ?done, fun hx => ?forced⟩
    case scrub =>
      refine completes_rebindScrub hs hm hr hx hq ⟨?_, phase_enterScrub hl c hm⟩
      exact same_byte_iff.1 (unbound_byte.enterScrub s hl (fun u i f => sameByte_modArb u i f) res c)
    case handover =>
      have hbyte : Same State.byte (scrub s st r) _ := sameByte_handover hl (code := res) c.plan
      refine completes_rebindHandover hs hm hr hx hp ⟨phase_handover hl c.plan hm, ?core, ?seq, ?kept⟩
      case core =>
        rintro k rfl i hi
        exact (congrFun hbyte _).trans (byte_scrub_core s st hl hi)
      case seq =>
        rintro q rfl
        rw [seq_handover]
        exact ⟨rfl, rfl, rfl⟩
      case kept =>
        intro hcore hregion
        refine same_byte_iff.1 ((unbound_byte.scrub s hl fun h => ?_).trans hbyte)
        rcases h with ⟨k, hk⟩ | ⟨n, hn⟩
        · exact absurd hk (hcore k)
        · exact absurd hn (hregion n)
    case done =>
      refine completes_rebindDone hs hm hr hx ⟨fun p hp => ?_, fun n hn => ?_, fun p hp => ?_, ?_⟩
      · exact ((boundTo_handOver p hp).of_reg fun x hx => reg_commandDone c res p (by simpa using hx)).fields
      · subst hn
        have hregion := region_congr (same_commandDone (st := st) c res (unfaulted_regions st) (s := handOver s st c (.region n))
          fun u f => State.modArb_st_regions ..) n
        rw [hregion]
        exact region_handOver n
      · exact flag_commandDone c res p (flag_handOver p hp)
      · exact same_byte_iff.1 ((sameByte_handOver hl).trans (same_commandDone c res unfaulted_byte fun u f => sameByte_modArb u st f))
    case forced => exact completes_rebindForced hs hm hr hx (forced_spec hr hm)

end

section
/-! A step and the queue of commands, with O1. -/

open Sys2Proof Machine Safety

/-- Settles O1: a step takes the front command off the queue before it runs it, and no word of the table decodes. -/
theorem stepRunsTheFrontCommand : Obligations.StepRunsTheFrontCommand := by
  refine ⟨fun c cs s => rfl, fun s hs => ?_, fun s nbits w => ⟨rfl, rfl⟩⟩
  unfold step
  rw [hs]

end

section
/-! Records and their CRC (R436, R437): bytes and numbers spell each other, and O52. -/

namespace Sys2Proof.Laws

open Machine Safety

/-! ### Bytes of numbers -/

theorem leNat_lt (bs : List Byte) : leNat bs < 256 ^ bs.length := by
  induction bs with
  | nil => decide
  | cons b bs ih =>
    have hb := b.isLt
    rw [leNat, List.length_cons, Nat.pow_succ]
    omega

/-- Bytes are those of the number that they spell. -/
theorem leBytes_leNat (bs : List Byte) : leBytes (leNat bs) bs.length = bs := by
  induction bs with
  | nil => rfl
  | cons b bs ih =>
    have hb := b.isLt
    have hq : (b.toNat + 256 * leNat bs) / 256 = leNat bs := by omega
    have hr : BitVec.ofNat 8 (b.toNat + 256 * leNat bs) = b := by
      refine BitVec.eq_of_toNat_eq ?_
      rw [BitVec.toNat_ofNat]
      omega
    rw [leNat, List.length_cons, leBytes, hq, hr, ih]

/-- Equal numbers below 256^k are those of equal bytes. -/
theorem eq_leBytes_iff {bs : List Byte} {k n : Nat} (hl : bs.length = k) (hn : n < 256 ^ k) : bs = leBytes n k ↔ leNat bs = n := by
  constructor
  · rintro rfl
    rw [leNat_leBytes, Nat.mod_eq_of_lt hn]
  · rintro rfl
    rw [← hl, leBytes_leNat]

/-- Byte `i` of a number. -/
theorem getD_leBytes {k i : Nat} (n : Nat) (h : i < k) : ((leBytes n k).getD i 0).toNat = n / 256 ^ i % 256 := by
  induction k generalizing n i with
  | zero => omega
  | succ k ih =>
    cases i with
    | zero => simp [leBytes]
    | succ i =>
      rw [leBytes, List.getD_cons_succ, ih _ (by omega), Nat.div_div_eq_div_mul, Nat.pow_succ, Nat.mul_comm]

/-- The upper bits of a byte of a slot are those bits of the slot. -/
theorem bitsOf_slot_eq {i j : Nat} (v : Slot64) (hi : i < 64) (hj : j < 8) :
    bitsOf v.toNat (i * 8 + 7) (i * 8 + j) = ((slotBytes v).getD i 0).toNat / 2 ^ j := by
  have hw : i * 8 + 7 + 1 - (i * 8 + j) = 8 - j := by omega
  have h8 : (256 : Nat) = 2 ^ j * 2 ^ (8 - j) := by rw [← Nat.pow_add, show j + (8 - j) = 8 by omega]
  have hp : 256 ^ i = 2 ^ (i * 8) := by rw [Nat.mul_comm, Nat.pow_mul]
  rw [slotBytes, getD_leBytes _ hi, bitsOf_eq, hw, hp]
  rw [h8, Nat.mod_mul_right_div_self, Nat.div_div_eq_div_mul, ← Nat.pow_add]

/-- A slot made from its 64 bytes has them. -/
theorem slotBytes_slotOf {bs : List Byte} (h : bs.length = 64) : slotBytes (slotOf bs) = bs := by
  have hlt := leNat_lt bs
  rw [h, show (256 : Nat) = 2 ^ 8 from rfl, ← Nat.pow_mul] at hlt
  rw [slotBytes, slotOf, BitVec.toNat_ofNat, Nat.mod_eq_of_lt hlt, ← h, leBytes_leNat]

/-! ### The CRC -/

/-- The register of the CRC between its initial value and its final XOR. -/
theorem crc32c_register (bs : List Byte) : crc32c bs ^^^ 0xFFFFFFFF = bs.foldl crc32cByte 0xFFFFFFFF := by
  rw [crc32c, BitVec.xor_assoc, BitVec.xor_self, BitVec.xor_zero]

theorem crc32c_concat (bs : List Byte) (b : Byte) :
    crc32c (bs ++ [b]) = crc32cByte (crc32c bs ^^^ 0xFFFFFFFF) b ^^^ 0xFFFFFFFF := by
  rw [crc32c_register, crc32c, List.foldl_append]
  rfl

/-- A slot is valid where its last four bytes are its CRC and its zero fields are zero (R437). -/
theorem validRecord_iff (v : Slot64) :
    validRecord v = true ↔ slice (slotBytes v) 60 4 = leBytes (crc32c ((slotBytes v).take 60)).toNat 4 ∧
      ((slotBytes v).getD 27 0).toNat / 16 = 0 ∧ ((slotBytes v).getD 31 0).toNat / 4 = 0 := by
  have h4 : leNat (slice (slotBytes v) 60 4) < 2 ^ 32 := (leNat_lt _).trans_eq (by rw [slice_length]; norm_num)
  have hcrc : crc32c ((slotBytes v).take 60) = BitVec.ofNat 32 (leNat (slice (slotBytes v) 60 4)) ↔
      slice (slotBytes v) 60 4 = leBytes (crc32c ((slotBytes v).take 60)).toNat 4 := by
    rw [eq_leBytes_iff (slice_length ..) (by exact (BitVec.isLt _)), ← BitVec.toNat_inj, BitVec.toNat_ofNat,
      Nat.mod_eq_of_lt h4, eq_comm]
  dsimp only [validRecord]
  rw [Bool.and_eq_true, Bool.and_eq_true, beq_iff_eq, beq_iff_eq, beq_iff_eq, hcrc,
    bitsOf_slot_eq (i := 27) (j := 4) v (by decide) (by decide), bitsOf_slot_eq (i := 31) (j := 2) v (by decide) (by decide), and_assoc]
  exact .rfl

/-! ### Records that are made -/

/-- The bytes of a record before its CRC (R436). -/
def recordBody (seq : DWord) (r : RecReq) (boot : Nat) : List Byte :=
  leBytes seq.toNat 8 ++ leBytes r.time.toNat 8 ++ leBytes r.pos.toNat 8 ++ leBytes r.src.type 2 ++
    leBytes r.src.inst 1 ++ leBytes (r.src.stk % 16) 1 ++ leBytes r.code.toNat 2 ++ leBytes r.dropped 1 ++
    leBytes (bit r.posValid + 2 * bit r.timeValid) 1 ++ slice r.payload 0 24 ++ leBytes (boot % 2 ^ 32) 4

section
variable (seq : DWord) (r : RecReq) (boot : Nat)

theorem recordBody_length : (recordBody seq r boot).length = 60 := by simp [recordBody]

theorem slotBytes_makeRecord :
    slotBytes (makeRecord seq r boot) = recordBody seq r boot ++ leBytes (crc32c (recordBody seq r boot)).toNat 4 :=
  slotBytes_slotOf (bs := recordBody seq r boot ++ leBytes (crc32c (recordBody seq r boot)).toNat 4) (by rw [List.length_append, recordBody_length, leBytes_length])

/-- The bytes of a record's body are those of its slot. -/
theorem take_makeRecord : (slotBytes (makeRecord seq r boot)).take 60 = recordBody seq r boot := by
  rw [slotBytes_makeRecord, List.take_left' (recordBody_length ..)]

theorem slice_append_right {l m : List Byte} {i k : Nat} (hl : l.length = i) (hm : m.length = k) : slice (l ++ m) i k = m := by
  have hd : (l ++ m).drop i = m := List.drop_left' hl
  simp only [slice, hd, ← hm, List.take_length, Nat.sub_self, List.replicate_zero, List.append_nil]

theorem crc_makeRecord : slice (slotBytes (makeRecord seq r boot)) 60 4 = leBytes (crc32c (recordBody seq r boot)).toNat 4 := by
  rw [slotBytes_makeRecord, slice_append_right (recordBody_length ..) (leBytes_length ..)]

/-- The zero fields of a record stand above a stack number and above two flags. -/
theorem zeroFields_recordBody :
    ((recordBody seq r boot).getD 27 0).toNat < 16 ∧ ((recordBody seq r boot).getD 31 0).toNat < 4 := by
  have hb : ∀ b, bit b ≤ 1 := by decide
  have h1 := hb r.posValid
  have h2 := hb r.timeValid
  simp [recordBody, leBytes]
  omega

theorem validRecord_makeRecord : validRecord (makeRecord seq r boot) = true := by
  obtain ⟨h27, h31⟩ := zeroFields_recordBody seq r boot
  have hget : ∀ {i}, i < 60 → (slotBytes (makeRecord seq r boot)).getD i 0 = (recordBody seq r boot).getD i 0 := fun h => by
    rw [slotBytes_makeRecord, List.getD_append _ _ _ _ (by rwa [recordBody_length])]
  rw [validRecord_iff, take_makeRecord, crc_makeRecord, hget (by decide), hget (by decide)]
  exact ⟨rfl, by omega, by omega⟩

end

end Sys2Proof.Laws
end

section
open Sys2Proof Machine Safety Laws

/-- Settles O52: the CRC is a fold over the bytes, and a slot spells exactly the bytes it was made of. -/
theorem recordCrc : Obligations.RecordCrc := by
  refine ⟨⟨rfl, crc32c_concat⟩, by decide +kernel, fun seq q boot => ?_, validRecord_iff⟩
  dsimp only
  rw [take_makeRecord, crc_makeRecord]
  exact ⟨rfl, validRecord_makeRecord ..⟩

end

section
/-! Readings that no event and no fault reaches, though they see the Locket's ring and its windows (R33, R418, R439). -/

namespace Sys2Proof.Laws

open Machine Safety

variable {α : Type} {v : State → α}

/-- A reading that sees neither a doorbell nor a register, a draw or a Clasp, and of the Locket nothing of the requests that wait. -/
structure Unlogged (v : State → α) : Prop extends Unrung v where
  reg : ∀ p, PageUnseen v p
  clasp : ∀ s i f, Same v s (s.modClp i f)
  draw : ∀ (s : State) n, Same v s { s with free := n }
  reqs : ∀ (s : State) (f : List RecReq → List RecReq), Same v s (s.modLkt fun l => { l with reqs := f l.reqs })

theorem Unfaulted.unlogged (hv : Unfaulted v) : Unlogged v where
  toUnrung := hv.toUnrung
  reg := hv.reg
  clasp := hv.clasp
  draw := hv.draw
  reqs s _ := hv.locket s _

namespace Unlogged

variable (hv : Unlogged v) (s : State)
include hv

theorem raiseEvt (p : Page) (n : Nat) : Same v s (raiseEvt s p n) := hv.toUnrung.raiseEvt (hv.reg p _ _ _ (by decide))

theorem locketRequest (src : Source) (order : Nat) (home : Fin 8) (code : Nat) (payload : List Byte) :
    Same v s (locketRequest s src order home code payload) := by
  unfold Machine.locketRequest
  split
  · exact (hv.reqs s fun l => l.map _).trans (hv.reg _ _ _ _ (by decide)) |>.trans (hv.raiseEvt ..)
  · unfold addRequest makeRequest State.now State.drawElapsed
    exact (hv.draw ..).trans (hv.reqs _ fun l => l ++ [_])

theorem pageFault (p : Page) (cls det info addr : Nat) : Same v s (pageFault s p cls det info addr) :=
  (hv.reg p _ _ _ (by decide)).trans (hv.reg p _ _ _ (by decide)) |>.trans ((hv.reg p).setPair _ _ (by decide)) |>.trans (hv.raiseEvt ..)

theorem recordPlain (p : Page) (cls det info addr : Nat) (tears : Bool) : Same v s (recordPlain s p cls det info addr tears) :=
  .ite ((hv.pageFault ..).trans (hv.locketRequest ..)) (hv.pageFault ..)

theorem tornStack (info : Nat) (i : Fin 8) : Same v s (tornStack info s i) :=
  .ite ((hv.clasp ..).trans (hv.recordPlain ..) |>.trans (hv.raiseEvt ..)) (.refl s)

theorem recordFault (p : Page) (cls det info addr : Nat) : Same v s (recordFault s p cls det info addr) :=
  .ite ((hv.recordPlain ..).trans (.foldl (hv.tornStack · _) _ _)) (hv.recordPlain ..)

/-! ### The domains of a stack follow their requests (R453) -/

theorem quiesceRise (s₀ : State) (p : Page) : Same v s (quiesceRise s₀ s p) := .ite (hv.raiseEvt ..) (.refl s)

theorem quiescePage (p : Page) : Same v s (quiescePage s p) := (hv.reg _ _ _ _ (by decide)).trans (hv.quiesceRise ..)

theorem startUp (st : Fin 8) (k : Nat) : Same v s (startUp s st k) := (hv.reg _ _ _ _ (by decide)).trans (hv.reg _ _ _ _ (by decide))

theorem startDown (st : Fin 8) (k : Nat) : Same v s (startDown s st k) :=
  (hv.reg _ _ _ _ (by decide)).trans (.foldl (fun u p => hv.quiescePage u p) _ _)

theorem applyDomains (st : Fin 8) : Same v s (applyDomains s st) :=
  .ite (.refl s) (.foldl (fun u k => .ite (.refl u) (.ite (hv.startUp u st k) (.ite (hv.startDown u st k) (.refl u)))) _ _)

end Unlogged

theorem unlogged_byte : Unlogged State.byte := unfaulted_byte.unlogged

theorem unfaulted_arb (st : Fin 8) : Unfaulted fun s => (s.st st).arb where
  box _ _ _ _ _ := State.modBox_st_arb ..
  mail _ _ _ _ := rfl
  wake _ _ := rfl
  locket _ _ := rfl
  draw _ _ := rfl
  page _ _ _ _ := rfl
  reg _ _ _ _ _ := rfl
  clasp _ _ _ := State.modClp_st_arb ..

/-! ### The registers of other offsets, and events that stand -/

section
variable (s : State) (st : Fin 8) (p q : Page) {x : Nat}

theorem sameReg_quiescePage (h : x % 4096 ≠ 0x008) (h' : x % 4096 ≠ 0x010) (h'' : x % 4096 ≠ 0x044) :
    Same (·.reg q x) s (quiescePage s p) :=
  (reg_quiesceRise_apart _ _ _ _ h'' h').trans (reg_setFlag_apart _ _ _ _ _ h)

theorem sameReg_startUp (k : Nat) (h : x % 4096 ≠ 0x044) : Same (·.reg q x) s (startUp s st k) :=
  (reg_setFlag_apart _ _ _ _ _ h).trans (reg_setFlag_apart s _ _ _ _ h)

theorem sameReg_startDown (k : Nat) (h : x % 4096 ≠ 0x008) (h' : x % 4096 ≠ 0x010) (h'' : x % 4096 ≠ 0x044) :
    Same (·.reg q x) s (startDown s st k) :=
  Same.trans (t := setTransit s st k true) (reg_setFlag_apart _ _ _ _ _ h'')
    (.foldl (fun u p => sameReg_quiescePage u p q h h' h'') _ _)

theorem reg_applyDomains_apart (h : x % 4096 ≠ 0x008) (h' : x % 4096 ≠ 0x010) (h'' : x % 4096 ≠ 0x044) :
    (applyDomains s st).reg q x = s.reg q x :=
  Same.ite (v := (·.reg q x)) (.refl s) (.foldl (fun u k => .ite (.refl u) (.ite (sameReg_startUp u st q k h'')
    (.ite (sameReg_startDown u st q k h h' h'') (.refl u)))) _ _)

theorem flag_quiescePage_of_flag {m : Nat} (h : s.flag q 0x010 m = true) : (quiescePage s p).flag q 0x010 m = true := by
  have hs : (s.setFlag p 0x008 2 true).flag q 0x010 m = true := by rwa [State.flag, reg_setFlag_apart _ _ _ _ _ (by decide)]
  unfold quiescePage quiesceRise
  split
  · exact flag_raiseEvt_of_flag _ _ _ (by decide) hs
  · exact hs

theorem flag_startDown_of_flag (k : Nat) {m : Nat} (h : s.flag q 0x010 m = true) : (startDown s st k).flag q 0x010 m = true :=
  List.foldlRecOn (motive := fun u : State => u.flag q 0x010 m = true) _ _
    (by rwa [State.flag, setTransit, reg_setFlag_apart _ _ _ _ _ (by decide)]) fun u hu p _ => flag_quiescePage_of_flag u p q hu

theorem flag_applyDomains_of_flag {m : Nat} (h : s.flag q 0x010 m = true) : (applyDomains s st).flag q 0x010 m = true := by
  unfold applyDomains
  split
  · exact h
  · refine List.foldlRecOn (motive := fun u : State => u.flag q 0x010 m = true) _ _ h fun u hu k _ => ?_
    dsimp only
    split
    · exact hu
    · split
      · have hr : (startUp u st k).reg q 0x010 = u.reg q 0x010 := sameReg_startUp u st q k (by decide)
        rwa [State.flag, hr]
      · split
        · exact flag_startDown_of_flag _ _ _ _ hu
        · exact hu

end

end Sys2Proof.Laws
end

section
/-! Swaps of spares (R425 to R429): the running swap after each of its commands, and O38. -/

namespace Sys2Proof.Laws

open Machine Safety

/-! ### The running swap -/

section
variable (s : State) (st : Fin 8) (act scope : Nat)

theorem runningSwap_congr {s t : State} {st : Fin 8} (h : (t.st st).arb.run = (s.st st).arb.run) (act scope : Nat) :
    runningSwap t st act scope = runningSwap s st act scope := by rw [runningSwap, runningSwap, h]

/-- An activity is the swap of a unit. -/
def isSwapOf (act scope : Nat) (a : Activity) : Bool :=
  a.act == act && a.scope == scope && (act == 4 || act == 5 || act == 6)

theorem runningSwap_eq : runningSwap s st act scope = (s.st st).arb.run.find? (isSwapOf act scope) := rfl

/-- An activity is changed where it stands. -/
theorem runningSwap_modActivity {a : Activity} {f : Activity → Activity} (hf : ∀ a, (f a).act = a.act ∧ (f a).scope = a.scope)
    (h : runningSwap s st act scope = some a) : runningSwap (modActivity s st act scope f) st act scope = some (f a) := by
  rw [runningSwap_eq] at h
  have hp : isSwapOf act scope a = true := List.find?_some h
  simp only [isSwapOf, Bool.and_eq_true, beq_iff_eq] at hp
  have hfind : (isSwapOf act scope ∘ fun a : Activity => if a.act = act ∧ a.scope = scope then f a else a) = isSwapOf act scope := by
    funext x
    dsimp only [Function.comp_apply, isSwapOf]
    split
    · rw [(hf x).1, (hf x).2]
    · rfl
  rw [runningSwap_eq, modActivity, State.modArb_st_arb, List.find?_map, hfind, h, Option.map_some, if_pos hp.1]

theorem runningSwap_dropActivity : runningSwap (dropActivity s st act scope) st act scope = none := by
  rw [runningSwap_eq, dropActivity, State.modArb_st_arb, List.find?_eq_none]
  intro a ha
  have hd := (List.mem_filter.1 ha).2
  simp only [Bool.not_eq_true', Bool.not_eq_true] at hd ⊢
  rw [isSwapOf, hd, Bool.false_and]

theorem runningSwap_applyDomains : runningSwap (applyDomains s st) st act scope = runningSwap s st act scope :=
  runningSwap_congr (congrArg Arbiter.run ((unfaulted_arb st).unlogged.applyDomains s st)) act scope

theorem sameByte_modActivity (f : Activity → Activity) : Same State.byte s (modActivity s st act scope f) :=
  same_byte_iff.2 ((keptBut_modArb ..).kind .memory (by decide))

theorem sameByte_dropActivity : Same State.byte s (dropActivity s st act scope) :=
  same_byte_iff.2 ((keptBut_modArb ..).kind .memory (by decide))

theorem arb_swapRecord (outcome old new : Nat) : ((swapRecord s st act scope outcome old new).st st).arb = (s.st st).arb :=
  (keptBut_locketRequest ..).kind .arbiter (by decide) st

theorem flag_swapRecord_apart (outcome old new : Nat) (q : Page) {x : Nat} (i : Nat) (h : x % 4096 ≠ 0x044)
    (h' : x % 4096 ≠ 0x010) (h'' : x % 4096 ≠ 0x064) :
    (swapRecord s st act scope outcome old new).flag q x i = s.flag q x i := by
  rw [State.flag, reg_swapRecord_apart _ _ _ _ _ _ _ _ h h' h'']
  rfl

end

/-! ### A spare that fails -/

section
variable (s : State) (st : Fin 8) (act i : Nat)

theorem retireSpare_st (j : Fin 8) : (retireSpare s st act i).st j = s.st j := by
  unfold retireSpare
  split <;> rfl

theorem sameByte_retireSpare : Same State.byte s (retireSpare s st act i) := .ite rfl rfl

theorem flag_retireSpare_core : (retireSpare s st 4 i).flag (arbPage st) (0x0A0 + 4 * i) 15 = true :=
  State.flag_setFlag_same _ _ _ _ (by decide)

theorem laneBits_lt : (laneBits i).1 < 32 ∧ (laneBits i).2 < 32 := by unfold laneBits; split <;> decide

theorem flag_retireSpare_lane (h : act ≠ 4) : (retireSpare s st act i).flag (arbPage st) 0x0B0 (laneBits i).2 = true := by
  rw [retireSpare, if_neg h]
  exact State.flag_setFlag_same _ _ _ _ (laneBits_lt i).2

end

/-! ### The map -/

section
variable (s : State) (st : Fin 8) (act scope i : Nat)

theorem mapSpare_eq : ∃ regs, mapSpare s st act scope i = { s with regs := regs } := by
  have hfold : ∀ (l : List Nat) (u : State), (∃ r, u = { s with regs := r }) → ∃ r,
      l.foldl (fun s j => (s.setFlag (arbPage st) (0x0A0 + 4 * j) 14 false).setFlag (arbPage st) (0x0A0 + 4 * j) 15 true) u =
        { s with regs := r } := by
    intro l
    induction l with
    | nil => exact fun u h => h
    | cons j l ih => rintro _ ⟨r, rfl⟩; exact ih _ ⟨_, rfl⟩
  unfold mapSpare
  split
  · dsimp only
    obtain ⟨r, hr⟩ := hfold ((List.range 4).filter fun j => bitAt (spareReg s st j) 14 && bitsOf (spareReg s st j) 13 8 == scope) s
      ⟨_, rfl⟩
    rw [hr]
    exact ⟨_, rfl⟩
  · exact ⟨_, rfl⟩

theorem mapSpare_core (h : scope < 64) :
    (mapSpare s st 4 scope i).fld (arbPage st) (0x0A0 + 4 * i) 13 8 = scope ∧
      (mapSpare s st 4 scope i).flag (arbPage st) (0x0A0 + 4 * i) 14 = true := by
  refine ⟨?_, State.flag_setFlag_same _ _ _ _ (by decide)⟩
  rw [mapSpare, if_pos rfl]
  exact (State.fld_setFld_beside _ _ _ _ (by decide) (by decide) (by decide)).trans
    ((State.fld_setFld_same _ _ _ _ (by decide) (by decide)).trans (Nat.mod_eq_of_lt h))

/-- A lane or sequencer spare is marked beside the field that names its unit. -/
theorem mapSpare_lane (ha : act ≠ 4) (h : scope < 2 ^ ((laneField i).1 + 1 - (laneField i).2)) :
    (mapSpare s st act scope i).fld (arbPage st) 0x0B0 (laneField i).1 (laneField i).2 = scope ∧
      (mapSpare s st act scope i).flag (arbPage st) 0x0B0 (laneBits i).1 = true := by
  have hf : (laneField i).2 ≤ (laneField i).1 ∧ (laneField i).1 < (laneBits i).1 ∧ (laneField i).1 + 1 - (laneField i).2 ≤ 4 := by
    unfold laneField laneBits
    split <;> decide
  have hs : scope % 0x100 = scope := Nat.mod_eq_of_lt (h.trans_le ((Nat.pow_le_pow_right (by decide) hf.2.2).trans (by decide)))
  have hb := (laneBits_lt i).1
  rw [mapSpare, if_neg ha]
  refine ⟨?_, State.flag_setFlag_same _ _ _ _ hb⟩
  exact (State.fld_setFld_beside _ _ _ _ le_rfl hb (.inl hf.2.1)).trans
    ((State.fld_setFld_same _ _ _ _ hf.1 (hf.2.1.trans hb)).trans ((congrArg (· % _) hs).trans (Nat.mod_eq_of_lt h)))

end

/-! ### The commands -/

section
variable {s : State} {st : Fin 8} {act scope : Nat} {a : Activity}

theorem execSwapCutover_of_due {i : Nat} (hs : s.has st = true) (ha : runningSwap s st act scope = some a)
    (hi : pickSpare s st act scope = some i) (hp : a.phase = 0) (hd : cutoverDue s st = true)
    (hb : ∀ c ∈ (s.st st).arb.bind, ∀ r ∈ c.left, r.res ≠
      if act = 4 then scope else if act = 6 then 0x130 + scope else if scope < 0x100 then 0x100 + scope / 4 else 0x110) :
    Completes (.swapCutover st act scope) s fun t =>
      runningSwap t st act scope = some { a with phase := 1, spare := i } ∧ MemoryKept s t := by
  have hr : ((s.st st).arb.bind.any fun c => c.left.any fun r => r.res ==
      if act = 4 then scope else if act = 6 then 0x130 + scope else if scope < 0x100 then 0x100 + scope / 4 else 0x110) = false := by
    simpa only [List.any_eq_false, beq_iff_eq, Bool.not_eq_true, decide_eq_true_eq] using hb
  refine ⟨_, if_pos hs, ?_⟩
  rw [ha, hi]
  dsimp only
  rw [if_pos ⟨hp, hd, hr⟩]
  have hm := runningSwap_modActivity s st act scope (f := fun a => { a with phase := 1, spare := i }) (fun _ => ⟨rfl, rfl⟩) ha
  have hk := same_byte_iff.1 (sameByte_modActivity s st act scope fun a => { a with phase := 1, spare := i })
  split
  · exact ⟨(runningSwap_congr rfl ..).trans hm, hk⟩
  · exact ⟨hm, hk⟩

theorem swapCopied_of_drained (ha : runningSwap s st act scope = some a) (hp : a.phase = 1) (hb : unitBusy s st act scope = false)
    (hd : act = 4 → s.domOn st (bitsOf (spareReg s st a.spare) 5 0 / 15) = true) (ok : Bool) :
    swapCopied s st act scope ok = if ok then modActivity s st act scope fun a => { a with phase := 2 }
      else swapRecord (retireSpare (dropActivity s st act scope) st act a.spare) st act scope 1 (oldPhys s st act scope)
        (sparePhys s st act a.spare) := by
  have hdom : ¬(act = 4 ∧ s.domOn st (sparePhys s st 4 a.spare / 15) = false) := by
    rintro ⟨h, h'⟩
    exact absurd (h'.symm.trans (hd h)) (by decide)
  rw [swapCopied, ha]
  dsimp only
  rw [if_neg (by simp [hp, hb]), if_neg hdom]

/-- A spare that fails leaves the swap ended and itself retired (R427). -/
theorem swapAborted_spec (i old new : Nat) :
    let t := swapRecord (retireSpare (dropActivity s st act scope) st act i) st act scope 1 old new
    runningSwap t st act scope = none ∧ MemoryKept s t ∧ (act = 4 → i < 4 → t.flag (arbPage st) (0x0A0 + 4 * i) 15 = true) ∧
      (act ≠ 4 → t.flag (arbPage st) 0x0B0 (laneBits i).2 = true) := by
  refine ⟨?_, ?_, fun h hi => ?_, fun h => ?_⟩
  · exact (runningSwap_congr (by rw [arb_swapRecord, retireSpare_st]) ..).trans (runningSwap_dropActivity s st act scope)
  · exact same_byte_iff.1 (((sameByte_dropActivity ..).trans (sameByte_retireSpare ..)).trans (sameByte_swapRecord ..))
  · rw [flag_swapRecord_apart _ _ _ _ _ _ _ _ _ (by omega) (by omega) (by omega), h, flag_retireSpare_core]
  · rw [flag_swapRecord_apart _ _ _ _ _ _ _ _ _ (by decide) (by decide) (by decide), flag_retireSpare_lane _ _ _ _ h]

/-- A swap that completes shows its spare in the map, and SWAP_DONE (R425, R429). -/
theorem swapCompleted_spec (ha : runningSwap s st act scope = some a) (hp : a.phase = 2) :
    let t := swapCompleted s st act scope
    let u := mapSpare (dropActivity s st act scope) st act scope a.spare
    runningSwap t st act scope = none ∧ t.flag (arbPage st) 0x010 7 = true ∧ MemoryKept s t ∧
      ∀ x, 0x0A0 ≤ x → x ≤ 0x0B0 → t.reg (arbPage st) x = u.reg (arbPage st) x := by
  have harb : (arbPage st).inst < instances (arbPage st).blk := Nat.one_pos
  have ht : swapCompleted s st act scope =
      swapRecord (raiseEvt (mapSpare (dropActivity s st act scope) st act scope a.spare) (arbPage st) 7) st act scope 0
        (oldPhys s st act scope) (sparePhys s st act a.spare) := by
    rw [swapCompleted, ha]
    exact if_pos hp
  obtain ⟨r, hr⟩ := mapSpare_eq (dropActivity s st act scope) st act scope a.spare
  intro t u
  have hu : (u.st st).arb = ((dropActivity s st act scope).st st).arb := by
    show ((mapSpare (dropActivity s st act scope) st act scope a.spare).st st).arb = _
    rw [hr]
    rfl
  have hk : Same State.byte (dropActivity s st act scope) u := by
    show State.byte (mapSpare (dropActivity s st act scope) st act scope a.spare) = _
    rw [hr]
    rfl
  have hrun : (t.st st).arb = (u.st st).arb := by
    show ((swapCompleted s st act scope).st st).arb = _
    rw [ht, arb_swapRecord, (keptBut_raiseEvt _ 7 harb).kind .arbiter (by decide : Kind.arbiter ∉ .page .arb :: eventKinds) st]
  have hx : ∀ x, x % 4096 ≠ 0x044 → x % 4096 ≠ 0x010 → x % 4096 ≠ 0x064 → t.reg (arbPage st) x = u.reg (arbPage st) x := by
    intro x h h' h''
    show (swapCompleted s st act scope).reg _ x = _
    rw [ht, reg_swapRecord_apart _ _ _ _ _ _ _ _ h h' h'', reg_raiseEvt_apart _ _ _ _ h h']
  refine ⟨?_, ?_, ?_, fun x h h' => hx x (by omega) (by omega) (by omega)⟩
  · exact (runningSwap_congr (by rw [hrun, hu]) ..).trans (runningSwap_dropActivity s st act scope)
  · show (swapCompleted s st act scope).flag _ _ _ = _
    rw [ht]
    exact flag_locketRequest_of_flag (flag_raiseEvt _ _ 7 (by decide)) ..
  · show MemoryKept s (swapCompleted s st act scope)
    rw [ht]
    exact same_byte_iff.1 (((sameByte_dropActivity ..).trans hk).trans ((sameByte_raiseEvt u harb 7).trans (sameByte_swapRecord ..)))

end

end Sys2Proof.Laws
end

section
open Sys2Proof Machine Safety Laws

/-- Settles O38: each command moves the running swap by one phase or ends it, the map keeps what completion wrote, and the domains
that the swap held follow their requests. -/
theorem spareSwaps : Obligations.SpareSwaps := by
  refine fun s st act scope a hs ha => ⟨fun i hi hp hd => execSwapCutover_of_due hs ha hi hp hd, fun hp hb hd => ?copy, fun hp => ?done⟩
  case copy =>
    have hcopy := swapCopied_of_drained ha hp hb hd
    refine ⟨⟨_, if_pos hs, ?_⟩, ⟨_, if_pos hs, ?_⟩⟩
    · rw [hcopy true, if_pos rfl]
      exact ⟨(runningSwap_applyDomains ..).trans (runningSwap_modActivity s st act scope
          (f := fun a => { a with phase := 2 }) (fun _ => ⟨rfl, rfl⟩) ha),
        same_byte_iff.1 ((sameByte_modActivity ..).trans (unlogged_byte.applyDomains ..))⟩
    · rw [hcopy false, if_neg (by decide)]
      obtain ⟨hrun, hmem, hcore, hlane⟩ := swapAborted_spec (s := s) (st := st) (act := act) (scope := scope) a.spare
        (oldPhys s st act scope) (sparePhys s st act a.spare)
      refine ⟨(runningSwap_applyDomains ..).trans hrun, same_byte_iff.1 ((same_byte_iff.2 hmem).trans (unlogged_byte.applyDomains ..)),
        fun h hi => ?_, fun h => ?_⟩
      · rw [State.flag, reg_applyDomains_apart _ _ _ (by omega) (by omega) (by omega)]
        exact hcore h hi
      · rw [State.flag, reg_applyDomains_apart _ _ _ (by decide) (by decide) (by decide)]
        exact hlane h
  case done =>
    obtain ⟨hrun, hflag, hmem, hreg⟩ := swapCompleted_spec ha hp
    have hmap : ∀ x, 0x0A0 ≤ x → x ≤ 0x0B0 → (applyDomains (swapCompleted s st act scope) st).reg (arbPage st) x = _ :=
      fun x h h' => (reg_applyDomains_apart _ _ _ (by omega) (by omega) (by omega)).trans (hreg x h h')
    refine ⟨_, if_pos hs, (runningSwap_applyDomains ..).trans hrun, flag_applyDomains_of_flag _ _ _ hflag,
      same_byte_iff.1 ((same_byte_iff.2 hmem).trans (unlogged_byte.applyDomains ..)), ?_, ?_, ?_⟩
    · rintro rfl hi hsc
      rw [State.fld, State.flag, hmap _ (by omega) (by omega)]
      exact mapSpare_core _ _ _ _ (by omega)
    · rintro rfl hsc hi
      rw [State.fld, State.flag, hmap _ (by omega) (by omega)]
      refine mapSpare_lane _ _ _ _ _ (by decide) ?_
      have hc : a.spare = 0 ∨ a.spare = 1 := by omega
      rcases hc with h | h <;> rw [h] <;> exact hsc
    · rintro rfl hsc hi
      rw [State.fld, State.flag, hmap _ (by omega) (by omega)]
      have := mapSpare_lane (dropActivity s st 6 scope) st 6 scope a.spare (by decide) (by rw [hi]; exact hsc)
      rw [hi] at this ⊢
      exact this

end

section
/-! Mailboxes and doorbells (R381 to R393): what bells leave of a mailbox, and O48 and O49. -/

namespace Sys2Proof.Laws

open Machine Safety

/-! ### What bells leave of a mailbox -/

/-- What a mailbox holds beside its doorbell bits and the waking of its receiver. -/
def boxApart (i : Fin 8) (m : Nat) (s : State) : Mailbox := { s.box i m with db := 0, waking := false }

theorem box_of_boxApart {i j : Fin 8} {m k : Nat} {s t : State} (h : boxApart i m s = boxApart j k t) :
    (s.box i m).word = (t.box j k).word ∧ (s.box i m).full = (t.box j k).full ∧ (s.box i m).sender = (t.box j k).sender ∧
      (s.box i m).collision = (t.box j k).collision ∧ (s.box i m).timeout = (t.box j k).timeout ∧ (s.box i m).dbEn = (t.box j k).dbEn := by
  obtain ⟨hw, hf, hc, ht, -, hs, -, -, he⟩ := Mailbox.mk.inj h
  exact ⟨hw, hf, hs, hc, ht, he⟩

section
variable (s : State) (i j : Fin 8) (m k : Nat)

theorem sameApart_modBox {f : Mailbox → Mailbox}
    (h : ∀ b, ({ f b with db := 0, waking := false } : Mailbox) = { b with db := 0, waking := false }) :
    Same (boxApart j k) s (s.modBox i m f) := by
  dsimp only [Same, boxApart]
  rw [State.box_modBox]
  split
  · next e => obtain ⟨rfl, rfl⟩ := e; exact h _
  · rfl

theorem sameApart_wakeBox : Same (boxApart j k) s (wakeBox s i m) :=
  .ite (sameApart_modBox s i j m k (f := fun b => { b with waking := true }) fun _ => rfl) (.refl s)

theorem sameApart_ringBits (bs : Word) : Same (boxApart j k) s (ringBits s i m bs) := by
  have hb : Same (boxApart j k) s (s.modBox i m fun b => { b with db := b.db ||| bs }) := sameApart_modBox s i j m k fun _ => rfl
  have hm : ∀ u p n, Same (boxApart j k) u (setEvt u p n) := fun _ _ _ => rfl
  dsimp only [ringBits]
  exact .ite ((Same.ite (hb.trans (hm ..)) hb).trans (sameApart_wakeBox ..)) (.ite (hb.trans (hm ..)) hb)

theorem sameApart_notice (mb : Nat) (r : Requester) (bit : Nat) : Same (boxApart j k) s (notice s i mb r bit) := by
  unfold notice
  split
  · exact sameApart_ringBits ..
  · rfl

theorem box_settleReplies (mb : Nat) (status : Option Nat) : Same (·.box j k) s (settleReplies s i mb status) := by
  refine .foldl (fun u l => ?_) _ _
  dsimp only [Same, State.box]
  rw [State.st_modSt]
  split
  · next e => subst e; rfl
  · rfl

theorem db_wakeBox : ((wakeBox s i m).box j k).db = (s.box j k).db := by
  unfold wakeBox
  split
  · show ((s.modBox i m fun b => { b with waking := true }).box j k).db = _
    rw [State.box_modBox]
    split
    · next e => obtain ⟨rfl, rfl⟩ := e; rfl
    · rfl
  · rfl

end

/-! ### Notices (R385) -/

section
variable (s : State) (st : Fin 8) (mb : Nat) (r : Requester) (bit : Nat)

theorem sameByte_notice : Same State.byte s (notice s st mb r bit) := by
  unfold notice
  split
  · next e => exact unfaulted_byte.ringBits _ _ _ (homeBox_lt e)
  · rfl

theorem reg_notice_apart (q : Page) {x : Nat} (h : x % 4096 ≠ 0x044) (h' : x % 4096 ≠ 0x010) :
    (notice s st mb r bit).reg q x = s.reg q x := by
  unfold notice
  split
  · exact reg_ringBits_apart _ _ _ _ _ h h'
  · exact reg_setEvt_apart _ _ _ _ h'

theorem sameTold_settleReplies (status : Option Nat) :
    Same (fun s => (s.regs, s.out)) s (settleReplies s st mb status) := by
  refine .foldl (fun u i => ?_) _ _
  rfl

theorem regs_settleReplies (status : Option Nat) : (settleReplies s st mb status).regs = s.regs :=
  congrArg Prod.fst (sameTold_settleReplies s st mb status)

theorem reg_of_regs {s t : State} (h : t.regs = s.regs) (hp : t.part = s.part) (p : Page) (x : Nat) : t.reg p x = s.reg p x := by
  rw [State.reg, State.reg, h, hp]

theorem sameByte_settleReplies (status : Option Nat) : Same State.byte s (settleReplies s st mb status) :=
  .foldl (fun u i => funext fun a => State.byte_modSt u i (by intro; rfl) a) _ _

theorem out_ringBits (bs : Word) : Same State.out s (ringBits s st mb bs) := by
  have hw : ∀ u : State, Same State.out u (wakeBox u st mb) := fun u => .ite rfl rfl
  have hm : ∀ u p n, Same State.out u (setEvt u p n) := fun _ _ _ => rfl
  have hb : Same State.out s (s.modBox st mb fun b => { b with db := b.db ||| bs }) := rfl
  dsimp only [ringBits]
  exact .ite ((Same.ite (hb.trans (hm ..)) hb).trans (hw _)) (.ite (hb.trans (hm ..)) hb)

theorem out_notice : Same State.out s (notice s st mb r bit) := by
  unfold notice
  split
  · exact out_ringBits ..
  · rfl

/-- What tells the sender of a word that it is lost, and tells it elsewhere where it has no mailbox: bit `n` of its home mailbox,
or event `35 - n` of the page. -/
def Noticed (t : State) (st : Fin 8) (mb : Nat) (r : Requester) (n : Nat) : Prop :=
  match homeBox st r with
  | some (i, h) => (t.box i h).db.getLsbD n = true
  | none => t.flag (mbxPage st mb) 0x010 (35 - n) = true

theorem noticed_notice {n : Nat} (hn : n < 32) (h4 : 3 < n) : Noticed (notice s st mb r n) st mb r n := by
  unfold Noticed notice
  cases homeBox st r with
  | none => exact State.flag_setFlag_same _ _ _ _ (by omega)
  | some e =>
    show ((ringBits s e.1 e.2 (BitVec.ofNat 32 (2 ^ n))).box e.1 e.2).db.getLsbD n = true
    rw [db_ringBits, if_pos ⟨rfl, rfl⟩, BitVec.getLsbD_or, BitVec.getLsbD_ofNat, Nat.testBit_two_pow_self, decide_eq_true hn,
      Bool.true_and, Bool.or_true]

end

/-- Bells take back no notice. -/
theorem noticed_ringBits {s : State} {st : Fin 8} {mb : Nat} {r : Requester} {n : Nat} (h : Noticed s st mb r n) (i : Fin 8)
    (m : Nat) (bs : Word) : Noticed (ringBits s i m bs) st mb r n := by
  unfold Noticed at h ⊢
  split at h
  · exact db_ringBits_of_db _ _ _ _ h
  · exact flag_ringBits_of_flag _ _ _ _ _ h

theorem noticed_wakeBox {s : State} {st : Fin 8} {mb : Nat} {r : Requester} {n : Nat} (h : Noticed s st mb r n) (i : Fin 8)
    (m : Nat) : Noticed (wakeBox s i m) st mb r n := by
  unfold Noticed at h ⊢
  split at h
  · rwa [db_wakeBox]
  · rwa [State.flag, reg_wakeBox_apart _ _ _ _ (by decide)]

/-! ### Sends, reads and withdrawals -/

section
variable (s : State) (r : Requester) (st : Fin 8) (mb : Fin 64) (v : Word)

/-- A mailbox and its page once the word of a send is stored, before anyone is told. -/
def wordStored : State :=
  (s.modBox st mb fun b =>
    { b with word := v, full := true, collision := b.collision || b.full, sender := requesterIndex r, origin := r }).countWrap
    (mbxPage st mb) 0x050

/-- The word is stored, and the sender of the word that it replaces is told. -/
def wordTold : State :=
  if (s.box st mb).full then notice ((wordStored s r st mb v).countSat (mbxPage st mb) 0x054) st mb (s.box st mb).origin 29
  else if 20 ≤ mb.val then setEvt (wordStored s r st mb v) (mbxPage st mb) 3 else wordStored s r st mb v

theorem mboxSend_eq : mboxSend s r st mb v = wakeBox (ringBits (wordTold s r st mb v) st mb 1) st mb := rfl

theorem apart_wordStored : boxApart st mb (wordStored s r st mb v) =
    { s.box st mb with word := v, full := true, collision := (s.box st mb).collision || (s.box st mb).full,
                       sender := requesterIndex r, origin := r, db := 0, waking := false } := by
  have h := State.box_modBox_same s st mb.val fun b =>
    { b with word := v, full := true, collision := b.collision || b.full, sender := requesterIndex r, origin := r }
  exact congrArg (fun b : Mailbox => ({ b with db := 0, waking := false } : Mailbox)) h

theorem apart_mboxSend : boxApart st mb (mboxSend s r st mb v) = boxApart st mb (wordStored s r st mb v) := by
  have htold : Same (boxApart st mb) (wordStored s r st mb v) (wordTold s r st mb v) :=
    .ite (Same.trans (t := (wordStored s r st mb v).countSat (mbxPage st mb) 0x054) rfl (sameApart_notice ..))
      (.ite (show Same _ _ (setEvt _ (mbxPage st mb) 3) from rfl) (.refl _))
  rw [mboxSend_eq]
  exact htold.trans ((sameApart_ringBits ..).trans (sameApart_wakeBox ..))

theorem count_mboxSend : (mboxSend s r st mb v).reg (mbxPage st mb) 0x050 = s.reg (mbxPage st mb) 0x050 + 1 := by
  have hstored : (wordStored s r st mb v).reg (mbxPage st mb) 0x050 = s.reg (mbxPage st mb) 0x050 + 1 := State.reg_setReg_same ..
  rw [mboxSend_eq, reg_wakeBox_apart _ _ _ _ (by decide), reg_ringBits_apart _ _ _ _ _ (by decide) (by decide), wordTold]
  split
  · rw [reg_notice_apart _ _ _ _ _ _ (by decide) (by decide), State.countSat, State.reg_setReg_other _ _ _ (by decide), hstored]
  · split
    · rw [reg_setEvt_apart _ _ _ _ (by decide), hstored]
    · exact hstored

theorem sameByte_modBox (i : Fin 8) (m : Nat) (f : Mailbox → Mailbox) : Same State.byte s (s.modBox i m f) :=
  same_byte_iff.2 ((keptBut_modBox ..).kind .memory (by decide))

theorem sameByte_mboxSend : Same State.byte s (mboxSend s r st mb v) := by
  have hs : Same State.byte s (wordStored s r st mb v) := by
    funext a
    rw [wordStored, State.countWrap_byte]
    exact congrFun (sameByte_modBox s st mb _) a
  have hc : Same State.byte s ((wordStored s r st mb v).countSat (mbxPage st mb) 0x054) := hs
  have he : Same State.byte s (setEvt (wordStored s r st mb v) (mbxPage st mb) 3) := hs
  have htold : Same State.byte s (wordTold s r st mb v) := by
    unfold wordTold
    split
    · exact hc.trans (sameByte_notice ..)
    · exact .ite he hs
  rw [mboxSend_eq]
  exact htold.trans ((unfaulted_byte.ringBits _ _ _ mb.isLt).trans (unfaulted_byte.wakeBox ..))

theorem db_mboxSend : ((mboxSend s r st mb v).box st mb).db.getLsbD 0 = true := by
  rw [mboxSend_eq, db_wakeBox, db_ringBits, if_pos ⟨rfl, rfl⟩, BitVec.getLsbD_or]
  simp

theorem noticed_mboxSend (h : (s.box st mb).full = true) : Noticed (mboxSend s r st mb v) st mb (s.box st mb).origin 29 := by
  rw [mboxSend_eq, wordTold, if_pos h]
  exact noticed_wakeBox (noticed_ringBits (noticed_notice _ _ _ _ (by decide) (by decide)) ..) ..

/-- A read answers the word, and empties the mailbox for its receiver alone (R382). -/
theorem mboxRead_spec : (mboxRead s r st mb).1 = (s.box st mb).word ∧
    let t := (mboxRead s r st mb).2
    t.out = s.out ∧ MemoryKept s t ∧ (t.box st mb).word = (s.box st mb).word ∧
      (t.box st mb).full = ((s.box st mb).full && !isReceiver r mb) := by
  dsimp only [mboxRead]
  split
  · next h =>
    obtain ⟨hf, hr⟩ := h
    let u := s.modBox st mb fun b => { b with full := false }
    have hout : (settleReplies u st mb none).out = u.out := congrArg Prod.snd (sameTold_settleReplies u st mb none)
    have hbox : (settleReplies u st mb none).box st mb = { s.box st mb with full := false } :=
      Eq.trans (box_settleReplies u st st mb mb none) (State.box_modBox_same ..)
    obtain ⟨hw, hfull, -⟩ := box_of_boxApart (sameApart_notice (settleReplies u st mb none) st st mb mb (s.box st mb).origin 31)
    refine ⟨rfl, Eq.trans (out_notice ..) hout, ?_, hw.trans (congrArg (fun b : Mailbox => b.word) hbox :), ?_⟩
    · exact same_byte_iff.1 (((sameByte_modBox ..).trans (sameByte_settleReplies ..)).trans (sameByte_notice ..))
    · rw [hr, Bool.not_true, Bool.and_false]
      exact hfull.trans (congrArg Mailbox.full hbox)
  · next h =>
    refine ⟨rfl, rfl, fun _ => rfl, rfl, ?_⟩
    cases hf : (s.box st mb).full
    · rfl
    · cases hr : isReceiver r mb
      · rfl
      · exact absurd ⟨hf, hr⟩ h

/-- A word that is withdrawn (R384). -/
def wordWithdrawn : State :=
  notice (settleReplies ((s.modBox st mb fun b => { b with full := false, word := 0, timeout := true }).countSat (mbxPage st mb) 0x058)
    st mb (some 0x0B)) st mb (s.box st mb).origin 30

theorem wordWithdrawn_spec :
    let t := wordWithdrawn s st mb
    (t.box st mb).full = false ∧ (t.box st mb).word = 0 ∧ (t.box st mb).timeout = true ∧
      t.reg (mbxPage st mb) 0x058 = sat32 ((s.reg (mbxPage st mb) 0x058).toNat + 1) ∧ MemoryKept s t := by
  intro t
  let u := (s.modBox st mb fun b => { b with full := false, word := 0, timeout := true }).countSat (mbxPage st mb) 0x058
  have hbox : (settleReplies u st mb (some 0x0B)).box st mb = { s.box st mb with full := false, word := 0, timeout := true } :=
    Eq.trans (box_settleReplies u st st mb mb _) (State.box_modBox_same s st mb.val fun b => { b with full := false, word := 0, timeout := true })
  obtain ⟨hw, hf, -, -, ht, -⟩ := box_of_boxApart (sameApart_notice (settleReplies u st mb (some 0x0B)) st st mb mb (s.box st mb).origin 30)
  refine ⟨hf.trans (congrArg Mailbox.full hbox), hw.trans (congrArg Mailbox.word hbox), ht.trans (congrArg Mailbox.timeout hbox), ?_, ?_⟩
  · rw [show t = notice _ _ _ _ _ from rfl, reg_notice_apart _ _ _ _ _ _ (by decide) (by decide),
      reg_of_regs (regs_settleReplies ..) (kept_settleReplies ..).part]
    exact State.reg_setReg_same ..
  · have hu : Same State.byte s u := sameByte_modBox s st mb fun b => { b with full := false, word := 0, timeout := true }
    exact same_byte_iff.1 ((hu.trans (sameByte_settleReplies ..)).trans (sameByte_notice ..))

end

/-! ### Doorbells that are set (R386, R387) -/

section
variable (s : State) (st : Fin 8) (m : Nat) (v : Word)

theorem and_or_of_disabled {db en : Word} (h : v &&& en = 0) : (db ||| v) &&& en = db &&& en := by
  rw [BitVec.and_or_distrib_right, h]
  exact BitVec.or_zero

/-- Bits that are all disabled are recorded and reach no one. -/
theorem ringBits_of_disabled (h : v &&& (s.box st m).dbEn = 0) :
    ringBits s st m v = s.modBox st m fun b => { b with db := b.db ||| v } := by
  dsimp only [ringBits]
  rw [if_neg (by simp [h]), if_neg]
  rintro ⟨-, h0, hne⟩
  exact hne ((and_or_of_disabled v h).trans h0)

theorem waking_ringBits (h : v &&& (s.box st m).dbEn ≠ 0) (hm : m < 20) (hd : s.domOn st 7 = false) :
    ((ringBits s st m v).box st m).waking = true := by
  have hd' : (s.modBox st m fun b => { b with db := b.db ||| v }).domOn st 7 = false := hd
  dsimp only [ringBits]
  rw [if_pos h, if_neg (by omega), wakeBox, if_pos ⟨hm, hd'⟩]
  show ((State.modBox _ st m fun b => { b with waking := true }).box st m).waking = true
  rw [State.box_modBox_same]

theorem hostMail_ringBits (h : v &&& (s.box st m).dbEn ≠ 0) (hm : 20 ≤ m) (h0 : (s.box st m).db &&& (s.box st m).dbEn = 0) :
    (ringBits s st m v).flag (stackPage st .mbx (m / 16)) 0x010 3 = true := by
  have hne : ((s.box st m).db ||| v) &&& (s.box st m).dbEn ≠ 0 := by rwa [BitVec.and_or_distrib_right, h0, show (0 : Word) = 0#32 from rfl, BitVec.zero_or]
  dsimp only [ringBits]
  rw [if_pos h, if_pos ⟨hm, h0, hne⟩, wakeBox, if_neg (by omega)]
  exact State.flag_setFlag_same _ _ _ _ (by decide)

end

/-! ### MBX_PENDING (R393) -/

/-- A mask that is summed bit by bit has the bits that were added. -/
theorem testBit_maskSum (f : Nat → Bool) (n : Nat) :
    (List.range n).foldl (fun a k => if f k then a + 2 ^ k else a) 0 < 2 ^ n ∧
      ∀ k, ((List.range n).foldl (fun a k => if f k then a + 2 ^ k else a) 0).testBit k = (decide (k < n) && f k) := by
  induction n with
  | zero => exact ⟨Nat.one_pos, fun k => by simp⟩
  | succ n ih =>
    obtain ⟨hlt, hbit⟩ := ih
    rw [List.range_succ, List.foldl_append]
    generalize (List.range n).foldl (fun a k => if f k then a + 2 ^ k else a) 0 = a at hlt hbit ⊢
    dsimp only [List.foldl_cons, List.foldl_nil]
    refine ⟨by split <;> omega, fun k => ?_⟩
    have hk : (if f n then a + 2 ^ n else a) = 2 ^ n * bit (f n) + a := by cases f n <;> simp [bit, Nat.add_comm]
    rw [hk, Nat.testBit_two_pow_mul_add _ hlt]
    rcases lt_trichotomy k n with h | rfl | h
    · rw [if_pos h, hbit, decide_eq_true h, decide_eq_true (by omega)]
    · rw [if_neg (by omega), Nat.sub_self, decide_eq_true (by omega)]
      cases f k <;> rfl
    · obtain ⟨d, rfl⟩ : ∃ d, k = n + 1 + d := ⟨k - n - 1, by omega⟩
      rw [if_neg (by omega), decide_eq_false (by omega), Bool.false_and, show n + 1 + d - n = d + 1 by omega]
      cases f n <;> simp [bit, Nat.testBit_succ]

theorem regValue_pending (s : State) (st : Fin 8) {page : Nat} :
    regValue s (stackPage st .mbx page) 0x048 = boxMask s st page (fun b => b.db &&& b.dbEn != 0) % 2 ^ 32 := by
  have hhere : regHere (stackPage st .mbx page) 0x048 = some (one 0x048 [ro 15 0 0]) := by
    rw [regHere, if_neg (by omega)]
    rfl
  have hview : viewOf s (stackPage st .mbx page) 0x048 = some (boxMask s st page fun b => b.db &&& b.dbEn != 0) := by
    show viewMbx s (stackPage st .mbx page).home page 0x048 = _
    rw [stackPage_home]
    rfl
  rw [regValue, hhere, hview]

end Sys2Proof.Laws
end

section
open Sys2Proof Machine Safety Laws

/-- Settles O48: bells and notices reach only the doorbell bits and the waking of a mailbox, so its word is as the send, the read or
the timer left it. -/
theorem mailboxes : Obligations.Mailboxes := by
  refine fun s st mb hs => ⟨fun r v => ⟨_, if_pos hs, ?send⟩, fun r hd => ⟨_, if_pos hs, ?receive⟩, fun hf hr => ⟨_, if_pos hs, ?timeout⟩⟩
  case send =>
    have h := (apart_mboxSend s r st mb v).trans (apart_wordStored s r st mb v)
    obtain ⟨hw, hf, hc, -, -, hs, -, -, he⟩ := Mailbox.mk.inj h
    refine ⟨hw, hf, hs, hc, db_mboxSend .., he, count_mboxSend .., same_byte_iff.1 (sameByte_mboxSend ..), fun hf => ?_⟩
    have hn := noticed_mboxSend s r st mb v hf
    unfold Noticed at hn
    split <;> next e => rw [e] at hn; exact hn
  case receive =>
    obtain ⟨hv, hout, hmem, hword, hfull⟩ := mboxRead_spec s r st mb
    rw [if_pos hd]
    exact ⟨by rw [← hv, ← hout]; rfl, hmem, hword, hfull⟩
  case timeout =>
    rw [if_pos ⟨hf, hr⟩]
    exact wordWithdrawn_spec ..

/-- Settles O49: MBX_PENDING is summed of the mailboxes' enabled bits, and a ring records first and then asks which bits are
enabled. -/
theorem doorbellsPend : Obligations.DoorbellsPend := by
  refine ⟨fun s st page k hp hk => ?pending, fun s r st mb v hs hmay => ?set, fun s st q hs hr hw hne => ?waitdb⟩
  case pending =>
    obtain ⟨hlt, hbit⟩ := testBit_maskSum (fun k => (s.box st (page * 16 + k)).db &&& (s.box st (page * 16 + k)).dbEn != 0) 16
    rw [regValue_pending, bitAt, boxMask, Nat.mod_eq_of_lt (hlt.trans (by decide)), hbit, decide_eq_true hk, Bool.true_and,
      Nat.mul_comm 16]
    exact (Bool.eq_iff_iff.2 (by simp))
  case set =>
    refine ⟨_, (if_pos hs).trans (congrArg _ (if_pos hmay)), ?_⟩
    obtain ⟨-, -, -, -, -, hen⟩ := box_of_boxApart (sameApart_ringBits s st st mb mb v)
    refine ⟨(db_ringBits ..).trans (if_pos ⟨rfl, rfl⟩), hen, fun h => ?_, waking_ringBits _ _ _ _, hostMail_ringBits _ _ _ _⟩
    rw [ringBits_of_disabled _ _ _ _ h, State.box_modBox_same]
    exact ⟨rfl, rfl⟩
  case waitdb =>
    refine completes_resume (rfl : _ = execWaitdbDone st q s) hs hr hw ?_
    rw [if_neg hne]
    obtain ⟨hdb, hseq, -, -⟩ := taken_doorbells (s := s) (st := st) (q := q)
      ((s.box st q.val).db &&& ((s.seq st q).opB (s.seq st q).instr).setWidth 32)
      fun y => y.setGpr (ksqRd (s.seq st q).instr) (((s.box st q.val).db &&& ((s.seq st q).opB (s.seq st q).instr).setWidth 32).setWidth 64)
    exact ⟨congrArg Seq.wait hseq, congrArg Seq.pc hseq, hdb⟩

end

section
/-! The Locket (R439 to R448): what a record, a request and a window leave, and O51. -/

namespace Sys2Proof.Laws

open Machine Safety

/-- A command that is a write of a register does what it says for a requester that may make the write. -/
theorem completes_asked {c : Instr} {s t : State} {r : Requester} {p : Page} {off : Nat} {P : State → Prop}
    (hc : exec c s = .next (asked s r p off t)) (hmay : mayWrite s r p off = true) (hP : P t) : Completes c s P :=
  ⟨t, hc.trans (congrArg _ (if_pos hmay)), hP⟩

/-! ### Readings of the module's part -/

/-- What the module's part holds, but for the Locket's requests, no bell and no fault reaches. -/
theorem unlogged_mod {α : Type} (g : Module → α) (h : ∀ m rs, g { m with lkt := { m.lkt with reqs := rs } } = g m) :
    Unlogged fun s => g s.mod where
  box _ _ _ _ _ := rfl
  mail _ _ _ _ := rfl
  wake _ _ := rfl
  reg _ _ _ _ _ := rfl
  clasp _ _ _ := rfl
  draw _ _ := rfl
  reqs _ _ := h _ _

/-- The Locket but for the requests that wait. -/
def recorder (s : State) : Locket := { s.mod.lkt with reqs := [] }

theorem unlogged_recorder : Unlogged recorder := unlogged_mod (fun m => { m.lkt with reqs := [] }) fun _ _ => rfl

theorem unrung_mod : Unrung State.mod := ⟨fun _ _ _ _ _ => rfl, fun _ _ _ _ => rfl, fun _ _ => rfl⟩

theorem mod_raiseEvt (s : State) (p : Page) (n : Nat) : (raiseEvt s p n).mod = s.mod := unrung_mod.raiseEvt rfl

theorem lktPage_inst : lktPage.inst < instances lktPage.blk := Nat.one_pos

/-- The record of a block that is no engine shows its fault. -/
theorem fld_recordFault_of_plain (s : State) (p : Page) (cls det info addr : Nat) (he : isEngine p.blk = false) (hc : cls < 256)
    (hd : det < 256) : (recordFault s p cls det info addr).fld p 0x020 15 0 = det + cls * 2 ^ 8 := by
  rw [State.fld, recordFault, if_neg (by simp [he]), reg_recordPlain_eq _ _ _ _ _ _ _ _ (by decide) (by decide) (by decide)]
  exact fld_pageFault _ _ _ _ _ _ hc hd

theorem slice_self {l : List Byte} {k : Nat} (h : l.length = k) : slice l 0 k = l := by
  simp [slice, ← h]

/-- A window of the Locket is none of its requests. -/
theorem window_of_recorder {s t : State} (h : recorder t = recorder s) (w : Bool) :
    t.mod.lkt.window w = s.mod.lkt.window w := by
  show (recorder t).window w = (recorder s).window w
  rw [h]

/-- The slots of the ring, the newest record's number and the next one's. -/
def records (s : State) : Sparse Slot64 × DWord × DWord := (s.mod.lkt.ring, s.mod.lkt.last, s.mod.lkt.next)

theorem unlogged_records : Unlogged records := unlogged_mod (fun m => (m.lkt.ring, m.lkt.last, m.lkt.next)) fun _ _ => rfl

theorem slot_of_ring {l m : Locket} (h : l.ring = m.ring) (n : Nat) : l.slot n = m.slot n := by rw [Locket.slot, h]; rfl

/-! ### A record that is stored -/

section
variable (s : State) (r : RecReq)

/-- The Locket after a record is stored. -/
def recordStored : Locket :=
  { s.mod.lkt with
    ring := Sparse.set (fun _ => 0) s.mod.lkt.ring (s.mod.lkt.next.toNat % ringSlots) (makeRecord s.mod.lkt.next r (bootCount s)),
    last := s.mod.lkt.next, next := s.mod.lkt.next + 1, reqs := s.mod.lkt.reqs.erase r,
    stepWaits := s.mod.lkt.stepWaits && r.code != 0x8001, stopped := s.mod.lkt.stopped || r.code == 0x8003 }

theorem lkt_storeRecord : (storeRecord s r).mod.lkt = recordStored s r := by
  have hm : ∀ u : State, Same State.mod u (if r.code = 0x8003 then raiseEvt u lktPage 6 else u) := fun u =>
    .ite (mod_raiseEvt ..) (.refl u)
  have hs : (storeRecord s r).mod = { s.mod with lkt := recordStored s r } :=
    Eq.trans (hm _) (mod_raiseEvt ((s.modLkt fun _ => recordStored s r).countWrap lktPage 0x060) lktPage 3)
  rw [hs]

theorem flag_storeRecord : (storeRecord s r).flag lktPage 0x010 3 = true := by
  have h := flag_raiseEvt ((s.modLkt fun _ => recordStored s r).countWrap lktPage 0x060) lktPage 3 (by decide)
  show (if r.code = 0x8003 then raiseEvt _ lktPage 6 else _).flag lktPage 0x010 3 = true
  split
  · exact flag_raiseEvt_of_flag _ _ _ (by decide) h
  · exact h

theorem sameByte_storeRecord : Same State.byte s (storeRecord s r) := by
  have hr := sameByte_raiseEvt ((s.modLkt fun _ => recordStored s r).countWrap lktPage 0x060) lktPage_inst 3
  exact Same.trans (v := State.byte) hr (.ite (sameByte_raiseEvt _ lktPage_inst 6) (.refl _))

theorem slot_recordStored_next :
    (recordStored s r).slot s.mod.lkt.next.toNat = makeRecord s.mod.lkt.next r (bootCount s) := Sparse.get_set_same ..

theorem slot_recordStored_other {n : Nat} (h : n % ringSlots ≠ s.mod.lkt.next.toNat % ringSlots) :
    (recordStored s r).slot n = s.mod.lkt.slot n := Sparse.get_set_other _ _ _ h

end

/-! ### A page whose verification fails (R441) -/

/-- A page that is remapped, with its spare. -/
def pageMoved (l : Locket) (page : Nat) : Locket :=
  { l with remap := Sparse.set (fun _ => 0) l.remap page (l.spareUsed + 1), spareUsed := l.spareUsed + 1 }

section
variable (s : State) (page : Nat)

theorem remapPage_of_spare (h : s.mod.lkt.spareUsed < 16) :
    let t := remapPage s page
    recorder t = { pageMoved s.mod.lkt page with reqs := [] } ∧ t.flag lktPage 0x010 5 = true := by
  have ht : remapPage s page = locketNotice (raiseEvt (s.modLkt fun l => pageMoved l page) lktPage 5) page s.mod.lkt.spareUsed 0 := if_pos h
  rw [ht]
  exact ⟨Eq.trans (unlogged_recorder.locketRequest ..) (unlogged_recorder.raiseEvt ..),
    flag_locketRequest_of_flag (flag_raiseEvt _ _ _ (by decide)) ..⟩

/-- Without a spare the page is listed, and the first time NO_SPARE is recorded. -/
theorem remapPage_of_full (h : ¬ s.mod.lkt.spareUsed < 16) :
    let t := remapPage s page
    page ∈ t.mod.lkt.noSpare ∧ (page ∉ s.mod.lkt.noSpare → t.fld lktPage 0x020 15 0 = 0x0221) := by
  by_cases hp : page ∈ s.mod.lkt.noSpare
  · have ht : remapPage s page = s := (if_neg h).trans (if_pos (by simpa using hp))
    rw [ht]
    exact ⟨hp, fun hn => absurd hp hn⟩
  · let u := s.modLkt fun l => { l with noSpare := page :: l.noSpare }
    have ht : remapPage s page = recordFault u lktPage 0x02 0x21 page 0 := (if_neg h).trans (if_neg (by simpa using hp))
    have hn : (recordFault u lktPage 0x02 0x21 page 0).mod.lkt.noSpare = page :: s.mod.lkt.noSpare :=
      congrArg Locket.noSpare (unlogged_recorder.recordFault u ..)
    intro t
    rw [show t = _ from ht, hn]
    exact ⟨List.mem_cons_self .., fun _ => fld_recordFault_of_plain _ _ _ _ _ _ rfl (by decide) (by decide)⟩

/-- A page that moves, or cannot, leaves the records and memory. -/
theorem sameStored_remapPage {α : Type} {v : State → α} (hv : Unlogged v)
    (hl : ∀ (s : State) (m : Sparse Nat) (u : Nat) (n : List Nat),
      Same v s (s.modLkt fun l => { l with remap := m, spareUsed := u, noSpare := n })) :
    Same v s (remapPage s page) := by
  unfold remapPage
  dsimp only
  split
  · exact (hl s (pageMoved s.mod.lkt page).remap (s.mod.lkt.spareUsed + 1) s.mod.lkt.noSpare).trans (hv.raiseEvt ..) |>.trans
      (hv.locketRequest ..)
  · split
    · exact .refl s
    · exact (hl s s.mod.lkt.remap s.mod.lkt.spareUsed (page :: s.mod.lkt.noSpare)).trans (hv.recordFault ..)

end

/-! ### The scan (R442) -/

section
variable (s : State)

/-- The START record's request. -/
def startRequest : RecReq :=
  { src := lktPage.source, order := 0, code := 0x8002, payload := startPayload s, time := s.now.1,
    timeValid := s.flag (modulePage .pwrm) 0x078 2, pos := (s.st 0).tns.pos,
    posValid := (s.st 0).tns.lock == .locked || (s.st 0).tns.lock == .freewheel }

/-- The state that the scan leaves for the START record. -/
def scanned : State :=
  s.now.2.modLkt fun l =>
    { l with scanned := true, next := locketNext s,
             last := match highestSeq s.mod.lkt.ring with | some n => BitVec.ofNat 64 n | none => 0xFFFFFFFFFFFFFFFF }

theorem scanDone_of_unscanned (h : s.mod.lkt.scanned = false) (hd : s.domOn 0 7 = true) :
    scanDone s = storeRecord (scanned s) (startRequest s) := by
  have hn : ¬(s.mod.lkt.scanned = true ∨ s.domOn 0 7 = false) := by simp [h, hd]
  have hl : locketNext s = match highestSeq s.mod.lkt.ring with
      | some n => BitVec.ofNat 64 (max (n + 2) s.mod.lkt.base.toNat)
      | none => s.mod.lkt.base := by
    rw [locketNext, h]
    rfl
  rw [scanned, hl]
  exact if_neg hn

/-- The code of a record stands in its bytes 28 and 29 (R436). -/
theorem code_makeRecord (seq : DWord) (r : RecReq) (boot : Nat) :
    leNat (slice (slotBytes (makeRecord seq r boot)) 28 2) = r.code.toNat := by
  have hs : slice (slotBytes (makeRecord seq r boot)) 28 2 = leBytes r.code.toNat 2 := by
    rw [slotBytes_makeRecord]
    simp [recordBody, leBytes, slice]
  rw [hs, leNat_leBytes]
  exact Nat.mod_eq_of_lt r.code.isLt

end

/-! ### Windows -/

section
variable (s : State) (w : Bool)

theorem window_modWindow (f : LkWindow → LkWindow) : (modWindow s w f).mod.lkt.window w = f (s.mod.lkt.window w) ∧
    (modWindow s w f).mod.lkt.window (!w) = s.mod.lkt.window (!w) ∧ (modWindow s w f).mod.lkt.ring = s.mod.lkt.ring := by
  cases w <;> exact ⟨rfl, rfl, rfl⟩

/-- A window whose load has ended. -/
def windowHeld (l : Locket) (ok : Bool) (x : LkWindow) : LkWindow :=
  { x with loading := false, result := loadResult l x.cur, ecc := !ok, win := l.slot x.cur.toNat }

/-- A window whose load ends holds the slot, and records a word that cannot be read (R444, R448). -/
theorem windowLoaded_spec (h : (s.mod.lkt.window w).loading = true) (ok : Bool) :
    (windowLoaded s w ok).mod.lkt.window w = windowHeld s.mod.lkt ok (s.mod.lkt.window w) ∧
      (ok = false → (windowLoaded s w ok).fld lktPage 0x020 15 0 = 0x0210) := by
  have ht : windowLoaded s w ok = if ok then modWindow s w (windowHeld s.mod.lkt ok) else
      recordFault (modWindow s w (windowHeld s.mod.lkt ok)) lktPage 0x02 0x10 ((s.mod.lkt.window w).cur.toNat % ringSlots) 0 := if_pos h
  have hw := (window_modWindow s w (windowHeld s.mod.lkt ok)).1
  rw [ht]
  cases ok with
  | true => exact ⟨hw, fun h => absurd h (by decide)⟩
  | false =>
    rw [if_neg (by decide)]
    exact ⟨Eq.trans (window_of_recorder (unlogged_recorder.recordFault ..) w) hw,
      fun _ => fld_recordFault_of_plain _ _ _ _ _ _ rfl (by decide) (by decide)⟩

end

/-- A read of the last word of a window that is loaded answers it. -/
theorem execLocketWin15Read_of_loaded {s : State} {w : Bool} (h : (s.mod.lkt.window w).loading = false) (r : Requester) :
    exec (.locketWin15Read r w) s =
      .next ((win15Read s w).send (.value r ((s.mod.lkt.window w).win.extractLsb' 480 32))) := by
  have hn : windowLoaded s w true = s := if_neg (by rw [h]; decide)
  have hr : winRead s w 15 = ((s.mod.lkt.window w).win.extractLsb' 480 32, win15Read s w) := by
    unfold winRead
    rw [hn]
    rfl
  show Host.Outcome.next ((winRead s w 15).2.send (.value r (winRead s w 15).1)) = _
  rw [hr]

/-! ### The firmware's requests (R447) -/

theorem fwGo_of_code {s : State} (h : 0x8004 ≤ s.fld lktPage 0x180 15 0 ∧ s.fld lktPage 0x180 15 0 ≤ 0x80FF) (hb : fwBusy s = false) :
    ∃ q : RecReq, (fwGo s).mod.lkt.reqs = s.mod.lkt.reqs ++ [q] ∧ q.code.toNat = s.fld lktPage 0x180 15 0 ∧ q.order = 3 ∧
      q.payload = (List.range 6).flatMap fun i => leBytes (s.reg lktPage (0x184 + 4 * i)).toNat 4 := by
  have hfree : ¬ s.mod.lkt.reqs.any (fun r => r.src == fwSource && r.order == 3) = true := by
    simp only [fwBusy, List.any_eq_false, beq_iff_eq] at hb
    simp only [List.any_eq_true, Bool.and_eq_true, beq_iff_eq, not_exists, not_and]
    exact fun r hr _ => hb r hr
  have ht : fwGo s = addRequest s fwSource 3 0 (s.fld lktPage 0x180 15 0)
      ((List.range 6).flatMap fun i => leBytes (s.reg lktPage (0x184 + 4 * i)).toNat 4) :=
    (if_pos h).trans (if_neg hfree)
  rw [ht]
  refine ⟨_, rfl, ?_, rfl, ?_⟩
  · exact (BitVec.toNat_ofNat ..).trans (Nat.mod_eq_of_lt (bitsOf_lt ..))
  · exact slice_self (by simp)

end Sys2Proof.Laws
end

section
open Sys2Proof Machine Safety Laws

/-- Settles O51: a record is one store into the ring, and what follows it, a notice or a fault, reaches the Locket's requests
alone. -/
theorem locketCommands : Obligations.LocketCommands := by
  refine ⟨fun s aged q hq hready => ?write, fun s hsc hd => ?scan, fun s win => ?windows, fun s r hmay => ?firmware⟩
  case write =>
    intro l page written
    have hl := lkt_storeRecord s q
    have hstored : ∀ t, records t = records (storeRecord s q) → Same State.byte (storeRecord s q) t → written t := by
      intro t h hb
      rw [records, records, hl, Prod.mk.injEq, Prod.mk.injEq] at h
      obtain ⟨hring, hlast, hnext⟩ := h
      exact ⟨(slot_of_ring hring _).trans (slot_recordStored_next s q), hlast, hnext,
        fun n hn => (slot_of_ring hring n).trans (slot_recordStored_other s q hn), same_byte_iff.1 ((sameByte_storeRecord ..).trans hb)⟩
    have hgrant : ∀ ok, exec (.locketWrite aged ok) s = .next (if ok then storeRecord s q else remapPage (storeRecord s q) page) := by
      intro ok
      show Host.Outcome.next (match grantNext aged s.mod.lkt.reqs with | none => s | some r => _) = _
      rw [hq]
      exact congrArg _ (if_pos hready)
    have hsp : (storeRecord s q).mod.lkt.spareUsed = l.spareUsed := by rw [hl]; rfl
    refine ⟨⟨storeRecord s q, hgrant true, hstored _ rfl (.refl _), congrArg Locket.reqs hl, flag_storeRecord ..⟩,
      ⟨remapPage (storeRecord s q) page, hgrant false, hstored _ ?_ ?_, ?_⟩⟩
    · exact sameStored_remapPage _ _ unlogged_records fun _ _ _ _ => rfl
    · exact sameStored_remapPage _ _ unlogged_byte fun _ _ _ _ => rfl
    · split
      · next hs =>
        obtain ⟨hr, hf⟩ := remapPage_of_spare (storeRecord s q) page (by rwa [hsp])
        rw [hl] at hr
        refine ⟨congrArg Locket.spareUsed hr, ?_, hf⟩
        rw [show (remapPage (storeRecord s q) page).mod.lkt.remap = Sparse.set (fun _ => 0) l.remap page (l.spareUsed + 1) from
          congrArg Locket.remap hr, Sparse.get_set_same]
      · next hs =>
        have hfull := remapPage_of_full (storeRecord s q) page (by rwa [hsp])
        rw [hl] at hfull
        exact hfull
  case scan =>
    have hl := lkt_storeRecord (scanned s) (startRequest s)
    refine ⟨_, rfl, ?_⟩
    rw [scanDone_of_unscanned s hsc hd]
    dsimp only
    rw [hl]
    refine ⟨rfl, rfl, rfl, ?_, same_byte_iff.1 (sameByte_storeRecord (scanned s) _)⟩
    have hslot := slot_recordStored_next (scanned s) (startRequest s)
    exact (congrArg (fun v => leNat (slice (slotBytes v) 28 2)) hslot).trans (code_makeRecord ..)
  case windows =>
    refine ⟨fun r lo hmay => completes_asked rfl hmay ?_, fun hl ok => ⟨_, rfl, ?_⟩, fun hl r => ⟨_, execLocketWin15Read_of_loaded hl r, ?_⟩,
      fun r hmay => completes_asked rfl hmay ?_⟩
    · obtain ⟨hw, ho, hr⟩ := window_modWindow { s with staged := Sparse.del s.staged (lktPage.key (if win then 0x10C else 0x08C)) } win
        fun x => { x with
          cur := (Sparse.find s.staged (lktPage.key (if win then 0x10C else 0x08C))).getD ((s.mod.lkt.window win).cur.extractLsb' 32 32) ++ lo,
          loading := true }
      exact ⟨congrArg LkWindow.cur hw, congrArg LkWindow.loading hw, ho, hr⟩
    · obtain ⟨hw, hf⟩ := windowLoaded_spec s win hl ok
      exact ⟨congrArg LkWindow.loading hw, congrArg LkWindow.win hw, congrArg LkWindow.result hw, congrArg LkWindow.ecc hw, hf⟩
    · unfold win15Read
      dsimp only
      split
      · obtain ⟨hw, -, -⟩ := window_modWindow s win fun x => { x with cur := (s.mod.lkt.window win).cur + 1, loading := true }
        exact ⟨rfl, congrArg LkWindow.cur hw, congrArg LkWindow.loading hw⟩
      · exact ⟨rfl, rfl⟩
    · obtain ⟨hw, -, -⟩ := window_modWindow s win fun x => { x with snapLast := s.mod.lkt.last, snapOldest := s.mod.lkt.oldest }
      exact ⟨congrArg LkWindow.snapLast hw, congrArg LkWindow.snapOldest hw, rfl⟩
  case firmware =>
    intro code
    refine ⟨fun h h' hb => completes_asked rfl hmay (fwGo_of_code ⟨h, h'⟩ hb), fun h => completes_asked rfl hmay ?_⟩
    rw [show fwGo s = _ from if_neg h]
    rfl

end

section
/-! The restore of a checkpoint and the CAL block (R433, R469), and O54. -/

namespace Sys2Proof.Laws

open Machine Safety

/-! ### A word sent to a mailbox, for what no bell reaches -/

section
variable {α : Type} {v : State → α} (hv : Unrung v) (hr : ∀ p, PageUnseen v p)
include hv hr

theorem Unrung.notice (s : State) (st : Fin 8) (mb : Nat) (r : Requester) (bit : Nat) : Same v s (notice s st mb r bit) := by
  unfold Machine.notice
  split
  · next e => exact hv.ringBits _ _ _ (homeBox_lt e)
  · exact hr _ _ _ _ (by decide)

/-- A reading of other things than mailboxes and registers sees no send. -/
theorem Unrung.mboxSend (hb : ∀ s i m f, Same v s (s.modBox i m f)) (s : State) (r : Requester) (st : Fin 8) (mb : Fin 64) (x : Word) :
    Same v s (mboxSend s r st mb x) := by
  have hs : Same v s (wordStored s r st mb x) := (hb s st mb _).trans (hr _ _ _ _ (by decide))
  have htold : Same v s (wordTold s r st mb x) := by
    unfold wordTold
    split
    · exact hs.trans (hr _ _ 0x054 _ (by decide)) |>.trans (hv.notice hr ..)
    · exact .ite (hs.trans (hr _ _ 0x010 _ (by decide))) hs
  rw [mboxSend_eq]
  exact htold.trans ((hv.ringBits _ _ _ mb.isLt).trans (hv.wakeBox ..))

end

theorem clp_mboxSend (s : State) (r : Requester) (st : Fin 8) (mb : Fin 64) (x : Word) (i : Fin 8) :
    ((mboxSend s r st mb x).st i).clp = (s.st i).clp :=
  (unrecorded_clp i).toUnrung.mboxSend (fun _ _ _ _ _ => rfl) (fun _ _ _ _ => State.modBox_st_clp ..) s r st mb x

/-! ### A restored stack (R433) -/

section
variable (step committed : DWord) (s : State) (st i : Fin 8)

theorem clp_restoreStack_same : ((restoreStack step committed s i).st i).clp =
    { (s.st i).clp.idled with step := step, committed := committed } := by
  simp [restoreStack, startKs]

theorem clp_restoreStack_other (h : i ≠ st) : ((restoreStack step committed s i).st st).clp = (s.st st).clp := by
  simp [restoreStack, startKs, State.modClp_st_other _ _ _ _ h]

theorem sameByte_restoreStack : Same State.byte s (restoreStack step committed s i) :=
  (same_byte_iff.2 ((keptBut_modClp s i _).kind .memory (by decide))).trans
    (same_byte_iff.2 ((keptBut_modKeys _ i _).kind .memory (by decide)))

end

/-- Every stack of a list is restored. -/
theorem clp_restoreStacks {step committed : DWord} {l : List (Fin 8)} {s : State} {i : Fin 8}
    (h : i ∈ l ∨ (s.st i).clp.step = step ∧ (s.st i).clp.committed = committed ∧ (s.st i).clp.state = .idle) :
    let t := l.foldl (restoreStack step committed) s
    (t.st i).clp.step = step ∧ (t.st i).clp.committed = committed ∧ (t.st i).clp.state = .idle := by
  induction l generalizing s with
  | nil => simpa using h
  | cons a l ih =>
    refine ih ?_
    by_cases ha : a = i
    · subst ha
      rw [clp_restoreStack_same]
      exact .inr ⟨rfl, rfl, rfl⟩
    · rw [clp_restoreStack_other _ _ _ _ _ ha]
      exact h.imp_left fun hi => (List.mem_cons.1 hi).resolve_left (Ne.symm ha)

/-- Every stack restored from the bytes of a block, and the record of it requested. -/
def restored (s : State) (bs : List Byte) : State :=
  locketRequest (s.stacksIn.foldl
    (restoreStack (BitVec.ofNat 64 (leNat (slice bs 8 8))) (BitVec.ofNat 64 (leNat (slice bs 16 8)))) s) fwSource 3 0 0x800D (slice bs 8 24)

theorem toNat_ofNat_slice8 (bs : List Byte) (a : Nat) : (BitVec.ofNat 64 (leNat (slice bs a 8))).toNat = leNat (slice bs a 8) := by
  have hl : (slice bs a 8).length ≤ 8 := by simp [slice]
  exact Nat.mod_eq_of_lt ((leNat_lt _).trans_le (Nat.pow_le_pow_right (by decide) hl))

theorem restored_spec (s : State) (bs : List Byte) :
    (∀ st : Fin 8, s.has st = true → ((restored s bs).st st).clp.step.toNat = leNat (slice bs 8 8) ∧
      ((restored s bs).st st).clp.committed.toNat = leNat (slice bs 16 8) ∧ ((restored s bs).st st).clp.state = .idle) ∧
        Same State.byte s (restored s bs) := by
  refine ⟨fun st hst => ?_, Same.trans (.foldl (fun v i => sameByte_restoreStack _ _ v i) _ _) (unlogged_byte.locketRequest ..)⟩
  obtain ⟨hs, hc, hi⟩ := clp_restoreStacks (step := BitVec.ofNat 64 (leNat (slice bs 8 8)))
    (committed := BitVec.ofNat 64 (leNat (slice bs 16 8))) (s := s) (.inl (mem_stacksIn.2 hst))
  rw [restored, clp_locketRequest, hs, hc, hi]
  exact ⟨toNat_ofNat_slice8 bs 8, toNat_ofNat_slice8 bs 16, rfl⟩

theorem restoreReason_le (s : State) (a : Nat) : restoreReason s a ≤ 3 := by
  dsimp only [restoreReason]
  repeat' split
  all_goals decide

theorem restore_of_word {s : State} {x : Word} (hx : x.toNat / 2 ^ 24 = 0x52) (hf : (s.st 0).pwr.firmware = true) :
    restore s x = match restoreReason s (sramBase 0 + x.toNat % 2 ^ 24 * 256) with
      | 0 => restoreReply (restored s (s.bytes (sramBase 0 + x.toNat % 2 ^ 24 * 256) 64)) 0x52000000
      | k => restoreReply s (0x52FF0000 + k) := by
  rw [restore, if_neg (not_or_intro (fun h => h hx) (by simp [hf]))]
  rfl

/-- The answer stands in mailbox 20 of stack 0, and no byte of memory changes. -/
theorem restoreReply_spec (s : State) (n : Nat) :
    ((restoreReply s n).box 0 20).word = BitVec.ofNat 32 n ∧ ((restoreReply s n).box 0 20).full = true ∧
      MemoryKept s (restoreReply s n) := by
  have hbox := (apart_mboxSend s .mgmt 0 20 (BitVec.ofNat 32 n)).trans (apart_wordStored ..)
  obtain ⟨hw, hf, -⟩ := Mailbox.mk.inj hbox
  exact ⟨hw, hf, fun a => congrFun (sameByte_mboxSend s .mgmt 0 20 _) a⟩

theorem clp_restoreReply (s : State) (n : Nat) (i : Fin 8) : ((restoreReply s n).st i).clp = (s.st i).clp :=
  clp_mboxSend s .mgmt 0 20 (BitVec.ofNat 32 n) i

theorem exec_restoreBlock (x : Word) (s : State) : exec (.restoreBlock x) s = .next (restore s x) := rfl

/-! ### The CAL block -/

theorem imgRange_lt {p : Part} {m : Sparse Byte} {n : Nat} (h : imgRange p m = some n) : n < 256 := by
  have hsect : ∀ modes volts : Bool, (if modes = false then some 2 else if volts = false then some 5 else none) = some n → n < 256 := by
    intro modes volts h
    split_ifs at h <;> cases h <;> decide
  exact hsect _ _ h

/-- The STATUS of a check and its section each fit their byte of CAL_RESULT. -/
theorem imgCheck_lt (s : State) (m : Sparse Byte) : (imgCheck s m).1 < 256 ∧ (imgCheck s m).2 < 256 := by
  unfold imgCheck
  repeat' split
  case h_1 n h => exact ⟨show 5 < 256 by decide, imgRange_lt h⟩
  all_goals exact ⟨by decide, by decide⟩

theorem reg_calResult {s : State} {r : Nat × Nat} (h : r.1 < 256) (h' : r.2 < 256) :
    ((calResult s r).reg calPage 0x054).toNat = r.1 + 2 ^ 8 * r.2 := by
  rw [calResult, State.reg_setReg_same, BitVec.toNat_ofNat, Nat.mod_eq_of_lt (by omega)]

theorem reg_calResult_status (s : State) (n : Nat) : (calResult s (n, 0)).reg calPage 0x054 = BitVec.ofNat 32 n := State.reg_setReg_same ..

theorem sameMod_loadVolts (s : State) (i : Fin 8) : Same State.mod s (loadVolts s i) := rfl

theorem sameByte_loadVolts (s : State) (i : Fin 8) : Same State.byte s (loadVolts s i) :=
  funext fun a => State.byte_modSt s i (by intro; rfl) a

/-- The state once a commit has read its image back: the image is the active one, and the voltages follow it. -/
def calCommitted (s : State) : State :=
  let s2 := measExtend (s.modCal fun c => { c with active := s.mod.cal.other, other := [], commit := false, valid := true }) 2
    (imgBytes s.mod.cal.other 0 (imgLength s.mod.cal.other))
  s2.stacksIn.foldl loadVolts s2

theorem exec_calCommitDone_true {s : State} (h : s.mod.cal.commit = true) :
    exec (.calCommitDone true) s = .next (raiseEvt (calResult (calCommitted s) (0, 0)) calPage 3) := by
  show execCalCommitDone true s = _
  rw [execCalCommitDone, if_neg (by simp [h]), if_neg (by simp)]
  rfl

theorem exec_calCommitDone_false {s : State} (h : s.mod.cal.commit = true) :
    exec (.calCommitDone false) s = .next (calResult (s.modCal fun c => { c with commit := false }) (6, 0)) := by
  show execCalCommitDone false s = _
  rw [execCalCommitDone, if_neg (by simp [h]), if_pos rfl]

/-- A block that passes sets every stack's step numbers, and the firmware answers so (R433). -/
theorem restored_of_passed {s : State} {x : Word} (hx : x.toNat / 2 ^ 24 = 0x52) (hf : (s.st 0).pwr.firmware = true)
    (h : restoreReason s (sramBase 0 + x.toNat % 2 ^ 24 * 256) = 0) :
    let bs := s.bytes (sramBase 0 + x.toNat % 2 ^ 24 * 256) 64
    Completes (.restoreBlock x) s fun t =>
      (∀ st : Fin 8, s.has st = true → (t.st st).clp.step.toNat = leNat (slice bs 8 8) ∧
        (t.st st).clp.committed.toNat = leNat (slice bs 16 8) ∧ (t.st st).clp.state = .idle) ∧
        (t.box 0 20).word = 0x52000000 ∧ (t.box 0 20).full = true ∧ MemoryKept s t := by
  intro bs
  obtain ⟨hclp, hkept⟩ := restored_spec s bs
  obtain ⟨hword, hfull, hmem⟩ := restoreReply_spec (restored s bs) 0x52000000
  have ht : exec (.restoreBlock x) s = .next (restoreReply (restored s bs) 0x52000000) := by
    rw [exec_restoreBlock, restore_of_word hx hf, h]
    rfl
  refine ⟨_, ht, fun st hst => ?_, hword, hfull, fun a => (hmem a).trans (congrFun hkept a)⟩
  rw [clp_restoreReply]
  exact hclp st hst

/-- Any other block is answered with its reason, and no Clasp changes (R433). -/
theorem restore_refused {s : State} {x : Word} (hx : x.toNat / 2 ^ 24 = 0x52) (hf : (s.st 0).pwr.firmware = true)
    (h : restoreReason s (sramBase 0 + x.toNat % 2 ^ 24 * 256) ≠ 0) :
    Completes (.restoreBlock x) s fun t => (∀ st : Fin 8, (t.st st).clp = (s.st st).clp) ∧
      (t.box 0 20).word.toNat = 0x52FF0000 + restoreReason s (sramBase 0 + x.toNat % 2 ^ 24 * 256) ∧
        (t.box 0 20).full = true ∧ MemoryKept s t := by
  have ht : exec (.restoreBlock x) s =
      .next (restoreReply s (0x52FF0000 + restoreReason s (sramBase 0 + x.toNat % 2 ^ 24 * 256))) := by
    rw [exec_restoreBlock, restore_of_word hx hf]
    split
    · next h0 => exact absurd h0 h
    · rfl
  have hle := restoreReason_le s (sramBase 0 + x.toNat % 2 ^ 24 * 256)
  obtain ⟨hword, hfull, hmem⟩ := restoreReply_spec s (0x52FF0000 + restoreReason s (sramBase 0 + x.toNat % 2 ^ 24 * 256))
  refine ⟨_, ht, fun st => clp_restoreReply .., ?_, hfull, hmem⟩
  rw [hword, BitVec.toNat_ofNat, Nat.mod_eq_of_lt (by omega)]

/-- COPY and COMMIT while a commit is written only show IGNORED; else they stage, check and begin (R469). -/
theorem calCopy_spec (s : State) :
    (s.mod.cal.commit = true → (calCopy s).mod = s.mod ∧ (calCopy s).flag calPage 0x040 3 = true) ∧
      (s.mod.cal.commit = false →
        (calCopy s).mod.cal = { s.mod.cal with staging := s.mod.cal.active } ∧ (calCopy s).regs = s.regs) := by
  constructor <;> intro h
  · rw [calCopy, if_pos h]
    exact ⟨rfl, State.flag_setFlag_same _ _ _ _ (by decide)⟩
  · rw [calCopy, if_neg (by simp [h])]
    exact ⟨rfl, rfl⟩

theorem calCommit_ignored {s : State} (h : s.mod.cal.commit = true) :
    (calCommit s).mod = s.mod ∧ (calCommit s).flag calPage 0x040 3 = true := by
  rw [calCommit, if_pos h]
  exact ⟨rfl, State.flag_setFlag_same _ _ _ _ (by decide)⟩

/-- A choice among three results has what each of them has where it is chosen. -/
theorem ite_ite_of {α : Type} {p q : Prop} [Decidable p] [Decidable q] {a b c : α} {A B C : α → Prop} (ha : A a) (hb : B b)
    (hc : C c) : if p then A (if p then a else if q then b else c) else if q then B (if p then a else if q then b else c)
      else C (if p then a else if q then b else c) := by
  split_ifs <;> assumption

theorem calCommit_free {s : State} (h : s.mod.cal.commit = false) : calCommit s =
    if (imgCheck s s.mod.cal.staging).1 ≠ 0 then calResult s (imgCheck s s.mod.cal.staging)
    else if imgSeq s.mod.cal.staging ≠ imgSeq s.mod.cal.active + 1 then calResult s (3, 0)
    else s.modCal fun c => { c with other := c.staging, commit := true } := if_neg (by simp [h])

theorem calCommit_checked {s : State} (h : s.mod.cal.commit = false) :
    if (imgCheck s s.mod.cal.staging).1 ≠ 0 then
      (calCommit s).mod.cal = s.mod.cal ∧
        ((calCommit s).reg calPage 0x054).toNat = (imgCheck s s.mod.cal.staging).1 + 2 ^ 8 * (imgCheck s s.mod.cal.staging).2
    else if imgSeq s.mod.cal.staging ≠ imgSeq s.mod.cal.active + 1 then
      (calCommit s).mod.cal = s.mod.cal ∧ (calCommit s).reg calPage 0x054 = 3
    else (calCommit s).mod.cal = { s.mod.cal with other := s.mod.cal.staging, commit := true } ∧ (calCommit s).regs = s.regs := by
  obtain ⟨h1, h2⟩ := imgCheck_lt s s.mod.cal.staging
  rw [calCommit_free h]
  exact ite_ite_of (A := fun t : State => t.mod.cal = s.mod.cal ∧
      (t.reg calPage 0x054).toNat = (imgCheck s s.mod.cal.staging).1 + 2 ^ 8 * (imgCheck s s.mod.cal.staging).2)
    (B := fun t : State => t.mod.cal = s.mod.cal ∧ t.reg calPage 0x054 = 3)
    (C := fun t : State => t.mod.cal = { s.mod.cal with other := s.mod.cal.staging, commit := true } ∧ t.regs = s.regs)
    ⟨rfl, reg_calResult h1 h2⟩ ⟨rfl, reg_calResult_status s 3⟩ ⟨rfl, rfl⟩

end Sys2Proof.Laws
end

section
open Sys2Proof Machine Safety Laws

/-- Settles O54: the restore through the Clasps of the stacks listed and mailbox 20; the CAL block through each command's result. -/
theorem restoreAndCal : Obligations.RestoreAndCal := by
  refine ⟨fun s x hx hf => ⟨restored_of_passed hx hf, restore_refused hx hf⟩,
    fun s r hmay => ⟨fun hbusy => ⟨?_, ?_⟩, fun hfree => ⟨?_, ?_⟩, ?_⟩, fun s hbusy => ⟨?_, ?_⟩⟩
  · exact completes_asked rfl hmay ((calCopy_spec s).1 hbusy)
  · exact completes_asked rfl hmay (calCommit_ignored hbusy)
  · exact completes_asked rfl hmay ((calCopy_spec s).2 hfree)
  · exact completes_asked rfl hmay (calCommit_checked hfree)
  · exact completes_asked rfl hmay ⟨rfl, rfl⟩
  · exact ⟨_, exec_calCommitDone_false hbusy, rfl, State.reg_setReg_same .., fun _ => rfl⟩
  · have hmod : (calCommitted s).mod.cal =
        { s.mod.cal with active := s.mod.cal.other, other := [], commit := false, valid := true } :=
      congrArg Module.cal (Same.foldl sameMod_loadVolts _ _)
    have hmem : Same State.byte s (calCommitted s) :=
      Same.trans (t := measExtend (s.modCal _) 2 (imgBytes s.mod.cal.other 0 (imgLength s.mod.cal.other))) rfl
        (.foldl sameByte_loadVolts _ _)
    refine ⟨_, exec_calCommitDone_true hbusy, ?_, ?_, flag_raiseEvt _ _ _ (by decide), fun a => ?_⟩
    · rw [mod_raiseEvt]
      exact hmod
    · rw [reg_raiseEvt_apart _ _ _ _ (by decide) (by decide)]
      exact State.reg_setReg_same ..
    · exact congrFun (hmem.trans (unlogged_byte.raiseEvt (calResult (calCommitted s) (0, 0)) calPage 3)) a

end

section
/-! The checks a Bezel runs (R417, R422), and O39. -/

namespace Sys2Proof.Laws

open Machine Safety

/-! ### The test of an idle core -/

section
variable {s : State} {st : Fin 8} {phys : Fin 60}

theorem lt_of_servedBy {c : Nat} (h : servedBy s st phys.val = some c) : c < 56 :=
  List.mem_range.1 (List.mem_of_find?_eq_some h)

/-- A core once its stores are zeroed: no tile, no bank, an empty panel store. -/
def storesZeroed (s : State) (st : Fin 8) (c : Nat) : State :=
  zeroPanel (s.modCore st c fun x => { x with tiles := [], banks := Vector.replicate 2 {} }) st c

theorem byte_zeroPanel_outside (s : State) (st : Fin 8) (c : Nat) {a : Nat}
    (ha : ¬(panelBase st.val c ≤ a ∧ a < panelBase st.val c + panelSize)) : (zeroPanel s st c).byte a = s.byte a := by
  refine Eq.trans (State.byte_keepBytes s (fun a => !(panelBase st c ≤ a && a < panelBase st c + panelSize)) a) (if_pos ?_)
  simpa only [Bool.not_eq_true', ← Bool.decide_and, decide_eq_false_iff_not] using ha

theorem core_zeroPanel (s : State) (st : Fin 8) (c : Nat) : (zeroPanel s st c).core st c = s.core st c := rfl

theorem storesZeroed_spec {c : Nat} (hc : c < 56) :
    (∀ i < panelSize, (storesZeroed s st c).byte (panelBase st.val c + i) = 0) ∧ ((storesZeroed s st c).core st c).tiles = [] ∧
      MemoryKeptBut s (storesZeroed s st c) (fun a => panelBase st.val c ≤ a ∧ a < panelBase st.val c + panelSize) := by
  refine ⟨fun i hi => byte_zeroPanel _ st hc hi, ?_, fun a ha => ?_⟩
  · rw [storesZeroed, core_zeroPanel, State.core_modCore_same]
  · rw [storesZeroed, byte_zeroPanel_outside _ _ _ ha]
    exact congrFun (same_byte_iff.2 ((keptBut_modCore s st c _).kind .memory (by decide))) a

theorem exec_idleCoreTest_core {c : Nat} (hs : s.has st = true) (hd : s.domOn st (phys.val / 15) = true)
    (hc : servedBy s st phys.val = some c) (hb : s.fld (stackPage st .mx c) 0x030 15 0 = 0) (hm : busy s (stackPage st .mx c) = false)
    (hv : busy s (stackPage st .vc c) = false) : exec (.idleCoreTest st phys true) s = .next (storesZeroed s st c) := by
  show execIdleCoreTest st phys true s = _
  rw [execIdleCoreTest, if_pos hs, if_neg (by simp [hd]), hc]
  dsimp only
  rw [if_neg (by simp [hb, hm, hv]), if_pos rfl]
  rfl

theorem exec_idleCoreTest_spare {i : Nat} (hs : s.has st = true) (hd : s.domOn st (phys.val / 15) = true)
    (hc : servedBy s st phys.val = none) (hi : spareEntry s st phys.val = some i) :
    exec (.idleCoreTest st phys false) s = .next (s.setFlag (arbPage st) (0x0A0 + 4 * i) 15 true) := by
  show execIdleCoreTest st phys false s = _
  rw [execIdleCoreTest, if_pos hs, if_neg (by simp [hd]), hc, hi]
  rfl

end

/-! ### The firmware's heartbeat -/

/-- The firmware's misses and restarts that an arbiter has counted. -/
def heartbeats (st : Fin 8) (s : State) : Nat × Nat := ((s.st st).arb.missed, (s.st st).arb.restarts)

theorem unfaulted_heartbeats (st : Fin 8) : Unfaulted (heartbeats st) where
  box s i m f h := congrArg (fun a : Arbiter => (a.missed, a.restarts)) ((unfaulted_arb st).box s i m f h)
  mail _ _ _ _ := rfl
  wake _ _ := rfl
  locket _ _ := rfl
  draw _ _ := rfl
  page _ _ _ _ := rfl
  reg _ _ _ _ _ := rfl
  clasp s i f := congrArg (fun a : Arbiter => (a.missed, a.restarts)) ((unfaulted_arb st).clasp s i f)

theorem heartbeats_modArb (s : State) (st i : Fin 8) {f : Arbiter → Arbiter} (h : ∀ a, (f a).missed = a.missed ∧ (f a).restarts = a.restarts) :
    Same (heartbeats st) s (s.modArb i f) := by
  by_cases hi : i = st
  · subst hi
    rw [Same, heartbeats, State.modArb_st_arb, (h _).1, (h _).2]
    rfl
  · rw [Same, heartbeats, State.modArb_st_other _ _ _ _ hi]
    rfl

theorem heartbeats_refuseActivity (s : State) (st i : Fin 8) (a : Activity) (status : Nat) :
    Same (heartbeats st) s (refuseActivity s i a status) :=
  have hv := (unfaulted_heartbeats st).unlogged
  Same.trans (t := s.countSat (arbPage i) 0x05C) rfl ((hv.locketRequest ..).trans (hv.raiseEvt ..))

theorem heartbeats_endWaiting (s : State) (st i : Fin 8) (a : Activity) : Same (heartbeats st) s (endWaiting s i a) := by
  have hw : ∀ u : State, Same (heartbeats st) u
      (u.stacksIn.foldl (fun s i => s.modSt i fun x => { x with ckpt := { x.ckpt with wanted := false } }) u) := fun u => by
    refine .foldl (fun w j => ?_) _ _
    exact congrArg (fun a : Arbiter => (a.missed, a.restarts)) (State.st_modSt_proj w Stack.arb (by intro; rfl) j st)
  have h1 := (heartbeats_modArb s st i (f := fun b => { b with wait := b.wait.erase a }) fun _ => ⟨rfl, rfl⟩).trans
    (heartbeats_refuseActivity _ st i a 5)
  have h2 : ∀ (u : State) (p : Prop) [Decidable p], Same (heartbeats st) u (if p then u.setFld (arbPage i) 0x044 2 0 5 else u) :=
    fun u p _ => .ite rfl (.refl u)
  dsimp only [endWaiting]
  exact .ite (h1.trans (h2 _ _) |>.trans (hw _)) (h1.trans (h2 _ _))

/-- The core's firmware is restarted: counted, recorded, and what it streamed and submitted ends (R422). -/
theorem heartbeats_mgmtRestart (s : State) (st : Fin 8) (n : Nat) :
    heartbeats st (mgmtRestart s st n) = (0, min 255 ((s.st st).arb.restarts + 1)) := by
  let k := min 255 ((s.st st).arb.restarts + 1)
  let u := s.modArb st fun a => { a with restarts := k, missed := 0 }
  have hu : heartbeats st u = (0, k) := by rw [heartbeats, State.modArb_st_arb]
  have hf : ∀ info, Same (heartbeats st) u (recordFault u (arbPage st) 0x0A 0x41 info 0) := fun info =>
    (unfaulted_heartbeats st).unlogged.recordFault ..
  have ha : ∀ (w : State) x, Same (heartbeats st) w (abandonStream w.drawFree.2 st x) := fun w x =>
    congrArg (fun a : Arbiter => (a.missed, a.restarts)) ((keptBut_abandonStream w.drawFree.2 st x).kind .arbiter (by decide) st)
  have hw : ∀ w : State, Same (heartbeats st) w (((s.st st).arb.wait.filter fun a => a.sub == 4).foldl (fun s a => endWaiting s st a) w) :=
    fun w => .foldl (fun v a => heartbeats_endWaiting v st st a) _ _
  refine Eq.trans ?_ hu
  exact Same.trans (Same.trans (hf _) (.ite (ha _ _) (.refl _))) (hw _)

/-- With nothing that waits and no stream, a restart only records its fault. -/
theorem mgmtRestart_alone {s : State} {st : Fin 8} {n : Nat} (hw : (s.st st).arb.wait = []) (hs : (s.st st).ckpt.streaming = false) :
    mgmtRestart s st n = recordFault (s.modArb st fun a => { a with restarts := min 255 ((s.st st).arb.restarts + 1), missed := 0 })
      (arbPage st) 0x0A 0x41 (min 255 ((s.st st).arb.restarts + 1) * 2 ^ 16 + n * 2 ^ 24) 0 := by
  simp only [mgmtRestart, hw, hs]
  rfl

section
variable {s : State} {st : Fin 8} (hs : s.has st = true) (hf : (s.st st).pwr.firmware = true) (hp : s.mod.pwr.sleeping = false)
include hs hf hp

theorem exec_heartbeatCheck_rung (hb : (s.box st 16).db.getLsbD 28 = true) : exec (.heartbeatCheck st) s =
    .next ((s.modBox st 16 fun b => { b with db := b.db &&& ~~~(BitVec.ofNat 32 (2 ^ 28)) }).modArb st fun a => { a with missed := 0 }) := by
  show execHeartbeatCheck st s = _
  rw [execHeartbeatCheck, if_pos hs, if_neg (by simp [hf, hp]), if_pos hb]

theorem exec_heartbeatCheck_missed (hb : (s.box st 16).db.getLsbD 28 = false) (hm : (s.st st).arb.missed < 2) :
    exec (.heartbeatCheck st) s = .next (s.modArb st fun a => { a with missed := (s.st st).arb.missed + 1 }) := by
  show execHeartbeatCheck st s = _
  rw [execHeartbeatCheck, if_pos hs, if_neg (by simp [hf, hp]), if_neg (Bool.not_eq_true _ ▸ hb)]
  exact congrArg Host.Outcome.next (if_pos (by omega))

theorem exec_heartbeatCheck_third (hb : (s.box st 16).db.getLsbD 28 = false) (hm : 2 ≤ (s.st st).arb.missed) :
    exec (.heartbeatCheck st) s = .next (mgmtRestart s st ((s.st st).arb.missed + 1)) := by
  show execHeartbeatCheck st s = _
  rw [execHeartbeatCheck, if_pos hs, if_neg (by simp [hf, hp]), if_neg (Bool.not_eq_true _ ▸ hb)]
  exact congrArg Host.Outcome.next (if_neg (by omega))

end

/-! ### The challenge of a secondary -/

section
variable {s : State} {st : Fin 8} (hs : s.has st = true) (h0 : st ≠ 0) (hf : (s.st 0).pwr.firmware = true)
  (hh : (s.st st).pwr.held = false)
include hs h0 hf hh

theorem exec_pairingCheck (ok : Bool) : exec (.pairingCheck st ok) s = .next (
    if ok = false then holdStack (bzlFault s 0x02 st.val) st else if (s.st st).pwr.paired then s else stackReturns s st) := by
  show execPairingCheck st ok s = _
  rw [execPairingCheck, if_pos hs, if_neg (by simp [h0, hf, hh])]

end

theorem pwr_holdStack (s : State) (st : Fin 8) :
    ((holdStack s st).st st).pwr.held = true ∧ ((holdStack s st).st st).pwr.paired = false := by
  rw [holdStack, State.modPwr_st_pwr]
  exact ⟨rfl, rfl⟩

theorem unfaulted_pwr (st : Fin 8) : Unfaulted fun s => (s.st st).pwr where
  box _ _ _ _ _ := State.modBox_st_pwr ..
  mail _ _ _ _ := rfl
  wake _ _ := rfl
  locket _ _ := rfl
  draw _ _ := rfl
  page _ _ _ _ := rfl
  reg _ _ _ _ _ := rfl
  clasp _ _ _ := State.modClp_st_pwr ..

theorem paired_stackReturns (s : State) (st : Fin 8) : ((stackReturns s st).st st).pwr.paired = true := by
  let u := s.modPwr st fun p => { p with paired := true, firmware := true }
  have hu : (u.st st).pwr.paired = true := by rw [State.modPwr_st_pwr]
  have hv : ((loadVolts u st).st st).pwr.paired = true := by rwa [loadVolts, State.modPwr_st_pwr]
  have hl : ∀ w : State, Same (fun s : State => (s.st st).pwr) w (loadSpares w st (arbSpares st)) := fun w => by
    refine .foldl (fun x e => ?_) _ _
    cases calSection x 6 <;> rfl
  have ha : Same (fun s : State => (s.st st).pwr) (loadVolts u st) (stackReturns s st) :=
    (hl _).trans ((unfaulted_pwr st).unlogged.applyDomains ((loadSpares (loadVolts u st) st (arbSpares st)).setReg (pwrPage st) 0x040 0xFF) st)
  exact (congrArg Power.paired ha).trans hv

end Sys2Proof.Laws
end

section
open Sys2Proof Machine Safety Laws

/-- Settles O39: the stores of the core that is tested, the counts of the heartbeat through all that a restart ends, and the stack
that is held or returns. -/
theorem bezelChecks : Obligations.BezelChecks := by
  refine ⟨fun s st phys hs hd => ⟨fun c hc hb hm hv => ?_, fun i hc hi => ?_⟩,
    fun s st hs hf hp => ⟨fun hb => ?_, fun hb hm => ?_, fun hb hm => ?_⟩, fun s st hs h0 hf hh => ⟨?_, ?_⟩⟩
  · exact ⟨_, exec_idleCoreTest_core hs hd hc hb hm hv, storesZeroed_spec (lt_of_servedBy hc)⟩
  · exact ⟨_, exec_idleCoreTest_spare hs hd hc hi, State.flag_setFlag_same _ _ _ _ (by decide), fun _ => rfl⟩
  · refine ⟨_, exec_heartbeatCheck_rung hs hf hp hb, ?_, ?_, ?_⟩
    · rw [State.modArb_st_arb]
    · have hbox : ∀ (u : State) f, (u.modArb st f).box st 16 = u.box st 16 := fun u f => by
        rw [State.box, State.modArb_st_mbx]
        rfl
      rw [hbox, State.box_modBox_same]
      simp
    · rw [State.modArb_st_arb, State.modBox_st_arb]
  · refine ⟨_, exec_heartbeatCheck_missed hs hf hp hb hm, ?_, ?_⟩ <;> rw [State.modArb_st_arb]
  · obtain ⟨hmissed, hrestarts⟩ := Prod.mk.inj (heartbeats_mgmtRestart s st ((s.st st).arb.missed + 1))
    refine ⟨_, exec_heartbeatCheck_third hs hf hp hb hm, hmissed, hrestarts, fun hwait hstream => ?_⟩
    rw [mgmtRestart_alone hwait hstream]
    exact fld_recordFault_of_plain _ _ _ _ _ _ rfl (by decide) (by decide)
  · exact ⟨_, (exec_pairingCheck hs h0 hf hh false).trans (congrArg _ (if_pos rfl)), pwr_holdStack ..⟩
  · refine ⟨_, (exec_pairingCheck hs h0 hf hh true).trans (congrArg _ (if_neg (by simp))), ?_, fun hpaired => if_pos hpaired⟩
    split
    · assumption
    · exact paired_stackReturns s st

end

section
/-! What a stack loses with its domains (R453, R463), and what stands beside it. -/

namespace Sys2Proof.Laws

open Machine Safety

/-! ### The pages of a domain -/

/-- A page that some unit of a stack or of the module has. -/
def OfStack (st : Fin 8) (p : Page) : Prop := p.inst < instances p.blk ∧ (p.stk = st.val ∨ p.stk = 15)

theorem ofStack_stackPage (st : Fin 8) {b : Blk} {i : Nat} (h : i < instances b) : OfStack st (stackPage st b i) := ⟨h, .inl rfl⟩

theorem ofStack_of_range {st : Fin 8} {b : Blk} {n : Nat} (hn : n ≤ instances b) {p : Page}
    (h : p ∈ (List.range n).map fun i => stackPage st b i) : OfStack st p := by
  obtain ⟨i, hi, rfl⟩ := List.mem_map.1 h
  exact ofStack_stackPage st ((List.mem_range.1 hi).trans_le hn)

theorem lt_of_coresIn {s : State} {st : Fin 8} {k c : Nat} (h : c ∈ coresIn s st k) : c < 56 :=
  List.mem_range.1 (List.mem_filter.1 h).1

/-- The pages of a domain are pages of its stack, or of the module. -/
theorem ofStack_of_domainPages {s : State} {st : Fin 8} {k : Nat} {p : Page} (h : p ∈ domainPages s st k) : OfStack st p := by
  have hone : ∀ b i, i < instances b → OfStack st (stackPage st b i) := fun b i hi => ofStack_stackPage st hi
  have hmod : ∀ b, 0 < instances b → OfStack st (modulePage b) := fun b hb => ⟨hb, .inr rfl⟩
  unfold domainPages at h
  split_ifs at h with h4 h5 h6 h7 h0
  · obtain ⟨c, hc, hp⟩ := List.mem_flatMap.1 h
    have hlt := lt_of_coresIn hc
    simp only [List.mem_cons, List.not_mem_nil, or_false] at hp
    rcases hp with rfl | rfl | rfl <;> exact hone _ _ hlt
  · simp only [List.mem_cons, List.not_mem_nil, or_false] at h
    rcases h with rfl | rfl | rfl <;> exact hone _ _ (by decide)
  · simp only [List.mem_cons, List.not_mem_nil, or_false] at h
    rcases h with rfl | rfl | rfl | rfl | rfl | rfl <;> exact hone _ _ (by decide)
  · rcases List.mem_append.1 h with h | h
    · exact ofStack_of_range (by decide) h
    · simp only [List.mem_cons, List.not_mem_nil, or_false] at h
      rcases h with rfl | rfl <;> exact hone _ _ (by decide)
  all_goals
    rcases List.mem_append.1 h with h | h
    · rcases List.mem_append.1 h with h | h
      · rcases List.mem_append.1 h with h | h
        · rcases List.mem_append.1 h with h | h
          · exact ofStack_of_range (by decide) h
          · simp only [List.mem_cons, List.not_mem_nil, or_false] at h
            rcases h with rfl | rfl <;> exact hone _ _ (by decide)
        · exact ofStack_of_range (by decide) h
      · simp only [List.mem_cons, List.not_mem_nil, or_false] at h
        rcases h with rfl | rfl <;> exact hone _ _ (by decide)
    · simp only [List.mem_cons, List.not_mem_nil, or_false] at h
      try rcases h with rfl | rfl | rfl <;> exact hmod _ (by decide)

/-- A page that is cleared leaves every other. -/
theorem reg_clearPage_other (s : State) {p q : Page} (kept : Nat → Bool) {x : Nat} (hp : p.inst < instances p.blk)
    (hq : q.inst < instances q.blk) (h : p ≠ q) (hx : x < 4096) : (clearPage s p kept).reg q x = s.reg q x := by
  have hne : q.key x / 4096 ≠ p.key 0 / 4096 := fun e =>
    h (key_inj (a := 0) (b := 0) hp hq (by decide) (by decide) (by simp only [Page.key] at e ⊢; omega)).1
  have hg := Sparse.get_keep (regDefault s.part) (fun k => k / 4096 != p.key 0 / 4096 || kept (k % 4096)) s.regs (q.key x)
  rw [bne_iff_ne.2 hne, Bool.true_or, if_pos rfl] at hg
  exact hg

/-! ### Readings that the loss of a stack does not reach -/

/-- A reading that sees nothing of what a stack loses. -/
structure Unlost {α : Type} (i : Fin 8) (v : State → α) : Prop where
  stack : ∀ s f, Same v s (s.modSt i f)
  seq : ∀ s j n (f : Seq → Seq), (∀ q, (f q).st = q.st) → Same v s (s.modSeq j n f)
  stream : ∀ s n, Same v s (abandonStream s i n)
  panel : ∀ s c, c < 56 → Same v s (zeroPanel s i c)
  sram : ∀ s, Same v s (zeroSram s i)
  key : ∀ s, Same v s (loseKey s i)
  page : ∀ s p, OfStack i p → Same v s (clearPage s p (heldOffset p.blk))
  queues : ∀ s m, Same v s { s with queues := m }
  train : ∀ s d, d < 4 → Same v s (s.setReg (stackPage i .mem d) 0x06C 0)
  primary : ∀ s, Same v s (primaryLost s)

namespace Unlost

variable {α : Type} {v : State → α} {i : Fin 8} (hv : Unlost i v) (s : State)
include hv

theorem sessionsCleared : Same v s (sessionsCleared s i) := by
  unfold Machine.sessionsCleared
  refine Same.trans (Same.trans (.ite (hv.stream s _) (.refl s)) (.foldl (fun u j => ?_) _ _)) (hv.stack _ _)
  refine .foldl (fun w n => ?_) _ _
  exact hv.seq w j n _ fun _ => rfl

theorem endRefresh : Same v s (endRefresh s i) := by
  unfold Machine.endRefresh dropRefresh
  exact (hv.stack ..).trans (hv.stack ..)

theorem domainState (k : Nat) : Same v s (domainState s i k) := by
  unfold Machine.domainState
  split
  · exact Same.foldl_mem _ fun u c hc => (hv.stack ..).trans (hv.panel _ c (lt_of_coresIn hc))
  · split
    · exact (hv.stack ..).trans (hv.endRefresh _)
    · split
      · exact (hv.sessionsCleared s).trans (hv.stack ..)
      · split
        · exact (hv.sram s).trans (hv.stack ..)
        · exact .ite ((hv.key s).trans (hv.stack ..) |>.trans (hv.primary _)) ((hv.key s).trans (hv.stack ..))

theorem clearPages {ps : List Page} (h : ∀ p ∈ ps, OfStack i p) :
    Same v s (ps.foldl (fun s p => dropQueues (clearPage s p (heldOffset p.blk)) p) s) :=
  Same.foldl_mem _ fun u p hp => (hv.page u p (h p hp)).trans (hv.queues ..)

theorem domainLost (k : Nat) : Same v s (domainLost s i k) :=
  (hv.domainState s k).trans (hv.clearPages _ fun _ hp => ofStack_of_domainPages hp)

theorem stackLost : Same v s (stackLost s i) :=
  Same.trans (.foldl (fun u k => hv.domainLost u k) _ _) (Same.foldl_mem _ fun u d hd => hv.train u d (List.mem_range.1 hd))

end Unlost

/-! ### The module's supply and clocks, and the records -/

theorem unlogged_modulePower : Unlogged fun s => s.mod.pwr := unlogged_mod Module.pwr fun _ _ => rfl

section
variable {α : Type} {v : State → α} (hv : Unlogged v) (s : State) (st : Fin 8)
include hv

theorem Unlogged.abandonStream (hk : ∀ s f, Same v s (s.modCkpt st f)) (n : Nat) : Same v s (abandonStream s st n) := by
  have hend : Same v s (endStream s st n) := (hk s _).trans (hv.clasp ..) |>.trans (hv.locketRequest ..)
  have hfail : ∀ u ctx, Same v u (ckptFailed u st ctx n) := fun u ctx =>
    Same.trans (t := u.setFld (stackPage st .kxt) 0x0F4 2 1 2) (hv.reg _ _ 0x0F4 _ (by decide)) (hv.recordFault ..)
  exact hend.trans (hfail _ _)

end

/-- What of the module's part no bell, fault or loss of a stack reaches. -/
theorem unlost_mod {α : Type} (g : Module → α) (h : ∀ m rs, g { m with lkt := { m.lkt with reqs := rs } } = g m)
    (hp : ∀ s : State, g (primaryLost s).mod = g s.mod) (i : Fin 8) : Unlost i fun s => g s.mod where
  stack _ _ := rfl
  seq _ _ _ _ _ := rfl
  stream s n := (unlogged_mod g h).abandonStream s i (fun _ _ => rfl) n
  panel _ _ _ := rfl
  sram _ := rfl
  key _ := rfl
  page _ _ _ := rfl
  queues _ _ := rfl
  train _ _ _ := rfl
  primary := hp

theorem unlost_modulePower (i : Fin 8) : Unlost i fun s => s.mod.pwr := unlost_mod Module.pwr (fun _ _ => rfl) (fun _ => rfl) i

/-! ### Another stack -/

/-- What a stack holds in its Clasp, sequencers, sessions and firmware. -/
def holding (j : Fin 8) (s : State) : Clasp × (Fin 4 → SeqState) × Sparse Session × Bool :=
  ((s.st j).clp, fun q => (s.seq j q).st, (s.st j).sess, (s.st j).pwr.firmware)

/-- No byte of SRAM follows a key. -/
theorem memDefault_sram (stk : Vector Stack 8) (j : Fin 8) {x : Nat} (hx : x < sramSize) : memDefault stk (sramBase j + x) = 0 := by
  have hj := j.isLt
  unfold memDefault
  split
  · dsimp only
    rw [if_neg]
    simp only [sramSize] at hx
    simp only [sramBase, lpddrSize]
    omega
  · rfl

theorem byte_sram (s : State) (j : Fin 8) {x : Nat} (hx : x < sramSize) :
    s.byte (sramBase j + x) = (Sparse.find s.mem (sramBase j + x)).getD 0 := by
  rw [State.byte, Sparse.get, memDefault_sram _ _ hx]

/-- SRAM reads as before wherever memory lists what it did. -/
theorem byte_sram_of_find {s t : State} {j : Fin 8} {x : Nat} (hx : x < sramSize)
    (h : Sparse.find t.mem (sramBase j + x) = Sparse.find s.mem (sramBase j + x)) :
    t.byte (sramBase j + x) = s.byte (sramBase j + x) := by
  rw [byte_sram t j hx, byte_sram s j hx, h]

theorem byte_sram_modSt (s : State) (i j : Fin 8) (f : Stack → Stack) {x : Nat} (hx : x < sramSize) :
    (s.modSt i f).byte (sramBase j + x) = s.byte (sramBase j + x) := byte_sram_of_find (t := s.modSt i f) hx rfl

/-- A range that is zeroed, and one that is dropped with its key, leave every byte of SRAM outside it. -/
theorem byte_zeroSram_outside (s : State) (i : Fin 8) {a : Nat} (ha : ¬(sramBase i ≤ a ∧ a < sramBase i + sramSize)) :
    (zeroSram s i).byte a = s.byte a := by
  refine Eq.trans (State.byte_keepBytes s (fun a => !(sramBase i ≤ a && a < sramBase i + sramSize)) a) (if_pos ?_)
  simpa only [Bool.not_eq_true', ← Bool.decide_and, decide_eq_false_iff_not] using ha

theorem byte_zeroSram_inside (s : State) (i : Fin 8) {x : Nat} (hx : x < sramSize) : (zeroSram s i).byte (sramBase i + x) = 0 := by
  have hk := State.byte_keepBytes s (fun a => !(sramBase i ≤ a && a < sramBase i + sramSize)) (sramBase i + x)
  rw [if_neg (by simp [hx])] at hk
  exact Eq.trans hk (memDefault_sram _ _ hx)

theorem byte_loseKey_sram (s : State) (i j : Fin 8) {x : Nat} (hx : x < sramSize) :
    (loseKey s i).byte (sramBase j + x) = s.byte (sramBase j + x) := by
  have hi := i.isLt
  have hj := j.isLt
  have hout : ¬(lpddrBase i ≤ sramBase j + x ∧ sramBase j + x < lpddrBase i + lpddrSize) := by
    simp only [sramSize] at hx
    simp only [lpddrBase, sramBase, lpddrSize]
    omega
  have hk := State.byte_keepBytes s (fun a => !(lpddrBase i ≤ a && a < lpddrBase i + lpddrSize)) (sramBase j + x)
  rw [if_pos (by simpa only [Bool.not_eq_true', ← Bool.decide_and, decide_eq_false_iff_not] using hout)] at hk
  exact (byte_sram_of_find (t := loseKey s i) (s := s.keepBytes fun a => !(lpddrBase i ≤ a && a < lpddrBase i + lpddrSize)) hx rfl).trans hk

theorem holding_eq {s t : State} {j : Fin 8} (h : t.st j = s.st j) : Same (holding j) s t := by
  have hseq : ∀ q, t.seq j q = s.seq j q := fun q => by rw [State.seq, h]; rfl
  simp only [Same, holding, h, hseq]

section
variable {i j : Fin 8} (hij : i ≠ j)
include hij

theorem st_modSt_apart (s : State) (f : Stack → Stack) : (s.modSt i f).st j = s.st j := by rw [State.st_modSt, if_neg hij]

/-- A range of one stack's memory lies outside another's SRAM. -/
theorem sram_outside {base n x : Nat} (hx : x < sramSize) (hb : base + n ≤ 2 ^ 48) :
    ¬(i.val * 2 ^ 48 + base ≤ sramBase j + x ∧ sramBase j + x < i.val * 2 ^ 48 + base + n) := by
  have hne : i.val ≠ j.val := fun e => hij (Fin.ext e)
  simp only [sramSize] at hx
  simp only [sramBase]
  omega

/-- A stream that is abandoned ends in its own Clasp alone. -/
theorem clp_abandonStream (s : State) (n : Nat) : ((abandonStream s i n).st j).clp = (s.st j).clp := by
  rw [abandonStream, clp_ckptFailed, endStream, ckptRecord, clp_locketRequest, State.modClp_st_other _ _ _ _ hij]
  exact congrArg Stack.clp (st_modSt_apart hij s _)

/-- The loss of a stack leaves what another holds (R453). -/
theorem unlost_holding : Unlost i (holding j) where
  stack s f := holding_eq (st_modSt_apart hij s f)
  seq s k n f hf := by
    have hseq : ∀ q, ((s.modSeq k n f).seq j q).st = (s.seq j q).st := fun q => by
      rw [State.seq_modSeq]
      split
      · next e => obtain ⟨rfl, rfl⟩ := e; exact hf _
      · rfl
    simp only [Same, holding, hseq, State.modSeq_st_clp, State.modSeq_st_sess, State.modSeq_st_pwr]
  stream s n := by
    have hk := keptBut_abandonStream s i n
    have hseq : ∀ q, (abandonStream s i n).seq j q = s.seq j q := fun q => by
      rw [State.seq, hk.kind .sequencers (by decide) j]
      rfl
    simp only [Same, holding, hseq, clp_abandonStream hij, hk.kind .sessions (by decide) j, hk.kind .stackPower (by decide) j]
  panel _ _ _ := rfl
  sram _ := rfl
  key s := holding_eq (st_modSt_apart hij _ _)
  page _ _ _ := rfl
  queues _ _ := rfl
  train _ _ _ := rfl
  primary _ := rfl

theorem unlost_sram {x : Nat} (hx : x < sramSize) : Unlost i fun s => s.byte (sramBase j + x) where
  stack s f := byte_sram_of_find hx rfl
  seq s k n f hf := byte_sram_of_find hx rfl
  stream s n := (keptBut_abandonStream s i n).kind .memory (by decide) _
  panel s c hc := by
    have hb : 0x500000000000 + c * 0x100000 + panelSize ≤ 2 ^ 48 := by simp only [panelSize]; omega
    exact byte_zeroPanel_outside s i c (by simpa only [panelBase, Nat.add_assoc] using sram_outside hij hx hb)
  sram s := byte_zeroSram_outside s i (sram_outside (n := sramSize) hij hx (by decide))
  key s := byte_loseKey_sram s i j hx
  page _ _ _ := rfl
  queues _ _ := rfl
  train _ _ _ := rfl
  primary _ := rfl

end

/-! ### The domains a stack shows -/

theorem page_ne_of_blk {p q : Page} (h : p.blk ≠ q.blk) : p ≠ q := fun e => h (congrArg Page.blk e)

theorem domOn_setReg (s : State) (p : Page) {off : Nat} (x : Word) (j : Fin 8) (k : Nat) (hp : p.inst < instances p.blk)
    (ho : off < 4096) (h : p ≠ pwrPage j ∨ off ≠ 0x044) : (s.setReg p off x).domOn j k = s.domOn j k := by
  have hreg : (s.setReg p off x).reg (pwrPage j) 0x044 = s.reg (pwrPage j) 0x044 := by
    rw [State.reg_setReg, if_neg]
    intro e
    obtain ⟨rfl, rfl⟩ := key_inj Nat.one_pos hp (by decide) ho e
    exact h.elim (· rfl) (· rfl)
  exact congrArg (fun w : Word => bitAt w.toNat k) hreg

/-- No bell, request or fault off its page changes what a stack shows of a domain. -/
theorem unrecorded_domOn (j : Fin 8) {k : Nat} (hk : k < 8) : Unrecorded fun s => s.domOn j k where
  box _ _ _ _ _ := rfl
  mail s i m hm := domOn_setReg s _ _ j k hm (by decide) (.inr (by decide))
  wake s i := by
    by_cases hi : pwrPage i = pwrPage j
    · rw [Same, State.domOn, State.domOn, ← pwrPage, ← pwrPage, hi]
      exact State.flag_setFlag_beside s (pwrPage j) 0x044 true (by decide) (by omega)
    · exact domOn_setReg s _ _ j k Nat.one_pos (by decide) (.inl hi)
  locket _ _ := rfl
  draw _ _ := rfl
  page s off x ho := domOn_setReg s _ _ j k Nat.one_pos ho (.inl (page_ne_of_blk nofun))

/-- The loss of a stack leaves the domains another shows. -/
theorem unlost_domOn {i j : Fin 8} (hij : i ≠ j) {k : Nat} (hk : k < 8) : Unlost i fun s => s.domOn j k where
  stack _ _ := rfl
  seq _ _ _ _ _ := rfl
  stream s n := by
    have hv := unrecorded_domOn j hk
    have hkxt : PageUnseen (fun s : State => s.domOn j k) (stackPage i .kxt) := fun s off x ho =>
      domOn_setReg s _ _ j k Nat.one_pos ho (.inl (page_ne_of_blk nofun))
    have hend : Same (fun s : State => s.domOn j k) s (endStream s i n) :=
      Same.trans (t := (s.modCkpt i _).modClp i fun c => { c with ckptHold := false }) rfl (hv.locketRequest ..)
    have hfail : ∀ u ctx, Same (fun s : State => s.domOn j k) u (ckptFailed u i ctx n) := fun u ctx => by
      rw [ckptFailed, recordFault, if_neg (by simp [isEngine, stackPage])]
      exact (hkxt u 0x0F4 _ (by decide)).trans (hv.recordPlain hkxt ..)
    exact hend.trans (hfail _ _)
  panel _ _ _ := rfl
  sram _ := rfl
  key _ := rfl
  page s p hp := by
    have hne : p ≠ pwrPage j := fun e => by
      have hs : p.stk = j.val := congrArg Page.stk e
      have hlt := j.isLt
      exact hp.2.elim (fun h => hij (Fin.ext (h.symm.trans hs))) (fun h => by omega)
    exact congrArg (fun w : Word => bitAt w.toNat k) (reg_clearPage_other s (heldOffset p.blk) hp.1 Nat.one_pos hne (by decide))
  queues _ _ := rfl
  train s d hd := domOn_setReg s _ _ j k hd (by decide) (.inl (page_ne_of_blk nofun))
  primary _ := rfl

/-! ### A lost stack -/

section
variable (s : State) (st : Fin 8)

/-- The pages of a list go back to their After reset values, but for what the island holds of them. -/
def clearPages (ps : List Page) : State := ps.foldl (fun s p => dropQueues (clearPage s p (heldOffset p.blk)) p) s

/-- What of the stacks and of memory the clearing of pages leaves. -/
theorem same_clearPages {α : Type} (g : Vector Stack 8 → Sparse Byte → α) (ps : List Page) :
    Same (fun s => g s.stk s.mem) s (clearPages s ps) := by
  refine .foldl (fun u p => ?_) _ _
  rfl

theorem st_clearPages (ps : List Page) (j : Fin 8) : (clearPages s ps).st j = s.st j := same_clearPages s (fun v _ => v[j]) ps

theorem byte_clearPages (ps : List Page) (a : Nat) : (clearPages s ps).byte a = s.byte a :=
  same_clearPages s (fun v m => Sparse.get (memDefault v) m a) ps

theorem domainLost_eq (k : Nat) : domainLost s st k = clearPages (domainState s st k) (domainPages s st k) := rfl

/-- A stack once its CTL domain is lost. -/
def ctlLost (x : Stack) : Stack :=
  { x with seqs := Vector.replicate 4 {}, arb := {}, clp := {}, keys := {}, bzlBuf := [], ckpt := {},
           pwr := { x.pwr with raising := none, avsHold := false, firmware := false, paired := false, held := false } }

theorem ctlLost_spec (x : Stack) : (ctlLost x).clp = {} ∧ (∀ q : Fin 4, ((ctlLost x).seqs[q]).st = .empty) ∧
    (ctlLost x).sess = x.sess ∧ (ctlLost x).pwr.firmware = false :=
  ⟨rfl, fun q => congrArg Seq.st (Vector.getElem_replicate q.isLt), rfl, rfl⟩

theorem domainState_ctl : domainState s st 7 =
    if st = 0 then primaryLost ((loseKey s st).modSt st ctlLost) else (loseKey s st).modSt st ctlLost := by
  rw [domainState, if_neg (by decide), if_neg (by decide), if_neg (by decide), if_neg (by decide)]
  rfl

theorem st_primaryLost (j : Fin 8) : (primaryLost s).st j = s.st j := rfl

theorem st_domainState_ctl : (domainState s st 7).st st = ctlLost ((loseKey s st).st st) := by
  rw [domainState_ctl]
  split
  · rw [st_primaryLost, State.st_modSt_same]
  · rw [State.st_modSt_same]

theorem byte_domainState_ctl {x : Nat} (hx : x < sramSize) :
    (domainState s st 7).byte (sramBase st + x) = s.byte (sramBase st + x) := by
  have hb := (byte_sram_modSt (loseKey s st) st st ctlLost hx).trans (byte_loseKey_sram s st st hx)
  rw [domainState_ctl]
  split
  · exact hb
  · exact hb

theorem byte_domainLost_ctl {x : Nat} (hx : x < sramSize) :
    (domainLost s st 7).byte (sramBase st + x) = s.byte (sramBase st + x) := by
  rw [domainLost_eq, byte_clearPages, byte_domainState_ctl s st hx]

theorem sess_loseKey : ((loseKey s st).st st).sess = (s.st st).sess := by
  rw [loseKey, State.modPwr_st_sess]
  rfl

theorem domainState_net : domainState s st 5 = (sessionsCleared s st).modSt st fun x => { x with ports := Vector.replicate 2 {} } := by
  rw [domainState, if_neg (by decide), if_neg (by decide), if_pos rfl]

theorem domainState_mem : domainState s st 6 = (zeroSram s st).modSt st fun x => { x with regions := [], xfrStop := 0 } := by
  rw [domainState, if_neg (by decide), if_neg (by decide), if_neg (by decide), if_pos rfl]

/-- The state while the first five domains of a stack are lost; then its links, its memory and its control are. -/
def computeLost : State := (List.range 5).foldl (fun s k => domainLost s st k) s
def linksLost : State := domainLost (computeLost s st) st 5
def memoryLost : State := domainLost (linksLost s st) st 6
def controlLost : State := domainLost (memoryLost s st) st 7

theorem stackLost_eq : stackLost s st =
    (List.range 4).foldl (fun s d => s.setReg (stackPage st .mem d) 0x06C 0) (controlLost s st) := by
  rw [stackLost, show List.range 8 = List.range 5 ++ [5, 6, 7] from rfl, List.foldl_append, List.foldl_cons, List.foldl_cons,
    List.foldl_cons, List.foldl_nil]
  simp only [controlLost, memoryLost, linksLost, computeLost]

theorem sess_linksLost : ((linksLost s st).st st).sess = [] := by
  rw [linksLost, domainLost_eq, st_clearPages]
  simp [domainState_net, sessionsCleared]

theorem st_zeroSram (j : Fin 8) : (zeroSram s st).st j = s.st j := rfl

theorem sess_memoryLost : ((memoryLost s st).st st).sess = [] := by
  rw [memoryLost, domainLost_eq, st_clearPages]
  rw [domainState_mem, State.st_modSt_same, st_zeroSram]
  exact sess_linksLost s st

theorem byte_memoryLost {x : Nat} (hx : x < sramSize) : (memoryLost s st).byte (sramBase st + x) = 0 := by
  rw [memoryLost, domainLost_eq, byte_clearPages, domainState_mem]
  exact (byte_sram_modSt _ st st _ hx).trans (byte_zeroSram_inside _ st hx)

/-- What CTL holds of a stack once it is lost, and what stays of the stack's memory and sessions. -/
theorem controlLost_spec :
    ((controlLost s st).st st).clp = {} ∧ (∀ q, ((controlLost s st).seq st q).st = .empty) ∧ ((controlLost s st).st st).sess = [] ∧
      ((controlLost s st).st st).pwr.firmware = false ∧ ∀ x < sramSize, (controlLost s st).byte (sramBase st + x) = 0 := by
  have hst : (controlLost s st).st st = ctlLost ((loseKey (memoryLost s st) st).st st) :=
    (st_clearPages ..).trans (st_domainState_ctl ..)
  obtain ⟨hclp, hseq, hsess, hfw⟩ := ctlLost_spec ((loseKey (memoryLost s st) st).st st)
  refine ⟨?_, fun q => ?_, ?_, ?_, fun x hx => ?_⟩
  · rw [hst, hclp]
  · rw [State.seq, hst, hseq]
  · rw [hst, hsess, sess_loseKey, sess_memoryLost]
  · rw [hst, hfw]
  · rw [controlLost, byte_domainLost_ctl _ _ hx, byte_memoryLost s st hx]

/-- A page of a list that is cleared shows its After reset values, but for what the island holds. -/
theorem reg_clearPages {q : Page} {x : Nat} (hq : q.inst < instances q.blk) (hx : x < 4096) (hk : heldOffset q.blk x = false) :
    ∀ {ps : List Page} {s : State}, (∀ p ∈ ps, p.inst < instances p.blk) →
      (q ∈ ps ∨ s.reg q x = regDefault s.part (q.key x)) → (clearPages s ps).reg q x = regDefault s.part (q.key x)
  | [], s, _, h => h.resolve_left (by simp)
  | p :: ps, s, hps, h => by
    refine reg_clearPages (s := dropQueues (clearPage s p (heldOffset p.blk)) p) hq hx hk (fun r hr => hps r (by simp [hr])) ?_
    by_cases hp : p = q
    · subst hp
      have hreg := reg_clearPage s p (heldOffset p.blk) hx
      rw [if_neg (by simp [hk])] at hreg
      exact .inr hreg
    · refine h.imp (fun hm => (List.mem_cons.1 hm).resolve_left (Ne.symm hp)) fun hd => ?_
      exact (reg_clearPage_other s (heldOffset p.blk) (hps p (by simp)) hq hp hx).trans hd

theorem regDefault_domains (part : Part) : ∀ st : Fin 8, ∀ k < 7, bitAt (regDefault part ((pwrPage st).key 0x044)).toNat k = false := by
  cases part <;> decide +kernel

theorem pwrPage_mem_ctl : pwrPage st ∈ domainPages s st 7 := by
  simp [domainPages, pwrPage]

theorem domOn_controlLost {k : Nat} (hk : k < 7) : (controlLost s st).domOn st k = false := by
  have hreg := reg_clearPages (q := pwrPage st) (x := 0x044) (ps := domainPages (memoryLost s st) st 7)
    (s := domainState (memoryLost s st) st 7) Nat.one_pos (by decide) rfl (fun _ hp => (ofStack_of_domainPages hp).1)
    (.inl (pwrPage_mem_ctl ..))
  exact (congrArg (fun w : Word => bitAt w.toNat k) hreg).trans (regDefault_domains _ st k hk)

/-- That the devices lose their training is seen in their registers alone. -/
theorem same_training {α : Type} (g : Vector Stack 8 → Sparse Byte → α) :
    Same (fun s => g s.stk s.mem) (controlLost s st) (stackLost s st) := by
  rw [stackLost_eq]
  refine .foldl (fun u d => ?_) _ _
  rfl

theorem byte_training (a : Nat) : (stackLost s st).byte a = (controlLost s st).byte a :=
  same_training s st fun v m => Sparse.get (memDefault v) m a

theorem st_training : (stackLost s st).st st = (controlLost s st).st st := same_training s st fun v _ => v[st]

theorem domOn_training (k : Nat) : (stackLost s st).domOn st k = (controlLost s st).domOn st k := by
  rw [stackLost_eq]
  exact Same.foldl_mem (v := fun s : State => s.domOn st k) (controlLost s st) fun u d hd =>
    domOn_setReg u (stackPage st .mem d) (off := 0x06C) 0 st k (List.mem_range.1 hd) (by decide) (.inl (page_ne_of_blk nofun))

/-- A stack that is lost is gone (R453, R463). -/
theorem stackGone_stackLost : StackGone (stackLost s st) st := by
  obtain ⟨hclp, hseq, hsess, hfw, hmem⟩ := controlLost_spec s st
  have hst := st_training s st
  refine ⟨fun k hk => ?_, ?_, fun q => ?_, ?_, ?_, fun x hx => ?_⟩
  · rw [domOn_training s st k, domOn_controlLost s st hk]
  · rw [hst, hclp]
  · rw [State.seq, hst]
    exact hseq q
  · rw [hst, hsess]
  · rw [hst, hfw]
  · rw [byte_training, hmem x hx]

end

end Sys2Proof.Laws
end

section
/-! Resets, power failures, thermal trips and lost references (R443, R455, R457, R463, R465), and O55. -/

namespace Sys2Proof.Laws

open Machine Safety

/-! ### Stacks that are gone stay gone -/

section
variable {s t : State} {j : Fin 8}

theorem stackGone_of_same (h : StackGone s j) (hd : ∀ k < 7, t.domOn j k = s.domOn j k) (hh : Same (holding j) s t)
    (hm : ∀ x < sramSize, t.byte (sramBase j + x) = s.byte (sramBase j + x)) : StackGone t j := by
  obtain ⟨hdom, hclp, hseq, hsess, hfw, hmem⟩ := h
  simp only [Same, holding, Prod.mk.injEq] at hh
  obtain ⟨eclp, eseq, esess, efw⟩ := hh
  exact ⟨fun k hk => (hd k hk).trans (hdom k hk), eclp.trans hclp, fun q => (congrFun eseq q).trans (hseq q),
    esess.trans hsess, efw.trans hfw, fun x hx => (hm x hx).trans (hmem x hx)⟩

/-- The loss of one stack leaves another that is gone. -/
theorem stackGone_of_stackLost (h : StackGone s j) (i : Fin 8) : StackGone (stackLost s i) j := by
  by_cases hij : i = j
  · subst hij
    exact stackGone_stackLost s i
  · exact stackGone_of_same h (fun k hk => (unlost_domOn hij (by omega)).stackLost s) ((unlost_holding hij).stackLost s)
      fun x hx => (unlost_sram hij hx).stackLost s

/-- Registers of other pages than a stack's own power page are nothing that a stack loses. -/
theorem stackGone_setReg (h : StackGone s j) (p : Page) {off : Nat} (w : Word) (hp : p.inst < instances p.blk) (ho : off < 4096)
    (hd : p ≠ pwrPage j ∨ off ≠ 0x044) : StackGone (s.setReg p off w) j :=
  stackGone_of_same h (fun k _ => domOn_setReg s p w j k hp ho hd) rfl fun _ _ => rfl

theorem stackGone_modPm (h : StackGone s j) (f : PowerModule → PowerModule) : StackGone (s.modPm f) j :=
  stackGone_of_same h (fun _ _ => rfl) rfl fun _ _ => rfl

/-- Every stack of a list that loses its domains is gone. -/
theorem stackGone_losses {l : List (Fin 8)} {s : State} (h : j ∈ l ∨ StackGone s j) : StackGone (l.foldl stackLost s) j := by
  induction l generalizing s with
  | nil => exact h.resolve_left (by simp)
  | cons i l ih =>
    refine ih ?_
    by_cases hij : i = j
    · subst hij
      exact .inr (stackGone_stackLost s i)
    · exact h.imp (fun hm => (List.mem_cons.1 hm).resolve_left (Ne.symm hij)) fun hg => stackGone_of_stackLost hg i

end

theorem stackGone_allLost {s : State} {j : Fin 8} (hj : s.has j = true) : StackGone (allLost s) j :=
  stackGone_modPm (stackGone_losses (.inl (mem_stacksIn.2 hj))) _

theorem pwr_losses (s : State) (l : List (Fin 8)) : (l.foldl stackLost s).mod.pwr = s.mod.pwr :=
  Same.foldl (v := fun s : State => s.mod.pwr) (fun u i => (unlost_modulePower i).stackLost u) l s

theorem pwr_allLost (s : State) : (allLost s).mod.pwr =
    { s.mod.pwr with clocksStopped := false, below := 0, sleepSaved := [], sleepTarget := 0, sleeping := false } :=
  congrArg (fun p : PowerModule =>
    ({ p with clocksStopped := false, below := 0, sleepSaved := [], sleepTarget := 0, sleeping := false } : PowerModule))
    (pwr_losses s s.stacksIn)

theorem part_allLost (s : State) : (allLost s).part = s.part :=
  (Kept.foldl (fun u i => kept_stackLost u i) _ _ : Kept s (s.stacksIn.foldl stackLost s)).part

/-! ### A module reset (R463) -/

/-- Every mailbox of every stack as a power-on reset leaves it. -/
def boxesCleared (s : State) : State :=
  s.stacksIn.foldl (fun s i => s.modSt i fun x => { x with mbx := [], replies := [], evtSent := 0 }) s

theorem moduleReset_eq (s : State) (cause : Nat) : moduleReset s cause = setCause (boxesCleared (allLost s)) cause := rfl

theorem mbx_boxesCleared {s : State} {j : Fin 8} (hj : s.has j = true) : ((boxesCleared s).st j).mbx = [] := by
  have hl : ∀ {l : List (Fin 8)} {s : State}, (j ∈ l ∨ (s.st j).mbx = []) →
      ((l.foldl (fun s i => s.modSt i fun x => { x with mbx := [], replies := [], evtSent := 0 }) s).st j).mbx = [] := by
    intro l
    induction l with
    | nil => exact fun h => h.resolve_left (by simp)
    | cons i l ih =>
      intro s h
      refine ih ?_
      by_cases hij : i = j
      · subst hij
        rw [State.st_modSt_same]
        exact .inr rfl
      · rw [State.st_modSt, if_neg hij]
        exact h.imp_left fun hm => (List.mem_cons.1 hm).resolve_left (Ne.symm hij)
  exact hl (.inl (mem_stacksIn.2 hj))

theorem stackGone_boxesCleared {s : State} {j : Fin 8} (h : StackGone s j) : StackGone (boxesCleared s) j := by
  refine List.foldlRecOn (motive := fun u : State => StackGone u j) _ _ h fun u hu i _ => ?_
  refine stackGone_of_same hu (fun _ _ => rfl) ?_ fun x hx => byte_sram_modSt u i j _ hx
  have hproj := fun {β : Type} (g : Stack → β) hg =>
    State.st_modSt_proj u g (f := fun x => { x with mbx := [], replies := [], evtSent := 0 }) hg i j
  have hseq : ∀ q, (u.modSt i fun x => { x with mbx := [], replies := [], evtSent := 0 }).seq j q = u.seq j q := fun q =>
    hproj (fun x : Stack => x.seqs[q]) fun _ => rfl
  simp only [Same, holding, hseq]
  exact Prod.ext (hproj Stack.clp fun _ => rfl) (Prod.ext rfl (Prod.ext (hproj Stack.sess fun _ => rfl)
    (hproj (fun x => x.pwr.firmware) fun _ => rfl)))

theorem pwr_boxesCleared (s : State) : (boxesCleared s).mod.pwr = s.mod.pwr := by
  refine Same.foldl (v := fun s : State => s.mod.pwr) (fun u i => ?_) _ _
  rfl

/-- What a module reset leaves: every stack gone with its mailboxes empty, and the cause shown. -/
theorem moduleReset_spec (s : State) (cause : Nat) :
    ((∀ st : Fin 8, s.has st = true → StackGone (moduleReset s cause) st ∧ ((moduleReset s cause).st st).mbx = []) ∧
      (moduleReset s cause).reg pwrmPage 0x044 = BitVec.ofNat 32 cause) ∧
      (moduleReset s cause).mod.pwr =
        { s.mod.pwr with clocksStopped := false, below := 0, sleepSaved := [], sleepTarget := 0, sleeping := false } := by
  rw [moduleReset_eq]
  refine ⟨⟨fun st hst => ⟨?_, ?_⟩, State.reg_setReg_same ..⟩, (pwr_boxesCleared _).trans (pwr_allLost s)⟩
  · exact stackGone_setReg (stackGone_boxesCleared (stackGone_allLost hst)) pwrmPage _ Nat.one_pos (by decide)
      (.inl (page_ne_of_blk nofun))
  · refine mbx_boxesCleared (s := allLost s) ?_
    rw [State.has, part_allLost]
    exact hst

/-! ### A power-on reset (R463) -/

section
variable (s : State)

theorem regWord_powerOn (k : Nat) : regWord (powerOn s) k = if k / 8 = (bzlPage 0).key 0x058 / 8 then regWord s k else regDefault s.part k := by
  have hg := Sparse.get_keep (regDefault s.part) (fun k => k / 8 == (bzlPage 0).key 0x058 / 8) s.regs k
  simp only [beq_iff_eq] at hg
  exact hg

theorem bootCount_powerOn : bootCount (powerOn s) = bootCount s := by
  have h0 : (powerOn s).reg (bzlPage 0) 0x058 = s.reg (bzlPage 0) 0x058 := (regWord_powerOn s _).trans (if_pos rfl)
  have h1 : (powerOn s).reg (bzlPage 0) 0x05C = s.reg (bzlPage 0) 0x05C := (regWord_powerOn s _).trans (if_pos (by decide))
  show (State.reg _ (bzlPage 0) 0x058).toNat + 2 ^ 32 * (State.reg _ (bzlPage 0) 0x05C).toNat = _
  rw [h0, h1]
  rfl

theorem key_domains_apart : ∀ st : Fin 8, (pwrPage st).key 0x044 / 8 ≠ (bzlPage 0).key 0x058 / 8 := by decide

theorem st_powerOn (j : Fin 8) : (powerOn s).st j =
    { pwr := { keyEpoch := (s.st j).pwr.keyEpoch + 1, junction := (s.st j).pwr.junction }, repaired := (s.st j).repaired } :=
  Vector.getElem_map ..

theorem stackGone_powerOn (j : Fin 8) : StackGone (powerOn s) j ∧ ((powerOn s).st j).mbx = [] := by
  have hst := st_powerOn s j
  have hdom : (powerOn s).reg (pwrPage j) 0x044 = regDefault s.part ((pwrPage j).key 0x044) :=
    (regWord_powerOn s _).trans (if_neg (key_domains_apart j))
  refine ⟨⟨fun k hk => ?_, ?_, fun q => ?_, ?_, ?_, fun x hx => ?_⟩, ?_⟩
  · exact (congrArg (fun w : Word => bitAt w.toNat k) hdom).trans (regDefault_domains _ j k hk)
  · rw [hst]
  · rw [State.seq, hst]
    exact congrArg Seq.st (Vector.getElem_replicate q.isLt)
  · rw [hst]
  · rw [hst]
  · rw [byte_sram _ _ hx]
    rfl
  · rw [hst]

end

/-! ### A reset of one CTL domain (R463) -/

section
variable {s : State} {st : Fin 8}

theorem stackGone_linksFollow (h : StackGone s st) : StackGone (linksFollow s) st := by
  refine List.foldlRecOn (motive := fun u : State => StackGone u st) _ _ h fun u hu i _ => ?_
  refine List.foldlRecOn (motive := fun u : State => StackGone u st) _ _ hu fun w hw p hp => ?_
  dsimp only
  split
  · exact stackGone_setReg hw (jkPage i p) _ (List.mem_range.1 hp) (by decide) (.inl (page_ne_of_blk nofun))
  · exact hw

theorem st_linksFollow (s : State) (i : Fin 8) : (linksFollow s).st i = s.st i := by
  refine Same.foldl (v := fun s : State => s.st i) (fun u j => ?_) _ _
  refine .foldl (fun w p => ?_) _ _
  exact .ite rfl (.refl w)

/-- What a reset of a stack's CTL domain leaves: the stack gone; with stack 0 every stack and the cause, else the Clasps of the
others. -/
def CtlGone (s t : State) (st : Fin 8) : Prop :=
  StackGone t st ∧ (st = 0 → t.reg pwrmPage 0x044 = 2 ∧ ∀ i : Fin 8, s.has i = true → StackGone t i) ∧
    (st ≠ 0 → ∀ i : Fin 8, i ≠ st → (t.st i).clp = (s.st i).clp)

theorem ctlGone_ctlReset (hs : s.has st = true) : CtlGone s (ctlReset s st) st := by
  by_cases h0 : st = 0
  · subst h0
    have hall : ∀ i : Fin 8, s.has i = true → StackGone (ctlReset s 0) i := fun i hi => by
      rw [ctlReset, if_pos rfl]
      exact stackGone_setReg (stackGone_allLost hi) pwrmPage _ Nat.one_pos (by decide) (.inl (page_ne_of_blk nofun))
    refine ⟨hall 0 hs, fun _ => ⟨?_, hall⟩, fun h => absurd rfl h⟩
    rw [ctlReset, if_pos rfl]
    exact State.reg_setReg_same ..
  · rw [ctlReset, if_neg h0]
    refine ⟨stackGone_linksFollow (stackGone_stackLost s st), fun h => absurd h h0, fun _ i hi => ?_⟩
    rw [st_linksFollow]
    exact congrArg Prod.fst ((unlost_holding (Ne.symm hi)).stackLost s)

end

theorem part_recordFault (s : State) (p : Page) (cls det info addr : Nat) : (recordFault s p cls det info addr).part = s.part :=
  (kept_recordFault ..).part

section
variable {s : State} {st : Fin 8} (hs : s.has st = true)
include hs

theorem exec_pwrCtlReset {r : Requester} (hmay : mayWrite s r (pwrPage st) 0x058 = true) (hh : s.mod.pwr.resetHeld = false)
    (ht : s.mod.pwr.thermtripN = false) : exec (.pwrCtlReset r st) s = .next (ctlReset s st) := by
  show execPwrCtlReset r st s = _
  rw [execPwrCtlReset, if_pos hs, asked, if_pos hmay, if_neg (by simp [hh, ht])]

theorem exec_pllLock (die : Bool) (hd : s.domOn st 7 = true) (hr : s.mod.pwr.refclkLost = false) : exec (.pllLock st die) s =
    .next (ctlReset (recordFault s (pwrPage st) 0x0B 0x04 (if die then 1 else 2) 0) st) := by
  show execPllLock st die s = _
  rw [execPllLock, if_pos hs, if_neg (by simp [hd, hr])]

/-- A lost lock is recorded, which leaves the Clasps; then the stack's CTL domain is reset (R457). -/
theorem ctlGone_pllLock (info : Nat) : CtlGone s (ctlReset (recordFault s (pwrPage st) 0x0B 0x04 info 0) st) st := by
  have hpart := part_recordFault s (pwrPage st) 0x0B 0x04 info 0
  have hhas : ∀ i : Fin 8, (recordFault s (pwrPage st) 0x0B 0x04 info 0).has i = s.has i := fun i => by rw [State.has, hpart]; rfl
  obtain ⟨hgone, hall, hclp⟩ := ctlGone_ctlReset (s := recordFault s (pwrPage st) 0x0B 0x04 info 0) ((hhas st).trans hs)
  exact ⟨hgone, fun h0 => ⟨(hall h0).1, fun i hi => (hall h0).2 i ((hhas i).trans hi)⟩,
    fun h0 i hi => (hclp h0 i hi).trans (clp_recordFault s rfl ..)⟩

end

/-! ### A power failure (R443, R455) -/

/-- The part once a failure stops its clocks, with the comparator's bit shown. -/
def stopped (s : State) (under : Bool) : State :=
  (s.setFlag pwrmPage 0x058 (bit under) true).modPm fun p => { p with clocksStopped := true }

/-- The payload of the PWRFAIL record. -/
def failPayload (s : State) (under : Bool) : List Byte :=
  leBytes (bit under) 8 ++ leBytes (s.st 0).clp.step.toNat 8 ++ leBytes (s.st 0).clp.committed.toNat 8

theorem exec_powerFail (s : State) (under : Bool) : exec (.powerFail under) s = .next (
    if s.mod.pwr.clocksStopped then s.setFlag pwrmPage 0x058 (bit under) true
    else recordFirst (stopped s under) lktPage.source 0 0x8003 (failPayload s under)) := rfl

theorem bit_lt (b : Bool) : bit b < 2 := by cases b <;> decide

theorem mod_storeRecord (s : State) (r : RecReq) : (storeRecord s r).mod = { s.mod with lkt := recordStored s r } := by
  have hm : ∀ u : State, Same State.mod u (if r.code = 0x8003 then raiseEvt u lktPage 6 else u) := fun u =>
    .ite (mod_raiseEvt ..) (.refl u)
  exact Eq.trans (hm _) (mod_raiseEvt ((s.modLkt fun _ => recordStored s r).countWrap lktPage 0x060) lktPage 3)

theorem reg_storeRecord_apart (s : State) (r : RecReq) (q : Page) {x : Nat} (h : x % 4096 ≠ 0x044) (h' : x % 4096 ≠ 0x010)
    (h'' : x % 4096 ≠ 0x060) : (storeRecord s r).reg q x = s.reg q x := by
  have hc : ((s.modLkt fun _ => recordStored s r).countWrap lktPage 0x060).reg q x = s.reg q x := reg_setReg_apart _ _ _ _ h''
  have he := (reg_raiseEvt_apart ((s.modLkt fun _ => recordStored s r).countWrap lktPage 0x060) lktPage q 3 h h').trans hc
  refine Eq.trans ?_ he
  show (if r.code = 0x8003 then raiseEvt _ lktPage 6 else _).reg q x = _
  split
  · exact reg_raiseEvt_apart _ _ _ _ h h'
  · rfl

section
variable (s : State) (src : Source) (home : Fin 8) (code : Nat) (payload : List Byte)

theorem recordFirst_of_ready (h : locketReady s = true) : recordFirst s src home code payload =
    storeRecord s.now.2 (makeRequest s src 0 home code payload).1 := if_pos h

/-- The record of a failure leaves memory, the registers beside the Locket's own, and of the module's part all but the Locket. -/
theorem recordFirst_spec : Same State.byte s (recordFirst s src home code payload) ∧
    (recordFirst s src home code payload).mod.pwr = s.mod.pwr ∧
      ∀ (q : Page) (x : Nat), x % 4096 ≠ 0x044 → x % 4096 ≠ 0x010 → x % 4096 ≠ 0x060 →
        (recordFirst s src home code payload).reg q x = s.reg q x := by
  by_cases hr : locketReady s = true
  · rw [recordFirst_of_ready _ _ _ _ _ hr]
    refine ⟨Same.trans (t := s.now.2) rfl (sameByte_storeRecord ..), ?_, fun q x h h' h'' => reg_storeRecord_apart _ _ _ h h' h''⟩
    rw [mod_storeRecord]
    rfl
  · rw [recordFirst, if_neg hr]
    exact ⟨.refl s, rfl, fun _ _ _ _ _ => rfl⟩

/-- Where the Locket may write, the record of a failure is the newest, and stops it. -/
theorem recordFirst_stops (h : locketReady s = true) :
    let l := (recordFirst s src home 0x8003 payload).mod.lkt
    l.stopped = true ∧ l.last = s.mod.lkt.next ∧ leNat (slice (slotBytes (l.slot s.mod.lkt.next.toNat)) 28 2) = 0x8003 := by
  have hslot := slot_recordStored_next s.now.2 (makeRequest s src 0 home 0x8003 payload).1
  rw [recordFirst_of_ready _ _ _ _ _ h, lkt_storeRecord]
  refine ⟨?_, rfl, (congrArg (fun v => leNat (slice (slotBytes v) 28 2)) hslot).trans (code_makeRecord ..)⟩
  exact Bool.or_eq_true_iff.2 (.inr rfl)

end

/-- What a power failure leaves of a part whose clocks ran (R443, R455). -/
theorem powerFail_spec (s : State) (under : Bool) :
    let t := recordFirst (stopped s under) lktPage.source 0 0x8003 (failPayload s under)
    t.mod.pwr.clocksStopped = true ∧ t.flag pwrmPage 0x058 (bit under) = true ∧ MemoryKept s t ∧
      (locketReady s = true → t.mod.lkt.stopped = true ∧ t.mod.lkt.last = s.mod.lkt.next ∧
        leNat (slice (slotBytes (t.mod.lkt.slot s.mod.lkt.next.toNat)) 28 2) = 0x8003) := by
  intro t
  obtain ⟨hb, hp, hreg⟩ := recordFirst_spec (stopped s under) lktPage.source 0 0x8003 (failPayload s under)
  have hready : locketReady (stopped s under) = locketReady s := by
    have hd : (stopped s under).domOn 0 7 = s.domOn 0 7 :=
      domOn_setReg s pwrmPage _ 0 7 Nat.one_pos (by decide) (.inl (page_ne_of_blk nofun))
    rw [locketReady, hd]
    rfl
  have hlt := bit_lt under
  refine ⟨congrArg PowerModule.clocksStopped hp, ?_, fun a => congrFun hb a, fun h => recordFirst_stops _ _ _ _ (hready.trans h)⟩
  rw [State.flag, hreg pwrmPage 0x058 (by decide) (by decide) (by decide)]
  exact State.flag_setFlag_same s pwrmPage 0x058 true (by omega)

/-! ### A thermal trip (R465) -/

/-- The part once a trip stops its clocks, with its temperature and THERMTRIP_N shown. -/
def tripped (s : State) (st : Fin 8) (quarterC : Int) : State :=
  ((measureTemp s st quarterC).setFlag pwrmPage 0x058 6 true).modPm fun x => { x with thermtripN := true, clocksStopped := true }

/-- The trip recorded on its page and in the Locket. -/
def tripRecorded (s : State) (st : Fin 8) (quarterC : Int) : State :=
  let s2 := pageFault (tripped s st quarterC) (pwrPage st) 0x0B 0x02 (tempBits quarterC) 0
  recordFirst s2 (pwrPage st).source (pwrPage st).home 0x0B02 (faultPayload s2 (pwrPage st) (tempBits quarterC) 0)

/-- A stack that a trip powers down. -/
def tripDown (s : State) (i : Fin 8) : State := (stackLost s i).setReg (pwrPage i) 0x044 0

theorem thermTrip_eq (s : State) (st : Fin 8) (quarterC : Int) : thermTrip s st quarterC =
    ((tripRecorded s st quarterC).stacksIn.foldl tripDown (tripRecorded s st quarterC)).setFlag pwrmPage 0x044 10 true := rfl

/-- A stack that is gone with its CTL domain off. -/
def StackOff (s : State) (j : Fin 8) : Prop := StackGone s j ∧ s.domOn j 7 = false

theorem stackOff_setReg {s : State} {j : Fin 8} (h : StackOff s j) (p : Page) {off : Nat} (w : Word) (hp : p.inst < instances p.blk)
    (ho : off < 4096) (hd : p ≠ pwrPage j ∨ off ≠ 0x044) : StackOff (s.setReg p off w) j :=
  ⟨stackGone_setReg h.1 p w hp ho hd, (domOn_setReg s p w j 7 hp ho hd).trans h.2⟩

theorem stackOff_of_gone {s : State} {i : Fin 8} (h : StackGone s i) : StackOff (s.setReg (pwrPage i) 0x044 0) i := by
  have hreg : (s.setReg (pwrPage i) 0x044 0).reg (pwrPage i) 0x044 = 0 := State.reg_setReg_same ..
  have hoff : ∀ k, (s.setReg (pwrPage i) 0x044 0).domOn i k = false := fun k =>
    (congrArg (fun w : Word => bitAt w.toNat k) hreg).trans (Nat.zero_testBit k)
  exact ⟨stackGone_of_same h (fun k hk => (hoff k).trans (h.1 k hk).symm) rfl fun _ _ => rfl, hoff 7⟩

theorem stackOff_tripDown_same (s : State) (i : Fin 8) : StackOff (tripDown s i) i := stackOff_of_gone (stackGone_stackLost s i)

theorem stackOff_tripDown_other {s : State} {i j : Fin 8} (hij : i ≠ j) (h : StackOff s j) : StackOff (tripDown s i) j := by
  have hl : StackOff (stackLost s i) j :=
    ⟨stackGone_of_stackLost h.1 i, Eq.trans ((unlost_domOn hij (by decide : 7 < 8)).stackLost s) h.2⟩
  exact stackOff_setReg hl (pwrPage i) 0 Nat.one_pos (by decide) (.inl fun e => hij (Fin.ext (congrArg Page.stk e)))

theorem stackOff_trips {j : Fin 8} {l : List (Fin 8)} {s : State} (h : j ∈ l ∨ StackOff s j) : StackOff (l.foldl tripDown s) j := by
  induction l generalizing s with
  | nil => exact h.resolve_left (by simp)
  | cons i l ih =>
    refine ih ?_
    by_cases hij : i = j
    · subst hij
      exact .inr (stackOff_tripDown_same s i)
    · exact h.imp (fun hm => (List.mem_cons.1 hm).resolve_left (Ne.symm hij)) fun ho => stackOff_tripDown_other hij ho

theorem pwr_tripDown (s : State) (i : Fin 8) : (tripDown s i).mod.pwr = s.mod.pwr := by
  rw [tripDown, State.setReg_mod]
  exact (unlost_modulePower i).stackLost s

theorem reg_setReg_page (s : State) {p q : Page} (h : p.blk ≠ q.blk) (off : Nat) (w : Word) {x : Nat} (hp : p.inst < instances p.blk)
    (hq : q.inst < instances q.blk) (ho : off < 4096) (hx : x < 4096) : (s.setReg p off w).reg q x = s.reg q x := by
  rw [State.reg_setReg, if_neg fun e => h (congrArg Page.blk (key_inj hq hp hx ho e).1).symm]

/-- The comparators' register, which the island holds (R463), is nothing that a stack loses. -/
theorem unlost_comparators (i : Fin 8) : Unlost i fun s => s.reg pwrmPage 0x058 where
  stack _ _ := rfl
  seq _ _ _ _ _ := rfl
  stream s n := by
    have hend : (endStream s i n).reg pwrmPage 0x058 = s.reg pwrmPage 0x058 :=
      reg_locketRequest_apart _ _ _ _ _ _ _ (by decide) (by decide) (by decide)
    refine Eq.trans (reg_recordFault_apart _ _ _ _ _ _ _ rfl (by decide)) ?_
    exact (reg_setReg_apart _ _ _ _ (by decide)).trans hend
  panel _ _ _ := rfl
  sram _ := rfl
  key _ := rfl
  page s p hp := by
    by_cases e : p = pwrmPage
    · subst e
      exact (reg_clearPage s pwrmPage (heldOffset .pwrm) (by decide)).trans (if_pos rfl)
    · exact reg_clearPage_other s (heldOffset p.blk) hp.1 Nat.one_pos e (by decide)
  queues _ _ := rfl
  train s d _ := reg_setReg_apart _ _ _ _ (by decide)
  primary _ := rfl

theorem part_tripRecorded (s : State) (st : Fin 8) (quarterC : Int) : (tripRecorded s st quarterC).part = s.part := by
  have hr : ∀ (u : State) src home code payload, (recordFirst u src home code payload).part = u.part := fun u src home code payload =>
    (kept_recordFirst u src home code payload).part
  have hf : ∀ u : State, (pageFault u (pwrPage st) 0x0B 0x02 (tempBits quarterC) 0).part = u.part := fun u =>
    (kept_pageFault ..).part
  exact (hr ..).trans ((hf _).trans rfl)

/-- The trip shows itself in the module's part and its comparators. -/
theorem tripRecorded_spec (s : State) (st : Fin 8) (quarterC : Int) :
    (tripRecorded s st quarterC).mod.pwr = { s.mod.pwr with thermtripN := true, clocksStopped := true } ∧
      (tripRecorded s st quarterC).flag pwrmPage 0x058 6 = true := by
  obtain ⟨-, hp, hreg⟩ := recordFirst_spec (pageFault (tripped s st quarterC) (pwrPage st) 0x0B 0x02 (tempBits quarterC) 0)
    (pwrPage st).source (pwrPage st).home 0x0B02
    (faultPayload (pageFault (tripped s st quarterC) (pwrPage st) 0x0B 0x02 (tempBits quarterC) 0) (pwrPage st) (tempBits quarterC) 0)
  have hf : Same (fun s => s.mod.pwr) (tripped s st quarterC) (pageFault (tripped s st quarterC) (pwrPage st) 0x0B 0x02 (tempBits quarterC) 0) :=
    unlogged_modulePower.pageFault ..
  refine ⟨hp.trans hf, ?_⟩
  rw [State.flag, tripRecorded, hreg pwrmPage 0x058 (by decide) (by decide) (by decide), reg_pageFault_apart _ _ _ _ _ _ _ (by decide)]
  exact State.flag_setFlag_same (measureTemp s st quarterC) pwrmPage 0x058 true (by decide)

/-- What a trip leaves: the clocks stopped, the trip and its cause shown, and every stack off. -/
theorem thermTrip_spec (s : State) (st : Fin 8) (quarterC : Int) :
    let t := thermTrip s st quarterC
    t.mod.pwr.thermtripN = true ∧ t.mod.pwr.clocksStopped = true ∧ t.flag pwrmPage 0x058 6 = true ∧
      t.flag pwrmPage 0x044 10 = true ∧ ∀ i : Fin 8, s.has i = true → StackGone t i ∧ t.domOn i 7 = false := by
  intro t
  obtain ⟨hp, hflag⟩ := tripRecorded_spec s st quarterC
  let u := tripRecorded s st quarterC
  let w := u.stacksIn.foldl tripDown u
  have ht : t = w.setFlag pwrmPage 0x044 10 true := thermTrip_eq s st quarterC
  have hpw : w.mod.pwr = u.mod.pwr := Same.foldl (v := fun s : State => s.mod.pwr) pwr_tripDown _ _
  have hcmp : w.reg pwrmPage 0x058 = u.reg pwrmPage 0x058 :=
    Same.foldl (v := fun s : State => s.reg pwrmPage 0x058) (fun v i =>
      (reg_setReg_apart _ _ _ _ (by decide)).trans ((unlost_comparators i).stackLost v)) _ _
  rw [ht, State.setFlag_mod, hpw, hp]
  refine ⟨rfl, rfl, ?_, State.flag_setFlag_same _ _ _ _ (by decide), fun i hi => ?_⟩
  · rw [State.flag, reg_setFlag_apart _ _ _ _ _ (by decide), hcmp]
    exact hflag
  · have hin : i ∈ u.stacksIn := mem_stacksIn.2 (by rw [State.has, part_tripRecorded]; exact hi)
    exact stackOff_setReg (stackOff_trips (.inl hin)) pwrmPage _ Nat.one_pos (by decide) (.inl (page_ne_of_blk nofun))

/-! ### Alerts (R465) -/

theorem tempBits_lt (quarterC : Int) : tempBits quarterC < 1024 := (BitVec.ofInt 10 quarterC).isLt

theorem flag_recordPlain_of_flag {s : State} {q : Page} {n : Nat} (h : s.flag q 0x010 n = true) (p : Page) (cls det info addr : Nat)
    (tears : Bool) : (recordPlain s p cls det info addr tears).flag q 0x010 n = true := by
  have hf : (pageFault s p cls det info addr).flag q 0x010 n = true := by
    refine flag_raiseEvt_of_flag _ _ _ (by decide) ?_
    rwa [State.flag, State.setPair, reg_setReg_apart _ _ _ _ (by decide), reg_setReg_apart _ _ _ _ (by decide),
      reg_setReg_apart _ _ _ _ (by decide), reg_setReg_apart _ _ _ _ (by decide)]
  unfold recordPlain
  dsimp only
  split
  · exact flag_locketRequest_of_flag hf ..
  · exact hf

theorem flag_recordFault_of_flag {s : State} {q : Page} {n : Nat} (h : s.flag q 0x010 n = true) {p : Page} (he : isEngine p.blk = false)
    (cls det info addr : Nat) : (recordFault s p cls det info addr).flag q 0x010 n = true := by
  rw [recordFault, if_neg (by simp [he])]
  exact flag_recordPlain_of_flag h ..

/-- The alert: the temperature and the comparator shown, the event raised. -/
def alerted (s : State) (st : Fin 8) (quarterC : Int) : State :=
  raiseEvt ((measureTemp s st quarterC).setFlag pwrmPage 0x058 5 true) (pwrPage st) 4

theorem exec_thermAlert {s : State} {st : Fin 8} {quarterC : Int} (hs : s.has st = true)
    (h : 4 * (s.fld pwrmPage 0x064 7 0 : Int) ≤ quarterC) : exec (.thermAlert st quarterC) s =
      .next (recordFault (alerted s st quarterC) (pwrPage st) 0x0B 0x01 (tempBits quarterC) 0) := by
  show execThermAlert st quarterC s = _
  rw [execThermAlert, if_pos hs]
  exact congrArg Host.Outcome.next (if_neg (by omega))

theorem sameByte_measureTemp (s : State) (st : Fin 8) (quarterC : Int) : Same State.byte s (measureTemp s st quarterC) := by
  unfold measureTemp State.modPwr
  exact funext fun a => State.byte_modSt (s.setReg (pwrPage st) 0x050 _) st (by intro; rfl) a

theorem alerted_spec (s : State) (st : Fin 8) (quarterC : Int) :
    let t := recordFault (alerted s st quarterC) (pwrPage st) 0x0B 0x01 (tempBits quarterC) 0
    t.flag pwrmPage 0x058 5 = true ∧ t.fld (pwrPage st) 0x020 15 0 = 0x0B01 ∧ t.flag (pwrPage st) 0x010 4 = true ∧
      (t.reg (pwrPage st) 0x050).toNat = tempBits quarterC ∧ MemoryKept s t := by
  intro t
  have hreg : ∀ (q : Page) (x : Nat), (∀ off ∈ [0x010, 0x020, 0x024, 0x028, 0x02C, 0x044, 0x064], x % 4096 ≠ off) →
      t.reg q x = ((measureTemp s st quarterC).setFlag pwrmPage 0x058 5 true).reg q x := fun q x hx => by
    rw [show t = _ from rfl, reg_recordFault_apart _ _ _ _ _ _ _ rfl hx]
    exact reg_raiseEvt_apart _ _ _ _ (hx 0x044 (by simp)) (hx 0x010 (by simp))
  have hmem : Same State.byte s ((measureTemp s st quarterC).setFlag pwrmPage 0x058 5 true) :=
    (sameByte_measureTemp s st quarterC).trans rfl
  have hlt := tempBits_lt quarterC
  refine ⟨?_, fld_recordFault_of_plain _ _ _ _ _ _ rfl (by decide) (by decide),
    flag_recordFault_of_flag (flag_raiseEvt _ _ _ (by decide)) rfl .., ?_, fun a => ?_⟩
  · rw [State.flag, hreg _ _ (by decide)]
    exact State.flag_setFlag_same (measureTemp s st quarterC) pwrmPage 0x058 true (by decide)
  · rw [hreg _ _ (by decide), reg_setFlag_apart _ _ _ _ _ (by decide)]
    exact (congrArg BitVec.toNat (State.reg_setReg_same s (pwrPage st) 0x050 _)).trans (Nat.mod_eq_of_lt (by omega))
  · exact congrFun (hmem.trans (Same.trans (unlogged_byte.raiseEvt ..) (unlogged_byte.recordFault ..))) a

/-! ### A lost reference (R457) -/

section
variable (s : State) (st j : Fin 8) (n m : Fin 2)

theorem port_modPort_other (f : NetPort → NetPort) (h : ¬(j = st ∧ m = n)) :
    (s.modPort st n.val f).port j m.val = s.port j m.val := by
  by_cases hj : st = j
  · subst hj
    have hne : n.val ≠ m.val := fun e => h ⟨rfl, Fin.ext e.symm⟩
    simp [State.modPort, State.port, n.isLt, m.isLt, Vector.getElem_set_ne, hne]
  · refine port_congr (congrArg Stack.ports ?_) m.val
    rw [State.modPort, dif_pos n.isLt, st_modSt_apart hj]

/-- A link that is down stays down when one is dropped. -/
theorem linkDown_linkDrop (k : Fin 4) {l : Nat} (h : linkIsUp s j m.val l = false) : linkIsUp (linkDrop s st n.val k.val) j m.val l = false := by
  by_cases he : j = st ∧ m = n
  · obtain ⟨rfl, rfl⟩ := he
    rw [linkIsUp_linkDrop, h, Bool.false_and]
  · by_cases hu : linkIsUp s st n.val k.val = true
    · rw [linkDrop_of_up s st n k hu, linkIsUp, port_raiseEvt _ _ rfl n.isLt, port_recordFault _ _ rfl n.isLt, port_modPort_other _ _ _ _ _ _ he]
      exact h
    · rwa [linkDrop_of_down s st n k (by simpa using hu)]

theorem linkDown_portDrop {l : Nat} (h : linkIsUp s j m.val l = false) : linkIsUp (portDrop s st n.val) j m.val l = false :=
  linkDown_linkDrop _ st j n m 3 (linkDown_linkDrop _ st j n m 2 (linkDown_linkDrop _ st j n m 1 (linkDown_linkDrop _ st j n m 0 h)))

/-- Both ports of a stack dropped. -/
def portsDropped : State := portDrop (portDrop s st 0) st 1

theorem linkDown_portsDropped_same {l : Nat} (hl : l < 4) : linkIsUp (portsDropped s st) st m.val l = false := by
  obtain rfl | rfl : m = 0 ∨ m = 1 := by omega
  · exact linkDown_portDrop _ st st 1 0 ((portDrop_down s st 0).1 l hl)
  · exact (portDrop_down (portDrop s st 0) st 1).1 l hl

theorem linkDown_portsDropped {l : Nat} (h : linkIsUp s j m.val l = false) : linkIsUp (portsDropped s st) j m.val l = false :=
  linkDown_portDrop _ st j 1 m (linkDown_portDrop s st j 0 m h)

end

/-- No link of a stack whose ports are dropped is up. -/
theorem linksDown_of_drops {j : Fin 8} {m : Fin 2} {k : Nat} (hk : k < 4) {l : List (Fin 8)} {s : State}
    (h : j ∈ l ∨ linkIsUp s j m.val k = false) : linkIsUp (l.foldl portsDropped s) j m.val k = false := by
  induction l generalizing s with
  | nil => exact h.resolve_left (by simp)
  | cons i l ih =>
    refine ih ?_
    by_cases hij : i = j
    · subst hij
      exact .inr (linkDown_portsDropped_same s i m hk)
    · exact h.imp (fun hm => (List.mem_cons.1 hm).resolve_left (Ne.symm hij)) fun ho => linkDown_portsDropped s i j m ho

section
variable {α : Type} {v : State → α} (hv : Unlogged v) (hp : ∀ s i n f, Same v s (s.modPort i n f)) (s : State) (st : Fin 8)
include hv hp

theorem Unlogged.linkDrop (n k : Nat) : Same v s (linkDrop s st n k) := by
  unfold Machine.linkDrop
  split
  · exact (hp ..).trans (hv.recordFault ..) |>.trans (hv.raiseEvt ..)
  · exact .refl s

theorem Unlogged.portDrop (n : Nat) : Same v s (portDrop s st n) := .foldl (fun u k => hv.linkDrop hp u st n k) _ _

theorem Unlogged.portsDropped : Same v s (portsDropped s st) := (hv.portDrop hp s st 0).trans (hv.portDrop hp _ st 1)

end

theorem exec_refclkLoss_eth (s : State) : exec (.refclkLoss true) s = .next (recordFault
    (s.stacksIn.foldl portsDropped (s.modPm fun p => { p with ethRefclkLost := true })) pwrmPage 0x0B 0x05 2 0) := rfl

theorem sameByte_modPort (s : State) (i : Fin 8) (n : Nat) (f : NetPort → NetPort) : Same State.byte s (s.modPort i n f) := by
  unfold State.modPort
  split
  · exact funext fun a => State.byte_modSt s i (by intro; rfl) a
  · exact .refl s

theorem refclkLoss_spec (s : State) :
    let t := recordFault (s.stacksIn.foldl portsDropped (s.modPm fun p => { p with ethRefclkLost := true })) pwrmPage 0x0B 0x05 2 0
    t.mod.pwr.ethRefclkLost = true ∧ t.fld pwrmPage 0x020 15 0 = 0x0B05 ∧
      (∀ (st : Fin 8) (p : Fin 2) (l : Fin 4), s.has st = true → linkIsUp t st p.val l.val = false) ∧ MemoryKept s t := by
  intro t
  let u := s.stacksIn.foldl portsDropped (s.modPm fun p => { p with ethRefclkLost := true })
  have hpwr : t.mod.pwr = { s.mod.pwr with ethRefclkLost := true } := by
    refine Eq.trans (unlogged_modulePower.recordFault u ..) ?_
    exact Same.foldl (v := fun s : State => s.mod.pwr) (fun v i => unlogged_modulePower.portsDropped (fun s i n f => by
      unfold State.modPort; split <;> rfl) v i) _ _
  refine ⟨congrArg PowerModule.ethRefclkLost hpwr, fld_recordFault_of_plain _ _ _ _ _ _ rfl (by decide) (by decide), fun st p l hst => ?_,
    fun a => ?_⟩
  · have hport : t.port st p.val = u.port st p.val :=
      port_congr ((keptBut_recordFault u (p := pwrmPage) 0x0B 0x05 2 0 Nat.one_pos).kind .ports (by decide) st) p.val
    rw [linkIsUp, hport]
    exact linksDown_of_drops l.isLt (.inl (mem_stacksIn.2 hst))
  · refine congrFun (Same.trans (Same.foldl (fun v i => unlogged_byte.portsDropped sameByte_modPort v i) _ _) (unlogged_byte.recordFault u ..)) a

end Sys2Proof.Laws
end

section
open Sys2Proof Machine Safety Laws

/-- Settles O55: what a stack loses with its domains, one stack after another; the records and the registers that the island holds
stand beside it. -/
theorem resetCommands : Obligations.ResetCommands := by
  refine ⟨fun s => ?powerOn, fun s => ?module, fun s st hs => ?stack, fun s under => ?fail, fun s st quarterC hs => ?thermal,
    fun s => ?reference⟩
  case powerOn =>
    exact ⟨_, rfl, fun k hk => (regWord_powerOn s k).trans (if_neg hk), bootCount_powerOn s, stackGone_powerOn s, rfl, rfl, rfl, rfl, rfl,
      rfl, rfl, rfl⟩
  case module =>
    obtain ⟨hone, hpone⟩ := moduleReset_spec (s.modPm fun p => { p with resetHeld := true }) 1
    obtain ⟨hcool, hpcool⟩ := moduleReset_spec
      (((s.modPm fun p => { p with resetHeld := true }).modPm fun p => { p with thermtripN := false }).setFlag pwrmPage 0x058 6 false) 0x401
    obtain ⟨hfail, hpfail⟩ := moduleReset_spec (s.setFld pwrmPage 0x058 1 0 0) 0x101
    obtain ⟨href, hpref⟩ := moduleReset_spec (s.modPm fun p => { p with refclkLost := false }) 0x301
    refine ⟨fun ht => ⟨_, ?_, hone, congrArg PowerModule.resetHeld hpone⟩, fun ht => ⟨fun hall => ⟨_, ?_, hcool, congrArg PowerModule.thermtripN hpcool⟩,
      fun hall => ⟨s.modPm fun p => { p with resetHeld := true }, ?_, rfl, ht, rfl⟩⟩, ⟨_, rfl, rfl⟩, fun hc ht => ⟨_, ?_, hfail, congrArg PowerModule.clocksStopped hpfail⟩,
      fun hr ht => ⟨_, ?_, href, congrArg PowerModule.refclkLost hpref⟩⟩
    · exact congrArg Host.Outcome.next (if_neg (by simp [ht]))
    · exact congrArg Host.Outcome.next ((if_pos ht).trans (if_pos hall))
    · exact congrArg Host.Outcome.next ((if_pos ht).trans (if_neg (by simp [hall])))
    · exact congrArg Host.Outcome.next (if_pos ⟨hc, ht⟩)
    · exact congrArg Host.Outcome.next ((if_pos hr).trans (if_neg (by simp [ht])))
  case stack =>
    exact ⟨fun r hmay hh ht => ⟨_, exec_pwrCtlReset hs hmay hh ht, ctlGone_ctlReset hs⟩,
      fun die hd hr => ⟨_, exec_pllLock hs die hd hr, ctlGone_pllLock hs _⟩⟩
  case fail =>
    refine ⟨fun hc => ⟨_, (exec_powerFail s under).trans (congrArg _ (if_neg (by simp [hc]))), powerFail_spec s under⟩,
      fun hc => ⟨_, (exec_powerFail s under).trans (congrArg _ (if_pos hc)), rfl⟩⟩
  case thermal =>
    refine ⟨fun h => ⟨_, exec_thermAlert hs h, alerted_spec s st quarterC⟩, fun h ht => ⟨thermTrip s st quarterC, ?_, thermTrip_spec s st quarterC⟩⟩
    show execThermtrip st quarterC s = _
    rw [execThermtrip, if_pos hs, if_neg (not_or_intro (by omega) (by simp [ht]))]
  case reference =>
    exact ⟨⟨_, rfl, rfl⟩, ⟨_, rfl, rfl⟩, ⟨_, exec_refclkLoss_eth s, refclkLoss_spec s⟩, ⟨_, rfl, rfl⟩⟩

end

section
/-! The domains of a stack and their changes (R452, R453): what a bell, a quiesce and a change of one domain leave of another. -/

namespace Sys2Proof.Laws

open Machine Safety

/-! ### The flags of a register -/

section
variable {s : State} {p q : Page}

/-- A flag that is set stays set where another is. -/
theorem flag_setFlag_of_flag {off x n m : Nat} (hn : n < 32) (h : s.flag q x m = true) : (s.setFlag p off n true).flag q x m = true := by
  by_cases e : q.key x = p.key off
  · have hk : ∀ t : State, t.reg q x = t.reg p off := fun t => by simp only [State.reg, e]
    simp only [State.flag, hk] at h ⊢
    by_cases hm : m = n
    · subst hm
      exact State.flag_setFlag_same s p off true hn
    · exact (State.flag_setFlag_beside s p off true hn hm).trans h
  · simpa only [State.flag, State.setFlag, State.setFld, State.reg_setReg, if_neg e] using h

theorem flag_setFlag_page {off x : Nat} (n : Nat) (b : Bool) (m : Nat) (hp : p.inst < instances p.blk) (hq : q.inst < instances q.blk)
    (ho : off < 4096) (hx : x < 4096) (h : q ≠ p ∨ x ≠ off) : (s.setFlag p off n b).flag q x m = s.flag q x m := by
  rw [State.flag, State.setFlag, State.setFld, State.reg_setReg, if_neg]
  · rfl
  · intro e
    obtain ⟨rfl, rfl⟩ := key_inj hq hp hx ho e
    exact h.elim (· rfl) (· rfl)

/-- A flag of a power page that a bell does not clear: the bit that wakes a CTL domain is only set. -/
theorem flag_raiseEvt_of_domFlag {st : Fin 8} {m : Nat} (p : Page) (n : Nat) (hp : p.inst < instances p.blk)
    (h : s.flag (pwrPage st) 0x044 m = true) : (raiseEvt s p n).flag (pwrPage st) 0x044 m = true := by
  have hevt : ∀ {u : State} (r : Page) (k : Nat), r.inst < instances r.blk → u.flag (pwrPage st) 0x044 m = true →
      (setEvt u r k).flag (pwrPage st) 0x044 m = true := fun r k hr hu =>
    (flag_setFlag_page k true m hr Nat.one_pos (by decide) (by decide) (.inr (by decide))).trans hu
  have hwake : ∀ {u : State} (i : Fin 8) (b : Nat), u.flag (pwrPage st) 0x044 m = true → (wakeBox u i b).flag (pwrPage st) 0x044 m = true :=
    fun i b hu => by
      unfold wakeBox
      split
      · exact flag_setFlag_of_flag (by decide) hu
      · exact hu
  have hring : ∀ {u : State} (i : Fin 8) (b : Nat) (w : Word), b < 64 → u.flag (pwrPage st) 0x044 m = true →
      (ringBits u i b w).flag (pwrPage st) 0x044 m = true := fun i b w hb hu => by
    have hi : b / 16 < 4 := by omega
    dsimp only [ringBits]
    split
    · refine hwake _ _ ?_
      split
      · exact hevt _ _ hi hu
      · exact hu
    · split
      · exact hevt _ _ hi hu
      · exact hu
  have hset := hevt p n hp h
  unfold raiseEvt lineRise ringLine
  dsimp only
  split
  · split
    · exact hset
    · split
      · exact hring _ _ _ (bitsOf_lt _ 5 0) hset
      · exact hset
  · exact hset

end

/-! ### The domains that are ON -/

section
variable (s : State) (i j : Fin 8) {k : Nat} (hk : k < 8)
include hk

theorem domOn_raiseEvt (p : Page) (n : Nat) (hp : p.inst < instances p.blk) : (raiseEvt s p n).domOn j k = s.domOn j k :=
  (unrecorded_domOn j hk).toUnrung.raiseEvt (domOn_setReg s p _ j k hp (by decide) (.inr (by decide)))

omit hk in
theorem domOn_setFlag {n : Nat} (b : Bool) (hn : n < 32) (hkn : k ≠ n) : (s.setFlag (pwrPage i) 0x044 n b).domOn j k = s.domOn j k := by
  by_cases hij : pwrPage j = pwrPage i
  · rw [State.domOn, State.domOn, ← pwrPage, hij]
    exact State.flag_setFlag_beside s (pwrPage i) 0x044 b hn hkn
  · exact flag_setFlag_page n b k Nat.one_pos Nat.one_pos (by decide) (by decide) (.inl hij)

theorem domOn_quiescePage (p : Page) (hp : p.inst < instances p.blk) : (quiescePage s p).domOn j k = s.domOn j k := by
  have hset : (s.setFlag p 0x008 2 true).domOn j k = s.domOn j k := domOn_setReg s p _ j k hp (by decide) (.inr (by decide))
  refine Eq.trans ?_ hset
  unfold quiescePage quiesceRise
  split
  · exact domOn_raiseEvt _ j hk p _ hp
  · rfl

theorem domOn_startUp (n : Nat) (hn : n < 8) : (startUp s i n).domOn j k = s.domOn j k :=
  (domOn_setFlag _ i j false (by omega) (by omega)).trans (domOn_setFlag s i j true (by omega) (by omega))

theorem domOn_startDown (n : Nat) (hn : n < 8) : (startDown s i n).domOn j k = s.domOn j k :=
  Eq.trans (Same.foldl_mem (v := fun s : State => s.domOn j k) _ fun u p hp => domOn_quiescePage u j hk p (ofStack_of_domainPages hp).1)
    (domOn_setFlag s i j true (by omega) (by omega))

end

/-! ### The domains in transit -/

section
variable {s : State} {i j : Fin 8} {k : Nat}

theorem inTransit_setTransit_same (hk : k < 8) (b : Bool) : inTransit (setTransit s i k b) i k = b :=
  State.flag_setFlag_same _ _ _ _ (by omega)

/-- What becomes of a domain's transit where another flag of its page, or a flag of another page, is written. -/
theorem inTransit_setFlag {n : Nat} (b : Bool) (hn : n < 32) (h : i ≠ j ∨ 8 + k ≠ n) :
    inTransit (s.setFlag (pwrPage i) 0x044 n b) j k = inTransit s j k := by
  by_cases hij : i = j
  · subst hij
    exact State.flag_setFlag_beside s (pwrPage i) 0x044 b hn (h.resolve_left (not_not_intro rfl))
  · exact flag_setFlag_page n b _ Nat.one_pos Nat.one_pos (by decide) (by decide)
      (.inl fun e => hij (Fin.ext (congrArg Page.stk e).symm))

theorem inTransit_quiescePage (h : inTransit s j k = true) (p : Page) (hp : p.inst < instances p.blk) :
    inTransit (quiescePage s p) j k = true := by
  have hset : inTransit (s.setFlag p 0x008 2 true) j k = true :=
    (flag_setFlag_page 2 true _ hp Nat.one_pos (by decide) (by decide) (.inr (by decide))).trans h
  unfold quiescePage quiesceRise
  split
  · exact flag_raiseEvt_of_domFlag p _ hp hset
  · exact hset

theorem inTransit_quiescePages {ps : List Page} (h : inTransit s j k = true) (hps : ∀ p ∈ ps, p.inst < instances p.blk) :
    inTransit (ps.foldl quiescePage s) j k = true :=
  List.foldlRecOn (motive := fun u : State => inTransit u j k = true) _ _ h fun _ hu p hp => inTransit_quiescePage hu p (hps p hp)

theorem inTransit_startDown_same (hk : k < 8) : inTransit (startDown s i k) i k = true :=
  inTransit_quiescePages (inTransit_setTransit_same hk true) fun _ hp => (ofStack_of_domainPages hp).1

theorem inTransit_startDown (h : inTransit s j k = true) (n : Nat) (hn : n < 8) : inTransit (startDown s i n) j k = true :=
  inTransit_quiescePages (flag_setFlag_of_flag (by omega) h) fun _ hp => (ofStack_of_domainPages hp).1

theorem inTransit_startUp_same (hk : k < 8) : inTransit (startUp s i k) i k = true :=
  (inTransit_setFlag false (by omega) (.inr (by omega))).trans (inTransit_setTransit_same hk true)

theorem inTransit_startUp (h : inTransit s j k = true) (hk : k < 8) (n : Nat) (hn : n < 8) : inTransit (startUp s i n) j k = true :=
  (inTransit_setFlag false (by omega) (.inr (by omega))).trans (flag_setFlag_of_flag (by omega) h)

end

end Sys2Proof.Laws
end

section
/-! Levels and sleep (R458 to R462), and O57. -/

namespace Sys2Proof.Laws

open Machine Safety

/-! ### A stack's supply -/

/-- What a stack's power page and part hold of its level, its voltage and its power. -/
def supply (st : Fin 8) (s : State) : Word × Word × Word × Power :=
  (s.reg (pwrPage st) 0x048, s.reg (pwrPage st) 0x04C, s.reg (pwrPage st) 0x054, (s.st st).pwr)

/-- What a stack's search for its level starts from. -/
def levels (st : Fin 8) (s : State) : Nat × Bool × Option Nat × List Nat :=
  (levelOf s st, (s.st st).pwr.avsHold, (s.st st).pwr.raising, (s.st st).pwr.volts)

/-- That a level is sought, from what the search starts from and what it leaves of the supply. -/
def SoughtFrom (x : Nat × Bool × Option Nat × List Nat) (y : Word × Word × Word × Power) : Prop :=
  let n := min (bitsOf y.1.toNat 12 8) (bitsOf y.1.toNat 20 16)
  if x.2.1 = true ∨ x.2.2.1.isSome = true ∨ n = x.1 then bitsOf y.1.toNat 4 0 = x.1 ∧ y.2.2.2.raising = x.2.2.1
  else
    bitsOf y.2.1.toNat 9 0 = x.2.2.2.getD (n - 8) 850 % 1024 ∧
      if n < x.1 then bitsOf y.1.toNat 4 0 = n ∧ y.2.2.2.raising = none
      else bitsOf y.1.toNat 4 0 = x.1 ∧ y.2.2.2.raising = some n

theorem levelSought_iff (s t : State) (st : Fin 8) : LevelSought s t st ↔ SoughtFrom (levels st s) (supply st t) := Iff.rfl

theorem levelSought_congr {s s' t t' : State} {st : Fin 8} (hs : levels st s = levels st s') (ht : supply st t = supply st t')
    (h : LevelSought s' t' st) : LevelSought s t st := by
  rw [levelSought_iff] at h ⊢
  rwa [hs, ht]

/-- No bell and no event reaches a stack's supply. -/
theorem unrung_supply (st : Fin 8) : Unrung (supply st) where
  box _ _ _ _ _ := Prod.ext rfl (Prod.ext rfl (Prod.ext rfl (State.modBox_st_pwr ..)))
  mail s i m _ := by simp only [Same, supply, setEvt, reg_setFlag_apart, State.setFlag_st, ne_eq, Nat.reduceMod, Nat.reduceEqDiff, not_false_eq_true]
  wake s i := by simp only [Same, supply, reg_setFlag_apart, State.setFlag_st, ne_eq, Nat.reduceMod, Nat.reduceEqDiff, not_false_eq_true]

theorem supply_raiseEvt (s : State) (st : Fin 8) (p : Page) (n : Nat) : supply st (raiseEvt s p n) = supply st s :=
  (unrung_supply st).raiseEvt (by
    simp only [Same, supply, setEvt, reg_setFlag_apart, State.setFlag_st, ne_eq, Nat.reduceMod, Nat.reduceEqDiff, not_false_eq_true])

/-! ### The search for a level (R458, R461) -/

section
variable (s : State) (st : Fin 8) (n : Nat)

theorem switchLevel_of_ne (h : n ≠ levelOf s st) : switchLevel s st n =
    raiseEvt ((if n < levelOf s st then s.countSat (pwrPage st) 0x05C else s).setFld (pwrPage st) 0x048 4 0 n) (pwrPage st) 3 := if_neg h

theorem fld_switchLevel (h : n ≠ levelOf s st) (hn : n < 32) : levelOf (switchLevel s st n) st = n ∧
    capLevel (switchLevel s st n) st = capLevel s st ∧ thermLevel (switchLevel s st n) st = thermLevel s st := by
  have hc : ∀ hi lo, (if n < levelOf s st then s.countSat (pwrPage st) 0x05C else s).fld (pwrPage st) 0x048 hi lo = s.fld (pwrPage st) 0x048 hi lo := fun hi lo => by
    split
    · exact State.fld_setReg_other _ _ _ _ _ (by decide)
    · rfl
  have he : ∀ (u : State) hi lo, (raiseEvt u (pwrPage st) 3).fld (pwrPage st) 0x048 hi lo = u.fld (pwrPage st) 0x048 hi lo := fun u hi lo => by
    rw [State.fld, reg_raiseEvt_apart _ _ _ _ (by decide) (by decide)]
    rfl
  rw [switchLevel_of_ne s st n h]
  refine ⟨?_, ?_, ?_⟩
  · rw [levelOf, he, State.fld_setFld_same _ _ _ _ (by decide) (by decide)]
    exact Nat.mod_eq_of_lt hn
  · rw [capLevel, he, State.fld_setFld_beside _ _ _ _ (by decide) (by decide) (.inr (by decide)), hc]
    rfl
  · rw [thermLevel, he, State.fld_setFld_beside _ _ _ _ (by decide) (by decide) (.inr (by decide)), hc]
    rfl

end

/-- A voltage written over AVSBus and reported. -/
def voltageSet (s : State) (st : Fin 8) (v : Nat) : State :=
  (s.setFld (pwrPage st) 0x04C 9 0 v).setFld (pwrPage st) 0x04C 25 16 v

section
variable (s : State) (st : Fin 8)

/-- The level a stack seeks, and whether it seeks none now. -/
def levelDue : Nat := min (capLevel s st) (thermLevel s st)
def levelHeld : Prop := (s.st st).pwr.avsHold = true ∨ (s.st st).pwr.raising.isSome = true ∨ levelDue s st = levelOf s st

theorem seekLevel_held (h : levelHeld s st) : seekLevel s st none = s := if_pos h

theorem seekLevel_lower (h : ¬ levelHeld s st) (hl : levelDue s st < levelOf s st) : seekLevel s st none =
    voltageSet (switchLevel s st (levelDue s st)) st (levelVolts (switchLevel s st (levelDue s st)) st (levelDue s st)) :=
  (if_neg h).trans (if_pos hl)

theorem seekLevel_raise (h : ¬ levelHeld s st) (hl : ¬ levelDue s st < levelOf s st) : seekLevel s st none =
    (voltageSet s st (levelVolts s st (levelDue s st))).modPwr st fun p => { p with raising := some (levelDue s st) } :=
  (if_neg h).trans (if_neg hl)

theorem levelDue_lt : levelDue s st < 32 := (Nat.min_le_left _ _).trans_lt (bitsOf_lt _ 12 8)

/-- A reading that a stack's switch and voltage do not reach. -/
theorem same_seekLevel {α : Type} {v : State → α} (hv : Unrung v)
    (hreg : ∀ (s : State) (w : Word), ∀ off ∈ [0x010, 0x048, 0x04C, 0x05C], Same v s (s.setReg (pwrPage st) off w))
    (hr : ∀ s r, Same v s (s.modPwr st fun p => { p with raising := r })) : Same v s (seekLevel s st none) := by
  have hvolt : ∀ u n, Same v u (voltageSet u st n) := fun u n => (hreg _ _ _ (by simp)).trans (hreg _ _ _ (by simp))
  have hswitch : ∀ n, Same v s (switchLevel s st n) := fun n =>
    .ite (.refl s) (Same.trans (Same.trans (.ite (hreg _ _ _ (by simp)) (.refl s)) (hreg _ _ _ (by simp)))
      (hv.raiseEvt (hreg _ _ _ (by simp))))
  by_cases h : levelHeld s st
  · rw [seekLevel_held s st h]
    exact .refl s
  · by_cases hl : levelDue s st < levelOf s st
    · rw [seekLevel_lower s st h hl]
      exact (hswitch _).trans (hvolt ..)
    · rw [seekLevel_raise s st h hl]
      exact (hvolt ..).trans (hr ..)

theorem fld_voltageSet (v hi lo : Nat) : (voltageSet s st v).fld (pwrPage st) 0x048 hi lo = s.fld (pwrPage st) 0x048 hi lo :=
  (State.fld_setReg_other _ _ _ _ _ (by decide)).trans (State.fld_setReg_other _ _ _ _ _ (by decide))

theorem volts_voltageSet (v : Nat) : (voltageSet s st v).fld (pwrPage st) 0x04C 9 0 = v % 1024 :=
  (State.fld_setFld_beside _ _ _ _ (by decide) (by decide) (.inl (by decide))).trans (State.fld_setFld_same _ _ _ _ (by decide) (by decide))

theorem pwr_switchLevel (n : Nat) : ((switchLevel s st n).st st).pwr = (s.st st).pwr := by
  have hv := congrArg (fun x : Word × Word × Word × Power => x.2.2.2) (supply_raiseEvt
    ((if n < levelOf s st then s.countSat (pwrPage st) 0x05C else s).setFld (pwrPage st) 0x048 4 0 n) st (pwrPage st) 3)
  by_cases h : n = levelOf s st
  · rw [switchLevel, if_pos h]
  · rw [switchLevel_of_ne s st n h]
    refine Eq.trans hv ?_
    show ((if n < levelOf s st then s.countSat (pwrPage st) 0x05C else s).st st).pwr = _
    split <;> rfl

/-- A level is sought where the caps stand and the level moves toward what is due. -/
theorem levelSought_of_moved {t : State} (hc : capLevel t st = capLevel s st) (ht : thermLevel t st = thermLevel s st)
    (h : ¬ levelHeld s st) (hv : t.fld (pwrPage st) 0x04C 9 0 = levelVolts s st (levelDue s st) % 1024)
    (hm : if levelDue s st < levelOf s st then levelOf t st = levelDue s st ∧ (t.st st).pwr.raising = none
      else levelOf t st = levelOf s st ∧ (t.st st).pwr.raising = some (levelDue s st)) : LevelSought s t st := by
  have hn : min (capLevel t st) (thermLevel t st) = levelDue s st := by rw [hc, ht, levelDue]
  unfold LevelSought
  dsimp only
  rw [hn]
  exact (if_neg h).mpr ⟨hv, hm⟩

/-- A stack that seeks its level moves toward it, and its caps stay. -/
theorem seekLevel_spec : LevelSought s (seekLevel s st none) st ∧ capLevel (seekLevel s st none) st = capLevel s st ∧
    thermLevel (seekLevel s st none) st = thermLevel s st := by
  have hlt := levelDue_lt s st
  by_cases h : levelHeld s st
  · rw [seekLevel_held s st h]
    exact ⟨(if_pos h).mpr ⟨rfl, rfl⟩, rfl, rfl⟩
  · have hnone : (s.st st).pwr.raising = none := by
      simpa using fun e : (s.st st).pwr.raising.isSome = true => h (.inr (.inl e))
    by_cases hl : levelDue s st < levelOf s st
    · rw [seekLevel_lower s st h hl]
      obtain ⟨hlevel, hcap, htherm⟩ := fld_switchLevel s st (levelDue s st) hl.ne hlt
      have hp := pwr_switchLevel s st (levelDue s st)
      let u := switchLevel s st (levelDue s st)
      have hvolts : levelVolts u st (levelDue s st) = levelVolts s st (levelDue s st) := by rw [levelVolts, hp, levelVolts]
      have hcap' : capLevel (voltageSet u st (levelVolts u st (levelDue s st))) st = capLevel s st := (fld_voltageSet ..).trans hcap
      have htherm' : thermLevel (voltageSet u st (levelVolts u st (levelDue s st))) st = thermLevel s st := (fld_voltageSet ..).trans htherm
      refine ⟨levelSought_of_moved s st hcap' htherm' h ((volts_voltageSet ..).trans (congrArg (· % 1024) hvolts)) ?_, hcap', htherm'⟩
      rw [if_pos hl]
      exact ⟨(fld_voltageSet ..).trans hlevel, (congrArg Power.raising hp).trans hnone⟩
    · rw [seekLevel_raise s st h hl]
      have hcap' : capLevel ((voltageSet s st (levelVolts s st (levelDue s st))).modPwr st fun p =>
        { p with raising := some (levelDue s st) }) st = capLevel s st := fld_voltageSet ..
      have htherm' : thermLevel ((voltageSet s st (levelVolts s st (levelDue s st))).modPwr st fun p =>
        { p with raising := some (levelDue s st) }) st = thermLevel s st := fld_voltageSet ..
      refine ⟨levelSought_of_moved s st hcap' htherm' h (volts_voltageSet ..) ?_, hcap', htherm'⟩
      rw [if_neg hl, State.modPwr_st_pwr]
      exact ⟨fld_voltageSet .., rfl⟩

end

/-! ### What a search leaves (R461) -/

section
variable (s : State) (st : Fin 8)

theorem reg_seekLevel_apart (q : Page) {x : Nat} (hx : ∀ off ∈ [0x010, 0x044, 0x048, 0x04C, 0x05C], x % 4096 ≠ off) :
    (seekLevel s st none).reg q x = s.reg q x := by
  simp only [List.mem_cons, List.not_mem_nil, or_false, forall_eq_or_imp, forall_eq] at hx
  obtain ⟨h10, h44, h48, h4c, h5c⟩ := hx
  refine same_seekLevel s st (v := fun s => s.reg q x) ⟨fun _ _ _ _ _ => rfl, fun u i m _ => reg_setFlag_apart u _ q _ _ h10,
    fun u i => reg_setFlag_apart u _ q _ _ h44⟩ (fun u w off ho => reg_setReg_apart u _ q w ?_) fun _ _ => rfl
  simp only [List.mem_cons, List.not_mem_nil, or_false] at ho
  rcases ho with rfl | rfl | rfl | rfl
  · exact h10
  · exact h48
  · exact h4c
  · exact h5c

theorem mod_seekLevel : (seekLevel s st none).mod = s.mod :=
  same_seekLevel s st unrung_mod (fun _ _ _ _ => rfl) fun _ _ => rfl

theorem sameByte_modPwr (f : Power → Power) (h : ∀ x, (f x).keyEpoch = x.keyEpoch) : Same State.byte s (s.modPwr st f) :=
  same_byte_iff.2 ((keptBut_modPwr s st h).kind .memory (by decide))

theorem sameByte_seekLevel : Same State.byte s (seekLevel s st none) :=
  same_seekLevel s st unlogged_byte.toUnrung (fun _ _ _ _ => rfl) fun u _ => sameByte_modPwr u st _ fun _ => rfl

theorem supply_seekLevel_other {j : Fin 8} (h : st ≠ j) : supply j (seekLevel s st none) = supply j s := by
  have hne : ∀ (u : State) (w : Word), ∀ off ∈ [0x010, 0x048, 0x04C, 0x05C], Same (supply j) u (u.setReg (pwrPage st) off w) := by
    intro u w off ho
    have hreg : ∀ x < 4096, (u.setReg (pwrPage st) off w).reg (pwrPage j) x = u.reg (pwrPage j) x := fun x hx => by
      rw [State.reg_setReg, if_neg]
      intro e
      have hlt : off < 4096 := by
        simp only [List.mem_cons, List.not_mem_nil, or_false] at ho
        omega
      exact h (Fin.ext (congrArg Page.stk (key_inj (p := pwrPage j) (q := pwrPage st) Nat.one_pos Nat.one_pos hx hlt e).1).symm)
    simp only [Same, supply, hreg _ (by decide : 0x048 < 4096), hreg _ (by decide : 0x04C < 4096), hreg _ (by decide : 0x054 < 4096),
      State.setReg_st]
  exact same_seekLevel s st (unrung_supply j) hne fun u r => Prod.ext rfl (Prod.ext rfl (Prod.ext rfl
    (congrArg Stack.pwr (State.modPwr_st_other u _ st j h))))

theorem domOn_seekLevel (j : Fin 8) {k : Nat} (hk : k < 8) : (seekLevel s st none).domOn j k = s.domOn j k :=
  same_seekLevel s st (unrecorded_domOn j hk).toUnrung (fun u w off ho => by
    simp only [List.mem_cons, List.not_mem_nil, or_false] at ho
    exact domOn_setReg u (pwrPage st) w j k Nat.one_pos (by omega) (.inr (by omega))) fun _ _ => rfl

theorem stackRuns_congr {s t : State} {j : Fin 8} (hm : t.mod = s.mod) (hd : t.domOn j 7 = s.domOn j 7) :
    stackRuns t j = stackRuns s j := by rw [stackRuns, stackRuns, State.clocked, State.clocked, hm, hd]

end

/-! ### Temperature and the end of a raise (R460, R461) -/

section
variable {s : State} {st : Fin 8}

theorem levels_setFld {st : Fin 8} (s : State) (v : Nat) {hi lo : Nat} (h : 4 < lo) (hl : lo ≤ hi) (hh : hi < 32) :
    levels st (s.setFld (pwrPage st) 0x048 hi lo v) = levels st s := by
  rw [levels, levelOf, State.fld_setFld_beside _ _ _ _ hl hh (.inl h)]
  rfl

/-- A level that waited for its voltage is switched to, and nothing more is due (R461). -/
theorem levelRaiseSwitch_spec {n : Nat} (hn : n = levelDue s st) (hl : n ≠ levelOf s st) :
    seekLevel ((switchLevel s st n).modPwr st fun p => { p with raising := none }) st none =
      (switchLevel s st n).modPwr st fun p => { p with raising := none } := by
  obtain ⟨hlevel, hcap, htherm⟩ := fld_switchLevel s st n hl (hn ▸ levelDue_lt s st)
  refine seekLevel_held _ st (.inr (.inr ?_))
  exact (congrArg₂ min hcap htherm).trans (hn.symm.trans hlevel.symm)

end

/-! ### A window of the power cap (R459) -/

/-- A run over a list without repeats, for what only one member's turn changes: it starts as it stood, and ends as that turn left
it. -/
theorem foldl_at {α β : Type} {v : State → α} {f : State → β → State} {i : β} (h : ∀ u j, j ≠ i → Same v u (f u j)) {l : List β}
    (hl : l.Nodup) (hi : i ∈ l) (s : State) : ∃ u, v u = v s ∧ v (l.foldl f s) = v (f u i) := by
  obtain ⟨a, b, rfl⟩ := List.append_of_mem hi
  rw [List.nodup_append, List.nodup_cons] at hl
  obtain ⟨-, ⟨hb, -⟩, hab⟩ := hl
  have ha : i ∉ a := fun hm => hab i hm i (by simp) rfl
  refine ⟨a.foldl f s, Same.foldl_mem s fun u j hj => h u j fun e => ha (e ▸ hj), ?_⟩
  rw [List.foldl_append, List.foldl_cons]
  exact Same.foldl_mem _ fun u j hj => h u j fun e => hb (e ▸ hj)

theorem nodup_stacksIn (s : State) : s.stacksIn.Nodup := (List.nodup_finRange 8).filter _

section
variable (s : State) (tenthWatts : List Nat)

/-- The power of one stack shown on its page. -/
def powerShown (s : State) (i : Fin 8) : State := s.setReg (pwrPage i) 0x054 (BitVec.ofNat 32 (min 0xFFFF (tenthWatts.getD i.val 0)))

/-- The power of the module, and what the window makes of the cap. -/
def windowTotal : Nat := min 0xFFFF (s.stacksIn.foldl (fun n i => n + tenthWatts.getD i.val 0) 0)
def windowAfter : Nat × Nat := capAfter (windowTotal s tenthWatts) (s.reg pwrmPage 0x05C).toNat s.mod.pwr.below (capLevel s 0)

/-- The powers shown, the count of windows kept and a fall told. -/
def windowShown : State :=
  let s2 := ((s.stacksIn.foldl (powerShown tenthWatts) s).setReg pwrmPage 0x060 (BitVec.ofNat 32 (windowTotal s tenthWatts))).modPm
    fun p => { p with below := (windowAfter s tenthWatts).2 }
  if (windowAfter s tenthWatts).1 < capLevel s 0 then raiseEvt s2 pwrmPage 6 else s2

/-- One stack's cap level set, and the level it seeks. -/
def capTaken (n : Nat) (u : State) (i : Fin 8) : State :=
  if stackRuns u i then seekLevel (u.setFld (pwrPage i) 0x048 12 8 n) i none else u.setFld (pwrPage i) 0x048 12 8 n

theorem windowTotal_lt : windowTotal s tenthWatts < 2 ^ 32 := (Nat.min_le_left _ _).trans_lt (by decide)

theorem windowPower_nil : windowPower s tenthWatts [] =
    (s.stacksIn.foldl (powerShown tenthWatts) s).setReg pwrmPage 0x060 (BitVec.ofNat 32 (windowTotal s tenthWatts)) := by
  unfold windowPower
  dsimp only
  rw [if_neg (by simp)]
  rfl

theorem same_powersShown {α : Type} {v : State → α} (h : ∀ s i w, Same v s (s.setReg (pwrPage i) 0x054 w)) (l : List (Fin 8)) :
    Same v s (l.foldl (powerShown tenthWatts) s) := .foldl (fun u i => h u i _) _ _

theorem reg_powersShown (q : Page) {x : Nat} (h : x % 4096 ≠ 0x054) (l : List (Fin 8)) :
    (l.foldl (powerShown tenthWatts) s).reg q x = s.reg q x :=
  same_powersShown (v := fun s : State => s.reg q x) s tenthWatts (fun _ _ _ => reg_setReg_apart _ _ _ _ h) l

theorem exec_powerCapWindow (h : stackRuns s 0 = true) : exec (.powerCapWindow tenthWatts []) s =
    .next (s.stacksIn.foldl (capTaken (windowAfter s tenthWatts).1) (windowShown s tenthWatts)) := by
  have htotal : ((windowPower s tenthWatts []).reg pwrmPage 0x060).toNat = windowTotal s tenthWatts := by
    rw [windowPower_nil, State.reg_setReg_same, BitVec.toNat_ofNat, Nat.mod_eq_of_lt (windowTotal_lt s tenthWatts)]
  have hcap : (windowPower s tenthWatts []).reg pwrmPage 0x05C = s.reg pwrmPage 0x05C := by
    rw [windowPower_nil, reg_setReg_apart _ _ _ _ (by decide), reg_powersShown _ _ _ (by decide)]
  have hafter : capAfter ((windowPower s tenthWatts []).reg pwrmPage 0x060).toNat ((windowPower s tenthWatts []).reg pwrmPage 0x05C).toNat
      s.mod.pwr.below (capLevel s 0) = windowAfter s tenthWatts := by rw [htotal, hcap, windowAfter]
  have hexec : exec (.powerCapWindow tenthWatts []) s = .next (if stackRuns s 0 = false then s else
      let s1 := windowPower s tenthWatts []
      let e := capAfter (s1.reg pwrmPage 0x060).toNat (s1.reg pwrmPage 0x05C).toNat s.mod.pwr.below (capLevel s 0)
      let s2 := s1.modPm fun p => { p with below := e.2 }
      s.stacksIn.foldl (capTaken e.1) (if e.1 < capLevel s 0 then raiseEvt s2 pwrmPage 6 else s2)) := rfl
  rw [hexec, if_neg (by simp [h])]
  dsimp only
  rw [hafter, windowPower_nil]
  rfl

theorem capAfter_lt (power cap below : Nat) {level : Nat} (h : level < 32) : (capAfter power cap below level).1 < 32 := by
  unfold capAfter
  repeat' split
  all_goals dsimp only; omega

theorem windowAfter_lt : (windowAfter s tenthWatts).1 < 32 := capAfter_lt _ _ _ (bitsOf_lt _ 12 8)

/-- What a window shows before any stack seeks its level. -/
theorem windowShown_spec : (windowShown s tenthWatts).mod = { s.mod with pwr := { s.mod.pwr with below := (windowAfter s tenthWatts).2 } } ∧
    Same State.byte s (windowShown s tenthWatts) ∧ ((windowShown s tenthWatts).reg pwrmPage 0x060).toNat = windowTotal s tenthWatts := by
  have hmod : (s.stacksIn.foldl (powerShown tenthWatts) s).mod = s.mod := same_powersShown (v := State.mod) s tenthWatts (fun _ _ _ => rfl) _
  have hbyte : Same State.byte s (s.stacksIn.foldl (powerShown tenthWatts) s) :=
    same_powersShown (v := State.byte) s tenthWatts (fun _ _ _ => rfl) _
  let s2 := ((s.stacksIn.foldl (powerShown tenthWatts) s).setReg pwrmPage 0x060 (BitVec.ofNat 32 (windowTotal s tenthWatts))).modPm
    fun p => { p with below := (windowAfter s tenthWatts).2 }
  have hmod2 : s2.mod = { s.mod with pwr := { s.mod.pwr with below := (windowAfter s tenthWatts).2 } } :=
    congrArg (fun m : Module => ({ m with pwr := { m.pwr with below := (windowAfter s tenthWatts).2 } } : Module)) hmod
  have hreg2 : s2.reg pwrmPage 0x060 = BitVec.ofNat 32 (windowTotal s tenthWatts) := State.reg_setReg_same ..
  have hnat : (BitVec.ofNat 32 (windowTotal s tenthWatts)).toNat = windowTotal s tenthWatts := Nat.mod_eq_of_lt (windowTotal_lt s tenthWatts)
  unfold windowShown
  dsimp only
  split
  · refine ⟨(mod_raiseEvt ..).trans hmod2, hbyte.trans (unlogged_byte.raiseEvt s2 pwrmPage 6), ?_⟩
    rw [reg_raiseEvt_apart _ _ _ _ (by decide) (by decide)]
    exact (congrArg BitVec.toNat hreg2).trans hnat
  · exact ⟨hmod2, hbyte, (congrArg BitVec.toNat hreg2).trans hnat⟩

theorem stk_powersShown (l : List (Fin 8)) (i : Fin 8) : (l.foldl (powerShown tenthWatts) s).st i = s.st i :=
  same_powersShown (v := fun s : State => s.st i) s tenthWatts (fun _ _ _ => rfl) l

/-- Each stack's power shown, and its levels as they stood. -/
theorem windowShown_stack {st : Fin 8} (hs : s.has st = true) :
    ((windowShown s tenthWatts).reg (pwrPage st) 0x054).toNat = min 0xFFFF (tenthWatts.getD st.val 0) ∧
      levels st (windowShown s tenthWatts) = levels st s := by
  let s0 := s.stacksIn.foldl (powerShown tenthWatts) s
  let s2 := (s0.setReg pwrmPage 0x060 (BitVec.ofNat 32 (windowTotal s tenthWatts))).modPm
    fun p => { p with below := (windowAfter s tenthWatts).2 }
  have hsup : supply st (windowShown s tenthWatts) = supply st s2 := by
    unfold windowShown
    dsimp only
    split
    · exact supply_raiseEvt s2 st pwrmPage 6
    · rfl
  have hreg : ∀ x < 4096, s2.reg (pwrPage st) x = s0.reg (pwrPage st) x := fun x hx =>
    reg_setReg_page s0 (p := pwrmPage) (q := pwrPage st) (by simp [pwrPage, pwrmPage, stackPage, modulePage]) 0x060 _ Nat.one_pos Nat.one_pos (by decide) hx
  simp only [supply, Prod.mk.injEq] at hsup
  obtain ⟨h48, -, h54, hp⟩ := hsup
  constructor
  · obtain ⟨u, -, hu⟩ := foldl_at (v := fun s : State => s.reg (pwrPage st) 0x054) (f := powerShown tenthWatts) (i := st)
      (fun u j hj => by
        refine (State.reg_setReg ..).trans (if_neg fun e => hj ?_)
        exact Fin.ext (congrArg Page.stk (key_inj (p := pwrPage st) (q := pwrPage j) Nat.one_pos Nat.one_pos (by decide) (by decide) e).1).symm)
      (nodup_stacksIn s) (mem_stacksIn.2 hs) s
    rw [h54, hreg 0x054 (by decide), hu, powerShown, State.reg_setReg_same, BitVec.toNat_ofNat, Nat.mod_eq_of_lt]
    exact (Nat.min_le_left _ _).trans_lt (by decide)
  · have hst : s2.st st = s.st st := stk_powersShown s tenthWatts _ st
    have h48' : s2.reg (pwrPage st) 0x048 = s.reg (pwrPage st) 0x048 := (hreg 0x048 (by decide)).trans (reg_powersShown _ _ _ (by decide) _)
    simp only [levels, levelOf, State.fld, h48, h48', hp, hst]

/-- What of a state the turns of the stacks leave, but for one's own turn. -/
theorem same_capTaken {α : Type} {v : State → α} (n : Nat) (s : State) (i : Fin 8) (hc : ∀ s w, Same v s (s.setReg (pwrPage i) 0x048 w))
    (hl : ∀ s, Same v s (seekLevel s i none)) : Same v s (capTaken n s i) :=
  .ite ((hc ..).trans (hl _)) (hc ..)

theorem supply_setReg_other {i j : Fin 8} (h : i ≠ j) (s : State) (w : Word) : supply j (s.setReg (pwrPage i) 0x048 w) = supply j s := by
  have hreg : ∀ x < 4096, (s.setReg (pwrPage i) 0x048 w).reg (pwrPage j) x = s.reg (pwrPage j) x := fun x hx => by
    rw [State.reg_setReg, if_neg]
    exact fun e => h (Fin.ext (congrArg Page.stk (key_inj (p := pwrPage j) (q := pwrPage i) Nat.one_pos Nat.one_pos hx (by decide) e).1).symm)
  simp only [supply, hreg _ (by decide : 0x048 < 4096), hreg _ (by decide : 0x04C < 4096), hreg _ (by decide : 0x054 < 4096), State.setReg_st]

/-- A stack's turn gives it the cap level, and it seeks its level where its clocks run. -/
theorem capTaken_spec (s : State) (st : Fin 8) {n : Nat} (hn : n < 32) : capLevel (capTaken n s st) st = n ∧
    (capTaken n s st).reg (pwrPage st) 0x054 = s.reg (pwrPage st) 0x054 ∧
      (stackRuns s st = true → LevelSought s (capTaken n s st) st) := by
  let u := s.setFld (pwrPage st) 0x048 12 8 n
  have hcap : capLevel u st = n := (State.fld_setFld_same _ _ _ _ (by decide) (by decide)).trans (Nat.mod_eq_of_lt hn)
  have hreg : u.reg (pwrPage st) 0x054 = s.reg (pwrPage st) 0x054 := reg_setReg_apart _ _ _ _ (by decide)
  obtain ⟨hsought, hc, -⟩ := seekLevel_spec u st
  by_cases hr : stackRuns s st = true
  · rw [capTaken, if_pos hr]
    exact ⟨hc.trans hcap, (reg_seekLevel_apart _ _ _ (by decide)).trans hreg,
      fun _ => levelSought_congr (levels_setFld s n (by decide) (by decide) (by decide)).symm rfl hsought⟩
  · rw [capTaken, if_neg hr]
    exact ⟨hcap, hreg, fun h => absurd h hr⟩

theorem capLevel_of_supply {s t : State} {st : Fin 8} (h : supply st t = supply st s) : capLevel t st = capLevel s st := by
  simp only [supply, Prod.mk.injEq] at h
  simp only [capLevel, State.fld, h]

theorem levels_of_supply {s t : State} {st : Fin 8} (h : supply st t = supply st s) : levels st t = levels st s := by
  simp only [supply, Prod.mk.injEq] at h
  simp only [levels, levelOf, State.fld, h]

theorem stackRuns_windowShown (j : Fin 8) : stackRuns (windowShown s tenthWatts) j = stackRuns s j := by
  let s0 := s.stacksIn.foldl (powerShown tenthWatts) s
  let s2 := (s0.setReg pwrmPage 0x060 (BitVec.ofNat 32 (windowTotal s tenthWatts))).modPm
    fun p => { p with below := (windowAfter s tenthWatts).2 }
  have h0 : s0.domOn j 7 = s.domOn j 7 := same_powersShown (v := fun s : State => s.domOn j 7) s tenthWatts (fun u i w =>
    domOn_setReg u (pwrPage i) w j 7 Nat.one_pos (by decide) (.inr (by decide))) _
  have h2 : s2.domOn j 7 = s.domOn j 7 :=
    Eq.trans (domOn_setReg s0 pwrmPage _ j 7 Nat.one_pos (by decide) (.inr (by decide))) h0
  have hd : (windowShown s tenthWatts).domOn j 7 = s.domOn j 7 := by
    unfold windowShown
    dsimp only
    split
    · exact (domOn_raiseEvt s2 j (by decide) pwrmPage 6 Nat.one_pos).trans h2
    · exact h2
  rw [stackRuns, stackRuns, hd, State.clocked, State.clocked, (windowShown_spec s tenthWatts).1]

/-- A window as it ends: the module's power and count, and every stack with its cap level, its power and the level it seeks. -/
theorem capWindow_spec :
    let t := s.stacksIn.foldl (capTaken (windowAfter s tenthWatts).1) (windowShown s tenthWatts)
    (t.reg pwrmPage 0x060).toNat = windowTotal s tenthWatts ∧ t.mod.pwr.below = (windowAfter s tenthWatts).2 ∧ MemoryKept s t ∧
      ∀ st : Fin 8, s.has st = true → capLevel t st = (windowAfter s tenthWatts).1 ∧
        (t.reg (pwrPage st) 0x054).toNat = min 0xFFFF (tenthWatts.getD st.val 0) ∧ (stackRuns s st = true → LevelSought s t st) := by
  intro t
  let w := windowShown s tenthWatts
  let n := (windowAfter s tenthWatts).1
  obtain ⟨hmod, hbyte, htotal⟩ := windowShown_spec s tenthWatts
  have hreg : t.reg pwrmPage 0x060 = w.reg pwrmPage 0x060 :=
    Same.foldl (v := fun s : State => s.reg pwrmPage 0x060) (fun u i => same_capTaken n u i (fun _ _ => reg_setReg_apart _ _ _ _ (by decide))
      fun u => reg_seekLevel_apart u i pwrmPage (by decide)) _ _
  have hm : t.mod = w.mod := Same.foldl (v := State.mod) (fun u i => same_capTaken n u i (fun _ _ => rfl) fun u => mod_seekLevel u i) _ _
  have hb : Same State.byte w t := Same.foldl (fun u i => same_capTaken (v := State.byte) n u i (fun _ _ => rfl) fun u => sameByte_seekLevel u i) _ _
  refine ⟨(congrArg BitVec.toNat hreg).trans htotal, ?_, fun a => congrFun (hbyte.trans hb) a, fun st hst => ?_⟩
  · rw [hm, hmod]
  · obtain ⟨u, hu, hend⟩ := foldl_at (v := fun s => (supply st s, stackRuns s st)) (f := capTaken n) (i := st) (fun u j hj =>
      same_capTaken n u j (fun u w => Prod.ext (supply_setReg_other hj u w)
        (stackRuns_congr rfl (domOn_setReg u (pwrPage j) w st 7 Nat.one_pos (by decide) (.inr (by decide)))))
        fun u => Prod.ext (supply_seekLevel_other u j hj) (stackRuns_congr (mod_seekLevel u j) (domOn_seekLevel u j st (by decide))))
      (nodup_stacksIn s) (mem_stacksIn.2 hst) w
    have hsup : supply st u = supply st w := congrArg Prod.fst hu
    have hend' : supply st t = supply st (capTaken n u st) := congrArg Prod.fst hend
    obtain ⟨hcap, hpow, hsought⟩ := capTaken_spec u st (windowAfter_lt s tenthWatts)
    obtain ⟨hshown, hlevels⟩ := windowShown_stack s tenthWatts hst
    have hruns : stackRuns s st = true → stackRuns u st = true := fun hr =>
      (congrArg Prod.snd hu).trans ((stackRuns_windowShown s tenthWatts st).trans hr)
    refine ⟨(capLevel_of_supply hend').trans hcap, ?_, fun hr => ?_⟩
    · have h54 : t.reg (pwrPage st) 0x054 = w.reg (pwrPage st) 0x054 :=
        (congrArg (fun x : Word × Word × Word × Power => x.2.2.1) hend').trans
          (hpow.trans (congrArg (fun x : Word × Word × Word × Power => x.2.2.1) hsup))
      exact (congrArg BitVec.toNat h54).trans hshown
    · exact levelSought_congr (((levels_of_supply hsup).trans hlevels).symm) hend' (hsought (hruns hr))

end

/-! ### The thermal level (R460) -/

/-- The thermal level after a measurement. -/
def thermAfter (s : State) (st : Fin 8) (quarterC : Int) : Nat :=
  let hot : Int := 4 * (s.fld pwrmPage 0x064 15 8 : Nat)
  if hot ≤ quarterC then max 8 (thermLevel s st - 1)
  else if quarterC < hot - 4 * (s.fld pwrmPage 0x064 23 16 : Nat) then min 16 (thermLevel s st + 1) else thermLevel s st

section
variable {s : State} {st : Fin 8} {quarterC : Int}

/-- A stack once its temperature is shown and its thermal level set. -/
def thermTaken (s : State) (st : Fin 8) (quarterC : Int) : State :=
  (measureTemp s st quarterC).setFld (pwrPage st) 0x048 20 16 (thermAfter s st quarterC)

theorem exec_thermalLevelUpdate (hs : s.has st = true) (hr : stackRuns s st = true) : exec (.thermalLevelUpdate st quarterC none) s =
    .next (seekLevel (thermTaken s st quarterC) st none) := by
  show execThermalLevelUpdate st quarterC none s = _
  rw [execThermalLevelUpdate, if_pos hs]
  exact congrArg Host.Outcome.next (if_pos hr)

theorem thermAfter_lt : thermAfter s st quarterC < 32 := by
  have h : thermLevel s st < 32 := bitsOf_lt _ 20 16
  unfold thermAfter
  dsimp only
  repeat' split
  all_goals omega

theorem levels_measureTemp : levels st (measureTemp s st quarterC) = levels st s := by
  have hp : ((measureTemp s st quarterC).st st).pwr = { (s.st st).pwr with junction := quarterC } := State.modPwr_st_pwr ..
  have hl : levelOf (measureTemp s st quarterC) st = levelOf s st := State.fld_setReg_other _ _ _ _ _ (by decide)
  rw [levels, hp, hl]
  rfl

/-- A measurement's level is set and sought. -/
theorem thermalLevelUpdate_spec (s : State) (st : Fin 8) (quarterC : Int) :
    let t := seekLevel (thermTaken s st quarterC) st none
    (t.reg (pwrPage st) 0x050).toNat = tempBits quarterC ∧ LevelSought s t st ∧ MemoryKept s t ∧
      thermLevel t st = thermAfter s st quarterC := by
  intro t
  obtain ⟨hsought, -, htherm⟩ := seekLevel_spec (thermTaken s st quarterC) st
  have hlt := tempBits_lt quarterC
  refine ⟨?_, levelSought_congr ?_ rfl hsought, fun a => ?_, ?_⟩
  · rw [reg_seekLevel_apart _ _ _ (by decide)]
    refine (congrArg BitVec.toNat ((reg_setReg_apart _ _ _ _ (by decide)).trans (State.reg_setReg_same s (pwrPage st) 0x050 _))).trans ?_
    exact Nat.mod_eq_of_lt (by omega)
  · exact ((levels_setFld _ _ (by decide) (by decide) (by decide)).trans levels_measureTemp).symm
  · exact congrFun (Same.trans (t := thermTaken s st quarterC) ((sameByte_measureTemp s st quarterC).trans rfl) (sameByte_seekLevel _ st)) a
  · exact htherm.trans ((State.fld_setFld_same _ _ _ _ (by decide) (by decide)).trans (Nat.mod_eq_of_lt thermAfter_lt))

end

/-! ### A level that waited (R461) -/

section
variable {s : State} {st : Fin 8} {n : Nat}

theorem exec_levelRaiseSwitch (hs : s.has st = true) (hr : (s.st st).pwr.raising = some n) (hn : n = levelDue s st) (hl : n ≠ levelOf s st) :
    exec (.levelRaiseSwitch st none) s = .next ((switchLevel s st n).modPwr st fun p => { p with raising := none }) := by
  show execLevelRaiseSwitch st none s = _
  rw [execLevelRaiseSwitch, if_pos hs, hr]
  exact congrArg Host.Outcome.next (levelRaiseSwitch_spec hn hl)

theorem flag_switchLevel (hl : n ≠ levelOf s st) : (switchLevel s st n).flag (pwrPage st) 0x010 3 = true := by
  rw [switchLevel_of_ne s st n hl]
  exact flag_raiseEvt _ _ _ (by decide)

theorem sameByte_switchLevel : Same State.byte s (switchLevel s st n) :=
  .ite (.refl s) (Same.trans (Same.trans (.ite (show Same State.byte s (s.countSat (pwrPage st) 0x05C) from rfl) (.refl s)) rfl)
    (unlogged_byte.raiseEvt ..))

end

/-! ### Sleep (R462) -/

theorem sleepReason_le (s : State) : sleepReason s ≤ 5 := by
  refine firstStatus_le ?_
  simp only [List.forall_mem_cons, List.not_mem_nil, false_imp_iff, implies_true, and_true]
  omega

theorem lt_of_sleepDomains {n k : Nat} (h : k ∈ sleepDomains n) : k < 8 := by
  unfold sleepDomains at h
  split at h
  all_goals
    simp only [List.mem_cons, List.not_mem_nil, or_false] at h
    omega

section
variable {s : State} {v : Word} (hgo : bitAt v.toNat 4 = true) (hl : bitsOf v.toNat 1 0 ≠ 0) (ht : s.mod.pwr.sleepTarget = 0)
include hgo hl ht

theorem sleepGo_refused (h : sleepReason s ≠ 0) : sleepGo s v =
    raiseEvt (s.setReg pwrmPage 0x04C (BitVec.ofNat 32 (2 ^ 8 * sleepReason s))) pwrmPage 5 := by
  rw [sleepGo]
  exact (if_neg (by simp [hgo, hl, ht])).trans (if_pos h)

end

/-- A stack whose domains of a level go down, where they are ON and not changing. -/
def sleepDown (level : Nat) (s : State) (i : Fin 8) : State :=
  (sleepDomains level).foldl (fun s k => if s.domOn i k ∧ inTransit s i k = false then startDown s i k else s) s

/-- The state in which a sleep begins. -/
def sleepBegun (s : State) (level : Nat) : State :=
  let s1 := s.modPm fun p =>
    { p with sleepTarget := level,
             sleepSaved := (List.finRange 8).map fun i => BitVec.ofNat 8 (s.reg (pwrPage i) 0x044).toNat }
  if 2 ≤ level then s1.setFlag pwrmPage 0x088 0 false else s1

theorem sleepGo_begun {s : State} {v : Word} (hgo : bitAt v.toNat 4 = true) (hl : bitsOf v.toNat 1 0 ≠ 0)
    (ht : s.mod.pwr.sleepTarget = 0) (h : sleepReason s = 0) : sleepGo s v =
      (sleepBegun s (bitsOf v.toNat 1 0)).stacksIn.foldl (sleepDown (bitsOf v.toNat 1 0)) (sleepBegun s (bitsOf v.toNat 1 0)) := by
  rw [sleepGo]
  exact (if_neg (by simp [hgo, hl, ht])).trans (if_neg (by simp [h]))

section
variable {j : Fin 8} {k : Nat}

/-- One domain goes down, where it is ON and not changing. -/
def downOne (i : Fin 8) (s : State) (n : Nat) : State := if s.domOn i n ∧ inTransit s i n = false then startDown s i n else s

theorem same_downOne {α : Type} {v : State → α} (s : State) (i : Fin 8) (n : Nat) (h : Same v s (startDown s i n)) :
    Same v s (downOne i s n) := .ite h (.refl s)

theorem inTransit_downOne {s : State} (h : inTransit s j k = true) (i : Fin 8) {n : Nat} (hn : n < 8) : inTransit (downOne i s n) j k = true := by
  unfold downOne
  split
  · exact inTransit_startDown h n hn
  · exact h

theorem inTransit_downOne_same {s : State} (hk : k < 8) (hd : s.domOn j k = true) : inTransit (downOne j s k) j k = true := by
  unfold downOne
  split
  · exact inTransit_startDown_same hk
  · next h => simpa using fun hf => h ⟨hd, hf⟩

/-- Every domain of a list that is ON goes down. -/
theorem inTransit_downs {i : Fin 8} {l : List Nat} (hl : ∀ n ∈ l, n < 8) {s : State} (hk : k < 8) (hd : s.domOn j k = true)
    (h : (i = j ∧ k ∈ l) ∨ inTransit s j k = true) : inTransit (l.foldl (downOne i) s) j k = true := by
  induction l generalizing s with
  | nil => exact h.resolve_left (by simp)
  | cons n l ih =>
    have hn := hl n (by simp)
    refine ih (fun m hm => hl m (by simp [hm])) (Eq.trans (same_downOne (v := fun s : State => s.domOn j k) s i n (domOn_startDown s i j hk n hn)) hd) ?_
    obtain ⟨rfl, hm⟩ | ht := h
    · obtain rfl | hm := List.mem_cons.1 hm
      · exact .inr (inTransit_downOne_same hk hd)
      · exact .inl ⟨rfl, hm⟩
    · exact .inr (inTransit_downOne ht i hn)

theorem same_sleepDown {α : Type} {v : State → α} (level : Nat) (s : State) (i : Fin 8) (h : ∀ u, ∀ n < 8, Same v u (startDown u i n)) :
    Same v s (sleepDown level s i) :=
  Same.foldl_mem s fun u n hn => same_downOne u i n (h u n (lt_of_sleepDomains hn))

/-- Every domain of a level that is ON goes down in every stack of a list. -/
theorem inTransit_sleepDowns {level : Nat} {l : List (Fin 8)} {s : State} (hk : k ∈ sleepDomains level) (hd : s.domOn j k = true)
    (h : j ∈ l ∨ inTransit s j k = true) : inTransit (l.foldl (sleepDown level) s) j k = true := by
  have hlt := lt_of_sleepDomains hk
  induction l generalizing s with
  | nil => exact h.resolve_left (by simp)
  | cons i l ih =>
    have hdown : (i = j ∧ k ∈ sleepDomains level) ∨ inTransit s j k = true → inTransit (sleepDown level s i) j k = true := fun hi =>
      inTransit_downs (fun _ hn => lt_of_sleepDomains hn) hlt hd hi
    refine ih (Eq.trans (same_sleepDown (v := fun s : State => s.domOn j k) level s i fun u n hn => domOn_startDown u i j hlt n hn) hd) ?_
    by_cases hij : i = j
    · exact .inr (hdown (.inl ⟨hij, hk⟩))
    · exact h.imp (fun hm => (List.mem_cons.1 hm).resolve_left (Ne.symm hij)) fun ht => hdown (.inr ht)

end

/-- What a sleep that begins leaves: its level, memory, and every domain of the level going down. -/
theorem sleepGo_spec (s : State) {level : Nat} :
    let t := (sleepBegun s level).stacksIn.foldl (sleepDown level) (sleepBegun s level)
    t.mod.pwr.sleepTarget = level ∧ MemoryKept s t ∧
      ∀ st : Fin 8, s.has st = true → ∀ k ∈ sleepDomains level, s.domOn st k = true → inTransit t st k = true := by
  intro t
  have hbegun : (sleepBegun s level).mod.pwr.sleepTarget = level ∧ Same State.byte s (sleepBegun s level) ∧
      (sleepBegun s level).part = s.part ∧ ∀ (j : Fin 8) (k : Nat), (sleepBegun s level).domOn j k = s.domOn j k := by
    unfold sleepBegun
    dsimp only
    split
    · exact ⟨rfl, rfl, rfl, fun j k => flag_setFlag_page 0 false k Nat.one_pos Nat.one_pos (by decide) (by decide) (.inr (by decide))⟩
    · exact ⟨rfl, rfl, rfl, fun _ _ => rfl⟩
  obtain ⟨htarget, hbyte, hpart, hdom⟩ := hbegun
  have hdown : ∀ {α : Type} {v : State → α}, Unlogged v → Same v (sleepBegun s level) t := fun hv =>
    .foldl (fun u i => same_sleepDown level u i fun w n _ => hv.startDown w i n) _ _
  refine ⟨(congrArg PowerModule.sleepTarget (hdown unlogged_modulePower)).trans htarget, fun a => congrFun (hbyte.trans (hdown unlogged_byte)) a,
    fun st hst k hk hd => inTransit_sleepDowns hk ((hdom st k).trans hd) (.inl (mem_stacksIn.2 ?_))⟩
  rw [State.has, hpart]
  exact hst

/-! ### Sleep entered, and ended (R462) -/

/-- A stack whose Tense unit generates no ticks. -/
def tenseSleeps (s : State) (i : Fin 8) : State :=
  s.modTns i fun u => { u with ticking := false, kept := if u.lock = .idle then u.kept else some u.beat }

theorem ticking_tenseSleeps {j : Fin 8} {l : List (Fin 8)} {s : State} (h : j ∈ l ∨ (s.st j).tns.ticking = false) :
    ((l.foldl tenseSleeps s).st j).tns.ticking = false := by
  induction l generalizing s with
  | nil => exact h.resolve_left (by simp)
  | cons i l ih =>
    refine ih ?_
    by_cases hij : i = j
    · subst hij
      rw [tenseSleeps, State.modTns_st_tns]
      exact .inr rfl
    · rw [tenseSleeps, State.modTns_st_other _ _ _ _ hij]
      exact h.imp_left fun hm => (List.mem_cons.1 hm).resolve_left (Ne.symm hij)

theorem sameByte_modTns (s : State) (i : Fin 8) (f : Tense → Tense) : Same State.byte s (s.modTns i f) :=
  same_byte_iff.2 ((keptBut_modTns ..).kind .memory (by decide))

theorem exec_sleepEntered {s : State} (ht : s.mod.pwr.sleepTarget ≠ 0) (hs : s.mod.pwr.sleeping = false)
    (hoff : ∀ st : Fin 8, s.has st = true → ∀ k ∈ sleepDomains s.mod.pwr.sleepTarget, s.domOn st k = false) :
    exec .sleepEntered s = .next (s.stacksIn.foldl tenseSleeps (s.modPm fun p => { p with sleeping := true })) := by
  have hall : (s.stacksIn.all fun i => (sleepDomains s.mod.pwr.sleepTarget).all fun k => !s.domOn i k) = true := by
    simp only [List.all_eq_true, Bool.not_eq_true']
    exact fun i hi k hk => hoff i (mem_stacksIn.1 hi) k hk
  exact congrArg Host.Outcome.next (if_pos ⟨ht, hs, hall⟩)

theorem sleepEntered_spec (s : State) :
    let t := s.stacksIn.foldl tenseSleeps (s.modPm fun p => { p with sleeping := true })
    t.mod.pwr.sleeping = true ∧ (∀ st : Fin 8, s.has st = true → (t.st st).tns.ticking = false) ∧ MemoryKept s t := by
  have hpwr : (s.stacksIn.foldl tenseSleeps (s.modPm fun p => { p with sleeping := true })).mod.pwr = { s.mod.pwr with sleeping := true } := by
    refine Same.foldl (v := fun s : State => s.mod.pwr) (fun u i => ?_) _ _
    rfl
  have hbyte : Same State.byte (s.modPm fun p => { p with sleeping := true })
      (s.stacksIn.foldl tenseSleeps (s.modPm fun p => { p with sleeping := true })) := .foldl (fun u i => sameByte_modTns u i _) _ _
  exact ⟨congrArg PowerModule.sleeping hpwr, fun st hst => ticking_tenseSleeps (.inl (mem_stacksIn.2 hst)), fun a => congrFun hbyte a⟩

/-- One domain of a stack comes back. -/
def returnOne (saved : List (BitVec 8)) (i : Fin 8) (s : State) (n : Nat) : State :=
  if (saved.getD i.val 0).getLsbD n = false then s
  else if s.domOn i n then (domainPages s i n).foldl (fun s p => s.setFlag p 0x008 2 false) (setTransit s i n false)
  else startUp s i n

theorem domainsReturn_eq (saved : List (BitVec 8)) (s : State) (i : Fin 8) :
    domainsReturn saved s i = (List.range 7).foldl (returnOne saved i) s := rfl

section
variable (saved : List (BitVec 8)) {j : Fin 8} {k : Nat}

theorem domOn_returnOne (s : State) (i : Fin 8) {n : Nat} (hn : n < 8) (hk : k < 8) : (returnOne saved i s n).domOn j k = s.domOn j k := by
  unfold returnOne
  split
  · rfl
  · split
    · refine Eq.trans (Same.foldl_mem (v := fun s : State => s.domOn j k) _ fun u p hp => ?_) (domOn_setFlag s i j false (by omega) (by omega))
      exact domOn_setReg u p _ j k (ofStack_of_domainPages hp).1 (by decide) (.inr (by decide))
    · exact domOn_startUp s i j hk n hn

/-- A domain that is off stays in transit while others come back. -/
theorem inTransit_returnOne {s : State} (h : inTransit s j k = true) (hd : s.domOn j k = false) (i : Fin 8) {n : Nat} (hn : n < 8) (hk : k < 8) :
    inTransit (returnOne saved i s n) j k = true := by
  unfold returnOne
  split
  · exact h
  · split
    · next hon =>
      have hne : i ≠ j ∨ 8 + k ≠ 8 + n := by
        by_contra hc
        rw [not_or, not_not, not_not] at hc
        obtain ⟨rfl, hkn⟩ := hc
        rw [show n = k by omega, hd] at hon
        exact absurd hon (by decide)
      refine Eq.trans (Same.foldl_mem (v := fun s : State => inTransit s j k) _ fun u p hp => ?_) ((inTransit_setFlag false (by omega) hne).trans h)
      exact flag_setFlag_page 2 false _ (ofStack_of_domainPages hp).1 Nat.one_pos (by decide) (by decide) (.inr (by decide))
    · exact inTransit_startUp h hk n hn

theorem inTransit_returnOne_same {s : State} (hs : (saved.getD j.val 0).getLsbD k = true) (hd : s.domOn j k = false) (hk : k < 8) :
    inTransit (returnOne saved j s k) j k = true := by
  rw [returnOne, if_neg (by rw [hs]; decide), if_neg (by rw [hd]; decide)]
  exact inTransit_startUp_same hk

theorem inTransit_returns {i : Fin 8} {l : List Nat} (hl : ∀ n ∈ l, n < 8) {s : State} (hs : (saved.getD j.val 0).getLsbD k = true)
    (hd : s.domOn j k = false) (hk : k < 8) (h : (i = j ∧ k ∈ l) ∨ inTransit s j k = true) :
    inTransit (l.foldl (returnOne saved i) s) j k = true := by
  induction l generalizing s with
  | nil => exact h.resolve_left (by simp)
  | cons n l ih =>
    have hn := hl n (by simp)
    refine ih (fun m hm => hl m (by simp [hm])) ((domOn_returnOne saved s i hn hk).trans hd) ?_
    obtain ⟨rfl, hm⟩ | ht := h
    · obtain rfl | hm := List.mem_cons.1 hm
      · exact .inr (inTransit_returnOne_same saved hs hd hk)
      · exact .inl ⟨rfl, hm⟩
    · exact .inr (inTransit_returnOne saved ht hd i hn hk)

theorem domOn_domainsReturn (s : State) (i : Fin 8) (hk : k < 8) : (domainsReturn saved s i).domOn j k = s.domOn j k :=
  Same.foldl_mem (v := fun s : State => s.domOn j k) s fun u n hn => domOn_returnOne saved u i (by simp at hn; omega) hk

/-- A domain that was ON before the sleep and is off comes back. -/
theorem inTransit_domainsReturn {l : List (Fin 8)} {s : State} (hs : (saved.getD j.val 0).getLsbD k = true) (hd : s.domOn j k = false)
    (hk : k < 7) (h : j ∈ l ∨ inTransit s j k = true) : inTransit (l.foldl (domainsReturn saved) s) j k = true := by
  induction l generalizing s with
  | nil => exact h.resolve_left (by simp)
  | cons i l ih =>
    have hreturn : (i = j ∧ k ∈ List.range 7) ∨ inTransit s j k = true → inTransit (domainsReturn saved s i) j k = true := fun hi =>
      inTransit_returns saved (fun n hn => by simp at hn; omega) hs hd (by omega) hi
    refine ih ((domOn_domainsReturn saved s i (by omega)).trans hd) ?_
    by_cases hij : i = j
    · exact .inr (hreturn (.inl ⟨hij, List.mem_range.2 hk⟩))
    · exact h.imp (fun hm => (List.mem_cons.1 hm).resolve_left (Ne.symm hij)) fun ht => hreturn (.inr ht)

end

/-! ### A wake (R462, R478) -/

/-- The part as a wake finds it: the Tense units of a sleeping part acquire again, and the sleep is over. -/
def awake (s : State) : State :=
  (if s.mod.pwr.sleeping then tenseWakes s else s).modPm fun p => { p with sleepTarget := 0, sleeping := false, sleepSaved := [] }

/-- The part as a wake leaves it, before its source is shown. -/
def woken (s : State) : State :=
  if s.mod.pwr.sleepTarget == 3 && (s.mod.pwr.sleeping || !s.domOn 0 7) then setCause (allLost (awake s)) 2
  else (awake s).stacksIn.foldl (domainsReturn s.mod.pwr.sleepSaved) (awake s)

theorem exec_wake {s : State} {src : Fin 7} (ht : s.mod.pwr.sleepTarget ≠ 0) (he : s.flag pwrmPage 0x050 src.val = true)
    (hr : s.mod.pwr.resetHeld = false) (hn : s.mod.pwr.thermtripN = false) :
    exec (.wake src) s = .next (raiseEvt ((woken s).setFlag pwrmPage 0x054 src.val true) pwrmPage 4) :=
  congrArg Host.Outcome.next (if_neg (by simp [ht, he, hr, hn]))

theorem tenseWakes_spec (s : State) : (tenseWakes s).mod = s.mod ∧ (tenseWakes s).part = s.part ∧ (tenseWakes s).regs = s.regs := by
  have h : (fun s : State => (s.mod, s.part, s.regs)) (tenseWakes s) = (s.mod, s.part, s.regs) := by
    refine Same.foldl (v := fun s : State => (s.mod, s.part, s.regs)) (fun u i => ?_) _ _
    rfl
  simpa only [Prod.mk.injEq] using h

theorem awake_spec (s : State) : (awake s).mod.pwr = { s.mod.pwr with sleepTarget := 0, sleeping := false, sleepSaved := [] } ∧
    (awake s).part = s.part ∧ (awake s).regs = s.regs := by
  obtain ⟨hmod, hpart, hregs⟩ := tenseWakes_spec s
  unfold awake
  split
  · exact ⟨congrArg (fun m : Module => ({ m.pwr with sleepTarget := 0, sleeping := false, sleepSaved := [] } : PowerModule)) hmod, hpart, hregs⟩
  · exact ⟨rfl, rfl, rfl⟩

theorem stackGone_raiseEvt {s : State} {j : Fin 8} (h : StackGone s j) (p : Page) (n : Nat) (hp : p.inst < instances p.blk) :
    StackGone (raiseEvt s p n) j := by
  have hst : ∀ (k : Kind), k ∉ eventKinds → (∀ b, k ≠ .page b) → KindKept s (raiseEvt s p n) k := fun k hk hb =>
    (keptBut_raiseEvt s n hp).kind k (by simp [hk, hb])
  have hseq : ∀ q, (raiseEvt s p n).seq j q = s.seq j q := fun q => by
    rw [State.seq, hst .sequencers (by decide) nofun j]
    rfl
  refine stackGone_of_same h (fun k hk => domOn_raiseEvt s j (by omega) p n hp) ?_ fun x _ => hst .memory (by decide) nofun _
  simp only [Same, holding, hseq, hst .clasp (by decide) nofun j, hst .sessions (by decide) nofun j, hst .stackPower (by decide) nofun j]

/-- The module's cause is no register of a stack's power page, and no event's. -/
theorem cause_raiseEvt (s : State) (p : Page) (n : Nat) (hp : p.inst < instances p.blk) :
    (raiseEvt s p n).reg pwrmPage 0x044 = s.reg pwrmPage 0x044 := by
  have hevt : ∀ (u : State) (q : Page) (m : Nat), q.inst < instances q.blk → (setEvt u q m).reg pwrmPage 0x044 = u.reg pwrmPage 0x044 :=
    fun u q m hq => by
      refine (State.reg_setReg ..).trans (if_neg fun e => ?_)
      exact absurd (key_inj (p := pwrmPage) Nat.one_pos hq (by decide) (by decide) e).2 (by decide)
  refine Unrung.raiseEvt (v := fun s : State => s.reg pwrmPage 0x044) ⟨fun _ _ _ _ _ => rfl, fun u i m hm => hevt u _ _ hm, fun u i => ?_⟩
    (hevt s p n hp)
  exact reg_setReg_page u (p := pwrPage i) (by simp [pwrPage, pwrmPage, stackPage, modulePage]) 0x044 _ Nat.one_pos Nat.one_pos (by decide) (by decide)

theorem same_domainsReturn {α : Type} {v : State → α} (saved : List (BitVec 8)) (s : State) (i : Fin 8)
    (hv : ∀ (s : State) (p : Page) off w, Same v s (s.setReg p off w)) : Same v s (domainsReturn saved s i) := by
  rw [domainsReturn_eq]
  refine .foldl (fun u n => .ite (.refl u) (.ite ((hv ..).trans (.foldl (fun _ _ => hv ..) _ _)) ?_)) _ _
  exact (hv ..).trans (hv ..)

theorem woken_pwr (s : State) : (woken s).mod.pwr.sleepTarget = 0 ∧ (woken s).mod.pwr.sleeping = false := by
  have hp := (awake_spec s).1
  have hlost : (setCause (allLost (awake s)) 2).mod.pwr = _ := pwr_allLost (awake s)
  have hreturn : ((awake s).stacksIn.foldl (domainsReturn s.mod.pwr.sleepSaved) (awake s)).mod.pwr = (awake s).mod.pwr :=
    Same.foldl (v := fun s : State => s.mod.pwr) (fun u i => same_domainsReturn _ u i fun _ _ _ _ => rfl) _ _
  unfold woken
  split
  · rw [hlost]
    exact ⟨rfl, rfl⟩
  · rw [hreturn, hp]
    exact ⟨rfl, rfl⟩

/-- What a wake leaves: no sleep, its source shown, and every stack gone out of level 3, or its domains coming back. -/
theorem wake_spec (s : State) (src : Fin 7) :
    let t := raiseEvt ((woken s).setFlag pwrmPage 0x054 src.val true) pwrmPage 4
    t.mod.pwr.sleepTarget = 0 ∧ t.mod.pwr.sleeping = false ∧ t.flag pwrmPage 0x054 src.val = true ∧ t.flag pwrmPage 0x010 4 = true ∧
      (s.mod.pwr.sleepTarget = 3 → s.mod.pwr.sleeping = true →
        t.reg pwrmPage 0x044 = 2 ∧ ∀ st : Fin 8, s.has st = true → StackGone t st) ∧
      (s.mod.pwr.sleepTarget ≠ 3 → ∀ st : Fin 8, s.has st = true → ∀ k < 7,
        (s.mod.pwr.sleepSaved.getD st.val 0).getLsbD k = true → s.domOn st k = false → inTransit t st k = true) := by
  intro t
  obtain ⟨htarget, hsleep⟩ := woken_pwr s
  obtain ⟨-, hpart, hregs⟩ := awake_spec s
  have hmod : t.mod = (woken s).mod := mod_raiseEvt ..
  have hhas : ∀ i : Fin 8, (awake s).has i = s.has i := fun i => by rw [State.has, hpart]; rfl
  refine ⟨by rw [hmod, htarget], by rw [hmod, hsleep], ?_, flag_raiseEvt _ _ _ (by decide), fun h3 hs => ?_, fun h3 st hst k hk hsaved hoff => ?_⟩
  · rw [State.flag, reg_raiseEvt_apart _ _ _ _ (by decide) (by decide)]
    exact State.flag_setFlag_same _ _ _ _ (by omega)
  · have hw : woken s = setCause (allLost (awake s)) 2 := if_pos (by simp [h3, hs])
    constructor
    · rw [show t = _ from rfl, cause_raiseEvt _ _ _ Nat.one_pos, reg_setFlag_apart _ _ _ _ _ (by decide), hw]
      exact State.reg_setReg_same ..
    · intro st hst
      refine stackGone_raiseEvt (stackGone_setReg ?_ pwrmPage _ Nat.one_pos (by decide) (.inr (by decide))) pwrmPage 4 Nat.one_pos
      rw [hw]
      exact stackGone_setReg (stackGone_allLost ((hhas st).trans hst)) pwrmPage _ Nat.one_pos (by decide) (.inl (page_ne_of_blk nofun))
  · have hw : woken s = (awake s).stacksIn.foldl (domainsReturn s.mod.pwr.sleepSaved) (awake s) := if_neg (by simp [h3])
    have hdom : (awake s).domOn st k = s.domOn st k :=
      congrArg (fun w : Word => bitAt w.toNat k) (reg_of_regs hregs hpart (pwrPage st) 0x044)
    refine flag_raiseEvt_of_domFlag pwrmPage 4 Nat.one_pos ?_
    refine (flag_setFlag_page src.val true _ Nat.one_pos Nat.one_pos (by decide) (by decide) (.inr (by decide))).trans ?_
    rw [hw]
    exact inTransit_domainsReturn _ hsaved (hdom.trans hoff) hk (.inl (mem_stacksIn.2 ((hhas st).trans hst)))

end Sys2Proof.Laws
end

section
open Sys2Proof Machine Safety Laws

/-- Settles O57: what a stack's search for its level moves, the turn of each stack in a window, and the domains that a sleep or a wake
starts one by one. -/
theorem levelsAndSleep : Obligations.LevelsAndSleep := by
  refine ⟨fun s tw hr => ?window, fun s st quarterC hs hr => ?thermal, fun s st n hs hraise hn hl => ?raise,
    fun s r v hmay hgo hl ht => ⟨fun h => ?refused, fun h => ?begun⟩, fun s ht hs hoff => ⟨_, exec_sleepEntered ht hs hoff, sleepEntered_spec s⟩,
    fun s src ht he hres htrip => ⟨_, exec_wake ht he hres htrip, wake_spec s src⟩⟩
  case window => exact ⟨_, exec_powerCapWindow s tw hr, capWindow_spec s tw⟩
  case thermal =>
    intro hot n
    obtain ⟨htemp, hsought, hmem, htherm⟩ := thermalLevelUpdate_spec s st quarterC
    refine ⟨_, exec_thermalLevelUpdate hs hr, htemp, hsought, hmem, fun h => ?_, fun h h' => ?_, fun h h' => ?_⟩
    · exact htherm.trans (if_pos h)
    · exact htherm.trans ((if_neg (by omega)).trans (if_pos h'))
    · exact htherm.trans ((if_neg (by omega)).trans (if_neg (by omega)))
  case raise =>
    refine ⟨_, exec_levelRaiseSwitch hs hraise hn hl, (fld_switchLevel s st n hl (hn ▸ levelDue_lt s st)).1, ?_, flag_switchLevel hl, fun a => ?_⟩
    · rw [State.modPwr_st_pwr]
    · exact congrFun ((sameByte_switchLevel (s := s) (st := st) (n := n)).trans
        (sameByte_modPwr (switchLevel s st n) st (fun p => { p with raising := none }) fun _ => rfl)) a
  case refused =>
    have hle := sleepReason_le s
    refine completes_asked rfl hmay ?_
    rw [sleepGo_refused hgo hl ht h]
    refine ⟨?_, (congrArg (fun m : Module => m.pwr.sleepTarget) (mod_raiseEvt ..)).trans ht, flag_raiseEvt _ _ _ (by decide)⟩
    rw [reg_raiseEvt_apart _ _ _ _ (by decide) (by decide), State.reg_setReg_same, BitVec.toNat_ofNat]
    omega
  case begun =>
    refine completes_asked rfl hmay ?_
    rw [sleepGo_begun hgo hl ht h]
    exact sleepGo_spec s

end

section
/-! O56: a power-down that a swap holds back, once PWR_DOM_REQ is written (R426, R453). The statement asks of every state whether a
swap holds a quadrant before the write. The model asks it after, through the number of the swap's spare, which is any number in the
state: one past the four of the spare map reads a register of another page, and here that register is PWR_DOM_REQ itself. No rule
of the spec gives a swap such a spare. -/

namespace Sys2Proof.Laws

open Machine

/-- The number of a spare whose register lies where PWR_DOM_REQ does. -/
def farSpare : Nat := (0x160040 - 0x0A0) / 4

/-- A part at reset, but that quadrant 1 of stack 0 is ON and a swap of core 0 has cut over to a spare past the spare map. -/
def farSwapping : State :=
  (State.reset.setReg (pwrPage 0) 0x044 0x82).modArb 0 fun b =>
    { b with run := [{ act := 4, scope := 0, sub := 0, ticket := 0, phase := 1, spare := farSpare }] }

/-- What a request for quadrant 4 alone leaves of it. -/
def farRequested : State := domRequest farSwapping 0 0x10

theorem exec_farRequested : exec (.pwrDomReq .mgmt 0 0x10) farSwapping = .next farRequested := by
  have hw : mayWrite farSwapping .mgmt (pwrPage 0) 0x040 = true := by decide +kernel
  have hs : farSwapping.has 0 = true := by decide
  have ha : asked farSwapping .mgmt (pwrPage 0) 0x040 (domRequest farSwapping 0 0x10) = farRequested := if_pos hw
  exact (if_pos hs : execPwrDomReq .mgmt 0 0x10 farSwapping = _).trans (congrArg Host.Outcome.next ha)

/-- No swap holds the quadrant before the request, and it does not begin to power down. -/
theorem swapHolds_farSwapping : swapHolds farSwapping 0 1 = false := by decide +kernel
theorem inTransit_farRequested : inTransit farRequested 0 1 = false := by decide +kernel

end Sys2Proof.Laws
end

section
open Sys2Proof Machine Laws

/-- Refutes O56, by its first clause: the swap's spare lies past the spare map, so the request itself changes which quadrants the
model takes the swap to hold, and quadrant 1, held by no swap before it, stays as it is. -/
theorem not_domainsAndStartup : ¬ Obligations.DomainsAndStartup := by
  rintro ⟨hreq, -⟩
  obtain ⟨t, ht, -, -, hdom⟩ := hreq farSwapping .mgmt 0 0x10 (by decide) (by decide +kernel) (by decide)
  obtain rfl : farRequested = t := Host.Outcome.next.inj (exec_farRequested.symm.trans ht)
  obtain ⟨-, -, hdown, -⟩ := hdom 1 (by decide) (by decide +kernel)
  have hmoves := (hdown (by decide) (by decide +kernel) swapHolds_farSwapping).1
  rw [inTransit_farRequested] at hmoves
  exact Bool.false_ne_true hmoves

end

section
/-! Sessions as their ends, their packets and their handshakes leave them (R346 to R358, R363). -/

namespace Sys2Proof.Laws

open Machine Safety

/-! ### What reaches a session -/

theorem sess_of_keptBut {l : List Kind} {s t : State} (h : KeptBut l s t) (hk : Kind.sessions ∉ l) (i : Fin 8) (x : Nat) :
    t.sess i x = s.sess i x := congrArg (Sparse.get _ · x) (h.kind .sessions hk i)

section
variable (s : State) (st : Fin 8) (ctx : Nat)

/-- What the end of a session reaches beside it: the channels and the stream that used it, with their faults. -/
def sessionEndKinds : List Kind := .channels :: .streams :: .page .kxt :: faultKinds

theorem keptBut_chanFail (c det high : Nat) : KeptBut sessionEndKinds s (chanFail s st c det high) := by
  have hfault := (keptBut_recordFault s (p := kxtPage st) 0x06 det (high * 2 ^ 16 + c) 0 Nat.one_pos).mono
    (by decide : (Kind.page .kxt :: faultKinds) ⊆ sessionEndKinds)
  have hchan := fun u : State => (keptBut_modChan u st c fun x => { x with st := .failed }).mono (by decide : _ ⊆ sessionEndKinds)
  exact hfault.trans (hchan _) |>.trans ((keptBut_ringBits _ st _ (bitsOf_lt _ 21 16)).mono (by decide))

theorem keptBut_collSessionLost : KeptBut sessionEndKinds s (collSessionLost s st ctx) :=
  .foldl (fun u c => by
    dsimp only
    split
    · split
      · exact keptBut_chanFail ..
      · exact .refl _ u
    · exact .refl _ u) _ _

theorem keptBut_ckptSessionLost : KeptBut sessionEndKinds s (ckptSessionLost s st ctx) := by
  unfold ckptSessionLost
  split
  · exact (keptBut_abandonStream s st 0xFFFF).mono (by decide)
  · exact .refl _ s

theorem sess_lost (i : Fin 8) (x : Nat) : (ckptSessionLost (collSessionLost s st ctx) st ctx).sess i x = s.sess i x :=
  sess_of_keptBut ((keptBut_collSessionLost s st ctx).trans (keptBut_ckptSessionLost ..)) (by decide) i x

/-- The context of a session that has become CLOSED is zeroed (R349). -/
theorem sess_sessClosed : (sessClosed s st ctx).sess st ctx = {} := by
  have hseqs : ∀ u : State, (u.stacksIn.foldl (fun s i => (List.finRange 4).foldl (fun s n => s.modSeq i n fun q =>
      { q with loadReply := q.loadReply.filter fun r => r.1 != sidOf st ctx }) s) u).sess st ctx = u.sess st ctx := fun u =>
    sess_of_keptBut (.foldl (fun _ i => .foldl (fun _ n => keptBut_modSeq _ i n _) _ _) _ _) (by decide) st ctx
  have hzero : ((s.modSess st ctx fun _ => {}).modSt st fun x => { x with replies := x.replies.filter fun w => w.ctx != ctx }).sess st ctx =
      {} := by
    rw [State.sess, State.st_modSt, if_pos rfl]
    exact State.sess_modSess_same s st ctx fun _ => {}
  exact (sess_lost ..).trans ((hseqs _).trans hzero)

/-- A session that has become FAILED shows it, and is otherwise as it was. -/
theorem sess_sessFailed : (sessFailed s st ctx).sess st ctx = { s.sess st ctx with st := .failed } :=
  (sess_lost ..).trans ((sess_of_keptBut (keptBut_raiseEvt _ (p := kxtPage st) 4 Nat.one_pos)
    (by decide : Kind.sessions ∉ Kind.page .kxt :: eventKinds) st ctx).trans
    (State.sess_modSess_same ..))

/-- An open request that ends leaves every session, shows its status and its session id, and opens no more (R363). -/
theorem openEnds_spec (status sid : Nat) : ((openEnds s st status sid).st st).opening = none ∧
    (∀ i x, (openEnds s st status sid).sess i x = s.sess i x) ∧
    (openEnds s st status sid).reg (kxtPage st) 0x0E0 = BitVec.ofNat 32 (status % 256 * 2 ^ 8) ∧
    (openEnds s st status sid).reg (kxtPage st) 0x0E4 = BitVec.ofNat 32 sid := by
  refine ⟨?_, fun i x => ?_, ?_, State.reg_setReg_same ..⟩
  · exact congrArg Stack.opening ((State.st_modSt s st (fun x => { x with opening := none }) st).trans (if_pos rfl))
  · exact congrArg (Sparse.get _ · x) (State.st_modSt_proj (f := fun x => { x with opening := none }) s Stack.sess (by intro; rfl) st i)
  · exact (reg_setReg_apart _ _ _ _ (by decide)).trans (State.reg_setReg_same ..)

theorem st_send (o : Output) (i : Fin 8) : (s.send o).st i = s.st i := by
  unfold State.send
  split
  · exact Same.ite (v := fun u : State => u.st i) (.refl s) rfl
  · exact Same.ite (v := fun u : State => u.st i) (.refl s) rfl
  · rfl

theorem regs_send (o : Output) : (s.send o).regs = s.regs ∧ (s.send o).part = s.part := by
  unfold State.send
  split
  · split <;> exact ⟨rfl, rfl⟩
  · split <;> exact ⟨rfl, rfl⟩
  · exact ⟨rfl, rfl⟩

end

end Sys2Proof.Laws
end

section
/-! O41: the handshakes (R349 to R354, R363). -/

namespace Sys2Proof.Laws

open Machine Safety

section
variable (s : State) (st : Fin 8) (ctx : Nat)

/-! ### Sending -/

theorem st_sendFragments (port link : Nat) (type : Byte) (dsid : Word) (body : List Byte) (i : Fin 8) :
    (sendFragments s st port link type dsid body).st i = s.st i :=
  Same.foldl (v := fun u : State => u.st i) (fun u _ => st_send u _ i) _ _

theorem st_freeBytes (n : Nat) : ∀ (s : State) (i : Fin 8), (freeBytes n s).2.st i = s.st i := by
  induction n with
  | zero => exact fun _ _ => rfl
  | succ n ih => exact fun s i => ih s.drawFree.2 i

theorem length_freeBytes (n : Nat) : ∀ s : State, (freeBytes n s).1.length = n := by
  induction n with
  | zero => exact fun _ => rfl
  | succ n ih => exact fun s => congrArg (· + 1) (ih s.drawFree.2)

/-! ### HS_INIT sent (R352, R363) -/

/-- The body of the HS_INIT that a context sends. -/
def initBody (bs : List Byte) : List Byte :=
  let d := freeBytes 32 s
  let z := freeBytes 32 d.2
  let nonce := freeBytes 32 z.2
  let head := bs.take 1 ++ [0, 0, 0] ++ leBytes (sidOf st ctx) 4 ++ slice bs 24 32 ++ nonce.1 ++
    slice (Config.kemEncapsKey d.1 z.1) 0 1184 ++ ikPublic s
  head ++ ikSign s head []

theorem length_initBody {bs : List Byte} (h : 1 ≤ bs.length) : (initBody s st ctx bs).length = 6517 := by
  simp only [initBody, ikSign, ikPublic, List.length_append, slice_length, leBytes_length, length_freeBytes, List.length_take,
    List.length_cons, List.length_nil]
  omega

/-- The session of a context that has sent HS_INIT. -/
def initSession (bs : List Byte) : Session :=
  { st := .hsSent, role := (bs.getD 0 0).toNat, initiator := true, port := (bs.getD 1 0).toNat / 4 % 2, link := (bs.getD 1 0).toNat % 4,
    hsBody := initBody s st ctx bs, kemD := val256 (freeBytes 32 s).1, kemZ := val256 (freeBytes 32 (freeBytes 32 s).2).1,
    hsTarget := val256 (slice bs 24 32) }

/-- The state from which HS_INIT is sent: three draws of 32 open bytes, and the context. -/
def initReady (bs : List Byte) : State :=
  (freeBytes 32 (freeBytes 32 (freeBytes 32 s).2).2).2.modSess st ctx fun _ => initSession s st ctx bs

theorem sendInit_eq (bs : List Byte) : sendInit s st ctx bs = sendFragments (initReady s st ctx bs) st ((bs.getD 1 0).toNat / 4 % 2)
    ((bs.getD 1 0).toNat % 4) 0x01 0 (initBody s st ctx bs) := rfl

theorem sess_sendInit (bs : List Byte) : (sendInit s st ctx bs).sess st ctx = initSession s st ctx bs := by
  rw [sendInit_eq, State.sess, st_sendFragments]
  exact State.sess_modSess_same ..

theorem opening_sendInit (bs : List Byte) : ((sendInit s st ctx bs).st st).opening = (s.st st).opening := by
  have hfree : (freeBytes 32 (freeBytes 32 (freeBytes 32 s).2).2).2.st st = s.st st :=
    (st_freeBytes 32 _ st).trans ((st_freeBytes 32 _ st).trans (st_freeBytes 32 s st))
  rw [sendInit_eq, st_sendFragments]
  exact (State.st_modSt_proj _ Stack.opening (by intro; rfl) st st).trans (congrArg Stack.opening hfree)

end

end Sys2Proof.Laws
end

section
/-! O41, from the request to each answer. -/

namespace Sys2Proof.Laws

open Machine Safety

section
variable {s : State} {st : Fin 8} {ctx : Nat}

/-! ### KXT_OPEN_GO (R363) -/

/-- The state in which an open request has its context. -/
def openAsked (s : State) (st : Fin 8) (ctx : Nat) : State := s.now.2.modSt st fun x => { x with opening := some ctx }

/-- Where the open request stands, its bytes, and the range it asks for. -/
def requestAt (s : State) (st : Fin 8) : Nat := s.pair (kxtPage st) 0x084
def requestBytes (s : State) (st : Fin 8) : List Byte := s.bytes (requestAt s st) 64
def requestRange (s : State) (st : Fin 8) : Nat := leNat (slice (requestBytes s st) 6 2)

theorem kxtOpenGo_of_free {r : Requester} {pl : Place} (hop : (s.st st).opening = none) (ha : requestAt s st < 2 ^ 52)
    (hh : s.has (stackField (requestAt s st)) = true) (hpl : rangePlace s (requestAt s st) 64 = some pl) (hregs : pl ≠ .regs)
    (hread : readFailure s (requestAt s st) 64 = none) (hreq : requestOk (requestBytes s st) = true)
    (hblocked : ∀ e ∈ (s.st st).blocked, e.1 ≠ val256 (slice (requestBytes s st) 24 32))
    (hplan : rangeBind s st (requestRange s st) = requesterPlan s st r) (hmove : rangeMoving s st (requestRange s st) = false)
    (hfree : freeInRange s st (requestRange s st) = some ctx) :
    kxtOpenGo s r st = (sendInit (openAsked s st ctx) st ctx (requestBytes s st)).setReg (kxtPage st) 0x0E0 1 := by
  have hnow : ∀ t, blockedNow t (val256 (slice (requestBytes s st) 24 32)) (s.st st).blocked = false := fun t => by
    rw [blockedNow, List.any_eq_false]
    intro e he
    rw [beq_false_of_ne (hblocked e he), Bool.false_and]
    exact Bool.false_ne_true
  have hlow : ¬(requestAt s st / 2 ^ 52 ≠ 0 ∨ s.has (stackField (requestAt s st)) = false) := by
    rw [Nat.div_eq_of_lt ha, hh]
    decide
  rw [kxtOpenGo, if_neg (by simp [hop])]
  refine (if_neg hlow).trans ?_
  dsimp only [requestRange, requestBytes, requestAt] at *
  rw [hpl]
  cases pl with
  | regs => exact absurd rfl hregs
  | _ =>
    dsimp only
    rw [if_neg (by simp [hread, hreq, hnow]), if_neg (by simp [hplan, hmove]), hfree]
    rfl

theorem opening_openAsked : ((openAsked s st ctx).st st).opening = some ctx :=
  congrArg Stack.opening ((State.st_modSt ..).trans (if_pos rfl))

/-- The part opens a session (R363): it shows BUSY, and its context has sent HS_INIT. -/
theorem openGo_spec (bs : List Byte) (hbs : bs.length = 64) :
    let t := (sendInit (openAsked s st ctx) st ctx bs).setReg (kxtPage st) 0x0E0 1
    let c := t.sess st ctx
    (t.st st).opening = some ctx ∧ t.reg (kxtPage st) 0x0E0 = 1 ∧ c.st = .hsSent ∧ c.initiator = true ∧
      c.role = (bs.getD 0 0).toNat ∧ c.hsTarget = val256 (slice bs 24 32) ∧ c.hsBody.length = 6517 := by
  intro t c
  have hc : c = initSession (openAsked s st ctx) st ctx bs := sess_sendInit ..
  rw [hc]
  exact ⟨(opening_sendInit ..).trans opening_openAsked, State.reg_setReg_same .., rfl, rfl, rfl, rfl, length_initBody _ _ _ (by omega)⟩

/-! ### HS_INIT received (R349 to R353) -/

theorem refuseCapacity_spec (port link isid : Nat) : ((refuseCapacity s st port link isid).st st).sess = (s.st st).sess ∧
    (refuseCapacity s st port link isid).reg (kxtPage st) 0x05C = sat32 ((s.reg (kxtPage st) 0x05C).toNat + 1) := by
  have hev : ∀ u : State, ((raiseEvt u (kxtPage st) 5).st st).sess = (u.st st).sess := fun u =>
    (keptBut_raiseEvt u (p := kxtPage st) 5 Nat.one_pos).kind .sessions (by decide : Kind.sessions ∉ Kind.page .kxt :: eventKinds) st
  refine ⟨(congrArg Stack.sess (st_send ..)).trans (hev _), ?_⟩
  have hregs := regs_send (raiseEvt (s.countSat (kxtPage st) 0x05C) (kxtPage st) 5) (.packet st port link
    (plainPacket 0x03 (BitVec.ofNat 32 isid) 0 (leBytes 0x0D 2)))
  refine (reg_of_regs hregs.1 hregs.2 _ _).trans ?_
  exact (reg_raiseEvt_apart _ _ _ _ (by decide) (by decide)).trans (State.reg_setReg_same ..)

/-- The session that a valid HS_INIT opens. -/
def initTaken (s : State) (st : Fin 8) (port link ctx : Nat) (body rnd : List Byte) : Session :=
  let enc := Config.kemEncaps (slice body 72 1184) rnd
  let head := leBytes (sidOf st ctx) 4 ++ slice body 4 4 ++ slice enc.1 0 1088 ++ ikPublic s
  ({ st := .hsRecv, role := (body.getD 0 0).toNat, port := port, link := link, peer := BitVec.ofNat 32 (leNat (slice body 4 4)),
     peerHash := val256 (shake (slice body 1256 1952) 32) } : Session).keyed false
    (okm body (head ++ ikSign s (shake body 64 ++ head) []) (slice enc.2 0 32))

theorem sess_acceptInit (port link : Nat) (body rnd : List Byte) :
    (acceptInit s st port link ctx body rnd).sess st ctx = initTaken s st port link ctx body rnd := by
  rw [acceptInit, State.sess, st_sendFragments]
  exact State.sess_modSess_same ..

section
variable {port link : Nat} {body rnd : List Byte} (hlen : body.length = 6517) (hlow : 1 ≤ (body.getD 0 0).toNat)
  (hhigh : (body.getD 0 0).toNat ≤ 3) (hzero : slice body 1 3 = [0, 0, 0])
include hlen hlow hhigh hzero

theorem hsInit_formed : hsInit s st port link body rnd =
    if s.flag (kxtPage st) 0x040 16 = false then refuseCapacity s st port link (leNat (slice body 4 4))
    else if initAuth s body = false then sendReject (s.countSat (kxtPage st) 0x060) st port link (leNat (slice body 4 4)) 0x0E
    else match incomingContext s st (body.getD 0 0).toNat with
      | none => refuseCapacity s st port link (leNat (slice body 4 4))
      | some ctx => acceptInit s st port link ctx body rnd :=
  if_neg (by rw [hlen, hzero]; simp only [ne_eq, not_true_eq_false, or_false, false_or]; omega)

theorem hsInit_taken (hacc : s.flag (kxtPage st) 0x040 16 = true) (hauth : initAuth s body = true)
    (hctx : incomingContext s st (body.getD 0 0).toNat = some ctx) :
    hsInit s st port link body rnd = acceptInit s st port link ctx body rnd := by
  rw [hsInit_formed hlen hlow hhigh hzero, if_neg (by simp [hacc]), if_neg (by simp [hauth]), hctx]

theorem hsInit_refused (h : s.flag (kxtPage st) 0x040 16 = false ∨
    (initAuth s body = true ∧ incomingContext s st (body.getD 0 0).toNat = none)) :
    hsInit s st port link body rnd = refuseCapacity s st port link (leNat (slice body 4 4)) := by
  rw [hsInit_formed hlen hlow hhigh hzero]
  by_cases hacc : s.flag (kxtPage st) 0x040 16 = false
  · rw [if_pos hacc]
  · obtain ⟨hauth, hctx⟩ := h.resolve_left hacc
    rw [if_neg hacc, if_neg (by simp [hauth]), hctx]

end

/-! ### The answers (R349, R351) -/

/-- The session that a valid HS_RESP leaves before it opens. -/
def respTaken (c : Session) (body : List Byte) : Session :=
  let ss := slice (Config.kemDecaps (bytes256 c.kemD) (bytes256 c.kemZ) (slice body 8 1088)) 0 32
  { c.keyed true (okm c.hsBody body ss) with
    peer := BitVec.ofNat 32 (leNat (slice body 0 4)), peerHash := c.hsTarget, hsBody := [], kemD := 0, kemZ := 0 }

/-- The session of a context that opens is otherwise as it was, but for its pacing. -/
theorem sess_sessOpened (s : State) (st : Fin 8) (ctx : Nat) : ∃ r, (sessOpened s st ctx).sess st ctx =
    { s.sess st ctx with st := .opened, rate := r, target := r, alpha := 1, clean := 0 } := by
  have hev : ∀ u : State, (raiseEvt u (kxtPage st) 3).sess st ctx = u.sess st ctx := fun u =>
    sess_of_keptBut (keptBut_raiseEvt u (p := kxtPage st) 3 Nat.one_pos) (by decide : Kind.sessions ∉ Kind.page .kxt :: eventKinds) st ctx
  exact ⟨_, (hev _).trans (State.sess_modSess_same ..)⟩

/-- The state in which a valid HS_RESP opens its session. -/
def respState (s : State) (st : Fin 8) (ctx : Nat) (body : List Byte) : State :=
  sessOpened (s.modSess st ctx fun _ => respTaken (s.sess st ctx) body) st ctx

theorem exec_hsResp {body : List Byte} (hs : s.has st = true) (hst : (s.sess st ctx).st = .hsSent) (hlen : body.length = 6357)
    (hsid : leNat (slice body 4 4) = sidOf st ctx) (hkey : val256 (shake (slice body 1096 1952) 32) = (s.sess st ctx).hsTarget)
    (hsig : Config.dsaVerify (slice body 1096 1952) (shake (s.sess st ctx).hsBody 64 ++ body.take 3048) [] (slice body 3048 3309) = true) :
    exec (.hsResp st ctx body) s = .next (openEnds (respState s st ctx body) st 0 (sidOf st ctx)) := by
  show execHsResp st ctx body s = _
  rw [execHsResp, if_pos hs]
  exact congrArg Host.Outcome.next (if_pos ⟨hst, hlen, hsid, hkey, hsig⟩)

theorem respState_spec (body : List Byte) : ((respState s st ctx body).sess st ctx).st = .opened ∧
    ((respState s st ctx body).sess st ctx).peer = BitVec.ofNat 32 (leNat (slice body 0 4)) ∧
    ((respState s st ctx body).sess st ctx).role = (s.sess st ctx).role := by
  obtain ⟨r, h⟩ := sess_sessOpened (s.modSess st ctx fun _ => respTaken (s.sess st ctx) body) st ctx
  rw [respState, h, State.sess_modSess_same]
  exact ⟨rfl, rfl, rfl⟩

/-- The state in which HS_REJECT has left the peer alone. -/
def rejected (s : State) (st : Fin 8) (ctx : Nat) : State :=
  s.now.2.modSt st fun x => { x with blocked := x.blocked ++ [((s.sess st ctx).hsTarget, s.now.1)] }

theorem exec_hsReject {status : BitVec 16} (hs : s.has st = true) (hst : (s.sess st ctx).st = .hsSent) :
    exec (.hsReject st ctx status) s = .next (openEnds (sessClosed (rejected s st ctx) st ctx) st status.toNat 0) := by
  show execHsReject st ctx status s = _
  rw [execHsReject, if_pos hs]
  exact congrArg Host.Outcome.next (if_pos hst)

theorem exec_hsTimeout_sent (hs : s.has st = true) (hst : (s.sess st ctx).st = .hsSent) :
    exec (.hsTimeout st ctx) s = .next (openEnds (sessClosed s.drawFree.2 st ctx) st s.drawFree.1.toNat 0) := by
  show execHsTimeout st ctx s = _
  rw [execHsTimeout, if_pos hs, hst]

theorem exec_hsTimeout_recv (hs : s.has st = true) (hst : (s.sess st ctx).st = .hsRecv) :
    exec (.hsTimeout st ctx) s = .next (sessClosed s st ctx) := by
  show execHsTimeout st ctx s = _
  rw [execHsTimeout, if_pos hs, hst]

theorem exec_failedTimeout (hs : s.has st = true) (hst : (s.sess st ctx).st = .failed) :
    exec (.failedTimeout st ctx) s = .next (sessClosed s st ctx) := by
  show execFailedTimeout st ctx s = _
  rw [execFailedTimeout, if_pos hs, if_pos hst]

theorem sidOf_lt (h : ctx < 2 ^ 15) : sidOf st ctx < 2 ^ 32 := by
  have := st.isLt
  unfold sidOf
  omega

/-- The field of KXT_OPEN_STAT that shows a status (R363). -/
theorem fld_openStatus {n : Nat} (h : s.reg (kxtPage st) 0x0E0 = BitVec.ofNat 32 (n % 256 * 2 ^ 8)) :
    s.fld (kxtPage st) 0x0E0 15 8 = n % 256 := by
  rw [State.fld, h, BitVec.toNat_ofNat, bitsOf_eq]
  omega

end

end Sys2Proof.Laws
end

section
open Sys2Proof Machine Safety Laws

/-- Settles O41, by what each handshake leaves of its context and of the open request. -/
theorem sessionHandshakes : Obligations.SessionHandshakes := by
  refine ⟨fun s r st ctx pl hs => ?go, fun s st port k body rnd hs hlen => ?init, fun s st ctx hs => ⟨?resp, ?reject, ?timeout, ?failed⟩⟩
  case go =>
    intro a bs range hmay hop ha hh hpl hregs hread hreq hblocked hplan hmove hfree
    refine completes_asked (if_pos hs) hmay ?_
    rw [kxtOpenGo_of_free hop ha hh hpl hregs hread hreq hblocked hplan hmove hfree]
    exact openGo_spec _ (bytes_length ..)
  case init =>
    intro role hlow hhigh hzero
    refine ⟨fun ctx hacc hauth hctx => ⟨_, if_pos hs, ?_⟩, fun h => ⟨_, if_pos hs, ?_⟩⟩
    · rw [hsInit_taken hlen hlow hhigh hzero hacc hauth hctx]
      dsimp only
      rw [sess_acceptInit]
      exact ⟨rfl, rfl, rfl, rfl, rfl, rfl⟩
    · rw [hsInit_refused hlen hlow hhigh hzero h]
      exact refuseCapacity_spec ..
  case resp =>
    intro hst hctx body hlen hsid hkey hsig
    obtain ⟨hop, hsess, hstat, hid⟩ := openEnds_spec (respState s st ctx body) st 0 (sidOf st ctx)
    obtain ⟨hopened, hpeer, hrole⟩ := respState_spec (s := s) (st := st) (ctx := ctx) body
    refine ⟨_, exec_hsResp hs hst hlen hsid hkey hsig, ?_⟩
    dsimp only
    rw [hsess]
    refine ⟨hopened, hpeer, hrole, hop, hstat, ?_⟩
    rw [hid, BitVec.toNat_ofNat, Nat.mod_eq_of_lt (sidOf_lt hctx)]
  case reject =>
    intro hst status
    obtain ⟨hop, hsess, hstat, -⟩ := openEnds_spec (sessClosed (rejected s st ctx) st ctx) st status.toNat 0
    exact ⟨_, exec_hsReject hs hst, (hsess ..).trans (sess_sessClosed ..), hop, fld_openStatus hstat⟩
  case timeout =>
    rintro (hst | hst)
    · obtain ⟨hop, hsess, -, -⟩ := openEnds_spec (sessClosed s.drawFree.2 st ctx) st s.drawFree.1.toNat 0
      exact ⟨_, exec_hsTimeout_sent hs hst, (hsess ..).trans (sess_sessClosed ..), fun _ => hop⟩
    · exact ⟨_, exec_hsTimeout_recv hs hst, sess_sessClosed .., fun h => by simp [hst] at h⟩
  case failed => exact fun hst => ⟨_, exec_failedTimeout hs hst, sess_sessClosed ..⟩

end

section
/-! O42: packets of a session received, acknowledged, sent again and paced (R346, R349, R351, R355 to R358). -/

namespace Sys2Proof.Laws

open Machine Safety

/-! ### A session written twice -/

/-- A key that is written twice with listed values holds the second alone. -/
theorem Sparse.set_set {α : Type} [DecidableEq α] {d : Nat → α} {k : Nat} {a b : α} (ha : a ≠ d k) (hb : b ≠ d k) :
    ∀ m : Sparse α, Machine.Sparse.set d (Machine.Sparse.set d m k a) k b = Machine.Sparse.set d m k b
  | [] => by simp [Machine.Sparse.set, ha, hb]
  | (k', v) :: m => by
    by_cases hlt : k' < k
    · simp [Machine.Sparse.set, hlt, Sparse.set_set ha hb m]
    · simp [Machine.Sparse.set, hlt, ha, hb]

theorem modSt_modSt (s : State) (i : Fin 8) (f g : Stack → Stack) : (s.modSt i f).modSt i g = s.modSt i fun x => g (f x) := by
  simp only [State.modSt, Fin.getElem_fin, Vector.getElem_set_self, Vector.set_set]

/-- A session changed twice, where it is listed both times. -/
theorem modSess_modSess (s : State) (st : Fin 8) (ctx : Nat) {f g : Session → Session} (hf : f (s.sess st ctx) ≠ {})
    (hg : g (f (s.sess st ctx)) ≠ {}) : (s.modSess st ctx f).modSess st ctx g = s.modSess st ctx fun c => g (f c) := by
  have hsess : Machine.Sparse.set (fun _ => ({} : Session)) (Machine.Sparse.set (fun _ => {}) (s.st st).sess ctx (f (s.sess st ctx))) ctx
      (g (Machine.Sparse.get (fun _ => {}) (Machine.Sparse.set (fun _ => {}) (s.st st).sess ctx (f (s.sess st ctx))) ctx)) =
      Machine.Sparse.set (fun _ => {}) (s.st st).sess ctx (g (f (s.sess st ctx))) := by
    rw [Sparse.get_set, if_pos rfl]
    exact Sparse.set_set hf hg _
  rw [State.modSess, State.modSess, modSt_modSt]
  exact congrArg (fun m => ({ s with stk := s.stk.set st { s.st st with sess := m } } : State)) hsess

/-- What a session becomes is all that is asked of a change of it. -/
theorem modSess_congr (s : State) (st : Fin 8) (ctx : Nat) {f g : Session → Session} (h : f (s.sess st ctx) = g (s.sess st ctx)) :
    s.modSess st ctx f = s.modSess st ctx g :=
  congrArg (fun c => ({ s with stk := s.stk.set st { s.st st with sess := Machine.Sparse.set (fun _ => {}) (s.st st).sess ctx c } } : State)) h

/-! ### What is sent (R354 to R357) -/

section
variable (s : State) (st : Fin 8) (ctx : Nat)

theorem sess_send (o : Output) (i : Fin 8) (x : Nat) : (s.send o).sess i x = s.sess i x :=
  congrArg (fun k : Stack => Machine.Sparse.get (fun _ => ({} : Session)) k.sess x) (st_send s o i)

/-- A packet takes the next PN, and leaves what it leaves unread of its session: the rest but the sender's key. -/
theorem sess_sendPacket (type : Byte) (seq : Word) (retx : Bool) (body : List Byte) :
    (sendPacket s st ctx type seq retx body).sess st ctx = { txKey (s.sess st ctx) with pnTx := (s.sess st ctx).pnTx + 1 } := by
  have hpn : (txKey (s.sess st ctx)).pnTx = (s.sess st ctx).pnTx := by
    unfold txKey
    split <;> rfl
  rw [sendPacket, sess_send, State.sess_modSess_same, hpn]

/-- What a sender's key change leaves of a session. -/
theorem txKey_eq (c : Session) : ∃ k e, txKey c = { c with keyTx := k, epochTx := e } := by
  unfold txKey
  split
  · exact ⟨_, _, rfl⟩
  · exact ⟨c.keyTx, c.epochTx, rfl⟩

/-- What of a session its packets leave as it was: its state, what it has received and acknowledged, and the SEQs it has sent. -/
def standing (c : Session) : SessState × DWord × Nat × Bool × List Word :=
  (c.st, c.ackPn, c.unacked, c.rtoSeen, c.sent.map (·.seq))

theorem standing_sendPacket (type : Byte) (seq : Word) (retx : Bool) (body : List Byte) :
    standing ((sendPacket s st ctx type seq retx body).sess st ctx) = standing (s.sess st ctx) := by
  obtain ⟨k, e, h⟩ := txKey_eq (s.sess st ctx)
  rw [sess_sendPacket, h]
  rfl

/-- A packet is noted as sent, or sent again, with a PN. -/
def repacketed (seq : Word) (pn : DWord) (c : Session) : Session :=
  { c with sent := c.sent.map fun e => if e.seq = seq then { e with pn := pn } else e }

theorem standing_repacketed (seq : Word) (pn : DWord) (c : Session) : standing (repacketed seq pn c) = standing c := by
  have hseq : (c.sent.map fun e => if e.seq = seq then { e with pn := pn } else e).map (·.seq) = c.sent.map (·.seq) := by
    rw [List.map_map]
    refine List.map_congr_left fun e _ => ?_
    dsimp only [Function.comp_apply]
    split <;> rfl
  rw [standing, standing, ← hseq]
  rfl

theorem sess_sendData (seq : Word) (retx : Bool) (body : List Byte) : (sendData s st ctx seq retx body).sess st ctx =
    repacketed seq (s.sess st ctx).pnTx ((sendPacket s st ctx 0x10 seq retx body).sess st ctx) := by
  have hcount : ∀ u : State, (if retx then u.countPair (kxtPage st) 0x068 else u).sess st ctx = u.sess st ctx := fun u => by
    split <;> rfl
  exact (hcount _).trans (State.sess_modSess_same ..)

theorem standing_sendData (seq : Word) (retx : Bool) (body : List Byte) :
    standing ((sendData s st ctx seq retx body).sess st ctx) = standing (s.sess st ctx) := by
  rw [sess_sendData, standing_repacketed, standing_sendPacket]

theorem pnTx_sendData (seq : Word) (retx : Bool) (body : List Byte) :
    ((sendData s st ctx seq retx body).sess st ctx).pnTx = (s.sess st ctx).pnTx + 1 := by
  rw [sess_sendData, sess_sendPacket]
  rfl

theorem standing_closeIfIdle : standing ((closeIfIdle s st ctx).sess st ctx) = standing (s.sess st ctx) := by
  unfold closeIfIdle
  dsimp only
  split
  · rw [standing_sendPacket, State.sess_modSess_same]
    rfl
  · rfl

/-- The ACK of a session is sent: nothing waits to be acknowledged (R356). -/
theorem sess_sendAck : ((sendAck s st ctx).sess st ctx).unacked = 0 ∧ ((sendAck s st ctx).sess st ctx).pnTx = (s.sess st ctx).pnTx + 1 := by
  obtain ⟨k, e, h⟩ := txKey_eq ((s.modSess st ctx fun c => { c with unacked := 0, ceSince := 0 }).sess st ctx)
  rw [sendAck, sess_sendPacket, h, State.sess_modSess_same]
  exact ⟨rfl, rfl⟩

end

/-! ### What is received (R346, R351) -/

section
variable {s u : State} {st : Fin 8} {port link ctx : Nat} {p : Packet} {type : Byte} {bs : List Byte}

theorem fst_of_map_pair {α β : Type} {o : Option β} {a d : α} {b : β} (h : (o.map fun y => (a, y)) = some (d, b)) : d = a := by
  obtain ⟨y, -, hy⟩ := Option.map_eq_some_iff.1 h
  exact (congrArg Prod.fst hy).symm

theorem st_openBody {c d : Session} (h : openBody c p = some (d, bs)) : d.st = c.st := by
  by_cases he : bitAt p.flags.toNat 0 = c.epochRx
  · rw [openBody, if_pos he] at h
    rw [fst_of_map_pair h]
  · rw [openBody, if_neg he] at h
    split at h
    · rw [fst_of_map_pair h]
    · rw [fst_of_map_pair h]

theorem open_of_rxContext {dsid : Word} (h : rxContext s st dsid = some ctx) : (s.sess st ctx).st ≠ .closed := by
  unfold rxContext at h
  dsimp only at h
  split_ifs at h
  intro hc
  have hat : dsid.toNat % 2 ^ 15 = ctx := by
    split at h
    all_goals cases h <;> rfl
  rw [hat, hc] at h
  cases h

/-- A packet is received in a session that is not CLOSED. -/
theorem open_of_receive (h : receive s st port link p type = (u, some (ctx, bs))) : (u.sess st ctx).st ≠ .closed := by
  unfold receive at h
  split_ifs at h
  · cases h
  · split at h
    · cases h
    · next x hx =>
      split at h
      · cases h
      · next c y hc =>
        obtain ⟨hu, hy⟩ := Prod.mk.inj h
        obtain ⟨rfl, rfl⟩ := Prod.mk.inj (Option.some.inj hy)
        rw [← hu, State.sess_modSess_same]
        exact (st_openBody hc).trans_ne (open_of_rxContext hx)

end

end Sys2Proof.Laws
end

section
/-! ### DATA in order (R355, R356) -/

namespace Sys2Proof.Laws

open Machine Safety

section
variable {s u v : State} {st : Fin 8} {ctx : Nat} {seq : Word} {bs : List Byte} {ce : Bool}

/-- The state in which the next SEQ of a session executes. -/
def nextTaken (v : State) (st : Fin 8) (ctx : Nat) (ce : Bool) : State :=
  v.modSess st ctx fun c => { c with ceSince := c.ceSince + bit ce, unacked := c.unacked + 1, seqRx := c.seqRx + 1 }

/-- The acknowledgement that follows an execution, and the CLOSE that waited for it. -/
def afterData (s x : State) (st : Fin 8) (ctx : Nat) : State :=
  if answerable x st ctx = false then x
  else
    let y := if (x.sess st ctx).ahead ≠ [] ∨ s.fld (kxtPage st) 0x044 23 16 ≤ (x.sess st ctx).unacked then sendAck x st ctx else x
    if (x.sess st ctx).closeGot = true ∧ (x.sess st ctx).ahead = [] then answerClose y st ctx else y

theorem afterData_cases (s x : State) (st : Fin 8) (ctx : Nat) : afterData s x st ctx = x ∨ afterData s x st ctx = sendAck x st ctx ∨
    afterData s x st ctx = answerClose x st ctx ∨ afterData s x st ctx = answerClose (sendAck x st ctx) st ctx := by
  unfold afterData
  dsimp only
  split_ifs
  · exact .inl rfl
  · exact .inr (.inr (.inr rfl))
  · exact .inr (.inr (.inl rfl))
  · exact .inr (.inl rfl)
  · exact .inl rfl

/-- The one payload held is delivered, and leaves its session with nothing held. -/
theorem deliver_next (hopen : (v.sess st ctx).st ≠ .closed) (hahead : (v.sess st ctx).ahead = []) (hseq : (v.sess st ctx).seqRx = seq) :
    deliver st ctx 1 (v.modSess st ctx fun c =>
      { c with ceSince := c.ceSince + bit ce, unacked := c.unacked + 1, ahead := [(seq, bs)] }) = payload (nextTaken v st ctx ce) st ctx bs := by
  have hlisted : ∀ c : Session, c.st ≠ .closed → c ≠ {} := fun c h e => h (e ▸ rfl)
  have hfind : ((v.modSess st ctx fun c =>
      { c with ceSince := c.ceSince + bit ce, unacked := c.unacked + 1, ahead := [(seq, bs)] }).sess st ctx).ahead.find?
        (fun e => e.1 == ((v.modSess st ctx fun c =>
          { c with ceSince := c.ceSince + bit ce, unacked := c.unacked + 1, ahead := [(seq, bs)] }).sess st ctx).seqRx) = some (seq, bs) := by
    rw [State.sess_modSess_same, hseq]
    simp
  have htwice := modSess_modSess v st ctx
    (f := fun c => { c with ceSince := c.ceSince + bit ce, unacked := c.unacked + 1, ahead := [(seq, bs)] })
    (g := fun c => { c with seqRx := c.seqRx + 1, ahead := c.ahead.filter fun x => x.1 != seq }) (hlisted _ hopen) (hlisted _ hopen)
  have hsame : nextTaken v st ctx ce = v.modSess st ctx fun c =>
      ({ c with ceSince := c.ceSince + bit ce, unacked := c.unacked + 1, seqRx := c.seqRx + 1,
                ahead := [(seq, bs)].filter (fun x => x.1 != seq) } : Session) := by
    refine modSess_congr v st ctx ?_
    simp [hahead]
  rw [deliver]
  dsimp only
  rw [hfind]
  exact (congrArg (fun w => payload w st ctx bs) (htwice.trans hsame.symm) :)

theorem takeData_next (hopen : (v.sess st ctx).st ≠ .closed) (hahead : (v.sess st ctx).ahead = []) (hseq : (v.sess st ctx).seqRx = seq) :
    takeData v st ctx seq bs ce = afterData v (payload (nextTaken v st ctx ce) st ctx bs) st ctx := by
  have hd : seqAhead seq (v.sess st ctx).seqRx = 0 := by simp [seqAhead, hseq]
  have hs1 : (v.modSess st ctx fun c =>
      { c with ceSince := c.ceSince + bit ce, unacked := c.unacked + 1,
               ahead := if ((v.sess st ctx).ahead.any fun e => e.1 == seq) = true then c.ahead else c.ahead ++ [(seq, bs)] }) =
      v.modSess st ctx fun c => { c with ceSince := c.ceSince + bit ce, unacked := c.unacked + 1, ahead := [(seq, bs)] } := by
    refine modSess_congr v st ctx ?_
    simp [hahead]
  rw [takeData, hd]
  refine (if_neg (by decide)).trans ((if_neg (by decide)).trans ?_)
  dsimp only
  rw [hs1, hahead]
  exact congrArg (fun x => afterData v x st ctx) (deliver_next hopen hahead hseq)

/-- The session of a packet of DATA, opened where it had answered HS_INIT (R349). -/
def dataReady (u : State) (st : Fin 8) (ctx : Nat) : State := if (u.sess st ctx).st = .hsRecv then sessOpened u st ctx else u

theorem dataReady_spec (hopen : (u.sess st ctx).st ≠ .closed) (hahead : (u.sess st ctx).ahead = []) (hseq : (u.sess st ctx).seqRx = seq) :
    ((dataReady u st ctx).sess st ctx).st ≠ .closed ∧ ((dataReady u st ctx).sess st ctx).ahead = [] ∧
      ((dataReady u st ctx).sess st ctx).seqRx = seq := by
  unfold dataReady
  split
  · obtain ⟨r, h⟩ := sess_sessOpened u st ctx
    rw [h]
    exact ⟨nofun, hahead, hseq⟩
  · exact ⟨hopen, hahead, hseq⟩

theorem exec_data {port : Fin 2} {k : Fin 4} {p : Packet} (hs : s.has st = true)
    (hr : receive s st port.val k.val p 0x10 = (u, some (ctx, bs))) :
    exec (.data st port k p ce) s = .next (takeData (dataReady u st ctx) st ctx p.seq bs ce) := by
  show execData st port k p ce s = _
  rw [execData, if_pos hs, hr]
  rfl

end

end Sys2Proof.Laws
end

section
/-! ### ACK, CLOSE and the timers (R349, R351, R356 to R358) -/

namespace Sys2Proof.Laws

open Machine Safety

section
variable {s u : State} {st : Fin 8} {ctx : Nat} {p : Packet} {bs : List Byte}

/-! ### ACK (R356, R357) -/

/-- What an ACK does not cover of what was sent. -/
def uncovered (c : Session) (bs : List Byte) : List Sent :=
  c.sent.filter fun e => decide (seqAhead e.seq (BitVec.ofNat 32 (leNat (slice bs 0 4))) < 2 ^ 31)

theorem standing_sendAgain (l : List Sent) (u : State) :
    standing ((l.foldl (fun s e => sendData s st ctx e.seq true e.payload) u).sess st ctx) = standing (u.sess st ctx) := by
  induction l generalizing u with
  | nil => rfl
  | cons e l ih => exact (ih _).trans (standing_sendData ..)

/-- A packet sent, as the SACK bits of an ACK mark it. -/
def sackMarked (bs : List Byte) (e : Sent) : Sent :=
  if seqAhead e.seq (BitVec.ofNat 32 (leNat (slice bs 0 4)) + 1) < 64 ∧
      bitAt (leNat (slice bs 4 8)) (seqAhead e.seq (BitVec.ofNat 32 (leNat (slice bs 0 4)) + 1)) then { e with sacked := true } else e

/-- A session that has taken an ACK. -/
def ackTaken (pn : DWord) (bs : List Byte) (ns : Nat) (c : Session) : Session :=
  { c with sent := (uncovered c bs).map (sackMarked bs), ackPn := pn, rtt := some (rttAfter ns c.rtt),
           ceSeen := c.ceSeen || decide (0 < leNat (slice bs 12 4)) }

theorem standing_ackTaken (pn : DWord) (ns : Nat) (c : Session) :
    standing (ackTaken pn bs ns c) = (c.st, pn, c.unacked, c.rtoSeen, (uncovered c bs).map (·.seq)) := by
  have hseq : ((uncovered c bs).map (sackMarked bs)).map (·.seq) = (uncovered c bs).map (·.seq) := by
    rw [List.map_map]
    refine List.map_congr_left fun e _ => ?_
    dsimp only [Function.comp_apply, sackMarked]
    split <;> rfl
  rw [← hseq]
  rfl

theorem uncovered_eq (c : Session) (bs : List Byte) :
    c.sent.filter (fun e => !decide (seqAhead e.seq (BitVec.ofNat 32 (leNat (slice bs 0 4))) ≥ 2 ^ 31)) = uncovered c bs :=
  List.filter_congr fun e _ => by
    rw [← decide_not]
    exact decide_eq_decide.2 (by omega)

/-- An ACK that is not old is taken, what the SACK asks for is sent again, and what waited follows. -/
theorem takeAck_new {ns : Nat} (hpn : (s.sess st ctx).ackPn.toNat < p.pn.toNat) :
    ∃ again : List Sent, takeAck s st ctx p.pn bs ns = closeIfIdle (sendQueued st ctx (s.sess st ctx).queued
      (again.foldl (fun s e => sendData s st ctx e.seq true e.payload) (s.modSess st ctx (ackTaken p.pn bs ns)))) st ctx := by
  have hs1 : (s.modSess st ctx fun c => { c with
      sent := ((s.sess st ctx).sent.filter fun e => !decide (seqAhead e.seq (BitVec.ofNat 32 (leNat (slice bs 0 4))) ≥ 2 ^ 31)).map
        (sackMarked bs),
      ackPn := p.pn, rtt := some (rttAfter ns c.rtt), ceSeen := c.ceSeen || decide (0 < leNat (slice bs 12 4)) }) =
      s.modSess st ctx (ackTaken p.pn bs ns) := modSess_congr s st ctx (by rw [uncovered_eq]; rfl)
  rw [← hs1]
  exact ⟨_, if_neg (by omega)⟩

theorem takeAck_spec {ns : Nat} (hpn : (s.sess st ctx).ackPn.toNat < p.pn.toNat) (hq : (s.sess st ctx).queued = []) :
    ((takeAck s st ctx p.pn bs ns).sess st ctx).ackPn = p.pn ∧
      ((takeAck s st ctx p.pn bs ns).sess st ctx).sent.map (·.seq) = (uncovered (s.sess st ctx) bs).map (·.seq) := by
  obtain ⟨again, h⟩ := takeAck_new (bs := bs) (ns := ns) hpn
  have hstands : standing ((takeAck s st ctx p.pn bs ns).sess st ctx) = ((s.sess st ctx).st, p.pn, (s.sess st ctx).unacked,
      (s.sess st ctx).rtoSeen, (uncovered (s.sess st ctx) bs).map (·.seq)) := by
    rw [h, hq, standing_closeIfIdle, sendQueued, standing_sendAgain, State.sess_modSess_same, standing_ackTaken]
  simp only [standing, Prod.mk.injEq] at hstands
  exact ⟨hstands.2.1, hstands.2.2.2.2⟩

theorem exec_ack {ns : Nat} (hs : s.has st = true) (hr : receive s st 0 0 p 0x11 = (u, some (ctx, bs)))
    (hst : (u.sess st ctx).st = .opened ∨ (u.sess st ctx).st = .closing) (hl : bs.length = 24) :
    exec (.ack st p ns) s = .next (takeAck u st ctx p.pn bs ns) := by
  show execAck st p ns s = _
  rw [execAck, if_pos hs, hr]
  dsimp only
  rcases hst with h | h
  · rw [h, if_pos hl]
  · rw [h, if_pos hl]

/-! ### Closing (R349) -/

theorem sess_answerClose (s : State) (st : Fin 8) (ctx : Nat) : (answerClose s st ctx).sess st ctx = {} := sess_sessClosed ..

theorem exec_close (hs : s.has st = true) (hr : receive s st 0 0 p 0x12 = (u, some (ctx, bs))) (hst : (u.sess st ctx).st = .opened) :
    exec (.close st p) s = .next (if (u.sess st ctx).ahead = [] then answerClose u st ctx
      else u.modSess st ctx fun c => { c with closeGot := true }) := by
  show execClose st p s = _
  rw [execClose, if_pos hs, hr]
  dsimp only
  rw [if_pos hst]

theorem exec_closeAck (hs : s.has st = true) (hr : receive s st 0 0 p 0x13 = (u, some (ctx, bs))) (hst : (u.sess st ctx).st = .closing) :
    exec (.closeAck st p) s = .next (sessClosed u st ctx) := by
  show execCloseAck st p s = _
  rw [execCloseAck, if_pos hs, hr]
  dsimp only
  rw [if_pos hst]

/-! ### The retransmission timer (R357) -/

/-- A session one of whose packets has waited its timeout. -/
def expired (seq : Word) (c : Session) : Session :=
  { c with rtoSeen := true, sent := c.sent.map fun e => if e.seq = seq then { e with timeouts := e.timeouts + 1 } else e }

theorem standing_expired (seq : Word) (c : Session) :
    standing (expired seq c) = (c.st, c.ackPn, c.unacked, true, c.sent.map (·.seq)) := by
  have hseq : (c.sent.map fun e => if e.seq = seq then { e with timeouts := e.timeouts + 1 } else e).map (·.seq) = c.sent.map (·.seq) := by
    rw [List.map_map]
    refine List.map_congr_left fun e _ => ?_
    dsimp only [Function.comp_apply]
    split <;> rfl
  rw [← hseq]
  rfl

theorem exec_rtoExpiry {e : Sent} (hs : s.has st = true) (hst : (s.sess st ctx).st = .opened ∨ (s.sess st ctx).st = .closing)
    (hf : ((s.sess st ctx).sent.find? fun x => x.seq == e.seq && !x.sacked) = some e) : exec (.rtoExpiry st ctx e.seq) s = .next (
      if retryMax s st ≤ e.timeouts + 1 then sessFailed (s.modSess st ctx (expired e.seq)) st ctx
      else sendData (s.modSess st ctx (expired e.seq)) st ctx e.seq true e.payload) := by
  have hlive : ¬((s.sess st ctx).st ≠ .opened ∧ (s.sess st ctx).st ≠ .closing) := fun h => hst.elim h.1 h.2
  show execRtoExpiry st ctx e.seq s = _
  rw [execRtoExpiry, if_pos hs]
  dsimp only
  rw [if_neg hlive, hf]
  rfl

theorem pair_countPair (s : State) (p : Page) (off : Nat) : (s.countPair p off).pair p off = (s.pair p off + 1) % 2 ^ 64 :=
  pair_setPair ..

theorem pair_sendPacket (s : State) (type : Byte) (seq : Word) (retx : Bool) (body : List Byte) (q : Page) (off : Nat) :
    (sendPacket s st ctx type seq retx body).pair q off = s.pair q off := by
  have hreg : ∀ x, (sendPacket s st ctx type seq retx body).reg q x = s.reg q x := fun x => by
    rw [sendPacket]
    exact reg_of_regs (regs_send ..).1 (regs_send ..).2 q x
  rw [State.pair, State.pair, hreg, hreg]

/-- A packet sent again is counted (R357). -/
theorem pair_sendAgain (s : State) (seq : Word) (body : List Byte) : (sendData s st ctx seq true body).pair (kxtPage st) 0x068 =
    (s.pair (kxtPage st) 0x068 + 1) % 2 ^ 64 := by
  have hcount := pair_countPair ((sendPacket s st ctx 0x10 seq true body).modSess st ctx (repacketed seq (s.sess st ctx).pnTx)) (kxtPage st) 0x068
  have hpair : ((sendPacket s st ctx 0x10 seq true body).modSess st ctx (repacketed seq (s.sess st ctx).pnTx)).pair (kxtPage st) 0x068 =
      s.pair (kxtPage st) 0x068 := pair_sendPacket s 0x10 seq true body (kxtPage st) 0x068
  rw [hpair] at hcount
  exact hcount

/-! ### RESET and the rate (R351, R358) -/

theorem exec_reset (hs : s.has st = true) (hst : (s.sess st ctx).st ≠ .closed) :
    exec (.reset st ctx) s = .next (s.modSess st ctx fun c => { c with resets := c.resets + 1 }) := by
  show execReset st ctx s = _
  rw [execReset, if_pos hs, if_neg hst]

theorem exec_ackDelay (hs : s.has st = true) (h : 0 < (s.sess st ctx).unacked) : exec (.ackDelay st ctx) s = .next (sendAck s st ctx) := by
  show execAckDelay st ctx s = _
  rw [execAckDelay, if_pos hs, if_pos h]

theorem exec_ccPeriod (hs : s.has st = true) (hst : (s.sess st ctx).st = .opened ∨ (s.sess st ctx).st = .closing) :
    exec (.ccPeriod st ctx) s = .next (s.modSess st ctx (ccAfter (100 * s.fld (kxtPage st) 0x050 23 16)
      (1 / 2 ^ s.fld (kxtPage st) 0x050 27 24) (linkRate s st (s.sess st ctx)))) := by
  show execCcPeriod st ctx s = _
  rw [execCcPeriod, if_pos hs]
  dsimp only
  rcases hst with h | h
  · rw [h]
  · rw [h]

/-- The rate after a period lies between 100 Mb/s and the link's. -/
theorem ccAfter_spec (ai : Nat) (g : Rat) (link : Nat) (c : Session) : 100 ≤ (ccAfter ai g link c).rate ∧
    (ccAfter ai g link c).rate ≤ max 100 (link : Nat) ∧ (ccAfter ai g link c).ceSeen = false ∧ (ccAfter ai g link c).rtoSeen = false ∧
      (ccAfter ai g link c).st = c.st := by
  have hlink : ((max 100 link : Nat) : Rat) = max 100 (link : Rat) := by rw [Nat.cast_max, Nat.cast_ofNat]
  refine ⟨le_max_left .., (max_le_max (le_refl _) (min_le_right ..)).trans_eq hlink.symm, rfl, rfl, ?_⟩
  dsimp only [ccAfter]
  split_ifs <;> rfl

end

end Sys2Proof.Laws
end

section
open Sys2Proof Machine Safety Laws

/-- Settles O42: DATA in order by what its one delivery is, the rest by what each packet and timer leaves of its session. -/
theorem sessionTransport : Obligations.SessionTransport := by
  refine ⟨fun s u st port k p ce ctx bs hs hr hahead hseq => ?data,
    fun s u st p ns ctx bs hs => ⟨fun hr hst hl hpn hq => ⟨_, exec_ack hs hr hst hl, takeAck_spec hpn hq⟩, fun hr hst => ?close,
      fun hr hst => ⟨_, exec_closeAck hs hr hst, sess_sessClosed ..⟩⟩,
    fun s st ctx hs => ⟨fun h => ⟨_, exec_ackDelay hs h, sess_sendAck ..⟩, fun e hst hf => ⟨fun hlt => ?again, fun hle => ?failed⟩,
      fun h => ⟨_, exec_reset hs h, State.sess_modSess_same ..⟩, fun hst => ?rate⟩⟩
  case data =>
    obtain ⟨hopen, hheld, hnext⟩ := dataReady_spec (open_of_receive hr) hahead hseq
    refine ⟨_, exec_data hs hr, ?_⟩
    rw [takeData_next hopen hheld hnext]
    exact afterData_cases ..
  case close =>
    refine ⟨_, exec_close hs hr hst, ?_⟩
    split
    · exact sess_answerClose ..
    · rw [State.sess_modSess_same]
  case again =>
    refine ⟨_, exec_rtoExpiry hs hst hf, ?_⟩
    have hstands := standing_sendData (s.modSess st ctx (expired e.seq)) st ctx e.seq true e.payload
    rw [State.sess_modSess_same, standing_expired] at hstands
    simp only [standing, Prod.mk.injEq] at hstands
    obtain ⟨-, -, -, hrto, hsent⟩ := hstands
    dsimp only
    rw [if_neg (by omega)]
    refine ⟨hrto, ?_, hsent, pair_sendAgain ..⟩
    rw [pnTx_sendData, State.sess_modSess_same]
    rfl
  case failed =>
    refine ⟨_, exec_rtoExpiry hs hst hf, ?_⟩
    dsimp only
    rw [if_pos hle, sess_sessFailed]
  case rate =>
    refine ⟨_, exec_ccPeriod hs hst, ?_⟩
    dsimp only
    rw [State.sess_modSess_same]
    exact ccAfter_spec ..

end

section
/-! O45: a channel as its steps leave it (R366 to R372). -/

namespace Sys2Proof.Laws

open Machine Safety

/-! ### The steps of a channel -/

/-- What every step of a channel that runs keeps of it: its step number, its event, and that data may flow; its state may move on to
DATA, VOTING, DONE or FAILED. -/
structure Runs (x y : Channel) : Prop where
  step : y.step = x.step
  fired : y.fired = x.fired
  ready : x.succReady = true → y.succReady = true
  st : y.st = x.st ∨ y.st = .data ∨ y.st = .voting ∨ y.st = .done ∨ y.st = .failed

theorem Runs.refl (x : Channel) : Runs x x := ⟨rfl, rfl, id, .inl rfl⟩

theorem Runs.trans {x y z : Channel} (h : Runs x y) (g : Runs y z) : Runs x z :=
  ⟨g.step.trans h.step, g.fired.trans h.fired, fun e => g.ready (h.ready e), g.st.elim (fun e => e ▸ h.st) .inr⟩

theorem Runs.st_ne {x y : Channel} (h : Runs x y) {a : ChanState} (ha : a = .idle ∨ a = .starting) (hx : x.st ≠ a) : y.st ≠ a := by
  rcases h.st with e | e | e | e | e <;> rw [e]
  · exact hx
  all_goals rcases ha with rfl | rfl <;> decide

/-- A channel whose successor has started. -/
def flowing (x : Channel) : Channel := { x with succReady := true, st := if x.st = .starting then .data else x.st }

/-- A relation that holds along the steps of one channel: along whatever leaves every channel of its stack and the ready bits, and along
what changes that channel as it runs. -/
structure AlongChan (st : Fin 8) (c : Nat) (R : State → State → Prop) : Prop where
  refl : ∀ s, R s s
  trans : ∀ {s t u}, R s t → R t u → R s u
  apart : ∀ {s t : State}, (∀ d, t.chan st d = s.chan st d) → t.reg (kxtPage st) 0x098 = s.reg (kxtPage st) 0x098 → R s t
  step : ∀ s f, (∀ x, Runs x (f x)) → R s (s.modChan st c f)

theorem reg_countUe_apart (s : State) (a : Nat) (q : Page) {x : Nat} (hx : ∀ off ∈ [0x010, 0x044, 0x04C, 0x054], x % 4096 ≠ off) :
    (countUe s a).reg q x = s.reg q x := by
  simp only [List.mem_cons, List.not_mem_nil, or_false, forall_eq_or_imp, forall_eq] at hx
  obtain ⟨h10, h44, h4c, h54⟩ := hx
  unfold countUe
  dsimp only
  split
  · exact (reg_raiseEvt_apart _ _ _ _ h44 h10).trans (reg_setReg_apart _ _ _ _ h4c)
  · exact (reg_raiseEvt_apart _ _ _ _ h44 h10).trans (reg_setReg_apart _ _ _ _ h54)
  · rfl

theorem regs_sendOp (s : State) (st : Fin 8) (ctx : Nat) (body : List Byte) (q : Page) (x : Nat) :
    (sendOp s st ctx body).reg q x = s.reg q x := by
  have hpacket : ∀ (u : State) seq, (sendPacket u st ctx 0x10 seq false body).reg q x = u.reg q x := fun u seq => by
    rw [sendPacket]
    exact reg_of_regs (regs_send ..).1 (regs_send ..).2 q x
  unfold sendOp
  dsimp only
  split
  · rfl
  · exact hpacket _ _

namespace AlongChan

variable {st : Fin 8} {c : Nat} {R : State → State → Prop} (hR : AlongChan st c R) (s : State)
include hR

omit hR in
theorem ite {p : Prop} [Decidable p] {s t u : State} (h : R s t) (g : R s u) : R s (if p then t else u) := by
  split <;> assumption

theorem foldl {β : Type} {f : State → β → State} (hf : ∀ s x, R s (f s x)) (l : List β) (s : State) : R s (l.foldl f s) := by
  induction l generalizing s with
  | nil => exact hR.refl s
  | cons x l ih => exact hR.trans (hf s x) (ih _)

omit hR in
/-- The state of a result that was taken apart. -/
theorem fst_of {α : Type} {r : State × α} {t : State} {x : α} (h : R s r.1) (e : r = (t, x)) : R s t := by
  subst e; exact h

/-- A channel that runs comes to another state. -/
theorem moves {a : ChanState} (ha : a = .data ∨ a = .voting ∨ a = .done ∨ a = .failed) : R s (s.modChan st c fun x => { x with st := a }) :=
  hR.step s _ fun _ => ⟨rfl, rfl, id, .inr ha⟩

theorem recordFault (det info addr : Nat) : R s (recordFault s (kxtPage st) 0x06 det info addr) :=
  hR.apart (fun _ => sameChan_of_keptBut (keptBut_recordFault (p := kxtPage st) s _ _ _ _ Nat.one_pos) (by simp [faultKinds, eventKinds]))
    (reg_recordFault_apart _ _ _ _ _ _ _ rfl (by decide))

theorem memFault (e : MemErr) (det low high : Nat) : R s (memFault s (kxtPage st) e det low high) :=
  hR.apart (fun _ => sameChan_of_keptBut (keptBut_memFault (p := kxtPage st) s _ _ _ _ Nat.one_pos) (by simp [faultKinds, eventKinds])) (by
    cases e with
    | region => exact reg_recordFault_apart _ _ _ _ _ _ _ rfl (by decide)
    | ecc => exact (reg_recordFault_apart _ _ _ _ _ _ _ rfl (by decide)).trans (reg_countUe_apart _ _ _ (by decide)))

theorem chanRing (d : Nat) : R s (chanRing s st d) :=
  hR.apart (fun _ => sameChan_chanRing ..) (reg_ringBits_apart _ _ _ _ _ (by decide) (by decide))

theorem chanStop : R s (chanStop s st c) :=
  hR.trans (hR.moves s (by simp)) (hR.chanRing _ c)

theorem chanFail (det high : Nat) : R s (chanFail s st c det high) := hR.trans (hR.recordFault ..) (hR.chanStop _)

theorem chanMemFail (e : MemErr) : R s (chanMemFail s st c e) := hR.trans (hR.memFault ..) (hR.chanStop _)

theorem raiseEvt (n : Nat) : R s (raiseEvt s (kxtPage st) n) :=
  hR.apart (fun d => (unrung_chan st d).raiseEvt rfl) (reg_raiseEvt_apart _ _ _ _ (by decide) (by decide))

theorem sendOp (ctx : Nat) (body : List Byte) : R s (sendOp s st ctx body) :=
  hR.apart (fun _ => sameChan_sendOp ..) (regs_sendOp ..)

theorem engWrite (plan : Nat) (driven : Bool) (a : Nat) (bs : List Byte) : R s (engWrite s st plan driven a bs).1 :=
  hR.apart (fun _ => sameChan_engWrite ..) ((keptBut_engWrite s st plan driven a bs).kind (.page .kxt) (by decide) (kxtPage st) rfl Nat.one_pos
    0x098 (by decide))

theorem sendUnit (phase round u : Nat) : R s (sendUnit st c phase round s u) := by
  unfold Machine.sendUnit
  dsimp only
  split
  · exact hR.refl s
  · split
    · exact hR.chanMemFail ..
    · exact hR.sendOp ..

theorem sendBlock (round a n j : Nat) : R s (sendBlock st c round a n s j) := by
  unfold Machine.sendBlock
  dsimp only
  split
  · exact hR.refl s
  · split
    · exact hR.chanMemFail ..
    · exact hR.sendOp ..

theorem sendRound (gather : Bool) (round : Nat) : R s (sendRound s st c gather round) :=
  AlongChan.ite (hR.foldl (fun u _ => hR.sendBlock u ..) _ _) (hR.foldl (fun u _ => hR.sendUnit u ..) _ _)

theorem endTile (t : Nat) : R s (endTile st c s t) := by
  unfold Machine.endTile
  dsimp only
  split
  · exact hR.refl s
  · split
    · exact hR.chanMemFail ..
    · split
      · exact hR.chanFail ..
      · split
        · next e => exact hR.trans (fst_of s (hR.engWrite ..) e) (hR.chanMemFail ..)
        · next e => exact fst_of s (hR.engWrite ..) e

theorem chanDone : R s (chanDone s st c) :=
  hR.trans (hR.moves s (by simp)) (hR.trans (hR.chanRing _ c) (hR.raiseEvt _ 6))

theorem votesIn : R s (votesIn s st c) := AlongChan.ite (hR.chanDone s) (hR.refl s)

theorem chanFinish : R s (chanFinish s st c) := by
  unfold Machine.chanFinish
  extract_lets x s1 s2 s3
  have h1 : R s s1 := AlongChan.ite (hR.foldl (fun u _ => hR.endTile u ..) _ _) (hR.refl s)
  have h2 : R s s2 := hR.trans h1 (hR.foldl (fun u _ => hR.sendOp u ..) _ _)
  have h3 : R s s3 := hR.trans h2 (hR.step _ (fun x => { x with st := .voting, voteSent := true }) fun _ => ⟨rfl, rfl, id, .inr (.inr (.inl rfl))⟩)
  have hc : ∀ f, R s3 (s3.modClp st f) := fun _ => hR.apart (fun _ => sameChan_of_keptBut (keptBut_modClp ..) (by decide)) rfl
  exact AlongChan.ite h1 (AlongChan.ite (hR.trans h3 (hR.trans (hc _) (hR.votesIn _))) (hR.trans h1 (hR.chanDone _)))

theorem pump (fuel : Nat) : R s (pump st c fuel s) := by
  induction fuel generalizing s with
  | zero => exact hR.refl s
  | succ fuel ih =>
    have hm : ∀ f : Channel → Channel, (∀ x, Runs x (f x)) → R s (s.modChan st c f) := hR.step s
    rw [Machine.pump]
    refine AlongChan.ite (hR.refl s) <| AlongChan.ite (hR.trans (hm _ ?_) (ih _)) <|
      AlongChan.ite (hR.trans (hm _ ?_) (hR.trans (hR.sendRound ..) (ih _))) <| AlongChan.ite (hR.refl s) <|
      AlongChan.ite (hR.trans (hm _ ?_) (ih _)) <| AlongChan.ite (hR.trans (hm _ ?_) (hR.trans (hR.sendRound ..) (ih _))) <|
      AlongChan.ite (hR.refl s) (hR.chanFinish s)
    all_goals exact fun x => ⟨rfl, rfl, id, .inl rfl⟩

theorem chanPump : R s (chanPump s st c) := hR.pump s _

theorem succStart : R s (succStart s st c) := by
  refine hR.trans (hR.step s flowing fun x => ⟨rfl, rfl, fun _ => rfl, ?_⟩) (hR.chanPump _)
  dsimp only [flowing]
  split
  · exact .inr (.inl rfl)
  · exact .inl rfl

theorem copyOwn : R s (copyOwn s st c) := by
  unfold Machine.copyOwn
  dsimp only
  split
  · exact hR.chanFail ..
  · split
    · exact hR.chanMemFail ..
    · split
      · next e => exact hR.trans (fst_of s (hR.engWrite ..) e) (hR.chanMemFail ..)
      · next e => exact fst_of s (hR.engWrite ..) e

end AlongChan

/-! ### A channel that starts (R367) -/

/-- The state in which a channel has begun to start: its ready bit clears, and its step is the Clasp's. -/
def chanBegun (s : State) (st : Fin 8) (c : Nat) : State :=
  (s.setFlag (kxtPage st) 0x098 c false).modChan st c fun x => { st := .starting, step := (s.st st).clp.step, held := x.held }

section
variable {st : Fin 8} {c : Nat}

theorem AlongChan.chanStart {R : State → State → Prop} (hR : AlongChan st c R) (s : State) : R (chanBegun s st c) (chanStart s st c) := by
  obtain ⟨f, hf⟩ : ∃ f, f = Machine.chanStart := exists_eq
  obtain ⟨read, hr⟩ : ∃ f, f = engRead := exists_eq
  obtain ⟨place, hp⟩ : ∃ f, f = rangePlace := exists_eq
  obtain ⟨check, hc⟩ : ∃ f, f = regionCheck := exists_eq
  rw [← hf]
  delta Machine.chanStart at hf
  rw [← hr, ← hp, ← hc] at hf
  subst hf
  beta_reduce
  extract_lets step s0 base plan
  change R s0 _
  refine AlongChan.ite (hR.chanFail ..) ?_
  split
  · exact hR.chanMemFail ..
  split
  · exact hR.chanFail ..
  extract_lets n
  split
  · exact hR.chanMemFail ..
  next ids _ =>
  extract_lets s1 x s2 s3 ready s4
  have h1 : R s0 s1 := hR.step s0 (fun x =>
    { x with op := n 0 1, lock := bitAt (n 1 1) 1, vote := bitAt (n 1 1) 2, nrank := n 2 2, rank := n 4 2, buf := n 8 8,
             count := n 16 8, recv := n 32 8, sess := (List.range (n 2 2)).map fun i => leNat (slice ids (4 * i) 4) })
    fun _ => ⟨rfl, rfl, id, .inl rfl⟩
  split
  · exact hR.trans h1 (hR.chanFail ..)
  split
  · exact hR.trans h1 (hR.chanFail ..)
  have h2 : R s0 s2 := hR.trans h1 (AlongChan.ite (hR.copyOwn s1) (hR.refl s1))
  have h4 : R s0 s4 := hR.trans h2 (hR.trans (hR.sendOp ..)
    (hR.step s3 (fun x => { x with held := x.held.filter fun h => h.2 != step }) fun _ => ⟨rfl, rfl, id, .inl rfl⟩))
  exact AlongChan.ite h2 (AlongChan.ite (hR.trans h4 (hR.succStart s4)) h4)

/-- Along a channel's steps every other channel stays as it is. -/
theorem along_other {d : Nat} (h : d ≠ c) : AlongChan st c (Same (·.chan st d)) where
  refl := .refl
  trans := .trans
  apart hc _ := hc d
  step s f _ := sameChan_modChan (fun e => h e.2) s f

/-- Along its steps a channel runs on, and its ready bit stays as it is. -/
theorem along_own : AlongChan st c fun s t =>
    Runs (s.chan st c) (t.chan st c) ∧ t.reg (kxtPage st) 0x098 = s.reg (kxtPage st) 0x098 where
  refl _ := ⟨.refl _, rfl⟩
  trans h g := ⟨h.1.trans g.1, g.2.trans h.2⟩
  apart hc hr := ⟨by rw [hc c]; exact .refl _, hr⟩
  step s f hf := ⟨by rw [State.chan_modChan_same]; exact hf _, rfl⟩

theorem chanStart_spec (s : State) : ((chanStart s st c).chan st c).step = (s.st st).clp.step ∧ ((chanStart s st c).chan st c).fired = false ∧
    ((chanStart s st c).chan st c).st ≠ .idle ∧ (c < 32 → (chanStart s st c).flag (kxtPage st) 0x098 c = false) := by
  obtain ⟨hruns, hreg⟩ := along_own.chanStart s (st := st) (c := c)
  have hbegun : (chanBegun s st c).chan st c = { st := .starting, step := (s.st st).clp.step, held := (s.chan st c).held } :=
    State.chan_modChan_same ..
  rw [hbegun] at hruns
  refine ⟨hruns.step, hruns.fired, hruns.st_ne (.inl rfl) (by dsimp only; decide), fun hc => ?_⟩
  rw [State.flag, hreg]
  exact State.flag_setFlag_same s (kxtPage st) 0x098 false hc

theorem chan_chanStart_other (s : State) {d : Nat} (h : d ≠ c) : (chanStart s st c).chan st d = s.chan st d :=
  have hothers : (chanStart s st c).chan st d = (chanBegun s st c).chan st d := (along_other h).chanStart s
  hothers.trans (sameChan_modChan (i := st) (k := d) (fun e => h e.2) (s.setFlag (kxtPage st) 0x098 c false) _)

/-! ### KXT_CHAN_READY (R367) -/

theorem chanTry_quiet {s : State} (h : (s.chan st c).fired = false) : chanTry s st c = s := if_neg (by simp [h])

theorem chanTries_quiet {l : List Nat} {s : State} (h : ∀ d ∈ l, (s.chan st d).fired = false) :
    l.foldl (fun s c => chanTry s st c) s = s := by
  induction l with
  | nil => rfl
  | cons d l ih => rw [List.foldl_cons, chanTry_quiet (h d (by simp)), ih fun e he => h e (by simp [he])]

/-- Where one channel alone has its event, a write of its ready bit starts it and no other. -/
theorem chanTries_one {s : State} (hc : c < 16) (hfired : ∀ d < 16, d ≠ c → (s.chan st d).fired = false) (ht : chanTry s st c = chanStart s st c) :
    (List.range 16).foldl (fun s c => chanTry s st c) s = chanStart s st c := by
  obtain ⟨a, b, hab⟩ := List.append_of_mem (List.mem_range.2 hc)
  have hlt : ∀ d ∈ a ++ c :: b, d < 16 := fun d hd => List.mem_range.1 (hab ▸ hd)
  have hnd : (a ++ c :: b).Nodup := hab ▸ List.nodup_range
  rw [List.nodup_append, List.nodup_cons] at hnd
  obtain ⟨-, ⟨hb, -⟩, hd⟩ := hnd
  have hac : ∀ d ∈ a, d ≠ c := fun d hm e => hd d hm c (by simp) e
  have hbc : ∀ d ∈ b, d ≠ c := fun d hm e => hb (e ▸ hm)
  rw [hab, List.foldl_append, List.foldl_cons, chanTries_quiet fun d hm => hfired d (hlt d (by simp [hm])) (hac d hm), ht]
  refine chanTries_quiet fun d hm => ?_
  rw [chan_chanStart_other s (hbc d hm)]
  exact hfired d (hlt d (by simp [hm])) (hbc d hm)

/-- The ready bits as a write of KXT_CHAN_READY sets them. -/
def readySet (s : State) (st : Fin 8) (v : Word) : State := s.setReg (kxtPage st) 0x098 (s.reg (kxtPage st) 0x098 ||| (v &&& 0xFFFF))

theorem chanReadyWrite_eq (s : State) (v : Word) :
    chanReadyWrite s st v = (List.range 16).foldl (fun s c => chanTry s st c) (readySet s st v) := rfl

theorem flag_readySet (s : State) {v : Word} (hc : c < 16) (hv : v.getLsbD c = true) : (readySet s st v).flag (kxtPage st) 0x098 c = true := by
  have hmask : ∀ i < 16, (0xFFFF : Word).getLsbD i = true := by decide
  rw [State.flag, readySet, State.reg_setReg_same, bitAt, BitVec.testBit_toNat, BitVec.getLsbD_or, BitVec.getLsbD_and, hv, hmask c hc]
  simp

/-! ### A channel that fails (R372, R378) -/

theorem chanFail_spec (s : State) {det : Nat} (high : Nat) (hd : det < 256) : ((chanFail s st c det high).chan st c).st = .failed ∧
    (chanFail s st c det high).fld (kxtPage st) 0x020 15 0 = 0x0600 + det := by
  constructor
  · have hring := sameChan_chanRing (i := st) (k := c) ((recordFault s (kxtPage st) 0x06 det (high * 2 ^ 16 + c) 0).modChan st c
      fun x => { x with st := .failed }) st c
    exact (congrArg Channel.st hring).trans (congrArg Channel.st (State.chan_modChan_same ..))
  · have hreg : (chanFail s st c det high).reg (kxtPage st) 0x020 =
        (recordFault s (kxtPage st) 0x06 det (high * 2 ^ 16 + c) 0).reg (kxtPage st) 0x020 :=
      reg_ringBits_apart _ _ _ _ _ (by decide) (by decide)
    rw [State.fld, hreg]
    exact (fld_recordFault_of_plain s (kxtPage st) 0x06 det _ 0 rfl (by decide) hd).trans (by omega)

/-! ### A VOTE (R371) -/

/-- The votes of a channel with one more. -/
def voteTaken (k : Nat) (x : Channel) : Channel := { x with votes := if x.votes.contains k then x.votes else x.votes ++ [k] }

theorem mem_voteTaken (k : Nat) (x : Channel) : k ∈ (voteTaken k x).votes ∧ ∀ j ∈ x.votes, j ∈ (voteTaken k x).votes := by
  unfold voteTaken
  dsimp only
  split
  · next h => exact ⟨List.contains_iff_mem.1 h, fun _ => id⟩
  · exact ⟨by simp, fun j hj => by simp [hj]⟩

theorem chan_chanDone (s : State) : (chanDone s st c).chan st c = { s.chan st c with st := .done } := by
  have hevent : ∀ u : State, (raiseEvt u (kxtPage st) 6).chan st c = u.chan st c := fun u => (unrung_chan st c).raiseEvt rfl
  exact (hevent _).trans (Eq.trans (sameChan_chanRing ..) (State.chan_modChan_same ..))

theorem votesIn_spec (s : State) : ((votesIn s st c).chan st c).votes = (s.chan st c).votes ∧
    ((s.chan st c).st = .voting → (∀ k < (s.chan st c).nrank, k = (s.chan st c).rank ∨ k ∈ (s.chan st c).votes) →
      ((votesIn s st c).chan st c).st = .done) := by
  constructor
  · unfold votesIn
    dsimp only
    split
    · rw [chan_chanDone]
    · rfl
  · intro hst hall
    have hin : (List.range (s.chan st c).nrank).all (fun k => k == (s.chan st c).rank || (s.chan st c).votes.contains k) = true := by
      simpa using hall
    rw [votesIn, if_pos ⟨hst, hin⟩, chan_chanDone]

end

/-! ### Segments (R368 to R372) -/

section
variable {s : State} {st : Fin 8} {ctx : Nat} {g : Segment} (hs : s.has st = true)
include hs

theorem exec_start (hok : segOk s st ctx 0 g = true) : exec (.collStartSegment st ctx g) s = .next (startSegment s st g) := by
  show execCollStartSegment st ctx g s = _
  rw [execCollStartSegment, if_pos hs, if_pos hok]

theorem exec_reduce (hok : segOk s st ctx 1 g = true) : exec (.collReduceSegment st ctx g) s = .next (reduceSegment s st g) := by
  show execCollReduceSegment st ctx g s = _
  rw [execCollReduceSegment, if_pos hs, if_pos hok]

theorem exec_gather (hok : segOk s st ctx 2 g = true) : exec (.collGatherSegment st ctx g) s = .next (gatherSegment s st g) := by
  show execCollGatherSegment st ctx g s = _
  rw [execCollGatherSegment, if_pos hs, if_pos hok]

theorem exec_vote (hok : segOk s st ctx 3 g = true) : exec (.collVoteSegment st ctx g) s = .next (voteSegment s st g) := by
  show execCollVoteSegment st ctx g s = _
  rw [execCollVoteSegment, if_pos hs, if_pos hok]

theorem exec_collTimeout {c : Fin 16} (ha : (s.chan st c.val).active = true) : exec (.collTimeout st c) s =
    .next (chanFail s st c.val 0x13 (chanCode (s.chan st c.val).st)) := by
  show execCollTimeout st c s = _
  rw [execCollTimeout, if_pos hs, if_pos ha]

end

section
variable {s : State} {st : Fin 8} {g : Segment}

theorem segStep_same {body : State → State} (hf : ((segVoid s st g).chan st g.chan).st ≠ .failed)
    (hstep : g.step = ((segVoid s st g).chan st g.chan).step) : segStep s st g body = body (segVoid s st g) := by
  rw [segStep, if_neg hf, if_neg (not_not_intro hstep)]

theorem segStep_other (body : State → State) (hf : ((segVoid s st g).chan st g.chan).st ≠ .failed)
    (hstep : g.step ≠ ((segVoid s st g).chan st g.chan).step) :
    segStep s st g body = chanFail (segVoid s st g) st g.chan 0x11 g.rank := by
  rw [segStep, if_neg hf, if_pos hstep]

theorem ne_failed_of_active {x : Channel} (h : x.active = true) : x.st ≠ .failed := fun e => by
  simp [Channel.active, e] at h

theorem startSegment_next (ha : ((segVoid s st g).chan st g.chan).active = true)
    (hstep : g.step = ((segVoid s st g).chan st g.chan).step) (hr : g.rank = ((segVoid s st g).chan st g.chan).succ) :
    startSegment s st g = succStart (segVoid s st g) st g.chan := by
  rw [startSegment, if_neg (ne_failed_of_active ha), if_pos ⟨hstep, ha⟩, if_pos hr]

theorem startSegment_early (hf : ((segVoid s st g).chan st g.chan).st ≠ .failed) (ha : ((segVoid s st g).chan st g.chan).active = false)
    (hstep : g.step = ((segVoid s st g).chan st g.chan).step) : startSegment s st g = (segVoid s st g).modChan st g.chan fun x =>
      { x with held := if x.held.contains (g.rank, g.step) then x.held else x.held ++ [(g.rank, g.step)] } := by
  rw [startSegment, if_neg hf, if_neg (by simp [ha]), if_pos (.inl hstep)]

theorem startSegment_other (hf : ((segVoid s st g).chan st g.chan).st ≠ .failed)
    (hstep : g.step ≠ ((segVoid s st g).chan st g.chan).step) (hnext : g.step ≠ ((segVoid s st g).chan st g.chan).step + 1) :
    startSegment s st g = chanFail (segVoid s st g) st g.chan 0x11 g.rank := by
  rw [startSegment, if_neg hf, if_neg fun h => hstep h.1, if_neg fun h => h.elim hstep fun h => hnext h.1]

/-- With the successor's START data may flow. -/
theorem succStart_spec (u : State) (c : Nat) : ((succStart u st c).chan st c).succReady = true ∧ ((succStart u st c).chan st c).st ≠ .starting := by
  have hruns : Runs (flowing (u.chan st c)) ((succStart u st c).chan st c) := by
    rw [← State.chan_modChan_same (s := u) (i := st) (x := c) (f := flowing)]
    exact (along_own.chanPump (u.modChan st c flowing)).1
  refine ⟨hruns.ready rfl, hruns.st_ne (.inr rfl) ?_⟩
  dsimp only [flowing]
  split
  · decide
  · assumption

end

end Sys2Proof.Laws
end

section
open Sys2Proof Machine Safety Laws

/-- Settles O45: what a channel's own steps keep of it and leave of the others gives the starts, and each segment's branch the rest. -/
theorem collectives : Obligations.Collectives := by
  refine ⟨fun s r st v hs hmay => ⟨fun hquiet => ?quiet, fun c hc hfired hothers hst hv => ?starts⟩, fun s st ctx g hs => ?segments,
    fun s st c hs ha => ⟨_, exec_collTimeout hs ha, chanFail_spec s _ (by decide)⟩⟩
  case quiet =>
    refine completes_asked (if_pos hs) hmay ?_
    rw [chanReadyWrite_eq, chanTries_quiet (s := readySet s st v) fun d hd => hquiet d (List.mem_range.1 hd)]
    exact State.reg_setReg_same ..
  case starts =>
    have ht : chanTry (readySet s st v) st c = chanStart (readySet s st v) st c := if_pos ⟨hfired, flag_readySet s hc hv, hst⟩
    refine completes_asked (if_pos hs) hmay ?_
    rw [chanReadyWrite_eq, chanTries_one (s := readySet s st v) hc hothers ht]
    obtain ⟨hstep, hf, hidle, hready⟩ := chanStart_spec (st := st) (c := c) (readySet s st v)
    exact ⟨hstep, hf, hidle, hready (by omega)⟩
  case segments =>
    intro u x other
    refine ⟨fun hok hf => ⟨fun hstep ha hr => ?next, fun hstep ha => ?early, fun hstep hnext => ?fails⟩,
      fun y hok hf hstep he hy ha => ?reduce, fun y hok hf hstep he hy ha => ?gather, fun hok ha hstep => ?vote,
      fun hf hstep => ⟨fun hok => ?reduceFails, fun hok => ?gatherFails, fun hok => ?voteFails⟩⟩
    case next =>
      refine ⟨_, exec_start hs hok, ?_⟩
      rw [startSegment_next ha hstep hr]
      exact succStart_spec u g.chan
    case early =>
      refine ⟨_, exec_start hs hok, ?_⟩
      rw [startSegment_early hf ha hstep]
      dsimp only
      rw [State.chan_modChan_same]
      refine ⟨?_, rfl⟩
      dsimp only
      split
      · next h => exact List.contains_iff_mem.1 h
      · simp
    case fails =>
      refine ⟨_, exec_start hs hok, ?_⟩
      rw [startSegment_other hf hstep hnext]
      exact chanFail_spec u _ (by decide)
    case reduce =>
      refine ⟨_, exec_reduce hs hok, ?_⟩
      subst hy
      rw [reduceSegment, segStep_same hf hstep]
      exact (if_neg (by rw [he]; decide)).trans (if_pos ha)
    case gather =>
      refine ⟨_, exec_gather hs hok, ?_⟩
      subst hy
      rw [gatherSegment, segStep_same hf hstep]
      exact (if_neg (by rw [he]; decide)).trans (if_pos ha)
    case vote =>
      refine ⟨_, exec_vote hs hok, ?_⟩
      have hv : voteSegment s st g = votesIn (u.modChan st g.chan (voteTaken g.rank)) st g.chan := by
        rw [voteSegment, segStep_same (ne_failed_of_active ha) hstep]
        exact if_pos ha
      obtain ⟨hvotes, hdone⟩ := votesIn_spec (st := st) (c := g.chan) (u.modChan st g.chan (voteTaken g.rank))
      rw [State.chan_modChan_same] at hvotes hdone
      dsimp only
      rw [hv, hvotes]
      refine ⟨(mem_voteTaken ..).1, fun hst hall => hdone hst fun k hk => (hall k hk).imp_right ?_⟩
      rintro (rfl | hm)
      · exact (mem_voteTaken ..).1
      · exact (mem_voteTaken ..).2 k hm
    case reduceFails =>
      refine ⟨_, exec_reduce hs hok, ?_⟩
      rw [reduceSegment, segStep_other _ hf hstep]
      exact chanFail_spec u _ (by decide)
    case gatherFails =>
      refine ⟨_, exec_gather hs hok, ?_⟩
      rw [gatherSegment, segStep_other _ hf hstep]
      exact chanFail_spec u _ (by decide)
    case voteFails =>
      refine ⟨_, exec_vote hs hok, ?_⟩
      rw [voteSegment, segStep_other _ hf hstep]
      exact chanFail_spec u _ (by decide)

end

section
/-! How a Bezel command ends, and what it leaves in the buffer (R414, R415). -/

namespace Sys2Proof.Laws

open Machine Safety

/-! ### The end of a command -/

section
variable (s : State) (st : Fin 8) (op status : Nat)

/-- BZL_STAT of a stack is nothing that a bell or a Locket request writes. -/
theorem unrecorded_bezelStat : Unrecorded (·.reg (bzlPage st) 0x044) where
  box _ _ _ _ _ := rfl
  mail s i k hk := reg_setReg_apart _ _ _ _ (by decide)
  wake s i := reg_setReg_page s (p := stackPage i .pwr) (q := bzlPage st) nofun _ _ Nat.one_pos Nat.one_pos (by decide) (by decide)
  locket _ _ := rfl
  draw _ _ := rfl
  page s off x ho := reg_setReg_page s (p := lktPage) (q := bzlPage st) nofun _ _ Nat.one_pos Nat.one_pos ho (by decide)

theorem reg_raiseEvt_bezelStat (u : State) (n : Nat) : (raiseEvt u (bzlPage st) n).reg (bzlPage st) 0x044 = u.reg (bzlPage st) 0x044 :=
  (unrecorded_bezelStat st).toUnrung.raiseEvt (reg_setReg_apart _ _ _ _ (by decide))

/-- The shown end of a command, before the record of a refusal. -/
def bezelShown : State := raiseEvt (s.setFld (bzlPage st) 0x044 15 4 (op + 2 ^ 4 * status)) (bzlPage st) 3

theorem bzlEnd_eq : bzlEnd s st op status = if status = 0 then bezelShown s st op status else
    bezelRecord (bezelShown s st op status) 0x8009 (leBytes op 1 ++ leBytes status 1 ++ leBytes (bzlMode s 0) 1) := by
  dsimp only [bzlEnd, bezelShown]

theorem bezelEnds_of {t u : State} (h : BezelEnds t st op status) (hreg : u.reg (bzlPage st) 0x044 = t.reg (bzlPage st) 0x044)
    (hflag : u.flag (bzlPage st) 0x010 3 = true) : BezelEnds u st op status := by
  obtain ⟨hop, hst, -⟩ := h
  exact ⟨by rwa [State.fld, hreg], by rwa [State.fld, hreg], hflag⟩

theorem bezelEnds_shown (ho : op < 16) (hs : status < 256) : BezelEnds (bezelShown s st op status) st op status := by
  have hfld : ∀ hi lo, (bezelShown s st op status).fld (bzlPage st) 0x044 hi lo =
      (s.setFld (bzlPage st) 0x044 15 4 (op + 2 ^ 4 * status)).fld (bzlPage st) 0x044 hi lo := fun hi lo => by
    rw [State.fld, bezelShown, reg_raiseEvt_bezelStat]
    rfl
  have hall : (bezelShown s st op status).fld (bzlPage st) 0x044 15 4 = op + 2 ^ 4 * status := by
    rw [hfld, State.fld_setFld_same _ _ _ _ (by decide) (by decide), Nat.mod_eq_of_lt (by omega)]
  have hlow : ∀ n, bitsOf n 7 4 = bitsOf n 15 4 % 16 ∧ bitsOf n 15 8 = bitsOf n 15 4 / 16 := fun n => by
    simp only [bitsOf_eq]
    omega
  simp only [State.fld] at hall
  refine ⟨?_, ?_, flag_raiseEvt _ _ _ (by decide)⟩
  · rw [State.fld, (hlow _).1, hall]
    omega
  · rw [State.fld, (hlow _).2, hall]
    omega

theorem bezelEnds_record {t : State} (h : BezelEnds t st op status) (code : Nat) (payload : List Byte) :
    BezelEnds (bezelRecord t code payload) st op status :=
  bezelEnds_of st op status h ((unrecorded_bezelStat st).locketRequest t _ _ _ _ _) (flag_locketRequest_of_flag h.2.2 ..)

/-- A command ends with its STATUS (R414). -/
theorem bezelEnds_bzlEnd (ho : op < 16) (hs : status < 256) : BezelEnds (bzlEnd s st op status) st op status := by
  have hshown := bezelEnds_shown s st op status ho hs
  rw [bzlEnd_eq]
  split
  · exact hshown
  · exact bezelEnds_record st op status hshown ..

theorem Unlogged.bzlEnd {α : Type} {v : State → α} (hv : Unlogged v) : Same v s (bzlEnd s st op status) := by
  have hshown : Same v s (bezelShown s st op status) := (hv.reg _ _ _ _ (by decide)).trans (hv.raiseEvt ..)
  rw [bzlEnd_eq]
  exact .ite hshown (hshown.trans (hv.locketRequest ..))

theorem reg_bzlEnd_apart (q : Page) {x : Nat} (hx : ∀ off ∈ [0x010, 0x044, 0x064], x % 4096 ≠ off) :
    (bzlEnd s st op status).reg q x = s.reg q x := by
  simp only [List.mem_cons, List.not_mem_nil, or_false, forall_eq_or_imp, forall_eq] at hx
  obtain ⟨h10, h44, h64⟩ := hx
  have hshown : (bezelShown s st op status).reg q x = s.reg q x :=
    (reg_raiseEvt_apart _ _ _ _ h44 h10).trans (reg_setReg_apart _ _ _ _ h44)
  rw [bzlEnd_eq]
  split
  · exact hshown
  · exact (reg_locketRequest_apart _ _ _ _ _ _ _ h44 h10 h64).trans hshown

end

/-! ### What a command leaves of the Bezel, of memory and of its output -/

theorem unlogged_bezel : Unlogged fun s => s.mod.bzl := unlogged_mod Module.bzl fun _ _ => rfl

theorem unlogged_buffer : Unlogged fun s => (s.st 0).bzlBuf where
  box s i m f _ := State.st_modSt_proj s Stack.bzlBuf (by intro; rfl) i 0
  mail _ _ _ _ := rfl
  wake _ _ := rfl
  reg _ _ _ _ _ := rfl
  clasp s i f := State.st_modSt_proj s Stack.bzlBuf (by intro; rfl) i 0
  draw _ _ := rfl
  reqs _ _ := rfl

section
variable (s : State) (op : Nat) (bs : List Byte)

theorem getList_setList_self {α : Type} [DecidableEq α] (d : Nat → α) (m : Sparse α) (vs : List α) :
    Machine.Sparse.getList d (Machine.Sparse.setList d m 0 vs) 0 vs.length = vs := by
  refine List.ext_getElem (Sparse.getList_length ..) fun i h h' => ?_
  rw [Sparse.getList_getElem, Sparse.get_setList, dif_pos ⟨by omega, by omega⟩]
  simp

/-- A command that answers: its output stands in the buffer, and its length is shown (R414). -/
theorem bezelAnswers_bzlEnd (hl : bs.length < 2 ^ 32) : BezelAnswers (bzlEnd (bzlOutput s bs) 0 op 0) bs := by
  have hbuf : ((bzlEnd (bzlOutput s bs) 0 op 0).st 0).bzlBuf = Machine.Sparse.setList (fun _ => 0) (s.st 0).bzlBuf 0 bs :=
    Eq.trans (unlogged_buffer.bzlEnd (bzlOutput s bs) 0 op 0)
      (congrArg Stack.bzlBuf (State.st_modSt_same s 0 fun x => { x with bzlBuf := Machine.Sparse.setList (fun _ => 0) x.bzlBuf 0 bs }))
  constructor
  · rw [hbuf]
    exact getList_setList_self ..
  · rw [reg_bzlEnd_apart _ _ _ _ _ (by decide), bzlOutput, State.reg_setReg_same, BitVec.toNat_ofNat, Nat.mod_eq_of_lt hl]

theorem bzl_bzlEnd (st : Fin 8) (status : Nat) : (bzlEnd s st op status).mod.bzl = s.mod.bzl := unlogged_bezel.bzlEnd s st op status

theorem memoryKept_bzlEnd (st : Fin 8) (status : Nat) : MemoryKept s (bzlEnd s st op status) := same_byte_iff.1 (unlogged_byte.bzlEnd s st op status)

theorem memoryKept_bzlOutput : MemoryKept s (bzlOutput s bs) := fun a =>
  State.byte_modSt (f := fun x => { x with bzlBuf := Machine.Sparse.setList (fun _ => 0) x.bzlBuf 0 bs }) s 0 (by intro; rfl) a

/-- A command that ends leaves the Bezel and memory as they were. -/
theorem bzlEnd_spec (st : Fin 8) {status : Nat} (ho : op < 16) (hs : status < 256) :
    BezelEnds (bzlEnd s st op status) st op status ∧ (bzlEnd s st op status).mod.bzl = s.mod.bzl ∧ MemoryKept s (bzlEnd s st op status) :=
  ⟨bezelEnds_bzlEnd s st op status ho hs, bzl_bzlEnd s op st status, memoryKept_bzlEnd s op st status⟩

/-- A command that answers leaves them too. -/
theorem bzlAnswered_spec (ho : op < 16) (hl : bs.length < 2 ^ 32) :
    let t := bzlEnd (bzlOutput s bs) 0 op 0
    BezelEnds t 0 op 0 ∧ BezelAnswers t bs ∧ t.mod.bzl = s.mod.bzl ∧ MemoryKept s t := by
  obtain ⟨hends, hbzl, hmem⟩ := bzlEnd_spec (bzlOutput s bs) op 0 (status := 0) ho (by decide)
  exact ⟨hends, bezelAnswers_bzlEnd s op bs hl, hbzl, fun a => (hmem a).trans (memoryKept_bzlOutput s bs a)⟩

end

theorem has_zero (s : State) : s.has 0 = true := by
  unfold State.has
  cases s.part <;> rfl

/-! ### The commands that answer -/

section
variable (s : State)

theorem shake_length (m : List Byte) (n : Nat) : (shake m n).length = n := slice_length ..

theorem endorsement_length : (endorsement s).length = 3357 := by
  simp only [endorsement, List.length_append, List.length_cons, List.length_nil, leBytes_length, slice_length, idHash, shake_length]

theorem planEntry_length (i : Nat) : (planEntry s i).length = 80 := by
  rw [planEntry]
  split
  · exact List.length_replicate
  · simp only [List.length_append, List.length_cons, List.length_nil, leBytes_length]

theorem ownerHash_length : (ownerHash s).length = 32 := by
  rw [ownerHash]
  split
  · exact List.length_replicate
  · exact shake_length ..

theorem length_flatMap_of_forall {α : Type} {f : α → List Byte} {k : Nat} (h : ∀ a, (f a).length = k) (l : List α) :
    (l.flatMap f).length = l.length * k := by
  simp only [List.length_flatMap, h, List.map_const', List.sum_replicate, smul_eq_mul]

theorem measBytes_length (v : Vector (BitVec 512) 6) : (v.toList.flatMap fun m => leBytes m.toNat 64).length = 384 := by
  have h := length_flatMap_of_forall (f := fun m : BitVec 512 => leBytes m.toNat 64) (fun m => leBytes_length m.toNat 64) v.toList
  rw [Vector.length_toList] at h
  exact h

theorem planEntries_length : ((List.range 32).flatMap (planEntry s)).length = 2560 :=
  (length_flatMap_of_forall (planEntry_length s) (List.range 32)).trans (by rw [List.length_range])

theorem attestBody_length (nonce : List Byte) (time : DWord) : (attestBody s nonce time).length = 3136 := by
  have hek : (if s.mod.bzl.owner = [] then List.replicate 32 0 else shake (sealEk s) 32).length = 32 := by
    split
    · exact List.length_replicate
    · exact shake_length ..
  unfold attestBody
  simp only [List.length_append, measBytes_length, planEntries_length, hek, List.length_cons, List.length_nil, leBytes_length,
    slice_length, idHash, shake_length, ownerHash_length, List.length_replicate]

variable (r : Requester) (hmay : mayWrite s r (bzlPage 0) 0x040 = true)
include hmay

theorem identity_completes : Completes (.identity r 0) s fun t =>
    BezelEnds t 0 1 0 ∧ BezelAnswers t (ikPublic s ++ endorsement s) ∧ t.mod.bzl = s.mod.bzl ∧ MemoryKept s t := by
  refine completes_asked (t := bzlGo s 0 1) (if_pos (has_zero s)) hmay ?_
  refine bzlAnswered_spec s 1 _ (by decide) ?_
  rw [List.length_append, ikPublic, slice_length, endorsement_length]
  decide

theorem attest_completes : Completes (.attest r 0) s fun t => t.mod.bzl = s.mod.bzl ∧ MemoryKept s t ∧
    if (bzlInput s).length = 32 then
      BezelEnds t 0 2 0 ∧
        BezelAnswers t (attestBody s (bzlInput s) s.now.1 ++ ikSign s (attestBody s (bzlInput s) s.now.1) (ascii "KX-ATT"))
    else BezelEnds t 0 2 1 := by
  refine completes_asked (t := bzlAttest s) (if_pos (has_zero s)) hmay ?_
  rw [bzlAttest]
  by_cases hl : (bzlInput s).length = 32
  · obtain ⟨hends, hans, hbzl, hmem⟩ := bzlAnswered_spec s.now.2 2
      (attestBody s (bzlInput s) s.now.1 ++ ikSign s (attestBody s (bzlInput s) s.now.1) (ascii "KX-ATT")) (by decide) (by
        rw [List.length_append, attestBody_length, ikSign, slice_length]
        decide)
    rw [if_neg (not_not.2 hl), if_pos hl]
    exact ⟨hbzl, hmem, hends, hans⟩
  · obtain ⟨hends, hbzl, hmem⟩ := bzlEnd_spec s 2 0 (status := 1) (by decide) (by decide)
    rw [if_pos hl, if_neg hl]
    exact ⟨hbzl, hmem, hends⟩

theorem sealEk_completes : Completes (.sealEk r 0) s fun t => t.mod.bzl = s.mod.bzl ∧ MemoryKept s t ∧
    if s.mod.bzl.owner = [] then BezelEnds t 0 5 5 else BezelEnds t 0 5 0 ∧ BezelAnswers t (sealEk s) := by
  refine completes_asked (t := bzlSealEk s) (if_pos (has_zero s)) hmay ?_
  rw [bzlSealEk]
  split
  · obtain ⟨hends, hbzl, hmem⟩ := bzlEnd_spec s 5 0 (status := 5) (by decide) (by decide)
    exact ⟨hbzl, hmem, hends⟩
  · obtain ⟨hends, hans, hbzl, hmem⟩ := bzlAnswered_spec s 5 (sealEk s) (by decide) (by rw [sealEk, slice_length]; decide)
    exact ⟨hbzl, hmem, hends, hans⟩

/-! ### Custody (R406 to R408) -/

omit hmay in
/-- What a check finds is a STATUS of the table. -/
theorem custodyStatus_lt (bs : List Byte) : custodyStatus s bs < 256 := by
  have hle : custodyStatus s bs ≤ 7 := firstStatus_le (by simp)
  omega

/-- The owner record of an accepted blob, before the wipe begins. -/
def ownerSet (bs : List Byte) : State :=
  s.modBzl fun b =>
    { b with owner := if blobNat bs 2 1 = 1 then slice bs 48 1952 else [], epoch := b.epoch + 1, configSeq := 0, configHash := 0,
             peers := [], plans := [], sealed := false, wipePending := true, wipeKind := blobNat bs 2 1 }

/-- The owner record measured and shown, with the base word. -/
def ownerShown (bs : List Byte) : State :=
  raiseEvt ((measExtend (ownerSet s bs) 4 (ownerData (ownerSet s bs))).modLkt fun l => { l with base := locketNext s + 1 }) (bzlPage 0) 5

omit hmay in
theorem custodyAccept_eq (bs : List Byte) : custodyAccept s bs =
    ((ownerShown s bs).stacksIn.foldl stackLost (ownerShown s bs)).setReg pwrmPage 0x044 3 := rfl

omit hmay in
theorem Unlost.losses {α : Type} {v : State → α} (hv : ∀ i, Unlost i v) (l : List (Fin 8)) (u : State) : Same v u (l.foldl Machine.stackLost u) :=
  .foldl (fun u i => (hv i).stackLost u) l u

/-- What the loss of stack 0's CTL domain leaves of the owner record and the Locket's base word. -/
def ownerRecord (m : Module) : List Byte × DWord × Bool × Bool × List (BitVec 256 × Byte) × List (BitVec 512) × DWord × DWord :=
  (m.bzl.owner, m.bzl.epoch, m.bzl.wipePending, m.bzl.sealed, m.bzl.peers, m.bzl.plans, m.bzl.configSeq, m.lkt.base)

omit hmay in
theorem ownerRecord_custodyAccept (bs : List Byte) : ownerRecord (custodyAccept s bs).mod =
    (if blobNat bs 2 1 = 1 then slice bs 48 1952 else [], s.mod.bzl.epoch + 1, true, false, [], [], 0, locketNext s + 1) := by
  have hlost : ∀ u : State, ∀ l : List (Fin 8), ownerRecord (l.foldl stackLost u).mod = ownerRecord u.mod := fun u l =>
    Unlost.losses (unlost_mod ownerRecord (fun _ _ => rfl) fun _ => rfl) l u
  have hshown : ownerRecord (ownerShown s bs).mod =
      ownerRecord ((measExtend (ownerSet s bs) 4 (ownerData (ownerSet s bs))).modLkt fun l => { l with base := locketNext s + 1 }).mod :=
    congrArg ownerRecord (mod_raiseEvt ..)
  rw [custodyAccept_eq]
  exact Eq.trans (hlost _ _) hshown

omit hmay in
theorem stackGone_custodyAccept (bs : List Byte) (st : Fin 8) (hs : s.has st = true) : StackGone (custodyAccept s bs) st := by
  have hpart : (ownerShown s bs).has st = s.has st :=
    congrArg (fun p : Part => decide (st.val < stackCount p)) (kept_raiseEvt ..).part
  have hin : st ∈ (ownerShown s bs).stacksIn := mem_stacksIn.2 (hpart.trans hs)
  rw [custodyAccept_eq]
  exact stackGone_setReg (stackGone_losses (.inl hin)) _ _ (by decide) (by decide) (.inl (page_ne_of_blk nofun))

theorem custody_completes : Completes (.custody r 0) s fun t =>
    if custodyStatus s (bzlInput s) = 0 then
      t.mod.bzl.owner = (if blobNat (bzlInput s) 2 1 = 1 then slice (bzlInput s) 48 1952 else []) ∧
        t.mod.bzl.epoch = s.mod.bzl.epoch + 1 ∧ t.mod.bzl.wipePending = true ∧ t.mod.bzl.sealed = false ∧ t.mod.bzl.peers = [] ∧
        t.mod.bzl.plans = [] ∧ t.mod.bzl.configSeq = 0 ∧ t.mod.lkt.base = locketNext s + 1 ∧
        ∀ st : Fin 8, s.has st = true → StackGone t st
    else BezelEnds t 0 3 (custodyStatus s (bzlInput s)) ∧ t.mod.bzl = s.mod.bzl ∧ MemoryKept s t := by
  refine completes_asked (t := bzlCustody s) (if_pos (has_zero s)) hmay ?_
  rw [bzlCustody]
  split
  · have h := ownerRecord_custodyAccept s (bzlInput s)
    simp only [ownerRecord, Prod.mk.injEq] at h
    obtain ⟨howner, hepoch, hwipe, hsealed, hpeers, hplans, hseq, hbase⟩ := h
    exact ⟨howner, hepoch, hwipe, hsealed, hpeers, hplans, hseq, hbase, stackGone_custodyAccept s _⟩
  · exact bzlEnd_spec s 3 0 (by decide) (custodyStatus_lt s _)

/-! ### Configuration (R409) -/

omit hmay in
theorem bzl_of_keptBut {l : List Kind} {t u : State} (h : KeptBut l t u) (hk : Kind.bezel ∉ l) : u.mod.bzl = t.mod.bzl :=
  h.kind .bezel hk

omit hmay in
/-- The Bezel is no part of a session that ends. -/
theorem bzl_sessClosed (st : Fin 8) (ctx : Nat) : (sessClosed s st ctx).mod.bzl = s.mod.bzl := by
  have hseqs : ∀ u : State, (u.stacksIn.foldl (fun s i => (List.finRange 4).foldl (fun s n => s.modSeq i n fun q =>
      { q with loadReply := q.loadReply.filter fun r => r.1 != sidOf st ctx }) s) u).mod.bzl = u.mod.bzl := fun u =>
    bzl_of_keptBut (.foldl (fun _ i => .foldl (fun _ n => keptBut_modSeq _ i n _) _ _) _ _) (by decide)
  have hlost : ∀ u : State, (ckptSessionLost (collSessionLost u st ctx) st ctx).mod.bzl = u.mod.bzl := fun u =>
    bzl_of_keptBut ((keptBut_collSessionLost u st ctx).trans (keptBut_ckptSessionLost ..)) (by decide)
  rw [sessClosed, hlost, hseqs]
  rfl

omit hmay in
theorem bzl_answerClose (st : Fin 8) (ctx : Nat) : (answerClose s st ctx).mod.bzl = s.mod.bzl  := by
  rw [answerClose, bzl_sessClosed, sendPacket]
  exact (bzl_of_keptBut (keptBut_send ..) (by decide)).trans (bzl_of_keptBut (keptBut_modSess ..) (by decide))

omit hmay in
theorem bzl_closeRemoved (old new : Bezel) (st : Fin 8) : (closeRemoved old new s st).mod.bzl = s.mod.bzl := by
  have hstep : ∀ (u : State) (e : Nat × Session), Same (fun u : State => u.mod.bzl) u (answerClose u st e.1) := fun u e =>
    bzl_answerClose u st e.1
  exact Same.foldl hstep _ s

omit hmay in
theorem bzl_closeAllRemoved (old new : Bezel) (l : List (Fin 8)) : (l.foldl (closeRemoved old new) s).mod.bzl = s.mod.bzl :=
  Same.foldl (v := fun u : State => u.mod.bzl) (fun u st => bzl_closeRemoved u old new st) l s

omit hmay in
theorem configStatus_lt (bs : List Byte) : configStatus s bs < 256 := by
  have hle : configStatus s bs ≤ 7 := firstStatus_le (by simp)
  omega

/-- The configuration in force after an accepted blob. -/
def configured (bs : List Byte) : State :=
  s.modBzl fun b =>
    { b with configSeq := BitVec.ofNat 64 (blobNat bs 16 8), sealed := bitAt (blobNat bs 2 1) 0,
             configHash := BitVec.ofNat 512 (leNat (shake bs 64)),
             peers := (List.range (blobNat bs 4 2)).map fun i =>
               (val256 (slice bs (64 + 36 * i) 32), BitVec.ofNat 8 (blobNat bs (96 + 36 * i) 1)),
             plans := (List.range (blobNat bs 6 2)).map fun i =>
               BitVec.ofNat 512 (blobNat bs (64 + 36 * blobNat bs 4 2 + 64 * i) 64) }

/-- The configuration measured, and a change of SEALED shown. -/
def configShown (bs : List Byte) : State :=
  let t := measExtend (configured s bs) 4 (ownerData (configured s bs))
  if bitAt (blobNat bs 2 1) 0 = s.mod.bzl.sealed then t else raiseEvt (measExtend t 5 bs) (bzlPage 0) 4

omit hmay in
theorem bzlConfig_eq : bzlConfig s =
    if configStatus s (bzlInput s) ≠ 0 then bzlEnd s 0 4 (configStatus s (bzlInput s))
    else bzlEnd ((configShown s (bzlInput s)).stacksIn.foldl (closeRemoved s.mod.bzl (configured s (bzlInput s)).mod.bzl)
      (configShown s (bzlInput s))) 0 4 0 := rfl

/-- What a configuration sets, and what it leaves of the owner record. -/
def configRecord (b : Bezel) : List Byte × DWord × DWord × Bool × List (BitVec 256 × Byte) × List (BitVec 512) :=
  (b.owner, b.epoch, b.configSeq, b.sealed, b.peers, b.plans)

omit hmay in
theorem configRecord_configShown (bs : List Byte) :
    configRecord (configShown s bs).mod.bzl = configRecord (configured s bs).mod.bzl := by
  rw [configShown]
  split
  · rfl
  · exact Eq.trans (congrArg (fun m : Module => configRecord m.bzl) (mod_raiseEvt ..)) rfl

theorem config_completes : Completes (.config r 0) s fun t =>
    BezelEnds t 0 4 (configStatus s (bzlInput s)) ∧ t.mod.bzl.owner = s.mod.bzl.owner ∧ t.mod.bzl.epoch = s.mod.bzl.epoch ∧
      if configStatus s (bzlInput s) = 0 then
        t.mod.bzl.configSeq.toNat = blobNat (bzlInput s) 16 8 ∧ t.mod.bzl.sealed = bitAt (blobNat (bzlInput s) 2 1) 0 ∧
          t.mod.bzl.peers.length = blobNat (bzlInput s) 4 2 ∧ t.mod.bzl.plans.length = blobNat (bzlInput s) 6 2
      else t.mod.bzl = s.mod.bzl := by
  refine completes_asked (t := bzlConfig s) (if_pos (has_zero s)) hmay ?_
  rw [bzlConfig_eq]
  by_cases he : configStatus s (bzlInput s) = 0
  · rw [if_neg (not_not.2 he), if_pos he, he]
    obtain ⟨hends, hbzl, -⟩ := bzlEnd_spec ((configShown s (bzlInput s)).stacksIn.foldl
      (closeRemoved s.mod.bzl (configured s (bzlInput s)).mod.bzl) (configShown s (bzlInput s))) 4 0 (status := 0) (by decide) (by decide)
    have hrec := (congrArg configRecord (hbzl.trans (bzl_closeAllRemoved ..))).trans (configRecord_configShown s (bzlInput s))
    simp only [configRecord, Prod.mk.injEq] at hrec
    obtain ⟨howner, hepoch, hseq, hsealed, hpeers, hplans⟩ := hrec
    refine ⟨hends, howner, hepoch, ?_, hsealed, ?_, ?_⟩
    · rw [hseq]
      exact toNat_ofNat_slice8 ..
    · rw [hpeers]
      simp only [configured, State.modBzl, List.length_map, List.length_range]
    · rw [hplans]
      simp only [configured, State.modBzl, List.length_map, List.length_range]
  · rw [if_pos he, if_neg he]
    obtain ⟨hends, hbzl, -⟩ := bzlEnd_spec s 4 0 (by decide) (configStatus_lt s (bzlInput s))
    rw [hbzl]
    exact ⟨hends, rfl, rfl, rfl⟩

/-! ### Sealing keys (R410) -/

omit hmay in
theorem slot_of_bzl {s t : State} (h : t.mod.bzl = s.mod.bzl) (n : Nat) : t.slot n = s.slot n := by
  rw [State.slot, State.slot, h]

omit hmay in
theorem slot_modSlot_same {m : Nat} (f : SealSlot → SealSlot) (hm : m < 16) : (s.modSlot m f).slot m = f (s.slot m) := by
  simp [State.modSlot, State.slot, State.modBzl, hm]

omit hmay in
theorem slot_modSlot_apart {m n : Nat} (f : SealSlot → SealSlot) (hn : n ≠ m) : (s.modSlot m f).slot n = s.slot n := by
  by_cases hm : m < 16
  · simp only [State.modSlot, dif_pos hm, State.slot, State.modBzl]
    split
    · exact Vector.getElem_set_ne _ _ (Ne.symm hn)
    · rfl
  · rw [State.modSlot, dif_neg hm]

omit hmay in
theorem memoryKept_modSlot (m : Nat) (f : SealSlot → SealSlot) : MemoryKept s (s.modSlot m f) := fun a => by
  rw [State.modSlot]
  split
  · rfl
  · rfl

omit hmay in
theorem sealKeyStatus_lt (bs : List Byte) : sealKeyStatus s bs < 256 := by
  have hle : sealKeyStatus s bs ≤ 7 := firstStatus_le (by simp)
  omega

omit hmay in
/-- A blob that passes its layout check names a slot. -/
theorem slot_lt_of_sealKeyStatus {bs : List Byte} (h : sealKeyStatus s bs = 0) : blobNat bs 2 1 < 16 := by
  by_contra hge
  have hbad : (bs.length != 4413 || blobNat bs 0 2 != 1 || decide (16 ≤ blobNat bs 2 1) || !zeroAt bs 3 5) = true := by
    simp [Nat.not_lt.1 hge]
  rw [sealKeyStatus, firstStatus, if_pos hbad] at h
  exact absurd h (by decide)

/-- A slot takes its key, and the blob is measured. -/
def slotSealed (bs : List Byte) : State := measExtend (s.modSlot (blobNat bs 2 1) fun _ => sealedKey s bs) 5 bs

omit hmay in
theorem slot_slotSealed (bs : List Byte) (n : Nat) :
    (slotSealed s bs).slot n = (s.modSlot (blobNat bs 2 1) fun _ => sealedKey s bs).slot n := rfl

omit hmay in
theorem memoryKept_slotSealed (bs : List Byte) : MemoryKept s (slotSealed s bs) :=
  memoryKept_modSlot s (blobNat bs 2 1) fun _ => sealedKey s bs

theorem sealKey_completes : Completes (.sealKey r 0) s fun t =>
    BezelEnds t 0 6 (sealKeyStatus s (bzlInput s)) ∧ MemoryKept s t ∧
      if sealKeyStatus s (bzlInput s) = 0 then
        t.slot (blobNat (bzlInput s) 2 1) = sealedKey s (bzlInput s) ∧ ∀ n, n ≠ blobNat (bzlInput s) 2 1 → t.slot n = s.slot n
      else t.mod.bzl = s.mod.bzl := by
  refine completes_asked (t := bzlSealKey s) (if_pos (has_zero s)) hmay ?_
  rw [bzlSealKey]
  by_cases he : sealKeyStatus s (bzlInput s) = 0
  · rw [if_neg (not_not.2 he), if_pos he, he]
    have hslot := slot_lt_of_sealKeyStatus s he
    obtain ⟨hends, hbzl, hmem⟩ := bzlEnd_spec (slotSealed s (bzlInput s)) 6 0 (status := 0) (by decide) (by decide)
    have hkey : ∀ n, (bzlEnd (slotSealed s (bzlInput s)) 0 6 0).slot n =
        (s.modSlot (blobNat (bzlInput s) 2 1) fun _ => sealedKey s (bzlInput s)).slot n := fun n =>
      (slot_of_bzl hbzl n).trans (slot_slotSealed ..)
    refine ⟨hends, fun a => (hmem a).trans (memoryKept_slotSealed s _ a), ?_, fun n hn => ?_⟩
    · exact (hkey _).trans (slot_modSlot_same s _ hslot)
    · exact (hkey n).trans (slot_modSlot_apart s _ hn)
  · rw [if_pos he, if_neg he]
    obtain ⟨hends, hbzl, hmem⟩ := bzlEnd_spec s 6 0 (by decide) (sealKeyStatus_lt s (bzlInput s))
    exact ⟨hends, hmem, hbzl⟩

/-- The slots that a mask selects are emptied. -/
def slotsDropped (mask : Nat) (l : List Nat) : State :=
  l.foldl (fun s i => if bitAt mask i then s.modSlot i fun _ => {} else s) s

omit hmay in
theorem slotsDropped_cons (mask i : Nat) (l : List Nat) :
    slotsDropped s mask (i :: l) = slotsDropped (if bitAt mask i then s.modSlot i fun _ => {} else s) mask l := rfl

omit hmay in
theorem slot_slotsDropped (mask n : Nat) (l : List Nat) (hl : ∀ i ∈ l, i < 16) :
    (slotsDropped s mask l).slot n = if n ∈ l ∧ bitAt mask n = true then {} else s.slot n := by
  induction l generalizing s with
  | nil => simp [slotsDropped]
  | cons i l ih =>
    have hi := hl i (by simp)
    rw [slotsDropped_cons, ih _ fun j hj => hl j (by simp [hj])]
    by_cases hni : n = i
    · subst hni
      by_cases hb : bitAt mask n = true
      · simp [hb, slot_modSlot_same s _ hi]
      · simp [hb]
    · have hkept : (if bitAt mask i then s.modSlot i fun _ => {} else s).slot n = s.slot n := by
        split
        · exact slot_modSlot_apart s _ hni
        · rfl
      simp only [hkept, List.mem_cons, hni, false_or]

omit hmay in
theorem memoryKept_slotsDropped (mask : Nat) (l : List Nat) : MemoryKept s (slotsDropped s mask l) := by
  induction l generalizing s with
  | nil => exact fun a => rfl
  | cons i l ih =>
    have hstep : MemoryKept s (if bitAt mask i then s.modSlot i fun _ => {} else s) := by
      split
      · exact memoryKept_modSlot s _ _
      · exact fun a => rfl
    exact fun a => (ih _ a).trans (hstep a)

theorem sealDrop_completes : Completes (.sealDrop r 0) s fun t => MemoryKept s t ∧
    if (bzlInput s).length = 2 then
      BezelEnds t 0 7 0 ∧ ∀ n < 16, t.slot n = if bitAt (leNat (bzlInput s)) n then {} else s.slot n
    else BezelEnds t 0 7 1 ∧ t.mod.bzl = s.mod.bzl := by
  refine completes_asked (t := bzlSealDrop s) (if_pos (has_zero s)) hmay ?_
  rw [bzlSealDrop]
  by_cases hl : (bzlInput s).length = 2
  · rw [if_neg (not_not.2 hl), if_pos hl]
    obtain ⟨hends, hbzl, hmem⟩ := bzlEnd_spec (slotsDropped s (leNat (bzlInput s)) (List.range 16)) 7 0 (status := 0)
      (by decide) (by decide)
    refine ⟨fun a => (hmem a).trans (memoryKept_slotsDropped s _ _ a), hends, fun n hn => ?_⟩
    refine (slot_of_bzl hbzl n).trans ((slot_slotsDropped s _ n _ fun i hi => List.mem_range.1 hi).trans ?_)
    simp only [List.mem_range, hn, true_and]
  · rw [if_pos hl, if_neg hl]
    obtain ⟨hends, hbzl, hmem⟩ := bzlEnd_spec s 7 0 (status := 1) (by decide) (by decide)
    exact ⟨hmem, hends, hbzl⟩

/-! ### Debug (R413) -/

omit hmay in
theorem debugStatus_lt (bs : List Byte) : debugStatus s bs < 256 := by
  have hle : debugStatus s bs ≤ 7 := firstStatus_le (by simp)
  omega

/-- The part unlocked by a token, and measured. -/
def unlocked (bs : List Byte) : State :=
  measExtend (s.modBzl fun b =>
    { b with slots := Vector.replicate 16 {}, debugOwner := b.debugOwner || blobNat bs 2 1 == 1,
             debugVendor := b.debugVendor || !(blobNat bs 2 1 == 1) }) 5 bs

omit hmay in
theorem bzlDebug_eq : bzlDebug s =
    if debugStatus s (bzlInput s) ≠ 0 then bzlEnd s 0 8 (debugStatus s (bzlInput s))
    else bezelRecord (raiseEvt (bzlEnd (unlocked s (bzlInput s)) 0 8 0) (bzlPage 0) 4) 0x8009
      (leBytes 8 1 ++ leBytes 0 1 ++ leBytes (bzlMode (unlocked s (bzlInput s)) 0) 1) := rfl

omit hmay in
theorem slot_unlocked (bs : List Byte) (n : Nat) : (unlocked s bs).slot n = {} := by
  rw [State.slot]
  split
  · exact Vector.getElem_replicate ..
  · rfl

theorem debug_completes : Completes (.debug r 0) s fun t =>
    BezelEnds t 0 8 (debugStatus s (bzlInput s)) ∧ MemoryKept s t ∧
      if debugStatus s (bzlInput s) = 0 then
        (∀ n, t.slot n = {}) ∧ t.mod.bzl.debugOwner = (s.mod.bzl.debugOwner || blobNat (bzlInput s) 2 1 == 1) ∧
          t.mod.bzl.debugVendor = (s.mod.bzl.debugVendor || blobNat (bzlInput s) 2 1 != 1)
      else t.mod.bzl = s.mod.bzl := by
  refine completes_asked (t := bzlDebug s) (if_pos (has_zero s)) hmay ?_
  rw [bzlDebug_eq]
  by_cases he : debugStatus s (bzlInput s) = 0
  · rw [if_neg (not_not.2 he), if_pos he, he]
    obtain ⟨hends, hbzl, hmem⟩ := bzlEnd_spec (unlocked s (bzlInput s)) 8 0 (status := 0) (by decide) (by decide)
    have hshown : BezelEnds (raiseEvt (bzlEnd (unlocked s (bzlInput s)) 0 8 0) (bzlPage 0) 4) 0 8 0 :=
      bezelEnds_of 0 8 0 hends (reg_raiseEvt_bezelStat ..) (flag_raiseEvt_of_flag _ _ _ (by decide) hends.2.2)
    have hkept : ∀ {α : Type} {v : State → α}, Unlogged v → ∀ code payload, Same v (bzlEnd (unlocked s (bzlInput s)) 0 8 0)
        (bezelRecord (raiseEvt (bzlEnd (unlocked s (bzlInput s)) 0 8 0) (bzlPage 0) 4) code payload) := fun hv _ _ =>
      (hv.raiseEvt ..).trans (hv.locketRequest ..)
    have hsame := Eq.trans (hkept unlogged_bezel 0x8009
      (leBytes 8 1 ++ leBytes 0 1 ++ leBytes (bzlMode (unlocked s (bzlInput s)) 0) 1)) hbzl
    refine ⟨bezelEnds_record 0 8 0 hshown .., fun a => (same_byte_iff.1 (hkept unlogged_byte ..) a).trans (hmem a), fun n =>
      (slot_of_bzl hsame n).trans (slot_unlocked ..), ?_, ?_⟩
    · exact congrArg Bezel.debugOwner hsame
    · exact congrArg Bezel.debugVendor hsame
  · rw [if_pos he, if_neg he]
    obtain ⟨hends, hbzl, hmem⟩ := bzlEnd_spec s 8 0 (by decide) (debugStatus_lt s (bzlInput s))
    exact ⟨hends, hmem, hbzl⟩

/-! ### Firmware update (R402, R403) -/

omit hmay in
theorem updateStatus_lt (bs : List Byte) : updateStatus s bs < 256 := by
  unfold updateStatus
  dsimp only
  split
  · decide
  split
  · decide
  split
  · decide
  split
  · decide
  split
  · decide
  · decide
  split
  · decide
  · decide

/-- The image an update writes, measured. -/
def imageWritten (bs : List Byte) : State :=
  measExtend (s.modBzl fun b => { b with nor := Machine.Sparse.setList (fun _ => 0) [] 0 (s.bytes (blobNat bs 0 8) (blobNat bs 8 8)) }) 5 bs

/-- Start-up goes on with the image (R402). -/
def updateStarted (bs : List Byte) : State :=
  stageComplete (stageComplete (firmwareStarts ((imageWritten s bs).modBzl fun b => { b with recovery := false })) 1) 2

omit hmay in
theorem bzlFwUpdate_eq : bzlFwUpdate s =
    if updateStatus s (bzlInput s) ≠ 0 then bzlEnd s 0 9 (updateStatus s (bzlInput s))
    else if s.mod.bzl.recovery then bzlEnd (updateStarted s (bzlInput s)) 0 9 0 else bzlEnd (imageWritten s (bzlInput s)) 0 9 0 := rfl

/-- The image, whether the part is in recovery, and memory. -/
def imageAndMemory : Sparse Byte × Bool × (Nat → Byte) := (s.mod.bzl.nor, s.mod.bzl.recovery, s.byte)

omit hmay in
theorem same_heldWritten : Same imageAndMemory s (heldWritten s) := by
  have hadd : ∀ (u : State) (e : Nat × Nat), Same imageAndMemory u
      (addRequest u (bzlPage 0).source (bzlPage 0).order 0 (0x0800 + e.1) (faultPayload u (bzlPage 0) e.2 0)) := fun _ _ => rfl
  exact Same.trans (Same.foldl hadd s.mod.bzl.heldFaults s) rfl

/-- The image, the CAL block and the owner record measured, and the image's header taken (R400). -/
def imageMeasured : State :=
  (measExtend (measExtend (measExtend s 1 (norReader s 0 128)) 2 (calData s)) 4 (ownerData s)).modBzl fun b =>
    { b with fwVersion := BitVec.ofNat 32 (fwVersionOf (norReader s)), fwSvn := fwSvnOf (norReader s), fwSlot := fwKeySlot (norReader s) }

omit hmay in
theorem firmwareStarts_eq : firmwareStarts s = heldWritten ((imageMeasured s).stacksIn.foldl
    (fun s i => s.modPwr i fun p => { p with firmware := p.paired }) (imageMeasured s)) := rfl

omit hmay in
theorem same_measExtend (i : Fin 6) (data : List Byte) : Same imageAndMemory s (measExtend s i data) := rfl

omit hmay in
theorem same_imageMeasured : Same imageAndMemory s (imageMeasured s) := by
  have hheader : ∀ (u : State) (v n k), Same imageAndMemory u (u.modBzl fun b => { b with fwVersion := v, fwSvn := n, fwSlot := k }) :=
    fun _ _ _ _ => rfl
  exact ((same_measExtend ..).trans (same_measExtend ..) |>.trans (same_measExtend ..)).trans (hheader ..)

omit hmay in
theorem same_firmwareStarts : Same imageAndMemory s (firmwareStarts s) := by
  have hpwr : ∀ (u : State) (i : Fin 8), Same imageAndMemory u (u.modPwr i fun p => { p with firmware := p.paired }) := fun u i => by
    have hbyte : (u.modPwr i fun p => { p with firmware := p.paired }).byte = u.byte :=
      funext ((keptBut_modPwr u i (f := fun p => { p with firmware := p.paired }) fun _ => rfl).kind .memory (by decide))
    rw [Same, imageAndMemory, hbyte]
    rfl
  rw [firmwareStarts_eq]
  exact ((same_imageMeasured s).trans (Same.foldl hpwr _ _)).trans (same_heldWritten _)

omit hmay in
theorem imageAndMemory_updateStarted (bs : List Byte) : imageAndMemory (updateStarted s bs) =
    ((imageWritten s bs).mod.bzl.nor, false, s.byte) := by
  have hstages : ∀ u : State, imageAndMemory (stageComplete (stageComplete u 1) 2) = imageAndMemory u := fun _ => rfl
  exact Eq.trans (hstages _) (same_firmwareStarts _)

omit hmay in
/-- The NOR flash reads as the image in memory did. -/
theorem nor_imageWritten (bs : List Byte) {i : Nat} (hi : i < blobNat bs 8 8) :
    Machine.Sparse.get (fun _ => 0) (imageWritten s bs).mod.bzl.nor i = s.byte (blobNat bs 0 8 + i) := by
  have hlen : (s.bytes (blobNat bs 0 8) (blobNat bs 8 8)).length = blobNat bs 8 8 := Sparse.getList_length ..
  refine Eq.trans (Sparse.get_setList ..) ?_
  rw [dif_pos ⟨Nat.zero_le i, by omega⟩]
  simp only [State.bytes, Sparse.getList_getElem, State.byte, Nat.sub_zero]

theorem fwUpdate_completes : Completes (.fwUpdate r 0) s fun t =>
    BezelEnds t 0 9 (updateStatus s (bzlInput s)) ∧ MemoryKept s t ∧
      if updateStatus s (bzlInput s) = 0 then
        t.mod.bzl.recovery = false ∧ ∀ i < blobNat (bzlInput s) 8 8,
          Machine.Sparse.get (fun _ => 0) t.mod.bzl.nor i = s.byte (blobNat (bzlInput s) 0 8 + i)
      else t.mod.bzl = s.mod.bzl := by
  refine completes_asked (t := bzlFwUpdate s) (if_pos (has_zero s)) hmay ?_
  rw [bzlFwUpdate_eq]
  by_cases he : updateStatus s (bzlInput s) = 0
  · rw [if_neg (not_not.2 he), if_pos he, he]
    have hdone : ∀ u : State, imageAndMemory u = ((imageWritten s (bzlInput s)).mod.bzl.nor, false, s.byte) →
        BezelEnds (bzlEnd u 0 9 0) 0 9 0 ∧ MemoryKept s (bzlEnd u 0 9 0) ∧ (bzlEnd u 0 9 0).mod.bzl.recovery = false ∧
          ∀ i < blobNat (bzlInput s) 8 8,
            Machine.Sparse.get (fun _ => 0) (bzlEnd u 0 9 0).mod.bzl.nor i = s.byte (blobNat (bzlInput s) 0 8 + i) := fun u hu => by
      obtain ⟨hends, hbzl, hmem⟩ := bzlEnd_spec u 9 0 (status := 0) (by decide) (by decide)
      simp only [imageAndMemory, Prod.mk.injEq] at hu
      obtain ⟨hnor, hrec, hbyte⟩ := hu
      rw [hbzl, hnor, hrec]
      exact ⟨hends, fun a => (hmem a).trans (congrFun hbyte a), rfl, fun i => nor_imageWritten s _⟩
    split
    · exact hdone _ (imageAndMemory_updateStarted s _)
    next hrec => exact hdone _ (congrArg (fun b => ((imageWritten s (bzlInput s)).mod.bzl.nor, b, s.byte)) (Bool.eq_false_iff.2 hrec))
  · rw [if_pos he, if_neg he]
    obtain ⟨hends, hbzl, hmem⟩ := bzlEnd_spec s 9 0 (by decide) (updateStatus_lt s (bzlInput s))
    exact ⟨hends, hmem, hbzl⟩

end

/-! ### Other stacks (R415) -/

theorem bzlGo_apart (s : State) {st : Fin 8} (hne : st ≠ 0) {op : Nat} (h : ¬(op = 0 ∨ 9 < op)) :
    bzlGo s st op = bzlEnd s st op 7 := by
  unfold bzlGo
  rw [if_neg h, if_pos hne]

/-- A command on another stack's page ends with STACK. -/
theorem stack_completes {s : State} {r : Requester} {st : Fin 8} (hs : s.has st = true) (hne : st ≠ 0)
    (hmay : mayWrite s r (bzlPage st) 0x040 = true) {c : Instr} {op : Nat} (hop : 1 ≤ op ∧ op ≤ 9)
    (hc : exec c s = if s.has st then .next (asked s r (bzlPage st) 0x040 (bzlGo s st op)) else .fault .absentStack) :
    Completes c s fun t => BezelEnds t st op 7 ∧ t.mod.bzl = s.mod.bzl ∧ MemoryKept s t := by
  refine completes_asked (hc.trans (if_pos hs)) hmay ?_
  rw [bzlGo_apart s hne (by omega)]
  exact bzlEnd_spec s op st (by omega) (by decide)

/-! ### The wipe (R408) -/

/-- A record that is stored takes the next sequence number, and leaves the Bezel and memory. -/
theorem next_storeRecord (s : State) (r : RecReq) :
    (storeRecord s r).mod.lkt.next = s.mod.lkt.next + 1 ∧ (storeRecord s r).mod.bzl = s.mod.bzl ∧ MemoryKept s (storeRecord s r) :=
  ⟨Eq.trans (congrArg (fun m : Module => m.lkt.next) (mod_storeRecord s r)) rfl,
    Eq.trans (congrArg Module.bzl (mod_storeRecord s r)) rfl,
    same_byte_iff.1 (sameByte_storeRecord s r)⟩

theorem next_storeRecords (l : List RecReq) (s : State) :
    (l.foldl storeRecord s).mod.lkt.next = s.mod.lkt.next + BitVec.ofNat 64 l.length ∧
      (l.foldl storeRecord s).mod.bzl = s.mod.bzl ∧ MemoryKept s (l.foldl storeRecord s) := by
  induction l generalizing s with
  | nil => exact ⟨(BitVec.add_zero _).symm, rfl, fun _ => rfl⟩
  | cons r l ih =>
    obtain ⟨hnext, hbzl, hmem⟩ := next_storeRecord s r
    obtain ⟨hnext', hbzl', hmem'⟩ := ih (storeRecord s r)
    refine ⟨?_, hbzl'.trans hbzl, fun a => (hmem' a).trans (hmem a)⟩
    rw [List.foldl_cons, hnext', hnext, List.length_cons, Nat.add_comm l.length, BitVec.ofNat_add, BitVec.add_assoc]
    rfl

/-- The ring erased, and the wipe no longer pending. -/
def ringErased (s : State) : State :=
  (s.modLkt fun l => { l with ring := [], next := l.base, last := 0xFFFFFFFFFFFFFFFF }).modBzl fun b => { b with wipePending := false }

theorem wipeDone_spec (s : State) : (wipeDone s).mod.bzl.wipePending = false ∧ MemoryKept s (wipeDone s) ∧
    (wipeDone s).mod.lkt.next = s.mod.lkt.base + 1 + BitVec.ofNat 64 (softRepairs s.mod.lkt.ring).length := by
  have hspec : ∀ (u : State) (q : RecReq), u.mod.bzl.wipePending = false → MemoryKept s u → u.mod.lkt.next = s.mod.lkt.base →
      let t := ((softRepairs s.mod.lkt.ring).map copyRequest).foldl storeRecord (storeRecord u q)
      t.mod.bzl.wipePending = false ∧ MemoryKept s t ∧
        t.mod.lkt.next = s.mod.lkt.base + 1 + BitVec.ofNat 64 (softRepairs s.mod.lkt.ring).length := fun u q hw hm hn => by
    obtain ⟨hnext, hbzl, hmem⟩ := next_storeRecord u q
    obtain ⟨hnext', hbzl', hmem'⟩ := next_storeRecords ((softRepairs s.mod.lkt.ring).map copyRequest) (storeRecord u q)
    refine ⟨(congrArg Bezel.wipePending (hbzl'.trans hbzl)).trans hw, fun a => (hmem' a).trans ((hmem a).trans (hm a)), ?_⟩
    rw [hnext', hnext, hn, List.length_map]
  exact hspec (makeRequest (ringErased s) (bzlPage 0).source 2 0 0x8008 (leBytes s.mod.bzl.wipeKind 1 ++ List.replicate 7 0 ++
    leBytes s.mod.bzl.epoch.toNat 8 ++ (ownerHash s).take 8)).2 _ rfl (fun _ => rfl) rfl

end Sys2Proof.Laws

open Sys2Proof Machine Safety Laws

/-- Settles O50: each command ends by `bzlEnd_spec` with the STATUS of its checks, an answered one by `bzlAnswered_spec`, and an
accepted one keeps what it has set; the wipe stores one record more than it copies. -/
theorem bezelCommands : Obligations.BezelCommands := by
  unfold Obligations.BezelCommands
  refine ⟨fun s r hmay => ⟨identity_completes s r hmay, attest_completes s r hmay, custody_completes s r hmay, config_completes s r hmay,
    sealEk_completes s r hmay, sealKey_completes s r hmay, sealDrop_completes s r hmay, debug_completes s r hmay,
    fwUpdate_completes s r hmay⟩, fun s r st hs hne hmay c hc => ?_, fun s hw hr hd => ⟨_, congrArg Host.Outcome.next (if_pos ⟨hw, hr, hd⟩), wipeDone_spec s⟩⟩
  simp only [List.mem_cons, List.not_mem_nil, or_false] at hc
  obtain rfl | rfl | rfl | rfl | rfl | rfl | rfl | rfl | rfl := hc
  · exact stack_completes hs hne hmay (op := 1) (by decide) rfl
  · exact stack_completes hs hne hmay (op := 2) (by decide) rfl
  · exact stack_completes hs hne hmay (op := 3) (by decide) rfl
  · exact stack_completes hs hne hmay (op := 4) (by decide) rfl
  · exact stack_completes hs hne hmay (op := 5) (by decide) rfl
  · exact stack_completes hs hne hmay (op := 6) (by decide) rfl
  · exact stack_completes hs hne hmay (op := 7) (by decide) rfl
  · exact stack_completes hs hne hmay (op := 8) (by decide) rfl
  · exact stack_completes hs hne hmay (op := 9) (by decide) rfl

end

section
/-! What the shared operations leave of the ring (R446): one lemma for each, cited in place of its definition. -/

-- One proof at a time: the stacks of many side by side would take the memory that the check allows.
set_option Elab.async false

namespace Sys2Proof.Laws

open Machine Safety

/-- What the Locket's ring holds. -/
def ring (s : State) : Sparse Slot64 := s.mod.lkt.ring

/-- A fold that carries more than the state. -/
theorem Same.foldl_fst {α β γ : Type} {v : State → γ} {f : State × β → α → State × β} (hf : ∀ x a, Same v x.1 (f x a).1) (l : List α)
    (x : State × β) : Same v x.1 (l.foldl f x).1 := by
  induction l generalizing x with
  | nil => exact .refl _
  | cons a l ih => exact (hf x a).trans (ih _)

/-! ### Updates that write no record -/

theorem ring_setReg (s : State) (p : Page) (off : Nat) (v : Word) : Same ring s (s.setReg p off v) := rfl

theorem ring_setFld (s : State) (p : Page) (off hi lo v : Nat) : Same ring s (s.setFld p off hi lo v) := rfl

theorem ring_setFlag (s : State) (p : Page) (off i : Nat) (b : Bool) : Same ring s (s.setFlag p off i b) := rfl

theorem ring_countSat (s : State) (p : Page) (off n : Nat) : Same ring s (s.countSat p off n) := rfl

theorem ring_countWrap (s : State) (p : Page) (off n : Nat) : Same ring s (s.countWrap p off n) := rfl

theorem ring_setPair (s : State) (p : Page) (off n : Nat) : Same ring s (s.setPair p off n) := rfl

theorem ring_countPair (s : State) (p : Page) (off n : Nat) : Same ring s (s.countPair p off n) := rfl

theorem ring_modQueue (s : State) (st : Fin 8) (q : Nat) (f : Queue → Queue) : Same ring s (s.modQueue st q f) := rfl

theorem ring_modSt (s : State) (i : Fin 8) (f : Stack → Stack) : Same ring s (s.modSt i f) := rfl

theorem ring_modClp (s : State) (i : Fin 8) (f : Clasp → Clasp) : Same ring s (s.modClp i f) := rfl

theorem ring_modTns (s : State) (i : Fin 8) (f : Tense → Tense) : Same ring s (s.modTns i f) := rfl

theorem ring_modArb (s : State) (i : Fin 8) (f : Arbiter → Arbiter) : Same ring s (s.modArb i f) := rfl

theorem ring_modPwr (s : State) (i : Fin 8) (f : Power → Power) : Same ring s (s.modPwr i f) := rfl

theorem ring_modSeq (s : State) (i : Fin 8) (n : Fin 4) (f : Seq → Seq) : Same ring s (s.modSeq i n f) := rfl

theorem ring_modBox (s : State) (i : Fin 8) (m : Nat) (f : Mailbox → Mailbox) : Same ring s (s.modBox i m f) := rfl

theorem ring_modCore (s : State) (i : Fin 8) (c : Nat) (f : Machine.Core → Machine.Core) : Same ring s (s.modCore i c f) := rfl

theorem ring_modKeys (s : State) (i : Fin 8) (f : Keys → Keys) : Same ring s (s.modKeys i f) := rfl

theorem ring_modRegion (s : State) (i : Fin 8) (n : Nat) (f : Region → Region) : Same ring s (s.modRegion i n f) := rfl

theorem ring_modSess (s : State) (i : Fin 8) (c : Nat) (f : Session → Session) : Same ring s (s.modSess i c f) := rfl

theorem ring_modChan (s : State) (i : Fin 8) (c : Nat) (f : Channel → Channel) : Same ring s (s.modChan i c f) := rfl

theorem ring_modCkpt (s : State) (i : Fin 8) (f : Ckpt → Ckpt) : Same ring s (s.modCkpt i f) := rfl

theorem ring_modFil (s : State) (i : Fin 8) (f : Filigree → Filigree) : Same ring s (s.modFil i f) := rfl

theorem ring_modHot (s : State) (i : Fin 8) (f : HotSet → HotSet) : Same ring s (s.modHot i f) := rfl

theorem ring_setByte (s : State) (a : Nat) (b : Byte) : Same ring s (s.setByte a b) := rfl

theorem ring_setBytes (s : State) (a : Nat) (bs : List Byte) : Same ring s (s.setBytes a bs) := rfl

theorem ring_keepBytes (s : State) (p : Nat → Bool) : Same ring s (s.keepBytes p) := rfl

theorem ring_modPm (s : State) (f : PowerModule → PowerModule) : Same ring s (s.modPm f) := rfl

/-- A change of the Locket that writes no record. -/
theorem ring_modLkt (s : State) (f : Locket → Locket) (h : ∀ l, (f l).ring = l.ring := by intro _; rfl) : Same ring s (s.modLkt f) :=
  h _

theorem ring_modBzl (s : State) (f : Bezel → Bezel) : Same ring s (s.modBzl f) := rfl

theorem ring_modCal (s : State) (f : Cal → Cal) : Same ring s (s.modCal f) := rfl

theorem ring_modBus (s : State) (f : BoardBus → BoardBus) : Same ring s (s.modBus f) := rfl

theorem ring_drawFree (s : State) : Same ring s s.drawFree.2 := rfl

theorem ring_drawElapsed (s : State) : Same ring s s.drawElapsed.2 := rfl

theorem ring_now (s : State) : Same ring s s.now.2 := rfl

theorem ring_send (s : State) (o : Output) : Same ring s (s.send o) := by
  unfold State.send
  split
  · exact .ite (.refl s) rfl
  · exact .ite (.refl s) rfl
  · rfl

theorem ring_bad (s : State) (l : List Nat) : Same ring s { s with bad := l } := rfl

theorem ring_loseKey (s : State) (st : Fin 8) : Same ring s (loseKey s st) := rfl

theorem ring_zeroSram (s : State) (st : Fin 8) : Same ring s (zeroSram s st) := rfl

theorem ring_zeroPanel (s : State) (st : Fin 8) (k : Nat) : Same ring s (zeroPanel s st k) := rfl

theorem ring_clearPage (s : State) (p : Page) (kept : Nat → Bool) : Same ring s (clearPage s p kept) := rfl

theorem ring_dropQueues (s : State) (p : Page) : Same ring s (dropQueues s p) := rfl

/-! ### Bells, requests and faults -/

theorem unlogged_ring : Unlogged ring := unlogged_mod (fun m => m.lkt.ring) fun _ _ => rfl

theorem ring_wakeBox (s : State) (i : Fin 8) (m : Nat) : Same ring s (wakeBox s i m) := by
  unfold wakeBox
  split
  · exact (ring_modBox ..).trans (ring_setFlag ..)
  · exact .refl s

theorem ring_setEvt (s : State) (p : Page) (n : Nat) : Same ring s (setEvt s p n) := ring_setFlag ..

theorem ring_ringBits (s : State) (i : Fin 8) (m : Nat) (bs : Word) : Same ring s (ringBits s i m bs) := by
  simp only [ringBits]
  split <;> split
  · exact ((ring_modBox ..).trans (ring_setEvt ..)).trans (ring_wakeBox ..)
  · exact (ring_modBox ..).trans (ring_wakeBox ..)
  · exact (ring_modBox ..).trans (ring_setEvt ..)
  · exact ring_modBox ..

theorem ring_ringLine (s : State) (p : Page) : Same ring s (ringLine s p) := by
  unfold ringLine
  split
  · exact .refl s
  · dsimp only; split
    · exact ring_ringBits ..
    · exact .refl s

theorem ring_lineRise (s₀ s : State) (p : Page) : Same ring s (lineRise s₀ s p) := by
  unfold lineRise; split
  · exact ring_ringLine ..
  · exact .refl s

theorem ring_raiseEvt (s : State) (p : Page) (n : Nat) : Same ring s (raiseEvt s p n) := unlogged_ring.toUnrung.raiseEvt rfl

theorem ring_locketRequest (s : State) (src : Source) (order : Nat) (home : Fin 8) (code : Nat) (payload : List Byte) :
    Same ring s (locketRequest s src order home code payload) := unlogged_ring.locketRequest ..

theorem ring_addRequest (s : State) (src : Source) (order : Nat) (home : Fin 8) (code : Nat) (payload : List Byte) :
    Same ring s (addRequest s src order home code payload) := rfl

theorem ring_pageFault (s : State) (p : Page) (cls det info addr : Nat) : Same ring s (pageFault s p cls det info addr) :=
  ((ring_setReg ..).trans (ring_setReg ..) |>.trans (ring_setPair ..)).trans (ring_raiseEvt ..)

theorem ring_recordFault (s : State) (p : Page) (cls det info addr : Nat) : Same ring s (recordFault s p cls det info addr) :=
  unlogged_ring.recordFault ..

/-! ### Queues and memory -/

theorem ring_recordPlain (s : State) (p : Page) (cls det info addr : Nat) (tears : Bool) :
    Same ring s (recordPlain s p cls det info addr tears) := by
  simp only [recordPlain]
  split
  · exact (ring_pageFault ..).trans (ring_locketRequest ..)
  · exact ring_pageFault ..

theorem ring_tornNow (info : Nat) (s : State) (i : Fin 8) : Same ring s (tornNow info s i) :=
  ((ring_modClp ..).trans (ring_recordPlain ..)).trans (ring_raiseEvt ..)

theorem ring_quiesceRise (s₀ s : State) (p : Page) : Same ring s (quiesceRise s₀ s p) := by
  unfold quiesceRise; split
  · exact ring_raiseEvt ..
  · exact .refl s

theorem ring_finish (s : State) (st : Fin 8) (q : Nat) (clean : Bool) : Same ring s (finish s st q clean) := by
  simp only [finish]
  split
  · exact (ring_modQueue ..).trans (ring_quiesceRise ..)
  · exact ring_modQueue ..

theorem ring_discardQueue (s : State) (st : Fin 8) (q : Nat) : Same ring s (discardQueue s st q) := ring_modQueue ..

theorem ring_discardWaiting (s : State) (st : Fin 8) (q : Nat) : Same ring s (discardWaiting s st q) := ring_modQueue ..

theorem ring_engineFault (s : State) (st : Fin 8) (q cls det info addr : Nat) :
    Same ring s (engineFault s st q cls det info addr) := by
  unfold engineFault; split
  · exact .refl s
  · exact (ring_recordFault ..).trans (ring_finish ..)

theorem ring_rawWrite (s : State) (a : Nat) (bs : List Byte) : Same ring s (rawWrite s a bs).1 := by
  simp only [rawWrite]
  split
  · exact ring_setBytes ..
  · dsimp only
    refine (ring_bad s _).trans (Same.foldl (fun s e => ?_) _ _)
    split
    · exact .refl s
    · exact ring_setByte ..

theorem ring_engWrite (s : State) (st : Fin 8) (plan : Nat) (driven : Bool) (a : Nat) (bs : List Byte) :
    Same ring s (engWrite s st plan driven a bs).1 := by
  have := ring_rawWrite s a bs
  unfold engWrite
  split
  · exact .refl s
  · dsimp only
    split
    · exact .refl s
    · split
      · exact .refl s
      · split <;> next heq => rw [heq] at this; exact this

theorem ring_countUe (s : State) (a : Nat) : Same ring s (countUe s a) := by
  simp only [countUe]
  split
  · exact (ring_countSat ..).trans (ring_raiseEvt ..)
  · exact (ring_countSat ..).trans (ring_raiseEvt ..)
  · exact .refl s

theorem ring_memFault (s : State) (p : Page) (e : MemErr) (eccDet low eccHigh : Nat) :
    Same ring s (memFault s p e eccDet low eccHigh) := by
  unfold memFault; split
  · exact ring_recordFault ..
  · exact (ring_countUe ..).trans (ring_recordFault ..)

theorem ring_zeroRange (s : State) (a n : Nat) : Same ring s (zeroRange s a n) := by
  simp only [zeroRange]
  split
  · exact (ring_bad s _).trans (ring_setBytes ..)
  · exact (ring_bad s _).trans (ring_keepBytes ..)

/-- A change beside registers, memory and the stacks that keeps the ring. -/
theorem ring_apart (s : State) (free : Nat) (staged latched : Sparse Word) (mod : Module) (out : List Output)
    (h : mod.lkt.ring = s.mod.lkt.ring := by rfl) :
    Same ring s { s with free := free, staged := staged, latched := latched, mod := mod, out := out } := h

end Sys2Proof.Laws
end

section
/-! What the arbiter, the matrix engine, the tables, random numbers, the Clasp and the vector engine leave of the ring. -/

-- One proof at a time: the stacks of many side by side would take the memory that the check allows.
set_option Elab.async false

namespace Sys2Proof.Laws

open Machine Safety

/-! ### Regions and the maintenance arbiter -/

theorem ring_rgnReject (s : State) (st : Fin 8) : Same ring s (rgnReject s st) :=
  (ring_setFlag ..).trans (ring_raiseEvt ..)

theorem ring_regionWrite (s : State) (st : Fin 8) (v : Word) : Same ring s (regionWrite s st v) :=
  .ite (ring_modRegion ..) (ring_rgnReject ..)

theorem ring_regionStage (s : State) (st : Fin 8) (size : Bool) (hi lo : Word) :
    Same ring s (regionStage s st size hi lo) :=
  .ite (ring_modRegion ..) (ring_rgnReject ..)

theorem ring_setRetraining (s : State) (st : Fin 8) (ch : Nat) (on : Bool) : Same ring s (setRetraining s st ch on) :=
  ring_setFlag ..

theorem ring_activityStart (s : State) (st : Fin 8) (a : Activity) : Same ring s (activityStart s st a) :=
  .ite ((ring_modArb ..).trans (ring_countWrap ..) |>.trans (ring_raiseEvt ..)
    |>.trans (ring_setRetraining ..)) ((ring_modArb ..).trans (ring_countWrap ..) |>.trans (ring_raiseEvt ..))

theorem ring_arbRecord (s : State) (st : Fin 8) (a : Activity) (status : Nat) : Same ring s (arbRecord s st a status) :=
  ring_locketRequest ..

theorem ring_refuseActivity (s : State) (st : Fin 8) (a : Activity) (status : Nat) :
    Same ring s (refuseActivity s st a status) :=
  (ring_countSat ..).trans (ring_arbRecord ..) |>.trans (ring_raiseEvt ..)

theorem ring_submit (s : State) (st : Fin 8) (sub act scope : Nat) : Same ring s (submit s st sub act scope).1 := by
  unfold submit
  dsimp only
  split
  · dsimp only
    exact (ring_modArb ..).trans (ring_activityStart ..)
  · dsimp only
    exact (ring_modArb ..).trans (ring_modArb ..)
  · dsimp only
    exact (ring_modArb ..).trans (ring_refuseActivity ..)

theorem ring_swapRecord (s : State) (st : Fin 8) (act scope outcome old new : Nat) :
    Same ring s (swapRecord s st act scope outcome old new) :=
  ring_locketRequest ..

theorem ring_markDead (s : State) (st : Fin 8) (act scope : Nat) : Same ring s (markDead s st act scope) := by
  unfold markDead
  split
  · exact .ite (ring_setFlag ..) (ring_setFlag ..)
  · exact .ite (ring_setFlag ..) (ring_setFlag ..)
  · exact ring_setFlag ..

theorem ring_unitDead (s : State) (st : Fin 8) (act scope : Nat) : Same ring s (unitDead s st act scope) := by
  unfold unitDead
  dsimp only
  split
  · split
    · exact (ring_drawFree ..).trans (ring_markDead ..) |>.trans (ring_recordFault ..) |>.trans (ring_raiseEvt ..)
          |>.trans (ring_swapRecord ..) |>.trans (ring_modSeq ..)
    · exact (ring_drawFree ..).trans (ring_markDead ..) |>.trans (ring_recordFault ..) |>.trans (ring_raiseEvt ..)
          |>.trans (ring_swapRecord ..)
  · exact (ring_drawFree ..).trans (ring_markDead ..) |>.trans (ring_recordFault ..) |>.trans (ring_raiseEvt ..)
        |>.trans (ring_swapRecord ..)

theorem ring_submitOrDie (s : State) (st : Fin 8) (sub act scope : Nat) :
    Same ring s (submitOrDie s st sub act scope).1 := by
  unfold submitOrDie
  split
  · dsimp only
    exact ring_unitDead ..
  · exact ring_submit ..

theorem ring_arbSubmitWrite (s : State) (r : Requester) (st : Fin 8) (v : Word) :
    Same ring s (arbSubmitWrite s r st v) :=
  .ite ((ring_submitOrDie ..).trans (ring_setReg ..)) (.refl _)

theorem ring_compact (s : State) : Same ring s (compact s) :=
  .ite ((ring_drawFree ..).trans (ring_modLkt ..) |>.trans (ring_raiseEvt ..)
    |>.trans (ring_locketRequest ..)) (ring_drawFree ..)

theorem ring_dropActivity (s : State) (st : Fin 8) (act scope : Nat) : Same ring s (dropActivity s st act scope) :=
  ring_modArb ..

theorem ring_endWaiting (s : State) (st : Fin 8) (a : Activity) : Same ring s (endWaiting s st a) :=
  .ite (Same.ite ((ring_modArb ..).trans (ring_refuseActivity ..)
    |>.trans (ring_setFld ..)) ((ring_modArb ..).trans (ring_refuseActivity ..)) |>.trans (.foldl
    (fun _ _ => ring_modSt ..) _ _)) (Same.ite ((ring_modArb ..).trans (ring_refuseActivity ..)
    |>.trans (ring_setFld ..)) ((ring_modArb ..).trans (ring_refuseActivity ..)))

theorem ring_modActivity (s : State) (st : Fin 8) (act scope : Nat) (f : Activity → Activity) :
    Same ring s (modActivity s st act scope f) :=
  ring_modArb ..

theorem ring_retireSpare (s : State) (st : Fin 8) (act i : Nat) : Same ring s (retireSpare s st act i) :=
  .ite (ring_setFlag ..) (ring_setFlag ..)

theorem ring_swapCopied (s : State) (st : Fin 8) (act scope : Nat) (spareOk : Bool) :
    Same ring s (swapCopied s st act scope spareOk) := by
  unfold swapCopied
  dsimp only
  split
  · exact .refl _
  · exact .ite (.refl _) (Same.ite
        (.refl _) (Same.ite (ring_modActivity ..) ((ring_dropActivity ..).trans (ring_retireSpare ..)
        |>.trans (ring_swapRecord ..))))

theorem ring_mapSpare (s : State) (st : Fin 8) (act scope i : Nat) : Same ring s (mapSpare s st act scope i) :=
  .ite ((Same.foldl (fun _ _ => (ring_setFlag ..).trans (ring_setFlag ..)) _ _).trans (ring_setFld ..)
    |>.trans (ring_setFlag ..)) ((ring_setFld ..).trans (ring_setFlag ..))

theorem ring_swapCompleted (s : State) (st : Fin 8) (act scope : Nat) : Same ring s (swapCompleted s st act scope) := by
  unfold swapCompleted
  dsimp only
  split
  · exact .refl _
  · exact .ite ((ring_dropActivity ..).trans (ring_mapSpare ..) |>.trans (ring_raiseEvt ..)
        |>.trans (ring_swapRecord ..)) (.refl _)

theorem ring_sramRepair (s : State) (st : Fin 8) (bank : Nat) : Same ring s (sramRepair s st bank) :=
  .ite ((ring_setFld ..).trans (ring_setFlag ..)) (Same.ite (ring_setFld ..) (Same.ite ((ring_setFld ..).trans
    (ring_submit ..) |>.trans (ring_setFlag ..)) ((ring_setFld ..).trans (ring_submit ..))))

theorem ring_pprRecord (s : State) (st : Fin 8) (dev outcome : Nat) : Same ring s (pprRecord s st dev outcome) :=
  ring_locketRequest ..

theorem ring_softRepair (s : State) (st : Fin 8) (dev : Nat) : Same ring s (softRepair s st dev) :=
  .ite ((ring_setFlag ..).trans (ring_pprRecord ..)) (Same.ite
    (.refl _) (Same.ite ((ring_submit ..).trans (ring_setFlag ..)) (ring_submit ..)))

/-! ### The matrix engine -/

theorem ring_finishAt (s : State) (st : Fin 8) (q i : Nat) (clean : Bool) : Same ring s (finishAt s st q i clean) := by
  unfold finishAt
  dsimp only
  split
  · exact (ring_modQueue ..).trans (ring_quiesceRise ..)
  · exact ring_modQueue ..

theorem ring_runAt (s : State) (st : Fin 8) (q i : Nat) : Same ring s (runAt s st q i) :=
  ring_modQueue ..

theorem ring_mxRetire (s : State) (st : Fin 8) (c i : Nat) : Same ring s (mxRetire s st c i) :=
  .ite (ring_finishAt ..) ((ring_finishAt ..).trans (ring_raiseEvt ..))

theorem ring_returnAdvance (s : State) (st : Fin 8) (c : Nat) (own : Option Nat) :
    Same ring s (returnAdvance s st c own) :=
  ring_modQueue ..

theorem ring_mxFault (s : State) (st : Fin 8) (c i : Nat) (d : Desc) (cls det high addr : Nat) :
    Same ring s (mxFault s st c i d cls det high addr) :=
  (ring_recordFault ..).trans (ring_returnAdvance ..) |>.trans (ring_finishAt ..)

theorem ring_modTile (s : State) (st : Fin 8) (c slot : Nat) (f : MxTile → MxTile) :
    Same ring s (modTile s st c slot f) :=
  ring_modCore ..

theorem ring_joinFlags (s : State) (st : Fin 8) (c slot : Nat) (fl : WinFlags) :
    Same ring s (joinFlags s st c slot fl) := by
  unfold joinFlags
  split
  · exact .refl _
  · dsimp only
    exact .ite ((Same.ite ((ring_modTile ..).trans (ring_raiseEvt ..)) (ring_modTile ..)).trans (ring_raiseEvt ..))
        (Same.ite ((ring_modTile ..).trans (ring_raiseEvt ..)) (ring_modTile ..))

theorem ring_countIssue (s : State) (st : Fin 8) (c cyc sl : Nat) : Same ring s (countIssue s st c cyc sl) :=
  (ring_countPair ..).trans (ring_countPair ..)

theorem ring_countRepeats (s : State) (st : Fin 8) (c slot n : Nat) : Same ring s (countRepeats s st c slot n) :=
  .ite (.refl _) ((ring_joinFlags ..).trans (ring_countSat ..) |>.trans (ring_raiseEvt ..))

theorem ring_streamPass (s : State) (st : Fin 8) (c i : Nat) (d : Desc) : Same ring s (streamPass s st c i d) := by
  unfold streamPass
  dsimp only
  split
  · exact ring_mxFault ..
  · exact ring_mxFault ..
  · split
    · exact ring_mxFault ..
    · split
      · split
        · exact (ring_modCore ..).trans (ring_countIssue ..) |>.trans (ring_countRepeats ..)
              |>.trans (ring_mxFault ..)
        · exact (ring_modCore ..).trans (ring_countIssue ..) |>.trans (ring_countRepeats ..)
              |>.trans (ring_runAt ..) |>.trans (ring_modCore ..)
      · split
        · exact (ring_modCore ..).trans (ring_countIssue ..) |>.trans (ring_modTile ..) |>.trans (ring_joinFlags ..)
              |>.trans (ring_mxFault ..)
        · exact (ring_modCore ..).trans (ring_countIssue ..) |>.trans (ring_modTile ..) |>.trans (ring_joinFlags ..)
              |>.trans (ring_runAt ..) |>.trans (ring_modCore ..)

theorem ring_modBank (s : State) (st : Fin 8) (c b : Nat) (f : MxBank → MxBank) : Same ring s (modBank s st c b f) :=
  ring_modCore ..

theorem ring_starveStream (s : State) (st : Fin 8) (c b i : Nat) : Same ring s (starveStream s st c b i) := by
  unfold starveStream
  split
  · exact .ite (ring_mxFault ..) (.refl _)
  · exact .refl _

theorem ring_loadBank (s : State) (st : Fin 8) (c i : Nat) (d : Desc) : Same ring s (loadBank s st c i d) := by
  unfold loadBank
  dsimp only
  split
  · exact (ring_modBank ..).trans (ring_mxFault ..) |>.trans (ring_starveStream ..)
  · split
    · exact (ring_modBank ..).trans (ring_mxFault ..) |>.trans (ring_starveStream ..)
    · exact (ring_modBank ..).trans (ring_modBank ..) |>.trans (ring_mxRetire ..)

theorem ring_drainTile (s : State) (st : Fin 8) (c i : Nat) (d : Desc) : Same ring s (drainTile s st c i d) := by
  unfold drainTile
  dsimp only
  split
  · exact ring_mxFault ..
  · exact .ite (ring_mxFault ..) (Same.ite (ring_mxFault ..) ((Same.ite ((ring_rawWrite ..).trans (ring_modTile ..)
        |>.trans (ring_joinFlags ..) |>.trans (ring_modCore ..)) ((ring_rawWrite ..).trans (ring_modTile ..)
        |>.trans (ring_joinFlags ..))).trans (ring_mxRetire ..)))

theorem ring_freeTile (s : State) (st : Fin 8) (c i : Nat) (d : Desc) : Same ring s (freeTile s st c i d) := by
  unfold freeTile
  dsimp only
  split
  · exact ring_mxRetire ..
  · exact .ite (ring_mxFault ..) ((ring_modCore ..).trans (ring_mxRetire ..))

theorem ring_mxCfgWrite (s : State) (st : Fin 8) (c : Nat) (v : Word) : Same ring s (mxCfgWrite s st c v) :=
  .ite (Same.ite (.refl _) (ring_setFlag ..)) (ring_setFld ..)

theorem ring_mxFlagsWrite (s : State) (st : Fin 8) (c : Nat) (v : Word) : Same ring s (mxFlagsWrite s st c v) :=
  ring_modCore ..

/-! ### Tables -/

theorem ring_tabFault (s : State) (st : Fin 8) (q : Nat) (d : Desc) (e : TabErr) :
    Same ring s (tabFault s st q d e) := by
  unfold tabFault
  split
  · exact .refl _
  · dsimp only
    refine .trans ?_ (ring_finish ..)
    split
    · exact ring_recordFault ..
    · exact ring_memFault ..

theorem ring_tabWrite (s : State) (st : Fin 8) (plan area : Nat) (driven : Bool) (a : Nat) (bs : List Byte) :
    Same ring s (tabWrite s st plan area driven a bs).1 := by
  unfold tabWrite
  dsimp only
  split
  · dsimp only
    exact .refl _
  · split
    · dsimp only
      exact .refl _
    · exact ring_engWrite ..

/-! ### Random generation -/

theorem ring_reseed (s : State) (st : Fin 8) (c : Nat) : Same ring s (reseed s st c) :=
  (ring_modCore ..).trans (ring_raiseEvt ..)

theorem ring_keyEvent (s : State) (st : Fin 8) (n : Nat) : Same ring s (keyEvent s st n) :=
  .foldl (fun _ _ => ring_raiseEvt ..) _ _

theorem ring_startKs (s : State) (st : Fin 8) : Same ring s (startKs s st) := by
  unfold startKs
  exact ring_modKeys ..

theorem ring_startKe (s : State) (st : Fin 8) : Same ring s (startKe s st) := by
  unfold startKe
  exact ring_modKeys ..

theorem ring_commitIgnored (s : State) (st : Fin 8) : Same ring s (commitIgnored s st) :=
  (ring_modKeys ..).trans (ring_keyEvent ..)

theorem ring_commitStepKey (s : State) (st : Fin 8) : Same ring s (commitStepKey s st) :=
  .ite ((ring_modKeys ..).trans (ring_startKs ..) |>.trans (.foldl (fun _ _ => ring_reseed ..) _ _)
    |>.trans (ring_keyEvent ..)) (ring_commitIgnored ..)

theorem ring_commitEvalKey (s : State) (st : Fin 8) : Same ring s (commitEvalKey s st) :=
  .ite ((ring_modKeys ..).trans (ring_startKe ..) |>.trans (ring_keyEvent ..)) (ring_commitIgnored ..)

theorem ring_requestReseed (s : State) (st : Fin 8) (c : Nat) : Same ring s (requestReseed s st c) :=
  .ite (ring_modCore ..) (ring_reseed ..)

/-! ### The Clasp's commands -/

theorem ring_clpRefuse (s : State) (st : Fin 8) (op : Nat) : Same ring s (clpRefuse s st op) :=
  ring_recordFault ..

theorem ring_enterEval (s : State) (st : Fin 8) : Same ring s (enterEval s st) :=
  (ring_modClp ..).trans (ring_startKe ..)

theorem ring_takeEval (s : State) (st : Fin 8) : Same ring s (takeEval s st) :=
  (ring_modClp ..).trans (ring_enterEval ..) |>.trans (ring_ringBits ..) |>.trans (ring_raiseEvt ..)

theorem ring_openStep (s : State) (st : Fin 8) : Same ring s (openStep s st) :=
  (ring_modClp ..).trans (ring_startKs ..)

theorem ring_clpCmd (s0 : State) (st : Fin 8) (op : Nat) : Same ring s0 (clpCmd s0 st op) := by
  unfold clpCmd
  split
  · exact .refl _
  · dsimp only
    split
    · exact .ite ((Same.ite (ring_takeEval ..) (.refl _)).trans (ring_openStep ..)) ((Same.ite (ring_takeEval ..)
          (.refl _)).trans (ring_clpRefuse ..))
    · exact .ite ((Same.ite (ring_takeEval ..) (.refl _)).trans (ring_modClp ..)) ((Same.ite (ring_takeEval ..)
          (.refl _)).trans (ring_clpRefuse ..))
    · exact .ite ((Same.ite (ring_takeEval ..) (.refl _)).trans (ring_modClp ..)) ((Same.ite (ring_takeEval ..)
          (.refl _)).trans (ring_clpRefuse ..))
    · exact (Same.ite (ring_takeEval ..) (.refl _)).trans (ring_modClp ..)
    · exact (Same.ite (ring_takeEval ..) (.refl _)).trans (ring_modClp ..)
    · exact (Same.ite (ring_takeEval ..) (.refl _)).trans (ring_modClp ..)
    · exact (Same.ite (ring_takeEval ..) (.refl _)).trans (ring_enterEval ..)
    · exact (Same.ite (ring_takeEval ..) (.refl _)).trans (ring_modClp ..)
    · exact (Same.ite (ring_takeEval ..) (.refl _)).trans (ring_clpRefuse ..)

theorem ring_lossReport (s : State) (st : Fin 8) (v : Word) : Same ring s (lossReport s st v) :=
  .ite (ring_recordFault ..) (Same.ite (ring_modClp ..) (Same.ite ((ring_modClp ..).trans (ring_modClp ..))
    ((Same.ite ((ring_modClp ..).trans (ring_modClp ..)) ((ring_modClp ..).trans (ring_modClp ..)
    |>.trans (ring_modClp ..))).trans (ring_raiseEvt ..))))

theorem ring_claspEvent (s : State) (st : Fin 8) (pos : DWord) : Same ring s (claspEvent s st pos) := by
  unfold claspEvent
  split
  · exact ring_modClp ..
  · exact ring_modClp ..
  · exact ring_modClp ..
  · exact ring_modClp ..

theorem ring_evalEvent (s : State) (st : Fin 8) (slot : Nat) : Same ring s (evalEvent s st slot) :=
  .ite (ring_recordFault ..) (Same.ite (ring_takeEval ..) (ring_modClp ..))

/-! ### The vector chain -/

theorem ring_stickyJoin (s : State) (st : Fin 8) (c k : Nat) : Same ring s (stickyJoin s st c k) :=
  ring_setReg .. |>.trans (.foldl (fun _ _ => Same.ite (ring_raiseEvt ..) (.refl _)) _ _)

theorem ring_writePieces (s : State) (a : Nat) (ps : List (Nat × List Byte)) : Same ring s (writePieces s a ps) :=
  .foldl (fun _ _ => ring_rawWrite ..) _ _

theorem ring_writeVreg (s : State) (st : Fin 8) (c r : Nat) (zero : Bool) (out : List (Option Word)) :
    Same ring s (writeVreg s st c r zero out) :=
  ring_modCore ..

theorem ring_vcFault (s : State) (st : Fin 8) (c : Nat) (d : Desc) (cls det high addr : Nat) :
    Same ring s (vcFault s st c d cls det high addr) :=
  ring_engineFault ..

theorem ring_vcRetire (s : State) (st : Fin 8) (c : Nat) : Same ring s (vcRetire s st c) :=
  (ring_finish ..).trans (ring_raiseEvt ..)

theorem ring_lanesAfter (s : State) (st : Fin 8) (c n : Nat) (uses : List (Nat × Nat)) :
    Same ring s (lanesAfter s st c n uses) :=
  .foldl (fun _ _ => ring_modCore ..) _ _

theorem ring_runBody (s : State) (st : Fin 8) (c : Nat) (e : Entry) (ts : List TypedStage) (src : RunSource) (upTo : Nat)
    (whole : Bool) : Same ring s (runBody s st c e ts src upTo whole) := by
  unfold runBody
  extract_lets
  split
  extract_lets
  split
  next s1 s2 _ _ _ _ =>
  extract_lets s3 s4 s5
  have h1 : Same ring s s1 := ring_countPair ..
  have h2 : Same ring s s2 := .ite h1 (h1.trans (ring_modCore ..))
  have h3 : Same ring s s3 := by
    unfold s3
    split
    · exact h2.trans (ring_writePieces ..)
    · exact h2.trans (ring_writeVreg ..)
    · exact .ite (h2.trans (ring_lossReport ..) |>.trans (ring_countWrap ..) |>.trans (ring_raiseEvt ..)) h2
  have h4 : Same ring s s4 := .ite (h3.trans (ring_joinFlags ..)) h3
  have h5 : Same ring s s5 := h4.trans (ring_stickyJoin ..)
  exact .ite (h5.trans (ring_lanesAfter ..)) h5

theorem ring_lateReseed (s : State) (st : Fin 8) (c : Nat) : Same ring s (lateReseed s st c) :=
  .ite (ring_reseed ..) (.refl _)

theorem ring_vcRun (s : State) (st : Fin 8) (c : Nat) (e : Entry) : Same ring s (vcRun s st c e) := by
  unfold vcRun
  extract_lets
  split
  · exact ring_vcFault ..
  split
  · exact ring_vcFault ..
  split
  · exact .refl _
  split
  · exact (ring_countPair ..).trans (ring_runBody ..) |>.trans (ring_vcRetire ..) |>.trans (ring_lateReseed ..)
  · split
    exact (Same.ite (ring_countPair ..) ((ring_countPair ..).trans (ring_runBody ..))).trans (ring_vcFault ..)
  · exact ring_vcFault ..

theorem ring_setChain (s : State) (st : Fin 8) (c : Nat) (e : Entry) : Same ring s (setChain s st c e) :=
  (ring_modCore ..).trans (ring_vcRetire ..)

theorem ring_setVl (s : State) (st : Fin 8) (c : Nat) (e : Entry) : Same ring s (setVl s st c e) :=
  (ring_modCore ..).trans (ring_vcRetire ..)

theorem ring_vcSave (s : State) (st : Fin 8) (c : Nat) (e : Entry) : Same ring s (vcSave s st c e) := by
  unfold vcSave
  exact .ite (ring_vcFault ..) (Same.ite (.refl _) ((ring_rawWrite ..).trans (ring_vcRetire ..)))

theorem ring_restoreFrom (s : State) (st : Fin 8) (c l v : Nat) (bs : List Byte) :
    Same ring s (restoreFrom s st c l v bs) :=
  .ite ((ring_modCore ..).trans (ring_setReg ..)
    |>.trans (ring_modCore ..)) ((ring_modCore ..).trans (ring_setReg ..) |>.trans (ring_reseed ..)
    |>.trans (ring_stickyJoin ..))

theorem ring_vcRestore (s : State) (st : Fin 8) (c : Nat) (e : Entry) : Same ring s (vcRestore s st c e) := by
  unfold vcRestore
  dsimp only
  split
  · exact ring_vcFault ..
  · split
    · exact ring_vcFault ..
    · split
      · exact ring_vcFault ..
      · split
        · exact ring_vcFault ..
        · split
          · exact ring_vcFault ..
          · exact .ite (ring_vcFault ..) ((ring_restoreFrom ..).trans (ring_vcRetire ..))

end Sys2Proof.Laws
end

section
/-! What Bead, Filigree, the transfer engines and Jukan leave of the ring. -/

-- One proof at a time: the stacks of many side by side would take the memory that the check allows.
set_option Elab.async false

namespace Sys2Proof.Laws

open Machine Safety

/-! ### Gather -/

theorem ring_tabRetire (s : State) (st : Fin 8) (q : Nat) : Same ring s (tabRetire s st q) := by
  unfold tabRetire
  split
  · exact (ring_finish ..).trans (ring_raiseEvt ..)
  · exact .refl _

theorem ring_homeRow {s u : State} {st : Fin 8} {t : Table} {no row : Nat} {bs : List Byte}
    (e : homeRow s st t no row = .ok (u, bs)) : Same ring s u := by
  unfold homeRow at e
  dsimp only at e
  split at e
  · split at e
    · cases e
    · split at e
      · obtain ⟨_, h⟩ := exists_of_map_ok e
        cases h
        exact ring_countSat ..
      · obtain ⟨_, h⟩ := exists_of_map_ok e
        cases h
        exact .refl _
  · obtain ⟨_, h⟩ := exists_of_map_ok e
    cases h
    exact .refl _

theorem ring_remoteRow {s u : State} {st home : Fin 8} {no row : Nat} {bs : List Byte}
    (e : remoteRow s st home no row = .ok (u, bs)) : Same ring s u := by
  unfold remoteRow at e
  dsimp only at e
  split at e
  · cases e
  · split at e
    · cases e
    · split at e
      · cases e
      · exact ring_homeRow e

theorem ring_beadSticky (s : State) (st : Fin 8) (k : Nat) : Same ring s (beadSticky s st k) :=
  .ite ((ring_setReg ..).trans (ring_raiseEvt ..)) (ring_setReg ..)

theorem ring_gatherRow {st : Fin 8} {t : Table} {no x a : Nat} {g u : Gather} {vs : List Val}
    (e : gatherRow st t no x a g = .ok (u, vs)) : Same ring g.s u.s := by
  have hf : ∀ (s : State) (r : Bool), Same ring s (if r then (s.countPair (beadPage st) 0x058).countSat
      (beadPage st) 0x060 else s.countPair (beadPage st) 0x058) := fun s r =>
    .ite ((ring_countPair ..).trans (ring_countSat ..)) (ring_countPair ..)
  unfold gatherRow at e
  dsimp only at e
  split at e
  · cases e
    exact .refl _
  · split at e
    · split at e
      · cases e
      · obtain ⟨_, h⟩ := exists_of_map_ok e
        cases h
        exact (hf g.s false)
    · split at e
      · split at e
        · cases e
          exact (ring_countSat ..).trans (ring_setFlag ..) |>.trans (ring_raiseEvt ..)
        · obtain ⟨_, h⟩ := exists_of_map_ok e
          cases h
          exact (ring_countSat ..).trans (ring_setFlag ..) |>.trans (ring_raiseEvt ..)
      · split at e
        · cases hr : homeRow g.s st t no _ with
          | error f => rw [hr] at e; cases e
          | ok y =>
            rw [hr] at e
            cases e
            exact (ring_homeRow hr).trans (hf y.1 false)
        · cases hr : remoteRow g.s st _ no _ with
          | error f => rw [hr] at e; cases e
          | ok y =>
            rw [hr] at e
            cases e
            exact (ring_remoteRow hr).trans (hf y.1 true)

theorem ring_gatherGroup (st : Fin 8) (t : Table) (no : Nat) (at_ : Nat → Nat) (l : List (Nat × Nat × Val)) (g : Gather)
    (acc : List (Val × List Val)) : Same ring g.s (gatherGroup st t no at_ l g acc).1.s := by
  induction l generalizing g acc with
  | nil => exact .refl _
  | cons y l ih =>
    unfold gatherGroup
    dsimp only
    split
    · exact ring_countPair ..
    · next eq =>
      have hrow := ring_gatherRow eq
      exact Same.trans (t := g.s.countPair (beadPage st) 0x050) (ring_countPair ..) (hrow.trans (ih _ _))

theorem ring_gatherGroups (st : Fin 8) (d : Desc) (t : Table) (e : Entry) (x : Indices) (ws : Array (Val × Nat))
    (mask : Array Byte) (l : List (Nat × Nat)) (i : Nat) (g : Gather) :
    Same ring g.s (gatherGroups st d t e x ws mask l i g).1.s := by
  induction l generalizing i g with
  | nil => exact .refl _
  | cons y l ih =>
    have hg : ∀ {z}, z = gatherGroup st t (gatTable d) x.at_ (if (!gatMasked d || (mask.getD (i / 8) 0).toNat.testBit (i % 8)) = true
        then (List.range (y.2 - y.1)).map fun k => (y.1 + k, x.ids.toArray.getD (y.1 + k) 0, (ws.getD (y.1 + k) (.zero, 1)).1)
        else []) g [] → Same ring g.s z.1.s := by
      rintro _ rfl
      exact ring_gatherGroup ..
    unfold gatherGroups
    extract_lets plan fed ids items
    split
    · next eq => exact hg eq.symm
    · next g1 rows eq =>
      have h0 : Same ring g.s g1.s := hg eq.symm
      extract_lets s1 vals
      have h1 : Same ring g.s s1 := .ite (h0.trans (ring_countSat ..) |>.trans (ring_beadSticky ..)) h0
      split
      · exact h1.trans (ih (i + 1) { g1 with s := s1 })
      · split
        split
        split
        · exact h1
        · split
          · next eq => exact h1.trans (ring_beadSticky ..) |>.trans (.fst_of (ring_tabWrite ..) eq)
          · next s2 eq =>
            have h2 : Same ring g.s s2 := h1.trans (ring_beadSticky ..) |>.trans (.fst_of (ring_tabWrite ..) eq)
            have h3 : ∀ {z : State × Option TabErr}, z = (if gatCompact d = true then
                tabWrite s2 st plan 4 false (latchedArg e 4 + 4 + 4 * g1.out) (leBytes i 4) else (s2, none)) →
                Same ring g.s z.1 := by
              rintro _ rfl
              split
              · exact h2.trans (ring_tabWrite ..)
              · exact h2
            split
            next s3 _ eq =>
            split
            · exact h3 eq.symm
            · exact (h3 eq.symm).trans (ih (i + 1) { g1 with s := s3, out := g1.out + 1 })

theorem ring_gather (s : State) (st : Fin 8) (e : Entry) : Same ring s (gather s st e) := by
  have hg : ∀ {d t x ws m l z}, gatherGroups st d t e x ws m l 0 { s := s } = z → Same ring s z.1.s := by
    rintro _ _ _ _ _ _ _ rfl
    exact ring_gatherGroups (g := { s := s }) ..
  unfold gather
  extract_lets d p plan t jp prep n
  clear_value prep
  split
  · exact ring_tabFault ..
  · extract_lets packets
    split
    · exact .refl _
    · split
      · next eq => exact (hg eq).trans (ring_tabFault ..)
      · next g eq =>
        have h3 : ∀ {z : State × Option TabErr}, (if gatCompact d = true then
            tabWrite g.s st plan 4 false (latchedArg e 4) (leBytes g.out 4) else (g.s, none)) = z → Same ring s z.1 := by
          rintro _ rfl
          split
          · exact (hg eq).trans (ring_tabWrite ..)
          · exact hg eq
        split
        next eq3 =>
        split
        · exact (h3 eq3).trans (ring_tabFault ..)
        · exact (h3 eq3).trans (ring_tabRetire ..)

theorem ring_partBytes {rd : Reader TabErr} {s u : State} {r : RgnHdr} {ps : List Nat} {es : List Machine.Listed} {bs : List Byte}
    (e : partBytes rd s r ps es = .ok (u, bs)) : Same ring s u := by
  cases es with
  | nil =>
    cases e
    exact (ring_drawFree s).trans (ring_drawFree _) |>.trans (ring_drawFree _)
  | cons y l =>
    obtain ⟨_, e⟩ := exists_of_bind_ok e
    obtain ⟨_, e⟩ := exists_of_bind_ok e
    cases e
    exact .refl _

theorem ring_writeParts (st : Fin 8) (plan poff : Nat) (rd : Reader TabErr) (r : RgnHdr) (ps : List Nat)
    (listed : List Machine.Listed) (np : Nat) (l : List (Nat × Nat)) (s : State) :
    Same ring s (writeParts st plan poff rd r ps listed np l s).1 := by
  induction l generalizing s with
  | nil => exact .refl _
  | cons y l ih =>
    rw [writeParts]
    split
    · exact .refl _
    · next eq =>
      split
      · exact ring_partBytes eq
      · dsimp only
        split
        · next eq' => exact (ring_partBytes eq).trans (.fst_of (ring_tabWrite ..) eq')
        · next eq' => exact (ring_partBytes eq).trans (Same.fst_of (ring_tabWrite ..) eq') |>.trans (ih _)

theorem ring_split (s : State) (st : Fin 8) (e : Entry) : Same ring s (split s st e) := by
  unfold split
  dsimp only
  split
  · exact .refl _
  · split
    · exact ring_tabFault ..
    · split
      · next eq1 =>
          exact (Same.fst_of (ring_writeParts ..) eq1).trans (ring_tabFault ..)
      · next eq1 =>
          exact (Same.fst_of (ring_writeParts ..) eq1).trans (ring_tabRetire ..)

/-! ### The Filigree -/

theorem ring_countRaises (s : State) (st : Fin 8) (n : Int) : Same ring s (countRaises s st n) :=
  .ite (.refl _) ((ring_countSat ..).trans (ring_raiseEvt ..))

theorem ring_sendRow {s u : State} {st : Fin 8} {d : Desc} {t : Table} {home row : Nat} {p : Partial} {fl : WinFlags}
    (e : sendRow s st d t home row p fl = .ok u) : Same ring s u := by
  unfold sendRow at e
  dsimp only at e
  split at e
  · cases e
  · split at e
    · cases e
    · cases e
      exact ring_modFil ..

theorem ring_flushRows (st : Fin 8) (d : Desc) (t : Table) (lock : Bool) (l : WindowRows) (s : State) :
    Same ring s (flushRows st d t lock l s).1 := by
  induction l generalizing s with
  | nil => exact .refl _
  | cons y l ih =>
    unfold flushRows
    dsimp only
    split
    · exact .refl _
    · split
      · exact ring_countRaises ..
      · next eq => exact (ring_countRaises ..).trans (ring_sendRow eq) |>.trans (ih _)

theorem ring_dropIndex (s : State) (st : Fin 8) : Same ring s (dropIndex s st) :=
  (ring_countSat ..).trans (ring_setFlag ..) |>.trans (ring_raiseEvt ..)

theorem ring_scatterRows (st : Fin 8) (d : Desc) (t : Table) (lock : Bool) (l : List ScatItem) (pos : Nat)
    (win : WindowRows) (s : State) : Same ring s (scatterRows st d t lock l pos win s).1 := by
  induction l generalizing pos win s with
  | nil => exact ring_flushRows ..
  | cons it l ih =>
    have hf : ∀ {z : State × Option TabErr}, (if pos % 4096 = 0 then flushRows st d t lock win s else (s, none)) = z →
        Same ring s z.1 := by
      rintro _ rfl
      split
      · exact ring_flushRows ..
      · exact .refl _
    unfold scatterRows
    split
    next s1 f eq =>
    have h : Same ring s s1 := hf eq
    extract_lets win place
    clear_value place
    split
    · exact h
    · rcases place with _ | _ | k
      · exact h
      · exact h.trans (ring_dropIndex ..) |>.trans (ih _ _ _)
      · dsimp only
        split
        · exact h
        · split
          · exact h
          · exact h.trans (ring_countRaises ..) |>.trans (ih _ _ _)

theorem ring_startHead (s : State) (st : Fin 8) (q : Nat) : Same ring s (startHead s st q) :=
  ring_modQueue ..

theorem ring_updateRetire (s : State) (st : Fin 8) : Same ring s (updateRetire s st) := by
  unfold updateRetire
  split
  · exact .ite (ring_tabRetire ..) (.refl _)
  · exact .refl _

theorem ring_updateSent (s : State) (st : Fin 8) : Same ring s (updateSent s st) :=
  (ring_startHead ..).trans (ring_updateRetire ..)

theorem ring_scatter (s : State) (st : Fin 8) (e : Entry) : Same ring s (scatter s st e) := by
  unfold scatter
  dsimp only
  split
  · exact ring_tabFault ..
  · split
    · next eq1 =>
        exact (Same.fst_of (ring_scatterRows ..) eq1).trans (ring_tabFault ..)
    · next eq1 =>
        exact (Same.fst_of (ring_scatterRows ..) eq1).trans (ring_updateSent ..)

theorem ring_filSticky (s : State) (st : Fin 8) (f : WinFlags) : Same ring s (filSticky s st f) :=
  .ite ((ring_setReg ..).trans (ring_raiseEvt ..)) (ring_setReg ..)

theorem ring_combineRow {s u : State} {home : Fin 8} {c : Contribution} (e : combineRow s home c = .ok u) :
    Same ring s u := by
  unfold combineRow at e
  extract_lets fil at_ need old bar base ps at e
  clear_value bar
  cases bar with
  | some f => cases e
  | none =>
    dsimp only at e
    split at e
    · cases e
    · cases e
      exact (ring_modFil ..).trans (ring_countPair ..) |>.trans (ring_filSticky ..) |>.trans
        (ring_countRaises ..)

theorem ring_dropToken (s : State) (src : Fin 8) (token : Word) : Same ring s (dropToken s src token) :=
  .foldl (fun _ _ => ring_modFil ..) _ _

theorem ring_contributionFault (s : State) (src : Fin 8) (c : Contribution) (e : TabErr) :
    Same ring s (contributionFault s src c e) := by
  unfold contributionFault
  dsimp only
  split
  · split
    · exact .ite ((ring_dropToken ..).trans (ring_recordFault ..)
          |>.trans (ring_finish ..)) ((ring_dropToken ..).trans (ring_recordFault ..))
    · exact .ite ((ring_dropToken ..).trans (ring_memFault ..)
          |>.trans (ring_finish ..)) ((ring_dropToken ..).trans (ring_memFault ..))
  · split
    · exact (ring_dropToken ..).trans (ring_recordFault ..)
    · exact (ring_dropToken ..).trans (ring_memFault ..)

theorem ring_takeContribution (s : State) (home src : Fin 8) : Same ring s (takeContribution s home src) := by
  unfold takeContribution
  split
  · exact .refl _
  · dsimp only
    split
    · exact (ring_modFil ..).trans (ring_contributionFault ..)
    · next eq =>
        exact (ring_modFil ..).trans (ring_combineRow (e := eq) ..) |>.trans (ring_updateRetire ..)

theorem ring_readRows (st : Fin 8) (d : Desc) (t : Table) (out size k i : Nat) (s : State) :
    Same ring s (readRows st d t out size k i s).1 := by
  induction k generalizing i s with
  | zero => exact .refl _
  | succ k ih =>
    unfold readRows
    dsimp only
    split
    · exact .refl _
    · split
      · next eq => exact .fst_of (ring_tabWrite ..) eq
      · next eq =>
        have h := Same.fst_of (ring_tabWrite ..) eq
        exact (Same.ite (h.trans (ring_modFil ..)) h).trans (ih _ _)

theorem ring_filRead (s : State) (st : Fin 8) (e : Entry) : Same ring s (filRead s st e) := by
  unfold filRead
  dsimp only
  split
  · exact ring_tabFault ..
  · split
    · next eq =>
        exact (Same.fst_of (ring_readRows ..) eq).trans (ring_tabFault ..)
    · next eq =>
        exact (Same.fst_of (ring_readRows ..) eq).trans (ring_tabRetire ..)

theorem ring_filExport (s : State) (st : Fin 8) (e : Entry) : Same ring s (filExport s st e) := by
  unfold filExport
  split
  · exact ring_tabFault ..
  · dsimp only
    split
    · exact ring_tabFault ..
    · split
      · next eq1 =>
          exact (Same.fst_of (ring_tabWrite ..) eq1).trans (ring_tabFault ..)
      · next eq1 =>
          exact (Same.fst_of (ring_tabWrite ..) eq1).trans (ring_tabRetire ..)

theorem ring_filMerge (s : State) (st : Fin 8) (e : Entry) : Same ring s (filMerge s st e) := by
  unfold filMerge
  split
  · exact ring_tabFault ..
  · dsimp only
    exact (ring_modFil ..).trans (ring_updateSent ..)

/-! ### The transfer engine -/

theorem ring_xfrFault (s : State) (st : Fin 8) (ch : Nat) (d : Desc) (e : TabErr) :
    Same ring s (xfrFault s st ch d e) := by
  unfold xfrFault
  dsimp only
  refine .trans ?_ (ring_modSt ..)
  refine .trans ?_ (ring_finish ..)
  split
  · exact ring_recordFault ..
  · exact ring_memFault ..

theorem ring_xfrWrite (s : State) (st : Fin 8) (a : Nat) (bs : List Byte) : Same ring s (xfrWrite s st a bs).1 := by
  unfold xfrWrite
  dsimp only
  split
  · dsimp only
    exact .refl _
  · split
    · dsimp only
      exact .refl _
    · exact ring_engWrite ..

theorem ring_copyPieces (rd : State → Reader TabErr) (wr : State → Nat → List Byte → State × Option TabErr)
    (k src dst n : Nat) (s : State) (hw : ∀ s a bs, Same ring s (wr s a bs).1) :
    Same ring s (copyPieces rd wr k src dst n s).1 := by
  induction k generalizing src dst n s with
  | zero => exact .refl _
  | succ k ih =>
    unfold copyPieces
    dsimp only
    split
    · exact .refl _
    · split
      · split
        · exact .refl _
        · exact hw ..
      · split
        · next eq => exact .fst_of (hw ..) eq
        · next eq => exact (Same.fst_of (hw ..) eq).trans (ih _ _ _ _)

theorem ring_xfrCopy (s : State) (st : Fin 8) (d : Desc) : Same ring s (xfrCopy s st d).1 := by
  unfold xfrCopy
  extract_lets n
  split
  split
  · exact .refl _
  split
  · exact .refl _
  split
  · exact .refl _
  split
  · exact .refl _
  exact ring_copyPieces (hw := fun _ _ _ => ring_xfrWrite ..) ..

theorem ring_fillPieces (st : Fin 8) (pat : List Byte) (k dst n : Nat) (s : State) :
    Same ring s (fillPieces st pat k dst n s).1 := by
  induction k generalizing dst n s with
  | zero => exact .refl _
  | succ k ih =>
    unfold fillPieces
    dsimp only
    split
    · exact .refl _
    · split
      · next eq => exact .fst_of (ring_xfrWrite ..) eq
      · next eq => exact (Same.fst_of (ring_xfrWrite ..) eq).trans (ih _ _ _)

theorem ring_xfrFill (s : State) (st : Fin 8) (d : Desc) : Same ring s (xfrFill s st d).1 := by
  unfold xfrFill
  dsimp only
  split
  · dsimp only
    exact .refl _
  · split
    · dsimp only
      exact .refl _
    · exact ring_fillPieces ..

theorem ring_eachTile (st : Fin 8) (body : State → Nat → Nat → Except (MetaErr TabErr) (List Byte × Nat))
    (k t src dst : Nat) (s : State) : Same ring s (eachTile st body k t src dst s).1 := by
  induction k generalizing t src dst s with
  | zero => exact .refl _
  | succ k ih =>
    unfold eachTile
    split
    · exact .refl _
    · split
      · next eq => exact .fst_of (ring_xfrWrite ..) eq
      · next eq => exact (Same.fst_of (ring_xfrWrite ..) eq).trans (ih _ _ _ _)

theorem ring_tileRun (s : State) (st : Fin 8) (d : Desc) (alignS alignD : Nat) (body : State → Nat → Nat → Except
    (MetaErr TabErr) (List Byte × Nat)) :
    Same ring s (tileRun s st d alignS alignD body).1 := by
  unfold tileRun
  split
  · dsimp only
    exact .refl _
  · split
    · dsimp only
      exact .refl _
    · split
      · dsimp only
        exact .refl _
      · exact ring_eachTile ..

theorem ring_xfrCompress (s : State) (st : Fin 8) (d : Desc) : Same ring s (xfrCompress s st d).1 :=
  ring_tileRun ..

theorem ring_xfrExpand (s : State) (st : Fin 8) (d : Desc) : Same ring s (xfrExpand s st d).1 :=
  ring_tileRun ..

theorem ring_xfrWrites (st : Fin 8) (l : List (Nat × List Byte)) (s : State) : Same ring s (xfrWrites st l s).1 := by
  induction l generalizing s with
  | nil => exact .refl _
  | cons y l ih =>
    unfold xfrWrites
    split
    · next eq => exact .fst_of (ring_xfrWrite ..) eq
    · next eq => exact (Same.fst_of (ring_xfrWrite ..) eq).trans (ih _)

theorem ring_appendTiles (st : Fin 8) (r : RgnHdr) (k t src e n off : Nat) (s : State) :
    Same ring s (appendTiles st r k t src e n off s).1 := by
  induction k generalizing t src e n off s with
  | zero => exact .refl _
  | succ k ih =>
    unfold appendTiles
    split
    · exact .refl _
    · split
      · exact ih ..
      · split
        · exact .refl _
        · split
          · exact .refl _
          · split
            · next eq => exact .fst_of (ring_xfrWrites ..) eq
            · next eq => exact (Same.fst_of (ring_xfrWrites ..) eq).trans (ih _ _ _ _ _ _)

theorem ring_xfrToRegion (s : State) (st : Fin 8) (d : Desc) : Same ring s (xfrToRegion s st d).1 := by
  unfold xfrToRegion
  extract_lets rd prep
  clear_value prep
  split
  · exact .refl _
  split
  · exact .refl _
  split
  · exact .refl _
  split
  · exact .refl _
  next r off =>
  have h : ∀ {z : State × Option TabErr}, (if r.e = 0 then xfrWrite s st r.cum (leBytes 0 8) else (s, none)) = z →
      Same ring s z.1 := by
    rintro _ rfl
    split
    · exact ring_xfrWrite ..
    · exact .refl _
  split
  · next eq => exact h eq
  · next eq =>
    split
    · next eq' => exact (h eq).trans (.fst_of (ring_appendTiles ..) eq')
    · next eq' => exact (h eq).trans (Same.fst_of (ring_appendTiles ..) eq') |>.trans (ring_xfrWrites ..)

theorem ring_xfrFromRegion (s : State) (st : Fin 8) (d : Desc) : Same ring s (xfrFromRegion s st d).1 := by
  unfold xfrFromRegion
  extract_lets rd prep
  have hp : ∀ {u bs}, prep = .ok (u, bs) → Same ring s u := by
    intro u bs e
    obtain ⟨_, e⟩ := exists_of_bind_ok e
    obtain ⟨_, e⟩ := exists_of_bind_ok e
    obtain ⟨_, e⟩ := exists_of_bind_ok e
    split at e
    · exact ring_partBytes e
    · obtain ⟨_, e⟩ := exists_of_bind_ok e
      cases e
      exact .refl _
  clear_value prep
  split
  · exact .refl _
  split
  · exact .refl _
  split
  · exact .refl _
  split
  · exact .refl _
  · exact (hp rfl).trans (ring_xfrWrite ..)

theorem ring_xfrTilecopy (s : State) (st : Fin 8) (d : Desc) : Same ring s (xfrTilecopy s st d).1 := by
  unfold xfrTilecopy
  split
  · split
    · dsimp only
      exact .refl _
    · split
      · dsimp only
        exact .refl _
      · split
        · dsimp only
          exact .refl _
        · exact ring_xfrWrites ..
  · exact ring_tileRun ..

/-! ### Jukan -/

theorem ring_jkFault (s : State) (st : Fin 8) (p : Nat) (d : Desc) (e : TabErr) : Same ring s (jkFault s st p d e) := by
  unfold jkFault
  dsimp only
  refine .trans ?_ (ring_finish ..)
  split
  · exact ring_recordFault ..
  · exact ring_memFault ..

theorem ring_jkWrite (s : State) (st : Fin 8) (plan a : Nat) (bs : List Byte) :
    Same ring s (jkWrite s st plan a bs).1 := by
  unfold jkWrite
  dsimp only
  split
  · dsimp only
    exact .refl _
  · split
    · dsimp only
      exact .refl _
    · exact ring_engWrite ..

theorem ring_countHop (s : State) (n p m : Nat) : Same ring s (countHop s n p m) :=
  (ring_countPair ..).trans (ring_countPair ..)

theorem ring_countRoute (s : State) (a b m : Nat) : Same ring s (countRoute s a b m) := by
  unfold countRoute
  split
  · dsimp only
    exact .foldl (fun _ _ => ring_countHop ..) _ _
  · exact .foldl (fun _ _ => ring_countHop ..) _ _

theorem ring_jkSend (s : State) (st : Fin 8) (p : Nat) (d : Desc) : Same ring s (jkSend s st p d).1 := by
  unfold jkSend
  extract_lets plan dst n
  split
  · exact .refl _
  · have h := ring_copyPieces (fun s => jkRead s st plan 0) (fun s => jkWrite s dst plan) (n / 16 + 1) (jkSrc d) (jkDst d) n s
      fun _ _ _ => ring_jkWrite ..
    exact .ite (h.trans (ring_countRoute ..)) h

theorem ring_reduceTile (s : State) (st dst : Fin 8) (plan : Nat) (lock : Bool) (t src at_ : Nat) :
    Same ring s (reduceTile s st dst plan lock t src at_).1 := by
  unfold reduceTile
  dsimp only
  split
  · dsimp only
    exact .refl _
  · split
    · dsimp only
      exact .refl _
    · split
      · dsimp only
        exact .refl _
      · dsimp only
        exact .refl _
      · exact ring_jkWrite ..

theorem ring_reduceTiles (st dst : Fin 8) (plan : Nat) (lock : Bool) (k t src at_ : Nat) (s : State) :
    Same ring s (reduceTiles st dst plan lock k t src at_ s).1 := by
  induction k generalizing t src at_ s with
  | zero => exact .refl _
  | succ k ih =>
    unfold reduceTiles
    split
    · next eq => exact .fst_of (ring_reduceTile ..) eq
    · next eq => exact (Same.fst_of (ring_reduceTile ..) eq).trans (ih _ _ _ _)

theorem ring_jkReduce (s : State) (st : Fin 8) (p : Nat) (d : Desc) : Same ring s (jkReduce s st p d).1 := by
  unfold jkReduce
  extract_lets dst
  split
  · exact .refl _
  · exact .ite ((ring_reduceTiles ..).trans (ring_countRoute ..)) (ring_reduceTiles ..)

theorem ring_jkSignal (s : State) (_st : Fin 8) (_p : Nat) (d : Desc) : Same ring s (jkSignal s _st _p d).1 :=
  ring_ringBits ..

end Sys2Proof.Laws
end

section
/-! What the sampler, acceptance, mailboxes, packets, the Locket, calibration, the hot set and the ports leave of the ring. -/

-- One proof at a time: the stacks of many side by side would take the memory that the check allows.
set_option Elab.async false

namespace Sys2Proof.Laws

open Machine Safety

/-! ### The sampler -/

theorem ring_modGroups (s : State) (st : Fin 8) (p : Nat → Bool) (f : Nat → SmpGroup → SmpGroup) :
    Same ring s (s.modGroups st p f) :=
  ring_modSt ..

theorem ring_setBatch (s : State) (st : Fin 8) (g : Nat) (b : Option Batch) : Same ring s (s.setBatch st g b) := by
  unfold State.setBatch
  split
  · exact ring_modSt ..
  · exact .refl _

theorem ring_endFaulted (s : State) (st : Fin 8) (g : Nat) : Same ring s (endFaulted s st g) :=
  (Same.ite ((ring_modGroups ..).trans (ring_countWrap ..)) (ring_modGroups ..)).trans (ring_setBatch ..)

theorem ring_smpFault (s : State) (st : Fin 8) (g : Nat) (d : Desc) (e : SmpErr) :
    Same ring s (smpFault s st g d e) := by
  unfold smpFault
  dsimp only
  refine .trans ?_ (ring_finish ..)
  refine .trans ?_ (ring_endFaulted ..)
  split
  · exact ring_recordFault ..
  · exact ring_recordFault ..
  · exact ring_memFault ..

theorem ring_smpWrite (s : State) (st : Fin 8) (plan area a : Nat) (bs : List Byte) :
    Same ring s (smpWrite s st plan area a bs).1 :=
  ring_engWrite ..

theorem ring_smpWrites (st : Fin 8) (plan area : Nat) (s : State) (ws : List (Nat × List Byte)) :
    Same ring s (smpWrites st plan area s ws).1 := by
  induction ws generalizing s with
  | nil => exact .refl _
  | cons w ws ih =>
    unfold smpWrites
    split
    · next eq => exact (Same.fst_of (ring_smpWrite ..) eq).trans (ih _)
    · next eq => exact .fst_of (ring_smpWrite ..) eq

theorem ring_smpEnd {s : State} (st : Fin 8) (g : Nat) (d : Desc) {r : State × Option SmpErr} (h : Same ring s r.1) :
    Same ring s (smpEnd st g d r) := by
  unfold smpEnd
  split
  · exact h.trans (ring_smpFault ..)
  · exact h.trans (ring_finish ..)

theorem ring_clearTable (s : State) (st : Fin 8) (plan a n : Nat) : Same ring s (clearTable s st plan a n).1 := by
  unfold clearTable
  split
  · dsimp only
    exact .refl _
  · dsimp only
    exact ring_zeroRange ..

theorem ring_openBatch (s : State) (st : Fin 8) (g : Nat) (e : Entry) : Same ring s (openBatch s st g e).1 := by
  unfold openBatch
  dsimp only
  split
  · dsimp only
    exact .refl _
  · split
    · dsimp only
      exact .refl _
    · split
      · dsimp only
        exact .refl _
      · dsimp only
        exact .refl _
      · split
        · dsimp only
          exact .refl _
        · split
          · dsimp only
            exact .refl _
          · split
            · dsimp only
              split
              · exact ring_clearTable ..
              · dsimp only
                exact .refl _
            · dsimp only
              refine .trans ?_ (ring_setBatch ..)
              refine .trans ?_ (ring_modGroups ..)
              split
              · exact ring_clearTable ..
              · dsimp only
                exact .refl _

theorem ring_numberNode (st : Fin 8) (plan h : Nat) (s : State) (b : Batch) (id : Nat) :
    Same ring s (numberNode st plan h s b id).1 := by
  unfold numberNode
  dsimp only
  split
  · dsimp only
    exact .refl _
  · dsimp only
    exact .refl _
  · exact ring_drawFree ..
  · split
    · dsimp only
      exact .refl _
    · split
      · dsimp only
        exact ring_smpWrite ..
      · dsimp only
        exact ring_smpWrite ..

theorem ring_numberAll (st : Fin 8) (plan h : Nat) (s : State) (b : Batch) (ids : List Nat) (acc : List (Nat × Bool)) :
    Same ring s (numberAll st plan h s b ids acc).1 := by
  induction ids generalizing s b acc with
  | nil => exact .refl _
  | cons id ids ih =>
    unfold numberAll
    split
    · next eq => exact .fst_of (ring_numberNode ..) eq
    · next eq => exact (Same.fst_of (ring_numberNode ..) eq).trans (ih _ _ _)

theorem ring_writeBlock (st : Fin 8) (plan out : Nat) (s : State) (b : Batch) (arrays : List (Nat × List Byte)) (h :
    BlockHdr) :
    Same ring s (writeBlock st plan out s b arrays h).1 :=
  ring_smpWrites ..

theorem ring_smpCounts (s : State) (st : Fin 8) (new invalid isolated dups trunc : Nat) :
    Same ring s (smpCounts s st new invalid isolated dups trunc) :=
  .ite ((ring_countSat ..).trans (ring_countSat ..) |>.trans (ring_countSat ..) |>.trans (ring_countSat ..)
    |>.trans (ring_countSat ..)) ((ring_countSat ..).trans (ring_countSat ..) |>.trans (ring_countSat ..)
    |>.trans (ring_countSat ..) |>.trans (ring_countSat ..) |>.trans (ring_raiseEvt ..))

theorem ring_startBlock (s : State) (st : Fin 8) (plan h out size avail : Nat) :
    Same ring s (startBlock s st plan h out size avail).1 := by
  unfold startBlock
  split
  · dsimp only
    exact .refl _
  · split
    · dsimp only
      exact .refl _
    · exact ring_smpWrite ..

theorem ring_seedBatch (s : State) (st : Fin 8) (g : Nat) (e : Entry) : Same ring s (seedBatch s st g e).1 := by
  unfold seedBatch
  extract_lets d plan n out
  split
  · exact .refl _
  extract_lets nb nodeOff
  split
  · exact .refl _
  split
  · exact .refl _
  split
  · next eq => exact .fst_of (ring_startBlock ..) eq
  next s1 eq =>
  have h1 : Same ring s s1 := .fst_of (ring_startBlock ..) eq
  split
  · exact h1
  extract_lets ids
  split
  · next eq => exact h1.trans (.fst_of (ring_numberAll ..) eq)
  next s2 b1 ks eq =>
  have h2 : Same ring s s2 := h1.trans (.fst_of (ring_numberAll ..) eq)
  extract_lets dups bad
  split
  · next eq => exact h2.trans (.fst_of (ring_writeBlock ..) eq)
  · next eq =>
    exact h2.trans (.fst_of (ring_writeBlock ..) eq) |>.trans (ring_smpCounts ..) |>.trans (ring_modGroups ..) |>.trans
      (ring_setBatch ..)

theorem ring_hopBatch (s : State) (st : Fin 8) (g : Nat) (e : Entry) : Same ring s (hopBatch s st g e).1 := by
  unfold hopBatch
  extract_lets d plan h w ew ep f out
  split
  · exact .refl _
  extract_lets b nd first rb recOff ewOff epOff nodeOff size
  split
  · exact .refl _
  split
  · exact .refl _
  split
  · next eq => exact .fst_of (ring_startBlock ..) eq
  next s1 eq =>
  have h1 : Same ring s s1 := .fst_of (ring_startBlock ..) eq
  split
  · exact h1
  extract_lets kept trunc
  split
  · next eq => exact h1.trans (.fst_of (ring_numberAll ..) eq)
  next s2 b1 ks eq =>
  have h2 : Same ring s s2 := h1.trans (.fst_of (ring_numberAll ..) eq)
  extract_lets words weights
  clear_value weights
  split
  · exact h2
  split
  · next eq => exact h2.trans (.fst_of (ring_writeBlock ..) eq)
  · next s3 eq =>
    extract_lets s4 s5
    have h4 : Same ring s s4 :=
      h2.trans (.fst_of (ring_writeBlock ..) eq) |>.trans (ring_smpCounts ..) |>.trans (ring_countPair ..) |>.trans
        (ring_countPair ..)
    have h5 : Same ring s s5 := .ite h4 (h4.trans (ring_raiseEvt ..))
    exact h5.trans (ring_raiseEvt ..) |>.trans (ring_modGroups ..) |>.trans (ring_setBatch ..)

theorem ring_closeBatch (s : State) (st : Fin 8) (g : Nat) (_e : Entry) : Same ring s (closeBatch s st g _e).1 := by
  unfold closeBatch
  dsimp only
  split
  · dsimp only
    exact .refl _
  · split
    · dsimp only
      exact .refl _
    · exact (ring_modGroups ..).trans (ring_setBatch ..) |>.trans (ring_countWrap ..) |>.trans (ring_raiseEvt ..)

theorem ring_prefixRow (st : Fin 8) (plan weight pfx n : Nat) (s : State) (p sum : Nat) :
    Same ring s (prefixRow st plan weight pfx n s p sum).1 := by
  induction n generalizing s p sum with
  | zero => exact .refl _
  | succ n ih =>
    unfold prefixRow
    split
    · exact .refl _
    · split
      · exact .refl _
      · split
        · exact .refl _
        · split
          · next eq => exact .fst_of (ring_smpWrite ..) eq
          · next eq => exact (Same.fst_of (ring_smpWrite ..) eq).trans (ih _ _ _)

theorem ring_prefixRows (st : Fin 8) (plan rowptr weight pfx nedge n : Nat) (s : State) (row : Nat) :
    Same ring s (prefixRows st plan rowptr weight pfx nedge n s row).1 := by
  induction n generalizing s row with
  | zero => exact .refl _
  | succ n ih =>
    unfold prefixRows
    split
    · exact .refl _
    · extract_lets lo hi
      split
      · exact .refl _
      · split
        · exact .refl _
        · split
          · next eq => exact .fst_of (ring_prefixRow ..) eq
          · next eq => exact (Same.fst_of (ring_prefixRow ..) eq).trans (ih _ _)

theorem ring_prefixRun (s : State) (st : Fin 8) (g : Nat) (e : Entry) : Same ring s (prefixRun s st g e).1 := by
  unfold prefixRun
  dsimp only
  split
  · dsimp only
    exact .refl _
  · split
    · dsimp only
      exact .refl _
    · split
      · dsimp only
        exact .refl _
      · split
        · dsimp only
          exact .refl _
        · split
          · dsimp only
            exact .refl _
          · split
            · dsimp only
              exact ring_prefixRows ..
            · dsimp only
              exact (ring_prefixRows ..).trans (ring_raiseEvt ..)

theorem ring_smpClear (s : State) (st : Fin 8) : Same ring s (smpClear s st) := by
  unfold smpClear
  exact (Same.foldl (fun _ _ => Same.ite (ring_discardQueue ..) (.refl _)) _ _).trans (ring_modGroups ..)

theorem ring_smpCleared (s : State) (st : Fin 8) : Same ring s (smpCleared s st) :=
  ring_modSt ..

/-! ### Acceptance -/

theorem ring_rejectAt (s : State) (st : Fin 8) (p : Page) (q i : Nat) (d : Desc) (cls det high : Nat) :
    Same ring s (rejectAt s st p q i d cls det high) := by
  unfold rejectAt
  dsimp only
  refine .trans ?_ (ring_finishAt ..)
  split
  · exact (ring_recordFault ..).trans (ring_returnAdvance ..)
  · exact (ring_recordFault ..).trans (ring_endFaulted ..)
  · exact (ring_recordFault ..).trans (ring_modSt ..)
  · exact ring_recordFault ..

theorem ring_rejectDead (s : State) (st : Fin 8) (p : Page) (q i : Nat) : Same ring s (rejectDead s st p q i) :=
  (ring_drawFree ..).trans (ring_recordFault ..) |>.trans (ring_finishAt ..)

theorem ring_acceptAt (s : State) (st : Fin 8) (q i : Nat) (latch : List DWord) :
    Same ring s (acceptAt s st q i latch) :=
  ring_modQueue ..

theorem ring_hazardRise (s0 s : State) (st : Fin 8) (c : Nat) : Same ring s (hazardRise s0 s st c) :=
  .ite (ring_raiseEvt ..) (.refl _)

theorem ring_acceptOpen (s : State) (st : Fin 8) (q i : Nat) : Same ring s (acceptOpen s st q i) :=
  (ring_setPair ..).trans (ring_acceptAt ..)

theorem ring_acceptGood (s : State) (st : Fin 8) (p : Page) (q i : Nat) (d : Desc) :
    Same ring s (acceptGood s st p q i d) := by
  unfold acceptGood
  split
  · dsimp only
    exact .ite (ring_rejectAt ..) ((ring_acceptAt ..).trans (ring_hazardRise ..))
  · exact .ite (ring_acceptAt ..) (ring_acceptAt ..)
  · exact .ite (ring_acceptOpen ..) (ring_acceptAt ..)
  · split
    · exact ring_acceptAt ..
    · exact ring_tabFault ..
  · split
    · exact ring_acceptAt ..
    · exact ring_tabFault ..
  · exact ring_acceptAt ..

theorem ring_acceptEntry (s : State) (st : Fin 8) (p : Page) (q i : Nat) (d : Desc) :
    Same ring s (acceptEntry s st p q i d) := by
  unfold acceptEntry
  dsimp only
  split
  · exact ring_rejectDead ..
  · split
    · exact ring_rejectAt ..
    · split
      · exact ring_rejectAt ..
      · split
        · exact ring_rejectAt ..
        · exact ring_acceptGood ..

theorem ring_descriptorAccept (s : State) (st : Fin 8) (q : Nat) : Same ring s (descriptorAccept s st q) := by
  unfold descriptorAccept
  split
  · exact .refl _
  · split
    · exact .refl _
    · exact .ite (ring_acceptEntry ..) (.refl _)

/-! ### Mailboxes -/

theorem ring_notice (s : State) (st : Fin 8) (mb : Nat) (sender : Requester) (bit : Nat) :
    Same ring s (notice s st mb sender bit) := by
  unfold notice
  split
  · exact ring_ringBits ..
  · exact ring_setEvt ..

theorem ring_settleReplies (s : State) (st : Fin 8) (mb : Nat) (status : Option Nat) :
    Same ring s (settleReplies s st mb status) :=
  .foldl (fun _ _ => ring_modSt ..) _ _

theorem ring_mboxSend (s : State) (r : Requester) (st : Fin 8) (mb : Nat) (v : Word) :
    Same ring s (mboxSend s r st mb v) :=
  (Same.ite ((ring_modBox ..).trans (ring_countWrap ..) |>.trans (ring_countSat ..)
      |>.trans (ring_notice ..)) (Same.ite ((ring_modBox ..).trans (ring_countWrap ..)
      |>.trans (ring_setEvt ..)) ((ring_modBox ..).trans (ring_countWrap ..)))).trans (ring_ringBits ..)
      |>.trans (ring_wakeBox ..)

theorem ring_mboxRead (s : State) (r : Requester) (st : Fin 8) (mb : Nat) : Same ring s (mboxRead s r st mb).2 := by
  unfold mboxRead
  dsimp only
  split
  · exact (ring_modBox ..).trans (ring_settleReplies ..) |>.trans (ring_notice ..)
  · dsimp only
    exact .refl _

theorem ring_mbxReset (s : State) (st : Fin 8) (page : Nat) : Same ring s (mbxReset s st page) :=
  ring_modSt .. |>.trans (.foldl (fun _ _ => ring_modSt ..) _ _)

/-! ### Packets -/

theorem ring_freeBytes (n : Nat) (s : State) : Same ring s (freeBytes n s).2 := by
  induction n generalizing s with
  | zero => exact .refl _
  | succ n ih => exact (ring_drawFree s).trans (ih _)

theorem ring_modPort (s : State) (st : Fin 8) (p : Nat) (f : NetPort → NetPort) : Same ring s (s.modPort st p f) := by
  unfold State.modPort
  split
  · exact ring_modSt ..
  · exact .refl _

theorem ring_sendPacket (s : State) (st : Fin 8) (ctx : Nat) (type : Byte) (seq : Word) (retx : Bool) (payload :
    List Byte) :
    Same ring s (sendPacket s st ctx type seq retx payload) := by
  unfold sendPacket
  exact (ring_modSess ..).trans (ring_send ..)

theorem ring_sendData (s : State) (st : Fin 8) (ctx : Nat) (seq : Word) (retx : Bool) (payload : List Byte) :
    Same ring s (sendData s st ctx seq retx payload) :=
  .ite ((ring_sendPacket ..).trans (ring_modSess ..)
    |>.trans (ring_countPair ..)) ((ring_sendPacket ..).trans (ring_modSess ..))

theorem ring_sendOp (s : State) (st : Fin 8) (ctx : Nat) (payload : List Byte) : Same ring s (sendOp s st ctx payload) :=
  .ite (ring_modSess ..) ((ring_modSess ..).trans (ring_sendData ..))

theorem ring_sendQueued (st : Fin 8) (ctx : Nat) (ps : List (List Byte)) (s : State) :
    Same ring s (sendQueued st ctx ps s) := by
  induction ps generalizing s with
  | nil => exact .refl _
  | cons p ps ih => exact .ite (.refl _) ((ring_modSess ..).trans (ring_sendOp ..) |>.trans (ih _))

theorem ring_sendAck (s : State) (st : Fin 8) (ctx : Nat) : Same ring s (sendAck s st ctx) :=
  (ring_modSess ..).trans (ring_sendPacket ..)

theorem ring_badPacket (s : State) (st : Fin 8) : Same ring s (badPacket s st) :=
  ring_countSat ..

theorem ring_receive (s : State) (st : Fin 8) (port link : Nat) (p : Packet) (type : Byte) :
    Same ring s (receive s st port link p type).1 := by
  unfold receive
  split
  · exact ring_badPacket ..
  · split
    · dsimp only [State.drawFree]
      exact (ring_apart ..).trans (ring_send ..)
    · split
      · exact ring_badPacket ..
      · dsimp only
        exact ring_modSess ..

/-! ### The Locket -/

theorem ring_modWindow (s : State) (w : Bool) (f : LkWindow → LkWindow) : Same ring s (modWindow s w f) :=
  ring_modLkt _ _ fun _ => by cases w <;> rfl

theorem ring_setCursor (s : State) (w : Bool) (cur : DWord) : Same ring s (setCursor s w cur) :=
  ring_modWindow ..

theorem ring_cursorWrite (s : State) (w : Bool) (lo : Word) : Same ring s (cursorWrite s w lo) := by
  unfold cursorWrite
  exact (ring_apart s ..).trans (ring_setCursor ..)

theorem ring_windowLoaded (s : State) (w eccOk : Bool) : Same ring s (windowLoaded s w eccOk) :=
  .ite (Same.ite (ring_modWindow ..) ((ring_modWindow ..).trans (ring_recordFault ..))) (.refl _)

theorem ring_win15Read (s : State) (w : Bool) : Same ring s (win15Read s w) :=
  .ite (ring_setCursor ..) (.refl _)

theorem ring_winRead (s : State) (w : Bool) (i : Nat) : Same ring s (winRead s w i).2 :=
  .ite ((ring_windowLoaded ..).trans (ring_win15Read ..)) (ring_windowLoaded ..)

theorem ring_snap (s : State) (w : Bool) : Same ring s (snap s w) := by
  unfold snap
  exact ring_modWindow ..

theorem ring_fwGo (s : State) : Same ring s (fwGo s) :=
  .ite (ring_locketRequest ..) (ring_modLkt ..)

theorem ring_locketSoftReset (s : State) : Same ring s (locketSoftReset s) :=
  ring_modLkt ..

/-! ### Calibration -/

theorem ring_measExtend (s : State) (i : Fin 6) (data : List Byte) : Same ring s (measExtend s i data) :=
  rfl

theorem ring_loadNet (s : State) (st : Fin 8) : Same ring s (loadNet s st) :=
  .foldl (fun _ _ => (ring_setFld .. |>.trans (.foldl
    (fun _ _ => (ring_setReg ..).trans (ring_setReg ..)) _ _)).trans (ring_modPort ..)) _ _

theorem ring_loadVolts (s : State) (st : Fin 8) : Same ring s (loadVolts s st) := by
  unfold loadVolts
  exact ring_modPwr ..

theorem ring_loadSpares (s : State) (st : Fin 8) (regs : List (Page × Nat)) : Same ring s (loadSpares s st regs) :=
  .foldl (fun _ _ => by
      split
      · exact ring_setReg ..
      · exact ring_setReg ..) _ _

theorem ring_calResult (s : State) (r : Nat × Nat) : Same ring s (calResult s r) :=
  ring_setReg ..

theorem ring_calCopy (s : State) : Same ring s (calCopy s) :=
  .ite (ring_setFlag ..) (ring_modCal ..)

theorem ring_calCommit (s : State) : Same ring s (calCommit s) :=
  .ite (ring_setFlag ..) (Same.ite (ring_calResult ..) (Same.ite (ring_calResult ..) (ring_modCal ..)))

theorem ring_calDiscard (s : State) : Same ring s (calDiscard s) :=
  ring_modCal ..

theorem ring_calCmd (s : State) (v : Word) : Same ring s (calCmd s v) :=
  .ite ((Same.ite ((Same.ite (ring_calCopy ..) (.refl _)).trans (ring_calCommit ..)) (Same.ite (ring_calCopy ..)
    (.refl _))).trans (ring_calDiscard ..)) (Same.ite ((Same.ite (ring_calCopy ..)
    (.refl _)).trans (ring_calCommit ..)) (Same.ite (ring_calCopy ..) (.refl _)))

theorem ring_calWinWrite (s : State) (off : Nat) (v : Word) : Same ring s (calWinWrite s off v) :=
  .ite (.refl _) (ring_modCal ..)

theorem ring_calStartup (s : State) : Same ring s (calStartup s) :=
  .ite (ring_modCal ..) ((ring_modCal ..).trans (ring_recordFault ..) |>.trans (ring_raiseEvt ..))

/-! ### The hot set -/

theorem ring_dropRefresh (s : State) (st : Fin 8) : Same ring s (dropRefresh s st) :=
  ring_modArb ..

theorem ring_endRefresh (s : State) (st : Fin 8) : Same ring s (endRefresh s st) :=
  (ring_modHot ..).trans (ring_dropRefresh ..)

theorem ring_hotEmpty (s : State) (st : Fin 8) : Same ring s (hotEmpty s st) :=
  (ring_modHot ..).trans (ring_endRefresh ..)

theorem ring_refreshReady (s : State) (st : Fin 8) : Same ring s (refreshReady s st) :=
  .ite ((ring_modHot ..).trans (ring_dropRefresh ..) |>.trans (ring_raiseEvt ..)) (.refl _)

theorem ring_refreshEvent (s : State) (st : Fin 8) (grp : Nat) : Same ring s (refreshEvent s st grp) :=
  .ite (.refl _) (Same.ite ((ring_countSat ..).trans (ring_locketRequest ..)
    |>.trans (ring_raiseEvt ..)) (ring_submit ..))

theorem ring_refreshFault (s : State) (st : Fin 8) (e : TabErr) : Same ring s (refreshFault s st e) := by
  unfold refreshFault
  dsimp only
  refine .trans ?_ (ring_endRefresh ..)
  split
  · exact ring_recordFault ..
  · exact ring_memFault ..

theorem ring_refreshStart (s : State) (st : Fin 8) (grp : Nat) : Same ring s (refreshStart s st grp) := by
  unfold refreshStart
  split
  · exact ring_refreshFault ..
  · dsimp only
    exact (Same.ite (.refl _) (ring_countSat ..)).trans (ring_modHot ..) |>.trans (ring_refreshReady ..)

theorem ring_setEntry (s : State) (st : Fin 8) (i n : Nat) : Same ring s (setEntry s st i n) :=
  ring_modHot ..

/-- `copyRow` is unfolded with its reads made variables, which the kernel then has nothing to evaluate of. -/
theorem ring_copyRow (s : State) (st : Fin 8) (e : HsEntry) : Same ring s (copyRow s st e).1 := by
  obtain ⟨f, hf⟩ : ∃ f, f = copyRow := exists_eq
  obtain ⟨table, ht⟩ : ∃ f, f = readTable := exists_eq
  obtain ⟨read, hr⟩ : ∃ f, f = tabRead := exists_eq
  rw [← hf]
  delta copyRow at hf
  rw [← ht, ← hr] at hf
  subst hf
  dsimp only
  split
  · exact .refl _
  · split
    · exact .refl _
    · exact ring_tabWrite ..

theorem ring_writeThrough (s : State) (st : Fin 8) (plan no row : Nat) (bs : List Byte) :
    Same ring s (writeThrough s st plan no row bs).1 := by
  unfold writeThrough
  dsimp only
  split
  · dsimp only
    exact .refl _
  · split
    · dsimp only
      split
      · exact ring_tabWrite ..
      · dsimp only
        exact .refl _
    · dsimp only
      split
      · exact ring_tabWrite ..
      · dsimp only
        exact .refl _
    · split
      · dsimp only
        split
        · exact ring_tabWrite ..
        · dsimp only
          exact .refl _
      · split
        · refine .trans ?_ (ring_tabWrite ..)
          split
          · exact ring_tabWrite ..
          · dsimp only
            exact .refl _
        · split
          · dsimp only
            refine .trans ?_ (ring_countSat ..)
            refine .trans ?_ (ring_setEntry ..)
            split
            · exact ring_tabWrite ..
            · dsimp only
              exact .refl _
          · dsimp only
            split
            · exact ring_tabWrite ..
            · dsimp only
              exact .refl _

theorem ring_hsEnWrite (s : State) (st : Fin 8) (on : Bool) : Same ring s (hsEnWrite s st on) :=
  .ite (.refl _) ((ring_hotEmpty ..).trans (ring_setFlag ..))

/-! ### The ports -/

theorem ring_linkDrop (s : State) (st : Fin 8) (port link : Nat) : Same ring s (linkDrop s st port link) :=
  .ite ((ring_modPort ..).trans (ring_recordFault ..) |>.trans (ring_raiseEvt ..)) (.refl _)

theorem ring_portDrop (s : State) (st : Fin 8) (port : Nat) : Same ring s (portDrop s st port) :=
  .foldl (fun _ _ => ring_linkDrop ..) _ _

theorem ring_linkRise (s : State) (st : Fin 8) (port link : Nat) : Same ring s (linkRise s st port link) :=
  .ite ((ring_modPort ..).trans (ring_modPort ..) |>.trans (ring_raiseEvt ..)) (.refl _)

theorem ring_netCfgWrite (s : State) (st : Fin 8) (port : Nat) (v : Word) : Same ring s (netCfgWrite s st port v) :=
  .ite (ring_setReg ..) ((ring_setReg ..).trans (ring_portDrop ..) |>.trans (ring_modPort ..))

theorem ring_rtcCorrect (s : State) (by_ : DWord) : Same ring s (rtcCorrect s by_) :=
  (ring_modPm ..).trans (ring_setFlag ..)

end Sys2Proof.Laws
end

section
/-! What the sequencers, the Clasp's gate, checkpoint streams, collectives and sessions leave of the ring. -/

-- One proof at a time: the stacks of many side by side would take the memory that the check allows.
set_option Elab.async false

namespace Sys2Proof.Laws

open Machine Safety

/-! ### The sequencer -/

theorem ring_seqVoid (s : State) (st : Fin 8) (n : Fin 4) : Same ring s (seqVoid s st n) :=
  .ite (ring_modClp ..) (.refl _)

theorem ring_seqFault (s : State) (st : Fin 8) (n : Fin 4) (cls det high addr : Nat) :
    Same ring s (seqFault s st n cls det high addr) :=
  (ring_modSeq ..).trans (ring_recordFault ..) |>.trans (ring_seqVoid ..)

theorem ring_seqNext (s : State) (st : Fin 8) (n : Fin 4) (pc : BitVec 15) : Same ring s (seqNext s st n pc) :=
  (ring_modSeq ..).trans (ring_countPair ..)

theorem ring_seqDo (s : State) (st : Fin 8) (n : Fin 4) (f : Machine.Seq → Machine.Seq) : Same ring s (seqDo s st n f) :=
  (ring_modSeq ..).trans (ring_seqNext ..)

theorem ring_seqHold (s : State) (st : Fin 8) (n : Fin 4) (w : SeqWait) : Same ring s (seqHold s st n w) :=
  ring_modSeq ..

theorem ring_waitEnded (s : State) (st : Fin 8) (n : Fin 4) : Same ring s (waitEnded s st n) :=
  (ring_drawElapsed ..).trans (ring_countPair ..)

theorem ring_aluBody (f : DWord → DWord → DWord) (st : Fin 8) (n : Fin 4) (s : State) (w : DWord) :
    Same ring s (aluBody f st n s w) :=
  ring_seqDo ..

theorem ring_movhiBody (st : Fin 8) (n : Fin 4) (s : State) (w : DWord) : Same ring s (movhiBody st n s w) :=
  ring_seqDo ..

theorem ring_cmpBody (st : Fin 8) (n : Fin 4) (s : State) (w : DWord) : Same ring s (cmpBody st n s w) :=
  ring_seqDo ..

theorem ring_psetBody (st : Fin 8) (n : Fin 4) (s : State) (w : DWord) : Same ring s (psetBody st n s w) :=
  ring_seqDo ..

theorem ring_callBody (st : Fin 8) (n : Fin 4) (s : State) (w : DWord) : Same ring s (callBody st n s w) :=
  (ring_modSeq ..).trans (ring_seqNext ..)

theorem ring_seqRest (s : State) (st : Fin 8) (n : Fin 4) (dst : SeqState) (evt : Nat) :
    Same ring s (seqRest s st n dst evt) :=
  (ring_modSeq ..).trans (ring_raiseEvt ..)

theorem ring_haltBody (st : Fin 8) (n : Fin 4) (s : State) (w : DWord) : Same ring s (haltBody st n s w) :=
  (ring_modSeq ..).trans (ring_countPair ..) |>.trans (ring_seqRest ..)

theorem ring_dataBody (size : Nat) (f : Machine.Seq → Nat → Machine.Seq) (st : Fin 8) (n : Fin 4) (s : State) (w :
    DWord) :
    Same ring s (dataBody size f st n s w) :=
  .ite (ring_seqDo ..) (ring_seqFault ..)

theorem ring_dwrBody (st : Fin 8) (n : Fin 4) (s : State) (w : DWord) : Same ring s (dwrBody st n s w) :=
  ring_seqDo ..

theorem ring_dinsBody (st : Fin 8) (n : Fin 4) (s : State) (w : DWord) : Same ring s (dinsBody st n s w) :=
  ring_seqDo ..

theorem ring_pushNow (s : State) (st : Fin 8) (n : Fin 4) (w : DWord) (q : Nat) : Same ring s (pushNow s st n w q) :=
  (ring_modQueue ..).trans (ring_countWrap ..) |>.trans (ring_seqDo ..)

theorem ring_pushBody (st : Fin 8) (n : Fin 4) (s : State) (w : DWord) : Same ring s (pushBody st n s w) :=
  .ite (ring_seqFault ..) (Same.ite (ring_seqFault ..) (Same.ite (ring_seqHold ..) (ring_pushNow ..)))

theorem ring_waitOutcome (s : State) (q : Queue) (from_ token : Word) : Same ring s (waitOutcome s q from_ token).2 := by
  unfold waitOutcome
  dsimp only
  split
  · exact ring_drawFree ..
  · dsimp only
    exact .refl _

theorem ring_timeBody (st : Fin 8) (n : Fin 4) (s : State) (w : DWord) : Same ring s (timeBody st n s w) :=
  .ite (ring_seqDo ..) ((ring_drawElapsed ..).trans (ring_seqDo ..))

theorem ring_seqRefuse (s : State) (st : Fin 8) (n : Fin 4) : Same ring s (seqRefuse s st n) :=
  ring_modSeq ..

theorem ring_seqLoad (s : State) (st : Fin 8) (n : Fin 4) : Same ring s (seqLoad s st n) := by
  unfold seqLoad
  split
  · exact .ite (ring_seqRefuse ..) (ring_modSeq ..)
  · exact .ite (ring_seqRefuse ..) (ring_modSeq ..)
  · exact .ite (ring_seqRefuse ..) (ring_modSeq ..)
  · exact .ite (ring_seqRefuse ..) (ring_modSeq ..)
  · exact .ite (ring_seqRefuse ..) (ring_modSeq ..)
  · exact ring_seqRefuse ..

theorem ring_seqStart (s : State) (st : Fin 8) (n : Fin 4) : Same ring s (seqStart s st n) :=
  .ite (ring_modSeq ..) (ring_seqRefuse ..)

theorem ring_seqStop (s : State) (st : Fin 8) (n : Fin 4) : Same ring s (seqStop s st n) :=
  .ite ((ring_modSeq ..).trans (ring_seqRest ..)) (ring_seqRefuse ..)

theorem ring_seqResume (s : State) (st : Fin 8) (n : Fin 4) : Same ring s (seqResume s st n) :=
  .ite (ring_modSeq ..) (ring_seqRefuse ..)

theorem ring_seqSave (s : State) (st : Fin 8) (n : Fin 4) (withData : Bool) : Same ring s (seqSave s st n withData) := by
  unfold seqSave
  split
  · exact .ite (ring_seqRefuse ..) (ring_modSeq ..)
  · exact .ite (ring_seqRefuse ..) (ring_modSeq ..)
  · exact .ite (ring_seqRefuse ..) (ring_modSeq ..)
  · exact ring_seqRefuse ..

theorem ring_seqRestore (s : State) (st : Fin 8) (n : Fin 4) : Same ring s (seqRestore s st n) := by
  unfold seqRestore
  split
  · exact .ite (ring_seqRefuse ..) (ring_modSeq ..)
  · exact .ite (ring_seqRefuse ..) (ring_modSeq ..)
  · exact .ite (ring_seqRefuse ..) (ring_modSeq ..)
  · exact .ite (ring_seqRefuse ..) (ring_modSeq ..)
  · exact ring_seqRefuse ..

theorem ring_seqClear (s : State) (st : Fin 8) (n : Fin 4) : Same ring s (seqClear s st n) := by
  unfold seqClear
  split
  · exact ring_seqRefuse ..
  · exact ring_seqRefuse ..
  · exact ring_modSeq ..

theorem ring_seqCmd (s : State) (st : Fin 8) (n : Fin 4) (v : Word) : Same ring s (seqCmd s st n v) := by
  unfold seqCmd
  split
  · exact .refl _
  · exact ring_seqLoad ..
  · exact ring_seqStart ..
  · exact ring_seqStop ..
  · exact ring_seqResume ..
  · exact ring_seqSave ..
  · exact ring_seqRestore ..
  · exact ring_seqClear ..
  · exact ring_seqRefuse ..

theorem ring_saveDone (s : State) (st : Fin 8) (n : Fin 4) (withData : Bool) (back : SeqState) :
    Same ring s (saveDone s st n withData back) := by
  unfold saveDone
  dsimp only
  split
  · exact (ring_modSeq ..).trans (ring_seqFault ..)
  · split
    · next eq =>
        exact (ring_modSeq ..).trans (Same.fst_of (ring_engWrite ..) eq) |>.trans (ring_raiseEvt ..)
    · next eq =>
        exact (ring_modSeq ..).trans (Same.fst_of (ring_engWrite ..) eq) |>.trans (ring_seqFault ..)
    · next eq =>
        exact (ring_modSeq ..).trans (Same.fst_of (ring_engWrite ..) eq) |>.trans (ring_countUe ..)
            |>.trans (ring_seqFault ..)

theorem ring_restoreDone (s : State) (st : Fin 8) (n : Fin 4) (back : SeqState) :
    Same ring s (restoreDone s st n back) :=
  .ite ((ring_modSeq ..).trans (ring_seqFault ..)) (Same.ite ((ring_modSeq ..).trans (ring_countUe ..)
    |>.trans (ring_seqFault ..)) (Same.ite ((ring_modSeq ..).trans (ring_seqFault ..)) (Same.ite ((ring_modSeq
    ..).trans (ring_seqFault ..)) (Same.ite ((ring_modSeq ..).trans (ring_seqFault ..)) ((ring_modSeq ..).trans
    (ring_modSeq ..) |>.trans (ring_raiseEvt ..))))))

/-! ### The step's end -/

theorem ring_optWrites (st : Fin 8) (plan : Nat) (l : List (Nat × List Byte)) (s : State) :
    Same ring s (optWrites st plan l s).1 := by
  induction l generalizing s with
  | nil => exact .refl _
  | cons x l ih =>
    have h := ring_tabWrite s st plan 6 true x.1 x.2
    rw [optWrites]
    split
    next eq => exact h.fst_of eq
    next eq => exact (h.fst_of eq).trans (ih _)

theorem ring_runKernel (s : State) (st : Fin 8) (plan : Nat) (o : Opt) (x : OptArray) (gs : List Val) :
    Same ring s (runKernel s st plan o x gs).1 := by
  unfold runKernel
  extract_lets key vfmt zeros prep
  clear_value prep
  split
  · exact .refl _
  · dsimp only
    split
    next eq => exact .fst_of (ring_optWrites ..) eq
    next eq => exact .fst_of (ring_optWrites ..) eq

theorem ring_claspFault (s : State) (st : Fin 8) (e : TabErr) : Same ring s (claspFault s st e) := by
  unfold claspFault
  split
  · exact ring_recordFault ..
  · exact ring_memFault ..

/-- Unfolded as in `ring_copyRow`. -/
theorem ring_denseUpdate (s : State) (st : Fin 8) (i : Nat) : Same ring s (denseUpdate s st i).1 := by
  obtain ⟨f, hf⟩ : ∃ f, f = denseUpdate := exists_eq
  obtain ⟨read, hr⟩ : ∃ f, f = tabRead := exists_eq
  rw [← hf]
  delta denseUpdate at hf
  rw [← hr] at hf
  subst hf
  dsimp only
  split
  · exact .refl _
  · split
    · exact .refl _
    · split
      · exact .refl _
      · split
        next eq => exact .fst_of (ring_runKernel ..) eq
        next eq => exact .fst_of (ring_runKernel ..) eq

/-- Unfolded as in `ring_copyRow`. -/
theorem ring_rowUpdate (s : State) (st : Fin 8) (r : TouchedRow) : Same ring s (rowUpdate s st r).1 := by
  have hk := ring_runKernel
  obtain ⟨f, hf⟩ : ∃ f, f = rowUpdate := exists_eq
  obtain ⟨table, ht⟩ : ∃ f, f = readTable := exists_eq
  rw [← hf]
  delta rowUpdate at hf
  rw [← ht] at hf
  subst hf
  dsimp only
  split
  · exact .refl _
  · split
    · exact .refl _
    · split
      next eq => exact .fst_of (hk ..) eq
      next s1 wb bad eq =>
        have h := Same.fst_of (hk ..) eq
        split
        all_goals
          next eq' =>
            refine h.trans (.fst_of ?_ eq')
            split
            · exact ring_writeThrough ..
            · exact .refl _

theorem ring_updNf (s : State) (st : Fin 8) (bad : Bool) : Same ring s (updNf s st bad) :=
  .ite (ring_setFlag ..) (.refl _)

/-- Unfolded as in `ring_copyRow`. -/
theorem ring_issueDense (st : Fin 8) (l : List Nat) (s : State) : Same ring s (issueDense st l s) := by
  obtain ⟨f, hf⟩ : ∃ f, f = issueDense := exists_eq
  obtain ⟨d, hd⟩ : ∃ f, f = denseUpdate := exists_eq
  rw [← hf]
  delta issueDense issueDense._f at hf
  rw [← hd] at hf
  subst hf
  induction l generalizing s with
  | nil => exact .refl _
  | cons i l ih =>
    have h := ring_denseUpdate s st i
    rw [← hd] at h
    refine .ite (.refl _) ?_
    split
    next eq => exact (h.fst_of eq).trans (ring_claspFault ..)
    next eq => exact (h.fst_of eq).trans (ring_updNf ..) |>.trans (ih _)

/-- Unfolded as in `ring_copyRow`. -/
theorem ring_issueRows (st : Fin 8) (l : List TouchedRow) (s : State) : Same ring s (issueRows st l s) := by
  obtain ⟨f, hf⟩ : ∃ f, f = issueRows := exists_eq
  obtain ⟨d, hd⟩ : ∃ f, f = rowUpdate := exists_eq
  rw [← hf]
  delta issueRows issueRows._f at hf
  rw [← hd] at hf
  subst hf
  induction l generalizing s with
  | nil => exact .refl _
  | cons r l ih =>
    have h := ring_rowUpdate s st r
    rw [← hd] at h
    refine .ite (.refl _) ?_
    split
    next eq => exact (h.fst_of eq).trans (ring_claspFault ..)
    next s1 done bad eq =>
      have hc : Same ring s1 (if done then s1.countPair (filPage st) 0x098 else s1) :=
        .ite (ring_countPair ..) (.refl _)
      exact (h.fst_of eq).trans hc |>.trans (ring_updNf ..) |>.trans (ih _)

theorem ring_commitUpdates (s : State) (st : Fin 8) : Same ring s (commitUpdates s st) := by
  have h := (ring_issueDense st (List.range (s.fld (filPage st) 0x068 15 0)) s).trans
    (ring_issueRows st (s.st st).fil.touched _)
  exact .ite (h.trans (ring_raiseEvt ..)) h

theorem ring_claspBegin (s : State) (st : Fin 8) : Same ring s (claspBegin s st) :=
  .ite ((ring_modClp ..).trans (ring_raiseEvt ..)) (ring_modClp ..)

theorem ring_disagree (s : State) (lowest : Nat) : Same ring s (disagree s lowest) :=
  .foldl (fun _ _ => (ring_recordFault ..).trans (ring_tornNow ..)) _ _

theorem ring_voteLateTorn (s : State) : Same ring s (voteLateTorn s) :=
  .foldl (fun _ _ => by
      refine .trans ?_ (ring_tornNow ..)
      split
      · exact ring_recordFault ..
      · exact .refl _) _ _

theorem ring_stepRecord (s : State) (outcome : Nat) : Same ring s (stepRecord s outcome) :=
  (ring_modLkt ..).trans (ring_locketRequest ..)

theorem ring_commitStep (s : State) : Same ring s (commitStep s) := by
  unfold commitStep
  extract_lets s1 s2
  have h1 : Same ring s s1 := by
    refine .foldl (fun s i => .ite (.refl _) ?_) _ _
    split
    · exact ring_claspFault ..
    · exact .refl _
  have h2 : Same ring s s2 := h1.trans (.foldl (fun s i => .ite (ring_commitUpdates ..) (.refl _)) _ _)
  exact .ite h1 (.ite (h2.trans (ring_stepRecord ..)) h2)

theorem ring_claspGate (s : State) : Same ring s (claspGate s) := by
  have h1 : Same ring s (s.stacksIn.foldl claspBegin s) := .foldl (fun s i => ring_claspBegin ..) _ _
  refine .ite (.refl _) ?_
  split
  · exact h1.trans (ring_disagree ..)
  · refine .ite (h1.trans (ring_voteLateTorn ..)) ?_
    extract_lets outcome seq s2
    have h2 : Same ring s s2 := h1.trans (.foldl (fun s i => ring_modClp ..) _ _)
    exact .ite (h2.trans (ring_commitStep ..)) (h2.trans (ring_stepRecord ..))

theorem ring_ckptRecord (s : State) (st : Fin 8) (step bytes : DWord) (status : Nat) :
    Same ring s (ckptRecord s st step bytes status) :=
  ring_locketRequest ..

theorem ring_ckptFailed (s : State) (st : Fin 8) (ctx status : Nat) : Same ring s (ckptFailed s st ctx status) :=
  (ring_setFld ..).trans (ring_recordFault ..)

theorem ring_ckptEvent (s : State) (st : Fin 8) : Same ring s (ckptEvent s st) := by
  unfold ckptEvent
  dsimp only
  split
  · exact (ring_ckptRecord ..).trans (ring_ckptFailed ..)
  · exact ring_modClp ..
  · exact .ite (ring_modSt ..) (Same.ite ((ring_submit ..).trans (ring_modSt ..)) (ring_submit ..))

theorem ring_ckptAfter (s : State) (st : Fin 8) : Same ring s (ckptAfter s st) :=
  .ite ((ring_modClp ..).trans (ring_ckptEvent ..)) (.refl _)

theorem ring_clearTouched (s : State) (st : Fin 8) : Same ring s (clearTouched s st) :=
  ring_modFil ..

/-! ### Checkpoints -/

theorem ring_modSlot (s : State) (n : Nat) (f : SealSlot → SealSlot) : Same ring s (s.modSlot n f) := by
  unfold State.modSlot
  split
  · exact ring_modBzl ..
  · exact .refl _

theorem ring_sealOut (s : State) (n opc flags : Nat) (addr : DWord) (data : List Byte) :
    Same ring s (sealOut s n opc flags addr data).2 := by
  unfold sealOut
  dsimp only
  exact ring_modSlot ..

theorem ring_endStream (s : State) (st : Fin 8) (status : Nat) : Same ring s (endStream s st status) :=
  (ring_modCkpt ..).trans (ring_modClp ..) |>.trans (ring_ckptRecord ..)

theorem ring_abandonStream (s : State) (st : Fin 8) (status : Nat) : Same ring s (abandonStream s st status) :=
  (ring_endStream ..).trans (ring_ckptFailed ..)

theorem ring_sendCkptData (st : Fin 8) (ctx : Nat) (acc : State × List Byte) (piece : Nat × Nat) :
    Same ring acc.1 (sendCkptData st ctx acc piece).1 := by
  unfold sendCkptData
  dsimp only
  split
  · exact (ring_sealOut ..).trans (ring_sendOp ..)
  · exact ring_sendOp ..

theorem ring_startStream (s : State) (st : Fin 8) : Same ring s (startStream s st) := by
  unfold startStream
  extract_lets c
  split
  next i ctx _ =>
    refine .ite (ring_abandonStream ..) ?_
    extract_lets x n pieces s1 s2 s3
    have h2 : Same ring s s2 := (ring_modCkpt ..).trans (ring_modClp ..) |>.trans (ring_raiseEvt ..)
    refine .ite (h2.trans (ring_drawFree ..) |>.trans (ring_abandonStream ..)) ?_
    have h4 := Same.foldl_fst (ring_sendCkptData st ctx) pieces (s3, [])
    exact h2.trans (ring_sendOp ..) |>.trans h4 |>.trans (ring_sendOp ..)
  · exact ring_abandonStream ..

theorem ring_ckptAck (s : State) (st : Fin 8) (ctx : Nat) (step : DWord) (status : Nat) :
    Same ring s (ckptAck s st ctx step status) :=
  .ite (Same.ite ((ring_endStream ..).trans (ring_setFld ..) |>.trans (ring_raiseEvt ..)) (ring_abandonStream ..))
    (.refl _)

theorem ring_ckptSessionLost (s : State) (st : Fin 8) (ctx : Nat) : Same ring s (ckptSessionLost s st ctx) :=
  .ite (ring_abandonStream ..) (.refl _)

/-! ### Collectives -/

theorem ring_chanRing (s : State) (st : Fin 8) (c : Nat) : Same ring s (chanRing s st c) :=
  ring_ringBits ..

theorem ring_chanStop (s : State) (st : Fin 8) (c : Nat) : Same ring s (chanStop s st c) :=
  (ring_modChan ..).trans (ring_chanRing ..)

theorem ring_chanFail (s : State) (st : Fin 8) (c det high : Nat) : Same ring s (chanFail s st c det high) :=
  (ring_recordFault ..).trans (ring_chanStop ..)

theorem ring_chanMemFail (s : State) (st : Fin 8) (c : Nat) (e : MemErr) : Same ring s (chanMemFail s st c e) :=
  (ring_memFault ..).trans (ring_chanStop ..)

theorem ring_sendSeg (s : State) (st : Fin 8) (c dest phase round index : Nat) (w : Int) (fl : WinFlags) (data :
    List Byte) :
    Same ring s (sendSeg s st c dest phase round index w fl data) :=
  ring_sendOp ..

theorem ring_setSub (s : State) (st : Fin 8) (c u : Nat) (w : Int) (fl : WinFlags) :
    Same ring s (setSub s st c u w fl) :=
  ring_modChan ..

theorem ring_sendUnit (st : Fin 8) (c phase round : Nat) (s : State) (u : Nat) :
    Same ring s (sendUnit st c phase round s u) := by
  unfold sendUnit
  dsimp only
  split
  · exact .refl _
  · split
    · exact ring_chanMemFail ..
    · exact ring_sendSeg ..

theorem ring_sendBlock (st : Fin 8) (c round a n : Nat) (s : State) (i : Nat) :
    Same ring s (sendBlock st c round a n s i) := by
  unfold sendBlock
  dsimp only
  split
  · exact .refl _
  · split
    · exact ring_chanMemFail ..
    · exact ring_sendSeg ..

theorem ring_sendRound (s : State) (st : Fin 8) (c : Nat) (gather : Bool) (round : Nat) :
    Same ring s (sendRound s st c gather round) :=
  .ite (Same.foldl (fun _ _ => ring_sendBlock ..) _ _) (Same.foldl (fun _ _ => ring_sendUnit ..) _ _)

theorem ring_endTile (st : Fin 8) (c : Nat) (s : State) (t : Nat) : Same ring s (endTile st c s t) := by
  unfold endTile
  dsimp only
  split
  · exact .refl _
  · split
    · exact ring_chanMemFail ..
    · split
      · exact ring_chanFail ..
      · split
        · next eq1 =>
            exact (Same.fst_of (ring_engWrite ..) eq1).trans (ring_chanMemFail ..)
        · next eq1 =>
            exact Same.fst_of (ring_engWrite ..) eq1

theorem ring_chanDone (s : State) (st : Fin 8) (c : Nat) : Same ring s (chanDone s st c) :=
  (ring_modChan ..).trans (ring_chanRing ..) |>.trans (ring_raiseEvt ..)

theorem ring_votesIn (s : State) (st : Fin 8) (c : Nat) : Same ring s (votesIn s st c) :=
  .ite (ring_chanDone ..) (.refl _)

theorem ring_chanFinish (s : State) (st : Fin 8) (c : Nat) : Same ring s (chanFinish s st c) :=
  .ite (Same.ite (Same.foldl (fun _ _ => ring_endTile ..) _ _) (.refl _)) (Same.ite ((Same.ite (Same.foldl
    (fun _ _ => ring_endTile ..) _ _) (.refl _) |>.trans (.foldl
    (fun _ _ => ring_sendSeg ..) _ _)).trans (ring_modChan ..) |>.trans (ring_modClp ..)
    |>.trans (ring_votesIn ..)) ((Same.ite (Same.foldl (fun _ _ => ring_endTile ..) _ _)
    (.refl _)).trans (ring_chanDone ..)))

theorem ring_pump (st : Fin 8) (c fuel : Nat) (s : State) : Same ring s (pump st c fuel s) := by
  induction fuel generalizing s with
  | zero => exact .refl _
  | succ fuel ih =>
    have hm := ring_modChan s st c
    rw [pump]
    exact .ite (.refl _) <| .ite ((hm _).trans (ih _)) <| .ite ((hm _).trans (ring_sendRound ..) |>.trans (ih _)) <|
      .ite (.refl _) <| .ite ((hm _).trans (ih _)) <| .ite ((hm _).trans (ring_sendRound ..) |>.trans (ih _)) <|
      .ite (.refl _) (ring_chanFinish ..)

theorem ring_chanPump (s : State) (st : Fin 8) (c : Nat) : Same ring s (chanPump s st c) :=
  ring_pump ..

theorem ring_copyOwn (s : State) (st : Fin 8) (c : Nat) : Same ring s (copyOwn s st c) := by
  unfold copyOwn
  extract_lets x n
  refine .ite (ring_chanFail ..) ?_
  split
  · exact ring_chanMemFail ..
  · split
    next eq => exact (Same.fst_of (ring_engWrite ..) eq).trans (ring_chanMemFail ..)
    next eq => exact .fst_of (ring_engWrite ..) eq

theorem ring_succStart (s : State) (st : Fin 8) (c : Nat) : Same ring s (succStart s st c) :=
  (ring_modChan ..).trans (ring_chanPump ..)

/-- Unfolded as in `ring_copyRow`. -/
theorem ring_chanStart (s : State) (st : Fin 8) (c : Nat) : Same ring s (chanStart s st c) := by
  obtain ⟨f, hf⟩ : ∃ f, f = chanStart := exists_eq
  obtain ⟨read, hr⟩ : ∃ f, f = engRead := exists_eq
  obtain ⟨place, hp⟩ : ∃ f, f = rangePlace := exists_eq
  obtain ⟨check, hc⟩ : ∃ f, f = regionCheck := exists_eq
  rw [← hf]
  delta chanStart at hf
  rw [← hr, ← hp, ← hc] at hf
  subst hf
  beta_reduce
  extract_lets step s0 base plan
  have h0 : Same ring s s0 := (ring_setFlag ..).trans (ring_modChan ..)
  refine .ite (h0.trans (ring_chanFail ..)) ?_
  split
  · exact h0.trans (ring_chanMemFail ..)
  split
  · exact h0.trans (ring_chanFail ..)
  extract_lets n
  split
  · exact h0.trans (ring_chanMemFail ..)
  extract_lets s1 x s2 s3 ready s4
  have h1 : Same ring s s1 := h0.trans (ring_modChan ..)
  split
  · exact h1.trans (ring_chanFail ..)
  split
  · exact h1.trans (ring_chanFail ..)
  have h2 : Same ring s s2 := h1.trans (.ite (ring_copyOwn ..) (.refl _))
  have h4 : Same ring s s4 := h2.trans (ring_sendSeg ..) |>.trans (ring_modChan ..)
  exact .ite h2 (.ite (h4.trans (ring_succStart ..)) h4)

theorem ring_chanTry (s : State) (st : Fin 8) (c : Nat) : Same ring s (chanTry s st c) :=
  .ite (ring_chanStart ..) (.refl _)

theorem ring_collEvent (s : State) (st : Fin 8) (c : Nat) : Same ring s (collEvent s st c) :=
  .ite ((ring_modChan ..).trans (ring_chanTry ..)) (ring_recordFault ..)

theorem ring_chanReadyWrite (s : State) (st : Fin 8) (v : Word) : Same ring s (chanReadyWrite s st v) :=
  ring_setReg .. |>.trans (.foldl (fun _ _ => ring_chanTry ..) _ _)

theorem ring_segVoid (s : State) (st : Fin 8) (g : Segment) : Same ring s (segVoid s st g) :=
  .ite (ring_modClp ..) (.refl _)

theorem ring_chanWrite (s : State) (st : Fin 8) (c a : Nat) (bs : List Byte) : Same ring s (chanWrite s st c a bs) := by
  unfold chanWrite
  split
  · next eq =>
      exact (Same.fst_of (ring_engWrite ..) eq).trans (ring_chanMemFail ..)
  · next eq =>
      exact Same.fst_of (ring_engWrite ..) eq

theorem ring_reduceSub (s : State) (st : Fin 8) (c : Nat) (g : Segment) : Same ring s (reduceSub s st c g) := by
  unfold reduceSub
  dsimp only
  split
  · exact ring_chanMemFail ..
  · split
    · exact ring_chanFail ..
    · exact ring_chanFail ..
    · exact (ring_setSub ..).trans (ring_chanWrite ..)

theorem ring_reduceF32 (s : State) (st : Fin 8) (c : Nat) (g : Segment) : Same ring s (reduceF32 s st c g) := by
  unfold reduceF32
  dsimp only
  split
  · exact ring_chanMemFail ..
  · exact ring_chanWrite ..

theorem ring_gatherUnit (s : State) (st : Fin 8) (c : Nat) (g : Segment) : Same ring s (gatherUnit s st c g) :=
  .ite (Same.ite (ring_chanFail ..) (Same.ite (ring_chanFail ..) (ring_chanWrite ..))) ((Same.ite (ring_setSub ..)
    (.refl _)).trans (ring_chanWrite ..))

theorem ring_segStep (s : State) (st : Fin 8) (g : Segment) (body : State → State) (hb : ∀ t, Same ring t (body t)) :
    Same ring s (segStep s st g body) :=
  .ite (ring_segVoid ..) (.ite ((ring_segVoid ..).trans (ring_chanFail ..)) ((ring_segVoid ..).trans (hb _)))

theorem ring_startSegment (s : State) (st : Fin 8) (g : Segment) : Same ring s (startSegment s st g) :=
  .ite (ring_segVoid ..) (Same.ite (Same.ite ((ring_segVoid ..).trans (ring_succStart ..)) (ring_segVoid ..))
    (Same.ite ((ring_segVoid ..).trans (ring_modChan ..)) ((ring_segVoid ..).trans (ring_chanFail ..))))

/-- A unit that was taken, and what it lets go on. -/
theorem ring_chanTaken {s t : State} (st : Fin 8) (c : Nat) (f : Channel → Channel) (h : Same ring s t) :
    Same ring s (if (t.chan st c).active then chanPump (t.modChan st c f) st c else t) :=
  .ite (h.trans (ring_modChan ..) |>.trans (ring_chanPump ..)) h

theorem ring_reduceSegment (s : State) (st : Fin 8) (g : Segment) : Same ring s (reduceSegment s st g) :=
  ring_segStep s st g _ fun _ => .ite (.refl _) <| ring_chanTaken st g.chan _ <|
    .ite (ring_reduceSub ..) (ring_reduceF32 ..)

theorem ring_gatherSegment (s : State) (st : Fin 8) (g : Segment) : Same ring s (gatherSegment s st g) :=
  ring_segStep s st g _ fun _ => .ite (.refl _) <| ring_chanTaken st g.chan _ (ring_gatherUnit ..)

theorem ring_voteSegment (s : State) (st : Fin 8) (g : Segment) : Same ring s (voteSegment s st g) :=
  .ite (ring_segVoid ..) (Same.ite ((ring_segVoid ..).trans (ring_chanFail ..)) (Same.ite ((ring_segVoid ..).trans
    (ring_modChan ..) |>.trans (ring_votesIn ..)) (ring_segVoid ..)))

theorem ring_collSessionLost (s : State) (st : Fin 8) (ctx : Nat) : Same ring s (collSessionLost s st ctx) := by
  unfold collSessionLost
  dsimp only
  exact .foldl (fun _ _ => by
      split
      · exact .ite (ring_chanFail ..) (.refl _)
      · exact .refl _) _ _

/-! ### Sessions -/

theorem ring_sessClosed (s : State) (st : Fin 8) (ctx : Nat) : Same ring s (sessClosed s st ctx) :=
  (ring_modSess ..).trans (ring_modSt ..) |>.trans (.foldl (fun _ _ => Same.foldl
      (fun _ _ => ring_modSeq ..) _ _) _ _) |>.trans (ring_collSessionLost ..) |>.trans (ring_ckptSessionLost ..)

theorem ring_sessFailed (s : State) (st : Fin 8) (ctx : Nat) : Same ring s (sessFailed s st ctx) :=
  (ring_modSess ..).trans (ring_raiseEvt ..) |>.trans (ring_collSessionLost ..) |>.trans (ring_ckptSessionLost ..)

theorem ring_sessOpened (s : State) (st : Fin 8) (ctx : Nat) : Same ring s (sessOpened s st ctx) :=
  (ring_modSess ..).trans (ring_raiseEvt ..)

theorem ring_closeIfIdle (s : State) (st : Fin 8) (ctx : Nat) : Same ring s (closeIfIdle s st ctx) :=
  .ite ((ring_modSess ..).trans (ring_sendPacket ..)) (.refl _)

theorem ring_requestClose (s : State) (st : Fin 8) (ctx : Nat) : Same ring s (requestClose s st ctx) :=
  .ite ((ring_modSess ..).trans (ring_closeIfIdle ..)) (.refl _)

theorem ring_answerClose (s : State) (st : Fin 8) (ctx : Nat) : Same ring s (answerClose s st ctx) :=
  (ring_sendPacket ..).trans (ring_sessClosed ..)

theorem ring_sendFragments (s : State) (st : Fin 8) (port link : Nat) (type : Byte) (dsid : Word) (body : List Byte)
    :
    Same ring s (sendFragments s st port link type dsid body) :=
  .foldl (fun _ _ => ring_send ..) _ _

theorem ring_sendReject (s : State) (st : Fin 8) (port link isid status : Nat) :
    Same ring s (sendReject s st port link isid status) :=
  ring_send ..

theorem ring_refuseCapacity (s : State) (st : Fin 8) (port link isid : Nat) :
    Same ring s (refuseCapacity s st port link isid) :=
  (ring_countSat ..).trans (ring_raiseEvt ..) |>.trans (ring_sendReject ..)

theorem ring_acceptInit (s : State) (st : Fin 8) (port link ctx : Nat) (body rnd : List Byte) :
    Same ring s (acceptInit s st port link ctx body rnd) :=
  (ring_modSess ..).trans (ring_sendFragments ..)

theorem ring_hsInit (s : State) (st : Fin 8) (port link : Nat) (body rnd : List Byte) :
    Same ring s (hsInit s st port link body rnd) := by
  unfold hsInit
  dsimp only
  split
  · exact ring_badPacket ..
  · split
    · exact ring_refuseCapacity ..
    · split
      · exact (ring_countSat ..).trans (ring_sendReject ..)
      · split
        · exact ring_refuseCapacity ..
        · exact ring_acceptInit ..

theorem ring_openEnds (s : State) (st : Fin 8) (status sid : Nat) : Same ring s (openEnds s st status sid) :=
  (ring_modSt ..).trans (ring_setReg ..) |>.trans (ring_setReg ..)

theorem ring_sendInit (s : State) (st : Fin 8) (ctx : Nat) (bs : List Byte) : Same ring s (sendInit s st ctx bs) := by
  unfold sendInit
  dsimp only
  exact (ring_freeBytes ..).trans (ring_freeBytes ..) |>.trans (ring_freeBytes ..) |>.trans (ring_modSess ..)
      |>.trans (ring_sendFragments ..)

theorem ring_kxtOpenGo (s : State) (r : Requester) (st : Fin 8) : Same ring s (kxtOpenGo s r st) := by
  unfold kxtOpenGo
  dsimp only
  split
  · exact .refl _
  · split
    · exact ring_openEnds ..
    · split
      · exact ring_openEnds ..
      · exact ring_openEnds ..
      · split
        · exact (ring_now ..).trans (ring_drawFree ..) |>.trans (ring_openEnds ..)
        · split
          · exact (ring_now ..).trans (ring_openEnds ..)
          · split
            · exact (ring_now ..).trans (ring_openEnds ..)
            · exact (ring_now ..).trans (ring_modSt ..) |>.trans (ring_sendInit ..) |>.trans (ring_setReg ..)

theorem ring_takeAck (s : State) (st : Fin 8) (ctx : Nat) (pn : DWord) (bs : List Byte) (sampleNs : Nat) :
    Same ring s (takeAck s st ctx pn bs sampleNs) :=
  .ite (.refl _) ((ring_modSess .. |>.trans (.foldl (fun _ _ => ring_sendData ..) _ _)).trans (ring_sendQueued ..)
    |>.trans (ring_closeIfIdle ..))

end Sys2Proof.Laws
end

section
/-! What resets, the Bezel, the Tense, power and binding leave of the ring. -/

-- One proof at a time: the stacks of many side by side would take the memory that the check allows.
set_option Elab.async false

namespace Sys2Proof.Laws

open Machine Safety

/-! ### Resets of blocks -/

theorem ring_rngCleared (s : State) (st : Fin 8) (c : Nat) : Same ring s (rngCleared s st c) :=
  ring_modCore ..

theorem ring_tablesCleared (s : State) (st : Fin 8) : Same ring s (tablesCleared s st) :=
  (ring_discardQueue ..).trans (ring_discardQueue ..) |>.trans (.foldl (fun _ _ => ring_clearPage ..) _ _)
      |>.trans (ring_modFil ..) |>.trans (ring_hotEmpty ..)

theorem ring_discardPage (s : State) (p : Page) : Same ring s (discardPage s p) :=
  .foldl (fun _ _ => ring_discardQueue ..) _ _

theorem ring_sessionsCleared (s : State) (st : Fin 8) : Same ring s (sessionsCleared s st) := by
  unfold sessionsCleared
  exact (Same.ite (ring_abandonStream ..) (.refl _) |>.trans (.foldl (fun _ _ => Same.foldl
      (fun _ _ => ring_modSeq ..) _ _) _ _)).trans (ring_modSt ..)

theorem ring_endAllWaiting (s : State) (st : Fin 8) : Same ring s (endAllWaiting s st) :=
  .foldl (fun _ _ => ring_endWaiting ..) _ _

theorem ring_stagedCleared (s : State) (st : Fin 8) : Same ring s (stagedCleared s st) :=
  .foldl (fun _ _ => ring_modRegion ..) _ _

theorem ring_softBlock (s : State) (p : Page) : Same ring s (softBlock s p) := by
  unfold softBlock
  dsimp only
  split
  · exact (ring_discardPage ..).trans (ring_modCore ..)
  · exact (ring_discardPage ..).trans (ring_modCore ..)
  · exact ring_rngCleared ..
  · exact (ring_discardPage ..).trans (ring_smpCleared ..)
  · exact ring_tablesCleared ..
  · exact ring_tablesCleared ..
  · split
    · exact ring_modSeq ..
    · exact .refl _
  · exact ring_endAllWaiting ..
  · exact ring_modClp ..
  · exact ring_modTns ..
  · exact ring_mbxReset ..
  · exact ring_modPort ..
  · exact ring_sessionsCleared ..
  · exact ring_discardPage ..
  · exact .refl _
  · exact (ring_discardPage ..).trans (ring_modSt ..) |>.trans (ring_stagedCleared ..)
  · exact .refl _
  · exact ring_modSt ..
  · exact ring_locketSoftReset ..
  · exact .refl _
  · exact .refl _
  · exact rfl

theorem ring_softReset (s : State) (p : Page) : Same ring s (softReset s p) :=
  .ite (.refl _) (Same.ite (ring_clpRefuse ..) (Same.ite (ring_recordPlain ..) ((ring_softBlock ..).trans
    (ring_clearPage ..) |>.trans (ring_setReg ..) |>.trans (ring_setFlag ..))))

theorem ring_primaryLost (s : State) : Same ring s (primaryLost s) :=
  (ring_modLkt ..).trans (ring_modBzl ..) |>.trans (ring_apart ..)

theorem ring_domainState (s : State) (st : Fin 8) (k : Nat) : Same ring s (domainState s st k) :=
  .ite (Same.foldl
    (fun _ _ => (ring_modCore ..).trans (ring_zeroPanel ..)) _ _) (Same.ite ((ring_modSt ..).trans
    (ring_endRefresh ..)) (Same.ite ((ring_sessionsCleared ..).trans (ring_modSt ..)) (Same.ite ((ring_zeroSram
    ..).trans (ring_modSt ..)) (Same.ite ((ring_loseKey ..).trans (ring_modSt ..)
    |>.trans (ring_primaryLost ..)) ((ring_loseKey ..).trans (ring_modSt ..))))))

theorem ring_domainLost (s : State) (st : Fin 8) (k : Nat) : Same ring s (domainLost s st k) :=
  ring_domainState .. |>.trans (.foldl (fun _ _ => (ring_clearPage ..).trans (ring_dropQueues ..)) _ _)

theorem ring_stackLost (s : State) (st : Fin 8) : Same ring s (stackLost s st) :=
  Same.foldl (fun _ _ => ring_domainLost ..) _ _ |>.trans (.foldl (fun _ _ => ring_setReg ..) _ _)

/-! ### The Bezel -/

theorem ring_bezelRecord (s : State) (code : Nat) (payload : List Byte) : Same ring s (bezelRecord s code payload) :=
  ring_locketRequest ..

theorem ring_bzlFault (s : State) (det info : Nat) : Same ring s (bzlFault s det info) :=
  .ite (ring_recordFault ..) ((ring_modBzl ..).trans (ring_pageFault ..))

theorem ring_heldWritten (s : State) : Same ring s (heldWritten s) := by
  unfold heldWritten
  exact (Same.foldl (fun _ _ => ring_addRequest ..) _ _).trans (ring_modBzl ..)

theorem ring_burnFuses (s : State) : Same ring s (burnFuses s) :=
  ring_modBzl ..

theorem ring_firmwareStarts (s : State) : Same ring s (firmwareStarts s) :=
  (ring_measExtend ..).trans (ring_measExtend ..) |>.trans (ring_measExtend ..) |>.trans (ring_modBzl ..) |>.trans
      (.foldl (fun _ _ => ring_modPwr ..) _ _) |>.trans (ring_heldWritten ..)

theorem ring_stageComplete (s : State) (j : Nat) : Same ring s (stageComplete s j) :=
  ring_setReg ..

theorem ring_domainsOn (s : State) (st : Fin 8) (mask : Nat) : Same ring s (domainsOn s st mask) :=
  ring_setReg ..

theorem ring_enterRecovery (s : State) : Same ring s (enterRecovery s) :=
  (ring_modBzl ..).trans (ring_setFld ..) |>.trans (ring_domainsOn ..) |>.trans (ring_loadNet ..)

theorem ring_bzlOutput (s : State) (bs : List Byte) : Same ring s (bzlOutput s bs) :=
  (ring_modSt ..).trans (ring_setReg ..)

theorem ring_bzlEnd (s : State) (st : Fin 8) (op status : Nat) : Same ring s (bzlEnd s st op status) :=
  .ite ((ring_setFld ..).trans (ring_raiseEvt ..)) ((ring_setFld ..).trans (ring_raiseEvt ..)
    |>.trans (ring_bezelRecord ..))

theorem ring_bzlIdentity (s : State) : Same ring s (bzlIdentity s) :=
  (ring_bzlOutput ..).trans (ring_bzlEnd ..)

theorem ring_bzlAttest (s : State) : Same ring s (bzlAttest s) :=
  .ite (ring_bzlEnd ..) ((ring_now ..).trans (ring_bzlOutput ..) |>.trans (ring_bzlEnd ..))

theorem ring_custodyAccept (s : State) (bs : List Byte) : Same ring s (custodyAccept s bs) :=
  (ring_modBzl ..).trans (ring_measExtend ..) |>.trans (ring_modLkt ..) |>.trans (ring_raiseEvt ..) |>.trans (.foldl
      (fun _ _ => ring_stackLost ..) _ _) |>.trans (ring_setReg ..)

theorem ring_bzlCustody (s : State) : Same ring s (bzlCustody s) :=
  .ite (ring_custodyAccept ..) (ring_bzlEnd ..)

theorem ring_closeRemoved (old new : Bezel) (s : State) (st : Fin 8) : Same ring s (closeRemoved old new s st) :=
  .foldl (fun _ _ => ring_answerClose ..) _ _

theorem ring_bzlConfig (s : State) : Same ring s (bzlConfig s) :=
  .ite (ring_bzlEnd ..) ((Same.ite ((ring_modBzl ..).trans (ring_measExtend ..)) ((ring_modBzl ..).trans
    (ring_measExtend ..) |>.trans (ring_measExtend ..) |>.trans (ring_raiseEvt ..)) |>.trans (.foldl
    (fun _ _ => ring_closeRemoved ..) _ _)).trans (ring_bzlEnd ..))

theorem ring_bzlSealEk (s : State) : Same ring s (bzlSealEk s) :=
  .ite (ring_bzlEnd ..) ((ring_bzlOutput ..).trans (ring_bzlEnd ..))

theorem ring_bzlSealKey (s : State) : Same ring s (bzlSealKey s) :=
  .ite (ring_bzlEnd ..) ((ring_modSlot ..).trans (ring_measExtend ..) |>.trans (ring_bzlEnd ..))

theorem ring_bzlSealDrop (s : State) : Same ring s (bzlSealDrop s) :=
  .ite (ring_bzlEnd ..) ((Same.foldl (fun _ _ => Same.ite (ring_modSlot ..) (.refl _)) _ _).trans (ring_bzlEnd ..))

theorem ring_bzlDebug (s : State) : Same ring s (bzlDebug s) :=
  .ite (ring_bzlEnd ..) ((ring_modBzl ..).trans (ring_measExtend ..) |>.trans (ring_bzlEnd ..)
    |>.trans (ring_raiseEvt ..) |>.trans (ring_bezelRecord ..))

theorem ring_bzlFwUpdate (s : State) : Same ring s (bzlFwUpdate s) :=
  .ite (ring_bzlEnd ..) (Same.ite ((ring_modBzl ..).trans (ring_measExtend ..) |>.trans (ring_modBzl ..)
    |>.trans (ring_firmwareStarts ..) |>.trans (ring_stageComplete ..) |>.trans (ring_stageComplete ..)
    |>.trans (ring_bzlEnd ..)) ((ring_modBzl ..).trans (ring_measExtend ..) |>.trans (ring_bzlEnd ..)))

theorem ring_bzlGo (s : State) (st : Fin 8) (op : Nat) : Same ring s (bzlGo s st op) := by
  unfold bzlGo
  split
  · exact .refl _
  · split
    · exact ring_bzlEnd ..
    · split
      · exact ring_bzlIdentity ..
      · exact ring_bzlAttest ..
      · exact ring_bzlCustody ..
      · exact ring_bzlConfig ..
      · exact ring_bzlSealEk ..
      · exact ring_bzlSealKey ..
      · exact ring_bzlSealDrop ..
      · exact ring_bzlDebug ..
      · exact ring_bzlFwUpdate ..

theorem ring_bzlWordWrite (s : State) (st : Fin 8) (off : Nat) (v : Word) : Same ring s (bzlWordWrite s st off v) := by
  unfold bzlWordWrite
  exact ring_modSt ..

theorem ring_mgmtRestart (s : State) (st : Fin 8) (missed : Nat) : Same ring s (mgmtRestart s st missed) :=
  Same.ite ((ring_modArb ..).trans (ring_recordFault ..) |>.trans (ring_drawFree ..)
      |>.trans (ring_abandonStream ..)) ((ring_modArb ..).trans (ring_recordFault ..)) |>.trans (.foldl
      (fun _ _ => ring_endWaiting ..) _ _)

theorem ring_portsToward (s : State) (st : Fin 8) : Same ring s (portsToward s st) :=
  .foldl (fun _ _ => Same.foldl (fun _ _ => Same.ite ((ring_setFlag ..).trans (ring_raiseEvt ..))
    (.refl _)) _ _) _ _

theorem ring_holdStack (s : State) (st : Fin 8) : Same ring s (holdStack s st) :=
  (ring_stackLost ..).trans (ring_portsToward ..) |>.trans (ring_modPwr ..)

/-! ### The Tense -/

theorem ring_missPassed (s : State) (st : Fin 8) (now : Nat) : Same ring s (missPassed s st now) :=
  .foldl (fun _ _ => (ring_modTns ..).trans (ring_raiseEvt ..)) _ _

theorem ring_deferSlot (st : Fin 8) (s : State) (e : Nat × Slot) : Same ring s (deferSlot st s e) :=
  (Same.ite ((ring_modTns ..).trans (ring_recordFault ..)) (ring_modTns ..)).trans (ring_raiseEvt ..)

theorem ring_fireSlot (st : Fin 8) (now : Nat) (s : State) (e : Nat × Slot) : Same ring s (fireSlot st now s e) :=
  .ite ((ring_modTns ..).trans (ring_raiseEvt ..) |>.trans (ring_modTns ..)
    |>.trans (ring_raiseEvt ..)) ((ring_modTns ..).trans (ring_raiseEvt ..))

theorem ring_evalSlots (s : State) (st : Fin 8) : Same ring s (evalSlots s st).1 :=
  ring_modTns .. |>.trans (.foldl (fun _ _ => ring_deferSlot ..) _ _) |>.trans (.foldl
      (fun _ _ => ring_fireSlot ..) _ _)

theorem ring_lockAt (s : State) (st : Fin 8) (t period number : Nat) : Same ring s (lockAt s st t period number) :=
  (ring_modTns ..).trans (ring_raiseEvt ..) |>.trans (ring_missPassed ..)

theorem ring_keptCount (s : State) (st : Fin 8) (number : Option Nat) : Same ring s (keptCount s st number) := by
  unfold keptCount
  split
  · dsimp only
    exact .ite (ring_modTns ..) ((ring_modTns ..).trans (ring_locketRequest ..))
  · exact .refl _

theorem ring_acquireEdge (s : State) (st : Fin 8) (t : Nat) (number : Option Nat) :
    Same ring s (acquireEdge s st t number) := by
  unfold acquireEdge
  split
  · exact ring_modTns ..
  · dsimp only
    exact .ite (ring_modTns ..) ((ring_modTns ..).trans (ring_recordFault ..))
  · dsimp only
    exact .ite ((ring_keptCount ..).trans (ring_lockAt ..)) (ring_modTns ..)

theorem ring_numberCheck (s : State) (st : Fin 8) (beat number : Nat) : Same ring s (numberCheck s st beat number) :=
  .ite (.refl _) ((ring_modTns ..).trans (ring_recordFault ..))

theorem ring_trackEdge (s : State) (st : Fin 8) (t : Nat) (number : Option Nat) :
    Same ring s (trackEdge s st t number) := by
  unfold trackEdge
  dsimp only
  split
  · split
    · split
      · exact (Same.ite ((ring_modTns ..).trans (ring_raiseEvt ..)) (ring_modTns ..)).trans (ring_numberCheck ..)
      · exact .ite ((ring_modTns ..).trans (ring_raiseEvt ..)) (ring_modTns ..)
    · exact (ring_countSat ..).trans (ring_raiseEvt ..)
  · split
    · split
      · exact (Same.ite ((ring_modTns ..).trans (ring_raiseEvt ..)) (ring_modTns ..)).trans (ring_numberCheck ..)
      · exact .ite ((ring_modTns ..).trans (ring_raiseEvt ..)) (ring_modTns ..)
    · exact (ring_countSat ..).trans (ring_raiseEvt ..)

theorem ring_tnsEdge (s : State) (st : Fin 8) (t : Nat) (number : Option Nat) : Same ring s (tnsEdge s st t number) := by
  unfold tnsEdge
  split
  · exact .refl _
  · split
    · exact .refl _
    · exact ring_acquireEdge ..
    · exact ring_acquireEdge ..
    · exact ring_trackEdge ..
    · exact ring_trackEdge ..

theorem ring_tnsFrame (s : State) (st : Fin 8) (number t : Nat) : Same ring s (tnsFrame s st number t) := by
  unfold tnsFrame
  split
  · exact ring_tnsEdge ..
  · dsimp only
    exact .ite (ring_numberCheck ..) (ring_modTns ..)
  · exact .refl _

theorem ring_sleepEdge (s : State) (st : Fin 8) : Same ring s (sleepEdge s st) :=
  .ite (.refl _) (ring_modTns ..)

theorem ring_beatCrossing (s : State) (st : Fin 8) (t : Nat) : Same ring s (beatCrossing s st t) :=
  .ite (ring_sleepEdge ..) (Same.ite (.refl _) (ring_tnsEdge ..))

theorem ring_beatBoundary (s : State) (st : Fin 8) : Same ring s (beatBoundary s st) := by
  unfold beatBoundary
  exact ring_modTns ..

theorem ring_tickEdge (s : State) (st : Fin 8) : Same ring s (tickEdge s st).1 := by
  unfold tickEdge
  dsimp only
  split
  · dsimp only
    exact .refl _
  · split
    · dsimp only
      exact .ite (ring_beatBoundary ..) (ring_modTns ..)
    · exact (Same.ite (ring_beatBoundary ..) (ring_modTns ..)).trans (ring_missPassed ..)
          |>.trans (ring_evalSlots ..)

theorem ring_tnsStart (s : State) (st : Fin 8) : Same ring s (tnsStart s st) :=
  .ite (.refl _) ((ring_setFlag ..).trans (ring_modTns ..))

theorem ring_tnsHalt (s : State) (st : Fin 8) : Same ring s (tnsHalt s st) :=
  (ring_setFlag ..).trans (ring_modTns ..)

theorem ring_tnsCtrlWrite (s : State) (st : Fin 8) (v : Word) : Same ring s (tnsCtrlWrite s st v) :=
  .ite ((Same.ite ((Same.ite ((Same.ite (ring_setFld ..)
    (.refl _)).trans (ring_setFld ..)) (Same.ite (ring_setFld ..)
    (.refl _))).trans (ring_setFld ..)) (Same.ite ((Same.ite (ring_setFld ..)
    (.refl _)).trans (ring_setFld ..)) (Same.ite (ring_setFld ..)
    (.refl _)))).trans (ring_tnsStart ..)) (Same.ite ((Same.ite ((Same.ite ((Same.ite (ring_setFld ..)
    (.refl _)).trans (ring_setFld ..)) (Same.ite (ring_setFld ..)
    (.refl _))).trans (ring_setFld ..)) (Same.ite ((Same.ite (ring_setFld ..)
    (.refl _)).trans (ring_setFld ..)) (Same.ite (ring_setFld ..)
    (.refl _)))).trans (ring_tnsHalt ..)) (Same.ite ((Same.ite ((Same.ite (ring_setFld ..)
    (.refl _)).trans (ring_setFld ..)) (Same.ite (ring_setFld ..)
    (.refl _))).trans (ring_setFld ..)) (Same.ite ((Same.ite (ring_setFld ..)
    (.refl _)).trans (ring_setFld ..)) (Same.ite (ring_setFld ..) (.refl _)))))

theorem ring_slotCfgWrite (s : State) (st : Fin 8) (v : Word) : Same ring s (slotCfgWrite s st v) :=
  .ite ((ring_modTns ..).trans (ring_recordFault ..)) (ring_modTns ..)

theorem ring_disarmSlots (s : State) (st : Fin 8) : Same ring s (disarmSlots s st) :=
  ring_modTns ..

/-! ### Power -/

theorem ring_setTransit (s : State) (st : Fin 8) (k : Nat) (b : Bool) : Same ring s (setTransit s st k b) :=
  ring_setFlag ..

theorem ring_quiescePage (s : State) (p : Page) : Same ring s (quiescePage s p) :=
  (ring_setFlag ..).trans (ring_quiesceRise ..)

theorem ring_startUp (s : State) (st : Fin 8) (k : Nat) : Same ring s (startUp s st k) :=
  (ring_setTransit ..).trans (ring_setFlag ..)

theorem ring_startDown (s : State) (st : Fin 8) (k : Nat) : Same ring s (startDown s st k) :=
  ring_setTransit .. |>.trans (.foldl (fun _ _ => ring_quiescePage ..) _ _)

theorem ring_applyDomains (s : State) (st : Fin 8) : Same ring s (applyDomains s st) :=
  .ite (.refl _) (Same.foldl (fun _ _ => Same.ite
    (.refl _) (Same.ite (ring_startUp ..) (Same.ite (ring_startDown ..) (.refl _)))) _ _)

theorem ring_domRequest (s : State) (st : Fin 8) (v : Word) : Same ring s (domRequest s st v) :=
  (Same.ite ((ring_setReg ..).trans (ring_setFlag ..)) (ring_setReg ..)).trans (ring_setFld ..)
      |>.trans (ring_applyDomains ..)

theorem ring_linksFollow (s : State) : Same ring s (linksFollow s) :=
  .foldl (fun _ _ => Same.foldl (fun _ _ => Same.ite (ring_setFlag ..) (.refl _)) _ _) _ _

theorem ring_trainPorts (s : State) (st : Fin 8) : Same ring s (trainPorts s st) :=
  .foldl (fun _ _ => Same.ite ((ring_setFlag ..).trans (ring_setFlag ..)) (.refl _)) _ _

theorem ring_trainMemory (s : State) (st : Fin 8) (failed : List Nat) : Same ring s (trainMemory s st failed) :=
  .foldl (fun _ _ => ring_setFlag ..) _ _

theorem ring_domainInit (s : State) (st : Fin 8) (k : Nat) : Same ring s (domainInit s st k) := by
  unfold domainInit
  split
  · dsimp only
    exact .ite ((ring_loadNet ..).trans (ring_trainPorts ..)) (ring_loadNet ..)
  · dsimp only
    exact .ite ((ring_loadSpares ..).trans (ring_trainMemory ..)) (ring_loadSpares ..)
  · exact .refl _

theorem ring_upDone (s : State) (st : Fin 8) (k : Nat) : Same ring s (upDone s st k) :=
  .ite ((ring_setTransit ..).trans (ring_setFlag ..) |>.trans (ring_domainInit ..) |>.trans (ring_raiseEvt ..)
    |>.trans (ring_applyDomains ..)) (.refl _)

theorem ring_downDone (s : State) (st : Fin 8) (k : Nat) : Same ring s (downDone s st k) :=
  .ite (Same.ite ((ring_domainLost ..).trans (ring_linksFollow ..)
    |>.trans (ring_setReg ..)) ((ring_domainLost ..).trans (ring_setTransit ..) |>.trans (ring_setFlag ..)
    |>.trans (ring_linksFollow ..) |>.trans (ring_raiseEvt ..) |>.trans (ring_applyDomains ..))) (.refl _)

theorem ring_moduleDomain (s : State) (dom : Nat) (up : Bool) : Same ring s (moduleDomain s dom up) :=
  .ite (Same.ite (ring_setFlag ..) (.refl _)) (Same.ite (Same.ite (ring_setFlag ..) (.refl _)) (.refl _))

theorem ring_switchLevel (s : State) (st : Fin 8) (n : Nat) : Same ring s (switchLevel s st n) :=
  .ite (.refl _) ((Same.ite (ring_countSat ..) (.refl _)).trans (ring_setFld ..) |>.trans (ring_raiseEvt ..))

theorem ring_avsError (s : State) (st : Fin 8) (status : Nat) : Same ring s (avsError s st status) :=
  (ring_setFlag ..).trans (ring_recordFault ..)

theorem ring_holdLevel (s : State) (st : Fin 8) : Same ring s (holdLevel s st) := by
  unfold holdLevel
  exact (ring_switchLevel ..).trans (ring_modPwr ..)

theorem ring_avsWrite (s : State) (st : Fin 8) (n : Nat) (fail : Option Nat) : Same ring s (avsWrite s st n fail).1 := by
  unfold avsWrite
  dsimp only
  split
  · dsimp only
    exact (ring_setFld ..).trans (ring_setFld ..)
  · dsimp only
    exact (ring_setFld ..).trans (ring_avsError ..) |>.trans (ring_holdLevel ..)

theorem ring_seekLevel (s : State) (st : Fin 8) (fail : Option Nat) : Same ring s (seekLevel s st fail) := by
  unfold seekLevel
  dsimp only
  split
  · exact .refl _
  · split
    · exact (ring_switchLevel ..).trans (ring_avsWrite ..)
    · split
      · next eq =>
          exact (Same.fst_of (ring_avsWrite ..) eq).trans (ring_modPwr ..)
      · next eq =>
          exact Same.fst_of (ring_avsWrite ..) eq

theorem ring_windowPower (s : State) (tenthWatts mute : List Nat) : Same ring s (windowPower s tenthWatts mute) :=
  .ite (Same.foldl (fun _ _ => Same.ite (ring_avsError ..) (ring_setReg ..)) _ _) ((Same.foldl
    (fun _ _ => Same.ite (ring_avsError ..) (ring_setReg ..)) _ _).trans (ring_setReg ..))

theorem ring_measureTemp (s : State) (st : Fin 8) (quarterC : Int) : Same ring s (measureTemp s st quarterC) :=
  (ring_setReg ..).trans (ring_modPwr ..)

theorem ring_capWrite (s : State) (v : Nat) : Same ring s (capWrite s v) :=
  ring_setReg ..

theorem ring_thermWrite (s : State) (v : Nat) : Same ring s (thermWrite s v) :=
  ring_setReg ..

theorem ring_setCause (s : State) (v : Nat) : Same ring s (setCause s v) :=
  ring_setReg ..

theorem ring_allLost (s : State) : Same ring s (allLost s) :=
  (Same.foldl (fun _ _ => ring_stackLost ..) _ _).trans (ring_modPm ..)

theorem ring_moduleReset (s : State) (cause : Nat) : Same ring s (moduleReset s cause) :=
  (ring_allLost .. |>.trans (.foldl (fun _ _ => ring_modSt ..) _ _)).trans (ring_setCause ..)

theorem ring_ctlReset (s : State) (st : Fin 8) : Same ring s (ctlReset s st) :=
  .ite ((ring_allLost ..).trans (ring_setCause ..)) ((ring_stackLost ..).trans (ring_linksFollow ..))

theorem ring_powerOn (s : State) : Same ring s (powerOn s) := rfl

theorem ring_sleepGo (s : State) (v : Word) : Same ring s (sleepGo s v) :=
  .ite (.refl _) (Same.ite ((ring_setReg ..).trans (ring_raiseEvt ..)) (Same.ite ((ring_modPm ..).trans
    (ring_setFlag ..)) (ring_modPm ..) |>.trans (.foldl (fun _ _ => Same.foldl
    (fun _ _ => Same.ite (ring_startDown ..) (.refl _)) _ _) _ _)))

theorem ring_tenseWakes (s : State) : Same ring s (tenseWakes s) :=
  .foldl (fun _ _ => ring_modTns ..) _ _

theorem ring_domainsReturn (saved : List (BitVec 8)) (s : State) (st : Fin 8) : Same ring s (domainsReturn saved s st) :=
  .foldl (fun _ _ => Same.ite (.refl _) (Same.ite (ring_setTransit .. |>.trans (.foldl
    (fun _ _ => ring_setFlag ..) _ _)) (ring_startUp ..))) _ _

theorem ring_rtcSet (s : State) (lo : Word) : Same ring s (rtcSet s lo) := by
  unfold rtcSet
  exact (ring_apart ..).trans (ring_setReg ..) |>.trans (ring_setReg ..) |>.trans (ring_modPm ..)

theorem ring_hardRepairs (s : State) : Same ring s (hardRepairs s) :=
  .foldl (fun _ _ => ring_addRequest ..) _ _

theorem ring_stage1 (s : State) (unpaired : List Nat) : Same ring s (stage1 s unpaired) :=
  .ite ((Same.ite ((ring_countPair ..).trans (ring_modBzl ..) |>.trans (ring_measExtend ..) |>.trans (ring_modPm ..)
    |>.trans (ring_recordFault ..)) ((ring_countPair ..).trans (ring_modBzl ..) |>.trans (ring_measExtend ..))
    |>.trans (.foldl
    (fun _ _ => ring_modPwr ..) _ _)).trans (ring_stageComplete ..)) ((Same.ite ((ring_countPair ..).trans
    (ring_modBzl ..) |>.trans (ring_measExtend ..) |>.trans (ring_modPm ..)
    |>.trans (ring_recordFault ..)) ((ring_countPair ..).trans (ring_modBzl ..) |>.trans (ring_measExtend ..))
    |>.trans (.foldl (fun _ _ => ring_modPwr ..) _ _) |>.trans (.foldl
    (fun _ _ => ring_bzlFault ..) _ _)).trans (ring_calStartup ..) |>.trans (ring_modBzl ..)
    |>.trans (ring_enterRecovery ..))

theorem ring_stage2 (s : State) : Same ring s (stage2 s) := by
  unfold stage2
  split
  · exact (ring_bzlFault ..).trans (ring_calStartup ..) |>.trans (ring_enterRecovery ..)
  · exact (ring_calStartup ..).trans (ring_firmwareStarts ..) |>.trans (ring_stageComplete ..)

theorem ring_stackPowered (s : State) (st : Fin 8) : Same ring s (stackPowered s st) :=
  (ring_domainsOn ..).trans (ring_setReg ..) |>.trans (ring_loadVolts ..) |>.trans (ring_loadNet ..)
      |>.trans (ring_loadSpares ..)

theorem ring_stage4 (s : State) (untrained : List (Nat × Nat)) : Same ring s (stage4 s untrained) :=
  (Same.ite ((Same.foldl (fun _ _ => ring_trainMemory ..) _ _).trans (ring_hardRepairs ..) |>.trans (.foldl
      (fun _ _ => ring_recordFault ..) _ _)) ((Same.foldl
      (fun _ _ => ring_trainMemory ..) _ _).trans (ring_hardRepairs ..) |>.trans (.foldl
      (fun _ _ => ring_recordFault ..) _ _) |>.trans (ring_setFlag ..))).trans (ring_stageComplete ..)

theorem ring_stage7 (s : State) (fuseOk : Bool) : Same ring s (stage7 s fuseOk) :=
  (Same.ite (ring_burnFuses ..) (ring_bzlFault ..)).trans (ring_stageComplete ..) |>.trans (ring_raiseEvt ..)

theorem ring_stackReturns (s : State) (st : Fin 8) : Same ring s (stackReturns s st) :=
  (ring_modPwr ..).trans (ring_loadVolts ..) |>.trans (ring_loadSpares ..) |>.trans (ring_setReg ..)
      |>.trans (ring_applyDomains ..)

/-! ### Binding -/

theorem ring_bindRecord (s : State) (st : Fin 8) (first count outcome reason : Nat) (plan : BitVec 16) (ticket :
    Nat) :
    Same ring s (bindRecord s st first count outcome reason plan ticket) :=
  ring_locketRequest ..

theorem ring_bindStat (s : State) (st : Fin 8) (r : Res) (state : Nat) (pending : BitVec 16) :
    Same ring s (bindStat s st r state pending) := by
  unfold bindStat
  dsimp only
  split
  · exact ring_modRegion ..
  · exact ring_setReg ..
  · exact .foldl (fun _ _ => ring_setReg ..) _ _

theorem ring_discardAhead (s : State) (st : Fin 8) (c : Nat) : Same ring s (discardAhead s st c) :=
  ring_modQueue ..

theorem ring_startQuiesce (s : State) (st : Fin 8) (plan : BitVec 16) (r : Res) :
    Same ring s (startQuiesce s st plan r) := by
  unfold startQuiesce
  dsimp only
  split
  · exact (ring_bindStat .. |>.trans (.foldl (fun _ _ => (Same.foldl
        (fun _ _ => ring_discardWaiting ..) _ _).trans (ring_quiescePage ..)) _ _)).trans (ring_discardAhead ..)
  · exact (ring_bindStat .. |>.trans (.foldl (fun _ _ => (Same.foldl
        (fun _ _ => ring_discardWaiting ..) _ _).trans (ring_quiescePage ..)) _ _)).trans (ring_discardWaiting ..)
  · exact .ite ((ring_bindStat .. |>.trans (.foldl (fun _ _ => (Same.foldl
        (fun _ _ => ring_discardWaiting ..) _ _).trans (ring_quiescePage ..)) _ _)).trans (ring_modSeq ..)
        |>.trans (ring_seqRest ..)) (ring_bindStat .. |>.trans (.foldl (fun _ _ => (Same.foldl
        (fun _ _ => ring_discardWaiting ..) _ _).trans (ring_quiescePage ..)) _ _))
  · exact ring_bindStat .. |>.trans (.foldl (fun _ _ => (Same.foldl
        (fun _ _ => ring_discardWaiting ..) _ _).trans (ring_quiescePage ..)) _ _) |>.trans (.foldl
        (fun _ _ => ring_requestClose ..) _ _)
  · exact ring_bindStat .. |>.trans (.foldl (fun _ _ => (Same.foldl
        (fun _ _ => ring_discardWaiting ..) _ _).trans (ring_quiescePage ..)) _ _)

theorem ring_rebindGo (s : State) (r : Requester) (st : Fin 8) (v : Word) : Same ring s (rebindGo s r st v) :=
  .ite (.refl _) (Same.ite ((ring_modArb ..).trans (ring_setReg ..) |>.trans (ring_bindRecord ..)
    |>.trans (ring_raiseEvt ..)) ((ring_modArb ..).trans (ring_setReg ..) |>.trans (ring_modArb ..) |>.trans (.foldl
    (fun _ _ => ring_startQuiesce ..) _ _)))

theorem ring_modMoving (s : State) (st : Fin 8) (code phase : Nat) : Same ring s (modMoving s st code phase) :=
  ring_modArb ..

theorem ring_enterScrub (s : State) (st : Fin 8) (code : Nat) (c : RebindCmd) (r : Res) :
    Same ring s (enterScrub s st code c r) := by
  unfold enterScrub
  split
  · exact .ite ((ring_bindStat ..).trans (ring_modMoving ..)
        |>.trans (ring_submit ..)) ((ring_bindStat ..).trans (ring_modMoving ..))
  · exact (ring_bindStat ..).trans (ring_modMoving ..)

theorem ring_scrub (s : State) (st : Fin 8) (r : Res) : Same ring s (scrub s st r) := by
  unfold scrub
  split
  · exact (ring_modCore ..).trans (ring_zeroPanel ..) |>.trans (.foldl
        (fun _ _ => (ring_clearPage ..).trans (ring_setReg ..)) _ _)
  · dsimp only
    split
    · exact (ring_discardQueue ..).trans (ring_modSt ..)
    · exact ring_discardQueue ..
  · exact (ring_discardQueue ..).trans (ring_setFlag ..) |>.trans (ring_hotEmpty ..)
  · exact (ring_discardQueue ..).trans (ring_modFil ..)
  · exact ring_modSeq ..
  · exact ring_disarmSlots ..
  · exact (ring_discardPage ..).trans (ring_modSt ..)
  · exact ring_discardPage ..
  · exact .foldl (fun _ _ => Same.ite (.refl _) (ring_sessClosed ..)) _ _
  · dsimp only
    exact (Same.ite (ring_zeroRange ..) (.refl _)).trans (ring_dropActivity ..)
  · exact .refl _

theorem ring_handOver (s : State) (st : Fin 8) (c : RebindCmd) (r : Res) : Same ring s (handOver s st c r) := by
  unfold handOver
  dsimp only
  refine .trans ?_ (.foldl (fun _ _ => ring_raiseEvt ..) _ _)
  split
  · exact (ring_bindStat .. |>.trans (.foldl
        (fun _ _ => (ring_setReg ..).trans (ring_setFlag ..)) _ _)).trans (ring_modRegion ..)
  · split
    · exact (ring_bindStat .. |>.trans (.foldl
          (fun _ _ => (ring_setReg ..).trans (ring_setFlag ..)) _ _)).trans (ring_setReg ..)
    · exact ring_bindStat .. |>.trans (.foldl (fun _ _ => (ring_setReg ..).trans (ring_setFlag ..)) _ _)

theorem ring_commandDone (s : State) (st : Fin 8) (c : RebindCmd) (code : Nat) : Same ring s (commandDone s st c code) :=
  .ite ((Same.ite (ring_setFld ..)
    (.refl _)).trans (ring_modArb ..)) ((Same.ite (Same.ite ((Same.ite (ring_setFld ..)
    (.refl _)).trans (ring_modArb ..) |>.trans (ring_setFld ..)) ((Same.ite (ring_setFld ..)
    (.refl _)).trans (ring_modArb ..))) ((Same.ite ((Same.ite (ring_setFld ..) (.refl _)).trans (ring_modArb ..)
    |>.trans (ring_setFld ..)) ((Same.ite (ring_setFld ..)
    (.refl _)).trans (ring_modArb ..))).trans (ring_raiseEvt ..))).trans (ring_bindRecord ..))

end Sys2Proof.Laws
end

section
/-! What register reads, register writes, a tick, the buses, the operations of the host and the restore leave of the ring. -/

-- One proof at a time: the stacks of many side by side would take the memory that the check allows.
set_option Elab.async false

namespace Sys2Proof.Laws

open Machine Safety

/-! ### Register reads -/

theorem ring_pairNow (s : State) (p : Page) (lo : Nat) : Same ring s (pairNow s p lo).2.2 := by
  unfold pairNow
  split
  · exact ring_now ..
  · exact .refl _

theorem ring_readReg (s : State) (r : Requester) (p : Page) (off : Nat) : Same ring s (readReg s r p off).2 := by
  unfold readReg
  extract_lets k v
  split
  · exact (ring_pairNow ..).trans (ring_apart ..)
  split
  · split
    · exact ring_apart ..
    · exact ring_pairNow ..
  split
  · exact ring_mboxRead ..
  split
  · exact ring_winRead ..
  split
  · exact ring_winRead ..
  split
  · split
    · exact .refl _
    · exact ring_setReg ..
  · exact .refl _

/-! ### Register writes -/

theorem ring_storedWrite (s : State) (p : Page) (off : Nat) (v : Word) : Same ring s (storedWrite s p off v) := by
  unfold storedWrite
  split
  · exact .refl _
  · dsimp only
    exact ring_setReg ..

theorem ring_ctrlWrite (s : State) (p : Page) (v : Word) : Same ring s (ctrlWrite s p v) :=
  .ite ((ring_storedWrite ..).trans (ring_setFlag ..) |>.trans (ring_quiesceRise ..)
    |>.trans (ring_softReset ..)) ((ring_storedWrite ..).trans (ring_setFlag ..) |>.trans (ring_quiesceRise ..))

theorem ring_evtSettle (s : State) (p : Page) : Same ring s (evtSettle s p) :=
  .ite (ring_modSt ..) (.refl _)

theorem ring_evtEnable (s : State) (p : Page) (v : Word) : Same ring s (evtEnable s p v) :=
  (ring_setReg ..).trans (ring_lineRise ..) |>.trans (ring_evtSettle ..)

theorem ring_xfrRelease (s : State) (st : Fin 8) : Same ring s (xfrRelease s st) := by
  unfold xfrRelease
  exact (Same.foldl (fun _ _ => Same.ite (ring_discardQueue ..) (.refl _)) _ _).trans (ring_modSt ..)

theorem ring_chanRelease (s : State) (st : Fin 8) : Same ring s (chanRelease s st) :=
  .foldl (fun _ _ => Same.ite (ring_modChan ..) (.refl _)) _ _

theorem ring_faultRelease (s : State) (p : Page) : Same ring s (faultRelease s p) := by
  unfold faultRelease
  split
  · exact ring_smpClear ..
  · exact ring_xfrRelease ..
  · exact ring_chanRelease ..
  · exact .refl _

theorem ring_evtClear (s : State) (p : Page) (v : Word) : Same ring s (evtClear s p v) :=
  (Same.ite ((Same.ite (ring_setReg .. |>.trans (.foldl
      (fun _ _ => ring_setReg ..) _ _)) (ring_setReg ..)).trans (ring_setReg ..) |>.trans (ring_setReg ..)
      |>.trans (ring_setPair ..) |>.trans (ring_faultRelease ..)) (Same.ite (ring_setReg .. |>.trans (.foldl
      (fun _ _ => ring_setReg ..) _ _)) (ring_setReg ..))).trans (ring_evtSettle ..)

theorem ring_writeHeader (s : State) (p : Page) (off : Nat) (v : Word) : Same ring s (writeHeader s p off v) := by
  unfold writeHeader
  split
  · exact ring_ctrlWrite ..
  · exact ring_evtEnable ..
  · exact ring_evtClear ..
  · exact .refl _

theorem ring_writeClp (s : State) (st : Fin 8) (off : Nat) (v : Word) : Same ring s (writeClp s st off v) := by
  unfold writeClp
  split
  · exact .ite (.refl _) (ring_clpCmd ..)
  · exact .ite (ring_storedWrite ..) (.refl _)
  · exact ring_storedWrite ..

theorem ring_writeTns (s : State) (st : Fin 8) (off : Nat) (v : Word) : Same ring s (writeTns s st off v) := by
  unfold writeTns
  split
  · exact ring_tnsCtrlWrite ..
  · exact ring_slotCfgWrite ..
  · exact ring_modTns ..
  · exact ring_storedWrite ..

theorem ring_writeMx (s : State) (st : Fin 8) (c off : Nat) (v : Word) : Same ring s (writeMx s st c off v) := by
  unfold writeMx
  split
  · exact ring_mxCfgWrite ..
  · exact ring_mxFlagsWrite ..
  · exact ring_storedWrite ..

theorem ring_writeRng (s : State) (st : Fin 8) (c off : Nat) (v : Word) : Same ring s (writeRng s st c off v) := by
  unfold writeRng
  split
  · dsimp only
    exact .ite ((ring_storedWrite ..).trans (ring_requestReseed ..)) (ring_storedWrite ..)
  · exact ring_modKeys ..
  · exact ring_modKeys ..
  · exact ring_modKeys ..
  · exact ring_modKeys ..
  · exact ring_modKeys ..
  · exact ring_modKeys ..
  · exact ring_modKeys ..
  · exact ring_modKeys ..
  · dsimp only
    exact .ite ((Same.ite (ring_commitStepKey ..)
        (.refl _)).trans (ring_commitEvalKey ..)) (Same.ite (ring_commitStepKey ..) (.refl _))
  · exact ring_modKeys ..
  · exact ring_storedWrite ..

theorem ring_writeBead (s : State) (st : Fin 8) (off : Nat) (v : Word) : Same ring s (writeBead s st off v) := by
  unfold writeBead
  split
  · dsimp only
    exact (Same.ite (.refl _) ((ring_storedWrite ..).trans (ring_setFlag ..))).trans (ring_hsEnWrite ..)
  · exact .ite (.refl _) (ring_storedWrite ..)

theorem ring_writeFil (s : State) (st : Fin 8) (off : Nat) (v : Word) : Same ring s (writeFil s st off v) :=
  .ite (ring_setFlag ..) (ring_storedWrite ..)

theorem ring_writeMem (s : State) (st : Fin 8) (dev off : Nat) (v : Word) : Same ring s (writeMem s st dev off v) := by
  unfold writeMem
  split
  · exact .ite (ring_softRepair ..) (.refl _)
  · exact ring_storedWrite ..

theorem ring_writeSrm (s : State) (st : Fin 8) (off : Nat) (v : Word) : Same ring s (writeSrm s st off v) :=
  .ite ((ring_storedWrite ..).trans (ring_sramRepair ..)) (ring_storedWrite ..)

theorem ring_writeSeq (s : State) (st : Fin 8) (n : Fin 4) (off : Nat) (v : Word) :
    Same ring s (writeSeq s st n off v) := by
  unfold writeSeq
  split
  · exact ring_seqCmd ..
  · exact .ite (ring_modSeq ..) (.refl _)
  · exact ring_storedWrite ..

theorem ring_writeArb (s : State) (r : Requester) (st : Fin 8) (off : Nat) (v : Word) :
    Same ring s (writeArb s r st off v) := by
  unfold writeArb
  split
  · exact ring_arbSubmitWrite ..
  · exact ring_rebindGo ..
  · exact ring_storedWrite ..

theorem ring_writeKxt (s : State) (r : Requester) (st : Fin 8) (off : Nat) (v : Word) :
    Same ring s (writeKxt s r st off v) := by
  unfold writeKxt
  split
  · exact .ite (ring_kxtOpenGo ..) (.refl _)
  · exact ring_chanReadyWrite ..
  · exact ring_storedWrite ..

theorem ring_dbEnable (s : State) (st : Fin 8) (mb : Nat) (v : Word) : Same ring s (dbEnable s st mb v) :=
  .ite ((ring_modBox ..).trans (ring_setEvt ..)) (ring_modBox ..)

theorem ring_writeMbx (s : State) (r : Requester) (st : Fin 8) (page off : Nat) (v : Word) :
    Same ring s (writeMbx s r st page off v) := by
  unfold writeMbx
  split
  · dsimp only
    split
    · exact ring_mboxSend ..
    · exact ring_modBox ..
    · exact ring_modBox ..
    · exact ring_ringBits ..
    · exact ring_dbEnable ..
    · exact .refl _
  · exact ring_storedWrite ..

theorem ring_writeBzl (s : State) (st : Fin 8) (off : Nat) (v : Word) : Same ring s (writeBzl s st off v) := by
  unfold writeBzl
  split
  · exact ring_bzlWordWrite ..
  · split
    · exact .ite (ring_bzlGo ..) (.refl _)
    · exact ring_storedWrite ..

theorem ring_writeLkt (s : State) (off : Nat) (v : Word) : Same ring s (writeLkt s off v) := by
  unfold writeLkt
  dsimp only
  split
  · exact ring_setReg ..
  · exact .ite ((ring_modWindow ..).trans (ring_snap ..)) (ring_modWindow ..)
  · exact .ite ((ring_modWindow ..).trans (ring_snap ..)) (ring_modWindow ..)
  · exact .ite ((Same.ite (ring_modLkt ..) (.refl _)).trans (ring_fwGo ..)) (Same.ite (ring_modLkt ..) (.refl _))
  · exact ring_storedWrite ..

theorem ring_writePwr (s : State) (st : Fin 8) (off : Nat) (v : Word) : Same ring s (writePwr s st off v) := by
  unfold writePwr
  split
  · exact ring_domRequest ..
  · exact .ite (ring_ctlReset ..) (.refl _)
  · exact ring_storedWrite ..

theorem ring_writePwrm (s : State) (off : Nat) (v : Word) : Same ring s (writePwrm s off v) := by
  unfold writePwrm
  split
  · exact ring_sleepGo ..
  · exact ring_capWrite ..
  · exact ring_thermWrite ..
  · exact ring_storedWrite ..

theorem ring_writeCal (s : State) (off : Nat) (v : Word) : Same ring s (writeCal s off v) := by
  unfold writeCal
  split
  · exact ring_calWinWrite ..
  · split
    · exact ring_calCmd ..
    · exact ring_storedWrite ..

theorem ring_writeOne (s : State) (r : Requester) (p : Page) (off : Nat) (v : Word) :
    Same ring s (writeOne s r p off v) := by
  unfold writeOne
  dsimp only
  split
  · exact ring_writeHeader ..
  · split
    · exact ring_writeClp ..
    · exact ring_writeTns ..
    · exact ring_writeMx ..
    · exact ring_writeRng ..
    · exact ring_writeBead ..
    · exact ring_writeFil ..
    · exact ring_writeMem ..
    · exact .ite (ring_regionWrite ..) (ring_storedWrite ..)
    · exact ring_writeSrm ..
    · exact ring_writeSeq ..
    · exact ring_writeArb ..
    · exact .ite (ring_netCfgWrite ..) (ring_storedWrite ..)
    · exact ring_writeKxt ..
    · exact ring_writeMbx ..
    · exact ring_writeBzl ..
    · exact ring_writeLkt ..
    · exact ring_writePwr ..
    · exact ring_writePwrm ..
    · exact ring_writeCal ..
    · exact ring_storedWrite ..
    · exact ring_storedWrite ..
    · exact ring_storedWrite ..

theorem ring_writeWhole (s : State) (p : Page) (off : Nat) (lo hi : Word) : Same ring s (writeWhole s p off lo hi) := by
  unfold writeWhole
  dsimp only
  split
  · exact ring_modTns ..
  · exact ring_modTns ..
  · exact ring_regionStage ..
  · exact ring_regionStage ..
  · exact .ite (.refl _) ((ring_storedWrite ..).trans (ring_storedWrite ..))
  · exact .ite (.refl _) ((ring_storedWrite ..).trans (ring_storedWrite ..))
  · exact .ite (ring_setFlag ..) ((ring_storedWrite ..).trans (ring_storedWrite ..))
  · exact (ring_storedWrite ..).trans (ring_storedWrite ..)

theorem ring_writeLo (s : State) (p : Page) (off : Nat) (v : Word) : Same ring s (writeLo s p off v) :=
  .ite (ring_cursorWrite ..) (Same.ite (ring_cursorWrite ..) (Same.ite (ring_rtcSet ..) (Same.ite ((ring_apart
    ..).trans (ring_writeWhole ..)) (.refl _))))

theorem ring_writeReg (s : State) (r : Requester) (p : Page) (off : Nat) (v : Word) :
    Same ring s (writeReg s r p off v) :=
  .ite (ring_writeLo ..) (Same.ite (Same.ite (ring_apart ..) (.refl _)) (ring_writeOne ..))

theorem ring_writeAt (s : State) (ts : List (Page × Requester)) (off : Nat) (v : Word) :
    Same ring s (writeAt s ts off v) :=
  .foldl (fun _ _ => ring_writeReg ..) _ _

theorem ring_regWrite (s : State) (r : Requester) (a : DWord) (v : Word) : Same ring s (regWrite s r a v) := by
  unfold regWrite
  dsimp only
  split
  · exact .ite (ring_writeAt ..) (.refl _)
  · exact .refl _

theorem ring_regRead (s : State) (r : Requester) (a : DWord) : Same ring s (regRead s r a) := by
  unfold regRead
  dsimp only
  split
  · exact .ite ((ring_readReg ..).trans (ring_send ..)) (.refl _)
  · exact .refl _

/-! ### Requesters -/

theorem ring_asked {s t : State} (r : Requester) (p : Page) (off : Nat) (h : Same ring s t) : Same ring s (asked s r p off t) :=
  .ite h (.refl _)

theorem ring_askedKey {s t : State} (r : Requester) (st : Fin 8) (h : Same ring s t) : Same ring s (askedKey s r st t) :=
  .ite h (.refl _)

/-! ### Cadence -/

theorem ring_maintenanceEvent (s : State) (st : Fin 8) (act : Nat) : Same ring s (maintenanceEvent s st act) :=
  ring_submit ..

theorem ring_fireEffect (st : Fin 8) (s : State) (f : Firing) : Same ring s (fireEffect st s f) := by
  unfold fireEffect
  split
  · exact ring_claspEvent ..
  · exact ring_evalEvent ..
  · exact ring_collEvent ..
  · exact ring_ckptEvent ..
  · exact ring_refreshEvent ..
  · exact ring_maintenanceEvent ..
  · exact ring_ringBits ..
  · exact .refl _

theorem ring_fireAll (st : Fin 8) (p : State × List Firing) : Same ring p.1 (fireAll st p) :=
  .foldl (fun _ _ => ring_fireEffect ..) _ _

theorem ring_tick (s : State) (st : Fin 8) : Same ring s (tick s st) :=
  (ring_tickEdge ..).trans (ring_fireAll st (tickEdge s st))

theorem ring_confirmTick (s t : State) (st : Fin 8) : Same ring t (confirmTick s t st) :=
  .ite ((ring_evalSlots ..).trans (ring_fireAll ..)) (.refl _)

/-! ### The bus of a sequencer -/

theorem ring_seqMemFault (s : State) (st : Fin 8) (n : Fin 4) (e : MemErr) : Same ring s (seqMemFault s st n e) := by
  unfold seqMemFault
  split
  · exact ring_seqFault ..
  · exact (ring_countUe ..).trans (ring_seqFault ..)

theorem ring_ldgBody (st : Fin 8) (n : Fin 4) (s : State) (w : DWord) : Same ring s (ldgBody st n s w) := by
  unfold ldgBody
  dsimp only
  split
  · exact ring_seqFault ..
  · split
    · exact ring_seqMemFault ..
    · exact ring_seqHold ..

theorem ring_ldgReturn (s : State) (st : Fin 8) (n : Fin 4) : Same ring s (ldgReturn s st n) := by
  unfold ldgReturn
  dsimp only
  split
  · split
    · split
      · exact ring_seqMemFault ..
      · exact (ring_waitEnded ..).trans (ring_seqDo ..)
    · exact .refl _
  · exact .refl _

theorem ring_stgBody (st : Fin 8) (n : Fin 4) (s : State) (w : DWord) : Same ring s (stgBody st n s w) := by
  unfold stgBody
  dsimp only
  split
  · exact ring_seqFault ..
  · split
    · next eq =>
        exact (Same.fst_of (ring_engWrite ..) eq).trans (ring_seqMemFault ..)
    · next eq =>
        exact (Same.fst_of (ring_engWrite ..) eq).trans (ring_seqDo ..)

theorem ring_rdrBody (st : Fin 8) (n : Fin 4) (s : State) (w : DWord) : Same ring s (rdrBody st n s w) :=
  .ite (ring_seqFault ..) (ring_seqHold ..)

theorem ring_rdrReturn (s : State) (st : Fin 8) (n : Fin 4) : Same ring s (rdrReturn s st n) := by
  unfold rdrReturn
  dsimp only
  split
  · split
    · exact .ite ((ring_readReg ..).trans (ring_waitEnded ..) |>.trans (ring_seqDo ..)) (.refl _)
    · exact .refl _
  · exact .refl _

theorem ring_wrrBody (st : Fin 8) (n : Fin 4) (s : State) (w : DWord) : Same ring s (wrrBody st n s w) := by
  unfold wrrBody
  dsimp only
  split
  · exact ring_seqFault ..
  · exact .ite (ring_seqFault ..) (Same.ite (ring_seqFault ..) ((ring_seqDo ..).trans (ring_writeAt ..)))

theorem ring_planReply (s : State) (st : Fin 8) (n : Fin 4) (opc : Nat) (to_ : Nat × BitVec 16 × DWord) (ok : Bool)
    :
    Same ring s (planReply s st n opc to_ ok) := by
  unfold planReply
  dsimp only
  split
  · exact .ite (ring_sendOp ..) (.refl _)
  · exact .refl _

theorem ring_loadAnswer (s : State) (st : Fin 8) (n : Fin 4) (waits : Option (Nat × BitVec 16 × DWord)) (ok : Bool)
    :
    Same ring s (loadAnswer s st n waits ok) := by
  unfold loadAnswer
  split
  · exact ring_planReply ..
  · exact .refl _

theorem ring_loadFault (s : State) (st : Fin 8) (n : Fin 4) (cls det high addr : Nat) :
    Same ring s (loadFault s st n cls det high addr) :=
  (ring_seqFault ..).trans (ring_modSeq ..) |>.trans (ring_loadAnswer ..)

theorem ring_measureLoad (s : State) (st : Fin 8) (n : Fin 4) (plan : Nat) (hash : List Byte) :
    Same ring s (measureLoad s st n plan hash) := by
  unfold measureLoad
  exact (ring_measExtend ..).trans (ring_modBzl ..)

theorem ring_loadDone (s : State) (st : Fin 8) (n : Fin 4) : Same ring s (loadDone s st n) := by
  unfold loadDone
  dsimp only
  split
  · exact ring_loadFault ..
  · split
    · exact (ring_countUe ..).trans (ring_loadFault ..)
    · split
      · exact ring_loadFault ..
      · split
        · exact ring_loadFault ..
        · split
          · exact ring_loadFault ..
          · split
            · exact (ring_countUe ..).trans (ring_loadFault ..)
            · exact .ite ((ring_loadFault ..).trans (ring_bzlFault ..)) ((ring_measureLoad ..).trans (ring_modSeq
                  ..) |>.trans (ring_raiseEvt ..) |>.trans (ring_loadAnswer ..))

/-! ### Operations of the host -/

theorem ring_openSealed (s : State) (op : HostOp) : Same ring s (openSealed s op).1 := by
  unfold openSealed
  dsimp only
  split
  · dsimp only
    exact .refl _
  · split
    · dsimp only
      exact .refl _
    · split
      · dsimp only
        exact ring_bzlFault ..
      · dsimp only
        exact ring_modSlot ..

theorem ring_hostWrite (s : State) (st : Fin 8) (off : Nat) (bs : List Byte) :
    Same ring s (hostWrite s st off bs).1 := by
  unfold hostWrite
  dsimp only
  split
  · dsimp only
    exact .refl _
  · split
    · dsimp only
      exact .ite (ring_hotEmpty ..) (.refl _)
    · split
      · next eq =>
          dsimp only
          exact (Same.ite (ring_hotEmpty ..) (.refl _)).trans (Same.fst_of (ring_rawWrite ..) eq)
      · next eq =>
          dsimp only
          exact (Same.ite (ring_hotEmpty ..) (.refl _)).trans (Same.fst_of (ring_rawWrite ..) eq)
              |>.trans (ring_countUe ..)

theorem ring_reply (s : State) (st : Fin 8) (ctx : Nat) (op : HostOp) (status : Nat) (data : List Byte) (sealedFlag
    : Nat) :
    Same ring s (reply s st ctx op status data sealedFlag) :=
  .ite (ring_sendOp ..) (.refl _)

theorem ring_openStatus (s : State) : Same ring s (openStatus s).1 :=
  ring_drawFree ..

theorem ring_regRdBody (st : Fin 8) (s : State) (op : HostOp) : Same ring s (regRdBody st s op).1 := by
  unfold regRdBody
  extract_lets n
  split
  · exact .refl _
  split
  · exact .refl _
  split
  · exact .refl _
  · refine Same.foldl_fst (fun acc t => ?_) _ (s, _)
    split
    · exact ring_readReg ..
    · exact .refl _

theorem ring_regWrBody (st : Fin 8) (s : State) (op : HostOp) : Same ring s (regWrBody st s op).1 := by
  unfold regWrBody
  dsimp only
  split
  · dsimp only
    exact .refl _
  · split
    · dsimp only
      exact .refl _
    · dsimp only
      exact .foldl (fun _ _ => ring_writeAt ..) _ _

theorem ring_memWrBody (st : Fin 8) (s : State) (op : HostOp) : Same ring s (memWrBody st s op).1 := by
  unfold memWrBody
  extract_lets a n
  split
  · exact .refl _
  split
  · exact .refl _
  split
  next ts _ _ s1 ok eq =>
  have h : Same ring s s1 := by
    refine .fst_of (.foldl_fst (fun acc t => ?_) _ (s, _)) eq
    exact ring_hostWrite ..
  split
  · exact h
  · exact h.trans (ring_openStatus _)

theorem ring_memRdBody (st : Fin 8) (ctx : Nat) (s : State) (op : HostOp) : Same ring s (memRdBody st ctx s op).1 := by
  unfold memRdBody
  dsimp only
  split
  · split
    · dsimp only
      exact .refl _
    · split
      · dsimp only
        exact .refl _
      · split
        · dsimp only
          exact .refl _
        · split
          · dsimp only
            exact .refl _
          · split
            · dsimp only
              exact .refl _
            · split
              · exact (ring_countUe ..).trans (ring_openStatus ..)
              · exact (ring_sealOut ..).trans (ring_reply ..)
  · split
    · dsimp only
      exact .refl _
    · split
      · dsimp only
        exact .refl _
      · split
        · dsimp only
          exact .refl _
        · split
          · dsimp only
            exact .refl _
          · split
            · dsimp only
              exact .refl _
            · split
              · exact (ring_countUe ..).trans (ring_openStatus ..)
              · dsimp only
                exact .refl _

theorem ring_planLoadBody (st : Fin 8) (ctx : Nat) (s : State) (op : HostOp) : Same ring s (planLoadBody st ctx s op).1 := by
  unfold planLoadBody
  split
  · exact .refl _
  · dsimp only
    split
    · dsimp only
      exact (ring_seqLoad ..).trans (ring_writeReg ..) |>.trans (ring_writeReg ..) |>.trans (ring_modSeq ..)
    · exact (ring_seqLoad ..).trans (ring_planReply ..)

theorem ring_planStartBody (st : Fin 8) (ctx : Nat) (s : State) (op : HostOp) :
    Same ring s (planStartBody st ctx s op).1 := by
  unfold planStartBody
  dsimp only
  split
  · dsimp only
    exact .refl _
  · exact (ring_seqStart ..).trans (ring_planReply ..)

theorem ring_mbxWrBody (st : Fin 8) (ctx : Nat) (s : State) (op : HostOp) : Same ring s (mbxWrBody st ctx s op).1 := by
  have h : ∀ (ts : List (Fin 8 × Requester)) mb v, Same ring s (ts.foldl (fun s e => mboxSend s e.2 e.1 mb v) s) := fun _ _ _ =>
    .foldl (fun _ _ => ring_mboxSend ..) _ _
  unfold mbxWrBody
  split
  · exact .refl _
  · dsimp only
    split
    · exact h ..
    · dsimp only
      exact (h ..).trans (ring_modSt ..)

theorem ring_doorbellBody (st : Fin 8) (s : State) (op : HostOp) : Same ring s (doorbellBody st s op).1 := by
  unfold doorbellBody
  split
  · dsimp only
    exact .refl _
  · dsimp only
    exact .foldl (fun _ _ => ring_ringBits ..) _ _

theorem ring_frameToAll (s : State) (f : BeatFrame) : Same ring s (frameToAll s f) :=
  .foldl (fun _ _ => (ring_tnsFrame ..).trans (ring_confirmTick ..)) _ _

theorem ring_beatFrame (s : State) (ctx : Nat) (f : BeatFrame) (now : DWord) : Same ring s (beatFrame s ctx f now) :=
  .ite (.refl _) (Same.ite (ring_frameToAll ..) ((ring_countSat ..).trans (ring_raiseEvt ..)))

theorem ring_beatBody (st : Fin 8) (ctx : Nat) (s : State) (op : HostOp) : Same ring s (beatBody st ctx s op).1 := by
  unfold beatBody
  dsimp only
  split
  · dsimp only
    exact .refl _
  · split
    · exact (ring_now ..).trans (ring_beatFrame ..)
    · dsimp only
      exact .refl _

theorem ring_collBody (st : Fin 8) (ctx : Nat) (s : State) (op : HostOp) : Same ring s (collBody st ctx s op).1 := by
  unfold collBody
  dsimp only
  split
  · dsimp only
    exact .refl _
  · split
    · exact .refl _
    · split
      · exact ring_startSegment ..
      · exact ring_reduceSegment ..
      · exact ring_gatherSegment ..
      · exact ring_voteSegment ..
      · exact .refl _

theorem ring_ckptAckBody (st : Fin 8) (ctx : Nat) (s : State) (op : HostOp) : Same ring s (ckptAckBody st ctx s op).1 :=
  ring_ckptAck ..

theorem ring_opBody (opc : Nat) (st : Fin 8) (ctx : Nat) (s : State) (op : HostOp) :
    Same ring s (opBody opc st ctx s op).1 := by
  unfold opBody
  split
  · exact ring_regRdBody ..
  · exact ring_regWrBody ..
  · exact ring_memWrBody ..
  · exact ring_memRdBody ..
  · exact ring_planLoadBody ..
  · exact ring_planStartBody ..
  · exact ring_mbxWrBody ..
  · exact ring_doorbellBody ..
  · exact ring_ckptAckBody ..
  · exact ring_collBody ..
  · exact ring_beatBody ..
  · exact .refl _

theorem ring_request (opc : Nat) (body : State → HostOp → OpAnswer) (s : State) (st : Fin 8) (ctx : Nat) (op : HostOp)
    (hb : ∀ t op, Same ring t (body t op).1) : Same ring s (request opc body s st ctx op) := by
  unfold request
  extract_lets op isSealed finishOp
  have hf : ∀ {t : State} (r : OpAnswer), Same ring t r.1 → Same ring t (finishOp r) := by
    intro t r h
    unfold finishOp
    split
    · exact h.trans (ring_reply ..)
    · exact h
  refine .ite (.refl _) <| .ite (ring_reply ..) <| .ite (ring_reply ..) <| .ite (ring_reply ..) <| .ite (ring_reply ..) <|
    .ite ?_ (hf _ (hb _ _))
  split
  next eq => exact (Same.fst_of (ring_openSealed ..) eq).trans (ring_reply ..)
  next eq => exact (Same.fst_of (ring_openSealed ..) eq).trans (hf _ (hb _ _))

theorem ring_hostOp (s : State) (st : Fin 8) (ctx : Nat) (op : HostOp) : Same ring s (hostOp s st ctx op) :=
  ring_request _ _ _ _ _ _ (ring_opBody _ st ctx)

theorem ring_payload (s : State) (st : Fin 8) (ctx : Nat) (bs : List Byte) : Same ring s (payload s st ctx bs) :=
  .ite (.refl _) (Same.ite (Same.ite (.refl _) (Same.ite (ring_sendOp ..) (.refl _))) (ring_hostOp ..))

theorem ring_deliver (st : Fin 8) (ctx n : Nat) (s : State) : Same ring s (deliver st ctx n s) := by
  induction n generalizing s with
  | zero => exact .refl _
  | succ n ih =>
    rw [deliver]
    dsimp only
    split
    · exact (ring_modSess ..).trans (ring_payload ..) |>.trans (ih _)
    · exact .refl _

theorem ring_takeData (s : State) (st : Fin 8) (ctx : Nat) (seq : Word) (bs : List Byte) (ce : Bool) :
    Same ring s (takeData s st ctx seq bs ce) :=
  .ite ((ring_modSess ..).trans (ring_sendAck ..)) (Same.ite
    (.refl _) (Same.ite ((ring_modSess ..).trans (ring_deliver ..)) (Same.ite ((Same.ite ((ring_modSess ..).trans
    (ring_deliver ..)
    |>.trans (ring_sendAck ..)) ((ring_modSess ..).trans (ring_deliver ..))).trans (ring_answerClose ..)) (Same.ite
    ((ring_modSess ..).trans (ring_deliver ..)
    |>.trans (ring_sendAck ..)) ((ring_modSess ..).trans (ring_deliver ..))))))

theorem ring_mbxWrReply (s : State) (st : Fin 8) (i : Nat) : Same ring s (mbxWrReply s st i) := by
  unfold mbxWrReply
  split
  · exact .refl _
  · dsimp only
    exact .ite (Same.ite ((ring_modSt ..).trans (ring_sendOp ..)) (ring_modSt ..)) (ring_modSt ..)

theorem ring_mbxEventSend (s : State) (st : Fin 8) (page : Nat) : Same ring s (mbxEventSend s st page) := by
  unfold mbxEventSend
  dsimp only
  split
  · exact ring_evtSettle ..
  · split
    · exact .refl _
    · split
      · exact .refl _
      · exact (ring_modSt ..).trans (ring_sendOp ..)

/-! ### The board bus -/

theorem ring_i3cAnswer (s : State) (bs : List Byte) : Same ring s (i3cAnswer s bs) :=
  ring_send ..

theorem ring_i3cNack (s : State) : Same ring s (i3cNack s) :=
  ring_i3cAnswer ..

theorem ring_i3cWrite (s : State) (bs : List Byte) : Same ring s (i3cWrite s bs) := by
  unfold i3cWrite
  dsimp only
  split
  · exact .ite ((ring_readReg ..).trans (ring_modBus ..)) (ring_i3cNack ..)
  · exact .ite (ring_writeReg ..) (ring_i3cNack ..)
  · exact ring_i3cNack ..

theorem ring_openBytes (s : State) (n : Nat) : Same ring s (openBytes s n).2 :=
  ring_drawFree ..

theorem ring_commonCode (s : State) (ccc arg : Byte) : Same ring s (commonCode s ccc arg) := by
  unfold commonCode
  dsimp only
  split
  · exact ring_modBus ..
  · exact .ite (ring_i3cNack ..) ((ring_openBytes ..).trans (ring_modBus ..) |>.trans (ring_i3cAnswer ..))
  · exact .ite (ring_i3cNack ..) (ring_modBus ..)
  · exact (ring_openBytes ..).trans (ring_i3cAnswer ..)
  · exact ring_i3cAnswer ..
  · exact ring_i3cAnswer ..
  · exact (ring_openBytes ..).trans (ring_i3cAnswer ..)
  · exact ring_i3cNack ..

/-! ### The restore block -/

theorem ring_restoreStack (step committed : DWord) (s : State) (i : Fin 8) :
    Same ring s (restoreStack step committed s i) :=
  (ring_modClp ..).trans (ring_startKs ..)

theorem ring_restoreReply (s : State) (v : Nat) : Same ring s (restoreReply s v) :=
  ring_mboxSend ..

theorem ring_restore (s : State) (word : Word) : Same ring s (restore s word) := by
  unfold restore
  dsimp only
  split
  · exact .refl _
  · split
    · exact (Same.foldl (fun _ _ => ring_restoreStack ..) _ _).trans (ring_locketRequest ..)
          |>.trans (ring_restoreReply ..)
    · exact ring_restoreReply ..

end Sys2Proof.Laws
end

section
/-! What each command leaves of the ring. -/

-- One proof at a time: the stacks of many side by side would take the memory that the check allows.
set_option Elab.async false

namespace Sys2Proof.Laws

open Machine Safety

/-- The records stay in the ring, whatever next state an outcome answers. -/
structure RingLeft (s : State) (o : Host.Outcome State Fault Refusal) : Prop where
  of_next : ∀ t, o = .next t → Same ring s t

namespace RingLeft

variable {s t u : State}

/-- A command that names no unit of a stack. -/
theorem always (h : Same ring s t) : RingLeft s (.next t) := ⟨fun _ e => by cases e; exact h⟩

/-- A command that names a stack, or two of them. -/
theorem guard {p : Prop} [Decidable p] (h : Same ring s t) : RingLeft s (if p then .next t else .fault .absentStack) := by
  split
  · exact always h
  · exact ⟨fun _ e => nomatch e⟩

/-- A command that names a domain, of the module or of one stack. -/
theorem guard_or {p q : Prop} [Decidable p] [Decidable q] (h : Same ring s t) (h' : Same ring s u) :
    RingLeft s (if p then .next t else if q then .next u else .fault .absentStack) := by
  split
  · exact always h
  · exact guard h'

end RingLeft

/-! ### The commands of a sequencer -/

theorem leaves_issue (opc : Nat) {body : State → DWord → State} (st : Fin 8) (n : Fin 4) (s : State)
    (h : ∀ w, Same ring s (body s w)) : RingLeft s (issue opc body st n s) :=
  .guard (.ite (.refl _) (.ite (ring_seqFault ..) (.ite (.refl _) (.ite (h _) (ring_modSeq ..)))))

theorem leaves_resume (k : SeqWait) {body : State → DWord → State} (st : Fin 8) (n : Fin 4) (s : State)
    (h : ∀ w, Same ring s (body s w)) : RingLeft s (resume k body st n s) :=
  .guard (.ite (h _) (.refl _))

/-! ### The commands of a queue -/

theorem leaves_drainer (op : Nat) {body : State → Fin 8 → Nat → Nat → Desc → State} (st : Fin 8) (c : Nat) (s : State)
    (h : ∀ i d, Same ring s (body s st c i d)) : RingLeft s (drainer op body st c s) := by
  refine .guard ?_
  split
  · exact .ite (.refl _) (h ..)
  · exact .refl _

theorem leaves_vcRow (op : Nat) {body : State → Fin 8 → Nat → Entry → State} (st : Fin 8) (c : Nat) (s : State)
    (h : ∀ e, Same ring s (body s st c e)) : RingLeft s (vcRow op body st c s) := by
  refine .guard ?_
  split
  · exact h _
  · exact .refl _

theorem leaves_smpRow (op : Nat) {body : State → Fin 8 → Nat → Entry → State} (st : Fin 8) (g : Fin 4) (s : State)
    (h : ∀ e, Same ring s (body s st g.val e)) : RingLeft s (smpRow op body st g s) := by
  refine .guard ?_
  split
  · exact .ite (h _) (.refl _)
  · exact .refl _

theorem leaves_tabRow (q op : Nat) {body : State → Fin 8 → Entry → State} (st : Fin 8) (s : State)
    (h : ∀ e, Same ring s (body s st e)) : RingLeft s (tabRow q op body st s) := by
  refine .guard ?_
  split
  · exact .ite (h _) (.refl _)
  · exact .refl _

theorem leaves_xfrRow (op : Nat) {body : State → Fin 8 → Desc → State × Option TabErr} (st ch : Fin 8) (s : State)
    (h : ∀ d, Same ring s (body s st d).1) : RingLeft s (xfrRow_ op body st ch s) := by
  refine .guard ?_
  split
  · refine .ite ?_ (.refl _)
    split
    · next eq => exact (Same.fst_of (h _) eq).trans (ring_xfrFault ..)
    · next eq => exact (Same.fst_of (h _) eq).trans (ring_finish ..) |>.trans (ring_raiseEvt ..)
  · exact .refl _

theorem leaves_jkRow (op : Nat) {body : State → Fin 8 → Nat → Desc → State × Option TabErr} (st : Fin 8) (p : Fin 3)
    (s : State) (h : ∀ d, Same ring s (body s st p.val d).1) : RingLeft s (jkRow op body st p s) := by
  refine .guard ?_
  split
  · refine .ite ?_ (.refl _)
    split
    · exact ring_jkFault ..
    · split
      · next eq => exact (Same.fst_of (h _) eq).trans (ring_jkFault ..)
      · next eq => exact (Same.fst_of (h _) eq).trans (ring_finish ..) |>.trans (ring_raiseEvt ..)
  · exact .refl _

theorem leaves_gateTimeout (st : Fin 8) (s : State) : RingLeft s (execGateTimeout st s) := by
  refine .guard ?_
  dsimp only
  split
  · exact .refl _
  · exact .ite (.refl _) ((ring_modClp ..).trans (ring_recordFault ..))

theorem leaves_commitSequenceEnd (st : Fin 8) (s : State) :
    RingLeft s (execCommitSequenceEnd st s) :=
  .guard (.ite ((ring_drawElapsed ..).trans (ring_clearTouched ..) |>.trans (ring_modClp ..)
    |>.trans (ring_raiseEvt ..) |>.trans (ring_ckptAfter ..) |>.trans (ring_quiesceRise ..)) (.refl _))

theorem leaves_voidSequenceEnd (st : Fin 8) (s : State) : RingLeft s (execVoidSequenceEnd st s) :=
  .guard (.ite ((ring_clearTouched ..).trans (ring_modClp ..) |>.trans (ring_raiseEvt ..)
    |>.trans (ring_ckptAfter ..) |>.trans (ring_quiesceRise ..)) (.refl _))

theorem leaves_edgeWindowExpiry (st : Fin 8) (s : State) : RingLeft s (execEdgeWindowExpiry st s) :=
  .guard (.ite (Same.ite ((ring_modTns ..).trans (ring_recordFault ..)
    |>.trans (ring_raiseEvt ..)) (Same.ite ((ring_modTns ..).trans (ring_raiseEvt ..)) (ring_modTns ..))) (.refl _))

theorem leaves_mxStream (st : Fin 8) (c : Fin 56) (s : State) :
    RingLeft s (execMxStream st c s) := by
  refine .guard ?_
  split
  · exact .ite (ring_streamPass ..) (.refl _)
  · exact .refl _

theorem leaves_mxPassRetire (st : Fin 8) (c : Fin 56) (s : State) :
    RingLeft s (execMxPassRetire st c s) := by
  refine .guard ?_
  split
  · dsimp only
    exact (ring_modCore ..).trans (ring_modTile ..) |>.trans (ring_modTile ..) |>.trans (ring_joinFlags ..)
        |>.trans (ring_mxRetire ..)
  · exact .refl _

theorem leaves_mxLdb (st : Fin 8) (c : Fin 56) (s : State) : RingLeft s (execMxLdb st c s) := by
  refine .guard ?_
  split
  · exact .ite (.refl _) (ring_loadBank ..)
  · exact .refl _

theorem leaves_smpOpen (st : Fin 8) (g : Fin 4) (s : State) : RingLeft s (execSmpOpen st g s) :=
  leaves_smpRow _ _ _ _ fun _ => .ite (.refl _) (ring_smpEnd _ _ _ (ring_openBatch ..))

theorem leaves_smpSeeds (st : Fin 8) (g : Fin 4) (s : State) : RingLeft s (execSmpSeeds st g s) :=
  leaves_smpRow _ _ _ _ fun _ => ring_smpEnd _ _ _ (ring_seedBatch ..)

theorem leaves_smpHop (st : Fin 8) (g : Fin 4) (s : State) : RingLeft s (execSmpHop st g s) :=
  leaves_smpRow _ _ _ _ fun _ => ring_smpEnd _ _ _ (ring_hopBatch ..)

theorem leaves_smpClose (st : Fin 8) (g : Fin 4) (s : State) : RingLeft s (execSmpClose st g s) :=
  leaves_smpRow _ _ _ _ fun _ => ring_smpEnd _ _ _ (ring_closeBatch ..)

theorem leaves_smpPrefix (st : Fin 8) (g : Fin 4) (s : State) : RingLeft s (execSmpPrefix st g s) :=
  leaves_smpRow _ _ _ _ fun _ => ring_smpEnd _ _ _ (ring_prefixRun ..)

theorem leaves_remoteRowRequest (home src : Fin 8) (table row : Nat) (s : State) :
    RingLeft s (execRemoteRowRequest home src table row s) := by
  refine .guard ?_
  split
  · exact .refl _
  · split
    · next eq =>
        exact (ring_remoteRow (e := eq) ..).trans (ring_send ..)
    · exact ring_send ..

theorem leaves_hotSetRefreshAdmit (st : Fin 8) (s : State) :
    RingLeft s (execHotSetRefreshAdmit st s) := by
  refine .guard ?_
  split
  · exact .ite (ring_refreshStart ..) (.refl _)
  · exact .refl _

theorem leaves_hotSetCopyDone (st : Fin 8) (i : Nat) (s : State) :
    RingLeft s (execHotSetCopyDone st i s) := by
  refine .guard ?_
  split
  · exact .refl _
  · split
    · split
      · next eq =>
          exact (Same.fst_of (ring_copyRow ..) eq).trans (ring_refreshFault ..)
      · next eq =>
          exact (Same.fst_of (ring_copyRow ..) eq).trans (ring_setEntry ..) |>.trans (ring_refreshReady ..)
    · exact .refl _

theorem leaves_hotSetDirtyRecopy (st : Fin 8) (i : Nat) (s : State) :
    RingLeft s (execHotSetDirtyRecopy st i s) := by
  refine .guard ?_
  split
  · exact .refl _
  · exact .ite (ring_setEntry ..) (.refl _)

theorem leaves_hotSetSwitch (st : Fin 8) (s : State) : RingLeft s (execHotSetSwitch st s) :=
  .guard (.ite ((ring_modHot ..).trans (ring_countWrap ..) |>.trans (ring_raiseEvt ..)) (.refl _))

theorem leaves_sramRepairDone (st : Fin 8) (s : State) : RingLeft s (execSramRepairDone st s) := by
  refine .guard ?_
  split
  · exact .refl _
  · dsimp only
    exact (ring_dropActivity ..).trans (ring_setFld ..) |>.trans (ring_setFlag ..) |>.trans (ring_setFlag ..)
        |>.trans (ring_raiseEvt ..) |>.trans (ring_swapRecord ..)

theorem leaves_sramPatrol (st : Fin 8) (line ce : Nat) (s : State) :
    RingLeft s (execSramPatrol st line ce s) := by
  refine .guard ?_
  split
  · exact .refl _
  · dsimp only
    split
    · exact (Same.ite (.refl _) ((ring_countSat ..).trans (ring_raiseEvt ..))).trans (ring_countSat ..)
          |>.trans (ring_raiseEvt ..) |>.trans (ring_recordFault ..)
    · exact .ite (.refl _) ((ring_countSat ..).trans (ring_raiseEvt ..))

theorem leaves_lpddr5xPatrol (st : Fin 8) (dev : Fin 4) (line linkCe : Nat) (linkUe : Bool) (s : State) :
    RingLeft s (execLpddr5xPatrol st dev line linkCe linkUe s) :=
  .guard (.ite (.refl _) (Same.ite ((Same.ite ((Same.ite (.refl _) (ring_countSat ..)).trans (ring_countSat ..)
    |>.trans (ring_countSat ..)) (Same.ite (.refl _) (ring_countSat ..))).trans (ring_setPair ..)
    |>.trans (ring_raiseEvt ..)) ((Same.ite ((Same.ite (.refl _) (ring_countSat ..)).trans (ring_countSat ..)
    |>.trans (ring_countSat ..)) (Same.ite (.refl _) (ring_countSat ..))).trans (ring_setPair ..))))

theorem leaves_softRepairDone (st : Fin 8) (dev : Fin 4) (s : State) :
    RingLeft s (execSoftRepairDone st dev s) :=
  .guard (.ite ((ring_dropActivity ..).trans (ring_modSt ..) |>.trans (ring_setFlag ..) |>.trans (ring_setFld ..)
    |>.trans (ring_raiseEvt ..) |>.trans (ring_pprRecord ..)) (.refl _))

theorem leaves_br (st : Fin 8) (q : Fin 4) (s : State) : RingLeft s (execBr st q s) :=
  leaves_issue _ _ _ _ fun _ => ring_seqNext ..

theorem leaves_jmp (st : Fin 8) (q : Fin 4) (s : State) : RingLeft s (execJmp st q s) :=
  leaves_issue _ _ _ _ fun _ => ring_seqNext ..

theorem leaves_trap (st : Fin 8) (q : Fin 4) (s : State) : RingLeft s (execTrap st q s) :=
  leaves_issue _ _ _ _ fun _ => ring_seqFault ..

theorem leaves_ldd (st : Fin 8) (q : Fin 4) (s : State) : RingLeft s (execLdd st q s) :=
  leaves_issue _ _ _ _ fun _ => ring_dataBody ..

theorem leaves_std (st : Fin 8) (q : Fin 4) (s : State) : RingLeft s (execStd st q s) :=
  leaves_issue _ _ _ _ fun _ => ring_dataBody ..

theorem leaves_dld (st : Fin 8) (q : Fin 4) (s : State) : RingLeft s (execDld st q s) :=
  leaves_issue _ _ _ _ fun _ => ring_dataBody ..

theorem leaves_dst (st : Fin 8) (q : Fin 4) (s : State) : RingLeft s (execDst st q s) :=
  leaves_issue _ _ _ _ fun _ => ring_dataBody ..

theorem leaves_pushQueueRoom (st : Fin 8) (q : Fin 4) (s : State) :
    RingLeft s (execPushQueueRoom st q s) :=
  leaves_resume _ _ _ _ fun _ => .ite (.refl _) ((ring_waitEnded ..).trans (ring_pushNow ..))

theorem leaves_waitq (st : Fin 8) (q : Fin 4) (s : State) : RingLeft s (execWaitq st q s) :=
  leaves_issue _ _ _ _ fun _ => .ite (ring_seqFault ..) (ring_seqHold ..)

theorem leaves_waitqDone (st : Fin 8) (q : Fin 4) (s : State) : RingLeft s (execWaitqDone st q s) :=
  leaves_resume _ _ _ _ fun _ => .ite ((ring_waitEnded ..).trans (ring_waitOutcome ..) |>.trans (ring_seqDo ..))
      (.refl _)

theorem leaves_fence (st : Fin 8) (q : Fin 4) (s : State) : RingLeft s (execFence st q s) :=
  leaves_issue _ _ _ _ fun _ => ring_seqHold ..

theorem leaves_fenceDone (st : Fin 8) (q : Fin 4) (s : State) : RingLeft s (execFenceDone st q s) :=
  leaves_resume _ _ _ _ fun _ => .ite ((ring_waitEnded ..).trans (ring_seqDo ..)) (.refl _)

theorem leaves_waitdb (st : Fin 8) (q : Fin 4) (s : State) : RingLeft s (execWaitdb st q s) :=
  leaves_issue _ _ _ _ fun _ => ring_seqHold ..

theorem leaves_waitdbDone (st : Fin 8) (q : Fin 4) (s : State) :
    RingLeft s (execWaitdbDone st q s) :=
  leaves_resume _ _ _ _ fun _ => .ite (.refl _) ((ring_waitEnded ..).trans (ring_modBox ..)
      |>.trans (ring_seqDo ..))

theorem leaves_waitpos (st : Fin 8) (q : Fin 4) (s : State) : RingLeft s (execWaitpos st q s) :=
  leaves_issue _ _ _ _ fun _ => ring_seqHold ..

theorem leaves_waitposDone (st : Fin 8) (q : Fin 4) (s : State) :
    RingLeft s (execWaitposDone st q s) :=
  leaves_resume _ _ _ _ fun _ => .ite ((ring_waitEnded ..).trans (ring_seqDo ..)) (.refl _)

theorem leaves_nop (st : Fin 8) (q : Fin 4) (s : State) : RingLeft s (execNop st q s) :=
  leaves_issue _ _ _ _ fun _ => ring_seqDo ..

theorem leaves_seqCtxDone (st : Fin 8) (q : Fin 4) (s : State) :
    RingLeft s (execSeqCtxDone st q s) := by
  refine .guard ?_
  split
  · exact ring_saveDone ..
  · exact ring_restoreDone ..
  · exact .refl _

theorem leaves_rebindScrub (st : Fin 8) (res : Nat) (s : State) :
    RingLeft s (execRebindScrub st res s) := by
  refine .guard ?_
  split
  · exact .ite (ring_enterScrub ..) (.refl _)
  · exact .refl _

theorem leaves_rebindHandover (st : Fin 8) (res : Nat) (s : State) :
    RingLeft s (execRebindHandover st res s) := by
  refine .guard ?_
  split
  · exact .ite ((ring_scrub ..).trans (ring_bindStat ..) |>.trans (ring_modMoving ..)) (.refl _)
  · exact .refl _

theorem leaves_rebindDone (st : Fin 8) (res : Nat) (s : State) :
    RingLeft s (execRebindDone st res s) := by
  refine .guard ?_
  split
  · exact .ite ((ring_handOver ..).trans (ring_commandDone ..)) (.refl _)
  · exact .refl _

theorem leaves_rebindForced (st : Fin 8) (res : Nat) (s : State) :
    RingLeft s (execRebindForced st res s) := by
  refine .guard ?_
  split
  · split
    · exact .refl _
    · dsimp only
      refine .trans ?_ (ring_enterScrub ..)
      split
      · exact (Same.ite (ring_modArb ..) ((ring_modArb ..).trans (ring_recordFault ..)
            |>.trans (ring_raiseEvt ..))).trans (ring_discardQueue ..)
      · exact Same.ite (ring_modArb ..) ((ring_modArb ..).trans (ring_recordFault ..) |>.trans (ring_raiseEvt ..))
            |>.trans (.foldl (fun _ _ => Same.ite (ring_softReset ..) (.refl _)) _ _)
  · exact .refl _

theorem leaves_activityAdmit (st : Fin 8) (i : Nat) (s : State) :
    RingLeft s (execActivityAdmit st i s) := by
  refine .guard ?_
  dsimp only
  split
  · exact .refl _
  · exact .ite (Same.ite ((ring_modArb ..).trans (ring_unitDead ..)) ((ring_modArb ..).trans (ring_activityStart
        ..))) (.refl _)

theorem leaves_activityEnd (st : Fin 8) (act scope : Nat) (s : State) :
    RingLeft s (execActivityEnd st act scope s) :=
  .guard (.ite (Same.ite ((ring_dropActivity ..).trans (ring_setRetraining ..)) (Same.ite ((ring_dropActivity
    ..).trans (ring_compact ..)) (ring_dropActivity ..))) (.refl _))

theorem leaves_queueTimeout (st : Fin 8) (i : Nat) (s : State) :
    RingLeft s (execQueueTimeout st i s) := by
  refine .guard ?_
  split
  · exact .refl _
  · exact .ite (.refl _) ((ring_endWaiting ..).trans (ring_recordFault ..))

theorem leaves_swapCutover (st : Fin 8) (act scope : Nat) (s : State) :
    RingLeft s (execSwapCutover st act scope s) := by
  refine .guard ?_
  split
  · dsimp only
    exact .ite (Same.ite ((ring_modActivity ..).trans (ring_setFlag ..)
        |>.trans (ring_setFlag ..)) (ring_modActivity ..)) (.refl _)
  · exact .refl _

theorem leaves_idleCoreTest (st : Fin 8) (phys : Fin 60) (sumOk : Bool) (s : State) :
    RingLeft s (execIdleCoreTest st phys sumOk s) := by
  refine .guard ?_
  split
  · exact .refl _
  · split
    · dsimp only
      exact .ite
          (.refl _) (Same.ite ((ring_modCore ..).trans (ring_zeroPanel ..)) ((ring_modCore ..).trans (ring_zeroPanel
          ..) |>.trans (ring_submitOrDie ..)))
    · exact .ite (.refl _) (ring_setFlag ..)
    · exact .refl _

theorem leaves_heartbeatCheck (st : Fin 8) (s : State) : RingLeft s (execHeartbeatCheck st s) :=
  .guard (.ite
    (.refl _) (Same.ite ((ring_modBox ..).trans (ring_modArb ..)) (Same.ite (ring_modArb ..) (ring_mgmtRestart
    ..))))

theorem leaves_pairingCheck (st : Fin 8) (answerOk : Bool) (s : State) :
    RingLeft s (execPairingCheck st answerOk s) :=
  .guard (.ite (.refl _) (Same.ite ((ring_bzlFault ..).trans (ring_holdStack ..)) (Same.ite
    (.refl _) (ring_stackReturns ..))))

theorem leaves_pauseFrame (st : Fin 8) (port : Fin 2) (link : Fin 4) (pfc : Option Byte) (s : State) :
    RingLeft s (execPauseFrame st port link pfc s) := by
  refine .guard ?_
  split
  · exact .refl _
  · split
    · exact .ite (ring_countSat ..) ((ring_countSat ..).trans (ring_modPort ..) |>.trans (ring_raiseEvt ..))
    · exact .ite ((ring_countSat ..).trans (ring_modPort ..) |>.trans (ring_raiseEvt ..)) (ring_countSat ..)

theorem leaves_hsResp (st : Fin 8) (ctx : Nat) (body : List Byte) (s : State) :
    RingLeft s (execHsResp st ctx body s) :=
  .guard (.ite ((ring_modSess ..).trans (ring_sessOpened ..) |>.trans (ring_openEnds ..)) (.refl _))

theorem leaves_hsReject (st : Fin 8) (ctx : Nat) (status : BitVec 16) (s : State) :
    RingLeft s (execHsReject st ctx status s) :=
  .guard (.ite ((ring_now ..).trans (ring_modSt ..) |>.trans (ring_sessClosed ..) |>.trans (ring_openEnds ..))
    (.refl _))

theorem leaves_data (st : Fin 8) (port : Fin 2) (link : Fin 4) (p : Packet) (ce : Bool) (s : State) :
    RingLeft s (execData st port link p ce s) := by
  refine .guard ?_
  split
  · next eq =>
      exact Same.fst_of (ring_receive ..) eq
  · next eq =>
      dsimp only
      exact (Same.ite ((Same.fst_of (ring_receive ..) eq).trans (ring_sessOpened ..)) (Same.fst_of (ring_receive ..)
          eq)).trans (ring_takeData ..)

theorem leaves_ack (st : Fin 8) (p : Packet) (sampleNs : Nat) (s : State) :
    RingLeft s (execAck st p sampleNs s) := by
  refine .guard ?_
  split
  · next eq =>
      exact Same.fst_of (ring_receive ..) eq
  · next eq =>
      split
      · exact .ite ((Same.fst_of (ring_receive ..) eq).trans (ring_takeAck ..)) ((Same.fst_of (ring_receive ..)
            eq).trans (ring_badPacket ..))
      · exact .ite ((Same.fst_of (ring_receive ..) eq).trans (ring_takeAck ..)) ((Same.fst_of (ring_receive ..)
            eq).trans (ring_badPacket ..))
      · exact Same.fst_of (ring_receive ..) eq

theorem leaves_close (st : Fin 8) (p : Packet) (s : State) : RingLeft s (execClose st p s) := by
  refine .guard ?_
  split
  · next eq =>
      exact Same.fst_of (ring_receive ..) eq
  · next eq =>
      exact .ite (Same.ite ((Same.fst_of (ring_receive ..) eq).trans (ring_answerClose ..)) ((Same.fst_of
          (ring_receive ..) eq).trans (ring_modSess ..))) (Same.fst_of (ring_receive ..) eq)

theorem leaves_closeAck (st : Fin 8) (p : Packet) (s : State) :
    RingLeft s (execCloseAck st p s) := by
  refine .guard ?_
  split
  · next eq =>
      exact Same.fst_of (ring_receive ..) eq
  · next eq =>
      exact .ite ((Same.fst_of (ring_receive ..) eq).trans (ring_sessClosed ..)) (Same.fst_of (ring_receive ..) eq)

theorem leaves_hsTimeout (st : Fin 8) (ctx : Nat) (s : State) :
    RingLeft s (execHsTimeout st ctx s) := by
  refine .guard ?_
  split
  · dsimp only
    exact (ring_drawFree ..).trans (ring_sessClosed ..) |>.trans (ring_openEnds ..)
  · exact ring_sessClosed ..
  · exact .refl _

theorem leaves_rtoExpiry (st : Fin 8) (ctx : Nat) (seq : Word) (s : State) :
    RingLeft s (execRtoExpiry st ctx seq s) := by
  refine .guard ?_
  split
  · exact .refl _
  · split
    · dsimp only
      exact .ite ((ring_modSess ..).trans (ring_sessFailed ..)) ((ring_modSess ..).trans (ring_sendData ..))
    · exact .ite (Same.ite ((ring_modSess ..).trans (ring_sessFailed ..)) ((ring_modSess ..).trans (ring_sendPacket
          ..) |>.trans (ring_countPair ..))) (.refl _)

theorem leaves_ccPeriod (st : Fin 8) (ctx : Nat) (s : State) :
    RingLeft s (execCcPeriod st ctx s) := by
  refine .guard ?_
  split
  · exact ring_modSess ..
  · exact ring_modSess ..
  · exact .refl _

theorem leaves_checkpointStreamStart (st : Fin 8) (s : State) :
    RingLeft s (execCheckpointStreamStart st s) := by
  refine .guard ?_
  split
  · split
    · exact (ring_modCkpt ..).trans (ring_ckptRecord ..) |>.trans (ring_ckptFailed ..)
    · exact .refl _
    · exact ring_startStream ..
  · exact .refl _

theorem leaves_linkError (st : Fin 8) (p : Fin 3) (s : State) :
    RingLeft s (execLinkError st p s) := by
  refine .guard ?_
  split
  · exact .ite (ring_jkFault ..) (ring_recordFault ..)
  · exact ring_recordFault ..

theorem leaves_mbxTimeout (st : Fin 8) (mb : Fin 64) (s : State) :
    RingLeft s (execMbxTimeout st mb s) :=
  .guard (.ite ((ring_modBox ..).trans (ring_countSat ..) |>.trans (ring_settleReplies ..)
    |>.trans (ring_notice ..)) (.refl _))

theorem leaves_locketWin15Read (r : Requester) (win : Bool) (s : State) :
    RingLeft s (execLocketWin15Read r win s) :=
  .always ((ring_winRead s win 15).trans (ring_send ..))

theorem leaves_resetN (s : State) : RingLeft s (execResetN s) :=
  .always (.ite (Same.ite ((ring_modPm ..).trans (ring_modPm ..) |>.trans (ring_setFlag ..)
    |>.trans (ring_moduleReset ..)) (ring_modPm ..)) ((ring_modPm ..).trans (ring_moduleReset ..)))

theorem leaves_refclkLoss (eth : Bool) (s : State) : RingLeft s (execRefclkLoss eth s) :=
  .always (.ite ((ring_modPm .. |>.trans (.foldl
    (fun _ _ => (ring_portDrop ..).trans (ring_portDrop ..)) _ _)).trans (ring_recordFault ..)) (ring_modPm ..))

theorem leaves_refclkReturn (s : State) : RingLeft s (execRefclkReturn s) :=
  .always (.ite (Same.ite (ring_modPm ..) ((ring_modPm ..).trans (ring_moduleReset ..))) (.refl _))

theorem leaves_domainFailed (dom : Nat) (s : State) :
    RingLeft s (execDomainFailed dom s) :=
  .guard_or (.ite (ring_recordFault ..) (.refl _)) (.ite ((ring_setTransit ..).trans (ring_setFlag ..)
    |>.trans (ring_raiseEvt ..) |>.trans (ring_recordFault ..)) (.refl _))

theorem leaves_powerCapWindow (tenthWatts : List Nat) (avsFail : List (Nat × Nat)) (s : State) :
    RingLeft s (execPowerCapWindow tenthWatts avsFail s) :=
  .always (.ite (.refl _) (Same.ite ((ring_windowPower ..).trans (ring_modPm ..)
    |>.trans (ring_raiseEvt ..)) ((ring_windowPower ..).trans (ring_modPm ..)) |>.trans (.foldl
    (fun _ _ => Same.ite ((ring_setFld ..).trans (ring_seekLevel ..)) (ring_setFld ..)) _ _)))

theorem leaves_levelRaiseSwitch (st : Fin 8) (avsFail : Option Nat) (s : State) :
    RingLeft s (execLevelRaiseSwitch st avsFail s) := by
  refine .guard ?_
  split
  · exact (ring_switchLevel ..).trans (ring_modPwr ..) |>.trans (ring_seekLevel ..)
  · exact .refl _

theorem leaves_thermalLevelUpdate (st : Fin 8) (quarterC : Int) (avsFail : Option Nat) (s : State) :
    RingLeft s (execThermalLevelUpdate st quarterC avsFail s) :=
  .guard (.ite ((ring_measureTemp ..).trans (ring_setFld ..) |>.trans (ring_seekLevel ..)) (ring_measureTemp ..))

theorem leaves_thermAlert (st : Fin 8) (quarterC : Int) (s : State) :
    RingLeft s (execThermAlert st quarterC s) :=
  .guard (.ite (.refl _) ((ring_measureTemp ..).trans (ring_setFlag ..) |>.trans (ring_raiseEvt ..)
    |>.trans (ring_recordFault ..)))

theorem leaves_sleepEntered (s : State) : RingLeft s (execSleepEntered s) :=
  .always (.ite (ring_modPm .. |>.trans (.foldl (fun _ _ => ring_modTns ..) _ _)) (.refl _))

theorem leaves_wake (src : Fin 7) (s : State) : RingLeft s (execWake src s) :=
  .always (.ite (.refl _) ((Same.ite ((Same.ite (ring_tenseWakes ..) (.refl _)).trans (ring_modPm ..)
    |>.trans (ring_allLost ..) |>.trans (ring_setCause ..)) ((Same.ite (ring_tenseWakes ..)
    (.refl _)).trans (ring_modPm ..) |>.trans (.foldl
    (fun _ _ => ring_domainsReturn ..) _ _))).trans (ring_setFlag ..) |>.trans (ring_raiseEvt ..)))

theorem leaves_ppsIn (s : State) : RingLeft s (execPpsIn s) :=
  .always (.ite (.refl _) ((Same.ite (ring_modPm ..) (.refl _)).trans (ring_now ..) |>.trans (ring_rtcCorrect ..)))

theorem leaves_startupStageDone (rep : StageReport) (s : State) :
    RingLeft s (execStartupStageDone rep s) :=
  .always (.ite (.refl _) (Same.ite (ring_stage1 ..) (Same.ite (ring_stage2 ..) (Same.ite ((Same.foldl
    (fun _ _ => ring_stackPowered ..) _ _).trans (ring_stageComplete ..)) (Same.ite (ring_stage4 ..) (Same.ite
    ((Same.foldl
    (fun _ _ => ring_trainPorts ..) _ _).trans (ring_stageComplete ..)) (Same.ite (ring_stageComplete ..) (Same.ite
    (ring_stage7 ..) (.refl _)))))))))

theorem leaves_calCommitDone (verifyOk : Bool) (s : State) : RingLeft s (execCalCommitDone verifyOk s) :=
  .always (.ite
    (.refl _) (Same.ite ((ring_modCal ..).trans (ring_calResult ..)) ((ring_modCal ..).trans (ring_measExtend ..)
    |>.trans (.foldl (fun _ _ => ring_loadVolts ..) _ _) |>.trans (ring_calResult ..) |>.trans (ring_raiseEvt ..))))

theorem leaves_i3cPrivateRead (s : State) : RingLeft s (execI3cPrivateRead s) := by
  refine .always ?_
  split
  · exact (ring_modBus ..).trans (ring_i3cAnswer ..)
  · exact ring_i3cNack ..

theorem leaves_jukanLaneFailed (st : Fin 8) (p : Fin 3) (g : Fin 4) (s : State) :
    RingLeft s (execJukanLaneFailed st p g s) :=
  .guard (.ite ((ring_drawFree ..).trans (ring_setFlag ..) |>.trans (ring_raiseEvt ..)
    |>.trans (ring_swapRecord ..)) ((ring_drawFree ..).trans (ring_setFlag ..) |>.trans (ring_raiseEvt ..)
    |>.trans (ring_recordFault ..) |>.trans (ring_raiseEvt ..) |>.trans (ring_swapRecord ..)))

/-- The commands that write a record: the wipe, the grant of a request, the scan, and the two that stop the clocks. -/
def WritesRecord : Instr → Prop
  | .wipeComplete | .locketWrite _ _ | .locketScanDone | .powerFail _ | .thermtrip _ _ => True
  | _ => False

/-- Every other command leaves the ring as it was (R446). -/
theorem ring_exec {c : Instr} (hc : ¬WritesRecord c) (s : State) : RingLeft s (exec c s) := by
  cases c with
  | registerWrite r a v => exact .always (ring_regWrite ..)
  | rcRegisterRead r a => exact .always (ring_regRead ..)
  | pairLoRead r a => exact .always (ring_regRead ..)
  | pairLoWrite r a v => exact .always (ring_regWrite ..)
  | blockEnable r p on => exact .guard (ring_asked _ _ _ (ring_ctrlWrite ..))
  | quiesce r p on => exact .guard (ring_asked _ _ _ (ring_ctrlWrite ..))
  | softRst r p => exact .guard (ring_asked _ _ _ (ring_softReset ..))
  | softResetDone p => exact .guard (ring_setFlag ..)
  | evtClr r p v => exact .guard (ring_asked _ _ _ (ring_evtClear ..))
  | descriptorAccept st q => exact .guard (ring_descriptorAccept ..)
  | openStep r st => exact .guard (ring_asked _ _ _ (ring_clpCmd ..))
  | reduceBegin r st => exact .guard (ring_asked _ _ _ (ring_clpCmd ..))
  | arm r st => exact .guard (ring_asked _ _ _ (ring_clpCmd ..))
  | abandon r st => exact .guard (ring_asked _ _ _ (ring_clpCmd ..))
  | openEval r st => exact .guard (ring_asked _ _ _ (ring_clpCmd ..))
  | closeEval r st => exact .guard (ring_asked _ _ _ (ring_clpCmd ..))
  | claspGateOpen => exact .always (ring_claspGate ..)
  | gateTimeout st => exact leaves_gateTimeout ..
  | commitSequenceEnd st => exact leaves_commitSequenceEnd ..
  | voidSequenceEnd st => exact leaves_voidSequenceEnd ..
  | evalEventTaken st => exact .guard (.ite (ring_takeEval ..) (.refl _))
  | tnsRun r st => exact .guard (ring_asked _ _ _ (ring_tnsStart ..))
  | tnsStop r st => exact .guard (ring_asked _ _ _ (ring_tnsHalt ..))
  | beatEdge st t => exact .guard ((ring_beatCrossing ..).trans (ring_confirmTick ..))
  | edgeWindowExpiry st => exact leaves_edgeWindowExpiry ..
  | tick st => exact .guard (ring_tick ..)
  | tnsSlotCfg r st v => exact .guard (ring_asked _ _ _ (ring_slotCfgWrite ..))
  | mxStream st c => exact leaves_mxStream ..
  | mxPassRetire st c => exact leaves_mxPassRetire ..
  | mxLdb st c => exact leaves_mxLdb ..
  | mxDrain st c => exact leaves_drainer _ _ _ _ fun _ _ => ring_drainTile ..
  | mxFree st c => exact leaves_drainer _ _ _ _ fun _ _ => ring_freeTile ..
  | mxCfgWrite r st c v => exact .guard (ring_asked _ _ _ (ring_mxCfgWrite ..))
  | vcRun st c => exact leaves_vcRow _ _ _ _ fun _ => ring_vcRun ..
  | vcSetchain st c => exact leaves_vcRow _ _ _ _ fun _ => ring_setChain ..
  | vcSetvl st c => exact leaves_vcRow _ _ _ _ fun _ => ring_setVl ..
  | vcSave st c => exact leaves_vcRow _ _ _ _ fun _ => ring_vcSave ..
  | vcRestore st c => exact leaves_vcRow _ _ _ _ fun _ => ring_vcRestore ..
  | smpOpen st g => exact leaves_smpOpen ..
  | smpSeeds st g => exact leaves_smpSeeds ..
  | smpHop st g => exact leaves_smpHop ..
  | smpClose st g => exact leaves_smpClose ..
  | smpPrefix st g => exact leaves_smpPrefix ..
  | beadGather st => exact leaves_tabRow _ _ _ _ fun _ => ring_gather ..
  | remoteRowRequest home src table row => exact leaves_remoteRowRequest ..
  | beadSplit st => exact leaves_tabRow _ _ _ _ fun _ => ring_split ..
  | filScatter st => exact leaves_tabRow _ _ _ _ fun _ => ring_scatter ..
  | filContribution home src => exact .guard (.ite (ring_takeContribution ..) (.refl _))
  | filRead st => exact leaves_tabRow _ _ _ _ fun _ => ring_filRead ..
  | filExport st => exact leaves_tabRow _ _ _ _ fun _ => ring_filExport ..
  | filMerge st => exact leaves_tabRow _ _ _ _ fun _ => ring_filMerge ..
  | filCfgWrite r st off v => exact .guard (ring_asked _ _ _ (.ite (ring_writeReg ..) (.refl _)))
  | hotSetRefreshAdmit st => exact leaves_hotSetRefreshAdmit ..
  | hotSetCopyDone st n => exact leaves_hotSetCopyDone ..
  | hotSetDirtyRecopy st n => exact leaves_hotSetDirtyRecopy ..
  | hotSetSwitch st => exact leaves_hotSetSwitch ..
  | hsEnable r st => exact .guard (ring_asked _ _ _ (ring_hsEnWrite ..))
  | hsDisable r st => exact .guard (ring_asked _ _ _ (ring_hsEnWrite ..))
  | keyCommitStep r st => exact .guard (ring_askedKey _ _ (ring_commitStepKey ..))
  | keyCommitEval r st => exact .guard (ring_askedKey _ _ (ring_commitEvalKey ..))
  | keyDerivationDone st => exact .guard (ring_modKeys ..)
  | reseed r st c => exact .guard (ring_asked _ _ _ (ring_requestReseed ..))
  | rngSelfCheck st c err => exact .guard (.ite (.refl _) ((ring_recordFault ..).trans (ring_modClp ..)))
  | sramRepair r st bank => exact .guard (ring_asked _ _ _ (ring_sramRepair ..))
  | sramRepairDone st => exact leaves_sramRepairDone ..
  | sramPatrol st line ce => exact leaves_sramPatrol ..
  | lpddr5xPatrol st dev line linkCe linkUe => exact leaves_lpddr5xPatrol ..
  | lpddr5xRetraining st ch => exact .guard (ring_submit ..)
  | softRepair r st dev => exact .guard (ring_asked _ _ _ (ring_softRepair ..))
  | softRepairDone st dev => exact leaves_softRepairDone ..
  | regionWrite r st v => exact .guard (ring_asked _ _ _ (ring_regionWrite ..))
  | xfrCopy st ch => exact leaves_xfrRow _ _ _ _ fun _ => ring_xfrCopy ..
  | xfrFill st ch => exact leaves_xfrRow _ _ _ _ fun _ => ring_xfrFill ..
  | xfrCompress st ch => exact leaves_xfrRow _ _ _ _ fun _ => ring_xfrCompress ..
  | xfrExpand st ch => exact leaves_xfrRow _ _ _ _ fun _ => ring_xfrExpand ..
  | xfrToRegion st ch => exact leaves_xfrRow _ _ _ _ fun _ => ring_xfrToRegion ..
  | xfrFromRegion st ch => exact leaves_xfrRow _ _ _ _ fun _ => ring_xfrFromRegion ..
  | xfrTilecopy st ch => exact leaves_xfrRow _ _ _ _ fun _ => ring_xfrTilecopy ..
  | add st q => exact leaves_issue _ _ _ _ fun _ => ring_aluBody ..
  | sub st q => exact leaves_issue _ _ _ _ fun _ => ring_aluBody ..
  | and st q => exact leaves_issue _ _ _ _ fun _ => ring_aluBody ..
  | or st q => exact leaves_issue _ _ _ _ fun _ => ring_aluBody ..
  | xor st q => exact leaves_issue _ _ _ _ fun _ => ring_aluBody ..
  | shl st q => exact leaves_issue _ _ _ _ fun _ => ring_aluBody ..
  | shr st q => exact leaves_issue _ _ _ _ fun _ => ring_aluBody ..
  | sar st q => exact leaves_issue _ _ _ _ fun _ => ring_aluBody ..
  | mul st q => exact leaves_issue _ _ _ _ fun _ => ring_aluBody ..
  | movhi st q => exact leaves_issue _ _ _ _ fun _ => ring_movhiBody ..
  | cmp st q => exact leaves_issue _ _ _ _ fun _ => ring_cmpBody ..
  | pset st q => exact leaves_issue _ _ _ _ fun _ => ring_psetBody ..
  | br st q => exact leaves_br ..
  | call st q => exact leaves_issue _ _ _ _ fun _ => ring_callBody ..
  | jmp st q => exact leaves_jmp ..
  | halt st q => exact leaves_issue _ _ _ _ fun _ => ring_haltBody ..
  | trap st q => exact leaves_trap ..
  | ldd st q => exact leaves_ldd ..
  | std st q => exact leaves_std ..
  | ldg st q => exact leaves_issue _ _ _ _ fun _ => ring_ldgBody ..
  | ldgReturn st q => exact .guard (ring_ldgReturn ..)
  | stg st q => exact leaves_issue _ _ _ _ fun _ => ring_stgBody ..
  | rdr st q => exact leaves_issue _ _ _ _ fun _ => ring_rdrBody ..
  | rdrReturn st q => exact .guard (ring_rdrReturn ..)
  | wrr st q => exact leaves_issue _ _ _ _ fun _ => ring_wrrBody ..
  | dwr st q => exact leaves_issue _ _ _ _ fun _ => ring_dwrBody ..
  | dins st q => exact leaves_issue _ _ _ _ fun _ => ring_dinsBody ..
  | dld st q => exact leaves_dld ..
  | dst st q => exact leaves_dst ..
  | push st q => exact leaves_issue _ _ _ _ fun _ => ring_pushBody ..
  | pushQueueRoom st q => exact leaves_pushQueueRoom ..
  | waitq st q => exact leaves_waitq ..
  | waitqDone st q => exact leaves_waitqDone ..
  | fence st q => exact leaves_fence ..
  | fenceDone st q => exact leaves_fenceDone ..
  | waitdb st q => exact leaves_waitdb ..
  | waitdbDone st q => exact leaves_waitdbDone ..
  | time st q => exact leaves_issue _ _ _ _ fun _ => ring_timeBody ..
  | waitpos st q => exact leaves_waitpos ..
  | waitposDone st q => exact leaves_waitposDone ..
  | nop st q => exact leaves_nop ..
  | seqWatchdog st q => exact .guard (.ite ((ring_seqFault ..).trans (ring_raiseEvt ..)) (.refl _))
  | seqLoad r st q => exact .guard (ring_asked _ _ _ (ring_seqLoad ..))
  | seqLoadDone st q => exact .guard (.ite (ring_loadDone ..) (.refl _))
  | seqStart r st q => exact .guard (ring_asked _ _ _ (ring_seqStart ..))
  | seqStop r st q => exact .guard (ring_asked _ _ _ (ring_seqStop ..))
  | seqResume r st q => exact .guard (ring_asked _ _ _ (ring_seqResume ..))
  | seqSave r st q withData => exact .guard (ring_asked _ _ _ (ring_seqSave ..))
  | seqRestore r st q => exact .guard (ring_asked _ _ _ (ring_seqRestore ..))
  | seqCtxDone st q => exact leaves_seqCtxDone ..
  | seqClear r st q => exact .guard (ring_asked _ _ _ (ring_seqClear ..))
  | rebind r st v => exact .guard (ring_asked _ _ _ (ring_rebindGo ..))
  | rebindScrub st res => exact leaves_rebindScrub ..
  | rebindHandover st res => exact leaves_rebindHandover ..
  | rebindDone st res => exact leaves_rebindDone ..
  | rebindForced st res => exact leaves_rebindForced ..
  | arbSubmit r st v => exact .guard (ring_asked _ _ _ (ring_arbSubmitWrite ..))
  | activitySubmit st sub act scope => exact .guard (ring_submitOrDie ..)
  | activityAdmit st n => exact leaves_activityAdmit ..
  | activityEnd st act scope => exact leaves_activityEnd ..
  | queueTimeout st n => exact leaves_queueTimeout ..
  | swapCutover st act scope => exact leaves_swapCutover ..
  | swapCopy st act scope spareOk => exact .guard ((ring_swapCopied ..).trans (ring_applyDomains ..))
  | swapComplete st act scope => exact .guard ((ring_swapCompleted ..).trans (ring_applyDomains ..))
  | idleCoreTest st phys sumOk => exact leaves_idleCoreTest ..
  | heartbeatCheck st => exact leaves_heartbeatCheck ..
  | pairingCheck st answerOk => exact leaves_pairingCheck ..
  | linkUp st port link => exact .guard (ring_linkRise ..)
  | linkDown st port link => exact .guard (ring_linkDrop ..)
  | netCfgWrite r st port v => exact .guard (ring_asked _ _ _ (ring_netCfgWrite ..))
  | pauseFrame st port link pfc => exact leaves_pauseFrame ..
  | hsInit st port link body rnd => exact .guard (ring_hsInit ..)
  | hsResp st ctx body => exact leaves_hsResp ..
  | hsReject st ctx status => exact leaves_hsReject ..
  | data st port link p ce => exact leaves_data ..
  | ack st p sampleNs => exact leaves_ack ..
  | close st p => exact leaves_close ..
  | closeAck st p => exact leaves_closeAck ..
  | reset st ctx => exact .guard (.ite (.refl _) (ring_modSess ..))
  | hsTimeout st ctx => exact leaves_hsTimeout ..
  | rtoExpiry st ctx seq => exact leaves_rtoExpiry ..
  | failedTimeout st ctx => exact .guard (.ite (ring_sessClosed ..) (.refl _))
  | ackDelay st ctx => exact .guard (.ite (ring_sendAck ..) (.refl _))
  | ccPeriod st ctx => exact leaves_ccPeriod ..
  | kxtOpenGo r st => exact .guard (ring_asked _ _ _ (ring_kxtOpenGo ..))
  | regRd st ctx op => exact .guard (ring_request _ _ _ _ _ _ fun _ _ => ring_regRdBody ..)
  | regWr st ctx op => exact .guard (ring_request _ _ _ _ _ _ fun _ _ => ring_regWrBody ..)
  | memWr st ctx op => exact .guard (ring_request _ _ _ _ _ _ fun _ _ => ring_memWrBody ..)
  | memRd st ctx op => exact .guard (ring_request _ _ _ _ _ _ fun _ _ => ring_memRdBody ..)
  | planLoad st ctx op => exact .guard (ring_request _ _ _ _ _ _ fun _ _ => ring_planLoadBody ..)
  | planStart st ctx op => exact .guard (ring_request _ _ _ _ _ _ fun _ _ => ring_planStartBody ..)
  | mbxWr st ctx op => exact .guard (ring_request _ _ _ _ _ _ fun _ _ => ring_mbxWrBody ..)
  | mbxWrReply st n => exact .guard (ring_mbxWrReply ..)
  | doorbell st ctx op => exact .guard (ring_request _ _ _ _ _ _ fun _ _ => ring_doorbellBody ..)
  | kxtNop st ctx op => exact .guard (ring_request _ _ _ _ _ _ fun _ _ => .refl _)
  | mbxEventSend st page => exact .guard (ring_mbxEventSend ..)
  | checkpointStreamStart st => exact leaves_checkpointStreamStart ..
  | ckptAck st ctx step status => exact .guard (.ite (ring_ckptAck ..) (.refl _))
  | beat ctx f now => exact .always (.ite (ring_beatFrame ..) (.refl _))
  | chanReady r st v => exact .guard (ring_asked _ _ _ (ring_chanReadyWrite ..))
  | collStartSegment st ctx g => exact .guard (.ite (ring_startSegment ..) (.refl _))
  | collReduceSegment st ctx g => exact .guard (.ite (ring_reduceSegment ..) (.refl _))
  | collGatherSegment st ctx g => exact .guard (.ite (ring_gatherSegment ..) (.refl _))
  | collVoteSegment st ctx g => exact .guard (.ite (ring_voteSegment ..) (.refl _))
  | collTimeout st c => exact .guard (.ite (ring_chanFail ..) (.refl _))
  | jkSend st port => exact leaves_jkRow _ _ _ _ fun _ => ring_jkSend ..
  | jkReduceLp st port => exact leaves_jkRow _ _ _ _ fun _ => ring_jkReduce ..
  | jkSignal st port => exact leaves_jkRow _ _ _ _ fun _ => ring_jkSignal ..
  | linkError st port => exact leaves_linkError ..
  | mbxSend r st mb v => exact .guard (ring_mboxSend ..)
  | mbxReceive r st mb => exact .guard (.ite ((ring_mboxRead ..).trans (ring_send ..)) (.refl _))
  | mbxTimeout st mb => exact leaves_mbxTimeout ..
  | mbxDbSet r st mb v => exact .guard (ring_asked _ _ _ (ring_ringBits ..))
  | identity r st => exact .guard (ring_asked _ _ _ (ring_bzlGo ..))
  | attest r st => exact .guard (ring_asked _ _ _ (ring_bzlGo ..))
  | custody r st => exact .guard (ring_asked _ _ _ (ring_bzlGo ..))
  | wipeComplete => exact absurd trivial hc
  | config r st => exact .guard (ring_asked _ _ _ (ring_bzlGo ..))
  | sealEk r st => exact .guard (ring_asked _ _ _ (ring_bzlGo ..))
  | sealKey r st => exact .guard (ring_asked _ _ _ (ring_bzlGo ..))
  | sealDrop r st => exact .guard (ring_asked _ _ _ (ring_bzlGo ..))
  | debug r st => exact .guard (ring_asked _ _ _ (ring_bzlGo ..))
  | fwUpdate r st => exact .guard (ring_asked _ _ _ (ring_bzlGo ..))
  | locketWrite aged verifyOk => exact absurd trivial hc
  | locketScanDone => exact absurd trivial hc
  | locketCursorWrite r win lo => exact .always (ring_asked _ _ _ (ring_cursorWrite ..))
  | locketWindowLoadDone win eccOk => exact .always (ring_windowLoaded ..)
  | locketWin15Read r win => exact leaves_locketWin15Read ..
  | locketSnap r win => exact .always (ring_asked _ _ _ (ring_snap ..))
  | lktFwGo r => exact .always (ring_asked _ _ _ (ring_fwGo ..))
  | restoreBlock word => exact .always (ring_restore ..)
  | powerOnReset => exact .always (ring_powerOn ..)
  | resetN => exact leaves_resetN ..
  | powerFail undervoltage => exact absurd trivial hc
  | powerFailCleared => exact .always (.ite ((ring_setFld ..).trans (ring_moduleReset ..)) (ring_setFld ..))
  | pwrCtlReset r st => exact .guard (ring_asked _ _ _ (.ite (.refl _) (ring_ctlReset ..)))
  | refclkLoss eth => exact leaves_refclkLoss ..
  | refclkReturn => exact leaves_refclkReturn ..
  | pllLock st computeDie => exact .guard (.ite (.refl _) ((ring_recordFault ..).trans (ring_ctlReset ..)))
  | pwrDomReq r st v => exact .guard (ring_asked _ _ _ (ring_domRequest ..))
  | domainPowerUp dom => exact .guard_or (ring_moduleDomain ..) (ring_upDone ..)
  | domainFailed dom => exact leaves_domainFailed ..
  | powerCapWindow tenthWatts avsFail => exact leaves_powerCapWindow ..
  | levelRaiseSwitch st avsFail => exact leaves_levelRaiseSwitch ..
  | thermalLevelUpdate st quarterC avsFail => exact leaves_thermalLevelUpdate ..
  | thermAlert st quarterC => exact leaves_thermAlert ..
  | thermtrip st quarterC => exact absurd trivial hc
  | pwrSleep r v => exact .always (ring_asked _ _ _ (ring_sleepGo ..))
  | sleepEntered => exact leaves_sleepEntered ..
  | wake src => exact leaves_wake ..
  | ppsIn => exact leaves_ppsIn ..
  | rtcSet r lo => exact .always (ring_asked _ _ _ (ring_rtcSet ..))
  | rtcDisciplineTimeout => exact .always (ring_setFlag ..)
  | startupStageDone rep => exact leaves_startupStageDone ..
  | calCopy r => exact .always (ring_asked _ _ _ (ring_calCopy ..))
  | calCommit r => exact .always (ring_asked _ _ _ (ring_calCommit ..))
  | calCommitDone verifyOk => exact leaves_calCommitDone ..
  | calDiscard r => exact .always (ring_asked _ _ _ (ring_calDiscard ..))
  | i3cPrivateWrite bytes => exact .always (ring_i3cWrite ..)
  | i3cPrivateRead => exact leaves_i3cPrivateRead ..
  | resetNRelease => exact .always (ring_modPm ..)
  | ethRefclkReturn => exact .always (ring_modPm ..)
  | domainPowerDown dom => exact .guard_or (ring_moduleDomain ..) (ring_downDone ..)
  | thermAlertClear => exact .always (ring_setFlag ..)
  | sleepBeatCount st => exact .guard (.ite (ring_modTns ..) (.refl _))
  | jukanLaneFailed st port group => exact leaves_jukanLaneFailed ..
  | commonCommandCode ccc arg => exact .always (ring_commonCode ..)
  | icmpEcho st port link v6 dst body => exact .guard (.ite (ring_send ..) (.refl _))
  | neighbourDiscovery st port link v6 target => exact .guard (.ite (ring_send ..) (.refl _))
  | ptpEventMessage st port link offset => exact .guard (.ite (ring_rtcCorrect ..) (.refl _))
  | droppedFrame st port link => exact .guard (.ite (ring_countSat ..) (.refl _))

end Sys2Proof.Laws
end

section
/-! Records stay until newer ones replace them (R446), and O53. -/

namespace Sys2Proof.Laws

open Machine Safety

/-! ### A record that is stored -/

/-- Every slot of the ring holds what it held, but for that of the newest record. -/
def OldRecordsStay (s t : State) : Prop :=
  ∀ n : Nat, t.mod.lkt.slot n = s.mod.lkt.slot n ∨ n % ringSlots = t.mod.lkt.last.toNat % ringSlots

theorem oldRecordsStay_of_ring {s t : State} (h : Same ring s t) : OldRecordsStay s t := fun n => .inl (slot_of_ring h n)

/-- The records before, and what is shown after, do not matter. -/
theorem OldRecordsStay.congr {s s' t t' : State} (h : OldRecordsStay s' t) (hs : Same ring s s') (ht : Same records t t') :
    OldRecordsStay s t' := fun n => by
  have hslot : t'.mod.lkt.slot n = t.mod.lkt.slot n := slot_of_ring (congrArg Prod.fst ht) n
  have hlast : t'.mod.lkt.last = t.mod.lkt.last := congrArg (fun r => r.2.1) ht
  rw [hslot, hlast, ← slot_of_ring hs n]
  exact h n

theorem oldRecordsStay_storeRecord (s : State) (r : RecReq) : OldRecordsStay s (storeRecord s r) := fun n => by
  rw [lkt_storeRecord]
  exact (em (n % ringSlots = s.mod.lkt.next.toNat % ringSlots)).symm.imp_left (slot_recordStored_other s r)

theorem oldRecordsStay_recordFirst (s : State) (src : Source) (home : Fin 8) (code : Nat) (payload : List Byte) :
    OldRecordsStay s (recordFirst s src home code payload) := by
  by_cases h : locketReady s = true
  · rw [recordFirst_of_ready _ _ _ _ _ h]
    exact (oldRecordsStay_storeRecord _ _).congr (ring_now s) (.refl _)
  · rw [recordFirst, if_neg h]
    exact oldRecordsStay_of_ring (.refl s)

/-! ### The commands that write a record -/

theorem oldRecordsStay_locketWrite {aged verifyOk : Bool} {s t : State} (h : exec (.locketWrite aged verifyOk) s = .next t) :
    OldRecordsStay s t := by
  have hremap : ∀ (u : State) (page : Nat), Same records u (remapPage u page) := fun u page =>
    sameStored_remapPage u page unlogged_records fun _ _ _ _ => rfl
  obtain rfl := Host.Outcome.next.inj h
  split
  · exact oldRecordsStay_of_ring (.refl s)
  · split
    · dsimp only
      split
      · exact oldRecordsStay_storeRecord _ _
      · exact (oldRecordsStay_storeRecord _ _).congr (.refl s) (hremap ..)
    · exact oldRecordsStay_of_ring (.refl s)

theorem oldRecordsStay_locketScanDone {s t : State} (h : exec .locketScanDone s = .next t) : OldRecordsStay s t := by
  obtain rfl : scanDone s = t := Host.Outcome.next.inj h
  by_cases hs : s.mod.lkt.scanned = true ∨ s.domOn 0 7 = false
  · rw [scanDone, if_pos hs]
    exact oldRecordsStay_of_ring (.refl s)
  · obtain ⟨hscan, hdom⟩ := not_or.1 hs
    rw [scanDone_of_unscanned s (Bool.eq_false_iff.2 hscan) (Bool.not_eq_false _ ▸ hdom)]
    exact (oldRecordsStay_storeRecord (scanned s) (startRequest s)).congr rfl (.refl _)

theorem oldRecordsStay_powerFail {under : Bool} {s t : State} (h : exec (.powerFail under) s = .next t) : OldRecordsStay s t := by
  rw [exec_powerFail] at h
  obtain rfl := Host.Outcome.next.inj h
  split
  · exact oldRecordsStay_of_ring rfl
  · exact (oldRecordsStay_recordFirst (stopped s under) _ _ _ _).congr rfl (.refl _)

theorem unlost_records (i : Fin 8) : Unlost i records :=
  unlost_mod (fun m => (m.lkt.ring, m.lkt.last, m.lkt.next)) (fun _ _ => rfl) (fun _ => rfl) i

theorem oldRecordsStay_thermTrip (s : State) (st : Fin 8) (quarterC : Int) : OldRecordsStay s (thermTrip s st quarterC) := by
  have hshown : Same ring s (pageFault (tripped s st quarterC) (pwrPage st) 0x0B 0x02 (tempBits quarterC) 0) :=
    ((ring_measureTemp s st quarterC).trans (ring_setFlag ..) |>.trans (ring_modPm ..)).trans (ring_pageFault ..)
  have hreg : ∀ (u : State) (p : Page) (off : Nat) (w : Word), Same records u (u.setReg p off w) := fun _ _ _ _ => rfl
  have hdown : ∀ (u : State) (i : Fin 8), Same records u (tripDown u i) := fun u i =>
    ((unlost_records i).stackLost u).trans (hreg (stackLost u i) (pwrPage i) 0x044 0)
  have hfinal : ∀ u : State, Same records u ((u.stacksIn.foldl tripDown u).setFlag pwrmPage 0x044 10 true) := fun u =>
    (Same.foldl hdown u.stacksIn u).trans (hreg ..)
  have hrec : OldRecordsStay (pageFault (tripped s st quarterC) (pwrPage st) 0x0B 0x02 (tempBits quarterC) 0)
      (tripRecorded s st quarterC) := oldRecordsStay_recordFirst _ _ _ _ _
  rw [thermTrip_eq]
  exact hrec.congr hshown (hfinal _)

theorem oldRecordsStay_thermtrip {st : Fin 8} {quarterC : Int} {s t : State} (h : exec (.thermtrip st quarterC) s = .next t) :
    OldRecordsStay s t := by
  change (if s.has st then .next _ else .fault _) = Host.Outcome.next t at h
  split at h
  · obtain rfl := Host.Outcome.next.inj h
    split
    · exact oldRecordsStay_of_ring (.refl s)
    · exact oldRecordsStay_thermTrip _ _ _
  · cases h

theorem oldRecordsStay_exec {c : Instr} {s t : State} (hc : c ≠ .wipeComplete) (h : exec c s = .next t) : OldRecordsStay s t := by
  by_cases hw : WritesRecord c
  · cases c with
    | locketWrite aged verifyOk => exact oldRecordsStay_locketWrite h
    | locketScanDone => exact oldRecordsStay_locketScanDone h
    | powerFail under => exact oldRecordsStay_powerFail h
    | thermtrip st quarterC => exact oldRecordsStay_thermtrip h
    | wipeComplete => exact absurd rfl hc
    | _ => exact hw.elim
  · exact oldRecordsStay_of_ring ((ring_exec hw s).of_next t h)

end Sys2Proof.Laws

open Sys2Proof Machine Safety Laws

/-- Settles O53: `ring_exec` for every command that writes no record, and for the four beside the wipe that do, one record stored by
`storeRecord`, which is the newest. -/
theorem recordsStay : Obligations.RecordsStay := by
  unfold Obligations.RecordsStay
  intro c s t hc h
  exact oldRecordsStay_exec hc h

end
